-- ==== Sys2Proof/Word.lean ====
section
/-!
DEFINITION. Word.lean: the words, bytes and keyed lists of the model.

A keyed list is the model's one shape for sparse data (registers, memory bytes, queues, streams,
lines): pairs of a key and a value, the keys strictly rising, no entry equal to what an unlisted key
reads as. Equal contents are therefore equal lists.
-/

namespace Sys2Proof

abbrev Byte := BitVec 8
abbrev Half := BitVec 16
abbrev Word := BitVec 32
abbrev Wide := BitVec 64

/-- Sparse data by key, in the canonical form `Sparse.wf`. (DESIGN CHOICE: log entry 5) -/
abbrev Sparse (α : Type) := List (Nat × α)

/-- The value at key `k`, `d` where the list has no entry. -/
def Sparse.get {α : Type} (d : α) : Sparse α → Nat → α
  | [], _ => d
  | (j, v) :: m, k => if j = k then v else Sparse.get d m k

/-- Remove the entry at `k`. -/
def Sparse.drop {α : Type} : Sparse α → Nat → Sparse α
  | [], _ => []
  | (j, v) :: m, k => if j = k then Sparse.drop m k else (j, v) :: Sparse.drop m k

/-- Put `v` at `k`, in order. -/
def Sparse.put {α : Type} : Sparse α → Nat → α → Sparse α
  | [], k, v => [(k, v)]
  | (j, w) :: m, k, v =>
    if j = k then (k, v) :: m else if k < j then (k, v) :: (j, w) :: m else (j, w) :: Sparse.put m k v

/-- Write `v` at `k`; the value an unlisted key reads as removes the entry. -/
def Sparse.set {α : Type} [DecidableEq α] (d : α) (m : Sparse α) (k : Nat) (v : α) : Sparse α :=
  if v = d then Sparse.drop m k else Sparse.put m k v

/-- Change the value at `k` by `f`. -/
def Sparse.modify {α : Type} [DecidableEq α] (d : α) (m : Sparse α) (k : Nat) (f : α → α) : Sparse α :=
  Sparse.set d m k (f (Sparse.get d m k))

/-- Change every listed value by `f`. -/
def Sparse.mapVals {α : Type} [DecidableEq α] (d : α) (f : α → α) : Sparse α → Sparse α
  | [] => []
  | (j, v) :: m => if f v = d then Sparse.mapVals d f m else (j, f v) :: Sparse.mapVals d f m

/-- Every key of `m` is above `lo`, keys rise strictly, and no entry is the value `d`. -/
def Sparse.above {α : Type} [DecidableEq α] (d : α) (lo : Nat) : Sparse α → Bool
  | [] => true
  | (j, v) :: m => decide (lo < j) && decide (v ≠ d) && Sparse.above d j m

/-- The canonical form: keys strictly rising, no entry equal to `d`. -/
def Sparse.wf {α : Type} [DecidableEq α] (d : α) : Sparse α → Bool
  | [] => true
  | (j, v) :: m => decide (v ≠ d) && Sparse.above d j m

/-- The bits `hi` down to `lo` of the number `w` (R8). -/
def bits (w hi lo : Nat) : Nat := (w >>> lo) % 2 ^ (hi + 1 - lo)

/-- `w` with the bits `hi` down to `lo` replaced by the low bits of `v`. -/
def setBits (w hi lo v : Nat) : Nat :=
  w / 2 ^ (hi + 1) * 2 ^ (hi + 1) + (v % 2 ^ (hi + 1 - lo)) * 2 ^ lo + w % 2 ^ lo

/-- The number a little-endian list of bytes spells (R9). -/
def ofBytes : List Byte → Nat
  | [] => 0
  | b :: bs => b.toNat + 256 * ofBytes bs

/-- The `n` little-endian bytes of `w` (R9). -/
def toBytes : Nat → Nat → List Byte
  | 0, _ => []
  | n + 1, w => BitVec.ofNat 8 w :: toBytes n (w / 256)

/-- The number `v` of `n` bits read as two's complement. -/
def signed (n v : Nat) : Int :=
  if v % 2 ^ n < 2 ^ (n - 1) then ((v % 2 ^ n : Nat) : Int) else ((v % 2 ^ n : Nat) : Int) - ((2 ^ n : Nat) : Int)

/-- The `n` low bits of `v` in two's complement. -/
def unsigned (n : Nat) (v : Int) : Nat := (v % ((2 ^ n : Nat) : Int)).toNat

end Sys2Proof
end

