-- ==== Sys2Proof/Syntax.lean ====
section
/-!
DEFINITION. Syntax.lean: the commands of the VH-4816 block, one constructor for each row of
spec/opcode_table.json, in the table's order. The table gives the rows no bits and no fields, so the
operands here are the model's own: what the spec's rule of that row says the event carries.
-/

namespace Sys2Proof

/-- A motif ID, y × 8 + x (R11). -/
abbrev Motif := Fin 48
/-- A stack number (R24). -/
abbrev Stack := Fin 16
/-- A mesh ID (R21): 0 to 47 motifs, 48 the yoke, 56 and 57 the guests. -/
abbrev Mesh := Fin 64
/-- A thread group of a motif: needle × 16 + slot (R189). -/
abbrev GroupSlot := Fin 128
/-- A mesh seam: 42 west-east, 40 south-north, 6 of the yoke, 2 of the guests (R23). -/
abbrev SeamIx := Fin 90
/-- A guest position, G0 or G1. -/
abbrev Guest := Fin 2

/-- The GAUGE_REPORT payload (R78). -/
structure GaugeReport where
  src : Mesh
  tjMax : Byte
  backstop : Bool
  edgeMissed : Bool
  admitHalt : Bool
  row : BitVec 48
  minStep : BitVec 5
  used : Word
  resUsed : Word
  forecastBe : Word
  forecastRes : Word
  stack : Word
  deriving DecidableEq, Repr

/-- The two units of the array that finish descriptors on their own (R136). -/
inductive ArrayUnit where
  | product | drain
  deriving DecidableEq, Repr

/-- The access paths that have a read latch of their own (R602). -/
inductive AccessPath where
  | bar0 | nodeCore | jtag | chain
  deriving DecidableEq, Repr

/-- A line of 128 bytes and the poison bit of each of its sixteen 8-byte words. -/
structure LineData where
  bytes : BitVec 1024
  poison : BitVec 16
  deriving DecidableEq, Repr

/-- The state of a line in a caching agent (R283). -/
inductive Moesi where
  | m | o | e | s | i
  deriving DecidableEq, Repr

/-- The operations of an atomic request: the A extension's AMOs, VCAS and VAFADD.S (R211). -/
inductive AtomFn where
  | swap | add | xor | and | or | min | max | minu | maxu | cas | fadd
  deriving DecidableEq, Repr

/-- One address of an atomic request: its offset in the line, and the operand and compare value of each thread
that names it, in ascending thread number (R211 to R213). -/
structure AtomAddr where
  off : BitVec 7
  args : List (BitVec 64 × BitVec 64)
  deriving DecidableEq, Repr

/-- The operations of one atomic request on one line, in ascending address order (R215); `wide` for 8 bytes. -/
structure FarAtomic where
  fn : AtomFn
  wide : Bool
  addrs : List AtomAddr
  deriving DecidableEq, Repr

/-- Why a home refuses a request (R292). -/
inductive NackCause where
  | lineBusy | setFull | reservedAhead | atomFull
  deriving DecidableEq, Repr

/-- A request that a motif's inbound port, a home or the yoke performs for another die (R277, R375); `poison` numbers the
words of a write that are poisoned, the first word 0. -/
inductive MemReq where
  | read (pa : BitVec 64) (len : BitVec 13)
  | write (pa : BitVec 64) (data : List (BitVec 8)) (poison : List Nat)
  /-- An atomic of one address (R449): the operand and compare value of each thread for SWAP and CAS, else one operand combined under
  R212. -/
  | atomic (pa : BitVec 64) (fn : AtomFn) (wide : Bool) (ops : List (BitVec 64 × BitVec 64))
  deriving DecidableEq, Repr

/-- The data of a response (R285, R375): its bytes, and which of their words are poisoned, the first word 0. -/
structure MemData where
  bytes : List (BitVec 8)
  poison : List Nat
  deriving DecidableEq, Repr

/-- How a read of host memory ends (R421, R422): its data, with EP on them or not, or an error. -/
inductive HostReadOutcome where
  | good | poisoned | error
  deriving DecidableEq, Repr

/-- The published values of R269. -/
inductive PubKind where
  | tc | rc | ac | rest | h | fu
  deriving DecidableEq, Repr

/-- A home's request for one burst of a pseudo-channel (R314, R315): a read, or a write of the bytes of a mask. -/
inductive BurstReq where
  | read (pa : BitVec 40) (wrong : BitVec 320)
  | write (pa : BitVec 40) (data : BitVec 256) (mask : BitVec 32)
  deriving DecidableEq, Repr

/-- A chain frame that a hop has not acknowledged in time (R384): its SEQ, and whether the hop had a copy with a wrong check. -/
structure LostFrame where
  seq : BitVec 8
  bad : Bool
  deriving DecidableEq, Repr

/-- A frame that arrives at a fabric port (R437, R438): whether its FCS is right, its header, payload and poison mask. -/
structure Frame where
  port : Fin 4
  fcsOk : Bool
  header : BitVec 256
  payload : List (BitVec 8)
  mask : List (BitVec 8)
  deriving DecidableEq, Repr

/-- An access that reaches the fabric unit (R445): the asker's number and its request. -/
structure RemoteReq where
  ask : Nat
  req : MemReq
  deriving DecidableEq, Repr

/-- The state a POS_SET gives a position (R32). -/
inductive PosState where
  | enabled | spare | memOnly | recovering | dropped
  deriving DecidableEq, Repr

/-- What a SEQ_CMD asks of a die (R385, R547, R390, R392). -/
inductive SeqCmd where
  | drain
  | resetUnits
  | retrain (seam : BitVec 3)
  | isolate (seam : BitVec 3)
  deriving DecidableEq, Repr

/-- Operand sizes of a host CAS (R410). -/
inductive CasSize where
  | w32 | w64 | w128
  deriving DecidableEq, Repr

/-- What a host-side reset is (R426). -/
inductive HostResetCause where
  | perst | linkDown | hotReset | flr
  deriving DecidableEq, Repr

/-- The mailbox's three channels (R485): BAR0, and type 0x7E over the PCIe and the management binding. -/
inductive Channel where
  | bar0 | mctpPcie | mctpMgmt
  deriving DecidableEq, Repr

/-- The MCTP bindings (R479): PCIe, and SMBus or I3C on the management contacts. -/
inductive Binding where
  | pcie | mgmt
  deriving DecidableEq, Repr

/-- A register of a node core (R462): x, f, a vector register of 256 bits, or a CSR. -/
inductive HartReg where
  | x (r : BitVec 5)
  | f (r : BitVec 5)
  | v (r : BitVec 5)
  | csr (n : BitVec 12)
  deriving DecidableEq, Repr

/-- One access that a node core's instruction makes to memory: sizes are log2 bytes, and `at'` is the byte of a vector register
that a load begins at. -/
inductive HartMem where
  | load (rd : HartReg) (at' : BitVec 5) (size : BitVec 2) (signed : Bool)
  | store (size : BitVec 2) (v : BitVec 64)
  | amo (rd : BitVec 5) (fn : AtomFn) (wide : Bool) (v compare : BitVec 64)
  | lr (rd : BitVec 5) (wide : Bool)
  | sc (rd : BitVec 5) (wide : Bool) (v : BitVec 64)
  /-- Zicboz and Zicbom on the block of 128 bytes (R463). -/
  | zero
  | clean
  deriving DecidableEq, Repr

/-- The binary formats of the node cores' floating point: 16, 32 and 64 bits. -/
inductive FpWidth where
  | h | s | d
  deriving DecidableEq, Repr

def FpWidth.bytes : FpWidth → Nat
  | .h => 2
  | .s => 4
  | .d => 8

/-- An operand of a floating-point operation: an f register, an element of a vector register by its first byte, an x register, a
constant that the instruction names, or the result of the operation before it (a reduction's running sum). -/
inductive FpSrc where
  | f (r : BitVec 5)
  | v (r at' : BitVec 5)
  | x (r : BitVec 5)
  | lit (code : BitVec 64)
  | prev
  deriving DecidableEq, Repr

/-- Where a result goes: an f register, an x register, an element or a mask bit of a vector register, or only to the next operation. -/
inductive FpDst where
  | f (r : BitVec 5)
  | x (r : BitVec 5)
  | v (r at' : BitVec 5)
  | mask (r : BitVec 5) (bit : BitVec 8)
  | prev
  deriving DecidableEq, Repr

/-- A floating-point operation of the node cores. `fma` negates its product or its addend; `min` and `max` prefer a number to a NaN
unless `nan`; `sgn` injects a sign: 0 the second operand's, 1 its complement, 2 the exclusive or; a comparison is quiet or signals;
`round` rounds to an integer value and may report inexactness; `cvt` changes the format; `toInt` may truncate. -/
inductive FpOp where
  | add | sub | mul | div | sqrt
  | fma (negProduct negAddend : Bool)
  | min (nan : Bool)
  | max (nan : Bool)
  | sgn (k : BitVec 2)
  | eq
  | lt (quiet : Bool)
  | le (quiet : Bool)
  | cls
  | round (inexact : Bool)
  | cvt
  | fromInt (signed : Bool) (size : BitVec 2)
  | toInt (signed : Bool) (size : BitVec 2) (truncate : Bool)
  | move
  deriving DecidableEq, Repr

/-- One operation: its operands' format and its result's, which differ where the instruction widens, narrows or converts. -/
structure FpElem where
  op : FpOp
  src : FpWidth
  res : FpWidth
  a : FpSrc
  b : FpSrc
  c : FpSrc
  dst : FpDst
  deriving DecidableEq, Repr

/-- What an RVA23 instruction does (R462): integer results, floating-point operations with the instruction's rounding-mode field where
it has one (R91, R92, R99), its accesses by virtual and physical address, a CSR instruction with
the value it writes, a fence, a claim of an interrupt from a file (R474), an exception or interrupt that its profile raises, or
a return from one. The profile, which the spec names and does not set out, gives the figures. -/
inductive HartAct where
  | compute (ws : List (HartReg × BitVec 256)) (next : Option (BitVec 64))
  | float (rm : Option (BitVec 3)) (ops : List FpElem)
  | access (xs : List (BitVec 64 × BitVec 64 × HartMem))
  | csr (rd : BitVec 5) (n : BitVec 12) (v : Option (BitVec 64))
  | fence
  | claim (rd : BitVec 5) (file : BitVec 3) (id : BitVec 11)
  | raise (interrupt : Bool) (cause : BitVec 6) (tval : BitVec 64)
  | ret (machine : Bool)
  deriving DecidableEq, Repr

/-- What cast-on meets in the parts that it trains and tests (R518, R519, R522). -/
structure CastOnReport where
  /-- The secure island's memories, and at warm cast-on the always-on memory, pass their checks (R521, R527). -/
  island : Bool
  alwaysOn : Bool
  /-- The yoke's own self-test passes (R521). -/
  yoke : Bool
  /-- Motifs that fail self-test, and stacks and pseudo-channels that fail training or the scrub. -/
  motifs : BitVec 48
  stackFails : BitVec 16
  channels : List (BitVec 10)
  /-- Seams with fewer than 8 working sideband lanes or modules: lanes, and the modules both sides trained. -/
  seams : List (SeamIx × BitVec 4 × BitVec 8)
  /-- A step, 1 to 6, that has not ended by its budget. -/
  late : Option (BitVec 3)
  deriving DecidableEq, Repr

/-- The loop-back control blocks (R556). -/
inductive LoopBlock where
  | px
  | fb (p : Fin 4)
  | sm (i : SeamIx)
  | hb (s : Stack)
  deriving DecidableEq, Repr

/-- Names a fault on its way to the collector (R365): the agent's kind and which one of it, its ASID and page. -/
structure AgentFault where
  engine : BitVec 3
  id : BitVec 64
  asid : BitVec 12
  page : BitVec 36
  deriving DecidableEq, Repr

/-- The commands, in the table's order. -/
inductive Instr where
  /-- ROW_TIMER_FIRE (R43). -/
  | rowTimerFire
  /-- LOCAL_EDGE (R48). -/
  | localEdge (m : Motif)
  /-- ROW_EDGE (R46). -/
  | rowEdge (m : Motif) (row : BitVec 48) (aligned holdover : Bool) (t : BitVec 64)
  /-- EDGE_MISSED (R46). -/
  | edgeMissed (m : Motif)
  /-- GAUGE_BUDGET (R77). -/
  | gaugeBudget (m : Motif) (row : BitVec 48) (cut : Bool) (eM eRes eBe : BitVec 32)
  /-- FLOOR_BUDGET (R77). -/
  | floorBudget (m : Motif)
  /-- EDGE_PASS (R49). -/
  | edgePass (m : Motif)
  /-- BODY_START (R48). -/
  | bodyStart (m : Motif)
  /-- DEADLINE_MISSED (R253). -/
  | deadlineMissed (m : Motif) (qid : BitVec 20) (idx : BitVec 24)
  /-- GAUGE_REPORT (R74). -/
  | gaugeReport (r : GaugeReport)
  /-- GOVERNOR_COMPUTE (R74). -/
  | governorCompute (eYoke eSeams : BitVec 32)
  /-- GUARD_START (R47). -/
  | guardStart (m : Motif)
  /-- POWER_SAMPLE (R81). -/
  | powerSample (m : Motif) (mw : BitVec 32) (tj : BitVec 8)
  /-- STITCH_ARRIVAL (R60). -/
  | stitchArrival (m : Motif) (qid : BitVec 20) (idx : BitVec 24)
  /-- STITCH_START (R65). -/
  | stitchStart (m : Motif)
  /-- STITCH_DONE (R67). -/
  | stitchDone (m : Motif)
  /-- STITCH_OVERRUN (R71). -/
  | stitchOverrun (m : Motif)
  /-- STITCH_HUNG (R71). -/
  | stitchHung (m : Motif)
  /-- GA_LIMIT_WRITE (R84). -/
  | gaLimitWrite (v : BitVec 32)
  /-- HALL_TIME_STEP (R45). -/
  | hallTimeStep (step : Int)
  /-- ROW_UNALIGNED (R44). -/
  | rowUnaligned
  /-- LATE (R36). -/
  | late (src : Mesh) (row : BitVec 48)
  /-- MMA (R116). -/
  | mma (m : Motif)
  /-- CHUNK_PROMOTION (R128). -/
  | chunkPromotion (m : Motif)
  /-- DRAIN (R139). -/
  | drain (m : Motif)
  /-- ZERO (R150). -/
  | zero (m : Motif)
  /-- PROMOTE (R150). -/
  | promote (m : Motif)
  /-- SAVE (R146). -/
  | save (m : Motif)
  /-- SAVE_COUNTER_ADD (R148). -/
  | saveCounterAdd (m : Motif)
  /-- RESTORE (R147). -/
  | restore (m : Motif)
  /-- ARRAY_DESC_DONE (R151). -/
  | arrayDescDone (m : Motif) (u : ArrayUnit)
  /-- MX_ACCSTATE_WRITE (R152). -/
  | mxAccstateWrite (m : Motif) (set : Fin 4) (v : BitVec 32)
  /-- MAP (R154). -/
  | map (m : Motif)
  /-- REDUCE (R177). -/
  | reduce (m : Motif)
  /-- GATHER (R173). -/
  | gather (m : Motif)
  /-- SHUFFLE (R174). -/
  | shuffle (m : Motif)
  /-- PACK (R176). -/
  | pack (m : Motif)
  /-- UNPACK (R176). -/
  | unpack (m : Motif)
  /-- PSUM (R181). -/
  | psum (m : Motif)
  /-- PSUM_COUNTER_POLL (R182). -/
  | psumCounterPoll (m : Motif)
  /-- PARTIAL_TIMEOUT (R182). -/
  | partialTimeout (m : Motif)
  /-- VE_DESC_DONE (R188). -/
  | veDescDone (m : Motif)
  /-- LAUNCH (R197). -/
  | launch (m : Motif)
  /-- BLOCK_START (R199). -/
  | blockStart (m : Motif)
  /-- LAUNCH_DONE (R201). -/
  | launchDone (m : Motif)
  /-- VIF (R203). -/
  | vif (m : Motif) (g : GroupSlot)
  /-- VELSE (R203). -/
  | velse (m : Motif) (g : GroupSlot)
  /-- VEND (R203). -/
  | vend (m : Motif) (g : GroupSlot)
  /-- VANY (R220). -/
  | vany (m : Motif) (g : GroupSlot)
  /-- VALL (R220). -/
  | vall (m : Motif) (g : GroupSlot)
  /-- VBALLOT (R220). -/
  | vballot (m : Motif) (g : GroupSlot)
  /-- VSHFL (R217). -/
  | vshfl (m : Motif) (g : GroupSlot)
  /-- VSHFLI (R217). -/
  | vshfli (m : Motif) (g : GroupSlot)
  /-- VBAR (R229). -/
  | vbar (m : Motif) (g : GroupSlot)
  /-- VBAR_RELEASE (R229). -/
  | vbarRelease (m : Motif) (block : BitVec 32)
  /-- VCBAR (R230). -/
  | vcbar (m : Motif) (g : GroupSlot)
  /-- VCBAR_RELEASE (R230). -/
  | vcbarRelease (m : Motif) (block : BitVec 32)
  /-- VEXIT (R231). -/
  | vexit (m : Motif) (g : GroupSlot)
  /-- VDISP_A (R232). -/
  | vdispA (m : Motif) (g : GroupSlot)
  /-- VDISP_V (R232). -/
  | vdispV (m : Motif) (g : GroupSlot)
  /-- VWAIT (R233). -/
  | vwait (m : Motif) (g : GroupSlot)
  /-- VWAIT_RECHECK (R233). -/
  | vwaitRecheck (m : Motif) (g : GroupSlot)
  /-- VCAS_W (R212). -/
  | vcasW (m : Motif) (g : GroupSlot)
  /-- VCAS_D (R212). -/
  | vcasD (m : Motif) (g : GroupSlot)
  /-- VAFADD_S (R214). -/
  | vafaddS (m : Motif) (g : GroupSlot)
  /-- VCVTN (R226). -/
  | vcvtn (m : Motif) (g : GroupSlot)
  /-- VCVTW (R226). -/
  | vcvtw (m : Motif) (g : GroupSlot)
  /-- ZLD (R222). -/
  | zld (m : Motif) (g : GroupSlot)
  /-- ZST (R222). -/
  | zst (m : Motif) (g : GroupSlot)
  /-- ZMMA (R223). -/
  | zmma (m : Motif) (g : GroupSlot)
  /-- ZZERO (R222). -/
  | zzero (m : Motif) (g : GroupSlot)
  /-- NEEDLE_LOAD (R208). -/
  | needleLoad (m : Motif) (g : GroupSlot)
  /-- NEEDLE_STORE (R208). -/
  | needleStore (m : Motif) (g : GroupSlot)
  /-- NEEDLE_AMO (R211). -/
  | needleAmo (m : Motif) (g : GroupSlot)
  /-- NEEDLE_LR (R216). -/
  | needleLr (m : Motif) (g : GroupSlot)
  /-- NEEDLE_SC (R216). -/
  | needleSc (m : Motif) (g : GroupSlot)
  /-- NEEDLE_FENCE (R304). -/
  | needleFence (m : Motif) (g : GroupSlot)
  /-- NEEDLE_BRANCH (R204). -/
  | needleBranch (m : Motif) (g : GroupSlot)
  /-- NEEDLE_CSR_WRITE (R202). -/
  | needleCsrWrite (m : Motif) (g : GroupSlot)
  /-- NEEDLE_ECALL (R234). -/
  | needleEcall (m : Motif) (g : GroupSlot)
  /-- NEEDLE_EBREAK (R234). -/
  | needleEbreak (m : Motif) (g : GroupSlot)
  /-- NEEDLE_OTHER_INSTRUCTION (R195). -/
  | needleOtherInstruction (m : Motif) (g : GroupSlot)
  /-- HOST_DOORBELL (R247). -/
  | hostDoorbell (off : BitVec 26) (size : BitVec 13) (v : BitVec 64) (rid : BitVec 16)
  /-- NODE_CORE_DOORBELL (R471). -/
  | nodeCoreDoorbell (off : BitVec 26) (v : BitVec 64)
  /-- COMMAND_FETCH (R248). -/
  | commandFetch (qid : BitVec 20) (data : BitVec 4096) (poisoned : Bool)
  /-- SEQ_REREAD (R249). -/
  | seqReread (qid : BitVec 20) (data : BitVec 4096)
  /-- FETCH_REISSUE (R425). -/
  | fetchReissue (qid : BitVec 20)
  /-- CREATE_CQ (R240). -/
  | createCq
  /-- CREATE_SQ (R240). -/
  | createSq
  /-- STOP_SQ (R242). -/
  | stopSq
  /-- STOP_SQ_DONE (R242). -/
  | stopSqDone (qid : BitVec 20)
  /-- DELETE_SQ (R240). -/
  | deleteSq
  /-- DELETE_CQ (R240). -/
  | deleteCq
  /-- BIND_SQ (R241). -/
  | bindSq
  /-- BIND_SQ_DONE (R241). -/
  | bindSqDone
  /-- NOP (R245). -/
  | nop (qid : BitVec 20)
  /-- STITCH (R250). -/
  | stitch (qid : BitVec 20)
  /-- STITCH_DISPATCH (R251). -/
  | stitchDispatch (qid : BitVec 20)
  /-- DLIST_ITEM_ISSUE (R252). -/
  | dlistItemIssue (m : Motif)
  /-- STITCH_COMMAND_DONE (R252). -/
  | stitchCommandDone (qid : BitVec 20) (idx : BitVec 24)
  /-- WRITE_INLINE (R245). -/
  | writeInline (qid : BitVec 20)
  /-- COPY (R420). -/
  | copy (qid : BitVec 20)
  /-- HOST_READ_COMPLETION (R421). -/
  | hostReadCompletion (qid : BitVec 20) (idx : BitVec 24) (data : List (BitVec 8)) (outcome : HostReadOutcome)
  /-- SKEIN (R266). -/
  | skein (qid : BitVec 20)
  /-- SIGNAL (R245). -/
  | signal (qid : BitVec 20)
  /-- WAIT (R245). -/
  | wait (qid : BitVec 20)
  /-- WAIT_SATISFIED (R245). -/
  | waitSatisfied (qid : BitVec 20)
  /-- PREFETCH (R362). -/
  | prefetch (qid : BitVec 20) (data : List (BitVec 8)) (ok : Bool)
  /-- ADVISE_EVICT (R362). -/
  | adviseEvict (qid : BitVec 20) (ok : Bool)
  /-- ADVISE_DROP (R362). -/
  | adviseDrop (qid : BitVec 20)
  /-- ADVISE_WARM (R362). -/
  | adviseWarm (qid : BitVec 20)
  /-- QE_CQ_DB (R255). -/
  | qeCqDb (v : BitVec 64)
  /-- QE_ADMIN_SQ_WRITE (R239). -/
  | qeAdminSqWrite (v : BitVec 64)
  /-- QE_ADMIN_CQ_WRITE (R239). -/
  | qeAdminCqWrite (v : BitVec 64)
  /-- SKEIN_OPEN (R262). -/
  | skeinOpen
  /-- SKEIN_APPEND (R262). -/
  | skeinAppend
  /-- SKEIN_READ (R262). -/
  | skeinRead
  /-- SKEIN_MARK (R262). -/
  | skeinMark
  /-- SKEIN_REWIND (R262). -/
  | skeinRewind
  /-- SKEIN_RELEASE (R262). -/
  | skeinRelease
  /-- SKEIN_RETRACT (R262). -/
  | skeinRetract
  /-- SKEIN_CLOSE (R262). -/
  | skeinClose
  /-- SK_COUNTS_LO_READ (R271). -/
  | skCountsLoRead (stream : BitVec 17)
  /-- RW_ROW_LO_READ (R87). -/
  | rwRowLoRead
  /-- COUNTER_LO_WORD_READ (R602). -/
  | counterLoWordRead (path : AccessPath) (addr : BitVec 26)
  /-- RD_S (R287). -/
  | rdS (home : Stack) (q : Mesh) (line : BitVec 33)
  /-- RD_X (R287). -/
  | rdX (home : Stack) (q : Mesh) (line : BitVec 33)
  /-- UPG (R287). -/
  | upg (home : Stack) (q : Mesh) (line : BitVec 33)
  /-- WB (R288). -/
  | wb (home : Stack) (q : Mesh) (line : BitVec 33) (data : LineData)
  /-- CLEAN_EVICT (R288). -/
  | cleanEvict (home : Stack) (q : Mesh) (line : BitVec 33)
  /-- RD_NC (R289). -/
  | rdNc (home : Stack) (q : Mesh) (line : BitVec 33)
  /-- WR_NC (R289). -/
  | wrNc (home : Stack) (q : Mesh) (line : BitVec 33) (data : LineData) (mask : BitVec 128) (hint : Option Mesh)
  /-- ATOM_FAR (R298). -/
  | atomFar (home : Stack) (q : Mesh) (line : BitVec 33) (op : FarAtomic)
  /-- FAR_ATOMIC_EXECUTE (R298). -/
  | farAtomicExecute (home : Stack)
  /-- FWD_S (R287). -/
  | fwdS (owner : Mesh) (q : Mesh) (line : BitVec 33)
  /-- FWD_X (R287). -/
  | fwdX (owner : Mesh) (q : Mesh) (line : BitVec 33)
  /-- FWD_NC (R289). -/
  | fwdNc (owner : Mesh) (q : Mesh) (line : BitVec 33)
  /-- RECALL (R290). -/
  | recall (owner : Mesh) (line : BitVec 33)
  /-- INV (R288). -/
  | inv (sharer : Mesh) (q : Mesh) (line : BitVec 33)
  /-- PUSH (R301). -/
  | push (target : Mesh) (line : BitVec 33) (data : LineData)
  /-- HOME_RSP (R286). -/
  | homeRsp (q : Mesh) (line : BitVec 33) (st : Moesi) (acks : BitVec 7) (data : Option LineData)
  /-- DATA (R286). -/
  | data (q : Mesh) (line : BitVec 33) (st : Moesi) (data : LineData)
  /-- INV_ACK (R286). -/
  | invAck (q : Mesh) (sharer : Mesh) (line : BitVec 33)
  /-- RECALL_DATA (R290). -/
  | recallData (home : Stack) (owner : Mesh) (line : BitVec 33) (data : LineData)
  /-- NODATA (R288). -/
  | nodata (home : Stack) (owner : Mesh) (line : BitVec 33)
  /-- PUSH_ACK (R301). -/
  | pushAck (home : Stack) (target : Mesh) (line : BitVec 33)
  /-- PUSH_DROP (R301). -/
  | pushDrop (home : Stack) (target : Mesh) (line : BitVec 33)
  /-- DONE (R286). -/
  | done (home : Stack) (q : Mesh) (line : BitVec 33)
  /-- RESERVATION_SERVE (R294). -/
  | reservationServe (home : Stack) (line : BitVec 33)
  /-- NACK (R293). -/
  | nack (q : Mesh) (line : BitVec 33) (cause : NackCause)
  /-- NACK_RETRY (R293). -/
  | nackRetry (q : Mesh) (line : BitVec 33)
  /-- RESERVED (R294). -/
  | reserved (q : Mesh) (line : BitVec 33)
  /-- WB_ACK (R288). -/
  | wbAck (owner : Mesh) (line : BitVec 33)
  /-- WR_ACK (R302). -/
  | wrAck (q : Mesh) (line : BitVec 33)
  /-- RD_RSP (R302). -/
  | rdRsp (q : Mesh) (line : BitVec 33) (data : LineData)
  /-- ATOM_RSP (R297). -/
  | atomRsp (q : Mesh) (line : BitVec 33) (olds : List (BitVec 64)) (contended poisoned : Bool)
  /-- MEM_REQ (R277). -/
  | memReq (src : Mesh) (tag : BitVec 16) (r : MemReq)
  /-- MEM_RSP (R375). -/
  | memRsp (dst : Mesh) (tag : BitVec 16) (ok : Bool) (data : MemData)
  /-- INT_MESSAGE (R375). -/
  | intMessage (src : Mesh) (vector : BitVec 11)
  /-- L2_PRED_CLEAR (R296). -/
  | l2PredClear (m : Motif)
  /-- STACK_TEMP_READ (R323). -/
  | stackTempRead (k : Stack) (temp : Option (BitVec 8))
  /-- STACK_POWER_SAMPLE (R325). -/
  | stackPowerSample (k : Stack) (mw : BitVec 32)
  /-- PER_BANK_REFRESH (R323). -/
  | perBankRefresh (k : Stack) (pc : BitVec 6) (bank : BitVec 6)
  /-- RFM (R310). -/
  | rfm (k : Stack) (pc : BitVec 6) (bank : BitVec 6) (threshold : BitVec 16)
  /-- PATROL_SCRUB (R327). -/
  | patrolScrub (k : Stack) (pc : BitVec 6)
  /-- SOFT_REPAIR (R328). -/
  | softRepair (k : Stack) (pc : BitVec 6) (row : BitVec 14) (sid : BitVec 2) (bank : BitVec 4) (repairLeft : Bool)
  /-- HOT_MEAN (R331). -/
  | hotMean (k : Stack) (mean : BitVec 32)
  /-- HB_GRANT (R334). -/
  | hbGrant (v : BitVec 32)
  /-- EVAC_SEGMENT_COPY (R337). -/
  | evacSegmentCopy
  /-- EVAC_SEGMENT_COMMIT (R338). -/
  | evacSegmentCommit
  /-- HB_INJECT_ARM (R342). -/
  | hbInjectArm (k : Stack) (v : BitVec 32)
  /-- HB_TGEN_START (R340). -/
  | hbTgenStart (k : Stack) (pc : BitVec 6) (v : BitVec 32)
  /-- HB_TGEN_DONE (R340). -/
  | hbTgenDone (k : Stack) (pc : BitVec 6) (miscompare ecc : BitVec 64) (firstBad : Option (BitVec 22))
  /-- FAULT_REPORT (R365). -/
  | faultReport (m : Mesh) (f : AgentFault)
  /-- FAULT_WINDOW_CLOSE (R365). -/
  | faultWindowClose (entry : BitVec 8)
  /-- FAULT_RESUME (R368). -/
  | faultResume (entry gen : BitVec 8)
  /-- FAULT_ABORT (R368). -/
  | faultAbort (entry gen : BitVec 8)
  /-- INV_PAGE (R358). -/
  | invPage (asid : BitVec 12)
  /-- INV_RANGE (R358). -/
  | invRange (pages : BitVec 17) (asid : BitVec 12)
  /-- INV_ASID (R358). -/
  | invAsid (asid : BitVec 12)
  /-- INV_ALL (R358). -/
  | invAll
  /-- TLB_INV (R358). -/
  | tlbInv (die : Mesh) (seq : BitVec 16)
  /-- INV_DONE (R358). -/
  | invDone (die : Mesh) (seq : BitVec 16)
  /-- TU_FRING_CI_WRITE (R366). -/
  | tuFringCiWrite (v : BitVec 32)
  /-- TU_FRING_BASE_WRITE (R239). -/
  | tuFringBaseWrite (v : BitVec 64)
  /-- REG_RD (R386). -/
  | regRd (addr : BitVec 26) (wide : Bool)
  /-- REG_WR (R386). -/
  | regWr (addr : BitVec 26) (wide : Bool) (v : BitVec 64)
  /-- REG_RSP (R386). -/
  | regRsp (addr : BitVec 26) (wide : Bool) (v : BitVec 64)
  /-- REG_TIMEOUT (R386). -/
  | regTimeout (addr : BitVec 26) (wide : Bool)
  /-- ROUTE_SET (R380). -/
  | routeSet (die : Mesh) (row : BitVec 48) (table : BitVec 11)
  /-- MAP_SET (R385). -/
  | mapSet (die : Mesh) (row : BitVec 48) (salt : BitVec 64) (ranges : List (BitVec 48 × BitVec 48))
  /-- BIND_SET (R241). -/
  | bindSet (die : Mesh) (row : BitVec 48) (qid : BitVec 20) (mask : BitVec 48) (cls : BitVec 4)
  /-- POS_SET (R393). -/
  | posSet (die : Mesh) (row : BitVec 48) (m : Motif) (st : PosState)
  /-- PATTERN_DATA (R385). -/
  | patternData (die : Mesh) (off : BitVec 23) (data : BitVec 224)
  /-- SEQ_CMD (R385). -/
  | seqCmd (die : Mesh) (cmd : SeqCmd)
  /-- FAULT_RPT (R544). -/
  | faultRpt (kind : BitVec 3) (id : BitVec 12) (cause : BitVec 8)
  /-- CHAIN_ACK (R384). -/
  | chainAck (src hop : Mesh) (seq : BitVec 8)
  /-- CHAIN_RESEND (R384). -/
  | chainResend (src hop : Mesh) (f : LostFrame)
  /-- SEAM_TRAINING_DONE (R387). -/
  | seamTrainingDone (seam : SeamIx) (maskA maskB : BitVec 8) (sbLanes : BitVec 4)
  /-- WIDTH_ADV (R388). -/
  | widthAdv (seam : SeamIx) (side : Bool) (mask : BitVec 8)
  /-- WIDTH_SET (R388). -/
  | widthSet (seam : SeamIx) (side : Bool) (width : BitVec 4) (mask : BitVec 8)
  /-- WIDTH_SET_TIMEOUT (R389). -/
  | widthSetTimeout (seam : SeamIx)
  /-- SEAM_TEST_PATTERN_DONE (R389). -/
  | seamTestPatternDone (seam : SeamIx) (pass : Bool)
  /-- SEAM_STATE (R388). -/
  | seamState (die : Mesh) (seam : SeamIx) (mask : BitVec 8)
  /-- SEAM_FAULT (R390). -/
  | seamFault (seam : SeamIx) (linkDown : Bool)
  /-- GUEST_LINK_UP (R397). -/
  | guestLinkUp (g : Guest)
  /-- VSP_CAP (R397). -/
  | vspCap (g : Guest) (part : BitVec 2) (block : BitVec 224)
  /-- VSP_GRANT (R397). -/
  | vspGrant (g : Guest) (crc : BitVec 32)
  /-- VSP_ACK (R397). -/
  | vspAck (g : Guest) (crc : BitVec 32)
  /-- VSP_TIMEOUT (R397). -/
  | vspTimeout (g : Guest)
  /-- GUEST_REQUEST (R399). -/
  | guestRequest (g : Guest) (r : MemReq)
  /-- BAR0_BAD_ACCESS (R406). -/
  | bar0BadAccess (write : Bool) (addr : BitVec 26) (size : BitVec 13)
  /-- BAR4_READ (R410). -/
  | bar4Read (off : BitVec 40) (len : BitVec 13) (rid : BitVec 16)
  /-- BAR4_WRITE (R410). -/
  | bar4Write (off : BitVec 40) (data : List (BitVec 8)) (be : List Bool) (ep : Bool) (rid : BitVec 16)
  /-- BAR4_FETCHADD (R410). -/
  | bar4Fetchadd (off : BitVec 40) (wide : Bool) (v : BitVec 64) (rid : BitVec 16)
  /-- BAR4_SWAP (R410). -/
  | bar4Swap (off : BitVec 40) (wide : Bool) (v : BitVec 64) (rid : BitVec 16)
  /-- BAR4_CAS (R410). -/
  | bar4Cas (off : BitVec 40) (size : CasSize) (cmp v : BitVec 128) (rid : BitVec 16)
  /-- LINK_RETRAIN (R424). -/
  | linkRetrain (speed : BitVec 3) (width : BitVec 6)
  /-- HOST_SIDE_RESET (R426). -/
  | hostSideReset (cause : HostResetCause)
  /-- RESIZABLE_BAR_WRITE (R409). -/
  | resizableBarWrite (log2 : BitVec 6)
  /-- MEMORY_DECODE_ENABLE (R409). -/
  | memoryDecodeEnable
  /-- D3HOT_ENTRY (R430). -/
  | d3hotEntry
  /-- D0_RETURN (R430). -/
  | d0Return
  /-- MSIX_UNMASK (R423). -/
  | msixUnmask (vector : Option (BitVec 11))
  /-- COMPLETION_TIMEOUT (R425). -/
  | completionTimeout (qid : BitVec 20) (idx : BitVec 24)
  /-- FLUSH_READ_DONE (R418). -/
  | flushReadDone (qid : BitVec 20) (idx : BitVec 24) (ok : Bool)
  /-- PX_LOST_POP (R428). -/
  | pxLostPop
  /-- REMOTE_REQUEST (R445). -/
  | remoteRequest (r : RemoteReq)
  /-- FABRIC_READ (R447). -/
  | fabricRead (f : Frame)
  /-- FABRIC_READ_RSP (R448). -/
  | fabricReadRsp (f : Frame)
  /-- FABRIC_WRITE (R447). -/
  | fabricWrite (f : Frame)
  /-- FABRIC_WRITE_RSP (R448). -/
  | fabricWriteRsp (f : Frame)
  /-- FABRIC_ATOMIC (R449). -/
  | fabricAtomic (f : Frame)
  /-- FABRIC_ATOMIC_RSP (R449). -/
  | fabricAtomicRsp (f : Frame)
  /-- FABRIC_ACK (R442). -/
  | fabricAck (f : Frame)
  /-- FABRIC_NAK (R443). -/
  | fabricNak (f : Frame)
  /-- ACK_TIMER (R442). -/
  | ackTimer (node lot : BitVec 16)
  /-- RETRANSMIT_TIMEOUT (R443). -/
  | retransmitTimeout (node lot : BitVec 16)
  /-- FLOW_LOST (R444). -/
  | flowLost (node lot : BitVec 16)
  /-- FLOW_IDLE_FREE (R440). -/
  | flowIdleFree (node lot : BitVec 16)
  /-- FABRIC_PORT_DOWN (R434). -/
  | fabricPortDown (p : Fin 4)
  /-- FABRIC_PORT_UP (R434). -/
  | fabricPortUp (p : Fin 4)
  /-- LOT_ADD (R454). -/
  | lotAdd (index : BitVec 6) (row : BitVec 48)
  /-- LOT_BINDOFF (R454). -/
  | lotBindoff (index : BitVec 6) (row : BitVec 48)
  /-- LOT_REMOVED (R452). -/
  | lotRemoved (k : Fin 64)
  /-- BINDOFF_FORCED (R452). -/
  | bindoffForced (k : Fin 64)
  /-- PTP_SYNC (R456). -/
  | ptpSync (offset : Int)
  /-- PTP_MESSAGE (R455). -/
  | ptpMessage (gm : BitVec 64)
  /-- PTP_HOLDOVER (R457). -/
  | ptpHoldover
  /-- PPS_EDGE (R459). -/
  | ppsEdge (offset : Int)
  /-- PPS_LOST (R459). -/
  | ppsLost
  /-- TS_TIME_LO_READ (R461). -/
  | tsTimeLoRead
  /-- NODE_CORE_INSTRUCTION (R462). -/
  | nodeCoreInstruction (h : Fin 32) (fetch : BitVec 64) (compressed : Bool) (i : HartAct)
  /-- NODE_CORE_TIMER (R465). -/
  | nodeCoreTimer (h : Fin 32)
  /-- MCTP_MESSAGE (R480). -/
  | mctpMessage (b : Binding) (ty : BitVec 8) (ours : Bool) (data : List (BitVec 8))
  /-- SET_ENDPOINT_ID (R479). -/
  | setEndpointId (b : Binding) (eid : BitVec 8)
  /-- PLDM_DISCOVERY (R481). -/
  | pldmDiscovery (b : Binding) (cmd : BitVec 8)
  /-- PLDM_PLATFORM (R481). -/
  | pldmPlatform (b : Binding) (cmd : BitVec 8) (sensor : BitVec 16)
  /-- PLDM_FRU (R481). -/
  | pldmFru (b : Binding) (cmd : BitVec 8)
  /-- REQUEST_UPDATE (R482). -/
  | requestUpdate (b : Binding)
  /-- UPDATE_COMPONENT (R513). -/
  | updateComponent (b : Binding) (ident : BitVec 16) (size : BitVec 32)
  /-- REQUEST_FIRMWARE_DATA (R513). -/
  | requestFirmwareData (b : Binding) (off : BitVec 32) (data : List (BitVec 8))
  /-- ACTIVATE_FIRMWARE (R513). -/
  | activateFirmware (b : Binding)
  /-- SENSOR_SAMPLE (R483). -/
  | sensorSample (id : BitVec 8) (v : BitVec 32)
  /-- GET_INFO (R486). -/
  | getInfo (ch : Channel)
  /-- READ_SENSOR (R486). -/
  | readSensor (ch : Channel)
  /-- READ_TELEMETRY (R486). -/
  | readTelemetry (ch : Channel)
  /-- SLOT_INFO (R508). -/
  | slotInfo (ch : Channel)
  /-- SLOT_BEGIN (R509). -/
  | slotBegin (ch : Channel)
  /-- SLOT_DATA (R509). -/
  | slotData (ch : Channel)
  /-- SLOT_END (R509). -/
  | slotEnd (ch : Channel)
  /-- SESSION_TIMEOUT (R509). -/
  | sessionTimeout
  /-- REPATTERN (R515). -/
  | repattern (ch : Channel)
  /-- SLOT_ERASE (R512). -/
  | slotErase (ch : Channel)
  /-- SET_MIN_SVN (R512). -/
  | setMinSvn (ch : Channel)
  /-- GET_SWATCH (R540). -/
  | getSwatch (ch : Channel)
  /-- READ_SWATCH (R541). -/
  | readSwatch (ch : Channel)
  /-- FW_BEGIN (R535). -/
  | fwBegin (ch : Channel)
  /-- FW_DATA (R535). -/
  | fwData (ch : Channel)
  /-- FW_END (R535). -/
  | fwEnd (ch : Channel)
  /-- ENROLL_OWNER_KEY (R537). -/
  | enrollOwnerKey (ch : Channel)
  /-- KEY_STAGE (R537). -/
  | keyStage (ch : Channel)
  /-- GET_CHALLENGE (R537). -/
  | getChallenge (ch : Channel)
  /-- CHALLENGE_EXPIRY (R537). -/
  | challengeExpiry
  /-- FW_SET_MIN_SVN (R542). -/
  | fwSetMinSvn (ch : Channel)
  /-- GET_IDENTITY (R542). -/
  | getIdentity (ch : Channel)
  /-- NC_RELEASE (R526). -/
  | ncRelease (ch : Channel)
  /-- RESET_COLD (R542). -/
  | resetCold (ch : Channel)
  /-- RESET_WARM (R542). -/
  | resetWarm (ch : Channel)
  /-- POWER_GOOD (R577). -/
  | powerGood
  /-- POWER_FAIL (R577). -/
  | powerFail
  /-- MC_LEAVE_RESET (R581). -/
  | mcLeaveReset (sel : BitVec 2) (r : CastOnReport)
  /-- STEP_BUDGET_EXPIRY (R519). -/
  | stepBudgetExpiry (r : CastOnReport)
  /-- LOCK_TIMEOUT (R524). -/
  | lockTimeout
  /-- WATCHDOG (R530). -/
  | watchdog
  /-- COLD_RST_N (R580). -/
  | coldRstN (level : Bool)
  /-- WARM_RST_N (R580). -/
  | warmRstN (level : Bool)
  /-- THERMAL_TRIP (R584). -/
  | thermalTrip
  /-- TRIP_CLEAR (R584). -/
  | tripClear
  /-- CURRENT_GUARD_SAMPLE (R578). -/
  | currentGuardSample (ma : BitVec 18)
  /-- TREF_LOST (R586). -/
  | trefLost
  /-- OCXO_WARM (R586). -/
  | ocxoWarm
  /-- SEQUENCER_TAKE_ENTRY (R544). -/
  | sequencerTakeEntry
  /-- MOTIF_DRAINED (R547). -/
  | motifDrained
  /-- MOTIF_SELF_TEST_DONE (R547). -/
  | motifSelfTestDone (pass : Bool)
  /-- MC_TEST_RELEASE (R554). -/
  | mcTestRelease
  /-- HB_TEST_ENTER (R560). -/
  | hbTestEnter (pc : BitVec 10)
  /-- HB_TEST_LEAVE (R568). -/
  | hbTestLeave (pc : BitVec 10)
  /-- MC_BIST_START (R562). -/
  | mcBistStart (m : BitVec 6)
  /-- MC_BIST_DONE (R562). -/
  | mcBistDone (failUnit : BitVec 3)
  /-- LOOPBACK_START (R557). -/
  | loopbackStart (b : LoopBlock) (v : BitVec 32)
  /-- LOOPBACK_STOP (R557). -/
  | loopbackStop (b : LoopBlock) (bits errors laneErr : BitVec 64)
  /-- LOOPBACK_LOCK_TIMEOUT (R557). -/
  | loopbackLockTimeout (b : LoopBlock) (bits : BitVec 64)
  /-- LOOPBACK_DURATION_END (R557). -/
  | loopbackDurationEnd (b : LoopBlock) (bits errors laneErr : BitVec 64)
  /-- TAP_RESET (R563). -/
  | tapReset
  /-- BYPASS (R565). -/
  | bypass
  /-- IDCODE (R564). -/
  | idcode
  /-- SAMPLE_PRELOAD (R565). -/
  | samplePreload (cells : BitVec 1872)
  /-- EXTEST (R565). -/
  | extest
  /-- CLAMP (R565). -/
  | clamp
  /-- HIGHZ (R565). -/
  | highz
  /-- EXTEST_PULSE (R565). -/
  | extestPulse
  /-- EXTEST_TRAIN (R565). -/
  | extestTrain
  /-- REG_ACCESS (R565). -/
  | regAccess (write wide : Bool) (addr : BitVec 26) (v : BitVec 64)
  /-- DEBUG (R565). -/
  | debug
  /-- EV_RING_BASE_WRITE (R239). -/
  | evRingBaseWrite (v : BitVec 64)
  /-- EV_RING_CI_WRITE (R599). -/
  | evRingCiWrite (v : BitVec 32)
  /-- REGISTER_WRITE (R14). -/
  | registerWrite (path : AccessPath) (addr : BitVec 26) (wide : Bool) (v : BitVec 64)
  /-- HOST_LINK_UP (R520). -/
  | hostLinkUp (speed : BitVec 3) (width : BitVec 6)
  /-- BUS_MASTER_ENABLE (R423). -/
  | busMasterEnable
  /-- TREF_IN_USE (R586). -/
  | trefInUse
  /-- LOOPBACK_LOCK (R557). -/
  | loopbackLock (b : LoopBlock)
  /-- BURST_DONE (R316). -/
  | burstDone (k : Stack) (pc : BitVec 6) (r : BurstReq)
  /-- COUNT_PUBLICATION (R269). -/
  | countPublication (which : PubKind) (stream : BitVec 17)
  /-- RECOVERY_END (R548). -/
  | recoveryEnd (ok : Bool)
  deriving DecidableEq, Repr

end Sys2Proof
end

