-- ==== Sys2Proof/Decode.lean ====
section
/-!
DEFINITION. Decode.lean: the commands that words spell. The table gives no command bits, so no word spells one.
-/

namespace Sys2Proof

/-- The command that a word of `nbits` bits spells: none, as no row of the table gives bits.
(DESIGN CHOICE: log entry 1) -/
def decodeTableWord (_nbits _w : Nat) : Option Instr := none

end Sys2Proof
end

