-- ==== Sys2Proof/Config.lean ====
section
/-!
DEFINITION. Config.lean: the free values. Each is a constant without a body: no proof can see its value.
A counter argument, where there is one, is State.free, which the step reads and advances.
-/

namespace Sys2Proof.Config

/-- Which of the codes within 2 units in the last place of the true value a transcendental function gives: function and
argument (R141, R167). (DESIGN CHOICE: log entry 17) -/
opaque transcendental : Nat → Nat → Nat

/-- The order in which VAFADD.S adds is not specified: what is stored and what each thread receives (R214).
(DESIGN CHOICE: log entry 19) -/
opaque fadd : Nat → BitVec 32

/-- The pattern of one or two wrong bits whose syndrome a pattern of four or more has, where there is one (R317, R318).
(DESIGN CHOICE: log entry 33) -/
opaque sameSyndrome : BitVec 80 → BitVec 80

/-- A draw of a requester's 4-bit LFSR (R293). (DESIGN CHOICE: log entry 20) -/
opaque lfsr : Nat → BitVec 4

/-- A victim of a pseudo-LRU choice (R279). (DESIGN CHOICE: log entry 21) -/
opaque victim : Nat → Nat

/-- Which free pool cell a stream takes (R258). (DESIGN CHOICE: log entry 22) -/
opaque poolCell : Nat → Nat

/-- A byte whose value the spec leaves open. (DESIGN CHOICE: log entry 25) -/
opaque freeByte : Nat → BitVec 8

/-- A word whose value the spec leaves open. (DESIGN CHOICE: log entry 25) -/
opaque freeWord : Nat → BitVec 64

/-- A choice the spec leaves open. (DESIGN CHOICE: log entry 25) -/
opaque freeBool : Nat → Bool

/-- An HSS signature verifies (R493): key, message, signature. Key 0 is Maelnurdo's firmware key, 1 Maelnurdo's Pattern
key, and 2 + k the owner Pattern key k. The spec gives no key. (DESIGN CHOICE: log entry 23) -/
opaque hssVerify : Nat → List (BitVec 8) → List (BitVec 8) → Bool

/-- The identity signature of index q over a message: 3,124 bytes (R536, R540). (DESIGN CHOICE: log entry 23) -/
opaque identitySign : Nat → List (BitVec 8) → Nat → BitVec 8

/-- Maelnurdo's JEP106 manufacturer code (R564), which the manual does not give. (DESIGN CHOICE: log entry 24) -/
opaque jep106 : BitVec 11

/-- Hard post-package repairs that a stack holds for a bank (pseudo-channel × 64 + u[7:2]), which the manual does not number (R329).
(DESIGN CHOICE: log entry 140) -/
opaque hardRepairs : Nat → Nat

/-- The boot ROM's version (R540). (DESIGN CHOICE: log entry 24) -/
opaque romVersion : BitVec 32

/-- The boundary cell of a contact (group, number), which the BSDL file gives and the manual does not (R563).
(DESIGN CHOICE: log entry 116) -/
opaque boundaryCell : Nat → Nat → Nat

end Sys2Proof.Config
end

