-- ==== Sys2Proof/Machine/Formats.lean ====
section
/-!
DEFINITION. Formats.lean: the eleven element formats, exact values, the one rounding, and the numeric
status counts (03_number_formats.md).
-/

namespace Sys2Proof.Machine

/-- An exact value: NaN, an infinity, or (−1)^neg × m × 2^e; m = 0 is a signed zero. -/
inductive Num where
  | nan
  | inf (neg : Bool)
  | fin (neg : Bool) (m : Nat) (e : Int)
  deriving DecidableEq, Repr

/-- A floating format (R88): mantissa and exponent widths, bias, whether it has infinity, and its NaN codes:
0 none, 1 every code with exponent all ones and M ≠ 0, 2 the one code with all ones (E4M3). -/
structure Fmt where
  mbits : Nat
  ebits : Nat
  bias : Nat
  hasInf : Bool
  nanKind : Nat
  deriving DecidableEq, Repr

def fmtFp64 : Fmt := ⟨52, 11, 1023, true, 1⟩
def fmtFp32 : Fmt := ⟨23, 8, 127, true, 1⟩
def fmtFp16 : Fmt := ⟨10, 5, 15, true, 1⟩
def fmtBf16 : Fmt := ⟨7, 8, 127, true, 1⟩
def fmtE4m3 : Fmt := ⟨3, 4, 7, false, 2⟩
def fmtE5m2 : Fmt := ⟨2, 5, 15, true, 1⟩
def fmtE3m2 : Fmt := ⟨2, 3, 3, false, 0⟩
def fmtE2m3 : Fmt := ⟨3, 2, 1, false, 0⟩
def fmtE2m1 : Fmt := ⟨1, 2, 1, false, 0⟩

/-- The floating format of a code (R88). -/
def fmtOf : Nat → Option Fmt
  | 0 => some fmtFp64 | 1 => some fmtFp32 | 2 => some fmtFp16 | 3 => some fmtBf16 | 4 => some fmtE4m3
  | 5 => some fmtE5m2 | 6 => some fmtE3m2 | 7 => some fmtE2m3 | 8 => some fmtE2m1 | _ => none

/-- Bits of an element of format code `c` (R88). -/
def elemBits : Nat → Nat
  | 0 => 64 | 1 => 32 | 2 => 16 | 3 => 16 | 4 => 8 | 5 => 8 | 6 => 6 | 7 => 6 | 8 => 4 | 9 => 8 | 10 => 4 | _ => 0

/-- The sign bit's weight. -/
def Fmt.signBit (f : Fmt) : Nat := 2 ^ (f.mbits + f.ebits)

/-- The exponent of the smallest normal. -/
def Fmt.emin (f : Fmt) : Int := 1 - (f.bias : Int)

/-- The exponent field of all ones. -/
def Fmt.expOnes (f : Fmt) : Nat := 2 ^ f.ebits - 1

/-- The largest finite magnitude code (R89). -/
def Fmt.maxCode (f : Fmt) : Nat :=
  if f.nanKind = 1 then f.expOnes * 2 ^ f.mbits - 1
  else if f.nanKind = 2 then f.signBit - 2
  else f.signBit - 1

/-- The canonical NaN (R90); for a format without NaN, not used. -/
def Fmt.nanCode (f : Fmt) : Nat :=
  if f.nanKind = 2 then f.signBit - 1 else f.expOnes * 2 ^ f.mbits + 2 ^ (f.mbits - 1)

/-- The infinity's magnitude code. -/
def Fmt.infCode (f : Fmt) : Nat := f.expOnes * 2 ^ f.mbits

/-- The value a code stands for (R88, R91). -/
def Fmt.decode (f : Fmt) (c : Nat) : Num :=
  let neg := decide (c / f.signBit % 2 = 1)
  let mag := c % f.signBit
  let ex := mag / 2 ^ f.mbits
  let m := mag % 2 ^ f.mbits
  if f.nanKind = 1 && ex = f.expOnes then (if m = 0 then .inf neg else .nan)
  else if f.nanKind = 2 && mag = f.signBit - 1 then .nan
  else if ex = 0 then .fin neg m (f.emin - f.mbits)
  else .fin neg (2 ^ f.mbits + m) ((ex : Int) - f.bias - f.mbits)

/-- What a conversion counts (R108). -/
inductive Count where
  | none | sat | flush | invalid
  deriving DecidableEq, Repr

/-- `m ÷ 2^d`, to the nearest integer, ties to even (R98). -/
def rneShift (m d : Nat) : Nat :=
  if d = 0 then m
  else
    let q := m / 2 ^ d
    let r := m % 2 ^ d
    let half := 2 ^ (d - 1)
    if r < half then q else if half < r then q + 1 else q + q % 2

/-- `m × 2^e ÷ 2^q`, to the nearest integer, ties to even. -/
def rneAt (m : Nat) (e q : Int) : Nat :=
  if q ≤ e then m * 2 ^ (e - q).toNat else rneShift m (q - e).toNat

/-- The magnitude code of round_float's grid for a non-zero finite value, without an upper bound (R100, R101). -/
def Fmt.gridCode (f : Fmt) (m : Nat) (e : Int) : Nat :=
  let top := max ((Nat.log2 m : Nat) + e) f.emin
  rneAt m e (top - f.mbits) + (top - f.emin).toNat * 2 ^ f.mbits

/-- Put a sign on a magnitude code. -/
def Fmt.withSign (f : Fmt) (neg : Bool) (mag : Nat) : Nat := mag + if neg then f.signBit else 0

/-- Conversion of an exact value into a floating format with its count (R100, R105, R107). -/
def Fmt.round (f : Fmt) (ovfInf : Bool) : Num → Nat × Count
  | .nan => if f.nanKind = 0 then (0, .invalid) else (f.nanCode, .none)
  | .inf neg => if f.hasInf then (f.withSign neg f.infCode, .none) else (f.withSign neg f.maxCode, .sat)
  | .fin neg m e =>
    if m = 0 then (f.withSign neg 0, .none)
    else
      let c := f.gridCode m e
      if f.maxCode < c then
        (f.withSign neg (if f.hasInf && (ovfInf || 32 ≤ f.mbits + f.ebits + 1) then f.infCode else f.maxCode), .sat)
      else if c = 0 then (f.withSign neg 0, .flush)
      else (f.withSign neg c, .none)

/-- An integer format's code from a value (R106, R107); `n` bits in two's complement. -/
def roundInt (n : Nat) : Num → Nat × Count
  | .nan => (0, .invalid)
  | .inf neg => (if neg then 2 ^ (n - 1) else 2 ^ (n - 1) - 1, .sat)
  | .fin neg m e =>
    let k := rneAt m e 0
    if neg then (if 2 ^ (n - 1) < k then (2 ^ (n - 1), .sat) else ((2 ^ n - k) % 2 ^ n, .none))
    else if 2 ^ (n - 1) - 1 < k then (2 ^ (n - 1) - 1, .sat)
    else (k, .none)

/-- The value of an integer. -/
def Num.ofInt (v : Int) : Num := .fin (v < 0) v.natAbs 0

/-- The value of an element code of format `c` (R88). -/
def elemDecode (c code : Nat) : Num :=
  match fmtOf c with
  | some f => f.decode code
  | none => Num.ofInt (signed (elemBits c) code)

/-- Conversion into format `c` (R100, R105 to R107). (DESIGN CHOICE: log entry 48) -/
def elemEncode (c : Nat) (ovfInf : Bool) (x : Num) : Nat × Count :=
  match fmtOf c with
  | some f => f.round ovfInf x
  | none => roundInt (elemBits c) x

/-- Format `c` has NaN. -/
def elemHasNan (c : Nat) : Bool :=
  match fmtOf c with
  | some f => f.nanKind ≠ 0
  | none => false

/-- Exact product; 0 × ∞ is NaN (R92). -/
def Num.mul : Num → Num → Num
  | .nan, _ => .nan
  | _, .nan => .nan
  | .inf a, .inf b => .inf (a != b)
  | .inf a, .fin b m _ => if m = 0 then .nan else .inf (a != b)
  | .fin a m _, .inf b => if m = 0 then .nan else .inf (a != b)
  | .fin a m e, .fin b n g => .fin (a != b) (m * n) (e + g)

/-- The signed integer of a finite value at exponent `q` not above its own. -/
def scaledInt (neg : Bool) (m : Nat) (e q : Int) : Int :=
  let v : Int := ((m * 2 ^ (e - q).toNat : Nat) : Int)
  if neg then -v else v

/-- Exact sum; a zero sum of unlike signs is +0, ∞ − ∞ is NaN (R92). -/
def Num.add : Num → Num → Num
  | .nan, _ => .nan
  | _, .nan => .nan
  | .inf a, .inf b => if a = b then .inf a else .nan
  | .inf a, .fin _ _ _ => .inf a
  | .fin _ _ _, .inf b => .inf b
  | .fin a m e, .fin b n g =>
    if m = 0 && n = 0 then .fin (a && b) 0 0
    else if m = 0 then .fin b n g
    else if n = 0 then .fin a m e
    else
      let q := min e g
      let v := scaledInt a m e q + scaledInt b n g q
      .fin (v < 0) v.natAbs q

def Num.neg : Num → Num
  | .nan => .nan
  | .inf a => .inf (!a)
  | .fin a m e => .fin (!a) m e

def Num.abs : Num → Num
  | .nan => .nan
  | .inf _ => .inf false
  | .fin _ m e => .fin false m e

def Num.isNan : Num → Bool
  | .nan => true
  | _ => false

def Num.isZero : Num → Bool
  | .fin _ m _ => m = 0
  | _ => false

def Num.isInf : Num → Bool
  | .inf _ => true
  | _ => false

def Num.isFin : Num → Bool
  | .fin _ _ _ => true
  | _ => false

def Num.sign : Num → Bool
  | .nan => false
  | .inf a => a
  | .fin a _ _ => a

/-- `x < y` as IEEE compares; false where either is NaN; zeros are equal. -/
def Num.lt : Num → Num → Bool
  | .nan, _ => false
  | _, .nan => false
  | .inf a, .inf b => a && !b
  | .inf a, .fin _ _ _ => a
  | .fin _ _ _, .inf b => !b
  | .fin a m e, .fin b n g =>
    let q := min e g
    decide (scaledInt a m e q < scaledInt b n g q)

/-- `x = y` as IEEE compares. -/
def Num.eq (x y : Num) : Bool := !x.isNan && !y.isNan && !x.lt y && !y.lt x

/-- The greater of two values that are not NaN, +0 above −0; NaN where either is NaN (R141, R165). -/
def Num.maxOf (x y : Num) : Num :=
  if x.isNan || y.isNan then .nan
  else if x.lt y then y else if y.lt x then x else if x.sign then y else x

/-- The lesser of two values, −0 below +0; NaN where either is NaN. -/
def Num.minOf (x y : Num) : Num :=
  if x.isNan || y.isNan then .nan
  else if x.lt y then x else if y.lt x then y else if x.sign then x else y

/-- A quotient with a sticky bit below 80 significant bits: rounded to any format, it gives the rounded quotient.
(DEDUCED: log entry 35) -/
def Num.div : Num → Num → Num
  | .nan, _ => .nan
  | _, .nan => .nan
  | .inf _, .inf _ => .nan
  | .inf a, .fin b _ _ => .inf (a != b)
  | .fin a _ _, .inf b => .fin (a != b) 0 0
  | .fin a m e, .fin b n g =>
    if n = 0 then (if m = 0 then .nan else .inf (a != b))
    else if m = 0 then .fin (a != b) 0 0
    else
      let s := 80 + Nat.log2 n
      let q := m * 2 ^ s / n
      let r := m * 2 ^ s % n
      .fin (a != b) (2 * q + if r = 0 then 0 else 1) (e - g - s - 1)

/-- The integer square root of `n`, found bit by bit from bit `k`. -/
def isqrt (n : Nat) : Nat → Nat → Nat
  | 0, r => r
  | k + 1, r => if (r + 2 ^ k) * (r + 2 ^ k) ≤ n then isqrt n k (r + 2 ^ k) else isqrt n k r

/-- A square root with a sticky bit, as for the quotient; −0 gives −0, another negative NaN. (DEDUCED: log entry 35) -/
def Num.sqrt : Num → Num
  | .nan => .nan
  | .inf a => if a then .nan else .inf false
  | .fin a m e =>
    if m = 0 then .fin a 0 0
    else if a then .nan
    else
      let odd := decide (e % 2 = 1)
      let n := m * 2 ^ (160 + if odd then 1 else 0)
      let e' := (e - (if odd then 1 else 0)) / 2 - 80
      let r := isqrt n (Nat.log2 n / 2 + 1) 0
      .fin false (2 * r + if r * r = n then 0 else 1) (e' - 1)

/-- Magnitude of a finite value in units of 2^q, truncated (R125). -/
def truncAt (m : Nat) (e q : Int) : Nat := if q ≤ e then m * 2 ^ (e - q).toNat else m / 2 ^ (q - e).toNat

/-- floor of the base-2 logarithm of a non-zero magnitude. -/
def floorLog2 (m : Nat) (e : Int) : Int := (Nat.log2 m : Nat) + e

/-- Rounding into a format, as a value again. -/
def Fmt.roundNum (f : Fmt) (x : Num) : Num := f.decode (f.round true x).1

/-- Rounding into FP32 and binary64. -/
def round32 (x : Num) : Num := fmtFp32.roundNum x
def round64 (x : Num) : Num := fmtFp64.roundNum x

/-- The numeric status counts (R111, R112), before they saturate. -/
structure NumStat where
  sat : Nat
  flush : Nat
  invalid : Nat
  deriving DecidableEq, Repr

def NumStat.zero : NumStat := ⟨0, 0, 0⟩

/-- Count one element. -/
def NumStat.add (n : NumStat) : Count → NumStat
  | .none => n
  | .sat => { n with sat := n.sat + 1 }
  | .flush => { n with flush := n.flush + 1 }
  | .invalid => { n with invalid := n.invalid + 1 }

def NumStat.sum (a b : NumStat) : NumStat := ⟨a.sat + b.sat, a.flush + b.flush, a.invalid + b.invalid⟩

/-- A 32-bit count saturates at 0xFFFF_FFFF (R112). -/
def sat32 (n : Nat) : Nat := min n 0xFFFFFFFF

/-- The 16-byte numeric status block as a number (R111). -/
def NumStat.block (n : NumStat) : Nat :=
  sat32 n.sat + sat32 n.flush * 2 ^ 32 + sat32 n.invalid * 2 ^ 64 +
    ((if 0xFFFFFFFF ≤ n.sat then 1 else 0) + (if 0xFFFFFFFF ≤ n.flush then 2 else 0) +
      (if 0xFFFFFFFF ≤ n.invalid then 4 else 0)) * 2 ^ 96

/-- An element type byte (R93) is one an operation may name (R94). -/
def typeOk (t : Nat) : Bool :=
  t % 16 ≤ 10 && t / 64 = 0 && (t / 16 % 2 = 0 || (4 ≤ t % 16 && t % 16 ≤ 8))

/-- Format code, block-scale bit and overflow option of an element type byte (R93). -/
def typeFmt (t : Nat) : Nat := t % 16
def typeSc (t : Nat) : Bool := t / 16 % 2 = 1
def typeOvf (t : Nat) : Bool := t / 32 % 2 = 1

/-- Bytes that a row of `n` elements of format `c` touches (R95). -/
def rowBytes (c n : Nat) : Nat :=
  if elemBits c = 6 then 3 * ((n + 3) / 4)
  else if elemBits c = 4 then (n + 1) / 2
  else n * (elemBits c / 8)

/-- Byte offset, bit offset and bytes to read of element `n` of a row (R95). -/
def elemPlace (c n : Nat) : Nat × Nat × Nat :=
  if elemBits c = 6 then (3 * (n / 4), 6 * (n % 4), 3)
  else if elemBits c = 4 then (n / 2, 4 * (n % 2), 1)
  else (n * (elemBits c / 8), 0, elemBits c / 8)

/-- The E8M0 scale's exponent (R96); none is NaN. -/
def scaleExp (b : Nat) : Option Int := if b = 255 then none else some ((b : Int) - 127)

/-- A value times 2^k. -/
def Num.scale (k : Int) : Num → Num
  | .fin a m e => .fin a m (e + k)
  | x => x

/-- The expander's exact conversion of a code in front of the array (R97): the code and format it becomes. -/
def expand (c code : Nat) : Nat × Nat :=
  if c = 6 ∨ c = 7 ∨ c = 8 then ((fmtE4m3.round false (elemDecode c code)).1, 4)
  else if c = 10 then (unsigned 8 (signed 4 code), 9)
  else (code, c)

/-- The emax of R114, by format code. -/
def blockEmax : Nat → Int
  | 4 => 8 | 5 => 15 | 6 => 4 | _ => 2

/-- The scale code of a block (R114): 0xFF where an element is NaN. -/
def blockScale (c : Nat) (xs : List Num) : Nat :=
  if xs.any Num.isNan then 255
  else
    let logs := xs.filterMap fun x => match x with
      | .fin _ m e => if m = 0 then none else some (floorLog2 m e)
      | _ => none
    match logs with
    | [] => 127
    | l :: ls => (max 0 (min 254 (ls.foldl max l - blockEmax c + 127))).toNat

/-- One block's codes and counts under its scale (R114). -/
def blockCodes (c : Nat) (ovfInf : Bool) (xs : List Num) : Nat × List (Nat × Count) :=
  let sc := blockScale c xs
  if sc = 255 then (255, xs.map fun x => (0, if x.isNan then Count.invalid else Count.none))
  else (sc, xs.map fun x => elemEncode c ovfInf (x.scale (127 - (sc : Int))))

end Sys2Proof.Machine
end

