-- ==== Sys2Proof/Machine/Transcendental.lean ====
section
/-!
DEFINITION. Transcendental.lean: the true values of the functions of R141 and R167, to more than 70 bits, and the free
choice of a code within 2 units in the last place of them.
-/

namespace Sys2Proof.Machine

/-- The fixed point of the series: 256 bits after the point. -/
def fixOne : Nat := 2 ^ 256

/-- ln 2 and √(2 ÷ π) in fixed point. -/
def fixLn2 : Nat := 0xB17217F7D1CF79ABC9E3B39803F2F6AF40F343267298B62D8A0D175B8BAAFA2B
/-- (PRESUMED: log entry 18) -/
def fixGelu : Nat := 0xCC42299EA1B284687E59E2805D5C717FA7053E60A24E0DB1808E369004C73A5D

/-- Terms of e^r from the `k`-th on, for r below 1 in fixed point. -/
def expTerms : Nat → Nat → Nat → Nat → Nat
  | 0, _, _, _ => 0
  | n + 1, k, term, r => term + expTerms n (k + 1) (term * r / fixOne / k) r

/-- e^x of a finite value; beyond ±4,096 the result lies outside every format. -/
def Num.exp : Num → Num
  | .fin neg m e =>
    if m = 0 then .fin false 1 0
    else if 12 ≤ floorLog2 m e then .fin false 1 (if neg then -8192 else 8192)
    else
      let t := truncAt m e (-256)
      let v : Int := if neg then -(t : Int) else t
      let k := v.fdiv fixLn2
      .fin false (expTerms 70 1 fixOne (v - k * fixLn2).toNat) (k - 256)
  | x => x

/-- Terms of the series of ln ((1 + z) ÷ (1 − z)) ÷ 2, `p` the power of z in hand. -/
def lnTerms : Nat → Nat → Nat → Nat → Nat
  | 0, _, _, _ => 0
  | n + 1, k, p, zz => p / k + lnTerms n (k + 2) (p * zz / fixOne) zz

/-- ln x of a finite value above 0. -/
def Num.ln : Num → Num
  | .fin _ m e =>
    let l := Nat.log2 m
    let y := truncAt m (-(l : Int)) (-256)
    let z := (y - fixOne) * fixOne / (y + fixOne)
    let v : Int := ((l : Int) + e) * fixLn2 + (2 * lnTerms 90 1 z (z * z / fixOne) : Nat)
    .fin (decide (v < 0)) v.natAbs (-256)
  | x => x

/-- 1 ÷ (1 + e^−x). -/
def Num.sigmoid (x : Num) : Num := (Num.ofInt 1).div ((Num.ofInt 1).add x.neg.exp)

/-- tanh x; below 2^−60 it is x to 120 bits. -/
def Num.tanh : Num → Num
  | .fin neg m e =>
    if m = 0 || floorLog2 m e < -60 then .fin neg m e
    else
      let t := (Num.fin true m (e + 1)).exp
      let y := ((Num.ofInt 1).add t.neg).div ((Num.ofInt 1).add t)
      if neg then y.neg else y
  | x => x

/-- GELU in its tanh form, x ÷ 2 × (1 + tanh (√(2 ÷ π) × (x + 0.044715 x³))), as x × sigmoid of twice that argument.
(PRESUMED: log entry 18) -/
def Num.gelu (x : Num) : Num :=
  let cube := (x.mul (x.mul x)).mul ((Num.ofInt 44715).div (Num.ofInt 1000000))
  x.mul (((x.add cube).mul (.fin false (2 * fixGelu) (-256))).sigmoid)

/-- The true value of a function of R165, by its opcode, at a finite input in its domain. -/
def trueValue (o : Nat) (x : Num) : Num :=
  if o = 0x0C then (Num.ofInt 1).div x
  else if o = 0x0D then (Num.ofInt 1).div x.sqrt
  else if o = 0x10 then x.exp
  else if o = 0x11 then (x.mul (.fin false fixLn2 (-256))).exp
  else if o = 0x12 then x.ln
  else if o = 0x13 then x.ln.div (.fin false fixLn2 (-256))
  else if o = 0x14 then x.tanh
  else if o = 0x15 then x.sigmoid
  else if o = 0x16 then x.gelu
  else x.mul x.sigmoid

/-- The magnitude that a code stands for on the grid of codes, which goes on past the largest finite one. -/
def Fmt.gridValue (f : Fmt) (neg : Bool) (c : Nat) : Num :=
  let ex := c / 2 ^ f.mbits
  let m := c % 2 ^ f.mbits
  if ex = 0 then .fin neg m (f.emin - f.mbits) else .fin neg (2 ^ f.mbits + m) ((ex : Int) - f.bias - f.mbits)

/-- A code of a format whose value lies within 2 units in the last place of a value, chosen by `d` among them.
(DESIGN CHOICE: log entry 17) -/
def Fmt.nearCode (f : Fmt) (d : Nat) : Num → Nat
  | .fin neg m e =>
    let g : Int := if m = 0 then 0 else f.gridCode m e
    let unit := (if m = 0 then f.emin else max (floorLog2 m e) f.emin) - f.mbits
    let c := g + ((d % 9 : Nat) : Int) - 4
    let off := ((f.gridValue (decide (c < 0)) c.natAbs).add (.fin true m e)).abs
    let c := if (Num.fin false 1 (unit + 1)).lt off then g else c
    f.withSign (if c < 0 then !neg else neg) (min c.natAbs f.infCode)
  | .inf neg => f.withSign neg f.infCode
  | .nan => f.nanCode

/-- The result of function `o` at a finite input whose code is `c` (R141, R167): free within 2 units in the last place of
the true value. (DESIGN CHOICE: log entry 17) -/
def freeResult (f : Fmt) (o c : Nat) : Num := f.decode (f.nearCode (Config.transcendental (f.mbits * 256 + o) c) (trueValue o (f.decode c)))

/-- The same with its count: saturated where it is an infinity, flushed where it is a zero and the true value is not (R141, R163). -/
def freeCount (f : Fmt) (o c : Nat) : Num × Count :=
  let y := freeResult f o c
  (y, if y.isInf then .sat else if y.isZero && !(trueValue o (f.decode c)).isZero then .flush else .none)

end Sys2Proof.Machine
end

