-- ==== Sys2Proof/Machine/RegFields.lean ====
section
/-!
DEFINITION. RegFields.lean: where every register field and counter of the spec's register maps lies.
One definition for each field of a table, named as the table names it: its BAR0 address (R19) and its
bits. A motif's number is `m`, a stack's `s`, an index within an array of registers `i`.
-/

namespace Sys2Proof.Machine

/-- A register field: the BAR0 address of its register and its bits `hi` down to `lo`. -/
structure Fld where
  addr : Nat
  hi : Nat
  lo : Nat
  deriving DecidableEq, Repr

/-- A 64-bit counter: its address, the address and bit of its OVF bit, and its place as R600 packs it. -/
structure Cnt where
  addr : Nat
  ovf : Nat
  bit : Nat
  place : Nat
  deriving DecidableEq, Repr

/-- The address of offset `off` in the window of motif `m` (R19). -/
def mAddr (m off : Nat) : Nat := 0x1000000 + m * 0x40000 + off

/-- The address of offset `off` in the window of stack `s` (R19). -/
def sAddr (s off : Nat) : Nat := 0x2000000 + s * 0x10000 + off

/-- A counter of the yoke global window: block `b`, bit `i` (R601). -/
def yCnt (b i addr : Nat) : Cnt := ⟨addr, 0x110200 + 8 * b, i, i + 256 * b⟩

/-- A counter of the window of motif `m`: block `b`, bit `i` (R601). -/
def mCnt (m b i addr : Nat) : Cnt :=
  ⟨mAddr m addr, mAddr m (0xE000 + 8 * b), i, i + 256 * b + 65536 * m + 16777216⟩

/-- A counter of the window of stack `s`: block `b`, bit `i` (R601). -/
def sCnt (s b i addr : Nat) : Cnt :=
  ⟨sAddr s addr, sAddr s (0x4000 + 8 * b), i, i + 256 * b + 65536 * s + 33554432⟩


/-- PT_POS_STATE.STATE_X7, 01_the_node.md. -/
def F.PT_POS_STATE_STATE_X7 (i : Nat) : Fld := ⟨0x10000 + 0x4 * i, 31, 28⟩

/-- PT_POS_STATE.STATE_X6, 01_the_node.md. -/
def F.PT_POS_STATE_STATE_X6 (i : Nat) : Fld := ⟨0x10000 + 0x4 * i, 27, 24⟩

/-- PT_POS_STATE.STATE_X5, 01_the_node.md. -/
def F.PT_POS_STATE_STATE_X5 (i : Nat) : Fld := ⟨0x10000 + 0x4 * i, 23, 20⟩

/-- PT_POS_STATE.STATE_X4, 01_the_node.md. -/
def F.PT_POS_STATE_STATE_X4 (i : Nat) : Fld := ⟨0x10000 + 0x4 * i, 19, 16⟩

/-- PT_POS_STATE.STATE_X3, 01_the_node.md. -/
def F.PT_POS_STATE_STATE_X3 (i : Nat) : Fld := ⟨0x10000 + 0x4 * i, 15, 12⟩

/-- PT_POS_STATE.STATE_X2, 01_the_node.md. -/
def F.PT_POS_STATE_STATE_X2 (i : Nat) : Fld := ⟨0x10000 + 0x4 * i, 11, 8⟩

/-- PT_POS_STATE.STATE_X1, 01_the_node.md. -/
def F.PT_POS_STATE_STATE_X1 (i : Nat) : Fld := ⟨0x10000 + 0x4 * i, 7, 4⟩

/-- PT_POS_STATE.STATE_X0, 01_the_node.md. -/
def F.PT_POS_STATE_STATE_X0 (i : Nat) : Fld := ⟨0x10000 + 0x4 * i, 3, 0⟩

/-- PT_POS_SUMMARY.DROPPED, 01_the_node.md. -/
def F.PT_POS_SUMMARY_DROPPED : Fld := ⟨0x10018, 29, 24⟩

/-- PT_POS_SUMMARY.MEMONLY, 01_the_node.md. -/
def F.PT_POS_SUMMARY_MEMONLY : Fld := ⟨0x10018, 21, 16⟩

/-- PT_POS_SUMMARY.SPARE, 01_the_node.md. -/
def F.PT_POS_SUMMARY_SPARE : Fld := ⟨0x10018, 13, 8⟩

/-- PT_POS_SUMMARY.ENABLED, 01_the_node.md. -/
def F.PT_POS_SUMMARY_ENABLED : Fld := ⟨0x10018, 5, 0⟩

/-- RW_PERIOD.SCALE_EN, 02_row_and_gauge.md. -/
def F.RW_PERIOD_SCALE_EN : Fld := ⟨0x20000, 24, 24⟩

/-- RW_PERIOD.OVERRUN_ROWS, 02_row_and_gauge.md. -/
def F.RW_PERIOD_OVERRUN_ROWS : Fld := ⟨0x20000, 21, 16⟩

/-- RW_PERIOD.RP_US, 02_row_and_gauge.md. -/
def F.RW_PERIOD_RP_US : Fld := ⟨0x20000, 12, 0⟩

/-- RW_STATUS.STEP_CNT, 02_row_and_gauge.md. -/
def F.RW_STATUS_STEP_CNT : Fld := ⟨0x20004, 7, 4⟩

/-- RW_STATUS.PHASE, 02_row_and_gauge.md. -/
def F.RW_STATUS_PHASE : Fld := ⟨0x20004, 3, 2⟩

/-- RW_STATUS.HOLDOVER, 02_row_and_gauge.md. -/
def F.RW_STATUS_HOLDOVER : Fld := ⟨0x20004, 1, 1⟩

/-- RW_STATUS.ALIGNED, 02_row_and_gauge.md. -/
def F.RW_STATUS_ALIGNED : Fld := ⟨0x20004, 0, 0⟩

/-- RW_ROW_LO.ROW, 02_row_and_gauge.md. -/
def F.RW_ROW_LO_ROW : Fld := ⟨0x20008, 31, 0⟩

/-- RW_ROW_HI.ROW, 02_row_and_gauge.md. -/
def F.RW_ROW_HI_ROW : Fld := ⟨0x2000C, 15, 0⟩

/-- RW_SHARE.EN_SHARE, 02_row_and_gauge.md. -/
def F.RW_SHARE_EN_SHARE (i : Nat) : Fld := ⟨0x20100 + 0x4 * i, 26, 16⟩

/-- RW_SHARE.CYC_SHARE, 02_row_and_gauge.md. -/
def F.RW_SHARE_CYC_SHARE (i : Nat) : Fld := ⟨0x20100 + 0x4 * i, 10, 0⟩

/-- GA_LIMIT.REJECT, 02_row_and_gauge.md. -/
def F.GA_LIMIT_REJECT : Fld := ⟨0x21000, 31, 31⟩

/-- GA_LIMIT.OVR_W, 02_row_and_gauge.md. -/
def F.GA_LIMIT_OVR_W : Fld := ⟨0x21000, 28, 16⟩

/-- GA_LIMIT.PAT_W, 02_row_and_gauge.md. -/
def F.GA_LIMIT_PAT_W : Fld := ⟨0x21000, 12, 0⟩

/-- GA_MOTIF_PWR.P_MAX_MW, 02_row_and_gauge.md. -/
def F.GA_MOTIF_PWR_P_MAX_MW : Fld := ⟨0x21008, 48, 32⟩

/-- GA_MOTIF_PWR.P_REF_MW, 02_row_and_gauge.md. -/
def F.GA_MOTIF_PWR_P_REF_MW : Fld := ⟨0x21008, 16, 0⟩

/-- GA_NONMOTIF.MEAS_W, 02_row_and_gauge.md. -/
def F.GA_NONMOTIF_MEAS_W : Fld := ⟨0x21010, 27, 16⟩

/-- GA_NONMOTIF.NONMOTIF_W, 02_row_and_gauge.md. -/
def F.GA_NONMOTIF_NONMOTIF_W : Fld := ⟨0x21010, 11, 0⟩

/-- RW_MSTATUS.CUT, 02_row_and_gauge.md. -/
def F.RW_MSTATUS_CUT (m : Nat) : Fld := ⟨mAddr m (0x30000), 7, 7⟩

/-- RW_MSTATUS.FLOOR, 02_row_and_gauge.md. -/
def F.RW_MSTATUS_FLOOR (m : Nat) : Fld := ⟨mAddr m (0x30000), 6, 6⟩

/-- RW_MSTATUS.ADMIT_HALT, 02_row_and_gauge.md. -/
def F.RW_MSTATUS_ADMIT_HALT (m : Nat) : Fld := ⟨mAddr m (0x30000), 5, 5⟩

/-- RW_MSTATUS.EDGE_MISSED, 02_row_and_gauge.md. -/
def F.RW_MSTATUS_EDGE_MISSED (m : Nat) : Fld := ⟨mAddr m (0x30000), 4, 4⟩

/-- RW_MSTATUS.PHASE, 02_row_and_gauge.md. -/
def F.RW_MSTATUS_PHASE (m : Nat) : Fld := ⟨mAddr m (0x30000), 3, 2⟩

/-- RW_REM_CYC.REM_CYC, 02_row_and_gauge.md. -/
def F.RW_REM_CYC_REM_CYC (m : Nat) (i : Nat) : Fld := ⟨mAddr m (0x30100 + 0x8 * i), 31, 0⟩

/-- RW_REM_UJ.REM_UJ, 02_row_and_gauge.md. -/
def F.RW_REM_UJ_REM_UJ (m : Nat) (i : Nat) : Fld := ⟨mAddr m (0x30104 + 0x8 * i), 31, 0⟩

/-- RW_SCALE.EN_SCALE, 02_row_and_gauge.md. -/
def F.RW_SCALE_EN_SCALE (m : Nat) (i : Nat) : Fld := ⟨mAddr m (0x30200 + 0x4 * i), 31, 16⟩

/-- RW_SCALE.CYC_SCALE, 02_row_and_gauge.md. -/
def F.RW_SCALE_CYC_SCALE (m : Nat) (i : Nat) : Fld := ⟨mAddr m (0x30200 + 0x4 * i), 15, 0⟩

/-- GA_MBUDGET.E_M_UJ, 02_row_and_gauge.md. -/
def F.GA_MBUDGET_E_M_UJ (m : Nat) : Fld := ⟨mAddr m (0x30800), 31, 0⟩

/-- GA_MUSED.E_USED_UJ, 02_row_and_gauge.md. -/
def F.GA_MUSED_E_USED_UJ (m : Nat) : Fld := ⟨mAddr m (0x30804), 31, 0⟩

/-- GA_MCLOCK.TJ, 02_row_and_gauge.md. -/
def F.GA_MCLOCK_TJ (m : Nat) : Fld := ⟨mAddr m (0x30808), 15, 8⟩

/-- GA_MCLOCK.STEP, 02_row_and_gauge.md. -/
def F.GA_MCLOCK_STEP (m : Nat) : Fld := ⟨mAddr m (0x30808), 4, 0⟩

/-- Counter RW_CNT.ADMITTED, 02_row_and_gauge.md. -/
def C.RW_CNT_ADMITTED (m : Nat) : Cnt := mCnt m 0 0 (0x30400)

/-- Counter RW_CNT.CARRIED, 02_row_and_gauge.md. -/
def C.RW_CNT_CARRIED (m : Nat) : Cnt := mCnt m 0 1 (0x30408)

/-- Counter RW_CNT.OVERRUN, 02_row_and_gauge.md. -/
def C.RW_CNT_OVERRUN (m : Nat) : Cnt := mCnt m 0 2 (0x30410)

/-- Counter RW_CNT.FORGIVEN_CYC, 02_row_and_gauge.md. -/
def C.RW_CNT_FORGIVEN_CYC (m : Nat) : Cnt := mCnt m 0 3 (0x30418)

/-- Counter RW_CNT.DISCARDED_CYC, 02_row_and_gauge.md. -/
def C.RW_CNT_DISCARDED_CYC (m : Nat) : Cnt := mCnt m 0 4 (0x30420)

/-- Counter RW_CNT.BACKSTOP_US, 02_row_and_gauge.md. -/
def C.RW_CNT_BACKSTOP_US (m : Nat) : Cnt := mCnt m 0 5 (0x30428)

/-- Counter RW_CNT.LATE_BUDGET, 02_row_and_gauge.md. -/
def C.RW_CNT_LATE_BUDGET (m : Nat) : Cnt := mCnt m 0 6 (0x30430)

/-- MX_STATUS.FAULT_WAIT, 04_matrix_engine.md. -/
def F.MX_STATUS_FAULT_WAIT (m : Nat) : Fld := ⟨mAddr m (0x8000), 8, 8⟩

/-- MX_STATUS.QDEPTH, 04_matrix_engine.md. -/
def F.MX_STATUS_QDEPTH (m : Nat) : Fld := ⟨mAddr m (0x8000), 7, 2⟩

/-- MX_STATUS.BUSY_DRAIN, 04_matrix_engine.md. -/
def F.MX_STATUS_BUSY_DRAIN (m : Nat) : Fld := ⟨mAddr m (0x8000), 1, 1⟩

/-- MX_STATUS.BUSY_PROD, 04_matrix_engine.md. -/
def F.MX_STATUS_BUSY_PROD (m : Nat) : Fld := ⟨mAddr m (0x8000), 0, 0⟩

/-- MX_ACCSTATE.GCNT, 04_matrix_engine.md. -/
def F.MX_ACCSTATE_GCNT (m : Nat) (i : Nat) : Fld := ⟨mAddr m (0x8010 + 0x4 * i), 15, 8⟩

/-- MX_ACCSTATE.PENDING, 04_matrix_engine.md. -/
def F.MX_ACCSTATE_PENDING (m : Nat) (i : Nat) : Fld := ⟨mAddr m (0x8010 + 0x4 * i), 2, 2⟩

/-- MX_ACCSTATE.RUN_FMT, 04_matrix_engine.md. -/
def F.MX_ACCSTATE_RUN_FMT (m : Nat) (i : Nat) : Fld := ⟨mAddr m (0x8010 + 0x4 * i), 1, 0⟩

/-- MX_STICKY.BAD_SEEN, 04_matrix_engine.md. -/
def F.MX_STICKY_BAD_SEEN (m : Nat) : Fld := ⟨mAddr m (0x8020), 3, 3⟩

/-- MX_STICKY.INVALID_SEEN, 04_matrix_engine.md. -/
def F.MX_STICKY_INVALID_SEEN (m : Nat) : Fld := ⟨mAddr m (0x8020), 2, 2⟩

/-- MX_STICKY.FLUSH_SEEN, 04_matrix_engine.md. -/
def F.MX_STICKY_FLUSH_SEEN (m : Nat) : Fld := ⟨mAddr m (0x8020), 1, 1⟩

/-- MX_STICKY.SAT_SEEN, 04_matrix_engine.md. -/
def F.MX_STICKY_SAT_SEEN (m : Nat) : Fld := ⟨mAddr m (0x8020), 0, 0⟩

/-- Counter MX_CNT.DESC_DONE, 04_matrix_engine.md. -/
def C.MX_CNT_DESC_DONE (m : Nat) : Cnt := mCnt m 1 0 (0x8100)

/-- Counter MX_CNT.PROD_FCLK, 04_matrix_engine.md. -/
def C.MX_CNT_PROD_FCLK (m : Nat) : Cnt := mCnt m 1 1 (0x8108)

/-- Counter MX_CNT.FEED_STALL, 04_matrix_engine.md. (DESIGN CHOICE: log entry 43) -/
def C.MX_CNT_FEED_STALL (m : Nat) : Cnt := mCnt m 1 2 (0x8110)

/-- Counter MX_CNT.INTERLOCK_STALL, 04_matrix_engine.md. (DESIGN CHOICE: log entry 43) -/
def C.MX_CNT_INTERLOCK_STALL (m : Nat) : Cnt := mCnt m 1 3 (0x8118)

/-- Counter MX_CNT.PROMOTIONS, 04_matrix_engine.md. -/
def C.MX_CNT_PROMOTIONS (m : Nat) : Cnt := mCnt m 1 4 (0x8120)

/-- Counter MX_CNT.FLUSHED_INPUTS, 04_matrix_engine.md. -/
def C.MX_CNT_FLUSHED_INPUTS (m : Nat) : Cnt := mCnt m 1 5 (0x8128)

/-- VE_STATUS.PSUM_WAIT, 05_vector_engine.md. -/
def F.VE_STATUS_PSUM_WAIT (m : Nat) : Fld := ⟨mAddr m (0x9000), 9, 9⟩

/-- VE_STATUS.FAULT_WAIT, 05_vector_engine.md. -/
def F.VE_STATUS_FAULT_WAIT (m : Nat) : Fld := ⟨mAddr m (0x9000), 8, 8⟩

/-- VE_STATUS.STAGED, 05_vector_engine.md. -/
def F.VE_STATUS_STAGED (m : Nat) : Fld := ⟨mAddr m (0x9000), 7, 7⟩

/-- VE_STATUS.QDEPTH, 05_vector_engine.md. -/
def F.VE_STATUS_QDEPTH (m : Nat) : Fld := ⟨mAddr m (0x9000), 6, 2⟩

/-- VE_STATUS.BUSY, 05_vector_engine.md. -/
def F.VE_STATUS_BUSY (m : Nat) : Fld := ⟨mAddr m (0x9000), 0, 0⟩

/-- VE_STICKY.INDEX_RANGE, 05_vector_engine.md. -/
def F.VE_STICKY_INDEX_RANGE (m : Nat) : Fld := ⟨mAddr m (0x9010), 5, 5⟩

/-- VE_STICKY.PARTIAL_SEEN, 05_vector_engine.md. -/
def F.VE_STICKY_PARTIAL_SEEN (m : Nat) : Fld := ⟨mAddr m (0x9010), 4, 4⟩

/-- VE_STICKY.BAD_SEEN, 05_vector_engine.md. -/
def F.VE_STICKY_BAD_SEEN (m : Nat) : Fld := ⟨mAddr m (0x9010), 3, 3⟩

/-- VE_STICKY.INVALID_SEEN, 05_vector_engine.md. -/
def F.VE_STICKY_INVALID_SEEN (m : Nat) : Fld := ⟨mAddr m (0x9010), 2, 2⟩

/-- VE_STICKY.FLUSH_SEEN, 05_vector_engine.md. -/
def F.VE_STICKY_FLUSH_SEEN (m : Nat) : Fld := ⟨mAddr m (0x9010), 1, 1⟩

/-- VE_STICKY.SAT_SEEN, 05_vector_engine.md. -/
def F.VE_STICKY_SAT_SEEN (m : Nat) : Fld := ⟨mAddr m (0x9010), 0, 0⟩

/-- Counter VE_CNT.DESC_DONE, 05_vector_engine.md. -/
def C.VE_CNT_DESC_DONE (m : Nat) : Cnt := mCnt m 2 0 (0x9100)

/-- Counter VE_CNT.POSITIONS, 05_vector_engine.md. -/
def C.VE_CNT_POSITIONS (m : Nat) : Cnt := mCnt m 2 1 (0x9108)

/-- Counter VE_CNT.LANE_FCLK, 05_vector_engine.md. -/
def C.VE_CNT_LANE_FCLK (m : Nat) : Cnt := mCnt m 2 2 (0x9110)

/-- Counter VE_CNT.FEED_STALL, 05_vector_engine.md. -/
def C.VE_CNT_FEED_STALL (m : Nat) : Cnt := mCnt m 2 3 (0x9118)

/-- Counter VE_CNT.STAGED_DESC, 05_vector_engine.md. -/
def C.VE_CNT_STAGED_DESC (m : Nat) : Cnt := mCnt m 2 4 (0x9120)

/-- Counter VE_CNT.INDEX_RANGE_EL, 05_vector_engine.md. -/
def C.VE_CNT_INDEX_RANGE_EL (m : Nat) : Cnt := mCnt m 2 5 (0x9128)

/-- Counter VE_CNT.PSUM_WAIT_FCLK, 05_vector_engine.md. -/
def C.VE_CNT_PSUM_WAIT_FCLK (m : Nat) : Cnt := mCnt m 2 6 (0x9130)

/-- TG_STATUS.HALTED, 06_thread_groups.md. -/
def F.TG_STATUS_HALTED (m : Nat) : Fld := ⟨mAddr m (0xA000), 17, 17⟩

/-- TG_STATUS.FAULT_WAIT, 06_thread_groups.md. -/
def F.TG_STATUS_FAULT_WAIT (m : Nat) : Fld := ⟨mAddr m (0xA000), 16, 16⟩

/-- TG_STATUS.RES_BLOCKS, 06_thread_groups.md. -/
def F.TG_STATUS_RES_BLOCKS (m : Nat) : Fld := ⟨mAddr m (0xA000), 15, 8⟩

/-- TG_STATUS.RES_GROUPS, 06_thread_groups.md. -/
def F.TG_STATUS_RES_GROUPS (m : Nat) : Fld := ⟨mAddr m (0xA000), 7, 0⟩

/-- TG_STICKY.INVALID_SEEN, 06_thread_groups.md. -/
def F.TG_STICKY_INVALID_SEEN (m : Nat) : Fld := ⟨mAddr m (0xA010), 4, 4⟩

/-- TG_STICKY.FLUSH_SEEN, 06_thread_groups.md. -/
def F.TG_STICKY_FLUSH_SEEN (m : Nat) : Fld := ⟨mAddr m (0xA010), 3, 3⟩

/-- TG_STICKY.SAT_SEEN, 06_thread_groups.md. -/
def F.TG_STICKY_SAT_SEEN (m : Nat) : Fld := ⟨mAddr m (0xA010), 2, 2⟩

/-- TG_STICKY.GROUP_FAULT, 06_thread_groups.md. -/
def F.TG_STICKY_GROUP_FAULT (m : Nat) : Fld := ⟨mAddr m (0xA010), 1, 1⟩

/-- TG_STICKY.INDEX_RANGE, 06_thread_groups.md. -/
def F.TG_STICKY_INDEX_RANGE (m : Nat) : Fld := ⟨mAddr m (0xA010), 0, 0⟩

/-- TG_NEEDLE.READY, 06_thread_groups.md. -/
def F.TG_NEEDLE_READY (m : Nat) (i : Nat) : Fld := ⟨mAddr m (0xA040 + 0x4 * i), 31, 16⟩

/-- TG_NEEDLE.RESIDENT, 06_thread_groups.md. -/
def F.TG_NEEDLE_RESIDENT (m : Nat) (i : Nat) : Fld := ⟨mAddr m (0xA040 + 0x4 * i), 15, 0⟩

/-- Counter TG_CNT.GROUP_INSTR, 06_thread_groups.md. -/
def C.TG_CNT_GROUP_INSTR (m : Nat) : Cnt := mCnt m 3 0 (0xA100)

/-- Counter TG_CNT.IDLE_SLOTS, 06_thread_groups.md. -/
def C.TG_CNT_IDLE_SLOTS (m : Nat) : Cnt := mCnt m 3 1 (0xA108)

/-- Counter TG_CNT.LINE_REQ, 06_thread_groups.md. -/
def C.TG_CNT_LINE_REQ (m : Nat) : Cnt := mCnt m 3 2 (0xA110)

/-- Counter TG_CNT.ATOMIC_REQ, 06_thread_groups.md. -/
def C.TG_CNT_ATOMIC_REQ (m : Nat) : Cnt := mCnt m 3 3 (0xA118)

/-- Counter TG_CNT.INDEX_RANGE_EL, 06_thread_groups.md. -/
def C.TG_CNT_INDEX_RANGE_EL (m : Nat) : Cnt := mCnt m 3 4 (0xA120)

/-- Counter TG_CNT.BARRIER_FCLK, 06_thread_groups.md. -/
def C.TG_CNT_BARRIER_FCLK (m : Nat) : Cnt := mCnt m 3 5 (0xA128)

/-- Counter TG_CNT.WAIT_FCLK, 06_thread_groups.md. -/
def C.TG_CNT_WAIT_FCLK (m : Nat) : Cnt := mCnt m 3 6 (0xA130)

/-- Counter TG_CNT.GROUPS_DONE, 06_thread_groups.md. -/
def C.TG_CNT_GROUPS_DONE (m : Nat) : Cnt := mCnt m 3 7 (0xA138)

/-- Counter TG_CNT.GROUP_FAULTS, 06_thread_groups.md. -/
def C.TG_CNT_GROUP_FAULTS (m : Nat) : Cnt := mCnt m 3 8 (0xA140)

/-- QE_ADMIN_SQ.BASE, 07_queues_and_skeins.md. -/
def F.QE_ADMIN_SQ_BASE : Fld := ⟨0x40000, 63, 12⟩

/-- QE_ADMIN_SQ.LOG2_ENTRIES, 07_queues_and_skeins.md. -/
def F.QE_ADMIN_SQ_LOG2_ENTRIES : Fld := ⟨0x40000, 11, 8⟩

/-- QE_ADMIN_SQ.LOC, 07_queues_and_skeins.md. -/
def F.QE_ADMIN_SQ_LOC : Fld := ⟨0x40000, 1, 1⟩

/-- QE_ADMIN_SQ.EN, 07_queues_and_skeins.md. -/
def F.QE_ADMIN_SQ_EN : Fld := ⟨0x40000, 0, 0⟩

/-- QE_ADMIN_CQ.BASE, 07_queues_and_skeins.md. -/
def F.QE_ADMIN_CQ_BASE : Fld := ⟨0x40008, 63, 12⟩

/-- QE_ADMIN_CQ.LOG2_ENTRIES, 07_queues_and_skeins.md. -/
def F.QE_ADMIN_CQ_LOG2_ENTRIES : Fld := ⟨0x40008, 11, 8⟩

/-- QE_ADMIN_CQ.LOC, 07_queues_and_skeins.md. -/
def F.QE_ADMIN_CQ_LOC : Fld := ⟨0x40008, 1, 1⟩

/-- QE_ADMIN_CQ.EN, 07_queues_and_skeins.md. -/
def F.QE_ADMIN_CQ_EN : Fld := ⟨0x40008, 0, 0⟩

/-- QE_ADMIN_VEC.LEVEL, 07_queues_and_skeins.md. -/
def F.QE_ADMIN_VEC_LEVEL : Fld := ⟨0x40010, 28, 16⟩

/-- QE_ADMIN_VEC.VECTOR, 07_queues_and_skeins.md. -/
def F.QE_ADMIN_VEC_VECTOR : Fld := ⟨0x40010, 10, 0⟩

/-- QE_CQ_DB.CI, 07_queues_and_skeins.md. -/
def F.QE_CQ_DB_CI : Fld := ⟨0x40020, 39, 16⟩

/-- QE_CQ_DB.RING_ID, 07_queues_and_skeins.md. -/
def F.QE_CQ_DB_RING_ID : Fld := ⟨0x40020, 15, 0⟩

/-- QE_QSEL.QID, 07_queues_and_skeins.md. -/
def F.QE_QSEL_QID : Fld := ⟨0x40100, 19, 0⟩

/-- QE_QSTATE.CLASS, 07_queues_and_skeins.md. -/
def F.QE_QSTATE_CLASS : Fld := ⟨0x40104, 31, 28⟩

/-- QE_QSTATE.ASID, 07_queues_and_skeins.md. -/
def F.QE_QSTATE_ASID : Fld := ⟨0x40104, 27, 16⟩

/-- QE_QSTATE.NRANK, 07_queues_and_skeins.md. -/
def F.QE_QSTATE_NRANK : Fld := ⟨0x40104, 15, 10⟩

/-- QE_QSTATE.PAUSE_CAUSE, 07_queues_and_skeins.md. -/
def F.QE_QSTATE_PAUSE_CAUSE : Fld := ⟨0x40104, 9, 8⟩

/-- QE_QSTATE.STATE, 07_queues_and_skeins.md. -/
def F.QE_QSTATE_STATE : Fld := ⟨0x40104, 2, 0⟩

/-- QE_QIDX.SQ_HEAD, 07_queues_and_skeins.md. -/
def F.QE_QIDX_SQ_HEAD : Fld := ⟨0x40108, 23, 0⟩

/-- QE_STICKY.HOST_LOST, 07_queues_and_skeins.md. -/
def F.QE_STICKY_HOST_LOST : Fld := ⟨0x40200, 4, 4⟩

/-- QE_STICKY.CQ_FULL, 07_queues_and_skeins.md. -/
def F.QE_STICKY_CQ_FULL : Fld := ⟨0x40200, 3, 3⟩

/-- QE_STICKY.DEADLINE, 07_queues_and_skeins.md. -/
def F.QE_STICKY_DEADLINE : Fld := ⟨0x40200, 2, 2⟩

/-- QE_STICKY.DB_INVALID, 07_queues_and_skeins.md. -/
def F.QE_STICKY_DB_INVALID : Fld := ⟨0x40200, 1, 1⟩

/-- QE_STICKY.DB_AHEAD, 07_queues_and_skeins.md. -/
def F.QE_STICKY_DB_AHEAD : Fld := ⟨0x40200, 0, 0⟩

/-- Counter QE_CNT.CMD_DONE, 07_queues_and_skeins.md. -/
def C.QE_CNT_CMD_DONE : Cnt := yCnt 0 0 (0x40400)

/-- Counter QE_CNT.STITCHES, 07_queues_and_skeins.md. -/
def C.QE_CNT_STITCHES : Cnt := yCnt 0 1 (0x40408)

/-- Counter QE_CNT.SEQ_REREADS, 07_queues_and_skeins.md. -/
def C.QE_CNT_SEQ_REREADS : Cnt := yCnt 0 2 (0x40410)

/-- Counter QE_CNT.DB_DROPPED, 07_queues_and_skeins.md. -/
def C.QE_CNT_DB_DROPPED : Cnt := yCnt 0 3 (0x40418)

/-- Counter QE_CNT.DB_IGNORED, 07_queues_and_skeins.md. -/
def C.QE_CNT_DB_IGNORED : Cnt := yCnt 0 4 (0x40420)

/-- Counter QE_CNT.CQ_HELD, 07_queues_and_skeins.md. -/
def C.QE_CNT_CQ_HELD : Cnt := yCnt 0 5 (0x40428)

/-- Counter QE_CNT.DEADLINE_MISSED, 07_queues_and_skeins.md. -/
def C.QE_CNT_DEADLINE_MISSED : Cnt := yCnt 0 6 (0x40430)

/-- SK_POOL_CFG.POOL_CELLS, 07_queues_and_skeins.md. -/
def F.SK_POOL_CFG_POOL_CELLS : Fld := ⟨0x50000, 30, 8⟩

/-- SK_POOL_CFG.LOG2_CELL, 07_queues_and_skeins.md. -/
def F.SK_POOL_CFG_LOG2_CELL : Fld := ⟨0x50000, 4, 0⟩

/-- SK_POOL_BASE.BASE, 07_queues_and_skeins.md. -/
def F.SK_POOL_BASE_BASE : Fld := ⟨0x50008, 47, 0⟩

/-- SK_POOL_FREE.RS, 07_queues_and_skeins.md. -/
def F.SK_POOL_FREE_RS : Fld := ⟨0x50010, 54, 32⟩

/-- SK_POOL_FREE.FU, 07_queues_and_skeins.md. -/
def F.SK_POOL_FREE_FU : Fld := ⟨0x50010, 22, 0⟩

/-- SK_STICKY.LATE_ANY, 07_queues_and_skeins.md. -/
def F.SK_STICKY_LATE_ANY : Fld := ⟨0x50020, 2, 2⟩

/-- SK_STICKY.OVERRUN_ANY, 07_queues_and_skeins.md. -/
def F.SK_STICKY_OVERRUN_ANY : Fld := ⟨0x50020, 1, 1⟩

/-- SK_STICKY.CORRUPT, 07_queues_and_skeins.md. -/
def F.SK_STICKY_CORRUPT : Fld := ⟨0x50020, 0, 0⟩

/-- Counter SK_CNT.OPS, 07_queues_and_skeins.md. -/
def C.SK_CNT_OPS : Cnt := yCnt 1 0 (0x50400)

/-- Counter SK_CNT.CELLS_TAKEN, 07_queues_and_skeins.md. -/
def C.SK_CNT_CELLS_TAKEN : Cnt := yCnt 1 1 (0x50408)

/-- Counter SK_CNT.CELLS_FREED, 07_queues_and_skeins.md. -/
def C.SK_CNT_CELLS_FREED : Cnt := yCnt 1 2 (0x50410)

/-- Counter SK_CNT.FULL, 07_queues_and_skeins.md. -/
def C.SK_CNT_FULL : Cnt := yCnt 1 3 (0x50418)

/-- Counter SK_CNT.REFUSED, 07_queues_and_skeins.md. -/
def C.SK_CNT_REFUSED : Cnt := yCnt 1 4 (0x50420)

/-- Counter SK_CNT.LINKS, 07_queues_and_skeins.md. -/
def C.SK_CNT_LINKS : Cnt := yCnt 1 5 (0x50428)

/-- SK_COUNT.ROOM, 07_queues_and_skeins.md. -/
def F.SK_COUNT_ROOM (i : Nat) : Fld := ⟨0x800000 + 0x8 * i, 54, 32⟩

/-- SK_COUNT.BROKEN, 07_queues_and_skeins.md. -/
def F.SK_COUNT_BROKEN (i : Nat) : Fld := ⟨0x800000 + 0x8 * i, 26, 26⟩

/-- SK_COUNT.LATE, 07_queues_and_skeins.md. -/
def F.SK_COUNT_LATE (i : Nat) : Fld := ⟨0x800000 + 0x8 * i, 25, 25⟩

/-- SK_COUNT.OVERRUN, 07_queues_and_skeins.md. -/
def F.SK_COUNT_OVERRUN (i : Nat) : Fld := ⟨0x800000 + 0x8 * i, 24, 24⟩

/-- SK_COUNT.OPEN, 07_queues_and_skeins.md. -/
def F.SK_COUNT_OPEN (i : Nat) : Fld := ⟨0x800000 + 0x8 * i, 23, 23⟩

/-- SK_COUNT.AVAIL, 07_queues_and_skeins.md. -/
def F.SK_COUNT_AVAIL (i : Nat) : Fld := ⟨0x800000 + 0x8 * i, 22, 0⟩

/-- L2_CFG.MSHR, 08_local_memory_and_coherence.md. -/
def F.L2_CFG_MSHR (m : Nat) : Fld := ⟨mAddr m (0xB000), 23, 16⟩

/-- L2_CFG.WAYS, 08_local_memory_and_coherence.md. -/
def F.L2_CFG_WAYS (m : Nat) : Fld := ⟨mAddr m (0xB000), 15, 8⟩

/-- L2_CFG.LOG2_SETS, 08_local_memory_and_coherence.md. -/
def F.L2_CFG_LOG2_SETS (m : Nat) : Fld := ⟨mAddr m (0xB000), 7, 0⟩

/-- L2_PRED_CTL.CLEAR, 08_local_memory_and_coherence.md. -/
def F.L2_PRED_CTL_CLEAR (m : Nat) : Fld := ⟨mAddr m (0xB004), 2, 2⟩

/-- L2_PRED_CTL.MODE, 08_local_memory_and_coherence.md. -/
def F.L2_PRED_CTL_MODE (m : Nat) : Fld := ⟨mAddr m (0xB004), 1, 0⟩

/-- L2_STICKY.POISONED, 08_local_memory_and_coherence.md. -/
def F.L2_STICKY_POISONED (m : Nat) : Fld := ⟨mAddr m (0xB010), 2, 2⟩

/-- L2_STICKY.RES_FULL, 08_local_memory_and_coherence.md. -/
def F.L2_STICKY_RES_FULL (m : Nat) : Fld := ⟨mAddr m (0xB010), 1, 1⟩

/-- L2_STICKY.STARVED, 08_local_memory_and_coherence.md. -/
def F.L2_STICKY_STARVED (m : Nat) : Fld := ⟨mAddr m (0xB010), 0, 0⟩

/-- L2_DIR_STATUS.RES_USED, 08_local_memory_and_coherence.md. -/
def F.L2_DIR_STATUS_RES_USED (m : Nat) : Fld := ⟨mAddr m (0xB020), 24, 16⟩

/-- L2_DIR_STATUS.ATOM_Q, 08_local_memory_and_coherence.md. -/
def F.L2_DIR_STATUS_ATOM_Q (m : Nat) : Fld := ⟨mAddr m (0xB020), 6, 0⟩

/-- Counter L2_CNT.HITS, 08_local_memory_and_coherence.md. -/
def C.L2_CNT_HITS (m : Nat) : Cnt := mCnt m 4 0 (0xB100)

/-- Counter L2_CNT.MISSES, 08_local_memory_and_coherence.md. -/
def C.L2_CNT_MISSES (m : Nat) : Cnt := mCnt m 4 1 (0xB108)

/-- Counter L2_CNT.WRITEBACKS, 08_local_memory_and_coherence.md. -/
def C.L2_CNT_WRITEBACKS (m : Nat) : Cnt := mCnt m 4 2 (0xB110)

/-- Counter L2_CNT.NACKS, 08_local_memory_and_coherence.md. -/
def C.L2_CNT_NACKS (m : Nat) : Cnt := mCnt m 4 3 (0xB118)

/-- Counter L2_CNT.RESERVED, 08_local_memory_and_coherence.md. -/
def C.L2_CNT_RESERVED (m : Nat) : Cnt := mCnt m 4 4 (0xB120)

/-- Counter L2_CNT.NEAR_ATOMICS, 08_local_memory_and_coherence.md. -/
def C.L2_CNT_NEAR_ATOMICS (m : Nat) : Cnt := mCnt m 4 5 (0xB128)

/-- Counter L2_CNT.FAR_ATOMICS, 08_local_memory_and_coherence.md. -/
def C.L2_CNT_FAR_ATOMICS (m : Nat) : Cnt := mCnt m 4 6 (0xB130)

/-- Counter L2_CNT.PUSH_IN, 08_local_memory_and_coherence.md. -/
def C.L2_CNT_PUSH_IN (m : Nat) : Cnt := mCnt m 4 7 (0xB138)

/-- Counter L2_CNT.PUSH_REFUSED, 08_local_memory_and_coherence.md. -/
def C.L2_CNT_PUSH_REFUSED (m : Nat) : Cnt := mCnt m 4 8 (0xB140)

/-- Counter L2_CNT.LM_CONFLICT, 08_local_memory_and_coherence.md. -/
def C.L2_CNT_LM_CONFLICT (m : Nat) : Cnt := mCnt m 4 9 (0xB148)

/-- Counter L2_DIR_CNT.REQUESTS, 08_local_memory_and_coherence.md. -/
def C.L2_DIR_CNT_REQUESTS (m : Nat) : Cnt := mCnt m 5 0 (0xB200)

/-- Counter L2_DIR_CNT.NACK_BUSY, 08_local_memory_and_coherence.md. -/
def C.L2_DIR_CNT_NACK_BUSY (m : Nat) : Cnt := mCnt m 5 1 (0xB208)

/-- Counter L2_DIR_CNT.NACK_SET, 08_local_memory_and_coherence.md. -/
def C.L2_DIR_CNT_NACK_SET (m : Nat) : Cnt := mCnt m 5 2 (0xB210)

/-- Counter L2_DIR_CNT.NACK_ATOM, 08_local_memory_and_coherence.md. -/
def C.L2_DIR_CNT_NACK_ATOM (m : Nat) : Cnt := mCnt m 5 3 (0xB218)

/-- Counter L2_DIR_CNT.DIR_EVICT, 08_local_memory_and_coherence.md. -/
def C.L2_DIR_CNT_DIR_EVICT (m : Nat) : Cnt := mCnt m 5 4 (0xB220)

/-- Counter L2_DIR_CNT.FAR_EXEC, 08_local_memory_and_coherence.md. -/
def C.L2_DIR_CNT_FAR_EXEC (m : Nat) : Cnt := mCnt m 5 5 (0xB228)

/-- Counter L2_DIR_CNT.PUSH_DROPPED, 08_local_memory_and_coherence.md. -/
def C.L2_DIR_CNT_PUSH_DROPPED (m : Nat) : Cnt := mCnt m 5 6 (0xB230)

/-- Counter L2_SC_CNT.HITS, 08_local_memory_and_coherence.md. -/
def C.L2_SC_CNT_HITS : Cnt := yCnt 2 0 (0x60000)

/-- Counter L2_SC_CNT.MISSES, 08_local_memory_and_coherence.md. -/
def C.L2_SC_CNT_MISSES : Cnt := yCnt 2 1 (0x60008)

/-- Counter L2_SC_CNT.SF_EVICT, 08_local_memory_and_coherence.md. -/
def C.L2_SC_CNT_SF_EVICT : Cnt := yCnt 2 2 (0x60010)

/-- HB_STATUS.TEMP, 09_stacked_memory.md. -/
def F.HB_STATUS_TEMP (s : Nat) : Fld := ⟨sAddr s (0x0), 31, 24⟩

/-- HB_STATUS.THROTTLE, 09_stacked_memory.md. -/
def F.HB_STATUS_THROTTLE (s : Nat) : Fld := ⟨sAddr s (0x0), 23, 20⟩

/-- HB_STATUS.REFRESH_X2, 09_stacked_memory.md. -/
def F.HB_STATUS_REFRESH_X2 (s : Nat) : Fld := ⟨sAddr s (0x0), 19, 19⟩

/-- HB_STATUS.SELF_REFRESH, 09_stacked_memory.md. -/
def F.HB_STATUS_SELF_REFRESH (s : Nat) : Fld := ⟨sAddr s (0x0), 18, 18⟩

/-- HB_STATUS.PC_OUT, 09_stacked_memory.md. -/
def F.HB_STATUS_PC_OUT (s : Nat) : Fld := ⟨sAddr s (0x0), 14, 8⟩

/-- HB_STATUS.STATE, 09_stacked_memory.md. -/
def F.HB_STATUS_STATE (s : Nat) : Fld := ⟨sAddr s (0x0), 2, 0⟩

/-- HB_PC_OUT.OUT, 09_stacked_memory.md. -/
def F.HB_PC_OUT_OUT (s : Nat) : Fld := ⟨sAddr s (0x8), 63, 0⟩

/-- HB_PC_FENCED.FENCED, 09_stacked_memory.md. -/
def F.HB_PC_FENCED_FENCED (s : Nat) : Fld := ⟨sAddr s (0x10), 63, 0⟩

/-- HB_PC_TEST.TEST, 09_stacked_memory.md. -/
def F.HB_PC_TEST_TEST (s : Nat) : Fld := ⟨sAddr s (0x18), 63, 0⟩

/-- HB_ERR.VALID, 09_stacked_memory.md. -/
def F.HB_ERR_VALID (s : Nat) : Fld := ⟨sAddr s (0x100), 63, 63⟩

/-- HB_ERR.KIND, 09_stacked_memory.md. -/
def F.HB_ERR_KIND (s : Nat) : Fld := ⟨sAddr s (0x100), 62, 60⟩

/-- HB_ERR.PA, 09_stacked_memory.md. -/
def F.HB_ERR_PA (s : Nat) : Fld := ⟨sAddr s (0x100), 47, 0⟩

/-- HB_INJECT.ARM, 09_stacked_memory.md. -/
def F.HB_INJECT_ARM (s : Nat) : Fld := ⟨sAddr s (0x200), 31, 31⟩

/-- HB_INJECT.BIT_C, 09_stacked_memory.md. -/
def F.HB_INJECT_BIT_C (s : Nat) : Fld := ⟨sAddr s (0x200), 23, 16⟩

/-- HB_INJECT.BIT_B, 09_stacked_memory.md. -/
def F.HB_INJECT_BIT_B (s : Nat) : Fld := ⟨sAddr s (0x200), 15, 8⟩

/-- HB_INJECT.BIT_A, 09_stacked_memory.md. -/
def F.HB_INJECT_BIT_A (s : Nat) : Fld := ⟨sAddr s (0x200), 7, 0⟩

/-- Counter HB_CNT.CE1, 09_stacked_memory.md. -/
def C.HB_CNT_CE1 (s : Nat) : Cnt := sCnt s 0 0 (0x400)

/-- Counter HB_CNT.CE2, 09_stacked_memory.md. -/
def C.HB_CNT_CE2 (s : Nat) : Cnt := sCnt s 0 1 (0x408)

/-- Counter HB_CNT.UE, 09_stacked_memory.md. -/
def C.HB_CNT_UE (s : Nat) : Cnt := sCnt s 0 2 (0x410)

/-- Counter HB_CNT.POISON_CONSUMED, 09_stacked_memory.md. -/
def C.HB_CNT_POISON_CONSUMED (s : Nat) : Cnt := sCnt s 0 3 (0x418)

/-- Counter HB_CNT.RMW, 09_stacked_memory.md. -/
def C.HB_CNT_RMW (s : Nat) : Cnt := sCnt s 0 4 (0x420)

/-- Counter HB_CNT.SCRUB_GRAN, 09_stacked_memory.md. -/
def C.HB_CNT_SCRUB_GRAN (s : Nat) : Cnt := sCnt s 0 5 (0x428)

/-- Counter HB_CNT.SCRUB_FIX, 09_stacked_memory.md. -/
def C.HB_CNT_SCRUB_FIX (s : Nat) : Cnt := sCnt s 0 6 (0x430)

/-- Counter HB_CNT.SPPR, 09_stacked_memory.md. -/
def C.HB_CNT_SPPR (s : Nat) : Cnt := sCnt s 0 7 (0x438)

/-- Counter HB_CNT.RFM, 09_stacked_memory.md. -/
def C.HB_CNT_RFM (s : Nat) : Cnt := sCnt s 0 8 (0x440)

/-- Counter HB_CNT.THROTTLE_US, 09_stacked_memory.md. -/
def C.HB_CNT_THROTTLE_US (s : Nat) : Cnt := sCnt s 0 9 (0x448)

/-- Counter HB_CNT.INGRESS_FULL_FCLK, 09_stacked_memory.md. -/
def C.HB_CNT_INGRESS_FULL_FCLK (s : Nat) : Cnt := sCnt s 0 10 (0x450)

/-- Counter HB_CNT.FENCED_WRITES, 09_stacked_memory.md. -/
def C.HB_CNT_FENCED_WRITES (s : Nat) : Cnt := sCnt s 0 11 (0x458)

/-- Counter HB_PC_CNT.BURSTS, 09_stacked_memory.md. -/
def C.HB_PC_CNT_BURSTS (s : Nat) (i : Nat) : Cnt := sCnt s 1 i (0x1000 + 0x20 * i)

/-- Counter HB_PC_CNT.QFULL_FCLK, 09_stacked_memory.md. -/
def C.HB_PC_CNT_QFULL_FCLK (s : Nat) (i : Nat) : Cnt := sCnt s 2 i (0x1008 + 0x20 * i)

/-- Counter HB_PC_CNT.CE, 09_stacked_memory.md. -/
def C.HB_PC_CNT_CE (s : Nat) (i : Nat) : Cnt := sCnt s 3 i (0x1010 + 0x20 * i)

/-- Counter HB_PC_CNT.UE, 09_stacked_memory.md. -/
def C.HB_PC_CNT_UE (s : Nat) (i : Nat) : Cnt := sCnt s 4 i (0x1018 + 0x20 * i)

/-- HB_PC_HOT.HOT, 09_stacked_memory.md. -/
def F.HB_PC_HOT_HOT (s : Nat) (i : Nat) : Fld := ⟨sAddr s (0x2000 + 0x4 * i), 31, 31⟩

/-- HB_PC_HOT.STREAK, 09_stacked_memory.md. -/
def F.HB_PC_HOT_STREAK (s : Nat) (i : Nat) : Fld := ⟨sAddr s (0x2000 + 0x4 * i), 15, 0⟩

/-- HB_TGEN.START, 09_stacked_memory.md. -/
def F.HB_TGEN_START (s : Nat) (i : Nat) : Fld := ⟨sAddr s (0x3000 + 0x40 * i), 31, 31⟩

/-- HB_TGEN.BUSY, 09_stacked_memory.md. -/
def F.HB_TGEN_BUSY (s : Nat) (i : Nat) : Fld := ⟨sAddr s (0x3000 + 0x40 * i), 30, 30⟩

/-- HB_TGEN.DONE, 09_stacked_memory.md. -/
def F.HB_TGEN_DONE (s : Nat) (i : Nat) : Fld := ⟨sAddr s (0x3000 + 0x40 * i), 29, 29⟩

/-- HB_TGEN.PATTERN, 09_stacked_memory.md. -/
def F.HB_TGEN_PATTERN (s : Nat) (i : Nat) : Fld := ⟨sAddr s (0x3000 + 0x40 * i), 6, 4⟩

/-- HB_TGEN.MODE, 09_stacked_memory.md. -/
def F.HB_TGEN_MODE (s : Nat) (i : Nat) : Fld := ⟨sAddr s (0x3000 + 0x40 * i), 1, 0⟩

/-- HB_TGEN.FIRST, 09_stacked_memory.md. -/
def F.HB_TGEN_FIRST (s : Nat) (i : Nat) : Fld := ⟨sAddr s (0x3008 + 0x40 * i), 21, 0⟩

/-- HB_TGEN.COUNT, 09_stacked_memory.md. -/
def F.HB_TGEN_COUNT (s : Nat) (i : Nat) : Fld := ⟨sAddr s (0x300C + 0x40 * i), 22, 0⟩

/-- HB_TGEN.SEED, 09_stacked_memory.md. -/
def F.HB_TGEN_SEED (s : Nat) (i : Nat) : Fld := ⟨sAddr s (0x3010 + 0x40 * i), 31, 0⟩

/-- HB_TGEN.MISCOMPARE, 09_stacked_memory.md. -/
def F.HB_TGEN_MISCOMPARE (s : Nat) (i : Nat) : Fld := ⟨sAddr s (0x3018 + 0x40 * i), 63, 0⟩

/-- HB_TGEN.ECC_EVENTS, 09_stacked_memory.md. -/
def F.HB_TGEN_ECC_EVENTS (s : Nat) (i : Nat) : Fld := ⟨sAddr s (0x3020 + 0x40 * i), 63, 0⟩

/-- HB_TGEN.BAD_VALID, 09_stacked_memory.md. -/
def F.HB_TGEN_BAD_VALID (s : Nat) (i : Nat) : Fld := ⟨sAddr s (0x3028 + 0x40 * i), 31, 31⟩

/-- HB_TGEN.FIRST_BAD, 09_stacked_memory.md. -/
def F.HB_TGEN_FIRST_BAD (s : Nat) (i : Nat) : Fld := ⟨sAddr s (0x3028 + 0x40 * i), 21, 0⟩

/-- HB_MAP.STACK_OUT, 09_stacked_memory.md. -/
def F.HB_MAP_STACK_OUT : Fld := ⟨0x70000, 8, 8⟩

/-- HB_MAP.STACK, 09_stacked_memory.md. -/
def F.HB_MAP_STACK : Fld := ⟨0x70000, 7, 4⟩

/-- HB_MAP.PC_MAPOUTS, 09_stacked_memory.md. -/
def F.HB_MAP_PC_MAPOUTS : Fld := ⟨0x70000, 2, 0⟩

/-- HB_SW_TOP.SW_TOP, 09_stacked_memory.md. -/
def F.HB_SW_TOP_SW_TOP : Fld := ⟨0x70008, 47, 0⟩

/-- HB_DONOR.SIZE_4MIB, 09_stacked_memory.md. -/
def F.HB_DONOR_SIZE_4MIB : Fld := ⟨0x70010, 63, 48⟩

/-- HB_DONOR.BASE, 09_stacked_memory.md. -/
def F.HB_DONOR_BASE : Fld := ⟨0x70010, 47, 0⟩

/-- HB_GRANT.PENDING, 09_stacked_memory.md. -/
def F.HB_GRANT_PENDING : Fld := ⟨0x70018, 1, 1⟩

/-- HB_GRANT.GRANT, 09_stacked_memory.md. -/
def F.HB_GRANT_GRANT : Fld := ⟨0x70018, 0, 0⟩

/-- HB_EVAC.STATE, 09_stacked_memory.md. -/
def F.HB_EVAC_STATE : Fld := ⟨0x70020, 63, 61⟩

/-- HB_EVAC.WHOLE_STACK, 09_stacked_memory.md. -/
def F.HB_EVAC_WHOLE_STACK : Fld := ⟨0x70020, 60, 60⟩

/-- HB_EVAC.STACK, 09_stacked_memory.md. -/
def F.HB_EVAC_STACK : Fld := ⟨0x70020, 59, 56⟩

/-- HB_EVAC.PC, 09_stacked_memory.md. -/
def F.HB_EVAC_PC : Fld := ⟨0x70020, 55, 50⟩

/-- HB_EVAC.SEG_TOTAL, 09_stacked_memory.md. -/
def F.HB_EVAC_SEG_TOTAL : Fld := ⟨0x70020, 47, 32⟩

/-- HB_EVAC.SEG_DONE, 09_stacked_memory.md. -/
def F.HB_EVAC_SEG_DONE : Fld := ⟨0x70020, 15, 0⟩

/-- TU_ASID_BASE.BASE, 10_address_translation.md. -/
def F.TU_ASID_BASE_BASE : Fld := ⟨0x80000, 47, 16⟩

/-- TU_FRING_BASE.BASE, 10_address_translation.md. -/
def F.TU_FRING_BASE_BASE : Fld := ⟨0x80008, 63, 12⟩

/-- TU_FRING_BASE.LOG2_ENTRIES, 10_address_translation.md. -/
def F.TU_FRING_BASE_LOG2_ENTRIES : Fld := ⟨0x80008, 6, 2⟩

/-- TU_FRING_BASE.LOC, 10_address_translation.md. -/
def F.TU_FRING_BASE_LOC : Fld := ⟨0x80008, 1, 1⟩

/-- TU_FRING_BASE.EN, 10_address_translation.md. -/
def F.TU_FRING_BASE_EN : Fld := ⟨0x80008, 0, 0⟩

/-- TU_FRING_CTL.LEVEL, 10_address_translation.md. -/
def F.TU_FRING_CTL_LEVEL : Fld := ⟨0x80010, 27, 11⟩

/-- TU_FRING_CTL.VECTOR, 10_address_translation.md. -/
def F.TU_FRING_CTL_VECTOR : Fld := ⟨0x80010, 10, 0⟩

/-- TU_FRING_PI.PI, 10_address_translation.md. -/
def F.TU_FRING_PI_PI : Fld := ⟨0x80014, 23, 0⟩

/-- TU_FRING_CI.CI, 10_address_translation.md. -/
def F.TU_FRING_CI_CI : Fld := ⟨0x80018, 23, 0⟩

/-- TU_FAULT_RESOLVE.ACTION, 10_address_translation.md. -/
def F.TU_FAULT_RESOLVE_ACTION : Fld := ⟨0x80020, 17, 16⟩

/-- TU_FAULT_RESOLVE.GEN, 10_address_translation.md. -/
def F.TU_FAULT_RESOLVE_GEN : Fld := ⟨0x80020, 15, 8⟩

/-- TU_FAULT_RESOLVE.ENTRY, 10_address_translation.md. -/
def F.TU_FAULT_RESOLVE_ENTRY : Fld := ⟨0x80020, 7, 0⟩

/-- TU_STATUS.HELD, 10_address_translation.md. -/
def F.TU_STATUS_HELD : Fld := ⟨0x80024, 9, 9⟩

/-- TU_STATUS.OUTSTANDING, 10_address_translation.md. -/
def F.TU_STATUS_OUTSTANDING : Fld := ⟨0x80024, 8, 0⟩

/-- TU_INV_ADDR.VA, 10_address_translation.md. -/
def F.TU_INV_ADDR_VA : Fld := ⟨0x80030, 47, 12⟩

/-- TU_INV_CTL.GO, 10_address_translation.md. -/
def F.TU_INV_CTL_GO : Fld := ⟨0x80038, 31, 31⟩

/-- TU_INV_CTL.SCOPE, 10_address_translation.md. -/
def F.TU_INV_CTL_SCOPE : Fld := ⟨0x80038, 30, 29⟩

/-- TU_INV_CTL.PAGES, 10_address_translation.md. -/
def F.TU_INV_CTL_PAGES : Fld := ⟨0x80038, 28, 12⟩

/-- TU_INV_CTL.ASID, 10_address_translation.md. -/
def F.TU_INV_CTL_ASID : Fld := ⟨0x80038, 11, 0⟩

/-- TU_INV_STATUS.ISSUED_SEQ, 10_address_translation.md. -/
def F.TU_INV_STATUS_ISSUED_SEQ : Fld := ⟨0x8003C, 31, 16⟩

/-- TU_INV_STATUS.DONE_SEQ, 10_address_translation.md. -/
def F.TU_INV_STATUS_DONE_SEQ : Fld := ⟨0x8003C, 15, 0⟩

/-- TU_STICKY.CI_DROPPED, 10_address_translation.md. -/
def F.TU_STICKY_CI_DROPPED : Fld := ⟨0x80040, 4, 4⟩

/-- TU_STICKY.BAD_RESOLVE, 10_address_translation.md. -/
def F.TU_STICKY_BAD_RESOLVE : Fld := ⟨0x80040, 3, 3⟩

/-- TU_STICKY.INV_REJECT, 10_address_translation.md. -/
def F.TU_STICKY_INV_REJECT : Fld := ⟨0x80040, 2, 2⟩

/-- TU_STICKY.COLLECTOR_FULL, 10_address_translation.md. -/
def F.TU_STICKY_COLLECTOR_FULL : Fld := ⟨0x80040, 1, 1⟩

/-- TU_STICKY.RING_FULL, 10_address_translation.md. -/
def F.TU_STICKY_RING_FULL : Fld := ⟨0x80040, 0, 0⟩

/-- TU_NODE_SLOT.V, 10_address_translation.md. -/
def F.TU_NODE_SLOT_V (i : Nat) : Fld := ⟨0x80400 + 0x4 * i, 31, 31⟩

/-- TU_NODE_SLOT.NODE, 10_address_translation.md. -/
def F.TU_NODE_SLOT_NODE (i : Nat) : Fld := ⟨0x80400 + 0x4 * i, 15, 0⟩

/-- TU_IWIN.EN, 10_address_translation.md. -/
def F.TU_IWIN_EN (i : Nat) : Fld := ⟨0x81000 + 0x20 * i, 31, 31⟩

/-- TU_IWIN.SIZE, 10_address_translation.md. -/
def F.TU_IWIN_SIZE (i : Nat) : Fld := ⟨0x81000 + 0x20 * i, 24, 0⟩

/-- TU_IWIN.MASK, 10_address_translation.md. -/
def F.TU_IWIN_MASK (i : Nat) : Fld := ⟨0x81004 + 0x20 * i, 31, 16⟩

/-- TU_IWIN.NODE, 10_address_translation.md. -/
def F.TU_IWIN_NODE (i : Nat) : Fld := ⟨0x81004 + 0x20 * i, 15, 0⟩

/-- TU_IWIN.TABLE, 10_address_translation.md. -/
def F.TU_IWIN_TABLE (i : Nat) : Fld := ⟨0x81008 + 0x20 * i, 47, 12⟩

/-- Counter TU_CNT.WALKS, 10_address_translation.md. -/
def C.TU_CNT_WALKS : Cnt := yCnt 3 0 (0x82000)

/-- Counter TU_CNT.FAULTS, 10_address_translation.md. -/
def C.TU_CNT_FAULTS : Cnt := yCnt 3 1 (0x82008)

/-- Counter TU_CNT.RECORDS, 10_address_translation.md. -/
def C.TU_CNT_RECORDS : Cnt := yCnt 3 2 (0x82010)

/-- Counter TU_CNT.LATE_JOINS, 10_address_translation.md. -/
def C.TU_CNT_LATE_JOINS : Cnt := yCnt 3 3 (0x82018)

/-- Counter TU_CNT.INVALIDATIONS, 10_address_translation.md. -/
def C.TU_CNT_INVALIDATIONS : Cnt := yCnt 3 4 (0x82020)

/-- Counter TU_CNT.MIG_PAGES, 10_address_translation.md. -/
def C.TU_CNT_MIG_PAGES : Cnt := yCnt 3 5 (0x82028)

/-- Counter TU_CNT.REMOTE_REFUSED, 10_address_translation.md. -/
def C.TU_CNT_REMOTE_REFUSED : Cnt := yCnt 3 6 (0x82030)

/-- Counter TU_CNT.WINDOW_REFUSED, 10_address_translation.md. -/
def C.TU_CNT_WINDOW_REFUSED : Cnt := yCnt 3 7 (0x82038)

/-- Counter TU_MCNT.STLB_HITS, 10_address_translation.md. -/
def C.TU_MCNT_STLB_HITS (m : Nat) : Cnt := mCnt m 6 0 (0xC000)

/-- Counter TU_MCNT.STLB_MISSES, 10_address_translation.md. -/
def C.TU_MCNT_STLB_MISSES (m : Nat) : Cnt := mCnt m 6 1 (0xC008)

/-- Counter TU_MCNT.WALK_READS, 10_address_translation.md. -/
def C.TU_MCNT_WALK_READS (m : Nat) : Cnt := mCnt m 6 2 (0xC010)

/-- SM_SEAM.STATE, 11_seams_and_panel.md. -/
def F.SM_SEAM_STATE (m : Nat) (i : Nat) : Fld := ⟨mAddr m (0xD000 + 0x4 * i), 31, 29⟩

/-- SM_SEAM.WIDTH, 11_seams_and_panel.md. -/
def F.SM_SEAM_WIDTH (m : Nat) (i : Nat) : Fld := ⟨mAddr m (0xD000 + 0x4 * i), 27, 24⟩

/-- SM_SEAM.MODMASK, 11_seams_and_panel.md. -/
def F.SM_SEAM_MODMASK (m : Nat) (i : Nat) : Fld := ⟨mAddr m (0xD000 + 0x4 * i), 23, 16⟩

/-- SM_SEAM.RETRIES, 11_seams_and_panel.md. -/
def F.SM_SEAM_RETRIES (m : Nat) (i : Nat) : Fld := ⟨mAddr m (0xD000 + 0x4 * i), 15, 14⟩

/-- SM_SEAM.RATE, 11_seams_and_panel.md. -/
def F.SM_SEAM_RATE (m : Nat) (i : Nat) : Fld := ⟨mAddr m (0xD000 + 0x4 * i), 11, 9⟩

/-- SM_SEAM.SB_LANES, 11_seams_and_panel.md. -/
def F.SM_SEAM_SB_LANES (m : Nat) (i : Nat) : Fld := ⟨mAddr m (0xD000 + 0x4 * i), 3, 0⟩

/-- SM_YSEAM.STATE, 11_seams_and_panel.md. -/
def F.SM_YSEAM_STATE (i : Nat) : Fld := ⟨0x90000 + 0x4 * i, 31, 29⟩

/-- SM_YSEAM.WIDTH, 11_seams_and_panel.md. -/
def F.SM_YSEAM_WIDTH (i : Nat) : Fld := ⟨0x90000 + 0x4 * i, 27, 24⟩

/-- SM_YSEAM.MODMASK, 11_seams_and_panel.md. -/
def F.SM_YSEAM_MODMASK (i : Nat) : Fld := ⟨0x90000 + 0x4 * i, 23, 16⟩

/-- SM_YSEAM.RETRIES, 11_seams_and_panel.md. -/
def F.SM_YSEAM_RETRIES (i : Nat) : Fld := ⟨0x90000 + 0x4 * i, 15, 14⟩

/-- SM_YSEAM.RATE, 11_seams_and_panel.md. -/
def F.SM_YSEAM_RATE (i : Nat) : Fld := ⟨0x90000 + 0x4 * i, 11, 9⟩

/-- SM_YSEAM.SB_LANES, 11_seams_and_panel.md. -/
def F.SM_YSEAM_SB_LANES (i : Nat) : Fld := ⟨0x90000 + 0x4 * i, 3, 0⟩

/-- Counter SM_CNT.FLIT_RETRY, 11_seams_and_panel.md. -/
def C.SM_CNT_FLIT_RETRY (m : Nat) (i : Nat) : Cnt := mCnt m (7 + i) 0 (0xD100 + 0x20 * i)

/-- Counter SM_CNT.RETRAINS, 11_seams_and_panel.md. -/
def C.SM_CNT_RETRAINS (m : Nat) (i : Nat) : Cnt := mCnt m (7 + i) 1 (0xD108 + 0x20 * i)

/-- Counter SM_CNT.CHAIN_RESEND, 11_seams_and_panel.md. -/
def C.SM_CNT_CHAIN_RESEND (m : Nat) (i : Nat) : Cnt := mCnt m (7 + i) 2 (0xD110 + 0x20 * i)

/-- Counter SM_CNT.CHAIN_BAD, 11_seams_and_panel.md. -/
def C.SM_CNT_CHAIN_BAD (m : Nat) (i : Nat) : Cnt := mCnt m (7 + i) 3 (0xD118 + 0x20 * i)

/-- SM_STICKY.NO_ALTERNATE, 11_seams_and_panel.md. -/
def F.SM_STICKY_NO_ALTERNATE : Fld := ⟨0x90040, 3, 3⟩

/-- SM_STICKY.ISOLATED, 11_seams_and_panel.md. -/
def F.SM_STICKY_ISOLATED : Fld := ⟨0x90040, 2, 2⟩

/-- SM_STICKY.DEGRADED, 11_seams_and_panel.md. -/
def F.SM_STICKY_DEGRADED : Fld := ⟨0x90040, 1, 1⟩

/-- SM_STICKY.REG_TIMEOUT, 11_seams_and_panel.md. -/
def F.SM_STICKY_REG_TIMEOUT : Fld := ⟨0x90040, 0, 0⟩

/-- SM_GUEST.STATE, 11_seams_and_panel.md. -/
def F.SM_GUEST_STATE (i : Nat) : Fld := ⟨0x90100 + 0x100 * i, 31, 29⟩

/-- SM_GUEST.CAUSE, 11_seams_and_panel.md. -/
def F.SM_GUEST_CAUSE (i : Nat) : Fld := ⟨0x90100 + 0x100 * i, 23, 16⟩

/-- SM_GUEST.ROLES, 11_seams_and_panel.md. -/
def F.SM_GUEST_ROLES (i : Nat) : Fld := ⟨0x90100 + 0x100 * i, 5, 0⟩

/-- SM_GACC.BASE, 11_seams_and_panel.md. -/
def F.SM_GACC_BASE (i : Nat) (j : Nat) : Fld := ⟨0x90400 + 0x100 * i + 0x10 * j, 47, 16⟩

/-- SM_GACC.W, 11_seams_and_panel.md. -/
def F.SM_GACC_W (i : Nat) (j : Nat) : Fld := ⟨0x90400 + 0x100 * i + 0x10 * j, 2, 2⟩

/-- SM_GACC.R, 11_seams_and_panel.md. -/
def F.SM_GACC_R (i : Nat) (j : Nat) : Fld := ⟨0x90400 + 0x100 * i + 0x10 * j, 1, 1⟩

/-- SM_GACC.EN, 11_seams_and_panel.md. -/
def F.SM_GACC_EN (i : Nat) (j : Nat) : Fld := ⟨0x90400 + 0x100 * i + 0x10 * j, 0, 0⟩

/-- SM_GACC.SIZE, 11_seams_and_panel.md. -/
def F.SM_GACC_SIZE (i : Nat) (j : Nat) : Fld := ⟨0x90408 + 0x100 * i + 0x10 * j, 24, 0⟩

/-- PX_STATUS.BAR4_LOG2, 12_host_link.md. -/
def F.PX_STATUS_BAR4_LOG2 : Fld := ⟨0xA0000, 21, 16⟩

/-- PX_STATUS.HOST_WAIT, 12_host_link.md. -/
def F.PX_STATUS_HOST_WAIT : Fld := ⟨0xA0000, 12, 12⟩

/-- PX_STATUS.FLIT, 12_host_link.md. -/
def F.PX_STATUS_FLIT : Fld := ⟨0xA0000, 11, 11⟩

/-- PX_STATUS.WIDTH, 12_host_link.md. -/
def F.PX_STATUS_WIDTH : Fld := ⟨0xA0000, 10, 5⟩

/-- PX_STATUS.SPEED, 12_host_link.md. -/
def F.PX_STATUS_SPEED : Fld := ⟨0xA0000, 4, 2⟩

/-- PX_STATUS.DL_UP, 12_host_link.md. -/
def F.PX_STATUS_DL_UP : Fld := ⟨0xA0000, 0, 0⟩

/-- PX_CTL.RO_EN, 12_host_link.md. -/
def F.PX_CTL_RO_EN : Fld := ⟨0xA0004, 0, 0⟩

/-- PX_HINT.BASE, 12_host_link.md. -/
def F.PX_HINT_BASE (i : Nat) : Fld := ⟨0xA0100 + 0x10 * i, 39, 16⟩

/-- PX_HINT.TARGET, 12_host_link.md. -/
def F.PX_HINT_TARGET (i : Nat) : Fld := ⟨0xA0100 + 0x10 * i, 13, 8⟩

/-- PX_HINT.EN, 12_host_link.md. -/
def F.PX_HINT_EN (i : Nat) : Fld := ⟨0xA0100 + 0x10 * i, 0, 0⟩

/-- PX_HINT.SIZE, 12_host_link.md. -/
def F.PX_HINT_SIZE (i : Nat) : Fld := ⟨0xA0108 + 0x10 * i, 24, 0⟩

/-- PX_REQID.V, 12_host_link.md. -/
def F.PX_REQID_V (i : Nat) : Fld := ⟨0xA0200 + 0x4 * i, 31, 31⟩

/-- PX_REQID.RID, 12_host_link.md. -/
def F.PX_REQID_RID (i : Nat) : Fld := ⟨0xA0200 + 0x4 * i, 15, 0⟩

/-- PX_LOST_STATUS.OVF, 12_host_link.md. -/
def F.PX_LOST_STATUS_OVF : Fld := ⟨0xA0300, 31, 31⟩

/-- PX_LOST_STATUS.COUNT, 12_host_link.md. -/
def F.PX_LOST_STATUS_COUNT : Fld := ⟨0xA0300, 16, 0⟩

/-- PX_LOST_POP.POP, 12_host_link.md. -/
def F.PX_LOST_POP_POP : Fld := ⟨0xA0304, 0, 0⟩

/-- PX_LOST_ENTRY.ENTRY, 12_host_link.md. -/
def F.PX_LOST_ENTRY_ENTRY (i : Nat) : Fld := ⟨0xA0320 + 0x4 * i, 31, 0⟩

/-- PX_STICKY.HOST_ERROR, 12_host_link.md. -/
def F.PX_STICKY_HOST_ERROR : Fld := ⟨0xA0400, 5, 5⟩

/-- PX_STICKY.EP_RECEIVED, 12_host_link.md. -/
def F.PX_STICKY_EP_RECEIVED : Fld := ⟨0xA0400, 4, 4⟩

/-- PX_STICKY.EP_SENT, 12_host_link.md. -/
def F.PX_STICKY_EP_SENT : Fld := ⟨0xA0400, 3, 3⟩

/-- PX_STICKY.LINK_DEGRADED, 12_host_link.md. -/
def F.PX_STICKY_LINK_DEGRADED : Fld := ⟨0xA0400, 2, 2⟩

/-- PX_STICKY.REQID_REFUSED, 12_host_link.md. -/
def F.PX_STICKY_REQID_REFUSED : Fld := ⟨0xA0400, 1, 1⟩

/-- PX_STICKY.ACCESS_REFUSED, 12_host_link.md. -/
def F.PX_STICKY_ACCESS_REFUSED : Fld := ⟨0xA0400, 0, 0⟩

/-- PX_REFUSED.VALID, 12_host_link.md. -/
def F.PX_REFUSED_VALID : Fld := ⟨0xA0408, 63, 63⟩

/-- PX_REFUSED.WRITE, 12_host_link.md. -/
def F.PX_REFUSED_WRITE : Fld := ⟨0xA0408, 62, 62⟩

/-- PX_REFUSED.BAR2, 12_host_link.md. -/
def F.PX_REFUSED_BAR2 : Fld := ⟨0xA0408, 61, 61⟩

/-- PX_REFUSED.OFFSET, 12_host_link.md. -/
def F.PX_REFUSED_OFFSET : Fld := ⟨0xA0408, 39, 0⟩

/-- Counter PX_CNT.RETRAINS, 12_host_link.md. -/
def C.PX_CNT_RETRAINS : Cnt := yCnt 4 0 (0xA1000)

/-- Counter PX_CNT.HOST_RESETS, 12_host_link.md. -/
def C.PX_CNT_HOST_RESETS : Cnt := yCnt 4 1 (0xA1008)

/-- Counter PX_CNT.FLUSH_READS, 12_host_link.md. -/
def C.PX_CNT_FLUSH_READS : Cnt := yCnt 4 2 (0xA1010)

/-- Counter PX_CNT.ACCESS_REFUSED, 12_host_link.md. -/
def C.PX_CNT_ACCESS_REFUSED : Cnt := yCnt 4 3 (0xA1018)

/-- Counter PX_CNT.EP_SENT, 12_host_link.md. -/
def C.PX_CNT_EP_SENT : Cnt := yCnt 4 4 (0xA1020)

/-- Counter PX_CNT.EP_RECEIVED, 12_host_link.md. -/
def C.PX_CNT_EP_RECEIVED : Cnt := yCnt 4 5 (0xA1028)

/-- Counter PX_CNT.LOST_COMPLETIONS, 12_host_link.md. -/
def C.PX_CNT_LOST_COMPLETIONS : Cnt := yCnt 4 6 (0xA1030)

/-- Counter PX_CNT.MSIX_SENT, 12_host_link.md. -/
def C.PX_CNT_MSIX_SENT : Cnt := yCnt 4 7 (0xA1038)

/-- FB_PORT.STATE, 13_fabric_and_hall.md. -/
def F.FB_PORT_STATE (i : Nat) : Fld := ⟨0xC0000 + 0x10 * i, 31, 29⟩

/-- FB_PORT.MODE, 13_fabric_and_hall.md. -/
def F.FB_PORT_MODE (i : Nat) : Fld := ⟨0xC0000 + 0x10 * i, 23, 20⟩

/-- FB_PORT.LANES, 13_fabric_and_hall.md. -/
def F.FB_PORT_LANES (i : Nat) : Fld := ⟨0xC0000 + 0x10 * i, 19, 16⟩

/-- FB_PORT.PTP, 13_fabric_and_hall.md. -/
def F.FB_PORT_PTP (i : Nat) : Fld := ⟨0xC0000 + 0x10 * i, 1, 1⟩

/-- FB_STICKY.BAD_FRAME, 13_fabric_and_hall.md. -/
def F.FB_STICKY_BAD_FRAME : Fld := ⟨0xC0040, 4, 4⟩

/-- FB_STICKY.MISDIRECT, 13_fabric_and_hall.md. -/
def F.FB_STICKY_MISDIRECT : Fld := ⟨0xC0040, 3, 3⟩

/-- FB_STICKY.BINDOFF_FORCED, 13_fabric_and_hall.md. -/
def F.FB_STICKY_BINDOFF_FORCED : Fld := ⟨0xC0040, 2, 2⟩

/-- FB_STICKY.FLOW_LOST, 13_fabric_and_hall.md. -/
def F.FB_STICKY_FLOW_LOST : Fld := ⟨0xC0040, 1, 1⟩

/-- FB_STICKY.LOT_DROPPED, 13_fabric_and_hall.md. -/
def F.FB_STICKY_LOT_DROPPED : Fld := ⟨0xC0040, 0, 0⟩

/-- FB_FLOWS.ACTIVE, 13_fabric_and_hall.md. -/
def F.FB_FLOWS_ACTIVE : Fld := ⟨0xC0044, 14, 0⟩

/-- FB_NODE.NODE, 13_fabric_and_hall.md. -/
def F.FB_NODE_NODE : Fld := ⟨0xC0080, 15, 0⟩

/-- FB_VLAN.TAG_EN, 13_fabric_and_hall.md. -/
def F.FB_VLAN_TAG_EN : Fld := ⟨0xC0084, 31, 31⟩

/-- FB_VLAN.PCP_RSP, 13_fabric_and_hall.md. -/
def F.FB_VLAN_PCP_RSP : Fld := ⟨0xC0084, 30, 28⟩

/-- FB_VLAN.PCP_REQ, 13_fabric_and_hall.md. -/
def F.FB_VLAN_PCP_REQ : Fld := ⟨0xC0084, 27, 25⟩

/-- FB_VLAN.VID, 13_fabric_and_hall.md. -/
def F.FB_VLAN_VID : Fld := ⟨0xC0084, 11, 0⟩

/-- FB_XPORT.PPS_EN, 13_fabric_and_hall.md. -/
def F.FB_XPORT_PPS_EN : Fld := ⟨0xC0088, 10, 10⟩

/-- FB_XPORT.PTP_PORT, 13_fabric_and_hall.md. -/
def F.FB_XPORT_PTP_PORT : Fld := ⟨0xC0088, 9, 8⟩

/-- FB_XPORT.RTO_US, 13_fabric_and_hall.md. -/
def F.FB_XPORT_RTO_US : Fld := ⟨0xC0088, 7, 0⟩

/-- FB_LOT_CMD.GO, 13_fabric_and_hall.md. -/
def F.FB_LOT_CMD_GO : Fld := ⟨0xC0900, 63, 63⟩

/-- FB_LOT_CMD.OP, 13_fabric_and_hall.md. -/
def F.FB_LOT_CMD_OP : Fld := ⟨0xC0900, 62, 61⟩

/-- FB_LOT_CMD.INDEX, 13_fabric_and_hall.md. -/
def F.FB_LOT_CMD_INDEX : Fld := ⟨0xC0900, 60, 55⟩

/-- FB_LOT_CMD.ROW, 13_fabric_and_hall.md. -/
def F.FB_LOT_CMD_ROW : Fld := ⟨0xC0900, 47, 0⟩

/-- FB_LOT_ARG.ASID, 13_fabric_and_hall.md. -/
def F.FB_LOT_ARG_ASID : Fld := ⟨0xC0908, 27, 16⟩

/-- FB_LOT_ARG.LOT, 13_fabric_and_hall.md. -/
def F.FB_LOT_ARG_LOT : Fld := ⟨0xC0908, 15, 0⟩

/-- FB_LOT_STATUS.REJECT, 13_fabric_and_hall.md. -/
def F.FB_LOT_STATUS_REJECT : Fld := ⟨0xC090C, 1, 1⟩

/-- FB_LOT_STATUS.BUSY, 13_fabric_and_hall.md. -/
def F.FB_LOT_STATUS_BUSY : Fld := ⟨0xC090C, 0, 0⟩

/-- FB_LOT.STATE, 13_fabric_and_hall.md. -/
def F.FB_LOT_STATE (i : Nat) : Fld := ⟨0xC1000 + 0x8 * i, 63, 61⟩

/-- FB_LOT.SINCE, 13_fabric_and_hall.md. -/
def F.FB_LOT_SINCE (i : Nat) : Fld := ⟨0xC1000 + 0x8 * i, 53, 48⟩

/-- FB_LOT.QUIET, 13_fabric_and_hall.md. -/
def F.FB_LOT_QUIET (i : Nat) : Fld := ⟨0xC1000 + 0x8 * i, 47, 46⟩

/-- FB_LOT.ASID, 13_fabric_and_hall.md. -/
def F.FB_LOT_ASID (i : Nat) : Fld := ⟨0xC1000 + 0x8 * i, 27, 16⟩

/-- FB_LOT.LOT, 13_fabric_and_hall.md. -/
def F.FB_LOT_LOT (i : Nat) : Fld := ⟨0xC1000 + 0x8 * i, 15, 0⟩

/-- Counter FB_PCNT.TX_FRAMES, 13_fabric_and_hall.md. -/
def C.FB_PCNT_TX_FRAMES (i : Nat) : Cnt := yCnt (6 + i) 0 (0xC0100 + 0x20 * i)

/-- Counter FB_PCNT.RX_FRAMES, 13_fabric_and_hall.md. -/
def C.FB_PCNT_RX_FRAMES (i : Nat) : Cnt := yCnt (6 + i) 1 (0xC0108 + 0x20 * i)

/-- Counter FB_PCNT.FCS_ERR, 13_fabric_and_hall.md. -/
def C.FB_PCNT_FCS_ERR (i : Nat) : Cnt := yCnt (6 + i) 2 (0xC0110 + 0x20 * i)

/-- Counter FB_PCNT.LINK_DOWNS, 13_fabric_and_hall.md. -/
def C.FB_PCNT_LINK_DOWNS (i : Nat) : Cnt := yCnt (6 + i) 3 (0xC0118 + 0x20 * i)

/-- Counter FB_CNT.REQUESTS, 13_fabric_and_hall.md. -/
def C.FB_CNT_REQUESTS : Cnt := yCnt 5 0 (0xC2000)

/-- Counter FB_CNT.RESENDS, 13_fabric_and_hall.md. -/
def C.FB_CNT_RESENDS : Cnt := yCnt 5 1 (0xC2008)

/-- Counter FB_CNT.LOT_DROPPED, 13_fabric_and_hall.md. -/
def C.FB_CNT_LOT_DROPPED : Cnt := yCnt 5 2 (0xC2010)

/-- Counter FB_CNT.MISDIRECT, 13_fabric_and_hall.md. -/
def C.FB_CNT_MISDIRECT : Cnt := yCnt 5 3 (0xC2018)

/-- Counter FB_CNT.BAD_FRAME, 13_fabric_and_hall.md. -/
def C.FB_CNT_BAD_FRAME : Cnt := yCnt 5 4 (0xC2020)

/-- Counter FB_CNT.FLOWS_LOST, 13_fabric_and_hall.md. -/
def C.FB_CNT_FLOWS_LOST : Cnt := yCnt 5 5 (0xC2028)

/-- Counter FB_CNT.REFUSED_SENT, 13_fabric_and_hall.md. -/
def C.FB_CNT_REFUSED_SENT : Cnt := yCnt 5 6 (0xC2030)

/-- Counter FB_CNT.MERGED_LINES, 13_fabric_and_hall.md. -/
def C.FB_CNT_MERGED_LINES : Cnt := yCnt 5 7 (0xC2038)

/-- TS_TIME_LO.TIME, 13_fabric_and_hall.md. -/
def F.TS_TIME_LO_TIME : Fld := ⟨0xD0000, 31, 0⟩

/-- TS_TIME_HI.TIME, 13_fabric_and_hall.md. -/
def F.TS_TIME_HI_TIME : Fld := ⟨0xD0004, 31, 0⟩

/-- TS_STATUS.HOLD_S, 13_fabric_and_hall.md. -/
def F.TS_STATUS_HOLD_S : Fld := ⟨0xD0008, 31, 16⟩

/-- TS_STATUS.PPS_PRESENT, 13_fabric_and_hall.md. -/
def F.TS_STATUS_PPS_PRESENT : Fld := ⟨0xD0008, 2, 2⟩

/-- TS_STATUS.HOLDOVER, 13_fabric_and_hall.md. -/
def F.TS_STATUS_HOLDOVER : Fld := ⟨0xD0008, 1, 1⟩

/-- TS_STATUS.LOCKED, 13_fabric_and_hall.md. -/
def F.TS_STATUS_LOCKED : Fld := ⟨0xD0008, 0, 0⟩

/-- TS_OFFSET.OFFSET, 13_fabric_and_hall.md. -/
def F.TS_OFFSET_OFFSET : Fld := ⟨0xD000C, 31, 0⟩

/-- TS_PPS_OFFSET.PPS, 13_fabric_and_hall.md. -/
def F.TS_PPS_OFFSET_PPS : Fld := ⟨0xD0010, 31, 0⟩

/-- TS_GM.CLOCK_ID, 13_fabric_and_hall.md. -/
def F.TS_GM_CLOCK_ID : Fld := ⟨0xD0018, 63, 0⟩

/-- Counter TS_CNT.SYNC_RX, 13_fabric_and_hall.md. -/
def C.TS_CNT_SYNC_RX : Cnt := yCnt 10 0 (0xD0100)

/-- Counter TS_CNT.GM_CHANGES, 13_fabric_and_hall.md. -/
def C.TS_CNT_GM_CHANGES : Cnt := yCnt 10 1 (0xD0108)

/-- Counter TS_CNT.HOLDOVERS, 13_fabric_and_hall.md. -/
def C.TS_CNT_HOLDOVERS : Cnt := yCnt 10 2 (0xD0110)

/-- Counter TS_CNT.STEPS, 13_fabric_and_hall.md. -/
def C.TS_CNT_STEPS : Cnt := yCnt 10 3 (0xD0118)

/-- Counter TS_CNT.PPS_IGNORED, 13_fabric_and_hall.md. -/
def C.TS_CNT_PPS_IGNORED : Cnt := yCnt 10 4 (0xD0120)

/-- NC_STATUS.NCLK_STEP, 14_node_cores_and_management.md. -/
def F.NC_STATUS_NCLK_STEP : Fld := ⟨0xE0000, 2, 0⟩

/-- NC_HART_RUN.RUN, 14_node_cores_and_management.md. -/
def F.NC_HART_RUN_RUN : Fld := ⟨0xE0004, 31, 0⟩

/-- NC_DBWIN.EN, 14_node_cores_and_management.md. -/
def F.NC_DBWIN_EN : Fld := ⟨0xE0010, 63, 63⟩

/-- NC_DBWIN.LAST, 14_node_cores_and_management.md. -/
def F.NC_DBWIN_LAST : Fld := ⟨0xE0010, 51, 32⟩

/-- NC_DBWIN.FIRST, 14_node_cores_and_management.md. -/
def F.NC_DBWIN_FIRST : Fld := ⟨0xE0010, 19, 0⟩

/-- NC_VROUTE.EN, 14_node_cores_and_management.md. -/
def F.NC_VROUTE_EN (i : Nat) : Fld := ⟨0xE4000 + 0x8 * i, 63, 63⟩

/-- NC_VROUTE.FILE, 14_node_cores_and_management.md. -/
def F.NC_VROUTE_FILE (i : Nat) : Fld := ⟨0xE4000 + 0x8 * i, 62, 60⟩

/-- NC_VROUTE.HART, 14_node_cores_and_management.md. -/
def F.NC_VROUTE_HART (i : Nat) : Fld := ⟨0xE4000 + 0x8 * i, 52, 48⟩

/-- NC_VROUTE.IDENTITY, 14_node_cores_and_management.md. -/
def F.NC_VROUTE_IDENTITY (i : Nat) : Fld := ⟨0xE4000 + 0x8 * i, 10, 0⟩

/-- Counter NC_CNT.POISON_EXC, 14_node_cores_and_management.md. -/
def C.NC_CNT_POISON_EXC : Cnt := yCnt 11 0 (0xE1000)

/-- Counter NC_CNT.ACCESS_FAULTS, 14_node_cores_and_management.md. -/
def C.NC_CNT_ACCESS_FAULTS : Cnt := yCnt 11 1 (0xE1008)

/-- Counter NC_CNT.DB_REFUSED, 14_node_cores_and_management.md. -/
def C.NC_CNT_DB_REFUSED : Cnt := yCnt 11 2 (0xE1010)

/-- Counter NC_CNT.VROUTED, 14_node_cores_and_management.md. -/
def C.NC_CNT_VROUTED : Cnt := yCnt 11 3 (0xE1018)

/-- MC_STATUS.STATE, 14_node_cores_and_management.md. -/
def F.MC_STATUS_STATE : Fld := ⟨0xF0000, 31, 28⟩

/-- MC_STATUS.EID_PCIE, 14_node_cores_and_management.md. -/
def F.MC_STATUS_EID_PCIE : Fld := ⟨0xF0000, 23, 16⟩

/-- MC_STATUS.EID_MGMT, 14_node_cores_and_management.md. -/
def F.MC_STATUS_EID_MGMT : Fld := ⟨0xF0000, 15, 8⟩

/-- MC_STATUS.I3C, 14_node_cores_and_management.md. -/
def F.MC_STATUS_I3C : Fld := ⟨0xF0000, 7, 7⟩

/-- MC_STATUS.SMB_ADDR, 14_node_cores_and_management.md. -/
def F.MC_STATUS_SMB_ADDR : Fld := ⟨0xF0000, 6, 0⟩

/-- MC_MBOX_CTL.GO, 14_node_cores_and_management.md. -/
def F.MC_MBOX_CTL_GO : Fld := ⟨0xF0010, 31, 31⟩

/-- MC_MBOX_CTL.IRQ_EN, 14_node_cores_and_management.md. -/
def F.MC_MBOX_CTL_IRQ_EN : Fld := ⟨0xF0010, 30, 30⟩

/-- MC_MBOX_CTL.VECTOR, 14_node_cores_and_management.md. -/
def F.MC_MBOX_CTL_VECTOR : Fld := ⟨0xF0010, 29, 19⟩

/-- MC_MBOX_CTL.REQ_LEN, 14_node_cores_and_management.md. -/
def F.MC_MBOX_CTL_REQ_LEN : Fld := ⟨0xF0010, 16, 8⟩

/-- MC_MBOX_CTL.OPC, 14_node_cores_and_management.md. -/
def F.MC_MBOX_CTL_OPC : Fld := ⟨0xF0010, 7, 0⟩

/-- MC_MBOX_STAT.BUSY, 14_node_cores_and_management.md. -/
def F.MC_MBOX_STAT_BUSY : Fld := ⟨0xF0014, 31, 31⟩

/-- MC_MBOX_STAT.DONE, 14_node_cores_and_management.md. -/
def F.MC_MBOX_STAT_DONE : Fld := ⟨0xF0014, 30, 30⟩

/-- MC_MBOX_STAT.RSP_LEN, 14_node_cores_and_management.md. -/
def F.MC_MBOX_STAT_RSP_LEN : Fld := ⟨0xF0014, 24, 16⟩

/-- MC_MBOX_STAT.STATUS, 14_node_cores_and_management.md. -/
def F.MC_MBOX_STAT_STATUS : Fld := ⟨0xF0014, 15, 8⟩

/-- MC_MBOX_REQ.REQ, 14_node_cores_and_management.md. -/
def F.MC_MBOX_REQ_REQ (i : Nat) : Fld := ⟨0xF0100 + 0x4 * i, 31, 0⟩

/-- MC_MBOX_RSP.RSP, 14_node_cores_and_management.md. -/
def F.MC_MBOX_RSP_RSP (i : Nat) : Fld := ⟨0xF0200 + 0x4 * i, 31, 0⟩

/-- PT_STATUS.STATE, 15_patterns_and_profiles.md. -/
def F.PT_STATUS_STATE : Fld := ⟨0x10100, 31, 28⟩

/-- PT_STATUS.SLOT, 15_patterns_and_profiles.md. -/
def F.PT_STATUS_SLOT : Fld := ⟨0x10100, 27, 26⟩

/-- PT_STATUS.SOURCE, 15_patterns_and_profiles.md. -/
def F.PT_STATUS_SOURCE : Fld := ⟨0x10100, 25, 24⟩

/-- PT_STATUS.SEL, 15_patterns_and_profiles.md. -/
def F.PT_STATUS_SEL : Fld := ⟨0x10100, 23, 22⟩

/-- PT_STATUS.MEM_KEPT, 15_patterns_and_profiles.md. -/
def F.PT_STATUS_MEM_KEPT : Fld := ⟨0x10100, 21, 21⟩

/-- PT_STATUS.SESSION, 15_patterns_and_profiles.md. -/
def F.PT_STATUS_SESSION : Fld := ⟨0x10100, 20, 20⟩

/-- PT_REJECT.VALID, 15_patterns_and_profiles.md. -/
def F.PT_REJECT_VALID : Fld := ⟨0x10104, 31, 31⟩

/-- PT_REJECT.SLOT, 15_patterns_and_profiles.md. -/
def F.PT_REJECT_SLOT : Fld := ⟨0x10104, 25, 24⟩

/-- PT_REJECT.STAGE, 15_patterns_and_profiles.md. -/
def F.PT_REJECT_STAGE : Fld := ⟨0x10104, 18, 16⟩

/-- PT_REJECT.TYPE, 15_patterns_and_profiles.md. -/
def F.PT_REJECT_TYPE : Fld := ⟨0x10104, 14, 0⟩

/-- PT_STICKY.REFUSED, 15_patterns_and_profiles.md. -/
def F.PT_STICKY_REFUSED : Fld := ⟨0x10108, 2, 2⟩

/-- PT_STICKY.MEM_DISCARDED, 15_patterns_and_profiles.md. -/
def F.PT_STICKY_MEM_DISCARDED : Fld := ⟨0x10108, 1, 1⟩

/-- PT_STICKY.FALLBACK, 15_patterns_and_profiles.md. -/
def F.PT_STICKY_FALLBACK : Fld := ⟨0x10108, 0, 0⟩

/-- PT_MIN_SVN.MIN_SVN, 15_patterns_and_profiles.md. -/
def F.PT_MIN_SVN_MIN_SVN (i : Nat) : Fld := ⟨0x10110 + 0x4 * i, 31, 0⟩

/-- PT_HOOKS.HOOKS, 15_patterns_and_profiles.md. -/
def F.PT_HOOKS_HOOKS : Fld := ⟨0x10118, 4, 0⟩

/-- PT_QUEUE.LOG2_CQ, 15_patterns_and_profiles.md. -/
def F.PT_QUEUE_LOG2_CQ : Fld := ⟨0x1011C, 20, 16⟩

/-- PT_QUEUE.LOG2_SQ, 15_patterns_and_profiles.md. -/
def F.PT_QUEUE_LOG2_SQ : Fld := ⟨0x1011C, 4, 0⟩

/-- PT_SLOT.VALID, 15_patterns_and_profiles.md. -/
def F.PT_SLOT_VALID (i : Nat) : Fld := ⟨0x10200 + 0x40 * i, 31, 31⟩

/-- PT_SLOT.SIGNER, 15_patterns_and_profiles.md. -/
def F.PT_SLOT_SIGNER (i : Nat) : Fld := ⟨0x10200 + 0x40 * i, 30, 30⟩

/-- PT_SLOT.FMT_MINOR, 15_patterns_and_profiles.md. -/
def F.PT_SLOT_FMT_MINOR (i : Nat) : Fld := ⟨0x10200 + 0x40 * i, 15, 8⟩

/-- PT_SLOT.FMT_MAJOR, 15_patterns_and_profiles.md. -/
def F.PT_SLOT_FMT_MAJOR (i : Nat) : Fld := ⟨0x10200 + 0x40 * i, 7, 0⟩

/-- PT_SLOT.SVN, 15_patterns_and_profiles.md. -/
def F.PT_SLOT_SVN (i : Nat) : Fld := ⟨0x10204 + 0x40 * i, 31, 0⟩

/-- PT_SLOT.LENGTH, 15_patterns_and_profiles.md. -/
def F.PT_SLOT_LENGTH (i : Nat) : Fld := ⟨0x10208 + 0x40 * i, 31, 0⟩

/-- PT_SLOT.BUILD_ID, 15_patterns_and_profiles.md. -/
def F.PT_SLOT_BUILD_ID (i : Nat) : Fld := ⟨0x10210 + 0x40 * i, 63, 0⟩

/-- PT_SLOT.MAP_DIGEST, 15_patterns_and_profiles.md. -/
def F.PT_SLOT_MAP_DIGEST (i : Nat) : Fld := ⟨0x10220 + 0x40 * i, 31, 0⟩

/-- PT_SLOT.MAP_DIGEST, 15_patterns_and_profiles.md. -/
def F.PT_SLOT_MAP_DIGEST_0x24 (i : Nat) : Fld := ⟨0x10224 + 0x40 * i, 31, 0⟩

/-- PT_SLOT.MAP_DIGEST, 15_patterns_and_profiles.md. -/
def F.PT_SLOT_MAP_DIGEST_0x28 (i : Nat) : Fld := ⟨0x10228 + 0x40 * i, 31, 0⟩

/-- PT_SLOT.MAP_DIGEST, 15_patterns_and_profiles.md. -/
def F.PT_SLOT_MAP_DIGEST_0x2C (i : Nat) : Fld := ⟨0x1022C + 0x40 * i, 31, 0⟩

/-- PT_SLOT.MAP_DIGEST, 15_patterns_and_profiles.md. -/
def F.PT_SLOT_MAP_DIGEST_0x30 (i : Nat) : Fld := ⟨0x10230 + 0x40 * i, 31, 0⟩

/-- PT_SLOT.MAP_DIGEST, 15_patterns_and_profiles.md. -/
def F.PT_SLOT_MAP_DIGEST_0x34 (i : Nat) : Fld := ⟨0x10234 + 0x40 * i, 31, 0⟩

/-- PT_SLOT.MAP_DIGEST, 15_patterns_and_profiles.md. -/
def F.PT_SLOT_MAP_DIGEST_0x38 (i : Nat) : Fld := ⟨0x10238 + 0x40 * i, 31, 0⟩

/-- PT_SLOT.MAP_DIGEST, 15_patterns_and_profiles.md. -/
def F.PT_SLOT_MAP_DIGEST_0x3C (i : Nat) : Fld := ⟨0x1023C + 0x40 * i, 31, 0⟩

/-- MC_CASTON.ELAPSED_MS, 16_cast_on_security_recovery.md. -/
def F.MC_CASTON_ELAPSED_MS : Fld := ⟨0xF0400, 31, 16⟩

/-- MC_CASTON.WARM, 16_cast_on_security_recovery.md. -/
def F.MC_CASTON_WARM : Fld := ⟨0xF0400, 8, 8⟩

/-- MC_CASTON.HOLD_CAUSE, 16_cast_on_security_recovery.md. -/
def F.MC_CASTON_HOLD_CAUSE : Fld := ⟨0xF0400, 7, 4⟩

/-- MC_CASTON.STEP, 16_cast_on_security_recovery.md. -/
def F.MC_CASTON_STEP : Fld := ⟨0xF0400, 3, 0⟩

/-- MC_RESET_CAUSE.AON_LOST, 16_cast_on_security_recovery.md. -/
def F.MC_RESET_CAUSE_AON_LOST : Fld := ⟨0xF0404, 8, 8⟩

/-- MC_RESET_CAUSE.CAUSE, 16_cast_on_security_recovery.md. -/
def F.MC_RESET_CAUSE_CAUSE : Fld := ⟨0xF0404, 7, 4⟩

/-- MC_RESET_CAUSE.TYPE, 16_cast_on_security_recovery.md. -/
def F.MC_RESET_CAUSE_TYPE : Fld := ⟨0xF0404, 0, 0⟩

/-- MC_SEQ.STATE, 16_cast_on_security_recovery.md. -/
def F.MC_SEQ_STATE : Fld := ⟨0xF0410, 31, 30⟩

/-- MC_SEQ.PARKED, 16_cast_on_security_recovery.md. -/
def F.MC_SEQ_PARKED : Fld := ⟨0xF0410, 29, 29⟩

/-- MC_SEQ.KIND, 16_cast_on_security_recovery.md. -/
def F.MC_SEQ_KIND : Fld := ⟨0xF0410, 28, 26⟩

/-- MC_SEQ.ID, 16_cast_on_security_recovery.md. -/
def F.MC_SEQ_ID : Fld := ⟨0xF0410, 23, 12⟩

/-- MC_SEQ.PENDING, 16_cast_on_security_recovery.md. -/
def F.MC_SEQ_PENDING : Fld := ⟨0xF0410, 3, 0⟩

/-- MC_PENDING.VALID, 16_cast_on_security_recovery.md. -/
def F.MC_PENDING_VALID (i : Nat) : Fld := ⟨0xF0420 + 0x4 * i, 31, 31⟩

/-- MC_PENDING.KIND, 16_cast_on_security_recovery.md. -/
def F.MC_PENDING_KIND (i : Nat) : Fld := ⟨0xF0420 + 0x4 * i, 30, 28⟩

/-- MC_PENDING.FAULTS, 16_cast_on_security_recovery.md. -/
def F.MC_PENDING_FAULTS (i : Nat) : Fld := ⟨0xF0420 + 0x4 * i, 27, 26⟩

/-- MC_PENDING.CAUSE, 16_cast_on_security_recovery.md. -/
def F.MC_PENDING_CAUSE (i : Nat) : Fld := ⟨0xF0420 + 0x4 * i, 23, 16⟩

/-- MC_PENDING.ID, 16_cast_on_security_recovery.md. -/
def F.MC_PENDING_ID (i : Nat) : Fld := ⟨0xF0420 + 0x4 * i, 11, 0⟩

/-- MC_FATAL.VALID, 16_cast_on_security_recovery.md. -/
def F.MC_FATAL_VALID : Fld := ⟨0xF0440, 31, 31⟩

/-- MC_FATAL.KIND, 16_cast_on_security_recovery.md. -/
def F.MC_FATAL_KIND : Fld := ⟨0xF0440, 30, 28⟩

/-- MC_FATAL.ID, 16_cast_on_security_recovery.md. -/
def F.MC_FATAL_ID : Fld := ⟨0xF0440, 27, 16⟩

/-- MC_FATAL.CAUSE, 16_cast_on_security_recovery.md. -/
def F.MC_FATAL_CAUSE : Fld := ⟨0xF0440, 7, 0⟩

/-- MC_KEY.HIGH, 16_cast_on_security_recovery.md. -/
def F.MC_KEY_HIGH : Fld := ⟨0xF0448, 57, 32⟩

/-- MC_KEY.NEXT, 16_cast_on_security_recovery.md. -/
def F.MC_KEY_NEXT : Fld := ⟨0xF0448, 25, 0⟩

/-- MC_FW_SVN.SVN, 16_cast_on_security_recovery.md. -/
def F.MC_FW_SVN_SVN : Fld := ⟨0xF0450, 31, 0⟩

/-- MC_FW_MIN_SVN.MIN_SVN, 16_cast_on_security_recovery.md. -/
def F.MC_FW_MIN_SVN_MIN_SVN : Fld := ⟨0xF0454, 31, 0⟩

/-- MC_TEST_CTL.RELEASE, 17_test_and_loopbacks.md. -/
def F.MC_TEST_CTL_RELEASE : Fld := ⟨0xF0600, 2, 2⟩

/-- MC_TEST_CTL.IN_HOLD, 17_test_and_loopbacks.md. -/
def F.MC_TEST_CTL_IN_HOLD : Fld := ⟨0xF0600, 1, 1⟩

/-- MC_TEST_CTL.HOLD, 17_test_and_loopbacks.md. -/
def F.MC_TEST_CTL_HOLD : Fld := ⟨0xF0600, 0, 0⟩

/-- HB_TEST_SEL.REFUSED, 17_test_and_loopbacks.md. -/
def F.HB_TEST_SEL_REFUSED : Fld := ⟨0x70030, 31, 31⟩

/-- HB_TEST_SEL.LEAVE, 17_test_and_loopbacks.md. -/
def F.HB_TEST_SEL_LEAVE : Fld := ⟨0x70030, 30, 30⟩

/-- HB_TEST_SEL.ENTER, 17_test_and_loopbacks.md. -/
def F.HB_TEST_SEL_ENTER : Fld := ⟨0x70030, 29, 29⟩

/-- HB_TEST_SEL.PC, 17_test_and_loopbacks.md. -/
def F.HB_TEST_SEL_PC : Fld := ⟨0x70030, 9, 0⟩

/-- MC_BIST.START, 17_test_and_loopbacks.md. -/
def F.MC_BIST_START : Fld := ⟨0xF0608, 31, 31⟩

/-- MC_BIST.BUSY, 17_test_and_loopbacks.md. -/
def F.MC_BIST_BUSY : Fld := ⟨0xF0608, 30, 30⟩

/-- MC_BIST.DONE, 17_test_and_loopbacks.md. -/
def F.MC_BIST_DONE : Fld := ⟨0xF0608, 29, 29⟩

/-- MC_BIST.PASS, 17_test_and_loopbacks.md. -/
def F.MC_BIST_PASS : Fld := ⟨0xF0608, 28, 28⟩

/-- MC_BIST.FAIL_UNIT, 17_test_and_loopbacks.md. -/
def F.MC_BIST_FAIL_UNIT : Fld := ⟨0xF0608, 10, 8⟩

/-- MC_BIST.MOTIF, 17_test_and_loopbacks.md. -/
def F.MC_BIST_MOTIF : Fld := ⟨0xF0608, 5, 0⟩

/-- MC_BOARD.CLAMP, 18_module_electrical_mechanical.md. -/
def F.MC_BOARD_CLAMP : Fld := ⟨0xF0500, 8, 8⟩

/-- MC_BOARD.TREF_OK, 18_module_electrical_mechanical.md. -/
def F.MC_BOARD_TREF_OK : Fld := ⟨0xF0500, 7, 7⟩

/-- MC_BOARD.OCXO_WARM, 18_module_electrical_mechanical.md. -/
def F.MC_BOARD_OCXO_WARM : Fld := ⟨0xF0500, 6, 6⟩

/-- MC_BOARD.FATAL_OUT, 18_module_electrical_mechanical.md. -/
def F.MC_BOARD_FATAL_OUT : Fld := ⟨0xF0500, 5, 5⟩

/-- MC_BOARD.THERM_OUT, 18_module_electrical_mechanical.md. -/
def F.MC_BOARD_THERM_OUT : Fld := ⟨0xF0500, 4, 4⟩

/-- MC_BOARD.READY_OUT, 18_module_electrical_mechanical.md. -/
def F.MC_BOARD_READY_OUT : Fld := ⟨0xF0500, 3, 3⟩

/-- MC_BOARD.SEL_LIVE, 18_module_electrical_mechanical.md. -/
def F.MC_BOARD_SEL_LIVE : Fld := ⟨0xF0500, 1, 0⟩

/-- EV_RING_BASE.BASE, 19_counters_and_events.md. -/
def F.EV_RING_BASE_BASE : Fld := ⟨0x110000, 63, 12⟩

/-- EV_RING_BASE.LOG2_ENTRIES, 19_counters_and_events.md. -/
def F.EV_RING_BASE_LOG2_ENTRIES : Fld := ⟨0x110000, 6, 2⟩

/-- EV_RING_BASE.LOC, 19_counters_and_events.md. -/
def F.EV_RING_BASE_LOC : Fld := ⟨0x110000, 1, 1⟩

/-- EV_RING_BASE.EN, 19_counters_and_events.md. -/
def F.EV_RING_BASE_EN : Fld := ⟨0x110000, 0, 0⟩

/-- EV_RING_CTL.MIN_SEV, 19_counters_and_events.md. -/
def F.EV_RING_CTL_MIN_SEV : Fld := ⟨0x110008, 31, 30⟩

/-- EV_RING_CTL.LEVEL, 19_counters_and_events.md. -/
def F.EV_RING_CTL_LEVEL : Fld := ⟨0x110008, 27, 11⟩

/-- EV_RING_CTL.VECTOR, 19_counters_and_events.md. -/
def F.EV_RING_CTL_VECTOR : Fld := ⟨0x110008, 10, 0⟩

/-- EV_RING_PI.PI, 19_counters_and_events.md. -/
def F.EV_RING_PI_PI : Fld := ⟨0x11000C, 23, 0⟩

/-- EV_RING_CI.CI, 19_counters_and_events.md. -/
def F.EV_RING_CI_CI : Fld := ⟨0x110010, 23, 0⟩

/-- EV_CTL.SAT_EVENT_EN, 19_counters_and_events.md. -/
def F.EV_CTL_SAT_EVENT_EN : Fld := ⟨0x110014, 0, 0⟩

/-- EV_STICKY.CI_DROPPED, 19_counters_and_events.md. -/
def F.EV_STICKY_CI_DROPPED : Fld := ⟨0x110018, 2, 2⟩

/-- EV_STICKY.HELD, 19_counters_and_events.md. -/
def F.EV_STICKY_HELD : Fld := ⟨0x110018, 1, 1⟩

/-- EV_STICKY.DROPPED, 19_counters_and_events.md. -/
def F.EV_STICKY_DROPPED : Fld := ⟨0x110018, 0, 0⟩

/-- EV_CNT.RAISED, 19_counters_and_events.md. -/
def F.EV_CNT_RAISED : Fld := ⟨0x110100, 63, 0⟩

/-- EV_CNT.WRITTEN, 19_counters_and_events.md. -/
def F.EV_CNT_WRITTEN : Fld := ⟨0x110108, 63, 0⟩

/-- EV_CNT.DROPPED, 19_counters_and_events.md. -/
def F.EV_CNT_DROPPED : Fld := ⟨0x110110, 63, 0⟩

/-- EV_CNT.BELOW_SEV, 19_counters_and_events.md. -/
def F.EV_CNT_BELOW_SEV : Fld := ⟨0x110118, 63, 0⟩

/-- PX_LOOP.START, 17_test_and_loopbacks.md. -/
def F.PX_LOOP_START : Fld := ⟨0xA0500, 31, 31⟩

/-- PX_LOOP.BUSY, 17_test_and_loopbacks.md. -/
def F.PX_LOOP_BUSY : Fld := ⟨0xA0500, 30, 30⟩

/-- PX_LOOP.DONE, 17_test_and_loopbacks.md. -/
def F.PX_LOOP_DONE : Fld := ⟨0xA0500, 29, 29⟩

/-- PX_LOOP.STOP, 17_test_and_loopbacks.md. -/
def F.PX_LOOP_STOP : Fld := ⟨0xA0500, 28, 28⟩

/-- PX_LOOP.LOCK, 17_test_and_loopbacks.md. -/
def F.PX_LOOP_LOCK : Fld := ⟨0xA0500, 27, 27⟩

/-- PX_LOOP.PATTERN, 17_test_and_loopbacks.md. -/
def F.PX_LOOP_PATTERN : Fld := ⟨0xA0500, 6, 4⟩

/-- PX_LOOP.DEPTH, 17_test_and_loopbacks.md. -/
def F.PX_LOOP_DEPTH : Fld := ⟨0xA0500, 2, 0⟩

/-- PX_LOOP.DURATION_MS, 17_test_and_loopbacks.md. -/
def F.PX_LOOP_DURATION_MS : Fld := ⟨0xA0504, 31, 0⟩

/-- PX_LOOP.BITS, 17_test_and_loopbacks.md. -/
def F.PX_LOOP_BITS : Fld := ⟨0xA0508, 63, 0⟩

/-- PX_LOOP.ERRORS, 17_test_and_loopbacks.md. -/
def F.PX_LOOP_ERRORS : Fld := ⟨0xA0510, 63, 0⟩

/-- PX_LOOP.LANE_ERR, 17_test_and_loopbacks.md. -/
def F.PX_LOOP_LANE_ERR : Fld := ⟨0xA0518, 63, 0⟩

/-- FB_LOOP.START, 17_test_and_loopbacks.md. -/
def F.FB_LOOP_START (i : Nat) : Fld := ⟨0xC0200 + 0x40 * i, 31, 31⟩

/-- FB_LOOP.BUSY, 17_test_and_loopbacks.md. -/
def F.FB_LOOP_BUSY (i : Nat) : Fld := ⟨0xC0200 + 0x40 * i, 30, 30⟩

/-- FB_LOOP.DONE, 17_test_and_loopbacks.md. -/
def F.FB_LOOP_DONE (i : Nat) : Fld := ⟨0xC0200 + 0x40 * i, 29, 29⟩

/-- FB_LOOP.STOP, 17_test_and_loopbacks.md. -/
def F.FB_LOOP_STOP (i : Nat) : Fld := ⟨0xC0200 + 0x40 * i, 28, 28⟩

/-- FB_LOOP.LOCK, 17_test_and_loopbacks.md. -/
def F.FB_LOOP_LOCK (i : Nat) : Fld := ⟨0xC0200 + 0x40 * i, 27, 27⟩

/-- FB_LOOP.PATTERN, 17_test_and_loopbacks.md. -/
def F.FB_LOOP_PATTERN (i : Nat) : Fld := ⟨0xC0200 + 0x40 * i, 6, 4⟩

/-- FB_LOOP.DEPTH, 17_test_and_loopbacks.md. -/
def F.FB_LOOP_DEPTH (i : Nat) : Fld := ⟨0xC0200 + 0x40 * i, 2, 0⟩

/-- FB_LOOP.DURATION_MS, 17_test_and_loopbacks.md. -/
def F.FB_LOOP_DURATION_MS (i : Nat) : Fld := ⟨0xC0204 + 0x40 * i, 31, 0⟩

/-- FB_LOOP.BITS, 17_test_and_loopbacks.md. -/
def F.FB_LOOP_BITS (i : Nat) : Fld := ⟨0xC0208 + 0x40 * i, 63, 0⟩

/-- FB_LOOP.ERRORS, 17_test_and_loopbacks.md. -/
def F.FB_LOOP_ERRORS (i : Nat) : Fld := ⟨0xC0210 + 0x40 * i, 63, 0⟩

/-- FB_LOOP.LANE_ERR, 17_test_and_loopbacks.md. -/
def F.FB_LOOP_LANE_ERR (i : Nat) : Fld := ⟨0xC0218 + 0x40 * i, 63, 0⟩

/-- SM_LOOP.START, 17_test_and_loopbacks.md. -/
def F.SM_LOOP_START (i : Nat) : Fld := ⟨0x90800 + 0x40 * i, 31, 31⟩

/-- SM_LOOP.BUSY, 17_test_and_loopbacks.md. -/
def F.SM_LOOP_BUSY (i : Nat) : Fld := ⟨0x90800 + 0x40 * i, 30, 30⟩

/-- SM_LOOP.DONE, 17_test_and_loopbacks.md. -/
def F.SM_LOOP_DONE (i : Nat) : Fld := ⟨0x90800 + 0x40 * i, 29, 29⟩

/-- SM_LOOP.STOP, 17_test_and_loopbacks.md. -/
def F.SM_LOOP_STOP (i : Nat) : Fld := ⟨0x90800 + 0x40 * i, 28, 28⟩

/-- SM_LOOP.LOCK, 17_test_and_loopbacks.md. -/
def F.SM_LOOP_LOCK (i : Nat) : Fld := ⟨0x90800 + 0x40 * i, 27, 27⟩

/-- SM_LOOP.PATTERN, 17_test_and_loopbacks.md. -/
def F.SM_LOOP_PATTERN (i : Nat) : Fld := ⟨0x90800 + 0x40 * i, 6, 4⟩

/-- SM_LOOP.DEPTH, 17_test_and_loopbacks.md. -/
def F.SM_LOOP_DEPTH (i : Nat) : Fld := ⟨0x90800 + 0x40 * i, 2, 0⟩

/-- SM_LOOP.DURATION_MS, 17_test_and_loopbacks.md. -/
def F.SM_LOOP_DURATION_MS (i : Nat) : Fld := ⟨0x90804 + 0x40 * i, 31, 0⟩

/-- SM_LOOP.BITS, 17_test_and_loopbacks.md. -/
def F.SM_LOOP_BITS (i : Nat) : Fld := ⟨0x90808 + 0x40 * i, 63, 0⟩

/-- SM_LOOP.ERRORS, 17_test_and_loopbacks.md. -/
def F.SM_LOOP_ERRORS (i : Nat) : Fld := ⟨0x90810 + 0x40 * i, 63, 0⟩

/-- SM_LOOP.LANE_ERR, 17_test_and_loopbacks.md. -/
def F.SM_LOOP_LANE_ERR (i : Nat) : Fld := ⟨0x90818 + 0x40 * i, 63, 0⟩

/-- HB_LOOP.START, 17_test_and_loopbacks.md. -/
def F.HB_LOOP_START (i : Nat) : Fld := ⟨0x70100 + 0x40 * i, 31, 31⟩

/-- HB_LOOP.BUSY, 17_test_and_loopbacks.md. -/
def F.HB_LOOP_BUSY (i : Nat) : Fld := ⟨0x70100 + 0x40 * i, 30, 30⟩

/-- HB_LOOP.DONE, 17_test_and_loopbacks.md. -/
def F.HB_LOOP_DONE (i : Nat) : Fld := ⟨0x70100 + 0x40 * i, 29, 29⟩

/-- HB_LOOP.STOP, 17_test_and_loopbacks.md. -/
def F.HB_LOOP_STOP (i : Nat) : Fld := ⟨0x70100 + 0x40 * i, 28, 28⟩

/-- HB_LOOP.LOCK, 17_test_and_loopbacks.md. -/
def F.HB_LOOP_LOCK (i : Nat) : Fld := ⟨0x70100 + 0x40 * i, 27, 27⟩

/-- HB_LOOP.PATTERN, 17_test_and_loopbacks.md. -/
def F.HB_LOOP_PATTERN (i : Nat) : Fld := ⟨0x70100 + 0x40 * i, 6, 4⟩

/-- HB_LOOP.DEPTH, 17_test_and_loopbacks.md. -/
def F.HB_LOOP_DEPTH (i : Nat) : Fld := ⟨0x70100 + 0x40 * i, 2, 0⟩

/-- HB_LOOP.DURATION_MS, 17_test_and_loopbacks.md. -/
def F.HB_LOOP_DURATION_MS (i : Nat) : Fld := ⟨0x70104 + 0x40 * i, 31, 0⟩

/-- HB_LOOP.BITS, 17_test_and_loopbacks.md. -/
def F.HB_LOOP_BITS (i : Nat) : Fld := ⟨0x70108 + 0x40 * i, 63, 0⟩

/-- HB_LOOP.ERRORS, 17_test_and_loopbacks.md. -/
def F.HB_LOOP_ERRORS (i : Nat) : Fld := ⟨0x70110 + 0x40 * i, 63, 0⟩

/-- HB_LOOP.LANE_ERR, 17_test_and_loopbacks.md. -/
def F.HB_LOOP_LANE_ERR (i : Nat) : Fld := ⟨0x70118 + 0x40 * i, 63, 0⟩

/-- Counter SM_GUEST_REFUSED.GUEST_REFUSED, 11_seams_and_panel.md. -/
def C.SM_GUEST_REFUSED (i : Nat) : Cnt := yCnt 12 i (0x90080 + 0x8 * i)

/-- EV_OVF_Y.OVF, 19_counters_and_events.md. -/
def F.EV_OVF_Y_OVF (i : Nat) : Fld := ⟨0x110200 + 0x8 * i, 63, 0⟩

/-- EV_OVF_M.OVF, 19_counters_and_events.md. -/
def F.EV_OVF_M_OVF (m : Nat) (i : Nat) : Fld := ⟨mAddr m (0xE000 + 0x8 * i), 63, 0⟩

/-- EV_OVF_S.OVF, 19_counters_and_events.md. -/
def F.EV_OVF_S_OVF (s : Nat) (i : Nat) : Fld := ⟨sAddr s (0x4000 + 0x8 * i), 63, 0⟩

/-- MSIX.MSG_ADDR, 12_host_link.md. -/
def F.MSIX_MSG_ADDR (i : Nat) : Fld := ⟨0xB0000 + 0x10 * i, 63, 0⟩

/-- MSIX.MSG_DATA, 12_host_link.md. -/
def F.MSIX_MSG_DATA (i : Nat) : Fld := ⟨0xB0008 + 0x10 * i, 31, 0⟩

/-- MSIX.VECTOR_CONTROL, 12_host_link.md. -/
def F.MSIX_VECTOR_CONTROL (i : Nat) : Fld := ⟨0xB000C + 0x10 * i, 31, 0⟩

/-- MSIX_PBA.PENDING, 12_host_link.md. -/
def F.MSIX_PBA_PENDING (i : Nat) : Fld := ⟨0xB8000 + 0x8 * i, 63, 0⟩

end Sys2Proof.Machine
end

