-- ==== Sys2Proof/Machine/Codes.lean ====
section
/-!
DEFINITION. Codes.lean: the status codes of R590, the events of R595 with their severities, and packing
of little-endian records from their fields (R8, R9).
-/

namespace Sys2Proof.Machine

/-- Status OK (R590). -/
abbrev St.OK : Nat := 0x00
/-- Status BAD_COMMAND (R590). -/
abbrev St.BAD_COMMAND : Nat := 0x01
/-- Status BAD_DESCRIPTOR (R590). -/
abbrev St.BAD_DESCRIPTOR : Nat := 0x02
/-- Status BAD_FORMAT (R590). -/
abbrev St.BAD_FORMAT : Nat := 0x03
/-- Status BAD_ESTIMATE (R590). -/
abbrev St.BAD_ESTIMATE : Nat := 0x04
/-- Status STITCH_TOO_LARGE (R590). -/
abbrev St.STITCH_TOO_LARGE : Nat := 0x05
/-- Status CLASS_CLOSED (R590). -/
abbrev St.CLASS_CLOSED : Nat := 0x06
/-- Status STITCH_HUNG (R590). -/
abbrev St.STITCH_HUNG : Nat := 0x07
/-- Status MOTIF_LOST (R590). -/
abbrev St.MOTIF_LOST : Nat := 0x08
/-- Status BINDING_CHANGED (R590). -/
abbrev St.BINDING_CHANGED : Nat := 0x09
/-- Status QUEUE_STOPPED (R590). -/
abbrev St.QUEUE_STOPPED : Nat := 0x0A
/-- Status CLUSTER_UNPLACEABLE (R590). -/
abbrev St.CLUSTER_UNPLACEABLE : Nat := 0x0B
/-- Status GROUP_FAULT (R590). -/
abbrev St.GROUP_FAULT : Nat := 0x0C
/-- Status PARTIAL_TIMEOUT (R590). -/
abbrev St.PARTIAL_TIMEOUT : Nat := 0x0D
/-- Status BAD_PARTIAL (R590). -/
abbrev St.BAD_PARTIAL : Nat := 0x0E
/-- Status POISONED (R590). -/
abbrev St.POISONED : Nat := 0x0F
/-- Status TRANSLATION_FAULT (R590). -/
abbrev St.TRANSLATION_FAULT : Nat := 0x10
/-- Status ACCESS_FAULT (R590). -/
abbrev St.ACCESS_FAULT : Nat := 0x11
/-- Status HOST_LOST (R590). -/
abbrev St.HOST_LOST : Nat := 0x12
/-- Status HOST_ERROR (R590). -/
abbrev St.HOST_ERROR : Nat := 0x13
/-- Status SKEIN_FULL (R590). -/
abbrev St.SKEIN_FULL : Nat := 0x14
/-- Status SKEIN_RANGE (R590). -/
abbrev St.SKEIN_RANGE : Nat := 0x15
/-- Status SKEIN_STATE (R590). -/
abbrev St.SKEIN_STATE : Nat := 0x16
/-- Status SKEIN_ACCESS (R590). -/
abbrev St.SKEIN_ACCESS : Nat := 0x17
/-- Status SKEIN_CORRUPT (R590). -/
abbrev St.SKEIN_CORRUPT : Nat := 0x18
/-- Status BUSY (R590). -/
abbrev St.BUSY : Nat := 0x20
/-- Status PATTERN_INVALID (R590). -/
abbrev St.PATTERN_INVALID : Nat := 0x21
/-- Status FW_INVALID (R590). -/
abbrev St.FW_INVALID : Nat := 0x22
/-- Status AUTH_FAILED (R590). -/
abbrev St.AUTH_FAILED : Nat := 0x23
/-- Status KEY_EXHAUSTED (R590). -/
abbrev St.KEY_EXHAUSTED : Nat := 0x24

/-- An event's code and severity (R594). -/
structure EvKind where
  code : Nat
  sev : Nat
  deriving DecidableEq, Repr

/-- Event COUNTER_SATURATED (R595); detail: D1: window kind, window instance, block ID and counter index, packed as R600 sets out. -/
abbrev Ev.COUNTER_SATURATED : EvKind := ⟨0x0001, 0⟩
/-- Event GROUP_FAULT (R595); detail: Group fault (R598). -/
abbrev Ev.GROUP_FAULT : EvKind := ⟨0x0002, 2⟩
/-- Event ROW_UNALIGNED (R595); detail: none. -/
abbrev Ev.ROW_UNALIGNED : EvKind := ⟨0x0101, 1⟩
/-- Event ROW_STEP (R595); detail: Step in ns, signed 64-bit. -/
abbrev Ev.ROW_STEP : EvKind := ⟨0x0102, 0⟩
/-- Event CHAIN_EDGE_LOST (R595); detail: none. -/
abbrev Ev.CHAIN_EDGE_LOST : EvKind := ⟨0x0103, 2⟩
/-- Event STITCH_OVERRUN (R595); detail: QID, CMD_INDEX. -/
abbrev Ev.STITCH_OVERRUN : EvKind := ⟨0x0104, 1⟩
/-- Event ESTIMATE_DRIFT (R595); detail: Class. -/
abbrev Ev.ESTIMATE_DRIFT : EvKind := ⟨0x0105, 0⟩
/-- Event GAUGE_OVERCOMMIT (R595); detail: none. -/
abbrev Ev.GAUGE_OVERCOMMIT : EvKind := ⟨0x0106, 1⟩
/-- Event GAUGE_BUDGET_LATE (R595); detail: none. -/
abbrev Ev.GAUGE_BUDGET_LATE : EvKind := ⟨0x0107, 1⟩
/-- Event RESERVED_DERATED (R595); detail: none. -/
abbrev Ev.RESERVED_DERATED : EvKind := ⟨0x0108, 1⟩
/-- Event THERMAL_LIMIT (R595); detail: none. -/
abbrev Ev.THERMAL_LIMIT : EvKind := ⟨0x0109, 2⟩
/-- Event GAUGE_BACKSTOP (R595); detail: none. -/
abbrev Ev.GAUGE_BACKSTOP : EvKind := ⟨0x010A, 0⟩
/-- Event DOORBELL_AHEAD (R595); detail: QID, CMD_INDEX. -/
abbrev Ev.DOORBELL_AHEAD : EvKind := ⟨0x0201, 1⟩
/-- Event DOORBELL_INVALID (R595); detail: QID. -/
abbrev Ev.DOORBELL_INVALID : EvKind := ⟨0x0202, 2⟩
/-- Event DEADLINE_MISSED (R595); detail: QID, CMD_INDEX, STREAM. -/
abbrev Ev.DEADLINE_MISSED : EvKind := ⟨0x0203, 1⟩
/-- Event CQ_FULL (R595); detail: RING. -/
abbrev Ev.CQ_FULL : EvKind := ⟨0x0204, 1⟩
/-- Event SKEIN_CORRUPT (R595); detail: STREAM. -/
abbrev Ev.SKEIN_CORRUPT : EvKind := ⟨0x0205, 2⟩
/-- Event RESERVATION_FULL (R595); detail: none. -/
abbrev Ev.RESERVATION_FULL : EvKind := ⟨0x0301, 1⟩
/-- Event COHERENCE_STARVED (R595); detail: PA. -/
abbrev Ev.COHERENCE_STARVED : EvKind := ⟨0x0302, 1⟩
/-- Event MEM_UE (R595); detail: PA. -/
abbrev Ev.MEM_UE : EvKind := ⟨0x0303, 2⟩
/-- Event POISON_CONSUMED (R595); detail: PA. -/
abbrev Ev.POISON_CONSUMED : EvKind := ⟨0x0304, 2⟩
/-- Event STACK_HOT (R595); detail: Stack. -/
abbrev Ev.STACK_HOT : EvKind := ⟨0x0305, 1⟩
/-- Event HOT_CHANNEL (R595); detail: Pseudo-channel. -/
abbrev Ev.HOT_CHANNEL : EvKind := ⟨0x0306, 1⟩
/-- Event MAPOUT_NEEDS_SPACE (R595); detail: PA of the region. -/
abbrev Ev.MAPOUT_NEEDS_SPACE : EvKind := ⟨0x0307, 2⟩
/-- Event MAPOUT_DONE (R595); detail: Pseudo-channel. -/
abbrev Ev.MAPOUT_DONE : EvKind := ⟨0x0308, 0⟩
/-- Event MEM_FENCED (R595); detail: Pseudo-channel. -/
abbrev Ev.MEM_FENCED : EvKind := ⟨0x0309, 2⟩
/-- Event EVAC_RESUMED (R595); detail: Pseudo-channel. -/
abbrev Ev.EVAC_RESUMED : EvKind := ⟨0x030A, 0⟩
/-- Event EVAC_ABANDONED (R595); detail: Pseudo-channel. -/
abbrev Ev.EVAC_ABANDONED : EvKind := ⟨0x030B, 1⟩
/-- Event FAULT_RING_FULL (R595); detail: none. -/
abbrev Ev.FAULT_RING_FULL : EvKind := ⟨0x0401, 1⟩
/-- Event CHAIN_REROUTE (R595); detail: Seam. -/
abbrev Ev.CHAIN_REROUTE : EvKind := ⟨0x0501, 1⟩
/-- Event ROUTE_NO_ALTERNATE (R595); detail: none. -/
abbrev Ev.ROUTE_NO_ALTERNATE : EvKind := ⟨0x0502, 3⟩
/-- Event REG_TIMEOUT (R595); detail: PA of the BAR0 offset. -/
abbrev Ev.REG_TIMEOUT : EvKind := ⟨0x0503, 1⟩
/-- Event SEAM_RETRAIN (R595); detail: Seam. -/
abbrev Ev.SEAM_RETRAIN : EvKind := ⟨0x0504, 0⟩
/-- Event SEAM_DEGRADED (R595); detail: Seam. -/
abbrev Ev.SEAM_DEGRADED : EvKind := ⟨0x0505, 1⟩
/-- Event SEAM_ISOLATED (R595); detail: Seam. -/
abbrev Ev.SEAM_ISOLATED : EvKind := ⟨0x0506, 2⟩
/-- Event GUEST_JOINED (R595); detail: Guest. -/
abbrev Ev.GUEST_JOINED : EvKind := ⟨0x0507, 0⟩
/-- Event GUEST_REFUSED (R595); detail: Guest. -/
abbrev Ev.GUEST_REFUSED : EvKind := ⟨0x0508, 1⟩
/-- Event HOST_LINK_DEGRADED (R595); detail: none. -/
abbrev Ev.HOST_LINK_DEGRADED : EvKind := ⟨0x0601, 1⟩
/-- Event HOST_ACCESS_REFUSED (R595); detail: Offset within its BAR, in D0; BAR, 2 or 4, in D1. -/
abbrev Ev.HOST_ACCESS_REFUSED : EvKind := ⟨0x0602, 1⟩
/-- Event HOST_RESET (R595); detail: none. -/
abbrev Ev.HOST_RESET : EvKind := ⟨0x0603, 1⟩
/-- Event FABRIC_PORT_DOWN (R595); detail: Port. -/
abbrev Ev.FABRIC_PORT_DOWN : EvKind := ⟨0x0701, 1⟩
/-- Event FABRIC_FLOW_LOST (R595); detail: Node, lot. -/
abbrev Ev.FABRIC_FLOW_LOST : EvKind := ⟨0x0702, 2⟩
/-- Event LOT_REMOVED (R595); detail: Lot. -/
abbrev Ev.LOT_REMOVED : EvKind := ⟨0x0703, 0⟩
/-- Event BINDOFF_FORCED (R595); detail: Lot. -/
abbrev Ev.BINDOFF_FORCED : EvKind := ⟨0x0704, 1⟩
/-- Event PTP_HOLDOVER (R595); detail: none. -/
abbrev Ev.PTP_HOLDOVER : EvKind := ⟨0x0705, 1⟩
/-- Event PPS_LOST (R595); detail: none. -/
abbrev Ev.PPS_LOST : EvKind := ⟨0x0706, 1⟩
/-- Event PATTERN_FALLBACK (R595); detail: Slot. -/
abbrev Ev.PATTERN_FALLBACK : EvKind := ⟨0x0801, 2⟩
/-- Event PATTERN_NONE (R595); detail: none. -/
abbrev Ev.PATTERN_NONE : EvKind := ⟨0x0802, 2⟩
/-- Event MEMORY_DISCARDED (R595); detail: none. -/
abbrev Ev.MEMORY_DISCARDED : EvKind := ⟨0x0803, 1⟩
/-- Event REPATTERN_DONE (R595); detail: Slot. -/
abbrev Ev.REPATTERN_DONE : EvKind := ⟨0x0804, 0⟩
/-- Event CAST_ON_DONE (R595); detail: none. -/
abbrev Ev.CAST_ON_DONE : EvKind := ⟨0x0805, 0⟩
/-- Event AON_LOST (R595); detail: none. -/
abbrev Ev.AON_LOST : EvKind := ⟨0x0806, 1⟩
/-- Event KEY_LOW (R595); detail: none. -/
abbrev Ev.KEY_LOW : EvKind := ⟨0x0807, 1⟩
/-- Event KEY_EXHAUSTED (R595); detail: none. -/
abbrev Ev.KEY_EXHAUSTED : EvKind := ⟨0x0808, 2⟩
/-- Event MOTIF_FAULT (R595); detail: Cause. -/
abbrev Ev.MOTIF_FAULT : EvKind := ⟨0x0901, 2⟩
/-- Event MOTIF_RECOVERED (R595); detail: none. -/
abbrev Ev.MOTIF_RECOVERED : EvKind := ⟨0x0902, 0⟩
/-- Event RECOVERY_START (R595); detail: Cause. -/
abbrev Ev.RECOVERY_START : EvKind := ⟨0x0903, 0⟩
/-- Event RECOVERY_ESCALATED (R595); detail: Cause. -/
abbrev Ev.RECOVERY_ESCALATED : EvKind := ⟨0x0904, 2⟩
/-- Event RECOVERY_END (R595); detail: none. -/
abbrev Ev.RECOVERY_END : EvKind := ⟨0x0905, 0⟩
/-- Event FABRIC_PORT_ISOLATED (R595); detail: Port. -/
abbrev Ev.FABRIC_PORT_ISOLATED : EvKind := ⟨0x0906, 2⟩
/-- Event NODE_FATAL (R595); detail: MC_FATAL.CAUSE. -/
abbrev Ev.NODE_FATAL : EvKind := ⟨0x0907, 3⟩
/-- Event CURRENT_CLAMP (R595); detail: none. -/
abbrev Ev.CURRENT_CLAMP : EvKind := ⟨0x0A01, 1⟩
/-- Event TREF_LOST (R595); detail: none. -/
abbrev Ev.TREF_LOST : EvKind := ⟨0x0A02, 1⟩

/-- A number built from fields: each `(lo, width, value)` puts the low `width` bits of `value` at bit `lo`. -/
def packBits : List (Nat × Nat × Nat) → Nat
  | [] => 0
  | (lo, w, v) :: fs => (v % 2 ^ w) * 2 ^ lo + packBits fs

/-- Bit `b` as a number. -/
def flag (b : Bool) : Nat := if b then 1 else 0

/-- The ceiling of `a ÷ b` (R63's ceil_div). -/
def ceilDiv (a b : Nat) : Nat := (a + b - 1) / b

/-- Reference cycles of a span of `ns` (2.25 per ns). (DESIGN CHOICE: log entry 44) -/
def refCycles (ns : Nat) : Nat := ns * 9 / 4

/-- `clamp` of R72. -/
def clampNat (v lo hi : Nat) : Nat := max lo (min v hi)

/-- `x` bounded by two's complement limits, as an exact integer. -/
def clampInt (v lo hi : Int) : Int := max lo (min v hi)

end Sys2Proof.Machine
end

