-- ==== Sys2Proof/Machine/RegTable.lean ====
section
/-!
DEFINITION. RegTable.lean: the register maps of the spec as rows, for accesses that name a register by
its address: window, offset, array, width, and each field's bits, access code and reset value (R14, R18).
-/

namespace Sys2Proof.Machine

/-- The access codes of R14; the tables use no RC field. -/
inductive Access where
  | ro | rw | rw1c | rws | wo | rsv
  deriving DecidableEq, Repr

/-- The window a register lies in (R19). -/
inductive Window where
  | yoke | motif | stack
  deriving DecidableEq, Repr

/-- One field: bits, access, reset value (0 where the Reset column says P or F: R18). -/
structure RegField where
  hi : Nat
  lo : Nat
  access : Access
  reset : Nat
  deriving DecidableEq, Repr

/-- One register of a map: an array of `count` registers at `stride`, and of `count2` such arrays at `stride2`. -/
structure RegRow where
  win : Window
  off : Nat
  stride : Nat
  count : Nat
  stride2 : Nat
  count2 : Nat
  width : Nat
  fields : List RegField
  deriving DecidableEq, Repr


/-- Rows of the register maps, yoke global window, part 1. -/
def regRowsY0 : List RegRow := [
  ⟨.yoke, 0x10000, 0x4, 6, 0x0, 1, 32, [⟨31, 28, .ro, 0⟩, ⟨27, 24, .ro, 0⟩, ⟨23, 20, .ro, 0⟩, ⟨19, 16, .ro, 0⟩, ⟨15, 12, .ro, 0⟩, ⟨11, 8, .ro, 0⟩, ⟨7, 4, .ro, 0⟩, ⟨3, 0, .ro, 0⟩]⟩ /- PT_POS_STATE -/,
  ⟨.yoke, 0x10018, 0x0, 1, 0x0, 1, 32, [⟨31, 30, .rsv, 0⟩, ⟨29, 24, .ro, 0⟩, ⟨23, 22, .rsv, 0⟩, ⟨21, 16, .ro, 0⟩, ⟨15, 14, .rsv, 0⟩, ⟨13, 8, .ro, 0⟩, ⟨7, 6, .rsv, 0⟩, ⟨5, 0, .ro, 0⟩]⟩ /- PT_POS_SUMMARY -/,
  ⟨.yoke, 0x20000, 0x0, 1, 0x0, 1, 32, [⟨31, 25, .rsv, 0⟩, ⟨24, 24, .ro, 0⟩, ⟨23, 22, .rsv, 0⟩, ⟨21, 16, .ro, 0⟩, ⟨15, 13, .rsv, 0⟩, ⟨12, 0, .ro, 0⟩]⟩ /- RW_PERIOD -/,
  ⟨.yoke, 0x20004, 0x0, 1, 0x0, 1, 32, [⟨31, 8, .rsv, 0⟩, ⟨7, 4, .ro, 0⟩, ⟨3, 2, .ro, 0⟩, ⟨1, 1, .ro, 0⟩, ⟨0, 0, .ro, 0⟩]⟩ /- RW_STATUS -/,
  ⟨.yoke, 0x20008, 0x0, 1, 0x0, 1, 32, [⟨31, 0, .ro, 0⟩]⟩ /- RW_ROW_LO -/,
  ⟨.yoke, 0x2000C, 0x0, 1, 0x0, 1, 32, [⟨31, 16, .rsv, 0⟩, ⟨15, 0, .ro, 0⟩]⟩ /- RW_ROW_HI -/,
  ⟨.yoke, 0x20100, 0x4, 16, 0x0, 1, 32, [⟨31, 27, .rsv, 0⟩, ⟨26, 16, .ro, 0⟩, ⟨15, 11, .rsv, 0⟩, ⟨10, 0, .ro, 0⟩]⟩ /- RW_SHARE -/,
  ⟨.yoke, 0x21000, 0x0, 1, 0x0, 1, 32, [⟨31, 31, .rw1c, 0⟩, ⟨30, 29, .rsv, 0⟩, ⟨28, 16, .rw, 0⟩, ⟨15, 13, .rsv, 0⟩, ⟨12, 0, .ro, 0⟩]⟩ /- GA_LIMIT -/,
  ⟨.yoke, 0x21008, 0x0, 1, 0x0, 1, 64, [⟨63, 49, .rsv, 0⟩, ⟨48, 32, .ro, 0⟩, ⟨31, 17, .rsv, 0⟩, ⟨16, 0, .ro, 0⟩]⟩ /- GA_MOTIF_PWR -/,
  ⟨.yoke, 0x21010, 0x0, 1, 0x0, 1, 32, [⟨31, 28, .rsv, 0⟩, ⟨27, 16, .ro, 0⟩, ⟨15, 12, .rsv, 0⟩, ⟨11, 0, .ro, 0⟩]⟩ /- GA_NONMOTIF -/,
  ⟨.yoke, 0x40000, 0x0, 1, 0x0, 1, 64, [⟨63, 12, .rw, 0⟩, ⟨11, 8, .rw, 0⟩, ⟨7, 2, .rsv, 0⟩, ⟨1, 1, .rw, 0⟩, ⟨0, 0, .rw, 0⟩]⟩ /- QE_ADMIN_SQ -/,
  ⟨.yoke, 0x40008, 0x0, 1, 0x0, 1, 64, [⟨63, 12, .rw, 0⟩, ⟨11, 8, .rw, 0⟩, ⟨7, 2, .rsv, 0⟩, ⟨1, 1, .rw, 0⟩, ⟨0, 0, .rw, 0⟩]⟩ /- QE_ADMIN_CQ -/,
  ⟨.yoke, 0x40010, 0x0, 1, 0x0, 1, 32, [⟨31, 29, .rsv, 0⟩, ⟨28, 16, .rw, 1⟩, ⟨15, 11, .rsv, 0⟩, ⟨10, 0, .rw, 0⟩]⟩ /- QE_ADMIN_VEC -/,
  ⟨.yoke, 0x40020, 0x0, 1, 0x0, 1, 64, [⟨63, 40, .rsv, 0⟩, ⟨39, 16, .wo, 0⟩, ⟨15, 0, .wo, 0⟩]⟩ /- QE_CQ_DB -/,
  ⟨.yoke, 0x40100, 0x0, 1, 0x0, 1, 32, [⟨31, 20, .rsv, 0⟩, ⟨19, 0, .rw, 0⟩]⟩ /- QE_QSEL -/,
  ⟨.yoke, 0x40104, 0x0, 1, 0x0, 1, 32, [⟨31, 28, .ro, 0⟩, ⟨27, 16, .ro, 0⟩, ⟨15, 10, .ro, 0⟩, ⟨9, 8, .ro, 0⟩, ⟨7, 3, .rsv, 0⟩, ⟨2, 0, .ro, 0⟩]⟩ /- QE_QSTATE -/,
  ⟨.yoke, 0x40108, 0x0, 1, 0x0, 1, 32, [⟨31, 24, .rsv, 0⟩, ⟨23, 0, .ro, 0⟩]⟩ /- QE_QIDX -/,
  ⟨.yoke, 0x40200, 0x0, 1, 0x0, 1, 32, [⟨31, 5, .rsv, 0⟩, ⟨4, 4, .rw1c, 0⟩, ⟨3, 3, .rw1c, 0⟩, ⟨2, 2, .rw1c, 0⟩, ⟨1, 1, .rw1c, 0⟩, ⟨0, 0, .rw1c, 0⟩]⟩ /- QE_STICKY -/,
  ⟨.yoke, 0x40400, 0x0, 1, 0x0, 1, 64, [⟨63, 0, .ro, 0⟩]⟩ /- QE_CNT+0x0 -/,
  ⟨.yoke, 0x40408, 0x0, 1, 0x0, 1, 64, [⟨63, 0, .ro, 0⟩]⟩ /- QE_CNT+0x8 -/]

/-- Rows of the register maps, yoke global window, part 2. -/
def regRowsY1 : List RegRow := [
  ⟨.yoke, 0x40410, 0x0, 1, 0x0, 1, 64, [⟨63, 0, .ro, 0⟩]⟩ /- QE_CNT+0x10 -/,
  ⟨.yoke, 0x40418, 0x0, 1, 0x0, 1, 64, [⟨63, 0, .ro, 0⟩]⟩ /- QE_CNT+0x18 -/,
  ⟨.yoke, 0x40420, 0x0, 1, 0x0, 1, 64, [⟨63, 0, .ro, 0⟩]⟩ /- QE_CNT+0x20 -/,
  ⟨.yoke, 0x40428, 0x0, 1, 0x0, 1, 64, [⟨63, 0, .ro, 0⟩]⟩ /- QE_CNT+0x28 -/,
  ⟨.yoke, 0x40430, 0x0, 1, 0x0, 1, 64, [⟨63, 0, .ro, 0⟩]⟩ /- QE_CNT+0x30 -/,
  ⟨.yoke, 0x50000, 0x0, 1, 0x0, 1, 32, [⟨31, 31, .rsv, 0⟩, ⟨30, 8, .ro, 0⟩, ⟨7, 5, .rsv, 0⟩, ⟨4, 0, .ro, 0⟩]⟩ /- SK_POOL_CFG -/,
  ⟨.yoke, 0x50008, 0x0, 1, 0x0, 1, 64, [⟨63, 48, .rsv, 0⟩, ⟨47, 0, .ro, 0⟩]⟩ /- SK_POOL_BASE -/,
  ⟨.yoke, 0x50010, 0x0, 1, 0x0, 1, 64, [⟨63, 55, .rsv, 0⟩, ⟨54, 32, .ro, 0⟩, ⟨31, 23, .rsv, 0⟩, ⟨22, 0, .ro, 0⟩]⟩ /- SK_POOL_FREE -/,
  ⟨.yoke, 0x50020, 0x0, 1, 0x0, 1, 32, [⟨31, 3, .rsv, 0⟩, ⟨2, 2, .rw1c, 0⟩, ⟨1, 1, .rw1c, 0⟩, ⟨0, 0, .rw1c, 0⟩]⟩ /- SK_STICKY -/,
  ⟨.yoke, 0x50400, 0x0, 1, 0x0, 1, 64, [⟨63, 0, .ro, 0⟩]⟩ /- SK_CNT+0x0 -/,
  ⟨.yoke, 0x50408, 0x0, 1, 0x0, 1, 64, [⟨63, 0, .ro, 0⟩]⟩ /- SK_CNT+0x8 -/,
  ⟨.yoke, 0x50410, 0x0, 1, 0x0, 1, 64, [⟨63, 0, .ro, 0⟩]⟩ /- SK_CNT+0x10 -/,
  ⟨.yoke, 0x50418, 0x0, 1, 0x0, 1, 64, [⟨63, 0, .ro, 0⟩]⟩ /- SK_CNT+0x18 -/,
  ⟨.yoke, 0x50420, 0x0, 1, 0x0, 1, 64, [⟨63, 0, .ro, 0⟩]⟩ /- SK_CNT+0x20 -/,
  ⟨.yoke, 0x50428, 0x0, 1, 0x0, 1, 64, [⟨63, 0, .ro, 0⟩]⟩ /- SK_CNT+0x28 -/,
  ⟨.yoke, 0x800000, 0x8, 131072, 0x0, 1, 64, [⟨63, 55, .rsv, 0⟩, ⟨54, 32, .ro, 0⟩, ⟨31, 27, .rsv, 0⟩, ⟨26, 26, .ro, 0⟩, ⟨25, 25, .ro, 0⟩, ⟨24, 24, .ro, 0⟩, ⟨23, 23, .ro, 0⟩, ⟨22, 0, .ro, 0⟩]⟩ /- SK_COUNT -/,
  ⟨.yoke, 0x60000, 0x0, 1, 0x0, 1, 64, [⟨63, 0, .ro, 0⟩]⟩ /- L2_SC_CNT+0x0 -/,
  ⟨.yoke, 0x60008, 0x0, 1, 0x0, 1, 64, [⟨63, 0, .ro, 0⟩]⟩ /- L2_SC_CNT+0x8 -/,
  ⟨.yoke, 0x60010, 0x0, 1, 0x0, 1, 64, [⟨63, 0, .ro, 0⟩]⟩ /- L2_SC_CNT+0x10 -/,
  ⟨.yoke, 0x70000, 0x0, 1, 0x0, 1, 32, [⟨31, 9, .rsv, 0⟩, ⟨8, 8, .ro, 0⟩, ⟨7, 4, .ro, 0⟩, ⟨3, 3, .rsv, 0⟩, ⟨2, 0, .ro, 0⟩]⟩ /- HB_MAP -/]

/-- Rows of the register maps, yoke global window, part 3. -/
def regRowsY2 : List RegRow := [
  ⟨.yoke, 0x70008, 0x0, 1, 0x0, 1, 64, [⟨63, 48, .rsv, 0⟩, ⟨47, 0, .ro, 0⟩]⟩ /- HB_SW_TOP -/,
  ⟨.yoke, 0x70010, 0x0, 1, 0x0, 1, 64, [⟨63, 48, .ro, 0⟩, ⟨47, 0, .ro, 0⟩]⟩ /- HB_DONOR -/,
  ⟨.yoke, 0x70018, 0x0, 1, 0x0, 1, 32, [⟨31, 2, .rsv, 0⟩, ⟨1, 1, .ro, 0⟩, ⟨0, 0, .wo, 0⟩]⟩ /- HB_GRANT -/,
  ⟨.yoke, 0x70020, 0x0, 1, 0x0, 1, 64, [⟨63, 61, .ro, 0⟩, ⟨60, 60, .ro, 0⟩, ⟨59, 56, .ro, 0⟩, ⟨55, 50, .ro, 0⟩, ⟨49, 48, .rsv, 0⟩, ⟨47, 32, .ro, 0⟩, ⟨31, 16, .rsv, 0⟩, ⟨15, 0, .ro, 0⟩]⟩ /- HB_EVAC -/,
  ⟨.yoke, 0x80000, 0x0, 1, 0x0, 1, 64, [⟨63, 48, .rsv, 0⟩, ⟨47, 16, .rw, 0⟩, ⟨15, 0, .rsv, 0⟩]⟩ /- TU_ASID_BASE -/,
  ⟨.yoke, 0x80008, 0x0, 1, 0x0, 1, 64, [⟨63, 12, .rw, 0⟩, ⟨11, 7, .rsv, 0⟩, ⟨6, 2, .rw, 0⟩, ⟨1, 1, .rw, 0⟩, ⟨0, 0, .rw, 0⟩]⟩ /- TU_FRING_BASE -/,
  ⟨.yoke, 0x80010, 0x0, 1, 0x0, 1, 32, [⟨31, 28, .rsv, 0⟩, ⟨27, 11, .rw, 1⟩, ⟨10, 0, .rw, 0⟩]⟩ /- TU_FRING_CTL -/,
  ⟨.yoke, 0x80014, 0x0, 1, 0x0, 1, 32, [⟨31, 24, .rsv, 0⟩, ⟨23, 0, .ro, 0⟩]⟩ /- TU_FRING_PI -/,
  ⟨.yoke, 0x80018, 0x0, 1, 0x0, 1, 32, [⟨31, 24, .rsv, 0⟩, ⟨23, 0, .rw, 0⟩]⟩ /- TU_FRING_CI -/,
  ⟨.yoke, 0x80020, 0x0, 1, 0x0, 1, 32, [⟨31, 18, .rsv, 0⟩, ⟨17, 16, .wo, 0⟩, ⟨15, 8, .wo, 0⟩, ⟨7, 0, .wo, 0⟩]⟩ /- TU_FAULT_RESOLVE -/,
  ⟨.yoke, 0x80024, 0x0, 1, 0x0, 1, 32, [⟨31, 10, .rsv, 0⟩, ⟨9, 9, .ro, 0⟩, ⟨8, 0, .ro, 0⟩]⟩ /- TU_STATUS -/,
  ⟨.yoke, 0x80030, 0x0, 1, 0x0, 1, 64, [⟨63, 48, .rsv, 0⟩, ⟨47, 12, .rw, 0⟩, ⟨11, 0, .rsv, 0⟩]⟩ /- TU_INV_ADDR -/,
  ⟨.yoke, 0x80038, 0x0, 1, 0x0, 1, 32, [⟨31, 31, .wo, 0⟩, ⟨30, 29, .rw, 0⟩, ⟨28, 12, .rw, 0⟩, ⟨11, 0, .rw, 0⟩]⟩ /- TU_INV_CTL -/,
  ⟨.yoke, 0x8003C, 0x0, 1, 0x0, 1, 32, [⟨31, 16, .ro, 0⟩, ⟨15, 0, .ro, 0⟩]⟩ /- TU_INV_STATUS -/,
  ⟨.yoke, 0x80040, 0x0, 1, 0x0, 1, 32, [⟨31, 5, .rsv, 0⟩, ⟨4, 4, .rw1c, 0⟩, ⟨3, 3, .rw1c, 0⟩, ⟨2, 2, .rw1c, 0⟩, ⟨1, 1, .rw1c, 0⟩, ⟨0, 0, .rw1c, 0⟩]⟩ /- TU_STICKY -/,
  ⟨.yoke, 0x80400, 0x4, 256, 0x0, 1, 32, [⟨31, 31, .rw, 0⟩, ⟨30, 16, .rsv, 0⟩, ⟨15, 0, .rw, 0⟩]⟩ /- TU_NODE_SLOT -/,
  ⟨.yoke, 0x81000, 0x20, 64, 0x0, 1, 32, [⟨31, 31, .rw, 0⟩, ⟨30, 25, .rsv, 0⟩, ⟨24, 0, .rw, 0⟩]⟩ /- TU_IWIN+0x0 -/,
  ⟨.yoke, 0x81004, 0x20, 64, 0x0, 1, 32, [⟨31, 16, .rw, 0⟩, ⟨15, 0, .rw, 0⟩]⟩ /- TU_IWIN+0x4 -/,
  ⟨.yoke, 0x81008, 0x20, 64, 0x0, 1, 64, [⟨63, 48, .rsv, 0⟩, ⟨47, 12, .rw, 0⟩, ⟨11, 0, .rsv, 0⟩]⟩ /- TU_IWIN+0x8 -/,
  ⟨.yoke, 0x82000, 0x0, 1, 0x0, 1, 64, [⟨63, 0, .ro, 0⟩]⟩ /- TU_CNT+0x0 -/]

/-- Rows of the register maps, yoke global window, part 4. -/
def regRowsY3 : List RegRow := [
  ⟨.yoke, 0x82008, 0x0, 1, 0x0, 1, 64, [⟨63, 0, .ro, 0⟩]⟩ /- TU_CNT+0x8 -/,
  ⟨.yoke, 0x82010, 0x0, 1, 0x0, 1, 64, [⟨63, 0, .ro, 0⟩]⟩ /- TU_CNT+0x10 -/,
  ⟨.yoke, 0x82018, 0x0, 1, 0x0, 1, 64, [⟨63, 0, .ro, 0⟩]⟩ /- TU_CNT+0x18 -/,
  ⟨.yoke, 0x82020, 0x0, 1, 0x0, 1, 64, [⟨63, 0, .ro, 0⟩]⟩ /- TU_CNT+0x20 -/,
  ⟨.yoke, 0x82028, 0x0, 1, 0x0, 1, 64, [⟨63, 0, .ro, 0⟩]⟩ /- TU_CNT+0x28 -/,
  ⟨.yoke, 0x82030, 0x0, 1, 0x0, 1, 64, [⟨63, 0, .ro, 0⟩]⟩ /- TU_CNT+0x30 -/,
  ⟨.yoke, 0x82038, 0x0, 1, 0x0, 1, 64, [⟨63, 0, .ro, 0⟩]⟩ /- TU_CNT+0x38 -/,
  ⟨.yoke, 0x90000, 0x4, 6, 0x0, 1, 32, [⟨31, 29, .ro, 0⟩, ⟨28, 28, .rsv, 0⟩, ⟨27, 24, .ro, 0⟩, ⟨23, 16, .ro, 0⟩, ⟨15, 14, .ro, 0⟩, ⟨13, 12, .rsv, 0⟩, ⟨11, 9, .ro, 0⟩, ⟨8, 4, .rsv, 0⟩, ⟨3, 0, .ro, 0⟩]⟩ /- SM_YSEAM -/,
  ⟨.yoke, 0x90040, 0x0, 1, 0x0, 1, 32, [⟨31, 4, .rsv, 0⟩, ⟨3, 3, .rw1c, 0⟩, ⟨2, 2, .rw1c, 0⟩, ⟨1, 1, .rw1c, 0⟩, ⟨0, 0, .rw1c, 0⟩]⟩ /- SM_STICKY -/,
  ⟨.yoke, 0x90100, 0x100, 2, 0x0, 1, 32, [⟨31, 29, .ro, 0⟩, ⟨28, 24, .rsv, 0⟩, ⟨23, 16, .ro, 0⟩, ⟨15, 6, .rsv, 0⟩, ⟨5, 0, .ro, 0⟩]⟩ /- SM_GUEST+0x0 -/,
  ⟨.yoke, 0x90400, 0x10, 16, 0x100, 2, 64, [⟨63, 48, .rsv, 0⟩, ⟨47, 16, .rw, 0⟩, ⟨15, 3, .rsv, 0⟩, ⟨2, 2, .rw, 0⟩, ⟨1, 1, .rw, 0⟩, ⟨0, 0, .rw, 0⟩]⟩ /- SM_GACC+0x0 -/,
  ⟨.yoke, 0x90408, 0x10, 16, 0x100, 2, 64, [⟨63, 25, .rsv, 0⟩, ⟨24, 0, .rw, 0⟩]⟩ /- SM_GACC+0x8 -/,
  ⟨.yoke, 0xA0000, 0x0, 1, 0x0, 1, 32, [⟨31, 22, .rsv, 0⟩, ⟨21, 16, .ro, 0⟩, ⟨15, 13, .rsv, 0⟩, ⟨12, 12, .ro, 0⟩, ⟨11, 11, .ro, 0⟩, ⟨10, 5, .ro, 0⟩, ⟨4, 2, .ro, 0⟩, ⟨1, 1, .rsv, 0⟩, ⟨0, 0, .ro, 0⟩]⟩ /- PX_STATUS -/,
  ⟨.yoke, 0xA0004, 0x0, 1, 0x0, 1, 32, [⟨31, 1, .rsv, 0⟩, ⟨0, 0, .rw, 1⟩]⟩ /- PX_CTL -/,
  ⟨.yoke, 0xA0100, 0x10, 8, 0x0, 1, 64, [⟨63, 40, .rsv, 0⟩, ⟨39, 16, .rw, 0⟩, ⟨15, 14, .rsv, 0⟩, ⟨13, 8, .rw, 0⟩, ⟨7, 1, .rsv, 0⟩, ⟨0, 0, .rw, 0⟩]⟩ /- PX_HINT+0x0 -/,
  ⟨.yoke, 0xA0108, 0x10, 8, 0x0, 1, 64, [⟨63, 25, .rsv, 0⟩, ⟨24, 0, .rw, 0⟩]⟩ /- PX_HINT+0x8 -/,
  ⟨.yoke, 0xA0200, 0x4, 4, 0x0, 1, 32, [⟨31, 31, .rw, 0⟩, ⟨30, 16, .rsv, 0⟩, ⟨15, 0, .rw, 0⟩]⟩ /- PX_REQID -/,
  ⟨.yoke, 0xA0300, 0x0, 1, 0x0, 1, 32, [⟨31, 31, .rw1c, 0⟩, ⟨30, 17, .rsv, 0⟩, ⟨16, 0, .ro, 0⟩]⟩ /- PX_LOST_STATUS -/,
  ⟨.yoke, 0xA0304, 0x0, 1, 0x0, 1, 32, [⟨31, 1, .rsv, 0⟩, ⟨0, 0, .wo, 0⟩]⟩ /- PX_LOST_POP -/,
  ⟨.yoke, 0xA0320, 0x4, 8, 0x0, 1, 32, [⟨31, 0, .ro, 0⟩]⟩ /- PX_LOST_ENTRY -/]

/-- Rows of the register maps, yoke global window, part 5. -/
def regRowsY4 : List RegRow := [
  ⟨.yoke, 0xA0400, 0x0, 1, 0x0, 1, 32, [⟨31, 6, .rsv, 0⟩, ⟨5, 5, .rw1c, 0⟩, ⟨4, 4, .rw1c, 0⟩, ⟨3, 3, .rw1c, 0⟩, ⟨2, 2, .rw1c, 0⟩, ⟨1, 1, .rw1c, 0⟩, ⟨0, 0, .rw1c, 0⟩]⟩ /- PX_STICKY -/,
  ⟨.yoke, 0xA0408, 0x0, 1, 0x0, 1, 64, [⟨63, 63, .rw1c, 0⟩, ⟨62, 62, .ro, 0⟩, ⟨61, 61, .ro, 0⟩, ⟨60, 40, .rsv, 0⟩, ⟨39, 0, .ro, 0⟩]⟩ /- PX_REFUSED -/,
  ⟨.yoke, 0xA1000, 0x0, 1, 0x0, 1, 64, [⟨63, 0, .ro, 0⟩]⟩ /- PX_CNT+0x0 -/,
  ⟨.yoke, 0xA1008, 0x0, 1, 0x0, 1, 64, [⟨63, 0, .ro, 0⟩]⟩ /- PX_CNT+0x8 -/,
  ⟨.yoke, 0xA1010, 0x0, 1, 0x0, 1, 64, [⟨63, 0, .ro, 0⟩]⟩ /- PX_CNT+0x10 -/,
  ⟨.yoke, 0xA1018, 0x0, 1, 0x0, 1, 64, [⟨63, 0, .ro, 0⟩]⟩ /- PX_CNT+0x18 -/,
  ⟨.yoke, 0xA1020, 0x0, 1, 0x0, 1, 64, [⟨63, 0, .ro, 0⟩]⟩ /- PX_CNT+0x20 -/,
  ⟨.yoke, 0xA1028, 0x0, 1, 0x0, 1, 64, [⟨63, 0, .ro, 0⟩]⟩ /- PX_CNT+0x28 -/,
  ⟨.yoke, 0xA1030, 0x0, 1, 0x0, 1, 64, [⟨63, 0, .ro, 0⟩]⟩ /- PX_CNT+0x30 -/,
  ⟨.yoke, 0xA1038, 0x0, 1, 0x0, 1, 64, [⟨63, 0, .ro, 0⟩]⟩ /- PX_CNT+0x38 -/,
  ⟨.yoke, 0xC0000, 0x10, 4, 0x0, 1, 32, [⟨31, 29, .ro, 0⟩, ⟨28, 24, .rsv, 0⟩, ⟨23, 20, .ro, 0⟩, ⟨19, 16, .ro, 0⟩, ⟨15, 2, .rsv, 0⟩, ⟨1, 1, .ro, 0⟩, ⟨0, 0, .rsv, 0⟩]⟩ /- FB_PORT -/,
  ⟨.yoke, 0xC0040, 0x0, 1, 0x0, 1, 32, [⟨31, 5, .rsv, 0⟩, ⟨4, 4, .rw1c, 0⟩, ⟨3, 3, .rw1c, 0⟩, ⟨2, 2, .rw1c, 0⟩, ⟨1, 1, .rw1c, 0⟩, ⟨0, 0, .rw1c, 0⟩]⟩ /- FB_STICKY -/,
  ⟨.yoke, 0xC0044, 0x0, 1, 0x0, 1, 32, [⟨31, 15, .rsv, 0⟩, ⟨14, 0, .ro, 0⟩]⟩ /- FB_FLOWS -/,
  ⟨.yoke, 0xC0080, 0x0, 1, 0x0, 1, 32, [⟨31, 16, .rsv, 0⟩, ⟨15, 0, .ro, 0⟩]⟩ /- FB_NODE -/,
  ⟨.yoke, 0xC0084, 0x0, 1, 0x0, 1, 32, [⟨31, 31, .ro, 0⟩, ⟨30, 28, .ro, 0⟩, ⟨27, 25, .ro, 0⟩, ⟨24, 12, .rsv, 0⟩, ⟨11, 0, .ro, 0⟩]⟩ /- FB_VLAN -/,
  ⟨.yoke, 0xC0088, 0x0, 1, 0x0, 1, 32, [⟨31, 11, .rsv, 0⟩, ⟨10, 10, .ro, 0⟩, ⟨9, 8, .ro, 0⟩, ⟨7, 0, .ro, 0⟩]⟩ /- FB_XPORT -/,
  ⟨.yoke, 0xC0900, 0x0, 1, 0x0, 1, 64, [⟨63, 63, .wo, 0⟩, ⟨62, 61, .wo, 0⟩, ⟨60, 55, .wo, 0⟩, ⟨54, 48, .rsv, 0⟩, ⟨47, 0, .wo, 0⟩]⟩ /- FB_LOT_CMD -/,
  ⟨.yoke, 0xC0908, 0x0, 1, 0x0, 1, 32, [⟨31, 28, .rsv, 0⟩, ⟨27, 16, .rw, 0⟩, ⟨15, 0, .rw, 0⟩]⟩ /- FB_LOT_ARG -/,
  ⟨.yoke, 0xC090C, 0x0, 1, 0x0, 1, 32, [⟨31, 2, .rsv, 0⟩, ⟨1, 1, .rw1c, 0⟩, ⟨0, 0, .ro, 0⟩]⟩ /- FB_LOT_STATUS -/,
  ⟨.yoke, 0xC1000, 0x8, 64, 0x0, 1, 64, [⟨63, 61, .ro, 0⟩, ⟨60, 54, .rsv, 0⟩, ⟨53, 48, .ro, 0⟩, ⟨47, 46, .ro, 0⟩, ⟨45, 28, .rsv, 0⟩, ⟨27, 16, .ro, 0⟩, ⟨15, 0, .ro, 0⟩]⟩ /- FB_LOT -/]

/-- Rows of the register maps, yoke global window, part 6. -/
def regRowsY5 : List RegRow := [
  ⟨.yoke, 0xC0100, 0x20, 4, 0x0, 1, 64, [⟨63, 0, .ro, 0⟩]⟩ /- FB_PCNT+0x0 -/,
  ⟨.yoke, 0xC0108, 0x20, 4, 0x0, 1, 64, [⟨63, 0, .ro, 0⟩]⟩ /- FB_PCNT+0x8 -/,
  ⟨.yoke, 0xC0110, 0x20, 4, 0x0, 1, 64, [⟨63, 0, .ro, 0⟩]⟩ /- FB_PCNT+0x10 -/,
  ⟨.yoke, 0xC0118, 0x20, 4, 0x0, 1, 64, [⟨63, 0, .ro, 0⟩]⟩ /- FB_PCNT+0x18 -/,
  ⟨.yoke, 0xC2000, 0x0, 1, 0x0, 1, 64, [⟨63, 0, .ro, 0⟩]⟩ /- FB_CNT+0x0 -/,
  ⟨.yoke, 0xC2008, 0x0, 1, 0x0, 1, 64, [⟨63, 0, .ro, 0⟩]⟩ /- FB_CNT+0x8 -/,
  ⟨.yoke, 0xC2010, 0x0, 1, 0x0, 1, 64, [⟨63, 0, .ro, 0⟩]⟩ /- FB_CNT+0x10 -/,
  ⟨.yoke, 0xC2018, 0x0, 1, 0x0, 1, 64, [⟨63, 0, .ro, 0⟩]⟩ /- FB_CNT+0x18 -/,
  ⟨.yoke, 0xC2020, 0x0, 1, 0x0, 1, 64, [⟨63, 0, .ro, 0⟩]⟩ /- FB_CNT+0x20 -/,
  ⟨.yoke, 0xC2028, 0x0, 1, 0x0, 1, 64, [⟨63, 0, .ro, 0⟩]⟩ /- FB_CNT+0x28 -/,
  ⟨.yoke, 0xC2030, 0x0, 1, 0x0, 1, 64, [⟨63, 0, .ro, 0⟩]⟩ /- FB_CNT+0x30 -/,
  ⟨.yoke, 0xC2038, 0x0, 1, 0x0, 1, 64, [⟨63, 0, .ro, 0⟩]⟩ /- FB_CNT+0x38 -/,
  ⟨.yoke, 0xD0000, 0x0, 1, 0x0, 1, 32, [⟨31, 0, .ro, 0⟩]⟩ /- TS_TIME_LO -/,
  ⟨.yoke, 0xD0004, 0x0, 1, 0x0, 1, 32, [⟨31, 0, .ro, 0⟩]⟩ /- TS_TIME_HI -/,
  ⟨.yoke, 0xD0008, 0x0, 1, 0x0, 1, 32, [⟨31, 16, .ro, 0⟩, ⟨15, 3, .rsv, 0⟩, ⟨2, 2, .ro, 0⟩, ⟨1, 1, .ro, 0⟩, ⟨0, 0, .ro, 0⟩]⟩ /- TS_STATUS -/,
  ⟨.yoke, 0xD000C, 0x0, 1, 0x0, 1, 32, [⟨31, 0, .ro, 0⟩]⟩ /- TS_OFFSET -/,
  ⟨.yoke, 0xD0010, 0x0, 1, 0x0, 1, 32, [⟨31, 0, .ro, 0⟩]⟩ /- TS_PPS_OFFSET -/,
  ⟨.yoke, 0xD0018, 0x0, 1, 0x0, 1, 64, [⟨63, 0, .ro, 0⟩]⟩ /- TS_GM -/,
  ⟨.yoke, 0xD0100, 0x0, 1, 0x0, 1, 64, [⟨63, 0, .ro, 0⟩]⟩ /- TS_CNT+0x0 -/,
  ⟨.yoke, 0xD0108, 0x0, 1, 0x0, 1, 64, [⟨63, 0, .ro, 0⟩]⟩ /- TS_CNT+0x8 -/]

/-- Rows of the register maps, yoke global window, part 7. -/
def regRowsY6 : List RegRow := [
  ⟨.yoke, 0xD0110, 0x0, 1, 0x0, 1, 64, [⟨63, 0, .ro, 0⟩]⟩ /- TS_CNT+0x10 -/,
  ⟨.yoke, 0xD0118, 0x0, 1, 0x0, 1, 64, [⟨63, 0, .ro, 0⟩]⟩ /- TS_CNT+0x18 -/,
  ⟨.yoke, 0xD0120, 0x0, 1, 0x0, 1, 64, [⟨63, 0, .ro, 0⟩]⟩ /- TS_CNT+0x20 -/,
  ⟨.yoke, 0xE0000, 0x0, 1, 0x0, 1, 32, [⟨31, 3, .rsv, 0⟩, ⟨2, 0, .ro, 0⟩]⟩ /- NC_STATUS -/,
  ⟨.yoke, 0xE0004, 0x0, 1, 0x0, 1, 32, [⟨31, 0, .ro, 0⟩]⟩ /- NC_HART_RUN -/,
  ⟨.yoke, 0xE0010, 0x0, 1, 0x0, 1, 64, [⟨63, 63, .rw, 0⟩, ⟨62, 52, .rsv, 0⟩, ⟨51, 32, .rw, 0⟩, ⟨31, 20, .rsv, 0⟩, ⟨19, 0, .rw, 0⟩]⟩ /- NC_DBWIN -/,
  ⟨.yoke, 0xE4000, 0x8, 2048, 0x0, 1, 64, [⟨63, 63, .rw, 0⟩, ⟨62, 60, .rw, 0⟩, ⟨59, 53, .rsv, 0⟩, ⟨52, 48, .rw, 0⟩, ⟨47, 11, .rsv, 0⟩, ⟨10, 0, .rw, 0⟩]⟩ /- NC_VROUTE -/,
  ⟨.yoke, 0xE1000, 0x0, 1, 0x0, 1, 64, [⟨63, 0, .ro, 0⟩]⟩ /- NC_CNT+0x0 -/,
  ⟨.yoke, 0xE1008, 0x0, 1, 0x0, 1, 64, [⟨63, 0, .ro, 0⟩]⟩ /- NC_CNT+0x8 -/,
  ⟨.yoke, 0xE1010, 0x0, 1, 0x0, 1, 64, [⟨63, 0, .ro, 0⟩]⟩ /- NC_CNT+0x10 -/,
  ⟨.yoke, 0xE1018, 0x0, 1, 0x0, 1, 64, [⟨63, 0, .ro, 0⟩]⟩ /- NC_CNT+0x18 -/,
  ⟨.yoke, 0xF0000, 0x0, 1, 0x0, 1, 32, [⟨31, 28, .ro, 0⟩, ⟨27, 24, .rsv, 0⟩, ⟨23, 16, .ro, 0⟩, ⟨15, 8, .ro, 0⟩, ⟨7, 7, .ro, 0⟩, ⟨6, 0, .ro, 0⟩]⟩ /- MC_STATUS -/,
  ⟨.yoke, 0xF0010, 0x0, 1, 0x0, 1, 32, [⟨31, 31, .wo, 0⟩, ⟨30, 30, .rw, 0⟩, ⟨29, 19, .rw, 0⟩, ⟨18, 17, .rsv, 0⟩, ⟨16, 8, .rw, 0⟩, ⟨7, 0, .rw, 0⟩]⟩ /- MC_MBOX_CTL -/,
  ⟨.yoke, 0xF0014, 0x0, 1, 0x0, 1, 32, [⟨31, 31, .ro, 0⟩, ⟨30, 30, .rw1c, 0⟩, ⟨29, 25, .rsv, 0⟩, ⟨24, 16, .ro, 0⟩, ⟨15, 8, .ro, 0⟩, ⟨7, 0, .rsv, 0⟩]⟩ /- MC_MBOX_STAT -/,
  ⟨.yoke, 0xF0100, 0x4, 64, 0x0, 1, 32, [⟨31, 0, .rw, 0⟩]⟩ /- MC_MBOX_REQ -/,
  ⟨.yoke, 0xF0200, 0x4, 64, 0x0, 1, 32, [⟨31, 0, .ro, 0⟩]⟩ /- MC_MBOX_RSP -/,
  ⟨.yoke, 0x10100, 0x0, 1, 0x0, 1, 32, [⟨31, 28, .ro, 0⟩, ⟨27, 26, .ro, 0⟩, ⟨25, 24, .ro, 0⟩, ⟨23, 22, .ro, 0⟩, ⟨21, 21, .ro, 0⟩, ⟨20, 20, .ro, 0⟩, ⟨19, 0, .rsv, 0⟩]⟩ /- PT_STATUS -/,
  ⟨.yoke, 0x10104, 0x0, 1, 0x0, 1, 32, [⟨31, 31, .rw1c, 0⟩, ⟨30, 26, .rsv, 0⟩, ⟨25, 24, .ro, 0⟩, ⟨23, 19, .rsv, 0⟩, ⟨18, 16, .ro, 0⟩, ⟨15, 15, .rsv, 0⟩, ⟨14, 0, .ro, 0⟩]⟩ /- PT_REJECT -/,
  ⟨.yoke, 0x10108, 0x0, 1, 0x0, 1, 32, [⟨31, 3, .rsv, 0⟩, ⟨2, 2, .rw1c, 0⟩, ⟨1, 1, .rw1c, 0⟩, ⟨0, 0, .rw1c, 0⟩]⟩ /- PT_STICKY -/,
  ⟨.yoke, 0x10110, 0x4, 2, 0x0, 1, 32, [⟨31, 0, .ro, 0⟩]⟩ /- PT_MIN_SVN -/]

/-- Rows of the register maps, yoke global window, part 8. -/
def regRowsY7 : List RegRow := [
  ⟨.yoke, 0x10118, 0x0, 1, 0x0, 1, 32, [⟨31, 5, .rsv, 0⟩, ⟨4, 0, .ro, 0⟩]⟩ /- PT_HOOKS -/,
  ⟨.yoke, 0x1011C, 0x0, 1, 0x0, 1, 32, [⟨31, 21, .rsv, 0⟩, ⟨20, 16, .ro, 0⟩, ⟨15, 5, .rsv, 0⟩, ⟨4, 0, .ro, 0⟩]⟩ /- PT_QUEUE -/,
  ⟨.yoke, 0x10200, 0x40, 4, 0x0, 1, 32, [⟨31, 31, .ro, 0⟩, ⟨30, 30, .ro, 0⟩, ⟨29, 16, .rsv, 0⟩, ⟨15, 8, .ro, 0⟩, ⟨7, 0, .ro, 0⟩]⟩ /- PT_SLOT+0x0 -/,
  ⟨.yoke, 0x10204, 0x40, 4, 0x0, 1, 32, [⟨31, 0, .ro, 0⟩]⟩ /- PT_SLOT+0x4 -/,
  ⟨.yoke, 0x10208, 0x40, 4, 0x0, 1, 32, [⟨31, 0, .ro, 0⟩]⟩ /- PT_SLOT+0x8 -/,
  ⟨.yoke, 0x10210, 0x40, 4, 0x0, 1, 64, [⟨63, 0, .ro, 0⟩]⟩ /- PT_SLOT+0x10 -/,
  ⟨.yoke, 0x10220, 0x40, 4, 0x0, 1, 32, [⟨31, 0, .ro, 0⟩]⟩ /- PT_SLOT+0x20 -/,
  ⟨.yoke, 0x10224, 0x40, 4, 0x0, 1, 32, [⟨31, 0, .ro, 0⟩]⟩ /- PT_SLOT+0x24 -/,
  ⟨.yoke, 0x10228, 0x40, 4, 0x0, 1, 32, [⟨31, 0, .ro, 0⟩]⟩ /- PT_SLOT+0x28 -/,
  ⟨.yoke, 0x1022C, 0x40, 4, 0x0, 1, 32, [⟨31, 0, .ro, 0⟩]⟩ /- PT_SLOT+0x2C -/,
  ⟨.yoke, 0x10230, 0x40, 4, 0x0, 1, 32, [⟨31, 0, .ro, 0⟩]⟩ /- PT_SLOT+0x30 -/,
  ⟨.yoke, 0x10234, 0x40, 4, 0x0, 1, 32, [⟨31, 0, .ro, 0⟩]⟩ /- PT_SLOT+0x34 -/,
  ⟨.yoke, 0x10238, 0x40, 4, 0x0, 1, 32, [⟨31, 0, .ro, 0⟩]⟩ /- PT_SLOT+0x38 -/,
  ⟨.yoke, 0x1023C, 0x40, 4, 0x0, 1, 32, [⟨31, 0, .ro, 0⟩]⟩ /- PT_SLOT+0x3C -/,
  ⟨.yoke, 0xF0400, 0x0, 1, 0x0, 1, 32, [⟨31, 16, .ro, 0⟩, ⟨15, 9, .rsv, 0⟩, ⟨8, 8, .ro, 0⟩, ⟨7, 4, .ro, 0⟩, ⟨3, 0, .ro, 0⟩]⟩ /- MC_CASTON -/,
  ⟨.yoke, 0xF0404, 0x0, 1, 0x0, 1, 32, [⟨31, 9, .rsv, 0⟩, ⟨8, 8, .ro, 0⟩, ⟨7, 4, .ro, 0⟩, ⟨3, 1, .rsv, 0⟩, ⟨0, 0, .ro, 0⟩]⟩ /- MC_RESET_CAUSE -/,
  ⟨.yoke, 0xF0410, 0x0, 1, 0x0, 1, 32, [⟨31, 30, .ro, 0⟩, ⟨29, 29, .ro, 0⟩, ⟨28, 26, .ro, 0⟩, ⟨25, 24, .rsv, 0⟩, ⟨23, 12, .ro, 0⟩, ⟨11, 4, .rsv, 0⟩, ⟨3, 0, .ro, 0⟩]⟩ /- MC_SEQ -/,
  ⟨.yoke, 0xF0420, 0x4, 8, 0x0, 1, 32, [⟨31, 31, .ro, 0⟩, ⟨30, 28, .ro, 0⟩, ⟨27, 26, .ro, 0⟩, ⟨25, 24, .rsv, 0⟩, ⟨23, 16, .ro, 0⟩, ⟨15, 12, .rsv, 0⟩, ⟨11, 0, .ro, 0⟩]⟩ /- MC_PENDING -/,
  ⟨.yoke, 0xF0440, 0x0, 1, 0x0, 1, 32, [⟨31, 31, .rws, 0⟩, ⟨30, 28, .rws, 0⟩, ⟨27, 16, .rws, 0⟩, ⟨15, 8, .rsv, 0⟩, ⟨7, 0, .rws, 0⟩]⟩ /- MC_FATAL -/,
  ⟨.yoke, 0xF0448, 0x0, 1, 0x0, 1, 64, [⟨63, 58, .rsv, 0⟩, ⟨57, 32, .ro, 0⟩, ⟨31, 26, .rsv, 0⟩, ⟨25, 0, .ro, 0⟩]⟩ /- MC_KEY -/]

/-- Rows of the register maps, yoke global window, part 9. -/
def regRowsY8 : List RegRow := [
  ⟨.yoke, 0xF0450, 0x0, 1, 0x0, 1, 32, [⟨31, 0, .ro, 0⟩]⟩ /- MC_FW_SVN -/,
  ⟨.yoke, 0xF0454, 0x0, 1, 0x0, 1, 32, [⟨31, 0, .ro, 0⟩]⟩ /- MC_FW_MIN_SVN -/,
  ⟨.yoke, 0xF0600, 0x0, 1, 0x0, 1, 32, [⟨31, 3, .rsv, 0⟩, ⟨2, 2, .wo, 0⟩, ⟨1, 1, .ro, 0⟩, ⟨0, 0, .rws, 0⟩]⟩ /- MC_TEST_CTL -/,
  ⟨.yoke, 0x70030, 0x0, 1, 0x0, 1, 32, [⟨31, 31, .rw1c, 0⟩, ⟨30, 30, .wo, 0⟩, ⟨29, 29, .wo, 0⟩, ⟨28, 10, .rsv, 0⟩, ⟨9, 0, .rw, 0⟩]⟩ /- HB_TEST_SEL -/,
  ⟨.yoke, 0xF0608, 0x0, 1, 0x0, 1, 32, [⟨31, 31, .wo, 0⟩, ⟨30, 30, .ro, 0⟩, ⟨29, 29, .rw1c, 0⟩, ⟨28, 28, .ro, 0⟩, ⟨27, 11, .rsv, 0⟩, ⟨10, 8, .ro, 0⟩, ⟨7, 6, .rsv, 0⟩, ⟨5, 0, .rw, 0⟩]⟩ /- MC_BIST -/,
  ⟨.yoke, 0xF0500, 0x0, 1, 0x0, 1, 32, [⟨31, 9, .rsv, 0⟩, ⟨8, 8, .ro, 0⟩, ⟨7, 7, .ro, 0⟩, ⟨6, 6, .ro, 0⟩, ⟨5, 5, .ro, 0⟩, ⟨4, 4, .ro, 0⟩, ⟨3, 3, .ro, 0⟩, ⟨2, 2, .rsv, 0⟩, ⟨1, 0, .ro, 0⟩]⟩ /- MC_BOARD -/,
  ⟨.yoke, 0x110000, 0x0, 1, 0x0, 1, 64, [⟨63, 12, .rw, 0⟩, ⟨11, 7, .rsv, 0⟩, ⟨6, 2, .rw, 0⟩, ⟨1, 1, .rw, 0⟩, ⟨0, 0, .rw, 0⟩]⟩ /- EV_RING_BASE -/,
  ⟨.yoke, 0x110008, 0x0, 1, 0x0, 1, 32, [⟨31, 30, .rw, 0⟩, ⟨29, 28, .rsv, 0⟩, ⟨27, 11, .rw, 1⟩, ⟨10, 0, .rw, 0⟩]⟩ /- EV_RING_CTL -/,
  ⟨.yoke, 0x11000C, 0x0, 1, 0x0, 1, 32, [⟨31, 24, .rsv, 0⟩, ⟨23, 0, .ro, 0⟩]⟩ /- EV_RING_PI -/,
  ⟨.yoke, 0x110010, 0x0, 1, 0x0, 1, 32, [⟨31, 24, .rsv, 0⟩, ⟨23, 0, .rw, 0⟩]⟩ /- EV_RING_CI -/,
  ⟨.yoke, 0x110014, 0x0, 1, 0x0, 1, 32, [⟨31, 1, .rsv, 0⟩, ⟨0, 0, .rw, 0⟩]⟩ /- EV_CTL -/,
  ⟨.yoke, 0x110018, 0x0, 1, 0x0, 1, 32, [⟨31, 3, .rsv, 0⟩, ⟨2, 2, .rw1c, 0⟩, ⟨1, 1, .rw1c, 0⟩, ⟨0, 0, .rw1c, 0⟩]⟩ /- EV_STICKY -/,
  ⟨.yoke, 0x110100, 0x0, 1, 0x0, 1, 64, [⟨63, 0, .ro, 0⟩]⟩ /- EV_CNT+0x0 -/,
  ⟨.yoke, 0x110108, 0x0, 1, 0x0, 1, 64, [⟨63, 0, .ro, 0⟩]⟩ /- EV_CNT+0x8 -/,
  ⟨.yoke, 0x110110, 0x0, 1, 0x0, 1, 64, [⟨63, 0, .ro, 0⟩]⟩ /- EV_CNT+0x10 -/,
  ⟨.yoke, 0x110118, 0x0, 1, 0x0, 1, 64, [⟨63, 0, .ro, 0⟩]⟩ /- EV_CNT+0x18 -/,
  ⟨.yoke, 0xA0500, 0x0, 1, 0x0, 1, 32, [⟨31, 31, .wo, 0⟩, ⟨30, 30, .ro, 0⟩, ⟨29, 29, .rw1c, 0⟩, ⟨28, 28, .wo, 0⟩, ⟨27, 27, .ro, 0⟩, ⟨26, 7, .rsv, 0⟩, ⟨6, 4, .rw, 0⟩, ⟨3, 3, .rsv, 0⟩, ⟨2, 0, .rw, 0⟩]⟩ /- PX_LOOP+0x0 -/,
  ⟨.yoke, 0xA0504, 0x0, 1, 0x0, 1, 32, [⟨31, 0, .rw, 0⟩]⟩ /- PX_LOOP+0x4 -/,
  ⟨.yoke, 0xA0508, 0x0, 1, 0x0, 1, 64, [⟨63, 0, .ro, 0⟩]⟩ /- PX_LOOP+0x8 -/,
  ⟨.yoke, 0xA0510, 0x0, 1, 0x0, 1, 64, [⟨63, 0, .ro, 0⟩]⟩ /- PX_LOOP+0x10 -/]

/-- Rows of the register maps, yoke global window, part 10. -/
def regRowsY9 : List RegRow := [
  ⟨.yoke, 0xA0518, 0x0, 1, 0x0, 1, 64, [⟨63, 0, .ro, 0⟩]⟩ /- PX_LOOP+0x18 -/,
  ⟨.yoke, 0xC0200, 0x40, 4, 0x0, 1, 32, [⟨31, 31, .wo, 0⟩, ⟨30, 30, .ro, 0⟩, ⟨29, 29, .rw1c, 0⟩, ⟨28, 28, .wo, 0⟩, ⟨27, 27, .ro, 0⟩, ⟨26, 7, .rsv, 0⟩, ⟨6, 4, .rw, 0⟩, ⟨3, 3, .rsv, 0⟩, ⟨2, 0, .rw, 0⟩]⟩ /- FB_LOOP+0x0 -/,
  ⟨.yoke, 0xC0204, 0x40, 4, 0x0, 1, 32, [⟨31, 0, .rw, 0⟩]⟩ /- FB_LOOP+0x4 -/,
  ⟨.yoke, 0xC0208, 0x40, 4, 0x0, 1, 64, [⟨63, 0, .ro, 0⟩]⟩ /- FB_LOOP+0x8 -/,
  ⟨.yoke, 0xC0210, 0x40, 4, 0x0, 1, 64, [⟨63, 0, .ro, 0⟩]⟩ /- FB_LOOP+0x10 -/,
  ⟨.yoke, 0xC0218, 0x40, 4, 0x0, 1, 64, [⟨63, 0, .ro, 0⟩]⟩ /- FB_LOOP+0x18 -/,
  ⟨.yoke, 0x90800, 0x40, 90, 0x0, 1, 32, [⟨31, 31, .wo, 0⟩, ⟨30, 30, .ro, 0⟩, ⟨29, 29, .rw1c, 0⟩, ⟨28, 28, .wo, 0⟩, ⟨27, 27, .ro, 0⟩, ⟨26, 7, .rsv, 0⟩, ⟨6, 4, .rw, 0⟩, ⟨3, 3, .rsv, 0⟩, ⟨2, 0, .rw, 0⟩]⟩ /- SM_LOOP+0x0 -/,
  ⟨.yoke, 0x90804, 0x40, 90, 0x0, 1, 32, [⟨31, 0, .rw, 0⟩]⟩ /- SM_LOOP+0x4 -/,
  ⟨.yoke, 0x90808, 0x40, 90, 0x0, 1, 64, [⟨63, 0, .ro, 0⟩]⟩ /- SM_LOOP+0x8 -/,
  ⟨.yoke, 0x90810, 0x40, 90, 0x0, 1, 64, [⟨63, 0, .ro, 0⟩]⟩ /- SM_LOOP+0x10 -/,
  ⟨.yoke, 0x90818, 0x40, 90, 0x0, 1, 64, [⟨63, 0, .ro, 0⟩]⟩ /- SM_LOOP+0x18 -/,
  ⟨.yoke, 0x70100, 0x40, 16, 0x0, 1, 32, [⟨31, 31, .wo, 0⟩, ⟨30, 30, .ro, 0⟩, ⟨29, 29, .rw1c, 0⟩, ⟨28, 28, .wo, 0⟩, ⟨27, 27, .ro, 0⟩, ⟨26, 7, .rsv, 0⟩, ⟨6, 4, .rw, 0⟩, ⟨3, 3, .rsv, 0⟩, ⟨2, 0, .rw, 0⟩]⟩ /- HB_LOOP+0x0 -/,
  ⟨.yoke, 0x70104, 0x40, 16, 0x0, 1, 32, [⟨31, 0, .rw, 0⟩]⟩ /- HB_LOOP+0x4 -/,
  ⟨.yoke, 0x70108, 0x40, 16, 0x0, 1, 64, [⟨63, 0, .ro, 0⟩]⟩ /- HB_LOOP+0x8 -/,
  ⟨.yoke, 0x70110, 0x40, 16, 0x0, 1, 64, [⟨63, 0, .ro, 0⟩]⟩ /- HB_LOOP+0x10 -/,
  ⟨.yoke, 0x70118, 0x40, 16, 0x0, 1, 64, [⟨63, 0, .ro, 0⟩]⟩ /- HB_LOOP+0x18 -/,
  ⟨.yoke, 0x90080, 0x8, 2, 0x0, 1, 64, [⟨63, 0, .ro, 0⟩]⟩ /- SM_GUEST_REFUSED -/,
  ⟨.yoke, 0x110200, 0x8, 13, 0x0, 1, 64, [⟨63, 0, .rw1c, 0⟩]⟩ /- EV_OVF_Y -/,
  ⟨.yoke, 0xB0000, 0x10, 2048, 0x0, 1, 64, [⟨63, 0, .rw, 0⟩]⟩ /- MSIX+0x0 -/,
  ⟨.yoke, 0xB0008, 0x10, 2048, 0x0, 1, 32, [⟨31, 0, .rw, 0⟩]⟩ /- MSIX+0x8 -/]

/-- Rows of the register maps, yoke global window, part 11. -/
def regRowsY10 : List RegRow := [
  ⟨.yoke, 0xB000C, 0x10, 2048, 0x0, 1, 32, [⟨31, 0, .rw, 1⟩]⟩ /- MSIX+0xC -/,
  ⟨.yoke, 0xB8000, 0x8, 32, 0x0, 1, 64, [⟨63, 0, .ro, 0⟩]⟩ /- MSIX_PBA -/,
  ⟨.yoke, 0x90110, 0x4, 28, 0x100, 2, 32, [⟨31, 0, .ro, 0⟩]⟩ /- SM_GUEST CAP words -/]

/-- Rows of the register maps, motif window, part 1. -/
def regRowsM0 : List RegRow := [
  ⟨.motif, 0x30000, 0x0, 1, 0x0, 1, 32, [⟨31, 8, .rsv, 0⟩, ⟨7, 7, .ro, 0⟩, ⟨6, 6, .ro, 0⟩, ⟨5, 5, .ro, 0⟩, ⟨4, 4, .rw1c, 0⟩, ⟨3, 2, .ro, 0⟩, ⟨1, 0, .rsv, 0⟩]⟩ /- RW_MSTATUS -/,
  ⟨.motif, 0x30100, 0x8, 16, 0x0, 1, 32, [⟨31, 0, .ro, 0⟩]⟩ /- RW_REM_CYC -/,
  ⟨.motif, 0x30104, 0x8, 16, 0x0, 1, 32, [⟨31, 0, .ro, 0⟩]⟩ /- RW_REM_UJ -/,
  ⟨.motif, 0x30200, 0x4, 16, 0x0, 1, 32, [⟨31, 16, .ro, 0x0100⟩, ⟨15, 0, .ro, 0x0100⟩]⟩ /- RW_SCALE -/,
  ⟨.motif, 0x30800, 0x0, 1, 0x0, 1, 32, [⟨31, 0, .ro, 0⟩]⟩ /- GA_MBUDGET -/,
  ⟨.motif, 0x30804, 0x0, 1, 0x0, 1, 32, [⟨31, 0, .ro, 0⟩]⟩ /- GA_MUSED -/,
  ⟨.motif, 0x30808, 0x0, 1, 0x0, 1, 32, [⟨31, 16, .rsv, 0⟩, ⟨15, 8, .ro, 0⟩, ⟨7, 5, .rsv, 0⟩, ⟨4, 0, .ro, 0⟩]⟩ /- GA_MCLOCK -/,
  ⟨.motif, 0x30400, 0x0, 1, 0x0, 1, 64, [⟨63, 0, .ro, 0⟩]⟩ /- RW_CNT+0x0 -/,
  ⟨.motif, 0x30408, 0x0, 1, 0x0, 1, 64, [⟨63, 0, .ro, 0⟩]⟩ /- RW_CNT+0x8 -/,
  ⟨.motif, 0x30410, 0x0, 1, 0x0, 1, 64, [⟨63, 0, .ro, 0⟩]⟩ /- RW_CNT+0x10 -/,
  ⟨.motif, 0x30418, 0x0, 1, 0x0, 1, 64, [⟨63, 0, .ro, 0⟩]⟩ /- RW_CNT+0x18 -/,
  ⟨.motif, 0x30420, 0x0, 1, 0x0, 1, 64, [⟨63, 0, .ro, 0⟩]⟩ /- RW_CNT+0x20 -/,
  ⟨.motif, 0x30428, 0x0, 1, 0x0, 1, 64, [⟨63, 0, .ro, 0⟩]⟩ /- RW_CNT+0x28 -/,
  ⟨.motif, 0x30430, 0x0, 1, 0x0, 1, 64, [⟨63, 0, .ro, 0⟩]⟩ /- RW_CNT+0x30 -/,
  ⟨.motif, 0x30440, 0x0, 1, 0x0, 1, 64, [⟨63, 0, .ro, 0⟩]⟩ /- RW_CNT_SNAP+0x0 -/,
  ⟨.motif, 0x30448, 0x0, 1, 0x0, 1, 64, [⟨63, 0, .ro, 0⟩]⟩ /- RW_CNT_SNAP+0x8 -/,
  ⟨.motif, 0x30450, 0x0, 1, 0x0, 1, 64, [⟨63, 0, .ro, 0⟩]⟩ /- RW_CNT_SNAP+0x10 -/,
  ⟨.motif, 0x30458, 0x0, 1, 0x0, 1, 64, [⟨63, 0, .ro, 0⟩]⟩ /- RW_CNT_SNAP+0x18 -/,
  ⟨.motif, 0x30460, 0x0, 1, 0x0, 1, 64, [⟨63, 0, .ro, 0⟩]⟩ /- RW_CNT_SNAP+0x20 -/,
  ⟨.motif, 0x30468, 0x0, 1, 0x0, 1, 64, [⟨63, 0, .ro, 0⟩]⟩ /- RW_CNT_SNAP+0x28 -/]

/-- Rows of the register maps, motif window, part 2. -/
def regRowsM1 : List RegRow := [
  ⟨.motif, 0x30470, 0x0, 1, 0x0, 1, 64, [⟨63, 0, .ro, 0⟩]⟩ /- RW_CNT_SNAP+0x30 -/,
  ⟨.motif, 0x8000, 0x0, 1, 0x0, 1, 32, [⟨31, 9, .rsv, 0⟩, ⟨8, 8, .ro, 0⟩, ⟨7, 2, .ro, 0⟩, ⟨1, 1, .ro, 0⟩, ⟨0, 0, .ro, 0⟩]⟩ /- MX_STATUS -/,
  ⟨.motif, 0x8010, 0x4, 4, 0x0, 1, 32, [⟨31, 16, .rsv, 0⟩, ⟨15, 8, .rw, 0⟩, ⟨7, 3, .rsv, 0⟩, ⟨2, 2, .ro, 0⟩, ⟨1, 0, .rw, 0⟩]⟩ /- MX_ACCSTATE -/,
  ⟨.motif, 0x8020, 0x0, 1, 0x0, 1, 32, [⟨31, 4, .rsv, 0⟩, ⟨3, 3, .rw1c, 0⟩, ⟨2, 2, .rw1c, 0⟩, ⟨1, 1, .rw1c, 0⟩, ⟨0, 0, .rw1c, 0⟩]⟩ /- MX_STICKY -/,
  ⟨.motif, 0x8100, 0x0, 1, 0x0, 1, 64, [⟨63, 0, .ro, 0⟩]⟩ /- MX_CNT+0x0 -/,
  ⟨.motif, 0x8108, 0x0, 1, 0x0, 1, 64, [⟨63, 0, .ro, 0⟩]⟩ /- MX_CNT+0x8 -/,
  ⟨.motif, 0x8110, 0x0, 1, 0x0, 1, 64, [⟨63, 0, .ro, 0⟩]⟩ /- MX_CNT+0x10 -/,
  ⟨.motif, 0x8118, 0x0, 1, 0x0, 1, 64, [⟨63, 0, .ro, 0⟩]⟩ /- MX_CNT+0x18 -/,
  ⟨.motif, 0x8120, 0x0, 1, 0x0, 1, 64, [⟨63, 0, .ro, 0⟩]⟩ /- MX_CNT+0x20 -/,
  ⟨.motif, 0x8128, 0x0, 1, 0x0, 1, 64, [⟨63, 0, .ro, 0⟩]⟩ /- MX_CNT+0x28 -/,
  ⟨.motif, 0x9000, 0x0, 1, 0x0, 1, 32, [⟨31, 10, .rsv, 0⟩, ⟨9, 9, .ro, 0⟩, ⟨8, 8, .ro, 0⟩, ⟨7, 7, .ro, 0⟩, ⟨6, 2, .ro, 0⟩, ⟨1, 1, .rsv, 0⟩, ⟨0, 0, .ro, 0⟩]⟩ /- VE_STATUS -/,
  ⟨.motif, 0x9010, 0x0, 1, 0x0, 1, 32, [⟨31, 6, .rsv, 0⟩, ⟨5, 5, .rw1c, 0⟩, ⟨4, 4, .rw1c, 0⟩, ⟨3, 3, .rw1c, 0⟩, ⟨2, 2, .rw1c, 0⟩, ⟨1, 1, .rw1c, 0⟩, ⟨0, 0, .rw1c, 0⟩]⟩ /- VE_STICKY -/,
  ⟨.motif, 0x9100, 0x0, 1, 0x0, 1, 64, [⟨63, 0, .ro, 0⟩]⟩ /- VE_CNT+0x0 -/,
  ⟨.motif, 0x9108, 0x0, 1, 0x0, 1, 64, [⟨63, 0, .ro, 0⟩]⟩ /- VE_CNT+0x8 -/,
  ⟨.motif, 0x9110, 0x0, 1, 0x0, 1, 64, [⟨63, 0, .ro, 0⟩]⟩ /- VE_CNT+0x10 -/,
  ⟨.motif, 0x9118, 0x0, 1, 0x0, 1, 64, [⟨63, 0, .ro, 0⟩]⟩ /- VE_CNT+0x18 -/,
  ⟨.motif, 0x9120, 0x0, 1, 0x0, 1, 64, [⟨63, 0, .ro, 0⟩]⟩ /- VE_CNT+0x20 -/,
  ⟨.motif, 0x9128, 0x0, 1, 0x0, 1, 64, [⟨63, 0, .ro, 0⟩]⟩ /- VE_CNT+0x28 -/,
  ⟨.motif, 0x9130, 0x0, 1, 0x0, 1, 64, [⟨63, 0, .ro, 0⟩]⟩ /- VE_CNT+0x30 -/,
  ⟨.motif, 0xA000, 0x0, 1, 0x0, 1, 32, [⟨31, 18, .rsv, 0⟩, ⟨17, 17, .ro, 0⟩, ⟨16, 16, .ro, 0⟩, ⟨15, 8, .ro, 0⟩, ⟨7, 0, .ro, 0⟩]⟩ /- TG_STATUS -/]

/-- Rows of the register maps, motif window, part 3. -/
def regRowsM2 : List RegRow := [
  ⟨.motif, 0xA010, 0x0, 1, 0x0, 1, 32, [⟨31, 5, .rsv, 0⟩, ⟨4, 4, .rw1c, 0⟩, ⟨3, 3, .rw1c, 0⟩, ⟨2, 2, .rw1c, 0⟩, ⟨1, 1, .rw1c, 0⟩, ⟨0, 0, .rw1c, 0⟩]⟩ /- TG_STICKY -/,
  ⟨.motif, 0xA040, 0x4, 8, 0x0, 1, 32, [⟨31, 16, .ro, 0⟩, ⟨15, 0, .ro, 0⟩]⟩ /- TG_NEEDLE -/,
  ⟨.motif, 0xA100, 0x0, 1, 0x0, 1, 64, [⟨63, 0, .ro, 0⟩]⟩ /- TG_CNT+0x0 -/,
  ⟨.motif, 0xA108, 0x0, 1, 0x0, 1, 64, [⟨63, 0, .ro, 0⟩]⟩ /- TG_CNT+0x8 -/,
  ⟨.motif, 0xA110, 0x0, 1, 0x0, 1, 64, [⟨63, 0, .ro, 0⟩]⟩ /- TG_CNT+0x10 -/,
  ⟨.motif, 0xA118, 0x0, 1, 0x0, 1, 64, [⟨63, 0, .ro, 0⟩]⟩ /- TG_CNT+0x18 -/,
  ⟨.motif, 0xA120, 0x0, 1, 0x0, 1, 64, [⟨63, 0, .ro, 0⟩]⟩ /- TG_CNT+0x20 -/,
  ⟨.motif, 0xA128, 0x0, 1, 0x0, 1, 64, [⟨63, 0, .ro, 0⟩]⟩ /- TG_CNT+0x28 -/,
  ⟨.motif, 0xA130, 0x0, 1, 0x0, 1, 64, [⟨63, 0, .ro, 0⟩]⟩ /- TG_CNT+0x30 -/,
  ⟨.motif, 0xA138, 0x0, 1, 0x0, 1, 64, [⟨63, 0, .ro, 0⟩]⟩ /- TG_CNT+0x38 -/,
  ⟨.motif, 0xA140, 0x0, 1, 0x0, 1, 64, [⟨63, 0, .ro, 0⟩]⟩ /- TG_CNT+0x40 -/,
  ⟨.motif, 0xB000, 0x0, 1, 0x0, 1, 32, [⟨31, 24, .rsv, 0⟩, ⟨23, 16, .ro, 128⟩, ⟨15, 8, .ro, 16⟩, ⟨7, 0, .ro, 13⟩]⟩ /- L2_CFG -/,
  ⟨.motif, 0xB004, 0x0, 1, 0x0, 1, 32, [⟨31, 3, .rsv, 0⟩, ⟨2, 2, .wo, 0⟩, ⟨1, 0, .rw, 0⟩]⟩ /- L2_PRED_CTL -/,
  ⟨.motif, 0xB010, 0x0, 1, 0x0, 1, 32, [⟨31, 3, .rsv, 0⟩, ⟨2, 2, .rw1c, 0⟩, ⟨1, 1, .rw1c, 0⟩, ⟨0, 0, .rw1c, 0⟩]⟩ /- L2_STICKY -/,
  ⟨.motif, 0xB020, 0x0, 1, 0x0, 1, 32, [⟨31, 25, .rsv, 0⟩, ⟨24, 16, .ro, 0⟩, ⟨15, 7, .rsv, 0⟩, ⟨6, 0, .ro, 0⟩]⟩ /- L2_DIR_STATUS -/,
  ⟨.motif, 0xB100, 0x0, 1, 0x0, 1, 64, [⟨63, 0, .ro, 0⟩]⟩ /- L2_CNT+0x0 -/,
  ⟨.motif, 0xB108, 0x0, 1, 0x0, 1, 64, [⟨63, 0, .ro, 0⟩]⟩ /- L2_CNT+0x8 -/,
  ⟨.motif, 0xB110, 0x0, 1, 0x0, 1, 64, [⟨63, 0, .ro, 0⟩]⟩ /- L2_CNT+0x10 -/,
  ⟨.motif, 0xB118, 0x0, 1, 0x0, 1, 64, [⟨63, 0, .ro, 0⟩]⟩ /- L2_CNT+0x18 -/,
  ⟨.motif, 0xB120, 0x0, 1, 0x0, 1, 64, [⟨63, 0, .ro, 0⟩]⟩ /- L2_CNT+0x20 -/]

/-- Rows of the register maps, motif window, part 4. -/
def regRowsM3 : List RegRow := [
  ⟨.motif, 0xB128, 0x0, 1, 0x0, 1, 64, [⟨63, 0, .ro, 0⟩]⟩ /- L2_CNT+0x28 -/,
  ⟨.motif, 0xB130, 0x0, 1, 0x0, 1, 64, [⟨63, 0, .ro, 0⟩]⟩ /- L2_CNT+0x30 -/,
  ⟨.motif, 0xB138, 0x0, 1, 0x0, 1, 64, [⟨63, 0, .ro, 0⟩]⟩ /- L2_CNT+0x38 -/,
  ⟨.motif, 0xB140, 0x0, 1, 0x0, 1, 64, [⟨63, 0, .ro, 0⟩]⟩ /- L2_CNT+0x40 -/,
  ⟨.motif, 0xB148, 0x0, 1, 0x0, 1, 64, [⟨63, 0, .ro, 0⟩]⟩ /- L2_CNT+0x48 -/,
  ⟨.motif, 0xB200, 0x0, 1, 0x0, 1, 64, [⟨63, 0, .ro, 0⟩]⟩ /- L2_DIR_CNT+0x0 -/,
  ⟨.motif, 0xB208, 0x0, 1, 0x0, 1, 64, [⟨63, 0, .ro, 0⟩]⟩ /- L2_DIR_CNT+0x8 -/,
  ⟨.motif, 0xB210, 0x0, 1, 0x0, 1, 64, [⟨63, 0, .ro, 0⟩]⟩ /- L2_DIR_CNT+0x10 -/,
  ⟨.motif, 0xB218, 0x0, 1, 0x0, 1, 64, [⟨63, 0, .ro, 0⟩]⟩ /- L2_DIR_CNT+0x18 -/,
  ⟨.motif, 0xB220, 0x0, 1, 0x0, 1, 64, [⟨63, 0, .ro, 0⟩]⟩ /- L2_DIR_CNT+0x20 -/,
  ⟨.motif, 0xB228, 0x0, 1, 0x0, 1, 64, [⟨63, 0, .ro, 0⟩]⟩ /- L2_DIR_CNT+0x28 -/,
  ⟨.motif, 0xB230, 0x0, 1, 0x0, 1, 64, [⟨63, 0, .ro, 0⟩]⟩ /- L2_DIR_CNT+0x30 -/,
  ⟨.motif, 0xC000, 0x0, 1, 0x0, 1, 64, [⟨63, 0, .ro, 0⟩]⟩ /- TU_MCNT+0x0 -/,
  ⟨.motif, 0xC008, 0x0, 1, 0x0, 1, 64, [⟨63, 0, .ro, 0⟩]⟩ /- TU_MCNT+0x8 -/,
  ⟨.motif, 0xC010, 0x0, 1, 0x0, 1, 64, [⟨63, 0, .ro, 0⟩]⟩ /- TU_MCNT+0x10 -/,
  ⟨.motif, 0xD000, 0x4, 4, 0x0, 1, 32, [⟨31, 29, .ro, 0⟩, ⟨28, 28, .rsv, 0⟩, ⟨27, 24, .ro, 0⟩, ⟨23, 16, .ro, 0⟩, ⟨15, 14, .ro, 0⟩, ⟨13, 12, .rsv, 0⟩, ⟨11, 9, .ro, 0⟩, ⟨8, 4, .rsv, 0⟩, ⟨3, 0, .ro, 0⟩]⟩ /- SM_SEAM -/,
  ⟨.motif, 0xD100, 0x20, 4, 0x0, 1, 64, [⟨63, 0, .ro, 0⟩]⟩ /- SM_CNT+0x0 -/,
  ⟨.motif, 0xD108, 0x20, 4, 0x0, 1, 64, [⟨63, 0, .ro, 0⟩]⟩ /- SM_CNT+0x8 -/,
  ⟨.motif, 0xD110, 0x20, 4, 0x0, 1, 64, [⟨63, 0, .ro, 0⟩]⟩ /- SM_CNT+0x10 -/,
  ⟨.motif, 0xD118, 0x20, 4, 0x0, 1, 64, [⟨63, 0, .ro, 0⟩]⟩ /- SM_CNT+0x18 -/]

/-- Rows of the register maps, motif window, part 5. -/
def regRowsM4 : List RegRow := [
  ⟨.motif, 0xE000, 0x8, 11, 0x0, 1, 64, [⟨63, 0, .rw1c, 0⟩]⟩ /- EV_OVF_M -/]

/-- Rows of the register maps, stack window, part 1. -/
def regRowsS0 : List RegRow := [
  ⟨.stack, 0x0, 0x0, 1, 0x0, 1, 32, [⟨31, 24, .ro, 0⟩, ⟨23, 20, .ro, 0⟩, ⟨19, 19, .ro, 0⟩, ⟨18, 18, .ro, 0⟩, ⟨17, 15, .rsv, 0⟩, ⟨14, 8, .ro, 0⟩, ⟨7, 3, .rsv, 0⟩, ⟨2, 0, .ro, 0⟩]⟩ /- HB_STATUS -/,
  ⟨.stack, 0x8, 0x0, 1, 0x0, 1, 64, [⟨63, 0, .ro, 0⟩]⟩ /- HB_PC_OUT -/,
  ⟨.stack, 0x10, 0x0, 1, 0x0, 1, 64, [⟨63, 0, .ro, 0⟩]⟩ /- HB_PC_FENCED -/,
  ⟨.stack, 0x18, 0x0, 1, 0x0, 1, 64, [⟨63, 0, .ro, 0⟩]⟩ /- HB_PC_TEST -/,
  ⟨.stack, 0x100, 0x0, 1, 0x0, 1, 64, [⟨63, 63, .rw1c, 0⟩, ⟨62, 60, .ro, 0⟩, ⟨59, 48, .rsv, 0⟩, ⟨47, 0, .ro, 0⟩]⟩ /- HB_ERR -/,
  ⟨.stack, 0x200, 0x0, 1, 0x0, 1, 32, [⟨31, 31, .rw, 0⟩, ⟨30, 24, .rsv, 0⟩, ⟨23, 16, .rw, 0xFF⟩, ⟨15, 8, .rw, 0xFF⟩, ⟨7, 0, .rw, 0xFF⟩]⟩ /- HB_INJECT -/,
  ⟨.stack, 0x400, 0x0, 1, 0x0, 1, 64, [⟨63, 0, .ro, 0⟩]⟩ /- HB_CNT+0x0 -/,
  ⟨.stack, 0x408, 0x0, 1, 0x0, 1, 64, [⟨63, 0, .ro, 0⟩]⟩ /- HB_CNT+0x8 -/,
  ⟨.stack, 0x410, 0x0, 1, 0x0, 1, 64, [⟨63, 0, .ro, 0⟩]⟩ /- HB_CNT+0x10 -/,
  ⟨.stack, 0x418, 0x0, 1, 0x0, 1, 64, [⟨63, 0, .ro, 0⟩]⟩ /- HB_CNT+0x18 -/,
  ⟨.stack, 0x420, 0x0, 1, 0x0, 1, 64, [⟨63, 0, .ro, 0⟩]⟩ /- HB_CNT+0x20 -/,
  ⟨.stack, 0x428, 0x0, 1, 0x0, 1, 64, [⟨63, 0, .ro, 0⟩]⟩ /- HB_CNT+0x28 -/,
  ⟨.stack, 0x430, 0x0, 1, 0x0, 1, 64, [⟨63, 0, .ro, 0⟩]⟩ /- HB_CNT+0x30 -/,
  ⟨.stack, 0x438, 0x0, 1, 0x0, 1, 64, [⟨63, 0, .ro, 0⟩]⟩ /- HB_CNT+0x38 -/,
  ⟨.stack, 0x440, 0x0, 1, 0x0, 1, 64, [⟨63, 0, .ro, 0⟩]⟩ /- HB_CNT+0x40 -/,
  ⟨.stack, 0x448, 0x0, 1, 0x0, 1, 64, [⟨63, 0, .ro, 0⟩]⟩ /- HB_CNT+0x48 -/,
  ⟨.stack, 0x450, 0x0, 1, 0x0, 1, 64, [⟨63, 0, .ro, 0⟩]⟩ /- HB_CNT+0x50 -/,
  ⟨.stack, 0x458, 0x0, 1, 0x0, 1, 64, [⟨63, 0, .ro, 0⟩]⟩ /- HB_CNT+0x58 -/,
  ⟨.stack, 0x1000, 0x20, 64, 0x0, 1, 64, [⟨63, 0, .ro, 0⟩]⟩ /- HB_PC_CNT+0x0 -/,
  ⟨.stack, 0x1008, 0x20, 64, 0x0, 1, 64, [⟨63, 0, .ro, 0⟩]⟩ /- HB_PC_CNT+0x8 -/]

/-- Rows of the register maps, stack window, part 2. -/
def regRowsS1 : List RegRow := [
  ⟨.stack, 0x1010, 0x20, 64, 0x0, 1, 64, [⟨63, 0, .ro, 0⟩]⟩ /- HB_PC_CNT+0x10 -/,
  ⟨.stack, 0x1018, 0x20, 64, 0x0, 1, 64, [⟨63, 0, .ro, 0⟩]⟩ /- HB_PC_CNT+0x18 -/,
  ⟨.stack, 0x2000, 0x4, 64, 0x0, 1, 32, [⟨31, 31, .rw1c, 0⟩, ⟨30, 16, .rsv, 0⟩, ⟨15, 0, .ro, 0⟩]⟩ /- HB_PC_HOT -/,
  ⟨.stack, 0x3000, 0x40, 64, 0x0, 1, 32, [⟨31, 31, .wo, 0⟩, ⟨30, 30, .ro, 0⟩, ⟨29, 29, .rw1c, 0⟩, ⟨28, 7, .rsv, 0⟩, ⟨6, 4, .rw, 0⟩, ⟨3, 2, .rsv, 0⟩, ⟨1, 0, .rw, 0⟩]⟩ /- HB_TGEN+0x0 -/,
  ⟨.stack, 0x3008, 0x40, 64, 0x0, 1, 32, [⟨31, 22, .rsv, 0⟩, ⟨21, 0, .rw, 0⟩]⟩ /- HB_TGEN+0x8 -/,
  ⟨.stack, 0x300C, 0x40, 64, 0x0, 1, 32, [⟨31, 23, .rsv, 0⟩, ⟨22, 0, .rw, 0⟩]⟩ /- HB_TGEN+0xC -/,
  ⟨.stack, 0x3010, 0x40, 64, 0x0, 1, 32, [⟨31, 0, .rw, 0⟩]⟩ /- HB_TGEN+0x10 -/,
  ⟨.stack, 0x3018, 0x40, 64, 0x0, 1, 64, [⟨63, 0, .ro, 0⟩]⟩ /- HB_TGEN+0x18 -/,
  ⟨.stack, 0x3020, 0x40, 64, 0x0, 1, 64, [⟨63, 0, .ro, 0⟩]⟩ /- HB_TGEN+0x20 -/,
  ⟨.stack, 0x3028, 0x40, 64, 0x0, 1, 32, [⟨31, 31, .ro, 0⟩, ⟨30, 22, .rsv, 0⟩, ⟨21, 0, .ro, 0⟩]⟩ /- HB_TGEN+0x28 -/,
  ⟨.stack, 0x4000, 0x8, 5, 0x0, 1, 64, [⟨63, 0, .rw1c, 0⟩]⟩ /- EV_OVF_S -/]

/-- Every register of the yoke global window. -/
def regRowsY : List RegRow :=
  regRowsY0 ++ regRowsY1 ++ regRowsY2 ++ regRowsY3 ++ regRowsY4 ++ regRowsY5 ++ regRowsY6 ++ regRowsY7 ++ regRowsY8 ++ regRowsY9 ++ regRowsY10

/-- Every register of the motif window. -/
def regRowsM : List RegRow :=
  regRowsM0 ++ regRowsM1 ++ regRowsM2 ++ regRowsM3 ++ regRowsM4

/-- Every register of the stack window. -/
def regRowsS : List RegRow :=
  regRowsS0 ++ regRowsS1

end Sys2Proof.Machine
end

