-- ==== Sys2Proof/Machine/Parts/Array.lean ====
section
/-!
DEFINITION. Parts/Array.lean: the array of a motif beside its registers (04_matrix_engine.md).
-/

namespace Sys2Proof.Machine

/-- The two planes of an accumulator set: cell (i, j) at key 256 × i + j, each 8 bytes (R132, R133).
GCNT and RUN_FMT live in MX_ACCSTATEs. -/
structure AccSet where
  run : Sparse Nat
  total : Sparse Nat
  deriving DecidableEq, Repr

def AccSet.zero : AccSet := ⟨[], []⟩

/-- A descriptor the array has accepted (R136, R150). -/
structure ArrayJob where
  /-- Its place in the order in which the array accepted descriptors (R134, R136). -/
  seq : Nat
  /-- The 64 descriptor bytes as one little-endian number. -/
  desc : Nat
  /-- It came from the running stitch's descriptor list (R252), not from a needle. -/
  fromList : Bool
  asid : Nat
  /-- Groups added so far, and a promotion due before the next (R128). -/
  group : Nat
  due : Bool
  stat : NumStat
  /-- Cells counted in this descriptor: 1 flushed, 2 saturated (R131). -/
  cells : Sparse Nat
  /-- The status it ends with, once it has finished with its set. -/
  status : Option Nat
  /-- It ran (and did not complete without running). -/
  ran : Bool
  /-- A SAVE's add at P_CTR is still to come (R148). -/
  ctrDue : Bool
  /-- Stalled on a translation fault (R147). -/
  stalled : Bool
  deriving DecidableEq, Repr

/-- A read or write of MX_ACCSTATEs that waits for the descriptors of its sets (R134, R152). -/
structure AccWait where
  addr : Nat
  wide : Bool
  /-- The word written; none for a read, which REG_RSP answers. -/
  value : Option (BitVec 32)
  /-- Descriptors that the array had accepted before it. -/
  before : Nat
  deriving DecidableEq, Repr

/-- The array: its sets, its queue, its two units (R136), how many descriptors it has accepted, and the waiting register accesses. -/
structure ArrayUnits where
  sets : Sparse AccSet
  queue : List ArrayJob
  prod : Option ArrayJob
  drain : Option ArrayJob
  accepted : Nat
  waits : List AccWait
  deriving DecidableEq, Repr

/-- (DESIGN CHOICE: log entry 7) -/
def ArrayUnits.init : ArrayUnits := { sets := [], queue := [], prod := none, drain := none, accepted := 0, waits := [] }

/-- A descriptor naming set `k` that was accepted as one of the first `before` has not completed (R134). -/
def ArrayUnits.earlier (a : ArrayUnits) (k before : Nat) : Bool :=
  (a.queue ++ a.prod.toList ++ a.drain.toList).any fun j => bits j.desc 9 8 = k && j.seq < before

end Sys2Proof.Machine
end

