-- ==== Sys2Proof/Machine/Parts/Board.lean ====
section
/-!
DEFINITION. Parts/Board.lean: contacts, the current guard, and the JTAG port (17_test_and_loopbacks.md,
18_module_electrical_mechanical.md).
-/

namespace Sys2Proof.Machine

/-- The TAP's instructions (R565). -/
inductive TapInstr where
  | bypass | idcode | samplePreload | extest | clamp | highz | extestPulse | extestTrain | regAccess | debug
  deriving DecidableEq, Repr

/-- The module's contact groups (R571). -/
inductive ContactGroup where
  | pcieTx | pcieRx | fabricTx | fabricRx | pcieSideband | refClock | management | patternSel | pps | coldRst | warmRst
  | alerts | jtag | power | ground | reserved
  deriving DecidableEq, Repr

/-- What a boundary cell does at a contact: the AC-coupled lanes of 1149.6, 1149.1, 1149.1 observing only, or no cell. -/
inductive Coverage where
  | ac | dc | observe | none
  deriving DecidableEq, Repr

/-- A contact, or a pair of one lane: its group and its number in it. -/
structure Contact where
  group : ContactGroup
  num : Nat
  deriving DecidableEq, Repr

/-- What the module does at a contact: its own function, its cell's value, the test signal of the AC-coupled lanes with its
cell's value, or nothing. -/
inductive Pad where
  | own | cell (v : Bool) | pulse (v : Bool) | floats
  deriving DecidableEq, Repr

/-- The board's side of the module. (DESIGN CHOICE: log entry 8) -/
structure Board where
  /-- 48 V good (R577), and the latched thermal trip (R584). -/
  good : Bool
  trip : Bool
  /-- COLD_RST_N and WARM_RST_N are asserted (R580). -/
  cold : Bool
  warm : Bool
  /-- 48 V good asserted at, ns. -/
  goodAt : Nat
  /-- The current guard's last ten samples, mA, newest first, and since when its mean is below 98 A (R578). -/
  samples : List Nat
  below : Option Nat
  /-- The Row in which CURRENT_CLAMP was last raised. -/
  clampRow : Option Nat
  /-- The TAP: its instruction, the boundary register, and that the contacts are driven from it or float (R565). -/
  tap : TapInstr
  cells : BitVec 1872
  driven : Bool
  floating : Bool
  deriving DecidableEq, Repr

/-- (DESIGN CHOICE: log entry 8) -/
def Board.init : Board :=
  { good := true, trip := false, cold := false, warm := false, goodAt := 0, samples := [], below := none, clampRow := none,
    tap := .idcode, cells := 0, driven := false, floating := false }

end Sys2Proof.Machine
end

