-- ==== Sys2Proof/Machine/Parts/Common.lean ====
section
/-!
DEFINITION. Parts/Common.lean: messages the block sends, and the event ring's hidden state.
-/

namespace Sys2Proof.Machine

/-- What a message leaving one of the block's units is. -/
inductive MsgKind where
  /-- A chain payload to the die `dst` (R376): args are the payload as one little-endian number. -/
  | chain
  /-- A posted write to host memory at bus address `dst`; args: 1 Relaxed Ordering, 1 EP (R418, R320). -/
  | hostWrite
  /-- A read of host memory at bus address `dst`; args: length, kind of use. -/
  | hostRead
  /-- An MSI-X message: `dst` the address; args: data, vector (R423). -/
  | msix
  /-- A completion of the host's own request: `dst` the requester; args: status, EP. -/
  | hostCompletion
  /-- FAULT_RPT to the management controller (R544): domain kind, ID, cause. -/
  | faultRpt
  /-- A coherence message of R285 to mesh ID `dst`: args: its code (Coh), the line, and what it carries. -/
  | coh
  /-- MEM_RSP to mesh ID `dst` (R375): args: tag, 1 where performed. -/
  | mem
  /-- A frame of the fabric to the node `dst` (R437): args are the port, the 802.1Q tag (0 for none), the 32-byte header as one
  little-endian number, and the poison mask with its length in bytes. -/
  | fabric
  /-- PlatformEventMessage on a binding `dst`; args: what happened (R481, R484). -/
  | platformEvent
  /-- An MCTP message on a binding `dst` (0 PCIe, 1 management): args are the message type and what identifies it; its body
  (R480, R481, R486). -/
  | mctp
  /-- A read's answer on an access path other than the chain: `dst` the path (0 BAR0, 1 node core, 2 JTAG); args: the address
  and the value, or the IDCODE alone (R564). -/
  | readData
  deriving DecidableEq, Repr

/-- Codes of the coherence messages of R285, in the table's order. -/
abbrev Coh.RD_S : Nat := 1
abbrev Coh.RD_X : Nat := 2
abbrev Coh.UPG : Nat := 3
abbrev Coh.WB : Nat := 4
abbrev Coh.CLEAN_EVICT : Nat := 5
abbrev Coh.RD_NC : Nat := 6
abbrev Coh.WR_NC : Nat := 7
abbrev Coh.ATOM_FAR : Nat := 8
abbrev Coh.FWD_S : Nat := 9
abbrev Coh.FWD_X : Nat := 10
abbrev Coh.FWD_NC : Nat := 11
abbrev Coh.RECALL : Nat := 12
abbrev Coh.INV : Nat := 13
abbrev Coh.PUSH : Nat := 14
abbrev Coh.HOME_RSP : Nat := 15
abbrev Coh.DATA : Nat := 16
abbrev Coh.INV_ACK : Nat := 17
abbrev Coh.RECALL_DATA : Nat := 18
abbrev Coh.NODATA : Nat := 19
abbrev Coh.PUSH_ACK : Nat := 20
abbrev Coh.PUSH_DROP : Nat := 21
abbrev Coh.DONE : Nat := 22
abbrev Coh.NACK : Nat := 23
abbrev Coh.RESERVED : Nat := 24
abbrev Coh.WB_ACK : Nat := 25
abbrev Coh.WR_ACK : Nat := 26
abbrev Coh.RD_RSP : Nat := 27
abbrev Coh.ATOM_RSP : Nat := 28

/-- One message, in the order of sending in State.sent. -/
structure Msg where
  kind : MsgKind
  dst : Nat
  args : List Nat
  bytes : List Byte
  deriving DecidableEq, Repr

/-- An event record that waits in the holding buffer (R599): its 64 bytes as one number, PHASE 0. -/
structure HeldEvent where
  fatal : Bool
  record : Nat
  deriving DecidableEq, Repr

/-- The event ring beside its registers. -/
structure Events where
  /-- The next event's sequence number (R597). -/
  seq : Nat
  held : List HeldEvent
  /-- Fields taken at the last enable: LOG2_ENTRIES, LOC and BASE (R239). -/
  log2 : Nat
  loc : Bool
  base : Nat
  /-- Events raised once per Row: the code, the source die and the Row (R599). -/
  perRow : List (Nat × Nat × Nat)
  /-- Places of counters whose COUNTER_SATURATED is due (R600). -/
  satDue : List Nat
  deriving DecidableEq, Repr

def Events.init : Events := { seq := 0, held := [], log2 := 0, loc := false, base := 0, perRow := [], satDue := [] }

end Sys2Proof.Machine
end

