-- ==== Sys2Proof/Machine/Parts/Fabric.lean ====
section
/-!
DEFINITION. Parts/Fabric.lean: flows, outstanding remote requests and lots beside their registers, and the clock that keeps
hall time (13_fabric_and_hall.md).
-/

namespace Sys2Proof.Machine

/-- A frame kept until it is acknowledged (R438, R443), with how often and when it was last sent. -/
structure Kept where
  type : Nat
  syn : Bool
  seq : Nat
  tag : Nat
  len : Nat
  addr : Nat
  status : Nat
  aop : Nat
  payload : List Byte
  mask : Option Nat
  resends : Nat
  at' : Nat
  deriving DecidableEq, Repr

/-- A flow's sending side (R440, R441, R443): its next SEQ, unacknowledged frames with the oldest first, the instant of its
last traffic, and its rail. -/
structure TxFlow where
  next : Nat
  kept : List Kept
  used : Nat
  rail : Nat
  deriving DecidableEq, Repr

/-- A flow's receiving side (R441, R442): the SEQ expected, frames delivered (up to 256), the last NAK, the instant of a
delivery that nothing sent has acknowledged, and of the last traffic. -/
structure RxFlow where
  expect : Nat
  delivered : Nat
  nakAt : Option Nat
  owed : Option Nat
  used : Nat
  deriving DecidableEq, Repr

/-- An outstanding remote request (R445): the access it belongs to and the frame's part of it. -/
structure Remote where
  ask : Nat
  page : Nat
  req : MemReq
  uid : Nat
  node : Nat
  lot : Nat
  /-- A response to another part of the access was REFUSED. -/
  bad : Bool
  deriving DecidableEq, Repr

/-- The fabric unit. -/
structure Fabric where
  /-- Flows by node × 65536 + lot. -/
  tx : Sparse (Option TxFlow)
  rx : Sparse (Option RxFlow)
  /-- Outstanding requests by TAG. -/
  out : Sparse (Option Remote)
  /-- The lot command that awaits its edge: ADD or BINDOFF, the entry and the Row (R454). -/
  lotCmd : Option (Bool × Nat × Nat)
  /-- Edges since the BINDOFF edge, and the entries of which a frame was delivered in this Row (R452). -/
  since : Sparse Nat
  heard : List Nat
  deriving DecidableEq, Repr

def Fabric.init : Fabric := { tx := [], rx := [], out := [], lotCmd := none, since := [], heard := [] }

/-- The clock (R455 to R459): consecutive Sync messages within 100 ns, the offset still to be slewed away (ns), the instants
of its last nanosecond, at which holdover began and of the last accepted 1PPS edge, and the least value of the node cores' time (R465). -/
structure Hall where
  floor : Nat
  good : Nat
  slew : Int
  slewAt : Option Nat
  since : Option Nat
  pps : Option Nat
  deriving DecidableEq, Repr

def Hall.init : Hall := { floor := 0, good := 0, slew := 0, slewAt := none, since := none, pps := none }

end Sys2Proof.Machine
end

