-- ==== Sys2Proof/Machine/Parts/Host.lean ====
section
/-! DEFINITION. Parts/Host.lean: the PCIe function beside its registers (12_host_link.md). -/

namespace Sys2Proof.Machine

/-- The function's configuration space as far as the rules use it. -/
structure Px where
  /-- Bus Master Enable, and Memory Space Enable of the Command register (R409, R423). -/
  bme : Bool
  memOn : Bool
  /-- MSI-X Function Mask. -/
  funcMask : Bool
  d3hot : Bool
  /-- Vectors the Pattern gives (R501), and its subsystem IDs (R404). -/
  msixCount : Nat
  ssvid : Nat
  ssid : Nat
  /-- BAR4 size chosen through Resizable BAR, in force from the next memory decode enable (R409). -/
  barChosen : Option Nat
  deriving DecidableEq, Repr

/-- A function with nothing enabled. (DESIGN CHOICE: log entry 8) -/
def Px.init : Px := { bme := false, memOn := false, funcMask := false, d3hot := false, msixCount := 0, ssvid := 0, ssid := 0, barChosen := none }

end Sys2Proof.Machine
end

