-- ==== Sys2Proof/Machine/Parts/Memory.lean ====
section
/-!
DEFINITION. Parts/Memory.lean: caches, homes and what a stack's controller keeps beside its registers
(08_local_memory_and_coherence.md, 09_stacked_memory.md).
-/

namespace Sys2Proof.Machine

/-- A thread's LR reservation (R216): motif, slot and thread, and a line of that motif's or another motif's local
memory (`localOf`) or of stacked memory. -/
structure Resv where
  motif : Nat
  slot : Nat
  thread : Nat
  localOf : Option Nat
  line : Nat
  deriving DecidableEq, Repr

/-- A line held by a caching agent. -/
structure CacheLine where
  st : Moesi
  data : LineData
  deriving DecidableEq, Repr

/-- Coherent and uncached requests a home serves. -/
inductive ReqKind where
  | rdS | rdX | upg | rdNc
  | wrNc (data : LineData) (mask : BitVec 128) (hint : Option Nat)
  | atomFar (op : FarAtomic)
  deriving DecidableEq, Repr

/-- A transaction a caching agent has outstanding (R286, R293). -/
structure Tx where
  kind : ReqKind
  /-- It was started for a near atomic (R297). -/
  near : Bool
  refusals : Nat
  /-- Refused, and when it is sent again, in ns. -/
  retryAt : Option Nat
  reserved : Bool
  granted : Option Moesi
  /-- INV_ACKs due less those received; they can arrive before HOME_RSP. -/
  acks : Int
  data : Option LineData
  /-- Old values of a far atomic, and that a poisoned word was among its operands' (R321). -/
  olds : Option (List (BitVec 64))
  bad : Bool
  deriving DecidableEq, Repr

/-- A snoop-filter tag of the yoke (R280): the node cores whose private L2s hold the line, and that its data lie only there. -/
structure SnoopTag where
  cores : BitVec 32
  only : Bool
  deriving DecidableEq, Repr

/-- A caching agent: an L2 slice, the yoke's system cache, or a granted guest (R281). -/
structure CacheAgent where
  lines : Sparse (Option CacheLine)
  txs : Sparse (Option Tx)
  /-- Data of lines sent in WB, kept until WB_ACK (R288). -/
  wbs : Sparse (Option LineData)
  /-- The contention predictor (R296). -/
  pred : Sparse Nat
  /-- Lines taken for near atomics and when, ns (R297). -/
  recent : List (Nat × Nat)
  /-- The yoke's snoop filter (R280). -/
  tags : Sparse (Option SnoopTag)
  deriving DecidableEq, Repr

def CacheAgent.init : CacheAgent := { lines := [], txs := [], wbs := [], pred := [], recent := [], tags := [] }

/-- An uncached request of a die on its way to being performed (R293, R302). -/
structure Uncached where
  q : Nat
  line : Nat
  kind : ReqKind
  /-- The home has served it. -/
  served : Bool
  refusals : Nat
  /-- Refused, and when it is sent again, in ns. -/
  retryAt : Option Nat
  reserved : Bool
  deriving DecidableEq, Repr

/-- What a pinned entry waits for. -/
inductive PinWhy where
  /-- DONE of the requester (R286). -/
  | done (q : Nat) (kind : ReqKind)
  /-- Copies of a line being removed before a WR_NC is merged (R289). -/
  | wrNc (q : Nat) (data : LineData) (mask : BitVec 128) (hint : Option Nat) (waitData : Bool) (acks : Nat)
  /-- Copies being removed before the line enters the atomic buffer (R298). -/
  | toBuffer (waitData : Bool) (acks : Nat)
  /-- The line is in the atomic buffer. -/
  | buffered
  /-- PUSH is out (R301). -/
  | push (target : Nat)
  deriving DecidableEq, Repr

/-- A directory entry (R284); its line is its key. -/
structure DirEntry where
  owner : Option Nat
  sharers : BitVec 64
  pin : Option PinWhy
  /-- Stamp of its last use, for the LRU choice of R290. -/
  used : Nat
  deriving DecidableEq, Repr

/-- A victim of R290 whose copies are still being removed. -/
structure Victim where
  line : Nat
  waitData : Bool
  acks : Nat
  deriving DecidableEq, Repr

/-- A far atomic in a home's queue (R298). -/
structure AtomReq where
  q : Nat
  line : Nat
  op : FarAtomic
  at' : Nat
  deriving DecidableEq, Repr

/-- The home of a stack's lines. -/
structure Home where
  dir : Sparse (Option DirEntry)
  /-- Held requests in order of reservation: line, requester, request (R294). -/
  reservations : List (Nat × Nat × ReqKind)
  /-- Refusals so far of each transaction: line, requester, its request's code, count. -/
  refusals : List (Nat × Nat × Nat × Nat)
  victims : List Victim
  atomQ : List AtomReq
  buffer : Sparse (Option LineData)
  /-- Requests' lines, requesters and times of arrival, for CONTENDED (R297). -/
  arrivals : List (Nat × Nat × Nat)
  stamp : Nat
  deriving DecidableEq, Repr

def Home.init : Home :=
  { dir := [], reservations := [], refusals := [], victims := [], atomQ := [], buffer := [],
    arrivals := [], stamp := 0 }

/-- A request in a pseudo-channel's queue (R316): its line, and the bursts that have not been made. -/
structure ChanReq where
  line : Nat
  left : List Nat
  deriving DecidableEq, Repr

/-- A request that waits in a home's ingress buffer (R316). -/
inductive Ingress where
  | req (line q : Nat) (kind : ReqKind)
  | wb (line q : Nat) (data : LineData)
  deriving DecidableEq, Repr

/-- What a stack's controller keeps beside its registers. -/
structure StackCtl where
  /-- Each pseudo-channel's queue of at most 256 requests, oldest first, and the ingress buffer of 64 (R316). -/
  chans : Sparse (List ChanReq)
  ingress : List Ingress
  /-- Corrected words per row in this patrol period, keyed pc × 2^20 + u[21:2] (R328). -/
  rowCe : Sparse Nat
  /-- Rows that held an uncorrectable word (R328), same keys. -/
  rowUe : List Nat
  /-- Pseudo-channels with an uncorrectable word in this patrol period (R330). -/
  pcUe : List Nat
  /-- Next granule u of each pseudo-channel's patrol, when its period began, and the requests that took places of its queue
  since patrol last did (R327). -/
  patrol : Sparse Nat
  patrolFrom : Sparse Nat
  sincePatrol : Sparse Nat
  /-- Activations of each bank since its last RFM (R310), and refreshes of each bank, keyed pc × 64 + u[7:2]. -/
  acts : Sparse Nat
  /-- The row that each bank holds open, its key plus 1 (R314). -/
  opened : Sparse Nat
  refreshes : Sparse Nat
  /-- STACK_HOT episode; THROTTLE held at 12 until below 100 °C (R324). -/
  hotEpisode : Bool
  held : Bool
  /-- Highest temperature read in this Row and in the one before (R324), and the last good read, ns. -/
  rowTemp : Nat
  lastTemp : Nat
  tempAt : Nat
  /-- Instant of the last step of THROTTLE, ns (R325). -/
  stepAt : Option Nat
  /-- BURSTS of each pseudo-channel at the last edge, and its bursts in the last Row and in the Row before last (R331). -/
  marks : Sparse Nat
  bursts1 : Sparse Nat
  bursts2 : Sparse Nat
  deriving DecidableEq, Repr

def StackCtl.init : StackCtl :=
  { chans := [], ingress := [], rowCe := [], rowUe := [], pcUe := [], patrol := [], patrolFrom := [], sincePatrol := [],
    acts := [], opened := [], refreshes := [], hotEpisode := false,
    held := false, rowTemp := 0, lastTemp := 0, tempAt := 0, stepAt := none, marks := [], bursts1 := [], bursts2 := [] }

/-- A mainband message on its way between two dies of the module (R375): its class by the place of its port code in a route table
(R499), its ends, what it is, where it is, and the flit slots a DBG message has waited (R377). -/
structure Flight where
  cls : Nat
  src : Nat
  dst : Nat
  code : Nat
  line : Nat
  at' : Nat
  waited : Nat
  deriving DecidableEq, Repr

/-- The mainband: messages under way, oldest first, and the seam outputs (16 × die + port) whose last flit of COH_REQ and MEM_REQ
was COH_REQ (R377). -/
structure Net where
  flights : List Flight
  lastCoh : List Nat
  deriving DecidableEq, Repr

def Net.init : Net := { flights := [], lastCoh := [] }

/-- A map-out (R332, R333, R335): the unit withdrawn and its donor region. (DESIGN CHOICE: log entry 76) -/
structure MapOut where
  stack : Nat
  /-- The pseudo-channel within the stack, none for the whole stack. -/
  pc : Option Nat
  /-- Base of the donor region, and its length in blocks of 256 KiB. -/
  base : Nat
  blocks : Nat
  /-- Pseudo-channels whose granules are moved, those that give no donors, and original granules whose earlier donors lie
  on the unit, ascending. -/
  members : List Nat
  bad : List Nat
  moved : List Nat
  /-- The unit was fenced: its donors are written with poison (R336). -/
  poisoned : Bool
  deriving DecidableEq, Repr

/-- Map-outs, their evacuation and the repair list (R329, R332, R338). -/
structure MemMap where
  /-- Map-outs in force, as recorded in flash, oldest first. -/
  outs : List MapOut
  /-- The map-out whose evacuation is under way or awaits a grant. -/
  evac : Option MapOut
  /-- Segments whose copy has begun; those committed are HB_EVAC.SEG_DONE. -/
  copied : Nat
  /-- Commit records: segments committed according to the yoke's always-on memory and to the journal in flash. -/
  aonDone : Option Nat
  flashDone : Option Nat
  /-- The repair list in flash: pseudo-channel × 2^20 + u[21:2]. -/
  repairs : List Nat
  /-- Rows repaired for good in the stack, and rows under a soft repair, which a cold reset ends (R328, R329). -/
  hard : List Nat
  soft : List Nat
  deriving DecidableEq, Repr

def MemMap.init : MemMap :=
  { outs := [], evac := none, copied := 0, aonDone := none, flashDone := none, repairs := [], hard := [], soft := [] }

end Sys2Proof.Machine
end

