-- ==== Sys2Proof/Machine/Parts/Mgmt.lean ====
section
/-!
DEFINITION. Parts/Mgmt.lean: the management controller, its flash records and always-on memory, and cast-on
(14_node_cores_and_management.md to 16_cast_on_security_recovery.md).
-/

namespace Sys2Proof.Machine

/-- A mailbox command that waits or is in execution (R485). -/
structure Job where
  ch : Channel
  opc : Nat
  req : List Byte
  deriving DecidableEq, Repr

/-- Who opened a flash update (R482). -/
inductive Updater where
  | mailbox (c : Channel)
  | pldm (b : Binding)
  deriving DecidableEq, Repr

/-- A session that writes a slot, or with target 0 the firmware region (R509, R535). -/
structure Session where
  by' : Updater
  target : Nat
  length : Nat
  /-- The end of the data that have arrived, and the held bytes 0 to 255. -/
  next : Nat
  head : List Byte
  /-- Instant of its last command, ns. -/
  last : Nat
  deriving DecidableEq, Repr

/-- A sensor's snapshot, and the thresholds it has crossed: low warning, low critical, high warning, high critical (R483,
R484). -/
structure Sensor where
  value : Int
  low : Bool
  lowCrit : Bool
  high : Bool
  highCrit : Bool
  deriving DecidableEq, Repr

/-- The part's fuses (R5, R18, R28, R495). (DESIGN CHOICE: log entry 9) -/
structure Fuses where
  /-- VH-4816G. -/
  guests : Bool
  stepping : Nat
  guestCfg : Nat
  /-- The coolant fitting: dry-break quick-disconnect, else threaded. -/
  quick : Bool
  serial : Nat
  ordering : List Byte
  /-- The build date of the FRU record (R481), in the form of its standard. -/
  buildDate : BitVec 104
  /-- Positions that are not enabled, with their states' codes. -/
  positions : List (Nat × Nat)
  deriving DecidableEq, Repr

/-- The node cores' boot record (R526). -/
structure BootRecord where
  en : Bool
  mask : Nat
  entry : Nat
  arg : Nat
  deriving DecidableEq, Repr

/-- Cast-on in progress (R518). -/
structure CastOn where
  /-- The management controller has left reset, and the instant that stands for 48 V good (R581). -/
  begun : Bool
  at' : Nat
  /-- Time in the test hold, ns, and when it was entered (R553). -/
  held : Nat
  heldAt : Option Nat
  /-- The stacks still hold what they held before the reset: a warm reset (R326). -/
  warm : Bool
  /-- Memory has to be discarded, and units that failed and await their recovery (R507, R522). -/
  discard : Bool
  after : List (Nat × Nat × Nat)
  /-- The slot that passed in step 1 and its SOURCE; motifs that failed while none had, with their causes (R506, R522). -/
  slot : Option (Nat × Nat)
  failed : List (Nat × Nat)
  /-- Seams that ran a loop-back in the test hold (R554). -/
  looped : List Nat
  /-- When the step in progress began, ns. -/
  since : Nat
  deriving DecidableEq, Repr

def CastOn.init : CastOn :=
  { begun := false, at' := 0, held := 0, heldAt := none, warm := false, discard := false, after := [],
    slot := none, failed := [], looped := [], since := 0 }

/-- The management controller. (DESIGN CHOICE: log entry 76) -/
structure Mc where
  /-- Mailbox commands in order of arrival (R485). -/
  jobs : List Job
  /-- A flash update: its session, or a RequestUpdate of PLDM without one yet. -/
  session : Option Session
  pldm : Option Binding
  /-- Bindings and whether each has enabled events (R484). -/
  eventBindings : List (Nat × Bool)
  sensors : Sparse (Option Sensor)
  /-- Energy of the module in the last Row, µJ (R486). -/
  energy : Nat
  /-- KEY_STAGE's bytes, and the challenge with its instant (R537). -/
  stage : List Byte
  challenge : Option (Nat × Nat)
  /-- The last swatch report (R541), and KEY_LOW has been raised (R539). -/
  report : List Byte
  keyLow : Bool
  fuses : Fuses
  /-- Flash records (R531): owner Pattern key, MIN_SVN of each signer, FW_MIN_SVN, the greatest HIGH, the boot record. -/
  ownerKey : Option (BitVec 480)
  minSvn0 : Nat
  minSvn1 : Nat
  fwMinSvn : Nat
  keyHigh : Nat
  boot : BootRecord
  /-- A RESET command's reset: its instant and whether it is warm (R542); digest of the running firmware image (R540). -/
  resetAt : Option (Nat × Bool)
  fwDigest : Nat
  /-- Always-on memory (R507): the map record. -/
  mapRecord : Option Nat
  cast : CastOn
  /-- Loop-back runs: the instant of START, then of LOCK, ns, by the block's first address (R557). -/
  loops : Sparse Nat
  deriving DecidableEq, Repr

/-- The `k` last decimal digits of a number, in ASCII. -/
def decimal : Nat → Nat → List Byte
  | 0, _ => []
  | k + 1, n => decimal k (n / 10) ++ [BitVec.ofNat 8 (0x30 + n % 10)]

/-- The ordering code: base part, stepping, guest configuration and coolant fitting, joined by hyphens (R5). -/
def orderingCode (guests : Bool) (guestCfg : Nat) (quick : Bool) : List Byte :=
  let base : List Byte := [0x56, 0x48, 0x2D, 0x34, 0x38, 0x31, 0x36]      -- VH-4816
  let stepping : List Byte := [0x2D, 0x42, 0x30, 0x2D]                    -- -B0-
  base ++ (if guests then [0x47] else []) ++ stepping ++ (if guests then 0x47 :: decimal 4 guestCfg else [0x53]) ++
    [0x2D, if quick then 0x51 else 0x54]

/-- Fuses of a VH-4816-B0-S-Q with the two fused spares of the worked examples, M(1,0) and M(6,4).
(DESIGN CHOICE: log entry 9) -/
def Fuses.init : Fuses :=
  { guests := false, stepping := 0xB0, guestCfg := 0, quick := true, serial := 0, ordering := orderingCode false 0 true
    buildDate := 0, positions := [(1, 2), (38, 2)] }

/-- (DESIGN CHOICE: log entry 8) -/
def Mc.init : Mc :=
  { jobs := [], session := none, pldm := none, eventBindings := [], sensors := [], energy := 0, stage := [], challenge := none,
    report := [], keyLow := false, fuses := Fuses.init, ownerKey := none, minSvn0 := 0, minSvn1 := 0, fwMinSvn := 0,
    keyHigh := 0, boot := { en := false, mask := 0, entry := 0, arg := 0 }, resetAt := none, fwDigest := 0, mapRecord := none, cast := CastOn.init,
    loops := [] }

end Sys2Proof.Machine
end

