-- ==== Sys2Proof/Machine/Parts/Needles.lean ====
section
/-!
DEFINITION. Parts/Needles.lean: the thread groups of a motif's eight needles and its launches
(06_thread_groups.md).
-/

namespace Sys2Proof.Machine

/-- What a resident group waits for. -/
inductive GroupWait where
  | none
  | vbar | vcbar
  /-- VWAIT on the 8-byte value at a local address (R233). -/
  | vwait (addr threshold : Nat)
  deriving DecidableEq, Repr

/-- Where one access of a memory instruction goes (R205, R206, R353). -/
inductive Spot where
  /-- A motif's local memory or planes. -/
  | loc (m a : Nat)
  /-- Stacked memory through the L2. -/
  | stacked (pa : Nat)
  /-- The aperture to a motif's local memory (R276). -/
  | aperture (pa : Nat)
  /-- Another node (R355). -/
  | remote (node pa : Nat)
  deriving DecidableEq, Repr

/-- One access: the thread (or tile row), its effective address and its place. -/
structure Acc where
  key : Nat
  ea : Nat
  spot : Spot
  deriving DecidableEq, Repr

/-- A tile register: its type tag as a format code (11 for INT32) and its 256 element codes (R221). -/
structure Tile where
  tag : Nat
  cells : Sparse Nat
  deriving DecidableEq, Repr

def Tile.zero : Tile := { tag := 1, cells := [] }

/-- A memory instruction that has been translated and is not complete (R208, R210): its word and pc, and the registers as it read
them, since its group goes on meanwhile (R194). -/
structure MemOp where
  word : Nat
  pc : Nat
  x : Sparse Nat
  f : Sparse Nat
  tiles : Sparse Tile
  /-- Accesses not yet performed. -/
  accs : List Acc
  /-- Lines for which a transaction was sent, and lines whose atomic went far. -/
  sent : List Nat
  far : List Nat
  /-- Rows of a tile load that have come, by row. -/
  rows : Sparse Nat
  /-- Accumulator sets that its accesses wait for: motif, set and the descriptors accepted there before the access (R134). -/
  planes : List (Nat × Nat × Nat)
  /-- Its conversions have been counted (R226). -/
  counted : Bool
  deriving DecidableEq, Repr

/-- A resident thread group (R192, R196, R200, R202, R203). -/
structure Group where
  block : Nat
  index : Nat
  pc : Nat
  am : BitVec 64
  pm : BitVec 64
  stack : List (BitVec 64)
  vfill : Nat
  indexRange : Bool
  sat : Nat
  flush : Nat
  inv : Nat
  /-- Integer and floating-point registers, keyed 32 × thread + register, and each thread's fflags. -/
  x : Sparse Nat
  f : Sparse Nat
  fflags : Sparse Nat
  tiles : Sparse Tile
  wait : GroupWait
  /-- Instant at which the wait began, ns. -/
  since : Nat
  /-- Stalled on a translation fault (R210). -/
  stalled : Bool
  /-- Halted, or halts at its next instruction boundary (R234). -/
  halt : Bool
  mem : Option MemOp
  /-- Instant from which its VDISP waits for room in an engine's queue, ns (R232). -/
  room : Option Nat
  deriving DecidableEq, Repr

/-- A started block that has not ended: its groups not yet exited, and whether it halts (R234). -/
structure BlockRec where
  left : Nat
  halted : Bool
  deriving DecidableEq, Repr

/-- A LAUNCH descriptor accepted by the launcher (R197). -/
structure LaunchJob where
  desc : Nat
  fromList : Bool
  asid : Nat
  /-- How many LAUNCHes with this descriptor the motif accepted before: the ranks of a cluster receive the same ones (R227). -/
  nth : Nat
  /-- Next block to start, and the resident ones. -/
  next : Nat
  blocks : Sparse (Option BlockRec)
  stat : NumStat
  indexRange : Bool
  /-- A group has halted (R234); SEQ of the first group fault record. -/
  stopped : Bool
  seq : Nat
  /-- Status of a launch that starts no block. -/
  status : Option Nat
  deriving DecidableEq, Repr

/-- The needles of a motif and its launcher. -/
structure Needles where
  groups : Sparse (Option Group)
  queue : List LaunchJob
  active : Option LaunchJob
  /-- The cluster launches that have completed, by descriptor and number, and how many of each descriptor were accepted. -/
  past : List (Nat × Nat)
  taken : Sparse Nat
  /-- The slot of each needle whose group issued last (R193). -/
  last : Sparse Nat
  deriving DecidableEq, Repr

/-- (DESIGN CHOICE: log entry 7) -/
def Needles.init : Needles := { groups := [], queue := [], active := none, past := [], taken := [], last := [] }

end Sys2Proof.Machine
end

