-- ==== Sys2Proof/Machine/Parts/NodeCores.lean ====
section
/-!
DEFINITION. Parts/NodeCores.lean: the node cores' architectural state (14_node_cores_and_management.md).
-/

namespace Sys2Proof.Machine

/-- Privilege modes (R462). -/
inductive HartMode where
  | m | s | u | vs | vu
  deriving DecidableEq, Repr

/-- One node core. -/
structure Hart where
  mode : HartMode
  pc : Nat
  /-- x1 to x31, f0 to f31 (64 bits), v0 to v31 (VLEN = 256), and the CSRs by number. -/
  x : Sparse Nat
  f : Sparse Nat
  v : Sparse Nat
  csrs : Sparse Nat
  /-- Lines whose miss the present instruction has counted. -/
  missed : List Nat
  deriving DecidableEq, Repr

/-- (DESIGN CHOICE: log entry 7) -/
def Hart.init : Hart := { mode := .m, pc := 0, x := [], f := [], v := [], csrs := [], missed := [] }

end Sys2Proof.Machine
end

