-- ==== Sys2Proof/Machine/Parts/Panel.lean ====
section
/-!
DEFINITION. Parts/Panel.lean: what the seams, the guests' exchanges and the recovery sequencer keep beside their
registers (11_seams_and_panel.md, 16_cast_on_security_recovery.md).
-/

namespace Sys2Proof.Machine

/-- One side of a seam (R388): the mask it ran at before, the mask it advertised, and the width and mask it chose. -/
structure SeamSide where
  prior : Option Nat
  adv : Option Nat
  set : Option (Nat × Nat)
  deriving DecidableEq, Repr

def SeamSide.init : SeamSide := { prior := none, adv := none, set := none }

/-- A seam. Side A is the west, south or yoke side, or the motif of a guest seam. -/
structure Seam where
  a : SeamSide
  b : SeamSide
  /-- Both WIDTH_SETs agreed, and the test pattern runs; or the module of the narrowest-width trial (R389). -/
  chosen : Option (Nat × Nat)
  trial : Option Nat
  /-- The width record in flash. -/
  record : Option Nat
  /-- Hall time at which training ended, or the test pattern in progress began (R387, R389). -/
  since : Nat
  deriving DecidableEq, Repr

def Seam.init : Seam := { a := .init, b := .init, chosen := none, trial := none, record := none, since := 0 }

/-- A guest's VSP exchange (R397, R398): parts received, times the block was asked for again, the grant's CRC, whether
the guest has it, the instant of link-up or of the grant, width and rate granted, vectors and outstanding requests. -/
structure GuestLink where
  parts : BitVec 4
  asked : Nat
  crc : Option Nat
  got : Bool
  since : Nat
  width : Nat
  rate : Nat
  vectors : Nat
  maxOut : Nat
  deriving DecidableEq, Repr

def GuestLink.init : GuestLink :=
  { parts := 0, asked := 0, crc := none, got := false, since := 0, width := 0, rate := 0, vectors := 0, maxOut := 0 }

/-- A fault domain with its faults, in the pending list or under recovery (R544); `granted` where the driver's grant
has put an evacuation at the head (R549). -/
structure Domain where
  kind : Nat
  id : Nat
  faults : Nat
  cause : Nat
  granted : Bool
  deriving DecidableEq, Repr

/-- The recovery sequencer. -/
structure Recovery where
  pending : List Domain
  running : Option Domain
  /-- Of the running recovery: a motif 0 drains, 1 tests itself, 2 waits for the edge of its change; others 0. It has been
  escalated (R545). -/
  phase : Nat
  escalated : Bool
  parked : Option Domain
  /-- The darning record in flash (R30): position and the state it took. -/
  darns : List (Nat × Nat)
  /-- Instants of a fabric port's losses of link, ns (R543), and ports disabled until the next cast-on. -/
  flaps : List (Nat × Nat)
  portsOff : List Nat
  /-- Chain frames that have been resent: sender, receiver of the hop, SEQ and resends (R384). -/
  resends : List (Nat × Nat × Nat × Nat)
  deriving DecidableEq, Repr

def Recovery.init : Recovery :=
  { pending := [], running := none, phase := 0, escalated := false, parked := none, darns := [], flaps := [],
    portsOff := [], resends := [] }

end Sys2Proof.Machine
end

