-- ==== Sys2Proof/Machine/Parts/Row.lean ====
section
/-!
DEFINITION. Parts/Row.lean: what a row scheduler, a die's gauge and the package governor keep beside
their registers (02_row_and_gauge.md). Register values themselves live in State.regs.
-/

namespace Sys2Proof.Machine

/-- A stitch delivered to a motif (R250): its command, rank, binding and header (R246). -/
structure Stitch where
  qid : Nat
  idx : Nat
  rank : Nat
  cls : Nat
  asid : Nat
  estCyc : Nat
  estUj : Nat
  dlist : Nat
  dbytes : Nat
  /-- The Row by whose edge the stitch is due (R253), none without DUE_ROWS. -/
  due : Option Nat
  stream : Option Nat
  /-- R253: flagged once. -/
  flagged : Bool
  /-- It reached the row scheduler after edge + 2.0 µs, in the edge window of the Row in progress (R49). -/
  late : Bool
  /-- It has reached the head of its queue and passed the checks of R53 there. -/
  headed : Bool
  deriving DecidableEq, Repr

/-- A stitch that has been admitted and has not finished (R64). -/
structure Admitted where
  st : Stitch
  ec : Nat
  eu : Nat
  /-- Admitted in the edge pass of the Row in progress (R65). -/
  pass : Bool
  /-- Edges passed since its admission, and STITCH_OVERRUN raised (R71). -/
  edges : Nat
  overrun : Bool
  /-- It was running at the last edge (R69). -/
  carried : Bool
  /-- Hall time at which it started, none while it waits (R65). -/
  start : Option Nat
  /-- Reference cycles run before the last edge, and in all until the last account. -/
  cycBefore : Nat
  cyc : Nat
  /-- Measured energy in nJ before the last edge, and in all. -/
  njBefore : Nat
  nj : Nat

  /-- Next byte of the descriptor list to issue, and whether a bad item ended the list (R252). -/
  next : Nat
  bad : Option Nat
  /-- The fetch of its next item is stalled on a translation fault (R364). -/
  stalled : Bool
  deriving DecidableEq, Repr

/-- The debt of the stitch that ran at this Row's edge (R69): what it owes its pool, what the pool has been charged, and
the cycles counted as forgiven (R70, R71). It outlasts the stitch. -/
structure Debt where
  pool : Nat
  oweCyc : Nat
  oweUj : Nat
  paidCyc : Nat
  paidUj : Nat
  /-- Cycles charged to no class (R71), and those counted in FORGIVEN_CYC so far. -/
  freeCyc : Nat
  forgiven : Nat
  deriving DecidableEq, Repr

/-- One motif's row scheduler and gauge, beside its registers. -/
structure RowSched where
  /-- Delivered stitches not yet admitted, in the order of their arrival (R61, R251). -/
  waiting : List Stitch
  /-- Admitted stitches that have not started, in the order of their admission. -/
  admitted : List Admitted
  running : Option Admitted
  /-- The ASID of the last stitch that ran (R135). -/
  lastAsid : Option Nat
  /-- Remaining cycle and energy allowances: 0 to 11 the reserved classes, 12 the best-effort pools. -/
  remCyc : Sparse Int
  remUj : Sparse Int
  /-- This Row's allowances (the limit of R70). -/
  allowCyc : Sparse Nat
  allowUj : Sparse Nat
  /-- Queue after which the visit of a class starts (R62): last admitted queue ID plus 1. -/
  lastQ : Sparse Nat
  /-- Deficit round robin of classes 12 to 15: the class next visited and each class's deficit. -/
  drr : Nat
  inVisit : Bool
  deficit : Sparse Nat
  /-- The debt of the stitch carried over this Row's edge (R69). -/
  debt : Option Debt
  /-- The Row this die is in, and the instant it began (ns). -/
  row : Nat
  edgeAt : Nat
  /-- The corrected time of the last step of hall time in this Row (R45). -/
  stepped : Option Nat
  /-- The chain latency measured at cast-on, ns, and the edge placed by it from the last ROW_EDGE (R43). -/
  latency : Nat
  placed : Nat
  /-- R46: ROW_EDGE of this Row has arrived; consecutive misses; admission halted by two of them. -/
  edgeSeen : Bool
  /-- ALIGNED and HOLDOVER as the last ROW_EDGE carried them. -/
  heard : Option (Bool × Bool)
  misses : Nat
  missHalt : Bool
  /-- R77: the budget of this Row has been installed or given up. -/
  budgetSet : Bool
  /-- This Row was started on prediction (R46). -/
  missed : Bool
  /-- LATE_BUDGET has counted this Row. -/
  lateCounted : Bool
  /-- The edge pass has run; the body has begun. -/
  passDone : Bool
  /-- Reserved and best-effort parts of the budget in force, µJ. -/
  eRes : Nat
  eBe : Nat
  /-- Energy drawn since the edge, nJ, and the part charged to reserved classes. -/
  njRow : Nat
  njRes : Nat
  /-- Energy of the attached stack in this Row, nJ. -/
  njStack : Nat
  /-- R81: instant of the last fclk step. R83: thermal hold, R83 halt, backstop raised in this Row. -/
  stepAt : Option Nat
  thermalHold : Bool
  powerHalt : Bool
  backstop : Bool
  /-- An admission halt that has ended was in force in this Row (R78). -/
  haltSeen : Bool
  /-- This Row's figures for the next GAUGE_REPORT. -/
  tjMax : Nat
  minStep : Nat
  /-- The last closed Row's report, as R78 packs it, without forecasts. -/
  report : Nat
  forecastBe : Nat
  forecastRes : Nat
  deriving DecidableEq, Repr

/-- A Row edge passes over an admitted stitch; `run` where it is running (R69, R71). -/
def Admitted.passEdge (run : Bool) (a : Admitted) : Admitted :=
  { a with pass := false, edges := a.edges + 1, carried := run, cycBefore := a.cyc, njBefore := a.nj }

/-- Every stitch the row scheduler holds. -/
def RowSched.stitches (r : RowSched) : List Stitch :=
  r.waiting ++ r.admitted.map Admitted.st ++ (r.running.map Admitted.st).toList

/-- Flag the stitch of a command (R253). -/
def RowSched.mark (r : RowSched) (qid idx : Nat) : RowSched :=
  let f := fun (x : Stitch) => if x.qid = qid && x.idx = idx then { x with flagged := true } else x
  { r with waiting := r.waiting.map f, admitted := r.admitted.map fun a => { a with st := f a.st },
           running := r.running.map fun a => { a with st := f a.st } }

def RowSched.init : RowSched :=
  { waiting := [], admitted := [], running := none, lastAsid := none, remCyc := [], remUj := [],
    allowCyc := [], allowUj := [], lastQ := [], drr := 12, inVisit := false, deficit := [], debt := none, row := 0, edgeAt := 0,
    stepped := none, latency := 0, placed := 0, edgeSeen := false, heard := none, misses := 0, missHalt := false, budgetSet := false, missed := false, lateCounted := false,
    passDone := false, eRes := 0, eBe := 0, njRow := 0, njRes := 0, njStack := 0, stepAt := none,
    thermalHold := false, powerHalt := false, backstop := false, haltSeen := false, tjMax := 0, minStep := 0,
    report := 0, forecastBe := 0, forecastRes := 0 }

/-- A change of the data plane's structure that waits for a named Row's edge (R36). -/
inductive Change where
  | route (table : Nat)
  | map (salt : Nat) (ranges : List (Nat × Nat))
  | bind (qid mask cls : Nat)
  | pos (motif code : Nat)
  deriving DecidableEq, Repr

/-- What a die keeps of the changes that have taken effect on it (R36, R385): positions' states, bindings (motifs, class)
by queue ID, the salt and the coherent ranges. Its route table is in `State.routes`. -/
structure DieTable where
  pos : Sparse (Option Nat)
  binds : Sparse (Option (Nat × Nat))
  salt : Nat
  coherent : List (Nat × Nat)
  deriving DecidableEq, Repr

def DieTable.init : DieTable := { pos := [], binds := [], salt := 0, coherent := [] }

/-- A change takes effect in a die's table. -/
def DieTable.apply (t : DieTable) : Change → DieTable
  | .route _ => t
  | .map salt rs => { t with salt := salt, coherent := rs }
  | .bind q m k => { t with binds := Sparse.set none t.binds q (some (m, k)) }
  | .pos m k => { t with pos := Sparse.set none t.pos m (some k) }

/-- A budget the governor has computed for a Row (R74). -/
structure Budget where
  row : Nat
  cut : Bool
  eM : Nat
  eRes : Nat
  eBe : Nat
  deriving DecidableEq, Repr

/-- The yoke's Row timer and the package governor. -/
structure RowYoke where
  /-- The Row in progress and the instant it began. -/
  row : Nat
  began : Nat
  /-- The corrected time of the last step of hall time in this Row (R45). -/
  stepped : Option Nat
  /-- Classes above 0 are admitted (R44). -/
  openAll : Bool
  /-- The current guard holds compute fclk at step 18 (R578). -/
  clamp : Bool
  /-- The reports received in time in this Row, for the Row before it (R74). -/
  reports : Sparse (Option GaugeReport)
  /-- Budgets computed for the next Row, by mesh ID. -/
  budgets : Sparse (Option Budget)
  /-- NM's split (R75): the yoke's grant of the Row in progress, of the Row before it and of the next one; the stacks'. -/
  yokeGrant : Option Nat
  yokePast : Option Nat
  yokeNext : Option Nat
  stackGrant : Sparse (Option Nat)
  /-- The stacks' grants computed for the next Row. -/
  stackNext : Sparse (Option Nat)
  /-- R36: changes the dies hold for a Row (die, Row, change), and those the management controller has sent that have not
  taken effect on their die. -/
  changes : List (Nat × Nat × Change)
  issued : List (Nat × Nat × Change)
  deriving DecidableEq, Repr

def RowYoke.init : RowYoke :=
  { row := 0, began := 0, stepped := none, openAll := false, clamp := false, reports := [], budgets := [], yokeGrant := none,
    yokePast := none, yokeNext := none, stackGrant := [], stackNext := [], changes := [], issued := [] }

end Sys2Proof.Machine
end

