-- ==== Sys2Proof/Machine/Parts/Queue.lean ====
section
/-!
DEFINITION. Parts/Queue.lean: submission queues, completion rings and commands in progress
(07_queues_and_skeins.md, 12_host_link.md).
-/

namespace Sys2Proof.Machine

/-- State of a submission queue, in the order of QE_QSTATE.STATE (R242). -/
inductive QState where
  | disabled | active | paused | stopping | stopped | hostWait
  deriving DecidableEq, Repr

/-- What a read of host memory brings (R420, R362). -/
inductive HostWant where
  /-- The page list's entry for the 4 KiB page at a position of the copy. -/
  | entry
  /-- Payload. -/
  | bytes (n : Nat)
  deriving DecidableEq, Repr

/-- How far a command has come. -/
inductive CmdRun where
  /-- Accepted, not dispatched. -/
  | waiting
  /-- A STITCH whose header is valid; it waits for ranks and room (R250, R251). -/
  | split
  /-- Stitches sent: the ranks' number, and the statuses that have come, by rank. -/
  | stitched (n : Nat) (got : List (Nat × Nat))
  /-- Dispatched, its own effect still to come: it waits on a fault, a home or another node. -/
  | going
  /-- A WAIT that holds its queue. -/
  | holding
  /-- COPY: bytes moved, the present host page where HOST_MODE is 1, the read that is out, and whether host memory was
  written, with the address of the last word. -/
  | copying (done : Nat) (page : Option Nat) (want : Option HostWant) (last : Option Nat)
  /-- PREFETCH and ADVISE: pages handled, pages moved and skipped, the first skipped address, the last host word
  written, and a host read out for the leaf in progress. -/
  | moving (at' moved skipped first : Nat) (last : Option Nat) (want : Bool)
  /-- Waits for the flush read (R418), with the status it will end with. -/
  | flushing (status : Nat)
  /-- BIND_SQ sent for a Row (R241). -/
  | binding (row : Nat)
  /-- STOP_SQ of a queue (R242). -/
  | stopping (qid : Nat)
  deriving DecidableEq, Repr

/-- A command that has been accepted and has not completed. -/
structure QCmd where
  idx : Nat
  /-- Its 512 bytes as one little-endian number. -/
  bytes : Nat
  /-- The Row in which its doorbell arrived (R253). -/
  row : Nat
  /-- SQ_HEAD after it was accepted (R593). -/
  head : Nat
  run : CmdRun
  /-- Stalled on a translation fault (R364). -/
  stalled : Bool
  deriving DecidableEq, Repr

/-- A submission queue (R239 to R249). -/
structure Queue where
  state : QState
  /-- 0 none, 1 DOORBELL_AHEAD, 2 DOORBELL_INVALID. -/
  cause : Nat
  base : Nat
  loc : Bool
  log2 : Nat
  ring : Nat
  asid : Nat
  mask : BitVec 48
  cls : Nat
  head : Nat
  /-- Last accepted producer index. -/
  pi : Nat
  /-- Accepted doorbells, oldest first: producer index and Row. -/
  doors : List (Nat × Nat)
  /-- Rereads so far of the command at the head, and the instant of the last mismatch, ns (R249). -/
  rereads : Nat
  missed : Option Nat
  /-- A fetch that timed out, ns (R425). -/
  late : Option Nat
  /-- Commands accepted and not completed, in index order. -/
  cmds : List QCmd
  deriving DecidableEq, Repr

def Queue.init : Queue :=
  { state := .disabled, cause := 0, base := 0, loc := false, log2 := 4, ring := 0, asid := 0, mask := 0, cls := 0, head := 0,
    pi := 0, doors := [], rereads := 0, missed := none, late := none, cmds := [] }

/-- A completion ring (R239, R255). -/
structure CRing where
  on : Bool
  base : Nat
  loc : Bool
  log2 : Nat
  vector : Nat
  level : Nat
  /-- Index of the next entry to be written, and the consumer index. -/
  next : Nat
  ci : Nat
  /-- Entries held, in order. -/
  held : List Nat
  /-- The present episode of a full ring has raised CQ_FULL. -/
  full : Bool
  /-- A host-side reset has happened while it was in host memory: its entries go to the log (R256). -/
  lost : Bool
  deriving DecidableEq, Repr

def CRing.init : CRing :=
  { on := false, base := 0, loc := false, log2 := 4, vector := 0, level := 1, next := 0, ci := 0, held := [],
    full := false, lost := false }

/-- The queue engine. -/
structure QEngine where
  queues : Sparse Queue
  rings : Sparse CRing
  /-- Stitches on their way to motifs, in the order of sending: motif and stitch. -/
  transit : List (Nat × Stitch)
  /-- COPY commands that run, and the one PREFETCH or ADVISE, by queue and index. -/
  copies : List (Nat × Nat)
  mover : Option (Nat × Nat)
  /-- The lost-completion log (R428). -/
  lost : List Nat
  /-- Stopped by a node-fatal state (R550). -/
  dead : Bool
  /-- Fetch is paused until this instant, ns (R548). -/
  pausedTo : Nat
  deriving DecidableEq, Repr

def QEngine.init : QEngine :=
  { queues := [], rings := [], transit := [], copies := [], mover := none, lost := [], dead := false, pausedTo := 0 }

end Sys2Proof.Machine
end

