-- ==== Sys2Proof/Machine/Parts/Skein.lean ====
section
/-! DEFINITION. Parts/Skein.lean: streams and the skein engine (07_queues_and_skeins.md). -/

namespace Sys2Proof.Machine

/-- A stream is CLOSED, OPEN or BROKEN (R261, R262). -/
inductive StreamState where
  | closed | opened | broken
  deriving DecidableEq, Repr

/-- The published values of a stream (R269, R270). -/
structure Published where
  tc : Nat
  rc : Nat
  ac : Nat
  /-- LIMIT − TAIL, and H. -/
  rest : Nat
  h : Nat
  deriving DecidableEq, Repr

/-- A stream (R259). -/
structure Stream where
  st : StreamState
  owner : Nat
  gen : Nat
  /-- Planes of a token and bytes of a plane. -/
  nplanes : Nat
  planeBytes : Nat
  limit : Nat
  resv : Nat
  tpc : Nat
  rel : Nat
  mark : Nat
  rd : Nat
  tail : Nat
  /-- Pool cells held, of ascending stream cells; the first is floor(REL ÷ TPC). -/
  cells : List Nat
  overrun : Bool
  late : Bool
  shown : Published
  deriving DecidableEq, Repr

def Stream.init : Stream :=
  { st := .closed, owner := 0, gen := 0, nplanes := 0, planeBytes := 0, limit := 0, resv := 0, tpc := 1, rel := 0, mark := 0, rd := 0, tail := 0, cells := [],
    overrun := false, late := false, shown := ⟨0, 0, 0, 0, 0⟩ }

/-- Who issued a skein operation: an item of a motif's descriptor list, or a SKEIN command. -/
inductive SkFrom where
  | motif (m : Nat)
  | command (qid idx : Nat)
  deriving DecidableEq, Repr

/-- An operation that has arrived at the engine and has not run (R265). -/
structure SkOp where
  /-- Its 64 bytes as one little-endian number. -/
  desc : Nat
  asid : Nat
  from' : SkFrom
  stalled : Bool
  /-- It has run, with this status, and waits until its writes at other nodes are performed (R448). -/
  ended : Option Nat
  deriving DecidableEq, Repr

/-- The skein engine. -/
structure SkEngine where
  streams : Sparse Stream
  /-- Operations in the order of their arrival. -/
  ops : List SkOp
  /-- FU as published (R269). -/
  fu : Nat
  /-- Operations are held until this instant, ns (R548). -/
  heldTo : Nat
  deriving DecidableEq, Repr

def SkEngine.init : SkEngine := { streams := [], ops := [], fu := 0, heldTo := 0 }

end Sys2Proof.Machine
end

