-- ==== Sys2Proof/Machine/Parts/Tu.lean ====
section
/-!
DEFINITION. Parts/Tu.lean: translation caches, the fault collector and the invalidation queue
(10_address_translation.md), and remote accesses in progress (13_fabric_and_hall.md).
-/

namespace Sys2Proof.Machine

/-- A cached leaf: the ASID, the first 4 KiB page it maps, its page count, the entry and its level. -/
structure TlbLeaf where
  asid : Nat
  page : Nat
  pages : Nat
  pte : Nat
  level : Nat
  deriving DecidableEq, Repr

/-- A cached non-leaf step: the table of `level` that maps the prefix (level 3: the ASID's root). -/
structure WalkStep where
  asid : Nat
  level : Nat
  pre : Nat
  table : Nat
  deriving DecidableEq, Repr

/-- One die's translation caches (R356). -/
structure Tlb where
  leaves : List TlbLeaf
  steps : List WalkStep
  deriving DecidableEq, Repr

def Tlb.init : Tlb := ⟨[], []⟩

/-- An agent that translates: its die, its kind (0 array, 1 vector engine, 2 needles, 3 queue engine, 4 skein
engine), and which one of the kind (the group's slot, the queue's ID). -/
structure Agent where
  mesh : Nat
  engine : Nat
  id : Nat
  deriving DecidableEq, Repr

/-- A fault on its way to the collector (R365, R367). -/
structure FaultInfo where
  agent : Agent
  asid : Nat
  page : Nat
  cause : Nat
  level : Nat
  /-- 1 read, 2 write, 4 execute. -/
  access : Nat
  sub : Nat
  tag : Nat
  pte : Nat
  pa : Nat
  time : Nat
  context : Nat
  deriving DecidableEq, Repr

/-- An outstanding collector entry. -/
structure CollEntry where
  first : FaultInfo
  agents : List Agent
  access : Nat
  joins : Nat
  /-- Hall time at which the window opened. -/
  opened : Nat
  /-- Window closed; record written to the ring. -/
  closed : Bool
  written : Bool
  deriving DecidableEq, Repr

/-- An invalidation (R358): scope 0 page, 1 range, 2 ASID, 3 all. -/
structure Inval where
  seq : Nat
  scope : Nat
  asid : Nat
  page : Nat
  pages : Nat
  /-- Dies that have not reported INV_DONE. -/
  waiting : List Nat
  deriving DecidableEq, Repr

/-- What came back for a remote request. -/
inductive Landed where
  | data (bs : List Byte) (poison : List Nat)
  | done
  | refused
  deriving DecidableEq, Repr

/-- Who sent an uncached request: the host with its Requester ID, and whether its completion is still wanted (R427); a guest; or a
die, with the request's tag. -/
inductive ReqFrom where
  | host (rid : Nat) (wanted : Bool)
  | guest (g : Nat)
  | mesh (src tag : Nat) (r : MemReq)
  deriving DecidableEq, Repr

/-- What an uncached request does at this node's physical memory. -/
inductive ReqAct where
  | read (pa n : Nat)
  | write (pa : Nat) (bs : List (Option Byte)) (poison : List Nat)
  | atomic (pa : Nat) (fn : AtomFn) (wide : Bool) (ops : List (BitVec 64 × BitVec 64))
  deriving DecidableEq, Repr

/-- An uncached request that was accepted. -/
structure HeldReq where
  src : ReqFrom
  act : ReqAct
  deriving DecidableEq, Repr

/-- Translation and remote access state. -/
structure Tu where
  tlbs : Sparse Tlb
  /-- Micro-TLBs by agent code, newest leaf first (R356). -/
  micro : Sparse (List TlbLeaf)
  inFlight : List FaultInfo
  entries : Sparse (Option CollEntry)
  gens : Sparse Nat
  /-- Faults with a new key that wait for an entry (R369), in order of arrival. -/
  held : List FaultInfo
  /-- Closed entries that wait for ring space, in order (R369). -/
  ringWait : List Nat
  fullEpisode : Bool
  log2 : Nat
  loc : Bool
  base : Nat
  invals : List Inval
  /-- Remote requests issued by this node's agents and not yet answered: the asker's number, the virtual page, and the request
  (R355, R448); writes that were refused wait for the driver; answers wait for their asker. -/
  wants : List (Nat × Nat × MemReq)
  refused : List (Nat × Nat × MemReq)
  landed : List (Nat × MemReq × Landed)
  /-- MEM_REQs performed whose MEM_RSP has not been received: requester, tag, request (R375). -/
  memOut : List (Nat × Nat × MemReq)
  /-- Requests of the host, guests and dies that wait for a line or a set, oldest first (R134, R286, R338). -/
  reqs : List HeldReq
  deriving DecidableEq, Repr

def Tu.init : Tu :=
  { tlbs := [], micro := [], inFlight := [], entries := [], gens := [], held := [], ringWait := [], fullEpisode := false, log2 := 0,
    loc := false, base := 0, invals := [], wants := [], refused := [], landed := [], memOut := [], reqs := [] }

end Sys2Proof.Machine
end

