-- ==== Sys2Proof/Machine/Parts/Vector.lean ====
section
/-!
DEFINITION. Parts/Vector.lean: the vector engine of a motif beside its registers (05_vector_engine.md).
-/

namespace Sys2Proof.Machine

/-- A result of a reduction or a side sum that is being formed (R177 to R180). -/
structure RedAcc where
  /-- Positions reduced so far. -/
  count : Nat
  /-- The 128 lane sums of R178. -/
  lanes : Sparse Num
  /-- What the result counts so far (R163). -/
  mark : Count
  /-- The winner so far and its index (R179). -/
  best : Option (Num × Nat)
  deriving DecidableEq, Repr

def RedAcc.init : RedAcc := { count := 0, lanes := [], mark := .none, best := none }

/-- A descriptor the vector engine has accepted (R187). -/
structure VeJob where
  /-- The 256 descriptor bytes as one little-endian number. -/
  desc : Nat
  /-- It came from the running stitch's descriptor list (R252), not from a needle. -/
  fromList : Bool
  asid : Nat
  /-- Instant at which it started, ns. -/
  start : Nat
  /-- Lane groups done (R158). -/
  group : Nat
  /-- Results of D0 (REDUCE) or D1 (MAP with SIDE) being formed. -/
  accs : Sparse RedAcc
  /-- Codes of broadcast scalars already read, by stream (R156). -/
  bcast : Sparse (Option Nat)
  stat : NumStat
  /-- An element read as fill (R175). -/
  range : Bool
  status : Option Nat
  ran : Bool
  stalled : Bool
  /-- A PSUM's part: 0 waits on its counter, 1 reads headers, 2 sums lane groups, 3 subtracts (R182 to R185). -/
  part : Nat
  /-- Accumulator sets whose planes a stream reaches (R161). -/
  sets : List Nat
  /-- Descriptors that the array had accepted when it started (R161). -/
  before : Nat
  /-- Instant from which it waits for a source or destination, ns (R191). -/
  feed : Option Nat
  deriving DecidableEq, Repr

/-- The vector engine: its queue and the descriptor it runs. -/
structure VecEngine where
  queue : List VeJob
  run : Option VeJob
  deriving DecidableEq, Repr

def VecEngine.init : VecEngine := { queue := [], run := none }

end Sys2Proof.Machine
end

