-- ==== Sys2Proof/Machine/State.lean ====
section
/-!
DEFINITION. State.lean: the whole state of the block as plain data, its value after reset, and the
reasons a step can stop.
-/

namespace Sys2Proof.Machine

structure State where
  /-- Commands that wait, first in first out. -/
  pending : List Instr
  /-- Hall time, or module time while hall time has not locked, in ns (R42, R44). -/
  now : Nat
  /-- Register values by BAR0 address; an unlisted register holds `regReset` (R14, R18, R19). -/
  regs : Sparse Wide
  /-- Bytes of the sixteen stacks by physical address (R37); an unlisted byte reads 0. -/
  mem : List Host.Cell
  /-- 8-byte words whose poison bit is set (R317), by PA ÷ 8. -/
  poison : Sparse Bool
  /-- Bits of the stored 80 that differ from the codeword written (R317, R342), by PA ÷ 8. -/
  flips : Sparse (BitVec 80)
  /-- The Pattern's salt (R311), which no register shows (R313). -/
  salt : Nat
  /-- Flash, and the image of the Pattern in force as it was loaded; an unlisted byte is erased and reads 0xFF. -/
  flash : Sparse Byte
  pattern : Sparse Byte
  /-- Donor granule of a redirected granule (R335); an unlisted granule lies at its own place. -/
  redirect : Sparse (Option Nat)
  /-- Each motif's 64 MiB of local memory (R273); an unlisted byte reads 0. -/
  locals : Sparse (List Host.Cell)
  arrays : Sparse ArrayUnits
  vecs : Sparse VecEngine
  needles : Sparse Needles
  /-- Reservations that threads hold (R216). -/
  resv : List Resv
  agents : Sparse CacheAgent
  homes : Sparse Home
  stackCtl : Sparse StackCtl
  memMap : MemMap
  seams : Sparse Seam
  guests : Sparse GuestLink
  recovery : Recovery
  fabric : Fabric
  hall : Hall
  /-- Pattern bytes that each die has received (R385), by mesh ID. -/
  diePattern : Sparse (Sparse Byte)
  /-- Uncached requests not yet performed (R293, R302). -/
  uncached : List Uncached
  /-- Mainband messages under way (R375 to R379). -/
  net : Net
  tu : Tu
  ev : Events
  sent : List Msg
  qe : QEngine
  sk : SkEngine
  /-- Read latches by path × 256 + window: the address of the low word read and the latched high word (R602). -/
  latches : Sparse (Option (Nat × Nat))
  rowYoke : RowYoke
  scheds : Sparse RowSched
  /-- Route table in force on each die (R380), and the MAP_SET coherent ranges (R398). -/
  routes : Sparse Nat
  coherent : List (Nat × Nat)
  /-- What each die keeps of the changes that have taken effect on it (R36), by mesh ID. -/
  dieTables : Sparse DieTable
  px : Px
  mc : Mc
  board : Board
  harts : Sparse Hart
  /-- Pending identities of the interrupt files (R474): (hart × 8 + file) × 2048 + identity. -/
  imsic : Sparse Bool
  /-- The next argument of a free value: the model's own field. -/
  free : Nat
  deriving DecidableEq, Repr

/-- The module right after a reset (R18, R528): a cold reset at 48 V good, before the management controller has left reset,
with the flash erased and nothing recorded in it. No program runs in the block; its first commands start cast-on (R518).
(DESIGN CHOICE: log entries 5, 6, 26) -/
def State.reset : State :=
  { pending := [], now := 0, regs := [], mem := [], poison := [], flips := [], salt := 0, flash := [], pattern := [],
    redirect := [], locals := [], arrays := [], vecs := [], needles := [], resv := [], agents := [], homes := [],
    stackCtl := [], memMap := MemMap.init, seams := [], guests := [], recovery := Recovery.init, fabric := Fabric.init,
    hall := Hall.init, diePattern := [], uncached := [], net := Net.init, tu := Tu.init, ev := Events.init, sent := [],
    qe := QEngine.init, sk := SkEngine.init, latches := [], rowYoke := RowYoke.init, scheds := [], routes := [],
    coherent := [], dieTables := [], px := Px.init, mc := Mc.init, board := Board.init, harts := [], imsic := [], free := 0 }

/-- Why the block stops with a fault: no command does. An access that the spec refuses is answered as the spec says, with an
error completion, a status, an event or a counter, and the block goes on. -/
inductive Fault where
  deriving DecidableEq, Repr

/-- Why the block refuses a command. -/
inductive Refusal where
  /-- A command without a meaning, by its mnemonic; no arm of `exec` raises it. Safe. -/
  | notModelled (mnemonic : String)
  deriving DecidableEq, Repr

end Sys2Proof.Machine
end

