-- ==== Sys2Proof/Machine/Ops.lean ====
section
/-!
DEFINITION. Ops.lean: the named operations over registers, counters, messages and the event ring.
-/

namespace Sys2Proof.Machine

/-- What a register reads as before anything has set it: the Reset column of the register maps, with P
and F fields 0 (R18). (DESIGN CHOICE: log entries 4, 5) -/
def regReset (a : Nat) : Nat :=
  if a = 0x40010 then 0x10000            -- QE_ADMIN_VEC.LEVEL 1
  else if a = 0x80010 then 0x800         -- TU_FRING_CTL.LEVEL 1
  else if a = 0xA0004 then 1             -- PX_CTL.RO_EN 1
  else if a = 0x110008 then 0x800        -- EV_RING_CTL.LEVEL 1
  else if 0xB0000 ≤ a ∧ a < 0xB8000 ∧ a % 16 = 12 then 1    -- MSI-X vector control: masked
  else if 0x1000000 ≤ a ∧ a < 0x1C00000 then
    let o := a % 0x40000
    if o = 0xB000 then 0x80100D          -- L2_CFG: MSHR 128, WAYS 16, LOG2_SETS 13
    else if 0x30200 ≤ o ∧ o < 0x30240 ∧ o % 4 = 0 then 0x1000100   -- RW_SCALEc
    else 0
  else if 0x2000000 ≤ a ∧ a < 0x2100000 ∧ a % 0x10000 = 0x200 then 0xFFFFFF   -- HB_INJECT
  else 0

/-- The value of the register at BAR0 address `a`. -/
def State.reg (s : State) (a : Nat) : Nat := (Sparse.get (BitVec.ofNat 64 (regReset a)) s.regs a).toNat

/-- Set the register at `a` to `v`. -/
def State.setReg (s : State) (a v : Nat) : State :=
  { s with regs := Sparse.set (BitVec.ofNat 64 (regReset a)) s.regs a (BitVec.ofNat 64 v) }

/-- The value of a register field. -/
def State.fld (s : State) (f : Fld) : Nat := bits (s.reg f.addr) f.hi f.lo

/-- Set a register field. -/
def State.setFld (s : State) (f : Fld) (v : Nat) : State := s.setReg f.addr (setBits (s.reg f.addr) f.hi f.lo v)

/-- Set several fields, in order. -/
def State.setFlds (s : State) : List (Fld × Nat) → State
  | [] => s
  | (f, v) :: fs => (s.setFld f v).setFlds fs

/-- The current value of a counter. -/
def State.cnt (s : State) (c : Cnt) : Nat := s.reg c.addr

/-- The greatest value of a 64-bit counter (R600). (DESIGN CHOICE: log entry 127) -/
def cntMax : Nat := 2 ^ 64 - 1

/-- Add `n` to a 64-bit count that saturates and has no OVF bit (R600). (DESIGN CHOICE: log entry 43) -/
def State.bumpPlain (s : State) (addr n : Nat) : State := s.setReg addr (min (s.reg addr + n) cntMax)

/-- Add `n` to a 64-bit counter (R600): it saturates; the increment that reaches the maximum, and each one
that a saturated counter does not take, sets its OVF bit; COUNTER_SATURATED becomes due on reaching it. -/
def State.bumpQuiet (s : State) (c : Cnt) (n : Nat) : State :=
  let v := s.reg c.addr
  if n = 0 then s
  else if v + n < cntMax then s.setReg c.addr (v + n)
  else
    let t := (s.setReg c.addr cntMax).setFld ⟨c.ovf, c.bit, c.bit⟩ 1
    if v < cntMax && s.fld F.EV_CTL_SAT_EVENT_EN = 1 then { t with ev := { t.ev with satDue := t.ev.satDue ++ [c.place] } }
    else t

/-- Send a message. (DESIGN CHOICE: log entry 10) -/
def State.send (s : State) (m : Msg) : State := { s with sent := s.sent ++ [m] }

/-- Send several messages, in order. -/
def State.sendAll (s : State) (ms : List Msg) : State := { s with sent := s.sent ++ ms }

/-- Eight bits of a CRC-16/CCITT, the most significant first. -/
def crc16Bits : Nat → Nat → Nat
  | 0, c => c
  | k + 1, c => crc16Bits k (if c.testBit 15 then (2 * c % 2 ^ 16) ^^^ 0x1021 else 2 * c)

/-- CRC-16/CCITT of bytes (R381). (PRESUMED: log entry 154) -/
def crc16 (bs : List Byte) : Nat := bs.foldl (fun c b => crc16Bits 8 (c ^^^ (256 * b.toNat))) 0xFFFF

/-- A chain frame of 40 bytes (R381): DEST, SRC, SEQ, the CRC over bytes 0 to 3 and 8 to 39, and the payload.
(PRESUMED: log entry 154) -/
def chainFrame (src dst seq payload : Nat) : List Byte :=
  let head := toBytes 4 (packBits [(0, 8, dst), (8, 8, src), (16, 8, seq)])
  let body := toBytes 32 payload
  head ++ toBytes 4 (crc16 (head ++ body)) ++ body

/-- The chain frames sent so far from one die to another, whose number gives SEQ (R381). (PRESUMED: log entry 154) -/
def State.chainCount (s : State) (src dst : Nat) : Nat :=
  (s.sent.filter fun m => m.kind = .chain && m.dst = dst && (m.bytes.getD 1 0).toNat = src).length

/-- The next chain frame but `n` from `src` to `dst`. (PRESUMED: log entry 154) -/
def State.chainMsg (s : State) (src dst n payload : Nat) : Msg :=
  { kind := .chain, dst := dst, args := [payload], bytes := chainFrame src dst (s.chainCount src dst + n) payload }

/-- Send a chain payload of 32 bytes from the die `src` to the die `dst` (R381). -/
def State.sendFrom (s : State) (src dst payload : Nat) : State := s.send (s.chainMsg src dst 0 payload)

/-- Send a chain payload of 32 bytes from the yoke to the die `dst` (R381). (DESIGN CHOICE: log entry 10) -/
def State.sendChain (s : State) (dst payload : Nat) : State := s.sendFrom 48 dst payload

/-- The payload of the frames REG_RD, REG_WR and REG_RSP (R385), which the spec does not set out: the die, the address, the size and
the value. (DESIGN CHOICE: log entry 119) -/
def regPayload (ty die a : Nat) (wide : Bool) (v : Nat) : Nat :=
  packBits [(0, 8, ty), (8, 8, die), (16, 1, flag wide), (32, 26, a), (64, 64, v)]

/-- A free-running value: the next number of the model's own counter (a free value is an opaque function of it).
(DESIGN CHOICE: log entry 21) -/
def State.takeFree (s : State) : Nat × State := (s.free, { s with free := s.free + 1 })

/-- Write identity `id` to interrupt file `file` of hart `h` (R474, R475): the identity becomes pending.
(PRESUMED: log entry 125) -/
def State.imsicWrite (s : State) (h file id : Nat) : State :=
  { s with imsic := Sparse.set false s.imsic ((h * 8 + file) * 2048 + id) true }

/-- The BAR0 address of the Pending Bit Array word of vector `v`, and the vector's bit in it (R423). -/
def pbaFld (v : Nat) : Fld := ⟨0xB8000 + 8 * (v / 64), v % 64, v % 64⟩

/-- Vector `v`, or the function, is masked (R423). (DESIGN CHOICE: log entry 77) -/
def State.msiMasked (s : State) (v : Nat) : Bool :=
  s.fld (F.MSIX_VECTOR_CONTROL v) % 2 = 1 || s.px.funcMask

/-- No message can leave the function: Bus Master Enable 0, D3hot, or a fatal node (R550). -/
def State.msiBlocked (s : State) : Bool := !s.px.bme || s.px.d3hot || s.qe.dead

/-- Send the MSI-X message of vector `v` (R423). (DESIGN CHOICE: log entry 77) -/
def State.msiSend (s : State) (v : Nat) : State :=
  let s := s.send { kind := .msix, dst := s.fld (F.MSIX_MSG_ADDR v), args := [s.fld (F.MSIX_MSG_DATA v), v], bytes := [] }
  s.bumpQuiet C.PX_CNT_MSIX_SENT 1

/-- A message is due on vector `v`: routed to a node core (R475), not sent at or above MSIX_COUNT (R501), pending, or sent
(R423). -/
def State.msiDue (s : State) (v : Nat) : State :=
  if s.fld (F.NC_VROUTE_EN v) = 1 then
    (s.imsicWrite (s.fld (F.NC_VROUTE_HART v)) (s.fld (F.NC_VROUTE_FILE v)) (s.fld (F.NC_VROUTE_IDENTITY v))).bumpQuiet
      C.NC_CNT_VROUTED 1
  else if s.px.msixCount ≤ v then s
  else if s.msiMasked v || s.msiBlocked then s.setFld (pbaFld v) 1
  else s.msiSend v

/-- Indices of a ring are 24-bit counts (R239). -/
def idxMod : Nat := 2 ^ 24

/-- `(a − b) mod 2^24`. -/
def idxSub (a b : Nat) : Nat := (a + idxMod - b % idxMod) % idxMod

/-- Write bytes to memory from `a` on, one by one; the bytes keep the canonical form. (DESIGN CHOICE: log entry 6) -/
def memWrite : List Host.Cell → Nat → List Byte → List Host.Cell
  | m, _, [] => m
  | m, a, b :: bs => memWrite (Sparse.set 0 m a b) (a + 1) bs

/-- Read `n` bytes of memory from `a` on. (DESIGN CHOICE: log entry 6) -/
def memRead (m : List Host.Cell) : Nat → Nat → List Byte
  | _, 0 => []
  | a, n + 1 => Sparse.get 0 m a :: memRead m (a + 1) n

/-- A posted write to host memory (R418), `ro` with Relaxed Ordering. -/
def State.hostWrite (s : State) (addr : Nat) (bs : List Byte) (ro ep : Bool) : State :=
  s.send { kind := .hostWrite, dst := addr, args := [flag ro, flag ep], bytes := bs }

/-! ### The interleave -/

/-- A 22-bit value rotated left. (DESIGN CHOICE: log entry 37) -/
def rotl22 (x n : Nat) : Nat := (x * 2 ^ n % 2 ^ 22) ||| (x % 2 ^ 22 / 2 ^ (22 - n))

/-- The exclusive or of the low `k` bits. -/
def parity : Nat → Nat → Nat
  | 0, _ => 0
  | k + 1, x => (x + parity k (x / 2)) % 2

/-- pc_of of R311. (DESIGN CHOICE: log entry 37) -/
def pcOf (pa salt : Nat) : Nat :=
  let g := pa / 256 % 2 ^ 32
  let lo := g % 1024
  let u := g / 1024
  let k := u ^^^ (salt % 2 ^ 22)
  let a := salt / 2 ^ 22 % 2 ^ 22
  let b := 0x100000 ||| (salt / 2 ^ 44 % 2 ^ 20)
  let f := (List.range 10).foldl (fun f i =>
    f ||| (parity 22 (k &&& (rotl22 a (2 * i) ^^^ rotl22 b (3 * i % 22))) * 2 ^ i)) 0
  lo ^^^ f

/-- u of a physical address: granule bits [31:10] (R312). -/
def uOf (pa : Nat) : Nat := pa / 2 ^ 18 % 2 ^ 22

/-- The motif that is home of stack `k` (R24). -/
def homeMotif (k : Nat) : Nat := if k < 8 then k else k + 32

/-- The stack attached to motif `m`, if it is an edge motif (R24). -/
def stackOf (m : Nat) : Option Nat := if m < 8 then some m else if 40 ≤ m ∧ m < 48 then some (m - 32) else none

/-- The stack that holds an address: its home keeps the directory entry (R284, R335). -/
def State.homeStack (s : State) (pa : Nat) : Nat := pcOf pa s.salt / 64

/-- Where a granule lies now: its own place, or its donor's (R335). (DESIGN CHOICE: log entry 66) -/
def State.placeOf (s : State) (pa : Nat) : Nat :=
  match Sparse.get none s.redirect (pa / 256) with
  | none => pa
  | some d => d * 256 + pa % 256

/-- The pseudo-channel an address is stored on. -/
def State.pcAt (s : State) (pa : Nat) : Nat := pcOf (s.placeOf pa) s.salt

/-- Pseudo-channel `pc` is fenced (R336). -/
def State.fenced (s : State) (pc : Nat) : Bool := bits (s.reg (sAddr (pc / 64) 0x10)) (pc % 64) (pc % 64) = 1

/-! ### Caches and homes -/

/-- The bytes of a line. -/
def lineBytes (d : LineData) : List Byte := toBytes 128 d.bytes.toNat

def State.agent (s : State) (d : Nat) : CacheAgent := Sparse.get CacheAgent.init s.agents d

def State.onAgent (s : State) (d : Nat) (f : CacheAgent → CacheAgent) : State :=
  { s with agents := Sparse.modify CacheAgent.init s.agents d f }

def State.home (s : State) (k : Nat) : Home := Sparse.get Home.init s.homes k

def State.onHome (s : State) (k : Nat) (f : Home → Home) : State :=
  { s with homes := Sparse.modify Home.init s.homes k f }

/-- Agent `d`'s copy of line `l`. -/
def State.copyOf (s : State) (d l : Nat) : Option CacheLine := Sparse.get none (s.agent d).lines l

/-- Drop agent `d`'s copy, and the snoop-filter tag of a line that leaves the yoke (R280). -/
def State.dropCopy (s : State) (d l : Nat) : State :=
  s.onAgent d fun a => { a with lines := Sparse.set none a.lines l none, tags := Sparse.set none a.tags l none }

/-- The data a caching agent would supply for a line: its M or O copy, or what it keeps of a WB in flight (R288). -/
def State.dirtyAt (s : State) (d l : Nat) : Option LineData :=
  match s.copyOf d l with
  | some c => if c.st = .m || c.st = .o then some c.data else Sparse.get none (s.agent d).wbs l
  | none => Sparse.get none (s.agent d).wbs l

/-- The mesh IDs that can be caching agents (R281). -/
def cachingIds : List Nat := List.range 49 ++ [56, 57]

/-- A write by `who` (motif, slot, thread) or another agent ends the reservations of other threads on the lines
`lo` to `hi` (R216). -/
def State.killResv (s : State) (localOf : Option Nat) (lo hi : Nat) (who : Option (Nat × Nat × Nat)) : State :=
  { s with resv := s.resv.filter fun r =>
      !(r.localOf = localOf && lo ≤ r.line && r.line ≤ hi && some (r.motif, r.slot, r.thread) ≠ who) }

/-- Remove the directory entry of a line. -/
def State.dropEntry (s : State) (l : Nat) : State :=
  s.onHome (s.homeStack (l * 128)) fun h => { h with dir := Sparse.set none h.dir l none }

/-- The directory entry of a line. -/
def State.dirEntry (s : State) (l : Nat) : Option DirEntry := Sparse.get none (s.home (s.homeStack (l * 128))).dir l

/-- A mesh ID of a guest die. -/
def isGuest (d : Nat) : Bool := d = 56 || d = 57

/-- What a guest that owns a line answers to a forward or a RECALL: its cache is outside the module, so the line is free.
(DESIGN CHOICE: log entry 132) -/
def State.guestLine (s : State) (g code l : Nat) : LineData × State :=
  let n := s.free
  let word := fun (i : Nat) => (Config.freeWord (n + i)).toNat
  let v := (List.range 16).foldl (fun v i => v + word i * 2 ^ (64 * i)) 0
  (⟨BitVec.ofNat 1024 v, BitVec.ofNat 16 (word 16)⟩,
    { s with free := n + 17 }.send { kind := .coh, dst := g, args := [code, l], bytes := [] })

/-- What is newer than memory on a line: the atomic buffer's line, or the owner's, asked for with `code`. -/
def State.newest (s : State) (code l : Nat) : Option LineData × State :=
  match Sparse.get none (s.home (s.homeStack (l * 128))).buffer l with
  | some d => (some d, s)
  | none =>
    match (s.dirEntry l).bind (·.owner) with
    | none => (none, s)
    | some g =>
      if isGuest g then
        let (d, s) := s.guestLine g code l
        (some d, s)
      else (s.dirtyAt g l, s)

/-- Every copy of a line goes, and INV to the guests that share it (R289). -/
def State.dropCopies (s : State) (l : Nat) : State :=
  let guests := match s.dirEntry l with
    | some e => ([56, 57] : List Nat).filter e.sharers.getLsbD
    | none => []
  let s := s.sendAll (guests.map fun g => { kind := .coh, dst := g, args := [Coh.INV, l, homeMotif (s.homeStack (l * 128))], bytes := [] })
  cachingIds.foldl (fun s d => if (s.copyOf d l).isSome then s.dropCopy d l else s) s

/-- A line of stacked memory and its poison as data names them, with valid check bits. -/
def State.putLine (s : State) (l : Nat) (d : LineData) : State :=
  { s with
    mem := memWrite s.mem (l * 128) (lineBytes d)
    poison := (List.range 16).foldl (fun p i => Sparse.set false p (l * 16 + i) (d.poison.getLsbD i)) s.poison
    flips := (List.range 16).foldl (fun f i => Sparse.set 0 f (l * 16 + i) 0) s.flips }

/-- Whole words of a line in stacked memory, as one uncached write (R281, R289): what was newer goes to memory first, and every
copy goes. A line whose entry is pinned is not waited for. (DESIGN CHOICE: log entry 133) -/
def State.uncachedWords (s : State) (addr : Nat) (bs : List Byte) : State :=
  let l := addr / 128
  let k := s.homeStack (l * 128)
  let (d, s) := s.newest Coh.RECALL l
  let s := match d with
    | some d => s.putLine l d
    | none => s
  let pinned := match (s.dirEntry l).bind (·.pin) with
    | none => false
    | some .buffered => false
    | some _ => true
  let s := s.dropCopies l
  let s := (s.onHome k fun h => { h with buffer := Sparse.set none h.buffer l none }).killResv none l l none
  let s := s.bumpQuiet (C.L2_DIR_CNT_REQUESTS (homeMotif k)) 1
  let s := if pinned then s else s.dropEntry l
  let pc := s.pcAt addr
  if s.fenced pc then s.bumpQuiet (C.HB_CNT_FENCED_WRITES (pc / 64)) 1
  else
    let ws := List.range (bs.length / 8)
    let s := s.bumpQuiet (C.HB_PC_CNT_BURSTS (pc / 64) (pc % 64)) (ceilDiv bs.length 32)
    { s with
      mem := memWrite s.mem addr bs
      poison := ws.foldl (fun p i => Sparse.set false p (addr / 8 + i) false) s.poison
      flips := ws.foldl (fun f i => Sparse.set 0 f (addr / 8 + i) 0) s.flips }

/-! ### The mainband (R375 to R378) -/

/-- The class of a coherence message (R375): 0 COH_REQ, 1 COH_FWD, 2 COH_RSP. (DESIGN CHOICE: log entry 139) -/
def cohClass (code : Nat) : Nat :=
  if [Coh.RD_S, Coh.RD_X, Coh.UPG, Coh.WB, Coh.CLEAN_EVICT, Coh.RD_NC, Coh.WR_NC, Coh.ATOM_FAR, Coh.DONE].contains code then 0
  else if [Coh.FWD_S, Coh.FWD_X, Coh.FWD_NC, Coh.RECALL, Coh.INV, Coh.PUSH].contains code then 1
  else 2

/-- A message of a class leaves a die of the module. -/
def Net.put (n : Net) (cls src dst code line : Nat) : Net :=
  if src < 49 then { n with flights := n.flights ++
    [{ cls := cls, src := src, dst := dst, code := code, line := line, at' := src, waited := 0 }] }
  else n

/-- A coherence message leaves a die. -/
def Net.depart (n : Net) (src dst code line : Nat) : Net := n.put (cohClass code) src dst code line

/-- Two messages of one class with the same ends (R378). -/
def Flight.sameLane (f g : Flight) : Bool := f.cls = g.cls && f.src = g.src && f.dst = g.dst

/-- A message can arrive: it has reached its die, and it is the oldest of its class between its ends (R378). -/
def Net.canLand (n : Net) (f : Flight) : Bool := f.at' = f.dst && n.flights.find? (·.sameLane f) = some f

/-- The arrival of a message: none where it is under way and cannot arrive yet; one that no die of the module sent is a
guest's. (DESIGN CHOICE: log entry 139) -/
def Net.land (n : Net) (dst code line : Nat) : Option Net :=
  match n.flights.filter fun f => f.dst = dst && f.code = code && f.line = line with
  | [] => some n
  | fs => (fs.find? n.canLand).map fun f => { n with flights := n.flights.erase f }

/-! ### Rings and events -/

/-- Write a record to a ring slot: `loc` false host memory, true module memory through its home (R239, R281, R418, R419). -/
def State.ringWrite (s : State) (loc : Bool) (addr : Nat) (bs : List Byte) : State :=
  if loc then s.uncachedWords addr bs else s.hostWrite addr bs false false

/-- R255: a new consumer index `n` is accepted where it does not pass the entries written. -/
def ciAccepted (c w n : Nat) : Bool := idxSub n c ≤ idxSub w c

/-- The event ring can be written (R599). -/
def State.evWritable (s : State) : Bool :=
  s.fld F.EV_RING_BASE_EN = 1 && (s.ev.loc || (s.fld F.PX_STATUS_HOST_WAIT = 0 && s.px.bme))

/-- Unread records of the event ring. -/
def State.evUnread (s : State) : Nat := idxSub (s.fld F.EV_RING_PI_PI) (s.fld F.EV_RING_CI_CI)

/-- Write one record into the ring's next slot (R597, R599), and signal the level (R255); a fatal node still sends the
message of a FATAL record (R550). -/
def State.evPut (s : State) (h : HeldEvent) : State :=
  let record := h.record
  let dead := s.qe.dead
  let s := if h.fatal then { s with qe := { s.qe with dead := false } } else s
  let pi := s.fld F.EV_RING_PI_PI
  let n := 2 ^ s.ev.log2
  let rec' := record + (pi / n % 2) * 2 ^ 18
  let t := s.ringWrite s.ev.loc (s.ev.base + 64 * (pi % n)) (toBytes 64 rec')
  let t := (t.setFld F.EV_RING_PI_PI ((pi + 1) % idxMod)).bumpPlain F.EV_CNT_WRITTEN.addr 1
  let t := if t.evUnread = s.evUnread + 1 && t.evUnread = s.fld F.EV_RING_CTL_LEVEL then t.msiDue (s.fld F.EV_RING_CTL_VECTOR)
    else t
  { t with qe := { t.qe with dead := dead } }

/-- Drop a record (R599). -/
def State.evDrop (s : State) : State :=
  (s.bumpPlain F.EV_CNT_DROPPED.addr 1).setFld F.EV_STICKY_DROPPED 1

/-- Put a record into the holding buffer: 256 records, and any FATAL record (R599). -/
def State.evHold (s : State) (h : HeldEvent) : State :=
  if h.fatal || (s.ev.held.filter (fun x => !x.fatal)).length < 256 then
    { s with ev := { s.ev with held := s.ev.held ++ [h] } }.setFld F.EV_STICKY_HELD 1
  else s.evDrop

/-- A record that passed MIN_SEV is written, held or dropped (R599). -/
def State.evAccept (s : State) (h : HeldEvent) : State :=
  let n := 2 ^ s.ev.log2
  if !s.evWritable || (s.qe.dead && !s.ev.loc && !h.fatal) then s.evHold h
  else if h.fatal then
    if s.evUnread < n && s.ev.held.isEmpty then s.evPut h else s.evHold h
  else if n - 1 ≤ s.evUnread then s.evDrop
  else if s.ev.held.isEmpty then s.evPut h
  else s.evHold h

/-- Write held records while the ring takes them (R599); `k` bounds the records written. -/
def State.evDrain : Nat → State → State
  | 0, s => s
  | k + 1, s =>
    match s.ev.held.find? fun h => h.fatal || !s.qe.dead || s.ev.loc with
    | none => s
    | some h =>
      let hs := s.ev.held.erase h
      if s.evWritable && s.evUnread < 2 ^ s.ev.log2 - flag (!h.fatal) then
        State.evDrain k ({ s with ev := { s.ev with held := hs } }.evPut h)
      else s

/-- Details of an event: source die, domain ID and kind, D0 to D3 (R597). -/
structure Detail where
  src : Nat := 48
  dom : Nat := 0
  kind : Nat := 0
  d0 : Nat := 0
  d1 : Nat := 0
  d2 : Nat := 0
  d3 : Nat := 0
  /-- Bytes 52 to 63, for a group fault record (R598). -/
  tail : Nat := 0
  deriving DecidableEq, Repr

/-- The 64-byte event record, PHASE 0 (R597). (DESIGN CHOICE: log entry 29) -/
def eventRecord (e : EvKind) (d : Detail) (time row seq : Nat) : Nat :=
  packBits [(0, 16, e.code), (16, 2, e.sev), (24, 8, d.src), (32, 12, d.dom), (44, 3, d.kind), (64, 64, time),
    (128, 32, row), (160, 16, row / 2 ^ 32), (192, 32, seq), (256, 64, d.d0), (320, 32, d.d1), (352, 32, d.d2),
    (384, 32, d.d3), (416, 96, d.tail)]

/-- PlatformEventMessage to every binding that has enabled events (R481, R599). -/
def platformEvents (e : EvKind) (d : Detail) : List (Nat × Bool) → List Msg
  | [] => []
  | (b, true) :: bs => { kind := .platformEvent, dst := b, args := [e.code, e.sev, d.src, d.d1], bytes := [] } :: platformEvents e d bs
  | (_, false) :: bs => platformEvents e d bs

/-- Raise one event (R594 to R599): it takes a sequence number, is counted, and its record is written, held,
dropped or below MIN_SEV; WARNING and above also go out as PlatformEventMessage. -/
def State.raiseOne (s : State) (e : EvKind) (d : Detail) : State :=
  let r := eventRecord e d s.now s.rowYoke.row s.ev.seq
  let s := ({ s with ev := { s.ev with seq := (s.ev.seq + 1) % 2 ^ 32 } }).bumpPlain F.EV_CNT_RAISED.addr 1
  let s := if 1 ≤ e.sev then s.sendAll (platformEvents e d s.mc.eventBindings) else s
  if e.sev < s.fld F.EV_RING_CTL_MIN_SEV && e.sev ≠ 3 then s.bumpPlain F.EV_CNT_BELOW_SEV.addr 1
  else s.evAccept { fatal := e.sev = 3, record := r }

/-- Raise the COUNTER_SATURATED events that are due (R600); `k` bounds the chain of them. -/
def State.satDrain : Nat → State → State
  | 0, s => s
  | k + 1, s =>
    match s.ev.satDue with
    | [] => s
    | p :: ps => State.satDrain k ({ s with ev := { s.ev with satDue := ps } }.raiseOne Ev.COUNTER_SATURATED { d1 := p })

/-- Raise an event. (DESIGN CHOICE: log entry 29) -/
def State.raise (s : State) (e : EvKind) (d : Detail) : State := State.satDrain 4 (s.raiseOne e d)

/-- Raise an event that its chapter raises once per Row, once for each source die (R599). -/
def State.raisePerRow (s : State) (e : EvKind) (d : Detail) : State :=
  if s.ev.perRow.contains (e.code, d.src, s.rowYoke.row) then s
  else
    let s := { s with ev := { s.ev with
      perRow := (e.code, d.src, s.rowYoke.row) :: s.ev.perRow.filter (fun x => x.2.2 = s.rowYoke.row) } }
    s.raise e d

/-- Add `n` to a 64-bit counter, with its OVF bit and its event (R600, R601). (DESIGN CHOICE: log entry 127) -/
def State.bump (s : State) (c : Cnt) (n : Nat) : State := State.satDrain 4 (s.bumpQuiet c n)

/-- A message is due on vector `v`, with the counters' events. -/
def State.notify (s : State) (v : Nat) : State := State.satDrain 4 (s.msiDue v)

/-- Motif `m` as a BAR0 window and as a mesh ID are the same number. -/
def State.sched (s : State) (m : Nat) : RowSched := Sparse.get RowSched.init s.scheds m

/-- Replace the row scheduler of motif `m`. -/
def State.setSched (s : State) (m : Nat) (r : RowSched) : State :=
  { s with scheds := Sparse.set RowSched.init s.scheds m r }

/-- Change the row scheduler of motif `m`. -/
def State.onSched (s : State) (m : Nat) (f : RowSched → RowSched) : State := s.setSched m (f (s.sched m))

/-- What a die keeps of the structure changes that have taken effect on it (R36). -/
def State.table (s : State) (d : Nat) : DieTable := Sparse.get DieTable.init s.dieTables d

/-- A change takes effect in a die's table. -/
def State.onTable (s : State) (d : Nat) (f : DieTable → DieTable) : State :=
  { s with dieTables := Sparse.set DieTable.init s.dieTables d (f (s.table d)) }

/-- The guest with mesh ID `d` is on this part and has joined the mesh (R3, R25). -/
def State.guestIn (s : State) (d : Nat) : Bool :=
  s.mc.fuses.guests && (d = 56 || d = 57) && s.fld (F.SM_GUEST_STATE (d - 56)) = 3

/-- A die that may send and receive on the mesh: a guest only once it has joined (R3, R25). -/
def State.onMesh (s : State) (d : Nat) : Bool := (d ≠ 56 && d ≠ 57) || s.guestIn d

/-- The position code of motif `m` (R32). -/
def posFld (m : Nat) : Fld := ⟨0x10000 + 4 * (m / 8), 4 * (m % 8) + 3, 4 * (m % 8)⟩

/-- The state of position `m`: 1 ENABLED, 2 SPARE, 3 MEM_ONLY, 4 RECOVERING, 5 DROPPED, 0 UNRESOLVED (R32). -/
def State.pos (s : State) (m : Nat) : Nat := s.fld (posFld m)

/-- Positions of `ms` in state `code`. -/
def State.countPos (s : State) (code : Nat) (ms : List Nat) : Nat := (ms.filter (fun m => s.pos m = code)).length

/-- The 48 motif IDs. -/
def motifIds : List Nat := List.range 48

/-- Set a position's state, and PT_POS_SUMMARY with it (R33). -/
def State.setPos (s : State) (m code : Nat) : State :=
  let t := s.setFld (posFld m) code
  t.setFlds [(F.PT_POS_SUMMARY_ENABLED, t.countPos 1 motifIds), (F.PT_POS_SUMMARY_SPARE, t.countPos 2 motifIds),
    (F.PT_POS_SUMMARY_MEMONLY, t.countPos 3 motifIds), (F.PT_POS_SUMMARY_DROPPED, t.countPos 5 motifIds)]

end Sys2Proof.Machine
end

