-- ==== Sys2Proof/Machine/Mem.lean ====
section
/-!
DEFINITION. Mem.lean: local memory, the stacks with their error correction and poison, the interleave,
and the coherent view of a line (08_local_memory_and_coherence.md, 09_stacked_memory.md).
-/

namespace Sys2Proof.Machine

/-! ### Local memory -/

/-- End of a motif's local memory, and of its accumulator planes (R132, R275). -/
def localTop : Nat := 0x4000000
def planeTop : Nat := 0x4400000

/-- The cells of motif `m`'s local memory. -/
def State.localMem (s : State) (m : Nat) : List Host.Cell := Sparse.get [] s.locals m

/-- Read `n` bytes of local memory. (DESIGN CHOICE: log entry 34) -/
def State.localRead (s : State) (m a n : Nat) : List Byte := memRead (s.localMem m) a n

/-- Read a little-endian number of `n` bytes of local memory. -/
def State.localNat (s : State) (m a n : Nat) : Nat := ofBytes (s.localRead m a n)

/-- Write bytes of local memory, by a thread or (none) another agent. (DESIGN CHOICE: log entry 34) -/
def State.localWriteBy (s : State) (who : Option (Nat × Nat × Nat)) (m a : Nat) (bs : List Byte) : State :=
  { s with locals := Sparse.set [] s.locals m (memWrite (s.localMem m) a bs) }.killResv (some m) (a / 128)
    ((a + bs.length - 1) / 128) who

/-- Write bytes of local memory. -/
def State.localWrite (s : State) (m a : Nat) (bs : List Byte) : State := s.localWriteBy none m a bs

/-- The bank of a local address, and its row there (R273). -/
def bankOf (a : Nat) : Nat :=
  let l := a / 128
  (l % 32) ^^^ (l / 32 % 32) ^^^ (l / 1024 % 32)
def bankRow (a : Nat) : Nat := bits (a / 128) 18 5

/-- The lines that `n` bytes from `a` on touch. -/
def linesOf (a n : Nat) : List Nat := if n = 0 then [] else (List.range ((a + n - 1) / 128 - a / 128 + 1)).map (a / 128 + ·)

/-- fclk that requests wait for their banks where a port gives the lines `new` at `n` lines per fclk and each bank serves one request
per fclk, `held` being the banks of those still waiting (R274); `k` bounds the fclk. -/
def bankWaits (n : Nat) : Nat → List Nat → List Nat → Nat
  | 0, _, _ => 0
  | k + 1, held, new =>
    if held.isEmpty && new.isEmpty then 0
    else
      let all := held ++ (new.take n).map fun l => bankOf (128 * l)
      let rest := all.eraseDups.foldl List.erase all
      rest.length + bankWaits n k rest (new.drop n)

/-- Count the waits of a port's requests for lines of local memory (R274). (DESIGN CHOICE: log entry 43) -/
def State.countConflicts (s : State) (m n : Nat) (lines : List Nat) : State :=
  let ls := lines.filter (· < localTop / 128)
  let w := bankWaits n (2 * ls.length + 1) [] ls
  if w = 0 then s else s.bump (C.L2_CNT_LM_CONFLICT m) w

/-- The array of motif `m`. -/
def State.array (s : State) (m : Nat) : ArrayUnits := Sparse.get ArrayUnits.init s.arrays m

def State.setArray (s : State) (m : Nat) (a : ArrayUnits) : State :=
  { s with arrays := Sparse.set ArrayUnits.init s.arrays m a }

/-- Accumulator set `k` of a motif. -/
def ArrayUnits.set (a : ArrayUnits) (k : Nat) : AccSet := Sparse.get AccSet.zero a.sets k

def State.setAcc (s : State) (m k : Nat) (c : AccSet) : State :=
  let a := s.array m
  s.setArray m { a with sets := Sparse.set AccSet.zero a.sets k c }

/-- Set, total plane or not, cell and byte of a plane address (R132). -/
def planeCell (a : Nat) : Nat × Bool × Nat × Nat :=
  let o := a - localTop
  (o / 0x100000, 0x80000 ≤ o % 0x100000, o % 0x80000 / 8, o % 8)

/-- Read 4 or 8 aligned bytes of a plane (R133): bytes 4 to 7 of a run cell read 0 unless RUN_FMT is binary64. -/
def State.planeRead (s : State) (m a n : Nat) : Nat :=
  let (k, tot, c, b) := planeCell a
  let acc := (s.array m).set k
  let v := if tot then Sparse.get 0 acc.total c
    else
      let w := Sparse.get 0 acc.run c
      if s.fld (F.MX_ACCSTATE_RUN_FMT m k) = 2 then w else w % 2 ^ 32
  v / 256 ^ b % 256 ^ n

/-- Write 4 or 8 aligned bytes of a plane (R133). -/
def State.planeWrite (s : State) (m a n v : Nat) : State :=
  let (k, tot, c, b) := planeCell a
  let acc := (s.array m).set k
  let put := fun w => setBits w (8 * (b + n) - 1) (8 * b) v
  if tot then s.setAcc m k { acc with total := Sparse.set 0 acc.total c (put (Sparse.get 0 acc.total c)) }
  else
    let w := Sparse.get 0 acc.run c
    let w' := if s.fld (F.MX_ACCSTATE_RUN_FMT m k) = 2 then put w
      else if b = 0 then setBits w 31 0 v else w
    s.setAcc m k { acc with run := Sparse.set 0 acc.run c w' }

/-- Read `n` bytes of the planes in pieces of 4 (R133). -/
def State.planesRead (s : State) (m a n : Nat) : List Byte :=
  (List.range (n / 4)).flatMap fun i => toBytes 4 (s.planeRead m (a + 4 * i) 4)

/-- Write bytes of the planes in pieces of 4 (R133). -/
def State.planesWrite (s : State) (m a : Nat) (bs : List Byte) : State :=
  (List.range (bs.length / 4)).foldl (fun s i => s.planeWrite m (a + 4 * i) 4 (ofBytes ((bs.drop (4 * i)).take 4))) s

/-- Read `n` bytes of local memory, of the planes, or of both where the range crosses into them (R132, R133, R155). -/
def State.localAnyRead (s : State) (m a n : Nat) : List Byte :=
  if localTop ≤ a then s.planesRead m a n
  else if a + n ≤ localTop then s.localRead m a n
  else s.localRead m a (localTop - a) ++ s.planesRead m localTop (a + n - localTop)

/-- Write bytes of local memory, of the planes, or of both (R132, R133, R155). -/
def State.localAnyWrite (s : State) (m a : Nat) (bs : List Byte) : State :=
  if localTop ≤ a then s.planesWrite m a bs
  else if a + bs.length ≤ localTop then s.localWrite m a bs
  else (s.localWrite m a (bs.take (localTop - a))).planesWrite m localTop (bs.drop (localTop - a))

/-- The vector engine of motif `m`. -/
def State.vec (s : State) (m : Nat) : VecEngine := Sparse.get VecEngine.init s.vecs m

def State.setVec (s : State) (m : Nat) (v : VecEngine) : State :=
  { s with vecs := Sparse.set VecEngine.init s.vecs m v }

/-- Local writes of an engine's record or counter: only local memory is storage there. (DESIGN CHOICE: log entry 144) -/
def State.localRecord (s : State) (m a : Nat) (bs : List Byte) : State :=
  if a + bs.length ≤ localTop then s.localWrite m a bs else s

/-- Add 1 to an 8-byte local counter (R151). -/
def State.localCount (s : State) (m a : Nat) : State :=
  s.localRecord m a (toBytes 8 (s.localNat m a 8 + 1))

/-- The stack controller's own state. -/
def State.ctl (s : State) (k : Nat) : StackCtl := Sparse.get StackCtl.init s.stackCtl k

def State.onCtl (s : State) (k : Nat) (f : StackCtl → StackCtl) : State :=
  { s with stackCtl := Sparse.modify StackCtl.init s.stackCtl k f }

/-- Row key of R328 for an address on `pc`. -/
def rowKey (pc pa : Nat) : Nat := pc * 2 ^ 20 + uOf pa / 4

/-- The requests in a pseudo-channel's queue (R316). -/
def State.chan (s : State) (pc : Nat) : List ChanReq := Sparse.get [] (s.ctl (pc / 64)).chans (pc % 64)

/-- A pseudo-channel's queue of 256 requests is full (R316). -/
def State.chanFull (s : State) (pc : Nat) : Bool := decide (256 ≤ (s.chan pc).length)

/-- A queue holds a request to a row, by its key (R314). -/
def State.rowWanted (s : State) (pc key : Nat) : Bool := (s.chan pc).any fun r => rowKey pc (s.placeOf (r.line * 128)) = key

/-! ### Error correction and poison -/

/-- Ones among the low `n` bits. -/
def popCount : Nat → Nat → Nat
  | 0, _ => 0
  | n + 1, x => x % 2 + popCount n (x / 2)

/-- Log the first error since HB_ERR.VALID was cleared (R319). (DESIGN CHOICE: log entry 71) -/
def State.hbLog (s : State) (k kind pa : Nat) : State :=
  if s.fld (F.HB_ERR_VALID k) = 1 then s
  else s.setFlds [(F.HB_ERR_VALID k, 1), (F.HB_ERR_KIND k, kind), (F.HB_ERR_PA k, pa)]

/-- A FAULT_RPT frame to the management controller (R544): domain kind, ID and cause. -/
def State.sendFaultRpt (s : State) (kind id cause : Nat) : State :=
  s.send { kind := .faultRpt, dst := 48, args := [kind, id, cause], bytes := [] }

/-- The errors that the decoder corrects in a pattern of wrong bits (R318): one or two; of four or more those of a pattern with the
same syndrome, which differs from it by a word of the code, of at least six ones and an even number of them (R317).
(DESIGN CHOICE: log entry 33) -/
def corrects (f : BitVec 80) : Option (BitVec 80) :=
  let n := popCount 80 f.toNat
  let e := Config.sameSyndrome f
  let far := popCount 80 (f ^^^ e).toNat
  if n ≤ 2 then some f
  else if 4 ≤ n && 1 ≤ popCount 80 e.toNat && popCount 80 e.toNat ≤ 2 && 6 ≤ far && far % 2 = 0 then some e
  else none

/-- Bits of a stored word change: its data, and side bit 14, the poison bit (R317). -/
def State.flipWord (s : State) (w : Nat) (f : BitVec 80) : State :=
  { s with
    mem := memWrite s.mem (w * 8) (toBytes 8 (ofBytes (memRead s.mem (w * 8) 8) ^^^ (f.toNat % 2 ^ 64)))
    poison := Sparse.set false s.poison w (Sparse.get false s.poison w ^^ f.getLsbD 78) }

/-- Decode one stored word as a read finds it (R318, R319): errors are corrected, or miscorrected, and written back;
else they are detected, the word is poisoned, and a second such word of a pseudo-channel is a stack fault (R330).
(DESIGN CHOICE: log entry 33) -/
def State.settleWord (s : State) (w : Nat) : State :=
  let f := Sparse.get 0 s.flips w
  if f = 0 then s
  else
    let pa := w * 8
    let pc := s.pcAt pa
    let k := pc / 64
    let s := { s with flips := Sparse.set 0 s.flips w 0 }
    match corrects f with
    | some e =>
      let n := popCount 80 e.toNat
      let c := if n = 1 then C.HB_CNT_CE1 k else C.HB_CNT_CE2 k
      let s := if f = e then s else s.flipWord w (f ^^^ e)
      let s := ((s.bump c 1).bump (C.HB_PC_CNT_CE k (pc % 64)) 1).hbLog k n pa
      s.onCtl k fun c => { c with rowCe := Sparse.modify 0 c.rowCe (rowKey pc (s.placeOf pa)) (· + 1) }
    | none =>
      let s := s.flipWord w f
      let s := { s with poison := Sparse.set false s.poison w true }
      let s := ((s.bump (C.HB_CNT_UE k) 1).bump (C.HB_PC_CNT_UE k (pc % 64)) 1).hbLog k 3 pa
      let again := (s.ctl k).pcUe.contains pc
      let s := s.onCtl k fun c => { c with
        pcUe := if again then c.pcUe else pc :: c.pcUe
        rowUe := rowKey pc (s.placeOf pa) :: c.rowUe }
      let s := s.raise Ev.MEM_UE { src := homeMotif k, d0 := pa }
      if again then s.sendFaultRpt 2 pc 0x10 else s

/-- Wrong bits arise in the four words of a burst. -/
def State.upset (s : State) (b : Nat) (wrong : BitVec 320) : State :=
  { s with flips := (List.range 4).foldl (fun f i => Sparse.modify 0 f (b * 4 + i) (· ^^^ wrong.extractLsb' (80 * i) 80)) s.flips }

/-- Some word of a burst holds wrong bits. -/
def State.burstWrong (s : State) (b : Nat) : Bool := (List.range 4).any fun i => Sparse.get 0 s.flips (b * 4 + i) ≠ 0

/-- Decode the four words of a burst (R318). -/
def State.decodeBurst (s : State) (b : Nat) : State := (List.range 4).foldl (fun s i => s.settleWord (b * 4 + i)) s

/-- Read one burst at its home (R314, R318): a burst with errors is written back; a fenced pseudo-channel takes no access (R336). -/
def State.burstRead (s : State) (b : Nat) : State :=
  let pc := s.pcAt (b * 32)
  if s.fenced pc then s
  else (s.bump (C.HB_PC_CNT_BURSTS (pc / 64) (pc % 64)) (1 + flag (s.burstWrong b))).decodeBurst b

/-- Store one word, some bytes of which are written (R322), with valid check bits; an armed injection flips bits
of it (R342). (DESIGN CHOICE: log entry 33) -/
def State.storeWord (s : State) (w : Nat) (bs : List (Option Byte)) : State :=
  if bs.all Option.isNone then s
  else
    let pa := w * 8
    let old := memRead s.mem pa 8
    let new := (old.zip bs).map fun (o, b) => b.getD o
    let keep := bs.any Option.isNone && Sparse.get false s.poison w
    let k := s.pcAt pa / 64
    let armed := s.fld (F.HB_INJECT_ARM k) = 1 && (s.fld F.PT_HOOKS_HOOKS).testBit 1
    let bit : Nat → Nat := fun v => if v < 80 then 2 ^ v else 0
    let mask := bit (s.fld (F.HB_INJECT_BIT_A k)) ||| bit (s.fld (F.HB_INJECT_BIT_B k)) ||| bit (s.fld (F.HB_INJECT_BIT_C k))
    let s := { s with
      mem := memWrite s.mem pa new, poison := Sparse.set false s.poison w keep,
      flips := Sparse.set 0 s.flips w (if armed then BitVec.ofNat 80 mask else 0) }
    if armed then s.setFld (F.HB_INJECT_ARM k) 0 else s

/-- Split a list into chunks of `n`, at most `k` of them. -/
def chunks {α : Type} (n : Nat) : Nat → List α → List (List α)
  | 0, _ => []
  | _, [] => []
  | k + 1, x :: xs => ((x :: xs).take n) :: chunks n k ((x :: xs).drop n)

/-- Write one burst (32 bytes, none where not written): a partial burst is a read-modify-write (R315); a fenced
pseudo-channel discards it (R336). -/
def State.burstWrite (s : State) (b : Nat) (bs : List (Option Byte)) : State :=
  if bs.all Option.isNone then s
  else
    let pc := s.pcAt (b * 32)
    let k := pc / 64
    if s.fenced pc then s.bump (C.HB_CNT_FENCED_WRITES k) 1
    else
      let part := bs.any Option.isNone
      let s := if part then (s.decodeBurst b).bump (C.HB_CNT_RMW k) 1 else s
      let s := s.bump (C.HB_PC_CNT_BURSTS k (pc % 64)) (1 + flag part)
      ((chunks 8 4 bs).zipIdx).foldl (fun s (c, i) => s.storeWord (b * 4 + i) c) s

/-- A request opens the row of its address with one activation of the bank, unless the row is open; the row stays open only
while the queue holds another request to it (R310, R314). (DESIGN CHOICE: log entry 69) -/
def State.activateBank (s : State) (pa : Nat) : State :=
  let place := s.placeOf pa
  let pc := pcOf place s.salt
  let bank := pc * 64 + uOf place / 4 % 64
  let key := rowKey pc place
  let keep := if s.rowWanted pc key then key + 1 else 0
  s.onCtl (pc / 64) fun c => { c with
    acts := if Sparse.get 0 c.opened bank = key + 1 then c.acts else Sparse.modify 0 c.acts bank (· + 1)
    opened := Sparse.set 0 c.opened bank keep }

/-- Line `l` of memory as its home delivers it: its bytes, and a poison bit for each word (R318, R336). -/
def State.memLine (s : State) (l : Nat) : LineData × State :=
  let s := s.activateBank (l * 128)
  let s := (List.range 4).foldl (fun s i => s.burstRead (l * 4 + i)) s
  let fen := s.fenced (s.pcAt (l * 128))
  let p := (List.range 16).foldl (fun p i => if fen || Sparse.get false s.poison (l * 16 + i) then p + 2 ^ i else p) 0
  (⟨BitVec.ofNat 1024 (ofBytes (memRead s.mem (l * 128) 128)), BitVec.ofNat 16 p⟩, s)

/-- Write a line's bytes where `mask` has a bit; words of `d` with a poison bit that are written become poisoned. -/
def State.memWriteLine (s : State) (l : Nat) (d : LineData) (mask : Nat) : State :=
  let s := s.activateBank (l * 128)
  let bs := (lineBytes d).zipIdx.map fun (b, i) => if mask.testBit i then some b else none
  let s := ((chunks 32 4 bs).zipIdx).foldl (fun s (c, i) => s.burstWrite (l * 4 + i) c) s
  if d.poison = 0 || s.fenced (s.pcAt (l * 128)) then s
  else
    { s with poison := (List.range 16).foldl (fun p i =>
        if d.poison.getLsbD i && mask / 2 ^ (8 * i) % 256 ≠ 0 then Sparse.set false p (l * 16 + i) true else p) s.poison }

/-- Every byte of a line. -/
def fullMask : Nat := 2 ^ 128 - 1

/-! ### The coherent view -/

/-- Send a coherence message (R285). -/
def State.coh (s : State) (src dst code line : Nat) (more : List Nat) (bs : List Byte) : State :=
  { s with net := s.net.depart src dst code line }.send { kind := .coh, dst := dst, args := code :: line :: more, bytes := bs }

/-- A set of a home's directory (R284). -/
def dirSet (l : Nat) : Nat := (l % 2 ^ 15) ^^^ (l / 2 ^ 15 % 2 ^ 15) ^^^ (l / 2 ^ 30 % 8)

/-- Entries of a line's directory set. -/
def Home.setEntries (h : Home) (l : Nat) : List (Nat × DirEntry) :=
  h.dir.filterMap fun x => if dirSet x.1 = dirSet l then x.2.map fun e => (x.1, e) else none

/-- Pinned ways of a line's set, ways of victims not yet gone among them. -/
def Home.pinnedIn (h : Home) (l : Nat) : Nat := ((h.setEntries l).filter fun x => x.2.pin.isSome).length

def Home.entry (h : Home) (l : Nat) : Option DirEntry := Sparse.get none h.dir l

/-- Put an entry. (DESIGN CHOICE: log entry 57) -/
def State.putEntry (s : State) (k l : Nat) (e : Option DirEntry) : State :=
  s.onHome k fun h => { h with dir := Sparse.set none h.dir l e }

/-- An entry that nothing holds is no entry (R284). -/
def State.tidyEntry (s : State) (k l : Nat) : State :=
  match (s.home k).entry l with
  | some e => if e.owner.isNone && e.sharers = 0 && e.pin.isNone then s.putEntry k l none else s
  | none => s

/-- A sharer vector's members. -/
def members (v : BitVec 64) : List Nat := (List.range 64).filter v.getLsbD

/-- The vector of one member. -/
def memberBit (q : Nat) : BitVec 64 := BitVec.ofNat 64 (2 ^ q)

/-- The least recently used unpinned entry. -/
def lruEntry : List (Nat × DirEntry) → Option (Nat × DirEntry)
  | [] => none
  | x :: xs =>
    if x.2.pin.isSome then lruEntry xs
    else match lruEntry xs with
      | none => some x
      | some y => if x.2.used ≤ y.2.used then some x else some y

/-- Send INV to sharers, acknowledged to `to'` (R285). -/
def State.sendInvs (s : State) (l to' : Nat) : List Nat → State
  | [] => s
  | d :: ds => (s.coh (homeMotif (s.homeStack (l * 128))) d Coh.INV l [to'] []).sendInvs l to' ds

/-- Make room in a full set: RECALL to the victim's owner, INV to its sharers (R290). -/
def State.makeRoom (s : State) (k l : Nat) : State :=
  let es := (s.home k).setEntries l
  if es.length < 16 then s
  else
    match lruEntry es with
    | none => s
    | some (v, e) =>
      let home := homeMotif k
      let shar := (members e.sharers).filter fun d => some d ≠ e.owner
      let s := (s.putEntry k v none).bump (C.L2_DIR_CNT_DIR_EVICT home) 1
      let s := match e.owner with
        | some o => s.coh home o Coh.RECALL v [] []
        | none => s
      let s := s.sendInvs v home shar
      if e.owner.isNone && shar.isEmpty then s
      else s.onHome k fun h => { h with victims := h.victims ++ [⟨v, e.owner.isSome, shar.length⟩] }

/-- Pin a line's entry, old or new (R286, R290). -/
def State.pinEntry (s : State) (k l : Nat) (why : PinWhy) : State :=
  let s := if (s.home k).entry l = none then s.makeRoom k l else s
  let e := ((s.home k).entry l).getD { owner := none, sharers := 0, pin := none, used := 0 }
  s.onHome k fun h => { h with
    dir := Sparse.set none h.dir l (some { e with pin := some why, used := h.stamp })
    stamp := h.stamp + 1 }

/-- Lines in the buffer with no request in the queue. -/
def Home.idleBuffered (h : Home) : Option Nat :=
  (h.buffer.find? fun x => !(h.atomQ.any fun r => r.line = x.1)).map (·.1)

/-- The segment of an evacuation that holds a granule's place (R337). -/
def MapOut.segment (u : MapOut) (pc granule : Nat) : Nat :=
  (if u.pc.isSome then 0 else pc % 64 * 512) + granule / 8192

/-- The line lies in a segment that is copied and not committed: its requests are held (R338).
(DESIGN CHOICE: log entry 67) -/
def State.evacHeld (s : State) (l : Nat) : Bool :=
  match s.memMap.evac with
  | none => false
  | some u =>
    let place := s.placeOf (l * 128)
    let pc := pcOf place s.salt
    let q := u.segment pc (uOf place)
    u.members.contains pc && s.fld F.HB_EVAC_SEG_DONE ≤ q && q < s.memMap.copied

/-- An uncached request on the line has to wait: its segment is held (R338), its channel's queue is full (R316), or the home
would refuse it and it would be sent again (R291, R292). -/
def State.lineBusy (s : State) (l : Nat) : Bool :=
  s.evacHeld l || s.chanFull (s.pcAt (l * 128)) ||
  let h := s.home (s.homeStack (l * 128))
  (match h.entry l with
    | some e => match e.pin with
      | some .buffered => false
      | some _ => true
      | none => decide (15 ≤ h.pinnedIn l)
    | none => decide (15 ≤ h.pinnedIn l)) || (h.victims.any fun v => v.line = l) || (h.reservations.any fun r => r.1 = l)

/-- Write the atomic buffer's line back to memory and unpin it (R298). -/
def State.flushBuffer (s : State) (l : Nat) : State :=
  let k := s.homeStack (l * 128)
  match Sparse.get none (s.home k).buffer l with
  | none => s
  | some d =>
    let s := s.memWriteLine l d fullMask
    (s.onHome k fun h => { h with buffer := Sparse.set none h.buffer l none }).dropEntry l

/-- A request reaches the home of a line (R307). -/
def State.countRequest (s : State) (l : Nat) : State := s.bump (C.L2_DIR_CNT_REQUESTS (homeMotif (s.homeStack (l * 128)))) 1

/-- The line as one uncached read finds it (R289): the owner's data under FWD_NC, or memory's.
(DESIGN CHOICE: log entry 132) -/
def State.cohLine (s : State) (l : Nat) : LineData × State :=
  match ((s.countRequest l).flushBuffer l).newest Coh.FWD_NC l with
  | (some d, s) => (d, s)
  | (none, s) => s.memLine l

/-- Write back the dirty copy of a line, if any, and remove every cached copy (R289). (DESIGN CHOICE: log entry 132) -/
def State.cleanLine (s : State) (l : Nat) (full : Bool) : State :=
  let s := s.flushBuffer l
  match s.dirEntry l with
  | none => s
  | some e =>
    let s := if full then (match e.owner with
        | some g => if isGuest g then s.coh (homeMotif (s.homeStack (l * 128))) g Coh.INV l [homeMotif (s.homeStack (l * 128))] [] else s
        | none => s)
      else match s.newest Coh.RECALL l with
        | (some d, s) => s.memWriteLine l d fullMask
        | (none, s) => s
    (s.dropCopies l).dropEntry l

/-- One uncached write of a line's bytes under a mask (R289, R302). -/
def State.cohWriteLine (s : State) (l : Nat) (d : LineData) (mask : Nat) : State :=
  (((s.countRequest l).cleanLine l (mask = fullMask)).memWriteLine l d mask).killResv none l l none

/-- The atomic buffer of 64 lines has room for one more: it writes back a line that no request waits for, or its first (R298).
(DESIGN CHOICE: log entry 50) -/
def State.bufferRoom (s : State) (k : Nat) : State :=
  let h := s.home k
  if h.buffer.length < 64 then s
  else match h.idleBuffered with
    | some x => s.flushBuffer x
    | none => s.flushBuffer ((h.buffer.headD (0, none)).1)

/-- A line in the atomic buffer of its home, brought in where it is not there (R298). (DESIGN CHOICE: log entry 134) -/
def State.buffered (s : State) (l : Nat) : LineData × State :=
  let k := s.homeStack (l * 128)
  match Sparse.get none (s.home k).buffer l with
  | some d => (d, s)
  | none =>
    let s := (s.cleanLine l false).bufferRoom k
    let (d, s) := s.memLine l
    (d, (s.onHome k fun h => { h with buffer := Sparse.set none h.buffer l (some d) }).pinEntry k l .buffered)

/-- The atomic unit of an address's home can run a request at once: its queue is empty (R298). -/
def State.farIdle (s : State) (pa : Nat) : Bool := (s.home (s.homeStack pa)).atomQ.isEmpty

/-- The home's atomic unit changes an aligned word of `n` bytes (R298): its old value, and the word where it is poisoned and
therefore unchanged (R321). -/
def State.farWordOp (s : State) (pa n : Nat) (f : Nat → Nat) : List Byte × List Nat × State :=
  let l := pa / 128
  let o := pa % 128
  let k := s.homeStack pa
  let (d, s) := (s.countRequest l).buffered l
  let s := s.bump (C.L2_DIR_CNT_FAR_EXEC (homeMotif k)) 1
  let old := bits d.bytes.toNat (8 * (o + n) - 1) (8 * o)
  if d.poison.getLsbD (o / 8) then (toBytes n old, [pa / 8], s)
  else
    let d := { d with bytes := BitVec.ofNat 1024 (setBits d.bytes.toNat (8 * (o + n) - 1) (8 * o) (f old)) }
    (toBytes n old, [], (s.onHome k fun h => { h with buffer := Sparse.set none h.buffer l (some d) }).killResv none l l none)

/-- Any of the lines is in a home's transaction. -/
def State.anyBusy (s : State) (a n : Nat) : Bool := (linesOf a n).any s.lineBusy

/-- Read lines as one uncached access: the bytes of all, and the words' poison bits. -/
def State.cohLines : List Nat → State → List Byte × List Bool × State
  | [], s => ([], [], s)
  | l :: ls, s =>
    let (d, s) := s.cohLine l
    let (bs, ps, s) := State.cohLines ls s
    ((lineBytes d) ++ bs, (List.range 16).map d.poison.getLsbD ++ ps, s)

/-- Uncached read of `n` bytes of stacked memory from `a` on: bytes, the poisoned words among those read (by
PA ÷ 8), and the state after the bursts' decoding. -/
def State.poolRead (s : State) (a n : Nat) : List Byte × List Nat × State :=
  let ls := linesOf a n
  let (bs, ps, s) := State.cohLines ls s
  let l0 := a / 128
  let words := if n = 0 then [] else (List.range ((a + n - 1) / 8 - a / 8 + 1)).map (a / 8 + ·)
  ((bs.drop (a % 128)).take n, words.filter (fun w => ps.getD (w - l0 * 16) false), s)

/-- Uncached write of bytes to stacked memory from `a` on; none where masked off. `ps` are words to store poisoned. -/
def State.poolWrite (s : State) (a : Nat) (bs : List (Option Byte)) (ps : List Nat) : State :=
  (linesOf a bs.length).foldl (fun s l =>
    let at' := fun i => if l * 128 + i < a then none else (bs[l * 128 + i - a]?).getD none
    let ix := List.range 128
    let mask := ix.foldl (fun k i => if (at' i).isSome then k + 2 ^ i else k) 0
    let d : LineData :=
      ⟨BitVec.ofNat 1024 (ofBytes (ix.map fun i => (at' i).getD 0)),
       BitVec.ofNat 16 ((List.range 16).foldl (fun k i => if ps.contains (l * 16 + i) then k + 2 ^ i else k) 0)⟩
    if mask = 0 then s else s.cohWriteLine l d mask) s

/-- A poisoned word of another node, by its PA ÷ 8 with the node's bits, among words of this node. -/
def farWord (w : Nat) : Nat := 2 ^ 61 + w

/-- An agent uses poisoned words (R320): one count at each word's home in this node, one event for the access. -/
def State.consume (s : State) (src : Nat) (ws : List Nat) : State :=
  match ws with
  | [] => s
  | w :: _ =>
    let s := (ws.filter (· < 2 ^ 61)).foldl (fun s w =>
      let k := s.pcAt (w * 8) / 64
      (s.bump (C.HB_CNT_POISON_CONSUMED k) 1).hbLog k 4 (w * 8)) s
    s.raise Ev.POISON_CONSUMED { src := src, d0 := (ws.foldl min w) % 2 ^ 61 * 8 }

end Sys2Proof.Machine
end

