-- ==== Sys2Proof/Machine/Translate.lean ====
section
/-!
DEFINITION. Translate.lean: page-table walks, access checks, and the reads and writes that an engine makes
by virtual or physical address (10_address_translation.md).
-/

namespace Sys2Proof.Machine

/-- What an access needs: R, W or X, or both R and W for an atomic (R351 check 8). -/
structure Need where
  r : Bool
  w : Bool
  x : Bool
  deriving DecidableEq, Repr

def Need.read : Need := ⟨true, false, false⟩
def Need.write : Need := ⟨false, true, false⟩
def Need.atomic : Need := ⟨true, true, false⟩
def Need.exec : Need := ⟨false, false, true⟩

/-- ACCESS bits of a fault record (R367). -/
def Need.bits (n : Need) : Nat := flag n.r + 2 * flag n.w + 4 * flag n.x

/-- A translation's outcome. -/
inductive Xlat where
  | ok (node pa : Nat)
  | fault (cause level pte pa : Nat)
  | wait
  deriving DecidableEq, Repr

/-- The reserved 8 GiB (R37). -/
def reservedBase : Nat := 0x00FE00000000
def poolTop : Nat := 0x010000000000

/-- A table may be read at `a`: below HB_SW_TOP and not reserved (R345, R351 check 4). -/
def State.tableOk (s : State) (a n : Nat) : Bool := a + n ≤ s.fld F.HB_SW_TOP_SW_TOP && a + n ≤ reservedBase

def State.tlb (s : State) (die : Nat) : Tlb := Sparse.get Tlb.init s.tu.tlbs die

def State.setTlb (s : State) (die : Nat) (t : Tlb) : State :=
  { s with tu := { s.tu with tlbs := Sparse.set Tlb.init s.tu.tlbs die t } }

/-- Count in a motif's TU_MCNT; the yoke has none. -/
def State.bumpMotif (s : State) (die : Nat) (c : Nat → Cnt) : State := if die < 48 then s.bump (c die) 1 else s

/-- Read `n` bytes of a table by RD_NC (R357): none where a home would refuse; poison is consumed (R320). -/
def State.walkRead (s : State) (die a n : Nat) : Option (Nat × Bool) × State :=
  if s.anyBusy a n then (none, s)
  else
    let (bs, ps, s) := s.poolRead a n
    let s := s.bumpMotif die C.TU_MCNT_WALK_READS
    (some (ofBytes bs, !ps.isEmpty), s.consume die ps)

/-- How one entry with V = 1 or 0 stands at a level (R346 to R351, checks 5 to 7). -/
inductive EntryKind where
  | next (table : Nat)
  | leaf
  | bad (cause : Nat)
  deriving DecidableEq, Repr

def entryKind (level e : Nat) : EntryKind :=
  let v := e % 2
  let r := bits e 1 1
  let w := bits e 2 2
  let x := bits e 3 3
  let ppn := bits e 45 10
  let slot := bits e 53 46
  let n := bits e 63 63
  if v = 0 then
    if bits e 9 8 = 1 then
      if level = 0 then (if bits e 62 54 = 0 then .bad 0x02 else .bad 0x01) else .bad 0x05
    else .bad 0x01
  else if bits e 62 54 ≠ 0 || (w = 1 && r = 0) then .bad 0x05
  else if r = 0 && w = 0 && x = 0 then
    if level = 0 || slot ≠ 0 || n = 1 then .bad 0x05 else .next (ppn * 4096)
  else if level = 3 then .bad 0x05
  else if n = 1 && (level ≠ 0 || ppn % 16 ≠ 8) then .bad 0x05
  else if 0 < level && ppn % 2 ^ (9 * level) ≠ 0 then .bad 0x05
  else .leaf

/-- Checks 8 to 10 on a leaf, and its physical address (R347 to R349, R352). -/
def State.leafCheck (s : State) (need : Need) (va level e : Nat) : Xlat :=
  let ppn := bits e 45 10
  let slot := bits e 53 46
  let size := if level = 0 then (if bits e 63 63 = 1 then 16 else 12) else 12 + 9 * level
  let base := ppn * 4096 / 2 ^ size * 2 ^ size
  if bits e 4 4 = 0 || (need.r && bits e 1 1 = 0) || (need.w && bits e 2 2 = 0) || (need.x && bits e 3 3 = 0) then
    .fault 0x03 level e 0
  else if bits e 6 6 = 0 || (need.w && bits e 7 7 = 0) then .fault 0x04 level e 0
  else if slot ≠ 0 && s.fld (F.TU_NODE_SLOT_V slot) = 0 then .fault 0x14 level e 0
  else
    .ok (if slot = 0 then s.fld F.FB_NODE_NODE else s.fld (F.TU_NODE_SLOT_NODE slot)) (base + va % 2 ^ size)

/-- The index of a virtual address at a level (R346). -/
def vpnAt (va level : Nat) : Nat := va / 2 ^ (12 + 9 * level) % 512

/-- Keep at most `n` items, the newest first. (DESIGN CHOICE: log entry 28) -/
def keepNewest {α : Type} (n : Nat) (l : List α) : List α := l.take n

/-- Walk from the table of level `level` − 1 … 0; `k` is the level plus 1. (DESIGN CHOICE: log entry 28) -/
def State.walk (die asid va : Nat) (need : Need) : Nat → Nat → State → Xlat × State
  | 0, _, s => (.fault 0x05 0 0 0, s)
  | level + 1, table, s =>
    if !s.tableOk table 4096 then (.fault 0x05 level 0 0, s)
    else
      match s.walkRead die (table + 8 * vpnAt va level) 8 with
      | (none, s) => (.wait, s)
      | (some (_, true), s) => (.fault 0x06 level 0 0, s)
      | (some (e, false), s) =>
        match entryKind level e with
        | .bad c => (.fault c level e 0, s)
        | .next t =>
          let tl := s.tlb die
          let step : WalkStep := ⟨asid, level - 1, va / 2 ^ (12 + 9 * level), t⟩
          State.walk die asid va need level t (s.setTlb die { tl with steps := keepNewest 512 (step :: tl.steps) })
        | .leaf =>
          match s.leafCheck need va level e with
          | .ok node pa =>
            let pages := if level = 0 then (if bits e 63 63 = 1 then 16 else 1) else 2 ^ (9 * level)
            let tl := s.tlb die
            let lf : TlbLeaf := ⟨asid, va / 4096 / pages * pages, pages, e, level⟩
            (.ok node pa, s.setTlb die { tl with leaves := keepNewest 4096 (lf :: tl.leaves) })
          | r => (r, s)

/-- The longest cached step of the walk. -/
def Tlb.bestStep (t : Tlb) (asid va : Nat) : Option WalkStep :=
  [0, 1, 2, 3].findSome? fun l =>
    t.steps.find? fun x => x.asid = asid && x.level = l && x.pre = (if l = 3 then 0 else va / 2 ^ (12 + 9 * (l + 1)))

/-- An agent's code: its die in bits 5 to 0, and above them the unit: 0 array, 1 vector engine, 3 queue engine,
4 skein engine, 8 + n needle n. -/
def unitAgent (mesh unit : Nat) : Nat := mesh + 64 * unit

/-- Entries of a unit's micro-TLB (R356). (DESIGN CHOICE: log entry 28) -/
def microSize (a : Nat) : Nat := if a / 64 = 0 then 16 else if 8 ≤ a / 64 then 32 else 64

/-- The leaf that maps an address. -/
def findLeaf (ls : List TlbLeaf) (asid va : Nat) : Option TlbLeaf :=
  ls.find? fun l => l.asid = asid && l.page ≤ va / 4096 && va / 4096 < l.page + l.pages

/-- Keep the leaf that the shared TLB holds for an address in the agent's micro-TLB. (DESIGN CHOICE: log entry 28) -/
def State.fillMicro (s : State) (a asid va : Nat) : State :=
  match findLeaf (s.tlb (a % 64)).leaves asid va with
  | none => s
  | some l => { s with tu := { s.tu with micro := Sparse.modify [] s.tu.micro a fun ls => (l :: ls).take (microSize a) } }

/-- What a cached leaf gives an access, unless the access would fault by it. (DEDUCED: log entry 153) -/
def State.byLeaf (s : State) (need : Need) (va : Nat) (l : Option TlbLeaf) : Option Xlat :=
  match l with
  | none => none
  | some l =>
    match s.leafCheck need va l.level l.pte with
    | .ok node pa => some (.ok node pa)
    | _ => none

/-- A die keeps no leaf by which an access faults (R357). (DEDUCED: log entry 153) -/
def State.dropLeaf (s : State) (die asid va : Nat) : State :=
  let left := fun (ls : List TlbLeaf) => ls.filter fun l => !(l.asid = asid && l.page ≤ va / 4096 && va / 4096 < l.page + l.pages)
  let t := s.tlb die
  let s := s.setTlb die { t with leaves := left t.leaves }
  { s with tu := { s.tu with micro := s.tu.micro.filterMap fun x =>
      if x.1 % 64 = die then (if (left x.2).isEmpty then none else some (x.1, left x.2)) else some x } }

/-- Walk from the nearest cached step, or from the ASID table's entry (R345, R346). -/
def State.walkFrom (s : State) (die asid va : Nat) (need : Need) : Xlat × State :=
  let t := s.tlb die
  match t.bestStep asid va with
  | some st => State.walk die asid va need (st.level + 1) st.table s
  | none =>
    let a := s.fld F.TU_ASID_BASE_BASE * 65536 + 16 * asid
    if !s.tableOk a 16 then (.fault 0x07 0 0 0, s)
    else
      match s.walkRead die a 16 with
      | (none, s) => (.wait, s)
      | (some (_, true), s) => (.fault 0x06 0 0 0, s)
      | (some (e, false), s) =>
        if e % 2 = 0 || bits e 11 1 ≠ 0 || bits e 127 48 ≠ 0 then (.fault 0x07 0 0 0, s)
        else
          let root := bits e 47 12 * 4096
          let step : WalkStep := ⟨asid, 3, 0, root⟩
          State.walk die asid va need 4 root (s.setTlb die { t with steps := keepNewest 512 (step :: t.steps) })

/-- Translate one address under an ASID (R343 to R352), by the agent's micro-TLB, by the caches of its die, or by a
walk. A walk that waits for a line begins again. (DEDUCED: log entry 153) -/
def State.translate (s : State) (a asid va : Nat) (need : Need) : Xlat × State :=
  let va := va % 2 ^ 48
  let die := a % 64
  match s.byLeaf need va (findLeaf (Sparse.get [] s.tu.micro a) asid va) with
  | some x => (x, s)
  | none =>
  match s.byLeaf need va (findLeaf (s.tlb die).leaves asid va) with
  | some x => (x, (s.bumpMotif die C.TU_MCNT_STLB_HITS).fillMicro a asid va)
  | none =>
    match ((s.dropLeaf die asid va).bumpMotif die C.TU_MCNT_STLB_MISSES).walkFrom die asid va need with
    | (.wait, _) => (.wait, s)
    | (x, s) => (x, (s.bump C.TU_CNT_WALKS 1).fillMicro a asid va)

/-- What kind of access the aperture judges (R276): an LR or SC, an atomic, or a plain access of a size. -/
inductive Shape where
  | plain (n : Nat)
  | atomic
  | lrsc
  deriving DecidableEq, Repr

/-- The base of the aperture (R276). -/
def apertureBase : Nat := 0x010000000000

/-- R276 refuses an aperture access. -/
def State.apertureBad (s : State) (pa : Nat) (sh : Shape) : Bool :=
  let m := (pa - apertureBase) / 0x10000000
  let a := (pa - apertureBase) % 0x10000000
  planeTop ≤ a || s.pos m ≠ 1 || sh = .lrsc ||
    (localTop ≤ a && (match sh with
      | .plain n => !((n = 4 || n = 8) && a % n = 0)
      | _ => true))

/-- The access fault of R354 at this node's address, if any: its cause. -/
def State.accessFault (s : State) (pa : Nat) (sh : Shape) : Option Nat :=
  let plain := if 0x800000000000 ≤ pa ∧ pa < 0xC00000000000 then pa % 2 ^ 40 else pa
  if plain < poolTop then
    if reservedBase ≤ plain then some 0x10
    else if s.fld F.HB_SW_TOP_SW_TOP ≤ plain then some 0x11
    else none
  else if apertureBase ≤ pa ∧ pa < 0x010300000000 then if s.apertureBad pa sh then some 0x12 else none
  else some 0x13

/-- Bytes that an access of a shape takes. -/
def Shape.span : Shape → Nat
  | .plain n => n
  | _ => 8

/-- The access fault of R354 that any byte of an access has: its first byte, its last one, or a way from local memory into the
planes. -/
def State.spanFault (s : State) (pa : Nat) (sh : Shape) : Option Nat :=
  match s.accessFault pa sh with
  | some c => some c
  | none =>
    let n := sh.span
    if n ≤ 1 then none
    else if apertureBase ≤ pa ∧ pa < 0x010300000000 then
      let a := (pa - apertureBase) % 0x10000000
      if a < localTop ∧ localTop < a + n then some 0x12 else none
    else s.accessFault (pa + n - 1) sh

/-- Where a range of virtual addresses lies: segments (node, physical address, length) in order. -/
inductive Ranged where
  | ok (segs : List (Nat × Nat × Nat))
  | fault (page cause level pte pa : Nat)
  | wait
  deriving DecidableEq, Repr

/-- Translate every page of a range before any access of it (R364), page by page; `k` bounds the pages. -/
def State.rangePages (die asid : Nat) (need : Need) (sh : Shape) : Nat → Nat → Nat → State → Ranged × State
  | 0, _, _, s => (.ok [], s)
  | k + 1, va, n, s =>
    if n = 0 then (.ok [], s)
    else
      let len := min n (4096 - va % 4096)
      match s.translate die asid va need with
      | (.wait, s) => (.wait, s)
      | (.fault c l e pa, s) => (.fault (va / 4096) c l e pa, s)
      | (.ok node pa, s) =>
        let bad := if node = s.fld F.FB_NODE_NODE then s.accessFault pa sh else none
        match bad with
        | some c => (.fault (va / 4096) c 0 0 pa, s)
        | none =>
          match State.rangePages die asid need sh k (va + len) (n - len) s with
          | (.ok segs, s) => (.ok ((node, pa, len) :: segs), s)
          | r => r

def State.range (s : State) (die asid va n : Nat) (need : Need) (sh : Shape) : Ranged × State :=
  State.rangePages die asid need sh (n / 4096 + 2) va n s

/-- The plain stacked-memory address of a pool or alias address. -/
def plainPa (pa : Nat) : Nat := if 0x800000000000 ≤ pa then pa % 2 ^ 40 else pa

/-- Descriptors naming the set of a plane address are accepted and not complete (R134); an aperture access reaches the motif's
port only when none is. (DEDUCED: log entry 141) -/
def State.planeBusy (s : State) (m a : Nat) : Bool := (s.array m).earlier (planeCell a).1 (s.array m).accepted

/-- A home or a set would make an access to this node's address wait. -/
def State.physBusy (s : State) (pa n : Nat) : Bool :=
  if apertureBase ≤ pa ∧ pa < 0x010300000000 then
    let a := (pa - apertureBase) % 0x10000000
    localTop ≤ a && s.planeBusy ((pa - apertureBase) / 0x10000000) a
  else s.anyBusy (plainPa pa) n

/-- An atomic at this node's address would wait: for its line or set, or behind the requests of the home's atomic unit (R298). -/
def State.atomBusy (s : State) (pa n : Nat) : Bool :=
  s.physBusy pa n || (!(apertureBase ≤ pa ∧ pa < 0x010300000000) && !s.farIdle (plainPa pa))

/-- Read this node's physical memory: stacked memory, or a motif's local memory through the aperture (R277).
(DESIGN CHOICE: log entry 27) -/
def State.physRead (s : State) (pa n : Nat) : List Byte × List Nat × State :=
  if apertureBase ≤ pa ∧ pa < 0x010300000000 then
    let m := (pa - apertureBase) / 0x10000000
    let a := (pa - apertureBase) % 0x10000000
    (s.localAnyRead m a n, [], s)
  else s.poolRead (plainPa pa) n

/-- A target that PUSH can go to: an ENABLED motif or the yoke (R301). -/
def State.pushable (s : State) (t : Nat) : Bool := t = 48 || (t < 48 && s.pos t = 1)

/-- After a hinted write, PUSH the line to its target and pin the entry until the answer (R300, R301). -/
def State.pushHint (s : State) (t l : Nat) : State :=
  let k := s.homeStack (l * 128)
  if s.pushable t then
    let (d, s) := s.memLine l
    (s.pinEntry k l (.push t)).coh (homeMotif k) t Coh.PUSH l [d.poison.toNat] (lineBytes d)
  else s.bump (C.L2_DIR_CNT_PUSH_DROPPED (homeMotif k)) 1

/-- Write this node's physical memory. (DESIGN CHOICE: log entry 27) -/
def State.physWrite (s : State) (pa : Nat) (bs : List (Option Byte)) (ps : List Nat) : State :=
  if apertureBase ≤ pa ∧ pa < 0x010300000000 then
    let m := (pa - apertureBase) / 0x10000000
    let a := (pa - apertureBase) % 0x10000000
    if localTop ≤ a then s.localAnyWrite m a ((bs.zip (s.localAnyRead m a bs.length)).map fun x => x.1.getD x.2)
    else (bs.zipIdx).foldl (fun s (b, i) => match b with
      | some b => s.localWrite m (a + i) [b]
      | none => s) s
  else
    let s := s.poolWrite (plainPa pa) bs ps
    if 0x800000000000 ≤ pa then
      (linesOf (plainPa pa) bs.length).foldl (fun s l => s.pushHint (pa / 2 ^ 40 % 64) l) s
    else s

/-- An agent changes an aligned word of `n` bytes where it lies: at the motif's bank, or in its home's atomic unit (R277, R298).
Its old bytes, and the word where it is poisoned and unchanged (R321). An address that is not aligned and crosses a line is read
and written. (DESIGN CHOICE: log entry 135) -/
def State.wordOp (s : State) (pa n : Nat) (f : Nat → Nat) : List Byte × List Nat × State :=
  if (apertureBase ≤ pa ∧ pa < 0x010300000000) ∨ 128 < pa % 128 + n then
    let (bs, ps, s) := s.physRead pa n
    if ps.isEmpty then (bs, [], s.physWrite pa ((toBytes n (f (ofBytes bs))).map some) []) else (bs, ps, s)
  else s.farWordOp (plainPa pa) n f

/-- What a read or write by virtual address comes to. -/
inductive Got where
  | ok (bs : List Byte) (poison : List Nat)
  | fault (page cause level pte pa : Nat)
  | wait
  deriving DecidableEq, Repr

/-- The number of an asker of remote accesses: its agent code, its ASID, and which of the code's commands, operations or
threads it is (0 where the code says it). -/
def asker (code asid who : Nat) : Nat := code + 65536 * asid + 2 ^ 28 * who

/-- Writes of an agent's command, operation or descriptor are still on their way to other nodes (R448).
(DESIGN CHOICE: log entry 79) -/
def State.owes (s : State) (code who : Nat) : Bool :=
  (s.tu.wants ++ s.tu.refused).any fun x => x.1 % 65536 = code && x.1 / 2 ^ 28 = who

/-- What came back for an asker's request. (DESIGN CHOICE: log entry 38) -/
def State.landedFor (s : State) (ask : Nat) (r : MemReq) : Option Landed :=
  (s.tu.landed.find? fun x => x.1 = ask && x.2.1 = r).map (·.2.2)

/-- What came back for an asker's atomic at an address of another node, with the request. -/
def State.landedAtomic (s : State) (ask pa : Nat) : Option (MemReq × Landed) :=
  (s.tu.landed.find? fun x => x.1 = ask && (match x.2.1 with
    | .atomic a _ _ _ => a.toNat = pa % 2 ^ 64
    | _ => false)).map (·.2)

/-- Ask for a remote access, once. (DESIGN CHOICE: log entry 38) -/
def State.want (s : State) (ask page : Nat) (r : MemReq) : State :=
  if s.tu.wants.any (fun x => x.1 = ask && x.2.2 = r) || (s.landedFor ask r).isSome then s
  else { s with tu := { s.tu with wants := s.tu.wants ++ [(ask, page, r)] } }

/-- Take a remote answer. (DESIGN CHOICE: log entry 38) -/
def State.takeLanded (s : State) (ask : Nat) (r : MemReq) : State :=
  { s with tu := { s.tu with landed := s.tu.landed.filter fun x => !(x.1 = ask && x.2.1 = r) } }

/-- An asker's unit is over: its answers go. (DESIGN CHOICE: log entry 38) -/
def State.dropLanded (s : State) (ask : Nat) : State :=
  { s with tu := { s.tu with landed := s.tu.landed.filter fun x => x.1 ≠ ask } }

/-- The request for a remote segment. -/
def remoteRead (node pa n : Nat) : MemReq := .read (BitVec.ofNat 64 (node * 2 ^ 48 + pa)) (BitVec.ofNat 13 n)

/-- A write of bytes at another node, `ps` of its words poisoned; other threads' reservations on its lines end (R216). -/
def State.wantWrite (s : State) (who : Option (Nat × Nat × Nat)) (ask page node pa : Nat) (bs : List Byte) (ps : List Nat) : State :=
  let s := s.killResv none ((node * 2 ^ 48 + pa) / 128) ((node * 2 ^ 48 + pa + bs.length - 1) / 128) who
  { s with tu := { s.tu with wants := s.tu.wants ++ [(ask, page, .write (BitVec.ofNat 64 (node * 2 ^ 48 + pa)) bs ps)] } }

/-- Every segment can be read now: local segments are not held up, remote ones have come back. -/
def State.segsReady (s : State) (ask : Nat) : List (Nat × Nat × Nat) → Bool × Option Nat × State
  | [] => (true, none, s)
  | (node, pa, n) :: segs =>
    if node = s.fld F.FB_NODE_NODE then
      if s.physBusy pa n then (false, none, s) else s.segsReady ask segs
    else
      match s.landedFor ask (remoteRead node pa n) with
      | some .refused => (true, some pa, s.takeLanded ask (remoteRead node pa n))
      | some _ => s.segsReady ask segs
      | none =>
        let (_, f, s) := (s.want ask 0 (remoteRead node pa n)).segsReady ask segs
        (false, f, s)

/-- Read segments that are ready; the answers stay until their unit takes them. -/
def State.segsRead (ask : Nat) : List (Nat × Nat × Nat) → State → List Byte × List Nat × State
  | [], s => ([], [], s)
  | (node, pa, n) :: segs, s =>
    let (bs, ps, s) : List Byte × List Nat × State :=
      if node = s.fld F.FB_NODE_NODE then s.physRead pa n
      else
        match s.landedFor ask (remoteRead node pa n) with
        | some (.data bs ps) => (bs, ps.map farWord, s)
        | _ => ([], [], s)
    let (bs', ps', s) := State.segsRead ask segs s
    (bs ++ bs', ps ++ ps', s)

/-- Read `n` bytes at a virtual address under an ASID. -/
def State.vaRead (s : State) (die asid va n : Nat) (need : Need) : Got × State :=
  match s.range die asid va n need (.plain n) with
  | (.wait, s) => (.wait, s)
  | (.fault p c l e pa, s) => (.fault p c l e pa, s)
  | (.ok segs, s) =>
    match s.segsReady (asker die asid 0) segs with
    | (_, some pa, s) => (.fault (va % 2 ^ 48 / 4096) 0x15 0 0 pa, s)
    | (false, none, s) => (.wait, s)
    | (true, none, s) =>
      let (bs, ps, s) := State.segsRead (asker die asid 0) segs s
      (.ok bs ps, segs.foldl (fun s (g : Nat × Nat × Nat) => s.takeLanded (asker die asid 0) (remoteRead g.1 g.2.1 g.2.2)) s)

/-- Write segments from the virtual address `va` on: local ones at once, remote ones as requests to the fabric. -/
def State.segsWrite (ask : Nat) : Nat → List (Nat × Nat × Nat) → List Byte → State → State
  | _, [], _, s => s
  | va, (node, pa, n) :: segs, bs, s =>
    let s := if node = s.fld F.FB_NODE_NODE then s.physWrite pa ((bs.take n).map some) []
      else s.wantWrite none ask (va % 2 ^ 48 / 4096) node pa (bs.take n) []
    State.segsWrite ask (va + n) segs (bs.drop n) s

/-- Any local segment would be held up. -/
def State.segsBusy (s : State) (segs : List (Nat × Nat × Nat)) : Bool :=
  segs.any fun (node, pa, n) => node = s.fld F.FB_NODE_NODE && s.physBusy pa n

/-- Write bytes at a virtual address under an ASID. (DESIGN CHOICE: log entry 27) -/
def State.vaWrite (s : State) (die asid who va : Nat) (bs : List Byte) : Got × State :=
  match s.range die asid va bs.length Need.write (.plain bs.length) with
  | (.wait, s) => (.wait, s)
  | (.fault p c l e pa, s) => (.fault p c l e pa, s)
  | (.ok segs, s) =>
    if s.segsBusy segs then (.wait, s) else (.ok [] [], State.segsWrite (asker die asid who) va segs bs s)

/-- A far add of `v` to the 8-byte counter at a virtual address (R148, R185, R245): its old value; a poisoned
counter is unchanged and its word is given back as poisoned (R321). A remote counter's old value comes back over
the fabric. (DESIGN CHOICE: log entry 135) -/
def State.vaAdd (s : State) (die asid who va v : Nat) : Got × State :=
  match s.range die asid va 8 Need.atomic .atomic with
  | (.wait, s) => (.wait, s)
  | (.fault p c l e pa, s) => (.fault p c l e pa, s)
  | (.ok segs, s) =>
    match segs with
    | [(node, pa, _)] =>
      if node = s.fld F.FB_NODE_NODE then
        if s.atomBusy pa 8 then (.wait, s)
        else
          let (bs, ps, s) := s.wordOp pa 8 (· + v)
          (.ok bs ps, s)
      else
        let r : MemReq := .atomic (BitVec.ofNat 64 (node * 2 ^ 48 + pa)) .add true [(BitVec.ofNat 64 v, 0)]
        let ask := asker die asid who
        match s.landedFor ask r with
        | some (.data bs ps) => (.ok bs (ps.map farWord), s.takeLanded ask r)
        | some .done => (.ok [] [], s.takeLanded ask r)
        | some .refused => (.fault (va % 2 ^ 48 / 4096) 0x15 0 0 pa, s.takeLanded ask r)
        | none => (.wait, s.want ask 0 r)
    | _ => (.wait, s)

/-- Send an agent's fault toward the collector (R365); the agent stalls. -/
def State.sendFault (s : State) (f : FaultInfo) : State :=
  ({ s with tu := { s.tu with inFlight := s.tu.inFlight ++ [f] } }).bump C.TU_CNT_FAULTS 1

end Sys2Proof.Machine
end

