-- ==== Sys2Proof/Machine/ArrayOps.lean ====
section
/-!
DEFINITION. ArrayOps.lean: descriptors, group sums, accumulation, the epilogue and completion of the array
(04_matrix_engine.md).
-/

namespace Sys2Proof.Machine

/-- A field of a descriptor or record held as one little-endian number: bits `hi` to `lo` of the dword at byte `off`. -/
def dw (d off hi lo : Nat) : Nat := bits d (8 * off + hi) (8 * off + lo)

/-- The completion record of R592 as a number. -/
def completionRecord (status : Nat) (range : Bool) (tag numeric seq : Nat) : Nat :=
  packBits [(0, 8, status), (8, 1, flag range), (32, 32, tag), (64, 128, numeric), (192, 32, seq)]

/-- Write a completion record and add to a completion counter, by the fields at offsets 48 to 56 (R150, R151, R592). -/
def State.writeCompletion (s : State) (m desc record : Nat) : State :=
  let s := if dw desc 56 0 0 = 1 then s.localRecord m (dw desc 48 31 0 / 32 * 32) (toBytes 32 record) else s
  if dw desc 56 1 1 = 1 then s.localCount m (dw desc 52 31 0 / 8 * 8) else s

/-- The run format of a pairing (R118): 0 FP32, 1 INT32, 2 binary64; none where there is no such pairing. -/
def runFormat (a b : Nat) : Option Nat :=
  if 4 ≤ a ∧ a ≤ 8 ∧ 4 ≤ b ∧ b ≤ 8 then some 0
  else if 9 ≤ a ∧ a ≤ 10 ∧ 9 ≤ b ∧ b ≤ 10 then some 1
  else if a = b ∧ (a = 1 ∨ a = 2 ∨ a = 3) then some 0
  else if a = b ∧ a = 0 then some 2
  else none

/-- k16 of R119, and the factor f. -/
def kStep (a : Nat) : Nat := if 4 ≤ a then 16 else if 2 ≤ a then 8 else 1

/-- Fields of an MMA (R150). -/
def mmaM (d : Nat) : Nat := dw d 8 7 0 + 1
def mmaN (d : Nat) : Nat := dw d 8 15 8 + 1
def mmaG (d : Nat) : Nat := 4 * 2 ^ dw d 0 17 16
def mmaK (d : Nat) : Nat := dw d 12 20 0
def mmaA (d : Nat) : Nat := typeFmt (dw d 4 7 0)
def mmaB (d : Nat) : Nat := typeFmt (dw d 4 15 8)

/-- `rows` rows of `n` elements from `a` on lie wholly in local memory (R120). -/
def rowsInside (a stride rows c n : Nat) : Bool := a + (rows - 1) * stride + rowBytes c n ≤ localTop

/-- `n` bytes from `a` on lie in local memory. -/
def inside (a n : Nat) : Bool := n = 0 || a + n ≤ localTop

/-- Common "must be 0" bits of every descriptor (R150). -/
def commonOk (d : Nat) : Bool :=
  dw d 0 23 18 = 0 && dw d 4 31 24 = 0 && dw d 8 31 16 = 0 && dw d 12 31 21 = 0 && dw d 56 31 2 = 0

/-- Why an MMA completes without running (R94, R118, R122, R150); the lower code first (R591).
(DESIGN CHOICE: log entry 143) -/
def mmaCheck (d : Nat) : Option Nat :=
  let a := mmaA d
  let b := mmaB d
  let (m, n, k) := (mmaM d, mmaN d, mmaK d)
  let ta := dw d 0 12 12 = 1
  let tb := dw d 0 13 13 = 1
  let as := dw d 24 23 0
  let bs := dw d 28 23 0
  let sa := typeSc (dw d 4 7 0)
  let sb := typeSc (dw d 4 15 8)
  let kb := k / 32
  let aIn := if ta then rowsInside (dw d 16 31 0) as k a m else rowsInside (dw d 16 31 0) as m a k
  let bIn := if tb then rowsInside (dw d 20 31 0) bs n b k else rowsInside (dw d 20 31 0) bs k b n
  let asIn := !sa || inside (dw d 32 31 0) ((m - 1) * dw d 40 15 0 + kb)
  let bsIn := !sb || (if tb then inside (dw d 36 31 0) ((n - 1) * dw d 40 31 16 + kb)
    else inside (dw d 36 31 0) ((kb - 1) * dw d 40 31 16 + n))
  if !commonOk d || dw d 24 31 24 ≠ 0 || dw d 28 31 24 ≠ 0 || dw d 44 31 0 ≠ 0 || dw d 0 17 16 = 3 ||
      dw d 0 31 24 < 7 || as % 16 ≠ 0 || bs % 16 ≠ 0 || k = 0 || 1048576 < k || k % mmaG d ≠ 0 ||
      ((sa || sb) && k % 32 ≠ 0) || !aIn || !bIn || !asIn || !bsIn then some St.BAD_DESCRIPTOR
  else if !typeOk (dw d 4 7 0) || !typeOk (dw d 4 15 8) || (runFormat a b).isNone then some St.BAD_FORMAT
  else none

/-- An element of a row in local memory. -/
def State.elemAt (s : State) (m c row n : Nat) : Nat :=
  let (o, b, w) := elemPlace c n
  s.localNat m (row + o) w / 2 ^ b % 2 ^ elemBits c

/-- A subnormal FP32 or FP64 input is flushed to a zero of its sign (R109). -/
def flushInput (c : Nat) (x : Num) : Num × Bool :=
  match fmtOf c, x with
  | some f, .fin neg m e =>
    if (c = 0 ∨ c = 1) ∧ m ≠ 0 ∧ floorLog2 m e < f.emin then (.fin neg 0 0, true) else (x, false)
  | _, _ => (x, false)

/-- An operand element as the multipliers see it, through the expander (R97, R109, R123). -/
def operand (c code : Nat) : Num × Bool :=
  let (code', c') := expand c code
  flushInput c (elemDecode c' code')

/-- Element (i, k) of A (R120). -/
def State.aElem (s : State) (m d i k : Nat) : Num × Bool :=
  let st := dw d 24 23 0
  let c := mmaA d
  operand c (if dw d 0 12 12 = 1 then s.elemAt m c (dw d 16 31 0 + k * st) i else s.elemAt m c (dw d 16 31 0 + i * st) k)

/-- Element (k, j) of B (R120). -/
def State.bElem (s : State) (m d k j : Nat) : Num × Bool :=
  let st := dw d 28 23 0
  let c := mmaB d
  operand c (if dw d 0 13 13 = 1 then s.elemAt m c (dw d 20 31 0 + j * st) k else s.elemAt m c (dw d 20 31 0 + k * st) j)

/-- Scale codes of A's row i and B's column j at block kb (R121). -/
def State.aScale (s : State) (m d i kb : Nat) : Nat :=
  if typeSc (dw d 4 7 0) then s.localNat m (dw d 32 31 0 + i * dw d 40 15 0 + kb) 1 else 127
def State.bScale (s : State) (m d j kb : Nat) : Nat :=
  if typeSc (dw d 4 15 8) then
    if dw d 0 13 13 = 1 then s.localNat m (dw d 36 31 0 + j * dw d 40 31 16 + kb) 1
    else s.localNat m (dw d 36 31 0 + kb * dw d 40 31 16 + j) 1
  else 127

/-- The signed sum of truncated products (R125). -/
def truncSum (q : Int) : List Num → Int
  | [] => 0
  | .fin neg m e :: ps => (if neg then -((truncAt m e q : Nat) : Int) else ((truncAt m e q : Nat) : Int)) + truncSum q ps
  | _ :: ps => truncSum q ps

/-- group_sum of R125: the exact truncated sum, before its one rounding; none stands for a special result given beside it. -/
def groupSum (mbits : Nat) (ps : List Num) : Num :=
  if ps.any Num.isNan || (ps.any (· = .inf false) && ps.any (· = .inf true)) then .nan
  else match ps.find? Num.isInf with
    | some x => x
    | none =>
      let logs := ps.filterMap fun p => match p with
        | .fin _ m e => if m = 0 then none else some (floorLog2 m e)
        | _ => none
      match logs with
      | [] => .fin (ps.all Num.sign) 0 0
      | l :: ls =>
        let q := ls.foldl max l - mbits - 3
        let t := truncSum q ps
        .fin (t < 0) t.natAbs q

/-- What a cell counts: the greater of the marks 0 none, 1 flushed, 2 saturated (R131). -/
def countMark : Count → Nat
  | .sat => 2
  | .flush => 1
  | _ => 0

/-- Round an accumulation into a float format with its mark. -/
def accRound (f : Fmt) (x : Num) : Nat × Nat :=
  let (c, k) := f.round true x
  -- an infinity that was one already counts nothing
  (c, if x.isFin then countMark k else 0)

/-- The run's float format. -/
def runFmt (rf : Nat) : Fmt := if rf = 2 then fmtFp64 else fmtFp32

/-- The value of a run cell under a RUN_FMT (R133). -/
def runValue (rf v : Nat) : Num :=
  if rf = 2 then fmtFp64.decode v else if rf = 1 then Num.ofInt (signed 32 v) else fmtFp32.decode (v % 2 ^ 32)

/-- One group's addition into one cell's run (R125 to R127): the new run and the cell's mark. -/
def State.groupCell (s : State) (m d rf n i j run : Nat) : Nat × Nat :=
  let g := mmaG d
  let ks := (List.range g).map (n * g + ·)
  let ps := ks.map fun k => (s.aElem m d i k).1.mul (s.bElem m d k j).1
  if rf = 1 then
    let t := signed 32 run + truncSum 0 ps
    let c := clampInt t (-2147483648) 2147483647
    (unsigned 32 c, if c = t then 0 else 2)
  else
    let f := runFmt rf
    let kb := n * g / 32
    let sa := s.aScale m d i kb
    let sb := s.bScale m d j kb
    let (code, k1) := accRound f (groupSum f.mbits ps)
    let gs := if sa = 255 || sb = 255 then Num.nan else (f.decode code).scale ((sa : Int) + sb - 254)
    let (r, k2) := accRound f ((runValue rf run).add gs)
    (r, max k1 k2)

/-- Number of flushed inputs that group `n` reads (R110). -/
def State.groupFlushed (s : State) (m d n : Nat) : Nat :=
  let g := mmaG d
  let ks := (List.range g).map (n * g + ·)
  let a := (List.range (mmaM d)).map fun i => (ks.filter fun k => (s.aElem m d i k).2).length
  let b := (List.range (mmaN d)).map fun j => (ks.filter fun k => (s.bElem m d k j).2).length
  a.sum + b.sum

/-- Mark a cell. -/
def markCell (cells : Sparse Nat) (c k : Nat) : Sparse Nat := if k = 0 then cells else Sparse.set 0 cells c (max k (Sparse.get 0 cells c))

/-- The cells of an M × N region. -/
def regionCells (m n : Nat) : List (Nat × Nat) := (List.range m).flatMap fun i => (List.range n).map fun j => (i, j)

/-- Promote one cell: total + run into binary64 (R128). -/
def promoteCell (rf : Nat) (acc : AccSet) (c : Nat) : Nat × Nat :=
  accRound fmtFp64 ((fmtFp64.decode (Sparse.get 0 acc.total c)).add (runValue rf (Sparse.get 0 acc.run c)))

/-- Promote every cell of a set (R128, R130), with the cells' marks; unlisted cells are +0 + +0. -/
def promoteAll (rf : Nat) (acc : AccSet) (cells : Sparse Nat) : AccSet × Sparse Nat :=
  let keys := (acc.run.map Prod.fst ++ acc.total.map Prod.fst).eraseDups
  let r := keys.foldl (fun (t, ck) c =>
    let (v, k) := promoteCell rf acc c
    (Sparse.set 0 t c v, markCell ck c k)) (acc.total, cells)
  ({ run := [], total := r.1 }, r.2)

/-- The set's RUN_FMT and GCNT (R128, R129). -/
def State.accFmt (s : State) (m k : Nat) : Nat := s.fld (F.MX_ACCSTATE_RUN_FMT m k)
def State.gcnt (s : State) (m k : Nat) : Nat := s.fld (F.MX_ACCSTATE_GCNT m k)

/-- Promote the whole set of a job. (DESIGN CHOICE: log entry 31) -/
def State.promoteSet (s : State) (m : Nat) (j : ArrayJob) : ArrayJob × State :=
  let k := bits j.desc 9 8
  let (acc, cells) := promoteAll (s.accFmt m k) ((s.array m).set k) j.cells
  ({ j with cells := cells, due := false },
    ((s.setAcc m k acc).setFld (F.MX_ACCSTATE_GCNT m k) 0).bump (C.MX_CNT_PROMOTIONS m) 1)

/-- Show the array's state in MX_STATUS and PENDING. -/
def State.showArray (s : State) (m : Nat) : State :=
  let a := s.array m
  let jobs := a.queue ++ a.prod.toList ++ a.drain.toList
  let s := s.setFlds [(F.MX_STATUS_QDEPTH m, a.queue.length), (F.MX_STATUS_BUSY_PROD m, flag a.prod.isSome),
    (F.MX_STATUS_BUSY_DRAIN m, flag a.drain.isSome), (F.MX_STATUS_FAULT_WAIT m, flag (jobs.any (·.stalled)))]
  s.setFlds ((List.range 4).map fun k => (F.MX_ACCSTATE_PENDING m k, flag (jobs.any fun j => bits j.desc 9 8 = k)))

/-- The unit that runs a descriptor: DRAIN, SAVE and RESTORE on the drain unit, every other OP on the product unit. -/
def jobUnit (d : Nat) : ArrayUnit := if dw d 0 7 0 = 2 ∨ dw d 0 7 0 = 5 ∨ dw d 0 7 0 = 6 then .drain else .product

/-- The job a unit runs. -/
def ArrayUnits.unit (a : ArrayUnits) : ArrayUnit → Option ArrayJob
  | .product => a.prod
  | .drain => a.drain

def ArrayUnits.setUnit (a : ArrayUnits) (u : ArrayUnit) (j : Option ArrayJob) : ArrayUnits :=
  match u with
  | .product => { a with prod := j }
  | .drain => { a with drain := j }

/-- A job still holds its set: it has not finished with it (R136). -/
def holdsSet (k : Nat) (j : ArrayJob) : Bool := bits j.desc 9 8 = k && j.status.isNone

/-- The word that a read of MX_ACCSTATEs of set `k` returns (R152). -/
def State.accState (s : State) (m k : Nat) : Nat :=
  packBits [(0, 2, s.fld (F.MX_ACCSTATE_RUN_FMT m k)), (2, 1, s.fld (F.MX_ACCSTATE_PENDING m k)), (8, 8, s.gcnt m k)]

/-- Write MX_ACCSTATEs of set `k` (R152): RUN_FMT 3 leaves RUN_FMT as it is. -/
def State.putAccState (s : State) (m k v : Nat) : State :=
  let s := s.setFld (F.MX_ACCSTATE_GCNT m k) (bits v 15 8)
  if bits v 1 0 = 3 then s else s.setFld (F.MX_ACCSTATE_RUN_FMT m k) (bits v 1 0)

/-- The first set of a waiting access, and its sets. -/
def AccWait.first (w : AccWait) : Nat := (w.addr % 0x20 - 0x10) / 4
def AccWait.sets (w : AccWait) : List Nat := if w.wide then [w.first, w.first + 1] else [w.first]

/-- Perform an access of MX_ACCSTATEs: a write sets it, a read is answered by REG_RSP (R386). -/
def State.accAccess (s : State) (m : Nat) (w : AccWait) : State :=
  match w.value with
  | some v => s.putAccState m w.first v.toNat
  | none =>
    let v := s.accState m w.first + if w.wide then s.accState m (w.first + 1) * 2 ^ 32 else 0
    s.sendFrom m 48 (regPayload 0x03 m w.addr w.wide v)

/-- An access of MX_ACCSTATEs is performed, or waits for the descriptors accepted before it (R134, R152). -/
def State.accTry (s : State) (m addr : Nat) (wide : Bool) (value : Option (BitVec 32)) : State :=
  let a := s.array m
  let w : AccWait := ⟨addr, wide, value, a.accepted⟩
  if w.sets.any fun k => a.earlier k w.before then s.setArray m { a with waits := a.waits ++ [w] } else s.accAccess m w

/-- The waiting accesses whose descriptors have completed are performed, in order (R134). -/
def State.accTurn (s : State) (m : Nat) : State :=
  let a := s.array m
  let held := fun (w : AccWait) => w.sets.any fun k => a.earlier k w.before
  (a.waits.filter fun w => !held w).foldl (fun s w => s.accAccess m w) (s.setArray m { a with waits := a.waits.filter held })

/-- An access's place lies in a plane of set `k` of motif `m`. -/
def Spot.inSet (m k : Nat) : Spot → Bool
  | .loc m' p => m' = m && decide (localTop ≤ p) && (planeCell p).1 = k
  | _ => false

/-- A waiting load or store of a thread to set `k`, or the running vector engine descriptor, or a waiting register access, goes
before the descriptor accepted as the `seq`-th (R134, R161). -/
def State.accessBefore (s : State) (m k seq : Nat) : Bool :=
  (s.array m).waits.any (fun w => w.sets.contains k && decide (w.before ≤ seq)) ||
    ((s.vec m).run.map fun j => j.status.isNone && j.sets.contains k && decide (j.before ≤ seq)).getD false ||
    s.needles.any fun nd => nd.2.groups.any fun g => (g.2.bind (·.mem)).any fun op =>
      op.accs.any (fun a => a.spot.inSet m k) && op.planes.any fun x => x.1 = m && x.2.1 = k && decide (x.2.2 ≤ seq)

/-- The next descriptor a unit may start (R136): its first in queue order, if no earlier one names its set. -/
def ArrayUnits.startable (a : ArrayUnits) (u : ArrayUnit) : Option ArrayJob :=
  match a.queue.find? (fun j => jobUnit j.desc = u) with
  | none => none
  | some j =>
    let k := bits j.desc 9 8
    let before := a.queue.takeWhile (· ≠ j)
    if before.any (holdsSet k) || (a.prod.toList ++ a.drain.toList).any (holdsSet k) then none else some j

/-- The descriptor that a unit may start: no earlier access to its set waits (R134). -/
def State.startable (s : State) (m : Nat) (u : ArrayUnit) : Option ArrayJob :=
  ((s.array m).startable u).filter fun j => !s.accessBefore m (bits j.desc 9 8) j.seq

/-- Add input to the queue of 32 (R136, R150). -/
def State.arrayAccept (s : State) (m desc asid : Nat) (fromList : Bool) : State :=
  let a := s.array m
  let j : ArrayJob := { seq := a.accepted, desc := desc, fromList := fromList, asid := asid, group := 0, due := false,
                        stat := NumStat.zero, cells := [], status := none, ran := false, ctrDue := false, stalled := false }
  (s.setArray m { a with queue := a.queue ++ [j], accepted := a.accepted + 1 }).showArray m

/-- Why a DRAIN completes without running (R94, R141, R143, R145, R150), given the table's word (R142).
(DESIGN CHOICE: log entries 31, 143) -/
def drainCheck (d tableWord : Nat) : Option Nat :=
  let (m, n) := (mmaM d, mmaN d)
  let (sm, bm, act, red) := (dw d 24 1 0, dw d 24 3 2, dw d 24 11 8, dw d 24 14 12)
  let w := if dw d 24 4 4 = 1 then 8 else 4
  let count := fun mode => if mode = 0 then 0 else if mode = 1 then 1 else if mode = 2 then n else m
  let actBytes := if act = 2 then 4 else if act = 3 then 16 else if act = 9 then 1036 else 0
  let r := if red = 1 ∨ red = 2 then m else n
  let c := typeFmt (dw d 4 23 16)
  let st := dw d 20 23 0
  let only := dw d 24 15 15 = 1
  if !commonOk d || dw d 20 31 24 ≠ 0 || dw d 24 7 5 ≠ 0 || dw d 24 31 16 ≠ 0 || 9 < act || 5 ≤ red ||
      st % 16 ≠ 0 || (!only && !rowsInside (dw d 16 31 0) st m c n) ||
      !inside (dw d 28 31 0) (count sm * w) || !inside (dw d 32 31 0) (count bm * w) ||
      !inside (dw d 36 31 0) actBytes || (red ≠ 0 && !inside (dw d 40 31 0) (2048 + 4 * r)) ||
      (red ≠ 0 && !inside (dw d 40 31 0) (8 * r)) || (act = 9 && tableWord / 256 ≠ 0) then some St.BAD_DESCRIPTOR
  else if !typeOk (dw d 4 23 16) || typeSc (dw d 4 23 16) then some St.BAD_FORMAT
  else none

/-- A parameter of the epilogue (R140). -/
def State.drainParam (s : State) (m d mode addr i j : Nat) : Num :=
  let wide := dw d 24 4 4 = 1
  let w := if wide then 8 else 4
  let n := if mode = 1 then 0 else if mode = 2 then j else i
  let v := s.localNat m (addr + n * w) w
  if wide then fmtFp64.decode v else fmtFp32.decode v

/-- The limits of the FP32 functions at an infinity (R141). -/
def actLimit (act : Nat) (neg : Bool) : Nat :=
  if act = 4 ∨ act = 5 then (if neg then 0x80000000 else 0x7F800000)
  else if act = 6 then (if neg then 0 else 0x3F800000)
  else if act = 7 then (if neg then 0xBF800000 else 0x3F800000)
  else (if neg then 0 else 0x7F800000)

/-- The table of R142 at an FP32 value, before its last rounding; `wrap` reduces t modulo 256 first (R172). Whether an input lies
beyond an end is read from t. (DEDUCED: log entry 142) -/
def State.tableExact (s : State) (m addr : Nat) (wrap : Bool) (x : Num) : Num :=
  let y := fun i => fmtFp32.decode (s.localNat m (addr + 8 + 4 * i) 4)
  let lg := signed 8 (s.localNat m (addr + 4) 1)
  let inner := fun (t : Num) (i : Nat) =>
    let f := t.add (Num.ofInt (-(i : Int)))
    let dlt := round32 ((y (i + 1)).add (y i).neg)
    (f.mul dlt).add (y i)
  match (round32 (x.add (fmtFp32.decode (s.localNat m addr 4)).neg)).scale (-lg) with
  | .nan => .nan
  | .inf neg => if wrap then .nan else if neg then y 0 else y 256
  | .fin neg tm te =>
    if wrap then
      let q := min te 0
      let v := scaledInt neg tm te q
      let p : Int := ((256 * 2 ^ (-q).toNat : Nat) : Int)
      let r := v - p * (v.fdiv p)
      inner (.fin false r.natAbs q) (truncAt r.natAbs q 0)
    else if neg && tm ≠ 0 then y 0
    else if (Num.ofInt 256).lt (.fin neg tm te) then y 256
    else inner (.fin neg tm te) (min 255 (truncAt tm te 0))

/-- Round into FP32 with the count; a value that is not finite counts nothing (R141). -/
def round32Count (x : Num) : Num × Count :=
  let (c, k) := fmtFp32.round true x
  (fmtFp32.decode c, if x.isFin then k else .none)

/-- The function of R165 that an activation is (R141). -/
def actFunction (act : Nat) : Nat :=
  if act = 4 then 0x16 else if act = 5 then 0x17 else if act = 6 then 0x15 else if act = 7 then 0x14 else 0x10

/-- Stage 3 (R141): the activation's value and count. -/
def State.activate (s : State) (m d act : Nat) (v : Num) : Num × Count :=
  let addr := dw d 36 31 0
  if act = 0 then (v, .none)
  else if act = 1 then (if v.isNan then .nan else v.maxOf (.fin false 0 0), .none)
  else if act = 2 then
    if v.isNan then (.nan, .none)
    else if v.lt (.fin false 0 0) then
      let x := v.mul (fmtFp32.decode (s.localNat m addr 4))
      let (c, k) := fmtFp64.round true x
      (fmtFp64.decode c, if x.isFin then k else .none)
    else (v, .none)
  else if act = 3 then
    ((v.maxOf (fmtFp64.decode (s.localNat m addr 8))).minOf (fmtFp64.decode (s.localNat m (addr + 8) 8)), .none)
  else
    let (x, k) := round32Count v
    let c := (fmtFp32.round true v).1
    let r : Num × Count :=
      if act = 9 then round32Count (s.tableExact m addr false x)
      else match x with
        | .nan => (.nan, .none)
        | .inf neg => (fmtFp32.decode (actLimit act neg), .none)
        | .fin _ _ _ => freeCount fmtFp32 (actFunction act) c
    (r.1, if k = .none then r.2 else k)

/-- One cell through the epilogue (R139): stage-0 code, stage-3 value, output code and its count.
(DESIGN CHOICE: log entry 31) -/
def State.drainCell (s : State) (m d rf : Nat) (acc : AccSet) (i j : Nat) : Nat × Num × Nat × Count :=
  let (c0, k0) := promoteCell rf acc (i * 256 + j)
  let v0 := fmtFp64.decode c0
  let v1 := if dw d 24 1 0 = 0 then v0 else round64 (v0.mul (s.drainParam m d (dw d 24 1 0) (dw d 28 31 0) i j))
  let v2 := if dw d 24 3 2 = 0 then v1 else round64 (v1.add (s.drainParam m d (dw d 24 3 2) (dw d 32 31 0) i j))
  let (v3, k3) := s.activate m d (dw d 24 11 8) v2
  let t := dw d 4 23 16
  let (c4, k4) := elemEncode (typeFmt t) (typeOvf t) v3
  let only := dw d 24 15 15 = 1
  let k0' : Count := if k0 = 2 then .sat else if k0 = 1 then .flush else .none
  (c0, v3, c4, if k0' ≠ .none then k0' else if k3 ≠ .none then k3 else if only then .none else k4)

/-- Pack element codes of a row into bytes (R95); padding bits are 0. -/
def packRow (c : Nat) (codes : List Nat) : List Byte :=
  let w := elemBits c
  let v := (codes.zipIdx).foldl (fun v (x, i) => v + x % 2 ^ w * 2 ^ (w * i)) 0
  toBytes (rowBytes c codes.length) v

/-- Candidate `x` beats `y` in a reduction (R145): NaN first, then the greater or lesser, +0 above −0. -/
def redBeats (isMax : Bool) (x y : Num) : Bool :=
  if y.isNan then false
  else if x.isNan then true
  else
    let lt := fun (a b : Num) => a.lt b || (a.isZero && b.isZero && a.sign && !b.sign)
    if isMax then lt y x else lt x y

/-- The winner of a list and its index, the lowest among equals. -/
def redWinner (isMax : Bool) (xs : List Num) : Num × Nat :=
  match xs with
  | [] => (.nan, 0)
  | x :: rest => (rest.zipIdx 1).foldl (fun (b, bi) (v, i) => if redBeats isMax v b then (v, i) else (b, bi)) (x, 0)

/-- Run a DRAIN (R139 to R145): the set is left promoted (R130), and with CLR its region at +0.
(DESIGN CHOICE: log entry 31; DEDUCED: log entry 146) -/
def State.runDrain (s : State) (m : Nat) (j : ArrayJob) : ArrayJob × State :=
  let d := j.desc
  let k := bits d 9 8
  let (mm, nn) := (mmaM d, mmaN d)
  let rf := s.accFmt m k
  let acc := (s.array m).set k
  let rows := (List.range mm).map fun i => (List.range nn).map fun jj => s.drainCell m d rf acc i jj
  let stat := rows.foldl (fun st r => r.foldl (fun st c => st.add c.2.2.2) st) NumStat.zero
  let kept := (promoteAll rf acc []).1
  let acc' := if dw d 0 14 14 = 0 then kept
    else { kept with total := (regionCells mm nn).foldl (fun t c => Sparse.set 0 t (c.1 * 256 + c.2) 0) kept.total }
  let red := dw d 24 14 12
  let only := dw d 24 15 15 = 1
  let s := ((s.setAcc m k acc').setFld (F.MX_ACCSTATE_GCNT m k) 0).bump (C.MX_CNT_PROMOTIONS m) 1
  let c := typeFmt (dw d 4 23 16)
  let s := if only then s else (rows.zipIdx).foldl (fun s (r, i) =>
    s.localWrite m (dw d 16 31 0 + i * dw d 20 23 0) (packRow c (r.map fun x => x.2.2.1))) s
  let s := if only then s
    else s.countConflicts m 16 ((List.range mm).flatMap fun i => linesOf (dw d 16 31 0 + i * dw d 20 23 0) (rowBytes c nn))
  let vals := rows.map fun r => r.map fun x => x.2.1
  let lists := if red = 1 ∨ red = 2 then vals else (List.range nn).map fun jj => vals.map fun r => r.getD jj .nan
  let s := if red = 0 then s else (lists.zipIdx).foldl (fun s (xs, n) =>
    let (v, ix) := redWinner (red = 1 || red = 3) xs
    (s.localWrite m (dw d 40 31 0 + 8 * n) (toBytes 8 (fmtFp64.round true v).1)).localWrite m
      (dw d 40 31 0 + 2048 + 4 * n) (toBytes 4 (dw d 44 31 0 + ix))) s
  ({ j with stat := stat, status := some St.OK, ran := true }, s)

/-- Group adds until the set is due for promotion or the descriptor's last group is in (R127, R128); `k` bounds them. -/
def State.runGroups (m : Nat) : Nat → ArrayJob → State → ArrayJob × State
  | 0, j, s => (j, s)
  | k + 1, j, s =>
    let d := j.desc
    let set := bits d 9 8
    if mmaK d / mmaG d ≤ j.group then (j, s)
    else
      let rf := s.accFmt m set
      let acc := (s.array m).set set
      let (run, cells) := (regionCells (mmaM d) (mmaN d)).foldl (fun (r, ck) (i, jj) =>
        let c := i * 256 + jj
        let (v, mark) := s.groupCell m d rf j.group i jj (Sparse.get 0 acc.run c)
        (Sparse.set 0 r c v, markCell ck c mark)) (acc.run, j.cells)
      let fl := s.groupFlushed m d j.group
      let s := (s.setAcc m set { acc with run := run }).bump (C.MX_CNT_FLUSHED_INPUTS m) fl
      let j := { j with group := j.group + 1, cells := cells, stat := { j.stat with flush := j.stat.flush + fl } }
      let g := s.gcnt m set
      if dw d 0 31 24 ≤ g then ({ j with due := true }, s)
      else State.runGroups m k j (s.setFld (F.MX_ACCSTATE_GCNT m set) (g + 1))

/-- After the groups: END_PROMOTE, and the descriptor has finished with its set (R128). -/
def State.finishMma (s : State) (m : Nat) (j : ArrayJob) : ArrayJob × State :=
  if j.due || j.group < mmaK j.desc / mmaG j.desc then (j, s)
  else
    let (j, s) := if dw j.desc 0 11 11 = 1 && s.gcnt m (bits j.desc 9 8) ≠ 0 then s.promoteSet m j else (j, s)
    ({ j with status := some St.OK }, s)

/-- Start an MMA: clear its region, or promote a set of another run format first (R129). -/
def State.startMma (s : State) (m : Nat) (j : ArrayJob) : ArrayJob × State :=
  let d := j.desc
  let set := bits d 9 8
  let rf := (runFormat (mmaA d) (mmaB d)).getD 0
  let j := { j with ran := true }
  if dw d 0 10 10 = 0 then
    let acc := (s.array m).set set
    let acc' := (regionCells (mmaM d) (mmaN d)).foldl (fun (a : AccSet) (i, jj) =>
      { run := Sparse.set 0 a.run (i * 256 + jj) 0, total := Sparse.set 0 a.total (i * 256 + jj) 0 }) acc
    (j, (s.setAcc m set acc').setFlds [(F.MX_ACCSTATE_GCNT m set, 0), (F.MX_ACCSTATE_RUN_FMT m set, rf)])
  else if s.accFmt m set ≠ rf then
    let (j, s) := s.promoteSet m j
    (j, s.setFld (F.MX_ACCSTATE_RUN_FMT m set) rf)
  else (j, s)

/-- Put a job into its unit, out of the queue. -/
def State.takeJob (s : State) (m : Nat) (u : ArrayUnit) (old new : ArrayJob) : State :=
  let a := s.array m
  (s.setArray m ({ a with queue := a.queue.erase old }.setUnit u (some new))).showArray m

/-- Replace a unit's job. -/
def State.putJob (s : State) (m : Nat) (u : ArrayUnit) (j : Option ArrayJob) : State :=
  (s.setArray m ((s.array m).setUnit u j)).showArray m

/-- Addresses and record of SAVE and RESTORE (R146, R150). -/
def recAddr (d : Nat) : Nat := dw d 16 31 0 + dw d 20 15 0 * 2 ^ 32
def recBytes : Nat := 0x100040

/-- Why a SAVE or RESTORE completes without running (R146, R150). -/
def saveCheck (d : Nat) : Option Nat :=
  if !commonOk d || dw d 20 31 16 ≠ 0 || dw d 32 31 16 ≠ 0 || dw d 36 31 0 ≠ 0 || dw d 40 31 0 ≠ 0 || dw d 44 31 0 ≠ 0 ||
      recAddr d % 4096 ≠ 0 then some St.BAD_DESCRIPTOR
  else none

/-- A plane as bytes. -/
def planeBytes (p : Sparse Nat) : List Byte := (List.range 65536).flatMap fun c => toBytes 8 (Sparse.get 0 p c)

/-- A SAVE's record (R146): of a run cell bytes 4 to 7 read 0 unless RUN_FMT is binary64 (R133). -/
def State.saveRecord (s : State) (m d : Nat) : List Byte :=
  let k := bits d 9 8
  let acc := (s.array m).set k
  planeBytes (if s.accFmt m k = 2 then acc.run else acc.run.map fun (c, v) => (c, v % 2 ^ 32)) ++ planeBytes acc.total ++
    toBytes 64 (packBits [(0, 8, 1), (8, 2, s.accFmt m k), (16, 8, s.gcnt m k), (32, 16, dw d 24 15 0),
      (48, 16, dw d 24 31 16), (64, 32, dw d 60 31 0)])

/-- A plane from its bytes. -/
def planeOf (bs : List Byte) : Sparse Nat :=
  ((chunks 8 65536 bs).zipIdx).filterMap fun (c, i) => if ofBytes c = 0 then none else some (i, ofBytes c)

/-- The fault an array's access meets (R364, R367): `sub` 0 record, 1 P_CTR. -/
def State.arrayFault (s : State) (m : Nat) (j : ArrayJob) (sub access page cause level pte pa : Nat) : State :=
  s.sendFault { agent := ⟨m, 0, sub⟩, asid := j.asid, page := page, cause := cause, level := level, access := access,
                sub := sub, tag := dw j.desc 60 31 0, pte := pte, pa := pa, time := s.now, context := j.desc }

/-- The numeric block of a finished descriptor (R131, R139). -/
def ArrayJob.numeric (j : ArrayJob) : NumStat :=
  if j.ran then
    { sat := j.stat.sat + (j.cells.filter fun c => c.2 = 2).length
      flush := j.stat.flush + (j.cells.filter fun c => c.2 = 1).length
      invalid := j.stat.invalid }
  else NumStat.zero

/-- fclk in which K-steps of a descriptor entered the pipeline (R119). (DESIGN CHOICE: log entry 44) -/
def mmaFclk (d : Nat) : Nat :=
  ceilDiv (mmaM d) 64 * ceilDiv (mmaN d) 64 * ceilDiv (mmaK d) (kStep (mmaA d)) * (if mmaA d = 0 then 4 else 1)

/-- Complete a descriptor: record, counter, sticky bits and counters (R151, R153). -/
def State.completeArray (s : State) (m : Nat) (j : ArrayJob) (st : Nat) : State :=
  let n := j.numeric
  let s := s.writeCompletion m j.desc (completionRecord st false (dw j.desc 60 31 0) n.block 0)
  let s := s.bump (C.MX_CNT_DESC_DONE m) 1
  let s := if dw j.desc 0 7 0 = 1 && j.ran then s.bump (C.MX_CNT_PROD_FCLK m) (mmaFclk j.desc) else s
  s.setFlds ((if n.sat = 0 then [] else [(F.MX_STICKY_SAT_SEEN m, 1)]) ++
    (if n.flush = 0 then [] else [(F.MX_STICKY_FLUSH_SEEN m, 1)]) ++
    (if n.invalid = 0 then [] else [(F.MX_STICKY_INVALID_SEEN m, 1)]) ++
    (if st = St.BAD_DESCRIPTOR ∨ st = St.BAD_FORMAT then [(F.MX_STICKY_BAD_SEEN m, 1)] else []))

/-- Why a descriptor completes without running, by its OP: only the type bytes that its OP uses are held to R94.
(DESIGN CHOICE: log entry 143) -/
def State.arrayCheck (s : State) (m d : Nat) : Option Nat :=
  let op := dw d 0 7 0
  if op = 1 then mmaCheck d
  else if op = 2 then
    let a := dw d 36 31 0
    drainCheck d (if dw d 24 11 8 = 9 && inside a 1036 then s.localNat m (a + 4) 4 else 0)
  else if op = 3 ∨ op = 4 then (if commonOk d then none else some St.BAD_DESCRIPTOR)
  else if op = 5 ∨ op = 6 then saveCheck d
  else some St.BAD_DESCRIPTOR

/-- Clear all four sets (R135). (DESIGN CHOICE: log entry 145) -/
def State.clearAccs (s : State) (m : Nat) : State :=
  let s := s.setArray m { s.array m with sets := [] }
  s.setFlds ((List.range 4).flatMap fun k => [(F.MX_ACCSTATE_GCNT m k, 0), (F.MX_ACCSTATE_RUN_FMT m k, 0)])

end Sys2Proof.Machine
end

