-- ==== Sys2Proof/Machine/VectorOps.lean ====
section
/-!
DEFINITION. VectorOps.lean: descriptors, streams, element programs, reductions and lane groups of the vector
engine (05_vector_engine.md).
-/

namespace Sys2Proof.Machine


/-! ### The descriptor (R190) -/

def veOp (d : Nat) : Nat := dw d 0 7 0
def veCt (d : Nat) : Nat := dw d 0 9 8
/-- Stream `k` (S0 to S2, D0, D1 as 0 to 4) is enabled. -/
def veEn (d k : Nat) : Bool := dw d 0 (10 + k) (10 + k) = 1
def veNprog (d : Nat) : Nat := dw d 0 30 24
/-- Extent `k` (R154). -/
def veExt (d k : Nat) : Nat :=
  if k = 0 then dw d 4 31 0 else if k = 1 then dw d 8 15 0 else if k = 2 then dw d 8 31 16
  else if k = 3 then dw d 12 15 0 else dw d 12 31 16
def veRedDims (d : Nat) : Nat := dw d 28 8 4
def veRedOp (d : Nat) : Nat := dw d 28 2 0

/-- A stream block. -/
structure VeStream where
  addr : Nat
  type : Nat
  virt : Bool
  str0 : Int
  strs : List Int
  soff : Nat
  deriving DecidableEq, Repr

/-- Stream block `k` of a descriptor (R190). -/
def veStream (d k : Nat) : VeStream :=
  let o := 0x40 + 0x20 * k
  { addr := dw d o 31 0 + dw d (o + 4) 15 0 * 2 ^ 32
    type := dw d (o + 4) 23 16
    virt := dw d (o + 4) 31 31 = 1
    str0 := signed 16 (dw d (o + 8) 15 0)
    strs := [signed 32 (dw d (o + 12) 31 0), signed 32 (dw d (o + 16) 31 0), signed 32 (dw d (o + 20) 31 0),
             signed 32 (dw d (o + 24) 31 0)]
    soff := dw d (o + 28) 31 0 }

/-- The carried indices of MAXIDX and MINIDX, the indices of GATHER, and D1 of MAXIDX and MINIDX (R162). -/
def isIndex (d k : Nat) : Bool :=
  let idx := veOp d = 0x11 && (veRedOp d = 3 || veRedOp d = 4)
  (k = 1 && (veOp d = 0x12 || idx)) || (k = 4 && idx)

/-- Format of a stream's elements: 1 (4 bytes) for an index stream. -/
def veFmt (d k : Nat) : Nat := if isIndex d k then 1 else typeFmt (veStream d k).type

/-- Bits and bytes of a stream's element. -/
def veBits (d k : Nat) : Nat := elemBits (veFmt d k)
def veBytes (d k : Nat) : Nat := veBits d k / 8
def vePacked (d k : Nat) : Bool := veBits d k = 4 || veBits d k = 6

/-- Extent of dimension `j` as stream `k` uses it: S0 of GATHER reaches every index below IDX_LIMIT, D0 of PACK is
NWAY times as long and S0 of UNPACK twice (R173, R176). (DEDUCED: log entry 147) -/
def veReach (d k j : Nat) : Nat :=
  if veOp d = 0x12 ∧ k = 0 ∧ (if dw d 0 18 18 = 1 then j = 0 else j = 1) then dw d 28 31 0
  else if veOp d = 0x14 ∧ k = 3 ∧ j = 0 then dw d 28 1 0 * veExt d 0
  else if veOp d = 0x15 ∧ k = 0 ∧ j = 0 then 2 * veExt d 0
  else veExt d j

/-- Sum of the lowest, or highest, terms that strides reach over extents. -/
def reachSum (hi : Bool) : List (Int × Nat) → Int
  | [] => 0
  | (st, e) :: rest =>
    let t := st * ((e : Int) - 1)
    (if hi then max 0 t else min 0 t) + reachSum hi rest

/-- Lowest byte and end of a stream's data (R159). -/
def veRange (d k : Nat) : Int × Int :=
  let x := veStream d k
  let outer := x.strs.zip ((List.range 4).map fun j => veReach d k (j + 1))
  let n0 := veReach d k 0
  if veOp d = 0x16 ∧ k = 0 then
    ((x.addr : Int) + reachSum false [(x.strs.headD 0, dw d 28 15 0)],
     (x.addr : Int) + reachSum true [(x.strs.headD 0, dw d 28 15 0)] + recBytes)
  else
    let b : Int := (veBytes d k : Nat)
    let lo := (if vePacked d k then 0 else reachSum false [(x.str0 * b, n0)]) + reachSum false outer
    let hi := if vePacked d k then ((rowBytes (veFmt d k) (if x.str0 = 0 then 1 else n0) : Nat) : Int)
      else reachSum true [(x.str0 * b, n0)] + b
    ((x.addr : Int) + lo, (x.addr : Int) + hi + reachSum true outer)

/-- First byte and end of a stream's block scales (R157); empty without SC. (DESIGN CHOICE: log entry 40) -/
def veScaleRange (d k : Nat) : Int × Int :=
  let x := veStream d k
  let top := (veReach d k 1 - 1) + veExt d 1 * ((veExt d 2 - 1) + veExt d 2 * ((veExt d 3 - 1) + veExt d 3 * (veExt d 4 - 1)))
  let a : Int := ((x.addr + x.soff : Nat) : Int)
  if typeSc x.type && !isIndex d k then
    (a, a + ((top * ceilDiv (veExt d 0) 32 + (veReach d k 0 - 1) / 32 + 1 : Nat) : Int))
  else (0, 0)

/-- Enabled sources, and destinations. -/
def veSources (d : Nat) : List Nat := [0, 1, 2].filter (veEn d)
def veDests (d : Nat) : List Nat := [3, 4].filter (veEn d)

/-! ### Micro-ops (R164 to R166) -/

def mopOpc (w : Nat) : Nat := bits w 5 0
def mopDst (w : Nat) : Nat := bits w 10 6
def mopA (w : Nat) : Nat := bits w 15 11
def mopB (w : Nat) : Nat := bits w 20 16
def mopC (w : Nat) : Nat := bits w 25 21
def mopFn (w : Nat) : Nat := bits w 31 26

/-- Operands of an operation, 0 where the table has no such operation. -/
def mopArity (o : Nat) : Nat :=
  if o = 5 ∨ o = 0x0B then 3
  else if (2 ≤ o ∧ o ≤ 4) ∨ o = 6 ∨ o = 7 ∨ o = 0x0A ∨ o = 0x0F ∨ o = 0x1B ∨ (0x20 ≤ o ∧ o ≤ 0x24) then 2
  else if o = 1 ∨ (8 ≤ o ∧ o ≤ 0x1A) then 1
  else 0

/-- An operation is allowed for a compute type. -/
def mopAllowed (ct o : Nat) : Bool :=
  if ct = 2 then (1 ≤ o && o ≤ 4) || (6 ≤ o && o ≤ 0x0B) || (0x20 ≤ o && o ≤ 0x24) else 1 ≤ o && o ≤ 0x1B

/-- FN is valid for an operation. -/
def mopFnOk (o fn : Nat) : Bool :=
  if o = 0x0A then fn ≤ 3 else if o = 0x18 then fn ≤ 1 else if o = 0x1A then fn < 32 && fn % 16 ≤ 10 else fn = 0

/-- Cost in lane-fclk (R165). -/
def mopCost (ct o : Nat) : Nat :=
  if 0x0C ≤ o ∧ o ≤ 0x17 then (if o = 0x0F then 8 else 4) * (if ct = 1 then 4 else 1)
  else if o = 0x18 then 4 else 1

/-- The operands a micro-op reads. -/
def mopOperands (w : Nat) : List Nat := [mopA w, mopB w, mopC w].take (mopArity (mopOpc w))

/-- An operand code is valid: temporaries must have been written. -/
def operandOk (d : Nat) (written : List Nat) (c : Nat) : Bool :=
  if c ≤ 2 then veEn d c else if c ≤ 9 then true else if c < 0x10 then false else written.contains c

/-- A program is valid (R166). -/
def progOk (d : Nat) : List Nat → List Nat → Bool → Bool
  | [], _, d0 => d0
  | w :: ws, written, d0 =>
    let o := mopOpc w
    let n := mopArity o
    n ≠ 0 && mopAllowed (veCt d) o && mopFnOk o (mopFn w) && (mopDst w = 0 || 0x10 ≤ mopDst w) &&
      (mopOperands w).all (operandOk d written) && (2 ≤ n || mopB w = 0) && (3 ≤ n || mopC w = 0) &&
      progOk d ws (mopDst w :: written) (d0 || mopDst w = 0)

/-- The program: NPROG words, or D0 = MOV S0 (R166). -/
def State.veProgram (s : State) (m d : Nat) : List Nat :=
  if veNprog d = 0 then [1] else (List.range (veNprog d)).map fun i => s.localNat m (dw d 16 31 0 + 4 * i) 4

/-- Program cost P. -/
def progCost (ct : Nat) (ws : List Nat) : Nat := (ws.map fun w => mopCost ct (mopOpc w)).sum

/-- Constants that the program names. -/
def usesCode (ws : List Nat) (c : Nat) : Bool := ws.any fun w => (mopOperands w).contains c

/-- The tables a program names (R165 LUT). -/
def usesTable (ws : List Nat) (t : Nat) : Bool := ws.any fun w => mopOpc w = 0x18 && mopFn w = t

def veTable (d t : Nat) : Nat := if t = 0 then dw d 20 31 0 else dw d 24 31 0

/-- Table `t` breaks R171. -/
def State.tableBad (s : State) (m d t : Nat) : Bool :=
  let a := veTable d t
  a % 16 ≠ 0 || !inside a 1036 || bits (s.localNat m (a + 4) 4) 31 10 ≠ 0 ||
    (2 ≤ bits (s.localNat m (a + 4) 4) 9 8 && !inside a 1040)

/-! ### Checks before running (R159, R603) -/

/-- The words at offsets 28 to 39 and the bits that belong to one OP. -/
def veOpWords (d : Nat) : Bool :=
  let (w28, w32, w36) := (dw d 28 31 0, dw d 32 31 0, dw d 36 31 0)
  let z := decide (w32 = 0 ∧ w36 = 0)
  let o := veOp d
  let own := (o = 0x10 || dw d 0 16 16 = 0) && (o = 0x16 || dw d 0 17 17 = 0) && (o = 0x12 || dw d 0 18 18 = 0)
  own && (
    if o = 0x10 then z && bits w28 3 0 = 0 && bits w28 31 9 = 0
    else if o = 0x11 then w36 = 0 && bits w28 3 3 = 0 && bits w28 31 9 = 0 && bits w28 2 0 ≤ 4
    else if o = 0x12 then z && w28 ≠ 0
    else if o = 0x13 then w36 = 0 && bits w28 31 9 = 0 && 1 ≤ w28 && w28 ≤ 256 && inside w32 (2 * w28)
    else if o = 0x14 then z && (w28 = 2 || w28 = 3) && veNprog d = 0
    else if o = 0x15 then z && w28 = 0 && veNprog d = 0
    else if o = 0x16 then
      bits w28 15 0 ≠ 0 && bits w36 30 16 = 0 && w32 % 8 = 0 &&
        (bits w36 31 31 = 1 || (bits w36 15 0 = 0 && w32 + 8 ≤ localTop))
    else false)

/-- Streams that OP needs, and R603. -/
def veEnables (d : Nat) : Bool :=
  let o := veOp d
  let d1 := (o = 0x10 && dw d 0 16 16 = 1) || (o = 0x11 && (veRedOp d = 3 || veRedOp d = 4)) || o = 0x15
  let need := if o = 0x12 then [0, 1] else if o = 0x14 then List.range (dw d 28 1 0)
    else if o = 0x13 ∨ o = 0x15 ∨ o = 0x16 then [0] else []
  veEn d 3 && (veEn d 4 == d1) && need.all (veEn d)

/-- One stream's block (R157, R159, R275). (DESIGN CHOICE: log entry 39) -/
def veStreamOk (d k : Nat) : Bool :=
  let x := veStream d k
  let o := 0x40 + 0x20 * k
  if !veEn d k then bits d (8 * (o + 32) - 1) (8 * o) = 0
  else
    let b : Int := (veBytes d k : Nat)
    let mult := fun (v : Int) => v % b = 0
    let r := veRange d k
    let sr := veScaleRange d k
    let psum := veOp d = 0x16 && k = 0
    dw d (o + 4) 30 24 = 0 && dw d (o + 8) 31 16 = 0 &&
      (if vePacked d k then x.str0 = 0 || x.str0 = 1
        else b = 0 || (mult x.addr && x.strs.all mult)) &&
      (!typeSc x.type || isIndex d k || x.str0 = 1) &&
      (x.virt ||
        (x.addr < 2 ^ 32 && 0 ≤ r.1 && r.2 ≤ (planeTop : Nat) && sr.2 ≤ (localTop : Nat) &&
          (r.2 ≤ (localTop : Nat) || psum || veBytes d k = 4 || veBytes d k = 8)))

/-- Strides that must be 0 in reduced dimensions (R177, R180), in GATHER's rows (R173) and in PSUM (R181). -/
def veStrides (d : Nat) : Bool :=
  let red := veRedDims d
  let zeroIn := fun k =>
    let x := veStream d k
    (red % 2 = 0 || x.str0 = 0) && (x.strs.zipIdx).all fun (st, j) => !red.testBit (j + 1) || st = 0
  if veOp d = 0x11 then zeroIn 3 && (!veEn d 4 || zeroIn 4)
  else if veOp d = 0x10 ∧ dw d 0 16 16 = 1 then zeroIn 4
  else if veOp d = 0x12 ∧ dw d 0 18 18 = 0 then (veStream d 1).str0 = 0
  else if veOp d = 0x16 then
    let x := veStream d 0
    veCt d = 1 && veExt d 0 ≤ 256 && veExt d 1 ≤ 256 && veExt d 2 = 1 && veExt d 3 = 1 && veExt d 4 = 1 &&
      x.str0 = 0 && (x.strs.drop 1).all (· = 0)
  else true

/-- Two half-open ranges meet. -/
def rangesMeet (a b : Int × Int) : Bool := max a.1 b.1 < min a.2 b.2

/-- A local destination overlaps a local source without aliasing it exactly (R160). (DESIGN CHOICE: log entry 42) -/
def veOverlap (d : Nat) : Bool :=
  (veDests d).any fun i => (veSources d).any fun k =>
    let (x, y) := (veStream d i, veStream d k)
    let same := x.addr = y.addr && x.type = y.type && x.str0 = y.str0 && x.strs = y.strs
    !x.virt && !y.virt && !same &&
      ([veRange d i, veScaleRange d i].any fun p => [veRange d k, veScaleRange d k].any (rangesMeet p))

/-- Constants: high words only for FP64, unused ones 0 (R190). (DESIGN CHOICE: log entry 39) -/
def veConstsOk (d : Nat) (ws : List Nat) : Bool :=
  (List.range 4).all fun i =>
    let o := 0xE0 + 8 * i
    (veCt d = 1 || dw d (o + 4) 31 0 = 0) && (usesCode ws (4 + i) || (dw d o 31 0 = 0 && dw d (o + 4) 31 0 = 0))

/-- Type bytes and compute type (R94, R162). -/
def veFormatsOk (d : Nat) : Bool :=
  (veSources d ++ veDests d).all fun k =>
    let t := (veStream d k).type
    if isIndex d k then t = 0
    else typeOk t && !(veCt d = 2 && k ≤ 2 && typeFmt t ≠ 9 && typeFmt t ≠ 10)

/-- Why a descriptor completes without running (R159); BAD_DESCRIPTOR before BAD_FORMAT (R591).
(DESIGN CHOICE: log entry 39) -/
def State.veCheck (s : State) (m d : Nat) : Option Nat :=
  let progIn := veNprog d = 0 || (dw d 16 31 0 % 4 = 0 && inside (dw d 16 31 0) (4 * veNprog d))
  if veOp d < 0x10 ∨ 0x16 < veOp d then some St.BAD_DESCRIPTOR
  else if veCt d = 3 || dw d 0 23 19 ≠ 0 || dw d 0 31 31 ≠ 0 || dw d 56 31 2 ≠ 0 || 64 < veNprog d || !progIn ||
      (veCt d ≠ 1 && dw d 44 31 0 ≠ 0) || !((List.range 5).all fun j => veExt d j ≠ 0) then some St.BAD_DESCRIPTOR
  else
    let ws := s.veProgram m d
    if !veOpWords d || !veEnables d || !((List.range 5).all (veStreamOk d)) || !veStrides d ||
        (veOp d ≠ 0x14 && veOp d ≠ 0x15 && !progOk d ws [] false) ||
        (veOp d = 0x11 && 3 ≤ veRedOp d && veEn d 1 && usesCode ws 1) ||
        !veConstsOk d ws || ([0, 1].any fun t => usesTable ws t && s.tableBad m d t) || veOverlap d then
      some St.BAD_DESCRIPTOR
    else if !veFormatsOk d then some St.BAD_FORMAT
    else none

/-! ### Element programs -/

/-- Round an exact value into the compute type (R162, R165). -/
def ctRound (ct : Nat) (x : Num) : Num × Count :=
  if ct = 2 then
    let (c, k) := roundInt 32 x
    (Num.ofInt (signed 32 c), k)
  else
    let f := if ct = 1 then fmtFp64 else fmtFp32
    let (c, k) := f.round true x
    (f.decode c, k)

/-- The value of a code in the compute type. -/
def ctDecode (ct c : Nat) : Num :=
  if ct = 2 then Num.ofInt (signed 32 c) else if ct = 1 then fmtFp64.decode c else fmtFp32.decode (c % 2 ^ 32)

/-- The integer an INT32 value is. -/
def Num.toInt : Num → Int
  | .fin neg m e => scaledInt neg m e (min e 0)
  | _ => 0

/-- Nearest integer, ties to even, with the sign kept. -/
def Num.rint : Num → Num
  | .fin neg m e => .fin neg (rneAt m e 0) 0
  | x => x

/-- The first of two counts that applies (R163). -/
def firstCount (a b : Count) : Count := if a = .none then b else a

/-- The functions whose finite results are free within 2 units in the last place, with their limits (R167). -/
def approx (ct o : Nat) (x : Num) : Num × Count :=
  let one := Num.ofInt 1
  let zero := fun neg => Num.fin neg 0 0
  match x with
  | .nan => (.nan, .none)
  | .inf neg =>
    (if o = 0x0C then zero neg
      else if o = 0x0D then (if neg then .nan else zero false)
      else if o = 0x10 ∨ o = 0x11 then (if neg then zero false else .inf false)
      else if o = 0x12 ∨ o = 0x13 then (if neg then .nan else .inf false)
      else if o = 0x14 then (if neg then one.neg else one)
      else if o = 0x15 then (if neg then zero false else one)
      else (if neg then zero true else .inf false), .none)
  | .fin neg v _ =>
    if (o = 0x0C ∨ o = 0x0D) ∧ v = 0 then (.inf neg, .none)
    else if (o = 0x12 ∨ o = 0x13) ∧ v = 0 then (.inf true, .none)
    else if (o = 0x0D ∨ o = 0x12 ∨ o = 0x13) ∧ neg then (.nan, .none)
    else
      let f := if ct = 1 then fmtFp64 else fmtFp32
      freeCount f o (f.round true x).1

/-- x = 2^e × m with m in [1, 2), for a finite value above 0 (R172). -/
def splitLog (m : Nat) (e : Int) : Int × Num :=
  let l := floorLog2 m e
  (l, .fin false m (e - l))

/-- A LUT at an FP32 value (R172). (DESIGN CHOICE: log entry 17) -/
def State.lut (s : State) (m a : Nat) (x : Num) : Num × Count :=
  let range := bits (s.localNat m (a + 4) 4) 9 8
  let k := fmtFp32.decode (s.localNat m (a + 1036) 4)
  let fin := fun (v : Num) =>
    let (c, n) := fmtFp32.round true v
    (fmtFp32.decode c, n)
  if x.isNan then (.nan, .none)
  else if range ≤ 1 then fin (s.tableExact m a (range = 1) x)
  else if range = 2 then
    match x with
    | .fin neg v e =>
      if v = 0 then (.inf true, .none)
      else if neg then (.nan, .none)
      else
        let (l, mant) := splitLog v e
        fin (((Num.ofInt l).mul k).add (round32 (s.tableExact m a false mant)))
    | .inf neg => (if neg then .nan else .inf false, .none)
    | .nan => (.nan, .none)
  else if k.isZero || !k.isFin then (.nan, .none)
  else
    match x with
    | .inf neg => (if neg then .fin false 0 0 else .inf false, .none)
    | _ =>
      let n := clampInt ((x.div k).rint.toInt) (-300) 300
      let r := round32 (((Num.ofInt (-n)).mul k).add x)
      fin ((round32 (s.tableExact m a false r)).scale n)

/-- A relation of CMP. -/
def mopCmp (fn : Nat) (a b : Num) : Bool :=
  if fn = 0 then a.eq b else if fn = 1 then !a.eq b else if fn = 2 then a.lt b else a.lt b || a.eq b

/-- The 32 bits of an INT32 value. -/
def Num.bits32 (x : Num) : Nat := unsigned 32 x.toInt

/-- One micro-op's result and what it counts (R163, R165). (DEDUCED: log entry 35) -/
def State.mop (s : State) (m d w : Nat) (a b c : Num) : Num × Count :=
  let ct := veCt d
  let o := mopOpc w
  let fn := mopFn w
  let rnd := ctRound ct
  let int32 := fun (v : Nat) => (Num.ofInt (signed 32 v), Count.none)
  match o with
  | 0x01 => (a, .none)
  | 0x02 => rnd (a.add b)
  | 0x03 => rnd (a.add b.neg)
  | 0x04 => rnd (a.mul b)
  | 0x05 => rnd ((a.mul b).add c)
  | 0x06 => (a.minOf b, .none)
  | 0x07 => (a.maxOf b, .none)
  | 0x08 => rnd a.abs
  | 0x09 => rnd a.neg
  | 0x0A => (if mopCmp fn a b then Num.ofInt 1 else .fin false 0 0, .none)
  | 0x0B => (if a.isZero || a.isNan then c else b, .none)
  | 0x0E => rnd a.sqrt
  | 0x0F => rnd (a.div b)
  | 0x18 =>
    let (x, k1) := ctRound 0 a
    let (y, k2) := s.lut m (veTable d fn) x
    (y, firstCount k1 k2)
  | 0x19 => (a.rint, .none)
  | 0x1A =>
    let (q, k) := elemEncode (fn % 16) (fn / 16 = 1) a
    ((rnd (elemDecode (fn % 16) q)).1, k)
  | 0x1B =>
    if a.isNan || b.isNan then (.nan, .none)
    else
      let n := match b with
        | .inf neg => if neg then -2048 else 2048
        | _ => clampInt b.rint.toInt (-2048) 2048
      rnd (a.scale n)
  | 0x20 => int32 (a.bits32 &&& b.bits32)
  | 0x21 => int32 (a.bits32 ||| b.bits32)
  | 0x22 => int32 (a.bits32 ^^^ b.bits32)
  | 0x23 => int32 (a.bits32 * 2 ^ (b.bits32 % 32) % 2 ^ 32)
  | 0x24 => (Num.ofInt (a.toInt.fdiv ((2 ^ (b.bits32 % 32) : Nat) : Int)), .none)
  | _ => approx ct o a

/-- A position's operands: the source elements in CT, and i0. -/
structure VePos where
  srcs : List Num
  i0 : Nat
  deriving DecidableEq, Repr

/-- The value an operand code names (R164). -/
def operandValue (d : Nat) (p : VePos) (temps : Sparse Num) (c : Nat) : Num :=
  let zero := Num.fin false 0 0
  if c ≤ 2 then p.srcs.getD c zero
  else if c = 3 then (ctRound (veCt d) (Num.ofInt p.i0)).1
  else if c ≤ 7 then
    let o := 0xE0 + 8 * (c - 4)
    ctDecode (veCt d) (dw d o 31 0 + dw d (o + 4) 31 0 * 2 ^ 32)
  else if c = 8 then zero
  else if c = 9 then Num.ofInt 1
  else Sparse.get zero temps c

/-- Run the element program at one position: D0's value and what it counts (R163, R166). -/
def State.runProg (s : State) (m d : Nat) (p : VePos) : List Nat → Sparse Num → Num → Count → Num × Count
  | [], _, d0, k => (d0, k)
  | w :: ws, temps, d0, k =>
    let v := operandValue d p temps
    let (r, k') := s.mop m d w (v (mopA w)) (v (mopB w)) (v (mopC w))
    let k := firstCount k k'
    if mopDst w = 0 then s.runProg m d p ws temps r k
    else s.runProg m d p ws (Sparse.set (Num.fin false 0 0) temps (mopDst w) r) d0 k

/-! ### Places of elements -/

/-- Lanes of a lane group (R158), lane groups of a row, and rows. -/
def laneSize (d : Nat) : Nat := if veCt d = 1 then 64 else 128
def groupsPerRow (d : Nat) : Nat := ceilDiv (veExt d 0) (laneSize d)
def veRows (d : Nat) : Nat := veExt d 1 * veExt d 2 * veExt d 3 * veExt d 4

/-- The outer indices i1 to i4 of row `r`. -/
def rowIndex (d r : Nat) : List Nat :=
  [r % veExt d 1, r / veExt d 1 % veExt d 2, r / (veExt d 1 * veExt d 2) % veExt d 3,
   r / (veExt d 1 * veExt d 2 * veExt d 3) % veExt d 4]

/-- Base of a row of a stream (R155). -/
def rowBase (x : VeStream) (ix : List Nat) : Int :=
  (x.addr : Int) + ((x.strs.zip ix).map fun (st, i) => st * (i : Int)).sum

/-- Where an element lies: its first byte, its bit there, and the bytes to move (R155, R157). -/
structure Place where
  addr : Int
  bit : Nat
  bytes : Nat
  deriving DecidableEq, Repr

/-- Place of element (i0, ix) of stream `k`. -/
def placeOfElem (d k i0 : Nat) (ix : List Nat) : Place :=
  let x := veStream d k
  let base := rowBase x ix
  if vePacked d k then
    let (o, b, w) := elemPlace (veFmt d k) (if x.str0 = 0 then 0 else i0)
    ⟨base + (o : Int), b, w⟩
  else ⟨base + (i0 : Int) * x.str0 * (veBytes d k : Nat), 0, veBytes d k⟩

/-- The scale byte of element (i0, ix) (R157). (DESIGN CHOICE: log entry 40) -/
def scalePlace (d k i0 : Nat) (ix : List Nat) : Place :=
  let x := veStream d k
  let (i1, i2, i3, i4) := (ix.getD 0 0, ix.getD 1 0, ix.getD 2 0, ix.getD 3 0)
  let r := i1 + veExt d 1 * (i2 + veExt d 2 * (i3 + veExt d 3 * i4))
  ⟨((x.addr + x.soff + r * ceilDiv (veExt d 0) 32 + i0 / 32 : Nat) : Int), 0, 1⟩

/-- Runs of bytes that places touch, adjacent ones joined. -/
def mergeRuns : List (Int × Nat) → List (Nat × Nat) → List (Nat × Nat)
  | [], acc => acc.reverse
  | (a, n) :: rest, acc =>
    let a' := (a % ((2 ^ 48 : Nat) : Int)).toNat
    match acc with
    | (b, k) :: more => if b ≤ a' ∧ a' ≤ b + k then mergeRuns rest ((b, max k (a' + n - b)) :: more)
                        else mergeRuns rest ((a', n) :: acc)
    | [] => mergeRuns rest [(a', n)]

/-- What one stream touches in a lane group. -/
structure Touch where
  stream : Nat
  virt : Bool
  need : Need
  elem : Nat
  runs : List (Nat × Nat)
  deriving DecidableEq, Repr

/-- Segments of a run, after translation. -/
structure Seg where
  va : Nat
  len : Nat
  segs : List (Nat × Nat × Nat)
  deriving DecidableEq, Repr

/-- The outcome of a unit's translations, or of moving its bytes. -/
inductive Unit' (α : Type) where
  | ok (a : α)
  | fault (stream page cause level pte pa access : Nat)
  | wait
  deriving DecidableEq, Repr

/-- Translate every page that runs touch (R189, R364). -/
def State.veXlatRuns (m asid : Nat) (t : Touch) : List (Nat × Nat) → State → Unit' (List Seg) × State
  | [], s => (.ok [], s)
  | (va, n) :: rs, s =>
    match s.range (unitAgent m 1) asid va n t.need (.plain t.elem) with
    | (.wait, s) => (.wait, s)
    | (.fault p c l e pa, s) => (.fault t.stream p c l e pa t.need.bits, s)
    | (.ok segs, s) =>
      match State.veXlatRuns m asid t rs s with
      | (.ok more, s) => (.ok (⟨va, n, segs⟩ :: more), s)
      | r => r

/-- Translate the virtual streams of a unit, in stream order; the segments of each by stream. -/
def State.veXlat (m asid : Nat) : List Touch → State → Unit' (List (Nat × List Seg)) × State
  | [], s => (.ok [], s)
  | t :: ts, s =>
    if !t.virt then State.veXlat m asid ts s
    else
      match State.veXlatRuns m asid t t.runs s with
      | (.ok g, s) =>
        match State.veXlat m asid ts s with
        | (.ok more, s) => (.ok ((t.stream, g) :: more), s)
        | r => r
      | (.fault a b c d e f g, s) => (.fault a b c d e f g, s)
      | (.wait, s) => (.wait, s)

/-- Bytes that were read: each run's address and contents. -/
abbrev Chunk := Nat × List Byte

/-- Read translated runs: refused remote reads are faults with cause REMOTE_REFUSED (R355). -/
def State.veFetch (m asid : Nat) (k : Nat) : List Seg → State → Unit' (List Chunk × List Nat) × State
  | [], s => (.ok ([], []), s)
  | g :: gs, s =>
    match s.segsReady (asker (unitAgent m 1) asid 0) g.segs with
    | (_, some pa, s) => (.fault k (g.va / 4096) 0x15 0 0 pa 1, s)
    | (false, none, s) => (.wait, s)
    | (true, none, s) =>
      let (bs, ps, s) := State.segsRead (asker (unitAgent m 1) asid 0) g.segs s
      match State.veFetch m asid k gs s with
      | (.ok (cs, ps'), s) => (.ok ((g.va, bs) :: cs, ps ++ ps'), s)
      | r => r

/-- `n` bytes at `a` out of what was read. -/
def chunkNat (cs : List Chunk) (a n : Nat) : Nat :=
  match cs.find? (fun c => c.1 ≤ a && a + n ≤ c.1 + c.2.length) with
  | some c => ofBytes ((c.2.drop (a - c.1)).take n)
  | none => 0

/-- A place's address as a number. -/
def Place.at' (p : Place) : Nat := (p.addr % ((2 ^ 48 : Nat) : Int)).toNat

/-- The code at a place, from local memory or from what was read. -/
def State.codeAt (s : State) (m : Nat) (virt : Bool) (cs : List Chunk) (bits' : Nat) (p : Place) : Nat :=
  (if virt then chunkNat cs p.at' p.bytes else ofBytes (s.localAnyRead m p.at' p.bytes)) / 2 ^ p.bit % 2 ^ bits'

/-! ### Lane groups -/

/-- Where each lane of a source reads: none for a fill element, which is counted where the flag is set (R174, R175). -/
abbrev LanePlaces := List (Option (Nat × List Nat) × Bool)

/-- The lane's element of source `k`, with its scale, in CT (R162). -/
def State.laneValue (s : State) (m d k : Nat) (cs : List Chunk) (bcast : Option Nat) (at' : Option (Nat × List Nat)) :
    Num × Count :=
  let x := veStream d k
  match at' with
  | none => (ctDecode (veCt d) (dw d 40 31 0 + dw d 44 31 0 * 2 ^ 32), .none)
  | some (i0, ix) =>
    let code := bcast.getD (s.codeAt m x.virt cs (veBits d k) (placeOfElem d k i0 ix))
    let v := elemDecode (typeFmt x.type) code
    let v := if typeSc x.type then
        match scaleExp (s.codeAt m x.virt cs 8 (scalePlace d k i0 ix)) with
        | none => Num.nan
        | some e => v.scale e
      else v
    ctRound (veCt d) v

/-- The runs of bytes that lanes of stream `k` touch, block scales after the data. -/
def laneRuns (d k : Nat) (ls : List (Nat × List Nat)) : List (Nat × Nat) :=
  let x := veStream d k
  let data := ls.map fun (i0, ix) =>
    let p := placeOfElem d k i0 ix
    (p.addr, p.bytes)
  let sc := if typeSc x.type && !isIndex d k then ls.map fun (i0, ix) => ((scalePlace d k i0 ix).addr, 1) else []
  mergeRuns data [] ++ mergeRuns sc []

/-- One stream's part of a lane group. -/
def touchOf (d k : Nat) (need : Need) (ls : List (Nat × List Nat)) : Touch :=
  { stream := k, virt := (veStream d k).virt, need := need, elem := max 1 (veBytes d k), runs := laneRuns d k ls }

/-- The bytes that destination `k` receives: codes of consecutive elements, packed rows whole (R95, R157).
(DESIGN CHOICE: log entry 42) -/
def destWrites (d k : Nat) (ls : List ((Nat × List Nat) × Nat)) : List (Int × List Byte) :=
  if vePacked d k then
    match ls with
    | [] => []
    | ((i0, ix), c) :: rest =>
      let codes := if (veStream d k).str0 = 0 then [((rest.getLast?).map (·.2)).getD c] else c :: rest.map (·.2)
      [((placeOfElem d k i0 ix).addr, packRow (veFmt d k) codes)]
  else ls.map fun ((i0, ix), c) => ((placeOfElem d k i0 ix).addr, toBytes (veBytes d k) c)

/-- Convert a destination's values, in blocks of 32 where it has block scales (R114, R157): codes and counts, and
the scale bytes. -/
def destCodes (d k : Nat) (ls : List ((Nat × List Nat) × Num)) :
    List (Nat × Count) × List (Int × List Byte) :=
  let t := (veStream d k).type
  if typeSc t then
    let blocks := chunks 32 16 ls
    let r := blocks.map fun (b : List ((Nat × List Nat) × Num)) =>
      let (sc, cs) := blockCodes (typeFmt t) (typeOvf t) (b.map (·.2))
      (cs, (b.map fun (x : (Nat × List Nat) × Num) => ((scalePlace d k x.1.1 x.1.2).addr, [BitVec.ofNat 8 sc])).take 1)
    (r.flatMap (·.1), r.flatMap (·.2))
  else (ls.map fun x => elemEncode (typeFmt t) (typeOvf t) x.2, [])

/-- Join writes to adjacent bytes. (DESIGN CHOICE: log entry 42) -/
def joinWrites : List (Int × List Byte) → List (Nat × List Byte) → List (Nat × List Byte)
  | [], acc => acc.reverse
  | (a, bs) :: rest, acc =>
    let a' := (a % ((2 ^ 48 : Nat) : Int)).toNat
    match acc with
    | (b, cs) :: more => if a' = b + cs.length then joinWrites rest ((b, cs ++ bs) :: more) else joinWrites rest ((a', bs) :: acc)
    | [] => joinWrites rest [(a', bs)]

/-- Bytes that translated writes put where. (DESIGN CHOICE: log entry 42) -/
def State.veStore (m asid : Nat) (segs : List Seg) : List (Nat × List Byte) → State → State
  | [], s => s
  | (a, bs) :: ws, s =>
    match segs.find? (fun g => g.va ≤ a && a + bs.length ≤ g.va + g.len) with
    | none => State.veStore m asid segs ws s
    | some g =>
      -- the part of the run's segments that this write covers
      let cut := g.segs.foldl (fun (acc : List (Nat × Nat × Nat) × Nat) (node, pa, n) =>
        let lo := max acc.2 (a - g.va)
        let hi := min (acc.2 + n) (a - g.va + bs.length)
        (if lo < hi then acc.1 ++ [(node, pa + (lo - acc.2), hi - lo)] else acc.1, acc.2 + n)) ([], 0)
      State.veStore m asid segs ws (State.segsWrite (asker (unitAgent m 1) asid 0) a cut.1 bs s)

/-- The key of the result a position belongs to (R177). -/
def resultKey (d i0 : Nat) (ix : List Nat) : Nat :=
  let red := veRedDims d
  let z := fun (j i : Nat) => if red.testBit j then 0 else i
  z 0 i0 + veExt d 0 * (z 1 (ix.getD 0 0) + veExt d 1 * (z 2 (ix.getD 1 0) + veExt d 2 *
    (z 3 (ix.getD 2 0) + veExt d 3 * z 4 (ix.getD 3 0))))

/-- A position is the last of its result. -/
def lastOfResult (d i0 : Nat) (ix : List Nat) : Bool :=
  let red := veRedDims d
  (!red.testBit 0 || i0 + 1 = veExt d 0) &&
    (ix.zipIdx).all fun (i, j) => !red.testBit (j + 1) || i + 1 = veExt d (j + 1)

/-- Round a lane sum into binary64; exact for INT32 (R178). -/
def sumRound (ct : Nat) (x : Num) : Num × Count :=
  if ct = 2 then (x, .none)
  else
    let (c, k) := fmtFp64.round true x
    (fmtFp64.decode c, k)

/-- Add one value to a sum (R178). -/
def RedAcc.addSum (ct : Nat) (r : RedAcc) (v : Num) : RedAcc :=
  let z := Num.fin false 0 0
  let l := r.count % 128
  let (x, k) := sumRound ct ((Sparse.get z r.lanes l).add v)
  { r with count := r.count + 1, lanes := Sparse.set z r.lanes l x, mark := firstCount r.mark k }

/-- Offer one value to a maximum or minimum (R179); `carried` where the index came from S1. -/
def RedAcc.offer (isMax carried : Bool) (r : RedAcc) (v : Num) (ix : Nat) : RedAcc :=
  let better := match r.best with
    | none => true
    | some (b, bi) => redBeats isMax v b || (carried && !redBeats isMax b v && ix < bi)
  { r with count := r.count + 1, best := if better then some (v, ix) else r.best }

/-- One of the seven pairwise levels. -/
def pairLevel (ct : Nat) : List Num → List Num × Count
  | x :: y :: rest =>
    let (v, k) := sumRound ct (x.add y)
    let (vs, k') := pairLevel ct rest
    (v :: vs, firstCount k k')
  | _ => ([], .none)

/-- The pairwise levels. -/
def pairSum (ct : Nat) : Nat → List Num → Count → Num × Count
  | 0, xs, k => (xs.headD (.fin false 0 0), k)
  | n + 1, xs, k =>
    let (ys, k') := pairLevel ct xs
    pairSum ct n ys (firstCount k k')

/-- A finished sum (R178). -/
def RedAcc.total (ct : Nat) (r : RedAcc) : Num × Count :=
  pairSum ct 7 ((List.range 128).map fun i => Sparse.get (Num.fin false 0 0) r.lanes i) r.mark

/-- What a lane group computes: the values of D0 and D1 by lane, the counts of its positions and results, and the
accumulators after it. -/
structure GroupOut where
  d0 : List ((Nat × List Nat) × Num × Count)
  d1 : List ((Nat × List Nat) × Num × Count)
  d1Index : List ((Nat × List Nat) × Nat)
  /-- Counts of positions that write no D0 of their own. -/
  stat : NumStat
  accs : Sparse RedAcc
  deriving DecidableEq, Repr

/-- Fold one position's D0 value into its result (R177 to R180). -/
def redStep (d i0 : Nat) (ix : List Nat) (v : Num) (carried : Option Nat) (o : GroupOut) : GroupOut :=
  let key := resultKey d i0 ix
  let r := Sparse.get RedAcc.init o.accs key
  let side := veOp d = 0x10
  let op := if side then 0 else veRedOp d
  let ix' := carried.getD ((dw d 32 31 0 + r.count) % 2 ^ 32)
  let r := if op = 0 then r.addSum (veCt d) v else r.offer (op = 1 || op = 3) carried.isSome v ix'
  if lastOfResult d i0 ix then
    let accs := Sparse.set RedAcc.init o.accs key RedAcc.init
    if op = 0 then
      let (t, k) := r.total (veCt d)
      if side then { o with accs := accs, d1 := o.d1 ++ [((i0, ix), t, k)] }
      else { o with accs := accs, d0 := o.d0 ++ [((i0, ix), t, k)] }
    else
      let (b, bi) := r.best.getD (.nan, 0)
      { o with accs := accs, d0 := o.d0 ++ [((i0, ix), b, .none)],
               d1Index := if 3 ≤ op then o.d1Index ++ [((i0, ix), bi)] else o.d1Index }
  else { o with accs := Sparse.set RedAcc.init o.accs key r }

/-- What each element of a destination counted before its conversion, and in it. -/
abbrev DestMarks := List (Count × Count)

/-- A destination's codes and scales, with the marks of its elements. -/
def finishDest (d k : Nat) (ls : List ((Nat × List Nat) × Num × Count)) :
    List ((Nat × List Nat) × Nat) × List (Int × List Byte) × DestMarks :=
  let (cs, sc) := destCodes d k (ls.map fun x => (x.1, x.2.1))
  let zs : List (((Nat × List Nat) × Num × Count) × (Nat × Count)) := ls.zip cs
  (zs.map fun (x, c) => (x.1, c.1), sc, zs.map fun (x, c) => (x.2.2, c.2))

/-- The first count of the elements that one position moves: their source conversions, then their destination conversions (R163). -/
def firstMark (xs : DestMarks) : Count := (xs.map (·.1) ++ xs.map (·.2)).foldl firstCount .none

/-- The counts of a lane group's positions, each at most once (R163): a position of PACK moves NWAY elements, one of UNPACK two; a
result of REDUCE or of MAP's side sum counts by itself (R178). -/
def positionStat (d : Nat) (m0 m1 : DestMarks) : NumStat :=
  let ps := if veOp d = 0x14 then chunks (dw d 28 1 0) m0.length m0
    else if veOp d = 0x15 then (m0.zip m1).map fun x => [x.1, x.2]
    else (m0 ++ m1).map fun x => [x]
  ps.foldl (fun st p => st.add (firstMark p)) NumStat.zero

/-- The lanes of a lane group. -/
def groupLanes (d g : Nat) : List (Nat × List Nat) :=
  let ix := rowIndex d (g / groupsPerRow d)
  let i := g % groupsPerRow d * laneSize d
  (List.range (min (laneSize d) (veExt d 0 - i))).map fun l => (i + l, ix)

/-- Elements of D0 or D1 that a lane group writes, for translation before any byte moves. -/
def destLanes (d k : Nat) (ls : List (Nat × List Nat)) : List (Nat × List Nat) :=
  if veOp d = 0x14 then
    let n := dw d 28 1 0
    ls.flatMap fun (i0, ix) => (List.range n).map fun w => (n * i0 + w, ix)
  else if veOp d = 0x11 ∨ (veOp d = 0x10 ∧ k = 4) then ls.filter fun (i0, ix) => lastOfResult d i0 ix
  else ls

/-- Where the lanes of S0 read (R173, R174, R176), from the indices or the pattern. -/
def State.s0Places (s : State) (m d : Nat) (ls : List (Nat × List Nat)) (idx : List Nat) : LanePlaces :=
  let o := veOp d
  if o = 0x12 then
    (ls.zip idx).map fun ((i0, ix), n) =>
      if dw d 28 31 0 ≤ n then (none, true)
      else if dw d 0 18 18 = 1 then (some (n, ix), false)
      else (some (i0, n :: ix.drop 1), false)
  else if o = 0x13 then
    let w := dw d 28 8 0
    ls.map fun (i0, ix) =>
      let p := s.localNat m (dw d 32 31 0 + 2 * (i0 % w)) 2
      let src := i0 / w * w + p
      if p = 0xFFFF then (none, false) else if w ≤ p ∨ veExt d 0 ≤ src then (none, true) else (some (src, ix), false)
  else ls.map fun x => (some x, false)

/-- A stream whose five strides are all 0 (R156). -/
def isBroadcast (d k : Nat) : Bool := (veStream d k).str0 = 0 && (veStream d k).strs.all (· = 0)

/-- The index values of the lanes from an index stream. (DESIGN CHOICE: log entry 41) -/
def State.indexLanes (s : State) (m d : Nat) (cs : List Chunk) (bcast : Option Nat) (ls : List (Nat × List Nat)) : List Nat :=
  ls.map fun (i0, ix) => bcast.getD (s.codeAt m (veStream d 1).virt cs 32 (placeOfElem d 1 i0 ix))

/-- The fault of a vector engine (R364, R367). (DESIGN CHOICE: log entry 40) -/
def State.veFault (s : State) (m : Nat) (j : VeJob) (sub page cause level pte pa access : Nat) : State :=
  s.sendFault { agent := ⟨m, 1, 0⟩, asid := j.asid, page := page, cause := cause, level := level, access := access,
                sub := sub, tag := dw j.desc 60 31 0, pte := pte, pa := pa, time := s.now,
                context := j.desc % 2 ^ 512 }

/-- Read translated streams in order: nothing moves before every page of the lane group is translated (R189). -/
def State.veFetchAll (m asid : Nat) : List (Nat × List Seg) → State → Unit' (List (Nat × List Chunk) × List Nat) × State
  | [], s => (.ok ([], []), s)
  | (k, g) :: ks, s =>
    match State.veFetch m asid k g s with
    | (.ok (cs, ps), s) =>
      match State.veFetchAll m asid ks s with
      | (.ok (more, ps'), s) => (.ok ((k, cs) :: more, ps ++ ps'), s)
      | r => r
    | (.fault a b c d e f g, s) => (.fault a b c d e f g, s)
    | (.wait, s) => (.wait, s)

/-- A source's part of a lane group: nothing for a broadcast scalar already read. (DESIGN CHOICE: log entry 40) -/
def sourceTouch (j : VeJob) (k : Nat) (ls : List (Nat × List Nat)) : List Touch :=
  if (Sparse.get none j.bcast k).isSome || ls.isEmpty then [] else [touchOf j.desc k Need.read ls]

/-- The chunks read for a stream. -/
def chunksOf (cs : List (Nat × List Chunk)) (k : Nat) : List Chunk := ((cs.find? fun x => x.1 = k).map (·.2)).getD []

/-- Put a source's element aside where it is a broadcast scalar and a lane has read it (R156).
(DESIGN CHOICE: log entry 41) -/
def State.noteBcast (s : State) (m : Nat) (cs : List (Nat × List Chunk)) (ls : List (Nat × List Nat)) (j : VeJob) (k : Nat) : VeJob :=
  match ls with
  | [] => j
  | lane :: _ =>
    if isBroadcast j.desc k && (Sparse.get none j.bcast k).isNone && !typeSc (veStream j.desc k).type then
      let c := s.codeAt m (veStream j.desc k).virt (chunksOf cs k) (veBits j.desc k) (placeOfElem j.desc k lane.1 lane.2)
      { j with bcast := Sparse.set none j.bcast k (some c) }
    else j

/-- Positions of UNPACK and PACK: the sources' elements at each position. -/
def moveLanes (d k : Nat) (ls : List (Nat × List Nat)) : List (Nat × List Nat) :=
  if veOp d = 0x15 ∧ k = 0 then ls.flatMap fun (i0, ix) => [(2 * i0, ix), (2 * i0 + 1, ix)] else ls

/-- Compute a lane group once its sources are at hand; `free` is the next argument of a free value. -/
def State.veCompute (s : State) (m : Nat) (j : VeJob) (ls : List (Nat × List Nat)) (s0 : LanePlaces)
    (psum : List (Num × Count)) (cs : List (Nat × List Chunk)) (free : Nat) : GroupOut :=
  let d := j.desc
  let val := fun k at' => s.laneValue m d k (chunksOf cs k) (Sparse.get none j.bcast k) at'
  let init : GroupOut := { d0 := [], d1 := [], d1Index := [], stat := NumStat.zero, accs := j.accs }
  let empty := Num.fin false 0 0
  if veOp d = 0x14 then
    ls.foldl (fun o (i0, ix) => (List.range (dw d 28 1 0)).foldl (fun o w =>
      let (v, k) := val w (some (i0, ix))
      { o with d0 := o.d0 ++ [((dw d 28 1 0 * i0 + w, ix), v, k)] }) o) init
  else if veOp d = 0x15 then
    ls.foldl (fun o (i0, ix) =>
      let (v, k) := val 0 (some (2 * i0, ix))
      let (u, l) := val 0 (some (2 * i0 + 1, ix))
      { o with d0 := o.d0 ++ [((i0, ix), v, k)], d1 := o.d1 ++ [((i0, ix), u, l)] }) init
  else
    let prog := s.veProgram m d
    let carried := veOp d = 0x11 && 3 ≤ veRedOp d && veEn d 1
    ((ls.zip s0).zipIdx).foldl (fun o ((lane, at'), n) =>
      let (i0, ix) := lane
      let src := fun k =>
        if !veEn d k then (empty, Count.none)
        else if k = 0 ∧ veOp d = 0x16 then psum.getD n (empty, .none)
        else if k = 0 then val 0 at'.1
        else if isIndex d k then (ctDecode (veCt d) (Config.freeWord free).toNat, Count.none)
        else val k (some lane)
      let (a, b, c) := (src 0, src 1, src 2)
      let k := firstCount a.2 (firstCount b.2 c.2)
      let (v, k) := s.runProg m d ⟨[a.1, b.1, c.1], i0⟩ prog [] empty k
      if veOp d = 0x11 then
        let ci := if carried then some ((s.indexLanes m d (chunksOf cs 1) (Sparse.get none j.bcast 1) [lane]).headD 0) else none
        let o := redStep d i0 ix v ci o
        { o with stat := o.stat.add k }
      else
        let o := { o with d0 := o.d0 ++ [(lane, v, k)] }
        if veOp d = 0x10 && dw d 0 16 16 = 1 then redStep d i0 ix v none o else o) init

/-- Write a computed lane group: D0 and D1 with their scales (R162, R163). -/
def State.veWriteGroup (s : State) (m : Nat) (j : VeJob) (o : GroupOut) (segs : List (Nat × List Seg)) : VeJob × State :=
  let d := j.desc
  let (c0, sc0, st0) := finishDest d 3 o.d0
  let (c1, sc1, st1) := finishDest d 4 o.d1
  let put := fun (s : State) k (ws : List (Int × List Byte)) =>
    let joined := joinWrites ws []
    if (veStream d k).virt then State.veStore m j.asid (((segs.find? fun x => x.1 = k).map (·.2)).getD []) joined s
    else joined.foldl (fun s (a, bs) => s.localAnyWrite m a bs) s
  let s := put s 3 (destWrites d 3 c0)
  let s := put s 3 sc0
  let s := if veEn d 4 then put s 4 (destWrites d 4 (if o.d1Index.isEmpty then c1 else o.d1Index)) else s
  let s := if veEn d 4 then put s 4 sc1 else s
  ({ j with accs := o.accs, stat := (j.stat.sum o.stat).sum (positionStat d st0 st1) }, s)

/-- What came of one lane group. -/
inductive GroupEnd where
  | done (j : VeJob)
  | wait
  | stalled (j : VeJob)
  | poisoned
  deriving DecidableEq, Repr

/-! ### PSUM (R181 to R186) -/

/-- The counter of a PSUM: local or virtual. -/
def psumCtr (d : Nat) : Bool × Nat := (dw d 36 31 31 = 1, dw d 32 31 0 + dw d 36 15 0 * 2 ^ 32)
def psumCount (d : Nat) : Nat := dw d 28 15 0
def psumWaitUs (d : Nat) : Nat := dw d 28 31 16

/-- Count the fclk that a PSUM has waited on its counter, at 2.25 GHz, when its wait ends (R191). -/
def State.psumWaited (s : State) (m : Nat) (j : VeJob) : State :=
  if veOp j.desc = 0x16 && j.status.isNone && j.part = 0 then s.bump (C.VE_CNT_PSUM_WAIT_FCLK m) (refCycles (s.now - j.start)) else s

/-- Base of record `p`. -/
def recordBase (d p : Nat) : Nat :=
  let x := veStream d 0
  (((x.addr : Int) + (p : Int) * x.strs.headD 0) % ((2 ^ 48 : Nat) : Int)).toNat

/-- One record's value of a cell (R184). -/
def psumCell (rf run tot : Nat) : Num × Count := sumRound 1 ((fmtFp64.decode tot).add (runValue rf run))

/-- The ordered sum of one cell over its records, given each record's RUN_FMT, run and total (R184). -/
def psumSum : List (Nat × Nat × Nat) → Num × Count
  | [] => (.fin false 0 0, .none)
  | (rf, run, tot) :: rest => rest.foldl (fun (acc, k) (rf, run, tot) =>
      let (v, k1) := psumCell rf run tot
      let (t, k2) := sumRound 1 (acc.add v)
      (t, firstCount k (firstCount k1 k2))) (psumCell rf run tot)

/-- Byte offset of a position's cell in a plane: position (i0, i1) names cell (i1, i0) (R181). -/
def psumOffset (x : Nat × List Nat) : Nat := (x.2.headD 0 * 256 + x.1) * 8

/-- What a lane group of a PSUM touches in every record: its cells in both planes, and the header (R181). -/
def psumTouch (d : Nat) (ls : List (Nat × List Nat)) : Touch :=
  let lo := psumOffset (ls.headD (0, []))
  { stream := 0, virt := (veStream d 0).virt, need := Need.read, elem := 8
    runs := (List.range (psumCount d)).flatMap fun p =>
      [(recordBase d p + lo, 8 * ls.length), (recordBase d p + 0x80000 + lo, 8 * ls.length), (recordBase d p + 0x100000, 8)] }

/-- The ordered sums of a lane group's cells, from the records' bytes (R184). -/
def psumSums (d : Nat) (ls : List (Nat × List Nat)) (cs : List Chunk) : List (Num × Count) :=
  ls.map fun x => psumSum ((List.range (psumCount d)).map fun p =>
    (bits (chunkNat cs (recordBase d p + 0x100000) 8) 9 8, chunkNat cs (recordBase d p + psumOffset x) 8,
     chunkNat cs (recordBase d p + 0x80000 + psumOffset x) 8))

/-! ### Lane groups at work (R158, R189) -/

/-- The lines of local memory that streams touch in a lane group. -/
def localLines (ts : List Touch) : List Nat :=
  (ts.filter fun t => !t.virt).flatMap fun t => (t.runs.flatMap fun r => linesOf r.1 r.2).eraseDups

/-- Bytes of local runs, as a PSUM's records in local memory are read. -/
def State.localChunks (s : State) (m : Nat) (t : Touch) : List Chunk :=
  if t.virt then [] else t.runs.map fun (a, n) => (a, s.localAnyRead m a n)

/-- One lane group of MAP, REDUCE, GATHER, SHUFFLE, PACK, UNPACK or PSUM (R158, R181, R189): every page is translated before any byte
moves, but that S0's pages of a GATHER are known only from its indices; poison stops the descriptor there (R320).
(DESIGN CHOICE: log entry 40) -/
def State.veGroup (s : State) (m : Nat) (j : VeJob) : GroupEnd × State :=
  let d := j.desc
  let gather := veOp d = 0x12
  let ls := groupLanes d j.group
  let stall := fun (s : State) sub p c l e pa a => (GroupEnd.stalled { j with stalled := true }, s.veFault m j sub p c l e pa a)
  -- the pages that no index decides, in stream order
  let plain := s.s0Places m d ls []
  let srcOf := fun (pl : LanePlaces) k => if k = 0 then moveLanes d 0 (pl.filterMap (·.1)) else ls
  let touches := fun (pl : LanePlaces) (ks : List Nat) => ks.flatMap fun k =>
    if k = 0 ∧ veOp d = 0x16 then [psumTouch d ls] else sourceTouch j k (srcOf pl k)
  let dests := (veDests d).map fun k => touchOf d k Need.write (destLanes d k ls)
  let early := touches plain ((veSources d).filter fun k => !(gather && k = 0))
  match State.veXlat m j.asid (early ++ dests) s with
  | (.wait, s) => (.wait, s)
  | (.fault a b c d' e f g, s) => stall s a b c d' e f g
  | (.ok segs, s) =>
    -- a GATHER's indices, and the pages of S0 that they name
    match (if gather then State.veFetchAll m j.asid (segs.filter fun x => x.1 = 1) s else (.ok ([], []), s)) with
    | (.wait, s) => (.wait, s)
    | (.fault a b c d' e f g, s) => stall s a b c d' e f g
    | (.ok (ics, ips), s) =>
      let idx := if gather then s.indexLanes m d (chunksOf ics 1) (Sparse.get none j.bcast 1) ls else []
      let s0 := if gather then s.s0Places m d ls idx else plain
      let late := if gather then touches s0 [0] else []
      match State.veXlat m j.asid late s with
      | (.wait, s) => (.wait, s)
      | (.fault a b c d' e f g, s) => stall s a b c d' e f g
      | (.ok more, s) =>
        let reads := (more ++ segs).filter fun x => decide (x.1 < 3) && !(gather && x.1 = 1)
        match State.veFetchAll m j.asid reads s with
        | (.wait, s) => (.wait, s)
        | (.fault a b c d' e f g, s) => stall s a b c d' e f g
        | (.ok (cs, ps), s) =>
          if segs.any (fun x => decide (3 ≤ x.1) && x.2.any fun g => s.segsBusy g.segs) then (.wait, s)
          else if !(ips ++ ps).isEmpty then (.poisoned, s.consume m (ips ++ ps))
          else
            let cs := ics ++ cs
            let (n, s) := if gather then s.takeFree else (s.free, s)
            let psum := if veOp d = 0x16 then
              psumSums d ls (if (veStream d 0).virt then chunksOf cs 0 else s.localChunks m (psumTouch d ls)) else []
            let kept := (veSources d).filter fun k => !(k = 0 && veOp d = 0x16)
            let j := kept.foldl (fun j k => s.noteBcast m cs (srcOf s0 k) j k) j
            let fills := (s0.filter (·.2)).length
            let s := s.countConflicts m 8 (localLines (late ++ early))
            let o := s.veCompute m j ls s0 psum cs n
            let (j, s) := s.veWriteGroup m j o segs
            let s := s.countConflicts m 4 (localLines dests)
            let s := s.bump (C.VE_CNT_POSITIONS m) ls.length
            let s := if fills = 0 then s
              else (s.bump (C.VE_CNT_INDEX_RANGE_EL m) fills).setFld (F.VE_STICKY_INDEX_RANGE m) 1
            (.done { j with group := j.group + 1, range := j.range || fills ≠ 0 }, s)

/-- A wait for a source or destination that has ended counts its fclk (R191). -/
def State.feedDone (s : State) (m : Nat) (j : VeJob) : VeJob × State :=
  match j.feed with
  | some t => ({ j with feed := none }, s.bump (C.VE_CNT_FEED_STALL m) (refCycles (s.now - t)))
  | none => (j, s)

/-- Run lane groups until the descriptor's last, a fault, poison or a wait; `k` bounds them. -/
def State.veGroups (m : Nat) : Nat → VeJob → State → VeJob × State
  | 0, j, s => (j, s)
  | k + 1, j, s =>
    if groupsPerRow j.desc * veRows j.desc ≤ j.group then
      (if veOp j.desc = 0x16 then { j with part := 3 } else { j with status := some St.OK }, s)
    else
      let ask := asker (unitAgent m 1) j.asid 0
      match s.veGroup m j with
      | (.done j, s) =>
        let (j, s) := (s.dropLanded ask).feedDone m j
        State.veGroups m k j s
      | (.wait, s) => ({ j with feed := some (j.feed.getD s.now) }, s)
      | (.stalled j, s) => (s.dropLanded ask).feedDone m j
      | (.poisoned, s) => (s.dropLanded ask).feedDone m { j with status := some St.POISONED }

/-- Read runs of a PSUM's records, local or virtual. -/
def State.psumRead (s : State) (m : Nat) (j : VeJob) (runs : List (Nat × Nat)) : Unit' (List Chunk × List Nat) × State :=
  let t : Touch := { stream := 0, virt := (veStream j.desc 0).virt, need := Need.read, elem := 8, runs := runs }
  if t.virt then
    match State.veXlatRuns m j.asid t runs s with
    | (.ok g, s) => State.veFetch m j.asid 0 g s
    | (.fault a b c d e f g, s) => (.fault a b c d e f g, s)
    | (.wait, s) => (.wait, s)
  else (.ok (s.localChunks m t, []), s)

/-- A record's header is not the descriptor's (R183). -/
def headerBad (d p h : Nat) : Bool :=
  h % 256 ≠ 1 || bits h 9 8 = 3 || bits h 63 48 ≠ psumCount d || bits h 47 32 ≠ p

/-- Read and check the headers of every record (R183). -/
def State.psumHeaders (s : State) (m : Nat) (j : VeJob) : VeJob × State :=
  let n := psumCount j.desc
  match s.psumRead m j ((List.range n).map fun p => (recordBase j.desc p + 0x100000, 64)) with
  | (.wait, s) => (j, s)
  | (.fault a b c d e f g, s) => ({ j with stalled := true }, (s.dropLanded (asker (unitAgent m 1) j.asid 0)).veFault m j a b c d e f g)
  | (.ok (cs, ps), s) =>
    let s := s.dropLanded (asker (unitAgent m 1) j.asid 0)
    if !ps.isEmpty then ({ j with status := some St.POISONED }, s.consume m ps)
    else if (List.range n).any (fun p => headerBad j.desc p (chunkNat cs (recordBase j.desc p + 0x100000) 8)) then
      ({ j with status := some St.BAD_PARTIAL }, s)
    else ({ j with part := 2 }, s)

/-- After the records: one far add of −P_COUNT where SUB is 1 (R185). -/
def State.psumSubtract (s : State) (m : Nat) (j : VeJob) : VeJob × State :=
  let d := j.desc
  let done := { j with status := some St.OK }
  if dw d 0 17 17 = 0 then (done, s)
  else
    let (virt, a) := psumCtr d
    let v := 2 ^ 64 - psumCount d
    if !virt then (done, s.localWrite m a (toBytes 8 (s.localNat m a 8 + v)))
    else
      match s.vaAdd (unitAgent m 1) j.asid 0 a v with
      | (.ok _ ps, s) => if ps.isEmpty then (done, s) else ({ j with status := some St.POISONED }, s.consume m ps)
      | (.fault p c l e pa, s) => ({ j with stalled := true }, s.veFault m j 5 p c l e pa 3)
      | (.wait, s) => (j, s)

/-- A PSUM past its wait goes on: headers, lane groups, subtract. -/
def State.psumRun (s : State) (m : Nat) (j : VeJob) : VeJob × State :=
  let (j, s) := if j.part = 1 then s.psumHeaders m j else (j, s)
  let (j, s) := if j.part = 2 && j.status.isNone && !j.stalled then
      State.veGroups m (groupsPerRow j.desc * veRows j.desc + 1) j s else (j, s)
  if j.part = 3 && j.status.isNone && !j.stalled then s.psumSubtract m j else (j, s)

/-! ### The queue (R187, R188) -/

/-- The engine runs in staged mode (R168). -/
def veStaged (d : Nat) (ws : List Nat) : Bool :=
  dw d 0 15 15 = 1 || 16 < veNprog d ||
    (ws.any fun w => 0x18 ≤ mopDst w || ((mopOperands w).any fun c => 0x18 ≤ c))

/-- The compute time of `n` positions of a row (R170, R184). -/
def veRowCost (d : Nat) (ws : List Nat) (n : Nat) : Nat :=
  let l := laneSize d
  let sums := if veOp d = 0x16 then 2 * psumCount d else 0
  if veStaged d ws then
    let block := fun b => (ws.map fun w => ceilDiv b l * mopCost (veCt d) (mopOpc w) + 4).sum + ceilDiv b l * sums
    n / 1024 * block 1024 + (if n % 1024 = 0 then 0 else block (n % 1024))
  else ceilDiv n l * ((if veNprog d = 0 then 1 else progCost (veCt d) ws) + sums)

/-- The compute time of the first `g` lane groups; of all of them it is Tc (R170, R184).
(DESIGN CHOICE: log entry 44) -/
def veTc (d : Nat) (ws : List Nat) (g : Nat) : Nat :=
  g / groupsPerRow d * veRowCost d ws (veExt d 0) + veRowCost d ws (g % groupsPerRow d * laneSize d)

/-- Accumulator sets whose planes a descriptor's local streams reach (R161). -/
def veSets (d : Nat) : List Nat :=
  (List.range 4).filter fun k =>
    (veSources d ++ veDests d).any fun i =>
      !(veStream d i).virt &&
        rangesMeet (veRange d i) ((localTop + k * 0x100000 : Nat), (localTop + (k + 1) * 0x100000 : Nat))

/-- Show the engine's state in VE_STATUS. -/
def State.showVec (s : State) (m : Nat) : State :=
  let v := s.vec m
  let has := fun (f : VeJob → Bool) => flag ((v.run.map f).getD false)
  s.setFlds [(F.VE_STATUS_QDEPTH m, v.queue.length), (F.VE_STATUS_BUSY m, flag v.run.isSome),
    (F.VE_STATUS_FAULT_WAIT m, has (·.stalled)),
    (F.VE_STATUS_PSUM_WAIT m, has fun j => j.status.isNone && veOp j.desc = 0x16 && j.part = 0),
    (F.VE_STATUS_STAGED m, has fun j => veStaged j.desc (s.veProgram m j.desc))]

/-- Accept a descriptor into the queue of 16. -/
def State.veAccept (s : State) (m desc asid : Nat) (fromList : Bool) : State :=
  let j : VeJob := { desc := desc, fromList := fromList, asid := asid, start := 0, group := 0, accs := [], bcast := [],
                     stat := NumStat.zero, range := false, status := none, ran := false, stalled := false, part := 0, sets := [],
                     before := 0, feed := none }
  let v := s.vec m
  (s.setVec m { v with queue := v.queue ++ [j] }).showVec m

/-- Replace the running descriptor. -/
def State.putVe (s : State) (m : Nat) (j : Option VeJob) : State :=
  (s.setVec m { s.vec m with run := j }).showVec m

/-- Complete a descriptor: record, counter, sticky bits and counters (R151, R188, R191). -/
def State.completeVe (s : State) (m : Nat) (j : VeJob) (st : Nat) : State :=
  let n := if j.ran then j.stat else NumStat.zero
  let ws := s.veProgram m j.desc
  let s := s.writeCompletion m j.desc (completionRecord st j.range (dw j.desc 60 31 0) n.block 0)
  let s := s.bump (C.VE_CNT_DESC_DONE m) 1
  let s := if j.ran then s.bump (C.VE_CNT_LANE_FCLK m) (veTc j.desc ws j.group) else s
  let s := if j.ran && veStaged j.desc ws then s.bump (C.VE_CNT_STAGED_DESC m) 1 else s
  s.setFlds ((if n.sat = 0 then [] else [(F.VE_STICKY_SAT_SEEN m, 1)]) ++
    (if n.flush = 0 then [] else [(F.VE_STICKY_FLUSH_SEEN m, 1)]) ++
    (if n.invalid = 0 then [] else [(F.VE_STICKY_INVALID_SEEN m, 1)]) ++
    (if st = St.BAD_DESCRIPTOR ∨ st = St.BAD_FORMAT then [(F.VE_STICKY_BAD_SEEN m, 1)] else []) ++
    (if st = St.BAD_PARTIAL ∨ st = St.PARTIAL_TIMEOUT then [(F.VE_STICKY_PARTIAL_SEEN m, 1)] else []))

end Sys2Proof.Machine
end

