-- ==== Sys2Proof/Machine/Array.lean ====
section
/-!
DEFINITION. Array.lean: the commands of the array (04_matrix_engine.md). A command whose descriptor is not the
one its unit may start now leaves the state as it is.
-/

namespace Sys2Proof.Machine


/-- A unit of an ENABLED motif takes the next descriptor of operation `op`: invalid ones finish without running.
(DEDUCED: log entry 16) -/
def State.startOp (s : State) (m : Nat) (u : ArrayUnit) (op : Nat) (run : ArrayJob → State → ArrayJob × State) : State :=
  let a := s.array m
  match a.unit u, s.startable m u with
  | none, some j =>
    if dw j.desc 0 7 0 ≠ op || s.pos m ≠ 1 then s
    else
      match s.arrayCheck m j.desc with
      | some st => s.takeJob m u j { j with status := some st }
      | none =>
        let (j', s') := run j s
        s'.takeJob m u j j'
  | _, _ => s

/-- MMA (R116 to R131): the descriptor starts and its groups are added up to the first promotion due. -/
def execMma (m : Motif) (s : State) : Host.Outcome State Fault Refusal :=
  .next (s.startOp m .product 1 fun j s =>
    let (j, s) := s.startMma m j
    let (j, s) := State.runGroups m (mmaK j.desc) j s
    s.finishMma m j)

/-- CHUNK_PROMOTION (R128): the set is promoted, and the descriptor goes on to the next promotion or its end. -/
def execChunkPromotion (m : Motif) (s : State) : Host.Outcome State Fault Refusal :=
  match (s.array m).prod with
  | none => .next s
  | some j =>
    if j.due then
      let (j, s) := s.promoteSet m j
      let (j, s) := State.runGroups m (mmaK j.desc) j s
      let (j, s) := s.finishMma m j
      .next (s.putJob m .product (some j))
    else .next s

/-- DRAIN (R139 to R145). -/
def execDrain (m : Motif) (s : State) : Host.Outcome State Fault Refusal :=
  .next (s.startOp m .drain 2 fun j s => s.runDrain m j)

/-- ZERO (R150). -/
def execZero (m : Motif) (s : State) : Host.Outcome State Fault Refusal :=
  .next (s.startOp m .product 3 fun j s =>
    let k := bits j.desc 9 8
    ({ j with status := some St.OK, ran := true },
      (s.setAcc m k AccSet.zero).setFlds [(F.MX_ACCSTATE_GCNT m k, 0), (F.MX_ACCSTATE_RUN_FMT m k, 0)]))

/-- PROMOTE (R150). -/
def execPromote (m : Motif) (s : State) : Host.Outcome State Fault Refusal :=
  .next (s.startOp m .product 4 fun j s =>
    let (j, s) := s.promoteSet m j
    ({ j with status := some St.OK, ran := true }, s))

/-- A SAVE's move of its record (R146, R147): faults stall it, and it replays whole. (DESIGN CHOICE: log entry 27) -/
def State.moveSave (s : State) (m : Nat) (j : ArrayJob) : ArrayJob × State :=
  match s.vaWrite m j.asid 0 (recAddr j.desc) (s.saveRecord m j.desc) with
  | (.ok _ _, s) =>
    if dw j.desc 0 15 15 = 1 then ({ j with ran := true, ctrDue := true }, s)
    else ({ j with ran := true, status := some St.OK }, s)
  | (.fault p c l e pa, s) => ({ j with stalled := true }, s.arrayFault m j 0 2 p c l e pa)
  | (.wait, s) => (j, s)

/-- SAVE (R146 to R148). -/
def execSave (m : Motif) (s : State) : Host.Outcome State Fault Refusal :=
  match (s.array m).drain with
  | some j =>
    if dw j.desc 0 7 0 = 5 && !j.stalled && j.status.isNone && !j.ctrDue then
      let (j, s) := s.moveSave m j
      .next (s.putJob m .drain (some j))
    else .next s
  | none => .next (s.startOp m .drain 5 fun j s => s.moveSave m j)

/-- SAVE_COUNTER_ADD (R148, R320): one atomic far add of 1 at P_CTR, after the record's write is performed. -/
def execSaveCounterAdd (m : Motif) (s : State) : Host.Outcome State Fault Refusal :=
  match (s.array m).drain with
  | none => .next s
  | some j =>
    if j.ctrDue && !j.stalled && !s.owes m 0 then
      match s.vaAdd m j.asid 0 (dw j.desc 28 31 0 + dw j.desc 32 15 0 * 2 ^ 32) 1 with
      | (.ok _ ps, s) =>
        .next ((s.consume m ps).putJob m .drain
          (some { j with ctrDue := false, status := some (if ps.isEmpty then St.OK else St.POISONED) }))
      | (.fault p c l e pa, s) => .next ((s.arrayFault m j 1 3 p c l e pa).putJob m .drain (some { j with stalled := true }))
      | (.wait, s) => .next s
    else .next s

/-- A RESTORE's move (R147, R320). -/
def State.moveRestore (s : State) (m : Nat) (j : ArrayJob) : ArrayJob × State :=
  match s.vaRead m j.asid (recAddr j.desc) recBytes Need.read with
  | (.ok bs ps, s) =>
    let h := ofBytes (bs.drop 0x100000)
    if !ps.isEmpty then ({ j with status := some St.POISONED }, s.consume m ps)
    else if h % 256 ≠ 1 || bits h 9 8 = 3 then ({ j with status := some St.BAD_DESCRIPTOR }, s)
    else
      let k := bits j.desc 9 8
      let s := s.setAcc m k { run := planeOf (bs.take 0x80000), total := planeOf ((bs.drop 0x80000).take 0x80000) }
      ({ j with ran := true, status := some St.OK },
        s.setFlds [(F.MX_ACCSTATE_RUN_FMT m k, bits h 9 8), (F.MX_ACCSTATE_GCNT m k, bits h 23 16)])
  | (.fault p c l e pa, s) => ({ j with stalled := true }, s.arrayFault m j 0 1 p c l e pa)
  | (.wait, s) => (j, s)

/-- RESTORE (R147). -/
def execRestore (m : Motif) (s : State) : Host.Outcome State Fault Refusal :=
  match (s.array m).drain with
  | some j =>
    if dw j.desc 0 7 0 = 6 && !j.stalled && j.status.isNone then
      let (j, s) := s.moveRestore m j
      .next (s.putJob m .drain (some j))
    else .next s
  | none => .next (s.startOp m .drain 6 fun j s => s.moveRestore m j)

/-- ARRAY_DESC_DONE (R151): the unit's finished descriptor completes; a descriptor whose OP no unit runs
completes with BAD_DESCRIPTOR. Accesses that waited for it follow (R134). -/
def execArrayDescDone (m : Motif) (u : ArrayUnit) (s : State) : Host.Outcome State Fault Refusal :=
  let a := s.array m
  match a.unit u with
  | some j =>
    match (if u = .drain && s.owes m 0 then none else j.status) with
    | some st => .next (((s.completeArray m j st).putJob m u none).accTurn m)
    | none => .next s
  | none =>
    match s.startable m u with
    | none => .next s
    | some j =>
      match s.arrayCheck m j.desc with
      | none => .next s
      | some st => .next ((((s.takeJob m u j j).completeArray m j st).putJob m u none).accTurn m)

/-- MX_ACCSTATE_WRITE (R134, R152): it waits for the set's descriptors accepted before it. -/
def execMxAccstateWrite (m : Motif) (set : Fin 4) (v : BitVec 32) (s : State) : Host.Outcome State Fault Refusal :=
  .next (s.accTry m (mAddr m (0x8010 + 4 * set)) false (some v))

end Sys2Proof.Machine
end

