-- ==== Sys2Proof/Machine/CohOps.lean ====
section
/-!
DEFINITION. CohOps.lean: the requester's and the home's side of the coherence protocol, and atomics at the agent
that executes them (08_local_memory_and_coherence.md).
-/

namespace Sys2Proof.Machine

/-- Code of a MOESI state in a message. -/
def moesiCode : Moesi → Nat
  | .m => 0 | .o => 1 | .e => 2 | .s => 3 | .i => 4

/-- The mesh ID of the home of a line. -/
def State.homeOf (s : State) (l : Nat) : Nat := homeMotif (s.homeStack (l * 128))

/-- Agents whose caches this module's State holds: L2 slices and the yoke. -/
def ownAgent (d : Nat) : Bool := d < 49

/-! ### The requester's side -/

/-- Set of a line in an agent's cache (R279, R280). (DESIGN CHOICE: log entry 51) -/
def cacheSet (d l : Nat) : Nat := l % (if d = 48 then 32768 else 8192)

/-- The data of a line lie only in private L2s of node cores (R280). -/
def CacheAgent.onlyPrivate (a : CacheAgent) (l : Nat) : Bool :=
  match Sparse.get none a.tags l with
  | some t => t.only
  | none => false

/-- Lines of an agent's set, by key. -/
def CacheAgent.setLines (a : CacheAgent) (d l : Nat) : List (Nat × Option CacheLine) :=
  a.lines.filter fun x => cacheSet d x.1 = cacheSet d l && !a.onlyPrivate x.1

/-- Send away one line: WB of a dirty line, CLEAN_EVICT of an E line, an S line without a message (R285, R288).
(DESIGN CHOICE: log entry 50) -/
def State.evictLine (s : State) (d l : Nat) : State :=
  match s.copyOf d l with
  | none => s
  | some c =>
    let s := s.dropCopy d l
    if c.st = .m || c.st = .o then
      let s := s.onAgent d fun a => { a with wbs := Sparse.set none a.wbs l (some c.data) }
      let s := s.coh d (s.homeOf l) Coh.WB l [d, c.data.poison.toNat] (lineBytes c.data)
      if d < 48 then s.bump (C.L2_CNT_WRITEBACKS d) 1 else s
    else if c.st = .e then s.coh d (s.homeOf l) Coh.CLEAN_EVICT l [d] []
    else s

/-- An agent's transaction on a line. -/
def State.txOf (s : State) (d l : Nat) : Option Tx := Sparse.get none (s.agent d).txs l

/-- The lines of a set that can be victims: one whose UPG is under way keeps its S copy (R286). -/
def State.victims (s : State) (d l : Nat) : List Nat :=
  (((s.agent d).setLines d l).map (·.1)).filter fun x => (s.txOf d x).isNone

/-- An agent has a way for a line: the line's own, a free one, or a victim's (R279). -/
def State.hasWay (s : State) (d l : Nat) : Bool :=
  (s.copyOf d l).isSome || decide (((s.agent d).setLines d l).length < 16) || !(s.victims d l).isEmpty

/-- The victim for a line that an agent does not hold, where its set is full: a pseudo-LRU choice, which the model leaves free
(R279). (DESIGN CHOICE: log entry 21) -/
def State.victimLine (s : State) (d l : Nat) : Option Nat :=
  let ls := s.victims d l
  if (s.copyOf d l).isSome || ((s.agent d).setLines d l).length < 16 then none else ls[Config.victim s.free % ls.length]?

/-- A victim leaves its way: a line that private L2s of node cores hold stays there (R280). -/
def State.leaveWay (s : State) (d l : Nat) : State :=
  match (if d = 48 then Sparse.get none (s.agent d).tags l else none) with
  | some t => s.onAgent d fun a => { a with tags := Sparse.set none a.tags l (some { t with only := true }) }
  | none => s.evictLine d l

/-- Install a line in an agent's cache, evicting where the set is full. -/
def State.installLine (s : State) (d l : Nat) (st : Moesi) (data : LineData) : State :=
  let v := s.victimLine d l
  let s := { s with free := s.free + 1 }
  let s := match v with
    | some x => s.leaveWay d x
    | none => s
  s.onAgent d fun a => { a with lines := Sparse.set none a.lines l (some ⟨st, data⟩) }

def State.setTx (s : State) (d l : Nat) (t : Option Tx) : State :=
  s.onAgent d fun a => { a with txs := Sparse.set none a.txs l t }

/-- AOP codes of the atomic operations (R449). (DEDUCED: log entry 84) -/
def aopOf : AtomFn → Nat
  | .add => 0
  | .and => 1
  | .or => 2
  | .xor => 3
  | .min => 4
  | .max => 5
  | .minu => 6
  | .maxu => 7
  | .swap => 8
  | .cas => 9
  | .fadd => 10

/-- (DEDUCED: log entry 84) -/
def fnOfAop (c : Nat) : Option AtomFn :=
  [AtomFn.add, .and, .or, .xor, .min, .max, .minu, .maxu, .swap, .cas, .fadd].find? fun f => aopOf f = c

/-- The request message of a kind. -/
def reqCode : ReqKind → Nat
  | .rdS => Coh.RD_S
  | .rdX => Coh.RD_X
  | .upg => Coh.UPG
  | .rdNc => Coh.RD_NC
  | .wrNc _ _ _ => Coh.WR_NC
  | .atomFar _ => Coh.ATOM_FAR

/-- What a request carries beside its line (R285): the requester; a write's data, poison, mask and hint; an atomic's operations.
(DESIGN CHOICE: log entry 10) -/
def reqArgs (d : Nat) : ReqKind → List Nat × List Byte
  | .wrNc data mask hint => ([d, data.poison.toNat, mask.toNat, (hint.map (· + 1)).getD 0], lineBytes data)
  | .atomFar op => (d :: aopOf op.fn :: flag op.wide :: op.addrs.flatMap fun a =>
      a.off.toNat :: a.args.length :: a.args.flatMap fun x => [x.1.toNat, x.2.toNat], [])
  | _ => ([d], [])

/-- Send, or send again, a transaction's request. -/
def State.sendReq (s : State) (d l : Nat) (k : ReqKind) : State :=
  s.coh d (s.homeOf l) (reqCode k) l (reqArgs d k).1 (reqArgs d k).2

/-- Start a transaction: at most 128 of an agent are outstanding, one on a line (R279). -/
def State.startTx (s : State) (d l : Nat) (k : ReqKind) (near : Bool) : State :=
  if (s.txOf d l).isSome || 128 ≤ (s.agent d).txs.length then s
  else
    let t : Tx := { kind := k, near := near, refusals := 0, retryAt := none, reserved := false, granted := none, acks := 0,
                    data := none, olds := none, bad := false }
    let s := (s.setTx d l (some t)).sendReq d l k
    let far := reqCode k = Coh.ATOM_FAR
    if d < 48 then (if far then s.bump (C.L2_CNT_FAR_ATOMICS d) 1 else s.bump (C.L2_CNT_MISSES d) 1)
    else if d = 48 then s.bump C.L2_SC_CNT_MISSES 1
    else s

/-- A requester has its data, or its S copy for UPG, every INV_ACK, and a way: it takes the line and sends DONE (R286). -/
def State.finishOne (s : State) (d l : Nat) : State :=
  match s.txOf d l with
  | none => s
  | some t =>
    match t.granted with
    | none => s
    | some st =>
      if t.acks ≠ 0 || !s.hasWay d l then s
      else
        let held := (s.copyOf d l).map (·.data)
        match (if t.data.isSome then t.data else if t.kind = .upg then held else none) with
        | none => s
        | some data => ((s.setTx d l none).installLine d l st data).coh d (s.homeOf l) Coh.DONE l [d] []

/-- A transaction finishes where all has come, and those of its set that waited for a way. -/
def State.finishTx (s : State) (d l : Nat) : State :=
  let ls := ((s.agent d).txs.map (·.1)).filter fun x => x ≠ l && cacheSet d x = cacheSet d l
  ls.foldl (fun s x => s.finishOne d x) (s.finishOne d l)

/-- Entry of the contention predictor (R296). -/
def predIndex (l : Nat) : Nat := (l % 1024) ^^^ (l / 2 ^ 10 % 1024) ^^^ (l / 2 ^ 20 % 1024)

/-- Add to, or subtract from, a predictor entry; it saturates at 0 and 3 (R297). -/
def State.predict (s : State) (d l : Nat) (up : Bool) : State :=
  s.onAgent d fun a => { a with pred := Sparse.modify 0 a.pred (predIndex l) fun v => if up then min 3 (v + 1) else v - 1 }

/-- An atomic on a line goes to the home (R296, R299). -/
def State.goesFar (s : State) (d l : Nat) : Bool :=
  let mode := s.fld (F.L2_PRED_CTL_MODE d)
  if mode = 1 then false else if mode = 2 then true else 2 ≤ Sparse.get 0 (s.agent d).pred (predIndex l)

/-- A line leaves an agent's M or E by a forward or an INV: within 64 fclk of a near atomic it counts (R297). -/
def State.lineLost (s : State) (d l : Nat) : State :=
  match (s.agent d).recent.find? (fun x => x.1 = l) with
  | some (_, t) =>
    let s := s.onAgent d fun a => { a with recent := a.recent.filter fun x => x.1 ≠ l }
    if refCycles (s.now - t) ≤ 64 then s.predict d l true else s
  | none => s

/-- Change the state of a held line. -/
def State.setLineState (s : State) (d l : Nat) (st : Moesi) : State :=
  match s.copyOf d l with
  | some c => s.onAgent d fun a => { a with lines := Sparse.set none a.lines l (some { c with st := st }) }
  | none => s

/-- What an agent supplies on a forward or RECALL: its line, or the data of a WB in flight (R288). -/
def State.supply (s : State) (d l : Nat) : Option LineData :=
  match s.copyOf d l with
  | some c => some c.data
  | none => Sparse.get none (s.agent d).wbs l

/-- Send a line's data. -/
def State.sendLine (s : State) (src dst code l : Nat) (more : List Nat) (d : LineData) : State :=
  s.coh src dst code l (more ++ [d.poison.toNat]) (lineBytes d)

/-! ### The node cores' private L2s and the yoke's snoop filter (R280) -/

/-- Take a core out of a tag; a line that no private L2 holds any more, nor the system cache, leaves the yoke.
(DESIGN CHOICE: log entry 136) -/
def State.leavePrivate (s : State) (h l : Nat) : State :=
  match Sparse.get none (s.agent 48).tags l with
  | none => s
  | some t =>
    let cores := t.cores &&& ~~~(BitVec.ofNat 32 (2 ^ h))
    if cores = 0 && t.only then s.evictLine 48 l
    else s.onAgent 48 fun a => { a with tags := Sparse.set none a.tags l (if cores = 0 then none else some { t with cores := cores }) }

/-- Evict a tag: the line leaves every private L2 that holds it. -/
def State.evictTag (s : State) (l : Nat) : State :=
  let s := s.bump C.L2_SC_CNT_SF_EVICT 1
  match Sparse.get none (s.agent 48).tags l with
  | none => s
  | some t => if t.only then s.evictLine 48 l else s.onAgent 48 fun a => { a with tags := Sparse.set none a.tags l none }

/-- Node core `h` uses a line that the yoke holds: its private L2 of 1,024 sets of 16 ways takes it, the tag names the core, and
a write takes the line from the others. (DESIGN CHOICE: log entry 136) -/
def State.snoop (s : State) (h l : Nat) (own : Bool) : State :=
  let bit := BitVec.ofNat 32 (2 ^ h)
  let tags := fun (s : State) => (s.agent 48).tags.filterMap fun x => x.2.map fun t => (x.1, t)
  let s := match Sparse.get none (s.agent 48).tags l with
    | some _ => s
    | none =>
      let set := (tags s).filter fun x => x.1 % 65536 = l % 65536
      if set.length < 16 then s
      else match set[Config.victim s.free % set.length]? with
        | some v => { s with free := s.free + 1 }.evictTag v.1
        | none => s
  let mine := (tags s).filter fun x => x.2.cores.getLsbD h && x.1 % 1024 = l % 1024 && x.1 ≠ l
  let s := if mine.length < 16 then s
    else match mine[Config.victim s.free % mine.length]? with
      | some v => { s with free := s.free + 1 }.leavePrivate h v.1
      | none => s
  let t := (Sparse.get none (s.agent 48).tags l).getD { cores := 0, only := false }
  let t := { t with cores := if own then bit else t.cores ||| bit }
  s.onAgent 48 fun a => { a with tags := Sparse.set none a.tags l (some t) }

/-! ### Uncached requests on their way (R289, R293, R302) -/

/-- A request of an uncached agent. -/
def ReqKind.isUncached : ReqKind → Bool
  | .rdNc => true
  | .wrNc _ _ _ => true
  | _ => false

/-- An uncached request that its home has served, read or write. -/
def Uncached.performs (u : Uncached) (q l : Nat) (write : Bool) : Bool :=
  u.q = q && u.line = l && u.served && decide ((u.kind ≠ .rdNc) = write)

/-- An uncached request under way at its home: of the same requester, line and direction. -/
def Uncached.asks (u : Uncached) (q l : Nat) (k : ReqKind) : Bool :=
  u.q = q && u.line = l && !u.served && reqCode u.kind = reqCode k

/-- Change the first that satisfies a condition. -/
def changeFirst {α : Type} (p : α → Bool) (f : α → α) : List α → List α
  | [] => []
  | x :: xs => if p x then f x :: xs else x :: changeFirst p f xs

/-- An uncached request reaches its home, for the first time or again. -/
def State.noteUncached (s : State) (l q : Nat) (k : ReqKind) : State :=
  if !k.isUncached then s
  else if s.uncached.any (·.asks q l k) then
    { s with uncached := changeFirst (·.asks q l k) (fun u => { u with retryAt := none }) s.uncached }
  else { s with uncached := s.uncached ++
    [{ q := q, line := l, kind := k, served := false, refusals := 0, retryAt := none, reserved := false }] }

/-- Its home serves it. -/
def State.serveUncached (s : State) (l q : Nat) (k : ReqKind) : State :=
  { s with uncached := changeFirst (·.asks q l k) (fun u => { u with served := true }) s.uncached }

/-! ### The home's side -/

/-- Why a home refuses a request now (R291, R292); `serving` for a reservation being served. -/
def State.refuse (s : State) (k l : Nat) (far serving : Bool) : Option NackCause :=
  let h := s.home k
  let pinned := match h.entry l with
    | some e => match e.pin with
      | none => false
      | some .buffered => false
      | some (.toBuffer _ _) => !far
      | some _ => true
    | none => false
  let free := match h.entry l with
    | some e => e.pin.isSome
    | none => false
  if pinned || (h.victims.any fun v => v.line = l) then some .lineBusy
  else if !serving && (h.reservations.any fun r => r.1 = l) then some .reservedAhead
  else if !free && 15 ≤ h.pinnedIn l then some .setFull
  else if far && 64 ≤ h.atomQ.length then some .atomFull
  else none

/-- Codes of refusal causes in a message. -/
def nackCode : NackCause → Nat
  | .lineBusy => 0 | .setFull => 1 | .reservedAhead => 2 | .atomFull => 3

/-- Refusals so far of a transaction (R293). -/
def Home.refusalsOf (h : Home) (l q code : Nat) : Nat :=
  ((h.refusals.find? fun r => r.1 = l && r.2.1 = q && r.2.2.1 = code).map (·.2.2.2)).getD 0

/-- Forget a transaction's refusals. -/
def State.clearRefusals (s : State) (k l q code : Nat) : State :=
  s.onHome k fun h => { h with refusals := h.refusals.filter fun r => !(r.1 = l && r.2.1 = q && r.2.2.1 = code) }

/-- Show the home's L2_DIR_STATUS. -/
def State.showDir (s : State) (k : Nat) : State :=
  let h := s.home k
  s.setFlds [(F.L2_DIR_STATUS_RES_USED (homeMotif k), h.reservations.length), (F.L2_DIR_STATUS_ATOM_Q (homeMotif k), h.atomQ.length)]

/-- Refuse a request: NACK, or from the 32nd time RESERVED while the table has room (R293 to R295). The table's filling begins a
full episode and is raised. (DESIGN CHOICE: log entry 137) -/
def State.doRefuse (s : State) (k l q : Nat) (kind : ReqKind) (c : NackCause) : State :=
  let home := homeMotif k
  let h := s.home k
  let code := reqCode kind
  let n := h.refusalsOf l q code + 1
  if 32 ≤ n && h.reservations.length < 256 then
    let s := (s.clearRefusals k l q code).onHome k fun h => { h with reservations := h.reservations ++ [(l, q, kind)] }
    let s := (s.showDir k).coh home q Coh.RESERVED l [] []
    if h.reservations.length = 255 then (s.setFld (F.L2_STICKY_RES_FULL home) 1).raise Ev.RESERVATION_FULL { src := home } else s
  else
    let s := s.onHome k fun h => { h with
      refusals := (l, q, code, n) :: h.refusals.filter fun r => !(r.1 = l && r.2.1 = q && r.2.2.1 = code) }
    let s := s.bump (match c with
      | .setFull => C.L2_DIR_CNT_NACK_SET home
      | .atomFull => C.L2_DIR_CNT_NACK_ATOM home
      | _ => C.L2_DIR_CNT_NACK_BUSY home) 1
    s.coh home q Coh.NACK l [nackCode c] []

/-- The home grants from memory or announces what comes from an owner (R287). -/
def State.homeRsp (s : State) (l q : Nat) (st : Moesi) (acks : Nat) (fromMem : Bool) : State :=
  if fromMem then
    let (d, s) := s.memLine l
    s.sendLine (s.homeOf l) q Coh.HOME_RSP l [moesiCode st, acks, 1] d
  else s.coh (s.homeOf l) q Coh.HOME_RSP l [moesiCode st, acks, 0] []

/-- Set owner and sharers of a line's entry. -/
def State.setHolders (s : State) (k l : Nat) (owner : Option Nat) (sharers : BitVec 64) : State :=
  s.onHome k fun h => { h with dir := Sparse.set none h.dir l ((h.entry l).map fun e => { e with owner := owner, sharers := sharers }) }

/-- Serve RD_S, RD_X or UPG once its entry is pinned (R287). -/
def State.serveCoherent (s : State) (k l q : Nat) (kind : ReqKind) : State :=
  let e := ((s.home k).entry l).getD { owner := none, sharers := 0, pin := none, used := 0 }
  let others := (members e.sharers).filter fun d => d ≠ q && some d ≠ e.owner
  let mine := e.sharers.getLsbD q
  let s := if kind ≠ .rdS && !ownAgent q then s.killResv none l l none else s
  match kind, e.owner with
  | .rdS, some p =>
    let s := (s.coh (homeMotif k) p Coh.FWD_S l [q] []).homeRsp l q .s 0 false
    s.setHolders k l (some p) (e.sharers ||| memberBit q)
  | .rdS, none =>
    if e.sharers = 0 then (s.homeRsp l q .e 0 true).setHolders k l (some q) 0
    else (s.homeRsp l q .s 0 true).setHolders k l none (e.sharers ||| memberBit q)
  | _, some p =>
    if kind = .upg && mine then
      ((s.sendInvs l q (p :: others)).homeRsp l q .m (others.length + 1) false).setHolders k l (some q) 0
    else
      let s := (s.coh (homeMotif k) p Coh.FWD_X l [q] []).sendInvs l q others
      (s.homeRsp l q .m others.length false).setHolders k l (some q) 0
  | _, none =>
    let s := s.sendInvs l q others
    (s.homeRsp l q .m others.length (!(kind = .upg && mine))).setHolders k l (some q) 0

/-- RD_NC served by the owner or from memory (R289). -/
def State.serveRdNc (s : State) (k l q : Nat) : State :=
  match ((s.home k).entry l).bind (·.owner) with
  | some p => s.coh (homeMotif k) p Coh.FWD_NC l [q] []
  | none =>
    let (d, s) := s.memLine l
    s.sendLine (homeMotif k) q Coh.RD_RSP l [] d

/-- The copies a home removes before a write or an atomic: RECALL (or INV) to the owner, INV to the sharers,
acknowledged to the home; whether data is awaited, and how many acknowledgements. -/
def State.removeCopies (s : State) (k l : Nat) (discard : Bool) : Bool × Nat × State :=
  let e := ((s.home k).entry l).getD { owner := none, sharers := 0, pin := none, used := 0 }
  let shar := (members e.sharers).filter fun d => some d ≠ e.owner
  let home := homeMotif k
  match e.owner with
  | some o =>
    if discard then (false, shar.length + 1, s.sendInvs l home (o :: shar))
    else (true, shar.length, (s.coh home o Coh.RECALL l [] []).sendInvs l home shar)
  | none => (false, shar.length, s.sendInvs l home shar)

/-- PUSH of a hinted write's line, or its count where the target takes none (R301). -/
def State.pushLine (s : State) (k l : Nat) (t : Nat) : State :=
  if s.pushable t then
    let (d, s) := s.memLine l
    (s.pinEntry k l (.push t)).sendLine (homeMotif k) t Coh.PUSH l [] d
  else (s.bump (C.L2_DIR_CNT_PUSH_DROPPED (homeMotif k)) 1).tidyEntry k l

/-- Everything a pinned line waited for is in: merge the write, or enter the atomic buffer (R289, R298). -/
def State.settleHome (s : State) (k l : Nat) : State :=
  match ((s.home k).entry l).bind (·.pin) with
  | some (.wrNc q data mask hint false 0) =>
    let s := ((s.memWriteLine l data mask.toNat).killResv none l l none).setHolders k l none 0
    let s := s.coh (homeMotif k) q Coh.WR_ACK l [] []
    match hint with
    | some t => (s.onHome k fun h => { h with
        dir := Sparse.set none h.dir l ((h.entry l).map fun e => { e with pin := none }) }).pushLine k l t
    | none => s.pinEntry k l (.done q (.wrNc data mask none))
  | some (.toBuffer false 0) =>
    let (d, s) := (s.bufferRoom k).memLine l
    let s := s.setHolders k l none 0
    (s.onHome k fun h => { h with buffer := Sparse.set none h.buffer l (some d) }).pinEntry k l .buffered
  | _ => s

/-- Begin to take a line into the atomic buffer of 64 lines (R298). (DESIGN CHOICE: log entry 50) -/
def State.enterBuffer (s : State) (k l : Nat) : State :=
  let s := s.bufferRoom k
  let (w, n, s) := (s.pinEntry k l (.toBuffer true 0)).removeCopies k l false
  (s.pinEntry k l (.toBuffer w n)).settleHome k l

/-- Serve a request that is not refused. (DESIGN CHOICE: log entry 50) -/
def State.serve (s : State) (k l q : Nat) (kind : ReqKind) : State :=
  let s := (s.clearRefusals k l q (reqCode kind)).serveUncached l q kind
  match kind with
  | .atomFar op =>
    let s := s.onHome k fun h => { h with atomQ := h.atomQ ++ [⟨q, l, op, s.now⟩] }
    let s := match ((s.home k).entry l).bind (·.pin) with
      | some _ => s
      | none => s.enterBuffer k l
    s.showDir k
  | .rdNc =>
    (s.pinEntry k l (.done q kind)).serveRdNc k l q
  | .wrNc d mask hint =>
    let (w, n, s) := (s.pinEntry k l (.done q kind)).removeCopies k l (mask.toNat = fullMask)
    (s.pinEntry k l (.wrNc q d mask hint w n)).settleHome k l
  | _ => (s.pinEntry k l (.done q kind)).serveCoherent k l q kind

/-- Kind is a far atomic. -/
def ReqKind.isFar : ReqKind → Bool
  | .atomFar _ => true
  | _ => false

/-- A coherent request writes a buffered line back first (R298). (DESIGN CHOICE: log entry 50) -/
def State.unbuffer (s : State) (l : Nat) (kind : ReqKind) : State := if kind.isFar then s else s.flushBuffer l

/-- A request reaches a home (R286, R292, R297). (DESIGN CHOICE: log entry 50) -/
def State.request (s : State) (k l q : Nat) (kind : ReqKind) : State :=
  let home := homeMotif k
  let s := (s.noteUncached l q kind).bump (C.L2_DIR_CNT_REQUESTS home) 1
  let s := s.onHome k fun h => { h with
    arrivals := (l, q, s.now) :: h.arrivals.filter fun a => refCycles (s.now - a.2.2) ≤ 256 }
  let s := s.unbuffer l kind
  match s.refuse k l kind.isFar false with
  | some c => s.doRefuse k l q kind c
  | none => s.serve k l q kind

/-- Serve a line's oldest reservation, where its entry is unpinned and a way is available (R294). -/
def State.serveReserved (s : State) (k l : Nat) : State :=
  match (s.home k).reservations.find? (fun r => r.1 = l) with
  | none => s
  | some r =>
    let s' := s.unbuffer l r.2.2
    match s'.refuse k l r.2.2.isFar true with
    | some _ => s
    | none =>
      let s := s'.onHome k fun h => { h with reservations := h.reservations.erase r }
      (s.showDir k).serve k l r.2.1 r.2.2

/-- WB at its home (R288). -/
def State.writeBack (s : State) (k l q : Nat) (d : LineData) : State :=
  let s := s.bump (C.L2_DIR_CNT_REQUESTS (homeMotif k)) 1
  let s := match (s.home k).entry l with
    | some e => if e.owner = some q then (((s.memWriteLine l d fullMask).setHolders k l none e.sharers)).tidyEntry k l else s
    | none => s
  s.coh (homeMotif k) q Coh.WB_ACK l [] []

/-! ### Channel queues and the ingress buffer (R316) -/

/-- The first line of a waiting request. -/
def Ingress.line : Ingress → Nat
  | .req l _ _ => l
  | .wb l _ _ => l

/-- A request takes a place in its pseudo-channel's queue until its bursts are made. -/
def State.takePlace (s : State) (l : Nat) (bursts : List Nat) : State :=
  let pc := s.pcAt (l * 128)
  s.onCtl (pc / 64) fun c => { c with
    chans := Sparse.modify [] c.chans (pc % 64) (· ++ [⟨l, bursts⟩])
    sincePatrol := Sparse.modify 0 c.sincePatrol (pc % 64) (· + 1) }

/-- The bursts of a line that a request makes: those of its mask for a write, all four otherwise. -/
def burstsOf (l : Nat) : ReqKind → List Nat
  | .wrNc _ mask _ => ((List.range 4).filter fun i => mask.toNat / 2 ^ (32 * i) % 2 ^ 32 ≠ 0).map (4 * l + ·)
  | _ => (List.range 4).map (4 * l + ·)

/-- A request that is not refused reads or writes stacked memory. -/
def State.needsBurst (s : State) (k l q : Nat) (kind : ReqKind) : Bool :=
  let h := s.home k
  let owner := (h.entry l).bind (·.owner)
  let mine := ((h.entry l).map fun e => e.sharers.getLsbD q).getD false
  (s.refuse k l kind.isFar false).isNone && (match kind with
    | .wrNc _ _ _ => true
    | .atomFar _ => (Sparse.get none h.buffer l).isNone
    | .upg => owner.isNone && !mine
    | _ => owner.isNone)

/-- A waiting request needs a place. -/
def State.wantsPlace (s : State) (k : Nat) : Ingress → Bool
  | .req l q kind => s.needsBurst k l q kind
  | .wb l q _ => ((s.home k).entry l).bind (·.owner) = some q

/-- A request is processed, with a place where it needs one. -/
def State.process (s : State) (k : Nat) (x : Ingress) : State :=
  let place := s.wantsPlace k x
  match x with
  | .req l q kind => let t := s.request k l q kind; if place then t.takePlace l (burstsOf l kind) else t
  | .wb l q d => let t := s.writeBack k l q d; if place then t.takePlace l (burstsOf l .rdS) else t

/-- A request reaches its home: it is processed, or its channel's queue is full and it waits in the ingress buffer of 64; with the
buffer full the home returns no credit and the message stays at its seam. A guest's messages count only once it has joined (R25).
(DESIGN CHOICE: log entry 138) -/
def State.reach (s : State) (k q : Nat) (x : Ingress) : State :=
  if !s.onMesh q then s
  else if !s.wantsPlace k x || !s.chanFull (s.pcAt (x.line * 128)) then s.process k x
  else if (s.ctl k).ingress.length < 64 then s.onCtl k fun c => { c with ingress := c.ingress ++ [x] }
  else s

/-- Requests of the ingress buffer whose channel has room go on, oldest first; `n` bounds them. -/
def State.drainIngress (k : Nat) : Nat → State → State
  | 0, s => s
  | n + 1, s =>
    match (s.ctl k).ingress.find? (fun x => !s.chanFull (s.pcAt (x.line * 128))) with
    | none => s
    | some x => State.drainIngress k n ((s.onCtl k fun c => { c with ingress := c.ingress.erase x }).process k x)

/-- A burst of a queued request is made; a request whose bursts are all made leaves, the row closes where no other wants it, and
the ingress buffer moves up (R314, R316). -/
def State.burstMade (s : State) (pc b : Nat) : State :=
  let s := s.onCtl (pc / 64) fun c => { c with chans := Sparse.modify [] c.chans (pc % 64) fun rs =>
    (changeFirst (fun r => r.left.contains b) (fun r => { r with left := r.left.erase b }) rs).filter fun r => !r.left.isEmpty }
  let place := s.placeOf (b * 32)
  let s := if s.rowWanted pc (rowKey pc place) then s
    else s.onCtl (pc / 64) fun c => { c with opened := Sparse.set 0 c.opened (pc * 64 + uOf place / 4 % 64) 0 }
  (List.range 16).foldl (fun s k => State.drainIngress k 64 s) s

/-- The cycles in which a pseudo-channel's queue or the ingress buffer is full count (R316). -/
def State.countFull (s : State) (cycles : Nat) : State :=
  s.stackCtl.foldl (fun s (x : Nat × StackCtl) =>
    let s := if 64 ≤ x.2.ingress.length then s.bump (C.HB_CNT_INGRESS_FULL_FCLK x.1) cycles else s
    x.2.chans.foldl (fun s (y : Nat × List ChanReq) =>
      if 256 ≤ y.2.length then s.bump (C.HB_PC_CNT_QFULL_FCLK x.1 y.1) cycles else s) s) s

/-! ### Answers to the home -/

/-- An answer to a RECALL reaches its home, with data or none (R288 to R290, R298). -/
def State.recallAnswer (s : State) (k l : Nat) (d : Option LineData) : State :=
  let put := fun (s : State) => match d with
    | some d => s.memWriteLine l d fullMask
    | none => s
  let h := s.home k
  if h.victims.any (fun v => v.line = l && v.waitData) then
    (put s).onHome k fun h => { h with
      victims := (h.victims.map fun v => if v.line = l then { v with waitData := false } else v).filter fun v =>
        v.waitData || v.acks ≠ 0 }
  else
    match h.entry l with
    | some e =>
      match e.pin with
      | some (.wrNc q data mask hint true n) =>
        (((put s).setHolders k l none e.sharers).pinEntry k l (.wrNc q data mask hint false n)).settleHome k l
      | some (.toBuffer true n) =>
        (((put s).setHolders k l none e.sharers).pinEntry k l (.toBuffer false n)).settleHome k l
      | _ => s
    | none => s

/-- An INV_ACK of a home's own INV (R289, R290, R298). -/
def State.ackToHome (s : State) (k l : Nat) : State :=
  let h := s.home k
  if h.victims.any (fun v => v.line = l && v.acks ≠ 0) then
    s.onHome k fun h => { h with
      victims := (h.victims.map fun v => if v.line = l then { v with acks := v.acks - 1 } else v).filter fun v =>
        v.waitData || v.acks ≠ 0 }
  else
    match (h.entry l).bind (·.pin) with
    | some (.wrNc q data mask hint w (n + 1)) => (s.pinEntry k l (.wrNc q data mask hint w n)).settleHome k l
    | some (.toBuffer w (n + 1)) => (s.pinEntry k l (.toBuffer w n)).settleHome k l
    | _ => s

/-- The home waits for an acknowledgement on a line. -/
def State.homeAwaits (s : State) (k l : Nat) : Bool :=
  let h := s.home k
  h.victims.any (fun v => v.line = l && v.acks ≠ 0) ||
    (match (h.entry l).bind (·.pin) with
      | some (.wrNc _ _ _ _ _ (_ + 1)) => true
      | some (.toBuffer _ (_ + 1)) => true
      | _ => false)

/-! ### Atomics at their agent (R211 to R215) -/

/-- A sum of two FP32 codes, rounded once (R214). -/
def faddOne (old arg : Nat) : Nat := (fmtFp32.round true ((fmtFp32.decode old).add (fmtFp32.decode (arg % 2 ^ 32)))).1

/-- One operation on a value of `n` bits: the new value (R211, R212). -/
def atomApply (fn : AtomFn) (n old arg cmp : Nat) : Nat :=
  let so := signed n old
  let sa := signed n arg
  match fn with
  | .swap => arg % 2 ^ n
  | .add => (old + arg) % 2 ^ n
  | .xor => (old ^^^ arg) % 2 ^ n
  | .and => (old &&& arg) % 2 ^ n
  | .or => (old ||| arg) % 2 ^ n
  | .min => if sa < so then arg % 2 ^ n else old
  | .max => if so < sa then arg % 2 ^ n else old
  | .minu => if arg % 2 ^ n < old then arg % 2 ^ n else old
  | .maxu => if old < arg % 2 ^ n then arg % 2 ^ n else old
  | .cas => if old = cmp % 2 ^ n then arg % 2 ^ n else old
  | .fadd => faddOne old arg

/-- The threads of one address one by one, in ascending thread number (R213): the new value and the old ones. -/
def atomThreads (fn : AtomFn) (n : Nat) : Nat → List (BitVec 64 × BitVec 64) → Nat × List Nat
  | old, [] => (old, [])
  | old, (arg, cmp) :: rest =>
    let r := atomThreads fn n (atomApply fn n old arg.toNat cmp.toNat) rest
    (r.1, old :: r.2)

/-- FP32 codes added two by two in an order that free choices from the `n`-th on decide (R214); `k` bounds the additions.
(DESIGN CHOICE: log entry 19) -/
def treeSum : Nat → Nat → List Nat → Nat
  | 0, _, xs => xs.headD 0
  | k + 1, n, xs =>
    match xs with
    | [] => 0
    | [x] => x
    | _ =>
      let i := (Config.fadd n).toNat % xs.length
      let rest := xs.eraseIdx i
      let j := (Config.fadd (n + 1)).toNat % rest.length
      treeSum k (n + 2) (faddOne (xs.getD i 0) (rest.getD j 0) :: rest.eraseIdx j)

/-- The sum of codes in an unpromised order. (DESIGN CHOICE: log entry 19) -/
def anySum (n : Nat) (xs : List Nat) : Nat := treeSum xs.length n xs

/-- What a thread of a VAFADD.S receives: the old value with the operands of those threads that went before it, which no order
promises (R213, R214). (DESIGN CHOICE: log entry 19) -/
def seenSum (n old : Nat) (others : List Nat) : Nat :=
  anySum (n + 64) (old :: (others.zipIdx.filter fun x => (Config.fadd (n + x.2)).getLsbD 0).map (·.1))

/-- Arguments of free values that one address of a request takes. (DESIGN CHOICE: log entry 19) -/
def atomFree : Nat := 256 * 66

/-- One address of a request on a line's number: the line after it and the old values; `n` bits. The order of the sums of VAFADD.S is
free (R214). (DESIGN CHOICE: log entry 49) -/
def atomOne (fn : AtomFn) (n free line : Nat) (a : AtomAddr) : Nat × List Nat :=
  let lo := 8 * a.off.toNat
  let old := bits line (lo + n - 1) lo
  let (v, os) := if fn = .fadd then
      let ops := a.args.map fun x => x.1.toNat % 2 ^ 32
      (anySum free (old :: ops), ops.zipIdx.map fun x => seenSum (free + 256 * (x.2 + 1)) old (ops.eraseIdx x.2))
    else atomThreads fn n old a.args
  (setBits line (lo + n - 1) lo v, os)

/-- The operands of one address as one request carries them (R212, R449): each thread's for SWAP and CAS, else combined into one. -/
def combineOps (fn : AtomFn) (wide : Bool) (free : Nat) (args : List (BitVec 64 × BitVec 64)) : List (BitVec 64 × BitVec 64) :=
  match fn with
  | .swap | .cas => args
  | .fadd => [(BitVec.ofNat 64 (anySum free (args.map fun x => x.1.toNat % 2 ^ 32)), 0)]
  | _ =>
    match args with
    | [] => []
    | x :: rest => [(BitVec.ofNat 64 (rest.foldl (fun v y => atomApply fn (if wide then 64 else 32) v y.1.toNat 0)
        (x.1.toNat % 2 ^ (if wide then 64 else 32))), 0)]

/-- A request on a line: an address whose word is poisoned changes nothing (R321). The line after it, the old
values in order of address and thread, and the poisoned words used. -/
def atomLine (op : FarAtomic) (free : Nat) : List AtomAddr → LineData → LineData × List Nat × List Nat
  | [], d => (d, [], [])
  | a :: as, d =>
    let n := if op.wide then 64 else 32
    let w := a.off.toNat / 8
    let (line, os) := atomOne op.fn n free d.bytes.toNat a
    let old := bits d.bytes.toNat (8 * a.off.toNat + n - 1) (8 * a.off.toNat)
    if d.poison.getLsbD w then
      let (d', os', ps) := atomLine op (free + atomFree) as d
      (d', a.args.map (fun _ => old) ++ os', w :: ps)
    else
      let (d', os', ps) := atomLine op (free + atomFree) as { d with bytes := BitVec.ofNat 1024 line }
      (d', os ++ os', ps)

/-- The home's next far atomic (R297, R298): its line must be in the buffer; a line not there is brought in. -/
def State.farExecute (s : State) (k : Nat) : State :=
  match (s.home k).atomQ with
  | [] => s
  | r :: rest =>
    let home := homeMotif k
    match Sparse.get none (s.home k).buffer r.line with
    | none =>
      match ((s.home k).entry r.line).bind (·.pin) with
      | some _ => s
      | none => if 15 ≤ (s.home k).pinnedIn r.line then s else s.enterBuffer k r.line
    | some d =>
      let (d', olds, ps) := atomLine r.op s.free r.op.addrs d
      let recent := (s.home k).arrivals.filter fun a => a.1 = r.line && refCycles (s.now - a.2.2) ≤ 256
      let contended := (recent.erase (r.line, r.q, r.at')).isEmpty
      let s := { s with free := s.free + atomFree * (r.op.addrs.length + 1) }
      let s := (s.onHome k fun h => { h with
        atomQ := rest, buffer := Sparse.set none h.buffer r.line (some d') }).killResv none r.line r.line none
      let s := (s.bump (C.L2_DIR_CNT_FAR_EXEC home) 1).showDir k
      s.coh home r.q Coh.ATOM_RSP r.line (flag (!contended) :: ps.length :: (ps ++ olds)) []

end Sys2Proof.Machine
end

