-- ==== Sys2Proof/Machine/Coherence.lean ====
section
/-!
DEFINITION. Coherence.lean: the coherence messages, mainband memory requests and interrupt messages as commands
(08_local_memory_and_coherence.md, 11_seams_and_panel.md). A message command is its arrival; the model records
what the receiver sends in State.sent. Caches of guests lie outside the module: a message to one changes nothing here.
-/

namespace Sys2Proof.Machine

/-- A coherence message arrives: it acts only where it can arrive now (R378), and then is no longer under way. -/
def State.arrive (s : State) (dst code line : Nat) (f : State → State) : State :=
  match s.net.land dst code line with
  | none => s
  | some n => f { s with net := n }

/-- A message's arrival at the home `k` that its line belongs to. -/
def State.atHome (s : State) (k code line : Nat) (f : State → State) : State :=
  if s.homeStack (line * 128) = k then s.arrive (homeMotif k) code line f else s

/-- A request's arrival at its home. -/
def State.atHomeReq (s : State) (k line q : Nat) (kind : ReqKind) : State :=
  s.atHome k (reqCode kind) line fun s => s.reach k q (.req line q kind)

/-- RD_S at its home (R286, R287). -/
def execRdS (home : Stack) (q : Mesh) (line : BitVec 33) (s : State) : Host.Outcome State Fault Refusal :=
  .next (s.atHomeReq home line.toNat q .rdS)

/-- RD_X at its home (R286, R287). -/
def execRdX (home : Stack) (q : Mesh) (line : BitVec 33) (s : State) : Host.Outcome State Fault Refusal :=
  .next (s.atHomeReq home line.toNat q .rdX)

/-- UPG at its home (R286, R287). -/
def execUpg (home : Stack) (q : Mesh) (line : BitVec 33) (s : State) : Host.Outcome State Fault Refusal :=
  .next (s.atHomeReq home line.toNat q .upg)

/-- WB at its home (R288). -/
def execWb (home : Stack) (q : Mesh) (line : BitVec 33) (data : LineData) (s : State) : Host.Outcome State Fault Refusal :=
  .next (s.atHome home Coh.WB line.toNat fun s => s.reach home q (.wb line.toNat q data))

/-- An owner has dropped its clean line (R285, R288). -/
def State.cleanEvicted (s : State) (k l q : Nat) : State :=
  let s := s.bump (C.L2_DIR_CNT_REQUESTS (homeMotif k)) 1
  match (s.home k).entry l with
  | some e => if e.owner = some q then (s.setHolders k l none e.sharers).tidyEntry k l else s
  | none => s

/-- CLEAN_EVICT at its home (R285, R288). -/
def execCleanEvict (home : Stack) (q : Mesh) (line : BitVec 33) (s : State) : Host.Outcome State Fault Refusal :=
  .next (s.atHome home Coh.CLEAN_EVICT line.toNat fun s =>
    if s.onMesh q then s.cleanEvicted home line.toNat q else s)

/-- RD_NC at its home (R289). -/
def execRdNc (home : Stack) (q : Mesh) (line : BitVec 33) (s : State) : Host.Outcome State Fault Refusal :=
  .next (s.atHomeReq home line.toNat q .rdNc)

/-- WR_NC at its home (R289, R300, R301). -/
def execWrNc (home : Stack) (q : Mesh) (line : BitVec 33) (data : LineData) (mask : BitVec 128) (hint : Option Mesh)
    (s : State) : Host.Outcome State Fault Refusal :=
  .next (s.atHomeReq home line.toNat q (.wrNc data mask (hint.map Fin.val)))

/-- ATOM_FAR at its home (R298). -/
def execAtomFar (home : Stack) (q : Mesh) (line : BitVec 33) (op : FarAtomic) (s : State) : Host.Outcome State Fault Refusal :=
  .next (s.atHomeReq home line.toNat q (.atomFar op))

/-- FAR_ATOMIC_EXECUTE (R298). -/
def execFarAtomicExecute (home : Stack) (s : State) : Host.Outcome State Fault Refusal := .next (s.farExecute home)

/-- A message's arrival at a cache of this module. -/
def State.atCache (s : State) (d code line : Nat) (f : State → State) : State :=
  if ownAgent d then s.arrive d code line f else s

/-- An owner of this module has no data for a forward: NODATA (R288). (DEDUCED: log entry 32) -/
def State.noData (s : State) (owner l : Nat) : State := s.coh owner (s.homeOf l) Coh.NODATA l [owner] []

/-- The state that an owner falls to on FWD_S (R287): E and S to S, M and O to O. -/
def State.sharedAs (s : State) (d l : Nat) : Moesi :=
  match (s.copyOf d l).map CacheLine.st with
  | some .m => .o
  | some .o => .o
  | _ => .s

/-- An owner answers a forward or RECALL with what it supplies, or NODATA (R288). -/
def State.answer (s : State) (d l : Nat) (f : LineData → State → State) : State :=
  match s.supply d l with
  | none => s.noData d l
  | some x => f x s

/-- FWD_S at the owner (R287). -/
def execFwdS (owner : Mesh) (q : Mesh) (line : BitVec 33) (s : State) : Host.Outcome State Fault Refusal :=
  let l := line.toNat
  .next (s.atCache owner Coh.FWD_S l fun s => s.answer owner l fun d s =>
    ((s.setLineState owner l (s.sharedAs owner l)).lineLost owner l).sendLine owner q Coh.DATA l [moesiCode .s] d)

/-- FWD_X at the owner (R287). -/
def execFwdX (owner : Mesh) (q : Mesh) (line : BitVec 33) (s : State) : Host.Outcome State Fault Refusal :=
  let l := line.toNat
  .next (s.atCache owner Coh.FWD_X l fun s => s.answer owner l fun d s =>
    ((s.dropCopy owner l).lineLost owner l).sendLine owner q Coh.DATA l [moesiCode .m] d)

/-- FWD_NC at the owner (R289): no state changes. -/
def execFwdNc (owner : Mesh) (q : Mesh) (line : BitVec 33) (s : State) : Host.Outcome State Fault Refusal :=
  let l := line.toNat
  .next (s.atCache owner Coh.FWD_NC l fun s => s.answer owner l fun d s => s.sendLine owner q Coh.DATA l [moesiCode .i] d)

/-- RECALL at the owner (R288, R290); it is no loss to a forward or an INV (R297). (DEDUCED: log entry 32) -/
def execRecall (owner : Mesh) (line : BitVec 33) (s : State) : Host.Outcome State Fault Refusal :=
  let l := line.toNat
  .next (s.atCache owner Coh.RECALL l fun s => s.answer owner l fun d s =>
    (s.dropCopy owner l).sendLine owner (s.homeOf l) Coh.RECALL_DATA l [owner.val] d)

/-- INV at a sharer (R287, R288): acknowledged whether or not the line is held. -/
def execInv (sharer : Mesh) (q : Mesh) (line : BitVec 33) (s : State) : Host.Outcome State Fault Refusal :=
  let l := line.toNat
  .next (s.atCache sharer Coh.INV l fun s =>
    ((s.dropCopy sharer l).lineLost sharer l).coh sharer q Coh.INV_ACK l [sharer.val] [])

/-- An agent holds a line in M or O. -/
def State.heldDirty (s : State) (d l : Nat) : Bool :=
  match s.copyOf d l with
  | some c => c.st = .m || c.st = .o
  | none => false

/-- PUSH can be installed (R301): the target's L2 is not dark (R27), and a way can be filled without writing back a dirty victim. -/
def State.takesPush (s : State) (t l : Nat) : Bool :=
  s.pushable t && s.hasWay t l && !(match s.victimLine t l with
    | some v => s.heldDirty t v
    | none => false)

/-- PUSH at its target (R301): installed in E, or dropped. -/
def execPush (target : Mesh) (line : BitVec 33) (data : LineData) (s : State) : Host.Outcome State Fault Refusal :=
  let l := line.toNat
  let t := target.val
  .next (s.atCache t Coh.PUSH l fun s =>
    if s.takesPush t l then
      let s := s.installLine t l .e data
      let s := if t < 48 then s.bump (C.L2_CNT_PUSH_IN t) 1 else s
      s.coh t (s.homeOf l) Coh.PUSH_ACK l [t] []
    else
      let s := if t < 48 then s.bump (C.L2_CNT_PUSH_REFUSED t) 1 else s
      s.coh t (s.homeOf l) Coh.PUSH_DROP l [t] [])

/-- Change an agent's transaction on a line, and finish it where all has come (R286). -/
def State.onTx (s : State) (q l : Nat) (f : Tx → Tx) : State :=
  match s.txOf q l with
  | none => s
  | some t => (s.setTx q l (some (f t))).finishTx q l

/-- HOME_RSP at the requester (R286). -/
def execHomeRsp (q : Mesh) (line : BitVec 33) (st : Moesi) (acks : BitVec 7) (data : Option LineData) (s : State) :
    Host.Outcome State Fault Refusal :=
  .next (s.arrive q Coh.HOME_RSP line.toNat fun s => s.onTx q line.toNat fun t => { t with
    granted := some st, acks := t.acks + acks.toNat, data := if data.isSome then data else t.data })

/-- An uncached access is performed (R302), and its requester sends DONE (R286, R289). -/
def State.performed (s : State) (q l : Nat) (write : Bool) : State :=
  { s with uncached := s.uncached.eraseP (·.performs q l write) }.coh q (s.homeOf l) Coh.DONE l [q] []

/-- DATA at the requester (R286, R289). -/
def execData (q : Mesh) (line : BitVec 33) (_st : Moesi) (data : LineData) (s : State) : Host.Outcome State Fault Refusal :=
  let l := line.toNat
  .next (s.arrive q Coh.DATA l fun s =>
    if s.uncached.any (·.performs q l false) then s.performed q l false
    else s.onTx q l fun t => { t with data := some data })

/-- INV_ACK at the requester, or at the home whose own INV it answers (R286, R289, R290). -/
def execInvAck (q : Mesh) (_sharer : Mesh) (line : BitVec 33) (s : State) : Host.Outcome State Fault Refusal :=
  let l := line.toNat
  let k := s.homeStack (l * 128)
  .next (s.arrive q Coh.INV_ACK l fun s =>
    if q.val = homeMotif k && s.homeAwaits k l then s.ackToHome k l
    else s.onTx q l fun t => { t with acks := t.acks - 1 })

/-- RECALL_DATA at the home (R288 to R290). -/
def execRecallData (home : Stack) (_owner : Mesh) (line : BitVec 33) (data : LineData) (s : State) :
    Host.Outcome State Fault Refusal :=
  .next (s.atHome home Coh.RECALL_DATA line.toNat fun s => s.recallAnswer home line.toNat (some data))

/-- An owner had no data (R288): an answer to RECALL, or the home supplies the requester of a forward from memory; the sender is no
longer recorded as owner. -/
def State.suppliedByMemory (s : State) (k l owner : Nat) : State :=
  match (s.home k).entry l with
  | some e =>
    match e.pin with
    | some (.done q kind) =>
      let s := if e.owner = some owner then s.setHolders k l none e.sharers else s
      let (d, s) := s.memLine l
      if kind = .rdNc then s.sendLine (homeMotif k) q Coh.RD_RSP l [] d
      else s.sendLine (homeMotif k) q Coh.DATA l [moesiCode (if kind = .rdS then .s else .m)] d
    | _ => s.recallAnswer k l none
  | none => s.recallAnswer k l none

/-- NODATA at the home (R288). -/
def execNodata (home : Stack) (owner : Mesh) (line : BitVec 33) (s : State) : Host.Outcome State Fault Refusal :=
  .next (s.atHome home Coh.NODATA line.toNat fun s => s.suppliedByMemory home line.toNat owner)

/-- Unpin a line whose PUSH was answered. -/
def State.pushAnswer (s : State) (k l t : Nat) (owner : Option Nat) : State :=
  match (s.home k).entry l with
  | some e =>
    if e.pin = some (.push t) then (s.putEntry k l (some { e with pin := none, owner := owner })).tidyEntry k l else s
  | none => s

/-- PUSH_ACK at the home (R301). -/
def execPushAck (home : Stack) (target : Mesh) (line : BitVec 33) (s : State) : Host.Outcome State Fault Refusal :=
  .next (s.atHome home Coh.PUSH_ACK line.toNat fun s => s.pushAnswer home line.toNat target (some target.val))

/-- PUSH_DROP at the home (R301). -/
def execPushDrop (home : Stack) (target : Mesh) (line : BitVec 33) (s : State) : Host.Outcome State Fault Refusal :=
  .next (s.atHome home Coh.PUSH_DROP line.toNat fun s => s.pushAnswer home line.toNat target none)

/-- A transaction is complete: its requester's DONE unpins the entry (R286). (DESIGN CHOICE: log entry 3) -/
def State.unpinBy (s : State) (k l q : Nat) : State :=
  match (s.home k).entry l with
  | some e =>
    match e.pin with
    | some (.done p _) => if p = q then (s.putEntry k l (some { e with pin := none })).tidyEntry k l else s
    | _ => s
  | none => s

/-- DONE at the home (R286). (DESIGN CHOICE: log entry 3) -/
def execDone (home : Stack) (q : Mesh) (line : BitVec 33) (s : State) : Host.Outcome State Fault Refusal :=
  .next (s.atHome home Coh.DONE line.toNat fun s => s.unpinBy home line.toNat q)

/-- RESERVATION_SERVE (R294): the home's own event. -/
def execReservationServe (home : Stack) (line : BitVec 33) (s : State) : Host.Outcome State Fault Refusal :=
  .next (if s.homeStack (line.toNat * 128) = home then s.serveReserved home line.toNat else s)

/-- Nanoseconds that `c` cycles of fclk take at 2.25 GHz, rounded up. (DESIGN CHOICE: log entry 44) -/
def fclkNs (c : Nat) : Nat := ceilDiv (c * 4) 9

/-- The instant at which a request refused for the `n`-th time is sent again (R293, R295).
(DESIGN CHOICE: log entry 20) -/
def State.backoff (s : State) (n : Nat) : Nat :=
  let j := (Config.lfsr s.free).toNat
  s.now + fclkNs (if 64 ≤ n then 1024 + j else min (16 * 2 ^ (n - 1)) 1024 + j)

/-- A request refused 64 times (R295). -/
def State.starved (s : State) (d l n : Nat) : State :=
  if n = 64 then
    (if d < 48 then s.setFld (F.L2_STICKY_STARVED d) 1 else s).raise Ev.COHERENCE_STARVED { src := d, d0 := l * 128 }
  else s

/-- An uncached request that waits for its home's answer. -/
def Uncached.open' (u : Uncached) (q l : Nat) : Bool :=
  u.q = q && u.line = l && !u.served && !u.reserved && u.retryAt.isNone

/-- A cache's transaction is refused (R293, R295, R297). -/
def State.nackTx (s : State) (d l : Nat) (t : Tx) : State :=
  let n := t.refusals + 1
  let s := { s with free := s.free + 1 }.setTx d l (some { t with refusals := n, retryAt := some (s.backoff n) })
  let s := if d < 48 then s.bump (C.L2_CNT_NACKS d) 1 else s
  (if t.near then s.predict d l true else s).starved d l n

/-- An uncached request is refused (R293, R295). -/
def State.nackUncached (s : State) (d l : Nat) (u : Uncached) : State :=
  let n := u.refusals + 1
  let s := { s with
    free := s.free + 1
    uncached := changeFirst (·.open' d l) (fun u => { u with refusals := n, retryAt := some (s.backoff n) }) s.uncached }
  s.starved d l n

/-- NACK at the requester (R293, R295, R297): the next try comes after the backoff. (DESIGN CHOICE: log entry 20) -/
def execNack (q : Mesh) (line : BitVec 33) (_cause : NackCause) (s : State) : Host.Outcome State Fault Refusal :=
  let l := line.toNat
  let d := q.val
  .next (s.arrive d Coh.NACK l fun s =>
    match s.txOf d l with
    | some t => s.nackTx d l t
    | none =>
      match s.uncached.find? (·.open' d l) with
      | some u => s.nackUncached d l u
      | none => s)

/-- A refused uncached request whose time has come. -/
def Uncached.due (u : Uncached) (q l now : Nat) : Bool :=
  u.q = q && u.line = l && !u.served && (match u.retryAt with
    | some t => decide (t ≤ now)
    | none => false)

/-- NACK_RETRY (R293): the request is sent again; a near atomic that the predictor now sends far is given up here,
and its instruction goes to the home instead. (DESIGN CHOICE: log entry 20) -/
def execNackRetry (q : Mesh) (line : BitVec 33) (s : State) : Host.Outcome State Fault Refusal :=
  let l := line.toNat
  let d := q.val
  match s.txOf d l with
  | some t =>
    match t.retryAt with
    | none => .next s
    | some at' =>
      if s.now < at' then .next s
      else if t.near && d < 48 && s.goesFar d l then .next (s.setTx d l none)
      else .next ((s.setTx d l (some { t with retryAt := none })).sendReq d l t.kind)
  | none =>
    match s.uncached.find? (·.due d l s.now) with
    | none => .next s
    | some u => .next ({ s with
        uncached := changeFirst (·.due d l s.now) (fun u => { u with retryAt := none }) s.uncached }.sendReq d l u.kind)

/-- RESERVED at the requester (R294): it sends nothing more. -/
def execReserved (q : Mesh) (line : BitVec 33) (s : State) : Host.Outcome State Fault Refusal :=
  let l := line.toNat
  .next (s.arrive q Coh.RESERVED l fun s =>
    match s.txOf q l with
    | some t =>
      let s := s.setTx q l (some { t with reserved := true, retryAt := none })
      if q.val < 48 then s.bump (C.L2_CNT_RESERVED q) 1 else s
    | none => { s with uncached := changeFirst (·.open' q l) (fun u => { u with reserved := true }) s.uncached })

/-- WB_ACK at the former owner (R288): it no longer keeps the line's data. -/
def execWbAck (owner : Mesh) (line : BitVec 33) (s : State) : Host.Outcome State Fault Refusal :=
  .next (s.arrive owner Coh.WB_ACK line.toNat fun s =>
    s.onAgent owner fun a => { a with wbs := Sparse.set none a.wbs line.toNat none })

/-- WR_ACK at the requester: its uncached write is performed (R302). -/
def execWrAck (q : Mesh) (line : BitVec 33) (s : State) : Host.Outcome State Fault Refusal :=
  let l := line.toNat
  .next (s.arrive q Coh.WR_ACK l fun s =>
    if s.uncached.any (·.performs q l true) then s.performed q l true else s)

/-- RD_RSP at the requester: its uncached read is performed (R302). -/
def execRdRsp (q : Mesh) (line : BitVec 33) (_data : LineData) (s : State) : Host.Outcome State Fault Refusal :=
  let l := line.toNat
  .next (s.arrive q Coh.RD_RSP l fun s =>
    if s.uncached.any (·.performs q l false) then s.performed q l false else s)

/-- ATOM_RSP at the requester (R297, R298): old values for the waiting instruction. -/
def execAtomRsp (q : Mesh) (line : BitVec 33) (olds : List (BitVec 64)) (contended poisoned : Bool) (s : State) :
    Host.Outcome State Fault Refusal :=
  let l := line.toNat
  .next (s.arrive q Coh.ATOM_RSP l fun s =>
    match s.txOf q l with
    | none => s
    | some t =>
      if t.kind.isFar then
        let s := s.setTx q l (some { t with olds := some olds, bad := poisoned })
        if q.val < 48 then s.predict q l contended else s
      else s)

/-- The code under which a memory response is under way. -/
abbrev Coh.MEM_RSP : Nat := 100

/-- The die that performs a memory request: a motif for its aperture, else the home. -/
def State.memDie (s : State) : MemReq → Nat
  | .read pa _ | .write pa _ _ | .atomic pa _ _ _ =>
    let a := pa.toNat
    if apertureBase ≤ a ∧ a < 0x010300000000 then (a - apertureBase) / 0x10000000 else homeMotif (s.homeStack (plainPa a))

/-- Answer a memory request; `ps` numbers the poisoned words of the data. -/
def State.memAnswer (s : State) (src tag : Nat) (r : MemReq) (ok : Bool) (bs : List Byte) (ps : List Nat) : State :=
  { s with tu := { s.tu with memOut := s.tu.memOut ++ [(src, tag, r)] }
           net := s.net.put 4 (s.memDie r) src Coh.MEM_RSP tag }.send
    { kind := .mem, dst := src, args := [tag, flag ok] ++ ps, bytes := bs }

/-- An atomic of one 4- or 8-byte address of this module (R211 to R214): the old value of each of its operations, the poisoned words
used, the state. -/
def State.atomicAt (s : State) (pa : Nat) (fn : AtomFn) (wide : Bool) (ops : List (BitVec 64 × BitVec 64)) :
    List Nat × List Nat × State :=
  let n := if wide then 8 else 4
  let one := fun old => atomOne fn (8 * n) s.free old ⟨0, ops⟩
  let (bs, ps, t) := s.wordOp pa n fun old => (one old).1
  ((one (ofBytes bs)).2, ps, { t with free := t.free + atomFree })

/-! ### Uncached requests of the host, the guests and other dies (R134, R277, R286, R338, R399, R410, R427) -/

/-- Completion statuses of PCI Express: Successful Completion, Unsupported Request, Completer Abort.
(PRESUMED: log entry 96) -/
abbrev Cpl.SC : Nat := 0
/-- (PRESUMED: log entry 96) -/
abbrev Cpl.UR : Nat := 1
/-- (PRESUMED: log entry 96) -/
abbrev Cpl.CA : Nat := 4

/-- A completion to a requester. -/
def State.completion (s : State) (rid status : Nat) (ep : Bool) (bs : List Byte) : State :=
  s.send { kind := .hostCompletion, dst := rid, args := [status, flag ep], bytes := bs }

/-- TLPs with EP among a read's completions: at least one, at most one for each poisoned word; how a read is cut into TLPs the
spec leaves open. (DESIGN CHOICE: log entry 97) -/
def State.epSent (s : State) (words : Nat) : State :=
  if words = 0 then s
  else
    let (n, s) := s.takeFree
    (s.bump C.PX_CNT_EP_SENT (1 + (Config.freeWord n).toNat % words)).setFld F.PX_STICKY_EP_SENT 1

/-- The order a request keeps (R277): the host's link, a guest's seam, or the path from a die to the die that serves it.
(DESIGN CHOICE: log entry 156) -/
def State.reqPath (s : State) : ReqFrom → Nat × Nat
  | .host _ _ => (0, 0)
  | .guest g => (1, g)
  | .mesh src _ r => (2 + src, s.memDie r)

/-- A home, a set or the home's atomic unit makes the request wait. -/
def State.reqBusy (s : State) : ReqAct → Bool
  | .read pa n => s.physBusy pa n
  | .write pa bs _ => s.physBusy pa bs.length
  | .atomic pa _ wide _ => s.atomBusy pa (if wide then 8 else 4)

/-- The poisoned words that a request uses at this node (R320): all that go to the host, and an atomic's. -/
def State.reqConsume (s : State) (q : ReqFrom) (atomic : Bool) (ps : List Nat) : State :=
  match q with
  | .host _ _ => s.consume 48 ps
  | .guest g => if atomic then s.consume (56 + g) ps else s
  | .mesh src _ _ => if atomic then s.consume src ps else s

/-- The answer to a request: the host's completion, which a posted write has not, nor what a host-side reset discards (R427);
or the response over the mesh. (DESIGN CHOICE: log entry 93) -/
def State.reqAnswer (s : State) (q : ReqFrom) (posted : Bool) (bs : List Byte) (ps : List Nat) : State :=
  match q with
  | .host rid wanted => if posted || !wanted then s else (s.epSent ps.length).completion rid Cpl.SC (!ps.isEmpty) bs
  | .guest g => s.send { kind := .mem, dst := 56 + g, args := [1, 0] ++ ps, bytes := bs }
  | .mesh src tag r => s.memAnswer src tag r true bs ps

/-- Perform a request. -/
def State.performReq (s : State) (q : HeldReq) : State :=
  match q.act with
  | .read pa n =>
    let (bs, ps, s) := s.physRead pa n
    (s.reqConsume q.src false ps).reqAnswer q.src false bs (ps.map (· - plainPa pa / 8))
  | .write pa bs ps => (s.physWrite pa bs ps).reqAnswer q.src true [] []
  | .atomic pa fn wide ops =>
    let (olds, ps, s) := s.atomicAt pa fn wide ops
    (s.reqConsume q.src true ps).reqAnswer q.src false (olds.flatMap (toBytes (if wide then 8 else 4)))
      (ps.map (· - plainPa pa / 8))

/-- Take a request: it is performed, or waits for its line or set, and behind those of its path that wait.
(DESIGN CHOICE: log entry 156) -/
def State.takeReq (s : State) (q : HeldReq) : State :=
  if s.reqBusy q.act || s.tu.reqs.any fun x => decide (s.reqPath x.src = s.reqPath q.src) then
    { s with tu := { s.tu with reqs := s.tu.reqs ++ [q] } }
  else s.performReq q

/-- Take the waiting requests again, in their order. (DESIGN CHOICE: log entry 156) -/
def State.retryReqs (s : State) : State := s.tu.reqs.foldl State.takeReq { s with tu := { s.tu with reqs := [] } }

/-- The completions of the host's requests that wait are discarded (R427). (DESIGN CHOICE: log entry 156) -/
def State.disownReqs (s : State) : State :=
  { s with tu := { s.tu with reqs := s.tu.reqs.map fun q => match q.src with
    | .host rid _ => { q with src := .host rid false }
    | _ => q } }

/-- A die's or a guest's request as it acts on this node's memory. -/
def memAct : MemReq → ReqAct
  | .read pa len => .read pa.toNat len.toNat
  | .write pa data ps => .write pa.toNat (data.map some) (ps.map (plainPa pa.toNat / 8 + ·))
  | .atomic pa fn wide ops => .atomic pa.toNat fn wide ops

/-- The address of a request, its bytes and its shape as R354 judges them. -/
def memSpan : MemReq → Nat × Nat × Shape
  | .read pa len => (pa.toNat, len.toNat, .plain len.toNat)
  | .write pa data _ => (pa.toNat, data.length, .plain data.length)
  | .atomic pa _ _ _ => (pa.toNat, 8, .atomic)

/-- MEM_REQ (R277, R278, R335, R375): a motif's inbound port or a home performs the request; one that R354 refuses
is answered as not performed; one held up waits. -/
def execMemReq (src : Mesh) (tag : BitVec 16) (r : MemReq) (s : State) : Host.Outcome State Fault Refusal :=
  let (pa, _, sh) := memSpan r
  .next (if !s.onMesh src.val then s
    else if (s.spanFault pa sh).isSome then s.memAnswer src.val tag.toNat r false [] []
    else s.takeReq ⟨.mesh src.val tag.toNat r, memAct r⟩)

/-- MEM_RSP (R375): the requester has its answer. -/
def execMemRsp (dst : Mesh) (tag : BitVec 16) (ok : Bool) (data : MemData) (s : State) :
    Host.Outcome State Fault Refusal :=
  .next (s.arrive dst Coh.MEM_RSP tag.toNat fun s =>
    match s.tu.memOut.find? (fun x => x.1 = dst.val && x.2.1 = tag.toNat) with
    | none => s
    | some x =>
      let what : Landed := if ok then .data data.bytes (data.poison.map ((memSpan x.2.2).1 / 8 + ·)) else .refused
      { s with tu := { s.tu with memOut := s.tu.memOut.erase x, landed := s.tu.landed ++ [(dst.val, x.2.2, what)] } })

/-- INT_MESSAGE (R375): a message is due on the vector (R423). -/
def execIntMessage (src : Mesh) (vector : BitVec 11) (s : State) : Host.Outcome State Fault Refusal :=
  .next (if s.onMesh src then s.notify vector.toNat else s)

/-- L2_PRED_CLEAR: every predictor entry becomes 0 (R296, L2_PRED_CTL.CLEAR). -/
def execL2PredClear (m : Motif) (s : State) : Host.Outcome State Fault Refusal :=
  .next (s.onAgent m fun a => { a with pred := [] })

end Sys2Proof.Machine
end

