-- ==== Sys2Proof/Machine/Digest.lean ====
section
/-!
DEFINITION. Digest.lean: the check codes and the hash that the spec names: CRC-32C (R260, R492), CRC-16 of the chain and
fabric frames, and SHA-256 (R493, R507).
-/

namespace Sys2Proof.Machine

/-- One bit of a reflected CRC with the polynomial `poly`. -/
def crcBit (poly c : Nat) : Nat := if c % 2 = 1 then c / 2 ^^^ poly else c / 2

/-- `n` bits of it. -/
def crcBits (poly : Nat) : Nat → Nat → Nat
  | 0, c => c
  | n + 1, c => crcBits poly n (crcBit poly c)

/-- A reflected 32-bit CRC of bytes, all ones before and inverted after. -/
def crc32 (poly : Nat) (bs : List Byte) : Nat :=
  (bs.foldl (fun c b => crcBits poly 8 (c ^^^ b.toNat)) 0xFFFFFFFF) ^^^ 0xFFFFFFFF

/-- CRC-32C: reflected polynomial 0x82F6_3B78. -/
def crc32c (bs : List Byte) : Nat := crc32 0x82F63B78 bs

/-! ### SHA-256 (FIPS 180-4): its constants are fractions of roots of primes, and the schedule runs beside the rounds -/

/-- The primes below `n`. -/
def primesBelow (n : Nat) : List Nat :=
  (List.range n).filter fun p => 2 ≤ p && (List.range p).all fun d => d < 2 || p % d ≠ 0

/-- Find the bits below `b` of the greatest `x` from `r` on with `x ^ k ≤ n`. -/
def rootBits (k n : Nat) : Nat → Nat → Nat
  | 0, r => r
  | b + 1, r => rootBits k n b (if (r + 2 ^ b) ^ k ≤ n then r + 2 ^ b else r)

/-- The first 32 fraction bits of the `k`-th root of `p`. -/
def rootFraction (k p : Nat) : BitVec 32 := BitVec.ofNat 32 (rootBits k (p * 2 ^ (32 * k)) 36 0)

/-- The eight working words of the hash. -/
structure ShaWords where
  a : BitVec 32
  b : BitVec 32
  c : BitVec 32
  d : BitVec 32
  e : BitVec 32
  f : BitVec 32
  g : BitVec 32
  h : BitVec 32

/-- Words in order. -/
def ShaWords.toList (v : ShaWords) : List (BitVec 32) := [v.a, v.b, v.c, v.d, v.e, v.f, v.g, v.h]

/-- Word by word sums. -/
def ShaWords.add (v w : ShaWords) : ShaWords :=
  ⟨v.a + w.a, v.b + w.b, v.c + w.c, v.d + w.d, v.e + w.e, v.f + w.f, v.g + w.g, v.h + w.h⟩

/-- The first hash value: square roots of the first eight primes. -/
def ShaWords.first : ShaWords :=
  let r := rootFraction 2
  ⟨r 2, r 3, r 5, r 7, r 11, r 13, r 17, r 19⟩

/-- The exclusive or of three rotations. -/
def rotations (x : BitVec 32) (i j k : Nat) : BitVec 32 := x.rotateRight i ^^^ x.rotateRight j ^^^ x.rotateRight k

/-- A round with `x`, the sum of its constant and its schedule word. -/
def ShaWords.round (v : ShaWords) (x : BitVec 32) : ShaWords :=
  let pick := v.g ^^^ (v.e &&& (v.f ^^^ v.g))
  let most := (v.a &&& v.b) ||| (v.c &&& (v.a ||| v.b))
  let t := v.h + rotations v.e 6 11 25 + pick + x
  { v with a := t + rotations v.a 2 13 22 + most, b := v.a, c := v.b, d := v.c, e := v.d + t, f := v.e, g := v.f, h := v.g }

/-- The schedule word sixteen after the first of a window of sixteen. -/
def shaNext (w : List (BitVec 32)) : BitVec 32 :=
  let at' := fun i => w.getD i 0
  let near := at' 1
  let far := at' 14
  at' 0 + at' 9 + (near.rotateRight 7 ^^^ near.rotateRight 18 ^^^ (near >>> 3)) +
    (far.rotateRight 17 ^^^ far.rotateRight 19 ^^^ (far >>> 10))

/-- A block: one round for each constant, while the window of the schedule moves on. -/
def shaRounds : List (BitVec 32) → List (BitVec 32) → ShaWords → ShaWords
  | [], _, v => v
  | k :: ks, w, v => shaRounds ks (w.drop 1 ++ [shaNext w]) (v.round (k + w.getD 0 0))

/-- The number that bytes spell, most significant first. -/
def beNat (bs : List Byte) : Nat := ofBytes bs.reverse

/-- Hash `n` blocks of a padded message. -/
def shaChain (ks : List (BitVec 32)) : Nat → List Byte → ShaWords → ShaWords
  | 0, _, v => v
  | n + 1, bs, v =>
    let w := (List.range 16).map fun i => BitVec.ofNat 32 (beNat ((bs.drop (4 * i)).take 4))
    shaChain ks n (bs.drop 64) (v.add (shaRounds ks w v))

/-- SHA-256, its 32 bytes in order: the message, a one bit, zeros, and its length in bits fill whole blocks. -/
def sha256 (bs : List Byte) : List Byte :=
  let blocks := (bs.length + 72) / 64
  let zeros := 64 * blocks - bs.length - 9
  let msg := bs ++ 0x80 :: (List.replicate zeros 0 ++ (toBytes 8 (8 * bs.length)).reverse)
  let v := shaChain ((primesBelow 312).map (rootFraction 3)) blocks msg ShaWords.first
  v.toList.flatMap fun x => (toBytes 4 x.toNat).reverse

end Sys2Proof.Machine
end

