-- ==== Sys2Proof/Machine/Riscv.lean ====
section
/-!
DEFINITION. Riscv.lean: fields, integer operations and floating-point operations of RV64IMAF with Zfh as the
needles execute them (R196), with round to nearest even as the only rounding (R98, R99).
-/

namespace Sys2Proof.Machine

/-! ### Fields -/

def rvOp (w : Nat) : Nat := bits w 6 0
def rvRd (w : Nat) : Nat := bits w 11 7
def rvF3 (w : Nat) : Nat := bits w 14 12
def rvRs1 (w : Nat) : Nat := bits w 19 15
def rvRs2 (w : Nat) : Nat := bits w 24 20
def rvRs3 (w : Nat) : Nat := bits w 31 27
def rvF7 (w : Nat) : Nat := bits w 31 25
def immI (w : Nat) : Int := signed 12 (bits w 31 20)
def immS (w : Nat) : Int := signed 12 (bits w 31 25 * 32 + bits w 11 7)
def immB (w : Nat) : Int :=
  signed 13 (bits w 31 31 * 4096 + bits w 7 7 * 2048 + bits w 30 25 * 32 + bits w 11 8 * 2)
def immU (w : Nat) : Int := signed 32 (bits w 31 12 * 4096)
def immJ (w : Nat) : Int :=
  signed 21 (bits w 31 31 * 2 ^ 20 + bits w 19 12 * 4096 + bits w 20 20 * 2048 + bits w 30 21 * 2)

/-- A 64-bit register value from an integer. -/
def reg64 (v : Int) : Nat := unsigned 64 v

/-- A 32-bit value sign-extended to 64 bits. -/
def sext32 (v : Nat) : Nat := reg64 (signed 32 v)

/-- `a + b` modulo 2^64. -/
def add64 (a : Nat) (b : Int) : Nat := reg64 ((a : Int) + b)

/-! ### Integer operations -/

/-- Division and remainder of `n`-bit values as the M extension defines them. -/
def rvDiv (n : Nat) (isSigned isRem : Bool) (a b : Nat) : Nat :=
  if isSigned then
    let x := signed n a
    let y := signed n b
    if isRem then (if y = 0 then unsigned n x else unsigned n (x.tmod y))
    else (if y = 0 then 2 ^ n - 1 else unsigned n (x.tdiv y))
  else
    let x := a % 2 ^ n
    let y := b % 2 ^ n
    if isRem then (if y = 0 then x else x % y) else (if y = 0 then 2 ^ n - 1 else x / y)

/-- The base operations of `n` bits by funct3, shift amount modulo `n`; `alt` for SUB and SRA. -/
def rvBase (n : Nat) (alt : Bool) (f3 a b : Nat) : Nat :=
  let sh := b % n
  match f3 with
  | 0 => if alt then unsigned n ((a : Int) - b) else (a + b) % 2 ^ n
  | 1 => a * 2 ^ sh % 2 ^ n
  | 2 => if signed n a < signed n b then 1 else 0
  | 3 => if a < b then 1 else 0
  | 4 => a ^^^ b
  | 5 => if alt then unsigned n ((signed n a).fdiv ((2 ^ sh : Nat) : Int)) else a % 2 ^ n / 2 ^ sh
  | 6 => a ||| b
  | _ => a &&& b

/-- The M extension by funct3 on 64 bits. -/
def rvMul (f3 a b : Nat) : Nat :=
  match f3 with
  | 0 => a * b % 2 ^ 64
  | 1 => unsigned 64 ((signed 64 a * signed 64 b).fdiv ((2 ^ 64 : Nat) : Int))
  | 2 => unsigned 64 ((signed 64 a * (b : Int)).fdiv ((2 ^ 64 : Nat) : Int))
  | 3 => a * b / 2 ^ 64
  | 4 => rvDiv 64 true false a b
  | 5 => rvDiv 64 false false a b
  | 6 => rvDiv 64 true true a b
  | _ => rvDiv 64 false true a b

/-- Integer computation: LUI, AUIPC, OP-IMM, OP-IMM-32, OP and OP-32; none where the word is none of them. -/
def rvAlu (w pc a b : Nat) : Option Nat :=
  let f3 := rvF3 w
  let f7 := rvF7 w
  let i := reg64 (immI w)
  match rvOp w with
  | 0x37 => some (reg64 (immU w))
  | 0x17 => some (add64 pc (immU w))
  | 0x13 =>
    if f3 = 1 then (if bits w 31 26 = 0 then some (rvBase 64 false 1 a (bits w 25 20)) else none)
    else if f3 = 5 then
      (if bits w 31 26 = 0 then some (rvBase 64 false 5 a (bits w 25 20))
       else if bits w 31 26 = 0x10 then some (rvBase 64 true 5 a (bits w 25 20)) else none)
    else some (rvBase 64 false f3 a i)
  | 0x1B =>
    if f3 = 0 then some (sext32 ((a + i) % 2 ^ 32))
    else if f3 = 1 ∧ f7 = 0 then some (sext32 (rvBase 32 false 1 (a % 2 ^ 32) (rvRs2 w)))
    else if f3 = 5 ∧ f7 = 0 then some (sext32 (rvBase 32 false 5 (a % 2 ^ 32) (rvRs2 w)))
    else if f3 = 5 ∧ f7 = 0x20 then some (sext32 (rvBase 32 true 5 (a % 2 ^ 32) (rvRs2 w)))
    else none
  | 0x33 =>
    if f7 = 0 then some (rvBase 64 false f3 a b)
    else if f7 = 0x20 ∧ (f3 = 0 ∨ f3 = 5) then some (rvBase 64 true f3 a b)
    else if f7 = 1 then some (rvMul f3 a b)
    else none
  | 0x3B =>
    let x := a % 2 ^ 32
    let y := b % 2 ^ 32
    if f7 = 0 ∧ (f3 = 0 ∨ f3 = 1 ∨ f3 = 5) then some (sext32 (rvBase 32 false f3 x y))
    else if f7 = 0x20 ∧ (f3 = 0 ∨ f3 = 5) then some (sext32 (rvBase 32 true f3 x y))
    else if f7 = 1 then
      match f3 with
      | 0 => some (sext32 (x * y % 2 ^ 32))
      | 4 => some (sext32 (rvDiv 32 true false x y))
      | 5 => some (sext32 (rvDiv 32 false false x y))
      | 6 => some (sext32 (rvDiv 32 true true x y))
      | 7 => some (sext32 (rvDiv 32 false true x y))
      | _ => none
    else none
  | _ => none

/-- A conditional branch is taken; none where the word is none. -/
def rvTaken (f3 a b : Nat) : Option Bool :=
  match f3 with
  | 0 => some (a = b)
  | 1 => some (a ≠ b)
  | 4 => some (signed 64 a < signed 64 b)
  | 5 => some (!(decide (signed 64 a < signed 64 b)))
  | 6 => some (a < b)
  | 7 => some (!(decide (a < b)))
  | _ => none

/-! ### Floating point -/

/-- fflags bits: NV, DZ, OF, UF, NX. -/
def fNV : Nat := 16
def fDZ : Nat := 8
def fOF : Nat := 4
def fUF : Nat := 2
def fNX : Nat := 1

/-- A code is a signalling NaN of a format. -/
def Fmt.isSnan (f : Fmt) (c : Nat) : Bool :=
  let mag := c % f.signBit
  mag / 2 ^ f.mbits = f.expOnes && mag % 2 ^ f.mbits ≠ 0 && mag % 2 ^ f.mbits < 2 ^ (f.mbits - 1)

/-- The rounded magnitude is below the least normal: tiny after rounding. -/
def Fmt.tiny (f : Fmt) (m : Nat) (e : Int) : Bool :=
  let q := floorLog2 m e - f.mbits
  decide (q < f.emin) && rneAt m e q < 2 ^ (f.emin - q).toNat

/-- Round an exact value into a format, with its flags. -/
def Fmt.roundF (f : Fmt) (x : Num) : Nat × Nat :=
  let c := (f.round true x).1
  match x with
  | .fin _ m e =>
    if m = 0 then (c, 0)
    else
      let y := f.decode c
      if y.isInf then (c, fOF + fNX)
      else if y.eq x then (c, 0)
      else (c, fNX + if f.tiny m e then fUF else 0)
  | _ => (c, 0)

/-- A computed result with the invalid flag where it is a NaN that no operand was, or an operand signals. -/
def fpResult (f : Fmt) (ops : List Nat) (x : Num) : Nat × Nat :=
  let nan := ops.any fun c => (f.decode c).isNan
  let nv := ops.any f.isSnan || (x.isNan && !nan)
  let (c, fl) := f.roundF x
  (c, fl ||| if nv then fNV else 0)

/-- The classification of FCLASS. -/
def fpClass (f : Fmt) (c : Nat) : Nat :=
  match f.decode c with
  | .nan => if f.isSnan c then 256 else 512
  | .inf neg => if neg then 1 else 128
  | .fin neg m e =>
    if m = 0 then (if neg then 8 else 16)
    else if floorLog2 m e < f.emin then (if neg then 4 else 32)
    else if neg then 2 else 64

/-- Conversion to an integer of `n` bits, with its flags. -/
def fpToInt (n : Nat) (isSigned : Bool) (x : Num) : Nat × Nat :=
  let hi : Int := if isSigned then ((2 ^ (n - 1) : Nat) : Int) - 1 else ((2 ^ n : Nat) : Int) - 1
  let lo : Int := if isSigned then -((2 ^ (n - 1) : Nat) : Int) else 0
  match x with
  | .nan => (unsigned n hi, fNV)
  | .inf neg => (unsigned n (if neg then lo else hi), fNV)
  | .fin neg m e =>
    let k : Int := ((rneAt m e 0 : Nat) : Int)
    let v := if neg then -k else k
    if hi < v then (unsigned n hi, fNV)
    else if v < lo then (unsigned n lo, fNV)
    else (unsigned n v, if (Num.ofInt v).eq x then 0 else fNX)

/-- The format that an instruction's fmt field names: 0 S, 2 H. -/
def rvFmt (w : Nat) : Option Fmt := if bits w 26 25 = 0 then some fmtFp32 else if bits w 26 25 = 2 then some fmtFp16 else none

/-- The code of an f register in a format: an FP16 value must be NaN-boxed. -/
def unbox (f : Fmt) (v : Nat) : Nat :=
  if f.mbits = 10 then (if v / 2 ^ 16 % 2 ^ 16 = 0xFFFF then v % 2 ^ 16 else f.nanCode) else v % 2 ^ 32

/-- A code as an f register holds it. -/
def nanBox (f : Fmt) (c : Nat) : Nat := if f.mbits = 10 then 0xFFFF0000 + c % 2 ^ 16 else c % 2 ^ 32

/-- A rounding-mode field the needles accept (R99). -/
def rmOk (w : Nat) : Bool := rvF3 w = 0 || rvF3 w = 7

/-- What a floating-point instruction gives: whether to f[rd], the value, the flags. -/
abbrev FpOut := Bool × Nat × Nat

/-- Minimum and maximum of FMIN and FMAX: one NaN gives the other operand. -/
def fpMinMax (f : Fmt) (isMax : Bool) (a b : Nat) : Nat × Nat :=
  let x := f.decode a
  let y := f.decode b
  let nv := if f.isSnan a || f.isSnan b then fNV else 0
  let r := if x.isNan && y.isNan then f.nanCode
    else if x.isNan then b
    else if y.isNan then a
    else (f.round true (if isMax then x.maxOf y else x.minOf y)).1
  (r, nv)

/-- The OP-FP instructions (R196); none for an illegal one. `x1` is x[rs1], `a` and `b` are f[rs1] and f[rs2]. -/
def rvFp (w x1 a b : Nat) : Option FpOut :=
  match rvFmt w with
  | none => none
  | some f =>
    let h := f.mbits = 10
    let fa := unbox f a
    let fb := unbox f b
    let x := f.decode fa
    let y := f.decode fb
    let boxed := fun (r : Nat × Nat) => some (true, nanBox f r.1, r.2)
    let rs2 := rvRs2 w
    let rm := rvF3 w
    match bits w 31 27 with
    | 0x00 => if rmOk w then boxed (fpResult f [fa, fb] (x.add y)) else none
    | 0x01 => if rmOk w then boxed (fpResult f [fa, fb] (x.add y.neg)) else none
    | 0x02 => if rmOk w then boxed (fpResult f [fa, fb] (x.mul y)) else none
    | 0x03 =>
      if rmOk w then
        let (c, fl) := fpResult f [fa, fb] (x.div y)
        boxed (c, fl ||| if x.isFin && !x.isZero && y.isZero then fDZ else 0)
      else none
    | 0x0B => if rmOk w && rs2 = 0 then boxed (fpResult f [fa] x.sqrt) else none
    | 0x04 =>
      let mag := fa % f.signBit
      let sa := fa / f.signBit % 2
      let sb := fb / f.signBit % 2
      if rm = 0 then boxed (mag + sb * f.signBit, 0)
      else if rm = 1 then boxed (mag + (1 - sb) * f.signBit, 0)
      else if rm = 2 then boxed (mag + ((sa + sb) % 2) * f.signBit, 0)
      else none
    | 0x05 => if rm ≤ 1 then boxed (fpMinMax f (rm = 1) fa fb) else none
    | 0x14 =>
      let nan := x.isNan || y.isNan
      let sn := f.isSnan fa || f.isSnan fb
      if rm = 2 then some (false, if x.eq y then 1 else 0, if sn then fNV else 0)
      else if rm = 1 then some (false, if x.lt y then 1 else 0, if nan then fNV else 0)
      else if rm = 0 then some (false, if x.lt y || x.eq y then 1 else 0, if nan then fNV else 0)
      else none
    | 0x18 =>
      if !rmOk w then none
      else
        match rs2 with
        | 0 => let (v, fl) := fpToInt 32 true x; some (false, sext32 v, fl)
        | 1 => let (v, fl) := fpToInt 32 false x; some (false, sext32 v, fl)
        | 2 => let (v, fl) := fpToInt 64 true x; some (false, v, fl)
        | 3 => let (v, fl) := fpToInt 64 false x; some (false, v, fl)
        | _ => none
    | 0x1A =>
      if !rmOk w then none
      else
        match rs2 with
        | 0 => boxed (f.roundF (Num.ofInt (signed 32 x1)))
        | 1 => boxed (f.roundF (Num.ofInt ((x1 % 2 ^ 32 : Nat) : Int)))
        | 2 => boxed (f.roundF (Num.ofInt (signed 64 x1)))
        | 3 => boxed (f.roundF (Num.ofInt (x1 : Int)))
        | _ => none
    | 0x1C =>
      if rs2 ≠ 0 then none
      else if rm = 0 then some (false, if h then reg64 (signed 16 a) else sext32 a, 0)
      else if rm = 1 then some (false, fpClass f fa, 0)
      else none
    | 0x1E => if rs2 = 0 && rm = 0 then some (true, if h then 0xFFFF0000 + x1 % 2 ^ 16 else x1 % 2 ^ 32, 0) else none
    | 0x08 =>
      if !rmOk w then none
      else if !h && rs2 = 2 then
        let c := unbox fmtFp16 a
        let (r, fl) := fmtFp32.roundF (fmtFp16.decode c)
        some (true, r, fl ||| if fmtFp16.isSnan c then fNV else 0)
      else if h && rs2 = 0 then
        let c := a % 2 ^ 32
        let (r, fl) := fmtFp16.roundF (fmtFp32.decode c)
        boxed (r, fl ||| if fmtFp32.isSnan c then fNV else 0)
      else none
    | _ => none

/-- FMADD, FMSUB, FNMSUB and FNMADD. -/
def rvFma (w a b c : Nat) : Option FpOut :=
  match rvFmt w with
  | none => none
  | some f =>
    if !rmOk w then none
    else
      let (fa, fb, fc) := (unbox f a, unbox f b, unbox f c)
      let p := (f.decode fa).mul (f.decode fb)
      let z := f.decode fc
      let r := match rvOp w with
        | 0x43 => p.add z
        | 0x47 => p.add z.neg
        | 0x4B => p.neg.add z
        | _ => p.neg.add z.neg
      let inval := p.isNan && !(f.decode fa).isNan && !(f.decode fb).isNan
      let (v, fl) := fpResult f [fa, fb, fc] r
      some (true, nanBox f v, fl ||| if inval then fNV else 0)

/-- The word computes in the floating-point unit. -/
def isFpWord (w : Nat) : Bool := rvOp w = 0x53 || rvOp w = 0x43 || rvOp w = 0x47 || rvOp w = 0x4B || rvOp w = 0x4F

end Sys2Proof.Machine
end

