-- ==== Sys2Proof/Machine/NeedleOps.lean ====
section
/-!
DEFINITION. NeedleOps.lean: groups, launches, instruction fetch, group faults and memory instructions of the
needles (06_thread_groups.md).
-/

namespace Sys2Proof.Machine

/-- The needles of motif `m`. -/
def State.ndl (s : State) (m : Nat) : Needles := Sparse.get Needles.init s.needles m

def State.setNdl (s : State) (m : Nat) (n : Needles) : State := { s with needles := Sparse.set Needles.init s.needles m n }

/-- The group in slot `g` (needle × 16 + slot). -/
def State.group (s : State) (m g : Nat) : Option Group := Sparse.get none (s.ndl m).groups g

/-- Fields of a LAUNCH (R197). -/
def laGroups (d : Nat) : Nat := dw d 0 22 16
def laLast (d : Nat) : Nat := dw d 0 30 24
def laBlocks (d : Nat) : Nat := dw d 4 31 0
def laCluster (d : Nat) : Nat := dw d 0 9 8
def laSlots (d : Nat) : Nat := dw d 40 31 24

/-- Motif of rank `r` (R227). -/
def rankMotif (d r : Nat) : Nat := (dw d 40 10 8 + r / 2) * 8 + dw d 40 2 0 + r % 2

/-- The ranks of a launch. -/
def laRanks (d : Nat) : List Nat := if laCluster d = 1 then [0, 1] else if laCluster d = 2 then [0, 1, 2, 3] else []

/-- The rank a motif has in a launch; 0 without a cluster. -/
def rankOf (d m : Nat) : Nat := ((laRanks d).find? fun r => rankMotif d r = m).getD 0

/-- A group neither waits at a barrier or in VWAIT, is stalled, nor halts at this boundary (R194). -/
def Group.idle (g : Group) : Bool := g.wait = .none && !g.stalled && !g.halt

/-- The group with the pc of its memory instruction in progress, where a fault of it finds the group. -/
def Group.atMem (g : Group) : Group := { g with pc := (g.mem.map (·.pc)).getD g.pc }

/-- A halted group: at an instruction boundary with its block halting. -/
def Group.halted (g : Group) : Bool := g.halt && g.mem.isNone

/-- The slots of a motif that hold groups. -/
def Needles.slots (n : Needles) : List (Nat × Group) := n.groups.filterMap fun x => x.2.map fun g => (x.1, g)

/-- Show the needles' state in TG_STATUS and TG_NEEDLEn; READY is formed when it is read (`State.readyMask`). -/
def State.showNdl (s : State) (m : Nat) : State :=
  let n := s.ndl m
  let gs := n.slots
  let mask := fun (k : Nat) => gs.foldl (fun v x => if x.1 / 16 = k then v + 2 ^ (x.1 % 16) else v) 0
  let s := s.setFlds [(F.TG_STATUS_RES_GROUPS m, gs.length),
    (F.TG_STATUS_RES_BLOCKS m, (n.active.map fun l => l.blocks.length).getD 0),
    (F.TG_STATUS_FAULT_WAIT m, flag (gs.any fun x => x.2.stalled)),
    (F.TG_STATUS_HALTED m, flag ((n.active.map fun l => l.stopped).getD false))]
  s.setFlds ((List.range 8).map fun k => (F.TG_NEEDLE_RESIDENT m k, mask k))

/-- Put a group into its slot, or empty the slot. -/
def State.putGroup (s : State) (m g : Nat) (x : Option Group) : State :=
  let n := s.ndl m
  (s.setNdl m { n with groups := Sparse.set none n.groups g x }).showNdl m

/-- Change the active launch. -/
def State.onLaunch (s : State) (m : Nat) (f : LaunchJob → LaunchJob) : State :=
  let n := s.ndl m
  s.setNdl m { n with active := n.active.map f }

/-- The launch a motif's groups belong to. -/
def State.launch (s : State) (m : Nat) : Option LaunchJob := (s.ndl m).active

/-! ### Registers -/

def Group.xr (g : Group) (t r : Nat) : Nat := if r = 0 then 0 else Sparse.get 0 g.x (t * 32 + r)
def Group.setX (g : Group) (t r v : Nat) : Group :=
  if r = 0 then g else { g with x := Sparse.set 0 g.x (t * 32 + r) (v % 2 ^ 64) }
def Group.fr (g : Group) (t r : Nat) : Nat := Sparse.get 0 g.f (t * 32 + r)
def Group.setF (g : Group) (t r v : Nat) : Group := { g with f := Sparse.set 0 g.f (t * 32 + r) (v % 2 ^ 32) }
def Group.orFlags (g : Group) (t v : Nat) : Group := { g with fflags := Sparse.modify 0 g.fflags t (· ||| v) }

/-- Threads of a mask, ascending. -/
def maskThreads (v : BitVec 64) : List Nat := (List.range 64).filter v.getLsbD
def Group.active (g : Group) : List Nat := maskThreads g.am

/-- The lowest active thread. -/
def Group.low (g : Group) : Nat := g.active.headD 0

/-- Step the pc by 4. -/
def Group.step4 (g : Group) : Group := { g with pc := (g.pc + 4) % 2 ^ 64 }

/-- Fold a change over the active threads. -/
def Group.each (g : Group) (f : Nat → Group → Group) : Group := g.active.foldl (fun g t => f t g) g

/-! ### Group faults (R234, R598) -/

abbrev GF.DIVERGENT_BRANCH : Nat := 1
abbrev GF.DIVERGENT_COLLECTIVE : Nat := 2
abbrev GF.MASK_STACK : Nat := 3
abbrev GF.LOCAL_RANGE : Nat := 4
abbrev GF.MISALIGNED : Nat := 5
abbrev GF.ILLEGAL : Nat := 6
abbrev GF.ECALL : Nat := 7
abbrev GF.EBREAK : Nat := 8
abbrev GF.POISON : Nat := 9
abbrev GF.TRANSLATION : Nat := 10

/-- A group's wait ends: its fclk count (R237). -/
def State.countWait (s : State) (m : Nat) (g : Group) : State :=
  let s := match g.wait with
    | .none => s
    | .vbar | .vcbar => s.bump (C.TG_CNT_BARRIER_FCLK m) (refCycles (s.now - g.since))
    | .vwait _ _ => s.bump (C.TG_CNT_WAIT_FCLK m) (refCycles (s.now - g.since))
  match g.room with
  | some t => s.bump (C.TG_CNT_WAIT_FCLK m) (refCycles (s.now - t))
  | none => s

/-- Halt every group of block `b` of a motif, which ends its waits, and its launch starts no further block. -/
def State.haltBlock (s : State) (m b : Nat) : State :=
  let s := ((s.ndl m).slots.filter fun x => x.2.block = b && !x.2.halt).foldl (fun s x => s.countWait m x.2) s
  let n := s.ndl m
  let groups := n.slots.foldl (fun gs (k, g) =>
    if g.block = b then Sparse.set none gs k (some { g with halt := true, wait := .none, room := none }) else gs) n.groups
  let active := n.active.map fun l => { l with
    stopped := true
    blocks := match Sparse.get none l.blocks b with
      | some r => Sparse.set none l.blocks b (some { r with halted := true })
      | none => l.blocks }
  (s.setNdl m { n with groups := groups, active := active }).showNdl m

/-- The record of a group fault (R597, R598). -/
def faultDetail (m slot : Nat) (g : Group) (cause : Nat) : Detail :=
  { src := m, d0 := g.pc, d1 := g.am.toNat, d2 := g.am.toNat / 2 ^ 32, d3 := g.pm.toNat,
    tail := packBits [(0, 32, g.pm.toNat / 2 ^ 32), (32, 32, g.block), (64, 3, slot / 16), (68, 4, slot % 16),
      (72, 6, g.index), (80, 8, cause)] }

/-- A launch is the same cluster's as `l` (R227). -/
def LaunchJob.sameAs (l x : LaunchJob) : Bool := x.desc = l.desc && x.nth = l.nth

/-- Block `b` of the cluster's launch halts on the rank at motif `r`: a launch that still waits there starts no block. -/
def State.haltRank (s : State) (r b : Nat) (l : LaunchJob) : State :=
  if ((s.launch r).map l.sameAs).getD false then s.haltBlock r b
  else
    let n := s.ndl r
    s.setNdl r { n with queue := n.queue.map fun x => if l.sameAs x then { x with stopped := true } else x }

/-- A precise group fault (R225, R234): the group halts at its instruction with a record, its block halts, and the
same block of every rank of its cluster. -/
def State.groupFault (s : State) (m slot : Nat) (g : Group) (cause : Nat) : State :=
  let seq := s.ev.seq
  let s := s.raise Ev.GROUP_FAULT (faultDetail m slot g cause)
  let s := (s.setFld (F.TG_STICKY_GROUP_FAULT m) 1).bump (C.TG_CNT_GROUP_FAULTS m) 1
  let s := s.onLaunch m fun l => { l with seq := if l.stopped then l.seq else seq }
  let s := s.putGroup m slot (some { g with mem := none })
  let s := s.haltBlock m g.block
  match s.launch m with
  | none => s
  | some l => ((laRanks l.desc).map (rankMotif l.desc)).foldl (fun s r =>
      if r ≠ m then s.haltRank r g.block l else s) s

/-! ### Fetch -/

/-- EA is in the local range (R205). -/
def localEa (ea : Nat) : Bool := 0xFFFFFFFF00000000 ≤ ea

/-- An address is canonical (R343). -/
def canonical (ea : Nat) : Bool := ea / 2 ^ 47 = 0 || ea / 2 ^ 47 = 2 ^ 17 - 1

/-- A translation fault of a group (R210, R364, R367). -/
def State.groupStall (s : State) (m slot : Nat) (g : Group) (l : LaunchJob) (word page cause level pte pa access : Nat) : State :=
  let ctx := packBits [(0, 64, g.atMem.pc), (64, 32, word), (96, 32, g.block), (128, 8, g.index), (136, 3, slot / 16), (140, 4, slot % 16)]
  let s := s.sendFault { agent := ⟨m, 2, slot⟩, asid := l.asid, page := page, cause := cause, level := level, access := access,
                         sub := 0, tag := dw l.desc 60 31 0, pte := pte, pa := pa, time := s.now, context := ctx }
  s.putGroup m slot (some { g with stalled := true })

/-- The agent code of a slot's needle. -/
def needleAgent (m slot : Nat) : Nat := unitAgent m (8 + slot / 16)

/-- The asker of a slot's access: the ASID of the launch, and one of the slot's threads or tile rows. -/
def State.needleAsker (s : State) (m slot key : Nat) : Nat :=
  asker (needleAgent m slot) (((s.ndl m).active.map (·.asid)).getD 0) (1 + 64 * slot + key)

/-- What a fetch brings. -/
inductive Fetched where
  | word (w : Nat)
  /-- Nothing issues now: a translation stall, or a wait. -/
  | none
  /-- A group fault at the pc. -/
  | bad (cause : Nat)
  deriving DecidableEq, Repr

/-- Fetch the instruction at a group's pc, with execute permission (R344, R351). (DESIGN CHOICE: log entry 45) -/
def State.fetch (s : State) (m slot : Nat) (g : Group) (l : LaunchJob) : Fetched × State :=
  if g.pc % 4 ≠ 0 then (.bad GF.MISALIGNED, s)
  else if localEa g.pc then
    let a := g.pc % 2 ^ 32
    if a + 4 ≤ localTop then (.word (s.localNat m a 4), s) else (.bad GF.LOCAL_RANGE, s)
  else if !canonical g.pc then
    (.none, s.groupStall m slot g l 0 (g.pc % 2 ^ 48 / 4096) 0x08 0 0 0 4)
  else
    match s.vaRead (needleAgent m slot) l.asid g.pc 4 Need.exec with
    | (.ok bs _, s) => (.word (ofBytes bs), s)
    | (.fault p c lv e pa, s) => (.none, s.groupStall m slot g l 0 p c lv e pa 4)
    | (.wait, s) => (.none, s)


/-! ### Xvaro encodings (R235) -/

/-- custom-0 with funct3 2 and a funct7; unused register fields must be 0. -/
def isXv (f7 : Nat) (useRd useRs1 useRs2 : Bool) (w : Nat) : Bool :=
  rvOp w = 0x0B && rvF3 w = 2 && rvF7 w = f7 && (useRd || rvRd w = 0) && (useRs1 || rvRs1 w = 0) && (useRs2 || rvRs2 w = 0)

def isVif (w : Nat) : Bool := rvOp w = 0x0B && rvF3 w = 0 && rvRd w = 0
def isVelse (w : Nat) : Bool := rvOp w = 0x0B && rvF3 w = 1 && rvRd w = 0 && rvRs1 w = 0
def isVend : Nat → Bool := isXv 0 false false false
def isVany : Nat → Bool := isXv 1 true true false
def isVall : Nat → Bool := isXv 2 true true false
def isVballot : Nat → Bool := isXv 3 true true false
def isVshfl : Nat → Bool := isXv 4 true true true
def isVbar : Nat → Bool := isXv 8 false false false
def isVcbar : Nat → Bool := isXv 9 false false false
def isVexit : Nat → Bool := isXv 10 false false false
def isVdispA : Nat → Bool := isXv 12 false true false
def isVdispV : Nat → Bool := isXv 13 false true false
def isVwait : Nat → Bool := isXv 14 false true true
def isVcasW : Nat → Bool := isXv 0x10 true true true
def isVcasD : Nat → Bool := isXv 0x11 true true true
def isVafadd : Nat → Bool := isXv 0x12 true true true
def isVshfli (w : Nat) : Bool := rvOp w = 0x0B && rvF3 w = 3 && bits w 31 28 = 0
def isVcvtn (w : Nat) : Bool := rvOp w = 0x0B && rvF3 w = 4 && bits w 31 28 = 0
def isVcvtw (w : Nat) : Bool := rvOp w = 0x0B && rvF3 w = 5 && bits w 31 28 = 0
def isZld (w : Nat) : Bool := rvOp w = 0x2B && rvF3 w = 0 && bits w 31 29 = 0 && rvRd w < 8
def isZst (w : Nat) : Bool := rvOp w = 0x2B && rvF3 w = 1 && bits w 31 31 = 0 && rvRd w < 8
def isZmma (w : Nat) : Bool := rvOp w = 0x2B && rvF3 w = 2 && rvF7 w = 0 && rvRd w < 8 && rvRs1 w < 8 && rvRs2 w < 8
def isZzero (w : Nat) : Bool :=
  rvOp w = 0x2B && rvF3 w = 3 && bits w 31 26 = 0 && rvRd w < 8 && rvRs1 w = 0 && rvRs2 w = 0
def isLoad (w : Nat) : Bool := (rvOp w = 0x03 && rvF3 w ≠ 7) || (rvOp w = 0x07 && (rvF3 w = 1 || rvF3 w = 2))
def isStore (w : Nat) : Bool := (rvOp w = 0x23 && rvF3 w ≤ 3) || (rvOp w = 0x27 && (rvF3 w = 1 || rvF3 w = 2))

/-- The operation of an AMO word; none where the word is no AMO. -/
def amoFn (w : Nat) : Option AtomFn :=
  if rvOp w ≠ 0x2F ∨ (rvF3 w ≠ 2 ∧ rvF3 w ≠ 3) then none
  else match bits w 31 27 with
    | 0x00 => some .add | 0x01 => some .swap | 0x04 => some .xor | 0x08 => some .or | 0x0C => some .and
    | 0x10 => some .min | 0x14 => some .max | 0x18 => some .minu | 0x1C => some .maxu | _ => none

def isAmo (w : Nat) : Bool := (amoFn w).isSome
def isLr (w : Nat) : Bool := rvOp w = 0x2F && (rvF3 w = 2 || rvF3 w = 3) && bits w 31 27 = 2 && rvRs2 w = 0
def isSc (w : Nat) : Bool := rvOp w = 0x2F && (rvF3 w = 2 || rvF3 w = 3) && bits w 31 27 = 3
def isFence (w : Nat) : Bool := rvOp w = 0x0F && rvF3 w = 0
def isBranch (w : Nat) : Bool :=
  (rvOp w = 0x63 && rvF3 w ≠ 2 && rvF3 w ≠ 3) || rvOp w = 0x6F || (rvOp w = 0x67 && rvF3 w = 0)
def isEcall (w : Nat) : Bool := w = 0x00000073
def isEbreak (w : Nat) : Bool := w = 0x00100073
def isCsr (w : Nat) : Bool := rvOp w = 0x73 && rvF3 w ≠ 0 && rvF3 w ≠ 4
/-- A CSR instruction that writes: CSRRW and CSRRWI always, the others where rs1 (or uimm) is not 0. -/
def csrWrites (w : Nat) : Bool := rvF3 w % 4 = 1 || rvRs1 w ≠ 0
def isCsrWrite (w : Nat) : Bool := isCsr w && csrWrites w

/-- The word belongs to a command of its own. -/
def hasOwnCommand (w : Nat) : Bool :=
  [isVif, isVelse, isVend, isVany, isVall, isVballot, isVshfl, isVbar, isVcbar, isVexit, isVdispA, isVdispV, isVwait,
   isVcasW, isVcasD, isVafadd, isVshfli, isVcvtn, isVcvtw, isZld, isZst, isZmma, isZzero, isLoad, isStore, isAmo, isLr,
   isSc, isFence, isBranch, isEcall, isEbreak, isCsrWrite].any fun p => p w

/-- A memory instruction. -/
def isMem (w : Nat) : Bool :=
  [isLoad, isStore, isAmo, isLr, isSc, isZld, isZst, isVcasW, isVcasD, isVafadd].any fun p => p w

/-! ### Readiness and issue (R193, R194) -/

/-- A register operand: x registers as 1 to 31, f registers from 32 on, Z registers from 64 on; x0 holds nothing. -/
def xReg (r : Nat) : List Nat := if r = 0 then [] else [r]
def fReg (r : Nat) : List Nat := [32 + r]
def zReg (r : Nat) : List Nat := [64 + r % 8]

/-- The registers that a word writes. -/
def wordWrites (w : Nat) : List Nat :=
  match rvOp w with
  | 0x37 | 0x17 | 0x6F | 0x67 | 0x03 | 0x13 | 0x1B | 0x33 | 0x3B | 0x2F | 0x73 => xReg (rvRd w)
  | 0x07 | 0x43 | 0x47 | 0x4B | 0x4F => fReg (rvRd w)
  | 0x53 => if bits w 31 27 = 0x14 || bits w 31 27 = 0x18 || bits w 31 27 = 0x1C then xReg (rvRd w) else fReg (rvRd w)
  | 0x0B => if rvF3 w = 5 || isVafadd w then fReg (rvRd w) else xReg (rvRd w)
  | 0x2B => if rvF3 w = 1 then [] else zReg (rvRd w)
  | _ => []

/-- The registers that a word reads. -/
def wordReads (w : Nat) : List Nat :=
  match rvOp w with
  | 0x67 | 0x03 | 0x07 | 0x13 | 0x1B => xReg (rvRs1 w)
  | 0x63 | 0x23 | 0x33 | 0x3B | 0x2F => xReg (rvRs1 w) ++ xReg (rvRs2 w)
  | 0x27 => xReg (rvRs1 w) ++ fReg (rvRs2 w)
  | 0x43 | 0x47 | 0x4B | 0x4F => fReg (rvRs1 w) ++ fReg (rvRs2 w) ++ fReg (rvRs3 w)
  | 0x53 => if bits w 31 27 = 0x1A || bits w 31 27 = 0x1E then xReg (rvRs1 w) else fReg (rvRs1 w) ++ fReg (rvRs2 w)
  | 0x73 => if 4 ≤ rvF3 w then [] else xReg (rvRs1 w)
  | 0x0B =>
    if rvF3 w = 4 then fReg (rvRs1 w)
    else if isVafadd w then xReg (rvRs1 w) ++ fReg (rvRs2 w)
    else if isVcasW w || isVcasD w then xReg (rvRs1 w) ++ xReg (rvRs2 w) ++ xReg (rvRd w)
    else xReg (rvRs1 w) ++ (if rvF3 w = 2 then xReg (rvRs2 w) else [])
  | 0x2B =>
    if rvF3 w = 2 then zReg (rvRs1 w) ++ zReg (rvRs2 w) ++ zReg (rvRd w)
    else if rvF3 w = 3 then []
    else xReg (rvRs1 w) ++ xReg (rvRs2 w) ++ (if rvF3 w = 1 then zReg (rvRd w) else [])
  | _ => []

/-- A needle has writes to other nodes that are not performed. (DESIGN CHOICE: log entry 79) -/
def State.needleOwes (s : State) (m g : Nat) : Bool :=
  (s.tu.wants ++ s.tu.refused).any fun x =>
    x.1 % 65536 = needleAgent m g && x.1 / 2 ^ 28 ≠ 0 && (x.1 / 2 ^ 28 - 1) / 64 = g

/-- A motif's threads have writes to other nodes that are not performed. -/
def State.launchOwes (s : State) (m : Nat) : Bool := (List.range 128).any (s.needleOwes m)

/-- A memory instruction's accesses belong to a FENCE's predecessor set (R304): reads with PR or PI, writes with PW or PO. FENCE.TSO is
FENCE rw,rw. -/
def fenceReads (w : Nat) : Bool := bits w 31 28 = 8 || bits w 25 25 = 1 || bits w 27 27 = 1
def fenceWrites (w : Nat) : Bool := bits w 31 28 = 8 || bits w 24 24 = 1 || bits w 26 26 = 1

/-- The instruction is held (R194): an operand or its destination awaits the memory instruction in progress, or it is one that follows
it in order; a FENCE or a release waits for the accesses it covers (R215, R302, R304); a VDISP waits for room (R232).
(DESIGN CHOICE: log entry 148) -/
def State.held (s : State) (m slot : Nat) (g : Group) (w : Nat) : Bool :=
  (match g.mem with
    | none => false
    | some op =>
      (wordWrites op.word).any (fun r => (wordReads w ++ wordWrites w).contains r) || isMem w ||
        isVbar w || isVcbar w || isVexit w || isVdispA w || isVdispV w ||
        (isFence w && ((fenceReads w && !isStore op.word && !isZst op.word) || (fenceWrites w && !isLoad op.word && !isZld op.word)))) ||
  (s.needleOwes m slot && ((isFence w && fenceWrites w) || ((isAmo w || isLr w || isSc w) && bits w 25 25 = 1))) ||
  (isVdispA w && decide (32 ≤ (s.array m).queue.length)) || (isVdispV w && decide (16 ≤ (s.vec m).queue.length))

/-- A group is ready (R194): it neither waits, is stalled nor halts, and its next instruction is not held. -/
def State.readyAt (s : State) (m slot : Nat) : Bool :=
  match s.group m slot, s.launch m with
  | some g, some l =>
    g.idle && (match (s.fetch m slot g l).1 with
      | .word w => !s.held m slot g w
      | .bad _ => true
      | .none => false)
  | _, _ => false

/-- TG_NEEDLE.READY of needle `n`. -/
def State.readyMask (s : State) (m n : Nat) : Nat :=
  (List.range 16).foldl (fun v k => if s.readyAt m (16 * n + k) then v + 2 ^ k else v) 0

/-- The slot whose group needle `n` issues next: the next ready one after the last, in ascending order, wrapping (R193).
(DESIGN CHOICE: log entry 149) -/
def State.nextSlot (s : State) (m n : Nat) : Option Nat :=
  let last := Sparse.get 15 (s.ndl m).last n
  ((List.range 16).map fun i => 16 * n + (last + 1 + i) % 16).find? fun k => s.readyAt m k

/-- Issue slots of 4 fclk that pass from one instant to another, ns. (DESIGN CHOICE: log entry 44) -/
def slotsBetween (t u : Nat) : Nat := u * 9 / 16 - t * 9 / 16

/-- The slots that needles of the ENABLED motifs pass unused until the instant `t` (R193, R237). -/
def State.idleSlots (s : State) (t : Nat) : State :=
  let n := slotsBetween s.now t
  if n = 0 then s
  else (List.range 48).foldl (fun (s : State) m =>
    if s.pos m = 1 then
      let k := ((List.range 8).filter fun i => (s.nextSlot m i).isNone).length
      if k = 0 then s else s.bump (C.TG_CNT_IDLE_SLOTS m) (n * k)
    else s) s

/-- A needle's group issues: it is now the last (R193), and a wait for room is over. -/
def State.issued (s : State) (m slot : Nat) (g : Group) : State :=
  let s := match g.room with
    | some t => s.bump (C.TG_CNT_WAIT_FCLK m) (refCycles (s.now - t))
    | none => s
  s.setNdl m { s.ndl m with last := Sparse.set 15 (s.ndl m).last (slot / 16) (slot % 16) }

/-- Issue the instruction of the group that its needle picks where it is one that `p` accepts: `run` gives its effect (R193, R203,
R204: with no active thread only VELSE and VEND do anything). A VDISP that finds its queue full begins to wait for room.
(DESIGN CHOICE: log entry 45) -/
def State.issueCore (s : State) (m slot : Nat) (p : Nat → Bool) (evenIdle : Bool)
    (run : Group → LaunchJob → Nat → State → State) : State :=
  match s.group m slot, s.launch m with
  | some g, some l =>
    if g.idle && s.pos m = 1 then
      match s.fetch m slot g l with
      | (.none, s') => s'
      | (.bad c, s') => if s.nextSlot m (slot / 16) = some slot && p 0 then (s'.issued m slot g).groupFault m slot g c else s
      | (.word w, s') =>
        if !p w then s
        else if s.held m slot g w then
          if (isVdispA w || isVdispV w) && g.mem.isNone && g.room.isNone then s.putGroup m slot (some { g with room := some s.now }) else s
        else if s.nextSlot m (slot / 16) ≠ some slot then s
        else
          let s := s'.issued m slot g
          let g := { g with room := none }
          if g.am = 0 && !evenIdle then (s.bump (C.TG_CNT_GROUP_INSTR m) 1).putGroup m slot (some g.step4) else run g l w s
    else s
  | _, _ => s

/-- Issue an instruction that is done with in its slot. (DESIGN CHOICE: log entry 45) -/
def State.issue (s : State) (m slot : Nat) (p : Nat → Bool) (evenIdle : Bool)
    (run : Group → LaunchJob → Nat → State → State) : State :=
  s.issueCore m slot p evenIdle fun g l w s => run g l w (s.bump (C.TG_CNT_GROUP_INSTR m) 1)

/-- An instruction that changes its group alone, and goes on at pc + 4. -/
def State.issueReg (s : State) (m slot : Nat) (p : Nat → Bool) (f : Nat → Group → Group) : State :=
  s.issue m slot p false fun g _ w s => s.putGroup m slot (some (f w g).step4)

/-- A collective's effect: a fault where AM differs from PM (R225). -/
def State.collective (m slot : Nat) (run : Group → LaunchJob → Nat → State → State) (g : Group) (l : LaunchJob) (w : Nat)
    (s : State) : State :=
  if g.am ≠ g.pm then s.groupFault m slot g GF.DIVERGENT_COLLECTIVE else run g l w s

def State.issueCollective (s : State) (m slot : Nat) (p : Nat → Bool) (run : Group → LaunchJob → Nat → State → State) : State :=
  s.issue m slot p true (State.collective m slot run)

/-- The I-type immediate without sign (R235). -/
def uimmI (w : Nat) : Nat := bits w 31 20

/-! ### Counts and INDEX_RANGE (R218, R226) -/

/-- A group's counts after a conversion's, saturating at 0xFFFF_FFFF (R112), with TG_STICKY.
(DESIGN CHOICE: log entry 43) -/
def State.countGroup (s : State) (m : Nat) (g : Group) (n : NumStat) : Group × State :=
  ({ g with sat := sat32 (g.sat + n.sat), flush := sat32 (g.flush + n.flush), inv := sat32 (g.inv + n.invalid) },
    s.setFlds ((if n.sat = 0 then [] else [(F.TG_STICKY_SAT_SEEN m, 1)]) ++
      (if n.flush = 0 then [] else [(F.TG_STICKY_FLUSH_SEEN m, 1)]) ++
      (if n.invalid = 0 then [] else [(F.TG_STICKY_INVALID_SEEN m, 1)])))

/-- `n` elements read as vfill (R218). -/
def State.countRange (s : State) (m : Nat) (g : Group) (n : Nat) : Group × State :=
  if n = 0 then (g, s)
  else
    ({ g with indexRange := true },
      ((s.onLaunch m fun l => { l with indexRange := true }).setFld (F.TG_STICKY_INDEX_RANGE m) 1).bump
        (C.TG_CNT_INDEX_RANGE_EL m) n)

/-- Shuffle: each active thread takes x[rs1] of thread `src t`; none is vfill uncounted (R217 to R219). -/
def State.shuffle (s : State) (m slot : Nat) (g : Group) (rd rs1 : Nat) (src : Nat → Option Nat) : State :=
  let count := (maskThreads g.pm).length
  let val := fun t => match src t with
    | none => (g.vfill, 0)
    | some k => if count ≤ k then (g.vfill, 1) else (g.xr k rs1, 0)
  let n := (g.active.map fun t => (val t).2).sum
  let g' := g.active.foldl (fun h t => h.setX t rd (val t).1) g
  let (g', s) := s.countRange m g' n
  s.putGroup m slot (some g'.step4)

/-! ### Memory instructions (R205 to R216) -/

/-- Where an effective address goes: a spot, or a fault: a group fault's cause, or a translation fault. -/
inductive Where' where
  | at' (spot : Spot)
  | group (cause : Nat)
  | fault (page cause level pte pa : Nat)
  | wait
  deriving DecidableEq, Repr

/-- How an instruction accesses: a plain load or store, an atomic, or LR and SC. -/
inductive AccKind where
  | plain | atomic | lrsc
  deriving DecidableEq, Repr

/-- A local address as threads reach it (R206, R275). -/
def localSpot (l : LaunchJob) (m a n : Nat) (k : AccKind) : Where' :=
  if a < localTop then .at' (.loc m a)
  else if a < planeTop then
    if k = .plain && (n = 4 || n = 8) && a % n = 0 then .at' (.loc m a) else .group GF.LOCAL_RANGE
  else if 0x8000000 ≤ a ∧ a < 0x18000000 then
    let r := (a - 0x8000000) / 0x4000000
    if (laRanks l.desc).contains r then .at' (.loc (rankMotif l.desc r) ((a - 0x8000000) % 0x4000000)) else .group GF.LOCAL_RANGE
  else .group GF.LOCAL_RANGE

/-- Place of one access of `n` bytes (R205, R209, R343). -/
def State.spotOf (s : State) (m slot : Nat) (l : LaunchJob) (ea n : Nat) (k : AccKind) (need : Need) : Where' × State :=
  if (k ≠ .plain && ea % n ≠ 0) || ea / 128 ≠ (ea + n - 1) / 128 then (.group GF.MISALIGNED, s)
  else if localEa ea then (localSpot l m (ea % 2 ^ 32) n k, s)
  else if !canonical ea then (.fault (ea % 2 ^ 48 / 4096) 0x08 0 0 0, s)
  else
    match s.translate (needleAgent m slot) l.asid ea need with
    | (.wait, s) => (.wait, s)
    | (.fault c lv e pa, s) => (.fault (ea % 2 ^ 48 / 4096) c lv e pa, s)
    | (.ok node pa, s) =>
      if node ≠ s.fld F.FB_NODE_NODE then (.at' (.remote node pa), s)
      else
        let sh : Shape := match k with
          | .plain => .plain n
          | .atomic => .atomic
          | .lrsc => .lrsc
        match s.accessFault pa sh with
        | some c => (.fault (ea % 2 ^ 48 / 4096) c 0 0 pa, s)
        | none => (.at' (if apertureBase ≤ pa ∧ pa < 0x010300000000 then .aperture pa else .stacked (plainPa pa)), s)

/-- Places of every access before any is made (R210); the first that cannot be placed decides. -/
def State.spots (m slot : Nat) (l : LaunchJob) (n : Nat) (k : AccKind) (need : Need) :
    List (Nat × Nat) → State → Option Where' × List Acc × State
  | [], s => (none, [], s)
  | (key, ea) :: rest, s =>
    match s.spotOf m slot l ea n k need with
    | (.at' sp, s) =>
      let (e, accs, s) := State.spots m slot l n k need rest s
      (e, ⟨key, ea, sp⟩ :: accs, s)
    | (w, s) => (some w, [], s)

/-- Insert a number into an ascending list without repeats. -/
def insertAsc (x : Nat) : List Nat → List Nat
  | [] => [x]
  | y :: ys => if x < y then x :: y :: ys else if x = y then y :: ys else y :: insertAsc x ys

/-- Lines that accesses touch, ascending (R208). -/
def accLines (accs : List Acc) : List Nat := accs.foldl (fun ls a => insertAsc (a.ea / 128) ls) []

/-- What comes of one line's request. -/
inductive LineGot (α : Type) where
  | ok (a : α)
  | wait
  | poison (w : Nat)
  | refused (pa : Nat)
  deriving DecidableEq, Repr

/-- Whether an access to the plane address `p` of motif `m'` may be made: every descriptor of its set that was accepted before the
access has completed (R134). The access that has to wait is noted. -/
def State.planeTurn (s : State) (m' p : Nat) (op : MemOp) : Bool × MemOp :=
  let k := (planeCell p).1
  let a := s.array m'
  match op.planes.find? fun x => x.1 = m' && x.2.1 = k with
  | some x => (!a.earlier k x.2.2, op)
  | none => if a.earlier k a.accepted then (false, { op with planes := (m', k, a.accepted) :: op.planes }) else (true, op)

/-- The bytes of a line that a load finds: 128 bytes for the line of the first access's place (R208). A line of
stacked memory must be in the L2; a miss sends RD_S (R279). -/
def State.lineLoad (s : State) (m slot : Nat) (op : MemOp) (a : Acc) (n : Nat) : LineGot (List Byte) × MemOp × State :=
  match a.spot with
  | .loc m' p =>
    if localTop ≤ p then
      match s.planeTurn m' p op with
      | (false, op) => (.wait, op, s)
      | (true, op) => (.ok (s.localAnyRead m' p n), op, s)
    else (.ok (s.localAnyRead m' p n), op, s)
  | .aperture pa => if s.physBusy pa n then (.wait, op, s) else (.ok (s.physRead pa n).1, op, s)
  | .stacked pa =>
    let l := pa / 128
    match s.copyOf m l with
    | some c =>
      let s := if op.sent.contains l then s else s.bump (C.L2_CNT_HITS m) 1
      let off := pa % 128
      let bad := (List.range 16).find? fun i => c.data.poison.getLsbD i && decide (8 * i < off + n) && decide (off < 8 * i + 8)
      match bad with
      | some i => (.poison (l * 16 + i), op, s)
      | none => (.ok (((lineBytes c.data).drop off).take n), { op with sent := l :: op.sent }, s)
    | none => (.wait, { op with sent := l :: op.sent }, s.startTx m l .rdS false)
  | .remote _ _ => (.wait, op, s)

/-- The address of an access at another node, and the node. -/
def Acc.far (a : Acc) : Option (Nat × Nat) :=
  match a.spot with
  | .remote node pa => some (node, pa)
  | _ => none

/-- The accesses of one line at another node as one request (R208): the node, the first byte and the bytes up to the last. -/
def farSpan (accs : List Acc) (n : Nat) : Option (Nat × Nat × Nat) :=
  match accs.filterMap Acc.far with
  | [] => none
  | (node, pa) :: rest =>
    let lo := rest.foldl (fun v x => min v x.2) pa
    some (node, lo, rest.foldl (fun v x => max v x.2) pa + n - lo)

/-- The loads of one line at another node (R208): each access's bytes where the one request's answer has come. -/
def State.farLoad (s : State) (m slot : Nat) (accs : List Acc) (n : Nat) : LineGot (List (Acc × List Byte)) × State :=
  match accs, farSpan accs n with
  | a :: _, some (node, lo, len) =>
    let ag := s.needleAsker m slot a.key
    let r := remoteRead node lo len
    let at' := fun (a : Acc) => ((a.far.map (·.2)).getD lo) - lo
    match s.landedFor ag r with
    | some (.data bs ps) =>
      let used := fun (w : Nat) => accs.any fun a =>
        let b := node * 2 ^ 48 + lo + at' a
        decide (8 * w < b + n) && decide (b < 8 * w + 8)
      match ps.find? used with
      | some w => (.poison (farWord w), s.takeLanded ag r)
      | none => (.ok (accs.map fun a => (a, (bs.drop (at' a)).take n)), s.takeLanded ag r)
    | some .done => (.wait, s.takeLanded ag r)
    | some .refused => (.refused lo, s.takeLanded ag r)
    | none => (.wait, s.want ag 0 r)
  | _, _ => (.ok [], s)

/-- The line is writable in the L2 of motif `m`, or the request for it is sent (R283, R287). -/
def State.ownLine (s : State) (m l : Nat) (near : Bool) : Option CacheLine × State :=
  match s.copyOf m l with
  | some c =>
    if c.st = .m || c.st = .e then (some c, s)
    else (none, s.startTx m l (if c.st = .s then .upg else .rdX) near)
  | none => (none, s.startTx m l .rdX near)

/-- Store bytes into an L2 line: M, and a word written whole loses its poison (R322). -/
def State.storeLine (s : State) (m l off : Nat) (bs : List Byte) (who : Option (Nat × Nat × Nat)) : State :=
  match s.copyOf m l with
  | none => s
  | some c =>
    let n := bs.length
    let v := setBits c.data.bytes.toNat (8 * (off + n) - 1) (8 * off) (ofBytes bs)
    let p := (List.range 16).foldl (fun p i =>
      if c.data.poison.getLsbD i && !(decide (off ≤ 8 * i) && decide (8 * i + 8 ≤ off + n)) then p + 2 ^ i else p) 0
    let d : LineData := ⟨BitVec.ofNat 1024 v, BitVec.ofNat 16 p⟩
    (s.onAgent m fun a => { a with lines := Sparse.set none a.lines l (some ⟨.m, d⟩) }).killResv none l l who

/-- One store: none where it has to wait. -/
def State.accStore (s : State) (m slot : Nat) (op : MemOp) (a : Acc) (bs : List Byte) : Bool × MemOp × State :=
  let who := some (m, slot, a.key)
  match a.spot with
  | .loc m' p =>
    if localTop ≤ p then
      match s.planeTurn m' p op with
      | (false, op) => (false, op, s)
      | (true, op) => (true, op, s.localAnyWrite m' p bs)
    else (true, op, s.localWriteBy who m' p bs)
  | .aperture pa => if s.physBusy pa bs.length then (false, op, s) else (true, op, s.physWrite pa (bs.map some) [])
  | .stacked pa =>
    let l := pa / 128
    match s.ownLine m l false with
    | (some _, s) =>
      let s := if op.sent.contains l then s else s.bump (C.L2_CNT_HITS m) 1
      (true, { op with sent := l :: op.sent }, s.storeLine m l (pa % 128) bs who)
    | (none, s) => (false, { op with sent := l :: op.sent }, s)
  | .remote node pa =>
    (true, op, s.wantWrite who (s.needleAsker m slot a.key) (a.ea % 2 ^ 48 / 4096) node pa bs [])

/-- The stores of one line at another node as one request (R208), in runs of adjacent bytes; of two that meet the later thread's
stays. (DESIGN CHOICE: log entry 150) -/
def State.farStore (s : State) (m slot : Nat) (accs : List Acc) (val : Nat → List Byte) : State :=
  match accs, farSpan accs ((accs.map fun a => (val a.key).length).foldl max 0) with
  | a :: rest, some (node, lo, len) =>
    let who := if rest.isEmpty then some (m, slot, a.key) else none
    let image := accs.foldl (fun (v : Sparse (Option Byte)) a =>
      ((val a.key).zipIdx).foldl (fun v x => Sparse.set none v ((a.far.map (·.2)).getD lo - lo + x.2) (some x.1)) v) []
    let runs := (List.range len).foldl (fun (rs : List (Nat × List Byte)) i =>
      match Sparse.get none image i with
      | none => rs
      | some b => match rs with
        | (o, bs) :: more => if o + bs.length = i then (o, bs ++ [b]) :: more else (i, [b]) :: rs
        | [] => [(i, [b])]) []
    runs.reverse.foldl (fun s x => s.wantWrite who (s.needleAsker m slot a.key) (a.ea % 2 ^ 48 / 4096) node (lo + x.1) x.2 []) s
  | _, _ => s

/-- Bytes of a load or store by its funct3. -/
def widthOf (w : Nat) : Nat := 2 ^ (rvF3 w % 4)

/-- The value a load puts into its register: sign or zero extended, NaN-boxed for FLH. -/
def loadValue (w v : Nat) : Nat :=
  if rvOp w = 0x07 then (if rvF3 w = 1 then 0xFFFF0000 + v else v)
  else if rvF3 w < 4 then reg64 (signed (8 * widthOf w) v) else v

/-- Write a loaded value. -/
def Group.putLoad (g : Group) (w t v : Nat) : Group :=
  if rvOp w = 0x07 then g.setF t (rvRd w) (loadValue w v) else g.setX t (rvRd w) (loadValue w v)

/-- The outcome of pursuing a memory instruction: it completed, it goes on later, or a fault stops it. -/
inductive MemEnd where
  | done
  | later
  | poison (w : Nat)
  | refused (ea pa : Nat)
  deriving DecidableEq, Repr

/-- What an access loaded goes to its thread's register, or to its tile's row. -/
def putLoaded (g : Group) (op : MemOp) (key : Nat) (bs : List Byte) : Group × MemOp :=
  if isZld op.word then (g, { op with rows := Sparse.set 0 op.rows key (ofBytes bs) }) else (g.putLoad op.word key (ofBytes bs), op)

/-- Perform the loads of lines that can be performed, line by line ascending, those of one line at another node together; `k` bounds
the accesses. -/
def State.doLoads (m slot n : Nat) : Nat → List Acc → Group → MemOp → List Acc → State → MemEnd × Group × MemOp × State
  | 0, _, g, op, left, s => (.later, g, { op with accs := left.reverse }, s)
  | _ + 1, [], g, op, left, s => ((if left.isEmpty then .done else .later), g, { op with accs := left.reverse }, s)
  | k + 1, a :: as, g, op, left, s =>
    if a.far.isSome then
      let line := (a :: as).filter fun b => b.ea / 128 = a.ea / 128
      let rest := as.filter fun b => b.ea / 128 ≠ a.ea / 128
      match s.farLoad m slot line n with
      | (.ok got, s) =>
        let r := got.foldl (fun (r : Group × MemOp) x => putLoaded r.1 r.2 x.1.key x.2) (g, op)
        State.doLoads m slot n k rest r.1 r.2 left s
      | (.wait, s) => State.doLoads m slot n k rest g op (line.reverse ++ left) s
      | (.poison w, s) => (.poison w, g, op, s)
      | (.refused pa, s) => (.refused a.ea pa, g, op, s)
    else
      match s.lineLoad m slot op a n with
      | (.ok bs, op, s) =>
        let r := putLoaded g op a.key bs
        State.doLoads m slot n k as r.1 r.2 left s
      | (.wait, op, s) => State.doLoads m slot n k as g op (a :: left) s
      | (.poison w, op, s) => (.poison w, g, op, s)
      | (.refused pa, op, s) => (.refused a.ea pa, g, op, s)

/-- Perform the stores of lines that can be performed, those of one line at another node together; `k` bounds the accesses. -/
def State.doStores (m slot : Nat) (val : Nat → List Byte) : Nat → List Acc → MemOp → List Acc → State → MemEnd × MemOp × State
  | 0, _, op, left, s => (.later, { op with accs := left.reverse }, s)
  | _ + 1, [], op, left, s => ((if left.isEmpty then .done else .later), { op with accs := left.reverse }, s)
  | k + 1, a :: as, op, left, s =>
    if a.far.isSome then
      State.doStores m slot val k (as.filter fun b => b.ea / 128 ≠ a.ea / 128) op left
        (s.farStore m slot ((a :: as).filter fun b => b.ea / 128 = a.ea / 128) val)
    else
      match s.accStore m slot op a (val a.key) with
      | (true, op, s) => State.doStores m slot val k as op left s
      | (false, op, s) => State.doStores m slot val k as op (a :: left) s

/-- Accesses in ascending line address, and by key within a line (R208, R215). -/
def sortAccs (accs : List Acc) : List Acc := (accLines accs).flatMap fun l => accs.filter fun a => a.ea / 128 = l

/-- Count an instruction's line requests (R237). -/
def State.countLines (s : State) (m : Nat) (atomic : Bool) (accs : List Acc) : State :=
  let n := (accLines accs).length
  let s := s.bump (C.TG_CNT_LINE_REQ m) n
  if atomic then s.bump (C.TG_CNT_ATOMIC_REQ m) n else s

/-- The group as its memory instruction in progress read it. -/
def MemOp.view (op : MemOp) (g : Group) : Group := { g with x := op.x, f := op.f, tiles := op.tiles }

/-- A memory instruction of a group begins: every access is placed (R210), or it faults or stalls; it counts once (R237). -/
def State.beginMem (s : State) (m slot : Nat) (g : Group) (l : LaunchJob) (w : Nat) (n : Nat) (k : AccKind) (need : Need)
    (eas : List (Nat × Nat)) : Option MemOp × State :=
  match State.spots m slot l n k need eas s with
  | (none, accs, s) =>
    (some { word := w, pc := g.pc, x := g.x, f := g.f, tiles := g.tiles, accs := sortAccs accs, sent := [], far := [], rows := [],
            planes := [], counted := false }, (s.bump (C.TG_CNT_GROUP_INSTR m) 1).countLines m (k = .atomic) accs)
  | (some (.group c), _, s) => (none, (s.bump (C.TG_CNT_GROUP_INSTR m) 1).groupFault m slot g c)
  | (some (.fault p c lv e pa), _, s) => (none, s.groupStall m slot g l w p c lv e pa need.bits)
  | (some _, _, s) => (none, s)

/-- What a pursued memory instruction does to its group. -/
def State.endMem (s : State) (m slot : Nat) (l : LaunchJob) (e : MemEnd) (g : Group) (op : MemOp) : State :=
  match e with
  | .done => s.putGroup m slot (some { g with mem := none })
  | .later => s.putGroup m slot (some { g with mem := some op })
  | .poison w => (s.consume m [w]).groupFault m slot { g with pc := op.pc } GF.POISON
  | .refused ea pa => s.groupStall m slot { g with mem := some op } l op.word (ea % 2 ^ 48 / 4096) 0x15 0 0 pa 1

/-- A memory instruction: begun where its group issues it, which goes on at pc + 4, and pursued. -/
def State.memInstr (s : State) (m slot : Nat) (p : Nat → Bool) (collective : Bool)
    (begin' : Group → LaunchJob → Nat → State → Option MemOp × State)
    (pursue : Group → LaunchJob → MemOp → State → State) : State :=
  match s.group m slot, s.launch m with
  | some g, some l =>
    match g.mem with
    | some op => if p op.word && !g.stalled && s.pos m = 1 then pursue { g with mem := none } l op s else s
    | none =>
      let run := fun (g : Group) (l : LaunchJob) (w : Nat) (s : State) =>
        match begin' g l w s with
        | (none, s) => s
        | (some op, s) => pursue g.step4 l op s
      s.issueCore m slot p collective fun g l w s =>
        if collective && g.am ≠ g.pm then (s.bump (C.TG_CNT_GROUP_INSTR m) 1).groupFault m slot g GF.DIVERGENT_COLLECTIVE
        else run g l w s
  | _, _ => s

/-- A load's accesses begin. -/
def State.beginLoad (s : State) (m slot : Nat) (g : Group) (l : LaunchJob) (w : Nat) : Option MemOp × State :=
  s.beginMem m slot g l w (widthOf w) .plain Need.read (g.active.map fun t => (t, add64 (g.xr t (rvRs1 w)) (immI w)))

/-- A store's. -/
def State.beginStore (s : State) (m slot : Nat) (g : Group) (l : LaunchJob) (w : Nat) : Option MemOp × State :=
  s.beginMem m slot g l w (widthOf w) .plain Need.write (g.active.map fun t => (t, add64 (g.xr t (rvRs1 w)) (immS w)))

/-- The bytes a thread stores. -/
def storeBytes (g : Group) (w t : Nat) : List Byte :=
  toBytes (widthOf w) (if rvOp w = 0x27 then g.fr t (rvRs2 w) else g.xr t (rvRs2 w))

/-! ### Atomics (R211 to R215) -/

/-- The operation, width and operands of an atomic word for a thread. -/
def atomWord (w : Nat) : AtomFn × Bool :=
  if isVcasW w then (.cas, false) else if isVcasD w then (.cas, true) else if isVafadd w then (.fadd, false)
  else ((amoFn w).getD .add, rvF3 w = 3)

/-- Operand and compare value of a thread. -/
def atomArgs (g : Group) (w t : Nat) : BitVec 64 × BitVec 64 :=
  let b := if isVafadd w then g.fr t (rvRs2 w) else g.xr t (rvRs2 w)
  (BitVec.ofNat 64 b, BitVec.ofNat 64 (g.xr t (rvRd w)))

/-- Accesses of one line gathered by address, ascending, threads ascending (R211, R215). -/
def gatherAtoms (g : Group) (w : Nat) (accs : List Acc) : List (AtomAddr × List Nat) :=
  let eas := accs.foldl (fun ls a => insertAsc a.ea ls) []
  eas.map fun ea =>
    let ts := (accs.filter fun a => a.ea = ea).map (·.key)
    (⟨BitVec.ofNat 7 (ea % 128), ts.map (atomArgs g w)⟩, ts)

/-- Old values into the destination registers. -/
def putOlds (g : Group) (w : Nat) (ts : List Nat) (olds : List Nat) : Group :=
  (ts.zip olds).foldl (fun g (t, v) =>
    if isVafadd w then g.setF t (rvRd w) v
    else g.setX t (rvRd w) (if (atomWord w).2 then v else sext32 v)) g

/-- The threads of an atomic request that write, given the old values that they receive: a CAS that differs writes nothing. -/
def atomWriters (fn : AtomFn) (n : Nat) (ga : List (AtomAddr × List Nat)) (olds : List Nat) : List Nat :=
  ((ga.flatMap fun x => x.1.args.zip x.2).zip olds).filterMap fun x =>
    if fn = .cas && x.2 ≠ x.1.1.2.toNat % 2 ^ n then none else some x.1.2

/-- End the reservations on a line that an atomic request of a group writes (R216): all where two threads or more write it, all but
the thread's own where one does. -/
def State.atomKill (s : State) (o : Option Nat) (line m slot : Nat) (writers : List Nat) : State :=
  match writers with
  | [] => s
  | [t] => s.killResv o line line (some (m, slot, t))
  | _ => s.killResv o line line none

/-- The atomic operations of one line of a motif's local memory, at its bank (R215, R277). -/
def State.bankAtomic (s : State) (m slot m' p n : Nat) (far : FarAtomic) (ga : List (AtomAddr × List Nat)) : List Nat × State :=
  let base := p / 128 * 128
  let d : LineData := ⟨BitVec.ofNat 1024 (s.localNat m' base 128), 0⟩
  let (d', olds, _) := atomLine far s.free far.addrs d
  let s := { s with free := s.free + atomFree * (ga.length + 1) }
  let s := { s with locals := Sparse.set [] s.locals m' (memWrite (s.localMem m') base (lineBytes d')) }
  (olds, s.atomKill (some m') (base / 128) m slot (atomWriters far.fn (8 * n) ga olds))

/-- The atomic operations of one line at the agent that executes them (R215): old values in order of address and
thread; the waiting forms answer `.wait`. (DESIGN CHOICE: log entry 49) -/
def State.lineAtomic (s : State) (m slot : Nat) (g : Group) (op : MemOp) (accs : List Acc) : LineGot (List Nat) × MemOp × State :=
  let w := op.word
  let (fn, wide) := atomWord w
  let n := if wide then 8 else 4
  let ga := gatherAtoms g w accs
  let far : FarAtomic := ⟨fn, wide, ga.map (·.1)⟩
  match accs with
  | [] => (.ok [], op, s)
  | a :: _ =>
    match a.spot with
    | .loc m' p =>
      let r := s.bankAtomic m slot m' p n far ga
      (.ok r.1, op, r.2)
    | .aperture pa =>
      let r := s.bankAtomic m slot ((pa - apertureBase) / 0x10000000) ((pa - apertureBase) % 0x10000000) n far ga
      (.ok r.1, op, r.2)
    | .stacked pa =>
      let l := pa / 128
      if op.far.contains l then
        match s.txOf m l with
        | some t =>
          match t.olds with
          | some olds => if t.bad then (.poison (l * 16), op, s.setTx m l none) else (.ok (olds.map BitVec.toNat), op, s.setTx m l none)
          | none => (.wait, op, s)
        | none => (.wait, op, s)
      else if !(s.txOf m l).isSome && s.goesFar m l then
        let s' := s.startTx m l (.atomFar far) false
        (.wait, if (s'.txOf m l).isSome then { op with far := l :: op.far } else op, s')
      else
        match s.ownLine m l true with
        | (none, s) => (.wait, { op with sent := l :: op.sent }, s)
        | (some c, s) =>
          let (d', olds, ps) := atomLine far s.free far.addrs c.data
          let s := { s with free := s.free + atomFree * (ga.length + 1) }
          let s := s.bump (C.L2_CNT_NEAR_ATOMICS m) 1
          let s := if op.sent.contains l then s else (s.bump (C.L2_CNT_HITS m) 1).predict m l false
          let s := (s.onAgent m fun ag => { ag with
            lines := Sparse.set none ag.lines l (some ⟨.m, d'⟩)
            recent := (l, s.now) :: ag.recent.filter fun x => x.1 ≠ l }).atomKill none l m slot (atomWriters fn (8 * n) ga olds)
          match ps with
          | p :: _ => (.poison (l * 16 + p), op, s)
          | [] => (.ok olds, op, s)
    | .remote node pa =>
      -- one request for the address: its threads' operands combined, or one record a thread (R212, R449)
      let ag := s.needleAsker m slot a.key
      let args := accs.map fun a => atomArgs g w a.key
      match s.landedAtomic ag (node * 2 ^ 48 + pa) with
      | some (r, .data bs ps) =>
        let s := s.takeLanded ag r
        if ps.isEmpty then
          let old := ofBytes (bs.take n)
          let olds := (atomOne fn (8 * n) s.free old ⟨0, args⟩).2
          let line := (node * 2 ^ 48 + pa) / 128
          (.ok olds, op, { s with free := s.free + atomFree }.atomKill none line m slot (atomWriters fn (8 * n) ga olds))
        else (.poison (farWord ((node * 2 ^ 48 + pa) / 8)), op, s)
      | some (r, .done) => (.ok (accs.map fun _ => 0), op, s.takeLanded ag r)
      | some (r, .refused) => (.refused pa, { op with far := op.far.erase (2 ^ 64 + a.ea) }, s.takeLanded ag r)
      | none =>
        if op.far.contains (2 ^ 64 + a.ea) then (.wait, op, s)
        else
          let r : MemReq := .atomic (BitVec.ofNat 64 (node * 2 ^ 48 + pa)) fn wide (combineOps fn wide s.free args)
          (.wait, { op with far := (2 ^ 64 + a.ea) :: op.far }, { s with free := s.free + atomFree }.want ag 0 r)

/-- The accesses of a line that go together; at another node those of its lowest address. -/
def lineAccs (accs : List Acc) (line : Nat) : List Acc :=
  let here := accs.filter fun a => a.ea / 128 = line
  match here with
  | a :: _ =>
    if a.far.isSome then
      let ea := here.foldl (fun v b => min v b.ea) a.ea
      here.filter fun b => b.ea = ea
    else here
  | [] => []

/-- Perform the atomics of the lines that can be performed, line by line ascending, with the operands as the instruction read them.
(DESIGN CHOICE: log entry 49) -/
def State.doAtomics (m slot : Nat) : List Nat → Group → MemOp → State → MemEnd × Group × MemOp × State
  | [], g, op, s => ((if op.accs.isEmpty then .done else .later), g, op, s)
  | l :: ls, g, op, s =>
    let accs := lineAccs op.accs l
    match s.lineAtomic m slot (op.view g) op accs with
    | (.ok olds, op, s) =>
      let ts := (gatherAtoms g op.word accs).flatMap (·.2)
      State.doAtomics m slot ls (putOlds g op.word ts olds) { op with accs := op.accs.filter fun a => !accs.contains a } s
    | (.wait, op, s) => State.doAtomics m slot ls g op s
    | (.poison w, op, s) => (.poison w, g, op, s)
    | (.refused pa, op, s) => (.refused ((accs.map (·.ea)).headD 0) pa, g, op, s)

/-- An atomic instruction, of a word that `p` accepts (R211). -/
def State.atomicInstr (s : State) (m slot : Nat) (p : Nat → Bool) : State :=
  s.memInstr m slot p false
    (fun g l w s =>
      let n := if (atomWord w).2 then 8 else 4
      s.beginMem m slot g l w n .atomic Need.atomic (g.active.map fun t => (t, g.xr t (rvRs1 w))))
    (fun g l op s =>
      let (e, g, op, s) := State.doAtomics m slot (accLines op.accs) g op s
      s.endMem m slot l e g op)

/-! ### LR and SC (R216) -/

/-- The line a spot's reservation is on: of a motif's local memory, or of stacked memory. -/
def resvLine : Spot → Option Nat × Nat
  | .loc m a => (some m, a / 128)
  | .stacked pa => (none, pa / 128)
  | .aperture pa => (some ((pa - apertureBase) / 0x10000000), (pa - apertureBase) % 0x10000000 / 128)
  | .remote node pa => (none, (node * 2 ^ 48 + pa) / 128)

/-- A thread's reservation is on a line. -/
def State.holdsResv (s : State) (m slot t : Nat) (sp : Spot) : Bool :=
  let (o, l) := resvLine sp
  s.resv.any fun r => r.motif = m && r.slot = slot && r.thread = t && r.localOf = o && r.line = l

/-- A thread's reservation ends. -/
def State.dropResv (s : State) (m slot t : Nat) : State :=
  { s with resv := s.resv.filter fun r => !(r.motif = m && r.slot = slot && r.thread = t) }

/-- A thread takes a reservation. -/
def State.takeResv (s : State) (m slot t : Nat) (sp : Spot) : State :=
  let (o, l) := resvLine sp
  { (s.dropResv m slot t) with resv := ⟨m, slot, t, o, l⟩ :: (s.dropResv m slot t).resv }

/-- What an LR loaded goes to its thread, which takes its reservation. -/
def State.lrDone (m slot n : Nat) (a : Acc) (bs : List Byte) (word : Nat) (r : Group × State) : Group × State :=
  (r.1.setX a.key (rvRd word) (if n = 4 then sext32 (ofBytes bs) else ofBytes bs), r.2.takeResv m slot a.key a.spot)

/-- Perform the LRs that can be performed, those of one line at another node together; `k` bounds the accesses. -/
def State.doLr (m slot n : Nat) : Nat → List Acc → Group → MemOp → List Acc → State → MemEnd × Group × MemOp × State
  | 0, _, g, op, left, s => (.later, g, { op with accs := left.reverse }, s)
  | _ + 1, [], g, op, left, s => ((if left.isEmpty then .done else .later), g, { op with accs := left.reverse }, s)
  | k + 1, a :: as, g, op, left, s =>
    if a.far.isSome then
      let line := (a :: as).filter fun b => b.ea / 128 = a.ea / 128
      let rest := as.filter fun b => b.ea / 128 ≠ a.ea / 128
      match s.farLoad m slot line n with
      | (.ok got, s) =>
        let r := got.foldl (fun (r : Group × State) x => State.lrDone m slot n x.1 x.2 op.word r) (g, s)
        State.doLr m slot n k rest r.1 op left r.2
      | (.wait, s) => State.doLr m slot n k rest g op (line.reverse ++ left) s
      | (.poison w, s) => (.poison w, g, op, s)
      | (.refused pa, s) => (.refused a.ea pa, g, op, s)
    else
      match s.lineLoad m slot op a n with
      | (.ok bs, op, s) =>
        let r := State.lrDone m slot n a bs op.word (g, s)
        State.doLr m slot n k as r.1 op left r.2
      | (.wait, op, s) => State.doLr m slot n k as g op (a :: left) s
      | (.poison w, op, s) => (.poison w, g, op, s)
      | (.refused pa, op, s) => (.refused a.ea pa, g, op, s)

/-- Perform the SCs, threads ascending: a thread without its reservation fails and writes nothing. -/
def State.doSc (m slot n : Nat) : List Acc → Group → MemOp → List Acc → State → MemEnd × Group × MemOp × State
  | [], g, op, left, s => ((if left.isEmpty then .done else .later), g, { op with accs := left.reverse }, s)
  | a :: as, g, op, left, s =>
    if s.holdsResv m slot a.key a.spot then
      match s.accStore m slot op a (toBytes n ((op.view g).xr a.key (rvRs2 op.word))) with
      | (true, op, s) => State.doSc m slot n as (g.setX a.key (rvRd op.word) 0) op left (s.dropResv m slot a.key)
      | (false, op, s) => State.doSc m slot n as g op (a :: left) s
    else State.doSc m slot n as (g.setX a.key (rvRd op.word) 1) op left (s.dropResv m slot a.key)

/-! ### Tiles (R221 to R223) -/

def Group.tile (g : Group) (z : Nat) : Tile := Sparse.get Tile.zero g.tiles z
def Group.setTile (g : Group) (z : Nat) (t : Tile) : Group := { g with tiles := Sparse.set Tile.zero g.tiles z t }

/-- The tag and code that an element loads as (R222, R97). -/
def tileLoad (fmt code : Nat) : Nat × Nat :=
  let (c, f) := expand fmt code
  (f, c)

/-- A tile from its rows as they were read. -/
def tileOf (fmt : Nat) (rows : Sparse Nat) : Tile :=
  let cells := (List.range 256).foldl (fun m i =>
    let (o, b, w) := elemPlace fmt (i % 16)
    let row := Sparse.get 0 rows (i / 16)
    let raw := row / 256 ^ o % 256 ^ w / 2 ^ b % 2 ^ elemBits fmt
    Sparse.set 0 m i (tileLoad fmt raw).2) []
  { tag := (tileLoad fmt 0).1, cells := cells }

/-- Value of a tile's cell; tag 11 is INT32. -/
def Tile.value (t : Tile) (i : Nat) : Num :=
  let c := Sparse.get 0 t.cells i
  if t.tag = 11 then Num.ofInt (signed 32 c) else elemDecode t.tag c

/-- Bits of an element in a tag's format. -/
def tagBits (tag : Nat) : Nat := if tag = 11 then 32 else elemBits tag

/-- Bytes of a row that ZST writes and its counts (R222): raw in the tag's format, or converted. -/
def tileRow (t : Tile) (w r : Nat) : List Byte × NumStat :=
  if bits w 30 30 = 1 then
    let b := tagBits t.tag / 8
    ((List.range 16).flatMap fun j => toBytes b (Sparse.get 0 t.cells (r * 16 + j)), NumStat.zero)
  else
    let fmt := bits w 28 25
    let rs := (List.range 16).map fun j => elemEncode fmt (bits w 29 29 = 1) (t.value (r * 16 + j))
    (packRow fmt (rs.map (·.1)), rs.foldl (fun st x => st.add x.2) NumStat.zero)

/-- The pairing of tags is one ZMMA takes (R223). -/
def zmmaOk (a b d : Nat) : Bool :=
  ((a = b && (a = 1 || a = 2 || a = 3)) && d = 1) || ((a = 4 || a = 5) && (b = 4 || b = 5) && d = 1) ||
    (a = 9 && b = 9 && d = 11)

/-- One output element of ZMMA and what it counts (R125, R127, R223). -/
def zmmaCell (a b d : Tile) (i j : Nat) : Nat × Count :=
  let ps := (List.range 16).map fun k => (a.value (i * 16 + k)).mul (b.value (k * 16 + j))
  let old := Sparse.get 0 d.cells (i * 16 + j)
  if d.tag = 11 then
    let t := signed 32 old + truncSum 0 ps
    let c := clampInt t (-2147483648) 2147483647
    (unsigned 32 c, if c = t then .none else .sat)
  else
    let (gs, k1) := accRound fmtFp32 (groupSum 23 ps)
    let (r, k2) := accRound fmtFp32 ((fmtFp32.decode old).add (fmtFp32.decode gs))
    let k := max k1 k2
    (r, if k = 2 then .sat else if k = 1 then .flush else .none)

/-- The product of two tiles added into a third. -/
def zmmaTile (a b d : Tile) : Tile × NumStat :=
  (List.range 256).foldl (fun (t, st) i =>
    let (c, k) := zmmaCell a b d (i / 16) (i % 16)
    ({ t with cells := Sparse.set 0 t.cells i c }, st.add k)) (d, NumStat.zero)

/-! ### CSRs (R202) -/

/-- The value of a CSR for a thread; none where there is none. -/
def csrRead (g : Group) (l : LaunchJob) (m t csr : Nat) : Option Nat :=
  match csr with
  | 0x001 => some (Sparse.get 0 g.fflags t)
  | 0x002 => some 0
  | 0x003 => some (Sparse.get 0 g.fflags t)
  | 0x800 => some g.vfill
  | 0x801 => some (flag g.indexRange + 2 * flag (g.sat ≠ 0) + 4 * flag (g.flush ≠ 0) + 8 * flag (g.inv ≠ 0))
  | 0x802 => some g.sat
  | 0x803 => some g.flush
  | 0x804 => some g.inv
  | 0xCC0 => some t
  | 0xCC1 => some g.index
  | 0xCC2 => some g.block
  | 0xCC3 => some (rankOf l.desc m)
  | 0xCC4 => some g.pm.toNat
  | 0xCC5 => some g.am.toNat
  | 0xCC6 => some g.stack.length
  | 0xCC7 => some m
  | _ => none

/-- The operand of a CSR instruction for a thread. -/
def csrOperand (g : Group) (w t : Nat) : Nat := if 4 ≤ rvF3 w then rvRs1 w else g.xr t (rvRs1 w)

/-- The value a CSR instruction writes over `old`. -/
def csrNew (w old v : Nat) : Nat :=
  match rvF3 w % 4 with
  | 1 => v
  | 2 => old ||| v
  | _ => old &&& (2 ^ 64 - 1 - v % 2 ^ 64)

/-- Write a group CSR. -/
def csrGroup (g : Group) (csr v : Nat) : Group :=
  match csr with
  | 0x800 => { g with vfill := v % 2 ^ 64 }
  | 0x801 => { g with indexRange := g.indexRange && v % 2 = 1, sat := if v / 2 % 2 = 1 then g.sat else 0,
                      flush := if v / 4 % 2 = 1 then g.flush else 0, inv := if v / 8 % 2 = 1 then g.inv else 0 }
  | 0x802 => { g with sat := v % 2 ^ 32 }
  | 0x803 => { g with flush := v % 2 ^ 32 }
  | _ => { g with inv := v % 2 ^ 32 }

/-- A CSR instruction on a group; none where it is illegal: no such CSR, or a write of a RO one. -/
def csrExec (g : Group) (l : LaunchJob) (m w : Nat) : Option Group :=
  let csr := bits w 31 20
  match csrRead g l m 0 csr with
  | none => none
  | some _ =>
    if csrWrites w && 0xC00 ≤ csr then none
    else
      let old := fun t => (csrRead g l m t csr).getD 0
      let g' := g.active.foldl (fun h t => h.setX t (rvRd w) (old t)) g
      if !csrWrites w then some g'
      else if csr ≤ 3 then
        some (g.active.foldl (fun h t =>
          let v := csrNew w (old t) (csrOperand g w t)
          if csr = 2 then h else { h with fflags := Sparse.set 0 h.fflags t (v % 32) }) g')
      else some (csrGroup g' csr (csrNew w (old g.low) (csrOperand g w g.low)))

/-! ### Launches (R197 to R201) -/

/-- Why a LAUNCH starts no block (R198). (DESIGN CHOICE: log entry 46) -/
def State.launchCheck (s : State) (m d : Nat) : Option Nat :=
  let ranks := (laRanks d).map (rankMotif d)
  if dw d 0 7 0 ≠ 0x30 || laCluster d = 3 || dw d 0 15 10 ≠ 0 || laGroups d = 0 || 64 < laGroups d || dw d 0 23 23 ≠ 0 ||
      laLast d = 0 || 64 < laLast d || dw d 0 31 31 ≠ 0 || laBlocks d = 0 || dw d 12 31 16 ≠ 0 || dw d 24 31 0 % 128 ≠ 0 ||
      dw d 28 31 0 % 128 ≠ 0 || 6 < dw d 40 2 0 || dw d 40 7 3 ≠ 0 || 4 < dw d 40 10 8 || dw d 40 23 11 ≠ 0 ||
      laSlots d = 0 || 128 < laSlots d || dw d 44 31 0 ≠ 0 || dw d 56 31 2 ≠ 0 ||
      localTop < dw d 24 31 0 + laSlots d * dw d 28 31 0 || (laCluster d ≠ 0 && !ranks.contains m) then some St.BAD_DESCRIPTOR
  else if ranks.any (fun r => s.pos r ≠ 1) then some St.CLUSTER_UNPLACEABLE
  else none

/-- Free slots of needle `n`, ascending. -/
def Needles.freeSlots (x : Needles) (n : Nat) : List Nat :=
  ((List.range 16).map (n * 16 + ·)).filter fun k => (Sparse.get none x.groups k).isNone

/-- Groups that a block places on needle `n` (R199). -/
def groupsOn (d n : Nat) : List Nat := (List.range (laGroups d)).filter fun g => g % 8 = n

/-- The active launch can start its next block (R199). -/
def State.canStart (s : State) (m : Nat) (l : LaunchJob) : Bool :=
  let x := s.ndl m
  l.status.isNone && !l.stopped && decide (l.next < laBlocks l.desc) && s.pos m = 1 &&
    (l.next < laSlots l.desc || (Sparse.get none l.blocks (l.next - laSlots l.desc)).isNone) &&
    (List.range 8).all fun n => (groupsOn l.desc n).length ≤ (x.freeSlots n).length

/-- A fresh group (R200), at the entry address extended by its bit 47 (R343). (DESIGN CHOICE: log entry 7) -/
def newGroup (d b i : Nat) : Group :=
  let count := if i + 1 = laGroups d then laLast d else 64
  let pm := BitVec.ofNat 64 (2 ^ count - 1)
  let g : Group :=
    { block := b, index := i, pc := reg64 (signed 48 (dw d 8 31 0 + dw d 12 15 0 * 2 ^ 32)), am := pm, pm := pm, stack := [],
      vfill := dw d 32 31 0 + dw d 36 31 0 * 2 ^ 32, indexRange := false, sat := 0, flush := 0, inv := 0, x := [], f := [],
      fflags := [], tiles := [], wait := .none, since := 0, stalled := false, halt := false, mem := none,
      room := none }
  (List.range count).foldl (fun g t => (g.setX t 10 (dw d 16 31 0 + dw d 20 31 0 * 2 ^ 32)).setX t 11 b) g

/-- Place a block's groups into free slots (R199). (DESIGN CHOICE: log entry 46) -/
def State.startBlock (s : State) (m : Nat) (l : LaunchJob) : State :=
  let x := s.ndl m
  let places := (List.range 8).flatMap fun n => (groupsOn l.desc n).zip (x.freeSlots n)
  let groups := places.foldl (fun gs (i, k) => Sparse.set none gs k (some (newGroup l.desc l.next i))) x.groups
  let l' := { l with next := l.next + 1, blocks := Sparse.set none l.blocks l.next (some ⟨laGroups l.desc, false⟩) }
  (s.setNdl m { x with groups := groups, active := some l' }).showNdl m

/-- A launch has nothing left to run: every block has ended, or it has stopped and what runs has ended or halted; and its threads'
writes to other nodes are performed (R201). -/
def State.launchOver (s : State) (m : Nat) (l : LaunchJob) : Bool :=
  l.status.isSome ||
    (!s.launchOwes m && (l.stopped || l.next = laBlocks l.desc) && (l.blocks.all fun b => (b.2.map (·.halted)).getD true) &&
      (s.ndl m).slots.all fun x => x.2.halted)

/-- A group's counts join its launch's (R201). -/
def LaunchJob.addGroup (l : LaunchJob) (g : Group) : LaunchJob :=
  { l with stat := ⟨l.stat.sat + g.sat, l.stat.flush + g.flush, l.stat.invalid + g.inv⟩ }

/-- Complete a launch (R201, R592): its halted groups leave their slots. -/
def State.completeLaunch (s : State) (m : Nat) (l : LaunchJob) : State :=
  let x := s.ndl m
  let l := x.slots.foldl (fun l g => l.addGroup g.2) l
  let st := l.status.getD (if l.stopped then St.GROUP_FAULT else St.OK)
  let s := s.writeCompletion m l.desc (completionRecord st l.indexRange (dw l.desc 60 31 0) l.stat.block l.seq)
  let s := { s with resv := s.resv.filter fun r => r.motif ≠ m }
  let past := if laCluster l.desc = 0 then x.past else (l.desc, l.nth) :: x.past
  (s.setNdl m { x with groups := [], active := none, past := past }).showNdl m

/-- Accept a LAUNCH into the launcher. -/
def State.launchAccept (s : State) (m desc asid : Nat) (fromList : Bool) : State :=
  let n := s.ndl m
  let j : LaunchJob :=
    { desc := desc, fromList := fromList, asid := asid, nth := Sparse.get 0 n.taken desc, next := 0, blocks := [], stat := NumStat.zero,
      indexRange := false, stopped := false, seq := 0, status := none }
  let taken := if laCluster desc = 0 then n.taken else Sparse.set 0 n.taken desc (j.nth + 1)
  s.setNdl m { n with queue := n.queue ++ [j], taken := taken }

/-! ### Barriers (R229 to R231) -/

/-- Groups of a block on a motif. (DESIGN CHOICE: log entry 46) -/
def Needles.ofBlock (n : Needles) (b : Nat) : List (Nat × Group) := n.slots.filter fun x => x.2.block = b

/-- Every group of a started block has arrived at `w` or exited. -/
def State.arrived (s : State) (m b : Nat) (w : GroupWait) : Bool := ((s.ndl m).ofBlock b).all fun x => x.2.wait = w

/-- Release a block's groups from a barrier; the cycles they waited count (R237). -/
def State.release (s : State) (m b : Nat) (w : GroupWait) : State :=
  let n := s.ndl m
  let gs := (n.ofBlock b).filter fun x => x.2.wait = w
  let s := s.bump (C.TG_CNT_BARRIER_FCLK m) ((gs.map fun x => refCycles (s.now - x.2.since)).sum)
  let groups := gs.foldl (fun m (k, g) => Sparse.set none m k (some { g.step4 with wait := .none })) n.groups
  (s.setNdl m { (s.ndl m) with groups := groups }).showNdl m

/-- The last arrival of a barrier, ns. -/
def lastArrival (gs : List (Nat × Group)) : Nat := (gs.map fun x => x.2.since).foldl max 0

/-- Block `b` of the launch `l` has all its groups at `w` or ended on motif `r` (R230, R231): they are there, or the launch is over. -/
def State.metAt (s : State) (r b : Nat) (l : LaunchJob) (w : GroupWait) : Bool :=
  if ((s.launch r).map l.sameAs).getD false then decide (b < ((s.launch r).map (·.next)).getD 0) && s.arrived r b w
  else (s.ndl r).past.contains (l.desc, l.nth)

/-- The motifs where the launch `l` runs now. -/
def State.runsOn (s : State) (l : LaunchJob) (ms : List Nat) : List Nat := ms.filter fun r => ((s.launch r).map l.sameAs).getD false

/-- The motifs over which a VCBAR of a launch on motif `m` meets (R230). -/
def barrierMotifs (l : LaunchJob) (m : Nat) : List Nat :=
  if laCluster l.desc = 0 then [m] else (laRanks l.desc).map (rankMotif l.desc)

/-! ### VEXIT (R199, R201, R231) -/

/-- A group ends: it leaves its slot, its counts join the launch's, and its block ends with its last group. -/
def State.exitGroup (s : State) (m slot : Nat) (g : Group) : State :=
  let s := s.bump (C.TG_CNT_GROUPS_DONE m) 1
  let s := { s with resv := s.resv.filter fun r => !(r.motif = m && r.slot = slot) }
  let s := s.onLaunch m fun l =>
    let rest := match Sparse.get none l.blocks g.block with
      | some r => if r.left ≤ 1 then none else some { r with left := r.left - 1 }
      | none => none
    { (l.addGroup g) with blocks := Sparse.set none l.blocks g.block rest }
  s.putGroup m slot none

/-! ### Conversions and control flow -/

/-- VCVTW's FP32 code (R226); none where FP32 does not hold the value exactly. -/
def widen (fmt code : Nat) : Option Nat :=
  let x := elemDecode fmt code
  let c := (fmtFp32.round true x).1
  if x.isNan || (fmtFp32.decode c).eq x then some c else none

/-- The next pc of a branch or jump for a thread, and whether it writes rd. -/
def branchTo (g : Group) (w t : Nat) : Nat :=
  if rvOp w = 0x6F then add64 g.pc (immJ w)
  else if rvOp w = 0x67 then add64 (g.xr t (rvRs1 w)) (immI w) / 2 * 2
  else if (rvTaken (rvF3 w) (g.xr t (rvRs1 w)) (g.xr t (rvRs2 w))).getD false then add64 g.pc (immB w)
  else add64 g.pc 4

/-- A floating-point or integer computation of a thread; none where the word is illegal. -/
def otherThread (g : Group) (w t : Nat) : Option Group :=
  let x1 := g.xr t (rvRs1 w)
  if isFpWord w then
    let (a, b, c) := (g.fr t (rvRs1 w), g.fr t (rvRs2 w), g.fr t (rvRs3 w))
    match (if rvOp w = 0x53 then rvFp w x1 a b else rvFma w a b c) with
    | some (toF, v, fl) => some ((if toF then g.setF t (rvRd w) v else g.setX t (rvRd w) v).orFlags t fl)
    | none => none
  else (rvAlu w g.pc x1 (g.xr t (rvRs2 w))).map fun v => g.setX t (rvRd w) v

/-- Every active thread computes; none where the word is illegal. -/
def otherAll (w : Nat) : List Nat → Group → Option Group
  | [], g => some g
  | t :: ts, g => (otherThread g w t).bind (otherAll w ts)

end Sys2Proof.Machine
end

