-- ==== Sys2Proof/Machine/QueueOps.lean ====
section
/-!
DEFINITION. QueueOps.lean: completion rings, doorbells, fetch, dispatch and the moves of COPY, PREFETCH and ADVISE
(07_queues_and_skeins.md, 10_address_translation.md, 12_host_link.md).
-/

namespace Sys2Proof.Machine

def State.queue (s : State) (q : Nat) : Queue := Sparse.get Queue.init s.qe.queues q

def State.setQueue (s : State) (q : Nat) (x : Queue) : State :=
  { s with qe := { s.qe with queues := Sparse.set Queue.init s.qe.queues q x } }

def State.onQueue (s : State) (q : Nat) (f : Queue → Queue) : State := s.setQueue q (f (s.queue q))

def State.cring (s : State) (r : Nat) : CRing := Sparse.get CRing.init s.qe.rings r

def State.setCring (s : State) (r : Nat) (x : CRing) : State :=
  { s with qe := { s.qe with rings := Sparse.set CRing.init s.qe.rings r x } }

/-! ### Completion rings (R254 to R256, R593) -/

/-- Unread entries. -/
def CRing.count (r : CRing) : Nat := idxSub r.next r.ci

/-- Level and vector of a ring: ring 0's are QE_ADMIN_VEC's. -/
def State.ringLevel (s : State) (rid : Nat) (r : CRing) : Nat := if rid = 0 then s.fld F.QE_ADMIN_VEC_LEVEL else r.level
def State.ringVector (s : State) (rid : Nat) (r : CRing) : Nat := if rid = 0 then s.fld F.QE_ADMIN_VEC_VECTOR else r.vector

/-- Write one entry into the next slot, signal the level, and raise CQ_FULL once in an episode (R255). -/
def State.putEntry' (s : State) (rid entry : Nat) : State :=
  let r := s.cring rid
  let n := 2 ^ r.log2
  let s := s.ringWrite r.loc (r.base + 32 * (r.next % n)) (toBytes 32 (entry + (r.next / n % 2) * 2 ^ 8))
  let r' := { r with next := (r.next + 1) % idxMod }
  let full := r'.count = n
  let s := s.setCring rid { r' with full := full }
  let s := if r'.count = s.ringLevel rid r then s.notify (s.ringVector rid r) else s
  if full && !r.full then s.raise Ev.CQ_FULL { d1 := rid } else s

/-- An entry is held while the ring is full or holds earlier ones (R255). (DESIGN CHOICE: log entry 57) -/
def State.postEntry (s : State) (rid entry : Nat) : State :=
  let r := s.cring rid
  if r.held.isEmpty && r.count < 2 ^ r.log2 then s.putEntry' rid entry
  else ((s.setCring rid { r with held := r.held ++ [entry] }).bump C.QE_CNT_CQ_HELD 1).setFld F.QE_STICKY_CQ_FULL 1

/-- Write held entries while the ring has room; `k` bounds them. -/
def State.drainHeld (rid : Nat) : Nat → State → State
  | 0, s => s
  | k + 1, s =>
    let r := s.cring rid
    match r.held with
    | [] => s
    | e :: es => if r.count < 2 ^ r.log2 then State.drainHeld rid k ((s.setCring rid { r with held := es }).putEntry' rid e) else s

/-- Show the oldest lost completion (R428). -/
def State.showLost (s : State) : State :=
  let e := s.qe.lost.headD 0
  s.setFlds ((F.PX_LOST_STATUS_COUNT, s.qe.lost.length) ::
    (List.range 4).map fun i => (F.PX_LOST_ENTRY_ENTRY i, e / 2 ^ (64 * i) % 2 ^ 64))

/-- A lost completion goes into the log of 65,536, or is dropped (R428). (DESIGN CHOICE: log entry 57) -/
def State.lostEntry (s : State) (entry : Nat) : State :=
  let s := s.setFld F.QE_STICKY_HOST_LOST 1
  if s.qe.lost.length < 65536 then { s with qe := { s.qe with lost := s.qe.lost ++ [entry] } }.showLost
  else (s.bump C.PX_CNT_LOST_COMPLETIONS 1).setFld F.PX_LOST_STATUS_OVF 1

/-- Fields of a command: bits of the dword at a byte offset. -/
def QCmd.f (c : QCmd) (off hi lo : Nat) : Nat := dw c.bytes off hi lo
def QCmd.opc (c : QCmd) : Nat := c.f 0 7 0
def QCmd.barrier (c : QCmd) : Bool := c.f 0 8 8 = 1
def QCmd.quiet (c : QCmd) : Bool := c.f 0 9 9 = 1
def QCmd.tag (c : QCmd) : Nat := c.f 8 31 0

/-- The completion entry of R593 as a number, PHASE 0. -/
def completionEntry (qid : Nat) (c : QCmd) (status row rank : Nat) : Nat :=
  packBits [(0, 8, status), (16, 16, c.f 0 31 16), (32, 20, qid), (64, 64, c.f 8 63 0), (128, 24, c.idx), (160, 24, c.head),
    (192, 48, row), (240, 6, if status = 0 then 0 else rank)]

/-- Complete a command (R254), unless the node is fatal (R550): it leaves its queue; its entry is written unless QUIET applies, or goes to the log. -/
def State.complete (s : State) (qid : Nat) (c : QCmd) (status row rank : Nat) : State :=
  if s.qe.dead then s else
  let q := s.queue qid
  let s := s.onQueue qid fun q => { q with cmds := q.cmds.filter fun x => x.idx ≠ c.idx }
  let s := { s with qe := { s.qe with
    copies := s.qe.copies.filter (· ≠ (qid, c.idx))
    mover := if s.qe.mover = some (qid, c.idx) then none else s.qe.mover } }
  let s := s.bump C.QE_CNT_CMD_DONE 1
  let r := s.cring q.ring
  if !r.on || r.lost then s.lostEntry (completionEntry qid c St.HOST_LOST row rank)
  else if c.quiet && status = 0 then s
  else s.postEntry q.ring (completionEntry qid c status row rank)

/-- Change a command in its queue. -/
def State.onCmd (s : State) (qid idx : Nat) (f : QCmd → QCmd) : State :=
  s.onQueue qid fun q => { q with cmds := q.cmds.map fun c => if c.idx = idx then f c else c }

def State.setRun (s : State) (qid idx : Nat) (r : CmdRun) : State := s.onCmd qid idx fun c => { c with run := r }

/-! ### Validity of commands (R243, R245, R246, R361, R420) -/

/-- Every bit outside the listed fields (low bit, width) is 0. -/
def onlyFields (v : Nat) (fs : List (Nat × Nat)) : Bool := v = packBits (fs.map fun x => (x.1, x.2, v / 2 ^ x.1 % 2 ^ x.2))

/-- The common header's fields (R243). -/
def headFields : List (Nat × Nat) := [(0, 10), (16, 16), (64, 64)]

/-- A command's parameters keep their rules; BAD_COMMAND otherwise. -/
def cmdOk (c : QCmd) : Bool :=
  let only := fun fs => onlyFields c.bytes (headFields ++ fs)
  match c.opc with
  | 0x00 => only []
  | 0x01 =>
    only [(128, 64), (192, 48), (256, 24), (288, 32), (320, 6), (328, 8), (352, 17), (383, 1)] &&
      c.f 24 31 0 % 64 = 0 && c.f 32 23 0 % 64 = 0 && c.f 32 23 0 ≠ 0 && c.f 36 31 0 % 64 = 0 && c.f 40 5 0 ≤ 46
  | 0x02 => only [(128, 48), (192, 9), (512, 8 * c.f 24 8 0)] && 1 ≤ c.f 24 8 0 && c.f 24 8 0 ≤ 448
  | 0x03 => only [(128, 64), (192, 48), (256, 32), (288, 3), (296, 6)] && 1 ≤ c.f 32 31 0 && c.f 32 31 0 ≤ 2 ^ 30
  | 0x04 => only [(512, 512)]
  | 0x05 => only [(128, 48), (192, 64)] && c.f 16 2 0 = 0
  | 0x06 => only [(128, 48), (192, 64)] && c.f 16 2 0 = 0
  | 0x07 => only [(128, 48), (192, 24), (256, 64), (320, 64)] && c.f 16 11 0 = 0 && c.f 24 23 0 ≠ 0 && c.f 32 2 0 = 0
  | 0x08 =>
    only [(128, 48), (192, 24), (224, 2), (256, 64), (320, 64), (384, 48)] && c.f 16 11 0 = 0 && c.f 24 23 0 ≠ 0 &&
      c.f 32 2 0 = 0 && c.f 28 1 0 ≤ 2 && (if c.f 28 1 0 = 2 then c.f 32 63 0 = 0 else c.f 48 47 0 = 0)
  | _ => false

/-- The opcodes a queue takes (R240, R245). -/
def opcOk (qid opc : Nat) : Bool := if qid = 0 then 0x80 ≤ opc && opc ≤ 0x85 else opc ≤ 8

/-! ### Doorbells and fetch (R247 to R249) -/

/-- Ask the host for the command at the head of a queue in host memory, unless fetching is paused (R548).
(DESIGN CHOICE: log entry 53) -/
def State.askFetch (s : State) (qid : Nat) : State :=
  let q := s.queue qid
  if q.loc || q.head = q.pi || s.now < s.qe.pausedTo then s
  else s.send { kind := .hostRead, dst := q.base + 512 * (q.head % 2 ^ q.log2), args := [512, qid, q.head], bytes := [] }

/-- Fetching goes on: the commands that were being fetched are fetched again (R548). (DESIGN CHOICE: log entry 53) -/
def State.fetchAgain (s : State) : State :=
  let s := { s with qe := { s.qe with pausedTo := s.now } }
  s.qe.queues.foldl (fun s (x : Nat × Queue) => if x.2.state = .active then s.askFetch x.1 else s) s

/-- PI and SEQ of a doorbell keep R247. -/
def Queue.doorOk (q : Queue) (pi seq : Nat) : Bool :=
  idxSub pi q.head ≤ 2 ^ q.log2 && seq = idxSub pi 1 / 2 ^ q.log2 % 65536

/-- A well-formed doorbell of a queue (R242, R247). (DESIGN CHOICE: log entry 52) -/
def State.doorbell (s : State) (qid v : Nat) : State :=
  let q := s.queue qid
  let pi := bits v 43 20
  let seq := bits v 59 44
  let accept := (s.setQueue qid { q with pi := pi, doors := q.doors ++ [(pi, s.rowYoke.row)], state := .active, cause := 0 }).askFetch qid
  if s.qe.dead then s
  else if q.state = .active then
    if pi = q.pi then s
    else if q.doorOk pi seq then accept
    else (((s.setQueue qid { q with state := .paused, cause := 2 }).bump C.QE_CNT_DB_DROPPED 1).setFld F.QE_STICKY_DB_INVALID 1).raise
      Ev.DOORBELL_INVALID { d1 := qid }
  else if q.state = .paused && q.cause = 1 then
    if pi = q.pi then s else if q.doorOk pi seq then accept else s.bump C.QE_CNT_DB_IGNORED 1
  else s.bump C.QE_CNT_DB_IGNORED 1

/-- The queue engine fetches commands of a queue now. -/
def State.fetching (s : State) (qid : Nat) : Bool :=
  let q := s.queue qid
  q.state = .active && q.head ≠ q.pi && !s.qe.dead && s.qe.pausedTo ≤ s.now

/-- The Row of the doorbell under which index `i` is accepted, and the doorbells still of use (R253). -/
def rowOfDoor (i n row : Nat) : List (Nat × Nat) → Nat × List (Nat × Nat)
  | [] => (row, [])
  | (pi, r) :: ds => if idxSub pi (i + 1) < n then (r, (pi, r) :: ds) else rowOfDoor i n row ds

/-- Accept the command at the head: one with an opcode its queue does not take, or with poison, completes at once
(R245, R320). (DESIGN CHOICE: log entry 52) -/
def State.acceptCmd (s : State) (qid bytes : Nat) (poisoned : Bool) : State :=
  let q := s.queue qid
  let (row, doors) := rowOfDoor q.head (2 ^ q.log2) s.rowYoke.row q.doors
  let head := (q.head + 1) % idxMod
  let c : QCmd := { idx := q.head, bytes := bytes, row := row, head := head, run := .waiting, stalled := false }
  let s := s.setQueue qid { q with
    head := head, doors := doors, rereads := 0, missed := none, late := none, cmds := q.cmds ++ [c] }
  let s := if poisoned then s.complete qid c St.POISONED 0 0
    else if opcOk qid c.opc then s
    else s.complete qid c St.BAD_COMMAND 0 0
  s.askFetch qid

/-- The head command as it is read now: its 512 bytes and the poisoned words among them; none where a home holds the
read up. Commands in host memory are the ones the host returned. -/
def State.headBytes (s : State) (qid : Nat) (data : Nat) : Option (Nat × List Nat) × State :=
  let q := s.queue qid
  let a := q.base + 512 * (q.head % 2 ^ q.log2)
  if !q.loc then (some (data, []), s)
  else if s.anyBusy a 512 then (none, s)
  else
    let (bs, ps, s) := s.poolRead a 512
    (some (ofBytes bs, ps), s)

/-- The SEQ of a command is the lap of its slot (R244). -/
def Queue.seqOk (q : Queue) (bytes : Nat) : Bool := dw bytes 0 31 16 = q.head / 2 ^ q.log2 % 65536

/-! ### Dispatch (R240, R243, R251, R255) -/

/-- A command has not been dispatched. -/
def QCmd.undispatched (c : QCmd) : Bool := c.run = .waiting || c.run = .split

/-- A ring has room for an entry, or is not enabled (R255). -/
def State.ringRoom (s : State) (rid : Nat) : Bool :=
  let r := s.cring rid
  !r.on || (r.held.isEmpty && decide (r.count < 2 ^ r.log2))

/-- The command a queue may start now: the first that is not dispatched, where the queue runs, its ring has room,
BARRIER is met, no WAIT holds the queue, and admin commands run one at a time. (DESIGN CHOICE: log entries 52, 54) -/
def State.nextCmd (s : State) (qid : Nat) : Option QCmd :=
  let q := s.queue qid
  if s.qe.dead || !(q.state = .active || q.state = .paused) || !s.ringRoom q.ring then none
  else
    match q.cmds.find? QCmd.undispatched with
    | none => none
    | some c =>
      let earlier := q.cmds.takeWhile fun x => x.idx ≠ c.idx
      if c.run = .split || ((c.barrier || qid = 0) && !earlier.isEmpty) || earlier.any (fun x => x.run = .holding) then none
      else some c

/-- The command of an opcode that may start now, or one that has started and is not held by a fault. -/
def State.pick (s : State) (qid opc : Nat) : Option QCmd :=
  match s.nextCmd qid with
  | some c => if c.opc = opc then some c else (s.queue qid).cmds.find? fun c => c.opc = opc && c.run = .going && !c.stalled
  | none => (s.queue qid).cmds.find? fun c => c.opc = opc && c.run = .going && !c.stalled && !s.qe.dead

/-- The agent code of the queue engine. -/
def qeAgent : Nat := unitAgent 48 3

/-- The agent's number of a command, and of a motif's descriptor-list fetch. -/
def cmdAgent (qid idx : Nat) : Nat := qid + 2 ^ 20 * idx
def listAgent (m : Nat) : Nat := 2 ^ 44 + m

/-- A command's access faults: it stalls (R364, R367). -/
def State.cmdFault (s : State) (qid : Nat) (c : QCmd) (page cause level pte pa access : Nat) : State :=
  let ctx := packBits [(0, 20, qid), (32, 24, c.idx), (64, 8, c.opc)]
  (s.sendFault { agent := ⟨48, 3, cmdAgent qid c.idx⟩, asid := (s.queue qid).asid, page := page, cause := cause, level := level,
                 access := access, sub := 0, tag := c.tag, pte := pte, pa := pa, time := s.now, context := ctx }).onCmd qid c.idx
    fun c => { c with stalled := true, run := if c.run = .waiting then .going else c.run }

/-! ### STITCH (R250 to R252) -/

/-- The ranks a queue's stitches go to now. -/
def State.ranksOf (s : State) (qid : Nat) : List Nat :=
  let q := s.queue qid
  motifIds.filter fun m => q.mask.getLsbD m && s.pos m = 1

/-- Stitches delivered to a motif or on their way to it. -/
def State.delivered (s : State) (m : Nat) : List Stitch :=
  (s.sched m).stitches ++ (s.qe.transit.filter fun x => x.1 = m).map (·.2)

/-- A motif has room for a stitch of a queue (R251). -/
def State.hasRoom (s : State) (qid m : Nat) : Bool :=
  let xs := s.delivered m
  xs.length < 1024 && (xs.filter fun x => x.qid = qid).length < 4

/-- The stitch of rank `r` (R246, R250). -/
def stitchOf (q : Queue) (qid : Nat) (c : QCmd) (r : Nat) : Stitch :=
  { qid := qid, idx := c.idx, rank := r, cls := q.cls, asid := q.asid, estCyc := c.f 16 31 0, estUj := c.f 20 31 0,
    dlist := (c.f 24 47 0 + r * c.f 36 31 0) % 2 ^ 48, dbytes := c.f 32 23 0,
    due := if c.f 40 15 8 = 0 then none else some (c.row + c.f 40 15 8),
    stream := if c.f 44 31 31 = 1 then some (c.f 44 16 0) else none, flagged := false, late := false, headed := false }

/-- A stitch leaves the way to its motif (R60): the stitches of one queue arrive in the order of their indices (R251). -/
def State.takeTransit (s : State) (m qid idx : Nat) : Option (Stitch × State) :=
  match s.qe.transit.find? fun x => x.1 = m && x.2.qid = qid with
  | none => none
  | some e => if e.2.idx = idx then some (e.2, { s with qe := { s.qe with transit := s.qe.transit.erase e } }) else none

/-- A rank's stitch has completed with a status (R252). (DEDUCED: log entries 16, 56) -/
def State.stitchResult (s : State) (x : Stitch) (st : Nat) : State :=
  s.onCmd x.qid x.idx fun c => match c.run with
    | .stitched n got => { c with run := .stitched n (if got.any fun g => g.1 = x.rank then got else got ++ [(x.rank, st)]) }
    | _ => c

/-- The first status other than OK in rank order, with its rank (R252). (DEDUCED: log entry 56) -/
def worstRank (n : Nat) (got : List (Nat × Nat)) : Nat × Nat :=
  (((List.range n).filterMap fun r => (got.find? fun g => g.1 = r && g.2 ≠ 0).map fun g => (g.2, g.1)).head?).getD (0, 0)

/-- Items of the running stitch's list are still in a motif's engines. -/
def State.listBusy (s : State) (m : Nat) : Bool :=
  let a := s.array m
  let v := s.vec m
  let n := s.ndl m
  (a.queue ++ a.prod.toList ++ a.drain.toList).any (·.fromList) || (v.queue ++ v.run.toList).any (·.fromList) ||
    (n.queue ++ n.active.toList).any (·.fromList) || s.sk.ops.any fun o => o.from' = .motif m

/-- The running stitch's list is exhausted and every item has completed (R252). -/
def State.stitchFinished (s : State) (m : Nat) (a : Admitted) : Bool :=
  (a.bad.isSome || a.st.dbytes ≤ a.next) && !s.listBusy m

/-- The running stitch's list goes on. -/
def State.setRunning (s : State) (m : Nat) (f : Admitted → Admitted) : State :=
  s.onSched m fun r => { r with running := r.running.map f }

/-- STOP_SQ on a queue (R242): what is fetched and not dispatched, and a WAIT that holds, completes with
QUEUE_STOPPED. -/
def State.stopQueue (s : State) (qid : Nat) : State :=
  let q := s.queue qid
  let ended := q.cmds.filter fun c => c.undispatched || c.run = .holding
  let s := s.setQueue qid { q with state := .stopping, cause := 0, missed := none, rereads := 0, late := none }
  ended.foldl (fun s c => s.complete qid c St.QUEUE_STOPPED 0 0) s

/-! ### The host's data (R418, R420 to R422) -/

/-- Data written to host memory, with Relaxed Ordering where it may be; a TLP with poison carries EP (R320, R422). -/
def State.hostData (s : State) (addr : Nat) (bs : List Byte) (ep : Bool) : State :=
  let s := s.hostWrite addr bs (s.fld F.PX_CTL_RO_EN = 1) ep
  if ep then (s.bump C.PX_CNT_EP_SENT 1).setFld F.PX_STICKY_EP_SENT 1 else s

/-- Send the flush read of a command's last host word (R418). -/
def State.sendFlush (s : State) (qid idx last status : Nat) : State :=
  ((s.send { kind := .hostRead, dst := last, args := [4, qid, idx], bytes := [] }).bump C.PX_CNT_FLUSH_READS 1).setRun qid idx
    (.flushing status)

/-- Write segments with poisoned words and a hint: local ones at once, remote ones as requests. -/
def State.segsWriteWith (ask : Nat) (ep : Bool) (hint : Option Nat) : Nat → List (Nat × Nat × Nat) → List Byte → State → State
  | _, [], _, s => s
  | va, (node, pa, n) :: segs, bs, s =>
    let s := if node = s.fld F.FB_NODE_NODE then
        let ps := if ep then (List.range ((plainPa pa + n - 1) / 8 - plainPa pa / 8 + 1)).map (plainPa pa / 8 + ·) else []
        let pa' := match hint with
          | some t => if pa < poolTop then 0x800000000000 + t * 2 ^ 40 + pa else pa
          | none => pa
        s.physWrite pa' ((bs.take n).map some) ps
      else s.wantWrite none ask (va % 2 ^ 48 / 4096) node pa (bs.take n) (if ep then List.range ((pa % 8 + n + 7) / 8) else [])
    State.segsWriteWith ask ep hint (va + n) segs (bs.drop n) s

/-- Bytes of a COPY from position `done` up to the next 4 KiB boundary on either side (R420, R421).
(DESIGN CHOICE: log entry 58) -/
def copyPiece (c : QCmd) (done : Nat) : Nat :=
  let left := c.f 32 31 0 - done
  let n := min left (4096 - (c.f 24 47 0 + done) % 4096)
  if c.f 36 1 1 = 1 then min n (4096 - done % 4096) else n

/-- The host address of position `done`. -/
def copyHost (c : QCmd) (done : Nat) (page : Option Nat) : Nat :=
  if c.f 36 1 1 = 1 then page.getD 0 + done % 4096 else c.f 16 63 0 + done

/-- The module address of position `done`. -/
def copyVa (c : QCmd) (done : Nat) : Nat := (c.f 24 47 0 + done) % 2 ^ 48

/-- The page list's entry has to be read before position `done` moves. -/
def copyNeedsEntry (c : QCmd) (page : Option Nat) : Bool := c.f 36 1 1 = 1 && page.isNone

/-- The page of the list still holds after moving to `done`. -/
def keepPage (done : Nat) (page : Option Nat) : Option Nat := if done % 4096 = 0 then none else page

/-- One page of a COPY that waits for no host data (R421): ask for what it needs, or move a piece to the host.
(DESIGN CHOICE: log entry 58) -/
def State.copyStep (s : State) (qid : Nat) (c : QCmd) (done : Nat) (page last : Option Nat) : State :=
  let asid := (s.queue qid).asid
  if c.f 32 31 0 ≤ done then
    match last with
    | some a => s.sendFlush qid c.idx a St.OK
    | none => if s.owes qeAgent (cmdAgent qid c.idx + 1) then s else s.complete qid c St.OK 0 0
  else if copyNeedsEntry c page then
    (s.send { kind := .hostRead, dst := c.f 16 63 0 + 8 * (done / 4096), args := [8, qid, c.idx], bytes := [] }).setRun qid c.idx
      (.copying done none (some .entry) last)
  else
    let n := copyPiece c done
    if c.f 36 0 0 = 0 then
      match s.range qeAgent asid (copyVa c done) n Need.write (.plain n) with
      | (.wait, s) => s
      | (.fault p cs l e pa, s) => s.cmdFault qid c p cs l e pa 2
      | (.ok _, s) =>
        (s.send { kind := .hostRead, dst := copyHost c done page, args := [n, qid, c.idx], bytes := [] }).setRun qid c.idx
          (.copying done page (some (.bytes n)) last)
    else
      match s.vaRead qeAgent asid (copyVa c done) n Need.read with
      | (.wait, s) => s
      | (.fault p cs l e pa, s) => s.cmdFault qid c p cs l e pa 1
      | (.ok bs ps, s) =>
        let a := copyHost c done page
        (s.hostData a bs (!ps.isEmpty)).setRun qid c.idx
          (.copying (done + n) (keepPage (done + n) page) none (some ((a + n - 1) / 4 * 4)))

/-- Host data for a COPY arrives (R421, R422). -/
def State.copyData (s : State) (qid : Nat) (c : QCmd) (done : Nat) (page last : Option Nat) (w : HostWant) (bs : List Byte)
    (ep : Bool) : State :=
  let s := if ep then (s.bump C.PX_CNT_EP_RECEIVED 1).setFld F.PX_STICKY_EP_RECEIVED 1 else s
  match w with
  | .entry => s.setRun qid c.idx (.copying done (some (ofBytes (bs.take 8))) none last)
  | .bytes n =>
    let hint := if c.f 36 2 2 = 1 then some (c.f 36 13 8) else none
    match s.range qeAgent (s.queue qid).asid (copyVa c done) n Need.write (.plain n) with
    | (.wait, s) => s
    | (.fault p cs l e pa, s) => (s.setRun qid c.idx (.copying done page none last)).cmdFault qid c p cs l e pa 2
    | (.ok segs, s) =>
      if s.segsBusy segs then s
      else
        (State.segsWriteWith (asker qeAgent (s.queue qid).asid (cmdAgent qid c.idx + 1)) ep hint (copyVa c done) segs (bs.take n) s).setRun qid c.idx
          (.copying (done + n) (keepPage (done + n) page) none last)

/-- A COPY has started, is not held by a fault, and waits for no host data. -/
def QCmd.copiesNow (c : QCmd) : Bool :=
  !c.stalled && match c.run with
    | .copying _ _ none _ => true
    | _ => false

/-- A PREFETCH or ADVISE has started. -/
def QCmd.movesPages (c : QCmd) : Bool :=
  match c.run with
  | .moving _ _ _ _ _ _ => true
  | _ => false

/-! ### PREFETCH and ADVISE (R361 to R363) -/

/-- Drop matching leaves of every shared TLB and micro-TLB, and the walk caches' steps (R358).
(DESIGN CHOICE: log entry 60) -/
def State.dropLeaves (s : State) (leaf : TlbLeaf → Bool) (step : WalkStep → Bool) : State :=
  let tlbs := Sparse.mapVals Tlb.init
    (fun (t : Tlb) => ⟨t.leaves.filter fun l => !leaf l, t.steps.filter fun x => !step x⟩) s.tu.tlbs
  let micro := Sparse.mapVals [] (fun (ls : List TlbLeaf) => ls.filter fun l => !leaf l) s.tu.micro
  { s with tu := { s.tu with tlbs := tlbs, micro := micro } }

/-- A leaf of an ASID maps one of `n` pages from `page` on. -/
def TlbLeaf.maps (l : TlbLeaf) (asid page n : Nat) : Bool := l.asid = asid && l.page < page + n && page < l.page + l.pages

/-- Where a walk ends, without checks 8 to 10: the level, address and value of the last entry read. -/
inductive Found where
  | entry (level addr e : Nat)
  | none
  | wait
  deriving DecidableEq, Repr

/-- Walk from a table of level `k` − 1 to a leaf or an entry with V = 0. -/
def State.findEntry (va : Nat) : Nat → Nat → State → Found × State
  | 0, _, s => (.none, s)
  | level + 1, table, s =>
    if !s.tableOk table 4096 then (.none, s)
    else
      let a := table + 8 * vpnAt va level
      match s.walkRead 48 a 8 with
      | (Option.none, s) => (.wait, s)
      | (some (_, true), s) => (.none, s)
      | (some (e, false), s) =>
        match entryKind level e with
        | .next t => State.findEntry va level t s
        | .leaf => (.entry level a e, s)
        | .bad _ => (if level = 0 then .entry 0 a e else .none, s)

/-- The level-0 entry, or the larger leaf, of a virtual address under an ASID. -/
def State.pageEntry (s : State) (asid va : Nat) : Found × State :=
  let a := s.fld F.TU_ASID_BASE_BASE * 65536 + 16 * asid
  if !s.tableOk a 16 then (.none, s)
  else
    match s.walkRead 48 a 16 with
    | (Option.none, s) => (.wait, s)
    | (some (_, true), s) => (.none, s)
    | (some (e, false), s) =>
      if e % 2 = 0 || bits e 11 1 ≠ 0 || bits e 127 48 ≠ 0 then (.none, s) else State.findEntry va 4 (bits e 47 12 * 4096) s

/-- A host-resident level-0 entry (R350). -/
def hostResident (e : Nat) : Bool := e % 2 = 0 && bits e 9 8 = 1 && bits e 62 54 = 0

/-- The host bus address an entry names (R350). -/
def hostFrame (e : Nat) : Nat := bits e 53 10 * 4096

/-- A valid leaf of 4 KiB or 64 KiB of this node (R362): what the entry maps, its pages. -/
def smallLeaf (level e : Nat) : Option Nat :=
  if level = 0 && entryKind 0 e = .leaf then (if bits e 63 63 = 1 then some 16 else some 1) else none

/-- The entry that maps a frame, from a saved entry's permission bits (R350, R362). -/
def residentEntry (saved frame pages : Nat) : Nat :=
  packBits [(0, 1, 1), (1, 7, saved / 2), (10, 36, frame / 4096 + if pages = 16 then 8 else 0), (63, 1, flag (pages = 16))]

/-- The host-resident form of an entry with a host frame (R350). -/
def hostEntry (e host : Nat) : Nat :=
  packBits [(1, 7, e / 2), (8, 2, 1), (10, 44, host / 4096), (63, 1, bits e 63 63)]

/-- Read an 8-byte list entry at a local physical address; none outside the pool. (DESIGN CHOICE: log entry 60) -/
def State.listEntry (s : State) (a : Nat) : Option Nat × State :=
  if a + 8 ≤ poolTop then
    let (bs, _, s) := s.poolRead a 8
    (some (ofBytes bs), s)
  else (none, s)

/-- A frame lies in the software range of stacked memory (R361). -/
def State.softRange (s : State) (a n : Nat) : Bool := a + n ≤ s.fld F.HB_SW_TOP_SW_TOP && a + n ≤ reservedBase

/-- Write level-0 entries from `addr` on. -/
def State.putEntries (s : State) (addr : Nat) (es : List Nat) : State :=
  s.poolWrite addr ((es.flatMap (toBytes 8)).map some) []

/-- The pages from `va` that a skipped page or a handled leaf covers, against a range that begins at `first` and has
`pages` pages: a group must lie wholly inside. -/
def groupInside (va0 pages va : Nat) : Bool :=
  let g := va / 65536 * 65536
  va0 ≤ g && g + 65536 ≤ va0 + 4096 * pages

/-- The present virtual address of a mover. -/
def moverVa (c : QCmd) (at' : Nat) : Nat := (c.f 16 47 0 + 4096 * at') % 2 ^ 48

/-- What a mover has done so far: pages handled, moved and skipped, the first skipped address, leaves passed, and the last
host word written. -/
structure Moved where
  at' : Nat
  moved : Nat
  skipped : Nat
  first : Nat
  last : Option Nat
  deriving DecidableEq, Repr

def Moved.run (x : Moved) (want : Bool) : CmdRun := .moving x.at' x.moved x.skipped x.first x.last want

/-- One page is skipped (R361). -/
def Moved.skip (x : Moved) (c : QCmd) : Moved :=
  { x with at' := x.at' + 1, skipped := x.skipped + 1, first := if x.skipped = 0 then moverVa c x.at' else x.first }

/-- A leaf of `n` pages has been moved. -/
def Moved.pass (x : Moved) (n : Nat) : Moved := { x with at' := x.at' + n, moved := x.moved + n }

/-- A mover ends: its result block, then its completion (R361, R418). -/
def State.moverEnd (s : State) (qid : Nat) (c : QCmd) (x : Moved) (status : Nat) : State :=
  let res := c.f 40 63 0
  let s := if res + 16 ≤ poolTop then
      s.poolWrite res ((toBytes 16 (packBits [(0, 32, x.moved), (32, 32, x.skipped), (64, 64, x.first)])).map some) []
    else s
  match x.last with
  | some a => s.sendFlush qid c.idx a status
  | none => s.complete qid c status 0 0

/-- Start a PREFETCH or ADVISE where none runs (R363). -/
def State.moverStart (s : State) (qid : Nat) (c : QCmd) : State :=
  if s.qe.mover.isSome then s
  else if !cmdOk c then s.complete qid c St.BAD_COMMAND 0 0
  else ({ s with qe := { s.qe with mover := some (qid, c.idx) } }).setRun qid c.idx (.moving 0 0 0 0 none false)

/-- The number of the leaf in progress: leaves already passed, counting a group as one and each skipped page as one.
(DESIGN CHOICE: log entry 61) -/
def leafNumber (x : Moved) (groups : Bool) : Nat := if groups then x.skipped + x.moved / 16 else x.skipped + x.moved

/-- One leaf of a PREFETCH: skip it or ask the host for its frames; `data` are the frames that came (R362).
(DESIGN CHOICE: log entry 61) -/
def State.prefetchLeaf (s : State) (qid : Nat) (c : QCmd) (x : Moved) (want : Bool) (data : List Byte) : State :=
  let va0 := c.f 16 47 0
  let pages := c.f 24 23 0
  if pages ≤ x.at' then s.moverEnd qid c x St.OK
  else
    let va := moverVa c x.at'
    match s.pageEntry (s.queue qid).asid va with
    | (.wait, s) => s
    | (.none, s) => s.setRun qid c.idx ((x.skip c).run false)
    | (.entry level addr e, s) =>
      let n := if bits e 63 63 = 1 then 16 else 1
      let (frame, s) := s.listEntry (c.f 32 63 0 + 8 * leafNumber x (n = 16))
      let fr := frame.getD poolTop
      if !(level = 0 && hostResident e) || (n = 16 && !(va % 65536 = 0 && groupInside va0 pages va)) ||
          !s.softRange fr (n * 4096) || fr % (n * 4096) ≠ 0 then s.setRun qid c.idx ((x.skip c).run false)
      else if !want then
        let entries := (List.range n).map fun i => ofBytes ((s.poolRead (addr + 8 * i) 8).1)
        let s := s.sendAll (entries.map fun e => { kind := .hostRead, dst := hostFrame e, args := [4096, qid, c.idx], bytes := [] })
        s.setRun qid c.idx (x.run true)
      else if s.anyBusy fr (n * 4096) || s.anyBusy addr (8 * n) then s
      else
        let bs := (data ++ List.replicate (n * 4096) 0).take (n * 4096)
        let s := s.poolWrite fr (bs.map some) []
        let s := (s.putEntries addr (List.replicate n (residentEntry e fr n))).bump C.TU_CNT_MIG_PAGES n
        s.setRun qid c.idx ((x.pass n).run false)

/-- One leaf of an ADVISE EVICT or DROP (R362); a copy that fails restores the entries. (DESIGN CHOICE: log entry 60) -/
def State.evictLeaf (s : State) (qid : Nat) (c : QCmd) (x : Moved) (copy ok : Bool) : State :=
  let va0 := c.f 16 47 0
  let pages := c.f 24 23 0
  if pages ≤ x.at' then s.moverEnd qid c x St.OK
  else
    let va := moverVa c x.at'
    let asid := (s.queue qid).asid
    match s.pageEntry asid va with
    | (.wait, s) => s
    | (.none, s) => s.setRun qid c.idx ((x.skip c).run false)
    | (.entry level addr e, s) =>
      let n := (smallLeaf level e).getD 0
      let frame := if n = 16 then bits e 45 14 * 65536 else bits e 45 10 * 4096
      if n = 0 || bits e 53 46 ≠ 0 || (n = 16 && !(va % 65536 = 0 && groupInside va0 pages va)) || !s.softRange frame (n * 4096) ||
          poolTop < c.f 32 63 0 + 8 * (x.at' + n) then s.setRun qid c.idx ((x.skip c).run false)
      else if s.anyBusy frame (n * 4096) || s.anyBusy addr (8 * n) then s
      else
        let (ls, _, s) := s.poolRead (c.f 32 63 0 + 8 * x.at') (8 * n)
        let hosts := (List.range n).map fun i => ofBytes ((ls.drop (8 * i)).take 8)
        let s := (s.putEntries addr (hosts.map (hostEntry e))).dropLeaves (fun l => l.maps asid (va / 4096) n) fun _ => false
        if !copy then s.setRun qid c.idx ((x.pass n).run false)
        else if !ok then
          (s.putEntries addr (List.replicate n e)).moverEnd qid c x St.HOST_ERROR
        else
          let (bs, ps, s) := s.poolRead frame (n * 4096)
          let s := ((List.range n).zip hosts).foldl (fun s (i, h) =>
            s.hostData h ((bs.drop (4096 * i)).take 4096) (ps.any fun w => w / 512 = frame / 4096 + i)) s
          let s := s.bump C.TU_CNT_MIG_PAGES n
          s.setRun qid c.idx (({ (x.pass n) with last := some (hosts.getLastD 0 + 4092) }).run false)

/-- One leaf of an ADVISE WARM (R362): its translation into the shared TLB of every named motif. -/
def State.warmLeaf (s : State) (qid : Nat) (c : QCmd) (x : Moved) : State :=
  let pages := c.f 24 23 0
  if pages ≤ x.at' then s.moverEnd qid c x St.OK
  else
    let va := moverVa c x.at'
    let asid := (s.queue qid).asid
    match s.pageEntry asid va with
    | (.wait, s) => s
    | (.none, s) => s.setRun qid c.idx ((x.skip c).run false)
    | (.entry level _ e, s) =>
      let n := (smallLeaf level e).getD 0
      if n = 0 || (n = 16 && !(va % 65536 = 0 && groupInside (c.f 16 47 0) pages va)) then s.setRun qid c.idx ((x.skip c).run false)
      else
        let lf : TlbLeaf := ⟨asid, va / 4096 / n * n, n, e, 0⟩
        let ms := motifIds.filter fun m => (c.f 48 47 0).testBit m
        let s := ms.foldl (fun s m => s.setTlb m { s.tlb m with leaves := keepNewest 4096 (lf :: (s.tlb m).leaves) }) s
        s.setRun qid c.idx ((x.pass n).run false)

/-! ### The host's requests -/

/-- The BARs are decoded (R409, R430). -/
def State.barOn (s : State) : Bool := s.px.memOn && !s.px.d3hot

/-- A request's Requester ID is one that BAR2 and BAR4 serve (R413). -/
def State.ridOk (s : State) (rid : Nat) : Bool :=
  (List.range 4).any fun k => s.fld (F.PX_REQID_V k) = 1 && s.fld (F.PX_REQID_RID k) = rid

/-- A host access is refused (R411): counted, recorded once, and an event once in a Row. -/
def State.refuseHost (s : State) (bar2 write : Bool) (off : Nat) : State :=
  let s := (s.bump C.PX_CNT_ACCESS_REFUSED 1).setFld F.PX_STICKY_ACCESS_REFUSED 1
  let s := if s.fld F.PX_REFUSED_VALID = 1 then s
    else s.setFlds [(F.PX_REFUSED_VALID, 1), (F.PX_REFUSED_WRITE, flag write), (F.PX_REFUSED_BAR2, flag bar2), (F.PX_REFUSED_OFFSET, off)]
  s.raisePerRow Ev.HOST_ACCESS_REFUSED { d0 := off, d1 := if bar2 then 2 else 4 }

end Sys2Proof.Machine
end

