-- ==== Sys2Proof/Machine/SkeinOps.lean ====
section
/-!
DEFINITION. SkeinOps.lean: streams, cells and their footers, the stream operations and the published counts
(07_queues_and_skeins.md).
-/

namespace Sys2Proof.Machine

def State.stream (s : State) (k : Nat) : Stream := Sparse.get Stream.init s.sk.streams k

def State.setStream (s : State) (k : Nat) (x : Stream) : State :=
  { s with sk := { s.sk with streams := Sparse.set Stream.init s.sk.streams k x } }

/-! ### The pool (R257, R258) -/

def State.cellBytes (s : State) : Nat := 2 ^ s.fld F.SK_POOL_CFG_LOG2_CELL
def State.poolCells (s : State) : Nat := s.fld F.SK_POOL_CFG_POOL_CELLS
def State.cellPa (s : State) (c : Nat) : Nat := s.fld F.SK_POOL_BASE_BASE + c * s.cellBytes

/-- Every held cell. -/
def State.heldCells (s : State) : List Nat := s.sk.streams.flatMap fun x => x.2.cells

/-- F: free cells. -/
def State.freeCells (s : State) : Nat := s.poolCells - s.heldCells.length

/-- RS: reserved free cells. -/
def State.reservedCells (s : State) : Nat :=
  (s.sk.streams.map fun x => if x.2.st = .closed then 0 else x.2.resv - x.2.cells.length).sum

/-- FU = F − RS (R269). -/
def State.trueFu (s : State) : Nat := s.freeCells - s.reservedCells

/-- The first cell from `c` on, going round the pool, that is not held; `k` bounds the search.
(DESIGN CHOICE: log entry 22) -/
def nextFree (pool : Nat) (held : List Nat) : Nat → Nat → Nat
  | 0, c => c % pool
  | k + 1, c => if held.contains (c % pool) then nextFree pool held k (c + 1) else c % pool

/-- Take `n` free cells: which of the free cells each one is, the spec leaves open. (DESIGN CHOICE: log entry 22) -/
def State.takeCells (s : State) : Nat → List Nat × State
  | 0 => ([], s)
  | n + 1 =>
    let (cs, s) := s.takeCells n
    let held := s.heldCells ++ cs
    let (k, s) := s.takeFree
    (cs ++ [nextFree s.poolCells held held.length (Config.poolCell k)], s)

/-! ### Footers (R260, R261) -/

/-- The NEXT of a last cell. -/
def noNext : Nat := 0x7FFFFF

/-- The 128 bytes of a footer. -/
def footer (next stream j gen : Nat) : List Byte :=
  let body := toBytes 16 (packBits [(0, 23, next), (32, 17, stream), (64, 23, j), (96, 32, gen)])
  body ++ toBytes 4 (crc32c body) ++ List.replicate 108 0

def State.footerPa (s : State) (c : Nat) : Nat := s.cellPa c + s.cellBytes - 128

/-- (DESIGN CHOICE: log entry 63) -/
def State.putFooter (s : State) (c next stream j gen : Nat) : State :=
  s.poolWrite (s.footerPa c) ((footer next stream j gen).map some) []

/-- Follow the link of cell `c`, stream cell `j`: its NEXT where the footer passes the checks. A poisoned footer is a
mismatch (R320). -/
def State.followLink (s : State) (stream gen c j : Nat) : Option Nat × State :=
  let (bs, ps, s) := s.poolRead (s.footerPa c) 20
  let s := (s.bump C.SK_CNT_LINKS 1).consume 48 ps
  let v := ofBytes bs
  let ok := ps.isEmpty && bits v 159 128 = crc32c (bs.take 16) && bits v 48 32 = stream && bits v 86 64 = j && bits v 127 96 = gen &&
    bits v 22 0 < s.poolCells
  (if ok then some (bits v 22 0) else none, s)

/-- Cells reached by following `n` links from cell `c` (stream cell `j`), `c` first; none where a check fails.
(DESIGN CHOICE: log entry 62) -/
def State.followLinks (stream gen : Nat) : Nat → Nat → Nat → State → Option (List Nat) × State
  | 0, c, _, s => (some [c], s)
  | n + 1, c, j, s =>
    match s.followLink stream gen c j with
    | (none, s) => (none, s)
    | (some c', s) =>
      match State.followLinks stream gen n c' (j + 1) s with
      | (none, s) => (none, s)
      | (some cs, s) => (some (c :: cs), s)

/-- First held stream cell, and one past the last. (DESIGN CHOICE: log entry 62) -/
def Stream.first (x : Stream) : Nat := x.rel / x.tpc
def Stream.past (x : Stream) : Nat := x.first + x.cells.length

/-- Pool cells of stream cells `lo` to `hi`: the engine knows the first and the last cell, and follows links from the
first to any other. (DESIGN CHOICE: log entry 62) -/
def State.cellsBetween (s : State) (k : Nat) (x : Stream) (lo hi : Nat) : Option (List Nat) × State :=
  if lo + 1 = x.past then (some (x.cells.drop (x.cells.length - 1)), s)
  else
    match State.followLinks k x.gen (hi - x.first) (x.cells.headD 0) x.first s with
    | (none, s) => (none, s)
    | (some cs, s) => (some (cs.drop (lo - x.first)), s)

/-- Extents of tokens `t` to `e` − 1, whose cells from stream cell `j0` on are `cs` (R267). -/
def extents (cs : List Nat) (j0 tpc : Nat) : Nat → Nat → Nat → List (Nat × Nat × Nat)
  | 0, _, _ => []
  | k + 1, t, e =>
    if e ≤ t then []
    else
      let n := min (tpc - t % tpc) (e - t)
      ((cs[t / tpc - j0]?).getD 0, t % tpc, n) :: extents cs j0 tpc k (t + n) e

/-- The 8 bytes of an extent. -/
def extentBytes (x : Nat × Nat × Nat) : List Byte := toBytes 8 (packBits [(0, 22, x.1), (32, 16, x.2.1), (48, 16, x.2.2)])

/-! ### Published counts (R269, R270) -/

/-- The true values of a stream's published ones. -/
def Stream.truth (x : Stream) : Published :=
  ⟨x.tail / x.tpc, ceilDiv x.rd x.tpc, x.past - 1 - x.tail / x.tpc, x.limit - x.tail, x.cells.length⟩

/-- A change that lowers a shown count crosses before the operation's result is written. -/
def Published.lowered (shown truth : Published) : Published :=
  ⟨min shown.tc truth.tc, max shown.rc truth.rc, min shown.ac truth.ac, min shown.rest truth.rest, max shown.h truth.h⟩

/-- One Gray-code step of a value toward its true one. -/
def grayStep (shown truth : Nat) : Nat := if shown < truth then shown + 1 else if truth < shown then shown - 1 else shown

/-- Publish what an operation on stream `k` lowered. -/
def State.publishLow (s : State) (k : Nat) : State :=
  let x := s.stream k
  let s := s.setStream k { x with shown := x.shown.lowered x.truth }
  { s with sk := { s.sk with fu := min s.sk.fu s.trueFu } }

/-- SK_COUNTs (R270). -/
def State.skCounts (s : State) (k : Nat) : Nat :=
  let x := s.stream k
  let on := x.st ≠ .closed
  let avail := x.tpc * (x.shown.tc - x.shown.rc)
  let room := x.tpc * min (x.shown.ac + (x.resv - x.shown.h) + s.sk.fu) (x.shown.rest / x.tpc)
  packBits [(0, 23, if on then avail else 0), (23, 1, flag on), (24, 1, flag x.overrun), (25, 1, flag x.late),
    (26, 1, flag (x.st = .broken)), (32, 23, if on then room else 0)]

/-! ### Operations (R262 to R268) -/

/-- Fields of an operation (R266). -/
def skStream (d : Nat) : Nat := dw d 4 16 0
def skN (d : Nat) : Nat := dw d 8 22 0
def skMaxExt (d : Nat) : Nat := dw d 12 15 0
def skVirtual (d : Nat) : Bool := dw d 0 8 8 = 1
def skExt (d : Nat) : Nat := dw d 16 47 0
def skRes (d : Nat) : Nat := dw d 24 47 0
def skOp (d : Nat) : Nat := dw d 0 7 0

/-- Fields an operation uses beside OP, SPACE, STREAM, RES_ADDR and the completion fields. -/
def skUses (op : Nat) : List (Nat × Nat) :=
  match op with
  | 0x40 => [(256, 8), (288, 32), (320, 23), (352, 16)]
  | 0x41 => [(64, 23), (96, 16), (128, 48)]
  | 0x42 => [(64, 23), (96, 16), (128, 48)]
  | 0x45 => [(64, 23)]
  | 0x46 => [(64, 23)]
  | _ => []

/-- An operation keeps the rules of R266. -/
def skOk (d : Nat) (command : Bool) : Bool :=
  let comp := if command then [] else [(384, 66), (480, 32)]
  onlyFields d ([(0, 9), (32, 17), (192, 48)] ++ skUses (skOp d) ++ comp) && 0x40 ≤ skOp d && skOp d ≤ 0x47 &&
    skExt d % 8 = 0 && skRes d % 16 = 0 &&
    (if command then skVirtual d
     else skVirtual d || (skExt d < 2 ^ 32 && skRes d + 16 ≤ localTop && (skMaxExt d = 0 || skExt d + 8 * skMaxExt d ≤ localTop)))

/-- What an operation answers: status, POS, COUNT and the extents. -/
structure SkOut where
  status : Nat
  pos : Nat
  count : Nat
  exts : List (Nat × Nat × Nat)
  deriving DecidableEq, Repr

def SkOut.bad (st : Nat) : SkOut := ⟨st, 0, 0, []⟩

/-- The stream becomes BROKEN (R261). -/
def State.breakStream (s : State) (k : Nat) : State :=
  ((s.setStream k { s.stream k with st := .broken }).setFld F.SK_STICKY_CORRUPT 1).raise Ev.SKEIN_CORRUPT { d1 := k }

/-- Return the first `n` cells of a stream to the pool. -/
def State.dropCells (s : State) (k n : Nat) : State :=
  let x := s.stream k
  (s.setStream k { x with cells := x.cells.drop n }).bump C.SK_CNT_CELLS_FREED n

/-- OPEN. -/
def State.skOpen (s : State) (d asid : Nat) : SkOut × State :=
  let k := skStream d
  let x := s.stream k
  let np := dw d 32 7 0 + 1
  let pb := dw d 36 31 0
  let lim := dw d 40 22 0
  let resv := dw d 44 15 0
  if x.st ≠ .closed then (.bad St.SKEIN_STATE, s)
  else if s.poolCells = 0 || pb = 0 || pb % 128 ≠ 0 || s.cellBytes - 128 < np * pb || lim = 0 || 4194304 < lim || s.trueFu < resv then
    (.bad St.SKEIN_RANGE, s)
  else
    let tpc := (s.cellBytes - 128) / (np * pb)
    (⟨St.OK, tpc, 0, []⟩,
      s.setStream k { Stream.init with st := .opened, owner := asid, gen := (x.gen + 1) % 2 ^ 32, nplanes := np, planeBytes := pb, limit := lim, resv := resv, tpc := tpc })

/-- APPEND. -/
def State.skAppend (s : State) (d : Nat) : SkOut × State :=
  let k := skStream d
  let x := s.stream k
  let n := skN d
  let me := skMaxExt d
  let j0 := x.tail / x.tpc
  let j1 := (x.tail + n - 1) / x.tpc
  let need := j1 + 1 - x.past
  if n = 0 || 65535 < n || x.limit < x.tail + n || (me ≠ 0 && me < j1 - j0 + 1) then (.bad St.SKEIN_RANGE, s)
  else if s.trueFu < need - (x.resv - x.cells.length) then
    (.bad St.SKEIN_FULL, ((s.setStream k { x with overrun := true }).setFld F.SK_STICKY_OVERRUN_ANY 1).bump C.SK_CNT_FULL 1)
  else
    match (if j0 < x.past then s.cellsBetween k x j0 (x.past - 1) else (some [], s)) with
    | (none, s) => (.bad St.SKEIN_CORRUPT, s.breakStream k)
    | (some old, s) =>
      let (new, s) := s.takeCells need
      let s := match x.cells.getLast?, new with
        | some c, c' :: _ => s.putFooter c c' k (x.past - 1) x.gen
        | _, _ => s
      let s := (List.range need).foldl (fun s i =>
        s.putFooter ((new[i]?).getD 0) ((new[i + 1]?).getD noNext) k (x.past + i) x.gen) s
      let s := (s.setStream k { x with cells := x.cells ++ new, tail := x.tail + n }).bump C.SK_CNT_CELLS_TAKEN need
      (⟨St.OK, x.tail, n, if me = 0 then [] else extents (old ++ new) j0 x.tpc (j1 - j0 + 1) x.tail (x.tail + n)⟩, s)

/-- READ. -/
def State.skRead (s : State) (d : Nat) : SkOut × State :=
  let k := skStream d
  let x := s.stream k
  let me := skMaxExt d
  let cap := if me = 0 then 0 else x.tpc - x.rd % x.tpc + (me - 1) * x.tpc
  let n := min (min (skN d) (x.tail - x.rd)) cap
  if skN d = 0 then (.bad St.SKEIN_RANGE, s)
  else if n = 0 then (⟨St.OK, x.rd, 0, []⟩, s)
  else
    let j0 := x.rd / x.tpc
    let j1 := (x.rd + n - 1) / x.tpc
    match s.cellsBetween k x j0 j1 with
    | (none, s) => (.bad St.SKEIN_CORRUPT, s.breakStream k)
    | (some cs, s) =>
      (⟨St.OK, x.rd, n, extents cs j0 x.tpc (j1 - j0 + 1) x.rd (x.rd + n)⟩, s.setStream k { x with rd := x.rd + n })

/-- MARK. -/
def State.skMark (s : State) (d : Nat) : SkOut × State :=
  let x := s.stream (skStream d)
  (⟨St.OK, x.rd, 0, []⟩, s.setStream (skStream d) { x with mark := x.rd })

/-- REWIND. -/
def State.skRewind (s : State) (d : Nat) : SkOut × State :=
  let x := s.stream (skStream d)
  (⟨St.OK, x.mark, 0, []⟩, s.setStream (skStream d) { x with rd := x.mark })

/-- RELEASE. -/
def State.skRelease (s : State) (d : Nat) : SkOut × State :=
  let k := skStream d
  let x := s.stream k
  let p := skN d
  let n := p / x.tpc - x.first
  if p < x.rel || x.rd < p then (.bad St.SKEIN_RANGE, s)
  else
    match (if n = 0 then (some [], s) else State.followLinks k x.gen (min n (x.cells.length - 1)) (x.cells.headD 0) x.first s) with
    | (none, s) => (.bad St.SKEIN_CORRUPT, s.breakStream k)
    | (some _, s) =>
      let s := s.dropCells k n
      (⟨St.OK, p, n, []⟩, s.setStream k { s.stream k with rel := p, mark := max x.mark p })

/-- RETRACT. -/
def State.skRetract (s : State) (d : Nat) : SkOut × State :=
  let k := skStream d
  let x := s.stream k
  let n := skN d
  if n = 0 || x.tail - x.rel < n then (.bad St.SKEIN_RANGE, s)
  else
    let t := x.tail - n
    (⟨St.OK, t, 0, []⟩, s.setStream k { x with tail := t, rd := min x.rd t, mark := min x.mark t })

/-- CLOSE. -/
def State.skClose (s : State) (d : Nat) : SkOut × State :=
  let k := skStream d
  let n := (s.stream k).cells.length
  let s := s.dropCells k n
  (⟨St.OK, 0, n, []⟩, s.setStream k { s.stream k with st := .closed, resv := 0, shown := ⟨0, 0, 0, 0, 0⟩ })

/-- An operation with its checks of state and owner (R262), in the order written. -/
def State.skRun (s : State) (d asid : Nat) : SkOut × State :=
  let x := s.stream (skStream d)
  if skOp d = 0x40 then s.skOpen d asid
  else if x.st = .closed || (x.st = .broken && skOp d ≠ 0x47) then (.bad St.SKEIN_STATE, s)
  else if x.owner ≠ asid then (.bad St.SKEIN_ACCESS, s)
  else
    match skOp d with
    | 0x41 => s.skAppend d
    | 0x42 => s.skRead d
    | 0x43 => s.skMark d
    | 0x44 => s.skRewind d
    | 0x45 => s.skRelease d
    | 0x46 => s.skRetract d
    | _ => s.skClose d

/-- The result block of R267. -/
def resultBlock (o : SkOut) (overrun : Bool) : List Byte :=
  toBytes 16 (packBits [(0, 23, o.pos), (32, 23, o.count), (64, 16, o.exts.length), (80, 1, flag overrun)])

/-- The engine's agent code. -/
def skAgent : Nat := unitAgent 48 4

/-- The agent's number of an operation: the motif, or the command. -/
def SkFrom.number : SkFrom → Nat
  | .motif m => 2 ^ 44 + m
  | .command qid idx => cmdAgent qid idx

/-- Write at a local address of the issuing motif, or at a virtual address. -/
def State.skWrite (s : State) (o : SkOp) (a : Nat) (bs : List Byte) : State :=
  match o.from' with
  | .motif m => if skVirtual o.desc then (s.vaWrite skAgent o.asid (o.from'.number + 1) a bs).2 else s.localWrite m a bs
  | .command _ _ => (s.vaWrite skAgent o.asid (o.from'.number + 1) a bs).2

/-- The operation leaves the engine with a status: a completion record for an item, the command's entry otherwise.
(DESIGN CHOICE: log entry 63) -/
def State.skDone (s : State) (o : SkOp) (st : Nat) : State :=
  let s := ({ s with sk := { s.sk with ops := s.sk.ops.erase o } }).bump C.SK_CNT_OPS 1
  match o.from' with
  | .motif m => s.writeCompletion m o.desc (completionRecord st false (dw o.desc 60 31 0) 0 0)
  | .command qid idx =>
    match (s.queue qid).cmds.find? fun c => c.idx = idx with
    | some c => s.complete qid c st 0 0
    | none => s

/-- Whether the areas an operation writes can be reached (R364): a fault, a wait, or ready. -/
def State.skReach (s : State) (o : SkOp) : Ranged × State :=
  if !skVirtual o.desc then (.ok [], s)
  else
    let n := 8 * skMaxExt o.desc
    let (r, s) : Ranged × State := if n = 0 then (.ok [], s) else s.range skAgent o.asid (skExt o.desc) n Need.write (.plain n)
    match r with
    | .ok segs =>
      match s.range skAgent o.asid (skRes o.desc) 16 Need.write (.plain 16) with
      | (.ok segs', s) => if s.segsBusy (segs ++ segs') then (.wait, s) else (.ok (segs ++ segs'), s)
      | x => x
    | _ => (r, s)

/-- Run an operation that has arrived: extents, then the result block, then the completion (R266, R267). -/
def State.skExec (s : State) (o : SkOp) : State :=
  if let some st := o.ended then (if s.owes skAgent (o.from'.number + 1) then s else s.skDone o st)
  else
  let command := match o.from' with
    | .command _ _ => true
    | .motif _ => false
  if !skOk o.desc command then s.skDone o St.BAD_DESCRIPTOR
  else
    match s.skReach o with
    | (.wait, s) => s
    | (.fault p c l e pa, s) =>
      let s := s.sendFault { agent := ⟨48, 4, o.from'.number⟩, asid := o.asid, page := p, cause := c, level := l, access := 2, sub := 0,
                             tag := dw o.desc 60 31 0, pte := e, pa := pa, time := s.now, context := o.desc }
      { s with sk := { s.sk with ops := s.sk.ops.map fun x => if x = o then { x with stalled := true } else x } }
    | (.ok _, s) =>
      let k := skStream o.desc
      let (out, s) := s.skRun o.desc o.asid
      let s := if out.status = St.SKEIN_RANGE || out.status = St.SKEIN_STATE || out.status = St.SKEIN_ACCESS then
          s.bump C.SK_CNT_REFUSED 1 else s
      let s := s.publishLow k
      let s := if out.exts.isEmpty then s else s.skWrite o (skExt o.desc) (out.exts.flatMap extentBytes)
      let s := s.skWrite o (skRes o.desc) (resultBlock out (out.status ≠ St.SKEIN_ACCESS && (s.stream k).overrun))
      if s.owes skAgent (o.from'.number + 1) then
        { s with sk := { s.sk with ops := s.sk.ops.map fun x => if x = o then { x with ended := some out.status } else x } }
      else s.skDone o out.status

/-- The next operation of a kind: the first in order of arrival that is not stalled, with no earlier one of its stream
(R265). -/
def State.skNext (s : State) (op : Nat) : Option SkOp :=
  if s.now < s.sk.heldTo || s.qe.dead then none
  else
    s.sk.ops.find? fun o => skOp o.desc = op && !o.stalled &&
      !((s.sk.ops.takeWhile (· ≠ o)).any fun x => skStream x.desc = skStream o.desc)

/-- An operation arrives at the engine. -/
def State.skArrive (s : State) (desc asid : Nat) (from' : SkFrom) : State :=
  { s with sk := { s.sk with ops := s.sk.ops ++ [⟨desc, asid, from', false, none⟩] } }

/-- A stitch charged to a stream missed its deadline (R253, R270). -/
def State.streamLate (s : State) (k : Nat) : State :=
  (s.setStream k { s.stream k with late := true }).setFld F.SK_STICKY_LATE_ANY 1

end Sys2Proof.Machine
end

