-- ==== Sys2Proof/Machine/RowOps.lean ====
section
/-!
DEFINITION. RowOps.lean: allowances, admission, accounting, the governor and the backstop
(02_row_and_gauge.md), as operations the Row's commands share.
-/

namespace Sys2Proof.Machine

/-- The Row period in µs and in ns (R41). -/
def State.rpUs (s : State) : Nat := s.fld F.RW_PERIOD_RP_US
def State.rpNs (s : State) : Nat := s.rpUs * 1000

/-- Time since the edge that began the die's Row, ns. -/
def State.relNow (s : State) (m : Nat) : Nat := s.now - (s.sched m).edgeAt

/-- The edge at which a Row that began at `began` ends: the next whole multiple of RP; after a step of hall time to the
corrected time `t`, the next edge after `t`, or the following one where that would end the Row less than RP ÷ 2 after it began
(R42, R45). (DESIGN CHOICE: log entry 36) -/
def rowEnd (rp began : Nat) (stepped : Option Nat) : Nat :=
  match stepped with
  | none => (began / rp + 1) * rp
  | some t =>
    let e := (t / rp + 1) * rp
    if 2 * (e - began) < rp then e + rp else e

/-- Time left to a die's next edge, ns. -/
def State.timeLeft (s : State) (m : Nat) : Nat := rowEnd s.rpNs (s.sched m).edgeAt (s.sched m).stepped - s.now

/-- C_row (R54), in reference cycles. -/
def State.cRow (s : State) : Nat := (s.rpUs - 4) * 2250

/-- A_c (R54). -/
def State.aCyc (s : State) (c : Nat) : Nat := s.cRow * s.fld (F.RW_SHARE_CYC_SHARE c) / 1024

/-- E_ref (R55), µJ. -/
def State.eRef (s : State) : Nat := s.fld F.GA_MOTIF_PWR_P_REF_MW * s.rpUs / 1000

/-- U_c before any thermal cut (R55). -/
def State.uEn (s : State) (c : Nat) : Nat := s.eRef * s.fld (F.RW_SHARE_EN_SHARE c) / 1024

/-- The reserved classes (R50). -/
def reservedClasses : List Nat := List.range 12

/-- E_res before any cut (R55). -/
def State.eResFull (s : State) : Nat := (reservedClasses.map s.uEn).sum

/-- The best-effort cycle pool (R54). -/
def State.bePool (s : State) : Nat := s.cRow - (reservedClasses.map s.aCyc).sum

/-- The key of a class's allowances: the best-effort classes share key 12 (R54, R55). -/
def poolKey (c : Nat) : Nat := if c ≤ 11 then c else 12

/-- Motif ceiling energy of a Row, floor(P_MAX_MW × RP ÷ 1,000) µJ. -/
def State.eMax (s : State) : Nat := s.fld F.GA_MOTIF_PWR_P_MAX_MW * s.rpUs / 1000

/-- The derating factor d, ÷ 256 (R79). -/
def derate (tj : Nat) : Nat := if tj ≤ 95 then 256 else if tj ≤ 104 then 256 - 13 * (tj - 95) else 126

/-- A motif's energy cap at junction temperature `tj` (R74). -/
def State.cap (s : State) (tj : Nat) : Nat := s.eMax * derate tj / 256

/-- A motif's floor (R74). -/
def State.flr (s : State) (tj : Nat) : Nat := min s.eResFull (s.cap tj)

/-- Scaled estimates (R58). -/
def State.ecOf (s : State) (m : Nat) (x : Stitch) : Nat := ceilDiv (x.estCyc * s.fld (F.RW_SCALE_CYC_SCALE m x.cls)) 256
def State.euOf (s : State) (m : Nat) (x : Stitch) : Nat := ceilDiv (x.estUj * s.fld (F.RW_SCALE_EN_SCALE m x.cls)) 256

/-- Sum of eu over stitches (the forecasts of R78). -/
def sumEu (s : State) (m : Nat) (xs : List Stitch) : Nat := (xs.map (s.euOf m)).sum

/-- Write the remaining allowances of pool `k` to their registers; best-effort classes all read the pool. -/
def State.showRem (s : State) (m k : Nat) : State :=
  let r := s.sched m
  let cyc := unsigned 32 (Sparse.get 0 r.remCyc k)
  let uj := unsigned 32 (Sparse.get 0 r.remUj k)
  let cs := if k = 12 then [12, 13, 14, 15] else [k]
  s.setFlds (cs.flatMap fun c => [(F.RW_REM_CYC_REM_CYC m c, cyc), (F.RW_REM_UJ_REM_UJ m c, uj)])

/-- Add to the remaining allowances of pool `k`. -/
def State.addRem (s : State) (m k : Nat) (cyc uj : Int) : State :=
  (s.onSched m fun r => { r with
    remCyc := Sparse.modify 0 r.remCyc k (· + cyc), remUj := Sparse.modify 0 r.remUj k (· + uj) }).showRem m k

/-- The cycle allowance of a pool in a Row: the limit of the cycles' debt (R54, R70). -/
def State.poolCyc (s : State) (k : Nat) : Nat := if k ≤ 11 then s.aCyc k else s.bePool

/-- What a carried stitch owes its pool, from its estimates and what it has run (R69); from the second edge on what it runs is
charged to no class (R71). -/
def Debt.of (d : Debt) (a : Admitted) : Debt :=
  let since := a.cyc - a.cycBefore
  if 2 ≤ a.edges then { d with freeCyc := since }
  else { d with oweCyc := max (a.ec - a.cycBefore) since, oweUj := max (a.eu - a.njBefore / 1000) (a.nj / 1000 - a.njBefore / 1000) }

/-- Charge the pool what is owed and not yet charged, within the Row's allowance, once the budget is installed; count what is
forgiven (R70, R71). -/
def State.settleDebt (s : State) (m : Nat) : State :=
  let r := s.sched m
  match r.debt with
  | none => s
  | some d =>
    let forgiven := d.freeCyc + (d.oweCyc - s.poolCyc d.pool)
    let s := (s.setSched m { r with debt := some { d with forgiven := max d.forgiven forgiven } }).bump (C.RW_CNT_FORGIVEN_CYC m)
      (forgiven - d.forgiven)
    if r.budgetSet then
      let cyc := min d.oweCyc (Sparse.get 0 r.allowCyc d.pool)
      let uj := min d.oweUj (Sparse.get 0 r.allowUj d.pool)
      (s.onSched m fun r => { r with debt := r.debt.map fun d => { d with paidCyc := cyc, paidUj := uj } }).addRem m d.pool
        ((d.paidCyc : Int) - cyc) ((d.paidUj : Int) - uj)
    else s

/-- Bring the running stitch's account up to the present: its cycles, and under R69 to R71 its pool's debt. -/
def State.accrue (s : State) (m : Nat) : State :=
  let r := s.sched m
  match r.running with
  | none => s
  | some a =>
    let a := { a with cyc := refCycles (s.now - a.start.getD s.now) }
    let debt := if a.carried then r.debt.map fun d => d.of a else r.debt
    (s.setSched m { r with running := some a, debt := debt }).settleDebt m

/-- The debt a running stitch has at the edge that carries it over (R69). -/
def Admitted.debt (a : Admitted) : Debt :=
  ({ pool := poolKey a.st.cls, oweCyc := 0, oweUj := 0, paidCyc := 0, paidUj := 0, freeCyc := 0, forgiven := 0 } : Debt).of a

/-- The sum of what is negative, as a positive number (R68). -/
def negSum : List (Nat × Int) → Nat
  | [] => 0
  | (_, v) :: vs => (-v).toNat + negSum vs


/-- Copy the live Row counters to their snapshots (R87). -/
def State.snapshotRow (s : State) (m : Nat) : State :=
  (List.range 7).foldl (fun s i => s.setReg (mAddr m (0x30440 + 8 * i)) (s.reg (mAddr m (0x30400 + 8 * i)))) s

/-- The report of the Row being closed, without the forecasts (R78); E_STACK_UJ is added by the stack's home. -/
def rowReport (m : Nat) (r : RowSched) : Nat :=
  packBits [(0, 8, 0x22), (8, 8, m), (16, 8, r.tjMax), (24, 1, flag r.backstop), (25, 1, flag r.missed),
    (26, 1, flag (r.missHalt || r.powerHalt || r.haltSeen)), (32, 32, r.row), (64, 16, r.row / 2 ^ 32), (80, 5, r.minStep),
    (96, 32, r.njRow / 1000), (128, 32, r.njRes / 1000), (224, 32, r.njStack / 1000)]

/-- Install a Row's budget and allowances on a die (R54, R55, R77, R82), with the debt of a carried stitch. -/
def State.install (s : State) (m : Nat) (cut floor : Bool) (eM eRes eBe : Nat) : State :=
  let full := s.eResFull
  let u := fun c => if cut then s.uEn c * eM / full else s.uEn c
  let cycs := reservedClasses.map (fun c => (c, s.aCyc c)) ++ [(12, s.bePool)]
  let ujs := reservedClasses.map (fun c => (c, u c)) ++ [(12, eBe)]
  let keepN := fun (l : List (Nat × Nat)) => l.filter fun x => x.2 ≠ 0
  let keepI := fun (l : List (Nat × Nat)) => (keepN l).map fun x => (x.1, (x.2 : Int))
  let s := s.onSched m fun r => { r with
    allowCyc := keepN cycs, allowUj := keepN ujs, remCyc := keepI cycs, remUj := keepI ujs, budgetSet := true,
    eRes := eRes, eBe := eBe,
    debt := r.debt.map fun d => { d with paidCyc := 0, paidUj := 0 } }
  let s := s.setFlds [(F.GA_MBUDGET_E_M_UJ m, eM), (F.RW_MSTATUS_CUT m, flag cut), (F.RW_MSTATUS_FLOOR m, flag floor)]
  (((List.range 13).foldl (fun s k => s.showRem m k) s).settleDebt m).accrue m

/-- Run the Row on the floor budget (R46, R77): LATE_BUDGET counts the Row once. (DESIGN CHOICE: log entry 13) -/
def State.floorRow (s : State) (m : Nat) : State :=
  let r := s.sched m
  let s := if r.lateCounted then s else s.bump (C.RW_CNT_LATE_BUDGET m) 1
  let s := s.onSched m fun r => { r with lateCounted := true }
  s.install m false true (s.flr (bits r.report 23 16)) s.eResFull 0

/-- The head stitch of each queue, in order of arrival (R61). -/
def headsFrom (seen : List Nat) : List Stitch → List Stitch
  | [] => []
  | x :: xs => if seen.contains x.qid then headsFrom seen xs else x :: headsFrom (x.qid :: seen) xs

def heads (w : List Stitch) : List Stitch := headsFrom [] w

/-- The stitch of lowest queue ID. -/
def minQid : List Stitch → Option Stitch
  | [] => none
  | x :: xs =>
    match minQid xs with
    | none => some x
    | some y => if x.qid ≤ y.qid then some x else some y

/-- Within a class, queues in ascending ID, starting after the queue admitted last (R62). -/
def pickQueue (start : Nat) (xs : List Stitch) : Option Stitch :=
  match minQid (xs.filter fun x => start ≤ x.qid) with
  | some x => some x
  | none => minQid xs

/-- The first candidate of class `c`. (DESIGN CHOICE: log entry 30) -/
def RowSched.candidate (r : RowSched) (hs : List Stitch) (c : Nat) : Option Stitch :=
  pickQueue (Sparse.get 0 r.lastQ c) (hs.filter fun x => x.cls = c)

/-- Why a stitch at the head of its queue completes without running: R57, R53, R59, in that order.
(DESIGN CHOICE: log entry 30) -/
def State.refusal (s : State) (m : Nat) (x : Stitch) : Option Nat :=
  let ec := s.ecOf m x
  let eu := s.euOf m x
  if x.estCyc = 0 || x.estUj = 0 then some St.BAD_ESTIMATE
  else if x.cls ≤ 11 then
    if s.fld (F.RW_SHARE_CYC_SHARE x.cls) = 0 || s.fld (F.RW_SHARE_EN_SHARE x.cls) = 0 then some St.CLASS_CLOSED
    else if s.aCyc x.cls < ec || s.uEn x.cls < eu then some St.STITCH_TOO_LARGE
    else none
  else if s.bePool < ec || s.eMax - s.eResFull < eu then some St.STITCH_TOO_LARGE
  else none

/-- Test each stitch that has newly reached the head of its queue: it completes without running, or passes (R53, R59); `k`
bounds the tests. (DESIGN CHOICE: log entry 30) -/
def State.headTest (m : Nat) : Nat → State → State
  | 0, s => s
  | k + 1, s =>
    let r := s.sched m
    match (heads r.waiting).find? fun x => !x.headed with
    | none => s
    | some x =>
      match s.refusal m x with
      | some st => State.headTest m k ((s.setSched m { r with waiting := r.waiting.erase x }).stitchResult x st)
      | none => State.headTest m k (s.setSched m { r with
          waiting := r.waiting.map fun y => if y = x then { x with headed := true } else y })

/-- Every head is tested: each test removes a stitch or passes one. (DESIGN CHOICE: log entry 30) -/
def State.testHeads (s : State) (m : Nat) : State := State.headTest m (2 * (s.sched m).waiting.length) s

/-- backlog_cyc() of R63. -/
def RowSched.backlog (r : RowSched) : Nat :=
  ((r.admitted ++ r.running.toList).map fun a => a.ec - a.cyc).sum

/-- fits() of R63. -/
def State.fits (s : State) (m : Nat) (x : Stitch) : Bool :=
  let r := s.sched m
  let ec := s.ecOf m x
  let eu := s.euOf m x
  let now := s.relNow m
  let k := poolKey x.cls
  if Sparse.get 0 r.remCyc k < (ec : Int) || Sparse.get 0 r.remUj k < (eu : Int) then false
  else if (!(x.cls ≤ 11) || s.rpNs - 25000 ≤ now) && refCycles (s.rpNs - now) < r.backlog + ec then false
  else (r.admitted.length + r.running.toList.length) < 64

/-- Admit a stitch (R64). -/
def State.admitOne (s : State) (m : Nat) (pass : Bool) (x : Stitch) : State :=
  let ec := s.ecOf m x
  let eu := s.euOf m x
  let a : Admitted :=
    { st := x, ec := ec, eu := eu, pass := pass, edges := 0, overrun := false, carried := false,
      start := none, cycBefore := 0, cyc := 0, njBefore := 0, nj := 0, next := 0, bad := none, stalled := false }
  let s := s.onSched m fun r => { r with
    waiting := r.waiting.erase x, admitted := r.admitted ++ [a], lastQ := Sparse.set 0 r.lastQ x.cls (x.qid + 1) }
  (s.addRem m (poolKey x.cls) (-(ec : Int)) (-(eu : Int))).bump (C.RW_CNT_ADMITTED m) 1

/-- The quantum of a best-effort class (R62). A class whose CYC_SHARE is 0 while another best-effort class has a share gets the
quantum 0. (DESIGN CHOICE: log entry 15) -/
def State.quantum (s : State) (c : Nat) : Nat :=
  let sh := fun c => s.fld (F.RW_SHARE_CYC_SHARE c)
  if sh 12 = 0 && sh 13 = 0 && sh 14 = 0 && sh 15 = 0 then 1024 else sh c * 1024

/-- Visits class `c` needs before its candidate's ec is covered; none where no number of visits is enough. -/
def State.visits (s : State) (m : Nat) (x : Stitch) (deficit : Nat) : Option Nat :=
  let ec := s.ecOf m x
  let q := s.quantum x.cls
  if q = 0 then none else some (max 1 (ceilDiv (ec - deficit) q))

/-- The least number of visits over the classes of a round, earliest class first. (DESIGN CHOICE: log entry 15) -/
def leastVisits : List (Nat × Stitch × Nat) → Option (Nat × Stitch × Nat)
  | [] => none
  | e :: es =>
    match leastVisits es with
    | none => some e
    | some f => if e.2.2 ≤ f.2.2 then some e else some f

/-- The best-effort candidate that deficit round robin serves next, with the round robin's new state (R62):
classes visited before it in the round receive one quantum more than those after it. The round robin moves on only
where the candidate is admitted. A class of quantum 0 is never served. (DESIGN CHOICE: log entry 15) -/
def State.pickBe (s : State) (m : Nat) (hs : List Stitch) : Option (Stitch × RowSched) :=
  let r := s.sched m
  let p := r.drr
  let served := match r.candidate hs p with
    | some x => if r.inVisit && s.ecOf m x ≤ Sparse.get 0 r.deficit p then some x else none
    | none => none
  match served with
  | some x => some (x, r)
  | none =>
    let wrap := fun c => if 15 < c then c - 4 else c
    let order := if r.inVisit then [wrap (p + 1), wrap (p + 2), wrap (p + 3), p] else [p, wrap (p + 1), wrap (p + 2), wrap (p + 3)]
    let need := order.filterMap fun c =>
      match r.candidate hs c with
      | none => none
      | some x => (s.visits m x (Sparse.get 0 r.deficit c)).map fun v => (c, x, v)
    match leastVisits need with
    | none => none
    | some (b, x, v) =>
      let upTo := order.takeWhile (· ≠ b) ++ [b]
      let deficit := order.foldl (fun d c =>
        if !(r.waiting.any fun y => y.cls = c) then Sparse.set 0 d c 0
        else if (r.candidate hs c).isNone then d
        else Sparse.modify 0 d c (· + (if upTo.contains c then v else v - 1) * s.quantum c)) r.deficit
      some (x, { r with drr := b, inVisit := true, deficit := deficit })

/-- The admission loop: candidates are tested in visit order; a queue whose head does not fit is not considered again at this
point (R61), nor in the edge pass a stitch that came after edge + 2.0 µs (R49). A stitch that becomes the head of its queue is
tested at once (R53). (DESIGN CHOICE: log entry 15) -/
def State.admitLoop (m : Nat) (pass : Bool) : Nat → List Nat → State → State
  | 0, _, s => s
  | k + 1, blocked, s =>
    let r := s.sched m
    let hs := (heads r.waiting).filter fun x => !blocked.contains x.qid && !(pass && x.late)
    let hs := if r.powerHalt || !s.rowYoke.openAll then hs.filter (fun x => x.cls = 0) else hs
    match reservedClasses.findSome? (r.candidate hs) with
    | some x =>
      if s.fits m x then State.admitLoop m pass k blocked ((s.admitOne m pass x).testHeads m)
      else State.admitLoop m pass k (x.qid :: blocked) s
    | none =>
      match s.pickBe m hs with
      | none => s
      | some (x, r') =>
        if s.fits m x then
          let ec := s.ecOf m x
          let s := s.setSched m { r' with deficit := Sparse.modify 0 r'.deficit x.cls (· - ec) }
          State.admitLoop m pass k blocked ((s.admitOne m pass x).testHeads m)
        else State.admitLoop m pass k (x.qid :: blocked) s

/-- The position's state as the die itself has it: the last POS_SET that took effect there, else the resolved one (R36). -/
def State.ownPos (s : State) (m : Nat) : Nat := (Sparse.get none (s.table m).pos m).getD (s.pos m)

/-- An admission point (R60 to R64); two missed edges in a row halt it (R46), and only an ENABLED position admits. -/
def State.admission (s : State) (m : Nat) (pass : Bool) : State :=
  let s := (s.accrue m).testHeads m
  if (s.sched m).missHalt || s.pos m ≠ 1 || s.ownPos m ≠ 1 then s
  else State.admitLoop m pass (2 * (s.sched m).waiting.length + 1) [] s

/-- The next stitch to start: lowest class, earliest admitted within it (R65). -/
def nextToRun : List Admitted → Option Admitted
  | [] => none
  | a :: as =>
    match nextToRun as with
    | none => some a
    | some b => if a.st.cls ≤ b.st.cls then some a else some b

/-- A completing stitch gives back, or takes, the difference of estimate and measure (R67). -/
def State.refund (s : State) (m : Nat) (a : Admitted) : State :=
  s.addRem m (poolKey a.st.cls) ((a.ec : Int) - (a.cyc : Int)) ((a.eu : Int) - ((a.nj / 1000 : Nat) : Int))

/-- One scale's update (R72); `>>` is arithmetic. -/
def rescaleOne (scale measured est : Nat) : Nat :=
  let ratio := clampNat (ceilDiv (measured * 256) est) 256 1024
  (clampInt ((scale : Int) + ((ratio : Int) - (scale : Int)) / 8) 256 1024).toNat

/-- Estimate scaling, with ESTIMATE_DRIFT when a scale rises across 0x0140 (R72, R73). -/
def State.rescale (s : State) (m : Nat) (a : Admitted) : State :=
  let c := a.st.cls
  let c0 := s.fld (F.RW_SCALE_CYC_SCALE m c)
  let e0 := s.fld (F.RW_SCALE_EN_SCALE m c)
  let c1 := rescaleOne c0 a.cyc a.st.estCyc
  let e1 := rescaleOne e0 (a.nj / 1000) a.st.estUj
  let s := s.setFlds [(F.RW_SCALE_CYC_SCALE m c, c1), (F.RW_SCALE_EN_SCALE m c, e1)]
  let s := if c0 < 0x140 && 0x140 ≤ c1 then s.raise Ev.ESTIMATE_DRIFT { src := m, d1 := c } else s
  if e0 < 0x140 && 0x140 ≤ e1 then s.raise Ev.ESTIMATE_DRIFT { src := m, d1 := c } else s

/-- The due edge of a stitch has passed and it has not been flagged (R253). -/
def overdue (row : Nat) (x : Stitch) : Bool :=
  match x.due with
  | none => false
  | some d => d ≤ row && !x.flagged

/-- The module power limit in force, W (R40, R84). -/
def State.powerLimit (s : State) : Nat :=
  if s.fld F.GA_LIMIT_OVR_W = 0 then s.fld F.GA_LIMIT_PAT_W else s.fld F.GA_LIMIT_OVR_W

/-- The last requirement of R51 for a power limit of `w`, with the present ENABLED count. -/
def State.powerFits (s : State) (w : Nat) : Bool :=
  let shares := (reservedClasses.map fun c => s.fld (F.RW_SHARE_EN_SHARE c)).sum
  s.fld F.GA_NONMOTIF_NONMOTIF_W * 1024000 + s.countPos 1 motifIds * s.fld F.GA_MOTIF_PWR_P_REF_MW * shares ≤ w * 1024000

/-- A motif's part in the pool (R74): its room, cap − flr, its weight, and what it is granted. -/
structure PoolPart where
  motif : Nat
  room : Nat
  weight : Nat
  granted : Nat
  deriving DecidableEq, Repr

/-- A part's share of `pool` over `es`, in proportion to weight, equally without weights; divisions round down (R74). -/
def poolShare (pool : Nat) (es : List PoolPart) (e : PoolPart) : Nat :=
  let sumW := (es.map PoolPart.weight).sum
  if sumW = 0 then pool / es.length else pool * e.weight / sumW

/-- Share `pool` over `es`, each grant bounded by its room: the parts, and what the capped motifs leave over. -/
def sharePool (pool : Nat) (es : List PoolPart) : List PoolPart × Nat :=
  let given := es.map fun e => (e, poolShare pool es e)
  (given.map fun (e, x) => { e with granted := e.granted + min (e.room - e.granted) x },
    (given.map fun (e, x) => x - (e.room - e.granted)).sum)

/-- The grants of R74: one pass over every ENABLED motif, and one more over the uncapped motifs with what the capped ones left
over. -/
def poolGrants (pool : Nat) (es : List PoolPart) : List PoolPart :=
  let (first, left) := sharePool pool es
  let (capped, open') := first.partition fun e => e.granted = e.room
  capped ++ (sharePool left open').1

/-- A die's last report. -/
def State.reportOf (s : State) (d : Nat) : Option GaugeReport := Sparse.get none s.rowYoke.reports d

/-- Four times the factor by which a stack's share is multiplied (R324), by its highest temperature in the Row before.
(DESIGN CHOICE: log entry 71) -/
def State.grantFactor (s : State) (k : Nat) : Nat :=
  let t := max (s.ctl k).lastTemp (if (s.ctl k).lastTemp = 0 then s.fld (F.HB_STATUS_TEMP k) else 0)
  if 105 ≤ t then 2 else if 95 ≤ t then 3 else 4

/-- P_MAX_W of guest `g` (R396). (DESIGN CHOICE: log entry 151) -/
def State.guestPower (s : State) (g : Nat) : Nat := bits (s.reg (0x90124 + 0x100 * g)) 31 16

/-- P_MAX_W of the guests that have joined, which NM counts (R398). (DEDUCED: log entry 90) -/
def State.guestWatts (s : State) : Nat :=
  (([0, 1] : List Nat).filter fun g => s.fld (F.SM_GUEST_STATE g) = 3).foldl (fun v g => v + s.guestPower g) 0

/-- Guest `g` has joined and follows the gauge, so that it receives GAUGE_BUDGET (R396, R398): its E_M is the energy of P_MAX_W over the
Row. (DESIGN CHOICE: log entry 151) -/
def State.guestGauged (s : State) (g : Nat) : Bool := s.fld (F.SM_GUEST_STATE g) = 3 && s.reg (0x90118 + 0x100 * g) / 16 % 2 = 1

/-- The budgets for the next Row (R74 to R76, R82), from the yoke's own energy and the seams'. A RECOVERING position gets no
budget and its energy is left out of E_nm; a motif without a report counts with TJ_MAX 0 and w 0; nclk is not stepped up again.
(DEDUCED: log entry 90; DESIGN CHOICE: log entry 130) -/
def State.governor (s : State) (eYoke eSeams : Nat) : State :=
  let on := motifIds.filter fun m => s.pos m = 1
  let off := motifIds.filter fun m => s.pos m = 2 || s.pos m = 3
  let tj := fun m => ((s.reportOf m).map fun r => r.tjMax.toNat).getD 0
  let used := fun m => ((s.reportOf m).map fun r => r.used.toNat).getD 0
  let w := fun m => ((s.reportOf m).map fun r => r.forecastBe.toNat).getD 0
  let stack := fun m => ((s.reportOf m).map fun r => r.stack.toNat).getD 0
  let eStacks := (motifIds.map stack).sum
  let eOff := (off.map used).sum
  let eNm := eYoke + eStacks + eOff + eSeams
  let limit := s.powerLimit * s.rpUs
  let sumFlr := (on.map fun m => s.flr (tj m)).sum
  let nm0 := max (s.fld F.GA_NONMOTIF_NONMOTIF_W * s.rpUs) (eNm * 17 / 16) + s.guestWatts * s.rpUs
  let nm := min nm0 (limit - sumFlr)
  let pool := limit - nm - sumFlr
  let final := poolGrants pool (on.map fun m => { motif := m, room := s.cap (tj m) - s.flr (tj m), weight := w m, granted := 0 })
  let row := (s.rowYoke.row + 1) % 2 ^ 48
  let full := s.eResFull
  let budgetOf := fun m g =>
    let f := s.flr (tj m)
    let cut := decide (f < full)
    let eRes := if cut then (reservedClasses.map fun c => s.uEn c * f / full).sum else full
    ({ row := row, cut := cut, eM := f + g, eRes := eRes, eBe := f + g - eRes } : Budget)
  let den := eYoke + eStacks + eOff
  let part := fun e => if den = 0 then 0 else nm * e / den
  let budgets := motifIds.filterMap fun m =>
    match final.find? (fun e => e.motif = m) with
    | some e => some (m, some (budgetOf m e.granted))
    | none => if off.contains m then some (m, some { row := row, cut := false, eM := part (used m), eRes := 0, eBe := 0 }) else none
  let guests := (([0, 1] : List Nat).filter s.guestGauged).map fun g =>
    (56 + g, some ({ row := row, cut := false, eM := s.guestPower g * s.rpUs, eRes := 0, eBe := 0 } : Budget))
  let slow := s.rowYoke.yokePast.any (· < eYoke)
  let s := { s with mc := { s.mc with energy := eNm + (on.map used).sum } }
  let s := s.setFld F.GA_NONMOTIF_MEAS_W (if s.rpUs = 0 then 0 else eNm / s.rpUs)
  let s := if slow then s.setFld F.NC_STATUS_NCLK_STEP (min 6 (s.fld F.NC_STATUS_NCLK_STEP + 1)) else s
  let s := { s with rowYoke := { s.rowYoke with
    budgets := budgets ++ guests, yokeNext := some (part eYoke),
    stackNext := (List.range 16).map fun k => (k, some (part (stack (homeMotif k)) * s.grantFactor k / 4)) } }
  let s := (on.filter fun m => s.flr (tj m) < full).foldl (fun s _ => s.raise Ev.RESERVED_DERATED {}) s
  if limit - sumFlr < nm0 then s.raise Ev.GAUGE_OVERCOMMIT {} else s

/-- Charge one 1 µs sample of `mw` mW (R66), and note the temperature. (DEDUCED: log entry 14) -/
def State.chargeSample (s : State) (m mw tj : Nat) : State :=
  let r := s.sched m
  let res := match r.running with
    | some a => if a.st.cls ≤ 11 && !(a.carried && 2 ≤ a.edges) then mw else 0
    | none => 0
  let s := s.setSched m { r with
    njRow := r.njRow + mw, njRes := r.njRes + res, tjMax := max r.tjMax tj,
    running := r.running.map fun a => { a with nj := a.nj + mw } }
  let s := s.setFlds [(F.GA_MUSED_E_USED_UJ m, (r.njRow + mw) / 1000), (F.GA_MCLOCK_TJ m, tj)]
  let s := if 0 < s.fld (F.GA_MCLOCK_STEP m) then s.bump (C.RW_CNT_BACKSTOP_US m) 1 else s
  s.accrue m

/-- The thermal hold of R83: from 105 °C until below 103 °C. (DESIGN CHOICE: log entry 71) -/
def State.thermal (s : State) (m tj : Nat) : State :=
  let r := s.sched m
  if 105 ≤ tj && !r.thermalHold then
    ((s.setSched m { r with thermalHold := true }).setFld (F.GA_MCLOCK_STEP m) 18).raise Ev.THERMAL_LIMIT { src := m }
  else if tj < 103 && r.thermalHold then s.setSched m { r with thermalHold := false }
  else s

/-- The backstop's step of fclk (R81, R83), on a position whose compute units run (R75). Between the edge and the installation
of the Row's budget it holds the projection to the budget before.
(DEDUCED: log entry 14; DESIGN CHOICE: log entry 131) -/
def State.backstop (s : State) (m mw : Nat) : State :=
  let r := s.sched m
  let step := s.fld (F.GA_MCLOCK_STEP m)
  let proj := r.njRow + mw * s.timeLeft m / 1000
  let budget := s.fld (F.GA_MBUDGET_E_M_UJ m) * 1000
  let canStep := match r.stepAt with
    | none => true
    | some t => 4000 ≤ s.now - t
  if s.rpNs = 0 || (s.pos m ≠ 1 && s.pos m ≠ 4) then s
  else if budget < proj then
    if step < 18 then
      if canStep then (s.setSched m { r with stepAt := some s.now }).setFld (F.GA_MCLOCK_STEP m) (step + 1) else s
    else (s.setSched m { r with powerHalt := true }).setFld (F.RW_MSTATUS_ADMIT_HALT m) 1
  else if 16 * proj < 15 * budget && 0 < step && !r.thermalHold && !s.rowYoke.clamp && canStep then
    (s.setSched m { r with stepAt := some s.now }).setFld (F.GA_MCLOCK_STEP m) (step - 1)
  else s

/-- GAUGE_BACKSTOP once in every Row in which fclk left 2.25 GHz (R83). -/
def State.noteBackstop (s : State) (m : Nat) : State :=
  let r := s.sched m
  let step := s.fld (F.GA_MCLOCK_STEP m)
  if step = 0 then s
  else
    let s := s.setSched m { r with backstop := true, minStep := max r.minStep step }
    if r.backstop then s else s.raise Ev.GAUGE_BACKSTOP { src := m }

/-- Time `t` moved by `step`. (DESIGN CHOICE: log entry 36) -/
def shiftTime (step : Int) (t : Nat) : Nat := ((t : Int) + step).toNat

/-- Hall time corrected by a step (R45): elapsed times of the Row in progress stay as they are.
(DESIGN CHOICE: log entry 36) -/
def State.stepTime (s : State) (step : Int) : State :=
  let sh := shiftTime step
  let shA := fun (a : Admitted) => { a with start := a.start.map sh }
  let at1 := some (sh s.now)
  let shR := fun (r : RowSched) => { r with
    edgeAt := sh r.edgeAt, placed := sh r.placed, stepped := at1, stepAt := r.stepAt.map sh, running := r.running.map shA }
  let s := { s with
    now := sh s.now, hall := { s.hall with floor := max s.hall.floor s.now, since := s.hall.since.map sh }
    rowYoke := { s.rowYoke with began := sh s.rowYoke.began, stepped := at1 }
    scheds := Sparse.mapVals RowSched.init shR s.scheds }
  let s := (s.setFld F.RW_STATUS_STEP_CNT (min 15 (s.fld F.RW_STATUS_STEP_CNT + 1))).bump C.TS_CNT_STEPS 1
  s.raise Ev.ROW_STEP { d0 := unsigned 64 step }

end Sys2Proof.Machine
end

