-- ==== Sys2Proof/Machine/FaultOps.lean ====
section
/-!
DEFINITION. FaultOps.lean: the fault collector, the fault ring and invalidations (10_address_translation.md).
-/

namespace Sys2Proof.Machine

/-- The dies of the module that hear the chain: positions not UNRESOLVED or DROPPED, and the yoke. -/
def State.chainDies (s : State) : List Nat := (motifIds.filter fun m => s.pos m ≠ 0 && s.pos m ≠ 5)

/-! ### The fault ring (R366, R367, R369) -/

/-- The fault ring can be written: enabled, and in module memory or with the host side up (R418, R427).
(DESIGN CHOICE: log entry 65) -/
def State.fringWritable (s : State) : Bool :=
  s.fld F.TU_FRING_BASE_EN = 1 && (s.tu.loc || (s.fld F.PX_STATUS_HOST_WAIT = 0 && !s.msiBlocked))

/-- Unread records of the ring. -/
def State.fringUnread (s : State) : Nat := idxSub (s.fld F.TU_FRING_PI_PI) (s.fld F.TU_FRING_CI_CI)

/-- A bit for each kind of engine, and for each die, among joined agents. -/
def maskOf (xs : List Nat) : Nat := xs.foldl (fun v x => v ||| 2 ^ x) 0

/-- The 128-byte fault record, PHASE 0 (R367). -/
def faultRecord (entry gen : Nat) (e : CollEntry) : Nat :=
  let f := e.first
  packBits [(0, 8, if 0x10 ≤ f.cause && f.cause ≠ 0x14 then 2 else 1), (8, 8, f.cause), (16, 3, e.access), (20, 12, f.asid),
    (32, 8, entry), (40, 8, gen), (48, 2, f.level), (64, 32, f.page * 4096), (96, 16, f.page / 2 ^ 20),
    (112, 16, min 65535 e.joins), (128, 64, maskOf (e.agents.map (·.mesh))), (192, 5, maskOf (e.agents.map (·.engine))),
    (197, 3, f.agent.engine), (200, 8, f.agent.mesh), (208, 8, f.sub), (224, 32, f.tag), (256, 64, f.pte), (320, 64, f.pa),
    (384, 64, f.time), (512, 512, f.context)]

/-- Put the collector's entry `i`. -/
def State.setEntry (s : State) (i : Nat) (e : Option CollEntry) : State :=
  { s with tu := { s.tu with entries := Sparse.set none s.tu.entries i e } }

/-- Write the record of a closed entry, and signal the ring's level (R255, R366). (DESIGN CHOICE: log entry 65) -/
def State.putFault (s : State) (i : Nat) : State :=
  match Sparse.get none s.tu.entries i with
  | none => s
  | some e =>
    let pi := s.fld F.TU_FRING_PI_PI
    let n := 2 ^ s.tu.log2
    let phase := pi / n % 2
    let record := faultRecord i (Sparse.get 0 s.tu.gens i) e + packBits [(19, 1, phase)]
    let s := s.ringWrite s.tu.loc (s.tu.base + 128 * (pi % n)) (toBytes 128 record)
    let s := s.setEntry i (some { e with written := true })
    let s := (s.setFld F.TU_FRING_PI_PI ((pi + 1) % idxMod)).bump C.TU_CNT_RECORDS 1
    if s.fringUnread = s.fld F.TU_FRING_CTL_LEVEL then s.notify (s.fld F.TU_FRING_CTL_VECTOR) else s

/-- Write finished records that wait while the ring takes them; `k` bounds them. -/
def State.drainFaults : Nat → State → State
  | 0, s => s
  | k + 1, s =>
    match s.tu.ringWait with
    | [] => s
    | i :: is =>
      if s.fringWritable && s.fringUnread < 2 ^ s.tu.log2 then
        State.drainFaults k ({ s with tu := { s.tu with ringWait := is } }.putFault i)
      else s

/-- Records wait for ring space: FAULT_RING_FULL once per episode (R369). -/
def State.faultRingFull (s : State) : State :=
  let full := s.fringWritable && 2 ^ s.tu.log2 ≤ s.fringUnread
  if s.tu.ringWait.isEmpty || !full then { s with tu := { s.tu with fullEpisode := false } }
  else
    let s := s.setFld F.TU_STICKY_RING_FULL 1
    if s.tu.fullEpisode then s else { s with tu := { s.tu with fullEpisode := true } }.raise Ev.FAULT_RING_FULL {}

/-- After the ring gained space or was enabled. -/
def State.fringGo (s : State) : State := (State.drainFaults 256 s).faultRingFull

/-! ### The collector (R365, R369) -/

/-- Show OUTSTANDING and HELD. -/
def State.showTu (s : State) : State :=
  s.setFlds [(F.TU_STATUS_OUTSTANDING, s.tu.entries.length), (F.TU_STATUS_HELD, flag (!s.tu.held.isEmpty))]

/-- A fault arrives at the collector: it joins its key's entry, takes a free one, or waits. Which free entry is taken
is a free value. -/
def State.collect (s : State) (f : FaultInfo) : State :=
  match s.tu.entries.find? fun x => match x.2 with
    | some e => e.first.asid = f.asid && e.first.page = f.page
    | none => false with
  | some (i, some e) =>
    let e' := { e with
      agents := if e.agents.contains f.agent then e.agents else e.agents ++ [f.agent], access := e.access ||| f.access
      joins := if e.written then e.joins else e.joins + 1 }
    let s := s.setEntry i (some e')
    if e.written then s.bump C.TU_CNT_LATE_JOINS 1 else s
  | _ =>
    let open' := (List.range 256).filter fun i => (Sparse.get none s.tu.entries i).isNone
    if open'.isEmpty then { s with tu := { s.tu with held := s.tu.held ++ [f] } }.setFld F.TU_STICKY_COLLECTOR_FULL 1
    else
      let (n, s) := s.takeFree
      let i := open'.getD (Config.victim n % open'.length) 0
      let e : CollEntry := { first := f, agents := [f.agent], access := f.access, joins := 0, opened := s.now, closed := false,
                             written := false }
      s.setEntry i (some e)

/-- Held faults take entries in order of arrival (R369). -/
def State.takeHeld (s : State) : State :=
  let hs := s.tu.held
  hs.foldl State.collect { s with tu := { s.tu with held := [] } }

/-- Free an entry: its GEN rises by 1. -/
def State.freeEntry (s : State) (i : Nat) : State :=
  ({ s with tu := { s.tu with
    entries := Sparse.set none s.tu.entries i none, gens := Sparse.set 0 s.tu.gens i ((Sparse.get 0 s.tu.gens i + 1) % 256)
    ringWait := s.tu.ringWait.filter (· ≠ i) } }.takeHeld).showTu

/-- The asker's agent, as faults name it. -/
def askerAgent (a : Nat) : Agent :=
  let m := a % 64
  let unit := a % 65536 / 64
  let who := a / 2 ^ 28
  if unit = 0 then ⟨m, 0, 0⟩ else if unit = 1 then ⟨m, 1, 0⟩ else if 8 ≤ unit then ⟨m, 2, (who - 1) / 64⟩
  else if unit = 3 then ⟨m, 3, who - 1⟩ else ⟨m, 4, who - 1⟩

/-- Remove the agents of a reset domain from every entry; an entry left with none is freed (R369); their remote accesses are
forgotten. -/
def State.dropAgents (s : State) (gone : Agent → Bool) : State :=
  let s := { s with tu := { s.tu with
    wants := s.tu.wants.filter fun x => !gone (askerAgent x.1), refused := s.tu.refused.filter fun x => !gone (askerAgent x.1)
    landed := s.tu.landed.filter fun x => !gone (askerAgent x.1)
    inFlight := s.tu.inFlight.filter fun f => !gone f.agent, held := s.tu.held.filter fun f => !gone f.agent } }
  (List.range 256).foldl (fun s i =>
    match Sparse.get none s.tu.entries i with
    | none => s
    | some e =>
      let left := e.agents.filter fun a => !gone a
      if left.isEmpty then s.freeEntry i
      else s.setEntry i (some { e with agents := left })) s.showTu

/-! ### Resolving (R364, R368) -/

/-- The command an agent number names. -/
def State.agentCmd (s : State) (id : Nat) : Option (Nat × QCmd) :=
  ((s.queue (id % 2 ^ 20)).cmds.find? fun c => c.idx = id / 2 ^ 20).map fun c => (id % 2 ^ 20, c)

/-- An agent replays its unit. -/
def State.resumeAgent (s : State) (a : Agent) : State :=
  match a.engine with
  | 0 =>
    let x := s.array a.mesh
    (s.setArray a.mesh { x with drain := x.drain.map fun j => { j with stalled := false } }).showArray a.mesh
  | 1 => s.putVe a.mesh ((s.vec a.mesh).run.map fun j => { j with stalled := false })
  | 2 => match s.group a.mesh a.id with
    | some g => s.putGroup a.mesh a.id (some { g with stalled := false })
    | none => s
  | 3 =>
    if 2 ^ 44 ≤ a.id then s.setRunning (a.id - 2 ^ 44) fun x => { x with stalled := false }
    else s.onCmd (a.id % 2 ^ 20) (a.id / 2 ^ 20) fun c => { c with stalled := false }
  | _ => { s with sk := { s.sk with ops := s.sk.ops.map fun o => if o.from'.number = a.id then { o with stalled := false } else o } }

/-- An agent's unit ends with a status. -/
def State.abortAgent (s : State) (status : Nat) (a : Agent) : State :=
  match a.engine with
  | 0 =>
    let x := s.array a.mesh
    (s.setArray a.mesh { x with drain := x.drain.map fun j =>
      if j.stalled then { j with stalled := false, ctrDue := false, status := some status } else j }).showArray a.mesh
  | 1 => match (s.vec a.mesh).run with
    | some j =>
      if j.stalled then
        (s.psumWaited a.mesh { j with stalled := false }).putVe a.mesh (some { j with stalled := false, status := some status })
      else s
    | none => s
  | 2 => match s.group a.mesh a.id with
    | some g => s.groupFault a.mesh a.id { g.atMem with stalled := false } GF.TRANSLATION
    | none => s
  | 3 =>
    if 2 ^ 44 ≤ a.id then s.setRunning (a.id - 2 ^ 44) fun x =>
      if x.stalled then { x with stalled := false, bad := some status } else x
    else match s.agentCmd a.id with
      | some (qid, c) => if c.stalled then s.complete qid c status 0 0 else s
      | none => s
  | _ => match s.sk.ops.find? fun o => o.from'.number = a.id && o.stalled with
    | some o => s.skDone o status
    | none => s

/-- The entry that a resolve names: outstanding, with its record written, and of that generation.
(DESIGN CHOICE: log entry 65) -/
def State.resolvable (s : State) (i gen : Nat) : Option CollEntry :=
  match Sparse.get none s.tu.entries i with
  | some e => if e.written && Sparse.get 0 s.tu.gens i = gen then some e else none
  | none => none

/-! ### Invalidation (R358) -/

/-- A leaf or step that an invalidation drops; the ASID table's entry itself only under scope ASID or ALL.
(DESIGN CHOICE: log entry 64) -/
def Inval.leaf (v : Inval) (l : TlbLeaf) : Bool :=
  match v.scope with
  | 0 => l.maps v.asid v.page 1
  | 1 => l.maps v.asid v.page v.pages
  | 2 => l.asid = v.asid
  | _ => true

/-- (DESIGN CHOICE: log entry 64) -/
def Inval.step (v : Inval) (x : WalkStep) : Bool :=
  let covers := fun n => x.asid = v.asid && x.level ≠ 3 && 0 < n &&
    v.page / 2 ^ (9 * (x.level + 1)) ≤ x.pre && x.pre ≤ (v.page + n - 1) / 2 ^ (9 * (x.level + 1))
  match v.scope with
  | 0 => covers 1
  | 1 => covers v.pages
  | 2 => x.asid = v.asid
  | _ => true

/-- Drop an invalidation's entries from the caches of one die. (DESIGN CHOICE: log entry 64) -/
def State.applyInval (s : State) (die : Nat) (v : Inval) : State :=
  let t := s.tlb die
  let s := s.setTlb die ⟨t.leaves.filter fun l => !v.leaf l, t.steps.filter fun x => !v.step x⟩
  let micro := s.tu.micro.filterMap fun x =>
    if x.1 % 64 = die then
      let ls := x.2.filter fun l => !v.leaf l
      if ls.isEmpty then none else some (x.1, ls)
    else some x
  { s with tu := { s.tu with micro := micro } }

/-- The TLB_INV payload (R385). -/
def Inval.payload (v : Inval) : Nat :=
  packBits [(0, 8, 0x30), (8, 2, v.scope), (16, 12, v.asid), (32, 16, v.seq), (64, 36, v.page), (104, 17, v.pages)]

/-- A write of TU_INV_CTL with GO: queue an invalidation and send it to every die, or reject it (R358). -/
def State.queueInval (s : State) (scope pages asid : Nat) : State :=
  let s := s.setFlds [(F.TU_INV_CTL_SCOPE, scope), (F.TU_INV_CTL_PAGES, pages), (F.TU_INV_CTL_ASID, asid)]
  if 16 ≤ s.tu.invals.length then s.setFld F.TU_STICKY_INV_REJECT 1
  else
    let seq := (s.fld F.TU_INV_STATUS_ISSUED_SEQ + 1) % 65536
    let v : Inval := { seq := seq, scope := scope, asid := asid, page := s.fld F.TU_INV_ADDR_VA, pages := pages,
                       waiting := s.chainDies ++ [48] }
    let s := { s with tu := { s.tu with invals := s.tu.invals ++ [v] } }.setFld F.TU_INV_STATUS_ISSUED_SEQ seq
    s.chainDies.foldl (fun s d => s.sendChain d v.payload) s

/-- A page under an ASID is one that an invalidation names. -/
def Inval.names (v : Inval) (asid page : Nat) : Bool :=
  match v.scope with
  | 0 => asid = v.asid && page = v.page
  | 1 => asid = v.asid && v.page ≤ page && page < v.page + v.pages
  | 2 => asid = v.asid
  | _ => true

/-- A remote access, as it is asked for, may have been translated through a dropped entry of a die: a write by its page, any other
by its ASID. -/
def Inval.mayHold (v : Inval) (die : Nat) (x : Nat × Nat × MemReq) : Bool :=
  x.1 % 64 = die && (match x.2.2 with
    | .write .. => v.names (x.1 / 65536 % 4096) x.2.1
    | _ => v.scope = 3 || x.1 / 65536 % 4096 = v.asid)

/-- Accesses of a die that were translated before the drop are not yet performed (R302, R358): those on their way to other nodes, and
those left of needles' memory instructions. (DESIGN CHOICE: log entry 152) -/
def State.invalOwes (s : State) (die : Nat) (v : Inval) : Bool :=
  (s.tu.wants ++ s.tu.refused).any (v.mayHold die) ||
  s.fabric.out.any (fun x => match x.2 with
    | some r => v.mayHold die (r.ask, r.page, r.req)
    | none => false) ||
  (match s.launch die with
    | some l => (s.ndl die).groups.any fun x => match x.2.bind (·.mem) with
      | some op => op.accs.any fun a => match a.spot with
        | .loc _ _ => false
        | _ => v.names l.asid (a.ea % 2 ^ 48 / 4096)
      | none => false
    | none => false)

/-- A die reports an invalidation no more: it has, or it is no longer there (R358). (DESIGN CHOICE: log entry 152) -/
def State.invalHeard (s : State) (v : Inval) : Bool := v.waiting.all fun d => d < 48 && (s.pos d = 0 || s.pos d = 5)

/-- Complete the invalidations at the head of the queue that every die has reported; `k` bounds them. -/
def State.invalsDone : Nat → State → State
  | 0, s => s
  | k + 1, s =>
    match s.tu.invals with
    | v :: vs =>
      if s.invalHeard v then
        State.invalsDone k (({ s with tu := { s.tu with invals := vs } }.setFld F.TU_INV_STATUS_DONE_SEQ v.seq).bump
          C.TU_CNT_INVALIDATIONS 1)
      else s
    | [] => s

end Sys2Proof.Machine
end

