-- ==== Sys2Proof/Machine/PatternImage.lean ====
section
/-!
DEFINITION. PatternImage.lean: reading flash, and the parts of a Pattern image (R489, R492, R496).
-/

namespace Sys2Proof.Machine

/-- A byte of flash or of an image; an erased byte reads 0xFF. -/
def flashByte (m : Sparse Byte) (a : Nat) : Byte := Sparse.get 0xFF m a

/-- `n` bytes of it. -/
def flashBytes (m : Sparse Byte) : Nat → Nat → List Byte
  | _, 0 => []
  | a, n + 1 => flashByte m a :: flashBytes m (a + 1) n

/-- A little-endian number of `n` bytes. -/
def flashNat (m : Sparse Byte) (a n : Nat) : Nat := ofBytes (flashBytes m a n)

/-- Write bytes. -/
def flashWrite : Sparse Byte → Nat → List Byte → Sparse Byte
  | m, _, [] => m
  | m, a, b :: bs => flashWrite (Sparse.set 0xFF m a b) (a + 1) bs

/-- Erase `n` bytes from `a` on (R509): they read 0xFF. -/
def flashErase (m : Sparse Byte) (a n : Nat) : Sparse Byte := m.filter fun x => x.1 < a || a + n ≤ x.1

/-- Where a section lies in an image that begins at `base`: offset and length (R492, R496). -/
def secPlace (m : Sparse Byte) (base type : Nat) : Option (Nat × Nat) :=
  (List.range (min 32 (flashNat m (base + 6) 2))).findSome? fun i =>
    let e := base + 256 + 16 * i
    if flashNat m e 2 % 32768 = type then some (flashNat m (e + 4) 4, flashNat m (e + 8) 4) else none

/-- `n` bytes at an offset of a section, as a number; 0 where the section is absent (R496). -/
def sectionNat (m : Sparse Byte) (base type off n : Nat) : Nat :=
  match secPlace m base type with
  | none => 0
  | some (o, _) => flashNat m (base + o + off) n

/-- A section's bytes. -/
def sectionBytes (m : Sparse Byte) (base type : Nat) : List Byte :=
  match secPlace m base type with
  | none => []
  | some (o, n) => flashBytes m (base + o) n

/-- A field of the Pattern in force; 0 while none is loaded (R18). -/
def State.pat (s : State) (type off n : Nat) : Nat := if s.pattern.isEmpty then 0 else sectionNat s.pattern 0 type off n

/-- ROW_CE_LIMIT of the MAP section (R328, R497). -/
def State.rowCeLimit (s : State) : Nat := bits (s.pat 3 8 2) 15 8

/-- Hook `k` of R503 is open. -/
def State.hook (s : State) (k : Nat) : Bool := (s.fld F.PT_HOOKS_HOOKS).testBit k

end Sys2Proof.Machine
end

