-- ==== Sys2Proof/Machine/StackOps.lean ====
section
/-!
DEFINITION. StackOps.lean: operations of the stacks' controllers: places, fencing, map-out and evacuation
(09_stacked_memory.md).
-/

namespace Sys2Proof.Machine

/-- Bursts of each pseudo-channel in the last two Rows (R331), the temperature of the Row that ends (R324). -/
def State.markStack (s : State) (k : Nat) : State :=
  let c := s.ctl k
  let now := (List.range 64).filterMap fun p => let v := s.cnt (C.HB_PC_CNT_BURSTS k p); if v = 0 then none else some (p, v)
  let last := now.filterMap fun (p, v) => let n := v - Sparse.get 0 c.marks p; if n = 0 then none else some (p, n)
  s.onCtl k fun c => { c with marks := now, bursts1 := last, bursts2 := c.bursts1, lastTemp := c.rowTemp, rowTemp := 0 }

/-- A pseudo-channel that is neither mapped out, fenced nor in TEST. -/
def State.pcWorks (s : State) (k p : Nat) : Bool :=
  ((s.fld (F.HB_PC_OUT_OUT k) ||| s.fld (F.HB_PC_FENCED_FENCED k) ||| s.fld (F.HB_PC_TEST_TEST k)) / 2 ^ p) % 2 = 0

/-- The mean number of bursts per working pseudo-channel in the Row before last, sent to every home (R331). -/
def State.sendHotMeans (s : State) : State :=
  let works := (List.range 16).flatMap fun k => (List.range 64).filterMap fun p => if s.pcWorks k p then some (k, p) else none
  let sum := (works.map fun (k, p) => Sparse.get 0 (s.ctl k).bursts2 p).sum
  let mean := if works.isEmpty then 0 else sum / works.length
  ((List.range 16).filter fun k => s.pos (homeMotif k) ≠ 0 && s.pos (homeMotif k) ≠ 5).foldl (fun s k =>
    s.sendChain (homeMotif k) (packBits [(0, 8, 0x23), (8, 8, homeMotif k), (32, 32, mean)])) s

/-! ### Places -/

/-- The granule of block `u` that lies on pseudo-channel `pc` (R311). -/
def granuleAt (pc u salt : Nat) : Nat := u * 1024 + (pc ^^^ pcOf (u * 2 ^ 18) salt)

/-- The granule whose data lie at the place of granule `g`: itself, or one redirected there (R335). -/
def State.holder (s : State) (g : Nat) : Nat := ((s.redirect.find? fun x => x.2 = some g).map (·.1)).getD g

/-- The row key of R328 of a granule of a pseudo-channel. -/
def rowOf (pc u : Nat) : Nat := pc * 2 ^ 20 + u / 4

/-- A pseudo-channel serves requests: it works and its stack is in service. -/
def State.pcServes (s : State) (k p : Nat) : Bool :=
  s.pcWorks k p && (s.fld (F.HB_STATUS_STATE k) = 1 || s.fld (F.HB_STATUS_STATE k) = 2)

/-- Read one granule at its home: its eight bursts (R318). -/
def State.granuleRead (s : State) (g : Nat) : State :=
  (List.range 8).foldl (fun s i => s.burstRead (g * 8 + i)) (s.activateBank (g * 256))

/-- Bursts of a granule that hold a word with errors to be corrected or marked. -/
def State.badBursts (s : State) (g : Nat) : Nat :=
  ((List.range 8).filter fun i => s.burstWrong (g * 8 + i)).length

/-! ### Withdrawing units -/

/-- Show PC_OUT (R341). -/
def State.showOut (s : State) (k : Nat) : State :=
  s.setFld (F.HB_STATUS_PC_OUT k) (popCount 64 (s.fld (F.HB_PC_OUT_OUT k) ||| s.fld (F.HB_PC_FENCED_FENCED k)))

/-- Fence one pseudo-channel (R336). -/
def State.fencePc (s : State) (pc : Nat) : State :=
  let k := pc / 64
  if s.fenced pc then s
  else
    let s := s.setFld (F.HB_PC_FENCED_FENCED k) (s.fld (F.HB_PC_FENCED_FENCED k) ||| 2 ^ (pc % 64))
    (s.showOut k).raise Ev.MEM_FENCED { src := homeMotif k, d1 := pc }

/-- Fence a whole stack (R336); the event names its first pseudo-channel. (DESIGN CHOICE: log entry 68) -/
def State.fenceStack (s : State) (k : Nat) : State :=
  let s := s.setFlds [(F.HB_PC_FENCED_FENCED k, 2 ^ 64 - 1 - s.fld (F.HB_PC_OUT_OUT k)), (F.HB_STATUS_STATE k, 4)]
  (s.showOut k).raise Ev.MEM_FENCED { src := homeMotif k, d1 := 64 * k }

/-- Fence a unit: a pseudo-channel, or a whole stack. -/
def State.fenceUnit (s : State) (k : Nat) : Option Nat → State
  | some p => s.fencePc (64 * k + p)
  | none => s.fenceStack k

/-- Blocks of 256 KiB in the donor region of a pseudo-channel and of a stack (R333). -/
def pcBlocks : Nat := 4112
def stackBlocks : Nat := 266240

/-- The lowest donor region in force below the reserved 8 GiB, or its base (R333). -/
def State.lowestDonor (s : State) : Nat := (s.memMap.outs.map (·.base)).foldl min reservedBase

/-- The donor region of the next map-out: base and blocks; none beyond the limits of R332. -/
def State.nextRegion (s : State) (whole : Bool) : Option (Nat × Nat) :=
  let n := (s.memMap.outs.filter fun u => u.pc.isSome).length
  if s.memMap.outs.any fun u => u.pc.isNone then none
  else if whole then some (s.lowestDonor - stackBlocks * 2 ^ 18, stackBlocks)
  else match n with
    | 0 => some (0x00FE00000000, pcBlocks)
    | 1 => some (0x00FE40400000, pcBlocks)
    | 2 => some (0x00FDBFC00000, pcBlocks)
    | 3 => some (0x00FD7F800000, pcBlocks)
    | _ => none

/-- Pseudo-channels of the module whose bit is set in a field of each stack. -/
def State.pcsWith (s : State) (f : Nat → Fld) : List Nat :=
  (List.range 16).flatMap fun k => (List.range 64).filterMap fun p => if (s.fld (f k)).testBit p then some (64 * k + p) else none

/-- The record of a map-out of a unit, as it begins (R335). -/
def State.newMapOut (s : State) (k : Nat) (pc : Option Nat) (base blocks : Nat) : MapOut :=
  let out := s.pcsWith F.HB_PC_OUT_OUT
  let fen := s.pcsWith F.HB_PC_FENCED_FENCED
  let members := match pc with
    | some p => [64 * k + p]
    | none => ((List.range 64).map (64 * k + ·)).filter fun c => !out.contains c
  let moved := (s.redirect.filter fun x => match x.2 with
    | some d => members.contains (pcOf (d * 256) s.salt)
    | none => false).map (·.1)
  { stack := k, pc := pc, base := base, blocks := blocks, members := members,
    bad := out ++ (fen ++ members).filter (fun c => !out.contains c), moved := moved,
    poisoned := members.any fun c => fen.contains c }

/-- Show an evacuation in HB_EVAC. -/
def State.showEvac (s : State) (u : MapOut) (st : Nat) : State :=
  s.setFlds [(F.HB_EVAC_STATE, st), (F.HB_EVAC_WHOLE_STACK, flag u.pc.isNone), (F.HB_EVAC_STACK, u.stack),
    (F.HB_EVAC_PC, u.pc.getD 0), (F.HB_EVAC_SEG_TOTAL, if u.pc.isNone then 32768 else 512), (F.HB_EVAC_SEG_DONE, 0)]

/-- Begin the copying of a map-out (R337); a unit fenced since it was recorded gives poison (R336).
(DESIGN CHOICE: log entry 67) -/
def State.startEvac (s : State) (u : MapOut) : State :=
  let u := { u with poisoned := u.poisoned || u.members.any s.fenced }
  let s := { s with memMap := { s.memMap with evac := some u, copied := 0, aonDone := some 0, flashDone := some 0 } }
  (s.showEvac u 2).setFld (F.HB_STATUS_STATE u.stack) 2

/-- Ask for the grant that a map-out needs (R334). (DEDUCED: log entry 94) -/
def State.awaitGrant (s : State) (u : MapOut) : State :=
  let s := { s with memMap := { s.memMap with evac := some u, copied := 0 } }
  let s := (s.showEvac u 1).setFlds [(F.HB_DONOR_BASE, u.base), (F.HB_DONOR_SIZE_4MIB, u.blocks / 16), (F.HB_GRANT_PENDING, 1)]
  s.raise Ev.MAPOUT_NEEDS_SPACE { d0 := u.base }

/-- Remove every cached line of a region (R334). -/
def State.cleanRegion (s : State) (base blocks : Nat) : State :=
  let inside := fun (l : Nat) => base ≤ l * 128 && l * 128 < base + blocks * 2 ^ 18
  let ls := (List.range 16).flatMap fun k =>
    ((s.home k).dir.map (·.1)).filter inside ++ ((s.home k).buffer.map (·.1)).filter inside
  ls.foldl (fun s l => s.cleanLine l false) s

/-! ### Donors -/

/-- Blocks outside the region before block `u`; none inside it. -/
def MapOut.outside (m : MapOut) (u : Nat) : Option Nat :=
  let b := m.base / 2 ^ 18
  if u < b then some u else if u < b + m.blocks then none else some (u - m.blocks)

/-- The place of a granule of the unit in ascending PA among those outside the region. -/
def MapOut.rank (m : MapOut) (salt pc u : Nat) : Option Nat :=
  let f := pcOf (u * 2 ^ 18) salt
  (m.outside u).map fun n => n * m.members.length + (m.members.filter fun c => (c ^^^ f) < (pc ^^^ f)).length

/-- The donor granule of rank `r`. (DESIGN CHOICE: log entry 67) -/
def MapOut.donor (m : MapOut) (salt r : Nat) : Nat :=
  let per := 1024 - m.bad.length
  let u := m.base / 2 ^ 18 + r / per
  let f := pcOf (u * 2 ^ 18) salt
  u * 1024 + ((List.range 1024).filter fun lo => !m.bad.contains (lo ^^^ f)).getD (r % per) 0

/-- Granules of the unit outside the region. -/
def MapOut.count (m : MapOut) : Nat := (2 ^ 22 - m.blocks) * m.members.length

/-- The new donor of an original granule whose earlier donor lies on the unit. -/
def MapOut.movedDonor (m : MapOut) (salt g : Nat) : Option Nat :=
  (m.moved.zipIdx.find? fun x => x.1 = g).map fun x => m.donor salt (m.count + x.2)

/-- Redirect the granules at one place of the unit to their donors (R335). (DESIGN CHOICE: log entry 66) -/
def State.redirectPlace (s : State) (m : MapOut) (pc u : Nat) : State :=
  let g := granuleAt pc u s.salt
  let x := s.holder g
  let s := match m.rank s.salt pc u with
    | none => s
    | some r => { s with redirect := Sparse.set none s.redirect g (some (m.donor s.salt r)) }
  match m.movedDonor s.salt x with
  | none => s
  | some d => if x = g then s else { s with redirect := Sparse.set none s.redirect x (some d) }

/-- The pseudo-channel and the first granule of segment `q` (R337); a stack's pseudo-channels go in ascending order. -/
def MapOut.segmentStart (m : MapOut) (q : Nat) : Nat × Nat :=
  match m.pc with
  | some p => (64 * m.stack + p, q * 8192)
  | none => (64 * m.stack + q / 512, q % 512 * 8192)

/-- Segments of a map-out. -/
def MapOut.segments (m : MapOut) : Nat := if m.pc.isSome then 512 else 32768

/-- Redirect every granule of a segment; a pseudo-channel mapped out earlier has none left.
(DESIGN CHOICE: log entry 66) -/
def State.redirectSegment (s : State) (m : MapOut) (q : Nat) : State :=
  let (pc, u) := m.segmentStart q
  if m.members.contains pc then (List.range 8192).foldl (fun s i => s.redirectPlace m pc (u + i)) s else s

/-- Poison every word of a granule. -/
def State.poisonGranule (s : State) (g : Nat) : State :=
  { s with poison := (List.range 32).foldl (fun p i => Sparse.set false p (g * 32 + i) true) s.poison }

/-- Copy a segment: each granule is read under R318; a fenced unit's donors are written with poison (R336, R337). -/
def State.copySegment (s : State) (m : MapOut) (q : Nat) : State :=
  let (pc, u) := m.segmentStart q
  if !m.members.contains pc then s
  else (List.range 8192).foldl (fun s i =>
    let g := granuleAt pc (u + i) s.salt
    let x := s.holder g
    let s := if m.poisoned || s.fenced pc then s.poisonGranule x else s.granuleRead x
    match m.rank s.salt pc (u + i) with
    | none => s
    | some r =>
      let d := pcOf (m.donor s.salt r * 256) s.salt
      s.bump (C.HB_PC_CNT_BURSTS (d / 64) (d % 64)) 8) s

/-- A map-out is in force: its registers (R332, R333). -/
def State.showMapOut (s : State) (m : MapOut) : State :=
  let k := m.stack
  let mask := m.members.foldl (fun v c => v ||| 2 ^ (c % 64)) 0
  let s := s.setFlds [(F.HB_PC_OUT_OUT k, s.fld (F.HB_PC_OUT_OUT k) ||| mask),
    (F.HB_PC_FENCED_FENCED k, s.fld (F.HB_PC_FENCED_FENCED k) &&& (2 ^ 64 - 1 - mask)),
    (F.HB_STATUS_STATE k, if m.pc.isNone then 3 else if s.fld (F.HB_STATUS_STATE k) = 2 then 1 else s.fld (F.HB_STATUS_STATE k))]
  let s := match m.pc with
    | some _ => s.setFld F.HB_MAP_PC_MAPOUTS (s.fld F.HB_MAP_PC_MAPOUTS + 1)
    | none => s.setFlds [(F.HB_MAP_STACK_OUT, 1), (F.HB_MAP_STACK, k)]
  s.showOut k

/-- The evacuation is complete: the map-out is in force (R332, R338). (DESIGN CHOICE: log entry 68) -/
def State.endEvac (s : State) (m : MapOut) : State :=
  let s := { s with memMap := { s.memMap with
    outs := s.memMap.outs ++ [m], evac := none, copied := 0, aonDone := none, flashDone := none } }
  ((s.showMapOut m).setFld F.HB_EVAC_STATE 0).raise Ev.MAPOUT_DONE { d1 := 64 * m.stack + m.pc.getD 0 }

/-- Where software's addresses end (R333). -/
def State.setSwTop (s : State) : State := s.setFld F.HB_SW_TOP_SW_TOP s.lowestDonor

end Sys2Proof.Machine
end

