-- ==== Sys2Proof/Machine/StructOps.lean ====
section
/-!
DEFINITION. StructOps.lean: changes of the data plane's structure that name a Row (R36, R241, R380).
-/

namespace Sys2Proof.Machine

/-- The Row a die is in. -/
def State.dieRow (s : State) (d : Nat) : Nat := if d < 48 then (s.sched d).row else s.rowYoke.row

/-- The chain TYPE of a change (R385). -/
def Change.type : Change → Nat
  | .route _ => 0x10
  | .map _ _ => 0x11
  | .bind _ _ _ => 0x12
  | .pos _ _ => 0x13

/-- The payload the model gives a change: its type, its Row and its figures. -/
def Change.payload (c : Change) (row : Nat) : Nat :=
  let rest := match c with
    | .route t => t
    | .map salt rs => salt + packBits ((rs.zipIdx).flatMap fun (r, i) => [(64 + 96 * i, 48, r.1), (112 + 96 * i, 48, r.2)])
    | .bind q m k => packBits [(0, 20, q), (20, 48, m), (68, 4, k)]
    | .pos m k => packBits [(0, 6, m), (8, 4, k)]
  packBits [(0, 8, c.type), (32, 48, row)] + rest * 2 ^ 96

/-- The management controller sends a change to a die, for a Row; the yoke's own units hold theirs at once. -/
def State.issue' (s : State) (d row : Nat) (c : Change) : State :=
  if d = 48 then { s with rowYoke := { s.rowYoke with changes := s.rowYoke.changes ++ [(48, row, c)] } }
  else { s with rowYoke := { s.rowYoke with issued := s.rowYoke.issued ++ [(d, row, c)] } }.sendChain d (c.payload row)

/-- It sends a change to every die. -/
def State.issueAll (s : State) (row : Nat) (c : Change) : State := (s.chainDies ++ [48]).foldl (fun s d => s.issue' d row c) s

/-- The Row the management controller names: an edge that every die can still reach (R35, R36).
(DESIGN CHOICE: log entry 11) -/
def State.namedRow (s : State) : Nat := (s.rowYoke.row + 2) % 2 ^ 48

/-- The next edge that every die can still reach (R241, R547): the coming one, where every die is reached before it, in 1.0 µs (R35), or else the
one after it. (DESIGN CHOICE: log entry 11) -/
def State.reachableRow (s : State) : Nat :=
  let near := s.now + 1000 ≤ s.rowYoke.began + s.fld F.RW_PERIOD_RP_US * 1000
  (s.rowYoke.row + if near then 1 else 2) % 2 ^ 48

/-- A change of the position `x` waits for the yoke's edge. -/
def State.posPending (s : State) (x : Nat) : Bool :=
  s.rowYoke.changes.any fun c => c.1 = 48 && match c.2.2 with
    | .pos y _ => y = x
    | _ => false

/-- The binding a queue has, or will have once the changes already sent take effect (R241). -/
def State.boundNext (s : State) (q : Nat) : Nat × Nat :=
  s.rowYoke.changes.foldl (fun b c => if c.1 = 48 then (match c.2.2 with
    | .bind q' m k => if q' = q then (m, k) else b
    | _ => b) else b) ((s.queue q).mask.toNat, (s.queue q).cls)

/-- A change arrives at a die: held for its edge, or reported late and not applied (R36). -/
def State.takeChange (s : State) (d row : Nat) (c : Change) : State :=
  if row ≤ s.dieRow d then
    s.sendFrom d 48 (packBits [(0, 8, 0x24), (8, 8, d), (32, 48, row)])
  else { s with rowYoke := { s.rowYoke with changes := s.rowYoke.changes ++ [(d, row, c)] } }

/-! ### Units that go dark (R27, R282, R547, R548) -/

/-- Agent `d` leaves the directory entry of a line. (DESIGN CHOICE: log entry 72) -/
def State.leaveLine (s : State) (d l : Nat) : State :=
  let k := s.homeStack (l * 128)
  match Sparse.get none (s.home k).dir l with
  | none => s
  | some e =>
    let owner := if e.owner = some d then none else e.owner
    let sharers := e.sharers &&& (BitVec.allOnes 64 ^^^ BitVec.ofNat 64 (2 ^ d))
    let e' := { e with owner := owner, sharers := sharers }
    let left := if e'.owner.isNone && e'.sharers = 0 && e'.pin.isNone then none else some e'
    s.onHome k fun h => { h with dir := Sparse.set none h.dir l left }

/-- A cache writes back every dirty line and drops every other one (R282). -/
def State.drainCache (s : State) (d : Nat) : State :=
  let s := (s.agent d).lines.foldl (fun s x =>
    let s := match s.dirtyAt d x.1 with
      | some v => if d < 48 then (s.memWriteLine x.1 v fullMask).bump (C.L2_CNT_WRITEBACKS d) 1 else s.memWriteLine x.1 v fullMask
      | none => s
    s.leaveLine d x.1) s
  s.onAgent d fun _ => .init

/-- A cache is lost: the homes mark its lines poisoned and clear it from the directory (R282). -/
def State.loseCache (s : State) (d : Nat) : State :=
  let owned := (List.range 16).flatMap fun k => (s.home k).dir.filterMap fun x =>
    match x.2 with
    | some e => if e.owner = some d then some (x.1, true) else if e.sharers.getLsbD d then some (x.1, false) else none
    | none => none
  let s := owned.foldl (fun s x =>
    let s := if x.2 then
        { s with poison := (List.range 16).foldl (fun p i => Sparse.set false p (x.1 * 16 + i) true) s.poison }.setFld
          (F.L2_STICKY_POISONED (s.homeOf x.1)) 1
      else s
    s.leaveLine d x.1) s
  s.onAgent d fun _ => .init

/-- A motif's engines stop and lose their descriptors and groups, without completions (R548).
(DESIGN CHOICE: log entry 72) -/
def State.stopEngines (s : State) (m : Nat) : State :=
  let a := s.array m
  let s := ((s.setArray m { a with queue := [], prod := none, drain := none }).showArray m).accTurn m
  let s := match (s.vec m).run with
    | some j => s.psumWaited m j
    | none => s
  let s := (s.setVec m VecEngine.init).showVec m
  let s := (s.setNdl m { s.ndl m with groups := [], queue := [], active := none }).showNdl m
  let s := { s with
    resv := s.resv.filter fun r => r.motif ≠ m
    sk := { s.sk with ops := s.sk.ops.filter fun o => o.from' ≠ SkFrom.motif m } }
  s.dropAgents fun a => (a.mesh = m && a.engine ≤ 2) || (a.mesh = 48 && a.engine = 3 && a.id = listAgent m) ||
    (a.mesh = 48 && a.engine = 4 && a.id = (SkFrom.motif m).number)

/-- The stitch of a command on a motif is cancelled and completes with a status (R548). (DESIGN CHOICE: log entry 73) -/
def State.cancelStitch (s : State) (m qid idx st : Nat) : State :=
  let here := fun (x : Stitch) => x.qid = qid && x.idx = idx
  let xs := (s.delivered m).filter here
  let s := { s with qe := { s.qe with transit := s.qe.transit.filter fun x => !(x.1 = m && here x.2) } }
  let s := s.accrue m
  let r := s.sched m
  let gone := r.admitted.filter fun a => here a.st
  let run := r.running.filter fun a => here a.st
  let s := s.setSched m { r with
    waiting := r.waiting.filter fun x => !here x, admitted := r.admitted.filter fun a => !here a.st
    running := if run.isSome then none else r.running }
  let s := if run.isSome then s.stopEngines m else s
  let s := ((gone ++ run.toList).filter fun a => a.edges = 0).foldl (fun s a => s.refund m a) s
  xs.foldl (fun s x => s.stitchResult x st) (s.testHeads m)

/-- A motif leaves compute: its stitches and their commands' other ranks complete with MOTIF_LOST (R547).
(DESIGN CHOICE: log entry 73) -/
def State.loseMotif (s : State) (m : Nat) : State :=
  let xs := s.delivered m
  let s := { s with qe := { s.qe with transit := s.qe.transit.filter fun x => x.1 ≠ m } }
  let s := s.onSched m fun r => { r with waiting := [], admitted := [], running := none }
  let s := s.stopEngines m
  let s := xs.foldl (fun s x => s.stitchResult x St.MOTIF_LOST) s
  xs.foldl (fun s x =>
    (motifIds.filter (· ≠ m)).foldl (fun s r => s.cancelStitch r x.qid x.idx St.MOTIF_LOST) s) s

end Sys2Proof.Machine
end

