-- ==== Sys2Proof/Machine/PanelOps.lean ====
section
/-!
DEFINITION. PanelOps.lean: seams, chain routes, darning and the state of the recovery sequencer
(11_seams_and_panel.md, 16_cast_on_security_recovery.md).
-/

namespace Sys2Proof.Machine

/-! ### The sequencer's registers and a fatal node (R544, R546, R550) -/

/-- The node is fatal. -/
def State.isFatal (s : State) : Bool := s.fld F.MC_SEQ_STATE = 2

/-- Show MC_SEQ and MC_PENDINGi. -/
def State.showSeq (s : State) : State :=
  let r := s.recovery
  let s := s.setFlds [(F.MC_SEQ_STATE, if s.isFatal then 2 else flag r.running.isSome), (F.MC_SEQ_PARKED, flag r.parked.isSome),
    (F.MC_SEQ_KIND, (r.running.map (·.kind)).getD 0), (F.MC_SEQ_ID, (r.running.map (·.id)).getD 0),
    (F.MC_SEQ_PENDING, r.pending.length)]
  s.setFlds ((List.range 8).flatMap fun i =>
    let d := r.pending[i]?
    [(F.MC_PENDING_VALID i, flag d.isSome), (F.MC_PENDING_KIND i, (d.map (·.kind)).getD 0),
      (F.MC_PENDING_FAULTS i, min 3 ((d.map (·.faults)).getD 0)), (F.MC_PENDING_CAUSE i, (d.map (·.cause)).getD 0),
      (F.MC_PENDING_ID i, (d.map (·.id)).getD 0)])

def State.setRecovery (s : State) (r : Recovery) : State := { s with recovery := r }.showSeq

/-- The node becomes fatal (R546, R550, R583): compute, the queue engine and the skein engine stop.
(DESIGN CHOICE: log entry 72) -/
def State.nodeFatal (s : State) (cause kind id : Nat) : State :=
  if s.isFatal then s
  else
    let s := s.setFlds [(F.MC_FATAL_VALID, 1), (F.MC_FATAL_KIND, kind), (F.MC_FATAL_ID, id), (F.MC_FATAL_CAUSE, cause),
      (F.MC_SEQ_STATE, 2), (F.MC_STATUS_STATE, 4), (F.MC_BOARD_FATAL_OUT, 1), (F.MC_BOARD_READY_OUT, 0)]
    let s := s.raise Ev.NODE_FATAL { dom := id, kind := kind, d1 := cause }
    let s := { s with qe := { s.qe with dead := true } }
    motifIds.foldl (fun s m => (s.onSched m fun r => { r with waiting := [], admitted := [], running := none }).stopEngines m) s

/-- The recovery ends: RECOVERY_END, and the sequencer is free (R544). (DEDUCED: log entry 94) -/
def State.endRecovery (s : State) : State :=
  match s.recovery.running with
  | none => s
  | some d =>
    (s.raise Ev.RECOVERY_END { dom := d.id, kind := d.kind }).setRecovery
      { s.recovery with running := none, phase := 0, escalated := false }

/-- The recovery of a domain runs. (DEDUCED: log entry 74) -/
def State.recovering (s : State) (kind id : Nat) : Bool :=
  match s.recovery.running with
  | some d => d.kind = kind && d.id = id
  | none => false

/-! ### Seams (R387 to R392) -/

/-- A seam's two sides: a motif and the direction of its seam, or the yoke with its seam's number (R23, R500). -/
inductive SideAt where
  | motif (m d : Nat)
  | yoke (y : Nat)
  | guest (g : Nat)
  deriving DecidableEq, Repr

def seamSides (i : Nat) : SideAt × SideAt :=
  if i < 42 then let m := i / 7 * 8 + i % 7; (.motif m 1, .motif (m + 1) 3)
  else if i < 82 then let m := i - 42; (.motif m 0, .motif (m + 8) 2)
  else if i < 88 then (.yoke (i - 82), .motif (8 * (i - 82)) 3)
  else if i = 88 then (.motif 23 1, .guest 0)
  else (.motif 31 1, .guest 1)

/-- The address of a side's SM_SEAMd or SM_YSEAMy. -/
def SideAt.addr : SideAt → Option Nat
  | .motif m d => some (mAddr m (0xD000 + 4 * d))
  | .yoke y => some (0x90000 + 4 * y)
  | .guest _ => none

def seamAddrs (i : Nat) : List Nat := (seamSides i).1.addr.toList ++ (seamSides i).2.addr.toList

/-- The mesh ID of a side. -/
def SideAt.mesh : SideAt → Nat
  | .motif m _ => m
  | .yoke _ => 48
  | .guest g => 56 + g

/-- The index of a motif's seam in a direction: 0 north, 1 east, 2 south, 3 west; none where it is unconnected. -/
def seamOf (m d : Nat) : Option Nat := (List.range 90).find? fun i => (seamSides i).1 = .motif m d || (seamSides i).2 = .motif m d

/-- A field of a seam's registers, as its first side shows it. -/
def State.seamFld (s : State) (i hi lo : Nat) : Nat :=
  match seamAddrs i with
  | a :: _ => s.fld ⟨a, hi, lo⟩
  | [] => 0

def State.setSeamFld (s : State) (i hi lo v : Nat) : State := (seamAddrs i).foldl (fun s a => s.setFld ⟨a, hi, lo⟩ v) s

/-- STATE of a seam: 0 DOWN, 1 TRAINING, 2 HANDSHAKE, 3 ACTIVE, 4 DEGRADED, 5 RETRAIN, 6 ISOLATED. -/
def State.seamState (s : State) (i : Nat) : Nat := s.seamFld i 31 29
def State.setSeamState (s : State) (i v : Nat) : State := s.setSeamFld i 31 29 v

def State.seam (s : State) (i : Nat) : Seam := Sparse.get Seam.init s.seams i
def State.setSeam (s : State) (i : Nat) (x : Seam) : State := { s with seams := Sparse.set Seam.init s.seams i x }

/-- Count for a seam at each motif that has a side of it. -/
def State.countSeam (s : State) (i : Nat) (c : Nat → Nat → Cnt) (n : Nat) : State :=
  [(seamSides i).1, (seamSides i).2].foldl (fun s x => match x with
    | .motif m d => s.bump (c m d) n
    | _ => s) s

/-- The first candidate of R388 that lies within the common mask: modules and mask; none for an empty mask.
(DESIGN CHOICE: log entry 92) -/
def chooseWidth (c : Nat) : Option (Nat × Nat) :=
  ([(8, 0xFF), (4, 0x0F), (4, 0xF0), (2, 0x03), (2, 0x0C), (2, 0x30), (2, 0xC0)] ++ (List.range 8).map fun k => (1, 2 ^ k)).find?
    fun x => x.2 &&& c = x.2

/-- The common mask of a seam's two accepted masks. -/
def Seam.common (x : Seam) : Nat := x.a.adv.getD 0 &&& x.b.adv.getD 0

/-- The motif behind a seam (R392); none for a guest's. -/
def behind (i : Nat) : Option Nat :=
  match (seamSides i).1, (seamSides i).2 with
  | .yoke _, .motif m _ => some m
  | .motif a 1, .motif b _ => if b = a + 1 then some b else none
  | .motif a 0, .motif b _ =>
    let near := fun (m : Nat) => min (m / 8) (5 - m / 8)
    some (if near b < near a then a else b)
  | _, _ => none

/-! ### Routes and darning (R30, R31, R380, R393) -/

/-- The keys of the present set of isolated seams and dropped positions, with positions about to be dropped (R499). -/
def State.routeKeys (s : State) (dropping : List Nat) : Nat × Nat :=
  (maskOf ((List.range 90).filter fun i => s.seamState i = 6),
    maskOf (motifIds.filter fun m => s.pos m = 5 || dropping.contains m))

/-- The route table of the Pattern in force with those keys. -/
def State.routeTable (s : State) (keys : Nat × Nat) : Option Nat :=
  (List.range (s.pat 2 0 2 % 2048)).find? fun t =>
    s.pat 2 (8 + 13088 * t) 16 = keys.1 && s.pat 2 (8 + 13088 * t + 16) 8 = keys.2

/-- ROUTE_SET with the table of the new set for a Row, or ROUTE_NO_ALTERNATE and a fatal node (R380, R546). -/
def State.reroute (s : State) (row : Nat) (dropping : List Nat) : State :=
  match s.routeTable (s.routeKeys dropping) with
  | some t => s.issueAll row (.route t)
  | none => (((s.setFld F.SM_STICKY_NO_ALTERNATE 1).raise Ev.ROUTE_NO_ALTERNATE {}).nodeFatal 4 0 0)

/-- Mesh hops between two positions (R30). -/
def hops (a b : Nat) : Nat :=
  let d := fun (x y : Nat) => max x y - min x y
  d (a % 8) (b % 8) + d (a / 8) (b / 8)

/-- The spare that a darn takes: the nearest that no earlier darn has taken, of equal ones the lower motif ID (R30). -/
def State.nearestSpare (s : State) (m : Nat) : Option Nat :=
  (motifIds.filter fun x => s.pos x = 2 && !s.posPending x).foldl (fun best x => match best with
    | none => some x
    | some b => if hops x m < hops b m then some x else some b) none

/-- A motif that the recovery sequencer holds as unreachable (R330, R543). -/
def State.unreachable (s : State) (m : Nat) : Bool :=
  s.recovery.running.any fun d => d.kind = 1 && d.id = m && d.cause = 4

/-- The state a failed position takes (R30): MEM_ONLY where it is an edge motif that can be reached and whose memory port works. -/
def State.failedState (s : State) (m : Nat) : Nat :=
  match stackOf m with
  | some k => if s.fld (F.HB_STATUS_STATE k) = 4 || s.unreachable m then 5 else 3
  | none => 5

/-- Darn a position, or let it leave compute where no spare remains (R30, R31, R393). (DESIGN CHOICE: log entry 73) -/
def State.darn (s : State) (m : Nat) : State :=
  let code := s.failedState m
  let spare := s.nearestSpare m
  let s := { s with recovery := { s.recovery with
    darns := (s.recovery.darns.filter fun (x : Nat × Nat) => x.1 ≠ m && some x.1 ≠ spare) ++ (m, code) :: (spare.map fun x => (x, 1)).toList } }
  let row := s.namedRow
  let s := s.issueAll row (.pos m code)
  let s := match spare with
    | some x => s.issueAll row (.pos x 1)
    | none => s
  let s := (s.qe.queues.filter fun (q : Nat × Queue) => (s.boundNext q.1).1.testBit m).foldl (fun (s : State) (q : Nat × Queue) =>
    let (mask, cls) := s.boundNext q.1
    s.issueAll row (.bind q.1 ((mask - 2 ^ m) ||| ((spare.map fun x => 2 ^ x).getD 0)) cls)) s
  s.reroute row (if code = 5 then [m] else [])

/-- A guest leaves the mesh (R392): what it owned as a caching agent is lost (R282). -/
def State.loseGuest (s : State) (g : Nat) : State :=
  let s := if s.fld (F.SM_GUEST_ROLES g) / 2 % 2 = 1 then s.loseCache (56 + g) else s
  s.setFld (F.SM_GUEST_STATE g) 5

/-- A seam becomes ISOLATED (R392). (DESIGN CHOICE: log entry 92) -/
def State.isolateSeam (s : State) (i : Nat) : State :=
  let s := ((s.setSeamState i 6).setSeamFld i 27 24 0).setSeamFld i 23 16 0
  let s := s.setSeam i { s.seam i with chosen := none, trial := none }
  let s := (s.setFld F.SM_STICKY_ISOLATED 1).raise Ev.SEAM_ISOLATED { d1 := i }
  let s := if s.recovering 3 i then s.endRecovery else s
  match behind i with
  | none => (s.loseGuest (i - 88)).reroute s.namedRow []
  | some m => if s.pos m = 1 || s.pos m = 4 then s.darn m else s.reroute s.namedRow []

/-- A seam's mainband opens at a width and mask (R387 to R389). (DESIGN CHOICE: log entry 92) -/
def State.openSeam (s : State) (i w mask : Nat) : State :=
  let x := s.seam i
  let s := s.setSeam i { x with
    a := { x.a with prior := some mask }, b := { x.b with prior := some mask }, chosen := none, trial := none
    record := if w = 8 then x.record else some mask }
  let s := (((s.setSeamFld i 27 24 w).setSeamFld i 23 16 mask).setSeamFld i 11 9 5).setSeamState i (if w = 8 then 3 else 4)
  let s := if w = 8 then s else (s.setFld F.SM_STICKY_DEGRADED 1).raise Ev.SEAM_DEGRADED { d1 := i }
  if s.recovering 3 i then s.endRecovery else s

/-- The next module of the narrowest-width trial from `k` on, or isolation (R389). -/
def State.trySingle (s : State) (i k : Nat) : State :=
  let x := s.seam i
  match (List.range 8).find? fun j => k ≤ j && x.common.testBit j with
  | some j => (s.setSeamState i 2).setSeam i { x with trial := some j, chosen := none, since := s.now }
  | none => s.isolateSeam i

/-- A mismatch of R389: a retrain, or after the third one the narrowest-width trial. -/
def State.mismatch (s : State) (i : Nat) : State :=
  let n := s.seamFld i 15 14
  let x := s.seam i
  match x.trial with
  | some j => s.trySingle i (j + 1)
  | none =>
    if n < 3 then
      let s := s.setSeam i { x with a := { x.a with adv := none, set := none }, b := { x.b with adv := none, set := none }, chosen := none }
      (((s.setSeamFld i 15 14 (n + 1)).setSeamState i 1).countSeam i C.SM_CNT_RETRAINS 1).raise Ev.SEAM_RETRAIN { d1 := i }
    else s.trySingle i 0

/-- A retrain under R390: training of a new episode. (DESIGN CHOICE: log entry 92) -/
def State.retrain (s : State) (i : Nat) : State :=
  let x := s.seam i
  let s := s.setSeam i { x with
    a := { x.a with adv := none, set := none }, b := { x.b with adv := none, set := none }, chosen := none, trial := none }
  (((s.setSeamFld i 15 14 0).setSeamState i 1).countSeam i C.SM_CNT_RETRAINS 1).raise Ev.SEAM_RETRAIN { d1 := i }

/-! ### The chain's routes (R382, R383) -/

/-- A side of a seam is a DROPPED position, whose router and seams are dark (R27). -/
def State.darkSeam (s : State) (i : Nat) : Bool :=
  let gone := fun (d : Nat) => decide (d < 48) && s.pos d = 5
  gone (seamSides i).1.mesh || gone (seamSides i).2.mesh

/-- A hop's time over a seam, ns; none where fewer than 4 sideband lanes work. -/
def State.hopTime (s : State) (i : Nat) : Option Nat :=
  let n := s.seamFld i 3 0
  if n < 4 then none else some (10 + ceilDiv 400 n)

/-- One round of relaxing chain distances over every seam; a dropped position is dark (R27). -/
def State.relax (s : State) (dist : Sparse Nat) : Sparse Nat :=
  (List.range 90).foldl (fun dist i =>
    match if s.darkSeam i then none else s.hopTime i with
    | none => dist
    | some t =>
      let a := (seamSides i).1.mesh
      let b := (seamSides i).2.mesh
      let da := Sparse.get 0 dist a
      let db := Sparse.get 0 dist b
      let dist := if 0 < da && (db = 0 || da + t < db) then Sparse.set 0 dist b (da + t) else dist
      if 0 < db && (da = 0 || db + t < da) then Sparse.set 0 dist a (db + t) else dist) dist

/-- Chain distance from the yoke plus 1 ns, by mesh ID; 0 where there is no path. -/
def State.chainDist (s : State) : Sparse Nat := (List.range 51).foldl (fun d _ => s.relax d) [(48, 1)]

/-- The chain is routed anew after a change of a seam's sideband; a die that cannot be reached within 1.0 µs has the
seams that join it isolated (R383). -/
def State.chainReroute (s : State) (i : Nat) : State :=
  let s := s.raise Ev.CHAIN_REROUTE { d1 := i }
  let dist := s.chainDist
  let lost := (motifIds.filter fun m => s.pos m ≠ 0 && s.pos m ≠ 5).filter fun m =>
    Sparse.get 0 dist m = 0 || 1001 < Sparse.get 0 dist m
  let guests := ([0, 1] : List Nat).filter fun g =>
    s.fld (F.SM_GUEST_STATE g) = 3 && (Sparse.get 0 dist (56 + g) = 0 || 1001 < Sparse.get 0 dist (56 + g))
  let s := lost.foldl (fun s m => ((List.range 4).filterMap (seamOf m)).foldl (fun s j =>
    if s.seamState j = 6 || s.seamState j = 0 then s else s.isolateSeam j) s) s
  guests.foldl (fun s g => if s.seamState (88 + g) = 6 then s else s.isolateSeam (88 + g)) s

end Sys2Proof.Machine
end

