-- ==== Sys2Proof/Machine/EdgeOps.lean ====
section
/-!
DEFINITION. EdgeOps.lean: what takes effect at a Row edge: changes of the data plane's structure, and positions that
go dark (R27, R34, R36, R393).
-/

namespace Sys2Proof.Machine

/-- The seams of a dropped position go dark, and the chain is routed around it (R27, R383). -/
def State.darken (s : State) (m : Nat) : State :=
  let is := ((List.range 4).filterMap (seamOf m)).filter fun i => s.seamState i ≠ 6
  let s := is.foldl (fun s i => ((((s.setSeamState i 0).setSeamFld i 27 24 0).setSeamFld i 23 16 0).setSeamFld i 3 0 0)) s
  match is with
  | i :: _ => s.chainReroute i
  | [] => s

/-- A position takes a state at an edge. One that leaves ENABLED or RECOVERING goes dark; a dropped position takes its seams, and
at the edge its stack's memory port, with it (R27, R282, R336). -/
def State.movePos (s : State) (m k : Nat) : State :=
  let was := s.pos m
  let s := if (was = 1 || was = 4) && k ≠ 1 && k ≠ 4 then (s.loseMotif m).drainCache m else s
  let s := s.setPos m k
  let s := if k = 5 && was ≠ 5 then State.invalsDone 16 (s.darken m) else s
  match stackOf m with
  | some st => if k = 5 && s.fld (F.HB_STATUS_STATE st) ≠ 3 && s.fld (F.HB_STATUS_STATE st) ≠ 4 then s.fenceStack st else s
  | none => s

/-- A change takes effect on a die: in its own table, and on the yoke in the memory's map, the queue engine's binding or the
position (R34, R36, R393). (DESIGN CHOICE: log entry 12) -/
def State.applyChange (s : State) (d : Nat) (c : Change) : State :=
  let s := s.onTable d (·.apply c)
  match c with
  | .route t => { s with routes := Sparse.set 0 s.routes d t }
  | .map salt rs => if d = 48 then { s with salt := salt, coherent := rs } else s
  | .bind q m k => if d = 48 then s.onQueue q fun x => { x with mask := BitVec.ofNat 48 m, cls := k } else s
  | .pos m k => if d = 48 then s.movePos m k else s

/-- At a die's edge, the changes it holds for the Row are applied, in the order of their arrival (R36).
(DESIGN CHOICE: log entry 12) -/
def State.applyChanges (s : State) (d row : Nat) : State :=
  let (now, rest) := s.rowYoke.changes.partition fun x => x.1 = d && x.2.1 ≤ row
  let s := { s with rowYoke := { s.rowYoke with changes := rest, issued := s.rowYoke.issued.filter fun x => !now.contains x } }
  now.foldl (fun s x => s.applyChange d x.2.2) s

/-- A late report: the changes of that Row go out again with a later Row (R36), and a BIND_SQ waits for it. -/
def State.reissue (s : State) (d row : Nat) : State :=
  let (again, rest) := s.rowYoke.issued.partition fun x => x.1 = d && x.2.1 = row
  let s := { s with rowYoke := { s.rowYoke with issued := rest } }
  let row' := s.namedRow
  again.foldl (fun s x =>
    let s := s.issue' d row' x.2.2
    match x.2.2 with
    | .bind _ _ _ => s.onQueue 0 fun q => { q with cmds := q.cmds.map fun c =>
        if c.run = (CmdRun.binding row) then { c with run := CmdRun.binding row' } else c }
    | _ => s) s

end Sys2Proof.Machine
end

