-- ==== Sys2Proof/Machine/FabricOps.lean ====
section
/-!
DEFINITION. FabricOps.lean: the fabric transport, remote operations, lots and hall time (13_fabric_and_hall.md).
-/

namespace Sys2Proof.Machine

/-! ### Frames (R437, R438) -/

/-- SEQ values wrap at 2^24. -/
def seqSub (a b : Nat) : Nat := (a + 2 ^ 24 - b % 2 ^ 24) % 2 ^ 24

abbrev Fr.READ : Nat := 1
abbrev Fr.READ_RSP : Nat := 2
abbrev Fr.WRITE : Nat := 3
abbrev Fr.WRITE_RSP : Nat := 4
abbrev Fr.ATOMIC : Nat := 5
abbrev Fr.ATOMIC_RSP : Nat := 6
abbrev Fr.ACK : Nat := 7
abbrev Fr.NAK : Nat := 8

/-- A response, ACK or NAK frame (R437). -/
def isRsp (type : Nat) : Bool := type ≠ Fr.READ && type ≠ Fr.WRITE && type ≠ Fr.ATOMIC

/-- The bytes of a poison mask for a payload of `len` bytes. -/
def maskLen (len : Nat) : Nat := ceilDiv len 64

/-- The 32-byte header with its CHECK (R438). -/
def headerOf (own node lot ackSeq : Nat) (retx : Bool) (k : Kept) : Nat :=
  let h := packBits [(0, 4, 1), (4, 4, k.type), (8, 1, flag k.syn), (9, 1, flag retx), (10, 1, flag k.mask.isSome), (16, 16, lot),
    (32, 16, node), (48, 16, own), (64, 24, k.seq), (96, 24, ackSeq), (128, 16, k.tag), (144, 13, k.len), (160, 48, k.addr),
    (208, 8, k.status), (216, 8, k.aop)]
  let mask := match k.mask with
    | some m => toBytes (maskLen k.payload.length) m
    | none => []
  h + packBits [(224, 32, crc32c (toBytes 32 h ++ k.payload ++ mask))]

/-- The 802.1Q tag of a frame, 0 for none (R437). -/
def State.vlanTag (s : State) (type : Nat) : Nat :=
  if s.fld F.FB_VLAN_TAG_EN = 1 then
    packBits [(0, 12, s.fld F.FB_VLAN_VID), (13, 3, if isRsp type then s.fld F.FB_VLAN_PCP_RSP else s.fld F.FB_VLAN_PCP_REQ),
      (16, 16, 0x8100)]
  else 0

/-- A port is up. -/
def State.portUp (s : State) (p : Nat) : Bool := s.fld (F.FB_PORT_STATE p) = 2

/-- The first port that is up from `p` on, ascending and wrapping (R443). -/
def State.railFrom (s : State) (p : Nat) : Option Nat := ((List.range 4).map fun i => (p + i) % 4).find? s.portUp

def flowKey (node lot : Nat) : Nat := node * 65536 + lot

def State.txFlow (s : State) (k : Nat) : Option TxFlow := Sparse.get none s.fabric.tx k
def State.rxFlow (s : State) (k : Nat) : Option RxFlow := Sparse.get none s.fabric.rx k

/-- Show FB_FLOWS.ACTIVE. (DESIGN CHOICE: log entry 81) -/
def State.showFlows (s : State) : State := s.setFld F.FB_FLOWS_ACTIVE (s.fabric.tx.length + s.fabric.rx.length)

/-- (DESIGN CHOICE: log entry 81) -/
def State.setTxFlow (s : State) (k : Nat) (f : Option TxFlow) : State :=
  { s with fabric := { s.fabric with tx := Sparse.set none s.fabric.tx k f } }.showFlows

def State.setRxFlow (s : State) (k : Nat) (f : Option RxFlow) : State :=
  { s with fabric := { s.fabric with rx := Sparse.set none s.fabric.rx k f } }.showFlows

/-- A free value where the header has no SEQ to carry. (DEDUCED: log entry 82) -/
def State.ackSeq (s : State) (key : Nat) : Nat × State :=
  match s.rxFlow key with
  | some r => (r.expect, s)
  | none =>
    let (n, s) := s.takeFree
    ((Config.freeWord n).toNat % 2 ^ 24, s)

/-- A frame goes out on a port; without a port that is up it stays with its flow. What it carries in ACK_SEQ acknowledges the
reverse flow (R442). -/
def State.emit (s : State) (node lot rail : Nat) (retx : Bool) (k : Kept) : State :=
  match s.railFrom rail with
  | none => s
  | some p =>
    let key := flowKey node lot
    let (a, s) := s.ackSeq key
    let h := headerOf (s.fld F.FB_NODE_NODE) node lot a retx k
    let s := s.send { kind := .fabric, dst := node, args := [p, s.vlanTag k.type, h, k.mask.getD 0, maskLen k.payload.length],
                      bytes := k.payload }
    let s := match s.rxFlow key with
      | some r => s.setRxFlow key (some { r with owed := none })
      | none => s
    s.bump (C.FB_PCNT_TX_FRAMES p) 1

/-- An ACK or NAK frame, outside the flow's SEQ (R442). (DEDUCED: log entry 82) -/
def State.sendAck (s : State) (node lot type : Nat) : State :=
  let k : Kept := { type := type, syn := false, seq := 0, tag := 0, len := 0, addr := 0, status := 0, aop := 0, payload := [],
                    mask := none, resends := 0, at' := s.now }
  s.emit node lot ((node ^^^ lot) % 4) false k

/-- Room for `n` more frames on a flow (R440, R443). (DESIGN CHOICE: log entry 83) -/
def State.flowRoom (s : State) (key n : Nat) : Bool :=
  match s.txFlow key with
  | some f => f.kept.length + n ≤ 256
  | none => s.fabric.tx.length + s.fabric.rx.length < 16384

/-- Send a frame on its flow (R440 to R443). -/
def State.sendFrame (s : State) (node lot : Nat) (k : Kept) : State :=
  let key := flowKey node lot
  let (f, s) : TxFlow × State := match s.txFlow key with
    | some f => (f, s)
    | none =>
      let (n, s) := s.takeFree
      ({ next := (Config.freeWord n).toNat % 2 ^ 24, kept := [], used := 0, rail := (node ^^^ lot) % 4 }, s)
  let syn := (s.txFlow key).isNone || f.used + 100000 ≤ s.now
  let k := { k with seq := f.next, syn := syn, resends := 0, at' := s.now }
  let s := s.setTxFlow key (some { f with next := (f.next + 1) % 2 ^ 24, kept := f.kept ++ [k], used := s.now })
  s.emit node lot f.rail false k

/-- Resend a flow's frames from a place on; `counted` where it is a timeout's resend. (DEDUCED: log entry 82) -/
def State.resend (s : State) (node lot : Nat) (f : TxFlow) (drop : Nat) (counted : Bool) : State :=
  let again := (f.kept.drop drop).map fun k => { k with resends := k.resends + flag counted, at' := s.now }
  let s := s.setTxFlow (flowKey node lot) (some { f with kept := f.kept.take drop ++ again, used := s.now })
  let s := again.foldl (fun s k => s.emit node lot f.rail true k) s
  s.bump C.FB_CNT_RESENDS again.length

/-! ### Requests of this node (R445 to R449) -/

/-- The ACTIVE entry bound to an ASID (R453). -/
def State.lotOf (s : State) (asid : Nat) : Option Nat :=
  ((List.range 64).find? fun k => 1 ≤ k && s.fld (F.FB_LOT_STATE k) = 2 && s.fld (F.FB_LOT_ASID k) = asid).map fun k =>
    s.fld (F.FB_LOT_LOT k)

/-- The target of a request. -/
def reqAddr : MemReq → Nat
  | .read pa _ => pa.toNat
  | .write pa _ _ => pa.toNat
  | .atomic pa _ _ _ => pa.toNat

/-- A frame without its place in a flow. (DESIGN CHOICE: log entry 80) -/
def plainFrame (type addr len : Nat) : Kept :=
  { type := type, syn := false, seq := 0, tag := 0, len := len, addr := addr % 2 ^ 48, status := 0, aop := 0, payload := [],
    mask := none, resends := 0, at' := 0 }

/-- A write's frames (R446): a partial line at either end travels alone, the full lines between in one frame.
(DESIGN CHOICE: log entry 80) -/
def writeFrames (pa : Nat) (bs : List Byte) (ps : List Nat) : List Kept :=
  let n := bs.length
  let head := min n ((128 - pa % 128) % 128)
  let full := (n - head) / 128 * 128
  let cuts := [(0, head), (head, full), (head + full, n - head - full)].filter fun (c : Nat × Nat) => 0 < c.2
  cuts.map fun (o, len) =>
    let here := ps.filterMap fun p =>
      let b := (pa / 8 + p) * 8
      if pa + o < b + 8 && b < pa + o + len then some ((b + 7 - (pa + o)) / 8) else none
    { plainFrame Fr.WRITE (pa + o) len with
      payload := (bs.drop o).take len, mask := if here.isEmpty then none else some (maskOf here) }

/-- The frames that carry a request. (DESIGN CHOICE: log entry 80) -/
def reqFrames : MemReq → List Kept
  | .read pa len => [plainFrame Fr.READ pa.toNat len.toNat]
  | .write pa bs ps => writeFrames pa.toNat bs ps
  | .atomic pa fn wide ops =>
    [{ plainFrame Fr.ATOMIC pa.toNat (16 * ops.length) with
       aop := aopOf fn + 128 * flag wide, payload := ops.flatMap fun x => toBytes 8 x.1.toNat ++ toBytes 8 x.2.toNat }]

/-- Lines in a merged frame, 0 where it was not merged. (DESIGN CHOICE: log entry 80) -/
def mergedLines (k : Kept) : Nat :=
  let n := (linesOf k.addr k.len).length
  if k.type = Fr.ATOMIC || n < 2 then 0 else n

/-- The refused writes of an entry's agents go out again, or are dropped (R364, R448). (DEDUCED: log entry 78) -/
def State.refusedAgain (s : State) (e : CollEntry) (again : Bool) : State :=
  let (now, rest) := s.tu.refused.partition fun x =>
    e.agents.contains (askerAgent x.1) && x.1 / 65536 % 4096 = e.first.asid && x.2.1 = e.first.page
  { s with tu := { s.tu with refused := rest, wants := s.tu.wants ++ (if again then now else []) } }

/-- Whether a request writes. -/
def isWrite : MemReq → Bool
  | .write _ _ _ => true
  | _ => false

/-- The unit that owns a write stalls on its refusal. (DEDUCED: log entry 78) -/
def State.stallAgent (s : State) (a : Agent) : State :=
  match a.engine with
  | 0 =>
    let x := s.array a.mesh
    (s.setArray a.mesh { x with drain := x.drain.map fun j => { j with stalled := true } }).showArray a.mesh
  | 1 => s.putVe a.mesh ((s.vec a.mesh).run.map fun j => { j with stalled := true })
  | 2 => match s.group a.mesh a.id with
    | some g => s.putGroup a.mesh a.id (some { g with stalled := true })
    | none => s
  | 3 => s.onCmd (a.id % 2 ^ 20) (a.id / 2 ^ 20) fun c => { c with stalled := true }
  | _ => { s with sk := { s.sk with ops := s.sk.ops.map fun o => if o.from'.number = a.id then { o with stalled := true } else o } }

/-- The tag and context of a stalled unit's record (R367). -/
def State.agentTag (s : State) (a : Agent) : Nat × Nat :=
  match a.engine with
  | 0 => match (s.array a.mesh).drain with
    | some j => (dw j.desc 60 31 0, j.desc)
    | none => (0, 0)
  | 1 => match (s.vec a.mesh).run with
    | some j => (dw j.desc 60 31 0, j.desc % 2 ^ 512)
    | none => (0, 0)
  | 2 => match s.group a.mesh a.id, (s.ndl a.mesh).active with
    | some g, some l => (dw l.desc 60 31 0, packBits [(0, 64, g.pc), (96, 32, g.block), (128, 8, g.index), (136, 3, a.id / 16), (140, 4, a.id % 16)])
    | _, _ => (0, 0)
  | 3 => match s.agentCmd a.id with
    | some (q, c) => (c.tag, packBits [(0, 20, q), (32, 24, c.idx), (64, 8, c.opc)])
    | none => (0, 0)
  | _ => match s.sk.ops.find? fun o => o.from'.number = a.id with
    | some o => (dw o.desc 60 31 0, o.desc)
    | none => (0, 0)

/-- The asker is a node core, which waits for its writes too. -/
def isHart (ask : Nat) : Bool := ask % 64 = 48 && 8 ≤ ask % 65536 / 64

/-- An access ends with REMOTE_REFUSED (R355, R444, R448, R453): a read's or atomic's asker, or a node core, learns it where it
waits; a write's unit stalls and its fault goes to the collector. (DEDUCED: log entry 78) -/
def State.remoteRefused (s : State) (ask page : Nat) (r : MemReq) : State :=
  let due := s.tu.wants.contains (ask, page, r)
  let s := { s with tu := { s.tu with wants := s.tu.wants.erase (ask, page, r) } }
  if !due then s
  else if isWrite r && !isHart ask then
    let a := askerAgent ask
    let (tag, ctx) := s.agentTag a
    let s := { s with tu := { s.tu with refused := s.tu.refused ++ [(ask, page, r)] } }
    (s.stallAgent a).sendFault { agent := a, asid := ask / 65536 % 4096, page := page, cause := 0x15, level := 0, access := 2,
                                 sub := 0, tag := tag, pte := 0, pa := reqAddr r, time := s.now, context := ctx }
  else { s with tu := { s.tu with landed := s.tu.landed ++ [(ask, r, .refused)] } }

/-- An access is performed (R448). -/
def State.remoteDone (s : State) (ask page : Nat) (r : MemReq) (bs : List Byte) (ps : List Nat) : State :=
  let due := s.tu.wants.contains (ask, page, r)
  let s := { s with tu := { s.tu with wants := s.tu.wants.erase (ask, page, r) } }
  if !due then s
  else if isWrite r then
    if isHart ask then { s with tu := { s.tu with landed := s.tu.landed ++ [(ask, r, .done)] } } else s
  else { s with tu := { s.tu with landed := s.tu.landed ++ [(ask, r, .data bs ps)] } }

/-- Requests in flight for one access. -/
def State.flights (s : State) (ask page : Nat) (r : MemReq) : List Nat :=
  (s.fabric.out.filterMap fun x => match x.2 with
    | some o => if o.ask = ask && o.page = page && o.req = r then some o.uid else none
    | none => none).eraseDups

/-- Put a request's frames on the wire, each with the lowest unused TAG. (DESIGN CHOICE: log entry 81) -/
def State.launchFrames (ask page : Nat) (r : MemReq) (node lot uid : Nat) : List Kept → State → State
  | [], s => s
  | k :: ks, s =>
    let tag := ((List.range 4096).find? fun t => (Sparse.get none s.fabric.out t).isNone).getD 0
    let o : Remote := { ask := ask, page := page, req := r, uid := uid, node := node, lot := lot, bad := false }
    let s := { s with fabric := { s.fabric with out := Sparse.set none s.fabric.out tag (some o) } }
    let s := (s.sendFrame node lot { k with tag := tag }).bump C.FB_CNT_REQUESTS 1
    State.launchFrames ask page r node lot uid ks (s.bump C.FB_CNT_MERGED_LINES (mergedLines k))

/-- A response for an outstanding request (R448); the access ends with the last of its frames. -/
def State.remoteAnswer (s : State) (tag : Nat) (o : Remote) (refused : Bool) (bs : List Byte) (ps : List Nat) : State :=
  let s := { s with fabric := { s.fabric with out := Sparse.set none s.fabric.out tag none } }
  let s := if refused then { s with fabric := { s.fabric with
      out := s.fabric.out.map fun x => (x.1, x.2.map fun y => if y.uid = o.uid then { y with bad := true } else y) } } else s
  if s.fabric.out.any fun x => (x.2.map (·.uid)) = some o.uid then s
  else if refused || o.bad then s.remoteRefused o.ask o.page o.req
  else s.remoteDone o.ask o.page o.req bs ps

/-- A flow is freed, and the accesses on it fault where `fail` (R444, R452). -/
def State.freeFlow (s : State) (node lot : Nat) (fail : Bool) : State :=
  let key := flowKey node lot
  let s := (s.setTxFlow key none).setRxFlow key none
  if fail then
    s.fabric.out.foldl (fun (s : State) (x : Nat × Option Remote) =>
      match Sparse.get none s.fabric.out x.1 with
      | some o => if o.node = node && o.lot = lot then s.remoteAnswer x.1 o true [] [] else s
      | none => s) s
  else s

/-- Every flow of a lot is freed. -/
def State.freeLot (s : State) (lot : Nat) (fail : Bool) : State :=
  let nodes := ((s.fabric.tx.map (·.1)) ++ (s.fabric.rx.map (·.1)) ++
    (s.fabric.out.filterMap fun x => x.2.map fun o => flowKey o.node o.lot)).eraseDups.filter fun k => k % 65536 = lot
  nodes.foldl (fun s k => s.freeFlow (k / 65536) lot fail) s

/-! ### Serving another node (R447, R450, R370, R371) -/

/-- What a window gives an access (R370): the address it reaches. (DESIGN CHOICE: log entry 85) -/
def State.window (s : State) (src pa : Nat) (write : Bool) : Option Nat :=
  let w := pa / 2 ^ 40 % 64
  let off := pa % 2 ^ 40
  let mask := s.fld (F.TU_IWIN_MASK w)
  if s.fld (F.TU_IWIN_EN w) = 1 && src &&& mask = s.fld (F.TU_IWIN_NODE w) &&& mask && off < s.fld (F.TU_IWIN_SIZE w) * 65536 then
    let e := ofBytes (s.poolRead (s.fld (F.TU_IWIN_TABLE w) * 4096 + off / 65536 * 8) 8).1
    if e % 2 = 1 && (if write then e / 4 % 2 = 1 else e / 2 % 2 = 1) then some (bits e 47 16 * 65536 + off % 65536) else none
  else none

/-- An address lies in a pseudo-channel in TEST (R371). -/
def State.inTest (s : State) (pa n : Nat) : Bool :=
  decide (plainPa pa < poolTop) && (linesOf (plainPa pa) n).any fun l =>
    let c := s.pcAt (l * 128)
    s.fld (F.HB_STATUS_STATE (c / 64)) = 5 || s.fld ⟨sAddr (c / 64) 0x18, c % 64, c % 64⟩ = 1

/-- Where an inbound access of a lot reaches, none where it is refused (R371, R453). (DESIGN CHOICE: log entry 85) -/
def State.inbound (s : State) (src lot pa n : Nat) (sh : Shape) (read write : Bool) : Option Nat :=
  let fatal := s.qe.dead
  if 0xC00000000000 ≤ pa then
    if fatal && write then none
    else
      let one := fun w => match s.window src pa w, s.window src (pa + n - 1) w with
        | some a, some b => if n = 0 || b + 1 = a + n then some a else none
        | a, none => if n = 0 then a else none
        | _, _ => none
      let t := match (if read then one false else one true), (if write then one true else one false) with
        | some a, some _ => some a
        | _, _ => none
      t.bind fun a => if (s.spanFault a sh).isSome then none else some a
  else if lot = 0 || fatal || s.fld F.MC_STATUS_STATE ≠ 2 || s.inTest pa n || (s.spanFault pa sh).isSome then none
  else some pa

/-- Answer a request (R447, R448, R450). -/
def State.respond (s : State) (src lot type tag : Nat) (ok : Bool) (bs : List Byte) (ps : Option Nat) : State :=
  let k := { plainFrame type 0 (if ok then bs.length else 0) with
    tag := tag, status := flag (!ok), payload := if ok then bs else [], mask := if ok then ps else none }
  let s := if ok then s else (s.bump C.FB_CNT_REFUSED_SENT 1).bump C.TU_CNT_WINDOW_REFUSED 1
  s.sendFrame src lot k

/-- Word numbers of a payload at `pa` that are among the poisoned words `ws`. -/
def payloadMask (pa n : Nat) (ws : List Nat) : Option Nat :=
  let base := plainPa pa
  let here := (List.range (ceilDiv n 8)).filter fun i => ws.contains ((base + 8 * i) / 8) || ws.contains ((base + min n (8 * i + 8) - 1) / 8)
  if here.isEmpty then none else some (maskOf here)

/-! ### Receiving (R439 to R443) -/

/-- A field of a header. -/
def hf (h hi lo : Nat) : Nat := bits h hi lo

/-- Check 3 of R439 for a frame of a type. (DEDUCED: log entry 84) -/
def frameOk (type : Nat) (f : Frame) : Bool :=
  let h := f.header.toNat
  let len := hf h 156 144
  let payload := if type = Fr.READ || 7 ≤ type then 0 else if type = Fr.WRITE_RSP || hf h 215 208 = 1 then 0 else len
  let aop := hf h 222 216
  hf h 3 0 = 1 && hf h 7 4 = type && hf h 15 11 = 0 && hf h 95 88 = 0 && hf h 127 120 = 0 && hf h 159 157 = 0 &&
  len ≤ 4096 && f.payload.length = payload &&
  f.mask.length = (if hf h 10 10 = 1 then maskLen payload else 0) &&
  (if type = 2 || type = 4 || type = 6 then hf h 215 208 ≤ 1 else hf h 215 208 = 0) &&
  (if type = Fr.ATOMIC then
    (fnOfAop aop).isSome && !(aop = 10 && hf h 223 223 = 1) && decide (len % 16 = 0) && decide (0 < len) &&
      decide (hf h 207 160 % (if hf h 223 223 = 1 then 8 else 4) = 0)
   else hf h 223 216 = 0) &&
  hf h 255 224 = crc32c (toBytes 32 (h % 2 ^ 224) ++ f.payload ++ f.mask)

/-- The entry that holds a lot in ACTIVE, STOPPING or QUIET (R439, R452). -/
def State.lotEntry (s : State) (lot : Nat) : Option Nat :=
  (List.range 64).find? fun k => 2 ≤ s.fld (F.FB_LOT_STATE k) && s.fld (F.FB_LOT_LOT k) = lot

/-- A frame's SYN, SEQ and flow decide whether it is delivered. -/
inductive Order where
  | deliver | duplicate | late | drop
  deriving DecidableEq, Repr

def orderOf (r : Option RxFlow) (syn : Bool) (seq : Nat) : Order :=
  match r with
  | none => if syn then .deliver else .drop
  | some r =>
    let back := seqSub r.expect seq
    if syn then (if 1 ≤ back && back ≤ r.delivered then .duplicate else .deliver)
    else if back = 0 then .deliver
    else if back < 2 ^ 23 then .duplicate
    else .late

/-- A frame acknowledges the reverse flow's frames before its ACK_SEQ (R442). -/
def State.acked (s : State) (src lot ack : Nat) : State :=
  let key := flowKey src lot
  match s.txFlow key with
  | none => s
  | some f =>
    match f.kept with
    | [] => s
    | k :: _ =>
      let n := seqSub ack k.seq
      if 1 ≤ n && n ≤ f.kept.length then s.setTxFlow key (some { f with kept := f.kept.drop n, used := s.now }) else s

/-- Delivery: the SEQ expected advances, and an ACK becomes due (R442). -/
def State.delivered' (s : State) (src lot seq : Nat) : State :=
  let key := flowKey src lot
  let was := s.rxFlow key
  let n := match was with
    | some r => if r.expect = seq then min 256 (r.delivered + 1) else 1
    | none => 1
  let owed := match was with
    | some r => (r.owed.getD s.now)
    | none => s.now
  let nakAt := was.bind (·.nakAt)
  let s := s.setRxFlow key (some { expect := (seq + 1) % 2 ^ 24, delivered := n, nakAt := nakAt, owed := some owed, used := s.now })
  match s.lotEntry lot with
  | some k => { s with fabric := { s.fabric with heard := if s.fabric.heard.contains k then s.fabric.heard else k :: s.fabric.heard } }
  | none => s

/-- A frame arrives for one of the rows (R439, R442); `serve` does what its delivery does, or answers none where it has to
wait. (DEDUCED: log entry 82) -/
def State.receive (s : State) (type : Nat) (f : Frame) (serve : State → Option State) : State :=
  let h := f.header.toNat
  let src := hf h 63 48
  let lot := hf h 31 16
  let s0 := s
  let s := s.bump (C.FB_PCNT_RX_FRAMES f.port) 1
  if !f.fcsOk then s.bump (C.FB_PCNT_FCS_ERR f.port) 1
  else if hf h 47 32 ≠ s.fld F.FB_NODE_NODE then (s.bump C.FB_CNT_MISDIRECT 1).setFld F.FB_STICKY_MISDIRECT 1
  else if !frameOk type f then (s.bump C.FB_CNT_BAD_FRAME 1).setFld F.FB_STICKY_BAD_FRAME 1
  else if (s.lotEntry lot).isNone then (s.bump C.FB_CNT_LOT_DROPPED 1).setFld F.FB_STICKY_LOT_DROPPED 1
  else
    let s := s.acked src lot (hf h 119 96)
    let key := flowKey src lot
    match s.rxFlow key with
    | none =>
      if hf h 8 8 = 0 then s
      else if 16384 ≤ s.fabric.tx.length + s.fabric.rx.length then s
      else (serve (s.delivered' src lot (hf h 87 64))).getD s0
    | some r =>
      match orderOf (some r) (hf h 8 8 = 1) (hf h 87 64) with
      | .deliver => (serve (s.delivered' src lot (hf h 87 64))).getD s0
      | .duplicate => s.sendAck src lot Fr.ACK
      | .late =>
        let due := match r.nakAt with
          | some t => decide (t + s.fld F.FB_XPORT_RTO_US * 250 ≤ s.now)
          | none => true
        if due then (s.setRxFlow key (some { r with nakAt := some s.now, used := s.now })).sendAck src lot Fr.NAK else s
      | .drop => s

/-- A response frame is delivered (R448, R450). -/
def State.takeResponse (s : State) (f : Frame) : Option State :=
  let h := f.header.toNat
  let tag := hf h 143 128
  match Sparse.get none s.fabric.out tag with
  | none => some s
  | some o =>
    if o.node = hf h 63 48 && o.lot = hf h 31 16 then
      let pa := reqAddr o.req
      let ws := (List.range (ceilDiv f.payload.length 8)).filter fun i => (ofBytes f.mask).testBit i
      let s := if hf h 215 208 = 1 && !o.bad then s.bump C.TU_CNT_REMOTE_REFUSED 1 else s
      some (s.remoteAnswer tag o (hf h 215 208 = 1) f.payload (ws.map fun i => (pa + 8 * i) / 8))
    else some s

/-! ### Lots (R451 to R454) -/

/-- A lot still has an unacknowledged frame or an outstanding access. -/
def State.lotBusy (s : State) (lot : Nat) : Bool :=
  (s.fabric.tx.any fun x => x.1 % 65536 = lot && (match x.2 with
    | some f => !f.kept.isEmpty
    | none => false)) || s.fabric.out.any fun x => (x.2.map (·.lot)) = some lot

/-- An accepted lot command waits for its edge. -/
def State.setLotCmd (s : State) (c : Option (Bool × Nat × Nat)) : State :=
  { s with fabric := { s.fabric with lotCmd := c } }.setFld F.FB_LOT_STATUS_BUSY (flag c.isSome)

/-- One entry at an edge (R452). (DESIGN CHOICE: log entry 86) -/
def State.lotAdvance (s : State) (k : Nat) : State :=
  let n := Sparse.get 0 s.fabric.since k + 1
  let lot := s.fld (F.FB_LOT_LOT k)
  let count := fun (s : State) =>
    { s with fabric := { s.fabric with since := Sparse.set 0 s.fabric.since k n } }.setFld (F.FB_LOT_SINCE k) (min 63 n)
  match s.fld (F.FB_LOT_STATE k) with
  | 3 =>
    let s := count s
    if s.lotBusy lot then s else s.setFlds [(F.FB_LOT_STATE k, 4), (F.FB_LOT_QUIET k, 0)]
  | 4 =>
    let s := count s
    let q := s.fld (F.FB_LOT_QUIET k)
    s.setFld (F.FB_LOT_QUIET k) (if s.fabric.heard.contains k then 0 else min 2 (q + 1))
  | _ => s

/-- The lots at an edge of the yoke: the quiet counts of the Row that closes, then the command of this Row. Entries the
Pattern gave as PENDING become ACTIVE with the first edge. (DESIGN CHOICE: log entry 86) -/
def State.lotEdge (s : State) : State :=
  let s := (List.range 64).foldl State.lotAdvance s
  let s := { s with fabric := { s.fabric with heard := [] } }
  let named := s.fabric.lotCmd.map (·.2.1)
  let s := (List.range 64).foldl (fun s k =>
    if s.fld (F.FB_LOT_STATE k) = 1 && named ≠ some k then s.setFld (F.FB_LOT_STATE k) 2 else s) s
  match s.fabric.lotCmd with
  | some (add, k, row) =>
    if row ≤ s.rowYoke.row then
      let s := s.setLotCmd none
      if add then s.setFld (F.FB_LOT_STATE k) 2
      else if s.fld (F.FB_LOT_STATE k) = 2 then
        { s with fabric := { s.fabric with since := Sparse.set 0 s.fabric.since k 0 } }.setFlds
          [(F.FB_LOT_STATE k, 3), (F.FB_LOT_SINCE k, 0), (F.FB_LOT_QUIET k, 0)]
      else s.setFld (F.FB_LOT_STATE k) 0
    else s
  | none => s

/-- An entry becomes FREE, with LOT_REMOVED (R452). (DESIGN CHOICE: log entry 87) -/
def State.lotFree (s : State) (k : Nat) (fail : Bool) : State :=
  let lot := s.fld (F.FB_LOT_LOT k)
  let s := (s.freeLot lot fail).setFlds [(F.FB_LOT_STATE k, 0), (F.FB_LOT_SINCE k, 0), (F.FB_LOT_QUIET k, 0)]
  { s with fabric := { s.fabric with since := Sparse.set 0 s.fabric.since k 0 } }.raise Ev.LOT_REMOVED { d1 := lot }

/-! ### Hall time (R455 to R459) -/

/-- The clock's port (R455). -/
def State.clockPort (s : State) : Option Nat :=
  let p := s.fld F.FB_XPORT_PTP_PORT
  if s.portUp p then some p else s.railFrom 0

/-- Show which port is the clock's. (DESIGN CHOICE: log entry 89) -/
def State.showClock (s : State) : State :=
  s.setFlds ((List.range 4).map fun p => (F.FB_PORT_PTP p, flag (s.clockPort = some p)))

/-- Holdover begins (R457, R44). -/
def State.holdover (s : State) : State :=
  if s.fld F.TS_STATUS_LOCKED = 1 then
    let s := { s with hall := { s.hall with good := 0, slew := 0, since := some s.now } }
    let s := s.setFlds [(F.TS_STATUS_LOCKED, 0), (F.TS_STATUS_HOLDOVER, 1), (F.TS_STATUS_HOLD_S, 0), (F.RW_STATUS_HOLDOVER, 1)]
    (s.bump C.TS_CNT_HOLDOVERS 1).raise Ev.PTP_HOLDOVER {}
  else s

/-- The lock test is passed (R456, R44). (DEDUCED: log entry 88) -/
def State.lock (s : State) : State :=
  ({ s with hall := { s.hall with since := none } }).setFlds [(F.TS_STATUS_LOCKED, 1), (F.TS_STATUS_HOLDOVER, 0), (F.TS_STATUS_HOLD_S, 0),
    (F.RW_STATUS_ALIGNED, 1), (F.RW_STATUS_HOLDOVER, 0)]

/-- A saturated 32-bit two's complement offset. -/
def offset32 (x : Int) : Nat := unsigned 32 (clampInt x (-(2 ^ 31)) (2 ^ 31 - 1))

end Sys2Proof.Machine
end

