-- ==== Sys2Proof/Machine/RecoveryOps.lean ====
section
/-!
DEFINITION. RecoveryOps.lean: the recovery sequencer (R543 to R549).
-/

namespace Sys2Proof.Machine

/-- The stack, and the pseudo-channel within it, of a stack domain's ID (R543). -/
def stackUnit (id : Nat) : Nat × Option Nat := if id < 1024 then (id / 64, some (id % 64)) else ((id - 1024) % 16, none)

/-- The unit code names a yoke unit with a recovery in R548. -/
def yokeUnit (id : Nat) : Bool := id ≤ 4 || (16 ≤ id && id < 48)

/-- A domain joins the tail of the pending list; a ninth entry makes the node fatal (R544, R546).
(DEDUCED: log entry 74) -/
def State.pend (s : State) (kind id cause : Nat) : State :=
  if 8 ≤ s.recovery.pending.length then s.nodeFatal 1 kind id
  else s.setRecovery { s.recovery with
    pending := s.recovery.pending ++ [{ kind := kind, id := id, faults := 1, cause := cause, granted := false }] }

/-- A fabric port is disabled until the next cast-on (R543). -/
def State.isolatePort (s : State) (p : Nat) : State :=
  let s := { s with recovery := { s.recovery with portsOff := if s.recovery.portsOff.contains p then s.recovery.portsOff else p :: s.recovery.portsOff } }
  let s := (s.setFld (F.FB_PORT_STATE p) 0).showClock
  let s := s.raise Ev.FABRIC_PORT_ISOLATED { dom := p, kind := 4, d1 := p }
  if s.clockPort.isNone then s.holdover else s

/-- A domain is isolated (R543, R545). -/
def State.isolate (s : State) (d : Domain) : State :=
  match d.kind with
  | 1 => (s.setRecovery { s.recovery with phase := 2, escalated := true }).darn d.id
  | 2 => (s.fenceUnit (stackUnit d.id).1 (stackUnit d.id).2).endRecovery
  | 3 => if s.seamState d.id = 6 then s.endRecovery else s.trySingle d.id 0
  | 4 => (s.isolatePort d.id).endRecovery
  | _ => s.nodeFatal 3 d.kind d.id

/-- A fault joins a pending entry, or the tail of the list (R544). -/
def State.joinPending (s : State) (kind id cause : Nat) : State :=
  if s.recovery.pending.any fun d => d.kind = kind && d.id = id then
    s.setRecovery { s.recovery with
      pending := s.recovery.pending.map fun d => if d.kind = kind && d.id = id then { d with faults := d.faults + 1 } else d }
  else s.pend kind id cause

/-- A fault of a stack whose evacuation is under way: the unit is fenced, and a further unit's map-out joins the list (R545). -/
def State.evacFault (s : State) (u : MapOut) (kind id cause : Nat) : State :=
  let (k, pc) := stackUnit id
  let s := s.fenceUnit k pc
  if u.pc = pc then { s with memMap := { s.memMap with evac := some { u with poisoned := true } } }
  else s.joinPending kind id cause

/-- A motif's position is RECOVERING at once (R547). -/
def State.motifDown (s : State) (m cause : Nat) : State :=
  let s := if s.pos m = 1 then s.setPos m 4 else s
  s.raise Ev.MOTIF_FAULT { dom := m, kind := 1, d1 := cause }

/-- Pseudo-channels of a stack that are faulted: pending or under recovery. -/
def State.faultedPcs (s : State) (k : Nat) : Nat :=
  ((s.recovery.pending ++ s.recovery.running.toList).filter fun d => d.kind = 2 && d.id < 1024 && d.id / 64 = k).length

/-- A fault in a domain other than a motif's (R544 to R546, R549). -/
def State.faultPlain (s : State) (kind id cause : Nat) : State :=
  let running := s.recovering kind id
  if kind = 5 then
    if !yokeUnit id || running then s.nodeFatal 3 kind id
    else if s.recovery.running.isSome then s.nodeFatal 2 kind id
    else s.joinPending kind id cause
  else
    let evac := match s.memMap.evac, s.recovery.running with
      | some u, some d => if kind = 2 && d.kind = 2 && u.stack = (stackUnit id).1 then some u else none
      | _, _ => none
    match evac with
    | some u => s.evacFault u kind id cause
    | none =>
      if s.recovery.parked.any fun d => d.kind = kind && d.id = id then s.fenceUnit (stackUnit id).1 (stackUnit id).2
      else
        match s.recovery.running with
        | some d =>
          if running then
            if s.recovery.escalated then s
            else
              let s := s.raise Ev.RECOVERY_ESCALATED { dom := id, kind := kind, d1 := cause }
              (s.setRecovery { s.recovery with escalated := true }).isolate d
          else s.joinPending kind id cause
        | none => s.joinPending kind id cause

/-- A domain is a pseudo-channel in TEST, which takes no recovery (R560). -/
def State.testDomain (s : State) (kind id : Nat) : Bool :=
  kind = 2 && id < 1024 && (s.fld (F.HB_PC_TEST_TEST (id / 64))).testBit (id % 64)

/-- A fault report reaches the sequencer (R544 to R547): four pseudo-channels of one stack fault the stack (R330); a motif
that cannot be reached faults its stack too; a pseudo-channel in TEST takes no recovery (R560). -/
def State.faultArrive (s : State) (kind id cause : Nat) : State :=
  if s.isFatal || s.testDomain kind id then s
  else if kind = 1 then
    let s := (s.motifDown id cause).faultPlain 1 id cause
    match stackOf id with
    | some k => if cause = 4 then s.faultPlain 2 (1024 + k) 0x15 else s
    | none => s
  else
    let s := s.faultPlain kind id cause
    if kind = 2 && id < 1024 && 4 ≤ s.faultedPcs (id / 64) &&
        !((s.recovery.pending ++ s.recovery.running.toList).any fun d => d.kind = 2 && d.id = 1024 + id / 64) then
      s.faultPlain 2 (1024 + id / 64) 0x13
    else s

/-- A motif's own fault (R71). (DEDUCED: log entry 74) -/
def State.motifFault (s : State) (m cause : Nat) : State := s.faultArrive 1 m cause

/-- A map-out begins, awaits a grant and parks, or the unit is fenced (R332 to R336, R549). (DEDUCED: log entry 94) -/
def State.startStack (s : State) (d : Domain) : State :=
  let (k, pc) := stackUnit d.id
  if d.granted then
    match s.memMap.evac with
    | some u => s.startEvac u
    | none => s.endRecovery
  else if d.cause = 0x15 || s.pos (homeMotif k) = 5 || s.memMap.evac.isSome || s.recovery.parked.isSome then
    (s.fenceUnit k pc).endRecovery
  else
    match s.nextRegion pc.isNone with
    | none => (s.fenceUnit k pc).endRecovery
    | some (base, blocks) =>
      let u := s.newMapOut k pc base blocks
      if base < reservedBase then
        (s.awaitGrant u).endRecovery.setRecovery
          { s.recovery with running := none, phase := 0, escalated := false, parked := some d }
      else s.startEvac u

/-- The flows of the fabric unit are lost (R548, R444). -/
def State.loseFlows (s : State) : State :=
  let keys := (s.fabric.tx.map (·.1) ++ s.fabric.rx.map (·.1)).eraseDups
  keys.foldl (fun s k =>
    let s := (s.freeFlow (k / 65536) (k % 65536) true).bump C.FB_CNT_FLOWS_LOST 1
    (s.setFld F.FB_STICKY_FLOW_LOST 1).raise Ev.FABRIC_FLOW_LOST { d1 := k / 65536, d2 := k % 65536 }) s

/-- The last link of each open stream is checked (R548, R261). (DESIGN CHOICE: log entry 95) -/
def State.checkStreams (s : State) : State :=
  s.sk.streams.foldl (fun (s : State) (x : Nat × Stream) =>
    let st := s.stream x.1
    let n := st.cells.length
    if st.st = .opened && 2 ≤ n then
      match s.followLink x.1 st.gen (st.cells.getD (n - 2) 0) (st.first + n - 2) with
      | (some _, s) => s
      | (none, s) => s.breakStream x.1
    else s) s

/-- Running COPYs complete with HOST_ERROR (R548). -/
def State.failCopies (s : State) : State :=
  s.qe.copies.foldl (fun (s : State) (x : Nat × Nat) =>
    match (s.queue x.1).cmds.find? fun c => c.idx = x.2 with
    | some c => s.complete x.1 c St.HOST_ERROR 0 0
    | none => s) s

/-- Every outstanding entry is aborted (R548, R368). -/
def State.abortAll (s : State) : State :=
  (List.range 256).foldl (fun s i =>
    match Sparse.get none s.tu.entries i with
    | none => s
    | some e =>
      let st := if 0x10 ≤ e.first.cause && e.first.cause ≠ 0x14 then St.ACCESS_FAULT else St.TRANSLATION_FAULT
      e.agents.foldl (fun s a => s.abortAgent st a) ((s.freeEntry i).refusedAgain e false)) s

/-- Hart `h` stops (R548): its private L2 is written back, and its NC_HART_RUN bit is cleared.
(DEDUCED: log entry 94) -/
def State.stopHart (s : State) (h : Nat) : State :=
  let s := (s.agent 48).tags.foldl (fun s x => if (x.2.any fun t => t.cores.getLsbD h) then s.leavePrivate h x.1 else s) s
  s.setFld F.NC_HART_RUN_RUN (s.fld F.NC_HART_RUN_RUN &&& (2 ^ 32 - 1 - 2 ^ h))

/-- The recovery of a yoke unit begins (R548). (DEDUCED: log entry 94) -/
def State.startYoke (s : State) (id : Nat) : State :=
  match id with
  | 0 => { s with qe := { s.qe with pausedTo := s.now + 2000000 } }
  | 1 => { s with sk := { s.sk with heldTo := s.now + 10000000 } }.checkStreams
  | 2 => s.loseFlows
  | 3 => s.failCopies
  | 4 => s.abortAll
  | _ => s.stopHart (id - 16)

/-- The sequencer takes the next pending domain (R544): RECOVERY_START, then its recovery, or its isolation where it has
faulted again. -/
def State.takeDomain (s : State) (d : Domain) : State :=
  let s := s.raise Ev.RECOVERY_START { dom := d.id, kind := d.kind, d1 := d.cause }
  let s := s.setRecovery { s.recovery with
    pending := s.recovery.pending.drop 1, running := some d, phase := 0, escalated := decide (2 ≤ d.faults) }
  if 2 ≤ d.faults && !d.granted then
    (s.raise Ev.RECOVERY_ESCALATED { dom := d.id, kind := d.kind, d1 := d.cause }).isolate d
  else
    match d.kind with
    | 1 => s.sendChain d.id (packBits [(0, 8, 0x40), (8, 8, 0)])
    | 2 => s.startStack d
    | 3 =>
      match (seamSides d.id).1 with
      | .motif m k => s.sendChain m (packBits [(0, 8, 0x40), (8, 8, 2), (16, 8, k)])
      | _ => s.retrain d.id
    | 4 => (s.setFld (F.FB_PORT_STATE d.id) 1).showClock
    | _ => s.startYoke d.id

/-- The last commit of an evacuation ends its stack's recovery. -/
def State.endStack (s : State) : State :=
  match s.recovery.running with
  | some d => if d.kind = 2 then s.endRecovery else s
  | none => s

/-- A recovery whose change of position has taken effect at an edge ends (R547). (DEDUCED: log entry 94) -/
def State.settleRecovery (s : State) : State :=
  match s.recovery.running with
  | some d => if d.kind = 1 && s.recovery.phase = 2 && s.pos d.id ≠ 4 then s.endRecovery else s
  | none => s

end Sys2Proof.Machine
end

