-- ==== Sys2Proof/Machine/PatternOps.lean ====
section
/-!
DEFINITION. PatternOps.lean: the loader's checks of a Pattern image and of the firmware image, and the resolution of
position states (15_patterns_and_profiles.md, R28, R533).
-/

namespace Sys2Proof.Machine

/-- Where slot `k` lies in flash (R489), and its size; the firmware region's size (R531). -/
def slotBase (k : Nat) : Nat := 0x2000000 + k * 0x800000
def slotSize : Nat := 0x800000
def fwSize : Nat := 0x1000000

/-- Image bytes. -/
def imgNat (m : Sparse Byte) (base off n : Nat) : Nat := flashNat m (base + off) n

/-- The image of a slot, numbered from 0. -/
def State.slotImage (s : State) (k : Nat) : Sparse Byte :=
  let base := slotBase k
  let n := imgNat s.flash base 8 4
  s.flash.filterMap fun x => if base ≤ x.1 && x.1 < base + n then some (x.1 - base, x.2) else none

/-- The HOST section: of the Pattern in force, or of the verified one before it is loaded (R520). -/
def State.hostSection (s : State) (off n : Nat) : Nat :=
  match s.pattern.isEmpty, s.mc.cast.slot with
  | true, some (k, _) => sectionNat (s.slotImage k) 0 9 off n
  | _, _ => s.pat 9 off n

/-! ### Stages 1 to 3 (R492 to R495) -/

/-- Stage 1: MAGIC, FMT_MAJOR, CHECK, LENGTH and SIG_OFFSET, within a region of `room` bytes. -/
def headerOk (m : Sparse Byte) (base room magic : Nat) : Bool :=
  let len := imgNat m base 8 4
  let sig := imgNat m base 12 4
  imgNat m base 0 4 = magic && imgNat m base 4 1 = 1 && imgNat m base 252 4 = crc32c (flashBytes m base 252) &&
    4096 ≤ len && len ≤ room && sig % 8 = 0 && sig < len

def patternMagic : Nat := 0x54415056
def firmwareMagic : Nat := 0x57465056

/-- A slot is valid (R491). -/
def State.slotValid (s : State) (k : Nat) : Bool := headerOk s.flash (slotBase k) slotSize patternMagic

/-- The bytes that the signature covers, and the signature. -/
def signedPart (m : Sparse Byte) (base : Nat) : List Byte := flashBytes m base (imgNat m base 12 4)
def signaturePart (m : Sparse Byte) (base : Nat) : List Byte :=
  flashBytes m (base + imgNat m base 12 4) (imgNat m base 8 4 - imgNat m base 12 4)

/-- Stage 2: the signer's key (R493). (DESIGN CHOICE: log entry 23) -/
def State.signatureOk (s : State) (m : Sparse Byte) (base : Nat) (slot0 : Bool) : Bool :=
  let signer := imgNat m base 32 1 % 2
  let key := if signer = 0 then some 1 else if slot0 then none else s.mc.ownerKey.map fun k => 2 + k.toNat
  match key with
  | some k => Config.hssVerify k (signedPart m base) (signaturePart m base)
  | none => false

/-- MIN_SVN of a signer. -/
def State.minSvn (s : State) (signer : Nat) : Nat := if signer = 0 then s.mc.minSvn0 else s.mc.minSvn1

/-- Stage 3: the part's fuses, and R494. -/
def State.partOk (s : State) (m : Sparse Byte) (base : Nat) (slot0 : Bool) : Bool :=
  let f := s.mc.fuses
  imgNat m base 16 1 % 2 = flag f.guests && imgNat m base 17 1 = f.stepping && imgNat m base 18 2 = f.guestCfg &&
    (slot0 || s.minSvn (imgNat m base 32 1 % 2) ≤ imgNat m base 20 4)

/-! ### Stage 4 (R495, R496) -/

/-- A directory entry: TYPE, OPTIONAL, VERSION, OFFSET, LEN, CHECK. -/
structure DirRow where
  type : Nat
  optional : Bool
  version : Nat
  offset : Nat
  len : Nat
  check : Nat
  deriving DecidableEq, Repr

def dirRows (m : Sparse Byte) (base : Nat) : List DirRow :=
  (List.range (min 32 (imgNat m base 6 2))).map fun i =>
    let e := 256 + 16 * i
    { type := imgNat m base e 2 % 32768, optional := decide (imgNat m base e 2 / 32768 = 1), version := imgNat m base (e + 2) 2,
      offset := imgNat m base (e + 4) 4, len := imgNat m base (e + 8) 4, check := imgNat m base (e + 12) 4 }

/-- LEN of a known type (R496). -/
def sectionLen (m : Sparse Byte) (base : Nat) (d : DirRow) : Nat :=
  match d.type with
  | 1 => 48
  | 2 => 8 + 13088 * (imgNat m base d.offset 2 % 2048)
  | 3 => 16
  | 4 => 16
  | 5 => 8
  | 6 => 68
  | 7 => 20
  | 8 => 1544
  | 9 => 32
  | 10 => 608
  | _ => 8

/-- The type at which the directory's checks fail, none where they pass. (DESIGN CHOICE: log entry 101) -/
def dirBad (m : Sparse Byte) (base : Nat) : Option Nat :=
  let ds := dirRows m base
  let n := imgNat m base 6 2
  let sig := imgNat m base 12 4
  let first := fun (p : DirRow → Bool) => (ds.find? p).map (·.type)
  let missing := if n = 0 || 32 < n then some 0
    else ([1, 2, 3, 4, 5, 6, 7, 8, 9].find? fun t => !(ds.any fun d => d.type = t))
  let known := fun (d : DirRow) => decide (1 ≤ d.type ∧ d.type ≤ 11)
  missing.or ((first fun d => 1 < (ds.filter fun e => e.type = d.type).length).or
    ((first fun d => !known d && !d.optional).or
      ((first fun d => d.offset < 256 + 16 * n || sig < d.offset + d.len).or
        ((first fun d => crc32c (flashBytes m (base + d.offset) d.len) ≠ d.check).or
          ((first fun d => known d && d.version ≠ 1).or (first fun d => known d && d.len ≠ sectionLen m base d))))))

/-! ### Position states (R28) -/

/-- The state of position `n` under the fuses, the darning record and the Pattern's request, in falling precedence.
(DESIGN CHOICE: log entry 100) -/
def State.resolved (s : State) (n req : Nat) : Nat :=
  match s.mc.fuses.positions.find? fun x => x.1 = n with
  | some (_, c) => c
  | none => ((s.recovery.darns.find? fun x => x.1 = n).map (·.2)).getD (if req % 2 = 1 then 2 else 1)

/-! ### Stage 5: the route tables (R22, R379, R499) -/

/-- The meshes' dies in the order of the blocks. -/
def blockDies : List Nat := List.range 49 ++ [56, 57]

/-- The seam that port `c` of a die names, and the die behind it (R499, R500). -/
def portSeam (d c : Nat) : Option (Nat × Nat) :=
  if d < 48 then
    let i := match c with
      | 1 => seamOf d 0
      | 2 => seamOf d 1
      | 3 => seamOf d 2
      | 4 => seamOf d 3
      | _ => none
    i.map fun i => (i, if (seamSides i).1.mesh = d then (seamSides i).2.mesh else (seamSides i).1.mesh)
  else if d = 48 then (if 1 ≤ c ∧ c ≤ 6 then some (81 + c, 8 * (c - 1)) else none)
  else if c = 4 then some (d + 32, if d = 56 then 23 else 31)
  else none

/-- The port code of a class in a block for a destination. -/
def portCode (m : Sparse Byte) (block t cls : Nat) : Nat := bits (flashNat m (block + 4 * t) 4) (4 * cls + 3) (4 * cls)

/-- The route of a class from `d` to `t`: the channels it takes, none where it does not arrive. -/
def routeOf (m : Sparse Byte) (table cls t : Nat) : Nat → Nat → Option (List Nat)
  | 0, _ => none
  | k + 1, d =>
    if d = t then some []
    else
      let i := blockDies.idxOf d
      let c := portCode m (table + 32 + 256 * i) t cls
      match portSeam d c with
      | none => none
      | some (_, e) => (routeOf m table cls t k e).map fun cs => (d * 16 + c) :: cs

/-- Dependencies between the channels of a path. -/
def depsOf : List Nat → List (Nat × Nat)
  | a :: b :: cs => (a, b) :: depsOf (b :: cs)
  | _ => []

/-- Strike out channels on which no other depends, `k` times; what is left lies on a cycle or behind one. -/
def strike : Nat → List (Nat × Nat) → List (Nat × Nat)
  | 0, ds => ds
  | k + 1, ds =>
    let ds' := ds.filter fun x => ds.any fun y => y.2 = x.1
    if ds'.length = ds.length then ds else strike k ds'

/-- One table passes with the states of the positions. -/
def routeTableOk (m : Sparse Byte) (table : Nat) (guests : Bool) (state : Nat → Nat) : Bool :=
  let seams := flashNat m table 16
  let poss := flashNat m (table + 16) 8
  let gone := fun (d : Nat) => d < 48 && (state d = 5 || poss.testBit d)
  let absent := fun (d : Nat) => gone d || (56 ≤ d && !guests)
  let present := blockDies.filter fun d => !absent d
  let classes := List.range 7
  let entries := blockDies.all fun d =>
    let block := table + 32 + 256 * blockDies.idxOf d
    (List.range 64).all fun t => classes.all fun c =>
      let p := portCode m block t c
      if gone d || !blockDies.contains t then p = 15
      else if p = 15 then true
      else if p = 0 then d = t
      else match portSeam d p with
        | none => false
        | some (i, e) => !seams.testBit i && !poss.testBit e
  let routes := fun (c : Nat) => present.flatMap fun a => (present.filter (· ≠ a)).map fun b => routeOf m table c b 64 a
  let paths := classes.all fun c => (routes c).all Option.isSome
  let acyclic := classes.all fun c =>
    (strike 1000 ((((routes c).filterMap id).flatMap depsOf).eraseDups)).isEmpty
  entries && paths && acyclic

/-! ### Stage 5: section contents (R51, R257, R497) -/

def isPow2 (n lo hi : Nat) : Bool := lo ≤ n && n ≤ hi && 2 ^ Nat.log2 n = n

/-- A range of stacked memory outside the reserved 8 GiB. -/
def plainRange (a n : Nat) : Bool := a + n ≤ reservedBase

/-- A section of an image as fields: offset in the section and bytes. -/
def secNat (m : Sparse Byte) (base type off n : Nat) : Nat := sectionNat m base type off n

/-- R51 with `n` ENABLED positions. -/
def powerOk (m : Sparse Byte) (base n : Nat) : Bool :=
  let share := fun (c : Nat) => secNat m base 6 (4 + 4 * c) 4
  let cyc := fun c => bits (share c) 10 0
  let en := fun c => bits (share c) 26 16
  let all := List.range 16
  let pat := bits (secNat m base 7 0 4) 12 0
  let non := bits (secNat m base 7 4 4) 11 0
  let ref := bits (secNat m base 7 8 4) 16 0
  let mx := bits (secNat m base 7 12 4) 16 0
  let sum := ((List.range 12).map en).sum
  (all.map cyc).sum ≤ 1024 && (all.map en).sum ≤ 1024 && 8 ≤ cyc 0 && 8 ≤ en 0 && 20000 ≤ ref && ref ≤ 80000 && ref ≤ mx &&
    mx ≤ 100000 && 800 ≤ non && non * 1024000 + n * ref * sum ≤ pat * 1024000

/-- The lot entries with VALID = 1 pass R454 (R502). -/
def lotsOk (m : Sparse Byte) (base : Nat) : Bool :=
  let es := ((List.range 63).map fun i => secNat m base 8 (16 + 8 * i) 4).filter fun e => e / 2 ^ 31 = 1
  let lots := es.map fun e => bits e 15 0
  let asids := es.map fun e => bits e 27 16
  !lots.contains 0 && lots.eraseDups.length = lots.length && asids.eraseDups.length = asids.length

/-- An inbound window (R370, R497). -/
def windowOk (m : Sparse Byte) (base w : Nat) : Bool :=
  let at' := fun o => secNat m base 8 (520 + 16 * w + o) 4
  if at' 0 / 2 ^ 31 = 0 then true
  else
    let size := bits (at' 0) 24 0
    let table := bits (secNat m base 8 (520 + 16 * w + 8) 8) 47 12 * 4096
    1 ≤ size && plainRange table (8 * size)

/-- A guest's range. -/
def guestRangeOk (m : Sparse Byte) (base g r : Nat) : Bool :=
  let lo := secNat m base 10 (304 * g + 48 + 16 * r) 8
  if lo % 2 = 0 then true
  else plainRange (bits lo 47 16 * 65536) (bits (secNat m base 10 (304 * g + 48 + 16 * r + 8) 4) 24 0 * 65536)

/-- The type at which the contents fail, in ascending order of the types; none where they pass.
(DESIGN CHOICE: log entry 101) -/
def State.contentBad (s : State) (m : Sparse Byte) (base : Nat) : Option Nat :=
  let f := secNat m base
  let state := fun n => s.resolved n (f 1 n 1)
  let enabled := (motifIds.filter fun n => state n = 1).length
  let tables := f 2 0 2 % 2048
  let (o, _) := (secPlace m base 2).getD (0, 0)
  let at' := fun t => base + o + 8 + 13088 * t
  let keys := (List.range tables).map fun t => (flashNat m (at' t) 16, flashNat m (at' t + 16) 8)
  let cell := 2 ^ bits (f 4 12 1) 4 0
  let pool := bits (f 4 0 8) 47 0
  let cells := bits (f 4 8 4) 22 0
  let rp := bits (f 6 0 4) 12 0
  let overCap := bits (f 6 0 4) 21 16
  let ok : Nat → Bool := fun t => match t with
    | 1 => (motifIds.all fun n => f 1 n 1 ≤ 1) && enabled ≤ 46
    | 2 => 1 ≤ tables && tables ≤ 1025 && keys.head? = some (0, 0) && keys.eraseDups.length = keys.length &&
        (List.range tables).all fun t => routeTableOk m (at' t) s.mc.fuses.guests state
    | 3 => 1 ≤ f 3 8 1 && f 3 8 1 ≤ 168 && 2 ≤ f 3 9 1
    | 4 => 16 ≤ bits (f 4 12 1) 4 0 && bits (f 4 12 1) 4 0 ≤ 22 && cells ≤ 4194304 && pool % cell = 0 &&
        pool + cells * cell ≤ reservedBase && pool + cells * cell ≤ s.lowestDonor
    | 5 => isPow2 (bits (f 5 0 4) 20 0) 16 1048576 && isPow2 (bits (f 5 4 4) 16 0) 16 65536
    | 6 => 125 ≤ rp && rp ≤ 8000 && 2 ≤ overCap && powerOk m base enabled
    | 7 => 2400 ≤ bits (f 7 0 4) 12 0 && bits (f 7 0 4) 12 0 ≤ 4000 && f 7 16 2 < f 7 18 2 && powerOk m base enabled
    | 8 => ((List.range 4).all fun p => bits (f 8 4 2) (4 * p + 3) (4 * p) ≤ 6) && 4 ≤ f 8 12 1 && lotsOk m base &&
        (List.range 64).all fun w => windowOk m base w
    | 9 => 34 ≤ bits (f 9 4 4) 5 0 && bits (f 9 4 4) 5 0 ≤ 40 && 1 ≤ bits (f 9 4 4) 27 16 && bits (f 9 4 4) 27 16 ≤ 2048
    | 10 => (secPlace m base 10).isNone || (imgNat m base 16 1 % 2 = 1 && ([0, 1] : List Nat).all fun g =>
        bits (f 10 (304 * g + 40) 4) 10 0 + bits (f 10 (304 * g + 40) 4) 27 16 ≤ 2048 &&
          (List.range 16).all fun r => guestRangeOk m base g r)
    | _ => true
  [1, 2, 3, 4, 5, 6, 7, 8, 9, 10].find? fun t => !ok t

/-! ### The whole check, and the firmware's (R495, R533) -/

/-- The stage that fails and its section type; none where the image passes. (DESIGN CHOICE: log entry 101) -/
def State.checkImage (s : State) (m : Sparse Byte) (slot : Nat) : Option (Nat × Nat) :=
  let base := slotBase slot
  if !headerOk m base slotSize patternMagic then some (1, 0)
  else if !s.signatureOk m base (decide (slot = 0)) then some (2, 0)
  else if !s.partOk m base (decide (slot = 0)) then some (3, 0)
  else match dirBad m base with
    | some t => some (4, t)
    | none => (s.contentBad m base).map fun t => (5, t)

/-- The firmware image passes R533. -/
def State.firmwareOk (s : State) (m : Sparse Byte) : Bool :=
  headerOk m 0 fwSize firmwareMagic && Config.hssVerify 0 (signedPart m 0) (signaturePart m 0) && s.mc.fwMinSvn ≤ imgNat m 0 20 4

/-- Record a rejection (R495). (DESIGN CHOICE: log entry 101) -/
def State.reject (s : State) (slot stage type : Nat) : State :=
  s.setFlds [(F.PT_REJECT_VALID, 1), (F.PT_REJECT_SLOT, slot), (F.PT_REJECT_STAGE, stage),
    (F.PT_REJECT_TYPE, if 4 ≤ stage then type else 0)]

/-- PT_SLOTs from the slot's header; 0 for an empty slot. -/
def State.showSlot (s : State) (k : Nat) : State :=
  let base := slotBase k
  let f := imgNat s.flash base
  let a := 0x10200 + 0x40 * k
  if s.slotValid k then
    let d := ofBytes (sha256 (sectionBytes s.flash base 3))
    let s := s.setFlds [(F.PT_SLOT_VALID k, 1), (F.PT_SLOT_SIGNER k, f 32 1 % 2), (F.PT_SLOT_FMT_MINOR k, f 5 1),
      (F.PT_SLOT_FMT_MAJOR k, f 4 1), (F.PT_SLOT_SVN k, f 20 4), (F.PT_SLOT_LENGTH k, f 8 4), (F.PT_SLOT_BUILD_ID k, f 24 8)]
    (List.range 8).foldl (fun s i => s.setReg (a + 0x20 + 4 * i) (bits d (32 * i + 31) (32 * i))) s
  else (List.range 16).foldl (fun s i => s.setReg (a + 4 * i) 0) s

end Sys2Proof.Machine
end

