-- ==== Sys2Proof/Machine/Queues.lean ====
section
/-!
DEFINITION. Queues.lean: the commands of the queue engine (07_queues_and_skeins.md, 12_host_link.md). A command whose
conditions do not hold leaves the state as it is.
-/

namespace Sys2Proof.Machine

/-! ### Doorbells and fetch -/

/-- HOST_DOORBELL (R247, R413, R429, R520). (DESIGN CHOICE: log entry 52) -/
def execHostDoorbell (off : BitVec 26) (size : BitVec 13) (v : BitVec 64) (rid : BitVec 16) (s : State) :
    Host.Outcome State Fault Refusal :=
  if !s.barOn then .next s
  else if !s.ridOk rid.toNat then .next ((s.setFld F.PX_STICKY_REQID_REFUSED 1).refuseHost true true off.toNat)
  else if s.fld F.MC_STATUS_STATE ≠ 2 || s.fld F.PX_STATUS_HOST_WAIT = 1 || size.toNat ≠ 8 || off.toNat % 64 ≠ 0 || bits v.toNat 19 0 ≠ off.toNat / 64 ||
      bits v.toNat 63 60 ≠ 0 then .next (s.bump C.QE_CNT_DB_DROPPED 1)
  else .next (s.doorbell (off.toNat / 64) v.toNat)

/-- NODE_CORE_DOORBELL (R471). (DEDUCED: log entry 99) -/
def execNodeCoreDoorbell (off : BitVec 26) (v : BitVec 64) (s : State) : Host.Outcome State Fault Refusal :=
  let qid := off.toNat / 64
  if s.fld F.NC_DBWIN_EN = 1 && s.fld F.NC_DBWIN_FIRST ≤ qid && qid ≤ s.fld F.NC_DBWIN_LAST && qid ≠ 0 then
    if off.toNat % 64 ≠ 0 || bits v.toNat 19 0 ≠ qid || bits v.toNat 63 60 ≠ 0 then .next (s.bump C.QE_CNT_DB_DROPPED 1)
    else .next (s.doorbell qid v.toNat)
  else .next ((s.bump C.QE_CNT_DB_DROPPED 1).bump C.NC_CNT_DB_REFUSED 1)

/-- COMMAND_FETCH (R248, R249, R320): the command at the head comes in, from the host (`data`) or from module memory. -/
def execCommandFetch (qid : BitVec 20) (data : BitVec 4096) (poisoned : Bool) (s : State) : Host.Outcome State Fault Refusal :=
  let q := s.queue qid.toNat
  if !s.fetching qid.toNat || q.missed.isSome then .next s
  else
    match s.headBytes qid.toNat data.toNat with
    | (none, s) => .next s
    | (some (bytes, ps), s) =>
      let bad := !ps.isEmpty || (poisoned && !q.loc)
      if bad || q.seqOk bytes then .next ((s.consume 48 ps).acceptCmd qid.toNat bytes bad)
      else .next ((s.setQueue qid.toNat { q with missed := some s.now, rereads := 0 }).askFetch qid.toNat)

/-- SEQ_REREAD (R249). -/
def execSeqReread (qid : BitVec 20) (data : BitVec 4096) (s : State) : Host.Outcome State Fault Refusal :=
  let k := qid.toNat
  let q := s.queue k
  match q.missed with
  | none => .next s
  | some t =>
    if !s.fetching k || s.now < t + 1000 then .next s
    else
      match s.headBytes k data.toNat with
      | (none, s) => .next s
      | (some (bytes, ps), s) =>
        let s := s.bump C.QE_CNT_SEQ_REREADS 1
        if !ps.isEmpty || q.seqOk bytes then .next ((s.consume 48 ps).acceptCmd k bytes (!ps.isEmpty))
        else if 8 ≤ q.rereads + 1 then
          .next (((s.setQueue k { q with state := .paused, cause := 1, missed := none, rereads := 0 }).setFld F.QE_STICKY_DB_AHEAD 1).raise
            Ev.DOORBELL_AHEAD { d1 := k, d2 := q.head })
        else .next ((s.setQueue k { q with missed := some s.now, rereads := q.rereads + 1 }).askFetch k)

/-- FETCH_REISSUE (R425): every 1 ms while the link is up. (DESIGN CHOICE: log entry 53) -/
def execFetchReissue (qid : BitVec 20) (s : State) : Host.Outcome State Fault Refusal :=
  let q := s.queue qid.toNat
  match q.late with
  | some t =>
    if t + 1000000 ≤ s.now && s.fld F.PX_STATUS_DL_UP = 1 && s.fetching qid.toNat then
      .next ((s.setQueue qid.toNat { q with late := some s.now }).askFetch qid.toNat)
    else .next s
  | none => .next s

/-! ### Admin commands (R240, R241) -/

/-- A ring's base is aligned to 4 KiB, and in module memory it lies below the reserved 8 GiB (R239).
(DEDUCED: log entry 59) -/
def ringPlaceOk (base : Nat) (loc : Bool) (n : Nat) : Bool := base % 4096 = 0 && (!loc || base + n ≤ reservedBase)

/-- The admin command of an opcode that may start: what it does, or BAD_COMMAND with nothing changed.
(DESIGN CHOICE: log entries 12, 54) -/
def State.admin (s : State) (opc : Nat) (fields : List (Nat × Nat)) (run : QCmd → State → Option State) : State :=
  match s.nextCmd 0 with
  | none => s
  | some c =>
    if c.opc ≠ opc then s
    else if !onlyFields c.bytes (headFields ++ fields) then s.complete 0 c St.BAD_COMMAND 0 0
    else
      match run c s with
      | some s => s
      | none => s.complete 0 c St.BAD_COMMAND 0 0

/-- CREATE_CQ (R240, R501). (DEDUCED: log entry 59) -/
def execCreateCq (s : State) : Host.Outcome State Fault Refusal :=
  .next (s.admin 0x80 [(128, 16), (192, 64), (256, 1), (260, 5), (272, 11), (288, 17)] fun c s =>
    let rid := c.f 16 15 0
    let log2 := c.f 32 8 4
    let loc := c.f 32 0 0 = 1
    let base := c.f 24 63 0
    if rid = 0 || 2 ^ s.fld F.PT_QUEUE_LOG2_CQ ≤ rid || (s.cring rid).on || log2 < 4 || 16 < log2 || c.f 36 16 0 = 0 ||
        2 ^ log2 < c.f 36 16 0 || s.px.msixCount ≤ c.f 32 26 16 || !ringPlaceOk base loc (32 * 2 ^ log2) then none
    else
      some ((s.setCring rid { CRing.init with
        on := true, base := base, loc := loc, log2 := log2, vector := c.f 32 26 16, level := c.f 36 16 0 }).complete 0 c St.OK 0 0))

/-- CREATE_SQ (R240, R501). (DEDUCED: log entry 59) -/
def execCreateSq (s : State) : Host.Outcome State Fault Refusal :=
  .next (s.admin 0x81 [(128, 20), (192, 64), (256, 1), (260, 5), (288, 16), (304, 12)] fun c s =>
    let qid := c.f 16 19 0
    let log2 := c.f 32 8 4
    let loc := c.f 32 0 0 = 1
    let base := c.f 24 63 0
    let rid := c.f 36 15 0
    if qid = 0 || 2 ^ s.fld F.PT_QUEUE_LOG2_SQ ≤ qid || (s.queue qid).state ≠ .disabled || log2 < 4 || 16 < log2 ||
        2 ^ s.fld F.PT_QUEUE_LOG2_CQ ≤ rid || !(s.cring rid).on || !ringPlaceOk base loc (512 * 2 ^ log2) then none
    else
      some ((s.setQueue qid { Queue.init with
        state := .active, base := base, loc := loc, log2 := log2, ring := rid, asid := c.f 36 27 16 }).complete 0 c St.OK 0 0))

/-- STOP_SQ (R240, R242): it completes with the last other dispatched command. -/
def execStopSq (s : State) : Host.Outcome State Fault Refusal :=
  .next (s.admin 0x82 [(128, 20)] fun c s =>
    let qid := c.f 16 19 0
    let st := (s.queue qid).state
    if !(st = .active || st = .paused || st = .hostWait) then none
    else some ((s.setRun 0 c.idx (.stopping qid)).stopQueue qid))

/-- STOP_SQ_DONE (R242). -/
def execStopSqDone (qid : BitVec 20) (s : State) : Host.Outcome State Fault Refusal :=
  let q := s.queue qid.toNat
  if q.state = .stopping && q.cmds.all fun c => c.run = .stopping qid.toNat then
    let s := s.setQueue qid.toNat { q with state := .stopped }
    match (s.queue 0).cmds.find? fun c => c.run = .stopping qid.toNat with
    | some c => .next (s.complete 0 c St.OK 0 0)
    | none => .next s
  else .next s

/-- DELETE_SQ (R240). -/
def execDeleteSq (s : State) : Host.Outcome State Fault Refusal :=
  .next (s.admin 0x83 [(128, 20)] fun c s =>
    let qid := c.f 16 19 0
    if (s.queue qid).state ≠ .stopped then none else some ((s.setQueue qid Queue.init).complete 0 c St.OK 0 0))

/-- DELETE_CQ (R240): refused while any queue names the ring. -/
def execDeleteCq (s : State) : Host.Outcome State Fault Refusal :=
  .next (s.admin 0x84 [(128, 16)] fun c s =>
    let rid := c.f 16 15 0
    if rid = 0 || !(s.cring rid).on || s.qe.queues.any (fun x => x.1 ≠ 0 && x.2.ring = rid && x.2.state ≠ .disabled) then none
    else some ((s.setCring rid CRing.init).complete 0 c St.OK 0 0))

/-- BIND_SQ (R241): the change goes out over the chain for a named Row. -/
def execBindSq (s : State) : Host.Outcome State Fault Refusal :=
  .next (s.admin 0x85 [(128, 20), (192, 48), (256, 4)] fun c s =>
    let qid := c.f 16 19 0
    if (s.queue qid).state = .disabled || c.f 32 3 0 = 0 then none
    else
      let row := s.reachableRow
      some ((s.setRun 0 c.idx (.binding row)).issueAll row (.bind qid (c.f 24 47 0) (c.f 32 3 0))))

/-- BIND_SQ_DONE (R241): after the edge, with the Row's number. (DESIGN CHOICE: log entry 12) -/
def execBindSqDone (s : State) : Host.Outcome State Fault Refusal :=
  match (s.queue 0).cmds.findSome? (fun c => match c.run with
    | .binding row => some (c, row)
    | _ => none) with
  | some (c, row) => if row ≤ s.rowYoke.row then .next (s.complete 0 c St.OK row 0) else .next s
  | none => .next s

/-! ### NOP and STITCH -/

/-- NOP (R245). -/
def execNop (qid : BitVec 20) (s : State) : Host.Outcome State Fault Refusal :=
  match s.nextCmd qid.toNat with
  | some c =>
    if c.opc = 0x00 && qid ≠ 0 then .next (s.complete qid.toNat c (if cmdOk c then St.OK else St.BAD_COMMAND) 0 0) else .next s
  | none => .next s

/-- The number of ranks a STITCH expects is met (R250). -/
def rankCountOk (c : QCmd) (n : Nat) : Bool := c.f 40 5 0 = 0 || c.f 40 5 0 = n

/-- STITCH (R250): one stitch for each ENABLED motif of the binding, or BINDING_CHANGED. -/
def execStitch (qid : BitVec 20) (s : State) : Host.Outcome State Fault Refusal :=
  match s.nextCmd qid.toNat with
  | some c =>
    if c.opc ≠ 0x01 || qid = 0 then .next s
    else if !cmdOk c then .next (s.complete qid.toNat c St.BAD_COMMAND 0 0)
    else if !rankCountOk c (s.ranksOf qid.toNat).length then .next (s.complete qid.toNat c St.BINDING_CHANGED 0 0)
    else .next (s.setRun qid.toNat c.idx .split)
  | none => .next s

/-- STITCH_DISPATCH (R250, R251): to all ranks in one pass once every rank has room. -/
def execStitchDispatch (qid : BitVec 20) (s : State) : Host.Outcome State Fault Refusal :=
  let k := qid.toNat
  let q := s.queue k
  match q.cmds.find? fun c => c.run = .split with
  | some c =>
    let ranks := s.ranksOf k
    if s.qe.dead || !(q.state = .active || q.state = .paused) || !s.ringRoom q.ring then .next s
    else if !rankCountOk c ranks.length then .next (s.complete k c St.BINDING_CHANGED 0 0)
    else if ranks.isEmpty || !ranks.all (s.hasRoom k) then .next s
    else
      let sts := ranks.zipIdx.map fun (m, r) => (m, stitchOf q k c r)
      let s := { s with qe := { s.qe with transit := s.qe.transit ++ sts } }
      .next ((s.bump C.QE_CNT_STITCHES ranks.length).setRun k c.idx (.stitched ranks.length []))
  | none => .next s

/-- The engines and the skein engine take an item by its OP byte (R252). -/
inductive ItemKind where
  | array | vector | launch | skein | fence | bad
  deriving DecidableEq, Repr

def itemKind (op : Nat) : ItemKind :=
  if 1 ≤ op ∧ op ≤ 6 then .array
  else if 0x10 ≤ op ∧ op ≤ 0x16 then .vector
  else if op = 0x30 then .launch
  else if 0x40 ≤ op ∧ op ≤ 0x47 then .skein
  else if op = 0x3F then .fence
  else .bad

/-- Read bytes of the running stitch's list; a fault stalls it, poison ends the list (R252, R320, R364). -/
def State.listRead (s : State) (m : Nat) (a : Admitted) (n : Nat) : Option Nat × State :=
  let x := a.st
  match s.vaRead qeAgent x.asid ((x.dlist + a.next) % 2 ^ 48) n Need.read with
  | (.wait, s) => (none, s)
  | (.fault p c l e pa, s) =>
    let tag := (((s.queue x.qid).cmds.find? fun c => c.idx = x.idx).map QCmd.tag).getD 0
    let ctx := packBits [(0, 20, x.qid), (32, 24, x.idx), (64, 8, 1), (96, 6, x.rank)]
    let s := s.sendFault { agent := ⟨48, 3, listAgent m⟩, asid := x.asid, page := p, cause := c, level := l, access := 1, sub := 0,
                           tag := tag, pte := e, pa := pa, time := s.now, context := ctx }
    (none, s.setRunning m fun a => { a with stalled := true })
  | (.ok bs ps, s) =>
    if ps.isEmpty then (some (ofBytes bs), s) else (none, (s.consume 48 ps).setRunning m fun a => { a with bad := some St.POISONED })

/-- DLIST_ITEM_ISSUE (R252). -/
def execDlistItemIssue (m : Motif) (s : State) : Host.Outcome State Fault Refusal :=
  match (s.sched m).running with
  | none => .next s
  | some a =>
    if a.bad.isSome || a.stalled || a.st.dbytes ≤ a.next || s.pos m ≠ 1 then .next s
    else
      match s.listRead m a 64 with
      | (none, s) => .next s
      | (some d, s) =>
        let pass := fun (n : Nat) (s : State) => s.setRunning m fun a => { a with next := a.next + n }
        let bad := s.setRunning m fun a => { a with bad := some St.BAD_DESCRIPTOR }
        match itemKind (d % 256) with
        | .array => if 32 ≤ (s.array m).queue.length then .next s else .next ((pass 64 s).arrayAccept m d a.st.asid true)
        | .launch => .next ((pass 64 s).launchAccept m d a.st.asid true)
        | .skein =>
          if s.sk.ops.any fun o => o.from' = .motif m then .next s
          else .next ((pass 64 s).skArrive d a.st.asid (.motif m))
        | .fence => if d ≠ 0x3F then .next bad else if s.listBusy m then .next s else .next (pass 64 s)
        | .bad => .next bad
        | .vector =>
          if a.st.dbytes < a.next + 256 then .next bad
          else if 16 ≤ (s.vec m).queue.length then .next s
          else
            match s.listRead m a 256 with
            | (none, s) => .next s
            | (some d, s) => .next ((pass 256 s).veAccept m d a.st.asid true)

/-- STITCH_COMMAND_DONE (R252). (DEDUCED: log entry 56) -/
def execStitchCommandDone (qid : BitVec 20) (idx : BitVec 24) (s : State) : Host.Outcome State Fault Refusal :=
  match (s.queue qid.toNat).cmds.find? fun c => c.idx = idx.toNat with
  | some c =>
    match c.run with
    | .stitched n got =>
      if s.qe.dead || got.length < n then .next s
      else
        let (st, r) := worstRank n got
        .next (s.complete qid.toNat c st 0 r)
    | _ => .next s
  | none => .next s

/-! ### WRITE_INLINE, SIGNAL, WAIT, SKEIN -/

/-- Start a command of an opcode, or go on with one: BAD_COMMAND where its parameters break a rule. -/
def State.ioCmd (s : State) (qid opc : Nat) (run : QCmd → State → State) : State :=
  match s.pick qid opc with
  | none => s
  | some c => if qid = 0 then s else if cmdOk c then run c s else s.complete qid c St.BAD_COMMAND 0 0

/-- WRITE_INLINE (R245): it completes when its write is visible at its home. -/
def execWriteInline (qid : BitVec 20) (s : State) : Host.Outcome State Fault Refusal :=
  let k := qid.toNat
  match (s.queue k).cmds.find? fun c => c.opc = 0x02 && c.run = .flushing St.OK && !c.stalled with
  | some c => if s.owes qeAgent (cmdAgent k c.idx + 1) then .next s else .next (s.complete k c St.OK 0 0)
  | none =>
    .next (s.ioCmd k 0x02 fun c s =>
      let n := c.f 24 8 0
      match s.vaWrite qeAgent (s.queue k).asid (cmdAgent k c.idx + 1) (c.f 16 47 0) (toBytes n (c.bytes / 2 ^ 512)) with
      | (.wait, s) => s.setRun k c.idx .going
      | (.fault p cs l e pa, s) => s.cmdFault k c p cs l e pa 2
      | (.ok _ _, s) => if s.owes qeAgent (cmdAgent k c.idx + 1) then s.setRun k c.idx (.flushing St.OK) else s.complete k c St.OK 0 0)

/-- COPY (R420, R421): it starts where fewer than 8 run, and goes on page by page. (DESIGN CHOICE: log entry 58) -/
def execCopy (qid : BitVec 20) (s : State) : Host.Outcome State Fault Refusal :=
  let k := qid.toNat
  match (s.queue k).cmds.find? QCmd.copiesNow with
  | some c =>
    match c.run with
    | .copying done page _ last => if s.qe.dead then .next s else .next (s.copyStep k c done page last)
    | _ => .next s
  | none =>
    .next (s.ioCmd k 0x03 fun c s =>
      if 8 ≤ s.qe.copies.length then s
      else ({ s with qe := { s.qe with copies := s.qe.copies ++ [(k, c.idx)] } }.setRun k c.idx (.copying 0 none none none)).copyStep k c 0
        none none)

/-- HOST_READ_COMPLETION (R421, R422). -/
def execHostReadCompletion (qid : BitVec 20) (idx : BitVec 24) (data : List (BitVec 8)) (outcome : HostReadOutcome) (s : State) :
    Host.Outcome State Fault Refusal :=
  let k := qid.toNat
  match (s.queue k).cmds.find? fun c => c.idx = idx.toNat with
  | some c =>
    match c.run with
    | .copying done page (some w) last =>
      if outcome = .error then .next ((s.setFld F.PX_STICKY_HOST_ERROR 1).complete k c St.HOST_ERROR 0 0)
      else .next (s.copyData k c done page last w data (outcome = .poisoned))
    | _ => .next s
  | none => .next s

/-- SKEIN (R266): the operation at bytes 64 to 127 goes to the skein engine. -/
def execSkein (qid : BitVec 20) (s : State) : Host.Outcome State Fault Refusal :=
  let k := qid.toNat
  match s.nextCmd k with
  | some c =>
    if c.opc ≠ 0x04 || qid = 0 then .next s
    else if !cmdOk c then .next (s.complete k c St.BAD_COMMAND 0 0)
    else if !skOk (c.bytes / 2 ^ 512) true then .next ((s.bump C.SK_CNT_OPS 1).complete k c St.BAD_DESCRIPTOR 0 0)
    else .next ((s.setRun k c.idx .going).skArrive (c.bytes / 2 ^ 512) (s.queue k).asid (.command k c.idx))
  | none => .next s

/-- SIGNAL (R245, R320, R321). (DEDUCED: log entry 55) -/
def execSignal (qid : BitVec 20) (s : State) : Host.Outcome State Fault Refusal :=
  let k := qid.toNat
  .next (s.ioCmd k 0x05 fun c s =>
    match s.vaAdd qeAgent (s.queue k).asid (cmdAgent k c.idx + 1) (c.f 16 47 0) (c.f 24 63 0) with
    | (.wait, s) => s.setRun k c.idx .going
    | (.fault p cs l e pa, s) => s.cmdFault k c p cs l e pa 3
    | (.ok _ ps, s) => (s.consume 48 ps).complete k c (if ps.isEmpty then St.OK else St.POISONED) 0 0)

/-- A WAIT reads its counter: reached, poisoned, or it holds its queue (R245). (DEDUCED: log entry 55) -/
def State.waitRead (s : State) (k : Nat) (c : QCmd) : State :=
  match s.vaRead qeAgent (s.queue k).asid (c.f 16 47 0) 8 Need.read with
  | (.wait, s) => s.setRun k c.idx .holding
  | (.fault p cs l e pa, s) => (s.setRun k c.idx .holding).cmdFault k c p cs l e pa 1
  | (.ok bs ps, s) =>
    if !ps.isEmpty then (s.consume 48 ps).complete k c St.POISONED 0 0
    else if c.f 24 63 0 ≤ ofBytes bs then s.complete k c St.OK 0 0
    else s.setRun k c.idx .holding

/-- WAIT (R245). (DEDUCED: log entry 55) -/
def execWait (qid : BitVec 20) (s : State) : Host.Outcome State Fault Refusal :=
  .next (s.ioCmd qid.toNat 0x06 fun c s => s.waitRead qid.toNat c)

/-- WAIT_SATISFIED (R245). -/
def execWaitSatisfied (qid : BitVec 20) (s : State) : Host.Outcome State Fault Refusal :=
  match (s.queue qid.toNat).cmds.find? fun c => c.run = .holding && !c.stalled with
  | some c => if s.qe.dead then .next s else .next (s.waitRead qid.toNat c)
  | none => .next s

/-! ### PREFETCH and ADVISE (R361 to R363) -/

/-- Start or go on with a mover of an opcode and an ADV code. -/
def State.mover (s : State) (k opc : Nat) (adv : Nat → Bool) (step : QCmd → Moved → Bool → State → State) : State :=
  match (s.queue k).cmds.find? QCmd.movesPages with
  | some c =>
    match c.run with
    | .moving at' moved skipped first last want =>
      if c.opc = opc && adv (c.f 28 1 0) && !s.qe.dead then step c ⟨at', moved, skipped, first, last⟩ want s else s
    | _ => s
  | none =>
    match s.nextCmd k with
    | some c => if c.opc = opc && adv (c.f 28 1 0) && k ≠ 0 then s.moverStart k c else s
    | none => s

/-- PREFETCH (R362): one leaf; `data` are the host frames of the leaf that waits for them. -/
def execPrefetch (qid : BitVec 20) (data : List (BitVec 8)) (ok : Bool) (s : State) : Host.Outcome State Fault Refusal :=
  .next (s.mover qid.toNat 0x07 (fun _ => true) fun c x want s =>
    if want && !ok then (s.setFld F.PX_STICKY_HOST_ERROR 1).moverEnd qid.toNat c x St.HOST_ERROR
    else s.prefetchLeaf qid.toNat c x want data)

/-- ADVISE_EVICT (R362): one leaf; `ok` where its copy succeeds. -/
def execAdviseEvict (qid : BitVec 20) (ok : Bool) (s : State) : Host.Outcome State Fault Refusal :=
  .next (s.mover qid.toNat 0x08 (· = 0) fun c x _ s => s.evictLeaf qid.toNat c x true ok)

/-- ADVISE_DROP (R362). -/
def execAdviseDrop (qid : BitVec 20) (s : State) : Host.Outcome State Fault Refusal :=
  .next (s.mover qid.toNat 0x08 (· = 1) fun c x _ s => s.evictLeaf qid.toNat c x false true)

/-- ADVISE_WARM (R362); an ADV outside its values completes with BAD_COMMAND. -/
def execAdviseWarm (qid : BitVec 20) (s : State) : Host.Outcome State Fault Refusal :=
  .next (s.mover qid.toNat 0x08 (2 ≤ ·) fun c x _ s => s.warmLeaf qid.toNat c x)

/-! ### Registers of the queue engine -/

/-- QE_CQ_DB (R255). -/
def execQeCqDb (v : BitVec 64) (s : State) : Host.Outcome State Fault Refusal :=
  let rid := bits v.toNat 15 0
  let ci := bits v.toNat 39 16
  let r := s.cring rid
  if r.on && ciAccepted r.ci r.next ci then
    let r' := { r with ci := ci }
    .next (State.drainHeld rid r.held.length (s.setCring rid { r' with full := r'.count = 2 ^ r.log2 }))
  else .next (s.bump C.QE_CNT_DB_DROPPED 1)

/-- Where both admin enables are set, the wait after a host-side reset ends (R429). (DESIGN CHOICE: log entry 54) -/
def State.adminUp (s : State) : State :=
  if s.fld F.QE_ADMIN_SQ_EN = 1 && s.fld F.QE_ADMIN_CQ_EN = 1 then s.setFld F.PX_STATUS_HOST_WAIT 0 else s

/-- The stored fields of QE_ADMIN_SQ and QE_ADMIN_CQ. -/
def adminWord (v : Nat) : Nat := packBits [(0, 2, v), (8, 56, v / 256)]

/-- LOG2_ENTRIES of an admin ring is in its range. -/
def adminLogOk (v : Nat) : Bool := 4 ≤ bits v 11 8 && bits v 11 8 ≤ 12

/-- QE_ADMIN_SQ_WRITE (R239). -/
def execQeAdminSqWrite (v : BitVec 64) (s : State) : Host.Outcome State Fault Refusal :=
  let was := s.fld F.QE_ADMIN_SQ_EN = 1
  let w := adminWord v.toNat
  let s := s.setReg F.QE_ADMIN_SQ_EN.addr w
  if w % 2 = 1 && !was then
    if adminLogOk w then
      .next ((s.setQueue 0 { Queue.init with
        state := .active, base := bits w 63 12 * 4096, loc := bits w 1 1 = 1, log2 := bits w 11 8 }).adminUp)
    else .next (s.setFld F.QE_ADMIN_SQ_EN 0)
  else if w % 2 = 0 && was then .next (s.onQueue 0 fun q => { q with state := .disabled })
  else .next s

/-- QE_ADMIN_CQ_WRITE (R239). -/
def execQeAdminCqWrite (v : BitVec 64) (s : State) : Host.Outcome State Fault Refusal :=
  let was := s.fld F.QE_ADMIN_CQ_EN = 1
  let w := adminWord v.toNat
  let s := s.setReg F.QE_ADMIN_CQ_EN.addr w
  if w % 2 = 1 && !was then
    if adminLogOk w then
      .next ((s.setCring 0 { CRing.init with
        on := true, base := bits w 63 12 * 4096, loc := bits w 1 1 = 1, log2 := bits w 11 8 }).adminUp)
    else .next (s.setFld F.QE_ADMIN_CQ_EN 0)
  else if w % 2 = 0 && was then .next (s.setCring 0 { s.cring 0 with on := false })
  else .next s

end Sys2Proof.Machine
end

