-- ==== Sys2Proof/Machine/HostLink.lean ====
section
/-!
DEFINITION. HostLink.lean: the commands of the host link (12_host_link.md).
-/

namespace Sys2Proof.Machine

/-! ### BAR0 and BAR4 (R405 to R414) -/


/-- BAR0_BAD_ACCESS (R406): a size or alignment that BAR0 does not accept. (PRESUMED: log entry 96) -/
def execBar0BadAccess (write : Bool) (addr : BitVec 26) (size : BitVec 13) (s : State) : Host.Outcome State Fault Refusal :=
  let n := size.toNat
  if !s.barOn || ((n = 4 || n = 8) && addr.toNat % n = 0) then .next s
  else
    let s := s.setFld F.PX_STICKY_ACCESS_REFUSED 1
    .next (if write then s else s.completion 0 Cpl.UR false [])

/-- Where an offset of BAR4 lies (R408): a local physical address. (DEDUCED: log entry 99) -/
def State.bar4At (s : State) (off : Nat) : Option Nat :=
  let size := 2 ^ s.fld F.PX_STATUS_BAR4_LOG2
  let g := 2 ^ 30
  if off + 8 * g < size then some off
  else if off + 2 * g < size then
    let o := off + 8 * g - size
    some (apertureBase + o / 0x8000000 * 0x10000000 + o % 0x8000000)
  else none

/-- The hint of a BAR4 write (R414): the target of the first enabled range that holds its offset. -/
def State.bar4Hint (s : State) (off : Nat) : Option Nat :=
  ((List.range 8).find? fun k =>
    let base := s.fld (F.PX_HINT_BASE k) * 65536
    s.fld (F.PX_HINT_EN k) = 1 && decide (base ≤ off) && decide (off < base + s.fld (F.PX_HINT_SIZE k) * 65536)).map fun k =>
      s.fld (F.PX_HINT_TARGET k)

/-- The address a BAR4 access of this node reaches, none where it is refused (R411, R413, R520, R550). -/
def State.bar4Reach (s : State) (off : Nat) (sh : Shape) (write : Bool) : Option Nat :=
  (s.bar4At off).bind fun pa =>
    let up := s.fld F.MC_STATUS_STATE = 2 || (s.fld F.MC_STATUS_STATE = 4 && !write)
    if (s.spanFault pa sh).isSome || !up then none else some pa

/-- A BAR4 request of a Requester ID that is not served (R413). -/
def State.ridRefused (s : State) (write : Bool) (off : Nat) : State :=
  (s.setFld F.PX_STICKY_REQID_REFUSED 1).refuseHost false write off


/-- BAR4_READ (R410 to R413, R415). (DEDUCED: log entry 99) -/
def execBar4Read (off : BitVec 40) (len : BitVec 13) (rid : BitVec 16) (s : State) : Host.Outcome State Fault Refusal :=
  let n := len.toNat
  if !s.barOn then .next s
  else if !s.ridOk rid.toNat then .next ((s.ridRefused false off.toNat).completion rid.toNat Cpl.CA false [])
  else
    match s.bar4Reach off.toNat (.plain n) false with
    | none => .next ((s.refuseHost false false off.toNat).completion rid.toNat Cpl.CA false [])
    | some pa => .next (s.takeReq ⟨.host rid.toNat true, .read pa n⟩)

/-- BAR4_WRITE (R410 to R414): posted; with EP every word it covers is written poisoned. (DEDUCED: log entry 99) -/
def execBar4Write (off : BitVec 40) (data : List (BitVec 8)) (be : List Bool) (ep : Bool) (rid : BitVec 16) (s : State) :
    Host.Outcome State Fault Refusal :=
  let n := data.length
  if !s.barOn then .next s
  else if !s.ridOk rid.toNat then .next (s.ridRefused true off.toNat)
  else
    match s.bar4Reach off.toNat (.plain n) true with
    | none => .next (s.refuseHost false true off.toNat)
    | some pa =>
      if n = 0 then .next s
      else
        let s := if ep then (s.bump C.PX_CNT_EP_RECEIVED 1).setFld F.PX_STICKY_EP_RECEIVED 1 else s
        let pa' := match s.bar4Hint off.toNat with
          | some t => if pa < poolTop then 0x800000000000 + t * 2 ^ 40 + pa else pa
          | none => pa
        let bs := (data.zip (be ++ List.replicate n false)).map fun x => if x.2 then some x.1 else none
        let words := (List.range ((pa + n - 1) / 8 - pa / 8 + 1)).map (pa / 8 + ·)
        .next (s.takeReq ⟨.host rid.toNat true, .write pa' bs (if ep then words else [])⟩)

/-- A host AtomicOp (R410): the old value comes back; a poisoned word is left as it is. (PRESUMED: log entry 96) -/
def State.hostAtomic (s : State) (off rid : Nat) (fn : AtomFn) (wide : Bool) (v cmp : BitVec 64) : State :=
  let n := if wide then 8 else 4
  if !s.barOn then s
  else if !s.ridOk rid then (s.ridRefused true off).completion rid Cpl.CA false []
  else
    match s.bar4Reach off .atomic true with
    | none => (s.refuseHost false true off).completion rid Cpl.CA false []
    | some pa =>
      if off % n ≠ 0 then s.completion rid Cpl.UR false [] else s.takeReq ⟨.host rid true, .atomic pa fn wide [(v, cmp)]⟩

/-- BAR4_FETCHADD (R410). -/
def execBar4Fetchadd (off : BitVec 40) (wide : Bool) (v : BitVec 64) (rid : BitVec 16) (s : State) :
    Host.Outcome State Fault Refusal := .next (s.hostAtomic off.toNat rid.toNat .add wide v 0)

/-- BAR4_SWAP (R410). -/
def execBar4Swap (off : BitVec 40) (wide : Bool) (v : BitVec 64) (rid : BitVec 16) (s : State) :
    Host.Outcome State Fault Refusal := .next (s.hostAtomic off.toNat rid.toNat .swap wide v 0)

/-- BAR4_CAS (R410): of 128 bits it completes with Unsupported Request. -/
def execBar4Cas (off : BitVec 40) (size : CasSize) (cmp v : BitVec 128) (rid : BitVec 16) (s : State) :
    Host.Outcome State Fault Refusal :=
  let go := fun wide => s.hostAtomic off.toNat rid.toNat .cas wide (v.truncate 64) (cmp.truncate 64)
  .next (match size with
    | .w32 => go false
    | .w64 => go true
    | .w128 => if s.barOn then s.completion rid.toNat Cpl.UR false [] else s)

/-! ### The link (R403, R424 to R430) -/

/-- Show a trained rate and width; below 16 GT/s or ×8 the link is degraded (R403). (DESIGN CHOICE: log entry 97) -/
def State.showLink (s : State) (speed width : Nat) : State :=
  let s := s.setFlds [(F.PX_STATUS_DL_UP, 1), (F.PX_STATUS_SPEED, speed), (F.PX_STATUS_WIDTH, width), (F.PX_STATUS_FLIT, flag (speed = 6))]
  if speed < 4 || width < 8 then (s.setFld F.PX_STICKY_LINK_DEGRADED 1).raise Ev.HOST_LINK_DEGRADED {} else s

/-- HOST_LINK_UP (R403, R520, R558): the link comes up, after step 1 of cast-on and with no loop-back run on it; without Flit
mode below 64 GT/s. (DESIGN CHOICE: log entry 97) -/
def execHostLinkUp (speed : BitVec 3) (width : BitVec 6) (s : State) : Host.Outcome State Fault Refusal :=
  if s.fld F.PX_STATUS_DL_UP = 0 && s.fld F.MC_STATUS_STATE ≠ 0 && s.fld F.PX_LOOP_BUSY = 0 then .next (s.showLink speed.toNat width.toNat) else .next s

/-- LINK_RETRAIN (R424). (DESIGN CHOICE: log entry 128) -/
def execLinkRetrain (speed : BitVec 3) (width : BitVec 6) (s : State) : Host.Outcome State Fault Refusal :=
  if s.fld F.PX_STATUS_DL_UP = 1 then .next ((s.bump C.PX_CNT_RETRAINS 1).showLink speed.toNat width.toNat) else .next s

/-- The MSI-X table and its pending bits as after reset (R423, R426). (DESIGN CHOICE: log entry 98) -/
def State.resetMsix (s : State) : State := { s with regs := s.regs.filter fun x => x.1 < 0xB0000 || 0xB8100 ≤ x.1 }

/-- Registers from `a` to below `b` as after reset. -/
def State.resetRegs (s : State) (a b : Nat) : State := { s with regs := s.regs.filter fun x => x.1 < a || b ≤ x.1 }

/-- Rings in host memory are lost: entries they held go to the log (R256). (DESIGN CHOICE: log entry 98) -/
def State.loseRings (s : State) : State :=
  s.qe.rings.foldl (fun (s : State) (x : Nat × CRing) =>
    let r := x.2
    if r.loc then s
    else
      let s := s.setCring x.1 { r with lost := true, held := [], on := r.on && x.1 ≠ 0 }
      r.held.foldl (fun s e => s.lostEntry (setBits e 7 0 St.HOST_LOST)) s) s

/-- Queues whose ring or completion ring lies in host memory wait for the host (R242, R256); the admin queue's enable is
reset. -/
def State.hostWaitQueues (s : State) : State :=
  s.qe.queues.foldl (fun (s : State) (x : Nat × Queue) =>
    let q := x.2
    if x.1 = 0 then s.setQueue 0 { q with state := .disabled }
    else if (!q.loc || !(s.cring q.ring).loc) && (q.state = .active || q.state = .paused || q.state = .stopping) then
      s.setQueue x.1 { q with state := .hostWait, doors := [], missed := none, late := none }
    else s) s

/-- COPY, PREFETCH and ADVISE in progress complete with HOST_LOST (R427). (DESIGN CHOICE: log entry 98) -/
def State.loseCopies (s : State) : State :=
  (s.qe.copies ++ s.qe.mover.toList).foldl (fun (s : State) (x : Nat × Nat) =>
    match (s.queue x.1).cmds.find? fun c => c.idx = x.2 with
    | some c => s.complete x.1 c St.HOST_LOST 0 0
    | none => s) s

/-- PX_REQIDk and BAR4's size from the Pattern in force (R426, R497). (DESIGN CHOICE: log entry 126) -/
def State.hostPattern (s : State) : State :=
  let s := (List.range 4).foldl (fun s k => s.setReg (F.PX_REQID_V k).addr (s.hostSection (8 + 4 * k) 4 &&& 0x8000FFFF)) s
  let s := { s with px := { s.px with
    msixCount := bits (s.hostSection 4 4) 27 16, ssvid := s.hostSection 0 2, ssid := s.hostSection 2 2 } }
  s.setFld F.PX_STATUS_BAR4_LOG2 (bits (s.hostSection 4 1) 5 0)

/-- A host-side reset (R256, R426, R427, R480); `down` where the link goes down with it.
(DESIGN CHOICE: log entries 98, 118) -/
def State.hostReset (s : State) (down : Bool) : State :=
  let s := (s.bump C.PX_CNT_HOST_RESETS 1).setFld F.PX_STATUS_HOST_WAIT 1
  let s := s.loseRings.hostWaitQueues.loseCopies.disownReqs
  let s := { s with px := Px.init }
  let s := (s.resetMsix.resetRegs 0xA0004 0xA0008).resetRegs 0xA0100 0xA0180
  let s := (s.resetRegs 0x40000 0x40014).hostPattern
  let s := if s.fld F.TU_FRING_BASE_LOC = 0 then s.setReg F.TU_FRING_BASE_EN.addr 0 else s
  let s := if !down then s
    else s.setFlds [(F.PX_STATUS_DL_UP, 0), (F.PX_STATUS_SPEED, 0), (F.PX_STATUS_WIDTH, 0), (F.PX_STATUS_FLIT, 0)]
  let s := s.setFld F.MC_STATUS_EID_PCIE 0
  s.raise Ev.HOST_RESET {}

/-- HOST_SIDE_RESET (R426). (DESIGN CHOICE: log entry 98) -/
def execHostSideReset (cause : HostResetCause) (s : State) : Host.Outcome State Fault Refusal :=
  .next (s.hostReset (decide (cause ≠ .flr)))

/-- RESIZABLE_BAR_WRITE (R409): while memory decode is disabled. -/
def execResizableBarWrite (log2 : BitVec 6) (s : State) : Host.Outcome State Fault Refusal :=
  if !s.px.memOn && 34 ≤ log2.toNat && log2.toNat ≤ 40 then .next { s with px := { s.px with barChosen := some log2.toNat } } else .next s

/-- MEMORY_DECODE_ENABLE (R409): a newly chosen size takes effect. -/
def execMemoryDecodeEnable (s : State) : Host.Outcome State Fault Refusal :=
  let s := match s.px.barChosen with
    | some n => s.setFld F.PX_STATUS_BAR4_LOG2 n
    | none => s
  .next { s with px := { s.px with memOn := true, barChosen := none } }

/-- Send every pending message whose vector is not masked, as one message each (R423). -/
def State.sendPending (s : State) : State :=
  (List.range 2048).foldl (fun s v =>
    if s.fld (pbaFld v) = 1 && !s.msiMasked v && !s.msiBlocked then (s.setFld (pbaFld v) 0).msiSend v else s) s

/-- After the function may send again: held records and messages go out. -/
def State.hostGo (s : State) : State := State.satDrain 4 (State.evDrain 256 s).fringGo.sendPending

/-- BUS_MASTER_ENABLE (R423). -/
def execBusMasterEnable (s : State) : Host.Outcome State Fault Refusal :=
  .next { s with px := { s.px with bme := true } }.hostGo

/-- D3HOT_ENTRY (R430). -/
def execD3hotEntry (s : State) : Host.Outcome State Fault Refusal := .next { s with px := { s.px with d3hot := true } }

/-- D0_RETURN (R430): nothing is reset, and waiting messages are sent. -/
def execD0Return (s : State) : Host.Outcome State Fault Refusal := .next { s with px := { s.px with d3hot := false } }.hostGo

/-- MSIX_UNMASK (R423): a vector, or the function, is unmasked. (DESIGN CHOICE: log entry 77) -/
def execMsixUnmask (vector : Option (BitVec 11)) (s : State) : Host.Outcome State Fault Refusal :=
  let s := match vector with
    | some v => s.setFld (F.MSIX_VECTOR_CONTROL v.toNat) (s.fld (F.MSIX_VECTOR_CONTROL v.toNat) / 2 * 2)
    | none => { s with px := { s.px with funcMask := false } }
  .next (State.satDrain 4 s.sendPending)

/-- A command moves data to or from the host. -/
def State.movesHost (s : State) (qid idx : Nat) : Bool := s.qe.copies.contains (qid, idx) || s.qe.mover = some (qid, idx)

/-- COMPLETION_TIMEOUT (R418, R422, R425): a host read times out; a command fetch is issued again a millisecond later.
(DESIGN CHOICE: log entry 155) -/
def execCompletionTimeout (qid : BitVec 20) (idx : BitVec 24) (s : State) : Host.Outcome State Fault Refusal :=
  let k := qid.toNat
  let i := idx.toNat
  let failed := s.setFld F.PX_STICKY_HOST_ERROR 1
  match (s.queue k).cmds.find? fun c => c.idx = i with
  | some c =>
    match c.run with
    | .copying _ _ (some _) _ => .next (failed.complete k c St.HOST_ERROR 0 0)
    | .moving at' moved skipped first last true => .next (failed.moverEnd k c ⟨at', moved, skipped, first, last⟩ St.HOST_ERROR)
    | .flushing _ => .next (if s.movesHost k i then failed.complete k c St.HOST_ERROR 0 0 else s)
    | _ => .next s
  | none =>
    let q := s.queue k
    .next (if s.fetching k && q.head = i && !q.loc then s.setQueue k { q with late := some s.now } else s)

/-- FLUSH_READ_DONE (R418): the completion follows its data; a failed flush is HOST_ERROR. -/
def execFlushReadDone (qid : BitVec 20) (idx : BitVec 24) (ok : Bool) (s : State) : Host.Outcome State Fault Refusal :=
  let k := qid.toNat
  match (s.queue k).cmds.find? fun c => c.idx = idx.toNat with
  | some c =>
    match c.run with
    | .flushing st =>
      if !s.movesHost k idx.toNat then .next s
      else if ok then .next (s.complete k c st 0 0)
      else .next ((s.setFld F.PX_STICKY_HOST_ERROR 1).complete k c St.HOST_ERROR 0 0)
    | _ => .next s
  | none => .next s

/-- PX_LOST_POP (R428): ignored while the log is empty. -/
def execPxLostPop (s : State) : Host.Outcome State Fault Refusal :=
  match s.qe.lost with
  | [] => .next s
  | _ :: es => .next { s with qe := { s.qe with lost := es } }.showLost

end Sys2Proof.Machine
end

