-- ==== Sys2Proof/Machine/Seams.lean ====
section
/-!
DEFINITION. Seams.lean: the commands of the chain, the seams and the guests (11_seams_and_panel.md).
-/

namespace Sys2Proof.Machine

/-! ### Changes that name a Row (R36, R380, R385, R393) -/

/-- A die of the module: a motif or the yoke. -/
def ownDie (d : Mesh) : Bool := d.val ≤ 48

/-- ROUTE_SET (R380). -/
def execRouteSet (die : Mesh) (row : BitVec 48) (table : BitVec 11) (s : State) : Host.Outcome State Fault Refusal :=
  .next (if ownDie die then s.takeChange die row.toNat (.route table.toNat) else s)

/-- MAP_SET (R385): the address map's salt and the coherent ranges. -/
def execMapSet (die : Mesh) (row : BitVec 48) (salt : BitVec 64) (ranges : List (BitVec 48 × BitVec 48)) (s : State) :
    Host.Outcome State Fault Refusal :=
  .next (if ownDie die then s.takeChange die row.toNat (.map salt.toNat (ranges.map fun r => (r.1.toNat, r.2.toNat))) else s)

/-- BIND_SET (R241). -/
def execBindSet (die : Mesh) (row : BitVec 48) (qid : BitVec 20) (mask : BitVec 48) (cls : BitVec 4) (s : State) :
    Host.Outcome State Fault Refusal :=
  .next (if ownDie die then s.takeChange die row.toNat (.bind qid.toNat mask.toNat cls.toNat) else s)

/-- The code of a position's state (R32). -/
def posCode : PosState → Nat
  | .enabled => 1
  | .spare => 2
  | .memOnly => 3
  | .recovering => 4
  | .dropped => 5

/-- POS_SET (R393). -/
def execPosSet (die : Mesh) (row : BitVec 48) (m : Motif) (st : PosState) (s : State) : Host.Outcome State Fault Refusal :=
  .next (if ownDie die then s.takeChange die row.toNat (.pos m (posCode st)) else s)

/-- PATTERN_DATA (R385): a die receives 28 bytes of the Pattern. -/
def execPatternData (die : Mesh) (off : BitVec 23) (data : BitVec 224) (s : State) : Host.Outcome State Fault Refusal :=
  if ownDie die then
    let old := Sparse.get [] s.diePattern die.val
    .next { s with diePattern := Sparse.set [] s.diePattern die.val (flashWrite old off.toNat (toBytes 28 data.toNat)) }
  else .next s

/-- The index of a die's seam: a motif's by direction, the yoke's by row. -/
def dieSeam (d k : Nat) : Option Nat := if d = 48 then (if k < 6 then some (82 + k) else none) else seamOf d k

/-- A domain reset clears the die's prior mask on a seam (R388). -/
def State.clearPrior (s : State) (m i : Nat) : State :=
  let x := s.seam i
  let (sa, sb) := seamSides i
  s.setSeam i { x with
    a := if sa.mesh = m then { x.a with prior := none } else x.a
    b := if sb.mesh = m then { x.b with prior := none } else x.b }

/-- SEQ_CMD (R385): the die whose domain is under recovery stops its issue, or resets its units; a seam under recovery is
retrained, and one to be given up isolated. -/
def execSeqCmd (die : Mesh) (cmd : SeqCmd) (s : State) : Host.Outcome State Fault Refusal :=
  let d := die.val
  match cmd with
  | .drain => .next (if d < 48 && s.recovering 1 d then s.stopEngines d else s)
  | .resetUnits =>
    .next (if d < 48 && s.recovering 1 d then ((List.range 4).filterMap (seamOf d)).foldl (fun s i => s.clearPrior d i) s else s)
  | .retrain k =>
    match dieSeam d k.toNat with
    | some i => .next (if s.recovering 3 i && s.seamState i = 5 then s.retrain i else s)
    | none => .next s
  | .isolate k =>
    match dieSeam d k.toNat with
    | some i => .next (if s.seamState i = 6 || s.seamState i = 0 then s else s.isolateSeam i)
    | none => .next s

/-! ### Frames on the chain (R384) -/

/-- The resends so far of a frame on a hop. -/
def State.resendsOf (s : State) (src hop seq : Nat) : Nat :=
  ((s.recovery.resends.find? fun (x : Nat × Nat × Nat × Nat) => x.1 = src && x.2.1 = hop && x.2.2.1 = seq).map fun x => x.2.2.2).getD 0

/-- Forget a frame's resends. (DEDUCED: log entry 75) -/
def State.forgetFrame (s : State) (src hop seq : Nat) : State :=
  { s with recovery := { s.recovery with
    resends := s.recovery.resends.filter fun (x : Nat × Nat × Nat × Nat) => !(x.1 = src && x.2.1 = hop && x.2.2.1 = seq) } }

/-- The seam that joins two dies. -/
def seamBetween (a b : Nat) : Option Nat :=
  (List.range 90).find? fun i =>
    let x := (seamSides i).1.mesh
    let y := (seamSides i).2.mesh
    (x = a && y = b) || (x = b && y = a)

/-- CHAIN_ACK (R384): the sender resends the frame no more. -/
def execChainAck (src hop : Mesh) (seq : BitVec 8) (s : State) : Host.Outcome State Fault Refusal :=
  .next (s.forgetFrame src hop seq.toNat)

/-- Count at the motif that is a die's side of a seam. -/
def State.countSide (s : State) (i die : Nat) (c : Nat → Nat → Cnt) : State :=
  match if (seamSides i).1.mesh = die then (seamSides i).1 else (seamSides i).2 with
  | .motif m d => s.bump (c m d) 1
  | _ => s

/-- CHAIN_RESEND (R384): an unacknowledged frame goes out again, which the receiver may have discarded for its CRC; after the eighth
resend the seam's sideband has failed, and the chain is routed anew.
(DEDUCED: log entry 75; DESIGN CHOICE: log entry 155) -/
def execChainResend (src hop : Mesh) (f : LostFrame) (s : State) : Host.Outcome State Fault Refusal :=
  match seamBetween src hop with
  | none => .next s
  | some i =>
    let s := if f.bad then s.countSide i hop C.SM_CNT_CHAIN_BAD else s
    let n := s.resendsOf src hop f.seq.toNat
    let s := s.forgetFrame src hop f.seq.toNat
    if n < 8 then
      let s := { s with recovery := { s.recovery with resends := s.recovery.resends ++ [(src.val, hop.val, f.seq.toNat, n + 1)] } }
      .next (s.countSide i src C.SM_CNT_CHAIN_RESEND)
    else .next ((s.setSeamFld i 3 0 0).chainReroute i)

/-! ### Training and width (R387 to R390) -/

/-- A side of a seam by its name: false side A, true side B. -/
def Seam.side (x : Seam) (b : Bool) : SeamSide := if b then x.b else x.a
def Seam.setSide (x : Seam) (b : Bool) (y : SeamSide) : Seam := if b then { x with b := y } else { x with a := y }

/-- Send a frame of a type with a width and mask from one side of a seam to the other. -/
def State.sendAcross (s : State) (i : Nat) (fromB : Bool) (type width mask : Nat) : State :=
  let a := (seamSides i).1.mesh
  let b := (seamSides i).2.mesh
  s.sendFrom (if fromB then b else a) (if fromB then a else b) (packBits [(0, 8, type), (8, 8, i), (16, 8, mask), (24, 8, width)])

/-- SEAM_TRAINING_DONE (R387, R388): each side advertises the modules it trained within the mask it ran at; a change of the
working sideband lanes routes the chain anew (R383). (DESIGN CHOICE: log entry 128) -/
def execSeamTrainingDone (seam : SeamIx) (maskA maskB : BitVec 8) (sbLanes : BitVec 4) (s : State) :
    Host.Outcome State Fault Refusal :=
  let i := seam.val
  if s.seamState i = 1 then
    let x := s.seam i
    let advA := maskA.toNat &&& x.a.prior.getD 255
    let advB := maskB.toNat &&& x.b.prior.getD 255
    let was := s.seamFld i 3 0
    let lanes := min 8 sbLanes.toNat
    let s := (s.setSeamState i 2).setSeamFld i 3 0 lanes
    let s := s.setSeam i { x with
      a := { x.a with adv := some advA, set := none }, b := { x.b with adv := some advB, set := none }, chosen := none, trial := none
      since := s.now }
    let s := if i < 88 then (s.sendAcross i false 0x50 0 advA).sendAcross i true 0x50 0 advB else s
    .next (if was = lanes then s else s.chainReroute i)
  else .next s

/-- WIDTH_ADV (R388): a side learns its neighbour's accepted mask, chooses the width, and answers WIDTH_SET. -/
def execWidthAdv (seam : SeamIx) (side : Bool) (mask : BitVec 8) (s : State) : Host.Outcome State Fault Refusal :=
  let i := seam.val
  let x := s.seam i
  match (x.side side).adv with
  | none => .next s
  | some own =>
    if s.seamState i = 2 && x.trial.isNone then
      match chooseWidth (own &&& mask.toNat) with
      | none => .next (s.isolateSeam i)
      | some (w, m) =>
        .next ((s.setSeam i (x.setSide side { x.side side with set := some (w, m) })).sendAcross i side 0x51 w m)
    else .next s

/-- WIDTH_SET (R388, R389): a side compares its neighbour's width and mask with its own. -/
def execWidthSet (seam : SeamIx) (side : Bool) (width : BitVec 4) (mask : BitVec 8) (s : State) :
    Host.Outcome State Fault Refusal :=
  let i := seam.val
  let x := s.seam i
  match (x.side side).set with
  | none => .next s
  | some (w, m) =>
    if s.seamState i = 2 && x.trial.isNone then
      if w = width.toNat && m = mask.toNat then .next (s.setSeam i { x with chosen := some (w, m), since := s.now })
      else .next (s.mismatch i)
    else .next s

/-- WIDTH_SET_TIMEOUT (R389): no WIDTH_SET within 100 µs of the end of training. -/
def execWidthSetTimeout (seam : SeamIx) (s : State) : Host.Outcome State Fault Refusal :=
  let i := seam.val
  let x := s.seam i
  if s.seamState i = 2 && x.trial.isNone && x.chosen.isNone && i < 88 && x.since + 100000 ≤ s.now then .next (s.mismatch i)
  else .next s

/-- SEAM_TEST_PATTERN_DONE (R387, R389): the pattern takes 16 µs. -/
def execSeamTestPatternDone (seam : SeamIx) (pass : Bool) (s : State) : Host.Outcome State Fault Refusal :=
  let i := seam.val
  let x := s.seam i
  if s.seamState i = 2 && x.since + 16000 ≤ s.now then
    match x.trial, x.chosen with
    | some j, _ => .next (if pass then s.openSeam i 1 (2 ^ j) else s.mismatch i)
    | none, some (w, m) => .next (if pass then s.openSeam i w m else s.mismatch i)
    | none, none => .next s
  else .next s

/-- SEAM_STATE (R388): a motif receives the width record of one of its seams, its prior mask; the yoke receives a report, the
record in flash. -/
def execSeamState (die : Mesh) (seam : SeamIx) (mask : BitVec 8) (s : State) : Host.Outcome State Fault Refusal :=
  let i := seam.val
  let x := s.seam i
  let m := some mask.toNat
  if die.val = 48 then .next (s.setSeam i { x with record := m })
  else if (seamSides i).1.mesh = die.val then .next (s.setSeam i { x with a := { x.a with prior := m } })
  else if (seamSides i).2.mesh = die.val then .next (s.setSeam i { x with b := { x.b with prior := m } })
  else .next s

/-- SEAM_FAULT (R390): a link goes down, or more than 1,024 flits were resent in a Row; the mainband is held and the domain
reported. How many flits were resent beyond 1,024 is a free value. (DESIGN CHOICE: log entry 128) -/
def execSeamFault (seam : SeamIx) (linkDown : Bool) (s : State) : Host.Outcome State Fault Refusal :=
  let i := seam.val
  let st := s.seamState i
  if st = 3 || st = 4 || st = 5 || s.recovering 3 i then
    let s := if linkDown then s
      else
        let (n, s) := s.takeFree
        s.countSeam i C.SM_CNT_FLIT_RETRY (1025 + (Config.freeWord n).toNat % 2 ^ 20)
    let s := if st = 3 || st = 4 then s.setSeamState i 5 else s
    .next (s.sendFaultRpt 3 i (if linkDown then 0x21 else 0x20))
  else .next s

/-! ### The VSP exchange (R395 to R399) -/

def State.guest (s : State) (g : Nat) : GuestLink := Sparse.get GuestLink.init s.guests g
def State.setGuest (s : State) (g : Nat) (x : GuestLink) : State := { s with guests := Sparse.set GuestLink.init s.guests g x }

/-- The address of word `w` of a guest's capability block. -/
def capAddr (g w : Nat) : Nat := 0x90110 + 0x100 * g + 4 * w

/-- The block as received. (DESIGN CHOICE: log entry 91) -/
def State.capBlock (s : State) (g : Nat) : Nat := packBits ((List.range 28).map fun w => (32 * w, 32, s.reg (capAddr g w)))

/-- A guest is refused (R397). -/
def State.refuseGuest (s : State) (g cause : Nat) : State :=
  (s.setFlds [(F.SM_GUEST_STATE g, 4), (F.SM_GUEST_CAUSE g, cause)]).raise Ev.GUEST_REFUSED { d1 := g }

/-- GUEST_LINK_UP (R397): the exchange begins anew; a part without guests holds blanks there (R3). -/
def execGuestLinkUp (g : Guest) (s : State) : Host.Outcome State Fault Refusal :=
  if !s.mc.fuses.guests then .next s else
  let s := (s.setFlds [(F.SM_GUEST_STATE g, 1), (F.SM_GUEST_CAUSE g, 0), (F.SM_GUEST_ROLES g, 0)]).setGuest g { GuestLink.init with since := s.now }
  .next (if s.seamState (88 + g) = 3 || s.seamState (88 + g) = 4 then s else s.setSeamState (88 + g) 2)

/-- The GUEST section's base for a guest (R497). -/
def guestPat (g : Nat) : Nat := 304 * g

/-- The refusal that R398 asks for, if any: its cause. -/
def State.guestRefusal (s : State) (g b : Nat) : Option Nat :=
  let digest := s.pat 0x0A (guestPat g) 32
  if bits b 7 0 ≠ 1 then some 3
  else if digest ≠ 0 && bits b 639 384 ≠ digest then some 4
  else if bits b 109 104 = 0 || bits b 113 112 = 0 || bits b 99 96 = 0 then some 5
  else if s.pat 0x0A (guestPat g + 36) 2 < bits b 191 176 then some 6
  else none

/-- The largest of 8, 4, 2 and 1 modules within a guest's count. (DESIGN CHOICE: log entry 91) -/
def grantWidth (n : Nat) : Nat := if 8 ≤ n then 8 else if 4 ≤ n then 4 else if 2 ≤ n then 2 else 1

/-- The highest rate index of a mask. -/
def highestRate (r : Nat) : Nat := ((List.range 6).filter fun i => r.testBit i).getLastD 0

/-- The whole block has arrived (R397, R398): it is asked for again, refused, or granted. The CRC of the grant, whose contents
the spec does not set out, is a free value. (DEDUCED: log entry 90) -/
def State.judgeGuest (s : State) (g : Nat) : State :=
  let x := s.guest g
  let b := s.capBlock g
  if crc32c (toBytes 108 b) ≠ bits b 895 864 then
    if x.asked < 3 then (s.setGuest g { x with parts := 0, asked := x.asked + 1 }).sendChain (56 + g) (packBits [(0, 8, 0x60)])
    else s.refuseGuest g 2
  else
    match s.guestRefusal g b with
    | some c => s.refuseGuest g c
    | none =>
      let (n, s) := s.takeFree
      let crc := (Config.freeWord n).toNat % 2 ^ 32
      let roles := bits b 69 64
      let roles := if s.pat 0x0A (guestPat g + 32) 1 % 2 = 1 then roles else setBits roles 1 1 0
      let counts := s.pat 0x0A (guestPat g + 40) 4
      let s := s.setGuest g { x with
        crc := some crc, got := false, since := s.now, width := grantWidth (bits b 99 96), rate := highestRate (bits b 109 104),
        vectors := min (bits b 239 224) (bits counts 27 16), maxOut := min (bits b 175 160) 256 }
      (s.setFld (F.SM_GUEST_ROLES g) roles).sendChain (56 + g) (packBits [(0, 8, 0x61), (224, 32, crc)])

/-- VSP_CAP (R396, R397): a part of the capability block. -/
def execVspCap (g : Guest) (part : BitVec 2) (block : BitVec 224) (s : State) : Host.Outcome State Fault Refusal :=
  let st := s.fld (F.SM_GUEST_STATE g)
  if s.mc.fuses.guests && (st = 1 || st = 2) && (s.guest g).crc.isNone then
    let s := (List.range 7).foldl (fun s w => s.setReg (capAddr g (7 * part.toNat + w)) (bits block.toNat (32 * w + 31) (32 * w))) s
    let x := s.guest g
    let parts := x.parts ||| BitVec.ofNat 4 (2 ^ part.toNat)
    let s := (s.setGuest g { x with parts := parts }).setFld (F.SM_GUEST_STATE g) 2
    .next (if parts = 15 then s.judgeGuest g else s)
  else .next s

/-- VSP_GRANT (R397): the guest has its grant. (DESIGN CHOICE: log entry 91) -/
def execVspGrant (g : Guest) (crc : BitVec 32) (s : State) : Host.Outcome State Fault Refusal :=
  let x := s.guest g
  .next (if x.crc = some crc.toNat then s.setGuest g { x with got := true } else s)

/-- VSP_ACK (R397): the guest's echo of the grant's CRC opens the mainband. (DESIGN CHOICE: log entry 91) -/
def execVspAck (g : Guest) (crc : BitVec 32) (s : State) : Host.Outcome State Fault Refusal :=
  let x := s.guest g
  if s.mc.fuses.guests && x.got && x.crc = some crc.toNat && s.fld (F.SM_GUEST_STATE g) = 2 then
    let i := 88 + g
    let s := ((s.openSeam i x.width (2 ^ x.width - 1)).setSeamFld i 11 9 x.rate).setFld (F.SM_GUEST_STATE g) 3
    .next (s.raise Ev.GUEST_JOINED { d1 := g })
  else .next s

/-- The time of the exchange's present step is over (R397): 100 ms for the block, 10 ms for the echo of the grant. -/
def State.vspLate (s : State) (g : Nat) : Bool :=
  decide ((s.guest g).since + (if (s.guest g).crc.isNone then 100000000 else 10000000) ≤ s.now)

/-- VSP_TIMEOUT (R397). -/
def execVspTimeout (g : Guest) (s : State) : Host.Outcome State Fault Refusal :=
  let st := s.fld (F.SM_GUEST_STATE g)
  .next (if (st = 1 || st = 2) && s.vspLate g then s.refuseGuest g 1 else s)

/-- A guest's request lies wholly in an enabled range that permits it, and passes R38 and R354 (R399).
(DESIGN CHOICE: log entry 93) -/
def State.guestMay (s : State) (g pa n : Nat) (read write : Bool) (sh : Shape) : Bool :=
  ((List.range 16).any fun r =>
    let base := s.fld (F.SM_GACC_BASE g r) * 65536
    s.fld (F.SM_GACC_EN g r) = 1 && decide (base ≤ pa) && decide (pa + n ≤ base + s.fld (F.SM_GACC_SIZE g r) * 65536) &&
    (!read || s.fld (F.SM_GACC_R g r) = 1) && (!write || s.fld (F.SM_GACC_W g r) = 1)) && (s.spanFault pa sh).isNone

/-- A guest's request is refused with status ACCESS. (DESIGN CHOICE: log entry 93) -/
def State.refuseRequest (s : State) (g : Nat) : State :=
  (s.send { kind := .mem, dst := 56 + g, args := [0, St.ACCESS_FAULT], bytes := [] }).bump (C.SM_GUEST_REFUSED g) 1

/-- GUEST_REQUEST (R399): served uncached, refused, or held up by a home. (DESIGN CHOICE: log entry 93) -/
def execGuestRequest (g : Guest) (r : MemReq) (s : State) : Host.Outcome State Fault Refusal :=
  let (pa, n, sh) := memSpan r
  let (rd, wr) := match r with
    | .read _ _ => (true, false)
    | .write _ _ _ => (false, true)
    | .atomic _ _ _ _ => (true, true)
  .next (if !s.guestIn (56 + g) then s
    else if s.guestMay g pa n rd wr sh then s.takeReq ⟨.guest g, memAct r⟩
    else s.refuseRequest g)

end Sys2Proof.Machine
end

