-- ==== Sys2Proof/Machine/MgmtOps.lean ====
section
/-!
DEFINITION. MgmtOps.lean: the mailbox, MCTP and PLDM, flash sessions, and the operations of the mailbox commands
(14_node_cores_and_management.md, 15_patterns_and_profiles.md, 16_cast_on_security_recovery.md).
-/

namespace Sys2Proof.Machine

/-! ### The mailbox (R485 to R487) -/

/-- Change the management controller. -/
def State.onMc (s : State) (f : Mc → Mc) : State := { s with mc := f s.mc }

/-- Which operation codes are commands of the mailbox (R486, R508, R542). (DESIGN CHOICE: log entry 104) -/
def knownOpc (opc : Nat) : Bool := (1 ≤ opc && opc ≤ 3) || (0x10 ≤ opc && opc ≤ 0x16) || (0x20 ≤ opc && opc ≤ 0x2B)

/-- The command is served in the present state (R506, R534, R550). (DESIGN CHOICE: log entry 104) -/
def State.opcServed (s : State) (opc : Nat) : Bool :=
  match s.fld F.MC_STATUS_STATE with
  | 3 =>
    if s.fld F.MC_CASTON_HOLD_CAUSE = 1 then ([0x01, 0x22, 0x23, 0x24, 0x2B] : List Nat).contains opc
    else knownOpc opc && 0x10 ≤ opc
  | 4 => ([0x01, 0x02, 0x20, 0x21, 0x2B] : List Nat).contains opc
  | _ => knownOpc opc

/-- A request's byte, and a little-endian number of it. -/
def Job.byte (j : Job) (i : Nat) : Nat := (j.req.getD i 0).toNat
def Job.num (j : Job) (i n : Nat) : Nat := ofBytes ((List.range n).map fun k => j.req.getD (i + k) 0)

/-- The TYPE of a RESET that is neither of its two values. -/
def Job.badReset (j : Job) : Bool := j.opc = 0x2B && 1 < j.byte 0

/-- Bytes at addresses of four each, from `a` on. (DESIGN CHOICE: log entry 111) -/
def State.setWords (s : State) : Nat → List Byte → State
  | a, b0 :: b1 :: b2 :: b3 :: bs => (s.setReg a (ofBytes [b0, b1, b2, b3])).setWords (a + 4) bs
  | _, [] => s
  | a, bs => s.setReg a (setBits (s.reg a) (8 * bs.length - 1) 0 (ofBytes bs))

/-- The binding of an MCTP channel. (DESIGN CHOICE: log entry 105) -/
def chanBinding : Channel → Nat
  | .bar0 => 0
  | .mctpPcie => 0
  | .mctpMgmt => 1

def bindingNat : Binding → Nat
  | .pcie => 0
  | .mgmt => 1

/-- An MCTP message goes out on a binding. (DESIGN CHOICE: log entry 105) -/
def State.mctp (s : State) (b : Nat) (args : List Nat) (bs : List Byte) : State :=
  s.send { kind := .mctp, dst := b, args := args, bytes := bs }

/-- The command in execution completes with a status and a response (R486). -/
def State.mboxDone (s : State) (ch : Channel) (status : Nat) (rsp : List Byte) : State :=
  let s := s.onMc fun m => { m with jobs := m.jobs.drop 1 }
  let rsp := rsp.take 256
  match ch with
  | .bar0 =>
    let s := (s.setWords 0xF0200 rsp).setFlds [(F.MC_MBOX_STAT_RSP_LEN, rsp.length), (F.MC_MBOX_STAT_STATUS, status),
      (F.MC_MBOX_STAT_DONE, 1), (F.MC_MBOX_STAT_BUSY, 0)]
    if s.fld F.MC_MBOX_CTL_IRQ_EN = 1 then s.notify (s.fld F.MC_MBOX_CTL_VECTOR) else s
  | c => s.mctp (chanBinding c) [0x7E] (BitVec.ofNat 8 status :: toBytes 2 rsp.length ++ rsp)

/-- Commands that no command of the table serves complete with BAD_COMMAND (R486, R506, R534, R542); `k` bounds their number. -/
def State.mboxFlush : Nat → State → State
  | 0, s => s
  | k + 1, s =>
    match s.mc.jobs with
    | [] => s
    | j :: _ =>
      if s.fld F.MC_STATUS_STATE = 0 then s
      else if s.opcServed j.opc && !j.badReset then s
      else (s.mboxDone j.ch St.BAD_COMMAND []).mboxFlush k

/-- A command joins the order of arrival (R485). (DESIGN CHOICE: log entry 104) -/
def State.submit (s : State) (ch : Channel) (opc : Nat) (req : List Byte) : State :=
  (s.onMc fun m => { m with jobs := m.jobs ++ [{ ch := ch, opc := opc, req := req.take 256 }] }).mboxFlush 4

/-- A GO on the BAR0 channel (R486): ignored while BUSY is 1. -/
def State.mboxGo (s : State) : State :=
  if s.fld F.MC_MBOX_STAT_BUSY = 1 then s
  else
    let n := min 256 (s.fld F.MC_MBOX_CTL_REQ_LEN)
    let req := ((List.range 64).flatMap fun i => toBytes 4 (s.reg (0xF0100 + 4 * i))).take n
    (s.setFld F.MC_MBOX_STAT_BUSY 1).submit .bar0 (s.fld F.MC_MBOX_CTL_OPC) req

/-- Execute the command at the head of the order if it is this one; then complete what nothing serves.
(DESIGN CHOICE: log entry 104) -/
def State.runJob (s : State) (ch : Channel) (opc : Nat) (f : Job → State → State) : State :=
  match s.mc.jobs with
  | [] => s
  | j :: _ =>
    if s.fld F.MC_STATUS_STATE ≠ 0 && j.ch = ch && j.opc = opc then
      (if s.opcServed opc then f j s else s.mboxDone ch St.BAD_COMMAND []).mboxFlush 4
    else s

/-- `n` bytes whose values the spec leaves open. -/
def State.freeBytes (s : State) (n : Nat) : List Byte × State :=
  ((List.range n).map fun i => Config.freeByte (s.free + i), { s with free := s.free + n })

/-! ### Information and sensors (R483, R484, R486) -/

/-- GET_INFO's response (R486): ordering code, serial number, firmware version (the image's BUILD_ID) and Pattern slot in use.
(DESIGN CHOICE: log entry 107) -/
def State.info (s : State) (ch : Channel) : State :=
  let f := s.mc.fuses
  s.mboxDone ch St.OK (f.ordering ++ toBytes 8 f.serial ++ toBytes 8 (imgNat s.flash 0 24 8) ++ [BitVec.ofNat 8 (s.fld F.PT_STATUS_SLOT)])

/-- Sensors of R483. -/
def sensorKnown (id : Nat) : Bool := (1 ≤ id && id ≤ 7) || (16 ≤ id && id ≤ 31)

def State.sensor (s : State) (id : Nat) : Option Sensor := Sparse.get none s.mc.sensors id

/-- A sensor's value and operational state (R486): 0 enabled, 2 unavailable. -/
def State.sensorBytes (s : State) (id : Nat) : List Byte × State :=
  match s.sensor id with
  | some x => (toBytes 4 (unsigned 32 x.value) ++ [0], s)
  | none => let (bs, s) := s.freeBytes 4; (bs ++ [2], s)

/-- READ_SENSOR (R486). (DESIGN CHOICE: log entry 107) -/
def State.readSensor (s : State) (ch : Channel) (id : Nat) : State :=
  if sensorKnown id then
    let (bs, s) := s.sensorBytes id
    s.mboxDone ch St.OK bs
  else s.mboxDone ch St.BAD_COMMAND []

/-- READ_TELEMETRY (R486): the last Row's number, the module's energy, and each position's that is not DROPPED.
(DESIGN CHOICE: log entry 107) -/
def State.telemetry (s : State) (ch : Channel) : State :=
  let used := (motifIds.filter fun m => s.pos m ≠ 5).flatMap fun m =>
    toBytes 4 (match Sparse.get none s.rowYoke.reports m with
      | some r => r.used.toNat
      | none => 0)
  s.mboxDone ch St.OK (toBytes 8 ((s.rowYoke.row + 2 ^ 48 - 1) % 2 ^ 48) ++ toBytes 8 s.mc.energy ++ used)

/-- Thresholds of a sensor: low critical, low warning, high warning, high critical (R483).
(DESIGN CHOICE: log entry 107) -/
def State.thresholds (s : State) (id : Nat) : Option Int × Option Int × Option Int × Option Int :=
  let loaded := !s.pattern.isEmpty
  let p := s.fld F.GA_LIMIT_PAT_W
  match id with
  | 1 => (some 40000, some 41000, some 59000, some 60000)
  | 2 => (none, none, some 100000, some 105000)
  | 3 => if loaded then (none, none, some p, some (p * 105 / 100 : Nat)) else (none, none, none, none)
  | 4 => (none, none, some 380, some 400)
  | 5 => if loaded then (none, none, some (s.pat 7 16 2), some (s.pat 7 18 2)) else (none, none, none, none)
  | _ => (none, none, some 95, some 105)

/-- A threshold is crossed upward at its value and downward 2 units below it; a low one the other way round (R484).
(DESIGN CHOICE: log entry 107) -/
def crossedHigh (was : Bool) (v : Int) : Option Int → Bool
  | none => false
  | some t => decide (t ≤ v) || (was && decide (t - 2 < v))

/-- (DESIGN CHOICE: log entry 107) -/
def crossedLow (was : Bool) (v : Int) : Option Int → Bool
  | none => false
  | some t => decide (v ≤ t) || (was && decide (v < t + 2))

/-- One PlatformEventMessage to every binding that has enabled events. -/
def State.sensorEvent (s : State) (id which up : Nat) : State :=
  s.sendAll (s.mc.eventBindings.filterMap fun (b : Nat × Bool) =>
    if b.2 then some { kind := .platformEvent, dst := b.1, args := [0x10000 + id, which, up], bytes := [] } else none)

/-- THERM_ALERT_N: a temperature at or above its warning threshold, or the latched trip (R583). -/
def State.showTherm (s : State) : State :=
  let hot := ([4, 5, 6, 7] ++ (List.range 16).map (16 + ·)).any fun id => match s.sensor id with
    | some x => x.high
    | none => false
  s.setFld F.MC_BOARD_THERM_OUT (flag (hot || s.board.trip))

/-- A snapshot is taken (R483, R484). (DESIGN CHOICE: log entry 107) -/
def State.sampleSensor (s : State) (id : Nat) (v : Int) : State :=
  if !sensorKnown id then s
  else
    let old := (s.sensor id).getD { value := 0, low := false, lowCrit := false, high := false, highCrit := false }
    let (lc, lw, hw, hc) := s.thresholds id
    let new : Sensor := { value := v, low := crossedLow old.low v lw, lowCrit := crossedLow old.lowCrit v lc
                          high := crossedHigh old.high v hw, highCrit := crossedHigh old.highCrit v hc }
    let s := s.onMc fun m => { m with sensors := Sparse.set none m.sensors id (some new) }
    let changes := [(old.low, new.low, 1), (old.lowCrit, new.lowCrit, 2), (old.high, new.high, 3), (old.highCrit, new.highCrit, 4)]
    let s := changes.foldl (fun (s : State) (x : Bool × Bool × Nat) =>
      if x.1 = x.2.1 then s else s.sensorEvent id x.2.2 (flag x.2.1)) s
    s.showTherm

/-! ### Flash sessions (R482, R509 to R513, R535) -/

/-- A flash update is under way (R482). (DEDUCED: log entry 109) -/
def State.updating (s : State) : Bool := s.mc.session.isSome || s.mc.pldm.isSome

/-- Where a session writes, and the room it has: target 0 is the firmware region. -/
def targetBase (t : Nat) : Nat := if t = 0 then 0 else slotBase t
def targetSize (t : Nat) : Nat := if t = 0 then fwSize else slotSize

/-- PT_STATUS.SESSION: a slot write session is open. -/
def State.showSession (s : State) : State :=
  s.setFld F.PT_STATUS_SESSION (match s.mc.session with
    | some x => flag (decide (x.target ≠ 0))
    | none => 0)

def State.setSession (s : State) (x : Option Session) : State := (s.onMc fun m => { m with session := x }).showSession

/-- A session opens and erases its sectors, the header's first (R509). -/
def State.openSession (s : State) (by' : Updater) (target len : Nat) : State :=
  let s := { s with flash := flashErase s.flash (targetBase target) (ceilDiv len 65536 * 65536) }
  s.setSession (some { by' := by', target := target, length := len, next := 0, head := [], last := s.now })

/-- A length that the target takes. -/
def sessionLength (target len : Nat) : Bool := 4096 ≤ len && len ≤ targetSize target

/-- Data of a session: they must continue where the last ones ended, and end within LENGTH (R509). -/
def Session.takes (x : Session) (off n : Nat) : Bool := off = x.next && off + n ≤ x.length

/-- The held bytes are image bytes 0 to 255; every other byte is programmed (R509). -/
def State.sessionData (s : State) (x : Session) (bs : List Byte) : State :=
  let held := bs.take (256 - x.next)
  let rest := bs.drop (256 - x.next)
  let s := { s with flash := flashWrite s.flash (targetBase x.target + x.next + held.length) rest }
  s.setSession (some { x with next := x.next + bs.length, head := x.head ++ held, last := s.now })

/-- A session ends (R509, R535): its image is checked, and the header programmed where it passes; else the stage and the
section type at which it fails. -/
def State.closeSession (s : State) (x : Session) : Option (Nat × Nat) × State :=
  let m := flashWrite s.flash (targetBase x.target) x.head
  let s := s.setSession none
  if x.target = 0 then
    if s.firmwareOk m then (none, { s with flash := m }) else (some (1, 0), s)
  else
    match s.checkImage m x.target with
    | none => (none, { s with flash := m }.showSlot x.target)
    | some (st, ty) => (some (st, ty), (s.reject x.target st ty).showSlot x.target)

/-- A BEGIN command of the mailbox. (DESIGN CHOICE: log entry 108) -/
def State.beginCmd (s : State) (ch : Channel) (target len : Nat) : State :=
  if s.updating then s.mboxDone ch St.BUSY []
  else if !sessionLength target len then s.mboxDone ch St.BAD_COMMAND []
  else (s.openSession (.mailbox ch) target len).mboxDone ch St.OK []

/-- A DATA command of the mailbox: `fw` for the firmware region. (DESIGN CHOICE: log entry 108) -/
def State.dataCmd (s : State) (ch : Channel) (fw : Bool) (off n : Nat) (bs : List Byte) : State :=
  match s.mc.session with
  | none => s.mboxDone ch (if s.updating then St.BUSY else St.BAD_COMMAND) []
  | some x =>
    if x.by' ≠ .mailbox ch then s.mboxDone ch St.BUSY []
    else if decide (x.target = 0) ≠ fw || n = 0 || 248 < n || !x.takes off n then
      (s.setSession (some { x with last := s.now })).mboxDone ch St.BAD_COMMAND []
    else (s.sessionData x bs).mboxDone ch St.OK []

/-- PT_SLOTs after an END. -/
def State.showTarget (s : State) (t : Nat) : State := if t = 0 then s else s.showSlot t

/-- An END command of the mailbox: the session ends whatever the status. (DESIGN CHOICE: log entry 108) -/
def State.endCmd (s : State) (ch : Channel) (target : Nat) : State :=
  match s.mc.session with
  | none => s.mboxDone ch (if s.updating then St.BUSY else St.BAD_COMMAND) []
  | some x =>
    if x.by' ≠ .mailbox ch then s.mboxDone ch St.BUSY []
    else if x.target ≠ target then s.mboxDone ch St.BAD_COMMAND []
    else if x.next < x.length then ((s.setSession none).showTarget target).mboxDone ch St.BAD_COMMAND []
    else
      match s.closeSession x with
      | (none, s) => s.mboxDone ch St.OK []
      | (some (st, ty), s) =>
        if target = 0 then s.mboxDone ch St.FW_INVALID []
        else s.mboxDone ch St.PATTERN_INVALID [BitVec.ofNat 8 st, BitVec.ofNat 8 (if 4 ≤ st then ty else 0)]

/-- A MIN_SVN command's check (R512): not below what stands, not above the highest SVN among valid images. -/
def svnOk (now v : Nat) (svns : List Nat) : Bool := now ≤ v && v ≤ svns.foldl max 0 && !svns.isEmpty

/-- SVNs of the valid slots of a signer. -/
def State.slotSvns (s : State) (signer : Nat) : List Nat :=
  ((List.range 4).filter fun k => s.slotValid k && imgNat s.flash (slotBase k) 32 1 % 2 = signer).map fun k =>
    imgNat s.flash (slotBase k) 20 4

/-! ### Swatch reports and keys (R536 to R542) -/

/-- The greatest index of the identity key and one (R538). -/
def keyEnd : Nat := 33554432

/-- A guest's DIGEST in its capability block (R396). -/
def State.guestDigest (s : State) (g : Nat) : Nat := bits (s.capBlock g) 639 384

/-- The report body (R540). -/
def State.reportBody (s : State) (nonce : List Byte) (q : Nat) : List Byte :=
  let f := s.mc.fuses
  let pats := if s.pattern.isEmpty then 0 else ofBytes (sha256 (signedPart s.pattern 0))
  let owner := match s.mc.ownerKey with
    | some k => ofBytes (sha256 (toBytes 60 k.toNat))
    | none => 0
  toBytes 288 (packBits ([(0, 32, 0x53575056), (32, 8, 1), (64, 256, ofBytes nonce), (320, 26, q), (352, 2, s.fld F.PT_STATUS_SLOT),
    (354, 2, s.fld F.PT_STATUS_SOURCE), (356, 1, s.fld F.PT_STATUS_MEM_KEPT), (357, 1, flag s.mc.ownerKey.isSome),
    (358, 5, s.fld F.PT_HOOKS_HOOKS), (384, 64, s.now), (448, 64, f.serial), (512, 1, flag f.guests), (520, 8, f.stepping),
    (528, 16, f.guestCfg), (544, 32, s.fld F.MC_FW_SVN_SVN), (576, 32, s.mc.fwMinSvn), (608, 32, s.mc.minSvn0),
    (640, 32, s.mc.minSvn1), (672, 32, Config.romVersion.toNat)] ++
    motifIds.map (fun m => (704 + 4 * m, 4, s.pos m)) ++
    [(896, 256, s.mc.fwDigest), (1152, 256, pats), (1408, 256, owner), (1664, 256, s.guestDigest 0), (1920, 256, s.guestDigest 1)]))

/-- Show the signature index. -/
def State.setNextKey (s : State) (q : Nat) : State := s.setFld F.MC_KEY_NEXT q

/-- HIGH is programmed before an index at it is used (R538). (DESIGN CHOICE: log entry 110) -/
def State.reserveKeys (s : State) (q : Nat) : State :=
  if q < s.mc.keyHigh then s
  else
    let high := min keyEnd (s.mc.keyHigh + 1024)
    (s.onMc fun m => { m with keyHigh := high }).setFld F.MC_KEY_HIGH high

/-- GET_SWATCH (R538 to R540). -/
def State.swatch (s : State) (ch : Channel) (nonce : List Byte) : State :=
  let q := s.fld F.MC_KEY_NEXT
  if keyEnd ≤ q then (s.raise Ev.KEY_EXHAUSTED {}).mboxDone ch St.KEY_EXHAUSTED []
  else
    let s := s.reserveKeys q
    let body := s.reportBody nonce q
    let report := body ++ (List.range 3124).map fun i => Config.identitySign q body i
    let s := (s.onMc fun m => { m with report := report }).setNextKey (q + 1)
    let s := if keyEnd - (q + 1) < 1048576 && !s.mc.keyLow then
        (s.onMc fun m => { m with keyLow := true }).raise Ev.KEY_LOW {}
      else s
    s.mboxDone ch St.OK (toBytes 4 report.length ++ toBytes 4 q)

/-- A read of bytes: READ_SWATCH and GET_IDENTITY (R541, R542). (DESIGN CHOICE: log entry 110) -/
def State.readBytes (s : State) (ch : Channel) (bs : List Byte) (off n : Nat) : State :=
  if n = 0 || 248 < n || bs.length ≤ off then s.mboxDone ch St.BAD_COMMAND []
  else s.mboxDone ch St.OK ((bs.drop off).take n)

/-- The identity certificate's region of flash (R531). (DESIGN CHOICE: log entries 23, 24) -/
def State.identity (s : State) : List Byte := flashBytes s.flash 0x1100000 0x10000

/-- KEY_STAGE (R537, R542): bytes run on in the buffer; offset 0 begins anew. (DESIGN CHOICE: log entry 110) -/
def State.stageKey (s : State) (ch : Channel) (off n : Nat) (bs : List Byte) : State :=
  if n = 0 || 248 < n || 4096 < off + n || (off ≠ 0 && off ≠ s.mc.stage.length) then s.mboxDone ch St.BAD_COMMAND []
  else (s.onMc fun m => { m with stage := m.stage.take off ++ bs }).mboxDone ch St.OK []

/-- GET_CHALLENGE (R537): 32 bytes that the spec leaves open. (DESIGN CHOICE: log entry 110) -/
def State.newChallenge (s : State) (ch : Channel) : State :=
  let (bs, s) := s.freeBytes 32
  (s.onMc fun m => { m with challenge := some (ofBytes bs, s.now) }).mboxDone ch St.OK bs

/-- Seconds as ns. -/
def secNs (n : Nat) : Nat := n * 1000000000

/-- A challenge expires 60 s after its issue (R537). -/
def State.expireChallenge (s : State) : State :=
  match s.mc.challenge with
  | some (_, at') => if at' + secNs 60 ≤ s.now then s.onMc fun m => { m with challenge := none } else s
  | none => s

/-- The authorization verifies (R537): the owner key's signature over the challenge, the new key and the serial number. -/
def State.authorized (s : State) (k : BitVec 480) (new : List Byte) (n : Nat) : Bool :=
  match s.mc.challenge with
  | none => false
  | some (c, _) =>
    n ≤ s.mc.stage.length &&
      Config.hssVerify (2 + k.toNat) (toBytes 32 c ++ new ++ toBytes 8 s.mc.fuses.serial) (s.mc.stage.take n)

/-- ENROLL_OWNER_KEY (R537): the challenge serves this once. (DESIGN CHOICE: log entry 110) -/
def State.enroll (s : State) (ch : Channel) (new : List Byte) (n : Nat) : State :=
  if s.updating then s.mboxDone ch St.BUSY []
  else
    let s := s.expireChallenge
    let v := BitVec.ofNat 480 (ofBytes new)
    let spent := fun (s : State) => s.onMc fun m => { m with challenge := none }
    match s.mc.ownerKey with
    | none => (spent (s.onMc fun m => { m with ownerKey := some v })).mboxDone ch St.OK []
    | some k =>
      if s.authorized k new n then
        (spent (s.onMc fun m => { m with ownerKey := if v = 0 then none else some v })).mboxDone ch St.OK []
      else (spent s).mboxDone ch St.AUTH_FAILED []

/-! ### Node cores' release (R526) -/

def State.hart (s : State) (h : Nat) : Hart := Sparse.get Hart.init s.harts h
def State.setHart (s : State) (h : Nat) (x : Hart) : State := { s with harts := Sparse.set Hart.init s.harts h x }

/-- Harts of a mask. -/
def maskHarts (mask : Nat) : List Nat := (List.range 32).filter fun h => mask.testBit h

/-- Harts start in M mode at ENTRY, with a0 the hart's ID and a1 ARG (R526). -/
def State.startHarts (s : State) (mask entry arg : Nat) : State :=
  let s := (maskHarts mask).foldl (fun (s : State) (h : Nat) =>
    { s with resv := s.resv.filter fun r => !(r.motif = 48 && r.slot = h) }.setHart h
      { Hart.init with pc := entry, x := Sparse.set 0 (Sparse.set 0 [] 10 h) 11 arg }) s
  s.setFld F.NC_HART_RUN_RUN (s.fld F.NC_HART_RUN_RUN ||| mask)

/-- At ready, the boot record releases its harts only with EN 1 and memory kept (R526). -/
def State.bootHarts (s : State) : State :=
  let b := s.mc.boot
  if b.en && s.fld F.PT_STATUS_MEM_KEPT = 1 then s.startHarts b.mask b.entry b.arg else s

/-- NC_RELEASE (R526). -/
def State.ncRelease (s : State) (ch : Channel) (mask entry arg : Nat) : State :=
  if s.updating then s.mboxDone ch St.BUSY []
  else if entry % 4 ≠ 0 || s.fld F.HB_SW_TOP_SW_TOP ≤ entry || s.fld F.NC_HART_RUN_RUN &&& mask ≠ 0 then
    s.mboxDone ch St.BAD_COMMAND []
  else
    let s := s.onMc fun m => { m with boot := { en := true, mask := mask, entry := entry, arg := arg } }
    (s.startHarts mask entry arg).mboxDone ch St.OK []

/-! ### MCTP and PLDM (R479 to R482) -/

/-- The field of MC_STATUS with a binding's endpoint ID. -/
def eidFld (b : Nat) : Fld := if b = 0 then F.MC_STATUS_EID_PCIE else F.MC_STATUS_EID_MGMT

/-- A bus owner assigns an endpoint ID (R479); 0 and 255 name no endpoint. (PRESUMED: log entry 106) -/
def State.setEid (s : State) (b eid : Nat) : State :=
  if s.fld F.MC_STATUS_STATE = 0 then s
  else if eid = 0 || eid = 255 then s.mctp b [0, 1] [0x02]
  else (s.setFld (eidFld b) eid).mctp b [0, 1] [0x00, 0x00, BitVec.ofNat 8 eid, 0x00]

/-- A PLDM type is served on a binding (R479, R534, R550). -/
def State.pldmOk (s : State) (b type : Nat) : Bool :=
  s.fld (eidFld b) ≠ 0 && s.fld F.MC_STATUS_STATE ≠ 0 && !(s.fld F.MC_STATUS_STATE = 3 && s.fld F.MC_CASTON_HOLD_CAUSE = 1) &&
    !(s.fld F.MC_STATUS_STATE = 4 && type = 5)

/-- A PLDM response: its type, command, completion code and data. (PRESUMED: log entry 106) -/
def State.pldm (s : State) (b type cmd code : Nat) (bs : List Byte) : State := s.mctp b [1, type, cmd] (BitVec.ofNat 8 code :: bs)

/-- A response whose contents the PLDM standards give, and this spec does not. (PRESUMED: log entry 106) -/
def State.pldmAnswer (s : State) (b type cmd : Nat) : State :=
  if !s.pldmOk b type then s
  else
    let (n, s) := s.takeFree
    let (bs, s) := s.freeBytes ((Config.freeWord n).toNat % 1024)
    s.pldm b type cmd 0 bs

/-- A PLDM Type 2 request (R481, R484): SetEventReceiver enables events, GetSensorReading reads a sensor. -/
def State.pldmSensor (s : State) (b cmd sensor : Nat) : State :=
  if !s.pldmOk b 2 then s
  else if cmd = 0x04 then
    (s.onMc fun m => { m with eventBindings := Sparse.set false m.eventBindings b true }).pldm b 2 cmd 0 []
  else if cmd = 0x11 then
    if sensorKnown sensor then
      let (bs, s) := s.sensorBytes sensor
      s.pldm b 2 cmd 0 bs
    else s.pldm b 2 cmd 0x80 []
  else s.pldmAnswer b 2 cmd

/-- RequestUpdate (R482). (PRESUMED: log entry 106) -/
def State.pldmRequest (s : State) (b : Binding) : State :=
  let k := bindingNat b
  if !s.pldmOk k 5 then s
  else if s.updating then s.pldm k 5 0x10 0x81 []
  else (s.onMc fun m => { m with pldm := some b }).pldm k 5 0x10 0 []

/-- The target of a component identifier (R513, R535). -/
def component (ident : Nat) : Option Nat :=
  if ident = 1 then some 0 else if 0x101 ≤ ident && ident ≤ 0x103 then some (ident - 0x100) else none

/-- UpdateComponent acts as BEGIN (R513, R535). (DESIGN CHOICE: log entry 112) -/
def State.pldmComponent (s : State) (b : Binding) (ident size : Nat) : State :=
  let k := bindingNat b
  if !s.pldmOk k 5 || s.mc.pldm ≠ some b then s
  else
    match component ident with
    | some t =>
      if s.mc.session.isNone && sessionLength t size then (s.openSession (.pldm b) t size).pldm k 5 0x14 0 []
      else s.pldm k 5 0x14 1 []
    | none => s.pldm k 5 0x14 1 []

/-- A RequestFirmwareData transfer acts as DATA; after the last one VerifyComplete reports the check and ApplyComplete follows
the header's programming (R513, R535). (DESIGN CHOICE: log entry 112) -/
def State.pldmData (s : State) (b : Binding) (off : Nat) (bs : List Byte) : State :=
  let k := bindingNat b
  match s.mc.session with
  | none => s
  | some x =>
    if !s.pldmOk k 5 || x.by' ≠ .pldm b || !x.takes off bs.length || bs.isEmpty then s
    else
      let s := s.sessionData x bs
      match s.mc.session with
      | none => s
      | some x =>
        if x.next < x.length then s
        else
          match s.closeSession x with
          | (none, s) => (s.pldm k 5 0x17 0 []).pldm k 5 0x18 0 []
          | (some _, s) => s.pldm k 5 0x17 1 []

/-- ActivateFirmware changes no image; the update is over (R513, R535). (DESIGN CHOICE: log entry 112) -/
def State.pldmActivate (s : State) (b : Binding) : State :=
  let k := bindingNat b
  if !s.pldmOk k 5 || s.mc.pldm ≠ some b then s
  else ((s.onMc fun m => { m with pldm := none }).setSession none).pldm k 5 0x1A 0 []

/-- The FRU record (R6, R481): one general record with the ordering code as part number, the serial number in decimal and the build
date. (PRESUMED: log entry 106) -/
def Fuses.fruRecord (f : Fuses) : List Byte :=
  let serial := decimal 20 f.serial
  let field := fun (t : Nat) (bs : List Byte) => BitVec.ofNat 8 t :: BitVec.ofNat 8 bs.length :: bs
  [0x01, 0x00, 0x01, 0x03, 0x01] ++ field 3 f.ordering ++ field 4 serial ++ field 6 (toBytes 13 f.buildDate.toNat)

/-- A table of FRU records fills whole words, and ends with its check code. (PRESUMED: log entry 106) -/
def padded (bs : List Byte) : List Byte := bs ++ List.replicate ((4 - bs.length % 4) % 4) 0
def fruCheck (bs : List Byte) : List Byte := toBytes 4 (crc32 0xEDB88320 (padded bs))

/-- A PLDM Type 4 request (R6, R481): the record table's figures, and the table in one part.
(PRESUMED: log entry 106) -/
def State.pldmFru (s : State) (k cmd : Nat) : State :=
  let t := s.mc.fuses.fruRecord
  if !s.pldmOk k 4 then s
  else if cmd = 1 then
    s.pldm k 4 cmd 0 ([0x01, 0x00] ++ toBytes 4 (padded t).length ++ toBytes 4 (padded t).length ++ [1, 0, 1, 0] ++ fruCheck t)
  else if cmd = 2 then s.pldm k 4 cmd 0 (toBytes 4 0 ++ [0x05] ++ padded t ++ fruCheck t)
  else s.pldm k 4 cmd 0x05 []

/-- A PLDM request by type and command (R481). (PRESUMED: log entry 106) -/
def State.pldmMessage (s : State) (b : Binding) (type cmd : Nat) (bs : List Byte) : State :=
  let k := bindingNat b
  let num := fun i n => ofBytes ((bs.drop i).take n)
  match type with
  | 0 => s.pldmAnswer k 0 cmd
  | 2 => s.pldmSensor k cmd (num 0 2)
  | 4 => s.pldmFru k cmd
  | 5 =>
    match cmd with
    | 0x10 => s.pldmRequest b
    | 0x14 => s.pldmComponent b (num 2 2) (num 9 4)
    | 0x15 => match s.mc.session with
      | some x => s.pldmData b x.next (bs.drop 1)
      | none => s
    | 0x1A => s.pldmActivate b
    | _ => s
  | _ => s

/-- The channel of a mailbox command that comes in an MCTP message holds no other (R485). -/
def State.mctpJob (s : State) (b : Binding) (bs : List Byte) : State :=
  let ch := match b with
    | .pcie => Channel.mctpPcie
    | .mgmt => Channel.mctpMgmt
  if s.mc.jobs.any fun j => j.ch = ch then s
  else
    let n := min 256 (ofBytes ((bs.drop 1).take 2))
    s.submit ch (bs.getD 0 0).toNat (((bs.drop 3) ++ List.replicate n 0).take n)

end Sys2Proof.Machine
end

