-- ==== Sys2Proof/Machine/TestOps.lean ====
section
/-!
DEFINITION. TestOps.lean: the loop-back control blocks (R555 to R559).
-/

namespace Sys2Proof.Machine

/-- Where a loop-back control block lies (R556). -/
def loopBase : LoopBlock → Nat
  | .px => 0xA0500
  | .fb p => 0xC0200 + 0x40 * p.val
  | .sm i => 0x90800 + 0x40 * i.val
  | .hb k => 0x70100 + 0x40 * k.val

/-- Fields of a block. -/
def Loop.BUSY (b : LoopBlock) : Fld := ⟨loopBase b, 30, 30⟩
def Loop.DONE (b : LoopBlock) : Fld := ⟨loopBase b, 29, 29⟩
def Loop.LOCK (b : LoopBlock) : Fld := ⟨loopBase b, 27, 27⟩
def Loop.PATTERN (b : LoopBlock) : Fld := ⟨loopBase b, 6, 4⟩
def Loop.DEPTH (b : LoopBlock) : Fld := ⟨loopBase b, 2, 0⟩
def Loop.DURATION_MS (b : LoopBlock) : Fld := ⟨loopBase b + 4, 31, 0⟩
def Loop.BITS (b : LoopBlock) : Fld := ⟨loopBase b + 8, 63, 0⟩
def Loop.ERRORS (b : LoopBlock) : Fld := ⟨loopBase b + 0x10, 63, 0⟩
def Loop.LANE_ERR (b : LoopBlock) : Fld := ⟨loopBase b + 0x18, 63, 0⟩

/-- Every block. -/
def loopBlocks : List LoopBlock :=
  [.px] ++ (List.finRange 4).map .fb ++ (List.finRange 90).map .sm ++ (List.finRange 16).map .hb

/-- START is permitted at a depth (R555): the test hold or an isolated seam; a pseudo-channel in TEST. -/
def State.loopAllowed (s : State) (b : LoopBlock) (depth : Nat) : Bool :=
  match b with
  | .px => 1 ≤ depth && depth ≤ 4 && (depth < 4 || s.fld F.PX_STATUS_DL_UP = 1)
  | .fb _ => 1 ≤ depth && depth ≤ 4
  | .sm i => 1 ≤ depth && depth ≤ (if 88 ≤ i.val then 2 else 3) &&
      (s.fld F.MC_TEST_CTL_IN_HOLD = 1 || s.seamState i.val = 6)
  | .hb k => 1 ≤ depth && depth ≤ 3 && s.fld (F.HB_PC_TEST_TEST k.val) ≠ 0 &&
      (List.range 64).all fun p => s.fld (F.HB_TGEN_BUSY k.val p) = 0

/-- The interface carries no other traffic from now on (R558). -/
def State.loopEnter (s : State) (b : LoopBlock) : State :=
  match b with
  | .px => if s.fld (Loop.DEPTH b) < 4 then s.hostReset true else s
  | .fb p =>
    let s := (s.setFld (F.FB_PORT_STATE p.val) 3).showClock
    if s.clockPort.isNone then s.holdover else s
  | _ => s

/-- The interface returns to its normal state (R558, R559). -/
def State.loopLeave (s : State) (b : LoopBlock) : State :=
  match b with
  | .px => if s.fld (Loop.DEPTH b) = 4 then s.hostReset true else s
  | .fb p =>
    let off := s.recovery.portsOff.contains p.val || s.fld (F.FB_PORT_MODE p.val) = 0
    s.setFld (F.FB_PORT_STATE p.val) (if off then 0 else 1)
  | _ => s

/-- A run ends, with DONE set. -/
def State.loopEnd (s : State) (b : LoopBlock) : State :=
  if s.fld (Loop.BUSY b) = 1 then (s.setFlds [(Loop.BUSY b, 0), (Loop.DONE b, 1)]).loopLeave b else s

/-- Every loop-back and generator run stops (R554, R559). -/
def State.stopRuns (s : State) : State :=
  let s := loopBlocks.foldl State.loopEnd s
  (List.range 16).foldl (fun s k => (List.range 64).foldl (fun s p =>
    if s.fld (F.HB_TGEN_BUSY k p) = 1 then s.setFlds [(F.HB_TGEN_BUSY k p, 0), (F.HB_TGEN_DONE k p, 1)] else s) s) s

end Sys2Proof.Machine
end

