-- ==== Sys2Proof/Machine/CastOnOps.lean ====
section
/-!
DEFINITION. CastOnOps.lean: resets, the steps of cast-on, the Pattern load and the end of a re-pattern
(15_patterns_and_profiles.md, 16_cast_on_security_recovery.md).
-/

namespace Sys2Proof.Machine

/-! ### Resets (R527 to R529) -/

/-- Ranges of registers that a warm reset keeps, by window offset: counters with their OVF registers, and MC_FATAL (R528).
(DESIGN CHOICE: log entry 103) -/
def keptYoke : List (Nat × Nat) :=
  [(0x40400, 0x40438), (0x50400, 0x50430), (0x60000, 0x60018), (0x82000, 0x82040), (0x90080, 0x90090), (0xA1000, 0xA1040),
   (0xC0100, 0xC0180), (0xC2000, 0xC2040), (0xD0100, 0xD0128), (0xE1000, 0xE1020), (0xF0440, 0xF0444), (0x110100, 0x110120),
   (0x110200, 0x110268)]
def keptMotif : List (Nat × Nat) :=
  [(0x30400, 0x30478), (0x8100, 0x8130), (0x9100, 0x9138), (0xA100, 0xA148), (0xB100, 0xB150), (0xB200, 0xB238),
   (0xC000, 0xC018), (0xD100, 0xD180), (0xE000, 0xE058)]
def keptStack : List (Nat × Nat) := [(0x400, 0x460), (0x1000, 0x1800), (0x4000, 0x4028)]

def within (rs : List (Nat × Nat)) (o : Nat) : Bool := rs.any fun r => r.1 ≤ o && o < r.2

/-- A register keeps its value across a warm reset (R528). (DESIGN CHOICE: log entry 103) -/
def warmKept (a : Nat) : Bool :=
  if a < 0x1000000 then within keptYoke a
  else if a < 0x2000000 then within keptMotif (a % 0x40000)
  else within keptStack (a % 0x10000)

/-- Cast-on's beginning: the instant that takes the place of 48 V good (R581), after a warm reset or not. -/
def castAt (now : Nat) (warm : Bool) : CastOn := { CastOn.init with at' := now, since := now, warm := warm, discard := !warm }

/-- The records in flash, and what the converter controller and the board keep, outlast every reset (R528, R531).
(DESIGN CHOICE: log entry 118) -/
def State.recordsOnly (s : State) (warm : Bool) : State :=
  let m := s.mc
  { State.reset with
    pending := s.pending, now := s.now, free := s.free, sent := s.sent, flash := s.flash, board := s.board
    hall := { Hall.init with floor := s.hall.floor }
    recovery := { Recovery.init with darns := s.recovery.darns }
    seams := Sparse.mapVals Seam.init (fun x => { Seam.init with record := x.record }) s.seams
    memMap := { MemMap.init with
      outs := s.memMap.outs, repairs := s.memMap.repairs, flashDone := s.memMap.flashDone
      hard := s.memMap.hard, soft := if warm then s.memMap.soft else []
      evac := if s.memMap.flashDone.isSome then s.memMap.evac else none }
    mc := { Mc.init with
      fuses := m.fuses, ownerKey := m.ownerKey, minSvn0 := m.minSvn0, minSvn1 := m.minSvn1, fwMinSvn := m.fwMinSvn
      keyHigh := m.keyHigh, boot := m.boot, cast := castAt s.now warm } }

/-- MC_BOARD's figures that do not depend on the module's state: the guard, the clocks and the contacts. -/
def State.keepBoard (s old : State) : State :=
  let v := old.reg F.MC_BOARD_CLAMP.addr
  (s.setReg F.MC_BOARD_CLAMP.addr (v &&& 0x1C3)).setFlds
    [(F.MC_BOARD_FATAL_OUT, flag s.board.trip), (F.MC_BOARD_THERM_OUT, flag s.board.trip)]

/-- Record a reset (R527). -/
def State.noteReset (s : State) (warm : Bool) (cause : Nat) : State :=
  s.setFlds [(F.MC_RESET_CAUSE_CAUSE, cause), (F.MC_RESET_CAUSE_TYPE, flag warm), (F.MC_CASTON_WARM, flag warm)]

/-- A cold reset (R528). (DESIGN CHOICE: log entry 103) -/
def State.coldReset (s : State) (cause : Nat) : State := ((s.recordsOnly false).keepBoard s).noteReset false cause

/-- A warm reset (R528, R529): stacked memory stays in self-refresh, and what always-on memory holds, the counters and the
RWS fields are kept. (DESIGN CHOICE: log entry 103) -/
def State.warmReset (s : State) (cause : Nat) : State :=
  let t := s.recordsOnly true
  let t := { t with
    regs := s.regs.filter fun x => warmKept x.1
    mem := s.mem, poison := s.poison, flips := s.flips, redirect := s.redirect, salt := s.salt
    ev := { Events.init with seq := s.ev.seq }
    qe := { QEngine.init with lost := s.qe.lost }
    memMap := { t.memMap with aonDone := s.memMap.aonDone }
    mc := { t.mc with mapRecord := s.mc.mapRecord, keyLow := s.mc.keyLow } }
  let t := t.setFld F.MC_TEST_CTL_HOLD (s.fld F.MC_TEST_CTL_HOLD)
  let t := ((t.keepBoard s).noteReset true cause).showLost
  let t := (List.range 16).foldl (fun t k => t.setFld (F.HB_STATUS_SELF_REFRESH k) 1) t
  t.hostReset true

def State.doReset (s : State) (warm : Bool) (cause : Nat) : State := if warm then s.warmReset cause else s.coldReset cause

/-! ### Step 1: boot (R504 to R507, R518) -/


/-- The digest of an image's MAP section (R507). -/
def mapDigest (m : Sparse Byte) : Nat := ofBytes (sha256 (sectionBytes m 0 3))

/-- Positions take their states under an image (R28). -/
def State.resolveAll (s : State) (m : Sparse Byte) : State :=
  motifIds.foldl (fun s n => s.setPos n (s.resolved n (sectionNat m 0 1 n 1))) s

/-- A slot has passed: its source, its positions, whether memory has to be discarded, and the host's fields (R520). -/
def State.takeSlot (s : State) (k source : Nat) : State :=
  let m := s.slotImage k
  let kept := s.mc.cast.warm && s.mc.mapRecord = some (mapDigest m)
  ((s.onMc fun c => { c with cast := { c.cast with slot := some (k, source), discard := !kept } }).resolveAll m).hostPattern

/-- The named slot, or slot 0 in its place, or none (R504 to R506). (DESIGN CHOICE: log entry 112) -/
def State.selectSlot (s : State) : State :=
  let sel := s.fld F.PT_STATUS_SEL
  match s.checkImage s.flash sel with
  | none => s.takeSlot sel 0
  | some (st, ty) =>
    let s := s.reject sel st ty
    if sel = 0 then s
    else match s.checkImage s.flash 0 with
      | none => ((s.setFld F.PT_STICKY_FALLBACK 1).raise Ev.PATTERN_FALLBACK { d1 := sel }).takeSlot 0 2
      | some (st, ty) => s.reject 0 st ty

/-- Fields read from flash at cast-on. (DESIGN CHOICE: log entry 76) -/
def State.flashFields (s : State) : State :=
  let s := s.setFlds [(F.PT_MIN_SVN_MIN_SVN 0, s.mc.minSvn0), (F.PT_MIN_SVN_MIN_SVN 1, s.mc.minSvn1),
    (F.MC_FW_SVN_SVN, imgNat s.flash 0 20 4), (F.MC_FW_MIN_SVN_MIN_SVN, s.mc.fwMinSvn), (F.MC_KEY_HIGH, s.mc.keyHigh),
    (F.MC_KEY_NEXT, s.mc.keyHigh)]
  let s := s.onMc fun c => { c with fwDigest := ofBytes (sha256 (signedPart s.flash 0)) }
  (List.range 4).foldl State.showSlot s

/-- A recovery hold (R506, R534). -/
def State.hold (s : State) (cause : Nat) : State :=
  (s.setFlds [(F.MC_STATUS_STATE, 3), (F.MC_CASTON_HOLD_CAUSE, cause)]).mboxFlush 4

/-- Step 1. -/
def State.castBoot (s : State) (r : CastOnReport) : State :=
  if !r.island then s.nodeFatal 6 0 0
  else
    let s := if s.mc.cast.warm && !r.alwaysOn then
        let at' := s.mc.cast.at'
        let s := s.coldReset 4
        let s := s.onMc fun c => { c with cast := { c.cast with at' := at', begun := true } }
        ((s.setFlds [(F.MC_RESET_CAUSE_AON_LOST, 1), (F.MC_CASTON_STEP, 1), (F.PT_STATUS_SEL, s.fld F.MC_BOARD_SEL_LIVE)])).raise
          Ev.AON_LOST {}
      else s
    if s.firmwareOk s.flash then s.flashFields.selectSlot else s.hold 1

/-! ### Step 2: the chain and the stacks (R518, R522) -/

/-- A stack is neither mapped out nor fenced as a whole. -/
def State.stackUp (s : State) (k : Nat) : Bool := s.fld (F.HB_STATUS_STATE k) ≠ 3 && s.fld (F.HB_STATUS_STATE k) ≠ 4

/-- A map-out is in force without a copy: its redirects, its record and its registers (R332, R339). -/
def State.putOut (s : State) (u : MapOut) : State :=
  let v := { s.newMapOut u.stack u.pc u.base u.blocks with poisoned := false }
  let s := (List.range v.segments).foldl (fun s q => s.redirectSegment v q) s
  { s with memMap := { s.memMap with outs := s.memMap.outs ++ [v] } }.showMapOut v

/-- Memory is discarded: an evacuation's map-out is applied without a copy (R339, R507).
(DESIGN CHOICE: log entry 100) -/
def State.abandonEvac (s : State) : State :=
  match s.memMap.evac with
  | none => s
  | some u =>
    let s := { s with memMap := { s.memMap with evac := none, copied := 0, aonDone := none, flashDone := none } }
    ((s.putOut u).setSwTop.setFld F.HB_EVAC_STATE 0).raise Ev.EVAC_ABANDONED { d1 := 64 * u.stack + u.pc.getD 0 }

/-- A unit fails while memory holds nothing: mapped out without a copy, or fenced beyond the limits of R332. -/
def State.coldOut (s : State) (k : Nat) (pc : Option Nat) : State :=
  match s.nextRegion pc.isNone with
  | none => s.fenceUnit k pc
  | some (base, blocks) =>
    let u := s.newMapOut k pc base blocks
    let s := { s with memMap := { s.memMap with outs := s.memMap.outs ++ [u] } }
    (s.showMapOut u).raise Ev.MAPOUT_DONE { d1 := 64 * k + pc.getD 0 }

/-- A unit fails while memory is kept: fenced, and its map-out follows after ready. -/
def State.warmOut (s : State) (k : Nat) (pc : Option Nat) : State :=
  let id := match pc with
    | some p => 64 * k + p
    | none => 1024 + k
  let s := s.fenceUnit k pc
  s.onMc fun c => { c with cast := { c.cast with after := c.cast.after ++ [(2, id, 0x12)] } }

def State.unitFails (s : State) (k : Nat) (pc : Option Nat) : State :=
  if s.mc.cast.discard then s.coldOut k pc else s.warmOut k pc

/-- Stacks and pseudo-channels that fail (R522); four of one stack fail it whole (R330). A stack whose home is gone is fenced.
(DESIGN CHOICE: log entry 113) -/
def State.stacksFail (s : State) (r : CastOnReport) (gone : List Nat) : State :=
  (List.range 16).foldl (fun s k =>
    let pcs := (r.channels.map (·.toNat)).filter (fun c => c / 64 = k && s.pcWorks k (c % 64))
    if !s.stackUp k then s
    else if gone.contains (homeMotif k) || s.pos (homeMotif k) = 5 then s.fenceStack k
    else if r.stackFails.getLsbD k || 4 ≤ pcs.length then s.unitFails k none
    else pcs.foldl (fun s c => s.unitFails k (some (c % 64))) s) s

/-- Motifs that the chain does not reach (R382, R383). -/
def State.unreached (s : State) : List Nat :=
  let dist := s.chainDist
  motifIds.filter fun m => s.pos m ≠ 5 && (Sparse.get 0 dist m = 0 || 1001 < Sparse.get 0 dist m)

/-- Lanes of a seam's sideband and modules of its mainband that work. -/
def seamReport (r : CastOnReport) (i : Nat) : Nat × Nat :=
  match r.seams.find? fun x => x.1.val = i with
  | some (_, lanes, mods) => (lanes.toNat, mods.toNat)
  | none => (8, 0xFF)

/-- Each die measures its chain latency, where the chain reaches it (R43). -/
def State.measureChain (s : State) : State :=
  let dist := s.chainDist
  motifIds.foldl (fun s m => s.onSched m fun r => { r with latency := Sparse.get 0 dist m - 1 }) s

/-- A seam that is on the module. -/
def State.seamThere (s : State) (i : Nat) : Bool := i < 88 || s.mc.fuses.guests

/-- The bank of a row of the repair list: pseudo-channel and u[7:2]. -/
def rowBank (key : Nat) : Nat := key / 2 ^ 20 * 64 + key % 64

/-- The rows of the repair list are repaired as their stack trains (R329): for good while the stack has hard repair resources for
the row's bank, else by soft repair again, which counts. (DESIGN CHOICE: log entry 140) -/
def State.repairRows (s : State) : State :=
  let rows := s.memMap.repairs.filter fun x => !s.memMap.hard.contains x && s.stackUp (x / 2 ^ 26)
  rows.foldl (fun s x =>
    let used := (s.memMap.hard.filter fun y => rowBank y = rowBank x).length
    if used < Config.hardRepairs (rowBank x) then { s with memMap := { s.memMap with hard := s.memMap.hard ++ [x] } }
    else { s with memMap := { s.memMap with soft := s.memMap.soft ++ [x] } }.bump (C.HB_CNT_SPPR (x / 2 ^ 26)) 1) s

/-- The stacks have trained: at a cold cast-on their rows are repaired, and they are in self-refresh until the next step that uses
them; at a warm one they leave self-refresh (R310, R326, R518). -/
def State.stacksTrained (s : State) : State :=
  let s := if s.mc.cast.warm then s else s.repairRows
  (List.range 16).foldl (fun s k => if s.stackUp k then s.setFld (F.HB_STATUS_SELF_REFRESH k) (flag (!s.mc.cast.warm)) else s) s

/-- Step 2. -/
def State.castChain (s : State) (r : CastOnReport) : State :=
  let s := (List.range 90).foldl (fun s i => s.setSeamFld i 3 0 (if s.seamThere i && !s.darkSeam i then (seamReport r i).1 else 0)) s
  let s := s.measureChain
  let s := s.memMap.outs.foldl State.showMapOut s
  let s := if s.mc.cast.discard then s.abandonEvac else s
  (s.stacksFail r s.unreached).stacksTrained

/-! ### Step 3: self-test and seams (R518, R522) -/

/-- A motif fails during cast-on: darned at once where a SPARE remains, and the record written first (R522). `lost`: out of
the chain's reach. (DESIGN CHOICE: log entry 100) -/
def State.castDarn (s : State) (m cause : Nat) (lost : Bool) : State :=
  let was := s.pos m
  let edge := match stackOf m with
    | some k => s.stackUp k && !lost
    | none => false
  let code := if edge then 3 else 5
  if was = 5 || (was = 3 && code = 3) then s
  else
    let spare := if was = 1 then s.nearestSpare m else none
    let s := { s with recovery := { s.recovery with
      darns := (s.recovery.darns.filter fun (x : Nat × Nat) => x.1 ≠ m && some x.1 ≠ spare) ++ (m, code) :: (spare.map fun x => (x, 1)).toList } }
    let s := s.raise Ev.MOTIF_FAULT { dom := m, kind := 1, d1 := cause }
    let s := s.setPos m code
    match spare with
    | some x => s.setPos x 1
    | none => s

/-- Motifs that fail, SPARE ones first. (DESIGN CHOICE: log entry 100) -/
def State.castDarns (s : State) (fs : List (Nat × Nat)) : State :=
  let (spares, rest) := fs.partition fun x => s.pos x.1 = 2
  (spares ++ rest).foldl (fun s x => s.castDarn x.1 x.2 (decide (x.2 = 4))) s

/-- Failures of motifs: darned, or kept until a Pattern has resolved the positions (R506). -/
def State.motifsFail (s : State) (fs : List (Nat × Nat)) : State :=
  if s.mc.cast.slot.isSome then s.castDarns fs
  else s.onMc fun c => { c with cast := { c.cast with failed := c.cast.failed ++ fs } }

/-- A seam has no width (R389, R392): it is isolated, and the motif behind it fails. -/
def State.castIsolate (s : State) (i : Nat) : State :=
  let s := ((s.setSeamState i 6).setSeamFld i 27 24 0).setSeamFld i 23 16 0
  let s := (s.setFld F.SM_STICKY_ISOLATED 1).raise Ev.SEAM_ISOLATED { d1 := i }
  match behind i with
  | none => s.loseGuest (i - 88)
  | some m => if s.pos m = 1 then s.motifsFail [(m, 4)] else s

/-- A seam's mainband is trained within its width record (R387 to R389). (DESIGN CHOICE: log entry 155) -/
def State.castSeam (s : State) (r : CastOnReport) (i : Nat) : State :=
  let gone := fun (d : Nat) => d < 48 && s.pos d = 5
  if !s.seamThere i || gone (seamSides i).1.mesh || gone (seamSides i).2.mesh || s.seamState i = 6 then s
  else
    match chooseWidth ((seamReport r i).2 &&& (s.seam i).record.getD 0xFF) with
    | some (w, mask) => s.openSeam i w mask
    | none => s.castIsolate i

/-- Step 3; without a Pattern cast-on holds before step 4 (R506). (DESIGN CHOICE: log entry 113) -/
def State.castTest (s : State) (r : CastOnReport) : State :=
  if !r.yoke then s.nodeFatal 6 5 0
  else
    let far := s.unreached
    let bad := (motifIds.filter fun m => r.motifs.getLsbD m && !far.contains m && s.pos m ≠ 3).map fun m => (m, 3)
    let s := s.motifsFail (far.map (fun m => (m, 4)) ++ bad)
    let s := (List.range 90).foldl (fun s i => s.castSeam r i) s
    if s.mc.cast.slot.isNone then (s.raise Ev.PATTERN_NONE {}).hold 2 else s

/-! ### Step 4: the Pattern load (R497, R502, R518) -/

/-- Lanes of a fabric port by MODE (R432). -/
def portLanes (mode : Nat) : Nat := ([0, 8, 4, 4, 2, 2, 1] : List Nat).getD mode 0

/-- One fabric port's mode; a port that has one begins to train. -/
def State.loadPort (s : State) (p : Nat) : State :=
  let mode := bits (s.pat 8 4 2) (4 * p + 3) (4 * p)
  if s.fld (F.FB_PORT_MODE p) = mode && s.fld (F.FB_PORT_STATE p) ≠ 0 then s
  else s.setFlds [(F.FB_PORT_MODE p, mode), (F.FB_PORT_LANES p, portLanes mode), (F.FB_PORT_STATE p, if mode = 0 then 0 else 1)]

/-- One lot entry (R502): PENDING until the first edge. -/
def State.loadLot (s : State) (k : Nat) : State :=
  let e := s.pat 8 (16 + 8 * (k - 1)) 4
  if bits e 31 31 = 1 then
    s.setFlds [(F.FB_LOT_LOT k, bits e 15 0), (F.FB_LOT_ASID k, bits e 27 16), (F.FB_LOT_STATE k, 1), (F.FB_LOT_SINCE k, 0),
      (F.FB_LOT_QUIET k, 0)]
  else s.setFlds [(F.FB_LOT_LOT k, 0), (F.FB_LOT_ASID k, 0), (F.FB_LOT_STATE k, 0)]

/-- Every field whose register shows reset value P (R18, R497). (DESIGN CHOICE: log entries 102, 126) -/
def State.loadFields (s : State) : State :=
  let s := s.setReg 0x20000 (s.pat 6 0 4 &&& 0x13F1FFF)
  let s := (List.range 16).foldl (fun s c => s.setReg (0x20100 + 4 * c) (s.pat 6 (4 + 4 * c) 4 &&& 0x7FF07FF)) s
  let s := s.setFlds [(F.GA_LIMIT_PAT_W, bits (s.pat 7 0 4) 12 0), (F.GA_NONMOTIF_NONMOTIF_W, bits (s.pat 7 4 4) 11 0),
    (F.GA_MOTIF_PWR_P_REF_MW, bits (s.pat 7 8 4) 16 0), (F.GA_MOTIF_PWR_P_MAX_MW, bits (s.pat 7 12 4) 16 0),
    (F.SK_POOL_CFG_POOL_CELLS, bits (s.pat 4 8 4) 22 0), (F.SK_POOL_CFG_LOG2_CELL, bits (s.pat 4 12 1) 4 0),
    (F.SK_POOL_BASE_BASE, bits (s.pat 4 0 8) 47 0), (F.FB_NODE_NODE, s.pat 8 0 2)]
  let s := s.setReg F.FB_VLAN_VID.addr (s.pat 8 8 4 &&& 0xFE000FFF)
  let s := s.setReg F.FB_XPORT_RTO_US.addr (s.pat 8 12 4 &&& 0x7FF)
  let s := (List.range 4).foldl State.loadPort s
  let s := (List.range 63).foldl (fun s i => s.loadLot (i + 1)) s
  let s := (List.range 64).foldl (fun s w =>
    let a := 0x81000 + 32 * w
    ((s.setReg a (s.pat 8 (520 + 16 * w) 4 &&& 0x81FFFFFF)).setReg (a + 4) (s.pat 8 (524 + 16 * w) 4)).setReg (a + 8)
      (bits (s.pat 8 (528 + 16 * w) 8) 47 12 * 4096)) s
  let s := ([0, 1] : List Nat).foldl (fun s g => (List.range 16).foldl (fun s r =>
    let a := 0x90400 + 0x100 * g + 16 * r
    let o := 304 * g + 48 + 16 * r
    (s.setReg a (bits (s.pat 10 o 8) 47 16 * 65536 + bits (s.pat 10 o 8) 2 0)).setReg (a + 8) (bits (s.pat 10 (o + 8) 4) 24 0)) s) s
  let s := if s.fld F.RW_PERIOD_SCALE_EN = 1 then s else
    motifIds.foldl (fun s m => (List.range 16).foldl (fun s c => s.setReg (mAddr m (0x30200 + 4 * c)) 0x1000100) s) s
  s.setFlds [(F.PT_HOOKS_HOOKS, s.pat 11 0 1), (F.PT_QUEUE_LOG2_SQ, Nat.log2 (bits (s.pat 5 0 4) 20 0)),
    (F.PT_QUEUE_LOG2_CQ, Nat.log2 (bits (s.pat 5 4 4) 16 0))]

/-- Map-outs as recorded in flash are in force (R332): redirects are built anew; an evacuation goes on after the last segment
that both records show committed (R339). -/
def State.applyOuts (s : State) : State :=
  let outs := s.memMap.outs
  let s := { s with redirect := [], memMap := { s.memMap with outs := [] } }
  let s := (List.range 16).foldl (fun s k => s.setFld (F.HB_PC_OUT_OUT k) 0) s
  let s := s.setFlds [(F.HB_MAP_STACK_OUT, 0), (F.HB_MAP_STACK, 0), (F.HB_MAP_PC_MAPOUTS, 0)]
  let s := outs.foldl State.putOut s
  match s.memMap.evac with
  | none => s.setSwTop
  | some u =>
    let done := min (s.memMap.aonDone.getD 0) (s.memMap.flashDone.getD 0)
    let s := (List.range done).foldl (fun s q => s.redirectSegment u q) s
    let s := { s with memMap := { s.memMap with copied := done, aonDone := some done, flashDone := some done } }
    ((s.showEvac u 2).setFlds [(F.HB_EVAC_SEG_DONE, done), (F.HB_STATUS_STATE u.stack, 2)]).setFld F.HB_SW_TOP_SW_TOP
      (min s.lowestDonor u.base)


/-- The frames of the Pattern load (R385, R518): PATTERN_DATA, POS_SET, ROUTE_SET and MAP_SET.
(DESIGN CHOICE: log entry 102) -/
def State.patternFrames (s : State) (table : Nat) : List Msg :=
  (((List.range (ceilDiv (imgNat s.pattern 0 8 4) 28)).map fun i =>
      packBits [(0, 8, 0x14), (8, 24, 28 * i)] + imgNat s.pattern 0 (28 * i) 28 * 2 ^ 32) ++
    (motifIds.map fun m => (Change.pos m (s.pos m)).payload 0) ++
    [(Change.route table).payload 0, (Change.map (s.pat 3 0 8) []).payload 0]).zipIdx.map fun (p, i) => s.chainMsg 48 0xFF i p

/-- The Pattern goes to every die over the chain (R34, R385), with the positions, the salt and the route table (R311, R380); each
die has it when the step ends. (DESIGN CHOICE: log entry 102) -/
def State.sendPattern (s : State) (table : Nat) : State :=
  let t : DieTable := { pos := motifIds.map fun m => (m, some (s.pos m)), binds := [], salt := s.pat 3 0 8, coherent := [] }
  { (s.sendAll (s.patternFrames table)) with
    diePattern := s.chainDies.map fun d => (d, s.pattern)
    dieTables := (s.chainDies ++ [48]).map fun d => (d, t)
    salt := s.pat 3 0 8, coherent := []
    routes := blockDies.foldl (fun rs d => Sparse.set 0 rs d table) [] }

/-- The Pattern of a slot is loaded; no matching route table makes the node fatal (R518, R546).
(DESIGN CHOICE: log entry 102) -/
def State.loadPattern (s : State) (slot : Nat) : State :=
  let s := { s with pattern := s.slotImage slot }.loadFields
  let s := { s with sk := { s.sk with fu := s.fld F.SK_POOL_CFG_POOL_CELLS } }
  let s := s.setFlds [(F.PT_STATUS_SLOT, slot), (F.PT_STATUS_STATE, 2)]
  match s.routeTable (s.routeKeys []) with
  | none => s.nodeFatal 4 0 0
  | some t => (s.sendPattern t).applyOuts

/-- The test hold begins (R552, R553). (DESIGN CHOICE: log entry 113) -/
def State.enterHold (s : State) : State :=
  let s := s.onMc fun c => { c with mapRecord := none, cast := { c.cast with discard := true, heldAt := some s.now } }
  let s := (List.range 16).foldl (fun s k =>
    if s.stackUp k then
      s.setFlds [(F.HB_STATUS_STATE k, 5), (F.HB_STATUS_SELF_REFRESH k, 0),
        (F.HB_PC_TEST_TEST k, 2 ^ 64 - 1 - (s.fld (F.HB_PC_OUT_OUT k) ||| s.fld (F.HB_PC_FENCED_FENCED k)))]
    else s) s
  s.setFld F.MC_TEST_CTL_IN_HOLD 1

/-- Step 4: what step 3 could not darn, the load, and the host's fields; the test hold at its end.
(DESIGN CHOICE: log entry 102) -/
def State.castLoad (s : State) : State :=
  match s.mc.cast.slot with
  | none => s
  | some (k, source) =>
    let s := s.castDarns s.mc.cast.failed
    let s := (s.onMc fun c => { c with cast := { c.cast with failed := [] } }).loadPattern k
    let s := s.setFld F.PT_STATUS_SOURCE source
    let s := s.hostPattern.setFlds [(F.MC_STATUS_SMB_ADDR, bits (s.pat 9 24 1) 6 0), (F.MC_STATUS_I3C, bits (s.pat 9 24 1) 7 7)]
    if s.fld F.MC_TEST_CTL_HOLD = 1 && s.hook 0 then s.enterHold else s

/-! ### Steps 5 to 7 (R326, R507, R518, R524 to R526) -/

/-- The initial scrub writes every word (R326), and the map record names the map under which it did (R507). -/
def State.scrub (s : State) : State :=
  let s := s.onMc fun c => { c with mapRecord := none }
  let s := { s with mem := [], poison := [], flips := [] }
  s.onMc fun c => { c with mapRecord := some (mapDigest s.pattern) }

/-- Memory was to be kept and is not. -/
def State.discarded (s : State) : State := (s.setFld F.PT_STICKY_MEM_DISCARDED 1).raise Ev.MEMORY_DISCARDED {}

/-- Stacks enter service. -/
def State.stacksServe (s : State) : State :=
  (List.range 16).foldl (fun s k =>
    let s := s.setFlds [(F.HB_PC_TEST_TEST k, 0), (F.HB_STATUS_SELF_REFRESH k, 0)]
    if s.stackUp k && s.fld (F.HB_STATUS_STATE k) ≠ 2 then s.setFld (F.HB_STATUS_STATE k) 1 else s) s

/-- Step 5. -/
def State.castScrub (s : State) (r : CastOnReport) : State :=
  let c := s.mc.cast
  let s := if c.discard then
      let s := s.abandonEvac.scrub
      if c.warm then s.discarded else s
    else s
  let s := s.setFld F.PT_STATUS_MEM_KEPT (flag (!c.discard))
  (s.stacksFail r []).stacksServe

/-- Resume an evacuation that a warm reset interrupted (R339). (DESIGN CHOICE: log entry 113) -/
def State.resumeEvac (s : State) : State :=
  match s.memMap.evac with
  | none => s
  | some u =>
    let id := match u.pc with
      | some p => 64 * u.stack + p
      | none => 1024 + u.stack
    (s.setRecovery { s.recovery with running := some { kind := 2, id := id, faults := 1, cause := 0x10, granted := true } }).raise
      Ev.EVAC_RESUMED { d1 := 64 * u.stack + u.pc.getD 0 }

/-- Step 7: ready (R518, R525, R526). -/
def State.castReady (s : State) : State :=
  let c := s.mc.cast
  let ms := (s.now - c.at' - c.held) / 1000000
  let s := s.setFlds [(F.MC_CASTON_STEP, 7), (F.MC_STATUS_STATE, 2), (F.MC_BOARD_READY_OUT, 1), (F.MC_CASTON_ELAPSED_MS, min 65535 ms)]
  let s := s.resumeEvac.bootHarts
  let s := c.after.foldl (fun (s : State) (x : Nat × Nat × Nat) => s.faultArrive x.1 x.2.1 x.2.2) s
  let s := s.onMc fun m => { m with cast := { m.cast with after := [] } }
  (s.raise Ev.CAST_ON_DONE {}).mboxFlush 4

/-- Rows run on free-running module time (R44, R524). -/
def State.unaligned (s : State) : State :=
  let s := s.setFlds [(F.RW_STATUS_ALIGNED, 0), (F.RW_STATUS_HOLDOVER, 0)]
  { s with rowYoke := { s.rowYoke with openAll := true } }.raise Ev.ROW_UNALIGNED {}

/-- No fabric port has a mode (R524). -/
def State.noPorts (s : State) : Bool := (List.range 4).all fun p => s.fld (F.FB_PORT_MODE p) = 0

/-- Step 6 is skipped where every fabric port has MODE 0; else it waits for lock. -/
def State.castAlign (s : State) : State := if s.noPorts then s.unaligned.castReady else s

/-- Cast-on still runs: neither held, nor fatal, nor in the test hold. -/
def State.casting (s : State) : Bool := s.fld F.MC_STATUS_STATE ≤ 1 && s.fld F.MC_TEST_CTL_IN_HOLD = 0

/-- One step. -/
def State.castStep (s : State) (r : CastOnReport) (k : Nat) : State :=
  match k with
  | 1 => s.castBoot r
  | 2 => s.castChain r
  | 3 => s.castTest r
  | 4 => s.castLoad
  | 5 => s.castScrub r
  | _ => s.castAlign

/-- The step in progress, and the controller's state: CAST_ON from the end of step 1 on. -/
def State.showStep (s : State) (k : Nat) : State :=
  let s := s.onMc fun c => { c with cast := { c.cast with since := s.now } }
  s.setFlds [(F.MC_CASTON_STEP, k), (F.MC_STATUS_STATE, if k = 1 then 0 else 1)]

/-- Steps in order, until one is late, or cast-on holds (R518, R519). (DESIGN CHOICE: log entry 113) -/
def State.castSteps (r : CastOnReport) : List Nat → State → State
  | [], s => s
  | k :: ks, s =>
    if !s.casting then s
    else if r.late.map (·.toNat) = some k && k ≤ 5 then s.showStep k
    else State.castSteps r ks ((s.showStep k).castStep r k)

/-- A report in which nothing fails. -/
def goodReport : CastOnReport :=
  { island := true, alwaysOn := true, yoke := true, motifs := 0, stackFails := 0, channels := [], seams := [], late := none }

/-- The budget of a step, ns (R518). -/
def stepBudget (k : Nat) : Nat := ([0, 600, 1200, 900, 300, 50, 1500] : List Nat).getD k 0 * 1000000

/-! ### Re-pattern (R514 to R516) -/

/-- The conditions of R514. (DESIGN CHOICE: log entry 108) -/
def State.repatternOk (s : State) : Bool :=
  (s.qe.queues.all fun (x : Nat × Queue) => x.1 = 0 || x.2.state = .disabled) &&
    (s.sk.streams.all fun (x : Nat × Stream) => x.2.st ≠ .opened && x.2.st ≠ .broken) &&
    ((List.range 63).all fun i => s.fld (F.FB_LOT_STATE (i + 1)) = 0) && s.fld F.HB_EVAC_STATE = 0 &&
    s.recovery.running.isNone && s.recovery.pending.isEmpty && s.mc.session.isNone && s.fld F.TU_STATUS_OUTSTANDING = 0

/-- Step 4: the node cores are held in reset, the engines stop and the caches are written back and emptied. -/
def State.stopAll (s : State) : State :=
  let s := { s.stopRuns with harts := [] }.setFld F.NC_HART_RUN_RUN 0
  let s := motifIds.foldl State.stopEngines s
  let s := (List.range 16).foldl (fun s k => (s.home k).buffer.foldl (fun s x => s.flushBuffer x.1) s) s
  (List.range 64).foldl State.drainCache s

/-- What a re-pattern leaves of a row scheduler: its Row, its edges and its thermal hold (R83, R516). -/
def RowSched.afterRepattern (r : RowSched) : RowSched :=
  { RowSched.init with
    row := r.row, edgeAt := r.edgeAt, stepped := r.stepped, latency := r.latency, placed := r.placed, heard := r.heard
    stepAt := r.stepAt, thermalHold := r.thermalHold, tjMax := r.tjMax, minStep := r.minStep }

/-- Step 5: structure state is discarded; queue 0 and ring 0 keep theirs (R516). -/
def State.dropStructure (s : State) : State :=
  { s with
    qe := { s.qe with queues := s.qe.queues.filter (fun (x : Nat × Queue) => x.1 = 0), rings := s.qe.rings.filter (fun (x : Nat × CRing) => x.1 = 0)
                      transit := [], copies := [], mover := none }
    sk := SkEngine.init, locals := [], arrays := [], vecs := [], needles := [], resv := [], agents := [], homes := []
    scheds := Sparse.mapVals RowSched.init RowSched.afterRepattern s.scheds
    uncached := [], net := Net.init, fabric := Fabric.init,
    stackCtl := Sparse.mapVals StackCtl.init (fun c => { c with chans := [], ingress := [] }) s.stackCtl
    diePattern := [], dieTables := []
    tu := { Tu.init with gens := s.tu.gens, log2 := s.tu.log2, loc := s.tu.loc, base := s.tu.base, reqs := s.tu.reqs }
    rowYoke := { s.rowYoke with changes := [], issued := [], budgets := [], reports := [], openAll := false } }

/-- A new DOMAIN or DELAY forces relock (R457, R516). (DESIGN CHOICE: log entry 114) -/
def State.relock (s : State) (old : Nat) : State :=
  if s.pat 8 12 4 &&& 0xFF0800 = old &&& 0xFF0800 then s else s.holdover

/-- Step 8: the node cores are released, and REPATTERN completes. -/
def State.repatternEnd (s : State) : State :=
  let s := s.fetchAgain
  let s := (s.setFlds [(F.PT_STATUS_STATE, 2), (F.PT_STATUS_SOURCE, 1)]).bootHarts
  let s := s.raise Ev.REPATTERN_DONE { d1 := s.fld F.PT_STATUS_SLOT }
  match s.mc.jobs with
  | j :: _ =>
    (s.mboxDone j.ch St.OK [BitVec.ofNat 8 (s.fld F.PT_STATUS_SLOT), BitVec.ofNat 8 (s.fld F.PT_STATUS_MEM_KEPT)]).mboxFlush 4
  | [] => s

/-- Steps 4 to 7 for a slot that has passed (R515): the edge after step 6 follows, or free-running Rows at once.
(DESIGN CHOICE: log entry 114) -/
def State.repatternRun (s : State) (slot : Nat) : State :=
  let old := s.pat 8 12 4
  let s := (s.setFld F.PT_STATUS_STATE 3).stopAll.dropStructure
  let kept := s.mc.mapRecord = some (mapDigest (s.slotImage slot))
  let s := s.onMc fun c => { c with cast := { c.cast with discard := !kept, since := s.now } }
  let s := (s.resolveAll (s.slotImage slot)).loadPattern slot
  if s.isFatal then s
  else
    let s := (if kept then s else s.scrub).setFld F.PT_STATUS_MEM_KEPT (flag kept)
    let s := (s.relock old).setFld F.PT_STATUS_STATE 3
    let s := { s with qe := { s.qe with pausedTo := s.now + stepBudget 6 } }
    if s.noPorts then s.unaligned.repatternEnd else s

/-- REPATTERN (R514, R515); in the Pattern hold it continues cast-on from step 4 (R506).
(DESIGN CHOICE: log entry 114) -/
def State.repattern (s : State) (ch : Channel) (slot : Nat) : State :=
  let refused := fun (s : State) => s.setFld F.PT_STICKY_REFUSED 1
  if 3 < slot then s.mboxDone ch St.BAD_COMMAND []
  else if s.fld F.PT_STATUS_STATE = 3 then s
  else if !s.repatternOk || s.fld F.MC_STATUS_STATE ≤ 1 then (refused s).mboxDone ch St.BUSY []
  else
    match s.checkImage s.flash slot with
    | some (st, ty) => ((refused s).reject slot st ty).mboxDone ch St.PATTERN_INVALID []
    | none =>
      if s.fld F.MC_STATUS_STATE = 3 then
        let s := s.setFlds [(F.MC_CASTON_HOLD_CAUSE, 0), (F.MC_STATUS_STATE, 1)]
        let s := State.castSteps goodReport [4, 5] (s.takeSlot slot 1)
        let s := s.mboxDone ch St.OK [BitVec.ofNat 8 slot, BitVec.ofNat 8 (s.fld F.PT_STATUS_MEM_KEPT)]
        State.castSteps goodReport [6] s
      else s.repatternRun slot

/-- After an edge at which hall time is locked, step 6 of cast-on or step 7 of a re-pattern is over.
(DESIGN CHOICE: log entry 114) -/
def State.aligned (s : State) : State :=
  if s.fld F.TS_STATUS_LOCKED = 0 then s
  else if s.fld F.MC_STATUS_STATE = 1 && s.fld F.MC_CASTON_STEP = 6 then s.castReady
  else if s.fld F.PT_STATUS_STATE = 3 then s.repatternEnd
  else s

end Sys2Proof.Machine
end

