-- ==== Sys2Proof/Machine/CastOn.lean ====
section
/-!
DEFINITION. CastOn.lean: the commands of cast-on, of the reset contacts and of the 48 V input
(16_cast_on_security_recovery.md, R577, R580, R581, R584).
-/

namespace Sys2Proof.Machine

/-- Change cast-on. -/
def State.onCast (s : State) (f : CastOn → CastOn) : State := s.onMc fun m => { m with cast := f m.cast }

/-- Change the board's side. -/
def State.onBoard (s : State) (f : Board → Board) : State := { s with board := f s.board }

/-- The module is held neither by its supply nor by a reset contact. -/
def State.unheld (s : State) : Bool := s.board.good && !s.board.trip && !s.board.cold && !s.board.warm

/-- MC_LEAVE_RESET (R504, R518, R581): 1 ms after the instant that cast-on counts from, the contacts are sampled and cast-on
runs with what it meets. -/
def execMcLeaveReset (sel : BitVec 2) (r : CastOnReport) (s : State) : Host.Outcome State Fault Refusal :=
  if s.unheld && !s.mc.cast.begun && s.mc.cast.at' + 1000000 ≤ s.now then
    let s := s.onCast fun c => { c with begun := true }
    let s := s.setFlds [(F.PT_STATUS_SEL, sel.toNat), (F.MC_BOARD_SEL_LIVE, sel.toNat)]
    .next (State.castSteps r [1, 2, 3, 4, 5, 6] s)
  else .next s

/-- STEP_BUDGET_EXPIRY (R519): what has not finished counts as failed, as the report says, and the step ends. -/
def execStepBudgetExpiry (r : CastOnReport) (s : State) : Host.Outcome State Fault Refusal :=
  let k := s.fld F.MC_CASTON_STEP
  if s.mc.cast.begun && s.casting && 1 ≤ k && k ≤ 5 && s.mc.cast.since + stepBudget k ≤ s.now then
    let late := if r.late.map (·.toNat) = some k then none else r.late
    .next (State.castSteps { r with late := late } (([1, 2, 3, 4, 5, 6] : List Nat).filter fun j => k ≤ j) s)
  else .next s

/-- LOCK_TIMEOUT (R524, R515): ready, or the end of a re-pattern, on free-running Rows. -/
def execLockTimeout (s : State) : Host.Outcome State Fault Refusal :=
  if s.now < s.mc.cast.since + stepBudget 6 then .next s
  else if s.fld F.MC_STATUS_STATE = 1 && s.fld F.MC_CASTON_STEP = 6 then .next s.unaligned.castReady
  else if s.fld F.PT_STATUS_STATE = 3 then .next s.unaligned.repatternEnd
  else .next s

/-- WATCHDOG (R530). (DESIGN CHOICE: log entry 155) -/
def execWatchdog (s : State) : Host.Outcome State Fault Refusal :=
  if s.unheld && s.mc.cast.begun then .next (s.warmReset 7) else .next s

/-- COLD_RST_N (R580, R581): its level asserted or released. -/
def execColdRstN (level : Bool) (s : State) : Host.Outcome State Fault Refusal :=
  let t := s.onBoard fun b => { b with cold := level }
  if !s.board.good || s.board.trip || level = s.board.cold then .next t
  else if level then .next (t.coldReset 2)
  else .next (t.onCast fun _ => castAt s.now false)

/-- WARM_RST_N (R529, R580, R581): no reset of its own while COLD_RST_N is asserted. -/
def execWarmRstN (level : Bool) (s : State) : Host.Outcome State Fault Refusal :=
  let t := s.onBoard fun b => { b with warm := level }
  if !s.board.good || s.board.trip || level = s.board.warm then .next t
  else if level then .next (if s.board.cold then t else t.warmReset 5)
  else .next (t.onCast fun c => castAt s.now c.warm)

/-- POWER_GOOD (R577). (DESIGN CHOICE: log entry 115) -/
def execPowerGood (s : State) : Host.Outcome State Fault Refusal :=
  if s.board.good || s.board.trip then .next s
  else
    let s := s.onBoard fun b => { b with good := true, goodAt := s.now }
    .next (s.onCast fun _ => castAt s.now false)

/-- What the supply's loss leaves of the board's side: the TAP, the guard and the clocks' figures stop. -/
def State.railsOff (s : State) : State :=
  (s.onBoard fun b => { b with
    good := false, samples := [], below := none, clampRow := none, tap := .idcode, cells := 0, driven := false, floating := false }).setFlds
    [(F.MC_BOARD_CLAMP, 0), (F.MC_BOARD_TREF_OK, 0), (F.MC_BOARD_OCXO_WARM, 0)]

/-- POWER_FAIL (R577). (DESIGN CHOICE: log entry 115) -/
def execPowerFail (s : State) : Host.Outcome State Fault Refusal :=
  if s.board.good then .next (s.railsOff.coldReset 1) else .next s

/-- THERMAL_TRIP (R584): the rails turn off, the trip latches and both alert contacts stay asserted.
(DESIGN CHOICE: log entry 115) -/
def execThermalTrip (s : State) : Host.Outcome State Fault Refusal :=
  if s.board.good && !s.board.trip then .next ((s.railsOff.onBoard fun b => { b with trip := true }).coldReset 0) else .next s

/-- TRIP_CLEAR (R584): both blades are below 36 V; the next power-up is a cold reset of cause 0. -/
def execTripClear (s : State) : Host.Outcome State Fault Refusal :=
  if s.board.trip then
    .next ((s.onBoard fun b => { b with trip := false }).setFlds [(F.MC_BOARD_FATAL_OUT, 0), (F.MC_BOARD_THERM_OUT, 0)])
  else .next s

/-- A RESET command's reset, 1 ms after it was accepted (R542). (DESIGN CHOICE: log entry 111) -/
def State.dueReset (s : State) : State :=
  match s.mc.resetAt with
  | some (t, warm) => if t ≤ s.now then s.doReset warm (if warm then 6 else 3) else s
  | none => s

end Sys2Proof.Machine
end

