-- ==== Sys2Proof/Machine/Board.lean ====
section
/-!
DEFINITION. Board.lean: the current guard, the clocks' sources and the TAP's instructions (R563 to R565, R578, R586).
-/

namespace Sys2Proof.Machine

/-- The guard holds compute fclk of every ENABLED motif at step 18 (R578). (DESIGN CHOICE: log entry 115) -/
def State.holdClocks (s : State) : State :=
  let s := (motifIds.filter fun m => s.pos m = 1).foldl (fun s m => (s.setFld (F.GA_MCLOCK_STEP m) 18).noteBackstop m) s
  if s.board.clampRow = some s.rowYoke.row then s
  else (s.onBoard fun b => { b with clampRow := some s.rowYoke.row }).raise Ev.CURRENT_CLAMP {}

/-- CURRENT_GUARD_SAMPLE (R578): the mean of the last ten samples holds above 104 A, and releases after 10 µs below 98 A.
(DESIGN CHOICE: log entry 115) -/
def execCurrentGuardSample (ma : BitVec 18) (s : State) : Host.Outcome State Fault Refusal :=
  if !s.board.good then .next s
  else
    let xs := (ma.toNat :: s.board.samples).take 10
    let full := decide (xs.length = 10)
    let sum := xs.sum
    let below := if full && sum < 980000 then some (s.board.below.getD s.now) else none
    let long := match below with
      | some t => decide (t + 10000 ≤ s.now)
      | none => false
    let clamp := (full && decide (1040000 < sum)) || (s.rowYoke.clamp && !long)
    let s := s.onBoard fun b => { b with samples := xs, below := below }
    let s := { s with rowYoke := { s.rowYoke with clamp := clamp } }.setFld F.MC_BOARD_CLAMP (flag clamp)
    .next (if clamp then s.holdClocks else s)

/-- TREF_LOST (R586): the source passes to the OCXO. -/
def execTrefLost (s : State) : Host.Outcome State Fault Refusal :=
  if s.fld F.MC_BOARD_TREF_OK = 1 then .next ((s.setFld F.MC_BOARD_TREF_OK 0).raise Ev.TREF_LOST {}) else .next s

/-- TREF_IN_USE (R586). -/
def execTrefInUse (s : State) : Host.Outcome State Fault Refusal :=
  if s.board.good then .next (s.setFld F.MC_BOARD_TREF_OK 1) else .next s

/-- OCXO_WARM (R586): 300 s after 48 V good. -/
def execOcxoWarm (s : State) : Host.Outcome State Fault Refusal :=
  if s.board.good && s.board.goodAt + secNs 300 ≤ s.now then .next (s.setFld F.MC_BOARD_OCXO_WARM 1) else .next s

/-- Boundary scan's coverage of a group (R566). (DESIGN CHOICE: log entry 116) -/
def ContactGroup.coverage : ContactGroup → Coverage
  | .pcieTx | .pcieRx | .fabricTx | .fabricRx => .ac
  | .management | .alerts => .dc
  | .refClock | .patternSel | .pps | .coldRst => .observe
  | .pcieSideband | .warmRst | .jtag | .power | .ground | .reserved => .none

/-- The module can drive a group's contacts (R571). -/
def ContactGroup.drives : ContactGroup → Bool
  | .pcieTx | .fabricTx | .management | .alerts => true
  | _ => false

/-- The value of a contact's boundary cell; the BSDL file numbers the cells (R563). (DESIGN CHOICE: log entry 116) -/
def Board.cellAt (b : Board) (c : Contact) : Bool := b.cells.getLsbD (Config.boundaryCell c.group.ctorIdx c.num)

/-- What the module does at a contact under the TAP's instruction: only a contact that has a cell and that the module drives
obeys it, while WARM_RST_N is asserted, and the test signals are for the AC-coupled lanes (R563, R565, R566). -/
def Board.pad (b : Board) (c : Contact) : Pad :=
  if !b.warm || c.group.coverage = .none || c.group.coverage = .observe || !c.group.drives then .own
  else if b.floating then .floats
  else if !b.driven then .own
  else if c.group.coverage = .ac && (b.tap = .extestPulse || b.tap = .extestTrain) then .pulse (b.cellAt c)
  else .cell (b.cellAt c)

/-- An instruction enters the TAP, which works from 48 V good (R563); the contacts are driven from the boundary register, float,
or are the module's own. (DESIGN CHOICE: log entry 116) -/
def State.tapLoad (s : State) (i : TapInstr) (driven floating : Bool) : State :=
  if s.board.good then s.onBoard fun b => { b with tap := i, driven := driven, floating := floating } else s

/-- A boundary-scan instruction acts as BYPASS unless WARM_RST_N is asserted (R563). (DESIGN CHOICE: log entry 116) -/
def State.tapScan (s : State) (i : TapInstr) (driven floating : Bool) : State :=
  if s.board.warm then s.tapLoad i driven floating else s.tapLoad .bypass false false

/-- TAP_RESET (R563): the standard's reset selects IDCODE. (DESIGN CHOICE: log entry 116) -/
def execTapReset (s : State) : Host.Outcome State Fault Refusal := .next (s.tapLoad .idcode false false)

/-- BYPASS (R565). -/
def execBypass (s : State) : Host.Outcome State Fault Refusal := .next (s.tapLoad .bypass false false)

/-- The IDCODE register (R564): 1, the manufacturer code, the part and the version. (DESIGN CHOICE: log entry 24) -/
def idcodeWord : Nat := packBits [(0, 1, 1), (1, 11, Config.jep106.toNat), (12, 16, 0x4816), (28, 4, 1)]

/-- IDCODE (R564): the instruction enters, and the register is read. -/
def execIdcode (s : State) : Host.Outcome State Fault Refusal :=
  .next (if s.board.good then
      (s.tapLoad .idcode false false).send { kind := .readData, dst := 2, args := [idcodeWord], bytes := [] }
    else s)

/-- SAMPLE_PRELOAD (R565): the boundary register takes what it samples or what is shifted in. -/
def execSamplePreload (cells : BitVec 1872) (s : State) : Host.Outcome State Fault Refusal :=
  .next (if s.board.good then (s.tapLoad .samplePreload false false).onBoard fun b => { b with cells := cells } else s)

/-- EXTEST (R565). (DESIGN CHOICE: log entry 116) -/
def execExtest (s : State) : Host.Outcome State Fault Refusal := .next (s.tapScan .extest true false)

/-- CLAMP (R565). -/
def execClamp (s : State) : Host.Outcome State Fault Refusal := .next (s.tapScan .clamp true false)

/-- HIGHZ (R565). -/
def execHighz (s : State) : Host.Outcome State Fault Refusal := .next (s.tapScan .highz false true)

/-- EXTEST_PULSE (R565). -/
def execExtestPulse (s : State) : Host.Outcome State Fault Refusal := .next (s.tapScan .extestPulse true false)

/-- EXTEST_TRAIN (R565). -/
def execExtestTrain (s : State) : Host.Outcome State Fault Refusal := .next (s.tapScan .extestTrain true false)

/-- DEBUG (R565): BYPASS while its hook is closed. (DESIGN CHOICE: log entry 116) -/
def execDebug (s : State) : Host.Outcome State Fault Refusal :=
  .next (if s.hook 3 then s.tapLoad .debug false false else s.tapLoad .bypass false false)

end Sys2Proof.Machine
end

