-- ==== Sys2Proof/Machine/Fabric.lean ====
section
/-!
DEFINITION. Fabric.lean: the commands of the fabric ports and of hall time (13_fabric_and_hall.md).
-/

namespace Sys2Proof.Machine

/-- REMOTE_REQUEST (R445, R446, R453): an access whose asker waits for it goes out under its lot; without an ACTIVE entry for
its ASID it is refused at once; without a free TAG or room in its flow it waits. -/
def execRemoteRequest (r : RemoteReq) (s : State) : Host.Outcome State Fault Refusal :=
  let here := s.tu.wants.filter fun x => x.1 = r.ask && x.2.2 = r.req
  match here.find? fun x => (s.flights x.1 x.2.1 x.2.2).length < (here.filter (· = x)).length with
  | none => .next s
  | some x =>
    match s.lotOf (r.ask / 65536 % 4096) with
    | none => .next (s.remoteRefused x.1 x.2.1 x.2.2)
    | some lot =>
      let node := reqAddr r.req / 2 ^ 48
      let frames := reqFrames r.req
      if s.fabric.out.length + frames.length ≤ 4096 && s.flowRoom (flowKey node lot) frames.length then
        let (uid, s) := s.takeFree
        .next (State.launchFrames x.1 x.2.1 x.2.2 node lot uid frames s)
      else .next s

/-- A delivered request is served, or waits while a home or its own response's flow would hold it up.
(DESIGN CHOICE: log entry 83) -/
def State.serveRead (f : Frame) (s : State) : Option State :=
  let h := f.header.toNat
  let src := hf h 63 48
  let lot := hf h 31 16
  let tag := hf h 143 128
  let n := hf h 156 144
  if !s.flowRoom (flowKey src lot) 1 then none
  else
    match s.inbound src lot (hf h 207 160) n (.plain n) true false with
    | none => some (s.respond src lot Fr.READ_RSP tag false [] none)
    | some pa =>
      if s.physBusy pa n then none
      else
        let (bs, ps, s) := s.physRead pa n
        some ((s.consume 48 ps).respond src lot Fr.READ_RSP tag true bs (payloadMask pa n ps))

/-- FABRIC_READ (R447, R450). -/
def execFabricRead (f : Frame) (s : State) : Host.Outcome State Fault Refusal :=
  .next (s.receive Fr.READ f (State.serveRead f))

/-- FABRIC_READ_RSP (R448, R450). -/
def execFabricReadRsp (f : Frame) (s : State) : Host.Outcome State Fault Refusal :=
  .next (s.receive Fr.READ_RSP f fun s => s.takeResponse f)

/-- A delivered WRITE. (DESIGN CHOICE: log entry 83) -/
def State.serveWrite (f : Frame) (s : State) : Option State :=
  let h := f.header.toNat
  let src := hf h 63 48
  let lot := hf h 31 16
  let tag := hf h 143 128
  let n := f.payload.length
  if !s.flowRoom (flowKey src lot) 1 then none
  else
    match s.inbound src lot (hf h 207 160) n (.plain n) false true with
    | none => some (s.respond src lot Fr.WRITE_RSP tag false [] none)
    | some pa =>
      if s.physBusy pa n then none
      else
        let words := (List.range (ceilDiv n 8)).filter fun i => (ofBytes f.mask).testBit i
        let s := s.physWrite pa (f.payload.map some) (words.map fun i => (plainPa pa + 8 * i) / 8)
        some (s.respond src lot Fr.WRITE_RSP tag true [] none)

/-- FABRIC_WRITE (R447, R450). -/
def execFabricWrite (f : Frame) (s : State) : Host.Outcome State Fault Refusal :=
  .next (s.receive Fr.WRITE f (State.serveWrite f))

/-- FABRIC_WRITE_RSP (R448). -/
def execFabricWriteRsp (f : Frame) (s : State) : Host.Outcome State Fault Refusal :=
  .next (s.receive Fr.WRITE_RSP f fun s => s.takeResponse f)

/-- A delivered ATOMIC: its records in ascending thread number, each with its old value (R449, R212 to R214).
(DEDUCED: log entry 84) -/
def State.serveAtomic (f : Frame) (s : State) : Option State :=
  let h := f.header.toNat
  let src := hf h 63 48
  let lot := hf h 31 16
  let tag := hf h 143 128
  let wide := hf h 223 223 = 1
  if !s.flowRoom (flowKey src lot) 1 then none
  else
    match s.inbound src lot (hf h 207 160) (if wide then 8 else 4) .atomic true true, fnOfAop (hf h 222 216) with
    | some pa, some fn =>
      if s.atomBusy pa 8 then none
      else
        let records := (chunks 16 (f.payload.length / 16) f.payload).map fun c =>
          (BitVec.ofNat 64 (ofBytes (c.take 8)), BitVec.ofNat 64 (ofBytes (c.drop 8)))
        let (olds, ps, s) := s.atomicAt pa fn wide records
        some ((s.consume 48 ps.eraseDups).respond src lot Fr.ATOMIC_RSP tag true (olds.flatMap (toBytes 8))
          (if ps.isEmpty then none else some (2 ^ records.length - 1)))
    | _, _ => some (s.respond src lot Fr.ATOMIC_RSP tag false [] none)

/-- FABRIC_ATOMIC (R447, R449). -/
def execFabricAtomic (f : Frame) (s : State) : Host.Outcome State Fault Refusal :=
  .next (s.receive Fr.ATOMIC f (State.serveAtomic f))

/-- FABRIC_ATOMIC_RSP (R448, R449). -/
def execFabricAtomicRsp (f : Frame) (s : State) : Host.Outcome State Fault Refusal :=
  .next (s.receive Fr.ATOMIC_RSP f fun s => s.takeResponse f)

/-- Checks 1 to 4 of R439 for a frame outside its flow's SEQ. -/
def State.receiveAck (s : State) (type : Nat) (f : Frame) (act : State → State) : State :=
  let h := f.header.toNat
  let s := s.bump (C.FB_PCNT_RX_FRAMES f.port) 1
  if !f.fcsOk then s.bump (C.FB_PCNT_FCS_ERR f.port) 1
  else if hf h 47 32 ≠ s.fld F.FB_NODE_NODE then (s.bump C.FB_CNT_MISDIRECT 1).setFld F.FB_STICKY_MISDIRECT 1
  else if !frameOk type f then (s.bump C.FB_CNT_BAD_FRAME 1).setFld F.FB_STICKY_BAD_FRAME 1
  else if (s.lotEntry (hf h 31 16)).isNone then (s.bump C.FB_CNT_LOT_DROPPED 1).setFld F.FB_STICKY_LOT_DROPPED 1
  else act (s.acked (hf h 63 48) (hf h 31 16) (hf h 119 96))

/-- FABRIC_ACK (R442): frames of the reverse flow are acknowledged. -/
def execFabricAck (f : Frame) (s : State) : Host.Outcome State Fault Refusal := .next (s.receiveAck Fr.ACK f id)

/-- FABRIC_NAK (R443): the sender resends from the SEQ named, at once. -/
def execFabricNak (f : Frame) (s : State) : Host.Outcome State Fault Refusal :=
  let h := f.header.toNat
  .next (s.receiveAck Fr.NAK f fun s =>
    match s.txFlow (flowKey (hf h 63 48) (hf h 31 16)) with
    | some t =>
      match t.kept with
      | k :: _ => if k.seq = hf h 119 96 then s.resend (hf h 63 48) (hf h 31 16) t 0 false else s
      | [] => s
    | none => s)

/-- ACK_TIMER (R442): 2 µs after a delivery with nothing sent on the reverse flow. -/
def execAckTimer (node lot : BitVec 16) (s : State) : Host.Outcome State Fault Refusal :=
  match s.rxFlow (flowKey node.toNat lot.toNat) with
  | some r =>
    match r.owed with
    | some t => if t + 2000 ≤ s.now then .next (s.sendAck node.toNat lot.toNat Fr.ACK) else .next s
    | none => .next s
  | none => .next s

/-- The wait before the `k`-th resend of a frame, ns (R443); k = 9 is the wait that loses the flow (R444). -/
def State.rtoWait (s : State) (k : Nat) : Nat := min (s.fld F.FB_XPORT_RTO_US * 2 ^ (k - 1)) 1024 * 1000

/-- RETRANSMIT_TIMEOUT (R443). -/
def execRetransmitTimeout (node lot : BitVec 16) (s : State) : Host.Outcome State Fault Refusal :=
  match s.txFlow (flowKey node.toNat lot.toNat) with
  | none => .next s
  | some f =>
    match f.kept with
    | [] => .next s
    | k :: _ =>
      let n := k.resends + 1
      if n ≤ 8 && k.at' + s.rtoWait n ≤ s.now then
        let rail := if 3 ≤ n then (s.railFrom (f.rail + 1)).getD f.rail else f.rail
        .next (s.resend node.toNat lot.toNat { f with rail := rail } 0 true)
      else .next s

/-- FLOW_LOST (R444). -/
def execFlowLost (node lot : BitVec 16) (s : State) : Host.Outcome State Fault Refusal :=
  match s.txFlow (flowKey node.toNat lot.toNat) with
  | none => .next s
  | some f =>
    match f.kept with
    | [] => .next s
    | k :: _ =>
      if k.resends = 8 && k.at' + s.rtoWait 9 ≤ s.now then
        let s := (s.freeFlow node.toNat lot.toNat true).bump C.FB_CNT_FLOWS_LOST 1
        .next ((s.setFld F.FB_STICKY_FLOW_LOST 1).raise Ev.FABRIC_FLOW_LOST { d1 := node.toNat, d2 := lot.toNat })
      else .next s

/-- FLOW_IDLE_FREE (R440): no unacknowledged frame and no traffic for 1 ms. -/
def execFlowIdleFree (node lot : BitVec 16) (s : State) : Host.Outcome State Fault Refusal :=
  let key := flowKey node.toNat lot.toNat
  let s := match s.txFlow key with
    | some f => if f.kept.isEmpty && f.used + 1000000 ≤ s.now then s.setTxFlow key none else s
    | none => s
  match s.rxFlow key with
  | some r => if r.used + 1000000 ≤ s.now then .next (s.setRxFlow key none) else .next s
  | none => .next s

/-- FABRIC_PORT_DOWN (R434, R457, R543). (DESIGN CHOICE: log entry 128) -/
def execFabricPortDown (p : Fin 4) (s : State) : Host.Outcome State Fault Refusal :=
  if s.portUp p then
    let s := (s.setFld (F.FB_PORT_STATE p) 1).showClock
    let s := (s.bump (C.FB_PCNT_LINK_DOWNS p) 1).raise Ev.FABRIC_PORT_DOWN { d1 := p }
    let flaps := (s.recovery.flaps.filter fun (x : Nat × Nat) => s.now < x.2 + 60000000000) ++ [(p.val, s.now)]
    let s := { s with recovery := { s.recovery with flaps := flaps } }
    let s := if 8 ≤ (flaps.filter fun (x : Nat × Nat) => x.1 = p.val).length then s.sendFaultRpt 4 p 0x30 else s
    .next (if s.clockPort.isNone then s.holdover else s)
  else .next s

/-- FABRIC_PORT_UP (R434): a port in training gains its link; an isolated one stays down. -/
def execFabricPortUp (p : Fin 4) (s : State) : Host.Outcome State Fault Refusal :=
  if s.fld (F.FB_PORT_STATE p) = 1 && !s.recovery.portsOff.contains p.val then .next (s.setFld (F.FB_PORT_STATE p) 2).showClock
  else .next s

/-- LOT_ADD (R454): GO is ignored while a command waits. (DESIGN CHOICE: log entry 87) -/
def execLotAdd (index : BitVec 6) (row : BitVec 48) (s : State) : Host.Outcome State Fault Refusal :=
  let k := index.toNat
  let lot := s.fld F.FB_LOT_ARG_LOT
  let asid := s.fld F.FB_LOT_ARG_ASID
  if s.fabric.lotCmd.isSome then .next s
  else
    let held := (List.range 64).filter fun j => j ≠ 0 && j ≠ k && s.fld (F.FB_LOT_STATE j) ≠ 0
    if k = 0 || s.fld (F.FB_LOT_STATE k) ≠ 0 || lot = 0 || held.any (fun j => s.fld (F.FB_LOT_LOT j) = lot) ||
        held.any (fun j => s.fld (F.FB_LOT_ASID j) = asid) || row.toNat < s.rowYoke.row + 2 then
      .next (s.setFld F.FB_LOT_STATUS_REJECT 1)
    else
      .next ((s.setFlds [(F.FB_LOT_LOT k, lot), (F.FB_LOT_ASID k, asid), (F.FB_LOT_STATE k, 1), (F.FB_LOT_SINCE k, 0),
        (F.FB_LOT_QUIET k, 0)]).setLotCmd (some (true, k, row.toNat)))

/-- LOT_BINDOFF (R454). (DESIGN CHOICE: log entry 87) -/
def execLotBindoff (index : BitVec 6) (row : BitVec 48) (s : State) : Host.Outcome State Fault Refusal :=
  let k := index.toNat
  if s.fabric.lotCmd.isSome then .next s
  else if k ≠ 0 && (s.fld (F.FB_LOT_STATE k) = 1 || s.fld (F.FB_LOT_STATE k) = 2) && s.rowYoke.row + 2 ≤ row.toNat then
    .next (s.setLotCmd (some (false, k, row.toNat)))
  else .next (s.setFld F.FB_LOT_STATUS_REJECT 1)

/-- LOT_REMOVED (R452): a QUIET entry whose count is 2. (DESIGN CHOICE: log entry 86) -/
def execLotRemoved (k : Fin 64) (s : State) : Host.Outcome State Fault Refusal :=
  if s.fld (F.FB_LOT_STATE k) = 4 && s.fld (F.FB_LOT_QUIET k) = 2 then .next (s.lotFree k false) else .next s

/-- BINDOFF_FORCED (R452): the 64th edge after the BINDOFF edge. (DESIGN CHOICE: log entry 86) -/
def execBindoffForced (k : Fin 64) (s : State) : Host.Outcome State Fault Refusal :=
  if (s.fld (F.FB_LOT_STATE k) = 3 || s.fld (F.FB_LOT_STATE k) = 4) && 64 ≤ Sparse.get 0 s.fabric.since k then
    let s := (s.setFld F.FB_STICKY_BINDOFF_FORCED 1).raise Ev.BINDOFF_FORCED { d1 := s.fld (F.FB_LOT_LOT k) }
    .next (s.lotFree k true)
  else .next s

/-- PTP_SYNC (R455 to R457): the offset of this clock from the master is slewed away up to 1 µs and stepped beyond, and
counted toward lock. (DEDUCED: log entry 88) -/
def execPtpSync (offset : Int) (s : State) : Host.Outcome State Fault Refusal :=
  let s := (s.bump C.TS_CNT_SYNC_RX 1).setFld F.TS_OFFSET_OFFSET (offset32 offset)
  let good := if -100 ≤ offset ∧ offset ≤ 100 then min 16 (s.hall.good + 1) else 0
  let s := { s with hall := { s.hall with good := good } }
  let s := if -1000 ≤ offset ∧ offset ≤ 1000 then { s with hall := { s.hall with slew := -offset } }
    else { s with hall := { s.hall with slew := 0 } }.stepTime (-offset)
  .next (if good = 16 && s.fld F.TS_STATUS_LOCKED = 0 then s.lock else s)

/-- PTP_MESSAGE (R455, R457): the grandmaster's identity; a change of it begins holdover.
(DESIGN CHOICE: log entry 89) -/
def execPtpMessage (gm : BitVec 64) (s : State) : Host.Outcome State Fault Refusal :=
  let old := s.fld F.TS_GM_CLOCK_ID
  if gm.toNat = old then .next s
  else
    let s := s.setFld F.TS_GM_CLOCK_ID gm.toNat
    if old = 0 then .next s else .next (s.bump C.TS_CNT_GM_CHANGES 1).holdover

/-- PTP_HOLDOVER (R457). (DESIGN CHOICE: log entry 89) -/
def execPtpHoldover (s : State) : Host.Outcome State Fault Refusal := .next s.holdover

/-- PPS_EDGE (R459): the offset of a 1PPS edge from the whole second of hall time. (DESIGN CHOICE: log entry 89) -/
def execPpsEdge (offset : Int) (s : State) : Host.Outcome State Fault Refusal :=
  if s.fld F.FB_XPORT_PPS_EN = 1 then
    if offset < -10000 ∨ 10000 < offset then .next (s.bump C.TS_CNT_PPS_IGNORED 1)
    else
      let s := ({ s with hall := { s.hall with pps := some s.now } }).setFld F.TS_STATUS_PPS_PRESENT 1
      if s.fld F.TS_STATUS_LOCKED = 1 then .next (s.setFld F.TS_PPS_OFFSET_PPS (offset32 offset))
      else if s.fld F.TS_STATUS_HOLDOVER = 1 then
        .next { s with now := ((s.now : Int) + clampInt (-offset) (-20) 20).toNat }
      else .next s
  else .next s

/-- No accepted 1PPS edge for 3 s (R459). -/
def State.ppsGone (s : State) : Bool :=
  match s.hall.pps with
  | none => true
  | some t => decide (t + 3000000000 ≤ s.now)

/-- PPS_LOST (R459): enabled, and no edge for 3 s. -/
def execPpsLost (s : State) : Host.Outcome State Fault Refusal :=
  if s.fld F.FB_XPORT_PPS_EN = 1 && s.ppsGone then .next ((s.setFld F.TS_STATUS_PPS_PRESENT 0).raise Ev.PPS_LOST {}) else .next s

/-- TS_TIME_LO_READ (R461): the high half is latched. -/
def execTsTimeLoRead (s : State) : Host.Outcome State Fault Refusal :=
  .next (s.setFld F.TS_TIME_HI_TIME (s.now / 2 ^ 32))

end Sys2Proof.Machine
end

