-- ==== Sys2Proof/Machine/Faults.lean ====
section
/-!
DEFINITION. Faults.lean: the commands of the fault collector and of invalidation (10_address_translation.md).
-/

namespace Sys2Proof.Machine

/-- FAULT_REPORT (R365): an agent's fault reaches the collector. -/
def execFaultReport (m : Mesh) (f : AgentFault) (s : State) : Host.Outcome State Fault Refusal :=
  let a : Agent := ⟨m.val, f.engine.toNat, f.id.toNat⟩
  match s.tu.inFlight.find? fun x => x.agent = a && x.asid = f.asid.toNat && x.page = f.page.toNat with
  | none => .next s
  | some x => .next (({ s with tu := { s.tu with inFlight := s.tu.inFlight.erase x } }.collect x).showTu)

/-- FAULT_WINDOW_CLOSE (R365): 1.0 µs after the entry was taken its record is written, or waits for the ring (R369). -/
def execFaultWindowClose (entry : BitVec 8) (s : State) : Host.Outcome State Fault Refusal :=
  let i := entry.toNat
  match Sparse.get none s.tu.entries i with
  | none => .next s
  | some e =>
    if e.closed || s.now < e.opened + 1000 then .next s
    else .next { s with tu := { s.tu with
      entries := Sparse.set none s.tu.entries i (some { e with closed := true }), ringWait := s.tu.ringWait ++ [i] } }.fringGo

/-- FAULT_RESUME (R368): every joined agent replays its unit. -/
def execFaultResume (entry gen : BitVec 8) (s : State) : Host.Outcome State Fault Refusal :=
  match s.resolvable entry.toNat gen.toNat with
  | none => .next (s.setFld F.TU_STICKY_BAD_RESOLVE 1)
  | some e =>
    .next ((e.agents.foldl State.resumeAgent ((s.freeEntry entry.toNat).refusedAgain e true)).fringGo)

/-- FAULT_ABORT (R364, R368): every joined agent's unit ends with TRANSLATION_FAULT or ACCESS_FAULT. -/
def execFaultAbort (entry gen : BitVec 8) (s : State) : Host.Outcome State Fault Refusal :=
  match s.resolvable entry.toNat gen.toNat with
  | none => .next (s.setFld F.TU_STICKY_BAD_RESOLVE 1)
  | some e =>
    let st := if 0x10 ≤ e.first.cause && e.first.cause ≠ 0x14 then St.ACCESS_FAULT else St.TRANSLATION_FAULT
    .next ((e.agents.foldl (fun s a => s.abortAgent st a) ((s.freeEntry entry.toNat).refusedAgain e false)).fringGo)

/-- INV_PAGE (R358): GO with scope 0, the page of TU_INV_ADDR. -/
def execInvPage (asid : BitVec 12) (s : State) : Host.Outcome State Fault Refusal :=
  .next (s.queueInval 0 (s.fld F.TU_INV_CTL_PAGES) asid.toNat)

/-- INV_RANGE (R358): GO with scope 1. -/
def execInvRange (pages : BitVec 17) (asid : BitVec 12) (s : State) : Host.Outcome State Fault Refusal :=
  .next (s.queueInval 1 pages.toNat asid.toNat)

/-- INV_ASID (R358): GO with scope 2. -/
def execInvAsid (asid : BitVec 12) (s : State) : Host.Outcome State Fault Refusal :=
  .next (s.queueInval 2 (s.fld F.TU_INV_CTL_PAGES) asid.toNat)

/-- INV_ALL (R358): GO with scope 3. -/
def execInvAll (s : State) : Host.Outcome State Fault Refusal :=
  .next (s.queueInval 3 (s.fld F.TU_INV_CTL_PAGES) (s.fld F.TU_INV_CTL_ASID))

/-- TLB_INV (R358): a die drops the matching entries, and reports once the accesses translated through them have been performed.
(DESIGN CHOICE: log entry 152) -/
def execTlbInv (die : Mesh) (seq : BitVec 16) (s : State) : Host.Outcome State Fault Refusal :=
  match s.tu.invals.find? fun v => v.seq = seq.toNat with
  | none => .next s
  | some v =>
    let s := s.applyInval die.val v
    if s.invalOwes die.val v then .next s
    else .next (s.sendFrom die.val 48 (packBits [(0, 8, 0x31), (8, 8, die.val), (32, 16, seq.toNat)]))

/-- INV_DONE (R358): a die's report; completion goes in order of the sequence numbers. -/
def execInvDone (die : Mesh) (seq : BitVec 16) (s : State) : Host.Outcome State Fault Refusal :=
  .next (State.invalsDone 16 { s with tu := { s.tu with invals := s.tu.invals.map fun v =>
    if v.seq = seq.toNat then { v with waiting := v.waiting.filter (· ≠ die.val) } else v } })

/-- TU_FRING_CI_WRITE (R255, R366). -/
def execTuFringCiWrite (v : BitVec 32) (s : State) : Host.Outcome State Fault Refusal :=
  let n := bits v.toNat 23 0
  if ciAccepted (s.fld F.TU_FRING_CI_CI) (s.fld F.TU_FRING_PI_PI) n then .next (s.setFld F.TU_FRING_CI_CI n).fringGo
  else .next (s.setFld F.TU_STICKY_CI_DROPPED 1)

/-- TU_FRING_BASE_WRITE (R239, R366): EN from 0 to 1 takes the fields and restarts the ring empty. -/
def execTuFringBaseWrite (v : BitVec 64) (s : State) : Host.Outcome State Fault Refusal :=
  let was := s.fld F.TU_FRING_BASE_EN = 1
  let w := v.toNat &&& 0xFFFFFFFFFFFFF07F
  let s := s.setReg F.TU_FRING_BASE_EN.addr w
  if w % 2 = 1 && !was then
    if 6 ≤ bits w 6 2 && bits w 6 2 ≤ 16 then
      let s := { s with tu := { s.tu with log2 := bits w 6 2, loc := bits w 1 1 = 1, base := bits w 63 12 * 4096 } }
      .next (s.setFlds [(F.TU_FRING_PI_PI, 0), (F.TU_FRING_CI_CI, 0)]).fringGo
    else .next (s.setFld F.TU_FRING_BASE_EN 0)
  else .next s

end Sys2Proof.Machine
end

