-- ==== Sys2Proof/Machine/Mgmt.lean ====
section
/-!
DEFINITION. Mgmt.lean: the management controller's commands: MCTP, PLDM, sensors, and the mailbox's information commands
(14_node_cores_and_management.md).
-/

namespace Sys2Proof.Machine

/-- MCTP_MESSAGE (R479, R480): control, PLDM and Maelnurdo's vendor-defined messages are dispatched, others dropped; without
an endpoint ID a binding answers control messages only. `ours`: a type-0x7E message carries Maelnurdo's Vendor ID.
(DESIGN CHOICE: log entry 105) -/
def execMctpMessage (b : Binding) (ty : BitVec 8) (ours : Bool) (data : List (BitVec 8)) (s : State) :
    Host.Outcome State Fault Refusal :=
  let k := bindingNat b
  let byte := fun i => (data.getD i 0).toNat
  .next (if s.fld F.MC_STATUS_STATE = 0 then s
    else if ty = 0x00 then
      if byte 1 = 1 then s.setEid k (byte 3)
      else let (bs, s) := s.freeBytes 1; s.mctp k [0, byte 1] bs
    else if s.fld (eidFld k) = 0 then s
    else if ty = 0x01 then s.pldmMessage b (byte 1 % 64) (byte 2) (data.drop 3)
    else if ty = 0x7E && ours then s.mctpJob b data
    else s)

/-- SET_ENDPOINT_ID (R479). -/
def execSetEndpointId (b : Binding) (eid : BitVec 8) (s : State) : Host.Outcome State Fault Refusal :=
  .next (s.setEid (bindingNat b) eid.toNat)

/-- PLDM_DISCOVERY (R481). -/
def execPldmDiscovery (b : Binding) (cmd : BitVec 8) (s : State) : Host.Outcome State Fault Refusal :=
  .next (s.pldmAnswer (bindingNat b) 0 cmd.toNat)

/-- PLDM_PLATFORM (R481, R484). -/
def execPldmPlatform (b : Binding) (cmd : BitVec 8) (sensor : BitVec 16) (s : State) : Host.Outcome State Fault Refusal :=
  .next (s.pldmSensor (bindingNat b) cmd.toNat sensor.toNat)

/-- PLDM_FRU (R6, R481). -/
def execPldmFru (b : Binding) (cmd : BitVec 8) (s : State) : Host.Outcome State Fault Refusal :=
  .next (s.pldmFru (bindingNat b) cmd.toNat)

/-- REQUEST_UPDATE (R482). -/
def execRequestUpdate (b : Binding) (s : State) : Host.Outcome State Fault Refusal := .next (s.pldmRequest b)

/-- UPDATE_COMPONENT (R513, R535). -/
def execUpdateComponent (b : Binding) (ident : BitVec 16) (size : BitVec 32) (s : State) : Host.Outcome State Fault Refusal :=
  .next (s.pldmComponent b ident.toNat size.toNat)

/-- REQUEST_FIRMWARE_DATA (R513, R535). -/
def execRequestFirmwareData (b : Binding) (off : BitVec 32) (data : List (BitVec 8)) (s : State) :
    Host.Outcome State Fault Refusal := .next (s.pldmData b off.toNat data)

/-- ACTIVATE_FIRMWARE (R513, R535). -/
def execActivateFirmware (b : Binding) (s : State) : Host.Outcome State Fault Refusal := .next (s.pldmActivate b)

/-- SENSOR_SAMPLE (R483, R484): a snapshot in two's complement. -/
def execSensorSample (id : BitVec 8) (v : BitVec 32) (s : State) : Host.Outcome State Fault Refusal :=
  .next (s.sampleSensor id.toNat v.toInt)

/-- GET_INFO (R486). -/
def execGetInfo (ch : Channel) (s : State) : Host.Outcome State Fault Refusal := .next (s.runJob ch 0x01 fun _ s => s.info ch)

/-- READ_SENSOR (R486). -/
def execReadSensor (ch : Channel) (s : State) : Host.Outcome State Fault Refusal :=
  .next (s.runJob ch 0x02 fun j s => s.readSensor ch (j.byte 0))

/-- READ_TELEMETRY (R486). -/
def execReadTelemetry (ch : Channel) (s : State) : Host.Outcome State Fault Refusal :=
  .next (s.runJob ch 0x03 fun _ s => s.telemetry ch)

end Sys2Proof.Machine
end

