-- ==== Sys2Proof/Machine/Needles.lean ====
section
/-!
DEFINITION. Needles.lean: the commands of the needles and the launcher (06_thread_groups.md). A command of an
instruction acts where the group of that slot is ready and the word at its pc is that instruction; elsewhere the
state stays as it is.
-/

namespace Sys2Proof.Machine

/-! ### Launches -/

/-- LAUNCH (R197, R198): the launcher takes the descriptor at its head. -/
def execLaunch (m : Motif) (s : State) : Host.Outcome State Fault Refusal :=
  let x := s.ndl m
  match x.active, x.queue with
  | none, j :: js =>
    if s.pos m ≠ 1 then .next s
    else .next ((s.setNdl m { x with queue := js, active := some { j with status := s.launchCheck m j.desc } }).showNdl m)
  | _, _ => .next s

/-- BLOCK_START (R199, R200). -/
def execBlockStart (m : Motif) (s : State) : Host.Outcome State Fault Refusal :=
  match s.launch m with
  | some l => if s.canStart m l then .next (s.startBlock m l) else .next s
  | none => .next s

/-- LAUNCH_DONE (R201). -/
def execLaunchDone (m : Motif) (s : State) : Host.Outcome State Fault Refusal :=
  match s.launch m with
  | some l => if s.launchOver m l then .next (s.completeLaunch m l) else .next s
  | none => .next s

/-! ### Divergence (R203) -/

/-- VIF. -/
def execVif (m : Motif) (g : GroupSlot) (s : State) : Host.Outcome State Fault Refusal :=
  .next (s.issue m g isVif false fun x _ w s =>
    if 32 ≤ x.stack.length then s.groupFault m g x GF.MASK_STACK
    else
      let am := x.active.foldl (fun a t => if x.xr t (rvRs1 w) ≠ 0 then a ||| BitVec.ofNat 64 (2 ^ t) else a) (0 : BitVec 64)
      let pc := if am = 0 then add64 x.pc (immI w * 4) else add64 x.pc 4
      s.putGroup m g (some { x with stack := x.am :: x.stack, am := am, pc := pc }))

/-- VELSE. -/
def execVelse (m : Motif) (g : GroupSlot) (s : State) : Host.Outcome State Fault Refusal :=
  .next (s.issue m g isVelse true fun x _ w s =>
    match x.stack with
    | [] => s.groupFault m g x GF.MASK_STACK
    | top :: _ =>
      let am := top &&& ~~~x.am
      s.putGroup m g (some { x with am := am, pc := if am = 0 then add64 x.pc (immI w * 4) else add64 x.pc 4 }))

/-- VEND. -/
def execVend (m : Motif) (g : GroupSlot) (s : State) : Host.Outcome State Fault Refusal :=
  .next (s.issue m g isVend true fun x _ _ s =>
    match x.stack with
    | [] => s.groupFault m g x GF.MASK_STACK
    | top :: rest => s.putGroup m g (some { x.step4 with stack := rest, am := top }))

/-! ### Votes (R220) and shuffles (R217 to R219) -/

/-- Write one value to rd of every active thread. -/
def Group.setAll (x : Group) (rd v : Nat) : Group := x.each fun t h => h.setX t rd v

/-- VANY. -/
def execVany (m : Motif) (g : GroupSlot) (s : State) : Host.Outcome State Fault Refusal :=
  .next (s.issueReg m g isVany fun w x => x.setAll (rvRd w) (flag (x.active.any fun t => x.xr t (rvRs1 w) ≠ 0)))

/-- VALL. -/
def execVall (m : Motif) (g : GroupSlot) (s : State) : Host.Outcome State Fault Refusal :=
  .next (s.issueReg m g isVall fun w x => x.setAll (rvRd w) (flag (x.active.all fun t => x.xr t (rvRs1 w) ≠ 0)))

/-- VBALLOT. -/
def execVballot (m : Motif) (g : GroupSlot) (s : State) : Host.Outcome State Fault Refusal :=
  .next (s.issueReg m g isVballot fun w x =>
    x.setAll (rvRd w) (x.active.foldl (fun v t => if x.xr t (rvRs1 w) ≠ 0 then v + 2 ^ t else v) 0))

/-- VSHFL. -/
def execVshfl (m : Motif) (g : GroupSlot) (s : State) : Host.Outcome State Fault Refusal :=
  .next (s.issue m g isVshfl false fun x _ w s => s.shuffle m g x (rvRd w) (rvRs1 w) fun t => some (x.xr t (rvRs2 w)))

/-- VSHFLI. -/
def execVshfli (m : Motif) (g : GroupSlot) (s : State) : Host.Outcome State Fault Refusal :=
  .next (s.issue m g isVshfli false fun x _ w s =>
    let d := bits w 25 20
    match bits w 27 26 with
    | 0 => s.shuffle m g x (rvRd w) (rvRs1 w) fun t => some (t ^^^ d)
    | 1 => s.shuffle m g x (rvRd w) (rvRs1 w) fun t => if t < d then none else some (t - d)
    | 2 => s.shuffle m g x (rvRd w) (rvRs1 w) fun t => some (t + d)
    | _ => s.groupFault m g x GF.ILLEGAL)

/-! ### Barriers and exit (R229 to R231) -/

/-- VBAR. -/
def execVbar (m : Motif) (g : GroupSlot) (s : State) : Host.Outcome State Fault Refusal :=
  .next (s.issueCollective m g isVbar fun x _ _ s => s.putGroup m g (some { x with wait := .vbar, since := s.now }))

/-- VBAR_RELEASE: 8 fclk after the last arrival. -/
def execVbarRelease (m : Motif) (block : BitVec 32) (s : State) : Host.Outcome State Fault Refusal :=
  let b := block.toNat
  let gs := (s.ndl m).ofBlock b
  if !gs.isEmpty && s.arrived m b .vbar && 8 ≤ refCycles (s.now - lastArrival gs) then .next (s.release m b .vbar)
  else .next s

/-- VCBAR. -/
def execVcbar (m : Motif) (g : GroupSlot) (s : State) : Host.Outcome State Fault Refusal :=
  .next (s.issueCollective m g isVcbar fun x _ _ s => s.putGroup m g (some { x with wait := .vcbar, since := s.now }))

/-- VCBAR_RELEASE: 120 fclk after the last arrival, on every rank. -/
def execVcbarRelease (m : Motif) (block : BitVec 32) (s : State) : Host.Outcome State Fault Refusal :=
  match s.launch m with
  | none => .next s
  | some l =>
    let b := block.toNat
    let ms := barrierMotifs l m
    let here := s.runsOn l ms
    let gs := here.flatMap fun r => (s.ndl r).ofBlock b
    if !((s.ndl m).ofBlock b).isEmpty && (ms.all fun r => s.metAt r b l .vcbar) &&
        120 ≤ refCycles (s.now - lastArrival gs) then .next (here.foldl (fun s r => s.release r b .vcbar) s)
    else .next s

/-- VEXIT. -/
def execVexit (m : Motif) (g : GroupSlot) (s : State) : Host.Outcome State Fault Refusal :=
  .next (s.issueCollective m g isVexit fun x _ _ s => s.exitGroup m g x)

/-! ### Driving the engines (R232, R233) -/

/-- The local address a VDISP names, where it is one. (DESIGN CHOICE: log entry 47) -/
def dispAddr (x : Group) (w n : Nat) : Option Nat :=
  let a := x.xr x.low (rvRs1 w)
  if a % 64 = 0 && a + n ≤ localTop then some a else none

/-- VDISP.A: while the queue of 32 is full the group is not ready (`State.held`). (DESIGN CHOICE: log entry 47) -/
def execVdispA (m : Motif) (g : GroupSlot) (s : State) : Host.Outcome State Fault Refusal :=
  .next (s.issue m g isVdispA false fun x l w s =>
    match dispAddr x w 64 with
    | none => s.groupFault m g x GF.LOCAL_RANGE
    | some a => (s.putGroup m g (some x.step4)).arrayAccept m (s.localNat m a 64) l.asid false)

/-- VDISP.V: the queue holds 16 (`State.held`). (DESIGN CHOICE: log entry 47) -/
def execVdispV (m : Motif) (g : GroupSlot) (s : State) : Host.Outcome State Fault Refusal :=
  .next (s.issue m g isVdispV false fun x l w s =>
    match dispAddr x w 256 with
    | none => s.groupFault m g x GF.LOCAL_RANGE
    | some a => (s.putGroup m g (some x.step4)).veAccept m (s.localNat m a 256) l.asid false)

/-- VWAIT. -/
def execVwait (m : Motif) (g : GroupSlot) (s : State) : Host.Outcome State Fault Refusal :=
  .next (s.issue m g isVwait false fun x _ w s =>
    let a := x.xr x.low (rvRs1 w)
    let v := x.xr x.low (rvRs2 w)
    if a % 8 ≠ 0 || localTop ≤ a then s.groupFault m g x GF.LOCAL_RANGE
    else if v ≤ s.localNat m a 8 then s.putGroup m g (some x.step4)
    else s.putGroup m g (some { x with wait := .vwait a v, since := s.now }))

/-- VWAIT_RECHECK. -/
def execVwaitRecheck (m : Motif) (g : GroupSlot) (s : State) : Host.Outcome State Fault Refusal :=
  match s.group m g with
  | some x =>
    match x.wait with
    | .vwait a v =>
      if !x.halt && decide (v ≤ s.localNat m a 8) then
        .next ((s.bump (C.TG_CNT_WAIT_FCLK m) (refCycles (s.now - x.since))).putGroup m g (some { x.step4 with wait := .none }))
      else .next s
    | _ => .next s
  | none => .next s

/-! ### Atomics (R211 to R215) -/

/-- VCAS.W. -/
def execVcasW (m : Motif) (g : GroupSlot) (s : State) : Host.Outcome State Fault Refusal := .next (s.atomicInstr m g isVcasW)

/-- VCAS.D. -/
def execVcasD (m : Motif) (g : GroupSlot) (s : State) : Host.Outcome State Fault Refusal := .next (s.atomicInstr m g isVcasD)

/-- VAFADD.S (R214). (DESIGN CHOICE: log entry 19) -/
def execVafaddS (m : Motif) (g : GroupSlot) (s : State) : Host.Outcome State Fault Refusal := .next (s.atomicInstr m g isVafadd)

/-! ### Conversions (R226) -/

/-- VCVTN: each active thread's element counts. A type byte that R94 does not allow is illegal, as one with SC is.
(DESIGN CHOICE: log entry 48) -/
def execVcvtn (m : Motif) (g : GroupSlot) (s : State) : Host.Outcome State Fault Refusal :=
  .next (s.issue m g isVcvtn false fun x _ w s =>
    let t := bits w 27 20
    if typeSc t || !typeOk t then s.groupFault m g x GF.ILLEGAL
    else
      let enc := fun k => elemEncode (typeFmt t) (typeOvf t) (fmtFp32.decode (x.fr k (rvRs1 w)))
      let st := x.active.foldl (fun st k => st.add (enc k).2) NumStat.zero
      let (y, s) := s.countGroup m (x.active.foldl (fun h k => h.setX k (rvRd w) (enc k).1) x) st
      s.putGroup m g (some y.step4))

/-- VCVTW: FP32 does not hold every binary64 value; where it does not, the value is free.
(DESIGN CHOICE: log entry 48) -/
def execVcvtw (m : Motif) (g : GroupSlot) (s : State) : Host.Outcome State Fault Refusal :=
  .next (s.issue m g isVcvtw false fun x _ w s =>
    let t := bits w 27 20
    if typeSc t || !typeOk t then s.groupFault m g x GF.ILLEGAL
    else
      let fmt := typeFmt t
      let val := fun k => (widen fmt (x.xr k (rvRs1 w) % 2 ^ elemBits fmt)).getD (Config.freeWord (s.free + k)).toNat
      let y := x.active.foldl (fun h k => h.setF k (rvRd w) (val k)) x
      { s with free := s.free + 64 }.putGroup m g (some y.step4))

/-! ### Tiles (R221 to R223) -/

/-- Effective addresses of a tile's sixteen rows (R222), from the lowest active thread's registers. -/
def tileEas (x : Group) (w : Nat) : List (Nat × Nat) :=
  (List.range 16).map fun r => (r, (x.xr x.low (rvRs1 w) + r * x.xr x.low (rvRs2 w)) % 2 ^ 64)

/-- ZLD. (DESIGN CHOICE: log entry 48) -/
def execZld (m : Motif) (g : GroupSlot) (s : State) : Host.Outcome State Fault Refusal :=
  .next (s.memInstr m g isZld true
    (fun x l w s =>
      let fmt := bits w 28 25
      if fmt = 0 || 10 < fmt then (none, (s.bump (C.TG_CNT_GROUP_INSTR m) 1).groupFault m g x GF.ILLEGAL)
      else s.beginMem m g x l w (rowBytes fmt 16) .plain Need.read (tileEas x w))
    (fun x l op s =>
      let fmt := bits op.word 28 25
      let (e, x, op, s) := State.doLoads m g (rowBytes fmt 16) (op.accs.length + 1) op.accs x op [] s
      s.endMem m g l e (if e = .done then x.setTile (rvRd op.word) (tileOf fmt op.rows) else x) op))

/-- ZST. (DESIGN CHOICE: log entry 48) -/
def execZst (m : Motif) (g : GroupSlot) (s : State) : Host.Outcome State Fault Refusal :=
  .next (s.memInstr m g isZst true
    (fun x l w s =>
      if bits w 30 30 = 0 && 10 < bits w 28 25 then (none, (s.bump (C.TG_CNT_GROUP_INSTR m) 1).groupFault m g x GF.ILLEGAL)
      else s.beginMem m g x l w (tileRow (x.tile (rvRd w)) w 0).1.length .plain Need.write (tileEas x w))
    (fun x l op s =>
      let t := (op.view x).tile (rvRd op.word)
      let (e, op, s) := State.doStores m g (fun r => (tileRow t op.word r).1) (op.accs.length + 1) op.accs op [] s
      if !op.counted then
        let st := (List.range 16).foldl (fun st r => st.sum (tileRow t op.word r).2) NumStat.zero
        let (x, s) := s.countGroup m x st
        s.endMem m g l e x { op with counted := true }
      else s.endMem m g l e x op))

/-- ZMMA. -/
def execZmma (m : Motif) (g : GroupSlot) (s : State) : Host.Outcome State Fault Refusal :=
  .next (s.issueCollective m g isZmma fun x _ w s =>
    let (a, b, d) := (x.tile (rvRs1 w), x.tile (rvRs2 w), x.tile (rvRd w))
    if zmmaOk a.tag b.tag d.tag then
      let (d', st) := zmmaTile a b d
      let (y, s) := s.countGroup m (x.setTile (rvRd w) d') st
      s.putGroup m g (some y.step4)
    else s.groupFault m g x GF.ILLEGAL)

/-- ZZERO. -/
def execZzero (m : Motif) (g : GroupSlot) (s : State) : Host.Outcome State Fault Refusal :=
  .next (s.issueCollective m g isZzero fun x _ w s =>
    let t : Tile := { tag := if bits w 25 25 = 1 then 11 else 1, cells := [] }
    s.putGroup m g (some (x.setTile (rvRd w) t).step4))

/-! ### Loads, stores and fences (R205 to R216, R304) -/

/-- A needle load. -/
def execNeedleLoad (m : Motif) (g : GroupSlot) (s : State) : Host.Outcome State Fault Refusal :=
  .next (s.memInstr m g isLoad false (fun x l w s => s.beginLoad m g x l w) (fun x l op s =>
    let (e, x, op, s) := State.doLoads m g (widthOf op.word) (op.accs.length + 1) op.accs x op [] s
    s.endMem m g l e x op))

/-- A needle store. -/
def execNeedleStore (m : Motif) (g : GroupSlot) (s : State) : Host.Outcome State Fault Refusal :=
  .next (s.memInstr m g isStore false (fun x l w s => s.beginStore m g x l w) (fun x l op s =>
    let (e, op, s) := State.doStores m g (storeBytes (op.view x) op.word) (op.accs.length + 1) op.accs op [] s
    s.endMem m g l e x op))

/-- An AMO of the A extension. -/
def execNeedleAmo (m : Motif) (g : GroupSlot) (s : State) : Host.Outcome State Fault Refusal := .next (s.atomicInstr m g isAmo)

/-- Bytes of an LR or SC. -/
def lrscBytes (w : Nat) : Nat := if rvF3 w = 3 then 8 else 4

/-- LR. -/
def execNeedleLr (m : Motif) (g : GroupSlot) (s : State) : Host.Outcome State Fault Refusal :=
  .next (s.memInstr m g isLr false
    (fun x l w s => s.beginMem m g x l w (lrscBytes w) .lrsc Need.read (x.active.map fun t => (t, x.xr t (rvRs1 w))))
    (fun x l op s =>
      let (e, x, op, s) := State.doLr m g (lrscBytes op.word) (op.accs.length + 1) op.accs x op [] s
      s.endMem m g l e x op))

/-- SC. -/
def execNeedleSc (m : Motif) (g : GroupSlot) (s : State) : Host.Outcome State Fault Refusal :=
  .next (s.memInstr m g isSc false
    (fun x l w s => s.beginMem m g x l w (lrscBytes w) .lrsc Need.write (x.active.map fun t => (t, x.xr t (rvRs1 w))))
    (fun x l op s =>
      let (e, x, op, s) := State.doSc m g (lrscBytes op.word) op.accs x op [] s
      s.endMem m g l e x op))

/-- FENCE (R304): it is held until the earlier accesses of its predecessor set have been performed (`State.held`). -/
def execNeedleFence (m : Motif) (g : GroupSlot) (s : State) : Host.Outcome State Fault Refusal :=
  .next (s.issueReg m g isFence fun _ x => x)

/-! ### Control flow, CSRs and computation -/

/-- A branch or jump (R204). -/
def execNeedleBranch (m : Motif) (g : GroupSlot) (s : State) : Host.Outcome State Fault Refusal :=
  .next (s.issue m g isBranch false fun x _ w s =>
    let to' := branchTo x w x.low
    if x.active.any (fun t => branchTo x w t ≠ to') then s.groupFault m g x GF.DIVERGENT_BRANCH
    else if to' % 4 ≠ 0 then s.groupFault m g x GF.MISALIGNED
    else
      let y := if rvOp w = 0x63 then x else x.setAll (rvRd w) (add64 x.pc 4)
      s.putGroup m g (some { y with pc := to' }))

/-- A CSR instruction of a group (R202). -/
def State.csrInstr (s : State) (m g : Nat) (p : Nat → Bool) : State :=
  s.issue m g p false fun x l w s =>
    match csrExec x l m w with
    | some y => s.putGroup m g (some y.step4)
    | none => s.groupFault m g x GF.ILLEGAL

/-- A CSR instruction that writes (R202). -/
def execNeedleCsrWrite (m : Motif) (g : GroupSlot) (s : State) : Host.Outcome State Fault Refusal :=
  .next (s.csrInstr m g isCsrWrite)

/-- ECALL (R234). -/
def execNeedleEcall (m : Motif) (g : GroupSlot) (s : State) : Host.Outcome State Fault Refusal :=
  .next (s.issue m g isEcall false fun x _ _ s => s.groupFault m g x GF.ECALL)

/-- EBREAK (R234). -/
def execNeedleEbreak (m : Motif) (g : GroupSlot) (s : State) : Host.Outcome State Fault Refusal :=
  .next (s.issue m g isEbreak false fun x _ _ s => s.groupFault m g x GF.EBREAK)

/-- Every other instruction (R196, R202, R236): computations, CSR reads, and illegal words.
(DESIGN CHOICE: log entry 45) -/
def execNeedleOtherInstruction (m : Motif) (g : GroupSlot) (s : State) : Host.Outcome State Fault Refusal :=
  .next (s.issue m g (fun w => !hasOwnCommand w) false fun x l w s =>
    let y := if isCsr w then csrExec x l m w else otherAll w x.active x
    match y with
    | some y => s.putGroup m g (some y.step4)
    | none => s.groupFault m g x GF.ILLEGAL)

end Sys2Proof.Machine
end

