-- ==== Sys2Proof/Machine/Patterns.lean ====
section
/-!
DEFINITION. Patterns.lean: the Pattern commands of the mailbox (R508 to R517).
-/

namespace Sys2Proof.Machine

/-- A slot that the slot commands may write. -/
def ownerSlot (k : Nat) : Bool := 1 ≤ k && k ≤ 3

/-- SLOT_INFO (R508). (DESIGN CHOICE: log entry 108) -/
def execSlotInfo (ch : Channel) (s : State) : Host.Outcome State Fault Refusal :=
  .next (s.runJob ch 0x10 fun j s =>
    let k := j.byte 0
    if k ≤ 3 then s.mboxDone ch St.OK ((List.range 16).flatMap fun i => toBytes 4 (s.reg (0x10200 + 0x40 * k + 4 * i)))
    else s.mboxDone ch St.BAD_COMMAND [])

/-- SLOT_BEGIN (R509, R510). (DESIGN CHOICE: log entry 108) -/
def execSlotBegin (ch : Channel) (s : State) : Host.Outcome State Fault Refusal :=
  .next (s.runJob ch 0x11 fun j s =>
    if ownerSlot (j.byte 0) then s.beginCmd ch (j.byte 0) (j.num 4 4) else s.mboxDone ch St.BAD_COMMAND [])

/-- SLOT_DATA (R509, R510). -/
def execSlotData (ch : Channel) (s : State) : Host.Outcome State Fault Refusal :=
  .next (s.runJob ch 0x12 fun j s => s.dataCmd ch false (j.num 0 4) (j.num 4 2) (toBytes (j.num 4 2) (j.num 8 (j.num 4 2))))

/-- SLOT_END (R509). -/
def execSlotEnd (ch : Channel) (s : State) : Host.Outcome State Fault Refusal :=
  .next (s.runJob ch 0x13 fun j s =>
    if ownerSlot (j.byte 0) then s.endCmd ch (j.byte 0) else s.mboxDone ch St.BAD_COMMAND [])

/-- SESSION_TIMEOUT (R509): no command of the session for 60 s. -/
def execSessionTimeout (s : State) : Host.Outcome State Fault Refusal :=
  match s.mc.session with
  | some x => if x.last + secNs 60 ≤ s.now then .next ((s.onMc fun m => { m with pldm := none }).setSession none) else .next s
  | none => .next s

/-- REPATTERN (R506, R514 to R516). -/
def execRepattern (ch : Channel) (s : State) : Host.Outcome State Fault Refusal :=
  .next (s.runJob ch 0x14 fun j s => s.repattern ch (j.byte 0))

/-- SLOT_ERASE (R510, R512): the header's sector. -/
def execSlotErase (ch : Channel) (s : State) : Host.Outcome State Fault Refusal :=
  .next (s.runJob ch 0x15 fun j s =>
    let k := j.byte 0
    if !ownerSlot k then s.mboxDone ch St.BAD_COMMAND []
    else if s.updating then s.mboxDone ch St.BUSY []
    else ({ s with flash := flashErase s.flash (slotBase k) 65536 }.showSlot k).mboxDone ch St.OK [])

/-- SET_MIN_SVN (R510, R512). -/
def execSetMinSvn (ch : Channel) (s : State) : Host.Outcome State Fault Refusal :=
  .next (s.runJob ch 0x16 fun j s =>
    let k := j.byte 0
    let v := j.num 4 4
    if 1 < k then s.mboxDone ch St.BAD_COMMAND []
    else if s.updating then s.mboxDone ch St.BUSY []
    else if svnOk (s.minSvn k) v (s.slotSvns k) then
      (s.onMc fun m => if k = 0 then { m with minSvn0 := v } else { m with minSvn1 := v }).mboxDone ch St.OK []
    else s.mboxDone ch St.BAD_COMMAND [])

end Sys2Proof.Machine
end

