-- ==== Sys2Proof/Machine/Recovery.lean ====
section
/-!
DEFINITION. Recovery.lean: the commands of the recovery sequencer (R543 to R549), and the driver's grant (R334).
-/

namespace Sys2Proof.Machine

/-- FAULT_RPT (R544 to R547). (DESIGN CHOICE: log entry 29) -/
def execFaultRpt (kind : BitVec 3) (id : BitVec 12) (cause : BitVec 8) (s : State) : Host.Outcome State Fault Refusal :=
  .next (s.faultArrive kind.toNat id.toNat cause.toNat)

/-- SEQUENCER_TAKE_ENTRY (R544). -/
def execSequencerTakeEntry (s : State) : Host.Outcome State Fault Refusal :=
  match s.recovery.running, s.recovery.pending with
  | none, d :: _ => if s.isFatal then .next s else .next (s.takeDomain d)
  | _, _ => .next s

/-- MOTIF_DRAINED (R547): the motif's stitches and their other ranks end with MOTIF_LOST, its L2 is written back or lost, and
its local memory and accumulator sets become zero. A motif out of the chain's reach cannot write back; of one with an
uncorrectable error the spec leaves it open. -/
def execMotifDrained (s : State) : Host.Outcome State Fault Refusal :=
  match s.recovery.running with
  | some d =>
    if d.kind = 1 && s.recovery.phase = 0 then
      let m := d.id
      let s := s.loseMotif m
      let (n, s) := s.takeFree
      let lost := d.cause = 4 || (d.cause = 2 && Config.freeBool n)
      let s := if lost then s.loseCache m else s.drainCache m
      let s := { s with locals := Sparse.set [] s.locals m [] }
      let s := s.setArray m { s.array m with sets := [] }
      .next ((s.setRecovery { s.recovery with phase := 1 }).sendChain m (packBits [(0, 8, 0x40), (8, 8, 1)]))
    else .next s
  | none => .next s

/-- MOTIF_SELF_TEST_DONE (R547): the motif returns to ENABLED at a named edge, or its second fault is a darn. -/
def execMotifSelfTestDone (pass : Bool) (s : State) : Host.Outcome State Fault Refusal :=
  match s.recovery.running with
  | some d =>
    if d.kind = 1 && s.recovery.phase = 1 then
      if pass then
        if s.pos d.id = 4 then
          let s := s.issueAll s.reachableRow (.pos d.id 1)
          .next ((s.setRecovery { s.recovery with phase := 2 }).raise Ev.MOTIF_RECOVERED { dom := d.id, kind := 1 })
        else .next (s.raise Ev.MOTIF_RECOVERED { dom := d.id, kind := 1 }).endRecovery
      else
        let s := s.raise Ev.RECOVERY_ESCALATED { dom := d.id, kind := 1, d1 := 3 }
        .next (s.isolate d)
    else .next s
  | none => .next s

/-- RECOVERY_END (R548): a yoke unit's or a fabric port's recovery finishes, or fails. (DESIGN CHOICE: log entry 95) -/
def execRecoveryEnd (ok : Bool) (s : State) : Host.Outcome State Fault Refusal :=
  match s.recovery.running with
  | some d =>
    if d.kind = 4 then .next (if ok then s.endRecovery else s.isolate d)
    else if d.kind = 5 then
      if ok then
        let s := if d.id = 0 then s.fetchAgain else s
        .next { s with sk := { s.sk with heldTo := if d.id = 1 then s.now else s.sk.heldTo } }.endRecovery
      else .next (s.nodeFatal 3 5 d.id)
    else .next s
  | none => .next s

/-- HB_GRANT (R334, R549): the driver's grant withdraws the region from software and its lines from the caches; the
evacuation goes to the head of the pending list. (DESIGN CHOICE: log entry 95) -/
def execHbGrant (v : BitVec 32) (s : State) : Host.Outcome State Fault Refusal :=
  match s.memMap.evac, s.recovery.parked with
  | some u, some d =>
    if v.getLsbD 0 && s.fld F.HB_GRANT_PENDING = 1 then
      let s := (s.setFlds [(F.HB_SW_TOP_SW_TOP, u.base), (F.HB_GRANT_PENDING, 0)]).cleanRegion u.base u.blocks
      .next (s.setRecovery { s.recovery with
        parked := none, pending := { d with faults := 1, granted := true } :: s.recovery.pending })
    else .next s
  | _, _ => .next s

end Sys2Proof.Machine
end

