-- ==== Sys2Proof/Machine/Row.lean ====
section
/-!
DEFINITION. Row.lean: the commands of the Row and the gauge (02_row_and_gauge.md).
-/

namespace Sys2Proof.Machine

/-- Dies that hear the Row (R43, R78): every position that is resolved and not DROPPED, and the joined guests. -/
def State.rowDies (s : State) : List Nat :=
  motifIds.filter (fun m => s.pos m ≠ 0 && s.pos m ≠ 5) ++ ([56, 57] : List Nat).filter (s.guestIn ·)

/-- The ROW_EDGE payload (R78). -/
def rowEdgePayload (s : State) (row edge : Nat) : Nat :=
  packBits [(0, 8, 0x20), (32, 32, row), (64, 16, row / 2 ^ 32), (80, 1, s.fld F.RW_STATUS_ALIGNED),
    (81, 1, s.fld F.RW_STATUS_HOLDOVER), (96, 64, edge)]

/-- The GAUGE_BUDGET payload for the die `d` (R78). -/
def budgetPayload (d : Nat) (b : Budget) : Nat :=
  packBits [(0, 8, 0x21), (8, 8, d), (32, 32, b.row), (64, 16, b.row / 2 ^ 32), (80, 1, flag b.cut), (96, 32, b.eM),
    (128, 32, b.eRes), (160, 32, b.eBe)]

/-- Send the budgets computed for Row `row` (R48). -/
def State.sendBudgets (s : State) (row : Nat) : List (Nat × Option Budget) → State
  | [] => s
  | (d, some b) :: bs => if b.row = row then (s.sendChain d (budgetPayload d b)).sendBudgets row bs else s.sendBudgets row bs
  | (_, none) :: bs => s.sendBudgets row bs

/-- The edge at which the Row in progress ends has come (R42, R45). (DESIGN CHOICE: log entry 36) -/
def edgeDue (now rp began : Nat) (stepped : Option Nat) : Bool := rp ≠ 0 && decide (rowEnd rp began stepped ≤ now)

/-- ROW_TIMER_FIRE (R43, R48). -/
def execRowTimerFire (s : State) : Host.Outcome State Fault Refusal :=
  let rp := s.rpNs
  if edgeDue s.now rp s.rowYoke.began s.rowYoke.stepped then
    let edge := s.now / rp * rp
    let row := edge / rp % 2 ^ 48
    let y := s.rowYoke
    let s := { s with rowYoke := { y with
      row := row, began := edge, stepped := none, openAll := y.openAll || s.fld F.RW_STATUS_ALIGNED = 1, reports := []
      stackGrant := y.stackNext, yokePast := y.yokeGrant, yokeGrant := y.yokeNext } }
    let s := s.sendAll (s.rowDies.map fun d => s.chainMsg 48 d 0 (rowEdgePayload s row edge))
    let s := (s.sendBudgets row s.rowYoke.budgets).applyChanges 48 row
    let s := (List.range 16).foldl State.markStack s
    .next s.sendHotMeans.lotEdge.settleRecovery.aligned
  else .next s

/-- Close Row N−1 on a die (R48, R56, R68, R69): snapshot the counters, discard what is negative, let what is left expire,
set the debt of a stitch that still runs. -/
def State.closeRow (s : State) (m : Nat) : State :=
  let s := s.accrue m
  let s := s.snapshotRow m
  let r := s.sched m
  let s := s.bump (C.RW_CNT_DISCARDED_CYC m) (negSum r.remCyc)
  let s := if r.running.isSome then s.bump (C.RW_CNT_CARRIED m) 1 else s
  let hold := r.thermalHold
  let s := s.setFlds [(F.RW_MSTATUS_PHASE m, 0), (F.RW_MSTATUS_CUT m, 0), (F.RW_MSTATUS_FLOOR m, 0),
    (F.RW_MSTATUS_ADMIT_HALT m, flag r.missHalt), (F.GA_MUSED_E_USED_UJ m, 0),
    (F.GA_MCLOCK_STEP m, if hold || s.rowYoke.clamp then 18 else 0)]
  let running := r.running.map (Admitted.passEdge true)
  let s := s.setSched m { r with
    remCyc := [], remUj := [], allowCyc := [], allowUj := []
    waiting := r.waiting.map fun x => { x with late := false }
    admitted := r.admitted.map (Admitted.passEdge false), running := running, debt := running.map Admitted.debt
    edgeSeen := false, missed := false, budgetSet := false, lateCounted := false, passDone := false,
    powerHalt := false, backstop := false, haltSeen := r.missHalt, njRow := 0, njRes := 0, njStack := 0,
    report := rowReport m r, tjMax := s.fld (F.GA_MCLOCK_TJ m), minStep := if hold then 18 else 0 }
  ((List.range 13).foldl (fun s k => s.showRem m k) s).settleDebt m

/-- A die's Row begins at an edge: Row N−1 is closed, and the structure changes named for Row N are applied (R36, R48). -/
def State.beginRow (s : State) (m row edge : Nat) : State :=
  ((s.closeRow m).onSched m fun r => { r with row := row, edgeAt := edge, stepped := none }).applyChanges m row

/-- LOCAL_EDGE (R48): a die's own edge. -/
def execLocalEdge (m : Motif) (s : State) : Host.Outcome State Fault Refusal :=
  let rp := s.rpNs
  if edgeDue s.now rp (s.sched m).edgeAt (s.sched m).stepped then
    let edge := s.now / rp * rp
    .next (s.beginRow m (edge / rp % 2 ^ 48) edge)
  else .next s

/-- ROW_EDGE (R43, R46): the frame ends an admission halt, and admission resumes; an edge that was not missed takes its Row from
the frame, and the die places its own edge its chain latency before the arrival. A late frame leaves the Row, and the count of
misses, as they are. (DESIGN CHOICE: log entry 3) -/
def execRowEdge (m : Motif) (row : BitVec 48) (aligned holdover : Bool) (t : BitVec 64) (s : State) :
    Host.Outcome State Fault Refusal :=
  let r := s.sched m
  let s := if !r.missed && row.toNat ≠ r.row && t.toNat ≤ s.now then s.beginRow m row.toNat t.toNat else s
  let s := s.onSched m fun r' => { r' with
    edgeSeen := true, misses := if r.missed then r.misses else 0, missHalt := false, haltSeen := r'.haltSeen || r.missHalt
    placed := s.now - r.latency, heard := some (aligned, holdover) }
  let s := s.setFld (F.RW_MSTATUS_ADMIT_HALT m) (flag (s.sched m).powerHalt)
  if r.missHalt && s.fld (F.RW_MSTATUS_PHASE m) ≠ 0 then .next (s.admission m false) else .next s

/-- EDGE_MISSED (R46): at the second miss in a row, and at each further one that begins a halt, admission halts. -/
def execEdgeMissed (m : Motif) (s : State) : Host.Outcome State Fault Refusal :=
  let r := s.sched m
  if r.edgeSeen || r.missed || s.relNow m < 1500 then .next s
  else
    let misses := r.misses + 1
    let halt := decide (2 ≤ misses)
    let s := s.setSched m { r with missed := true, misses := misses, missHalt := r.missHalt || halt }
    let s := (s.setFld (F.RW_MSTATUS_EDGE_MISSED m) 1).floorRow m
    if halt && !r.missHalt then
      .next ((s.setFld (F.RW_MSTATUS_ADMIT_HALT m) 1).raise Ev.CHAIN_EDGE_LOST {})
    else .next s

/-- GAUGE_BUDGET (R77): installed up to edge + 2.0 µs, discarded later. -/
def execGaugeBudget (m : Motif) (row : BitVec 48) (cut : Bool) (eM eRes eBe : BitVec 32) (s : State) :
    Host.Outcome State Fault Refusal :=
  let r := s.sched m
  if row.toNat ≠ r.row then .next s
  else if s.relNow m ≤ 2000 && !r.budgetSet then
    .next (s.install m cut false eM.toNat eRes.toNat eBe.toNat)
  else if 2000 < s.relNow m then .next (s.raise Ev.GAUGE_BUDGET_LATE {})
  else .next s

/-- FLOOR_BUDGET (R77). (DESIGN CHOICE: log entry 13) -/
def execFloorBudget (m : Motif) (s : State) : Host.Outcome State Fault Refusal :=
  if (s.sched m).budgetSet || s.relNow m < 2000 then .next s else .next (s.floorRow m)

/-- EDGE_PASS (R48, R49, R60): once the Row's budget is installed. -/
def execEdgePass (m : Motif) (s : State) : Host.Outcome State Fault Refusal :=
  if (s.sched m).passDone || !(s.sched m).budgetSet || s.relNow m < 2000 then .next s
  else
    let before := s.sched m
    let s := s.admission m true
    let r := s.sched m
    let cands := (r.admitted.drop before.admitted.length).map Admitted.st ++ (heads r.waiting).filter fun x => !x.late
    .next (s.setSched m { r with
      passDone := true
      forecastBe := sumEu s m (cands.filter fun x => 12 ≤ x.cls)
      forecastRes := sumEu s m (cands.filter fun x => x.cls ≤ 11) })

/-- BODY_START (R48): the body begins; where stitches came after edge + 2.0 µs, it is the admission point of their arrival
(R49, R60); and the die sends its GAUGE_REPORT (R78). -/
def execBodyStart (m : Motif) (s : State) : Host.Outcome State Fault Refusal :=
  if s.fld (F.RW_MSTATUS_PHASE m) = 0 && 4000 ≤ s.relNow m then
    let came := (s.sched m).waiting.any Stitch.late
    let s := (s.setFld (F.RW_MSTATUS_PHASE m) 1).onSched m fun r => { r with waiting := r.waiting.map fun x => { x with late := false } }
    let s := if came then s.admission m false else s
    let r := s.sched m
    .next (s.sendFrom m 48 (r.report + packBits [(160, 32, r.forecastBe), (192, 32, r.forecastRes)]))
  else .next s

/-- DEADLINE_MISSED (R253): the check of edge + 4.0 µs. -/
def execDeadlineMissed (m : Motif) (qid : BitVec 20) (idx : BitVec 24) (s : State) : Host.Outcome State Fault Refusal :=
  let r := s.sched m
  match (r.stitches.find? fun x => x.qid = qid.toNat && x.idx = idx.toNat && overdue r.row x && 4000 ≤ s.relNow m) with
  | none => .next s
  | some x =>
    let s := s.setSched m (r.mark qid.toNat idx.toNat)
    let s := (s.bump C.QE_CNT_DEADLINE_MISSED 1).setFld F.QE_STICKY_DEADLINE 1
    let s := match x.stream with
      | some k => s.streamLate k
      | none => s
    .next (s.raise Ev.DEADLINE_MISSED { src := m, d1 := qid.toNat, d2 := idx.toNat, d3 := x.stream.getD 0 })

/-- A report is of the Row before the one in progress, and arrives between edge + 4.0 and + 10.0 µs (R74). -/
def State.reportTimely (s : State) (r : GaugeReport) : Bool :=
  (r.row.toNat + 1) % 2 ^ 48 = s.rowYoke.row && s.rowYoke.began + 4000 ≤ s.now && s.now ≤ s.rowYoke.began + 10000

/-- GAUGE_REPORT (R74): the yoke keeps a report that comes in time, until the next edge; another is not used. -/
def execGaugeReport (r : GaugeReport) (s : State) : Host.Outcome State Fault Refusal :=
  if s.reportTimely r then
    .next { s with rowYoke := { s.rowYoke with reports := Sparse.set none s.rowYoke.reports r.src.val (some r) } }
  else .next s

/-- GOVERNOR_COMPUTE (R74 to R76, R82). -/
def execGovernorCompute (eYoke eSeams : BitVec 32) (s : State) : Host.Outcome State Fault Refusal :=
  if s.rpUs = 0 then .next s else .next (s.governor eYoke.toNat eSeams.toNat)

/-- GUARD_START (R47). -/
def execGuardStart (m : Motif) (s : State) : Host.Outcome State Fault Refusal :=
  if s.fld (F.RW_MSTATUS_PHASE m) = 1 && s.rpNs - 25000 ≤ s.relNow m then .next (s.setFld (F.RW_MSTATUS_PHASE m) 2)
  else .next s

/-- POWER_SAMPLE (R66, R81, R83). -/
def execPowerSample (m : Motif) (mw : BitVec 32) (tj : BitVec 8) (s : State) : Host.Outcome State Fault Refusal :=
  let s := s.chargeSample m mw.toNat tj.toNat
  let s := s.thermal m tj.toNat
  .next ((s.backstop m mw.toNat).noteBackstop m)

/-- STITCH_ARRIVAL (R60): a stitch on its way to the motif reaches its row scheduler. -/
def execStitchArrival (m : Motif) (qid : BitVec 20) (idx : BitVec 24) (s : State) : Host.Outcome State Fault Refusal :=
  match s.takeTransit m qid.toNat idx.toNat with
  | none => .next s
  | some (x, s) =>
    let window := decide (s.fld (F.RW_MSTATUS_PHASE m) = 0)
    let x := { x with late := window && 2000 < s.relNow m }
    let s := (s.onSched m fun r => { r with waiting := r.waiting ++ [x] }).testHeads m
    if window then .next s else .next (s.admission m false)

/-- STITCH_START (R65, R135). (DESIGN CHOICE: log entry 145) -/
def execStitchStart (m : Motif) (s : State) : Host.Outcome State Fault Refusal :=
  let r := s.sched m
  match r.running, nextToRun r.admitted with
  | none, some a =>
    if s.pos m ≠ 1 || (a.pass && s.fld (F.RW_MSTATUS_PHASE m) = 0) then .next s
    else
      let s := s.setSched m { r with
        running := some { a with start := some s.now }, admitted := r.admitted.erase a, lastAsid := some a.st.asid }
      if r.lastAsid = some a.st.asid || r.lastAsid = none then .next s else .next (s.clearAccs m)
  | _, _ => .next s

/-- STITCH_DONE (R67, R72, R60): the running stitch's list is exhausted and its items have completed. -/
def execStitchDone (m : Motif) (s : State) : Host.Outcome State Fault Refusal :=
  match (s.sched m).running with
  | none => .next s
  | some a =>
    if s.stitchFinished m a then
      let s := s.accrue m
      match (s.sched m).running with
      | none => .next s
      | some a =>
        let s := if a.edges = 0 then s.refund m a else s
        let s := if s.fld F.RW_PERIOD_SCALE_EN = 1 then s.rescale m a else s
        let s := s.onSched m fun r => { r with running := none }
        let s := s.stitchResult a.st (a.bad.getD St.OK)
        if s.fld (F.RW_MSTATUS_PHASE m) = 0 then .next s else .next (s.admission m false)
    else .next s

/-- STITCH_OVERRUN (R71). -/
def execStitchOverrun (m : Motif) (s : State) : Host.Outcome State Fault Refusal :=
  let r := s.sched m
  match r.running with
  | none => .next s
  | some a =>
    if a.carried && 2 ≤ a.edges && !a.overrun then
      let s := s.setSched m { r with running := some { a with overrun := true } }
      .next ((s.bump (C.RW_CNT_OVERRUN m) 1).raise Ev.STITCH_OVERRUN { src := m, d1 := a.st.qid, d2 := a.st.idx })
    else .next s

/-- STITCH_HUNG (R71): the motif is reported hung and becomes RECOVERING (R547); the stitch completes. -/
def execStitchHung (m : Motif) (s : State) : Host.Outcome State Fault Refusal :=
  let r := s.sched m
  match r.running with
  | none => .next s
  | some a =>
    if s.fld F.RW_PERIOD_OVERRUN_ROWS ≤ a.edges && a.carried then
      let s := (s.accrue m).onSched m fun r => { r with running := none }
      .next ((s.stitchResult a.st St.STITCH_HUNG).motifFault m 0x01)
    else .next s

/-- GA_LIMIT_WRITE (R84): a value outside 2,400 to PAT_W is rejected like one for which R51 would fail, and an accepted write
leaves REJECT as it is. (DESIGN CHOICE: log entry 129) -/
def execGaLimitWrite (v : BitVec 32) (s : State) : Host.Outcome State Fault Refusal :=
  let w := bits v.toNat 28 16
  let s := if bits v.toNat 31 31 = 1 then s.setFld F.GA_LIMIT_REJECT 0 else s
  if w = 0 then .next (s.setFld F.GA_LIMIT_OVR_W 0)
  else if 2400 ≤ w ∧ w ≤ s.fld F.GA_LIMIT_PAT_W ∧ s.powerFits w then .next (s.setFld F.GA_LIMIT_OVR_W w)
  else .next (s.setFld F.GA_LIMIT_REJECT 1)

/-- HALL_TIME_STEP (R45): the corrected time; the Row in progress keeps its elapsed time.
(DESIGN CHOICE: log entry 36) -/
def execHallTimeStep (step : Int) (s : State) : Host.Outcome State Fault Refusal :=
  .next (s.stepTime step)

/-- Holdover has lasted more than 10 minutes without relock (R44). -/
def State.holdoverOver (s : State) : Bool :=
  s.fld F.TS_STATUS_LOCKED = 0 && s.fld F.RW_STATUS_ALIGNED = 1 && s.hall.since.any (· + 600000000000 < s.now)

/-- ROW_UNALIGNED (R44). -/
def execRowUnaligned (s : State) : Host.Outcome State Fault Refusal :=
  .next (if s.holdoverOver then s.unaligned else s)

/-- LATE (R36): the management controller sends the late changes again, with a later Row number. -/
def execLate (src : Mesh) (row : BitVec 48) (s : State) : Host.Outcome State Fault Refusal :=
  .next (s.reissue src.val row.toNat)

end Sys2Proof.Machine
end

