-- ==== Sys2Proof/Machine/Skeins.lean ====
section
/-!
DEFINITION. Skeins.lean: the commands of the skein engine and the latched reads (07_queues_and_skeins.md, R87, R602).
-/

namespace Sys2Proof.Machine

/-- The next operation of a kind runs. -/
def State.skStep (s : State) (op : Nat) : State :=
  match s.skNext op with
  | some o => s.skExec o
  | none => s

/-- SKEIN_OPEN (R262). -/
def execSkeinOpen (s : State) : Host.Outcome State Fault Refusal := .next (s.skStep 0x40)

/-- SKEIN_APPEND (R262, R264). -/
def execSkeinAppend (s : State) : Host.Outcome State Fault Refusal := .next (s.skStep 0x41)

/-- SKEIN_READ (R262). -/
def execSkeinRead (s : State) : Host.Outcome State Fault Refusal := .next (s.skStep 0x42)

/-- SKEIN_MARK (R262). -/
def execSkeinMark (s : State) : Host.Outcome State Fault Refusal := .next (s.skStep 0x43)

/-- SKEIN_REWIND (R262). -/
def execSkeinRewind (s : State) : Host.Outcome State Fault Refusal := .next (s.skStep 0x44)

/-- SKEIN_RELEASE (R262, R263). -/
def execSkeinRelease (s : State) : Host.Outcome State Fault Refusal := .next (s.skStep 0x45)

/-- SKEIN_RETRACT (R262, R263). -/
def execSkeinRetract (s : State) : Host.Outcome State Fault Refusal := .next (s.skStep 0x46)

/-- SKEIN_CLOSE (R262, R263). -/
def execSkeinClose (s : State) : Host.Outcome State Fault Refusal := .next (s.skStep 0x47)

/-- COUNT_PUBLICATION (R269): one Gray-code step of a published value toward its true value.
(DESIGN CHOICE: log entry 63) -/
def execCountPublication (which : PubKind) (stream : BitVec 17) (s : State) : Host.Outcome State Fault Refusal :=
  let k := stream.toNat
  let x := s.stream k
  let p := x.shown
  let t := x.truth
  if which = .fu then .next { s with sk := { s.sk with fu := grayStep s.sk.fu s.trueFu } }
  else if x.st = .closed then .next s
  else
    .next (s.setStream k { x with shown := match which with
      | .tc => { p with tc := grayStep p.tc t.tc }
      | .rc => { p with rc := grayStep p.rc t.rc }
      | .ac => { p with ac := grayStep p.ac t.ac }
      | .rest => { p with rest := grayStep p.rest t.rest }
      | .h => { p with h := grayStep p.h t.h }
      | .fu => p })

/-- Key of a path's latch for a window (R602): the yoke global window 0, motifs 1 to 48, stacks 64 to 79. -/
def latchKey (path : AccessPath) (addr : Nat) : Nat :=
  let p := match path with
    | .bar0 => 0
    | .nodeCore => 1
    | .jtag => 2
    | .chain => 3
  let w := if addr < 0x1000000 then 0 else if addr < 0x2000000 then 1 + (addr - 0x1000000) / 0x40000 else 64 + (addr - 0x2000000) / 0x10000
  p * 256 + w

/-- A 4-byte read of the low word of a 64-bit register whose value is `v` (R602). -/
def State.latchLow (s : State) (path : AccessPath) (addr v : Nat) : State :=
  { s with latches := Sparse.set none s.latches (latchKey path addr) (some (addr, v / 2 ^ 32)) }

/-- SK_COUNTS_LO_READ (R271). -/
def execSkCountsLoRead (stream : BitVec 17) (s : State) : Host.Outcome State Fault Refusal :=
  .next (s.latchLow .bar0 (0x800000 + 8 * stream.toNat) (s.skCounts stream.toNat))

/-- RW_ROW_LO_READ (R87): the high Row bits go into RW_ROW_HI. -/
def execRwRowLoRead (s : State) : Host.Outcome State Fault Refusal :=
  .next (s.setFlds [(F.RW_ROW_LO_ROW, s.rowYoke.row % 2 ^ 32), (F.RW_ROW_HI_ROW, s.rowYoke.row / 2 ^ 32)])

end Sys2Proof.Machine
end

