-- ==== Sys2Proof/Machine/Stacks.lean ====
section
/-!
DEFINITION. Stacks.lean: the commands of the stacks' controllers (09_stacked_memory.md). HB_GRANT is with the recovery
sequencer's (Recovery.lean), and HB_TEST_SEL's with the test facilities' (TestFacilities.lean).
-/

namespace Sys2Proof.Machine

/-- A temperature was read: refresh rate, grant factor, the hold of THROTTLE and STACK_HOT (R323, R324). -/
def State.stackTemp (s : State) (k t : Nat) : State :=
  let c := s.ctl k
  let x2 := if 85 < t then 1 else if t < 83 then 0 else s.fld (F.HB_STATUS_REFRESH_X2 k)
  let held := decide (105 ≤ t) || (c.held && decide (100 ≤ t))
  let s := s.setFlds [(F.HB_STATUS_TEMP k, t), (F.HB_STATUS_REFRESH_X2 k, x2)]
  let s := if held then s.setFld (F.HB_STATUS_THROTTLE k) 12 else s
  let s := s.onCtl k fun c => { c with
    held := held, rowTemp := max c.rowTemp t, tempAt := s.now,
    hotEpisode := decide (95 ≤ t) || (c.hotEpisode && decide (93 ≤ t)) }
  if 95 ≤ t && !c.hotEpisode then s.raise Ev.STACK_HOT { src := homeMotif k, d1 := k } else s

/-- STACK_TEMP_READ (R323, R324): a temperature, or none where it cannot be read; 10 ms without one is a fault of the
stack's domain (R330). -/
def execStackTempRead (s' : Stack) (temp : Option (BitVec 8)) (s : State) : Host.Outcome State Fault Refusal :=
  let k := s'.val
  match temp with
  | some t => .next (s.stackTemp k t.toNat)
  | none =>
    let c := s.ctl k
    if c.tempAt + 10000000 ≤ s.now then
      .next ((s.onCtl k fun c => { c with tempAt := s.now }).sendFaultRpt 2 (1024 + k) 0x14)
    else .next s

/-- STACK_POWER_SAMPLE (R325): charge the sample, then step THROTTLE by the projection against the grant. -/
def execStackPowerSample (s' : Stack) (mw : BitVec 32) (s : State) : Host.Outcome State Fault Refusal :=
  let k := s'.val
  let m := homeMotif k
  let s := s.onSched m fun r => { r with njStack := r.njStack + mw.toNat }
  let th := s.fld (F.HB_STATUS_THROTTLE k)
  let s := if 0 < th then s.bump (C.HB_CNT_THROTTLE_US k) 1 else s
  let c := s.ctl k
  let can := match c.stepAt with
    | none => true
    | some t => decide (t + 4000 ≤ s.now)
  match Sparse.get none s.rowYoke.stackGrant k with
  | none => .next s
  | some grant =>
    let proj := (s.sched m).njStack + mw.toNat * s.timeLeft m / 1000
    let step := fun (v : Nat) => (s.onCtl k fun c => { c with stepAt := some s.now }).setFld (F.HB_STATUS_THROTTLE k) v
    if c.held || !can then .next s
    else if grant * 1000 < proj then (if th < 12 then .next (step (th + 1)) else .next s)
    else if 16 * proj < 15 * (grant * 1000) then (if 0 < th then .next (step (th - 1)) else .next s)
    else .next s

/-- PER_BANK_REFRESH (R323): one bank is refreshed. -/
def execPerBankRefresh (s' : Stack) (pc : BitVec 6) (bank : BitVec 6) (s : State) : Host.Outcome State Fault Refusal :=
  .next (s.onCtl s'.val fun c => { c with
    refreshes := Sparse.modify 0 c.refreshes ((64 * s'.val + pc.toNat) * 64 + bank.toNat) (· + 1) })

/-- RFM (R310): issued where the bank's activations have reached the threshold that the stack reports.
(DESIGN CHOICE: log entry 69) -/
def execRfm (s' : Stack) (pc : BitVec 6) (bank : BitVec 6) (threshold : BitVec 16) (s : State) : Host.Outcome State Fault Refusal :=
  let k := s'.val
  let key := (64 * k + pc.toNat) * 64 + bank.toNat
  if threshold.toNat ≤ Sparse.get 0 (s.ctl k).acts key then
    .next ((s.onCtl k fun c => { c with acts := Sparse.set 0 c.acts key 0 }).bump (C.HB_CNT_RFM k) 1)
  else .next s

/-- Patrol is behind its period: by now it should have read more granules (R327). -/
def State.patrolLate (s : State) (k p u : Nat) : Bool :=
  decide (u * (s.pat 3 8 1 * 3600 * 10 ^ 9) < (s.now - Sparse.get 0 (s.ctl k).patrolFrom p) * 2 ^ 22)

/-- Patrol may take a place of a pseudo-channel's queue (R327): while it holds fewer than 16 requests, or, behind its period, one
place in every 64. -/
def State.patrolPlace (s : State) (k p u : Nat) : Bool :=
  let n := (s.chan (64 * k + p)).length
  decide (n < 16) || (s.patrolLate k p u && decide (n < 256) && decide (63 ≤ Sparse.get 0 (s.ctl k).sincePatrol p))

/-- PATROL_SCRUB (R327): patrol reads the next granule of a working pseudo-channel; after the last one a new period
begins, with new counts of R328 and R330. (DESIGN CHOICE: log entry 70) -/
def execPatrolScrub (s' : Stack) (pc : BitVec 6) (s : State) : Host.Outcome State Fault Refusal :=
  let k := s'.val
  let c := 64 * k + pc.toNat
  let u := Sparse.get 0 (s.ctl k).patrol c
  if !s.pcServes k pc.toNat || !s.patrolPlace k pc.toNat u then .next s
  else
    let g := s.holder (granuleAt c u s.salt)
    let fix := s.badBursts g
    let s := ((s.granuleRead g).bump (C.HB_CNT_SCRUB_GRAN k) 1).bump (C.HB_CNT_SCRUB_FIX k) fix
    let s := s.onCtl k fun x => { x with
      patrol := Sparse.set 0 x.patrol c ((u + 1) % 2 ^ 22), sincePatrol := Sparse.set 0 x.sincePatrol pc.toNat 0
      patrolFrom := if u = 0 then Sparse.set 0 x.patrolFrom pc.toNat s.now else x.patrolFrom }
    if u + 1 < 2 ^ 22 then .next s
    else .next (s.onCtl k fun x => { x with
      rowCe := x.rowCe.filter fun e => e.1 / 2 ^ 20 ≠ c, pcUe := x.pcUe.filter fun p => p ≠ c })

/-- SOFT_REPAIR (R328): a row at its limit of corrected words, or with an uncorrectable word, is read, repaired and
written back; where the bank has no repair left, the fault of R330. -/
def execSoftRepair (s' : Stack) (pc : BitVec 6) (row : BitVec 14) (sid : BitVec 2) (bank : BitVec 4) (repairLeft : Bool)
    (s : State) : Host.Outcome State Fault Refusal :=
  let k := s'.val
  let c := 64 * k + pc.toNat
  let u := row.toNat * 256 + sid.toNat * 64 + bank.toNat * 4
  let key := rowOf c u
  let x := s.ctl k
  let due := x.rowUe.contains key || (0 < s.rowCeLimit && s.rowCeLimit ≤ Sparse.get 0 x.rowCe key)
  if !due || !s.pcServes k pc.toNat then .next s
  else if !repairLeft then
    .next ((s.onCtl k fun x => { x with rowUe := x.rowUe.filter (· ≠ key), rowCe := Sparse.set 0 x.rowCe key 0 }).sendFaultRpt 2 c 0x11)
  else
    let s := (List.range 4).foldl (fun s i => s.granuleRead (s.holder (granuleAt c (u + i) s.salt))) s
    let s := s.onCtl k fun x => { x with rowUe := x.rowUe.filter (· ≠ key), rowCe := Sparse.set 0 x.rowCe key 0 }
    let s := { s with memMap := { s.memMap with
      repairs := if s.memMap.repairs.contains key then s.memMap.repairs else s.memMap.repairs ++ [key]
      soft := if s.memMap.soft.contains key then s.memMap.soft else s.memMap.soft ++ [key] } }
    .next ((s.bump (C.HB_CNT_SPPR k) 1).bump (C.HB_PC_CNT_BURSTS k pc.toNat) 32)

/-- One pseudo-channel's Row is hot or not (R331). -/
def State.streak (s : State) (k mean p : Nat) : State :=
  let n := Sparse.get 0 (s.ctl k).bursts2 p
  let st := s.fld (F.HB_PC_HOT_STREAK k p)
  if 4 * mean < n && 4096 ≤ n then
    let s := s.setFld (F.HB_PC_HOT_STREAK k p) (min 65535 (st + 1))
    if st = 63 then (s.setFld (F.HB_PC_HOT_HOT k p) 1).raise Ev.HOT_CHANNEL { src := homeMotif k, d1 := 64 * k + p } else s
  else if st = 0 then s
  else s.setFld (F.HB_PC_HOT_STREAK k p) 0

/-- HOT_MEAN (R331): the mean reaches a home, which judges the Row before last of each of its pseudo-channels. -/
def execHotMean (s' : Stack) (mean : BitVec 32) (s : State) : Host.Outcome State Fault Refusal :=
  .next ((List.range 64).foldl (fun s p => s.streak s'.val mean.toNat p) s)

/-- EVAC_SEGMENT_COPY (R337, R338): the next segment is copied; its copy overlaps the commit of the one before. -/
def execEvacSegmentCopy (s : State) : Host.Outcome State Fault Refusal :=
  match s.memMap.evac with
  | none => .next s
  | some u =>
    let q := s.memMap.copied
    if s.fld F.HB_EVAC_STATE = 2 && q < u.segments && q ≤ s.fld F.HB_EVAC_SEG_DONE + 1 then
      let s := s.copySegment u q
      .next { s with memMap := { s.memMap with copied := q + 1 } }
    else .next s

/-- EVAC_SEGMENT_COMMIT (R338): the redirects and both commit records; the last one ends the map-out. -/
def execEvacSegmentCommit (s : State) : Host.Outcome State Fault Refusal :=
  match s.memMap.evac with
  | none => .next s
  | some u =>
    let q := s.fld F.HB_EVAC_SEG_DONE
    if s.fld F.HB_EVAC_STATE = 2 && q < s.memMap.copied then
      let s := (s.redirectSegment u q).setFld F.HB_EVAC_SEG_DONE (q + 1)
      let s := { s with memMap := { s.memMap with aonDone := some (q + 1), flashDone := some (q + 1) } }
      .next (if q + 1 = u.segments then (s.endEvac u).endStack else s)
    else .next s

/-- HB_INJECT_ARM (R342): a write of HB_INJECT, ignored while MEM_INJECT is closed. -/
def execHbInjectArm (s' : Stack) (v : BitVec 32) (s : State) : Host.Outcome State Fault Refusal :=
  if s.hook 1 then .next (s.setReg (F.HB_INJECT_ARM s'.val).addr (v.toNat &&& 0x80FFFFFF)) else .next s

/-- HB_TGEN_START (R340): a write of HB_TGENp; START acts only on a pseudo-channel in TEST. -/
def execHbTgenStart (s' : Stack) (pc : BitVec 6) (v : BitVec 32) (s : State) : Host.Outcome State Fault Refusal :=
  let k := s'.val
  let p := pc.toNat
  let s := s.setFlds [(F.HB_TGEN_PATTERN k p, bits v.toNat 6 4), (F.HB_TGEN_MODE k p, bits v.toNat 1 0)]
  let s := if v.getLsbD 29 then s.setFld (F.HB_TGEN_DONE k p) 0 else s
  if v.getLsbD 31 && (s.fld (F.HB_PC_TEST_TEST k)).testBit p && s.fld (Loop.BUSY (.hb s')) = 0 then .next (s.setFld (F.HB_TGEN_BUSY k p) 1) else .next s

/-- HB_TGEN_DONE (R340): a run ends with what the checker found. (DESIGN CHOICE: log entry 70) -/
def execHbTgenDone (s' : Stack) (pc : BitVec 6) (miscompare ecc : BitVec 64) (firstBad : Option (BitVec 22)) (s : State) :
    Host.Outcome State Fault Refusal :=
  let k := s'.val
  let p := pc.toNat
  if s.fld (F.HB_TGEN_BUSY k p) = 0 then .next s
  else
    let mode := s.fld (F.HB_TGEN_MODE k p)
    let s := s.setFlds [(F.HB_TGEN_BUSY k p, 0), (F.HB_TGEN_DONE k p, 1)]
    let s := (s.bumpPlain (F.HB_TGEN_MISCOMPARE k p).addr miscompare.toNat).bumpPlain (F.HB_TGEN_ECC_EVENTS k p).addr ecc.toNat
    let s := s.bump (C.HB_PC_CNT_BURSTS k p) ((if mode = 2 then 16 else 8) * s.fld (F.HB_TGEN_COUNT k p))
    match firstBad with
    | none => .next s
    | some u => if s.fld (F.HB_TGEN_BAD_VALID k p) = 1 then .next s
      else .next (s.setFlds [(F.HB_TGEN_BAD_VALID k p, 1), (F.HB_TGEN_FIRST_BAD k p, u.toNat)])

/-- BURST_DONE (R314 to R322): the burst of a queued request is made; or that of another agent's request is read, with the bits that
have gone wrong in it, and decoded, or written, on its pseudo-channel. (DESIGN CHOICE: log entries 33, 138) -/
def execBurstDone (s' : Stack) (pc : BitVec 6) (r : BurstReq) (s : State) : Host.Outcome State Fault Refusal :=
  let pa := match r with
    | .read pa _ => pa.toNat
    | .write pa _ _ => pa.toNat
  let c := 64 * s'.val + pc.toNat
  let here := s.pcAt pa = c
  if (s.chan c).any (fun q => q.left.contains (pa / 32)) then .next (s.burstMade c (pa / 32))
  else if !here || s.evacHeld (pa / 128) then .next s
  else
    let s := s.activateBank pa
    match r with
    | .read _ wrong => .next ((s.upset (pa / 32) wrong).burstRead (pa / 32))
    | .write _ data mask =>
      let bs := (toBytes 32 data.toNat).zipIdx.map fun (b, i) => if mask.getLsbD i then some b else none
      .next (s.burstWrite (pa / 32) bs)

end Sys2Proof.Machine
end

