-- ==== Sys2Proof/Machine/TestFacilities.lean ====
section
/-!
DEFINITION. TestFacilities.lean: the test hold, memory test, built-in self-test and loop-backs (17_test_and_loopbacks.md).
-/

namespace Sys2Proof.Machine

/-- The test hold ends (R554): runs stop, seams that ran a loop-back retrain, and cast-on goes on at step 5.
(DESIGN CHOICE: log entry 118) -/
def State.testRelease (s : State) : State :=
  if s.fld F.MC_TEST_CTL_IN_HOLD = 1 && s.hook 0 then
    let s := s.stopRuns
    let s := s.mc.cast.looped.foldl State.retrain s
    let s := s.onCast fun c => { c with held := c.held + (s.now - c.heldAt.getD s.now), heldAt := none, looped := [] }
    State.castSteps goodReport [5, 6] (s.setFld F.MC_TEST_CTL_IN_HOLD 0)
  else s

/-- MC_TEST_RELEASE (R554, R567). -/
def execMcTestRelease (s : State) : Host.Outcome State Fault Refusal := .next s.testRelease

/-- ENTER or LEAVE is refused (R568). (DESIGN CHOICE: log entry 117) -/
def State.testRefused (s : State) : State := s.setFld F.HB_TEST_SEL_REFUSED 1

/-- A pseudo-channel's bit of a stack's field. -/
def State.pcBit (s : State) (f : Nat → Fld) (pc : Nat) : Bool := (s.fld (f (pc / 64))).testBit (pc % 64)

/-- ENTER (R560): a mapped-out or fenced pseudo-channel from which no evacuation copies, at ready.
(DESIGN CHOICE: log entry 117) -/
def State.testEnter (s : State) (pc : Nat) : State :=
  if !s.hook 0 then s
  else
    let s := s.setFld F.HB_TEST_SEL_PC pc
    let copied := match s.memMap.evac with
      | some u => u.members.contains pc
      | none => false
    if s.fld F.MC_STATUS_STATE = 2 && (s.pcBit F.HB_PC_OUT_OUT pc || s.pcBit F.HB_PC_FENCED_FENCED pc) && !copied then
      s.setFld (F.HB_PC_TEST_TEST (pc / 64)) (s.fld (F.HB_PC_TEST_TEST (pc / 64)) ||| 2 ^ (pc % 64))
    else s.testRefused

/-- HB_TEST_ENTER (R560). -/
def execHbTestEnter (pc : BitVec 10) (s : State) : Host.Outcome State Fault Refusal := .next (s.testEnter pc.toNat)

/-- LEAVE (R560, R568): a run that its generator has in progress ends. (DESIGN CHOICE: log entry 117) -/
def State.testLeave (s : State) (pc : Nat) : State :=
  if !s.hook 0 then s
  else
    let k := pc / 64
    let p := pc % 64
    let s := s.setFld F.HB_TEST_SEL_PC pc
    if s.pcBit F.HB_PC_TEST_TEST pc && (s.pcBit F.HB_PC_OUT_OUT pc || s.pcBit F.HB_PC_FENCED_FENCED pc) then
      let s := if s.fld (F.HB_TGEN_BUSY k p) = 1 then s.setFlds [(F.HB_TGEN_BUSY k p, 0), (F.HB_TGEN_DONE k p, 1)] else s
      s.setFld (F.HB_PC_TEST_TEST k) (s.fld (F.HB_PC_TEST_TEST k) &&& (2 ^ 64 - 1 - 2 ^ p))
    else s.testRefused

/-- HB_TEST_LEAVE (R560, R568). (DESIGN CHOICE: log entry 117) -/
def execHbTestLeave (pc : BitVec 10) (s : State) : Host.Outcome State Fault Refusal := .next (s.testLeave pc.toNat)

/-- A START of MC_BIST (R562): any motif in the test hold; a SPARE or MEM_ONLY one at ready. -/
def State.bistStart (s : State) (m : Nat) : State :=
  if !s.hook 4 then s
  else
    let may := m < 48 && (s.fld F.MC_TEST_CTL_IN_HOLD = 1 || (s.fld F.MC_STATUS_STATE = 2 && (s.pos m = 2 || s.pos m = 3)))
    if s.fld F.MC_BIST_BUSY = 0 && may then s.setFlds [(F.MC_BIST_MOTIF, m), (F.MC_BIST_BUSY, 1)]
    else if s.fld F.MC_BIST_BUSY = 0 then s.setFld F.MC_BIST_MOTIF m
    else s

/-- MC_BIST_START (R562). -/
def execMcBistStart (m : BitVec 6) (s : State) : Host.Outcome State Fault Refusal := .next (s.bistStart m.toNat)

/-- A SPARE that fails leaves the spares: recorded first, then at a named edge (R562). (DESIGN CHOICE: log entry 117) -/
def State.spareFails (s : State) (m : Nat) : State :=
  let code := s.failedState m
  let s := { s with recovery := { s.recovery with darns := (s.recovery.darns.filter fun (x : Nat × Nat) => x.1 ≠ m) ++ [(m, code)] } }
  let s := s.issueAll s.namedRow (.pos m code)
  if code = 5 then s.reroute s.namedRow [m] else s

/-- MC_BIST_DONE (R562). -/
def execMcBistDone (failUnit : BitVec 3) (s : State) : Host.Outcome State Fault Refusal :=
  if s.fld F.MC_BIST_BUSY = 1 then
    let m := s.fld F.MC_BIST_MOTIF
    let s := s.setFlds [(F.MC_BIST_BUSY, 0), (F.MC_BIST_DONE, 1), (F.MC_BIST_PASS, flag (decide (failUnit = 0))),
      (F.MC_BIST_FAIL_UNIT, failUnit.toNat)]
    .next (if failUnit ≠ 0 && s.pos m = 2 then s.spareFails m else s)
  else .next s

/-- The instant of a run's START or LOCK. -/
def State.loopNow (s : State) (b : LoopBlock) : State :=
  s.onMc fun m => { m with loops := Sparse.set 0 m.loops (loopBase b) s.now }
def State.loopSince (s : State) (b : LoopBlock) : Nat := Sparse.get 0 s.mc.loops (loopBase b)

/-- A write of a control block's first word that starts a run (R556, R557). -/
def State.loopStart (s : State) (b : LoopBlock) (v : Nat) : State :=
  if !s.hook 2 then s
  else
    let s := s.setFlds [(Loop.PATTERN b, bits v 6 4), (Loop.DEPTH b, bits v 2 0)]
    let s := if v.testBit 29 then s.setFld (Loop.DONE b) 0 else s
    if v.testBit 31 && s.fld (Loop.BUSY b) = 0 && s.loopAllowed b (bits v 2 0) then
      let s := s.setFlds [(Loop.BITS b, 0), (Loop.ERRORS b, 0), (Loop.LANE_ERR b, 0), (Loop.LOCK b, 0), (Loop.BUSY b, 1)]
      let s := s.loopNow b
      let s := match b with
        | .sm i => s.onCast fun c => { c with looped := if c.looped.contains i.val then c.looped else c.looped ++ [i.val] }
        | _ => s
      s.loopEnter b
    else s

/-- LOOPBACK_START (R557). -/
def execLoopbackStart (b : LoopBlock) (v : BitVec 32) (s : State) : Host.Outcome State Fault Refusal :=
  .next (s.loopStart b (setBits v.toNat 31 31 1))

/-- What the checkers have counted since LOCK. -/
def State.loopCount (s : State) (b : LoopBlock) (bits' errors laneErr : Nat) : State :=
  let s := (s.bumpPlain (Loop.BITS b).addr bits').bumpPlain (Loop.ERRORS b).addr errors
  s.setFld (Loop.LANE_ERR b) (s.fld (Loop.LANE_ERR b) ||| laneErr)

/-- LOOPBACK_STOP (R557). -/
def execLoopbackStop (b : LoopBlock) (bits' errors laneErr : BitVec 64) (s : State) : Host.Outcome State Fault Refusal :=
  if s.hook 2 && s.fld (Loop.BUSY b) = 1 then
    let s := if s.fld (Loop.LOCK b) = 1 then s.loopCount b bits'.toNat errors.toNat laneErr.toNat else s
    .next (s.loopEnd b)
  else .next s

/-- LOOPBACK_LOCK (R557). -/
def execLoopbackLock (b : LoopBlock) (s : State) : Host.Outcome State Fault Refusal :=
  if s.fld (Loop.BUSY b) = 1 && s.fld (Loop.LOCK b) = 0 then .next ((s.setFld (Loop.LOCK b) 1).loopNow b) else .next s

/-- Lanes, modules or pseudo-channels of an interface. (DESIGN CHOICE: log entry 118) -/
def State.loopLanes (s : State) (b : LoopBlock) : Nat :=
  match b with
  | .px => 2 ^ 16 - 1
  | .fb p => 2 ^ s.fld (F.FB_PORT_LANES p.val) - 1
  | .sm _ => 0xFF
  | .hb k => s.fld (F.HB_PC_TEST_TEST k.val)

/-- LOOPBACK_LOCK_TIMEOUT (R557): 10 ms after START without LOCK, every bit counts in error.
(DESIGN CHOICE: log entry 118) -/
def execLoopbackLockTimeout (b : LoopBlock) (bits' : BitVec 64) (s : State) : Host.Outcome State Fault Refusal :=
  if s.fld (Loop.BUSY b) = 1 && s.fld (Loop.LOCK b) = 0 && s.loopSince b + 10000000 ≤ s.now then
    let n := bits'.toNat
    .next ((s.loopCount b n n (if n = 0 then 0 else s.loopLanes b)).loopEnd b)
  else .next s

/-- LOOPBACK_DURATION_END (R557): DURATION_MS after LOCK. -/
def execLoopbackDurationEnd (b : LoopBlock) (bits' errors laneErr : BitVec 64) (s : State) : Host.Outcome State Fault Refusal :=
  let ms := s.fld (Loop.DURATION_MS b)
  if s.fld (Loop.BUSY b) = 1 && s.fld (Loop.LOCK b) = 1 && ms ≠ 0 && s.loopSince b + ms * 1000000 ≤ s.now then
    .next ((s.loopCount b bits'.toNat errors.toNat laneErr.toNat).loopEnd b)
  else .next s

end Sys2Proof.Machine
end

