-- ==== Sys2Proof/Machine/RegOps.lean ====
section
/-!
DEFINITION. RegOps.lean: reads and writes of registers by address (R14, R19, R386, R406, R407, R551, R602).
-/

namespace Sys2Proof.Machine

/-- Where an address lies (R19): the yoke global window, a motif's, a guest's, a stack's, or beyond every window. -/
inductive RegPlace where
  | yoke | motif (m : Nat) | guest (g : Nat) | stack (k : Nat) | beyond
  deriving DecidableEq, Repr

def regPlace (a : Nat) : RegPlace :=
  if a < 0x1000000 then .yoke
  else if a < 0x1C00000 then .motif ((a - 0x1000000) / 0x40000)
  else if a < 0x2000000 then .guest ((a - 0x1C00000) / 0x200000)
  else if a < 0x2100000 then .stack ((a - 0x2000000) / 0x10000)
  else .beyond

/-- The offset of an address in its window. -/
def regOff (a : Nat) : Nat :=
  match regPlace a with
  | .yoke => a
  | .motif _ => (a - 0x1000000) % 0x40000
  | .guest _ => (a - 0x1C00000) % 0x200000
  | .stack _ => (a - 0x2000000) % 0x10000
  | .beyond => a

/-- The offset at which the register of a row that holds offset `off` begins. -/
def RegRow.startOf (r : RegRow) (off : Nat) : Option Nat :=
  if off < r.off then none
  else
    let d := off - r.off
    let i := if r.count2 ≤ 1 then 0 else d / r.stride2
    let e := d - i * r.stride2
    let j := if r.count ≤ 1 then 0 else e / r.stride
    if i < max 1 r.count2 && j < r.count && e - j * r.stride < r.width / 8 then some (r.off + i * r.stride2 + j * r.stride) else none

/-- The row and the beginning of the register that holds offset `off`. -/
def findRow (off : Nat) : List RegRow → Option (RegRow × Nat)
  | [] => none
  | r :: rs =>
    match r.startOf off with
    | some b => some (r, b)
    | none => findRow off rs

/-- The register that holds address `a`: its row and its own address. -/
def regAt (a : Nat) : Option (RegRow × Nat) :=
  let off := regOff a
  let rows := match regPlace a with
    | .yoke => regRowsY
    | .motif _ => regRowsM
    | .stack _ => regRowsS
    | _ => []
  match findRow off rows with
  | some (r, b) => some (r, a - off + b)
  | none => none

/-- The ones of bits `hi` down to `lo`. -/
def ones (hi lo : Nat) : Nat := (2 ^ (hi + 1 - lo) - 1) * 2 ^ lo

/-- The bits of the fields whose access code is one of `cs` (R14). -/
def fieldMask (cs : List Access) : List RegField → Nat
  | [] => 0
  | f :: fs => (if cs.contains f.access then ones f.hi f.lo else 0) ||| fieldMask cs fs

/-- The yoke's phase (R85): edge window of 4 µs, body, guard of 25 µs. (DESIGN CHOICE: log entry 4) -/
def State.yokePhase (s : State) : Nat :=
  let t := s.now - s.rowYoke.began
  if t < 4000 then 0 else if s.rpNs - 25000 ≤ t then 2 else 1

/-- Seconds in the current holdover, saturating. -/
def State.holdSeconds (s : State) : Nat :=
  match s.hall.since with
  | some t => if s.fld F.TS_STATUS_HOLDOVER = 1 then min 65535 ((s.now - t) / secNs 1) else 0
  | none => 0

/-- QE_QSTATE of the queue that QE_QSEL names (R242). (DESIGN CHOICE: log entry 4) -/
def State.qstateWord (s : State) : Nat :=
  let k := s.fld F.QE_QSEL_QID
  let q := s.queue k
  let st := match q.state with
    | .disabled => 0
    | .active => 1
    | .paused => 2
    | .stopping => 3
    | .stopped => 4
    | .hostWait => 5
  packBits [(0, 3, st), (8, 2, q.cause), (10, 6, (motifIds.filter fun m => q.mask.getLsbD m && s.pos m = 1).length),
    (16, 12, q.asid), (28, 4, q.cls)]

/-- The hook whose closing hides a register (R551). -/
def hookOf (a : Nat) : Option Nat :=
  if a = F.MC_TEST_CTL_HOLD.addr || a = F.HB_TEST_SEL_PC.addr then some 0
  else if 0x2000000 ≤ a && a < 0x2100000 && a % 0x10000 = 0x200 then some 1
  else if (0xA0500 ≤ a && a < 0xA0540) || (0xC0200 ≤ a && a < 0xC0300) || (0x90800 ≤ a && a < 0x91E80) ||
      (0x70100 ≤ a && a < 0x70500) then some 2
  else if a = F.MC_BIST_MOTIF.addr then some 4
  else none

/-- The register at `a` is closed by its hook (R342, R551). -/
def State.hidden (s : State) (a : Nat) : Bool :=
  match hookOf a with
  | some k => !s.hook k
  | none => false

/-- What a register holds, where it shows state kept elsewhere, or else its stored value. -/
def State.shown (s : State) (a : Nat) : Nat :=
  if a = F.QE_QSTATE_STATE.addr then s.qstateWord
  else if a = F.QE_QIDX_SQ_HEAD.addr then (s.queue (s.fld F.QE_QSEL_QID)).head
  else if 0x800000 ≤ a && a < 0x900000 then s.skCounts ((a - 0x800000) / 8)
  else if a = F.SK_POOL_FREE_FU.addr then packBits [(0, 23, s.sk.fu), (32, 23, s.reservedCells)]
  else if a = F.RW_STATUS_PHASE.addr then setBits (s.reg a) 3 2 s.yokePhase
  else if a = F.RW_ROW_LO_ROW.addr then s.rowYoke.row % 2 ^ 32
  else if a = F.TS_TIME_LO_TIME.addr then s.now % 2 ^ 32
  else if a = F.TS_STATUS_HOLD_S.addr then setBits (s.reg a) 31 16 s.holdSeconds
  else
    match regPlace a with
    | .motif m =>
      if 0xA040 ≤ regOff a && regOff a < 0xA060 then setBits (s.reg a) 31 16 (s.readyMask m ((regOff a - 0xA040) / 4)) else s.reg a
    | _ => s.reg a

/-- The fields loaded from the Pattern, whose reset value reads P, of the register at `a` (R18). -/
def patternBits (a : Nat) : Nat :=
  if 0x10000 ≤ a && a < 0x10018 then ones 31 0
  else if a = F.PT_POS_SUMMARY_ENABLED.addr then ones 31 0
  else if a = F.PT_HOOKS_HOOKS.addr || a = F.PT_QUEUE_LOG2_SQ.addr then ones 31 0
  else if a = F.RW_PERIOD_RP_US.addr || (0x20100 ≤ a && a < 0x20140) then ones 31 0
  else if a = F.GA_LIMIT_PAT_W.addr then ones 12 0
  else if a = F.GA_MOTIF_PWR_P_REF_MW.addr then ones 63 0
  else if a = F.GA_NONMOTIF_NONMOTIF_W.addr then ones 11 0
  else if a = F.SK_POOL_CFG_POOL_CELLS.addr || a = F.SK_POOL_BASE_BASE.addr then ones 63 0
  else if 0x81000 ≤ a && a < 0x81800 then ones 63 0
  else if 0x90400 ≤ a && a < 0x90600 then ones 63 0
  else if a = F.PX_STATUS_DL_UP.addr then ones 21 16
  else if 0xA0200 ≤ a && a < 0xA0210 then ones 31 0
  else if 0xC0000 ≤ a && a < 0xC0040 && a % 16 = 0 then ones 23 16
  else if a = F.FB_NODE_NODE.addr || a = F.FB_VLAN_VID.addr || a = F.FB_XPORT_RTO_US.addr then ones 31 0
  else if 0xC1000 ≤ a && a < 0xC1200 then ones 63 61 ||| ones 27 0
  else if a = F.MC_STATUS_STATE.addr then ones 7 0
  else 0

/-- Cast-on has completed (R18, R518). -/
def State.castDone (s : State) : Bool := s.fld F.MC_CASTON_STEP = 7

/-- What a read of the whole register at `a`, of row `r`, returns (R14): a P field reads 0 until cast-on completes (R18).
(DESIGN CHOICE: log entry 4) -/
def State.readWhole (s : State) (r : RegRow) (a : Nat) : Nat :=
  let v := if s.castDone then s.shown a else s.shown a &&& ((2 ^ 64 - 1) ^^^ patternBits a)
  if s.hidden a then 0 else v &&& fieldMask [.ro, .rw, .rw1c, .rws] r.fields

/-- The die that serves a window over the chain (R386): the motif, or the stack's home; 64 where none does. -/
def dieOf (a : Nat) : Nat :=
  match regPlace a with
  | .motif m => m
  | .stack k => homeMotif k
  | .guest g => 56 + g
  | _ => 64

/-- Windows that the chain serves are served: at ready, or in the test hold (R520, R553).
(DESIGN CHOICE: log entry 122) -/
def State.chainServed (s : State) : Bool := s.fld F.MC_STATUS_STATE = 2 || s.fld F.MC_STATUS_STATE = 4 || s.fld F.MC_TEST_CTL_IN_HOLD = 1

/-- An access to the window goes over the chain: not before ready, and not for a DROPPED position (R386, R520).
(DESIGN CHOICE: log entry 122) -/
def State.overChain (s : State) (a : Nat) : Bool :=
  match regPlace a with
  | .motif m => s.chainServed && s.pos m ≠ 5
  | .stack k => s.chainServed && s.pos (homeMotif k) ≠ 5
  | .guest _ => s.chainServed
  | _ => false

/-- The state after reading the low half of RW_ROW or TS_TIME, which latches its high half (R87, R461).
(DEDUCED: log entry 120) -/
def State.pairLatch (s : State) (a : Nat) : State :=
  if a = F.RW_ROW_LO_ROW.addr then
    s.setFlds [(F.RW_ROW_LO_ROW, s.rowYoke.row % 2 ^ 32), (F.RW_ROW_HI_ROW, s.rowYoke.row / 2 ^ 32)]
  else if a = F.TS_TIME_LO_TIME.addr then s.setFld F.TS_TIME_HI_TIME (s.now / 2 ^ 32)
  else s

/-- A read of 4 bytes on an access path, at the register itself (R406, R407, R602).
(DEDUCED: log entry 120; DESIGN CHOICE: log entry 127) -/
def State.read4 (s : State) (path : AccessPath) (a : Nat) : Nat × State :=
  let key := latchKey path a
  let clear (s : State) : State := { s with latches := Sparse.set none s.latches key none }
  match regAt a with
  | none => (0, clear s)
  | some (r, b) =>
    if r.width = 32 then (s.readWhole r b, clear (s.pairLatch b))
    else if a = b then
      let v := s.readWhole r b
      (v % 2 ^ 32, s.latchLow path b v)
    else
      let v := match Sparse.get none s.latches key with
        | some (b', hi) => if b' = b then hi else s.readWhole r b / 2 ^ 32
        | none => s.readWhole r b / 2 ^ 32
      (v, clear s)

/-- A read of 8 bytes (R406): a 64-bit register at one instant, or two 32-bit ones, the lower first.
(DEDUCED: log entry 120) -/
def State.read8 (s : State) (path : AccessPath) (a : Nat) : Nat × State :=
  match regAt a with
  | some (r, b) =>
    if r.width = 64 then (s.readWhole r b, s)
    else
      let x := s.read4 path a
      let y := x.2.read4 path (a + 4)
      (x.1 + 2 ^ 32 * y.1, y.2)
  | none =>
    let y := s.read4 path (a + 4)
    (2 ^ 32 * y.1, y.2)

/-- A read at the register itself. -/
def State.readReg (s : State) (path : AccessPath) (wide : Bool) (a : Nat) : Nat × State :=
  if wide then s.read8 path a else s.read4 path a

/-! ### Writes -/

/-- What writing a command's row leaves. -/
def State.after (s : State) (o : Host.Outcome State Fault Refusal) : State :=
  match o with
  | .next t => t
  | _ => s

/-- The stored value after a write of `v` to the bits `lanes` (R14, R406). -/
def writeBits (fs : List RegField) (old v lanes : Nat) : Nat :=
  let w := fieldMask [.rw, .rws] fs &&& lanes
  let c := fieldMask [.rw1c] fs &&& lanes &&& v
  let keep := 2 ^ 64 - 1
  ((old &&& (keep ^^^ w)) ||| (v &&& w)) &&& (keep ^^^ c)

/-- The whole word that a write of `v` to the bits `lanes` stands for (R406): the other half's RW fields as they are, 0 for its
RW1C and WO bits. -/
def wholeWord (fs : List RegField) (old v lanes : Nat) : Nat :=
  (v &&& lanes) ||| (old &&& fieldMask [.rw, .rws] fs &&& ((2 ^ 64 - 1) ^^^ lanes))

/-- EV_RING_BASE (R239, R599): EN from 0 to 1 takes the fields and restarts the ring empty, or is refused. -/
def State.evBase (s : State) (w : Nat) : State :=
  let was := s.fld F.EV_RING_BASE_EN = 1
  let w := w &&& 0xFFFFFFFFFFFFF07F
  let s := s.setReg F.EV_RING_BASE_EN.addr w
  if w % 2 = 1 && !was then
    if 6 ≤ bits w 6 2 && bits w 6 2 ≤ 16 then
      let s := { s with ev := { s.ev with log2 := bits w 6 2, loc := bits w 1 1 = 1, base := bits w 63 12 * 4096 } }
      State.satDrain 4 (State.evDrain 260 (s.setFlds [(F.EV_RING_PI_PI, 0), (F.EV_RING_CI_CI, 0)]))
    else s.setFld F.EV_RING_BASE_EN 0
  else s

/-- EV_RING_CI (R255, R599): slots return and held records are written, or the write is dropped. -/
def State.evCi (s : State) (w : Nat) : State :=
  let n := bits w 23 0
  if ciAccepted (s.fld F.EV_RING_CI_CI) (s.fld F.EV_RING_PI_PI) n then
    State.satDrain 4 (State.evDrain 260 (s.setFld F.EV_RING_CI_CI n))
  else s.setFld F.EV_STICKY_CI_DROPPED 1

/-- A control block's first word (R556): STOP ends the run that START would have to follow, and the DONE it sets stays set (R15).
(DESIGN CHOICE: log entry 121) -/
def State.loopWrite (s : State) (b : LoopBlock) (v : Nat) : State :=
  if !s.hook 2 then s
  else
    let s := if v.testBit 29 then s.setFld (Loop.DONE b) 0 else s
    let s := if v.testBit 28 then s.loopEnd b else s
    s.loopStart b (setBits v 29 29 0)

/-- The loop-back block whose first word lies at `a`. (DESIGN CHOICE: log entry 121) -/
def loopAt (a : Nat) : Option LoopBlock := loopBlocks.find? fun b => loopBase b = a

/-- A register whose write does more than its fields' access codes say: what the whole word `w` written to it does, where the row's
own value would otherwise be `kept`. (DESIGN CHOICE: log entry 121) -/
def State.writeActs (s : State) (a w kept : Nat) : Option State :=
  let v32 := BitVec.ofNat 32 w
  let v64 := BitVec.ofNat 64 w
  match regPlace a with
  | .motif m =>
    if h : m < 48 then
      let off := regOff a
      if 0x8010 ≤ off && off < 0x8020 then
        let set : Fin 4 := ⟨(off - 0x8010) / 4 % 4, Nat.mod_lt _ (by decide)⟩
        some (s.after (execMxAccstateWrite ⟨m, h⟩ set v32 s))
      else if off = 0xB004 then
        let s := s.setReg a kept
        some (if w.testBit 2 then s.after (execL2PredClear ⟨m, h⟩ s) else s)
      else none
    else none
  | .stack k =>
    if h : k < 16 then
      let off := regOff a
      if off = 0x200 then some (s.after (execHbInjectArm ⟨k, h⟩ v32 s))
      else if 0x3000 ≤ off && off < 0x4000 && off % 64 = 0 then
        some (s.after (execHbTgenStart ⟨k, h⟩ (BitVec.ofNat 6 ((off - 0x3000) / 64)) v32 s))
      else none
    else none
  | .yoke =>
    if a = F.GA_LIMIT_OVR_W.addr then some (s.after (execGaLimitWrite v32 s))
    else if a = F.QE_ADMIN_SQ_EN.addr then some (s.after (execQeAdminSqWrite v64 s))
    else if a = F.QE_ADMIN_CQ_EN.addr then some (s.after (execQeAdminCqWrite v64 s))
    else if a = F.QE_CQ_DB_CI.addr then some (s.after (execQeCqDb v64 s))
    else if a = F.HB_GRANT_GRANT.addr then some (s.after (execHbGrant v32 s))
    else if a = F.TU_FRING_BASE_EN.addr then some (s.after (execTuFringBaseWrite v64 s))
    else if a = F.TU_FRING_CI_CI.addr then some (s.after (execTuFringCiWrite v32 s))
    else if a = F.TU_FAULT_RESOLVE_ACTION.addr then
      let entry := BitVec.ofNat 8 (bits w 7 0)
      let gen := BitVec.ofNat 8 (bits w 15 8)
      some (if bits w 17 16 = 1 then s.after (execFaultResume entry gen s)
        else if bits w 17 16 = 2 then s.after (execFaultAbort entry gen s) else s)
    else if a = F.TU_INV_CTL_GO.addr then
      let s := s.setReg a kept
      let asid := BitVec.ofNat 12 (bits w 11 0)
      some (if !w.testBit 31 then s
        else match bits w 30 29 with
          | 0 => s.after (execInvPage asid s)
          | 1 => s.after (execInvRange (BitVec.ofNat 17 (bits w 28 12)) asid s)
          | 2 => s.after (execInvAsid asid s)
          | _ => s.after (execInvAll s))
    else if a = F.PX_LOST_POP_POP.addr then some (if w.testBit 0 then s.after (execPxLostPop s) else s)
    else if a = F.FB_LOT_CMD_GO.addr then
      let index := BitVec.ofNat 6 (bits w 60 55)
      let row := BitVec.ofNat 48 (bits w 47 0)
      some (if !w.testBit 63 then s
        else if bits w 62 61 = 1 then s.after (execLotAdd index row s)
        else if bits w 62 61 = 2 then s.after (execLotBindoff index row s) else s)
    else if a = F.MC_MBOX_CTL_GO.addr then
      let s := s.setReg a kept
      some (if w.testBit 31 then s.mboxGo else s)
    else if a = F.MC_TEST_CTL_HOLD.addr then
      let s := s.setReg a kept
      some (if w.testBit 2 then s.testRelease else s)
    else if a = F.HB_TEST_SEL_PC.addr then
      let t := s.setReg a kept
      let pc := bits w 9 0
      some (if w.testBit 29 && w.testBit 30 then s
        else if w.testBit 29 then t.testEnter pc
        else if w.testBit 30 then t.testLeave pc else t)
    else if a = F.MC_BIST_START.addr then
      some (if w.testBit 31 && s.fld F.MC_BIST_BUSY = 0 then (s.setReg a kept).bistStart (bits w 5 0) else s.setReg a kept)
    else if a = F.EV_RING_BASE_EN.addr then some (s.evBase w)
    else if a = F.EV_RING_CI_CI.addr then some (s.evCi w)
    else if 0xB0000 ≤ a && a < 0xB8000 && a % 16 = 12 then
      some (State.satDrain 4 (s.setReg a kept).sendPending)
    else match loopAt a with
      | some b => some (s.loopWrite b w)
      | none => none
  | _ => none

/-- A write of `v` to the bits `lanes` of the register of row `r` at `a`. -/
def State.writeLanes (s : State) (r : RegRow) (a v lanes : Nat) : State :=
  if s.hidden a then s
  else
    let old := s.reg a
    let kept := writeBits r.fields old v lanes
    match s.writeActs a (wholeWord r.fields old v lanes) kept with
    | some t => t
    | none => s.setReg a kept

/-- A write of 4 bytes at the register itself (R406, R407). -/
def State.write4 (s : State) (a v : Nat) : State :=
  match regAt a with
  | none => s
  | some (r, b) => if a = b then s.writeLanes r b (v % 2 ^ 32) (2 ^ 32 - 1) else s.writeLanes r b (v % 2 ^ 32 * 2 ^ 32) ((2 ^ 32 - 1) * 2 ^ 32)

/-- A write of 8 bytes (R406): a 64-bit register at once, or two 32-bit ones, the lower first. -/
def State.write8 (s : State) (a v : Nat) : State :=
  match regAt a with
  | some (r, b) => if r.width = 64 then s.writeLanes r b v (2 ^ 64 - 1) else (s.write4 a (v % 2 ^ 32)).write4 (a + 4) (v / 2 ^ 32)
  | none => s.write4 (a + 4) (v / 2 ^ 32)

/-- A write at the register itself. -/
def State.writeReg (s : State) (wide : Bool) (a v : Nat) : State := if wide then s.write8 a v else s.write4 a v

/-- An access of 4 or 8 bytes is naturally aligned. -/
def regAligned (wide : Bool) (a : Nat) : Bool := a % (if wide then 8 else 4) = 0

/-- The frames REG_RD, REG_WR and REG_RSP of the register at `a`. (DESIGN CHOICE: log entry 119) -/
def regFrame (ty a : Nat) (wide : Bool) (v : Nat) : Nat := regPayload ty (dieOf a) a wide v

/-- A guest has joined and offset `a` lies in its register window (R3, R400). -/
def State.guestHas (s : State) (a : Nat) : Bool :=
  match regPlace a with
  | .guest g => s.guestIn (56 + g) && regOff a < s.reg (capAddr g 6) % 2 ^ 22
  | _ => false

/-- Address `a` lies in a guest's window and no register is there: it reads 0 and ignores writes (R3, R400). -/
def State.guestEmpty (s : State) (a : Nat) : Bool :=
  match regPlace a with
  | .guest _ => !s.guestHas a
  | _ => false

/-- MSI-X table and Pending Bit Array. -/
def isMsix (a : Nat) : Bool := 0xB0000 ≤ a && a < 0xB8100

end Sys2Proof.Machine
end

