-- ==== Sys2Proof/Machine/Registers.lean ====
section
/-!
DEFINITION. Registers.lean: the commands that read and write registers by address (11_seams_and_panel.md, 12_host_link.md,
17_test_and_loopbacks.md, 19_counters_and_events.md).
-/

namespace Sys2Proof.Machine

/-- The number of an access path. -/
def pathNum : AccessPath → Nat
  | .bar0 => 0
  | .nodeCore => 1
  | .jtag => 2
  | .chain => 3

/-- A read's answer on its access path. (DESIGN CHOICE: log entry 119) -/
def State.answerRead (s : State) (path : AccessPath) (a v : Nat) : State :=
  s.send { kind := .readData, dst := pathNum path, args := [a, v], bytes := [] }

/-- MX_ACCSTATEs lies at `a` (R152). -/
def isAccState (a : Nat) : Bool :=
  match regPlace a with
  | .motif _ => decide (0x8010 ≤ regOff a) && decide (regOff a < 0x8020)
  | _ => false

/-- An access path reaches the register at `a` itself, and not over the chain. (DEDUCED: log entry 99) -/
def State.reaches (s : State) (path : AccessPath) (a : Nat) : Bool :=
  match path with
  | .chain => s.overChain a && regPlace a ≠ .yoke
  | .bar0 => s.barOn && regPlace a = .yoke
  | .nodeCore => regPlace a = .yoke && !isMsix a
  | .jtag => s.board.good && regPlace a = .yoke

/-- REG_RD (R386, R407): the die reads its register and returns it in REG_RSP. A read of MX_ACCSTATEs waits for the sets'
descriptors first (R134). (DESIGN CHOICE: log entry 119) -/
def execRegRd (addr : BitVec 26) (wide : Bool) (s : State) : Host.Outcome State Fault Refusal :=
  let a := addr.toNat
  if s.reaches .chain a && regAligned wide a && dieOf a < 48 then
    let x := s.readReg .chain wide a
    .next (if isAccState a then x.2.accTry (dieOf a) a wide none else x.2.sendFrom (dieOf a) 48 (regFrame 0x03 a wide x.1))
  else .next s

/-- REG_WR (R386): the die writes its register. (DESIGN CHOICE: log entry 119) -/
def execRegWr (addr : BitVec 26) (wide : Bool) (v : BitVec 64) (s : State) : Host.Outcome State Fault Refusal :=
  let a := addr.toNat
  if s.reaches .chain a && regAligned wide a && dieOf a < 48 then .next (s.writeReg wide a v.toNat) else .next s

/-- REG_RSP (R386): the yoke completes the read; a guest's window without a register reads 0 (R3).
(DESIGN CHOICE: log entry 119) -/
def execRegRsp (addr : BitVec 26) (_wide : Bool) (v : BitVec 64) (s : State) : Host.Outcome State Fault Refusal :=
  let a := addr.toNat
  if s.overChain a then .next (s.answerRead .bar0 a (if s.guestEmpty a then 0 else v.toNat)) else .next s

/-- REG_TIMEOUT (R386): the read returns all ones; in a guest's window without a register nothing was sent, and it returns 0 (R3).
(DESIGN CHOICE: log entries 119, 155) -/
def execRegTimeout (addr : BitVec 26) (wide : Bool) (s : State) : Host.Outcome State Fault Refusal :=
  let a := addr.toNat
  if s.overChain a && s.guestEmpty a then .next (s.answerRead .bar0 a 0)
  else if s.overChain a then
    let s := s.answerRead .bar0 a (if wide then 2 ^ 64 - 1 else 2 ^ 32 - 1)
    .next ((s.setFld F.SM_STICKY_REG_TIMEOUT 1).raise Ev.REG_TIMEOUT { d0 := a })
  else .next s

/-- COUNTER_LO_WORD_READ (R602): the low word of a 64-bit register is read, and its high word latched.
(DESIGN CHOICE: log entry 127) -/
def execCounterLoWordRead (path : AccessPath) (addr : BitVec 26) (s : State) : Host.Outcome State Fault Refusal :=
  let a := addr.toNat
  match regAt a with
  | some (r, b) =>
    if r.width = 64 && a = b && s.reaches path a then
      let x := s.read4 path a
      .next (x.2.answerRead path a x.1)
    else .next s
  | none => .next s

/-- EV_RING_BASE_WRITE (R239, R599). -/
def execEvRingBaseWrite (v : BitVec 64) (s : State) : Host.Outcome State Fault Refusal := .next (s.evBase v.toNat)

/-- EV_RING_CI_WRITE (R255, R599). -/
def execEvRingCiWrite (v : BitVec 32) (s : State) : Host.Outcome State Fault Refusal := .next (s.evCi v.toNat)

/-- REGISTER_WRITE (R14, R386, R406, R407): at the register, or as REG_WR over the chain; JTAG writes only while DEBUG is
open (R565). -/
def execRegisterWrite (path : AccessPath) (addr : BitVec 26) (wide : Bool) (v : BitVec 64) (s : State) :
    Host.Outcome State Fault Refusal :=
  let a := addr.toNat
  let v := if wide then v.toNat else v.toNat % 2 ^ 32
  if !regAligned wide a then .next s
  else if s.reaches path a then
    if path = .jtag && !s.hook 3 then .next s else .next (s.writeReg wide a v)
  else if ((path = .bar0 && s.barOn) || path = .nodeCore) && s.overChain a && (dieOf a < 48 || s.guestHas a) then
    .next (s.sendChain (dieOf a) (regFrame 0x02 a wide v))
  else .next s

/-- REG_ACCESS (R565): JTAG reads or writes the yoke global window; writes only while DEBUG is open. -/
def execRegAccess (write wide : Bool) (addr : BitVec 26) (v : BitVec 64) (s : State) : Host.Outcome State Fault Refusal :=
  let a := addr.toNat
  let s := s.tapLoad .regAccess false false
  if !s.reaches .jtag a || !regAligned wide a then .next s
  else if write then .next (if s.hook 3 then s.writeReg wide a (if wide then v.toNat else v.toNat % 2 ^ 32) else s)
  else
    let x := s.readReg .jtag wide a
    .next (x.2.answerRead .jtag a x.1)

end Sys2Proof.Machine
end

