-- ==== Sys2Proof/Machine/HartOps.lean ====
section
/-!
DEFINITION. HartOps.lean: the node cores' registers, traps and physical view (R462 to R475).
-/

namespace Sys2Proof.Machine

/-- Harts run (R526, R550). -/
def State.hartRuns (s : State) (h : Nat) : Bool := (s.fld F.NC_HART_RUN_RUN).testBit h && !s.qe.dead

/-- The time CSR (R465): hall time, which never decreases. -/
def State.hartTime (s : State) : Nat := max s.hall.floor s.now

/-! ### Registers -/

def Hart.xr (x : Hart) (r : Nat) : Nat := if r = 0 then 0 else Sparse.get 0 x.x r
def Hart.setX (x : Hart) (r v : Nat) : Hart := if r = 0 then x else { x with x := Sparse.set 0 x.x r (v % 2 ^ 64) }
def Hart.csr (x : Hart) (n : Nat) : Nat := Sparse.get 0 x.csrs n
def Hart.setCsr (x : Hart) (n v : Nat) : Hart := { x with csrs := Sparse.set 0 x.csrs n (v % 2 ^ 64) }

/-- Modes of the hypervisor's guest. -/
def HartMode.virt (m : HartMode) : Bool := m = .vs || m = .vu

/-- The CSR that a number names: in VS mode the supervisor's names reach the VS registers. -/
def Hart.csrName (x : Hart) (n : Nat) : Nat :=
  if x.mode.virt && [0x100, 0x104, 0x105, 0x140, 0x141, 0x142, 0x143, 0x144, 0x14D, 0x180].contains n then n + 0x100 else n

/-- The bits of mstatus that sstatus shows. (PRESUMED: log entry 123) -/
def sstatusMask : Nat := 0x80000003000DE762

/-- A CSR as it reads; frm reads 0 (R99). (PRESUMED: log entry 123) -/
def State.csrRead (s : State) (h : Nat) (x : Hart) (n : Nat) : Nat :=
  let n := x.csrName n
  if n = 0x001 || n = 0x003 then x.csr 0x001 % 32
  else if n = 0x002 then 0
  else if n = 0xC01 then (s.hartTime + (if x.mode.virt then x.csr 0x605 else 0)) % 2 ^ 64
  else if n = 0xF14 then h
  else if n = 0x100 then x.csr 0x300 &&& sstatusMask
  else if n = 0x104 then x.csr 0x304 &&& x.csr 0x303
  else if n = 0x144 then x.csr 0x344 &&& x.csr 0x303
  else x.csr n

/-- Bits of `mask` replaced. -/
def merge (old mask v : Nat) : Nat := (old &&& ((2 ^ 64 - 1) ^^^ mask)) ||| (v &&& mask)

/-- A CSR written; time, mhartid and frm are not (R99). (PRESUMED: log entry 123) -/
def State.csrWrite (s : State) (x : Hart) (n v : Nat) : Hart :=
  let n := x.csrName n
  if n = 0xC01 || n = 0xF14 || n = 0x002 then x
  else if n = 0x001 || n = 0x003 then x.setCsr 0x001 (v % 32)
  else if n = 0x100 then x.setCsr 0x300 (merge (x.csr 0x300) sstatusMask v)
  else if n = 0x104 then x.setCsr 0x304 (merge (x.csr 0x304) (x.csr 0x303) v)
  else if n = 0x144 then x.setCsr 0x344 (merge (x.csr 0x344) (x.csr 0x303 &&& 2) v)
  else if n = 0x14D then (x.setCsr n v).setCsr 0x344 (setBits (x.csr 0x344) 5 5 (flag (decide (v ≤ s.hartTime))))
  else x.setCsr n v

/-- Write a register with a result that is no floating-point one: f registers take only loads and what `Hart.float` forms. -/
def State.hartReg (s : State) (x : Hart) (r : HartReg) (v : Nat) : Hart :=
  match r with
  | .x r => x.setX r.toNat v
  | .f _ => x
  | .v r => { x with v := Sparse.set 0 x.v r.toNat (v % 2 ^ 256) }
  | .csr n => s.csrWrite x n.toNat v

/-- Write a loaded value of `n` bytes. -/
def Hart.putLoad (x : Hart) (rd : HartReg) (at' n : Nat) (signed' : Bool) (v : Nat) : Hart :=
  match rd with
  | .x r => x.setX r.toNat (if signed' then unsigned 64 (signed (8 * n) v) else v)
  | .f r => { x with f := Sparse.set 0 x.f r.toNat (2 ^ 64 - 2 ^ (8 * n) + v) }
  | .v r => { x with v := Sparse.modify 0 x.v r.toNat fun w => setBits w (8 * at' + 8 * n - 1) (8 * at') v % 2 ^ 256 }
  | .csr _ => x

/-! ### Floating point (R91, R92, R98, R99, R103, R109, R462) -/

def fpFmt : FpWidth → Fmt
  | .h => fmtFp16
  | .s => fmtFp32
  | .d => fmtFp64


/-- The code of an f register in a format: a value that is not NaN-boxed is the canonical NaN.
(PRESUMED: log entry 123) -/
def unbox64 (w : FpWidth) (v : Nat) : Nat :=
  let n := 8 * w.bytes
  if v / 2 ^ n = 2 ^ (64 - n) - 1 then v % 2 ^ n else (fpFmt w).nanCode

/-- A code as an f register holds it. -/
def box64 (w : FpWidth) (c : Nat) : Nat := 2 ^ 64 - 2 ^ (8 * w.bytes) + c % 2 ^ (8 * w.bytes)

/-- An operand's bits, `prev` the result of the operation before. -/
def Hart.fpSrc (x : Hart) (prev : Nat) (w : FpWidth) : FpSrc → Nat
  | .f r => unbox64 w (Sparse.get 0 x.f r.toNat)
  | .v r o => bits (Sparse.get 0 x.v r.toNat) (8 * (o.toNat + w.bytes) - 1) (8 * o.toNat)
  | .x r => x.xr r.toNat
  | .lit c => c.toNat
  | .prev => prev

/-- Put a result of `n` bits, NaN-boxed in an f register where it is a code. -/
def Hart.fpPut (x : Hart) (w : FpWidth) (n v : Nat) : FpDst → Hart
  | .f r => { x with f := Sparse.set 0 x.f r.toNat (box64 w v) }
  | .x r => x.setX r.toNat (unsigned 64 (signed n v))
  | .v r o => { x with v := Sparse.modify 0 x.v r.toNat fun u => setBits u (8 * o.toNat + n - 1) (8 * o.toNat) v % 2 ^ 256 }
  | .mask r b => { x with v := Sparse.modify 0 x.v r.toNat fun u => setBits u b.toNat b.toNat (v % 2) }
  | .prev => x

/-- Minimum and maximum that give NaN for a NaN operand, or the other operand. -/
def fpPick (f : Fmt) (isMax nan : Bool) (a b : Nat) : Nat × Nat :=
  if nan && ((f.decode a).isNan || (f.decode b).isNan) then (f.nanCode, if f.isSnan a || f.isSnan b then fNV else 0)
  else fpMinMax f isMax a b

/-- A result in a format from operands in another, rounded once to nearest, ties to even (R98). -/
def fpRes (g f : Fmt) (ops : List Nat) (x : Num) : Nat × Nat :=
  let nan := ops.any fun c => (g.decode c).isNan
  let nv := ops.any g.isSnan || (x.isNan && !nan)
  let (c, fl) := f.roundF x
  (c, fl ||| if nv then fNV else 0)

/-- The integer value nearest to a number, or toward zero, its sign kept. -/
def Num.integral (x : Num) (truncate : Bool) : Num :=
  match x with
  | .fin neg m e => .fin neg (if truncate then (if 0 ≤ e then m * 2 ^ e.toNat else m / 2 ^ (-e).toNat) else rneAt m e 0) 0
  | y => y

/-- One operation on codes: the result's bits, their number, and the flags. -/
def fpDo (e : FpElem) (a b c : Nat) : Nat × Nat × Nat :=
  let g := fpFmt e.src
  let f := fpFmt e.res
  let x := g.decode a
  let y := g.decode b
  let n := 8 * e.res.bytes
  let code := fun (r : Nat × Nat) => (r.1, n, r.2)
  let truth := fun (r : Bool) (fl : Nat) => (flag r, 64, fl)
  let sn := g.isSnan a || g.isSnan b
  let nan := x.isNan || y.isNan
  match e.op with
  | .add => code (fpRes g f [a, b] (x.add y))
  | .sub => code (fpRes g f [a, b] (x.add y.neg))
  | .mul => code (fpRes g f [a, b] (x.mul y))
  | .div =>
    let (v, fl) := fpRes g f [a, b] (x.div y)
    (v, n, fl ||| if x.isFin && !x.isZero && y.isZero then fDZ else 0)
  | .sqrt => code (fpRes g f [a] x.sqrt)
  | .fma np na =>
    let p := x.mul y
    let z := f.decode c
    let r := (if np then p.neg else p).add (if na then z.neg else z)
    let (v, fl) := fpRes g f [a, b] r
    let fl := if z.isNan then (if sn then fNV else 0) else fl
    let (v, fl) := if z.isNan then (f.nanCode, fl ||| if f.isSnan c then fNV else 0) else (v, fl)
    (v, n, fl ||| if p.isNan && !nan then fNV else 0)
  | .min k => code (fpPick g false k a b)
  | .max k => code (fpPick g true k a b)
  | .sgn k =>
    let sa := a / g.signBit % 2
    let sb := b / g.signBit % 2
    (a % g.signBit + (if k = 0 then sb else if k = 1 then 1 - sb else (sa + sb) % 2) * g.signBit, n, 0)
  | .eq => truth (x.eq y) (if sn then fNV else 0)
  | .lt q => truth (x.lt y) (if (if q then sn else nan) then fNV else 0)
  | .le q => truth (x.lt y || x.eq y) (if (if q then sn else nan) then fNV else 0)
  | .cls => (fpClass g a, 64, 0)
  | .round nx =>
    let (v, fl) := fpRes g f [a] (x.integral false)
    (v, n, fl ||| if nx && !x.isNan && !x.isInf && !((x.integral false).eq x) then fNX else 0)
  | .cvt => code (fpRes g f [a] x)
  | .fromInt sg k =>
    let m := 8 * 2 ^ k.toNat
    code (f.roundF (Num.ofInt (if sg then signed m a else ((a % 2 ^ m : Nat) : Int))))
  | .toInt sg k tr =>
    let m := 8 * 2 ^ k.toNat
    let (v, fl) := fpToInt m sg (if tr then x.integral true else x)
    (v, m, fl ||| if tr && fl = 0 && !x.isNan && !x.isInf && !((x.integral true).eq x) then fNX else 0)
  | .move => (a % 2 ^ n, n, 0)

/-- The operations of one instruction in order: operands as before the instruction, results one after another, flags collected. -/
def Hart.float (x : Hart) : List FpElem → Nat → Hart → Hart
  | [], _, y => y
  | e :: es, prev, y =>
    let (v, n, fl) := fpDo e (x.fpSrc prev e.src e.a) (x.fpSrc prev e.src e.b) (x.fpSrc prev e.res e.c)
    let y := y.fpPut e.res n v e.dst
    Hart.float x es v (y.setCsr 0x001 (y.csr 0x001 ||| fl))

/-! ### Traps: the RISC-V privileged architecture's entry and return, which the profile names -/

def modeBits : HartMode → Nat
  | .m => 3
  | .s | .vs => 1
  | .u | .vu => 0

/-- The mode that takes a trap: delegated by medeleg or mideleg, then by hedeleg or hideleg.
(PRESUMED: log entry 123) -/
def Hart.trapMode (x : Hart) (interrupt : Bool) (cause : Nat) : HartMode :=
  let m := x.csr (if interrupt then 0x303 else 0x302)
  let d := x.csr (if interrupt then 0x603 else 0x602)
  if x.mode = .m || !m.testBit cause then .m
  else if x.mode.virt && d.testBit cause then .vs
  else .s

/-- The address of a trap vector. (PRESUMED: log entry 123) -/
def trapPc (tvec : Nat) (interrupt : Bool) (cause : Nat) : Nat :=
  if interrupt && tvec % 4 = 1 then (tvec / 4 * 4 + 4 * cause) % 2 ^ 64 else tvec / 4 * 4

/-- Take a trap: cause, value and pc are saved, interrupts go off, and the pc goes to the vector.
(PRESUMED: log entry 123) -/
def Hart.trap (x : Hart) (interrupt : Bool) (cause tval : Nat) : Hart :=
  let code := cause + (if interrupt then 2 ^ 63 else 0)
  let v := flag x.mode.virt
  match x.trapMode interrupt cause with
  | .vs =>
    let st := x.csr 0x200
    let st := setBits (setBits (setBits st 5 5 (bits st 1 1)) 1 1 0) 8 8 (modeBits x.mode)
    let y := (((x.setCsr 0x200 st).setCsr 0x241 x.pc).setCsr 0x242 code).setCsr 0x243 tval
    { y with mode := .vs, pc := trapPc (x.csr 0x205) interrupt cause }
  | .s =>
    let st := x.csr 0x300
    let st := setBits (setBits (setBits st 5 5 (bits st 1 1)) 1 1 0) 8 8 (modeBits x.mode)
    let hs := setBits (x.csr 0x600) 7 7 v
    let hs := if x.mode.virt then setBits hs 8 8 (modeBits x.mode) else hs
    let y := ((((x.setCsr 0x300 st).setCsr 0x600 hs).setCsr 0x141 x.pc).setCsr 0x142 code).setCsr 0x143 tval
    { y with mode := .s, pc := trapPc (x.csr 0x105) interrupt cause }
  | _ =>
    let st := x.csr 0x300
    let st := setBits (setBits (setBits (setBits st 7 7 (bits st 3 3)) 3 3 0) 12 11 (modeBits x.mode)) 39 39 v
    let y := (((x.setCsr 0x300 st).setCsr 0x341 x.pc).setCsr 0x342 code).setCsr 0x343 tval
    { y with mode := .m, pc := trapPc (x.csr 0x305) interrupt cause }

/-- Return from a trap: MRET, or SRET in S or VS mode. (PRESUMED: log entry 123) -/
def Hart.ret (x : Hart) (machine : Bool) : Hart :=
  if machine then
    let st := x.csr 0x300
    let v := bits st 39 39 = 1
    let mode : HartMode := match bits st 12 11 with
      | 3 => .m
      | 1 => if v then .vs else .s
      | _ => if v then .vu else .u
    let st := setBits (setBits (setBits (setBits st 3 3 (bits st 7 7)) 7 7 1) 12 11 0) 39 39 0
    let st := if mode = .m then st else setBits st 17 17 0
    { (x.setCsr 0x300 st) with mode := mode, pc := x.csr 0x341 }
  else if x.mode.virt then
    let st := x.csr 0x200
    let mode : HartMode := if bits st 8 8 = 1 then .vs else .vu
    let st := setBits (setBits (setBits st 1 1 (bits st 5 5)) 5 5 1) 8 8 0
    { (x.setCsr 0x200 st) with mode := mode, pc := x.csr 0x241 }
  else
    let st := x.csr 0x300
    let v := bits (x.csr 0x600) 7 7 = 1
    let mode : HartMode := if bits st 8 8 = 1 then (if v then .vs else .s) else (if v then .vu else .u)
    let st := setBits (setBits (setBits (setBits st 1 1 (bits st 5 5)) 5 5 1) 8 8 0) 17 17 0
    let y := (x.setCsr 0x300 st).setCsr 0x600 (setBits (x.csr 0x600) 7 7 0)
    { y with mode := mode, pc := x.csr 0x141 }

/-! ### The physical view -/

/-- What kind of access it is. -/
inductive HartKind where
  | fetch | load | store | amo | lrsc | block
  deriving DecidableEq, Repr

/-- Where a node core's access goes (R466, R470). -/
inductive HartSpot where
  | pool (pa : Nat)
  | aperture (pa : Nat)
  | control (off : Nat)
  | doorbell (off : Nat)
  | files (off : Nat)
  | remote (node pa : Nat)
  | bad
  deriving DecidableEq, Repr

/-- The ASID of a remote access (R470): none in M mode, with translation Bare, or with ASID[15:12] not 0. -/
def Hart.asid (x : Hart) : Option Nat :=
  let satp := x.csr (if x.mode.virt then 0x280 else 0x180)
  if x.mode = .m || bits satp 63 60 = 0 || bits satp 59 56 ≠ 0 then none else some (bits satp 55 44)

/-- The node that bits 55 to 48 of a hart's physical address name (R352). (DEDUCED: log entry 124) -/
def State.hartNode (s : State) (pa : Nat) : Option Nat :=
  let slot := pa / 2 ^ 48 % 256
  if 2 ^ 56 ≤ pa then none
  else if slot = 0 then some (s.fld F.FB_NODE_NODE)
  else if s.fld (F.TU_NODE_SLOT_V slot) = 1 then some (s.fld (F.TU_NODE_SLOT_NODE slot))
  else none

/-- The place of an access of `n` bytes (R466, R468, R470, R471). (DEDUCED: log entry 124) -/
def State.hartSpot (s : State) (x : Hart) (k : HartKind) (pa n : Nat) : HartSpot :=
  let a := pa % 2 ^ 48
  match s.hartNode pa with
  | none => .bad
  | some node =>
    if node ≠ s.fld F.FB_NODE_NODE then
      if x.asid.isSome && k ≠ .lrsc && k ≠ .block then .remote node a else .bad
    else if a < 2 ^ 40 || (0x800000000000 ≤ a && a < 0xC00000000000) then
      let ragged := (k = .amo || k = .lrsc || k = .block) && a % n ≠ 0
      if ragged || (s.spanFault a (.plain n)).isSome then .bad else .pool (plainPa a)
    else if a < 0x010300000000 then
      let sh : Shape := match k with
        | .amo => .atomic
        | .lrsc => .lrsc
        | _ => .plain n
      if (k = .amo && a % n ≠ 0) || k = .block || (s.spanFault a sh).isSome then .bad
      else .aperture a
    else if 0x020000000000 ≤ a && a < 0x020004000000 then
      if (k = .load || k = .store) && (n = 4 || n = 8) && a % n = 0 then .control (a - 0x020000000000) else .bad
    else if 0x020010000000 ≤ a && a < 0x020014000000 then
      if k = .store && n = 8 && a % 8 = 0 then .doorbell (a - 0x020010000000) else .bad
    else if 0x020020000000 ≤ a && a < 0x020020200000 then
      if (k = .load || k = .store) && n = 4 && a % 4 = 0 then .files (a - 0x020020000000) else .bad
    else .bad

/-- The asker of a hart's remote access. -/
def Hart.askNo (x : Hart) (h : Nat) : Nat := asker (unitAgent 48 (8 + h)) (x.asid.getD 0) 1

/-- The agent of the node cores' caches (R280). (DESIGN CHOICE: log entry 51) -/
def yokeCache : Nat := 48

/-- A line can be read in the system cache, or its request goes out. -/
def State.hartLine (s : State) (l : Nat) (own : Bool) : Bool × State :=
  if own then
    let (c, s) := s.ownLine yokeCache l false
    (c.isSome, s)
  else
    match s.copyOf yokeCache l with
    | some _ => (true, s)
    | none => (false, s.startTx yokeCache l .rdS false)

/-- Every line is there; the lines that are not, and their requests. -/
def State.hartLines (own : Bool) : List Nat → State → List Nat × State
  | [], s => ([], s)
  | l :: ls, s =>
    let (ok, s) := s.hartLine l own
    let (rest, s) := State.hartLines own ls s
    (if ok then rest else l :: rest, s)

/-- Node core `h` takes lines into its private L2 (R280). -/
def State.snoopLines (h : Nat) (own : Bool) : List Nat → State → State
  | [], s => s
  | l :: ls, s => State.snoopLines h own ls (s.snoop h l own)

/-- Bytes of cached lines. -/
def State.hartBytes (s : State) : Nat → Nat → List Byte
  | _, 0 => []
  | a, n + 1 =>
    let b := match s.copyOf yokeCache (a / 128) with
      | some c => BitVec.ofNat 8 (c.data.bytes.toNat / 2 ^ (8 * (a % 128)))
      | none => 0
    b :: s.hartBytes (a + 1) n

/-- Poisoned words among `n` bytes of cached lines. -/
def State.hartPoison (s : State) (a n : Nat) : List Nat :=
  ((List.range ((a + n - 1) / 8 - a / 8 + 1)).map (a / 8 + ·)).filter fun w =>
    match s.copyOf yokeCache (w / 16) with
    | some c => c.data.poison.getLsbD (w % 16)
    | none => false

/-- Store bytes into cached lines, line by line (R322). (DEDUCED: log entry 124) -/
def State.hartStore (s : State) (h a : Nat) (bs : List Byte) : State :=
  (linesOf a bs.length).foldl (fun s l =>
    let lo := max a (128 * l)
    let hi := min (a + bs.length) (128 * l + 128)
    s.storeLine yokeCache l (lo % 128) ((bs.drop (lo - a)).take (hi - lo)) (some (yokeCache, h, 0))) s

/-- Kind and bytes of an access, and whether it needs its lines in M or E. (PRESUMED: log entry 125) -/
def memKind : HartMem → HartKind × Nat × Bool
  | .load _ _ sz _ => (.load, 2 ^ sz.toNat, false)
  | .store sz _ => (.store, 2 ^ sz.toNat, true)
  | .amo _ _ wide _ _ => (.amo, if wide then 8 else 4, true)
  | .lr _ wide => (.lrsc, if wide then 8 else 4, false)
  | .sc _ wide _ => (.lrsc, if wide then 8 else 4, true)
  | .zero => (.block, 128, true)
  | .clean => (.block, 128, false)

/-- A block operation acts on the whole block (R463). (DEDUCED: log entry 124) -/
def blockPa (k : HartKind) (pa : Nat) : Nat := if k = .block then pa / 128 * 128 else pa

/-- The request of a remote access. -/
def remoteMem (node pa : Nat) : HartMem → MemReq
  | .store sz v => .write (BitVec.ofNat 64 (node * 2 ^ 48 + pa)) (toBytes (2 ^ sz.toNat) v.toNat) []
  | .amo _ fn wide v c => .atomic (BitVec.ofNat 64 (node * 2 ^ 48 + pa)) fn wide [(v, c)]
  | m => remoteRead node pa (memKind m).2.1

/-- Whether an access can be performed now. -/
inductive HartGot where
  | ok
  | wait (ls : List Nat)
  | fault (cause : Nat)
  | poison (ws : List Nat)
  deriving DecidableEq, Repr

/-- The cause of an access fault (R468): 1 fetch, 5 load, 7 store or AMO. (DEDUCED: log entry 124) -/
def accessCause (m : HartMem) : Nat :=
  match m with
  | .load _ _ _ _ => 5
  | .lr _ _ => 5
  | .clean => 7
  | _ => 7

/-- Whether one access can be performed; requests for what it lacks go out (R279, R445). -/
def State.hartReady (s : State) (h : Nat) (x : Hart) (pa : Nat) (m : HartMem) : HartGot × State :=
  let (k, n, own) := memKind m
  match s.hartSpot x k (blockPa k pa) n with
  | .bad => (.fault (accessCause m), s)
  | .pool a =>
    if m = .clean then (.ok, s)
    else
      match State.hartLines own (linesOf a n) s with
      | ([], s) =>
        let ws := match m with
          | .store _ _ | .zero | .sc _ _ _ => []
          | _ => s.hartPoison a n
        (if ws.isEmpty then .ok else .poison ws, s)
      | (ls, s) => (.wait ls, s)
  | .aperture a => (if s.physBusy a n then .wait [] else .ok, s)
  | .remote node a =>
    let r := remoteMem node a m
    match s.landedFor (x.askNo h) r with
    | none => (.wait [], s.want (x.askNo h) 0 r)
    | some (.data _ ps) => if ps.isEmpty then (.ok, s) else (.poison [farWord ((node * 2 ^ 48 + a) / 8)], s.takeLanded (x.askNo h) r)
    | some .done => (.ok, s)
    | some .refused => (.fault (accessCause m), s.takeLanded (x.askNo h) r)
  | _ => (.ok, s)

/-- A read of control space (R467): at the register, over the chain, or 0. (DESIGN CHOICE: log entry 122) -/
def State.controlRead (s : State) (off : Nat) (wide : Bool) : Nat × State :=
  if s.reaches .nodeCore off then s.readReg .nodeCore wide off
  else if s.overChain off && dieOf off < 48 then s.readReg .chain wide off
  else if s.overChain off && s.guestHas off then
    let (n, s) := s.takeFree
    ((Config.freeWord n).toNat % (if wide then 2 ^ 64 else 2 ^ 32), s)
  else (0, s)

/-- A write of control space (R467). (DESIGN CHOICE: log entry 122) -/
def State.controlWrite (s : State) (off : Nat) (wide : Bool) (v : Nat) : State :=
  if s.reaches .nodeCore off then s.writeReg wide off v
  else if s.overChain off && dieOf off < 48 then s.writeReg wide off v
  else if s.overChain off && s.guestHas off then s.sendChain (dieOf off) (regFrame 0x02 off wide v)
  else s

/-- A store to the interrupt files (R474): the identity written to a file's first word becomes pending.
(PRESUMED: log entry 125) -/
def State.fileStore (s : State) (off v : Nat) : State :=
  let file := off % 0x10000 / 0x1000
  let id := v % 2 ^ 32
  if file ≤ 5 && off % 0x1000 = 0 && 1 ≤ id && id ≤ 2047 then s.imsicWrite (off / 0x10000) file id else s

/-- Hits of lines whose miss was not counted. (DESIGN CHOICE: log entry 51) -/
def State.hartHits (s : State) (x : Hart) (a n : Nat) : State :=
  s.bump C.L2_SC_CNT_HITS ((linesOf a n).filter fun l => !x.missed.contains l).length

/-- One atomic operation on cached bytes (R212, R466): its old value. -/
def State.hartAmo (s : State) (h a : Nat) (fn : AtomFn) (wide : Bool) (v c : BitVec 64) : Nat × State :=
  let n := if wide then 8 else 4
  let old := ofBytes (s.hartBytes a n)
  let (new, _) := atomOne fn (8 * n) s.free old ⟨0, [(v, c)]⟩
  (old, { s with free := s.free + atomFree }.hartStore h a (toBytes n new))

/-- Hold or end a hart's reservation (R216). (DEDUCED: log entry 124) -/
def State.hartResv (s : State) (h : Nat) (line : Option Nat) : State :=
  let rs := s.resv.filter fun r => !(r.motif = yokeCache && r.slot = h)
  { s with resv := match line with
    | some l => ⟨yokeCache, h, 0, none, l⟩ :: rs
    | none => rs }

/-- Perform one access that is ready: the hart after it. -/
def State.hartPerform (s : State) (h : Nat) (x : Hart) (pa : Nat) (m : HartMem) : Hart × State :=
  let (k, n, own) := memKind m
  match s.hartSpot x k (blockPa k pa) n with
  | .pool a =>
    let s := if m = .clean then s else State.snoopLines h own (linesOf a n) (s.hartHits x a n)
    match m with
    | .load rd at' _ sg => (x.putLoad rd at'.toNat n sg (ofBytes (s.hartBytes a n)), s)
    | .store _ v => (x, s.hartStore h a (toBytes n v.toNat))
    | .amo rd fn wide v c =>
      let (old, s) := s.hartAmo h a fn wide v c
      (x.putLoad (.x rd) 0 n true old, s)
    | .lr rd _ => (x.putLoad (.x rd) 0 n true (ofBytes (s.hartBytes a n)), s.hartResv h (some (a / 128)))
    | .sc rd _ v =>
      let held := s.resv.any fun r => r.motif = yokeCache && r.slot = h && r.line = a / 128
      let s := s.hartResv h none
      if held then (x.setX rd.toNat 0, s.hartStore h a (toBytes n v.toNat)) else (x.setX rd.toNat 1, s)
    | .zero => (x, s.hartStore h a (List.replicate 128 0))
    | .clean => (x, s.evictLine yokeCache (a / 128))
  | .aperture a =>
    match m with
    | .load rd at' _ sg =>
      let (bs, _, s) := s.physRead a n
      (x.putLoad rd at'.toNat n sg (ofBytes bs), s)
    | .store _ v => (x, s.physWrite a ((toBytes n v.toNat).map some) [])
    | .amo rd fn wide v c =>
      let (olds, _, s) := s.atomicAt a fn wide [(v, c)]
      let bs := olds.flatMap (toBytes (if wide then 8 else 4))
      (x.putLoad (.x rd) 0 n true (ofBytes bs), s)
    | _ => (x, s)
  | .control off =>
    match m with
    | .load rd at' _ sg =>
      let (v, s) := s.controlRead off (n = 8)
      (x.putLoad rd at'.toNat n sg v, s)
    | .store _ v => (x, s.controlWrite off (n = 8) (v.toNat % 2 ^ (8 * n)))
    | _ => (x, s)
  | .doorbell off =>
    match m with
    | .store _ v => (x, s.after (execNodeCoreDoorbell (BitVec.ofNat 26 off) v s))
    | _ => (x, s)
  | .files off =>
    match m with
    | .load rd at' _ sg => (x.putLoad rd at'.toNat n sg 0, s)
    | .store _ v => (x, s.fileStore off v.toNat)
    | _ => (x, s)
  | .remote node a =>
    let r := remoteMem node a m
    let got := s.landedFor (x.askNo h) r
    let s := s.takeLanded (x.askNo h) r
    let v := match got with
      | some (.data bs _) => ofBytes (bs.take n)
      | _ => 0
    match m with
    | .load rd at' _ sg => (x.putLoad rd at'.toNat n sg v, s)
    | .amo rd _ _ _ _ => (x.putLoad (.x rd) 0 n true v, s)
    | _ => (x, s)
  | .bad => (x, s)

/-- Whether every access of an instruction can be performed; the first fault or poison decides, before any effect. -/
def State.hartAll (h : Nat) (x : Hart) : List (BitVec 64 × BitVec 64 × HartMem) → State → HartGot × Nat × State
  | [], s => (.ok, 0, s)
  | (va, pa, m) :: xs, s =>
    match s.hartReady h x pa.toNat m with
    | (.ok, s) => State.hartAll h x xs s
    | (.wait ls, s) =>
      match State.hartAll h x xs s with
      | (.ok, _, s) => (.wait ls, 0, s)
      | (.wait ls', _, s) => (.wait (ls ++ ls'), 0, s)
      | r => r
    | (.fault c, s) => (.fault c, va.toNat, s)
    | (.poison ws, s) => (.poison ws, va.toNat, s)

/-- Perform every access, in order. -/
def State.hartEvery (h : Nat) : List (BitVec 64 × BitVec 64 × HartMem) → Hart → State → Hart × State
  | [], x, s => (x, s)
  | (_, pa, m) :: xs, x, s =>
    let (x, s) := s.hartPerform h x pa.toNat m
    State.hartEvery h xs x s

/-- A hart takes an access fault (R468). -/
def State.hartFault (s : State) (h : Nat) (x : Hart) (cause tval : Nat) : State :=
  (s.bump C.NC_CNT_ACCESS_FAULTS 1).setHart h { x.trap false cause tval with missed := [] }

/-- A hart consumes poison (R320, R469): a precise hardware-error exception. -/
def State.hartError (s : State) (h : Nat) (x : Hart) (ws : List Nat) (tval : Nat) : State :=
  ((s.consume yokeCache ws).bump C.NC_CNT_POISON_EXC 1).setHart h { x.trap false 19 tval with missed := [] }

/-- The instruction fetch of `n` bytes at a physical address: it is there, or waits, faults or meets poison. -/
def State.hartFetch (s : State) (h : Nat) (x : Hart) (pa n : Nat) : HartGot × State :=
  match s.hartSpot x .fetch pa n with
  | .pool a =>
    match State.hartLines false (linesOf a n) s with
    | ([], s) =>
      let ws := s.hartPoison a n
      if ws.isEmpty then (.ok, State.snoopLines h false (linesOf a n) s) else (.poison ws, s)
    | (ls, s) => (.wait ls, s)
  | .aperture a => (if s.physBusy a n then .wait [] else .ok, s)
  | .remote node a =>
    let r := remoteRead node a n
    match s.landedFor (x.askNo h) r with
    | none => (.wait [], s.want (x.askNo h) 0 r)
    | some .refused => (.fault 1, s.takeLanded (x.askNo h) r)
    | some (.data _ ps) => (if ps.isEmpty then .ok else .poison [farWord ((node * 2 ^ 48 + a) / 8)], s.takeLanded (x.askNo h) r)
    | some .done => (.ok, s.takeLanded (x.askNo h) r)
  | _ => (.fault 1, s)

/-- What an instruction does that has been fetched. -/
def State.hartDo (s : State) (h : Nat) (x : Hart) (len : Nat) (i : HartAct) : State :=
  let next := (x.pc + len) % 2 ^ 64
  match i with
  | .float rm es =>
    if rm = none || rm = some 0 || rm = some 7 then
      s.setHart h { Hart.float x es 0 x with pc := next, missed := [] }
    else s.setHart h { x.trap false 2 0 with missed := [] }
  | .compute ws to' =>
    let y := ws.foldl (fun (y : Hart) (r : HartReg × BitVec 256) => s.hartReg y r.1 r.2.toNat) x
    s.setHart h { y with pc := (to'.map BitVec.toNat).getD next, missed := [] }
  | .access xs =>
    match State.hartAll h x xs s with
    | (.ok, _, s) =>
      let (y, s) := State.hartEvery h xs x s
      s.setHart h { y with pc := next, missed := [] }
    | (.wait ls, _, s) => s.setHart h { x with missed := x.missed ++ ls.filter fun l => !x.missed.contains l }
    | (.fault c, va, s) => s.hartFault h x c va
    | (.poison ws, va, s) => s.hartError h x ws va
  | .csr rd n v =>
    let old := s.csrRead h x n.toNat
    let y := match v with
      | some v => s.csrWrite x n.toNat v.toNat
      | none => x
    s.setHart h { (y.setX rd.toNat old) with pc := next, missed := [] }
  | .fence => s.setHart h { x with pc := next, missed := [] }
  | .claim rd file id =>
    let s := { s with imsic := Sparse.set false s.imsic ((h * 8 + file.toNat) * 2048 + id.toNat) false }
    s.setHart h { (x.setX rd.toNat (id.toNat * 65537)) with pc := next, missed := [] }
  | .raise interrupt cause tval => s.setHart h { x.trap interrupt cause.toNat tval.toNat with missed := [] }
  | .ret machine => s.setHart h { x.ret machine with missed := [] }

end Sys2Proof.Machine
end

