-- ==== Sys2Proof/Machine/NodeCores.lean ====
section
/-!
DEFINITION. NodeCores.lean: the commands of the node cores (14_node_cores_and_management.md).
-/

namespace Sys2Proof.Machine

/-- NODE_CORE_INSTRUCTION (R462, R466 to R474): the instruction at `fetch`, its physical address, runs on hart `h`. -/
def execNodeCoreInstruction (h : Fin 32) (fetch : BitVec 64) (compressed : Bool) (i : HartAct) (s : State) :
    Host.Outcome State Fault Refusal :=
  if !s.hartRuns h.val then .next s
  else
    let x := s.hart h.val
    let len := if compressed then 2 else 4
    match s.hartFetch h.val x fetch.toNat len with
    | (.ok, s) => .next (s.hartDo h.val x len i)
    | (.wait ls, s) => .next (s.setHart h.val { x with missed := x.missed ++ ls.filter fun l => !x.missed.contains l })
    | (.fault c, s) => .next (s.hartFault h.val x c x.pc)
    | (.poison ws, s) => .next (s.hartError h.val x ws x.pc)

/-- NODE_CORE_TIMER (R465): STIP and VSTIP where time has reached stimecmp and vstimecmp. (PRESUMED: log entry 125) -/
def execNodeCoreTimer (h : Fin 32) (s : State) : Host.Outcome State Fault Refusal :=
  if !s.hartRuns h.val then .next s
  else
    let x := s.hart h.val
    let t := s.hartTime
    let mip := x.csr 0x344
    let mip := if x.csr 0x14D ≤ t then setBits mip 5 5 1 else mip
    let mip := if x.csr 0x24D ≤ (t + x.csr 0x605) % 2 ^ 64 then setBits mip 6 6 1 else mip
    .next (s.setHart h.val (x.setCsr 0x344 mip))

end Sys2Proof.Machine
end

