-- ==== Sys2Proof/Machine/Security.lean ====
section
/-!
DEFINITION. Security.lean: the security and recovery commands of the mailbox (R535 to R542).
-/

namespace Sys2Proof.Machine

/-- GET_SWATCH (R540). (DEDUCED: log entry 109) -/
def execGetSwatch (ch : Channel) (s : State) : Host.Outcome State Fault Refusal :=
  .next (s.runJob ch 0x20 fun j s => s.swatch ch (toBytes 32 (j.num 0 32)))

/-- READ_SWATCH (R541). -/
def execReadSwatch (ch : Channel) (s : State) : Host.Outcome State Fault Refusal :=
  .next (s.runJob ch 0x21 fun j s => s.readBytes ch s.mc.report (j.num 0 4) (j.num 4 2))

/-- FW_BEGIN (R535). -/
def execFwBegin (ch : Channel) (s : State) : Host.Outcome State Fault Refusal :=
  .next (s.runJob ch 0x22 fun j s => s.beginCmd ch 0 (j.num 4 4))

/-- FW_DATA (R535). -/
def execFwData (ch : Channel) (s : State) : Host.Outcome State Fault Refusal :=
  .next (s.runJob ch 0x23 fun j s => s.dataCmd ch true (j.num 0 4) (j.num 4 2) (toBytes (j.num 4 2) (j.num 8 (j.num 4 2))))

/-- FW_END (R535). -/
def execFwEnd (ch : Channel) (s : State) : Host.Outcome State Fault Refusal :=
  .next (s.runJob ch 0x24 fun _ s => s.endCmd ch 0)

/-- ENROLL_OWNER_KEY (R537). (DEDUCED: log entry 109) -/
def execEnrollOwnerKey (ch : Channel) (s : State) : Host.Outcome State Fault Refusal :=
  .next (s.runJob ch 0x25 fun j s => s.enroll ch (toBytes 60 (j.num 0 60)) (j.num 60 2))

/-- KEY_STAGE (R537). -/
def execKeyStage (ch : Channel) (s : State) : Host.Outcome State Fault Refusal :=
  .next (s.runJob ch 0x26 fun j s => s.stageKey ch (j.num 0 4) (j.num 4 2) (toBytes (j.num 4 2) (j.num 8 (j.num 4 2))))

/-- GET_CHALLENGE (R537). -/
def execGetChallenge (ch : Channel) (s : State) : Host.Outcome State Fault Refusal :=
  .next (s.runJob ch 0x27 fun _ s => s.newChallenge ch)

/-- CHALLENGE_EXPIRY (R537). -/
def execChallengeExpiry (s : State) : Host.Outcome State Fault Refusal := .next s.expireChallenge

/-- FW_SET_MIN_SVN (R542, R512). (DEDUCED: log entry 109) -/
def execFwSetMinSvn (ch : Channel) (s : State) : Host.Outcome State Fault Refusal :=
  .next (s.runJob ch 0x28 fun j s =>
    let v := j.num 4 4
    let svns := if headerOk s.flash 0 fwSize firmwareMagic then [imgNat s.flash 0 20 4] else []
    if s.updating then s.mboxDone ch St.BUSY []
    else if svnOk s.mc.fwMinSvn v svns then (s.onMc fun m => { m with fwMinSvn := v }).mboxDone ch St.OK []
    else s.mboxDone ch St.BAD_COMMAND [])

/-- GET_IDENTITY (R542). -/
def execGetIdentity (ch : Channel) (s : State) : Host.Outcome State Fault Refusal :=
  .next (s.runJob ch 0x29 fun j s => s.readBytes ch s.identity (j.num 0 4) (j.num 4 2))

/-- NC_RELEASE (R526). (DEDUCED: log entry 109) -/
def execNcRelease (ch : Channel) (s : State) : Host.Outcome State Fault Refusal :=
  .next (s.runJob ch 0x2A fun j s => s.ncRelease ch (j.num 0 4) (j.num 8 8) (j.num 16 8))

/-- A RESET command: it completes, and the reset follows 1 ms later (R542). (DESIGN CHOICE: log entry 111) -/
def State.resetCmd (s : State) (ch : Channel) (warm : Bool) : State :=
  s.runJob ch 0x2B fun j s =>
    if j.byte 0 = flag warm then
      (s.onMc fun m => { m with resetAt := some (s.now + 1000000, warm) }).mboxDone ch St.OK []
    else s

/-- RESET_COLD (R542). (DESIGN CHOICE: log entry 111) -/
def execResetCold (ch : Channel) (s : State) : Host.Outcome State Fault Refusal := .next (s.resetCmd ch false)

/-- RESET_WARM (R542). (DESIGN CHOICE: log entry 111) -/
def execResetWarm (ch : Channel) (s : State) : Host.Outcome State Fault Refusal := .next (s.resetCmd ch true)

end Sys2Proof.Machine
end

