-- ==== Sys2Proof/Machine/Vector.lean ====
section
/-!
DEFINITION. Vector.lean: the commands of the vector engine (05_vector_engine.md). A command whose descriptor is
not the running one, or the one that may start now, leaves the state as it is.
-/

namespace Sys2Proof.Machine

/-- Every array descriptor that was accepted before a vector engine descriptor started, and names a set it reaches, has completed
(R161). -/
def State.veTurn (s : State) (m : Nat) (j : VeJob) : Bool := !j.sets.any fun k => (s.array m).earlier k j.before

/-- The head descriptor of operation `op` starts on an idle engine of an ENABLED motif: an invalid one finishes
without running. -/
def State.veStart (s : State) (m op : Nat) : Option (VeJob × State) :=
  let v := s.vec m
  match v.run, v.queue with
  | none, j :: js =>
    if veOp j.desc ≠ op || s.pos m ≠ 1 then none
    else
      let j := { j with start := s.now }
      let s' := s.setVec m { v with queue := js }
      match s.veCheck m j.desc with
      | some st => some ({ j with status := some st }, s')
      | none => some ({ j with ran := true, sets := veSets j.desc, before := (s.array m).accepted }, s')
  | _, _ => none

/-- Start or go on with a descriptor of operation `op`: lane groups run until its last, a fault or poison. -/
def State.veOperate (s : State) (m op : Nat) : State :=
  let go := fun (j : VeJob) (s : State) =>
    let (j, s) := if j.status.isNone && !j.stalled && s.veTurn m j then State.veGroups m (groupsPerRow j.desc * veRows j.desc + 1) j s else (j, s)
    s.putVe m (some j)
  match (s.vec m).run with
  | some j => if veOp j.desc = op && j.status.isNone && !j.stalled then go j s else s
  | none =>
    match s.veStart m op with
    | some (j, s) => go j s
    | none => s

/-- MAP (R154 to R169, R180). -/
def execMap (m : Motif) (s : State) : Host.Outcome State Fault Refusal := .next (s.veOperate m 0x10)

/-- REDUCE (R177 to R179). -/
def execReduce (m : Motif) (s : State) : Host.Outcome State Fault Refusal := .next (s.veOperate m 0x11)

/-- GATHER (R173, R175). -/
def execGather (m : Motif) (s : State) : Host.Outcome State Fault Refusal := .next (s.veOperate m 0x12)

/-- SHUFFLE (R174, R175). -/
def execShuffle (m : Motif) (s : State) : Host.Outcome State Fault Refusal := .next (s.veOperate m 0x13)

/-- PACK (R176). -/
def execPack (m : Motif) (s : State) : Host.Outcome State Fault Refusal := .next (s.veOperate m 0x14)

/-- UNPACK (R176). -/
def execUnpack (m : Motif) (s : State) : Host.Outcome State Fault Refusal := .next (s.veOperate m 0x15)

/-- PSUM (R181 to R186): the head PSUM starts and waits on its counter; one whose counter has been reached reads
its headers, sums its lane groups and subtracts. -/
def execPsum (m : Motif) (s : State) : Host.Outcome State Fault Refusal :=
  match (s.vec m).run with
  | some j =>
    if veOp j.desc = 0x16 && j.status.isNone && !j.stalled && 1 ≤ j.part && s.veTurn m j then
      let (j, s) := s.psumRun m j
      .next (s.putVe m (some j))
    else .next s
  | none =>
    match s.veStart m 0x16 with
    | some (j, s) => .next (s.putVe m (some j))
    | none => .next s

/-- A PSUM still waits on its counter WAIT_US µs after it started (R182). -/
def State.psumLate (s : State) (j : VeJob) : Bool := decide (psumWaitUs j.desc * 1000 ≤ s.now - j.start)

/-- A read of the PSUM's counter, from local memory or by virtual address: it goes on at P_COUNT, and a value still lower at the end
of the wait ends it (R182). (DESIGN CHOICE: log entry 44) -/
def State.psumPoll (s : State) (m : Nat) (j : VeJob) : VeJob × State :=
  let (virt, a) := psumCtr j.desc
  let decide' := fun (v : Nat) (s : State) =>
    if psumCount j.desc ≤ v then ({ j with part := 1 }, s.psumWaited m j)
    else if s.psumLate j then ({ j with status := some St.PARTIAL_TIMEOUT }, s.psumWaited m j)
    else (j, s)
  if !virt then decide' (s.localNat m a 8) s
  else
    match s.vaRead (unitAgent m 1) j.asid a 8 Need.read with
    | (.ok bs ps, s) =>
      if ps.isEmpty then decide' (ofBytes bs) s else ({ j with status := some St.POISONED }, (s.psumWaited m j).consume m ps)
    | (.fault p c l e pa, s) => ({ j with stalled := true }, s.veFault m j 5 p c l e pa 1)
    | (.wait, s) => (j, s)

/-- PSUM_COUNTER_POLL (R182). -/
def execPsumCounterPoll (m : Motif) (s : State) : Host.Outcome State Fault Refusal :=
  match (s.vec m).run with
  | some j =>
    if veOp j.desc = 0x16 && j.status.isNone && !j.stalled && j.part = 0 then
      let (j, s) := s.psumPoll m j
      .next (s.putVe m (some j))
    else .next s
  | none => .next s

/-- PARTIAL_TIMEOUT (R182): WAIT_US µs after the descriptor started the engine reads the counter, which is still low or lets the
PSUM go on. -/
def execPartialTimeout (m : Motif) (s : State) : Host.Outcome State Fault Refusal :=
  match (s.vec m).run with
  | some j =>
    if veOp j.desc = 0x16 && j.status.isNone && !j.stalled && j.part = 0 && s.psumLate j then
      let (j, s) := s.psumPoll m j
      .next (s.putVe m (some j))
    else .next s
  | none => .next s

/-- VE_DESC_DONE (R188): the running descriptor has finished; one whose OP names no operation finishes without
running. -/
def execVeDescDone (m : Motif) (s : State) : Host.Outcome State Fault Refusal :=
  let v := s.vec m
  match v.run, v.queue with
  | some j, _ =>
    match (if s.owes (unitAgent m 1) 0 then none else j.status) with
    | some st => .next ((s.completeVe m j st).putVe m none)
    | none => .next s
  | none, j :: js =>
    if veOp j.desc < 0x10 ∨ 0x16 < veOp j.desc then
      .next (((s.setVec m { v with queue := js }).completeVe m j St.BAD_DESCRIPTOR).showVec m)
    else .next s
  | none, [] => .next s

end Sys2Proof.Machine
end

