-- ==== Sys2Proof/Machine/Dispatch.lean ====
section
/-!
DEFINITION. Dispatch.lean: one arm per command, each a direct call of its meaning.
-/

namespace Sys2Proof.Machine

def exec (i : Instr) (s : State) : Host.Outcome State Fault Refusal :=
  match i with
  | .rowTimerFire => Sys2Proof.Machine.execRowTimerFire s
  | .localEdge m => Sys2Proof.Machine.execLocalEdge m s
  | .rowEdge m row aligned holdover t => Sys2Proof.Machine.execRowEdge m row aligned holdover t s
  | .edgeMissed m => Sys2Proof.Machine.execEdgeMissed m s
  | .gaugeBudget m row cut eM eRes eBe => Sys2Proof.Machine.execGaugeBudget m row cut eM eRes eBe s
  | .floorBudget m => Sys2Proof.Machine.execFloorBudget m s
  | .edgePass m => Sys2Proof.Machine.execEdgePass m s
  | .bodyStart m => Sys2Proof.Machine.execBodyStart m s
  | .deadlineMissed m qid idx => Sys2Proof.Machine.execDeadlineMissed m qid idx s
  | .gaugeReport r => Sys2Proof.Machine.execGaugeReport r s
  | .governorCompute eYoke eSeams => Sys2Proof.Machine.execGovernorCompute eYoke eSeams s
  | .guardStart m => Sys2Proof.Machine.execGuardStart m s
  | .powerSample m mw tj => Sys2Proof.Machine.execPowerSample m mw tj s
  | .stitchArrival m qid idx => Sys2Proof.Machine.execStitchArrival m qid idx s
  | .stitchStart m => Sys2Proof.Machine.execStitchStart m s
  | .stitchDone m => Sys2Proof.Machine.execStitchDone m s
  | .stitchOverrun m => Sys2Proof.Machine.execStitchOverrun m s
  | .stitchHung m => Sys2Proof.Machine.execStitchHung m s
  | .gaLimitWrite v => Sys2Proof.Machine.execGaLimitWrite v s
  | .hallTimeStep step => Sys2Proof.Machine.execHallTimeStep step s
  | .rowUnaligned => Sys2Proof.Machine.execRowUnaligned s
  | .late src row => Sys2Proof.Machine.execLate src row s
  | .mma m => Sys2Proof.Machine.execMma m s
  | .chunkPromotion m => Sys2Proof.Machine.execChunkPromotion m s
  | .drain m => Sys2Proof.Machine.execDrain m s
  | .zero m => Sys2Proof.Machine.execZero m s
  | .promote m => Sys2Proof.Machine.execPromote m s
  | .save m => Sys2Proof.Machine.execSave m s
  | .saveCounterAdd m => Sys2Proof.Machine.execSaveCounterAdd m s
  | .restore m => Sys2Proof.Machine.execRestore m s
  | .arrayDescDone m u => Sys2Proof.Machine.execArrayDescDone m u s
  | .mxAccstateWrite m set v => Sys2Proof.Machine.execMxAccstateWrite m set v s
  | .map m => Sys2Proof.Machine.execMap m s
  | .reduce m => Sys2Proof.Machine.execReduce m s
  | .gather m => Sys2Proof.Machine.execGather m s
  | .shuffle m => Sys2Proof.Machine.execShuffle m s
  | .pack m => Sys2Proof.Machine.execPack m s
  | .unpack m => Sys2Proof.Machine.execUnpack m s
  | .psum m => Sys2Proof.Machine.execPsum m s
  | .psumCounterPoll m => Sys2Proof.Machine.execPsumCounterPoll m s
  | .partialTimeout m => Sys2Proof.Machine.execPartialTimeout m s
  | .veDescDone m => Sys2Proof.Machine.execVeDescDone m s
  | .launch m => Sys2Proof.Machine.execLaunch m s
  | .blockStart m => Sys2Proof.Machine.execBlockStart m s
  | .launchDone m => Sys2Proof.Machine.execLaunchDone m s
  | .vif m g => Sys2Proof.Machine.execVif m g s
  | .velse m g => Sys2Proof.Machine.execVelse m g s
  | .vend m g => Sys2Proof.Machine.execVend m g s
  | .vany m g => Sys2Proof.Machine.execVany m g s
  | .vall m g => Sys2Proof.Machine.execVall m g s
  | .vballot m g => Sys2Proof.Machine.execVballot m g s
  | .vshfl m g => Sys2Proof.Machine.execVshfl m g s
  | .vshfli m g => Sys2Proof.Machine.execVshfli m g s
  | .vbar m g => Sys2Proof.Machine.execVbar m g s
  | .vbarRelease m block => Sys2Proof.Machine.execVbarRelease m block s
  | .vcbar m g => Sys2Proof.Machine.execVcbar m g s
  | .vcbarRelease m block => Sys2Proof.Machine.execVcbarRelease m block s
  | .vexit m g => Sys2Proof.Machine.execVexit m g s
  | .vdispA m g => Sys2Proof.Machine.execVdispA m g s
  | .vdispV m g => Sys2Proof.Machine.execVdispV m g s
  | .vwait m g => Sys2Proof.Machine.execVwait m g s
  | .vwaitRecheck m g => Sys2Proof.Machine.execVwaitRecheck m g s
  | .vcasW m g => Sys2Proof.Machine.execVcasW m g s
  | .vcasD m g => Sys2Proof.Machine.execVcasD m g s
  | .vafaddS m g => Sys2Proof.Machine.execVafaddS m g s
  | .vcvtn m g => Sys2Proof.Machine.execVcvtn m g s
  | .vcvtw m g => Sys2Proof.Machine.execVcvtw m g s
  | .zld m g => Sys2Proof.Machine.execZld m g s
  | .zst m g => Sys2Proof.Machine.execZst m g s
  | .zmma m g => Sys2Proof.Machine.execZmma m g s
  | .zzero m g => Sys2Proof.Machine.execZzero m g s
  | .needleLoad m g => Sys2Proof.Machine.execNeedleLoad m g s
  | .needleStore m g => Sys2Proof.Machine.execNeedleStore m g s
  | .needleAmo m g => Sys2Proof.Machine.execNeedleAmo m g s
  | .needleLr m g => Sys2Proof.Machine.execNeedleLr m g s
  | .needleSc m g => Sys2Proof.Machine.execNeedleSc m g s
  | .needleFence m g => Sys2Proof.Machine.execNeedleFence m g s
  | .needleBranch m g => Sys2Proof.Machine.execNeedleBranch m g s
  | .needleCsrWrite m g => Sys2Proof.Machine.execNeedleCsrWrite m g s
  | .needleEcall m g => Sys2Proof.Machine.execNeedleEcall m g s
  | .needleEbreak m g => Sys2Proof.Machine.execNeedleEbreak m g s
  | .needleOtherInstruction m g => Sys2Proof.Machine.execNeedleOtherInstruction m g s
  | .hostDoorbell off size v rid => Sys2Proof.Machine.execHostDoorbell off size v rid s
  | .nodeCoreDoorbell off v => Sys2Proof.Machine.execNodeCoreDoorbell off v s
  | .commandFetch qid data poisoned => Sys2Proof.Machine.execCommandFetch qid data poisoned s
  | .seqReread qid data => Sys2Proof.Machine.execSeqReread qid data s
  | .fetchReissue qid => Sys2Proof.Machine.execFetchReissue qid s
  | .createCq => Sys2Proof.Machine.execCreateCq s
  | .createSq => Sys2Proof.Machine.execCreateSq s
  | .stopSq => Sys2Proof.Machine.execStopSq s
  | .stopSqDone qid => Sys2Proof.Machine.execStopSqDone qid s
  | .deleteSq => Sys2Proof.Machine.execDeleteSq s
  | .deleteCq => Sys2Proof.Machine.execDeleteCq s
  | .bindSq => Sys2Proof.Machine.execBindSq s
  | .bindSqDone => Sys2Proof.Machine.execBindSqDone s
  | .nop qid => Sys2Proof.Machine.execNop qid s
  | .stitch qid => Sys2Proof.Machine.execStitch qid s
  | .stitchDispatch qid => Sys2Proof.Machine.execStitchDispatch qid s
  | .dlistItemIssue m => Sys2Proof.Machine.execDlistItemIssue m s
  | .stitchCommandDone qid idx => Sys2Proof.Machine.execStitchCommandDone qid idx s
  | .writeInline qid => Sys2Proof.Machine.execWriteInline qid s
  | .copy qid => Sys2Proof.Machine.execCopy qid s
  | .hostReadCompletion qid idx data outcome => Sys2Proof.Machine.execHostReadCompletion qid idx data outcome s
  | .skein qid => Sys2Proof.Machine.execSkein qid s
  | .signal qid => Sys2Proof.Machine.execSignal qid s
  | .wait qid => Sys2Proof.Machine.execWait qid s
  | .waitSatisfied qid => Sys2Proof.Machine.execWaitSatisfied qid s
  | .prefetch qid data ok => Sys2Proof.Machine.execPrefetch qid data ok s
  | .adviseEvict qid ok => Sys2Proof.Machine.execAdviseEvict qid ok s
  | .adviseDrop qid => Sys2Proof.Machine.execAdviseDrop qid s
  | .adviseWarm qid => Sys2Proof.Machine.execAdviseWarm qid s
  | .qeCqDb v => Sys2Proof.Machine.execQeCqDb v s
  | .qeAdminSqWrite v => Sys2Proof.Machine.execQeAdminSqWrite v s
  | .qeAdminCqWrite v => Sys2Proof.Machine.execQeAdminCqWrite v s
  | .skeinOpen => Sys2Proof.Machine.execSkeinOpen s
  | .skeinAppend => Sys2Proof.Machine.execSkeinAppend s
  | .skeinRead => Sys2Proof.Machine.execSkeinRead s
  | .skeinMark => Sys2Proof.Machine.execSkeinMark s
  | .skeinRewind => Sys2Proof.Machine.execSkeinRewind s
  | .skeinRelease => Sys2Proof.Machine.execSkeinRelease s
  | .skeinRetract => Sys2Proof.Machine.execSkeinRetract s
  | .skeinClose => Sys2Proof.Machine.execSkeinClose s
  | .skCountsLoRead stream => Sys2Proof.Machine.execSkCountsLoRead stream s
  | .rwRowLoRead => Sys2Proof.Machine.execRwRowLoRead s
  | .counterLoWordRead path addr => Sys2Proof.Machine.execCounterLoWordRead path addr s
  | .rdS home q line => Sys2Proof.Machine.execRdS home q line s
  | .rdX home q line => Sys2Proof.Machine.execRdX home q line s
  | .upg home q line => Sys2Proof.Machine.execUpg home q line s
  | .wb home q line data => Sys2Proof.Machine.execWb home q line data s
  | .cleanEvict home q line => Sys2Proof.Machine.execCleanEvict home q line s
  | .rdNc home q line => Sys2Proof.Machine.execRdNc home q line s
  | .wrNc home q line data mask hint => Sys2Proof.Machine.execWrNc home q line data mask hint s
  | .atomFar home q line op => Sys2Proof.Machine.execAtomFar home q line op s
  | .farAtomicExecute home => Sys2Proof.Machine.execFarAtomicExecute home s
  | .fwdS owner q line => Sys2Proof.Machine.execFwdS owner q line s
  | .fwdX owner q line => Sys2Proof.Machine.execFwdX owner q line s
  | .fwdNc owner q line => Sys2Proof.Machine.execFwdNc owner q line s
  | .recall owner line => Sys2Proof.Machine.execRecall owner line s
  | .inv sharer q line => Sys2Proof.Machine.execInv sharer q line s
  | .push target line data => Sys2Proof.Machine.execPush target line data s
  | .homeRsp q line st acks data => Sys2Proof.Machine.execHomeRsp q line st acks data s
  | .data q line st data => Sys2Proof.Machine.execData q line st data s
  | .invAck q sharer line => Sys2Proof.Machine.execInvAck q sharer line s
  | .recallData home owner line data => Sys2Proof.Machine.execRecallData home owner line data s
  | .nodata home owner line => Sys2Proof.Machine.execNodata home owner line s
  | .pushAck home target line => Sys2Proof.Machine.execPushAck home target line s
  | .pushDrop home target line => Sys2Proof.Machine.execPushDrop home target line s
  | .done home q line => Sys2Proof.Machine.execDone home q line s
  | .reservationServe home line => Sys2Proof.Machine.execReservationServe home line s
  | .nack q line cause => Sys2Proof.Machine.execNack q line cause s
  | .nackRetry q line => Sys2Proof.Machine.execNackRetry q line s
  | .reserved q line => Sys2Proof.Machine.execReserved q line s
  | .wbAck owner line => Sys2Proof.Machine.execWbAck owner line s
  | .wrAck q line => Sys2Proof.Machine.execWrAck q line s
  | .rdRsp q line data => Sys2Proof.Machine.execRdRsp q line data s
  | .atomRsp q line olds contended poisoned => Sys2Proof.Machine.execAtomRsp q line olds contended poisoned s
  | .memReq src tag r => Sys2Proof.Machine.execMemReq src tag r s
  | .memRsp dst tag ok data => Sys2Proof.Machine.execMemRsp dst tag ok data s
  | .intMessage src vector => Sys2Proof.Machine.execIntMessage src vector s
  | .l2PredClear m => Sys2Proof.Machine.execL2PredClear m s
  | .stackTempRead k temp => Sys2Proof.Machine.execStackTempRead k temp s
  | .stackPowerSample k mw => Sys2Proof.Machine.execStackPowerSample k mw s
  | .perBankRefresh k pc bank => Sys2Proof.Machine.execPerBankRefresh k pc bank s
  | .rfm k pc bank threshold => Sys2Proof.Machine.execRfm k pc bank threshold s
  | .patrolScrub k pc => Sys2Proof.Machine.execPatrolScrub k pc s
  | .softRepair k pc row sid bank repairLeft => Sys2Proof.Machine.execSoftRepair k pc row sid bank repairLeft s
  | .hotMean k mean => Sys2Proof.Machine.execHotMean k mean s
  | .hbGrant v => Sys2Proof.Machine.execHbGrant v s
  | .evacSegmentCopy => Sys2Proof.Machine.execEvacSegmentCopy s
  | .evacSegmentCommit => Sys2Proof.Machine.execEvacSegmentCommit s
  | .hbInjectArm k v => Sys2Proof.Machine.execHbInjectArm k v s
  | .hbTgenStart k pc v => Sys2Proof.Machine.execHbTgenStart k pc v s
  | .hbTgenDone k pc miscompare ecc firstBad => Sys2Proof.Machine.execHbTgenDone k pc miscompare ecc firstBad s
  | .faultReport m f => Sys2Proof.Machine.execFaultReport m f s
  | .faultWindowClose entry => Sys2Proof.Machine.execFaultWindowClose entry s
  | .faultResume entry gen => Sys2Proof.Machine.execFaultResume entry gen s
  | .faultAbort entry gen => Sys2Proof.Machine.execFaultAbort entry gen s
  | .invPage asid => Sys2Proof.Machine.execInvPage asid s
  | .invRange pages asid => Sys2Proof.Machine.execInvRange pages asid s
  | .invAsid asid => Sys2Proof.Machine.execInvAsid asid s
  | .invAll => Sys2Proof.Machine.execInvAll s
  | .tlbInv die seq => Sys2Proof.Machine.execTlbInv die seq s
  | .invDone die seq => Sys2Proof.Machine.execInvDone die seq s
  | .tuFringCiWrite v => Sys2Proof.Machine.execTuFringCiWrite v s
  | .tuFringBaseWrite v => Sys2Proof.Machine.execTuFringBaseWrite v s
  | .regRd addr wide => Sys2Proof.Machine.execRegRd addr wide s
  | .regWr addr wide v => Sys2Proof.Machine.execRegWr addr wide v s
  | .regRsp addr wide v => Sys2Proof.Machine.execRegRsp addr wide v s
  | .regTimeout addr wide => Sys2Proof.Machine.execRegTimeout addr wide s
  | .routeSet die row table => Sys2Proof.Machine.execRouteSet die row table s
  | .mapSet die row salt ranges => Sys2Proof.Machine.execMapSet die row salt ranges s
  | .bindSet die row qid mask cls => Sys2Proof.Machine.execBindSet die row qid mask cls s
  | .posSet die row m st => Sys2Proof.Machine.execPosSet die row m st s
  | .patternData die off data => Sys2Proof.Machine.execPatternData die off data s
  | .seqCmd die cmd => Sys2Proof.Machine.execSeqCmd die cmd s
  | .faultRpt kind id cause => Sys2Proof.Machine.execFaultRpt kind id cause s
  | .chainAck src hop seq => Sys2Proof.Machine.execChainAck src hop seq s
  | .chainResend src hop f => Sys2Proof.Machine.execChainResend src hop f s
  | .seamTrainingDone seam maskA maskB sbLanes => Sys2Proof.Machine.execSeamTrainingDone seam maskA maskB sbLanes s
  | .widthAdv seam side mask => Sys2Proof.Machine.execWidthAdv seam side mask s
  | .widthSet seam side width mask => Sys2Proof.Machine.execWidthSet seam side width mask s
  | .widthSetTimeout seam => Sys2Proof.Machine.execWidthSetTimeout seam s
  | .seamTestPatternDone seam pass => Sys2Proof.Machine.execSeamTestPatternDone seam pass s
  | .seamState die seam mask => Sys2Proof.Machine.execSeamState die seam mask s
  | .seamFault seam linkDown => Sys2Proof.Machine.execSeamFault seam linkDown s
  | .guestLinkUp g => Sys2Proof.Machine.execGuestLinkUp g s
  | .vspCap g part block => Sys2Proof.Machine.execVspCap g part block s
  | .vspGrant g crc => Sys2Proof.Machine.execVspGrant g crc s
  | .vspAck g crc => Sys2Proof.Machine.execVspAck g crc s
  | .vspTimeout g => Sys2Proof.Machine.execVspTimeout g s
  | .guestRequest g r => Sys2Proof.Machine.execGuestRequest g r s
  | .bar0BadAccess write addr size => Sys2Proof.Machine.execBar0BadAccess write addr size s
  | .bar4Read off len rid => Sys2Proof.Machine.execBar4Read off len rid s
  | .bar4Write off data be ep rid => Sys2Proof.Machine.execBar4Write off data be ep rid s
  | .bar4Fetchadd off wide v rid => Sys2Proof.Machine.execBar4Fetchadd off wide v rid s
  | .bar4Swap off wide v rid => Sys2Proof.Machine.execBar4Swap off wide v rid s
  | .bar4Cas off size cmp v rid => Sys2Proof.Machine.execBar4Cas off size cmp v rid s
  | .linkRetrain speed width => Sys2Proof.Machine.execLinkRetrain speed width s
  | .hostSideReset cause => Sys2Proof.Machine.execHostSideReset cause s
  | .resizableBarWrite log2 => Sys2Proof.Machine.execResizableBarWrite log2 s
  | .memoryDecodeEnable => Sys2Proof.Machine.execMemoryDecodeEnable s
  | .d3hotEntry => Sys2Proof.Machine.execD3hotEntry s
  | .d0Return => Sys2Proof.Machine.execD0Return s
  | .msixUnmask vector => Sys2Proof.Machine.execMsixUnmask vector s
  | .completionTimeout qid idx => Sys2Proof.Machine.execCompletionTimeout qid idx s
  | .flushReadDone qid idx ok => Sys2Proof.Machine.execFlushReadDone qid idx ok s
  | .pxLostPop => Sys2Proof.Machine.execPxLostPop s
  | .remoteRequest r => Sys2Proof.Machine.execRemoteRequest r s
  | .fabricRead f => Sys2Proof.Machine.execFabricRead f s
  | .fabricReadRsp f => Sys2Proof.Machine.execFabricReadRsp f s
  | .fabricWrite f => Sys2Proof.Machine.execFabricWrite f s
  | .fabricWriteRsp f => Sys2Proof.Machine.execFabricWriteRsp f s
  | .fabricAtomic f => Sys2Proof.Machine.execFabricAtomic f s
  | .fabricAtomicRsp f => Sys2Proof.Machine.execFabricAtomicRsp f s
  | .fabricAck f => Sys2Proof.Machine.execFabricAck f s
  | .fabricNak f => Sys2Proof.Machine.execFabricNak f s
  | .ackTimer node lot => Sys2Proof.Machine.execAckTimer node lot s
  | .retransmitTimeout node lot => Sys2Proof.Machine.execRetransmitTimeout node lot s
  | .flowLost node lot => Sys2Proof.Machine.execFlowLost node lot s
  | .flowIdleFree node lot => Sys2Proof.Machine.execFlowIdleFree node lot s
  | .fabricPortDown p => Sys2Proof.Machine.execFabricPortDown p s
  | .fabricPortUp p => Sys2Proof.Machine.execFabricPortUp p s
  | .lotAdd index row => Sys2Proof.Machine.execLotAdd index row s
  | .lotBindoff index row => Sys2Proof.Machine.execLotBindoff index row s
  | .lotRemoved k => Sys2Proof.Machine.execLotRemoved k s
  | .bindoffForced k => Sys2Proof.Machine.execBindoffForced k s
  | .ptpSync offset => Sys2Proof.Machine.execPtpSync offset s
  | .ptpMessage gm => Sys2Proof.Machine.execPtpMessage gm s
  | .ptpHoldover => Sys2Proof.Machine.execPtpHoldover s
  | .ppsEdge offset => Sys2Proof.Machine.execPpsEdge offset s
  | .ppsLost => Sys2Proof.Machine.execPpsLost s
  | .tsTimeLoRead => Sys2Proof.Machine.execTsTimeLoRead s
  | .nodeCoreInstruction h fetch compressed i0 => Sys2Proof.Machine.execNodeCoreInstruction h fetch compressed i0 s
  | .nodeCoreTimer h => Sys2Proof.Machine.execNodeCoreTimer h s
  | .mctpMessage b ty ours data => Sys2Proof.Machine.execMctpMessage b ty ours data s
  | .setEndpointId b eid => Sys2Proof.Machine.execSetEndpointId b eid s
  | .pldmDiscovery b cmd => Sys2Proof.Machine.execPldmDiscovery b cmd s
  | .pldmPlatform b cmd sensor => Sys2Proof.Machine.execPldmPlatform b cmd sensor s
  | .pldmFru b cmd => Sys2Proof.Machine.execPldmFru b cmd s
  | .requestUpdate b => Sys2Proof.Machine.execRequestUpdate b s
  | .updateComponent b ident size => Sys2Proof.Machine.execUpdateComponent b ident size s
  | .requestFirmwareData b off data => Sys2Proof.Machine.execRequestFirmwareData b off data s
  | .activateFirmware b => Sys2Proof.Machine.execActivateFirmware b s
  | .sensorSample id v => Sys2Proof.Machine.execSensorSample id v s
  | .getInfo ch => Sys2Proof.Machine.execGetInfo ch s
  | .readSensor ch => Sys2Proof.Machine.execReadSensor ch s
  | .readTelemetry ch => Sys2Proof.Machine.execReadTelemetry ch s
  | .slotInfo ch => Sys2Proof.Machine.execSlotInfo ch s
  | .slotBegin ch => Sys2Proof.Machine.execSlotBegin ch s
  | .slotData ch => Sys2Proof.Machine.execSlotData ch s
  | .slotEnd ch => Sys2Proof.Machine.execSlotEnd ch s
  | .sessionTimeout => Sys2Proof.Machine.execSessionTimeout s
  | .repattern ch => Sys2Proof.Machine.execRepattern ch s
  | .slotErase ch => Sys2Proof.Machine.execSlotErase ch s
  | .setMinSvn ch => Sys2Proof.Machine.execSetMinSvn ch s
  | .getSwatch ch => Sys2Proof.Machine.execGetSwatch ch s
  | .readSwatch ch => Sys2Proof.Machine.execReadSwatch ch s
  | .fwBegin ch => Sys2Proof.Machine.execFwBegin ch s
  | .fwData ch => Sys2Proof.Machine.execFwData ch s
  | .fwEnd ch => Sys2Proof.Machine.execFwEnd ch s
  | .enrollOwnerKey ch => Sys2Proof.Machine.execEnrollOwnerKey ch s
  | .keyStage ch => Sys2Proof.Machine.execKeyStage ch s
  | .getChallenge ch => Sys2Proof.Machine.execGetChallenge ch s
  | .challengeExpiry => Sys2Proof.Machine.execChallengeExpiry s
  | .fwSetMinSvn ch => Sys2Proof.Machine.execFwSetMinSvn ch s
  | .getIdentity ch => Sys2Proof.Machine.execGetIdentity ch s
  | .ncRelease ch => Sys2Proof.Machine.execNcRelease ch s
  | .resetCold ch => Sys2Proof.Machine.execResetCold ch s
  | .resetWarm ch => Sys2Proof.Machine.execResetWarm ch s
  | .powerGood => Sys2Proof.Machine.execPowerGood s
  | .powerFail => Sys2Proof.Machine.execPowerFail s
  | .mcLeaveReset sel r => Sys2Proof.Machine.execMcLeaveReset sel r s
  | .stepBudgetExpiry r => Sys2Proof.Machine.execStepBudgetExpiry r s
  | .lockTimeout => Sys2Proof.Machine.execLockTimeout s
  | .watchdog => Sys2Proof.Machine.execWatchdog s
  | .coldRstN level => Sys2Proof.Machine.execColdRstN level s
  | .warmRstN level => Sys2Proof.Machine.execWarmRstN level s
  | .thermalTrip => Sys2Proof.Machine.execThermalTrip s
  | .tripClear => Sys2Proof.Machine.execTripClear s
  | .currentGuardSample ma => Sys2Proof.Machine.execCurrentGuardSample ma s
  | .trefLost => Sys2Proof.Machine.execTrefLost s
  | .ocxoWarm => Sys2Proof.Machine.execOcxoWarm s
  | .sequencerTakeEntry => Sys2Proof.Machine.execSequencerTakeEntry s
  | .motifDrained => Sys2Proof.Machine.execMotifDrained s
  | .motifSelfTestDone pass => Sys2Proof.Machine.execMotifSelfTestDone pass s
  | .mcTestRelease => Sys2Proof.Machine.execMcTestRelease s
  | .hbTestEnter pc => Sys2Proof.Machine.execHbTestEnter pc s
  | .hbTestLeave pc => Sys2Proof.Machine.execHbTestLeave pc s
  | .mcBistStart m => Sys2Proof.Machine.execMcBistStart m s
  | .mcBistDone failUnit => Sys2Proof.Machine.execMcBistDone failUnit s
  | .loopbackStart b v => Sys2Proof.Machine.execLoopbackStart b v s
  | .loopbackStop b bits errors laneErr => Sys2Proof.Machine.execLoopbackStop b bits errors laneErr s
  | .loopbackLockTimeout b bits => Sys2Proof.Machine.execLoopbackLockTimeout b bits s
  | .loopbackDurationEnd b bits errors laneErr => Sys2Proof.Machine.execLoopbackDurationEnd b bits errors laneErr s
  | .tapReset => Sys2Proof.Machine.execTapReset s
  | .bypass => Sys2Proof.Machine.execBypass s
  | .idcode => Sys2Proof.Machine.execIdcode s
  | .samplePreload cells => Sys2Proof.Machine.execSamplePreload cells s
  | .extest => Sys2Proof.Machine.execExtest s
  | .clamp => Sys2Proof.Machine.execClamp s
  | .highz => Sys2Proof.Machine.execHighz s
  | .extestPulse => Sys2Proof.Machine.execExtestPulse s
  | .extestTrain => Sys2Proof.Machine.execExtestTrain s
  | .regAccess write wide addr v => Sys2Proof.Machine.execRegAccess write wide addr v s
  | .debug => Sys2Proof.Machine.execDebug s
  | .evRingBaseWrite v => Sys2Proof.Machine.execEvRingBaseWrite v s
  | .evRingCiWrite v => Sys2Proof.Machine.execEvRingCiWrite v s
  | .registerWrite path addr wide v => Sys2Proof.Machine.execRegisterWrite path addr wide v s
  | .hostLinkUp speed width => Sys2Proof.Machine.execHostLinkUp speed width s
  | .busMasterEnable => Sys2Proof.Machine.execBusMasterEnable s
  | .trefInUse => Sys2Proof.Machine.execTrefInUse s
  | .loopbackLock b => Sys2Proof.Machine.execLoopbackLock b s
  | .burstDone k pc r => Sys2Proof.Machine.execBurstDone k pc r s
  | .countPublication which stream => Sys2Proof.Machine.execCountPublication which stream s
  | .recoveryEnd ok => Sys2Proof.Machine.execRecoveryEnd ok s

end Sys2Proof.Machine
end

