-- ==== Sys2Proof/Machine/NetOps.lean ====
section
/-!
DEFINITION. NetOps.lean: the mainband's seam outputs (R375 to R379).
-/

namespace Sys2Proof.Machine

/-- The output port by which a message leaves the die it is at, under the die's route table (R379, R499). -/
def State.portOf (s : State) (f : Flight) : Nat :=
  match secPlace s.pattern 0 2 with
  | none => 15
  | some (o, _) =>
    portCode s.pattern (o + 40 + 13088 * Sparse.get 0 s.routes f.at' + 256 * blockDies.idxOf f.at') f.dst f.cls

/-- A message may take the next flit slot of an output to die `e` (R376): COH_REQ and MEM_REQ to a home whose ingress buffer is
full have no credit. -/
def State.hasCredit (s : State) (e : Nat) (f : Flight) : Bool :=
  match stackOf f.dst with
  | some k => !((f.cls = 0 || f.cls = 3) && e = f.dst && decide (64 ≤ (s.ctl k).ingress.length))
  | none => true

/-- The order of the classes at an output (R377): DBG first once its flit has waited 64 slots, else last; COH_REQ and MEM_REQ in
alternation. -/
def classOrder (lastCoh dbgDue : Bool) : List Nat :=
  (if dbgDue then [6] else []) ++ [5, 2, 4, 1] ++ (if lastCoh then [3, 0] else [0, 3]) ++ [6]

/-- The message that takes the next flit slot of port `c` of die `d` to die `e` (R377): the oldest of the first class of the order
that has one with a credit. -/
def State.nextFlit (s : State) (d c e : Nat) : Option Flight :=
  let here := s.net.flights.filter fun f => f.at' = d && f.dst ≠ d && s.portOf f = c
  let firsts := (List.range 7).filterMap fun k => here.find? fun f => f.cls = k
  let can := firsts.filter (s.hasCredit e)
  let dbg := can.any fun f => f.cls = 6 && decide (64 ≤ f.waited)
  (classOrder (s.net.lastCoh.contains (16 * d + c)) dbg).findSome? fun k => can.find? fun f => f.cls = k

/-- One flit slot of an output: the message moves to the next die, a guest's leaves the module, and a DBG message that does not go
has waited one slot more. -/
def State.flitSlot (s : State) (d c e : Nat) : State :=
  match s.nextFlit d c e with
  | none => s
  | some f =>
    let wait := fun (g : Flight) => if g.cls = 6 && g.at' = d then { g with waited := g.waited + 1 } else g
    let (before, rest) := s.net.flights.span (· ≠ f)
    let gone := if isGuest e then [] else [{ f with at' := e, waited := 0 }]
    let fs := before.map wait ++ gone ++ (rest.drop 1).map wait
    let key := 16 * d + c
    let coh := s.net.lastCoh.filter (· ≠ key)
    { s with net := { flights := fs, lastCoh := if f.cls = 0 then key :: coh else if f.cls = 3 then coh else s.net.lastCoh } }

/-- One nanosecond of the mainband: every output of an open seam has a flit slot for each of its modules (R373).
(DESIGN CHOICE: log entry 139) -/
def State.netStep (s : State) : State :=
  if s.net.flights.isEmpty then s
  else
    let outs := ((s.net.flights.filter fun f => f.at' ≠ f.dst).map fun f => (f.at', s.portOf f)).eraseDups
    outs.foldl (fun s (x : Nat × Nat) =>
      match portSeam x.1 x.2 with
      | none => s
      | some (i, e) =>
        if s.seamState i = 3 || s.seamState i = 4 then (List.range (s.seamFld i 27 24)).foldl (fun s _ => s.flitSlot x.1 x.2 e) s
        else s) s

end Sys2Proof.Machine
end

