-- ==== Sys2Proof/Machine/Tick.lean ====
section
/-!
DEFINITION. Tick.lean: the passing of time (R42, R457, R542).
-/

namespace Sys2Proof.Machine

/-- The slew of this nanosecond: one nanosecond more or less in each 10 µs until hall time's correction is made (R457).
(DEDUCED: log entry 88) -/
def State.slewStep (s : State) : Int :=
  if (s.now + 1) % 10000 = 0 && s.hall.slewAt ≠ some s.now then (if 0 < s.hall.slew then 1 else if s.hall.slew < 0 then -1 else 0) else 0

/-- A nanosecond passes: full queues count its cycles (R316), needles their unused issue slots (R193), the mainband moves (R377),
requests that wait are taken again (R338), time moves on, and a reset that is due is performed.
(DESIGN CHOICE: log entry 2) -/
def State.tick (s : State) : State :=
  let d := s.slewStep
  let now := ((s.now : Int) + 1 + d).toNat
  let s := ((s.countFull (refCycles now - refCycles s.now)).idleSlots now).netStep.retryReqs
  State.dueReset { s with now := now, hall := { s.hall with slew := s.hall.slew - d, slewAt := if d = 0 then s.hall.slewAt else some now } }

end Sys2Proof.Machine
end

