-- ==== Sys2Proof/Safety.lean ====
section
/-!
DEFINITION. Safety.lean: the words the statements are made in: canonical memories, frames, and reserved bits.
-/

namespace Sys2Proof.Machine

/-- Memory is in its canonical form: addresses strictly rising, no listed byte equal to what an unlisted one reads as. -/
def Memory.wf (m : List Host.Cell) : Bool := Sparse.wf 0 m

/-- The memories of the block are canonical: the stacks, and each motif's local memory. -/
def State.memWf (s : State) : Bool := Memory.wf s.mem && s.locals.all fun x => Memory.wf x.2

/-- Every byte of the stacks and of local memory, with its poison and its flash, reads as before. -/
def SameMemory (s t : State) : Prop :=
  t.mem = s.mem ∧ t.locals = s.locals ∧ t.poison = s.poison ∧ t.flips = s.flips ∧ t.redirect = s.redirect ∧
    t.flash = s.flash ∧ t.pattern = s.pattern

/-- The compute units of the motifs are as before. -/
def SameMotifs (s t : State) : Prop :=
  t.arrays = s.arrays ∧ t.vecs = s.vecs ∧ t.needles = s.needles ∧ t.scheds = s.scheds ∧ t.locals = s.locals ∧ t.resv = s.resv

/-- The command `c` leaves a state that differs from the one before only as `f` of the two says. -/
def Changes (c : Instr) (f : State → State → State) : Prop := ∀ s t, exec c s = .next t → t = f s t

/-- A stream's positions stand in order (R258). -/
def Ordered (x : Stream) : Prop := x.rel ≤ x.mark ∧ x.mark ≤ x.rd ∧ x.rd ≤ x.tail ∧ x.tail ≤ x.limit

/-- A unit of the array may take the descriptor `j` of operation `op`: it stands first for the unit, no earlier descriptor names its
set and no earlier access to the set waits, and the motif is ENABLED. -/
def ArrayTakes (s : State) (m : Nat) (u : ArrayUnit) (op : Nat) (j : ArrayJob) : Prop :=
  (s.array m).unit u = none ∧ s.startable m u = some j ∧ dw j.desc 0 7 0 = op ∧ s.pos m = 1

/-- As `ArrayTakes`, of a descriptor that passes its checks. -/
def ArrayReady (s : State) (m : Nat) (u : ArrayUnit) (op : Nat) (j : ArrayJob) : Prop :=
  ArrayTakes s m u op j ∧ s.arrayCheck m j.desc = none

/-- The vector engine, idle on an ENABLED motif, has the descriptor `j` of operation `op` at the head of its queue, `js` behind. -/
def VectorTakes (s : State) (m op : Nat) (j : VeJob) (js : List VeJob) : Prop :=
  (s.vec m).run = none ∧ (s.vec m).queue = j :: js ∧ veOp j.desc = op ∧ s.pos m = 1

/-- The descriptor `j` as it stands when it starts at this instant. -/
def State.veStarted (s : State) (m : Nat) (j : VeJob) : VeJob :=
  { j with start := s.now, ran := true, sets := veSets j.desc, before := (s.array m).accepted }

/-- The command `c` of a motif runs descriptors of operation `op`: it takes the head descriptor, which finishes without running where a
check fails; where the sets that it reaches are free its lane groups run, and where they are not it waits; the running descriptor
goes on in the same way. -/
def RunsVector (op : Nat) (c : Motif → Instr) : Prop :=
  (∀ (m : Motif) (s : State) (j : VeJob) (js : List VeJob) (st : Nat), VectorTakes s m op j js → s.veCheck m j.desc = some st →
    exec (c m) s = .next ((s.setVec m { s.vec m with queue := js }).putVe m (some { j with start := s.now, status := some st }))) ∧
  (∀ (m : Motif) (s : State) (j : VeJob) (js : List VeJob), VectorTakes s m op j js → s.veCheck m j.desc = none →
    j.status = none → j.stalled = false →
    exec (c m) s = .next (
      let k := s.veStarted m j
      let t := s.setVec m { s.vec m with queue := js }
      let r := if t.veTurn m k then State.veGroups m (groupsPerRow k.desc * veRows k.desc + 1) k t else (k, t)
      r.2.putVe m (some r.1))) ∧
  (∀ (m : Motif) (s : State) (k : VeJob), (s.vec m).run = some k → veOp k.desc = op → k.status = none → k.stalled = false →
    exec (c m) s = .next (
      let r := if s.veTurn m k then State.veGroups m (groupsPerRow k.desc * veRows k.desc + 1) k s else (k, s)
      r.2.putVe m (some r.1)))

/-- The group in slot `g` of motif `m`, of launch `l`, is the one its needle picks, on an ENABLED motif, and the word `w` that its fetch
brings is held by nothing. `x` is the group as it issues, `t` the state after the fetch, the pick noted. -/
def Picked (s t : State) (m g : Nat) (x : Group) (l : LaunchJob) (w : Nat) : Prop :=
  s.launch m = some l ∧ s.pos m = 1 ∧ s.nextSlot m (g / 16) = some g ∧
    ∃ y u, s.group m g = some y ∧ y.idle = true ∧ x = { y with room := none } ∧ s.fetch m g y l = (.word w, u) ∧
      s.held m g y w = false ∧ t = u.issued m g y

/-- As `Picked`, with active threads; the instruction is counted in `t`. -/
def Issues (s t : State) (m g : Nat) (x : Group) (l : LaunchJob) (w : Nat) : Prop :=
  ∃ u, Picked s u m g x l w ∧ x.am ≠ 0 ∧ t = u.bump (C.TG_CNT_GROUP_INSTR m) 1

/-- As `Issues`, with every thread present active: what a collective asks. -/
def IssuesTogether (s t : State) (m g : Nat) (x : Group) (l : LaunchJob) (w : Nat) : Prop :=
  Issues s t m g x l w ∧ x.am = x.pm

/-- The command `c` of a group issues words that `p` accepts, and one with no active thread only goes on at pc + 4. -/
def PassesIdle (p : Nat → Bool) (c : Motif → GroupSlot → Instr) : Prop :=
  ∀ (m : Motif) (g : GroupSlot) (s t : State) (x : Group) (l : LaunchJob) (w : Nat), Picked s t m g x l w → x.mem = none →
    p w = true → x.am = 0 →
    exec (c m g) s = .next ((t.bump (C.TG_CNT_GROUP_INSTR m) 1).putGroup m g (some x.step4))

/-- The command `c` of a group issues words that `p` accepts, and where AM differs from PM the group faults. -/
def MeetsOnly (p : Nat → Bool) (c : Motif → GroupSlot → Instr) : Prop :=
  ∀ (m : Motif) (g : GroupSlot) (s t : State) (x : Group) (l : LaunchJob) (w : Nat), Picked s t m g x l w → x.mem = none →
    p w = true → x.am ≠ x.pm →
    exec (c m g) s = .next ((t.bump (C.TG_CNT_GROUP_INSTR m) 1).groupFault m g x GF.DIVERGENT_COLLECTIVE)

/-- The command `c` of a group runs the memory instructions that `p` accepts: issued with active threads (for a collective, all of the
group's), `begins` places the accesses or faults or stalls, and what it places is pursued with the pc moved on; one in progress of a
group that is not stalled is pursued again. -/
def Pursues (p : Nat → Bool) (together : Prop) (c : Motif → GroupSlot → Instr)
    (begins : Motif → GroupSlot → Group → LaunchJob → Nat → State → Option MemOp × State)
    (pursue : Motif → GroupSlot → Group → LaunchJob → MemOp → State → State) : Prop :=
  (∀ (m : Motif) (g : GroupSlot) (s t : State) (x : Group) (l : LaunchJob) (w : Nat), Picked s t m g x l w → x.mem = none →
    p w = true → x.am ≠ 0 → (together → x.am = x.pm) →
    exec (c m g) s = .next (
      match begins m g x l w t with
      | (none, u) => u
      | (some op, u) => pursue m g x.step4 l op u)) ∧
  (∀ (m : Motif) (g : GroupSlot) (s : State) (x : Group) (l : LaunchJob) (op : MemOp), s.group m g = some x →
    s.launch m = some l → x.mem = some op → p op.word = true → x.stalled = false → s.pos m = 1 →
    exec (c m g) s = .next (pursue m g { x with mem := none } l op s))

/-- The command `c` runs the atomics that `p` accepts. -/
def RunsAtomics (p : Nat → Bool) (c : Motif → GroupSlot → Instr) : Prop :=
  Pursues p False c
    (fun m g x l w t => t.beginMem m g x l w (if (atomWord w).2 then 8 else 4) .atomic Need.atomic
      (x.active.map fun k => (k, x.xr k (rvRs1 w))))
    fun m g x l op u =>
      let r := State.doAtomics m g (accLines op.accs) x op u
      r.2.2.2.endMem m g l r.1 r.2.1 r.2.2.1


/-- Command `c` of queue `qid` moves pages: it has opcode `opc`, and `x` says what it has done. -/
def Moves (s : State) (qid opc : Nat) (c : QCmd) (x : Moved) (want : Bool) : Prop :=
  (s.queue qid).cmds.find? QCmd.movesPages = some c ∧ c.run = x.run want ∧ c.opc = opc ∧ s.qe.dead = false

/-- The command `c`, a frame of type `type`, is counted at its port and put through the checks of R439 in order: the
first that fails drops it with its count; past them its ACK_SEQ is taken, in `u`, and `act` is done. -/
def ChecksFrames (type : Nat) (c : Frame → Instr) (act : Frame → State → State → State) : Prop :=
  ∀ (f : Frame) (s t : State) (h : Nat), h = f.header.toNat → t = s.bump (C.FB_PCNT_RX_FRAMES f.port) 1 →
    (f.fcsOk = false → exec (c f) s = .next (t.bump (C.FB_PCNT_FCS_ERR f.port) 1)) ∧
    (f.fcsOk = true → hf h 47 32 ≠ t.fld F.FB_NODE_NODE →
      exec (c f) s = .next ((t.bump C.FB_CNT_MISDIRECT 1).setFld F.FB_STICKY_MISDIRECT 1)) ∧
    (f.fcsOk = true → hf h 47 32 = t.fld F.FB_NODE_NODE → frameOk type f = false →
      exec (c f) s = .next ((t.bump C.FB_CNT_BAD_FRAME 1).setFld F.FB_STICKY_BAD_FRAME 1)) ∧
    (f.fcsOk = true → hf h 47 32 = t.fld F.FB_NODE_NODE → frameOk type f = true → t.lotEntry (hf h 31 16) = none →
      exec (c f) s = .next ((t.bump C.FB_CNT_LOT_DROPPED 1).setFld F.FB_STICKY_LOT_DROPPED 1)) ∧
    (∀ (k : Nat) (u : State), f.fcsOk = true → hf h 47 32 = t.fld F.FB_NODE_NODE → frameOk type f = true →
      t.lotEntry (hf h 31 16) = some k → u = t.acked (hf h 63 48) (hf h 31 16) (hf h 119 96) →
      exec (c f) s = .next (act f s u))

/-- The command `c`, a frame of type `type`, past its checks is delivered in its flow's order: `serve` does what its
delivery does, or answers none, and then nothing at all has changed. -/
def TakesFrames (type : Nat) (c : Frame → Instr) (serve : Frame → State → Option State) : Prop :=
  ChecksFrames type c fun f s u =>
    let h := f.header.toNat
    let src := hf h 63 48
    let lot := hf h 31 16
    let given := (serve f (u.delivered' src lot (hf h 87 64))).getD s
    match u.rxFlow (flowKey src lot) with
    | none => if hf h 8 8 = 0 ∨ 16384 ≤ u.fabric.tx.length + u.fabric.rx.length then u else given
    | some r =>
      match orderOf (some r) (hf h 8 8 = 1) (hf h 87 64) with
      | .deliver => given
      | .duplicate => u.sendAck src lot Fr.ACK
      | .late =>
        if r.nakAt.all fun t => t + u.fld F.FB_XPORT_RTO_US * 250 ≤ u.now then
          (u.setRxFlow (flowKey src lot) (some { r with nakAt := some u.now, used := u.now })).sendAck src lot Fr.NAK
        else u
      | .drop => u

/-- The mailbox command `c` of opcode `opc` runs where it is at the head of the order, on its channel, and the module is
past reset: it does `f` where the present state serves it and completes with BAD_COMMAND where it does not, and what
nothing serves completes after it. Elsewhere it changes nothing. -/
def MailboxRuns (opc : Nat) (c : Channel → Instr) (f : Channel → Job → State → State) : Prop :=
  ∀ (ch : Channel) (s : State),
    (∀ (j : Job) (js : List Job), s.mc.jobs = j :: js → s.fld F.MC_STATUS_STATE ≠ 0 → j.ch = ch → j.opc = opc →
      (s.opcServed opc = true → exec (c ch) s = .next ((f ch j s).mboxFlush 4)) ∧
      (s.opcServed opc = false → exec (c ch) s = .next ((s.mboxDone ch St.BAD_COMMAND []).mboxFlush 4))) ∧
    ((∀ (j : Job) (js : List Job), s.mc.jobs = j :: js → s.fld F.MC_STATUS_STATE = 0 ∨ j.ch ≠ ch ∨ j.opc ≠ opc) →
      exec (c ch) s = .next s)

end Sys2Proof.Machine
end

