-- ==== Sys2Proof/Certificates/Slice0/Obligations.lean ====
section
/-!
DEFINITION. Obligations.lean: the statements about the model.
-/

open Sys2Proof Sys2Proof.Machine

/-- O1. For every command c and state s with c at the front of its queue, step of s is exec of c on s with the
queue's rest. The queue is the model's own (log entry 2). -/
def Obligations.StepRunsTheFrontCommand : Prop :=
  ∀ (c : Instr) (cs : List Instr) (s : State), s.pending = c :: cs → step s = exec c { s with pending := cs }

/-- O2. With no command waiting, step lets 1 ns of hall time pass; at each tenth microsecond, where time is being
slewed, 1 ns more or none, and the slew that is left falls by it. The queues that are full count the cycles that
begin, the needles the issue slots that nothing uses, the mainband moves what is on it, and the requests that
wait are taken again; then, where a reset commanded earlier is due, it is performed, warm with cause 6 or cold
with cause 3. The tick of 1 ns on an empty queue and how a slew moves time are the model's choices, as is when a
waiting request is taken again (log entries 2, 88, 111 and 156). -/
def Obligations.EmptyQueueLetsTimePass : Prop :=
  ∀ (s t u : State) (d : Int) (n : Nat), s.pending = [] →
    d = (if (s.now + 1) % 10000 = 0 ∧ s.hall.slewAt ≠ some s.now then s.hall.slew.sign else 0) →
    n = ((s.now : Int) + 1 + d).toNat →
    t = ((s.countFull (refCycles n - refCycles s.now)).idleSlots n).netStep.retryReqs →
    u = { t with now := n, hall := { t.hall with
      slew := t.hall.slew - d, slewAt := if d = 0 then t.hall.slewAt else some n } } →
    (u.mc.resetAt = none → step s = .next u) ∧
    (∀ (r : Nat) (warm : Bool), u.mc.resetAt = some (r, warm) →
      step s = .next (if r ≤ n then u.doReset warm (if warm then 6 else 3) else u))

/-- O3. For every state s whose stacks and local memories are in their canonical form, step answers a next state;
its queue is the queue of s without its front command (empty where it was empty), and its memories are canonical
again. No command of the block stops on a fault or a refusal. -/
def Obligations.EveryStepKeepsQueueAndMemories : Prop :=
  ∀ s : State, s.memWf = true → ∃ t, step s = .next t ∧ t.pending = s.pending.tail ∧ t.memWf = true

/-- O4. For every command and every state, exec answers a next state, whose queue is the one before: an event whose
precondition fails, a command refused and one that faults by the spec's rules all run on. -/
def Obligations.EveryCommandCompletes : Prop :=
  ∀ (c : Instr) (s : State), ∃ t, exec c s = .next t ∧ t.pending = s.pending

/-- O5. At reset the queue is empty and the memories are canonical and list nothing; each field named reads the
value its Reset column gives: the ring levels 1, RO_EN 1, MSI-X vectors masked, the scales 0x0100, L2_CFG's
shape, HB_INJECT's bit numbers 0xFF, the hooks closed, every position 0 until the Pattern is loaded, no event
ring, sequence numbers 0. -/
def Obligations.ResetLeavesTheResetColumn : Prop :=
  State.reset.pending = [] ∧ State.reset.memWf = true ∧ State.reset.mem = [] ∧ State.reset.locals = [] ∧
    State.reset.fld F.QE_ADMIN_VEC_LEVEL = 1 ∧ State.reset.fld F.TU_FRING_CTL_LEVEL = 1 ∧
    State.reset.fld F.PX_CTL_RO_EN = 1 ∧ State.reset.fld F.EV_RING_CTL_LEVEL = 1 ∧
    (∀ v, v < 2048 → State.reset.reg (0xB000C + 16 * v) = 1) ∧
    (∀ m, m < 48 → ∀ c, c < 16 → State.reset.fld (F.RW_SCALE_CYC_SCALE m c) = 256 ∧
      State.reset.fld (F.RW_SCALE_EN_SCALE m c) = 256) ∧
    (∀ k, k < 16 → State.reset.fld (F.HB_INJECT_ARM k) = 0 ∧ State.reset.fld (F.HB_INJECT_BIT_A k) = 255 ∧
      State.reset.fld (F.HB_INJECT_BIT_B k) = 255 ∧ State.reset.fld (F.HB_INJECT_BIT_C k) = 255) ∧
    (∀ m, m < 48 → State.reset.pos m = 0) ∧ State.reset.fld F.PT_HOOKS_HOOKS = 0 ∧
    State.reset.fld F.EV_RING_BASE_EN = 0 ∧ State.reset.ev.seq = 0 ∧ State.reset.fld F.MC_STATUS_STATE = 0

/-- O6. ROW_EDGE: a die that has missed its edge keeps its Row and its count of misses, ends the halt for them and
notes the frame; a die that has not, and whose Row is not the frame's, begins that Row at the frame's instant
(not later than now) and then notes the frame, its misses set to 0; where the halt for misses was in force and
the edge window is over, the frame is an admission point. GAUGE_BUDGET of the die's Row is installed up to edge
+ 2.0 µs where no budget is installed yet, changes nothing where one is, and after it raises GAUGE_BUDGET_LATE;
of another Row it changes nothing. FLOOR_BUDGET from edge + 2.0 µs installs the floor where no budget is
installed. The body starts from edge + 4.0 µs, an admission point where a stitch came late in the edge window,
and the GAUGE_REPORT is sent with the forecasts; the guard starts 25 µs before the edge and changes PHASE alone.
Where these conditions do not hold, none of the five changes the state. The model's choices here: log entries 3
and 13. -/
def Obligations.RowFramesRunTheRow : Prop :=
  (∀ (m : Motif) (row : BitVec 48) (al ho : Bool) (t : BitVec 64) (s : State),
    exec (.rowEdge m row al ho t) s = .next (
      let r := s.sched m
      let s1 := if r.missed = false ∧ row.toNat ≠ r.row ∧ t.toNat ≤ s.now then s.beginRow m row.toNat t.toNat else s
      let s2 := s1.onSched m fun r' => { r' with
        edgeSeen := true, misses := if r.missed then r.misses else 0, missHalt := false,
        haltSeen := r'.haltSeen || r.missHalt, placed := s1.now - r.latency, heard := some (al, ho) }
      let s3 := s2.setFld (F.RW_MSTATUS_ADMIT_HALT m) (flag (s2.sched m).powerHalt)
      if r.missHalt = true ∧ s3.fld (F.RW_MSTATUS_PHASE m) ≠ 0 then s3.admission m false else s3)) ∧
  (∀ (m : Motif) (row : BitVec 48) (cut : Bool) (eM eRes eBe : BitVec 32) (s : State),
    exec (.gaugeBudget m row cut eM eRes eBe) s = .next (
      if row.toNat ≠ (s.sched m).row then s
      else if 2000 < s.relNow m then s.raise Ev.GAUGE_BUDGET_LATE {}
      else if (s.sched m).budgetSet then s
      else s.install m cut false eM.toNat eRes.toNat eBe.toNat)) ∧
  (∀ (m : Motif) (s : State), exec (.floorBudget m) s = .next (
    if (s.sched m).budgetSet = false ∧ 2000 ≤ s.relNow m then s.floorRow m else s)) ∧
  (∀ (m : Motif) (s : State), s.fld (F.RW_MSTATUS_PHASE m) = 0 → 4000 ≤ s.relNow m →
    exec (.bodyStart m) s = .next (
      let b := s.setFld (F.RW_MSTATUS_PHASE m) 1
      let b := b.onSched m fun r => { r with waiting := r.waiting.map fun x => { x with late := false } }
      let b := if (s.sched m).waiting.any Stitch.late then b.admission m false else b
      b.sendFrom m 48 ((b.sched m).report +
        packBits [(160, 32, (b.sched m).forecastBe), (192, 32, (b.sched m).forecastRes)]))) ∧
  (∀ (m : Motif) (s : State), (s.fld (F.RW_MSTATUS_PHASE m) ≠ 0 ∨ s.relNow m < 4000) → exec (.bodyStart m) s = .next s) ∧
  (∀ (m : Motif) (s : State), exec (.guardStart m) s = .next (
    if s.fld (F.RW_MSTATUS_PHASE m) = 1 ∧ s.rpNs - 25000 ≤ s.relNow m then s.setFld (F.RW_MSTATUS_PHASE m) 2 else s))

/-- O7. At the end of the Row in progress the yoke takes the Row's number and the edge, sends ROW_EDGE to every die
of the Row and the budgets of that Row, applies its changes and settles what the edge settles; before it,
nothing changes. A die at its own edge closes its Row, takes the new number and applies its changes; before it,
nothing changes. A ROW_EDGE neither seen nor noted as missed 1.5 µs after the edge sets EDGE_MISSED and the
floor budget, and from the second miss in a row a halt that was not in force begins with CHAIN_EDGE_LOST; else
nothing changes. The edge pass, from edge + 2.0 µs with the budget installed and not yet made, is an admission
point and keeps the forecasts; else nothing changes. The model's choices here: log entries 3, 12, 13 and 36. -/
def Obligations.RowEdgesAreTaken : Prop :=
  (∀ s : State, edgeDue s.now s.rpNs s.rowYoke.began s.rowYoke.stepped = true →
    exec .rowTimerFire s = .next (
      let edge := s.now / s.rpNs * s.rpNs
      let row := edge / s.rpNs % 2 ^ 48
      let y := s.rowYoke
      let s := { s with rowYoke := { y with
        row := row, began := edge, stepped := none, openAll := y.openAll || s.fld F.RW_STATUS_ALIGNED = 1, reports := []
        stackGrant := y.stackNext, yokePast := y.yokeGrant, yokeGrant := y.yokeNext } }
      let s := s.sendAll (s.rowDies.map fun d =>
        s.chainMsg 48 d 0 (rowEdgePayload s row edge))
      let s := (s.sendBudgets row s.rowYoke.budgets).applyChanges 48 row
      ((List.range 16).foldl State.markStack s).sendHotMeans.lotEdge.settleRecovery.aligned)) ∧
  (∀ s : State, edgeDue s.now s.rpNs s.rowYoke.began s.rowYoke.stepped = false → exec .rowTimerFire s = .next s) ∧
  (∀ (m : Motif) (s : State), exec (.localEdge m) s = .next (
    if edgeDue s.now s.rpNs (s.sched m).edgeAt (s.sched m).stepped then
      let edge := s.now / s.rpNs * s.rpNs
      let row := edge / s.rpNs % 2 ^ 48
      let t := s.closeRow m
      (t.onSched m fun r => { r with row := row, edgeAt := edge, stepped := none }).applyChanges m row
    else s)) ∧
  (∀ (m : Motif) (s : State), (s.sched m).edgeSeen = false → (s.sched m).missed = false → 1500 ≤ s.relNow m →
    exec (.edgeMissed m) s = .next (
      let k := (s.sched m).misses + 1
      let t := ((s.setSched m { s.sched m with
        missed := true, misses := k, missHalt := (s.sched m).missHalt || 2 ≤ k }).setFld (F.RW_MSTATUS_EDGE_MISSED m) 1).floorRow m
      if 2 ≤ k ∧ (s.sched m).missHalt = false then (t.setFld (F.RW_MSTATUS_ADMIT_HALT m) 1).raise Ev.CHAIN_EDGE_LOST {} else t)) ∧
  (∀ (m : Motif) (s : State), ((s.sched m).edgeSeen = true ∨ (s.sched m).missed = true ∨ s.relNow m < 1500) →
    exec (.edgeMissed m) s = .next s) ∧
  (∀ (m : Motif) (s : State), (s.sched m).passDone = false → (s.sched m).budgetSet = true → 2000 ≤ s.relNow m →
    exec (.edgePass m) s = .next (
      let t := s.admission m true
      let cands := ((t.sched m).admitted.drop (s.sched m).admitted.length).map Admitted.st ++
        (heads (t.sched m).waiting).filter fun x => !x.late
      t.setSched m { t.sched m with
        passDone := true
        forecastBe := sumEu t m (cands.filter fun x => 12 ≤ x.cls)
        forecastRes := sumEu t m (cands.filter fun x => x.cls ≤ 11) })) ∧
  (∀ (m : Motif) (s : State), ((s.sched m).passDone = true ∨ (s.sched m).budgetSet = false ∨ s.relNow m < 2000) →
    exec (.edgePass m) s = .next s)

/-- O8. A stitch in transit that arrives joins the waiting stitches, with late set where the edge window's pass has
begun, and the heads are tested; outside the edge window its arrival is an admission point. With none running on
an ENABLED motif, the admitted stitch that nextToRun names starts (one of the edge pass only after the edge
window), and the accumulator sets are cleared where the ASID of the stitch before it, if there was one, differs.
A finished stitch is accounted, refunded where no edge has passed, gives its completion, and outside the edge
window is an admission point. At its second edge a carried stitch counts as overrun with STITCH_OVERRUN, once;
from edge OVERRUN_ROWS a carried one completes with STITCH_HUNG and the motif faults. The stitch that nextToRun
names is an admitted one of lowest class. The model's choices here: log entries 3 and 145. -/
def Obligations.StitchesRunAndFinish : Prop :=
  (∀ (m : Motif) (qid : BitVec 20) (idx : BitVec 24) (s u : State) (x : Stitch),
    s.takeTransit m qid.toNat idx.toNat = some (x, u) →
      exec (.stitchArrival m qid idx) s = .next (
        let x := { x with late := decide (u.fld (F.RW_MSTATUS_PHASE m) = 0 ∧ 2000 < u.relNow m) }
        let t := (u.onSched m fun r => { r with waiting := r.waiting ++ [x] }).testHeads m
        if u.fld (F.RW_MSTATUS_PHASE m) = 0 then t else t.admission m false)) ∧
  (∀ (m : Motif) (s : State) (a : Admitted), (s.sched m).running = none → nextToRun (s.sched m).admitted = some a →
    s.pos m = 1 → (a.pass = false ∨ s.fld (F.RW_MSTATUS_PHASE m) ≠ 0) →
      exec (.stitchStart m) s = .next (
        let t := s.setSched m { s.sched m with
          running := some { a with start := some s.now }, admitted := (s.sched m).admitted.erase a
          lastAsid := some a.st.asid }
        if (s.sched m).lastAsid = some a.st.asid ∨ (s.sched m).lastAsid = none then t else t.clearAccs m)) ∧
  (∀ (m : Motif) (s : State) (a b : Admitted), (s.sched m).running = some a → s.stitchFinished m a = true →
    ((s.accrue m).sched m).running = some b →
      exec (.stitchDone m) s = .next (
        let u := if b.edges = 0 then (s.accrue m).refund m b else s.accrue m
        let u := if u.fld F.RW_PERIOD_SCALE_EN = 1 then u.rescale m b else u
        let u := (u.onSched m fun r => { r with running := none }).stitchResult b.st (b.bad.getD St.OK)
        if u.fld (F.RW_MSTATUS_PHASE m) = 0 then u else u.admission m false)) ∧
  (∀ (m : Motif) (s : State) (a : Admitted), (s.sched m).running = some a → s.stitchFinished m a = false →
    exec (.stitchDone m) s = .next s) ∧
  (∀ (m : Motif) (s : State) (a : Admitted), (s.sched m).running = some a →
    exec (.stitchOverrun m) s = .next (
      if a.carried = true ∧ 2 ≤ a.edges ∧ a.overrun = false then
        ((s.setSched m { s.sched m with running := some { a with overrun := true } }).bump (C.RW_CNT_OVERRUN m) 1).raise
          Ev.STITCH_OVERRUN { src := m, d1 := a.st.qid, d2 := a.st.idx }
      else s)) ∧
  (∀ (m : Motif) (s : State) (a : Admitted), (s.sched m).running = some a →
    exec (.stitchHung m) s = .next (
      if a.carried = true ∧ s.fld F.RW_PERIOD_OVERRUN_ROWS ≤ a.edges then
        let u := s.accrue m
        ((u.onSched m fun r => { r with running := none }).stitchResult a.st St.STITCH_HUNG).motifFault m 0x01
      else s)) ∧
  (∀ (m : Motif) (s : State), (s.sched m).running = none → exec (.stitchDone m) s = .next s ∧
    exec (.stitchOverrun m) s = .next s ∧ exec (.stitchHung m) s = .next s) ∧
  (∀ (as : List Admitted) (a : Admitted), nextToRun as = some a → a ∈ as ∧ ∀ b ∈ as, a.st.cls ≤ b.st.cls)

/-- O9. A power sample is charged, then held against the thermal limit and the backstop, and the backstop is noted.
A GAUGE_REPORT that is timely is kept under its source; another changes nothing. The governor computes where a
Row period is set, and else changes nothing. A write of GA_LIMIT clears REJECT where bit 31 is 1; then 0 clears
OVR_W, a value of 2,400 to PAT_W for which the power fits is set, and any other sets REJECT. A stitch of the
motif found overdue from edge + 4.0 µs on is marked, counted, shown in the sticky bit, its stream marked late
where it has one, and DEADLINE_MISSED raised; where none is found, nothing changes. A step moves hall time. The
loss of alignment is taken where holdover has lasted more than 10 minutes, and else nothing changes. Late
changes are sent again. The model's choices here: log entries 12, 14, 36, 90, 129 (a value outside 2,400 to
PAT_W sets REJECT), 130 and 131. -/
def Obligations.GaugeAndClockAnswer : Prop :=
  (∀ (m : Motif) (mw : BitVec 32) (tj : BitVec 8) (s : State),
    exec (.powerSample m mw tj) s =
      .next ((((s.chargeSample m mw.toNat tj.toNat).thermal m tj.toNat).backstop m mw.toNat).noteBackstop m)) ∧
  (∀ (r : GaugeReport) (s : State), exec (.gaugeReport r) s = .next (
    if (r.row.toNat + 1) % 2 ^ 48 = s.rowYoke.row ∧ s.rowYoke.began + 4000 ≤ s.now ∧ s.now ≤ s.rowYoke.began + 10000 then
      { s with rowYoke := { s.rowYoke with reports := Sparse.set none s.rowYoke.reports r.src.val (some r) } }
    else s)) ∧
  (∀ (y z : BitVec 32) (s : State),
    exec (.governorCompute y z) s = .next (if s.rpUs = 0 then s else s.governor y.toNat z.toNat)) ∧
  (∀ (v : BitVec 32) (s : State), exec (.gaLimitWrite v) s = .next (
    let w := bits v.toNat 28 16
    let t := if bits v.toNat 31 31 = 1 then s.setFld F.GA_LIMIT_REJECT 0 else s
    if w = 0 then t.setFld F.GA_LIMIT_OVR_W 0
    else if 2400 ≤ w ∧ w ≤ t.fld F.GA_LIMIT_PAT_W ∧ t.powerFits w = true then t.setFld F.GA_LIMIT_OVR_W w
    else t.setFld F.GA_LIMIT_REJECT 1)) ∧
  (∀ (m : Motif) (qid : BitVec 20) (idx : BitVec 24) (s : State) (x : Stitch),
    (s.sched m).stitches.find? (fun x => x.qid = qid.toNat && x.idx = idx.toNat && overdue (s.sched m).row x &&
      4000 ≤ s.relNow m) = some x →
      exec (.deadlineMissed m qid idx) s = .next (
        let t := ((s.setSched m ((s.sched m).mark qid.toNat idx.toNat)).bump C.QE_CNT_DEADLINE_MISSED 1).setFld
          F.QE_STICKY_DEADLINE 1
        let t := match x.stream with
          | some k => t.streamLate k
          | none => t
        t.raise Ev.DEADLINE_MISSED { src := m, d1 := qid.toNat, d2 := idx.toNat, d3 := x.stream.getD 0 })) ∧
  (∀ (m : Motif) (qid : BitVec 20) (idx : BitVec 24) (s : State),
    (∀ x ∈ (s.sched m).stitches, x.qid = qid.toNat → x.idx = idx.toNat → overdue (s.sched m).row x = true →
      s.relNow m < 4000) → exec (.deadlineMissed m qid idx) s = .next s) ∧
  (∀ (d : Int) (s : State), exec (.hallTimeStep d) s = .next (s.stepTime d)) ∧
  (∀ s : State, exec .rowUnaligned s = .next (
    if s.fld F.TS_STATUS_LOCKED = 0 ∧ s.fld F.RW_STATUS_ALIGNED = 1 ∧ s.hall.since.any (· + 600000000000 < s.now) = true
    then s.unaligned else s)) ∧
  (∀ (src : Mesh) (row : BitVec 48) (s : State), exec (.late src row) s = .next (s.reissue src.val row.toNat))

/-- O10. A unit's command takes the descriptor that its unit may take and that has the command's OP. One that passes
its checks runs: MMA adds its groups up to the first promotion due; DRAIN, SAVE and RESTORE do what runDrain,
moveSave and moveRestore say; ZERO clears the set with GCNT and RUN_FMT; PROMOTE promotes the set. One that
fails a check takes that status and does not run. CHUNK_PROMOTION promotes the set of an MMA whose promotion is
due, and the MMA goes on. A SAVE or RESTORE under way, not stalled and not finished, is tried again.
SAVE_COUNTER_ADD, once the record's writes to other nodes are answered, does the far add of 1 at P_CTR: done, it
finishes the SAVE (POISONED where poison was met); a fault stalls it; where it must wait nothing changes.
ARRAY_DESC_DONE completes a unit's finished descriptor (the drain unit's once its writes to other nodes are
answered), and one that an idle unit may take and that fails its checks; accesses that waited follow.
MX_ACCSTATE_WRITE waits behind the descriptors that name its set, and else writes GCNT and, but for code 3,
RUN_FMT. The model's choices here: log entries 16, 27, 31, 143, 146. -/
def Obligations.ArrayDescriptorsRun : Prop :=
  (∀ (m : Motif) (s : State) (j : ArrayJob), ArrayReady s m .product 1 j →
    exec (.mma m) s = .next (
      let a := s.startMma m j
      let b := State.runGroups m (mmaK a.1.desc) a.1 a.2
      let c := b.2.finishMma m b.1
      c.2.takeJob m .product j c.1)) ∧
  (∀ (m : Motif) (s : State) (j : ArrayJob), ArrayReady s m .drain 2 j →
    exec (.drain m) s = .next ((s.runDrain m j).2.takeJob m .drain j (s.runDrain m j).1)) ∧
  (∀ (m : Motif) (s : State) (j : ArrayJob), ArrayReady s m .product 3 j →
    exec (.zero m) s = .next (
      ((s.setAcc m (bits j.desc 9 8) AccSet.zero).setFlds
        [(F.MX_ACCSTATE_GCNT m (bits j.desc 9 8), 0), (F.MX_ACCSTATE_RUN_FMT m (bits j.desc 9 8), 0)]).takeJob m .product j
          { j with status := some St.OK, ran := true })) ∧
  (∀ (m : Motif) (s : State) (j : ArrayJob), ArrayReady s m .product 4 j →
    exec (.promote m) s = .next ((s.promoteSet m j).2.takeJob m .product j
      { (s.promoteSet m j).1 with status := some St.OK, ran := true })) ∧
  (∀ (m : Motif) (s : State) (j : ArrayJob), ArrayReady s m .drain 5 j →
    exec (.save m) s = .next ((s.moveSave m j).2.takeJob m .drain j (s.moveSave m j).1)) ∧
  (∀ (m : Motif) (s : State) (j : ArrayJob), ArrayReady s m .drain 6 j →
    exec (.restore m) s = .next ((s.moveRestore m j).2.takeJob m .drain j (s.moveRestore m j).1)) ∧
  (∀ (m : Motif) (s : State) (j : ArrayJob) (st : Nat), s.arrayCheck m j.desc = some st →
    (ArrayTakes s m .product 1 j → exec (.mma m) s = .next (s.takeJob m .product j { j with status := some st })) ∧
    (ArrayTakes s m .drain 2 j → exec (.drain m) s = .next (s.takeJob m .drain j { j with status := some st })) ∧
    (ArrayTakes s m .product 3 j → exec (.zero m) s = .next (s.takeJob m .product j { j with status := some st })) ∧
    (ArrayTakes s m .product 4 j → exec (.promote m) s = .next (s.takeJob m .product j { j with status := some st })) ∧
    (ArrayTakes s m .drain 5 j → exec (.save m) s = .next (s.takeJob m .drain j { j with status := some st })) ∧
    (ArrayTakes s m .drain 6 j → exec (.restore m) s = .next (s.takeJob m .drain j { j with status := some st }))) ∧
  (∀ (m : Motif) (s : State) (j : ArrayJob), (s.array m).prod = some j → j.due = true →
    exec (.chunkPromotion m) s = .next (
      let a := s.promoteSet m j
      let b := State.runGroups m (mmaK a.1.desc) a.1 a.2
      let c := b.2.finishMma m b.1
      c.2.putJob m .product (some c.1))) ∧
  (∀ (m : Motif) (s : State) (j : ArrayJob), (s.array m).drain = some j → j.stalled = false → j.status = none →
    (dw j.desc 0 7 0 = 5 → j.ctrDue = false →
      exec (.save m) s = .next ((s.moveSave m j).2.putJob m .drain (some (s.moveSave m j).1))) ∧
    (dw j.desc 0 7 0 = 6 →
      exec (.restore m) s = .next ((s.moveRestore m j).2.putJob m .drain (some (s.moveRestore m j).1)))) ∧
  (∀ (m : Motif) (s : State) (j : ArrayJob), (s.array m).drain = some j → j.ctrDue = true → j.stalled = false →
    s.owes m 0 = false →
    exec (.saveCounterAdd m) s = .next (
      match s.vaAdd m j.asid 0 (dw j.desc 28 31 0 + dw j.desc 32 15 0 * 2 ^ 32) 1 with
      | (.ok _ ps, t) => (t.consume m ps).putJob m .drain
          (some { j with ctrDue := false, status := some (if ps.isEmpty then St.OK else St.POISONED) })
      | (.fault p c l e pa, t) => (t.arrayFault m j 1 3 p c l e pa).putJob m .drain (some { j with stalled := true })
      | (.wait, t) => t)) ∧
  (∀ (m : Motif) (s : State) (j : ArrayJob) (st : Nat), (s.array m).prod = some j → j.status = some st →
    exec (.arrayDescDone m .product) s = .next (((s.completeArray m j st).putJob m .product none).accTurn m)) ∧
  (∀ (m : Motif) (s : State) (j : ArrayJob) (st : Nat), (s.array m).drain = some j → j.status = some st →
    s.owes m 0 = false →
    exec (.arrayDescDone m .drain) s = .next (((s.completeArray m j st).putJob m .drain none).accTurn m)) ∧
  (∀ (m : Motif) (u : ArrayUnit) (s : State) (j : ArrayJob) (st : Nat), (s.array m).unit u = none → s.startable m u = some j →
    s.arrayCheck m j.desc = some st →
    exec (.arrayDescDone m u) s = .next ((((s.takeJob m u j j).completeArray m j st).putJob m u none).accTurn m)) ∧
  (∀ (m : Motif) (set : Fin 4) (v : BitVec 32) (s : State), (s.array m).earlier set (s.array m).accepted = false →
    exec (.mxAccstateWrite m set v) s = .next (
      if bits v.toNat 1 0 = 3 then s.setFld (F.MX_ACCSTATE_GCNT m set) (bits v.toNat 15 8)
      else (s.setFld (F.MX_ACCSTATE_GCNT m set) (bits v.toNat 15 8)).setFld (F.MX_ACCSTATE_RUN_FMT m set) (bits v.toNat 1 0))) ∧
  (∀ (m : Motif) (set : Fin 4) (v : BitVec 32) (s : State), (s.array m).earlier set (s.array m).accepted = true →
    exec (.mxAccstateWrite m set v) s = .next (s.setArray m { s.array m with
      waits := (s.array m).waits ++ [⟨mAddr m (0x8010 + 4 * set), false, some v, (s.array m).accepted⟩] }))

/-- O11. MAP, REDUCE, GATHER, SHUFFLE, PACK and UNPACK each take the head descriptor of their operation on an idle
engine of an ENABLED motif: one that fails its checks finishes with that status, one that passes starts, and its
lane groups run where the accumulator sets that it reaches are free of earlier array descriptors, or else it
waits; a running one goes on in the same way. PSUM takes its descriptor in the same way, which then waits for
its counter, and once the counter has been reached sums (where those sets are free). A poll reads the counter;
PARTIAL_TIMEOUT, from WAIT_US after the start on, reads it too, and changes nothing before. VE_DESC_DONE
completes a finished descriptor once its writes to other nodes are answered, and with BAD_DESCRIPTOR the head of
an idle engine whose OP names no operation. The model's choices here: log entries 39, 40, 44 and 79. -/
def Obligations.VectorDescriptorsRun : Prop :=
  RunsVector 0x10 .map ∧ RunsVector 0x11 .reduce ∧ RunsVector 0x12 .gather ∧ RunsVector 0x13 .shuffle ∧
  RunsVector 0x14 .pack ∧ RunsVector 0x15 .unpack ∧
  (∀ (m : Motif) (s : State) (j : VeJob) (js : List VeJob), VectorTakes s m 0x16 j js →
    exec (.psum m) s = .next ((s.setVec m { s.vec m with queue := js }).putVe m (some (
      match s.veCheck m j.desc with
      | some st => { j with start := s.now, status := some st }
      | none => s.veStarted m j)))) ∧
  (∀ (m : Motif) (s : State) (j : VeJob), (s.vec m).run = some j → veOp j.desc = 0x16 → j.status = none →
    j.stalled = false → 1 ≤ j.part →
    exec (.psum m) s = .next (if s.veTurn m j then (s.psumRun m j).2.putVe m (some (s.psumRun m j).1) else s)) ∧
  (∀ (m : Motif) (s : State) (j : VeJob), (s.vec m).run = some j → veOp j.desc = 0x16 → j.status = none →
    j.stalled = false → j.part = 0 →
    exec (.psumCounterPoll m) s = .next ((s.psumPoll m j).2.putVe m (some (s.psumPoll m j).1)) ∧
    exec (.partialTimeout m) s = .next (
      if psumWaitUs j.desc * 1000 ≤ s.now - j.start then (s.psumPoll m j).2.putVe m (some (s.psumPoll m j).1) else s)) ∧
  (∀ (m : Motif) (s : State) (j : VeJob) (st : Nat), (s.vec m).run = some j → j.status = some st →
    exec (.veDescDone m) s = .next (
      if s.owes (unitAgent m 1) 0 then s else (s.completeVe m j st).putVe m none)) ∧
  (∀ (m : Motif) (s : State) (j : VeJob) (js : List VeJob), (s.vec m).run = none → (s.vec m).queue = j :: js →
    (veOp j.desc < 0x10 ∨ 0x16 < veOp j.desc) →
    exec (.veDescDone m) s = .next
      (((s.setVec m { s.vec m with queue := js }).completeVe m j St.BAD_DESCRIPTOR).showVec m))

/-- O12. LAUNCH takes the descriptor at the head of an idle launcher's queue on an ENABLED motif, with the status of
its checks; elsewhere it changes nothing. BLOCK_START starts the launch's next block where canStart allows it,
and LAUNCH_DONE completes a launch that launchOver says is over; elsewhere they change nothing. The model's
choices here: log entry 46. -/
def Obligations.LaunchesStartAndComplete : Prop :=
  (∀ (m : Motif) (s : State) (j : LaunchJob) (js : List LaunchJob), (s.ndl m).active = none → (s.ndl m).queue = j :: js →
    exec (.launch m) s = .next (
      if s.pos m = 1 then (s.setNdl m { s.ndl m with
        queue := js, active := some { j with status := s.launchCheck m j.desc } }).showNdl m else s)) ∧
  (∀ (m : Motif) (s : State), ((s.ndl m).active ≠ none ∨ (s.ndl m).queue = []) → exec (.launch m) s = .next s) ∧
  (∀ (m : Motif) (s : State) (l : LaunchJob), s.launch m = some l →
    exec (.blockStart m) s = .next (if s.canStart m l then s.startBlock m l else s)) ∧
  (∀ (m : Motif) (s : State) (l : LaunchJob), s.launch m = some l →
    exec (.launchDone m) s = .next (if s.launchOver m l then s.completeLaunch m l else s)) ∧
  (∀ (m : Motif) (s : State), s.launch m = none → exec (.blockStart m) s = .next s ∧ exec (.launchDone m) s = .next s)

/-- O13. For a group that its needle picks, on an ENABLED motif: VIF pushes AM and keeps the active threads whose
rs1 is not 0, going to the offset where none is left; VELSE takes the saved mask's other threads in the same
way; VEND restores the saved mask; VANY, VALL and VBALLOT write one value to every active thread; VSHFL and
VSHFLI (its three modes) take another thread's register, as State.shuffle says; FENCE, once it is not held, goes
on. A full mask stack at VIF, an empty one at VELSE or VEND, is the group fault MASK_STACK, VSHFLI's fourth mode
ILLEGAL. VELSE and VEND act with no active thread too; the others then only go on at pc + 4. The model's choices
here: log entries 45, 148 and 149. -/
def Obligations.DivergenceAndVotes : Prop :=
  (∀ (m : Motif) (g : GroupSlot) (s t : State) (x : Group) (l : LaunchJob) (w : Nat), Issues s t m g x l w → isVif w = true →
    exec (.vif m g) s = .next (
      if 32 ≤ x.stack.length then t.groupFault m g x GF.MASK_STACK
      else
        let am := x.active.foldl (fun a k => if x.xr k (rvRs1 w) ≠ 0 then a ||| BitVec.ofNat 64 (2 ^ k) else a) (0 : BitVec 64)
        t.putGroup m g (some { x with
          stack := x.am :: x.stack, am := am, pc := if am = 0 then add64 x.pc (immI w * 4) else add64 x.pc 4 }))) ∧
  (∀ (m : Motif) (g : GroupSlot) (s u : State) (x : Group) (l : LaunchJob) (w : Nat), Picked s u m g x l w →
    (isVelse w = true → exec (.velse m g) s = .next (
      let t := u.bump (C.TG_CNT_GROUP_INSTR m) 1
      match x.stack with
      | [] => t.groupFault m g x GF.MASK_STACK
      | top :: _ => t.putGroup m g (some { x with
          am := top &&& ~~~x.am, pc := if top &&& ~~~x.am = 0 then add64 x.pc (immI w * 4) else add64 x.pc 4 }))) ∧
    (isVend w = true → exec (.vend m g) s = .next (
      let t := u.bump (C.TG_CNT_GROUP_INSTR m) 1
      match x.stack with
      | [] => t.groupFault m g x GF.MASK_STACK
      | top :: rest => t.putGroup m g (some { x.step4 with stack := rest, am := top })))) ∧
  (∀ (m : Motif) (g : GroupSlot) (s t : State) (x : Group) (l : LaunchJob) (w : Nat), Issues s t m g x l w → isVany w = true →
    exec (.vany m g) s = .next (t.putGroup m g (some
      (x.setAll (rvRd w) (flag (x.active.any fun k => x.xr k (rvRs1 w) ≠ 0))).step4))) ∧
  (∀ (m : Motif) (g : GroupSlot) (s t : State) (x : Group) (l : LaunchJob) (w : Nat), Issues s t m g x l w → isVall w = true →
    exec (.vall m g) s = .next (t.putGroup m g (some
      (x.setAll (rvRd w) (flag (x.active.all fun k => x.xr k (rvRs1 w) ≠ 0))).step4))) ∧
  (∀ (m : Motif) (g : GroupSlot) (s t : State) (x : Group) (l : LaunchJob) (w : Nat), Issues s t m g x l w → isVballot w = true →
    exec (.vballot m g) s = .next (t.putGroup m g (some
      (x.setAll (rvRd w) (x.active.foldl (fun v k => if x.xr k (rvRs1 w) ≠ 0 then v + 2 ^ k else v) 0)).step4))) ∧
  (∀ (m : Motif) (g : GroupSlot) (s t : State) (x : Group) (l : LaunchJob) (w : Nat), Issues s t m g x l w → isVshfl w = true →
    exec (.vshfl m g) s = .next (t.shuffle m g x (rvRd w) (rvRs1 w) fun k => some (x.xr k (rvRs2 w)))) ∧
  (∀ (m : Motif) (g : GroupSlot) (s t : State) (x : Group) (l : LaunchJob) (w : Nat), Issues s t m g x l w → isVshfli w = true →
    exec (.vshfli m g) s = .next (
      match bits w 27 26 with
      | 0 => t.shuffle m g x (rvRd w) (rvRs1 w) fun k => some (k ^^^ bits w 25 20)
      | 1 => t.shuffle m g x (rvRd w) (rvRs1 w) fun k => if k < bits w 25 20 then none else some (k - bits w 25 20)
      | 2 => t.shuffle m g x (rvRd w) (rvRs1 w) fun k => some (k + bits w 25 20)
      | _ => t.groupFault m g x GF.ILLEGAL)) ∧
  (∀ (m : Motif) (g : GroupSlot) (s t : State) (x : Group) (l : LaunchJob) (w : Nat), Issues s t m g x l w → isFence w = true →
    exec (.needleFence m g) s = .next (t.putGroup m g (some x.step4))) ∧
  PassesIdle isVif .vif ∧ PassesIdle isVany .vany ∧ PassesIdle isVall .vall ∧ PassesIdle isVballot .vballot ∧
  PassesIdle isVshfl .vshfl ∧ PassesIdle isVshfli .vshfli ∧ PassesIdle isFence .needleFence

/-- O14. For a group that its needle picks, on an ENABLED motif: VBAR and VCBAR make it wait and VEXIT ends it,
ZZERO clears a tile, and ZMMA adds the product of two tiles whose tags zmmaOk allows, or is ILLEGAL; of these
five, AM differing from PM is the group fault DIVERGENT_COLLECTIVE. VDISP.A and VDISP.V hand their queue the
descriptor that lies at an address of local memory, or fault with LOCAL_RANGE; VWAIT goes on where the counter
has reached the value, and else waits, or faults with LOCAL_RANGE; VCVTN and VCVTW convert each active thread's
element, or are ILLEGAL; with no active thread these five only go on at pc + 4. VBAR_RELEASE releases the
block's groups where all are at VBAR and 8 fclk have passed since the last arrival; VCBAR_RELEASE where the
block has met on every rank and 120 fclk have passed; VWAIT_RECHECK ends the wait of a group not halting once
the counter has reached the value; else each of the three changes nothing. The model's choices here: log entries
44, 45, 47, 48 and 149. -/
def Obligations.BarriersExitsAndEngines : Prop :=
  (∀ (m : Motif) (g : GroupSlot) (s t : State) (x : Group) (l : LaunchJob) (w : Nat), IssuesTogether s t m g x l w →
    (isVbar w = true → exec (.vbar m g) s = .next (t.putGroup m g (some { x with wait := .vbar, since := t.now }))) ∧
    (isVcbar w = true → exec (.vcbar m g) s = .next (t.putGroup m g (some { x with wait := .vcbar, since := t.now }))) ∧
    (isVexit w = true → exec (.vexit m g) s = .next (t.exitGroup m g x)) ∧
    (isZzero w = true → exec (.zzero m g) s = .next (t.putGroup m g (some
      (x.setTile (rvRd w) { tag := if bits w 25 25 = 1 then 11 else 1, cells := [] }).step4))) ∧
    (isZmma w = true → exec (.zmma m g) s = .next (
      if zmmaOk (x.tile (rvRs1 w)).tag (x.tile (rvRs2 w)).tag (x.tile (rvRd w)).tag = true then
        let d := zmmaTile (x.tile (rvRs1 w)) (x.tile (rvRs2 w)) (x.tile (rvRd w))
        let r := t.countGroup m (x.setTile (rvRd w) d.1) d.2
        r.2.putGroup m g (some r.1.step4)
      else t.groupFault m g x GF.ILLEGAL))) ∧
  MeetsOnly isVbar .vbar ∧ MeetsOnly isVcbar .vcbar ∧ MeetsOnly isVexit .vexit ∧ MeetsOnly isZzero .zzero ∧
  MeetsOnly isZmma .zmma ∧
  (∀ (m : Motif) (b : BitVec 32) (s : State), exec (.vbarRelease m b) s = .next (
    if (s.ndl m).ofBlock b.toNat ≠ [] ∧ s.arrived m b.toNat .vbar = true ∧
      8 ≤ refCycles (s.now - lastArrival ((s.ndl m).ofBlock b.toNat)) then s.release m b.toNat .vbar else s)) ∧
  (∀ (m : Motif) (b : BitVec 32) (s : State) (l : LaunchJob), s.launch m = some l →
    exec (.vcbarRelease m b) s = .next (
      let here := s.runsOn l (barrierMotifs l m)
      if (s.ndl m).ofBlock b.toNat ≠ [] ∧ (∀ r ∈ barrierMotifs l m, s.metAt r b.toNat l .vcbar = true) ∧
        120 ≤ refCycles (s.now - lastArrival (here.flatMap fun r => (s.ndl r).ofBlock b.toNat)) then
        here.foldl (fun s r => s.release r b.toNat .vcbar) s
      else s)) ∧
  (∀ (m : Motif) (g : GroupSlot) (s t : State) (x : Group) (l : LaunchJob) (w : Nat), Issues s t m g x l w → isVdispA w = true →
    exec (.vdispA m g) s = .next (
      match dispAddr x w 64 with
      | some a => (t.putGroup m g (some x.step4)).arrayAccept m (t.localNat m a 64) l.asid false
      | none => t.groupFault m g x GF.LOCAL_RANGE)) ∧
  (∀ (m : Motif) (g : GroupSlot) (s t : State) (x : Group) (l : LaunchJob) (w : Nat), Issues s t m g x l w → isVdispV w = true →
    exec (.vdispV m g) s = .next (
      match dispAddr x w 256 with
      | some a => (t.putGroup m g (some x.step4)).veAccept m (t.localNat m a 256) l.asid false
      | none => t.groupFault m g x GF.LOCAL_RANGE)) ∧
  (∀ (m : Motif) (g : GroupSlot) (s t : State) (x : Group) (l : LaunchJob) (w : Nat), Issues s t m g x l w → isVwait w = true →
    exec (.vwait m g) s = .next (
      let a := x.xr x.low (rvRs1 w)
      let v := x.xr x.low (rvRs2 w)
      if a % 8 ≠ 0 ∨ localTop ≤ a then t.groupFault m g x GF.LOCAL_RANGE
      else if v ≤ t.localNat m a 8 then t.putGroup m g (some x.step4)
      else t.putGroup m g (some { x with wait := .vwait a v, since := t.now }))) ∧
  (∀ (m : Motif) (g : GroupSlot) (s : State) (x : Group) (a v : Nat), s.group m g = some x → x.wait = .vwait a v →
    exec (.vwaitRecheck m g) s = .next (
      if x.halt = false ∧ v ≤ s.localNat m a 8 then
        (s.bump (C.TG_CNT_WAIT_FCLK m) (refCycles (s.now - x.since))).putGroup m g (some { x.step4 with wait := .none })
      else s)) ∧
  (∀ (m : Motif) (g : GroupSlot) (s t : State) (x : Group) (l : LaunchJob) (w : Nat), Issues s t m g x l w → isVcvtn w = true →
    exec (.vcvtn m g) s = .next (
      if typeSc (bits w 27 20) = true ∨ typeOk (bits w 27 20) = false then t.groupFault m g x GF.ILLEGAL
      else
        let enc := fun k => elemEncode (typeFmt (bits w 27 20)) (typeOvf (bits w 27 20)) (fmtFp32.decode (x.fr k (rvRs1 w)))
        let r := t.countGroup m (x.active.foldl (fun h k => h.setX k (rvRd w) (enc k).1) x)
          (x.active.foldl (fun st k => st.add (enc k).2) NumStat.zero)
        r.2.putGroup m g (some r.1.step4))) ∧
  (∀ (m : Motif) (g : GroupSlot) (s t : State) (x : Group) (l : LaunchJob) (w : Nat), Issues s t m g x l w → isVcvtw w = true →
    exec (.vcvtw m g) s = .next (
      if typeSc (bits w 27 20) = true ∨ typeOk (bits w 27 20) = false then t.groupFault m g x GF.ILLEGAL
      else
        let fmt := typeFmt (bits w 27 20)
        let val := fun k => (widen fmt (x.xr k (rvRs1 w) % 2 ^ elemBits fmt)).getD (Config.freeWord (t.free + k)).toNat
        ({ t with free := t.free + 64 } : State).putGroup m g (some (x.active.foldl (fun h k => h.setF k (rvRd w) (val k)) x).step4))) ∧
  PassesIdle isVdispA .vdispA ∧ PassesIdle isVdispV .vdispV ∧ PassesIdle isVwait .vwait ∧ PassesIdle isVcvtn .vcvtn ∧
  PassesIdle isVcvtw .vcvtw

/-- O15. For a group that its needle picks, on an ENABLED motif: a memory instruction places its accesses, or faults
or stalls; what it places is pursued with the pc moved on, and pursued again while it is in progress and the
group is not stalled: loads by doLoads, stores by doStores, AMO, VCAS.W, VCAS.D and VAFADD.S by doAtomics, LR by
doLr, SC by doSc, ZLD and ZST row by row with an illegal format ILLEGAL and AM differing from PM
DIVERGENT_COLLECTIVE. A branch or jump goes to its target, with its link, where all active threads agree on it
and it is aligned, and else faults; a CSR write and every other instruction go on with their result where they
are legal, and are else ILLEGAL; ECALL and EBREAK are group faults of their cause. With no active thread each of
these but ZLD and ZST only goes on at pc + 4. The model's choices here: log entries 19, 45, 48, 148, 149 and
150. -/
def Obligations.NeedleMemoryAndControl : Prop :=
  Pursues isLoad False .needleLoad (fun m g x l w t => t.beginLoad m g x l w)
    (fun m g x l op u =>
      let r := State.doLoads m g (widthOf op.word) (op.accs.length + 1) op.accs x op [] u
      r.2.2.2.endMem m g l r.1 r.2.1 r.2.2.1) ∧
  Pursues isStore False .needleStore (fun m g x l w t => t.beginStore m g x l w)
    (fun m g x l op u =>
      let r := State.doStores m g (storeBytes (op.view x) op.word) (op.accs.length + 1) op.accs op [] u
      r.2.2.endMem m g l r.1 x r.2.1) ∧
  RunsAtomics isAmo .needleAmo ∧ RunsAtomics isVcasW .vcasW ∧ RunsAtomics isVcasD .vcasD ∧ RunsAtomics isVafadd .vafaddS ∧
  Pursues isLr False .needleLr
    (fun m g x l w t =>
      t.beginMem m g x l w (lrscBytes w) .lrsc Need.read (x.active.map fun k => (k, x.xr k (rvRs1 w))))
    (fun m g x l op u =>
      let r := State.doLr m g (lrscBytes op.word) (op.accs.length + 1) op.accs x op [] u
      r.2.2.2.endMem m g l r.1 r.2.1 r.2.2.1) ∧
  Pursues isSc False .needleSc
    (fun m g x l w t =>
      t.beginMem m g x l w (lrscBytes w) .lrsc Need.write (x.active.map fun k => (k, x.xr k (rvRs1 w))))
    (fun m g x l op u =>
      let r := State.doSc m g (lrscBytes op.word) op.accs x op [] u
      r.2.2.2.endMem m g l r.1 r.2.1 r.2.2.1) ∧
  Pursues isZld True .zld
    (fun m g x l w t =>
      if bits w 28 25 = 0 || 10 < bits w 28 25 then
        (none, (t.bump (C.TG_CNT_GROUP_INSTR m) 1).groupFault m g x GF.ILLEGAL)
      else t.beginMem m g x l w (rowBytes (bits w 28 25) 16) .plain Need.read (tileEas x w))
    (fun m g x l op u =>
      let r := State.doLoads m g (rowBytes (bits op.word 28 25) 16) (op.accs.length + 1) op.accs x op [] u
      r.2.2.2.endMem m g l r.1
        (if r.1 = .done then r.2.1.setTile (rvRd op.word) (tileOf (bits op.word 28 25) r.2.2.1.rows) else r.2.1) r.2.2.1) ∧
  Pursues isZst True .zst
    (fun m g x l w t =>
      if bits w 30 30 = 0 && 10 < bits w 28 25 then
        (none, (t.bump (C.TG_CNT_GROUP_INSTR m) 1).groupFault m g x GF.ILLEGAL)
      else t.beginMem m g x l w (tileRow (x.tile (rvRd w)) w 0).1.length .plain Need.write (tileEas x w))
    (fun m g x l op u =>
      let tile := (op.view x).tile (rvRd op.word)
      let r := State.doStores m g (fun n => (tileRow tile op.word n).1) (op.accs.length + 1) op.accs op [] u
      if r.2.1.counted then r.2.2.endMem m g l r.1 x r.2.1
      else
        let st := (List.range 16).foldl (fun st n => st.sum (tileRow tile r.2.1.word n).2) NumStat.zero
        (r.2.2.countGroup m x st).2.endMem m g l r.1 (r.2.2.countGroup m x st).1 { r.2.1 with counted := true }) ∧
  MeetsOnly isZld .zld ∧ MeetsOnly isZst .zst ∧
  PassesIdle isLoad .needleLoad ∧ PassesIdle isStore .needleStore ∧ PassesIdle isAmo .needleAmo ∧ PassesIdle isVcasW .vcasW ∧
  PassesIdle isVcasD .vcasD ∧ PassesIdle isVafadd .vafaddS ∧ PassesIdle isLr .needleLr ∧ PassesIdle isSc .needleSc ∧
  (∀ (m : Motif) (g : GroupSlot) (s t : State) (x : Group) (l : LaunchJob) (w : Nat), Issues s t m g x l w → isBranch w = true →
    exec (.needleBranch m g) s = .next (
      if x.active.any (fun k => branchTo x w k ≠ branchTo x w x.low) then t.groupFault m g x GF.DIVERGENT_BRANCH
      else if branchTo x w x.low % 4 ≠ 0 then t.groupFault m g x GF.MISALIGNED
      else t.putGroup m g (some
        { (if rvOp w = 0x63 then x else x.setAll (rvRd w) (add64 x.pc 4)) with pc := branchTo x w x.low }))) ∧
  (∀ (m : Motif) (g : GroupSlot) (s t : State) (x : Group) (l : LaunchJob) (w : Nat), Issues s t m g x l w → isCsrWrite w = true →
    exec (.needleCsrWrite m g) s = .next (
      match csrExec x l m w with
      | some y => t.putGroup m g (some y.step4)
      | none => t.groupFault m g x GF.ILLEGAL)) ∧
  (∀ (m : Motif) (g : GroupSlot) (s t : State) (x : Group) (l : LaunchJob) (w : Nat), Issues s t m g x l w → isEcall w = true →
    exec (.needleEcall m g) s = .next (t.groupFault m g x GF.ECALL)) ∧
  (∀ (m : Motif) (g : GroupSlot) (s t : State) (x : Group) (l : LaunchJob) (w : Nat), Issues s t m g x l w → isEbreak w = true →
    exec (.needleEbreak m g) s = .next (t.groupFault m g x GF.EBREAK)) ∧
  (∀ (m : Motif) (g : GroupSlot) (s t : State) (x : Group) (l : LaunchJob) (w : Nat), Issues s t m g x l w → hasOwnCommand w = false →
    exec (.needleOtherInstruction m g) s = .next (
      match (if isCsr w then csrExec x l m w else otherAll w x.active x) with
      | some y => t.putGroup m g (some y.step4)
      | none => t.groupFault m g x GF.ILLEGAL)) ∧
  PassesIdle isBranch .needleBranch ∧ PassesIdle isCsrWrite .needleCsrWrite ∧ PassesIdle isEcall .needleEcall ∧
  PassesIdle isEbreak .needleEbreak ∧ PassesIdle (fun w => !hasOwnCommand w) .needleOtherInstruction

/-- O16. A host doorbell changes nothing where BAR0 is off; of a requester that is not allowed it sets REQID_REFUSED
and is refused; in a state other than READY, in the host wait, of a size other than 8, off its offset, for
another queue or with bits 63:60 set it counts in DB_DROPPED; any other rings its queue. A node core's doorbell
does the same within NC_DBWIN, and outside it counts in DB_REFUSED too. A fetch that is wanted takes the command
at the head where its SEQ is right, or it is poisoned, and else asks for it again; SEQ_REREAD, 1 µs later,
counts, takes it or asks again, and at the eighth reread pauses the queue with DOORBELL_AHEAD; a late fetch is
asked for again each millisecond while the link is up. QE_CQ_DB sets a ring's consumer index where the ring
accepts it and lets held entries out, and else counts in DB_DROPPED. The admin registers open and close the
admin queue and ring, and one with a size out of range does not enable. The model's choices here: log entries
52, 53, 54 and 99. -/
def Obligations.DoorbellsAndFetches : Prop :=
  (∀ (off : BitVec 26) (size : BitVec 13) (v : BitVec 64) (rid : BitVec 16) (s : State),
    exec (.hostDoorbell off size v rid) s = .next (
      if s.barOn = false then s
      else if s.ridOk rid.toNat = false then (s.setFld F.PX_STICKY_REQID_REFUSED 1).refuseHost true true off.toNat
      else if s.fld F.MC_STATUS_STATE = 2 ∧ s.fld F.PX_STATUS_HOST_WAIT ≠ 1 ∧ size.toNat = 8 ∧ off.toNat % 64 = 0 ∧
        bits v.toNat 19 0 = off.toNat / 64 ∧ bits v.toNat 63 60 = 0 then s.doorbell (off.toNat / 64) v.toNat
      else s.bump C.QE_CNT_DB_DROPPED 1)) ∧
  (∀ (off : BitVec 26) (v : BitVec 64) (s : State), exec (.nodeCoreDoorbell off v) s = .next (
    let q := off.toNat / 64
    if s.fld F.NC_DBWIN_EN = 1 ∧ s.fld F.NC_DBWIN_FIRST ≤ q ∧ q ≤ s.fld F.NC_DBWIN_LAST ∧ q ≠ 0 then
      if off.toNat % 64 = 0 ∧ bits v.toNat 19 0 = q ∧ bits v.toNat 63 60 = 0 then s.doorbell q v.toNat
      else s.bump C.QE_CNT_DB_DROPPED 1
    else (s.bump C.QE_CNT_DB_DROPPED 1).bump C.NC_CNT_DB_REFUSED 1)) ∧
  (∀ (qid : BitVec 20) (data : BitVec 4096) (poisoned : Bool) (s t : State) (b : Nat) (ps : List Nat),
    s.fetching qid.toNat = true → (s.queue qid.toNat).missed = none → s.headBytes qid.toNat data.toNat = (some (b, ps), t) →
    exec (.commandFetch qid data poisoned) s = .next (
      let bad := !ps.isEmpty || (poisoned && !(s.queue qid.toNat).loc)
      if bad || (s.queue qid.toNat).seqOk b then (t.consume 48 ps).acceptCmd qid.toNat b bad
      else (t.setQueue qid.toNat { s.queue qid.toNat with missed := some t.now, rereads := 0 }).askFetch qid.toNat)) ∧
  (∀ (qid : BitVec 20) (data : BitVec 4096) (s t : State) (at' b : Nat) (ps : List Nat),
    (s.queue qid.toNat).missed = some at' → s.fetching qid.toNat = true → at' + 1000 ≤ s.now →
    s.headBytes qid.toNat data.toNat = (some (b, ps), t) →
    exec (.seqReread qid data) s = .next (
      let u := t.bump C.QE_CNT_SEQ_REREADS 1
      let q := s.queue qid.toNat
      if !ps.isEmpty || q.seqOk b then (u.consume 48 ps).acceptCmd qid.toNat b (!ps.isEmpty)
      else if 7 ≤ q.rereads then
        ((u.setQueue qid.toNat { q with state := .paused, cause := 1, missed := none, rereads := 0 }).setFld
          F.QE_STICKY_DB_AHEAD 1).raise Ev.DOORBELL_AHEAD { d1 := qid.toNat, d2 := q.head }
      else (u.setQueue qid.toNat { q with missed := some u.now, rereads := q.rereads + 1 }).askFetch qid.toNat)) ∧
  (∀ (qid : BitVec 20) (s : State) (at' : Nat), (s.queue qid.toNat).late = some at' →
    exec (.fetchReissue qid) s = .next (
      if at' + 1000000 ≤ s.now ∧ s.fld F.PX_STATUS_DL_UP = 1 ∧ s.fetching qid.toNat = true then
        (s.setQueue qid.toNat { s.queue qid.toNat with late := some s.now }).askFetch qid.toNat
      else s)) ∧
  (∀ (v : BitVec 64) (s : State), exec (.qeCqDb v) s = .next (
    let rid := bits v.toNat 15 0
    if (s.cring rid).on = true ∧ ciAccepted (s.cring rid).ci (s.cring rid).next (bits v.toNat 39 16) = true then
      let r := { s.cring rid with ci := bits v.toNat 39 16 }
      State.drainHeld rid r.held.length (s.setCring rid { r with full := r.count = 2 ^ r.log2 })
    else s.bump C.QE_CNT_DB_DROPPED 1)) ∧
  (∀ (v : BitVec 64) (s : State), exec (.qeAdminSqWrite v) s = .next (
    let w := adminWord v.toNat
    let t := s.setReg F.QE_ADMIN_SQ_EN.addr w
    if w % 2 = 1 ∧ s.fld F.QE_ADMIN_SQ_EN ≠ 1 then
      if adminLogOk w then
        (t.setQueue 0 { Queue.init with
          state := .active, base := bits w 63 12 * 4096, loc := bits w 1 1 = 1, log2 := bits w 11 8 }).adminUp
      else t.setFld F.QE_ADMIN_SQ_EN 0
    else if w % 2 = 0 ∧ s.fld F.QE_ADMIN_SQ_EN = 1 then t.onQueue 0 fun q => { q with state := .disabled }
    else t)) ∧
  (∀ (v : BitVec 64) (s : State), exec (.qeAdminCqWrite v) s = .next (
    let w := adminWord v.toNat
    let t := s.setReg F.QE_ADMIN_CQ_EN.addr w
    if w % 2 = 1 ∧ s.fld F.QE_ADMIN_CQ_EN ≠ 1 then
      if adminLogOk w then
        (t.setCring 0 { CRing.init with
          on := true, base := bits w 63 12 * 4096, loc := bits w 1 1 = 1, log2 := bits w 11 8 }).adminUp
      else t.setFld F.QE_ADMIN_CQ_EN 0
    else if w % 2 = 0 ∧ s.fld F.QE_ADMIN_CQ_EN = 1 then t.setCring 0 { t.cring 0 with on := false }
    else t))

/-- O17. Where the admin queue's next command has the opcode, each of CREATE_CQ, CREATE_SQ, STOP_SQ, DELETE_SQ,
DELETE_CQ and BIND_SQ completes it with BAD_COMMAND and changes nothing else where a field outside its own is
set or a parameter breaks its rules, as written out; and else has its effect: the ring or queue is made and the
command completes OK; the queue begins to stop; the stopped queue, or the ring that no queue names, is freed and
the command completes OK; the binding change goes out for a named Row. STOP_SQ_DONE makes a stopping queue with
no other command stopped, and completes the STOP_SQ that waits for it; BIND_SQ_DONE completes a BIND_SQ with its
Row's number once that Row has begun. The model's choices here: log entries 12, 54 and 59. -/
def Obligations.AdminCommandsRun : Prop :=
  (∀ (s : State) (c : QCmd), s.nextCmd 0 = some c → c.opc = 0x80 →
    exec .createCq s = .next (
      let rid := c.f 16 15 0
      if onlyFields c.bytes (headFields ++ [(128, 16), (192, 64), (256, 1), (260, 5), (272, 11), (288, 17)]) = true ∧
        rid ≠ 0 ∧ rid < 2 ^ s.fld F.PT_QUEUE_LOG2_CQ ∧ (s.cring rid).on = false ∧ 4 ≤ c.f 32 8 4 ∧ c.f 32 8 4 ≤ 16 ∧
        c.f 36 16 0 ≠ 0 ∧ c.f 36 16 0 ≤ 2 ^ c.f 32 8 4 ∧ c.f 32 26 16 < s.px.msixCount ∧
        ringPlaceOk (c.f 24 63 0) (c.f 32 0 0 = 1) (32 * 2 ^ c.f 32 8 4) = true then
        (s.setCring rid { CRing.init with
          on := true, base := c.f 24 63 0, loc := c.f 32 0 0 = 1, log2 := c.f 32 8 4, vector := c.f 32 26 16
          level := c.f 36 16 0 }).complete 0 c St.OK 0 0
      else s.complete 0 c St.BAD_COMMAND 0 0)) ∧
  (∀ (s : State) (c : QCmd), s.nextCmd 0 = some c → c.opc = 0x81 →
    exec .createSq s = .next (
      let qid := c.f 16 19 0
      if onlyFields c.bytes (headFields ++ [(128, 20), (192, 64), (256, 1), (260, 5), (288, 16), (304, 12)]) = true ∧
        qid ≠ 0 ∧ qid < 2 ^ s.fld F.PT_QUEUE_LOG2_SQ ∧ (s.queue qid).state = .disabled ∧ 4 ≤ c.f 32 8 4 ∧
        c.f 32 8 4 ≤ 16 ∧ c.f 36 15 0 < 2 ^ s.fld F.PT_QUEUE_LOG2_CQ ∧ (s.cring (c.f 36 15 0)).on = true ∧
        ringPlaceOk (c.f 24 63 0) (c.f 32 0 0 = 1) (512 * 2 ^ c.f 32 8 4) = true then
        (s.setQueue qid { Queue.init with
          state := .active, base := c.f 24 63 0, loc := c.f 32 0 0 = 1, log2 := c.f 32 8 4, ring := c.f 36 15 0
          asid := c.f 36 27 16 }).complete 0 c St.OK 0 0
      else s.complete 0 c St.BAD_COMMAND 0 0)) ∧
  (∀ (s : State) (c : QCmd), s.nextCmd 0 = some c → c.opc = 0x82 →
    exec .stopSq s = .next (
      let qid := c.f 16 19 0
      if onlyFields c.bytes (headFields ++ [(128, 20)]) = true ∧
        ((s.queue qid).state = .active ∨ (s.queue qid).state = .paused ∨ (s.queue qid).state = .hostWait) then
        (s.setRun 0 c.idx (.stopping qid)).stopQueue qid
      else s.complete 0 c St.BAD_COMMAND 0 0)) ∧
  (∀ (qid : BitVec 20) (s : State), exec (.stopSqDone qid) s = .next (
    let q := s.queue qid.toNat
    if q.state = .stopping ∧ (∀ c ∈ q.cmds, c.run = .stopping qid.toNat) then
      let t := s.setQueue qid.toNat { q with state := .stopped }
      match (t.queue 0).cmds.find? fun c => c.run = .stopping qid.toNat with
      | some c => t.complete 0 c St.OK 0 0
      | none => t
    else s)) ∧
  (∀ (s : State) (c : QCmd), s.nextCmd 0 = some c → c.opc = 0x83 →
    exec .deleteSq s = .next (
      if onlyFields c.bytes (headFields ++ [(128, 20)]) = true ∧ (s.queue (c.f 16 19 0)).state = .stopped then
        (s.setQueue (c.f 16 19 0) Queue.init).complete 0 c St.OK 0 0
      else s.complete 0 c St.BAD_COMMAND 0 0)) ∧
  (∀ (s : State) (c : QCmd), s.nextCmd 0 = some c → c.opc = 0x84 →
    exec .deleteCq s = .next (
      let rid := c.f 16 15 0
      if onlyFields c.bytes (headFields ++ [(128, 16)]) = true ∧ rid ≠ 0 ∧ (s.cring rid).on = true ∧
        (∀ x ∈ s.qe.queues, x.1 ≠ 0 → x.2.ring = rid → x.2.state = .disabled) then
        (s.setCring rid CRing.init).complete 0 c St.OK 0 0
      else s.complete 0 c St.BAD_COMMAND 0 0)) ∧
  (∀ (s : State) (c : QCmd), s.nextCmd 0 = some c → c.opc = 0x85 →
    exec .bindSq s = .next (
      if onlyFields c.bytes (headFields ++ [(128, 20), (192, 48), (256, 4)]) = true ∧
        (s.queue (c.f 16 19 0)).state ≠ .disabled ∧ c.f 32 3 0 ≠ 0 then
        (s.setRun 0 c.idx (.binding s.reachableRow)).issueAll s.reachableRow
          (.bind (c.f 16 19 0) (c.f 24 47 0) (c.f 32 3 0))
      else s.complete 0 c St.BAD_COMMAND 0 0)) ∧
  (∀ (s : State) (c : QCmd) (cs : List QCmd) (row : Nat), (s.queue 0).cmds = c :: cs → c.run = .binding row →
    exec .bindSqDone s = .next (if row ≤ s.rowYoke.row then s.complete 0 c St.OK row 0 else s))

/-- O18. Where a queue's next command has the opcode: NOP, STITCH and SKEIN complete with BAD_COMMAND where a
parameter breaks its rules; NOP then completes OK; STITCH is split where the binding has the ranks it expects,
or completes with BINDING_CHANGED; SKEIN's operation goes to the skein engine, or completes with BAD_DESCRIPTOR.
A split STITCH of a live queue whose ring has room is dispatched to all its ranks in one pass once each has
room, completes with BINDING_CHANGED where the ranks have changed, and completes with its ranks' worst status
once all have answered. WRITE_INLINE, SIGNAL and WAIT make their access, and by its answer complete, wait to be
tried again, or fault; WRITE_INLINE completes once its writes to other nodes are answered; a WAIT whose value is
not reached holds its queue and reads again. COPY starts where fewer than eight run, and goes on with each host
read that answers: with its data, or completing with HOST_ERROR. The model's choices here: log entries 55, 56,
58 and 79. -/
def Obligations.QueueCommandsRun : Prop :=
  (∀ (qid : BitVec 20) (s : State) (c : QCmd), qid ≠ 0 → s.nextCmd qid.toNat = some c → c.opc = 0x00 →
    exec (.nop qid) s = .next (s.complete qid.toNat c (if cmdOk c then St.OK else St.BAD_COMMAND) 0 0)) ∧
  (∀ (qid : BitVec 20) (s : State) (c : QCmd), qid ≠ 0 → s.nextCmd qid.toNat = some c → c.opc = 0x01 →
    exec (.stitch qid) s = .next (
      if cmdOk c = false then s.complete qid.toNat c St.BAD_COMMAND 0 0
      else if rankCountOk c (s.ranksOf qid.toNat).length then s.setRun qid.toNat c.idx .split
      else s.complete qid.toNat c St.BINDING_CHANGED 0 0)) ∧
  (∀ (qid : BitVec 20) (s : State) (c : QCmd), (s.queue qid.toNat).cmds.find? (fun c => c.run = .split) = some c →
    s.qe.dead = false → ((s.queue qid.toNat).state = .active ∨ (s.queue qid.toNat).state = .paused) →
    s.ringRoom (s.queue qid.toNat).ring = true →
    exec (.stitchDispatch qid) s = .next (
      if rankCountOk c (s.ranksOf qid.toNat).length = false then s.complete qid.toNat c St.BINDING_CHANGED 0 0
      else if s.ranksOf qid.toNat ≠ [] ∧ ∀ m ∈ s.ranksOf qid.toNat, s.hasRoom qid.toNat m = true then
        let sts := (s.ranksOf qid.toNat).zipIdx.map fun (m, r) => (m, stitchOf (s.queue qid.toNat) qid.toNat c r)
        (({ s with qe := { s.qe with transit := s.qe.transit ++ sts } } : State).bump C.QE_CNT_STITCHES
          (s.ranksOf qid.toNat).length).setRun qid.toNat c.idx (.stitched (s.ranksOf qid.toNat).length [])
      else s)) ∧
  (∀ (qid : BitVec 20) (idx : BitVec 24) (s : State) (c : QCmd) (n : Nat) (got : List (Nat × Nat)),
    (s.queue qid.toNat).cmds.find? (fun c => c.idx = idx.toNat) = some c → c.run = .stitched n got → s.qe.dead = false →
    exec (.stitchCommandDone qid idx) s = .next (
      if n ≤ got.length then s.complete qid.toNat c (worstRank n got).1 0 (worstRank n got).2 else s)) ∧
  (∀ (qid : BitVec 20) (s : State) (c : QCmd), qid ≠ 0 → s.nextCmd qid.toNat = some c → c.opc = 0x04 →
    exec (.skein qid) s = .next (
      if cmdOk c = false then s.complete qid.toNat c St.BAD_COMMAND 0 0
      else if skOk (c.bytes / 2 ^ 512) true = false then (s.bump C.SK_CNT_OPS 1).complete qid.toNat c St.BAD_DESCRIPTOR 0 0
      else (s.setRun qid.toNat c.idx .going).skArrive (c.bytes / 2 ^ 512) (s.queue qid.toNat).asid (.command qid.toNat c.idx))) ∧
  (∀ (qid : BitVec 20) (s : State) (c : QCmd), qid ≠ 0 → s.pick qid.toNat 0x02 = some c →
    (s.queue qid.toNat).cmds.find? (fun c => c.opc = 0x02 && c.run = .flushing St.OK && !c.stalled) = none →
    exec (.writeInline qid) s = .next (
      if cmdOk c = false then s.complete qid.toNat c St.BAD_COMMAND 0 0
      else
        match s.vaWrite qeAgent (s.queue qid.toNat).asid (cmdAgent qid.toNat c.idx + 1) (c.f 16 47 0)
          (toBytes (c.f 24 8 0) (c.bytes / 2 ^ 512)) with
        | (.wait, t) => t.setRun qid.toNat c.idx .going
        | (.fault p cs l e pa, t) => t.cmdFault qid.toNat c p cs l e pa 2
        | (.ok _ _, t) =>
          if t.owes qeAgent (cmdAgent qid.toNat c.idx + 1) then t.setRun qid.toNat c.idx (.flushing St.OK)
          else t.complete qid.toNat c St.OK 0 0)) ∧
  (∀ (qid : BitVec 20) (s : State) (c : QCmd),
    (s.queue qid.toNat).cmds.find? (fun c => c.opc = 0x02 && c.run = .flushing St.OK && !c.stalled) = some c →
    exec (.writeInline qid) s = .next (
      if s.owes qeAgent (cmdAgent qid.toNat c.idx + 1) then s else s.complete qid.toNat c St.OK 0 0)) ∧
  (∀ (qid : BitVec 20) (s : State) (c : QCmd), qid ≠ 0 → s.pick qid.toNat 0x05 = some c →
    exec (.signal qid) s = .next (
      if cmdOk c = false then s.complete qid.toNat c St.BAD_COMMAND 0 0
      else
        match s.vaAdd qeAgent (s.queue qid.toNat).asid (cmdAgent qid.toNat c.idx + 1) (c.f 16 47 0) (c.f 24 63 0) with
        | (.wait, t) => t.setRun qid.toNat c.idx .going
        | (.fault p cs l e pa, t) => t.cmdFault qid.toNat c p cs l e pa 3
        | (.ok _ ps, t) => (t.consume 48 ps).complete qid.toNat c (if ps.isEmpty then St.OK else St.POISONED) 0 0)) ∧
  (∀ (qid : BitVec 20) (s : State) (c : QCmd), qid ≠ 0 → s.pick qid.toNat 0x06 = some c →
    exec (.wait qid) s = .next (
      if cmdOk c = false then s.complete qid.toNat c St.BAD_COMMAND 0 0
      else
        match s.vaRead qeAgent (s.queue qid.toNat).asid (c.f 16 47 0) 8 Need.read with
        | (.wait, t) => t.setRun qid.toNat c.idx .holding
        | (.fault p cs l e pa, t) => (t.setRun qid.toNat c.idx .holding).cmdFault qid.toNat c p cs l e pa 1
        | (.ok bs ps, t) =>
          if !ps.isEmpty then (t.consume 48 ps).complete qid.toNat c St.POISONED 0 0
          else if c.f 24 63 0 ≤ ofBytes bs then t.complete qid.toNat c St.OK 0 0
          else t.setRun qid.toNat c.idx .holding)) ∧
  (∀ (qid : BitVec 20) (s : State) (c : QCmd),
    (s.queue qid.toNat).cmds.find? (fun c => c.run = .holding && !c.stalled) = some c → s.qe.dead = false →
    exec (.waitSatisfied qid) s = .next (
      match s.vaRead qeAgent (s.queue qid.toNat).asid (c.f 16 47 0) 8 Need.read with
      | (.wait, t) => t.setRun qid.toNat c.idx .holding
      | (.fault p cs l e pa, t) => (t.setRun qid.toNat c.idx .holding).cmdFault qid.toNat c p cs l e pa 1
      | (.ok bs ps, t) =>
        if !ps.isEmpty then (t.consume 48 ps).complete qid.toNat c St.POISONED 0 0
        else if c.f 24 63 0 ≤ ofBytes bs then t.complete qid.toNat c St.OK 0 0
        else t.setRun qid.toNat c.idx .holding)) ∧
  (∀ (qid : BitVec 20) (s : State) (c : QCmd), qid ≠ 0 → s.pick qid.toNat 0x03 = some c →
    (s.queue qid.toNat).cmds.find? QCmd.copiesNow = none →
    exec (.copy qid) s = .next (
      if cmdOk c = false then s.complete qid.toNat c St.BAD_COMMAND 0 0
      else if 8 ≤ s.qe.copies.length then s
      else (({ s with qe := { s.qe with copies := s.qe.copies ++ [(qid.toNat, c.idx)] } } : State).setRun
        qid.toNat c.idx (.copying 0 none none none)).copyStep qid.toNat c 0 none none)) ∧
  (∀ (qid : BitVec 20) (s : State) (c : QCmd) (done : Nat) (page last : Option Nat) (w : Option HostWant),
    (s.queue qid.toNat).cmds.find? QCmd.copiesNow = some c → c.run = .copying done page w last → s.qe.dead = false →
    exec (.copy qid) s = .next (s.copyStep qid.toNat c done page last)) ∧
  (∀ (qid : BitVec 20) (idx : BitVec 24) (data : List (BitVec 8)) (o : HostReadOutcome) (s : State) (c : QCmd) (done : Nat)
    (page last : Option Nat) (w : HostWant), (s.queue qid.toNat).cmds.find? (fun c => c.idx = idx.toNat) = some c →
    c.run = .copying done page (some w) last →
    exec (.hostReadCompletion qid idx data o) s = .next (
      match o with
      | .error => (s.setFld F.PX_STICKY_HOST_ERROR 1).complete qid.toNat c St.HOST_ERROR 0 0
      | .good => s.copyData qid.toNat c done page last w data false
      | .poisoned => s.copyData qid.toNat c done page last w data true))

/-- O19. The running stitch's next item, read on an ENABLED motif, goes by its OP byte to the array's queue of 32,
the vector engine's queue of 16, the launcher or the skein engine, the list moving past it, or waits where there
is no room; a fence passes once the items before it have completed; a fence with other bytes set, a vector item
past the list's end and an OP byte of none end the list with BAD_DESCRIPTOR. PREFETCH, ADVISE EVICT, DROP and
WARM each handle the next leaf of the command that moves pages (PREFETCH with HOST_ERROR where the host's data
failed), and start the queue's next command of theirs where none moves. The model's choices here: log entry 3. -/
def Obligations.ListsAndMoversRun : Prop :=
  (∀ (m : Motif) (s t : State) (a : Admitted) (d : Nat), (s.sched m).running = some a → a.bad = none → a.stalled = false →
    a.next < a.st.dbytes → s.pos m = 1 → s.listRead m a 64 = (some d, t) →
    exec (.dlistItemIssue m) s = .next (
      let pass := fun (n : Nat) (u : State) => u.setRunning m fun a => { a with next := a.next + n }
      let bad := t.setRunning m fun a => { a with bad := some St.BAD_DESCRIPTOR }
      match itemKind (d % 256) with
      | .array => if (t.array m).queue.length < 32 then (pass 64 t).arrayAccept m d a.st.asid true else t
      | .launch => (pass 64 t).launchAccept m d a.st.asid true
      | .skein => if t.sk.ops.any (fun o => o.from' = .motif m) then t else (pass 64 t).skArrive d a.st.asid (.motif m)
      | .fence => if d ≠ 0x3F then bad else if t.listBusy m then t else pass 64 t
      | .bad => bad
      | .vector =>
        if a.st.dbytes < a.next + 256 then bad
        else if 16 ≤ (t.vec m).queue.length then t
        else
          match t.listRead m a 256 with
          | (none, u) => u
          | (some d, u) => (pass 256 u).veAccept m d a.st.asid true)) ∧
  (∀ (qid : BitVec 20) (data : List (BitVec 8)) (ok : Bool) (s : State) (c : QCmd) (x : Moved) (want : Bool),
    Moves s qid.toNat 0x07 c x want →
    exec (.prefetch qid data ok) s = .next (
      if want = true ∧ ok = false then (s.setFld F.PX_STICKY_HOST_ERROR 1).moverEnd qid.toNat c x St.HOST_ERROR
      else s.prefetchLeaf qid.toNat c x want data)) ∧
  (∀ (qid : BitVec 20) (ok : Bool) (s : State) (c : QCmd) (x : Moved) (want : Bool), Moves s qid.toNat 0x08 c x want →
    c.f 28 1 0 = 0 → exec (.adviseEvict qid ok) s = .next (s.evictLeaf qid.toNat c x true ok)) ∧
  (∀ (qid : BitVec 20) (s : State) (c : QCmd) (x : Moved) (want : Bool), Moves s qid.toNat 0x08 c x want →
    c.f 28 1 0 = 1 → exec (.adviseDrop qid) s = .next (s.evictLeaf qid.toNat c x false true)) ∧
  (∀ (qid : BitVec 20) (s : State) (c : QCmd) (x : Moved) (want : Bool), Moves s qid.toNat 0x08 c x want →
    2 ≤ c.f 28 1 0 → exec (.adviseWarm qid) s = .next (s.warmLeaf qid.toNat c x)) ∧
  (∀ (qid : BitVec 20) (s : State) (c : QCmd), qid ≠ 0 → (s.queue qid.toNat).cmds.find? QCmd.movesPages = none →
    s.nextCmd qid.toNat = some c →
    (c.opc = 0x07 → ∀ data ok, exec (.prefetch qid data ok) s = .next (s.moverStart qid.toNat c)) ∧
    (c.opc = 0x08 → c.f 28 1 0 = 0 → ∀ ok, exec (.adviseEvict qid ok) s = .next (s.moverStart qid.toNat c)) ∧
    (c.opc = 0x08 → c.f 28 1 0 = 1 → exec (.adviseDrop qid) s = .next (s.moverStart qid.toNat c)) ∧
    (c.opc = 0x08 → 2 ≤ c.f 28 1 0 → exec (.adviseWarm qid) s = .next (s.moverStart qid.toNat c)))

/-- O20. Each skein command runs the operation that skNext names for its code, and changes nothing where there is
none. On an open stream of the caller's ASID, MARK keeps the read position, REWIND goes back to the mark,
RETRACT of at least 1 and at most what lies between REL and the tail draws the tail back, with read position and
mark not beyond it, and CLOSE answers OK with the number of its cells. COUNT_PUBLICATION takes one Gray-code
step of the published value, of the free cells or of a stream that is not closed, toward the true one; such a
step gives the true value, one more or one less. SK_COUNTS_LO_READ latches the high word of the stream's counts.
The model's choice here: log entry 63. -/
def Obligations.SkeinOperationsRun : Prop :=
  (∀ s : State,
    exec .skeinOpen s = .next (s.skStep 0x40) ∧ exec .skeinAppend s = .next (s.skStep 0x41) ∧
    exec .skeinRead s = .next (s.skStep 0x42) ∧ exec .skeinMark s = .next (s.skStep 0x43) ∧
    exec .skeinRewind s = .next (s.skStep 0x44) ∧ exec .skeinRelease s = .next (s.skStep 0x45) ∧
    exec .skeinRetract s = .next (s.skStep 0x46) ∧ exec .skeinClose s = .next (s.skStep 0x47) ∧
    ∀ (op : Nat) (o : SkOp), (s.skNext op = some o → s.skStep op = s.skExec o) ∧ (s.skNext op = none → s.skStep op = s)) ∧
  (∀ (s : State) (d asid : Nat), (s.stream (skStream d)).st = .opened → (s.stream (skStream d)).owner = asid →
    (skOp d = 0x43 → s.skRun d asid = (⟨St.OK, (s.stream (skStream d)).rd, 0, []⟩,
      s.setStream (skStream d) { s.stream (skStream d) with mark := (s.stream (skStream d)).rd })) ∧
    (skOp d = 0x44 → s.skRun d asid = (⟨St.OK, (s.stream (skStream d)).mark, 0, []⟩,
      s.setStream (skStream d) { s.stream (skStream d) with rd := (s.stream (skStream d)).mark })) ∧
    (skOp d = 0x46 → 0 < skN d → skN d ≤ (s.stream (skStream d)).tail - (s.stream (skStream d)).rel →
      s.skRun d asid = (⟨St.OK, (s.stream (skStream d)).tail - skN d, 0, []⟩, s.setStream (skStream d) { s.stream (skStream d) with
        tail := (s.stream (skStream d)).tail - skN d
        rd := min (s.stream (skStream d)).rd ((s.stream (skStream d)).tail - skN d)
        mark := min (s.stream (skStream d)).mark ((s.stream (skStream d)).tail - skN d) })) ∧
    (skOp d = 0x47 → (s.skRun d asid).1 = ⟨St.OK, 0, (s.stream (skStream d)).cells.length, []⟩)) ∧
  (∀ (k : BitVec 17) (s : State),
    exec (.countPublication .fu k) s = .next { s with sk := { s.sk with fu := grayStep s.sk.fu s.trueFu } }) ∧
  (∀ (w : PubKind) (k : BitVec 17) (s : State), w ≠ .fu → (s.stream k.toNat).st ≠ .closed →
    exec (.countPublication w k) s = .next (
      let x := s.stream k.toNat
      let t := x.truth
      s.setStream k.toNat { x with shown := match w with
        | .tc => { x.shown with tc := grayStep x.shown.tc t.tc }
        | .rc => { x.shown with rc := grayStep x.shown.rc t.rc }
        | .ac => { x.shown with ac := grayStep x.shown.ac t.ac }
        | .rest => { x.shown with rest := grayStep x.shown.rest t.rest }
        | .h => { x.shown with h := grayStep x.shown.h t.h }
        | .fu => x.shown })) ∧
  (∀ shown truth : Nat, grayStep shown truth = truth ∨ grayStep shown truth = shown + 1 ∨ grayStep shown truth + 1 = shown) ∧
  (∀ (k : BitVec 17) (s : State), exec (.skCountsLoRead k) s = .next { s with
    latches := Sparse.set none s.latches (latchKey .bar0 (0x800000 + 8 * k.toNat))
      (some (0x800000 + 8 * k.toNat, s.skCounts k.toNat / 2 ^ 32)) })

/-- O21. An aligned register write that its path reaches writes the register (from JTAG only with the DEBUG hook
open); from BAR0 with BARs on, or from a node core, to a window over the chain of a motif or of a guest that has
the register, it goes out as REG_WR; else nothing changes. REG_RD, where the die has the register, answers with
REG_RSP, or waits where it is MX_ACCSTATE; REG_WR writes it; else both change nothing. REG_RSP gives the read
its answer, 0 in a guest's window without a register; REG_TIMEOUT gives it all ones, with its sticky bit and
event, and 0 in such a window. A read of the low word of a 64-bit register answers it; one of RW_ROW's low word
takes the Row into RW_ROW_LO and RW_ROW_HI; EV_RING_BASE and EV_RING_CI are written; JTAG's REG_ACCESS loads its
instruction and, where it reaches the register, reads it, or writes it with the DEBUG hook open. The model's
choices here: log entries 99, 119, 122 and 127. -/
def Obligations.RegisterCommandsAnswer : Prop :=
  (∀ (path : AccessPath) (a : BitVec 26) (wide : Bool) (v : BitVec 64) (s : State),
    exec (.registerWrite path a wide v) s = .next (
      let v := if wide then v.toNat else v.toNat % 2 ^ 32
      if regAligned wide a.toNat = false then s
      else if s.reaches path a.toNat then if path = .jtag ∧ s.hook 3 = false then s else s.writeReg wide a.toNat v
      else if ((path = .bar0 ∧ s.barOn = true) ∨ path = .nodeCore) ∧ s.overChain a.toNat = true ∧
        (dieOf a.toNat < 48 ∨ s.guestHas a.toNat = true) then
        s.sendChain (dieOf a.toNat) (regFrame 0x02 a.toNat wide v)
      else s)) ∧
  (∀ (a : BitVec 26) (wide : Bool) (s : State), exec (.regRd a wide) s = .next (
    if s.reaches .chain a.toNat = true ∧ regAligned wide a.toNat = true ∧ dieOf a.toNat < 48 then
      let x := s.readReg .chain wide a.toNat
      if isAccState a.toNat then x.2.accTry (dieOf a.toNat) a.toNat wide none
      else x.2.sendFrom (dieOf a.toNat) 48 (regFrame 0x03 a.toNat wide x.1)
    else s)) ∧
  (∀ (a : BitVec 26) (wide : Bool) (v : BitVec 64) (s : State), exec (.regWr a wide v) s = .next (
    if s.reaches .chain a.toNat = true ∧ regAligned wide a.toNat = true ∧ dieOf a.toNat < 48 then
      s.writeReg wide a.toNat v.toNat
    else s)) ∧
  (∀ (a : BitVec 26) (wide : Bool) (v : BitVec 64) (s : State), exec (.regRsp a wide v) s = .next (
    if s.overChain a.toNat then s.answerRead .bar0 a.toNat (if s.guestEmpty a.toNat then 0 else v.toNat) else s)) ∧
  (∀ (a : BitVec 26) (wide : Bool) (s : State), exec (.regTimeout a wide) s = .next (
    if s.overChain a.toNat = false then s
    else if s.guestEmpty a.toNat then s.answerRead .bar0 a.toNat 0
    else ((s.answerRead .bar0 a.toNat (if wide then 2 ^ 64 - 1 else 2 ^ 32 - 1)).setFld F.SM_STICKY_REG_TIMEOUT 1).raise
      Ev.REG_TIMEOUT { d0 := a.toNat })) ∧
  (∀ (path : AccessPath) (a : BitVec 26) (s : State) (r : RegRow) (b : Nat), regAt a.toNat = some (r, b) →
    exec (.counterLoWordRead path a) s = .next (
      if r.width = 64 ∧ a.toNat = b ∧ s.reaches path a.toNat = true then
        (s.read4 path a.toNat).2.answerRead path a.toNat (s.read4 path a.toNat).1
      else s)) ∧
  (∀ s : State, exec .rwRowLoRead s = .next (s.setFlds
    [(F.RW_ROW_LO_ROW, s.rowYoke.row % 2 ^ 32), (F.RW_ROW_HI_ROW, s.rowYoke.row / 2 ^ 32)])) ∧
  (∀ (v : BitVec 64) (s : State), exec (.evRingBaseWrite v) s = .next (s.evBase v.toNat)) ∧
  (∀ (v : BitVec 32) (s : State), exec (.evRingCiWrite v) s = .next (s.evCi v.toNat)) ∧
  (∀ (write wide : Bool) (a : BitVec 26) (v : BitVec 64) (s : State), exec (.regAccess write wide a v) s = .next (
    let t := s.tapLoad .regAccess false false
    if t.reaches .jtag a.toNat = false ∨ regAligned wide a.toNat = false then t
    else if write then if t.hook 3 then t.writeReg wide a.toNat (if wide then v.toNat else v.toNat % 2 ^ 32) else t
    else (t.readReg .jtag wide a.toNat).2.answerRead .jtag a.toNat (t.readReg .jtag wide a.toNat).1))

/-- O22. A message acts at a home only where the home is that of its line and the message can arrive now; it is then
no longer under way, and elsewhere nothing changes. Arrived, RD_S, RD_X, UPG, RD_NC, WR_NC, ATOM_FAR and WB
reach the home by the one shared operation, with their own kind; CLEAN_EVICT of an agent on the mesh counts and
takes the owner out of the entry where it is the owner; RECALL_DATA is taken as the recall's answer, NODATA by
suppliedByMemory; PUSH_ACK and PUSH_DROP unpin a line pinned for that push, with the target or nobody as owner,
and change nothing elsewhere; DONE of the requester that the entry is pinned for unpins it, and changes nothing
elsewhere. FAR_ATOMIC_EXECUTE and RESERVATION_SERVE are the home's own events. The model's choices here: log
entries 3, 50, 138 and 139. -/
def Obligations.HomesServeTheirLines : Prop :=
  (∀ (k code l : Nat) (f : State → State) (s : State), s.atHome k code l f =
    if s.homeStack (l * 128) = k then
      match s.net.land (homeMotif k) code l with
      | none => s
      | some n => f { s with net := n }
    else s) ∧
  (∀ (k : Stack) (q : Mesh) (l : BitVec 33) (s : State),
    exec (.rdS k q l) s = .next (s.atHome k Coh.RD_S l.toNat fun t => t.reach k q (.req l.toNat q .rdS)) ∧
    exec (.rdX k q l) s = .next (s.atHome k Coh.RD_X l.toNat fun t => t.reach k q (.req l.toNat q .rdX)) ∧
    exec (.upg k q l) s = .next (s.atHome k Coh.UPG l.toNat fun t => t.reach k q (.req l.toNat q .upg)) ∧
    exec (.rdNc k q l) s = .next (s.atHome k Coh.RD_NC l.toNat fun t => t.reach k q (.req l.toNat q .rdNc)) ∧
    (∀ (d : LineData) (mask : BitVec 128) (hint : Option Mesh), exec (.wrNc k q l d mask hint) s =
      .next (s.atHome k Coh.WR_NC l.toNat fun t => t.reach k q (.req l.toNat q (.wrNc d mask (hint.map Fin.val))))) ∧
    (∀ op : FarAtomic, exec (.atomFar k q l op) s =
      .next (s.atHome k Coh.ATOM_FAR l.toNat fun t => t.reach k q (.req l.toNat q (.atomFar op)))) ∧
    (∀ d : LineData, exec (.wb k q l d) s = .next (s.atHome k Coh.WB l.toNat fun t => t.reach k q (.wb l.toNat q d))) ∧
    (∀ d : LineData, exec (.recallData k q l d) s =
      .next (s.atHome k Coh.RECALL_DATA l.toNat fun t => t.recallAnswer k l.toNat (some d))) ∧
    exec (.nodata k q l) s = .next (s.atHome k Coh.NODATA l.toNat fun t => t.suppliedByMemory k l.toNat q)) ∧
  (∀ (k : Stack) (q : Mesh) (l : BitVec 33) (s : State), exec (.cleanEvict k q l) s =
    .next (s.atHome k Coh.CLEAN_EVICT l.toNat fun t =>
      if t.onMesh q then
        let u := t.bump (C.L2_DIR_CNT_REQUESTS (homeMotif k)) 1
        match (u.home k).entry l.toNat with
        | some e => if e.owner = some q.val then (u.setHolders k l.toNat none e.sharers).tidyEntry k l.toNat else u
        | none => u
      else t)) ∧
  (∀ (k : Stack) (q : Mesh) (l : BitVec 33) (s : State),
    exec (.pushAck k q l) s = .next (s.atHome k Coh.PUSH_ACK l.toNat fun t => t.pushAnswer k l.toNat q (some q.val)) ∧
    exec (.pushDrop k q l) s = .next (s.atHome k Coh.PUSH_DROP l.toNat fun t => t.pushAnswer k l.toNat q none) ∧
    exec (.done k q l) s = .next (s.atHome k Coh.DONE l.toNat fun t => t.unpinBy k l.toNat q)) ∧
  (∀ (k l q : Nat) (o : Option Nat) (t : State) (e : DirEntry), (t.home k).entry l = some e →
    t.pushAnswer k l q o = (if e.pin = some (.push q) then
      (t.putEntry k l (some { e with pin := none, owner := o })).tidyEntry k l else t) ∧
    (∀ kind, e.pin = some (.done q kind) → t.unpinBy k l q = (t.putEntry k l (some { e with pin := none })).tidyEntry k l) ∧
    ((∀ kind, e.pin ≠ some (.done q kind)) → t.unpinBy k l q = t)) ∧
  (∀ (k : Stack) (s : State), exec (.farAtomicExecute k) s = .next (s.farExecute k)) ∧
  (∀ (k : Stack) (l : BitVec 33) (s : State), exec (.reservationServe k l) s =
    .next (if s.homeStack (l.toNat * 128) = k then s.serveReserved k l.toNat else s))

/-- O23. A message acts at a cache of this module only where it can arrive now; it is then no longer under way.
Arrived, where the cache can supply the data: FWD_S sends it, and the copy becomes O from M or O and else S;
FWD_X sends it and drops the copy; FWD_NC sends it and leaves the copy; RECALL sends it to the home and drops
the copy; where it cannot, each of the four answers NODATA to the home. INV drops the copy and is acknowledged.
PUSH installs the line in E and is acknowledged where the target takes it, and is dropped elsewhere, each
counted on a motif. WB_ACK, where it can arrive, ends the former owner's hold of the data. The model's choices
here: log entries 32 and 139. -/
def Obligations.OwnersAndSharersAnswer : Prop :=
  (∀ (d code l : Nat) (f : State → State) (s : State), ownAgent d = true → s.atCache d code l f =
    match s.net.land d code l with
    | none => s
    | some n => f { s with net := n }) ∧
  (∀ (o q : Mesh) (l : BitVec 33) (s : State),
    exec (.fwdS o q l) s = .next (s.atCache o Coh.FWD_S l.toNat fun t =>
      match t.supply o l.toNat with
      | none => t.coh o (t.homeOf l.toNat) Coh.NODATA l.toNat [o] []
      | some d => ((t.setLineState o l.toNat (t.sharedAs o l.toNat)).lineLost o l.toNat).sendLine o q Coh.DATA l.toNat
          [moesiCode .s] d) ∧
    exec (.fwdX o q l) s = .next (s.atCache o Coh.FWD_X l.toNat fun t =>
      match t.supply o l.toNat with
      | none => t.coh o (t.homeOf l.toNat) Coh.NODATA l.toNat [o] []
      | some d => ((t.dropCopy o l.toNat).lineLost o l.toNat).sendLine o q Coh.DATA l.toNat [moesiCode .m] d) ∧
    exec (.fwdNc o q l) s = .next (s.atCache o Coh.FWD_NC l.toNat fun t =>
      match t.supply o l.toNat with
      | none => t.coh o (t.homeOf l.toNat) Coh.NODATA l.toNat [o] []
      | some d => t.sendLine o q Coh.DATA l.toNat [moesiCode .i] d) ∧
    exec (.recall o l) s = .next (s.atCache o Coh.RECALL l.toNat fun t =>
      match t.supply o l.toNat with
      | none => t.coh o (t.homeOf l.toNat) Coh.NODATA l.toNat [o] []
      | some d => (t.dropCopy o l.toNat).sendLine o (t.homeOf l.toNat) Coh.RECALL_DATA l.toNat [o.val] d)) ∧
  (∀ (d l : Nat) (t : State) (c : CacheLine), t.copyOf d l = some c →
    t.sharedAs d l = if c.st = .m ∨ c.st = .o then .o else .s) ∧
  (∀ (h q : Mesh) (l : BitVec 33) (s : State), exec (.inv h q l) s = .next (s.atCache h Coh.INV l.toNat fun t =>
    ((t.dropCopy h l.toNat).lineLost h l.toNat).coh h q Coh.INV_ACK l.toNat [h.val] [])) ∧
  (∀ (p : Mesh) (l : BitVec 33) (d : LineData) (s : State), exec (.push p l d) s =
    .next (s.atCache p Coh.PUSH l.toNat fun t =>
      if t.takesPush p l.toNat then
        let u := t.installLine p l.toNat .e d
        let u := if p.val < 48 then u.bump (C.L2_CNT_PUSH_IN p) 1 else u
        u.coh p (u.homeOf l.toNat) Coh.PUSH_ACK l.toNat [p.val] []
      else
        let u := if p.val < 48 then t.bump (C.L2_CNT_PUSH_REFUSED p) 1 else t
        u.coh p (u.homeOf l.toNat) Coh.PUSH_DROP l.toNat [p.val] [])) ∧
  (∀ (o : Mesh) (l : BitVec 33) (s : State) (n : Net), s.net.land o Coh.WB_ACK l.toNat = some n →
    exec (.wbAck o l) s = .next
      (({ s with net := n } : State).onAgent o fun a => { a with wbs := Sparse.set none a.wbs l.toNat none }))

/-- O24. A message acts at its requester only where it can arrive now; it is then no longer under way. Arrived:
HOME_RSP, DATA and INV_ACK are noted on the transaction, which finishes where all has come; DATA, RD_RSP and
WR_ACK perform an uncached access that waits for them, with DONE; an INV_ACK that the home waits for counts
there. NACK is taken by nackTx or nackUncached, a retry whose time has come sends the request again (a near
atomic that the predictor now sends far is given up), RESERVED ends the retries; ATOM_RSP keeps a far atomic's
old values. A memory request of an agent on the mesh is answered as not performed where the address rules refuse
it, and is else taken: performed and answered with its data and the numbers of its poisoned words, or waiting
where a home or a set holds it up; MEM_RSP keeps the answer. An interrupt message of an agent on the mesh is due
on its vector; L2_PRED_CLEAR clears the predictor. The model's choices here: log entries 20, 93, 138, 139 and
156. -/
def Obligations.RequestersTakeTheirAnswers : Prop :=
  (∀ (d code l : Nat) (f : State → State) (s : State), s.arrive d code l f =
    match s.net.land d code l with
    | none => s
    | some n => f { s with net := n }) ∧
  (∀ (q : Mesh) (l : BitVec 33) (st : Moesi) (n : BitVec 7) (d : Option LineData) (s : State), exec (.homeRsp q l st n d) s =
    .next (s.arrive q Coh.HOME_RSP l.toNat fun t => t.onTx q l.toNat fun x => { x with
      granted := some st, acks := x.acks + n.toNat, data := if d.isSome then d else x.data })) ∧
  (∀ (q : Mesh) (l : BitVec 33) (st : Moesi) (d : LineData) (s : State), exec (.data q l st d) s =
    .next (s.arrive q Coh.DATA l.toNat fun t =>
      if t.uncached.any (·.performs q l.toNat false) then t.performed q l.toNat false
      else t.onTx q l.toNat fun x => { x with data := some d })) ∧
  (∀ (q : Nat) (l : Nat) (f : Tx → Tx) (t : State),
    (∀ x, t.txOf q l = some x → t.onTx q l f = (t.setTx q l (some (f x))).finishTx q l) ∧
    (t.txOf q l = none → t.onTx q l f = t)) ∧
  (∀ (q : Mesh) (l : BitVec 33) (d : LineData) (s : State), exec (.rdRsp q l d) s =
    .next (s.arrive q Coh.RD_RSP l.toNat fun t =>
      if t.uncached.any (·.performs q l.toNat false) then t.performed q l.toNat false else t)) ∧
  (∀ (q : Mesh) (l : BitVec 33) (s : State), exec (.wrAck q l) s =
    .next (s.arrive q Coh.WR_ACK l.toNat fun t =>
      if t.uncached.any (·.performs q l.toNat true) then t.performed q l.toNat true else t)) ∧
  (∀ (q h : Mesh) (l : BitVec 33) (s : State), exec (.invAck q h l) s =
    .next (s.arrive q Coh.INV_ACK l.toNat fun t =>
      if q.val = homeMotif (s.homeStack (l.toNat * 128)) ∧ t.homeAwaits (s.homeStack (l.toNat * 128)) l.toNat = true then
        t.ackToHome (s.homeStack (l.toNat * 128)) l.toNat
      else t.onTx q l.toNat fun x => { x with acks := x.acks - 1 })) ∧
  (∀ (q : Mesh) (l : BitVec 33) (c : NackCause) (s : State), exec (.nack q l c) s =
    .next (s.arrive q Coh.NACK l.toNat fun t =>
      match t.txOf q l.toNat with
      | some x => t.nackTx q l.toNat x
      | none =>
        match t.uncached.find? (·.open' q l.toNat) with
        | some u => t.nackUncached q l.toNat u
        | none => t)) ∧
  (∀ (q : Mesh) (l : BitVec 33) (s : State) (x : Tx) (at' : Nat), s.txOf q l.toNat = some x → x.retryAt = some at' →
    exec (.nackRetry q l) s = .next (
      if s.now < at' then s
      else if x.near = true ∧ q.val < 48 ∧ s.goesFar q l.toNat = true then s.setTx q l.toNat none
      else (s.setTx q l.toNat (some { x with retryAt := none })).sendReq q l.toNat x.kind)) ∧
  (∀ (q : Mesh) (l : BitVec 33) (s : State) (u : Uncached), s.txOf q l.toNat = none →
    s.uncached.find? (·.due q l.toNat s.now) = some u →
    exec (.nackRetry q l) s = .next (({ s with
      uncached := changeFirst (·.due q l.toNat s.now) (fun u => { u with retryAt := none }) s.uncached } : State).sendReq q l.toNat
        u.kind)) ∧
  (∀ (q : Mesh) (l : BitVec 33) (s : State), exec (.reserved q l) s =
    .next (s.arrive q Coh.RESERVED l.toNat fun t =>
      match t.txOf q l.toNat with
      | some x =>
        let u := t.setTx q l.toNat (some { x with reserved := true, retryAt := none })
        if q.val < 48 then u.bump (C.L2_CNT_RESERVED q) 1 else u
      | none => { t with
          uncached := changeFirst (·.open' q l.toNat) (fun u => { u with reserved := true }) t.uncached })) ∧
  (∀ (q : Mesh) (l : BitVec 33) (olds : List (BitVec 64)) (cont p : Bool) (s : State), exec (.atomRsp q l olds cont p) s =
    .next (s.arrive q Coh.ATOM_RSP l.toNat fun t =>
      match t.txOf q l.toNat with
      | none => t
      | some x =>
        if x.kind.isFar then
          let u := t.setTx q l.toNat (some { x with olds := some olds, bad := p })
          if q.val < 48 then u.predict q l.toNat cont else u
        else t)) ∧
  (∀ (src : Mesh) (tag : BitVec 16) (r : MemReq) (s : State), s.onMesh src = false → exec (.memReq src tag r) s = .next s) ∧
  (∀ (src : Mesh) (tag : BitVec 16) (pa : BitVec 64) (n : BitVec 13) (s : State), s.onMesh src = true →
    exec (.memReq src tag (.read pa n)) s = .next (
      if s.spanFault pa.toNat (.plain n.toNat) ≠ none then s.memAnswer src tag.toNat (.read pa n) false [] []
      else s.takeReq ⟨.mesh src tag.toNat (.read pa n), .read pa.toNat n.toNat⟩)) ∧
  (∀ (src : Mesh) (tag : BitVec 16) (pa : BitVec 64) (d : List (BitVec 8)) (ps : List Nat) (s : State), s.onMesh src = true →
    exec (.memReq src tag (.write pa d ps)) s = .next (
      if s.spanFault pa.toNat (.plain d.length) ≠ none then s.memAnswer src tag.toNat (.write pa d ps) false [] []
      else s.takeReq ⟨.mesh src tag.toNat (.write pa d ps),
        .write pa.toNat (d.map some) (ps.map (plainPa pa.toNat / 8 + ·))⟩)) ∧
  (∀ (src : Mesh) (tag : BitVec 16) (pa : BitVec 64) (fn : AtomFn) (wide : Bool) (ops : List (BitVec 64 × BitVec 64))
    (s : State), s.onMesh src = true →
    exec (.memReq src tag (.atomic pa fn wide ops)) s = .next (
      if s.spanFault pa.toNat .atomic ≠ none then s.memAnswer src tag.toNat (.atomic pa fn wide ops) false [] []
      else s.takeReq ⟨.mesh src tag.toNat (.atomic pa fn wide ops), .atomic pa.toNat fn wide ops⟩)) ∧
  (∀ (src tag pa n : Nat) (r : MemReq) (s : State), s.performReq ⟨.mesh src tag r, .read pa n⟩ =
    (s.physRead pa n).2.2.memAnswer src tag r true (s.physRead pa n).1
      ((s.physRead pa n).2.1.map (· - plainPa pa / 8))) ∧
  (∀ (src tag pa : Nat) (bs : List (Option (BitVec 8))) (ps : List Nat) (r : MemReq) (s : State),
    s.performReq ⟨.mesh src tag r, .write pa bs ps⟩ = (s.physWrite pa bs ps).memAnswer src tag r true [] []) ∧
  (∀ (src tag pa : Nat) (fn : AtomFn) (wide : Bool) (ops : List (BitVec 64 × BitVec 64)) (r : MemReq) (s : State),
    s.performReq ⟨.mesh src tag r, .atomic pa fn wide ops⟩ =
      let x := s.atomicAt pa fn wide ops
      (x.2.2.consume src x.2.1).memAnswer src tag r true (x.1.flatMap (toBytes (if wide then 8 else 4)))
        (x.2.1.map (· - plainPa pa / 8))) ∧
  (∀ (dst : Mesh) (tag : BitVec 16) (ok : Bool) (d : MemData) (s : State) (n : Net) (x : Nat × Nat × MemReq),
    s.net.land dst Coh.MEM_RSP tag.toNat = some n →
    s.tu.memOut.find? (fun x => x.1 = dst.val && x.2.1 = tag.toNat) = some x →
    exec (.memRsp dst tag ok d) s = .next { s with
      net := n
      tu := { s.tu with memOut := s.tu.memOut.erase x
                        landed := s.tu.landed ++ [(dst.val, x.2.2,
                          if ok then .data d.bytes (d.poison.map ((memSpan x.2.2).1 / 8 + ·)) else .refused)] } }) ∧
  (∀ (src : Mesh) (v : BitVec 11) (s : State),
    exec (.intMessage src v) s = .next (if s.onMesh src then s.notify v.toNat else s)) ∧
  (∀ (m : Motif) (s : State), exec (.l2PredClear m) s = .next (s.onAgent m fun a => { a with pred := [] }))

/-- O25. A temperature that was read is taken by stackTemp; none for 10 ms is reported as a fault of the stack's
domain. A stack's power sample is charged and counts where THROTTLE is in force; where a grant is known, the
temperature does not hold THROTTLE and no step was made for 4 µs, a projection above the grant steps THROTTLE up
by one, to 12 at most, and one below 15/16 of it down by one. A refresh counts on its bank; RFM at the stack's
threshold restarts the bank's activations and counts. Patrol, on a pseudo-channel that works and where it may
take a place, reads the next granule, counts it and its corrected bursts and goes on, the last one starting new
counts; else nothing changes. A row due for repair on a working pseudo-channel is repaired, noted and counted,
or its pseudo-channel reported where no repair is left; a row not due changes nothing. A hot mean judges each
pseudo-channel. The model's choices here: log entries 69, 70 and 140. -/
def Obligations.StackCommandsTakeEffect : Prop :=
  (∀ (k : Stack) (t : BitVec 8) (s : State), exec (.stackTempRead k (some t)) s = .next (s.stackTemp k t.toNat)) ∧
  (∀ (k : Stack) (s : State), exec (.stackTempRead k none) s = .next (
    if (s.ctl k).tempAt + 10000000 ≤ s.now then
      (s.onCtl k fun c => { c with tempAt := s.now }).sendFaultRpt 2 (1024 + k) 0x14
    else s)) ∧
  (∀ (k : Stack) (mw : BitVec 32) (s : State), exec (.stackPowerSample k mw) s = .next (
    let u := s.onSched (homeMotif k) fun r => { r with njStack := r.njStack + mw.toNat }
    let th := u.fld (F.HB_STATUS_THROTTLE k)
    let t := if 0 < th then u.bump (C.HB_CNT_THROTTLE_US k) 1 else u
    match Sparse.get none t.rowYoke.stackGrant k with
    | none => t
    | some grant =>
      let proj := (t.sched (homeMotif k)).njStack + mw.toNat * t.timeLeft (homeMotif k) / 1000
      let step := fun (v : Nat) => (t.onCtl k fun c => { c with stepAt := some t.now }).setFld (F.HB_STATUS_THROTTLE k) v
      if (t.ctl k).held = true ∨ (t.ctl k).stepAt.any (t.now < · + 4000) = true then t
      else if grant * 1000 < proj then if th < 12 then step (th + 1) else t
      else if 16 * proj < 15 * (grant * 1000) ∧ 0 < th then step (th - 1)
      else t)) ∧
  (∀ (k : Stack) (pc bank : BitVec 6) (s : State), exec (.perBankRefresh k pc bank) s = .next (s.onCtl k fun c => { c with
    refreshes := Sparse.modify 0 c.refreshes ((64 * k.val + pc.toNat) * 64 + bank.toNat) (· + 1) })) ∧
  (∀ (k : Stack) (pc bank : BitVec 6) (n : BitVec 16) (s : State), exec (.rfm k pc bank n) s = .next (
    let key := (64 * k.val + pc.toNat) * 64 + bank.toNat
    if n.toNat ≤ Sparse.get 0 (s.ctl k).acts key then
      (s.onCtl k fun c => { c with acts := Sparse.set 0 c.acts key 0 }).bump (C.HB_CNT_RFM k) 1
    else s)) ∧
  (∀ (k : Stack) (pc : BitVec 6) (s : State), exec (.patrolScrub k pc) s = .next (
    let c := 64 * k.val + pc.toNat
    let u := Sparse.get 0 (s.ctl k).patrol c
    if s.pcServes k pc.toNat = true ∧ s.patrolPlace k pc.toNat u = true then
      let g := s.holder (granuleAt c u s.salt)
      let t := ((s.granuleRead g).bump (C.HB_CNT_SCRUB_GRAN k) 1).bump (C.HB_CNT_SCRUB_FIX k) (s.badBursts g)
      let t := t.onCtl k fun x => { x with
        patrol := Sparse.set 0 x.patrol c ((u + 1) % 2 ^ 22), sincePatrol := Sparse.set 0 x.sincePatrol pc.toNat 0
        patrolFrom := if u = 0 then Sparse.set 0 x.patrolFrom pc.toNat t.now else x.patrolFrom }
      if u + 1 < 2 ^ 22 then t
      else t.onCtl k fun x => { x with
        rowCe := x.rowCe.filter fun e => e.1 / 2 ^ 20 ≠ c, pcUe := x.pcUe.filter fun p => p ≠ c }
    else s)) ∧
  (∀ (k : Stack) (pc : BitVec 6) (row : BitVec 14) (sid : BitVec 2) (bank : BitVec 4) (left : Bool) (s : State),
    exec (.softRepair k pc row sid bank left) s = .next (
      let c := 64 * k.val + pc.toNat
      let u := row.toNat * 256 + sid.toNat * 64 + bank.toNat * 4
      let key := rowOf c u
      if ((s.ctl k).rowUe.contains key = true ∨ (0 < s.rowCeLimit ∧ s.rowCeLimit ≤ Sparse.get 0 (s.ctl k).rowCe key)) ∧
        s.pcServes k pc.toNat = true then
        let forget := fun (t : State) =>
          t.onCtl k fun x => { x with rowUe := x.rowUe.filter (· ≠ key), rowCe := Sparse.set 0 x.rowCe key 0 }
        if left then
          let t := forget ((List.range 4).foldl (fun s i => s.granuleRead (s.holder (granuleAt c (u + i) s.salt))) s)
          let t := { t with memMap := { t.memMap with
            repairs := if t.memMap.repairs.contains key then t.memMap.repairs else t.memMap.repairs ++ [key]
            soft := if t.memMap.soft.contains key then t.memMap.soft else t.memMap.soft ++ [key] } }
          (t.bump (C.HB_CNT_SPPR k) 1).bump (C.HB_PC_CNT_BURSTS k pc.toNat) 32
        else (forget s).sendFaultRpt 2 c 0x11
      else s)) ∧
  (∀ (k : Stack) (mean : BitVec 32) (s : State), exec (.hotMean k mean) s =
    .next ((List.range 64).foldl (fun s p => s.streak k.val mean.toNat p) s))

/-- O26. A write of HB_INJECT is taken with the MEM_INJECT hook open, and changes nothing with it closed. A write of
HB_TGENp takes PATTERN and MODE, clears DONE where bit 29 is 1, and where bit 31 is 1 starts the generator of a
pseudo-channel in TEST whose stack's loop-back is not busy. A running generator ends with its counts, its bursts
counted, and keeps its first bad granule where none is kept; one that does not run changes nothing. A burst of a
queued request is made for it; that of another agent's request, on its own pseudo-channel and not held by an
evacuation, activates its bank and is read, with the errors that the read meets among its stored bits, or
written under its mask; else nothing changes. The model's choices here: log entries 70 and 138. -/
def Obligations.StackTestersAndBursts : Prop :=
  (∀ (k : Stack) (v : BitVec 32) (s : State), exec (.hbInjectArm k v) s = .next (
    if s.hook 1 then s.setReg (F.HB_INJECT_ARM k.val).addr (v.toNat &&& 0x80FFFFFF) else s)) ∧
  (∀ (k : Stack) (pc : BitVec 6) (v : BitVec 32) (s : State), exec (.hbTgenStart k pc v) s = .next (
    let t := s.setFlds
      [(F.HB_TGEN_PATTERN k pc.toNat, bits v.toNat 6 4), (F.HB_TGEN_MODE k pc.toNat, bits v.toNat 1 0)]
    let t := if v.getLsbD 29 then t.setFld (F.HB_TGEN_DONE k pc.toNat) 0 else t
    if v.getLsbD 31 = true ∧ (t.fld (F.HB_PC_TEST_TEST k)).testBit pc.toNat = true ∧ t.fld (Loop.BUSY (.hb k)) = 0 then
      t.setFld (F.HB_TGEN_BUSY k pc.toNat) 1
    else t)) ∧
  (∀ (k : Stack) (pc : BitVec 6) (n e : BitVec 64) (bad : Option (BitVec 22)) (s : State),
    exec (.hbTgenDone k pc n e bad) s = .next (
      if s.fld (F.HB_TGEN_BUSY k pc.toNat) = 0 then s
      else
        let t := s.setFlds [(F.HB_TGEN_BUSY k pc.toNat, 0), (F.HB_TGEN_DONE k pc.toNat, 1)]
        let t := (t.bumpPlain (F.HB_TGEN_MISCOMPARE k pc.toNat).addr n.toNat).bumpPlain (F.HB_TGEN_ECC_EVENTS k pc.toNat).addr e.toNat
        let t := t.bump (C.HB_PC_CNT_BURSTS k pc.toNat)
          ((if s.fld (F.HB_TGEN_MODE k pc.toNat) = 2 then 16 else 8) * t.fld (F.HB_TGEN_COUNT k pc.toNat))
        match bad with
        | some u =>
          if t.fld (F.HB_TGEN_BAD_VALID k pc.toNat) = 1 then t
          else t.setFlds [(F.HB_TGEN_BAD_VALID k pc.toNat, 1), (F.HB_TGEN_FIRST_BAD k pc.toNat, u.toNat)]
        | none => t)) ∧
  (∀ (k : Stack) (pc : BitVec 6) (pa : BitVec 40) (wrong : BitVec 320) (s : State), exec (.burstDone k pc (.read pa wrong)) s = .next (
    if (s.chan (64 * k.val + pc.toNat)).any (fun q => q.left.contains (pa.toNat / 32)) then
      s.burstMade (64 * k.val + pc.toNat) (pa.toNat / 32)
    else if s.pcAt pa.toNat = 64 * k.val + pc.toNat ∧ s.evacHeld (pa.toNat / 128) = false then
      ((s.activateBank pa.toNat).upset (pa.toNat / 32) wrong).burstRead (pa.toNat / 32)
    else s)) ∧
  (∀ (k : Stack) (pc : BitVec 6) (pa : BitVec 40) (d : BitVec 256) (mask : BitVec 32) (s : State),
    exec (.burstDone k pc (.write pa d mask)) s = .next (
      if (s.chan (64 * k.val + pc.toNat)).any (fun q => q.left.contains (pa.toNat / 32)) then
        s.burstMade (64 * k.val + pc.toNat) (pa.toNat / 32)
      else if s.pcAt pa.toNat = 64 * k.val + pc.toNat ∧ s.evacHeld (pa.toNat / 128) = false then
        (s.activateBank pa.toNat).burstWrite (pa.toNat / 32)
          ((toBytes 32 d.toNat).zipIdx.map fun (b, i) => if mask.getLsbD i then some b else none)
      else s))

/-- O27. A fault report arrives at the sequencer by faultArrive; it takes the first pending entry where none runs
and the node is not fatal. A motif in recovery that is drained loses its work, its L2 written back or lost by
the fault's cause, its local memory and accumulator sets become zero, and it tests itself; one that passes
returns at a named edge where it is RECOVERING, with MOTIF_RECOVERED, and else its recovery ends with that
event; one that fails raises RECOVERY_ESCALATED and is isolated. A yoke unit's or a port's recovery ends or is
isolated, or makes the node fatal. An evacuation that runs copies the next segment, at most one ahead of the
commits, and commits a copied one with its redirects and both records, the last one ending the map-out. The
driver's grant, pending and written with bit 0, withdraws the region and puts the evacuation at the head of the
list. Where the conditions on an entry, a phase, a segment or the grant do not hold, nothing changes. The
model's choices here: log entries 3, 29 and 95; which L2 an uncorrectable error loses is a free value. -/
def Obligations.RecoveriesRun : Prop :=
  (∀ (kind : BitVec 3) (id : BitVec 12) (cause : BitVec 8) (s : State),
    exec (.faultRpt kind id cause) s = .next (s.faultArrive kind.toNat id.toNat cause.toNat)) ∧
  (∀ (s : State) (d : Domain) (ds : List Domain), s.recovery.running = none → s.recovery.pending = d :: ds →
    exec .sequencerTakeEntry s = .next (if s.isFatal then s else s.takeDomain d)) ∧
  (∀ s : State, (s.recovery.running ≠ none ∨ s.recovery.pending = []) → exec .sequencerTakeEntry s = .next s) ∧
  (∀ (s : State) (d : Domain), s.recovery.running = some d → d.kind = 1 → s.recovery.phase = 0 →
    exec .motifDrained s = .next (
      let f := (s.loseMotif d.id).takeFree
      let t := if d.cause = 4 ∨ (d.cause = 2 ∧ Config.freeBool f.1 = true) then f.2.loseCache d.id else f.2.drainCache d.id
      let t := { t with locals := Sparse.set [] t.locals d.id [] }
      let t := t.setArray d.id { t.array d.id with sets := [] }
      (t.setRecovery { t.recovery with phase := 1 }).sendChain d.id (packBits [(0, 8, 0x40), (8, 8, 1)]))) ∧
  (∀ (s : State) (d : Domain), s.recovery.running = some d → d.kind = 1 → s.recovery.phase = 1 →
    exec (.motifSelfTestDone true) s = .next (
      if s.pos d.id = 4 then
        let t := s.issueAll s.reachableRow (.pos d.id 1)
        (t.setRecovery { t.recovery with phase := 2 }).raise Ev.MOTIF_RECOVERED { dom := d.id, kind := 1 }
      else (s.raise Ev.MOTIF_RECOVERED { dom := d.id, kind := 1 }).endRecovery) ∧
    exec (.motifSelfTestDone false) s =
      .next ((s.raise Ev.RECOVERY_ESCALATED { dom := d.id, kind := 1, d1 := 3 }).isolate d)) ∧
  (∀ (s : State) (d : Domain), s.recovery.running = some d → d.kind ≠ 1 →
    exec .motifDrained s = .next s ∧ ∀ p, exec (.motifSelfTestDone p) s = .next s) ∧
  (∀ (s : State) (d : Domain), s.recovery.running = some d → d.kind = 4 →
    exec (.recoveryEnd true) s = .next s.endRecovery ∧ exec (.recoveryEnd false) s = .next (s.isolate d)) ∧
  (∀ (s : State) (d : Domain), s.recovery.running = some d → d.kind = 5 →
    exec (.recoveryEnd false) s = .next (s.nodeFatal 3 5 d.id) ∧
    exec (.recoveryEnd true) s = .next (
      let t := if d.id = 0 then s.fetchAgain else s
      ({ t with sk := { t.sk with heldTo := if d.id = 1 then t.now else t.sk.heldTo } } : State).endRecovery)) ∧
  (∀ (s : State) (d : Domain) (ok : Bool), s.recovery.running = some d → d.kind ≠ 4 → d.kind ≠ 5 →
    exec (.recoveryEnd ok) s = .next s) ∧
  (∀ (v : BitVec 32) (s : State) (u : MapOut) (d : Domain), s.memMap.evac = some u → s.recovery.parked = some d →
    exec (.hbGrant v) s = .next (
      if v.getLsbD 0 = true ∧ s.fld F.HB_GRANT_PENDING = 1 then
        let t := (s.setFlds [(F.HB_SW_TOP_SW_TOP, u.base), (F.HB_GRANT_PENDING, 0)]).cleanRegion u.base u.blocks
        t.setRecovery { t.recovery with
          parked := none, pending := { d with faults := 1, granted := true } :: t.recovery.pending }
      else s)) ∧
  (∀ (s : State) (u : MapOut), s.memMap.evac = some u →
    exec .evacSegmentCopy s = .next (
      if s.fld F.HB_EVAC_STATE = 2 ∧ s.memMap.copied < u.segments ∧ s.memMap.copied ≤ s.fld F.HB_EVAC_SEG_DONE + 1 then
        let t := s.copySegment u s.memMap.copied
        { t with memMap := { t.memMap with copied := s.memMap.copied + 1 } }
      else s) ∧
    exec .evacSegmentCommit s = .next (
      let q := s.fld F.HB_EVAC_SEG_DONE
      if s.fld F.HB_EVAC_STATE = 2 ∧ q < s.memMap.copied then
        let t := (s.redirectSegment u q).setFld F.HB_EVAC_SEG_DONE (q + 1)
        let t := { t with memMap := { t.memMap with aonDone := some (q + 1), flashDone := some (q + 1) } }
        if q + 1 = u.segments then (t.endEvac u).endStack else t
      else s)) ∧
  (∀ s : State, s.memMap.evac = none →
    exec .evacSegmentCopy s = .next s ∧ exec .evacSegmentCommit s = .next s ∧ ∀ v, exec (.hbGrant v) s = .next s)

/-- O28. A fault in flight that its report names is collected, and a report of none changes nothing; a window that
closes on an entry still open 1.0 µs after it was opened queues it for the ring, and else changes nothing.
RESUME and ABORT of a resolvable entry free it and replay, or end with ACCESS_FAULT (causes from 0x10 but 0x14)
or TRANSLATION_FAULT, every joined agent's unit; of any other they set BAD_RESOLVE. Each invalidation is queued
with its scope. A die that is told an invalidation drops the matching entries and reports, unless an access
translated before is still owed (log entry 152); a die's report is taken off and those with none left complete
in order. The fault ring's consumer index is taken where it is accepted, and else sets CI_DROPPED; a write of
the ring's base stores the fields, an EN that goes from 0 to 1 with LOG2_ENTRIES 6 to 16 restarts the ring
empty, and with another EN stays 0. -/
def Obligations.TranslationFaultsResolve : Prop :=
  (∀ (m : Mesh) (f : AgentFault) (s : State) (x : FaultInfo), s.tu.inFlight.find? (fun x =>
      x.agent = ⟨m.val, f.engine.toNat, f.id.toNat⟩ && x.asid = f.asid.toNat && x.page = f.page.toNat) = some x →
    exec (.faultReport m f) s = .next
      ((({ s with tu := { s.tu with inFlight := s.tu.inFlight.erase x } } : State).collect x).showTu)) ∧
  (∀ (m : Mesh) (f : AgentFault) (s : State), s.tu.inFlight.find? (fun x =>
      x.agent = ⟨m.val, f.engine.toNat, f.id.toNat⟩ && x.asid = f.asid.toNat && x.page = f.page.toNat) = none →
    exec (.faultReport m f) s = .next s) ∧
  (∀ (i : BitVec 8) (s : State) (e : CollEntry), Sparse.get none s.tu.entries i.toNat = some e →
    exec (.faultWindowClose i) s = .next (
      if e.closed = true ∨ s.now < e.opened + 1000 then s
      else ({ s with tu := { s.tu with
        entries := Sparse.set none s.tu.entries i.toNat (some { e with closed := true })
        ringWait := s.tu.ringWait ++ [i.toNat] } } : State).fringGo)) ∧
  (∀ (i : BitVec 8) (s : State), Sparse.get none s.tu.entries i.toNat = none → exec (.faultWindowClose i) s = .next s) ∧
  (∀ (i g : BitVec 8) (s : State) (e : CollEntry), s.resolvable i.toNat g.toNat = some e →
    exec (.faultResume i g) s = .next
      ((e.agents.foldl State.resumeAgent ((s.freeEntry i.toNat).refusedAgain e true)).fringGo) ∧
    exec (.faultAbort i g) s = .next ((e.agents.foldl (fun s a => s.abortAgent
        (if 0x10 ≤ e.first.cause ∧ e.first.cause ≠ 0x14 then St.ACCESS_FAULT else St.TRANSLATION_FAULT) a)
      ((s.freeEntry i.toNat).refusedAgain e false)).fringGo)) ∧
  (∀ (i g : BitVec 8) (s : State), s.resolvable i.toNat g.toNat = none →
    exec (.faultResume i g) s = .next (s.setFld F.TU_STICKY_BAD_RESOLVE 1) ∧
    exec (.faultAbort i g) s = .next (s.setFld F.TU_STICKY_BAD_RESOLVE 1)) ∧
  (∀ (asid : BitVec 12) (n : BitVec 17) (s : State),
    exec (.invPage asid) s = .next (s.queueInval 0 (s.fld F.TU_INV_CTL_PAGES) asid.toNat) ∧
    exec (.invRange n asid) s = .next (s.queueInval 1 n.toNat asid.toNat) ∧
    exec (.invAsid asid) s = .next (s.queueInval 2 (s.fld F.TU_INV_CTL_PAGES) asid.toNat) ∧
    exec .invAll s = .next (s.queueInval 3 (s.fld F.TU_INV_CTL_PAGES) (s.fld F.TU_INV_CTL_ASID))) ∧
  (∀ (d : Mesh) (n : BitVec 16) (s : State) (v : Inval), s.tu.invals.find? (fun v => v.seq = n.toNat) = some v →
    exec (.tlbInv d n) s = .next (
      if (s.applyInval d.val v).invalOwes d.val v then s.applyInval d.val v
      else (s.applyInval d.val v).sendFrom d.val 48 (packBits [(0, 8, 0x31), (8, 8, d.val), (32, 16, n.toNat)]))) ∧
  (∀ (d : Mesh) (n : BitVec 16) (s : State), exec (.invDone d n) s = .next (State.invalsDone 16 { s with tu := { s.tu with
    invals := s.tu.invals.map fun v =>
      if v.seq = n.toNat then { v with waiting := v.waiting.filter (· ≠ d.val) } else v } })) ∧
  (∀ (v : BitVec 32) (s : State), exec (.tuFringCiWrite v) s = .next (
    if ciAccepted (s.fld F.TU_FRING_CI_CI) (s.fld F.TU_FRING_PI_PI) (bits v.toNat 23 0) then
      (s.setFld F.TU_FRING_CI_CI (bits v.toNat 23 0)).fringGo
    else s.setFld F.TU_STICKY_CI_DROPPED 1)) ∧
  (∀ (v : BitVec 64) (s : State), exec (.tuFringBaseWrite v) s = .next (
    let w := v.toNat &&& 0xFFFFFFFFFFFFF07F
    let t := s.setReg F.TU_FRING_BASE_EN.addr w
    if w % 2 = 1 ∧ s.fld F.TU_FRING_BASE_EN ≠ 1 then
      if 6 ≤ bits w 6 2 ∧ bits w 6 2 ≤ 16 then
        let t := { t with tu := { t.tu with log2 := bits w 6 2, loc := bits w 1 1 = 1, base := bits w 63 12 * 4096 } }
        (t.setFlds [(F.TU_FRING_PI_PI, 0), (F.TU_FRING_CI_CI, 0)]).fringGo
      else t.setFld F.TU_FRING_BASE_EN 0
    else t))

/-- O29. ROUTE_SET, MAP_SET, BIND_SET and POS_SET at a die of the module are taken as changes for their named Row,
and PATTERN_DATA writes its 28 bytes at its offset of the die's copy; at a guest the five change nothing.
SEQ_CMD to drain stops the engines of a motif under recovery, and to reset clears its prior masks; to retrain,
it retrains a seam of the die that is under recovery in state 5; to isolate, it isolates a seam of the die in a
state other than 0 and 6; each else changes nothing. An acknowledged frame is forgotten. A frame between two
dies that a seam joins is noted as resent once more and counted at the motif's side, where it was resent fewer
than eight times; at the eighth its sideband has failed and the chain is routed anew. The model's choices here:
log entries 3 and 75. -/
def Obligations.ChainCommandsReachTheDie : Prop :=
  (∀ (d : Mesh) (row : BitVec 48) (s : State),
    (∀ t : BitVec 11, exec (.routeSet d row t) s =
      .next (if d.val ≤ 48 then s.takeChange d row.toNat (.route t.toNat) else s)) ∧
    (∀ (salt : BitVec 64) (rs : List (BitVec 48 × BitVec 48)), exec (.mapSet d row salt rs) s = .next (
      if d.val ≤ 48 then s.takeChange d row.toNat (.map salt.toNat (rs.map fun r => (r.1.toNat, r.2.toNat))) else s)) ∧
    (∀ (q : BitVec 20) (mask : BitVec 48) (c : BitVec 4), exec (.bindSet d row q mask c) s =
      .next (if d.val ≤ 48 then s.takeChange d row.toNat (.bind q.toNat mask.toNat c.toNat) else s)) ∧
    (∀ (m : Motif) (st : PosState), exec (.posSet d row m st) s = .next (
      if d.val ≤ 48 then s.takeChange d row.toNat (.pos m (match st with
        | .enabled => 1
        | .spare => 2
        | .memOnly => 3
        | .recovering => 4
        | .dropped => 5)) else s)) ∧
    (∀ (off : BitVec 23) (b : BitVec 224), exec (.patternData d off b) s = .next (
      if d.val ≤ 48 then { s with
        diePattern := Sparse.set [] s.diePattern d.val
          (flashWrite (Sparse.get [] s.diePattern d.val) off.toNat (toBytes 28 b.toNat)) }
      else s))) ∧
  (∀ (d : Mesh) (s : State),
    exec (.seqCmd d .drain) s = .next (if d.val < 48 ∧ s.recovering 1 d.val = true then s.stopEngines d.val else s) ∧
    exec (.seqCmd d .resetUnits) s = .next (if d.val < 48 ∧ s.recovering 1 d.val = true then
      ((List.range 4).filterMap (seamOf d.val)).foldl (fun s i => s.clearPrior d.val i) s else s)) ∧
  (∀ (d : Mesh) (k : BitVec 3) (i : Nat) (s : State), dieSeam d.val k.toNat = some i →
    exec (.seqCmd d (.retrain k)) s = .next (if s.recovering 3 i = true ∧ s.seamState i = 5 then s.retrain i else s) ∧
    exec (.seqCmd d (.isolate k)) s = .next (if s.seamState i = 6 ∨ s.seamState i = 0 then s else s.isolateSeam i)) ∧
  (∀ (d : Mesh) (k : BitVec 3) (s : State), dieSeam d.val k.toNat = none →
    exec (.seqCmd d (.retrain k)) s = .next s ∧ exec (.seqCmd d (.isolate k)) s = .next s) ∧
  (∀ (src hop : Mesh) (n : BitVec 8) (s : State), exec (.chainAck src hop n) s = .next (s.forgetFrame src hop n.toNat)) ∧
  (∀ (src hop : Mesh) (n : BitVec 8) (bad : Bool) (i : Nat) (s u : State), seamBetween src hop = some i →
    u = (if bad then s.countSide i hop C.SM_CNT_CHAIN_BAD else s) →
    exec (.chainResend src hop ⟨n, bad⟩) s = .next (
      let r := u.resendsOf src hop n.toNat
      let t := u.forgetFrame src hop n.toNat
      if r < 8 then
        ({ t with recovery := { t.recovery with resends := t.recovery.resends ++
          [(src.val, hop.val, n.toNat, r + 1)] } } : State).countSide i src C.SM_CNT_CHAIN_RESEND
      else (t.setSeamFld i 3 0 0).chainReroute i)) ∧
  (∀ (src hop : Mesh) (n : BitVec 8) (bad : Bool) (s : State), seamBetween src hop = none →
    exec (.chainResend src hop ⟨n, bad⟩) s = .next s)

/-- O30. A seam in training that is done takes its sideband lanes, advertises on each side the modules trained
within its prior mask, to a motif's or yoke's seam with WIDTH_ADV, and the chain is routed anew where the lanes
changed. A side that advertised, with the width not on trial, chooses the width from both masks and answers, or
isolates the seam; one that chose takes an equal WIDTH_SET and mismatches an unequal one; no answer 100 µs after
training mismatches. A test pattern opens, 16 µs after it began, the seam at the width on trial or chosen, or
mismatches. A width record is kept at the yoke, or as the prior mask of the motif's side. A fault of an open,
degraded, held or recovering seam counts resent flits (a free number above 1,024) where the link is up, holds an
open one and is reported. On a part with guests: a guest's link begins the exchange; a part of its capability
block is kept, and the whole judged; its ACK of the granted CRC opens the seam with GUEST_JOINED; no block
within 100 ms or no echo within 10 ms refuses it. Where the conditions do not hold, nothing changes. The model's
choices here: log entries 3, 91 and 128. -/
def Obligations.SeamsTrainAndGuestsJoin : Prop :=
  (∀ (i : SeamIx) (a b : BitVec 8) (n : BitVec 4) (s : State), exec (.seamTrainingDone i a b n) s = .next (
    if s.seamState i = 1 then
      let x := s.seam i
      let advA := a.toNat &&& x.a.prior.getD 255
      let advB := b.toNat &&& x.b.prior.getD 255
      let t := (s.setSeamState i 2).setSeamFld i 3 0 (min 8 n.toNat)
      let t := t.setSeam i { x with
        a := { x.a with adv := some advA, set := none }, b := { x.b with adv := some advB, set := none }
        chosen := none, trial := none, since := s.now }
      let t := if i.val < 88 then (t.sendAcross i false 0x50 0 advA).sendAcross i true 0x50 0 advB else t
      if s.seamFld i 3 0 = min 8 n.toNat then t else t.chainReroute i
    else s)) ∧
  (∀ (i : SeamIx) (side : Bool) (mask : BitVec 8) (own : Nat) (s : State), ((s.seam i).side side).adv = some own →
    exec (.widthAdv i side mask) s = .next (
      if s.seamState i = 2 ∧ (s.seam i).trial = none then
        match chooseWidth (own &&& mask.toNat) with
        | none => s.isolateSeam i
        | some (w, m) =>
          (s.setSeam i ((s.seam i).setSide side { (s.seam i).side side with set := some (w, m) })).sendAcross i side 0x51 w m
      else s)) ∧
  (∀ (i : SeamIx) (side : Bool) (w : BitVec 4) (mask : BitVec 8) (w' m' : Nat) (s : State),
    ((s.seam i).side side).set = some (w', m') →
    exec (.widthSet i side w mask) s = .next (
      if s.seamState i = 2 ∧ (s.seam i).trial = none then
        if w' = w.toNat ∧ m' = mask.toNat then
          s.setSeam i { s.seam i with chosen := some (w', m'), since := s.now }
        else s.mismatch i
      else s)) ∧
  (∀ (i : SeamIx) (s : State), exec (.widthSetTimeout i) s = .next (
    if s.seamState i = 2 ∧ (s.seam i).trial = none ∧ (s.seam i).chosen = none ∧ i.val < 88 ∧
      (s.seam i).since + 100000 ≤ s.now then s.mismatch i else s)) ∧
  (∀ (i : SeamIx) (pass : Bool) (s : State), (s.seamState i ≠ 2 ∨ s.now < (s.seam i).since + 16000) →
    exec (.seamTestPatternDone i pass) s = .next s) ∧
  (∀ (i : SeamIx) (pass : Bool) (s : State), s.seamState i = 2 → (s.seam i).since + 16000 ≤ s.now →
    exec (.seamTestPatternDone i pass) s = .next (
      match (s.seam i).trial, (s.seam i).chosen with
      | some j, _ => if pass then s.openSeam i 1 (2 ^ j) else s.mismatch i
      | none, some (w, m) => if pass then s.openSeam i w m else s.mismatch i
      | none, none => s)) ∧
  (∀ (d : Mesh) (i : SeamIx) (mask : BitVec 8) (s : State), exec (.seamState d i mask) s = .next (
    let x := s.seam i
    if d.val = 48 then s.setSeam i { x with record := some mask.toNat }
    else if (seamSides i).1.mesh = d.val then s.setSeam i { x with a := { x.a with prior := some mask.toNat } }
    else if (seamSides i).2.mesh = d.val then s.setSeam i { x with b := { x.b with prior := some mask.toNat } }
    else s)) ∧
  (∀ (i : SeamIx) (down : Bool) (s : State), exec (.seamFault i down) s = .next (
    if s.seamState i = 3 ∨ s.seamState i = 4 ∨ s.seamState i = 5 ∨ s.recovering 3 i = true then
      let t := if down then s
        else s.takeFree.2.countSeam i C.SM_CNT_FLIT_RETRY (1025 + (Config.freeWord s.takeFree.1).toNat % 2 ^ 20)
      let t := if s.seamState i = 3 ∨ s.seamState i = 4 then t.setSeamState i 5 else t
      t.sendFaultRpt 3 i (if down then 0x21 else 0x20)
    else s)) ∧
  (∀ (g : Guest) (s : State), exec (.guestLinkUp g) s = .next (
    if s.mc.fuses.guests = false then s
    else
      let t := (s.setFlds [(F.SM_GUEST_STATE g, 1), (F.SM_GUEST_CAUSE g, 0), (F.SM_GUEST_ROLES g, 0)]).setGuest g
        { GuestLink.init with since := s.now }
      if t.seamState (88 + g) = 3 ∨ t.seamState (88 + g) = 4 then t else t.setSeamState (88 + g) 2)) ∧
  (∀ (g : Guest) (part : BitVec 2) (b : BitVec 224) (s : State), exec (.vspCap g part b) s = .next (
    if s.mc.fuses.guests = true ∧ (s.fld (F.SM_GUEST_STATE g) = 1 ∨ s.fld (F.SM_GUEST_STATE g) = 2) ∧
      (s.guest g).crc = none then
      let t := (List.range 7).foldl (fun s w => s.setReg (capAddr g (7 * part.toNat + w)) (bits b.toNat (32 * w + 31) (32 * w))) s
      let parts := (t.guest g).parts ||| BitVec.ofNat 4 (2 ^ part.toNat)
      let t := (t.setGuest g { t.guest g with parts := parts }).setFld (F.SM_GUEST_STATE g) 2
      if parts = 15 then t.judgeGuest g else t
    else s)) ∧
  (∀ (g : Guest) (crc : BitVec 32) (s : State), exec (.vspGrant g crc) s =
    .next (if (s.guest g).crc = some crc.toNat then s.setGuest g { s.guest g with got := true } else s)) ∧
  (∀ (g : Guest) (crc : BitVec 32) (s : State), exec (.vspAck g crc) s = .next (
    if s.mc.fuses.guests = true ∧ (s.guest g).got = true ∧ (s.guest g).crc = some crc.toNat ∧
      s.fld (F.SM_GUEST_STATE g) = 2 then
      (((s.openSeam (88 + g) (s.guest g).width (2 ^ (s.guest g).width - 1)).setSeamFld (88 + g) 11 9
        (s.guest g).rate).setFld (F.SM_GUEST_STATE g) 3).raise Ev.GUEST_JOINED { d1 := g }
    else s)) ∧
  (∀ (g : Guest) (s : State), exec (.vspTimeout g) s = .next (
    if (s.fld (F.SM_GUEST_STATE g) = 1 ∨ s.fld (F.SM_GUEST_STATE g) = 2) ∧ (s.guest g).since +
        (if (s.guest g).crc = none then 100000000 else 10000000) ≤ s.now then s.refuseGuest g 1 else s))

/-- O31. A request of a guest that has not joined changes nothing; of a joined one, a read, a write or an atomic
that its ranges do not permit is refused with ACCESS_FAULT and counted, and any other is taken. A host access of
BAR4 changes nothing with BARs off; of a Requester ID that is not served it is refused; at an address that is
not reached it is refused; else it is taken. A request taken is performed at once; where a home, a set or the
atomic unit holds it up, or an earlier request of its path waits, it waits behind it, and an idle nanosecond
takes the waiting ones again in their order. Performed, a guest's request is answered with its data and the
numbers of its poisoned words; a host's read answers with its data, EP where a word is poisoned, unless a
host-side reset discarded its completion; a host's write goes under its byte enables, with its hint's target
below the pool's top, poisoned where EP is set; FetchAdd, Swap and CAS of 32 and 64 bits answer the old value,
misaligned ones Unsupported Request, as a CAS of 128 bits does. Refused reads and AtomicOps complete with
Completer Abort. An access of BAR0 of another size than 4 or 8 bytes, or misaligned, sets ACCESS_REFUSED, a read
with Unsupported Request. The model's choices here: log entries 93, 96, 97, 99 and 156. -/
def Obligations.GuestAndHostRequestsAnswer : Prop :=
  (∀ (g : Guest) (r : MemReq) (s : State), s.guestIn (56 + g) = false → exec (.guestRequest g r) s = .next s) ∧
  (∀ (g : Guest) (r : MemReq) (s : State), s.guestIn (56 + g) = true → exec (.guestRequest g r) s = .next (
    let refused := (s.send { kind := .mem, dst := 56 + g, args := [0, St.ACCESS_FAULT], bytes := [] }).bump (C.SM_GUEST_REFUSED g) 1
    match r with
    | .read pa n =>
      if s.guestMay g pa.toNat n.toNat true false (.plain n.toNat) = false then refused
      else s.takeReq ⟨.guest g, .read pa.toNat n.toNat⟩
    | .write pa d ps =>
      if s.guestMay g pa.toNat d.length false true (.plain d.length) = false then refused
      else s.takeReq ⟨.guest g, .write pa.toNat (d.map some) (ps.map (plainPa pa.toNat / 8 + ·))⟩
    | .atomic pa fn wide ops =>
      if s.guestMay g pa.toNat 8 true true .atomic = false then refused
      else s.takeReq ⟨.guest g, .atomic pa.toNat fn wide ops⟩)) ∧
  (∀ (q : HeldReq) (s : State), s.takeReq q =
    if s.reqBusy q.act = true ∨ (∃ x ∈ s.tu.reqs, s.reqPath x.src = s.reqPath q.src) then
      { s with tu := { s.tu with reqs := s.tu.reqs ++ [q] } }
    else s.performReq q) ∧
  (∀ s : State, s.retryReqs = s.tu.reqs.foldl (fun t q => t.takeReq q) { s with tu := { s.tu with reqs := [] } }) ∧
  (∀ (pa n : Nat) (bs : List (Option Byte)) (ps : List Nat) (fn : AtomFn) (wide : Bool)
    (ops : List (BitVec 64 × BitVec 64)) (s : State),
    s.reqBusy (.read pa n) = s.physBusy pa n ∧ s.reqBusy (.write pa bs ps) = s.physBusy pa bs.length ∧
    s.reqBusy (.atomic pa fn wide ops) = s.atomBusy pa (if wide then 8 else 4)) ∧
  (∀ (g pa n : Nat) (s : State), s.performReq ⟨.guest g, .read pa n⟩ =
    (s.physRead pa n).2.2.send { kind := .mem, dst := 56 + g, bytes := (s.physRead pa n).1
                                 args := [1, 0] ++ (s.physRead pa n).2.1.map (· - plainPa pa / 8) }) ∧
  (∀ (g pa : Nat) (bs : List (Option Byte)) (ps : List Nat) (s : State), s.performReq ⟨.guest g, .write pa bs ps⟩ =
    (s.physWrite pa bs ps).send { kind := .mem, dst := 56 + g, args := [1, 0], bytes := [] }) ∧
  (∀ (g pa : Nat) (fn : AtomFn) (wide : Bool) (ops : List (BitVec 64 × BitVec 64)) (s : State),
    s.performReq ⟨.guest g, .atomic pa fn wide ops⟩ =
      let x := s.atomicAt pa fn wide ops
      (x.2.2.consume (56 + g) x.2.1).send { kind := .mem, dst := 56 + g, args := [1, 0] ++ x.2.1.map (· - plainPa pa / 8)
                                            bytes := x.1.flatMap (toBytes (if wide then 8 else 4)) }) ∧
  (∀ (rid pa n : Nat) (wanted : Bool) (s : State), s.performReq ⟨.host rid wanted, .read pa n⟩ =
    let r := s.physRead pa n
    let t := r.2.2.consume 48 r.2.1
    if wanted then (t.epSent r.2.1.length).completion rid Cpl.SC (!r.2.1.isEmpty) r.1 else t) ∧
  (∀ (rid pa : Nat) (wanted : Bool) (bs : List (Option Byte)) (ps : List Nat) (s : State),
    s.performReq ⟨.host rid wanted, .write pa bs ps⟩ = s.physWrite pa bs ps) ∧
  (∀ (rid pa : Nat) (wanted : Bool) (fn : AtomFn) (wide : Bool) (ops : List (BitVec 64 × BitVec 64)) (s : State),
    s.performReq ⟨.host rid wanted, .atomic pa fn wide ops⟩ =
      let r := s.atomicAt pa fn wide ops
      let t := r.2.2.consume 48 r.2.1
      if wanted then (t.epSent r.2.1.length).completion rid Cpl.SC (!r.2.1.isEmpty)
        (r.1.flatMap (toBytes (if wide then 8 else 4))) else t) ∧
  (∀ (off : BitVec 40) (n : BitVec 13) (rid : BitVec 16) (s : State), exec (.bar4Read off n rid) s = .next (
    if s.barOn = false then s
    else if s.ridOk rid.toNat = false then (s.ridRefused false off.toNat).completion rid.toNat Cpl.CA false []
    else
      match s.bar4Reach off.toNat (.plain n.toNat) false with
      | none => (s.refuseHost false false off.toNat).completion rid.toNat Cpl.CA false []
      | some pa =>
        s.takeReq ⟨.host rid.toNat true, .read pa n.toNat⟩)) ∧
  (∀ (off : BitVec 40) (d : List (BitVec 8)) (be : List Bool) (ep : Bool) (rid : BitVec 16) (s : State),
    exec (.bar4Write off d be ep rid) s = .next (
      if s.barOn = false then s
      else if s.ridOk rid.toNat = false then s.ridRefused true off.toNat
      else
        match s.bar4Reach off.toNat (.plain d.length) true with
        | none => s.refuseHost false true off.toNat
        | some pa =>
          if d.length = 0 then s
          else
            let t := if ep then (s.bump C.PX_CNT_EP_RECEIVED 1).setFld F.PX_STICKY_EP_RECEIVED 1 else s
            let target := match t.bar4Hint off.toNat with
              | some h => if pa < poolTop then 0x800000000000 + h * 2 ^ 40 + pa else pa
              | none => pa
            let bs := (d.zip (be ++ List.replicate d.length false)).map fun x => if x.2 then some x.1 else none
            let words := (List.range ((pa + d.length - 1) / 8 - pa / 8 + 1)).map (pa / 8 + ·)
            t.takeReq ⟨.host rid.toNat true, .write target bs (if ep then words else [])⟩)) ∧
  (∀ (off : BitVec 40) (wide : Bool) (v : BitVec 64) (rid : BitVec 16) (s : State),
    exec (.bar4Fetchadd off wide v rid) s = .next (s.hostAtomic off.toNat rid.toNat .add wide v 0) ∧
    exec (.bar4Swap off wide v rid) s = .next (s.hostAtomic off.toNat rid.toNat .swap wide v 0)) ∧
  (∀ (off : BitVec 40) (cmp v : BitVec 128) (rid : BitVec 16) (s : State),
    exec (.bar4Cas off .w64 cmp v rid) s =
      .next (s.hostAtomic off.toNat rid.toNat .cas true (v.truncate 64) (cmp.truncate 64)) ∧
    exec (.bar4Cas off .w32 cmp v rid) s =
      .next (s.hostAtomic off.toNat rid.toNat .cas false (v.truncate 64) (cmp.truncate 64)) ∧
    exec (.bar4Cas off .w128 cmp v rid) s =
      .next (if s.barOn then s.completion rid.toNat Cpl.UR false [] else s)) ∧
  (∀ (off rid : Nat) (fn : AtomFn) (wide : Bool) (v cmp : BitVec 64) (s : State), s.hostAtomic off rid fn wide v cmp =
    if s.barOn = false then s
    else if s.ridOk rid = false then (s.ridRefused true off).completion rid Cpl.CA false []
    else
      match s.bar4Reach off .atomic true with
      | none => (s.refuseHost false true off).completion rid Cpl.CA false []
      | some pa =>
        if off % (if wide then 8 else 4) ≠ 0 then s.completion rid Cpl.UR false []
        else s.takeReq ⟨.host rid true, .atomic pa fn wide [(v, cmp)]⟩) ∧
  (∀ (write : Bool) (a : BitVec 26) (n : BitVec 13) (s : State), exec (.bar0BadAccess write a n) s = .next (
    if s.barOn = false ∨ ((n.toNat = 4 ∨ n.toNat = 8) ∧ a.toNat % n.toNat = 0) then s
    else if write then s.setFld F.PX_STICKY_ACCESS_REFUSED 1
    else (s.setFld F.PX_STICKY_ACCESS_REFUSED 1).completion 0 Cpl.UR false []))

/-- O32. The link comes up with its rate and width where it is down, cast-on is past its first step and no loop-back
runs on it; a retrain of a link that is up counts and shows them. A host-side reset has its one shared effect,
the link going down but at a function level reset. A BAR4 size of 34 to 40 is chosen while memory decode is off,
and takes effect when it is enabled. Bus mastering, D3hot and D0 are noted, and with the first and the last
waiting records and messages go out, as messages do where a vector or the function is unmasked. A host read that
times out completes its COPY, a PREFETCH or ADVISE that waits for it, or a flush with HOST_ERROR, and makes a
command fetch late. A flush read completes its command with the status that waits, or with HOST_ERROR. The
oldest lost completion is popped. Where the conditions do not hold, nothing changes. The model's choices here:
log entries 77, 97, 98 and 128. -/
def Obligations.HostLinkEventsTakeEffect : Prop :=
  (∀ (speed : BitVec 3) (width : BitVec 6) (s : State), exec (.hostLinkUp speed width) s = .next (
    if s.fld F.PX_STATUS_DL_UP = 0 ∧ s.fld F.MC_STATUS_STATE ≠ 0 ∧ s.fld F.PX_LOOP_BUSY = 0 then
      s.showLink speed.toNat width.toNat else s)) ∧
  (∀ (speed : BitVec 3) (width : BitVec 6) (s : State), exec (.linkRetrain speed width) s = .next (
    if s.fld F.PX_STATUS_DL_UP = 1 then (s.bump C.PX_CNT_RETRAINS 1).showLink speed.toNat width.toNat else s)) ∧
  (∀ (c : HostResetCause) (s : State), exec (.hostSideReset c) s = .next (s.hostReset (decide (c ≠ .flr)))) ∧
  (∀ (n : BitVec 6) (s : State), exec (.resizableBarWrite n) s = .next (
    if s.px.memOn = false ∧ 34 ≤ n.toNat ∧ n.toNat ≤ 40 then { s with px := { s.px with barChosen := some n.toNat } } else s)) ∧
  (∀ s : State, exec .memoryDecodeEnable s = .next (
    let t := match s.px.barChosen with
      | some n => s.setFld F.PX_STATUS_BAR4_LOG2 n
      | none => s
    { t with px := { t.px with memOn := true, barChosen := none } })) ∧
  (∀ s : State, exec .busMasterEnable s = .next ({ s with px := { s.px with bme := true } } : State).hostGo) ∧
  (∀ s : State, exec .d3hotEntry s = .next { s with px := { s.px with d3hot := true } }) ∧
  (∀ s : State, exec .d0Return s = .next ({ s with px := { s.px with d3hot := false } } : State).hostGo) ∧
  (∀ s : State, exec (.msixUnmask none) s =
    .next (State.satDrain 4 ({ s with px := { s.px with funcMask := false } } : State).sendPending)) ∧
  (∀ (v : BitVec 11) (s : State), exec (.msixUnmask (some v)) s = .next (State.satDrain 4
    (s.setFld (F.MSIX_VECTOR_CONTROL v.toNat) (s.fld (F.MSIX_VECTOR_CONTROL v.toNat) / 2 * 2)).sendPending)) ∧
  (∀ (qid : BitVec 20) (idx : BitVec 24) (s : State) (c : QCmd),
    (s.queue qid.toNat).cmds.find? (fun c => c.idx = idx.toNat) = some c →
    exec (.completionTimeout qid idx) s = .next (
      let failed := s.setFld F.PX_STICKY_HOST_ERROR 1
      match c.run with
      | .copying _ _ (some _) _ => failed.complete qid.toNat c St.HOST_ERROR 0 0
      | .moving a moved skipped first last true => failed.moverEnd qid.toNat c ⟨a, moved, skipped, first, last⟩ St.HOST_ERROR
      | .flushing _ => if s.movesHost qid.toNat idx.toNat then failed.complete qid.toNat c St.HOST_ERROR 0 0 else s
      | _ => s)) ∧
  (∀ (qid : BitVec 20) (idx : BitVec 24) (s : State),
    (s.queue qid.toNat).cmds.find? (fun c => c.idx = idx.toNat) = none →
    exec (.completionTimeout qid idx) s = .next (
      if s.fetching qid.toNat = true ∧ (s.queue qid.toNat).head = idx.toNat ∧ (s.queue qid.toNat).loc = false then
        s.setQueue qid.toNat { s.queue qid.toNat with late := some s.now }
      else s)) ∧
  (∀ (qid : BitVec 20) (idx : BitVec 24) (ok : Bool) (s : State) (c : QCmd) (st : Nat),
    (s.queue qid.toNat).cmds.find? (fun c => c.idx = idx.toNat) = some c → c.run = .flushing st →
    exec (.flushReadDone qid idx ok) s = .next (
      if s.movesHost qid.toNat idx.toNat = false then s
      else if ok then s.complete qid.toNat c st 0 0
      else (s.setFld F.PX_STICKY_HOST_ERROR 1).complete qid.toNat c St.HOST_ERROR 0 0)) ∧
  (∀ (s : State) (e : Nat) (es : List Nat), s.qe.lost = e :: es →
    exec .pxLostPop s = .next ({ s with qe := { s.qe with lost := es } } : State).showLost) ∧
  (∀ s : State, s.qe.lost = [] → exec .pxLostPop s = .next s)

/-- O33. REMOTE_REQUEST finds an asker of that access with more of it waiting than on its way. Without an ACTIVE lot
for the ASID the access is refused; with one, and with at most 4,096 frames outstanding and room in the flow for
its frames, they are launched under a new identity; else nothing changes, nor where no asker is found. A READ,
WRITE, ATOMIC or response frame is counted and put through the checks of R439 in order, the first that fails
dropping it with its count; past them its ACK_SEQ is taken, and a frame in its flow's order (or the first of a
new flow, under 16,384 flows held) is delivered: a request is served, a response completes its request, and
where serving has to wait nothing at all changes; a duplicate is answered with ACK, a late frame with NAK unless
one went less than a quarter of RTO before; another changes nothing more. ACK is checked and taken; NAK too, and
where it names the oldest kept frame the flow is resent at once. ACK_TIMER sends ACK where a delivery has been
unanswered for 2 µs. RETRANSMIT_TIMEOUT resends a flow whose oldest frame has waited its time, up to eight
times, from the third on the next rail that is up; FLOW_LOST, after the ninth wait, frees the flow, counts, and
raises FABRIC_FLOW_LOST. FLOW_IDLE_FREE frees the sending state that keeps no frame and the receiving state,
each without traffic for 1 ms. The model's choices here: log entries 82, 83 and 84. -/
def Obligations.FabricFramesTakeEffect : Prop :=
  (∀ (r : RemoteReq) (s : State) (here : List (Nat × Nat × MemReq)),
    here = s.tu.wants.filter (fun x => x.1 = r.ask && x.2.2 = r.req) →
    (∀ x : Nat × Nat × MemReq,
      here.find? (fun x => (s.flights x.1 x.2.1 x.2.2).length < (here.filter (· = x)).length) = some x →
      (s.lotOf (r.ask / 65536 % 4096) = none → exec (.remoteRequest r) s = .next (s.remoteRefused x.1 x.2.1 x.2.2)) ∧
      (∀ lot : Nat, s.lotOf (r.ask / 65536 % 4096) = some lot → exec (.remoteRequest r) s = .next (
        if s.fabric.out.length + (reqFrames r.req).length ≤ 4096 ∧
            s.flowRoom (flowKey (reqAddr r.req / 2 ^ 48) lot) (reqFrames r.req).length = true then
          State.launchFrames x.1 x.2.1 x.2.2 (reqAddr r.req / 2 ^ 48) lot s.takeFree.1 (reqFrames r.req) s.takeFree.2
        else s))) ∧
    (here.find? (fun x => (s.flights x.1 x.2.1 x.2.2).length < (here.filter (· = x)).length) = none →
      exec (.remoteRequest r) s = .next s)) ∧
  TakesFrames Fr.READ .fabricRead State.serveRead ∧
  TakesFrames Fr.WRITE .fabricWrite State.serveWrite ∧
  TakesFrames Fr.ATOMIC .fabricAtomic State.serveAtomic ∧
  TakesFrames Fr.READ_RSP .fabricReadRsp (fun f s => s.takeResponse f) ∧
  TakesFrames Fr.WRITE_RSP .fabricWriteRsp (fun f s => s.takeResponse f) ∧
  TakesFrames Fr.ATOMIC_RSP .fabricAtomicRsp (fun f s => s.takeResponse f) ∧
  ChecksFrames Fr.ACK .fabricAck (fun _ _ u => u) ∧
  ChecksFrames Fr.NAK .fabricNak (fun f _ u =>
    let h := f.header.toNat
    match u.txFlow (flowKey (hf h 63 48) (hf h 31 16)) with
    | none => u
    | some x =>
      match x.kept with
      | [] => u
      | k :: _ => if k.seq = hf h 119 96 then u.resend (hf h 63 48) (hf h 31 16) x 0 false else u) ∧
  (∀ (node lot : BitVec 16) (s : State),
    (∀ (r : RxFlow) (t : Nat), s.rxFlow (flowKey node.toNat lot.toNat) = some r → r.owed = some t →
      exec (.ackTimer node lot) s = .next (if t + 2000 ≤ s.now then s.sendAck node.toNat lot.toNat Fr.ACK else s)) ∧
    ((∀ r : RxFlow, s.rxFlow (flowKey node.toNat lot.toNat) = some r → r.owed = none) →
      exec (.ackTimer node lot) s = .next s)) ∧
  (∀ (node lot : BitVec 16) (s : State),
    (∀ (f : TxFlow) (k : Kept) (ks : List Kept), s.txFlow (flowKey node.toNat lot.toNat) = some f → f.kept = k :: ks →
      exec (.retransmitTimeout node lot) s = .next (
        if k.resends < 8 ∧ k.at' + s.rtoWait (k.resends + 1) ≤ s.now then
          s.resend node.toNat lot.toNat
            { f with rail := if 2 ≤ k.resends then (s.railFrom (f.rail + 1)).getD f.rail else f.rail } 0 true
        else s) ∧
      exec (.flowLost node lot) s = .next (
        if k.resends = 8 ∧ k.at' + s.rtoWait 9 ≤ s.now then
          (((s.freeFlow node.toNat lot.toNat true).bump C.FB_CNT_FLOWS_LOST 1).setFld F.FB_STICKY_FLOW_LOST 1).raise
            Ev.FABRIC_FLOW_LOST { d1 := node.toNat, d2 := lot.toNat }
        else s)) ∧
    ((∀ f : TxFlow, s.txFlow (flowKey node.toNat lot.toNat) = some f → f.kept = []) →
      exec (.retransmitTimeout node lot) s = .next s ∧ exec (.flowLost node lot) s = .next s)) ∧
  (∀ (node lot : BitVec 16) (s t : State) (key : Nat), key = flowKey node.toNat lot.toNat →
    t = (if ∃ f, s.txFlow key = some f ∧ f.kept = [] ∧ f.used + 1000000 ≤ s.now then s.setTxFlow key none else s) →
    (∀ r : RxFlow, t.rxFlow key = some r →
      exec (.flowIdleFree node lot) s = .next (if r.used + 1000000 ≤ t.now then t.setRxFlow key none else t)) ∧
    (t.rxFlow key = none → exec (.flowIdleFree node lot) s = .next t))

/-- O34. A port that is up goes down: its state, the clock, its count, FABRIC_PORT_DOWN with D1; the loss joins
those of the last 60 s, from the eighth of the port it is reported, and where no port carries time holdover
begins; one in training that was not isolated comes up. LOT_ADD and LOT_BINDOFF do nothing while one waits.
LOT_ADD of a free entry other than 0 with a LOT other than 0, LOT and ASID held by no other entry, and a Row two
or more on makes the entry PENDING and waits for the Row; LOT_BINDOFF of an entry PENDING or ACTIVE with such a
Row waits for it; else REJECT is set. A QUIET entry at count 2 is freed; one that drains or is quiet is freed by
force from its 64th edge, with BINDOFF_FORCED. A Sync is counted and shown; within 100 ns it adds to the good
ones, else they start anew; within 1 µs it becomes the slew, else hall time steps; with sixteen good ones hall
time locks. A message from another grandmaster changes the identity, and, were one known, counts and begins
holdover; PTP_HOLDOVER begins holdover. With 1PPS enabled, an edge beyond 10 µs is counted as ignored, another
is noted and shown PRESENT, locked its offset is shown, in holdover time moves by at most 20 ns; its loss clears
PRESENT and raises PPS_LOST. A read of the low half latches the high half. Where the conditions do not hold,
nothing changes. The model's choices here: log entries 86, 87, 88, 89 and 128. -/
def Obligations.PortsLotsAndHallTime : Prop :=
  (∀ (p : Fin 4) (s : State), s.portUp p = false → exec (.fabricPortDown p) s = .next s) ∧
  (∀ (p : Fin 4) (s t u : State) (flaps : List (Nat × Nat)), s.portUp p = true →
    t = ((s.setFld (F.FB_PORT_STATE p) 1).showClock.bump (C.FB_PCNT_LINK_DOWNS p) 1).raise Ev.FABRIC_PORT_DOWN { d1 := p } →
    flaps = (t.recovery.flaps.filter fun x => t.now < x.2 + 60000000000) ++ [(p.val, t.now)] →
    u = { t with recovery := { t.recovery with flaps := flaps } } →
    exec (.fabricPortDown p) s = .next (
      let v := if 8 ≤ (flaps.filter fun x => x.1 = p.val).length then u.sendFaultRpt 4 p 0x30 else u
      if v.clockPort = none then v.holdover else v)) ∧
  (∀ (p : Fin 4) (s : State), exec (.fabricPortUp p) s = .next (
    if s.fld (F.FB_PORT_STATE p) = 1 ∧ s.recovery.portsOff.contains p.val = false then
      (s.setFld (F.FB_PORT_STATE p) 2).showClock
    else s)) ∧
  (∀ (k : BitVec 6) (row : BitVec 48) (s : State), s.fabric.lotCmd ≠ none →
    exec (.lotAdd k row) s = .next s ∧ exec (.lotBindoff k row) s = .next s) ∧
  (∀ (k : BitVec 6) (row : BitVec 48) (s : State) (ok : Prop), s.fabric.lotCmd = none →
    (ok ↔ k ≠ 0 ∧ s.fld (F.FB_LOT_STATE k.toNat) = 0 ∧ s.fld F.FB_LOT_ARG_LOT ≠ 0 ∧
      (∀ j < 64, j ≠ 0 → j ≠ k.toNat → s.fld (F.FB_LOT_STATE j) ≠ 0 →
        s.fld (F.FB_LOT_LOT j) ≠ s.fld F.FB_LOT_ARG_LOT ∧ s.fld (F.FB_LOT_ASID j) ≠ s.fld F.FB_LOT_ARG_ASID) ∧
      s.rowYoke.row + 2 ≤ row.toNat) →
    (ok → exec (.lotAdd k row) s = .next
      ((s.setFlds [(F.FB_LOT_LOT k.toNat, s.fld F.FB_LOT_ARG_LOT), (F.FB_LOT_ASID k.toNat, s.fld F.FB_LOT_ARG_ASID),
        (F.FB_LOT_STATE k.toNat, 1), (F.FB_LOT_SINCE k.toNat, 0), (F.FB_LOT_QUIET k.toNat, 0)]).setLotCmd
        (some (true, k.toNat, row.toNat)))) ∧
    (¬ ok → exec (.lotAdd k row) s = .next (s.setFld F.FB_LOT_STATUS_REJECT 1)) ∧
    exec (.lotBindoff k row) s = .next (
      if k ≠ 0 ∧ (s.fld (F.FB_LOT_STATE k.toNat) = 1 ∨ s.fld (F.FB_LOT_STATE k.toNat) = 2) ∧ s.rowYoke.row + 2 ≤ row.toNat then
        s.setLotCmd (some (false, k.toNat, row.toNat))
      else s.setFld F.FB_LOT_STATUS_REJECT 1)) ∧
  (∀ (k : Fin 64) (s : State), exec (.lotRemoved k) s = .next (
    if s.fld (F.FB_LOT_STATE k) = 4 ∧ s.fld (F.FB_LOT_QUIET k) = 2 then s.lotFree k false else s)) ∧
  (∀ (k : Fin 64) (s : State), exec (.bindoffForced k) s = .next (
    if (s.fld (F.FB_LOT_STATE k) = 3 ∨ s.fld (F.FB_LOT_STATE k) = 4) ∧ 64 ≤ Sparse.get 0 s.fabric.since k then
      ((s.setFld F.FB_STICKY_BINDOFF_FORCED 1).raise Ev.BINDOFF_FORCED
        { d1 := s.fld (F.FB_LOT_LOT k) }).lotFree k true
    else s)) ∧
  (∀ (o : Int) (s t u : State) (good : Nat),
    t = (s.bump C.TS_CNT_SYNC_RX 1).setFld F.TS_OFFSET_OFFSET (offset32 o) →
    good = (if -100 ≤ o ∧ o ≤ 100 then min 16 (t.hall.good + 1) else 0) →
    u = (if -1000 ≤ o ∧ o ≤ 1000 then { t with hall := { t.hall with good := good, slew := -o } }
      else ({ t with hall := { t.hall with good := good, slew := 0 } } : State).stepTime (-o)) →
    exec (.ptpSync o) s = .next (if good = 16 ∧ u.fld F.TS_STATUS_LOCKED = 0 then u.lock else u)) ∧
  (∀ (gm : BitVec 64) (s : State), exec (.ptpMessage gm) s = .next (
    if gm.toNat = s.fld F.TS_GM_CLOCK_ID then s
    else if s.fld F.TS_GM_CLOCK_ID = 0 then s.setFld F.TS_GM_CLOCK_ID gm.toNat
    else ((s.setFld F.TS_GM_CLOCK_ID gm.toNat).bump C.TS_CNT_GM_CHANGES 1).holdover)) ∧
  (∀ s : State, exec .ptpHoldover s = .next s.holdover) ∧
  (∀ (o : Int) (s : State), s.fld F.FB_XPORT_PPS_EN ≠ 1 → exec (.ppsEdge o) s = .next s ∧ exec .ppsLost s = .next s) ∧
  (∀ (o : Int) (s t : State), s.fld F.FB_XPORT_PPS_EN = 1 →
    t = ({ s with hall := { s.hall with pps := some s.now } } : State).setFld F.TS_STATUS_PPS_PRESENT 1 →
    exec (.ppsEdge o) s = .next (
      if o < -10000 ∨ 10000 < o then s.bump C.TS_CNT_PPS_IGNORED 1
      else if t.fld F.TS_STATUS_LOCKED = 1 then t.setFld F.TS_PPS_OFFSET_PPS (offset32 o)
      else if t.fld F.TS_STATUS_HOLDOVER = 1 then { t with now := ((t.now : Int) + clampInt (-o) (-20) 20).toNat }
      else t) ∧
    exec .ppsLost s = .next (if s.ppsGone then (s.setFld F.TS_STATUS_PPS_PRESENT 0).raise Ev.PPS_LOST {} else s)) ∧
  (∀ s : State, exec .tsTimeLoRead s = .next (s.setFld F.TS_TIME_HI_TIME (s.now / 2 ^ 32)))

/-- O35. A hart that runs and is not dead does its instruction where the fetch of its bytes is there; where the
fetch waits it asks again, where it faults it takes that exception, where it meets poison a hardware error; its
timer sets STIP and VSTIP where time has reached stimecmp, and, with htimedelta, vstimecmp. A hart that does not
run does neither. In reset an MCTP message is dropped; else a control message that sets the endpoint ID sets it,
another is answered with a free byte; without an endpoint ID every other message is dropped; with one, PLDM is
dispatched by its type and command, a vendor message of Maelnurdo's becomes a mailbox command, another is
dropped. The PLDM commands, the endpoint ID and a sensor's sample each take their own shared operation.
GET_INFO, READ_SENSOR and READ_TELEMETRY run in their channel's order, and complete with BAD_COMMAND where the
present state does not serve them. The model's choices here: log entries 101 to 107 and 125. -/
def Obligations.NodeCoresAndManagementAnswer : Prop :=
  (∀ (h : Fin 32) (a : BitVec 64) (c : Bool) (i : HartAct) (s : State), s.hartRuns h.val = false →
    exec (.nodeCoreInstruction h a c i) s = .next s ∧ exec (.nodeCoreTimer h) s = .next s) ∧
  (∀ (h : Fin 32) (a : BitVec 64) (c : Bool) (i : HartAct) (s t : State) (x : Hart) (len : Nat), s.hartRuns h.val = true →
    x = s.hart h.val → len = (if c then 2 else 4) →
    (s.hartFetch h.val x a.toNat len = (.ok, t) →
      exec (.nodeCoreInstruction h a c i) s = .next (t.hartDo h.val x len i)) ∧
    (∀ ls : List Nat, s.hartFetch h.val x a.toNat len = (.wait ls, t) → exec (.nodeCoreInstruction h a c i) s =
      .next (t.setHart h.val { x with missed := x.missed ++ ls.filter fun l => !x.missed.contains l })) ∧
    (∀ n : Nat, s.hartFetch h.val x a.toNat len = (.fault n, t) →
      exec (.nodeCoreInstruction h a c i) s = .next (t.hartFault h.val x n x.pc)) ∧
    (∀ ws : List Nat, s.hartFetch h.val x a.toNat len = (.poison ws, t) →
      exec (.nodeCoreInstruction h a c i) s = .next (t.hartError h.val x ws x.pc))) ∧
  (∀ (h : Fin 32) (s : State) (x : Hart) (mip : Nat), s.hartRuns h.val = true → x = s.hart h.val →
    mip = (if x.csr 0x14D ≤ s.hartTime then setBits (x.csr 0x344) 5 5 1 else x.csr 0x344) →
    exec (.nodeCoreTimer h) s = .next (s.setHart h.val (x.setCsr 0x344
      (if x.csr 0x24D ≤ (s.hartTime + x.csr 0x605) % 2 ^ 64 then setBits mip 6 6 1 else mip)))) ∧
  (∀ (b : Binding) (ty : BitVec 8) (ours : Bool) (data : List (BitVec 8)) (s : State),
    (s.fld F.MC_STATUS_STATE = 0 → exec (.mctpMessage b ty ours data) s = .next s) ∧
    (s.fld F.MC_STATUS_STATE ≠ 0 → (data.getD 1 0).toNat = 1 →
      exec (.mctpMessage b 0x00 ours data) s = .next (s.setEid (bindingNat b) (data.getD 3 0).toNat)) ∧
    (s.fld F.MC_STATUS_STATE ≠ 0 → (data.getD 1 0).toNat ≠ 1 → exec (.mctpMessage b 0x00 ours data) s =
      .next ((s.freeBytes 1).2.mctp (bindingNat b) [0, (data.getD 1 0).toNat] (s.freeBytes 1).1)) ∧
    (s.fld F.MC_STATUS_STATE ≠ 0 → s.fld (eidFld (bindingNat b)) = 0 → ty ≠ 0x00 →
      exec (.mctpMessage b ty ours data) s = .next s) ∧
    (s.fld F.MC_STATUS_STATE ≠ 0 → s.fld (eidFld (bindingNat b)) ≠ 0 →
      exec (.mctpMessage b 0x01 ours data) s =
        .next (s.pldmMessage b ((data.getD 1 0).toNat % 64) (data.getD 2 0).toNat (data.drop 3)) ∧
      exec (.mctpMessage b 0x7E true data) s = .next (s.mctpJob b data) ∧
      exec (.mctpMessage b 0x7E false data) s = .next s ∧
      (ty ≠ 0x00 → ty ≠ 0x01 → ty ≠ 0x7E → exec (.mctpMessage b ty ours data) s = .next s))) ∧
  (∀ (b : Binding) (e : BitVec 8) (s : State), exec (.setEndpointId b e) s = .next (s.setEid (bindingNat b) e.toNat)) ∧
  (∀ (b : Binding) (cmd : BitVec 8) (id : BitVec 16) (s : State),
    exec (.pldmDiscovery b cmd) s = .next (s.pldmAnswer (bindingNat b) 0 cmd.toNat) ∧
    exec (.pldmPlatform b cmd id) s = .next (s.pldmSensor (bindingNat b) cmd.toNat id.toNat) ∧
    exec (.pldmFru b cmd) s = .next (s.pldmFru (bindingNat b) cmd.toNat) ∧
    exec (.requestUpdate b) s = .next (s.pldmRequest b) ∧ exec (.activateFirmware b) s = .next (s.pldmActivate b)) ∧
  (∀ (b : Binding) (id : BitVec 16) (n : BitVec 32) (data : List (BitVec 8)) (s : State),
    exec (.updateComponent b id n) s = .next (s.pldmComponent b id.toNat n.toNat) ∧
    exec (.requestFirmwareData b n data) s = .next (s.pldmData b n.toNat data)) ∧
  (∀ (id : BitVec 8) (v : BitVec 32) (s : State), exec (.sensorSample id v) s = .next (s.sampleSensor id.toNat v.toInt)) ∧
  MailboxRuns 0x01 .getInfo (fun ch _ s => s.info ch) ∧
  MailboxRuns 0x02 .readSensor (fun ch j s => s.readSensor ch (j.byte 0)) ∧
  MailboxRuns 0x03 .readTelemetry (fun ch _ s => s.telemetry ch)

/-- O36. A command of the mailbox runs where it is at the head of the order and on its channel, the module past
reset; there it completes with BAD_COMMAND where the present state does not serve it, and else does as follows;
elsewhere it changes nothing. SLOT_INFO gives slot 0 to 3's sixteen words; SLOT_BEGIN, SLOT_END and SLOT_ERASE
begin, end and erase slot 1 to 3 (an erase during an update: BUSY); SET_MIN_SVN of slot 0 or 1 to a value its
rule allows sets it (during an update: BUSY), and FW_SET_MIN_SVN that of the firmware; each else completes with
BAD_COMMAND. SLOT_DATA, FW_BEGIN, FW_DATA, FW_END, REPATTERN, GET_SWATCH, READ_SWATCH, ENROLL_OWNER_KEY,
KEY_STAGE, GET_CHALLENGE, GET_IDENTITY and NC_RELEASE take their shared operation on the request's fields. RESET
completes, and its reset falls due 1 ms later; the command of the other type leaves it waiting. A session
without a command for 60 s is dropped, and the PLDM update with it, else SESSION_TIMEOUT changes nothing;
CHALLENGE_EXPIRY takes its shared operation. The model's choices here: log entries 104, 108, 109 and 111. -/
def Obligations.PatternAndSecurityCommandsRun : Prop :=
  (MailboxRuns 0x10 .slotInfo fun ch j s => if j.byte 0 ≤ 3 then
      s.mboxDone ch St.OK ((List.range 16).flatMap fun i => toBytes 4 (s.reg (0x10200 + 0x40 * j.byte 0 + 4 * i)))
    else s.mboxDone ch St.BAD_COMMAND []) ∧
  (MailboxRuns 0x11 .slotBegin fun ch j s => if 1 ≤ j.byte 0 ∧ j.byte 0 ≤ 3 then s.beginCmd ch (j.byte 0) (j.num 4 4)
    else s.mboxDone ch St.BAD_COMMAND []) ∧
  (MailboxRuns 0x12 .slotData fun ch j s =>
    s.dataCmd ch false (j.num 0 4) (j.num 4 2) (toBytes (j.num 4 2) (j.num 8 (j.num 4 2)))) ∧
  (MailboxRuns 0x13 .slotEnd fun ch j s => if 1 ≤ j.byte 0 ∧ j.byte 0 ≤ 3 then s.endCmd ch (j.byte 0)
    else s.mboxDone ch St.BAD_COMMAND []) ∧
  (MailboxRuns 0x14 .repattern fun ch j s => s.repattern ch (j.byte 0)) ∧
  (MailboxRuns 0x15 .slotErase fun ch j s => if ¬ (1 ≤ j.byte 0 ∧ j.byte 0 ≤ 3) then s.mboxDone ch St.BAD_COMMAND []
    else if s.updating then s.mboxDone ch St.BUSY []
    else ({ s with flash := flashErase s.flash (slotBase (j.byte 0)) 65536 }.showSlot (j.byte 0)).mboxDone ch St.OK []) ∧
  (MailboxRuns 0x16 .setMinSvn fun ch j s => if 1 < j.byte 0 then s.mboxDone ch St.BAD_COMMAND []
    else if s.updating then s.mboxDone ch St.BUSY []
    else if svnOk (s.minSvn (j.byte 0)) (j.num 4 4) (s.slotSvns (j.byte 0)) then
      (s.onMc fun m => if j.byte 0 = 0 then { m with minSvn0 := j.num 4 4 } else { m with minSvn1 := j.num 4 4 }).mboxDone ch St.OK []
    else s.mboxDone ch St.BAD_COMMAND []) ∧
  (∀ s : State,
    (∀ x : Session, s.mc.session = some x → exec .sessionTimeout s = .next (if x.last + 60000000000 ≤ s.now then
      (s.onMc fun m => { m with pldm := none }).setSession none else s)) ∧
    (s.mc.session = none → exec .sessionTimeout s = .next s)) ∧
  (MailboxRuns 0x20 .getSwatch fun ch j s => s.swatch ch (toBytes 32 (j.num 0 32))) ∧
  (MailboxRuns 0x21 .readSwatch fun ch j s => s.readBytes ch s.mc.report (j.num 0 4) (j.num 4 2)) ∧
  (MailboxRuns 0x22 .fwBegin fun ch j s => s.beginCmd ch 0 (j.num 4 4)) ∧
  (MailboxRuns 0x23 .fwData fun ch j s =>
    s.dataCmd ch true (j.num 0 4) (j.num 4 2) (toBytes (j.num 4 2) (j.num 8 (j.num 4 2)))) ∧
  (MailboxRuns 0x24 .fwEnd fun ch _ s => s.endCmd ch 0) ∧
  (MailboxRuns 0x25 .enrollOwnerKey fun ch j s => s.enroll ch (toBytes 60 (j.num 0 60)) (j.num 60 2)) ∧
  (MailboxRuns 0x26 .keyStage fun ch j s =>
    s.stageKey ch (j.num 0 4) (j.num 4 2) (toBytes (j.num 4 2) (j.num 8 (j.num 4 2)))) ∧
  (MailboxRuns 0x27 .getChallenge fun ch _ s => s.newChallenge ch) ∧
  (∀ s : State, exec .challengeExpiry s = .next s.expireChallenge) ∧
  (MailboxRuns 0x28 .fwSetMinSvn fun ch j s => if s.updating then s.mboxDone ch St.BUSY []
    else if svnOk s.mc.fwMinSvn (j.num 4 4)
      (if headerOk s.flash 0 fwSize firmwareMagic then [imgNat s.flash 0 20 4] else []) then
      (s.onMc fun m => { m with fwMinSvn := j.num 4 4 }).mboxDone ch St.OK []
    else s.mboxDone ch St.BAD_COMMAND []) ∧
  (MailboxRuns 0x29 .getIdentity fun ch j s => s.readBytes ch s.identity (j.num 0 4) (j.num 4 2)) ∧
  (MailboxRuns 0x2A .ncRelease fun ch j s => s.ncRelease ch (j.num 0 4) (j.num 8 8) (j.num 16 8)) ∧
  (MailboxRuns 0x2B .resetCold fun ch j s => if j.byte 0 = 0 then
      (s.onMc fun m => { m with resetAt := some (s.now + 1000000, false) }).mboxDone ch St.OK [] else s) ∧
  (MailboxRuns 0x2B .resetWarm fun ch j s => if j.byte 0 = 1 then
      (s.onMc fun m => { m with resetAt := some (s.now + 1000000, true) }).mboxDone ch St.OK [] else s)

/-- O37. 1 ms after the instant cast-on counts from, the module held by nothing, the contacts are sampled and
cast-on's steps run with what they meet; a step from 1 to 5 whose budget is over ends as the report says
(lateness named for that very step is over) and it and the later ones run. Without lock in step 6's budget the
Rows run free: cast-on in step 6 is ready, else a re-pattern that waits ends. The watchdog of a module that
nothing holds and whose cast-on began resets warm with cause 7. COLD_RST_N's level is kept; with the supply
good, no trip and the level new, its assertion resets cold with cause 2, and its release begins cast-on's count
anew; WARM_RST_N's likewise, its assertion resetting warm with cause 5 unless COLD_RST_N is asserted. 48 V good,
without a trip, starts a cold cast-on's count; its loss turns the rails off and resets cold with cause 1; a
thermal trip of a supplied module turns them off, latches and resets cold with cause 0; TRIP_CLEAR ends the
latch and both alert contacts. Where the conditions do not hold, nothing changes. The model's choices here: log
entry 115. -/
def Obligations.CastOnAndResetsRun : Prop :=
  (∀ (sel : BitVec 2) (r : CastOnReport) (s : State), exec (.mcLeaveReset sel r) s = .next (
    if s.unheld = true ∧ s.mc.cast.begun = false ∧ s.mc.cast.at' + 1000000 ≤ s.now then
      State.castSteps r [1, 2, 3, 4, 5, 6] ((s.onCast fun c => { c with begun := true }).setFlds
        [(F.PT_STATUS_SEL, sel.toNat), (F.MC_BOARD_SEL_LIVE, sel.toNat)])
    else s)) ∧
  (∀ (r : CastOnReport) (s : State) (k : Nat), k = s.fld F.MC_CASTON_STEP →
    (s.mc.cast.begun = true ∧ s.casting = true ∧ 1 ≤ k ∧ k ≤ 5 ∧ s.mc.cast.since + stepBudget k ≤ s.now →
      exec (.stepBudgetExpiry r) s = .next (State.castSteps
        { r with late := if r.late.map BitVec.toNat = some k then none else r.late }
        (([1, 2, 3, 4, 5, 6] : List Nat).filter fun j => k ≤ j) s)) ∧
    (¬ (s.mc.cast.begun = true ∧ s.casting = true ∧ 1 ≤ k ∧ k ≤ 5 ∧ s.mc.cast.since + stepBudget k ≤ s.now) →
      exec (.stepBudgetExpiry r) s = .next s)) ∧
  (∀ s : State, exec .lockTimeout s = .next (
    if s.now < s.mc.cast.since + 1500000000 then s
    else if s.fld F.MC_STATUS_STATE = 1 ∧ s.fld F.MC_CASTON_STEP = 6 then s.unaligned.castReady
    else if s.fld F.PT_STATUS_STATE = 3 then s.unaligned.repatternEnd
    else s)) ∧
  (∀ s : State, exec .watchdog s = .next (if s.unheld = true ∧ s.mc.cast.begun = true then s.warmReset 7 else s)) ∧
  (∀ (level : Bool) (s t : State), t = (s.onBoard fun b => { b with cold := level }) →
    exec (.coldRstN level) s = .next (
      if s.board.good = false ∨ s.board.trip = true ∨ level = s.board.cold then t
      else if level = true then t.coldReset 2
      else t.onCast fun _ => castAt s.now false)) ∧
  (∀ (level : Bool) (s t : State), t = (s.onBoard fun b => { b with warm := level }) →
    exec (.warmRstN level) s = .next (
      if s.board.good = false ∨ s.board.trip = true ∨ level = s.board.warm then t
      else if level = true then (if s.board.cold = true then t else t.warmReset 5)
      else t.onCast fun c => castAt s.now c.warm)) ∧
  (∀ s : State, exec .powerGood s = .next (
    if s.board.good = true ∨ s.board.trip = true then s
    else (s.onBoard fun b => { b with good := true, goodAt := s.now }).onCast fun _ => castAt s.now false)) ∧
  (∀ s : State, exec .powerFail s = .next (if s.board.good = true then s.railsOff.coldReset 1 else s)) ∧
  (∀ s : State, exec .thermalTrip s = .next (
    if s.board.good = true ∧ s.board.trip = false then (s.railsOff.onBoard fun b => { b with trip := true }).coldReset 0
    else s)) ∧
  (∀ s : State, exec .tripClear s = .next (
    if s.board.trip = true then (s.onBoard fun b => { b with trip := false }).setFlds
      [(F.MC_BOARD_FATAL_OUT, 0), (F.MC_BOARD_THERM_OUT, 0)]
    else s))

/-- O38. With the supply good, a guard sample joins the last ten; ten of a mean above 104 A hold the clocks, a hold
ends 10 µs after the mean first lay below 98 A, and MC_BOARD shows it. The loss of the reference in use is
raised; its return is shown, and the warm OCXO 300 s after 48 V good. TAP_RESET selects IDCODE; IDCODE selects
itself and sends out its word, BYPASS itself, SAMPLE_PRELOAD loads the boundary register; EXTEST, CLAMP,
EXTEST_PULSE and EXTEST_TRAIN drive the contacts and HIGHZ floats them where WARM_RST_N is asserted, and act as
BYPASS elsewhere, as DEBUG does while its hook is closed. Without the supply a sample, the reference's return,
the OCXO and the TAP's instructions change nothing. A contact of a group without a cell, or whose cell only
observes, or that the module does not drive, is the module's own under every instruction, and so is every one
while WARM_RST_N is not asserted; another floats, is its own, or carries its cell, with the test signal at an
AC-coupled lane under EXTEST_PULSE and EXTEST_TRAIN. The model's choices here: log entries 24, 115 and 116. -/
def Obligations.BoardAndTapTakeEffect : Prop :=
  (∀ (ma : BitVec 18) (s : State), s.board.good = false →
    exec (.currentGuardSample ma) s = .next s ∧ exec .trefInUse s = .next s ∧ exec .ocxoWarm s = .next s) ∧
  (∀ (ma : BitVec 18) (s t : State) (xs : List Nat) (below : Option Nat) (clamp : Bool), s.board.good = true →
    xs = (ma.toNat :: s.board.samples).take 10 →
    below = (if xs.length = 10 ∧ xs.sum < 980000 then some (s.board.below.getD s.now) else none) →
    (clamp = true ↔ (xs.length = 10 ∧ 1040000 < xs.sum) ∨
      (s.rowYoke.clamp = true ∧ ¬ ∃ a, below = some a ∧ a + 10000 ≤ s.now)) →
    t = s.onBoard (fun b => { b with samples := xs, below := below }) →
    exec (.currentGuardSample ma) s = .next (
      let u := ({ t with rowYoke := { t.rowYoke with clamp := clamp } } : State).setFld F.MC_BOARD_CLAMP (flag clamp)
      if clamp = true then u.holdClocks else u)) ∧
  (∀ s : State, exec .trefLost s = .next (
    if s.fld F.MC_BOARD_TREF_OK = 1 then (s.setFld F.MC_BOARD_TREF_OK 0).raise Ev.TREF_LOST {} else s)) ∧
  (∀ s : State, s.board.good = true → exec .trefInUse s = .next (s.setFld F.MC_BOARD_TREF_OK 1) ∧
    exec .ocxoWarm s = .next (if s.board.goodAt + 300000000000 ≤ s.now then s.setFld F.MC_BOARD_OCXO_WARM 1 else s)) ∧
  (∀ (cells : BitVec 1872) (s : State), s.board.good = false → ∀ i ∈ ([.tapReset, .idcode, .bypass, .samplePreload cells,
    .extest, .clamp, .highz, .extestPulse, .extestTrain, .debug] : List Instr), exec i s = .next s) ∧
  (∀ s : State, s.board.good = true →
    exec .tapReset s = .next (s.onBoard fun b => { b with tap := .idcode, driven := false, floating := false }) ∧
    exec .idcode s = .next ((s.onBoard fun b => { b with tap := .idcode, driven := false, floating := false }).send
      { kind := .readData, dst := 2, args := [idcodeWord], bytes := [] }) ∧
    exec .bypass s = .next (s.onBoard fun b => { b with tap := .bypass, driven := false, floating := false }) ∧
    (∀ cells : BitVec 1872, exec (.samplePreload cells) s = .next (s.onBoard fun b =>
      { b with tap := .samplePreload, driven := false, floating := false, cells := cells })) ∧
    (s.board.warm = true →
      exec .extest s = .next (s.onBoard fun b => { b with tap := .extest, driven := true, floating := false }) ∧
      exec .clamp s = .next (s.onBoard fun b => { b with tap := .clamp, driven := true, floating := false }) ∧
      exec .highz s = .next (s.onBoard fun b => { b with tap := .highz, driven := false, floating := true }) ∧
      exec .extestPulse s = .next (s.onBoard fun b => { b with tap := .extestPulse, driven := true, floating := false }) ∧
      exec .extestTrain s = .next (s.onBoard fun b => { b with tap := .extestTrain, driven := true, floating := false })) ∧
    (s.board.warm = false → ∀ i ∈ ([.extest, .clamp, .highz, .extestPulse, .extestTrain] : List Instr),
      exec i s = .next (s.onBoard fun b => { b with tap := .bypass, driven := false, floating := false })) ∧
    (s.hook 3 = true →
      exec .debug s = .next (s.onBoard fun b => { b with tap := .debug, driven := false, floating := false })) ∧
    (s.hook 3 = false →
      exec .debug s = .next (s.onBoard fun b => { b with tap := .bypass, driven := false, floating := false }))) ∧
  (∀ (b : Board) (c : Contact),
    (b.warm = false ∨ c.group.coverage = .none ∨ c.group.coverage = .observe ∨ c.group.drives = false → b.pad c = .own) ∧
    (b.warm = true → c.group.coverage = .ac ∨ c.group.coverage = .dc → c.group.drives = true →
      (b.floating = true → b.pad c = .floats) ∧ (b.floating = false → b.driven = false → b.pad c = .own) ∧
      (b.floating = false → b.driven = true → b.pad c =
        if c.group.coverage = .ac ∧ (b.tap = .extestPulse ∨ b.tap = .extestTrain) then .pulse (b.cellAt c)
        else .cell (b.cellAt c))))

/-- O39. With hook 0 open, RELEASE in the hold stops the runs, retrains the seams looped back, and cast-on goes on
at step 5, the time held not counted; ENTER at ready of a pseudo-channel that is out or fenced and not being
evacuated puts it into test; LEAVE of one in test that is out or fenced ends its generator's run and takes it
out; else either is REFUSED, the PC field kept. With hook 4 open and no self-test running, a START names its
motif, and starts it for a motif in the hold, or a SPARE or MEM_ONLY one at ready; with the hook closed or one
running nothing changes. A running self-test's end shows its result; a SPARE that fails is noted as failed, its
new position is issued for the Row that changes take, and, were it dropped, routes too. LOOPBACK_START is a
write of a START to its control block. A running loop-back that has not locked locks, and the instant is kept;
with hook 2 open it ends by its stop, with what the checkers counted where it had locked; locked and with a
duration it ends with the counts, DURATION_MS after LOCK; not locked 10 ms after its START, every bit counts in
error, and every lane where there were bits. Elsewhere nothing changes. The model's choices here: log entries
117 and 118. -/
def Obligations.TestFacilitiesTakeEffect : Prop :=
  (∀ s t : State, t = s.stopRuns.mc.cast.looped.foldl State.retrain s.stopRuns →
    exec .mcTestRelease s = .next (
      if s.fld F.MC_TEST_CTL_IN_HOLD = 1 ∧ s.hook 0 = true then
        State.castSteps goodReport [5, 6] ((t.onCast fun c => { c with
          held := c.held + (t.now - c.heldAt.getD t.now), heldAt := none, looped := [] }).setFld F.MC_TEST_CTL_IN_HOLD 0)
      else s)) ∧
  (∀ (pc : BitVec 10) (s : State), s.hook 0 = false → exec (.hbTestEnter pc) s = .next s ∧ exec (.hbTestLeave pc) s = .next s) ∧
  (∀ (pc : BitVec 10) (s t : State), s.hook 0 = true → t = s.setFld F.HB_TEST_SEL_PC pc.toNat →
    exec (.hbTestEnter pc) s = .next (
      if t.fld F.MC_STATUS_STATE = 2 ∧ (t.pcBit F.HB_PC_OUT_OUT pc.toNat = true ∨ t.pcBit F.HB_PC_FENCED_FENCED pc.toNat = true) ∧
          (t.memMap.evac.map (fun u => u.members.contains pc.toNat)).getD false = false then
        t.setFld (F.HB_PC_TEST_TEST (pc.toNat / 64)) (t.fld (F.HB_PC_TEST_TEST (pc.toNat / 64)) ||| 2 ^ (pc.toNat % 64))
      else t.setFld F.HB_TEST_SEL_REFUSED 1)) ∧
  (∀ (pc : BitVec 10) (s t u : State) (k p : Nat), s.hook 0 = true → t = s.setFld F.HB_TEST_SEL_PC pc.toNat →
    k = pc.toNat / 64 → p = pc.toNat % 64 →
    u = (if t.fld (F.HB_TGEN_BUSY k p) = 1 then t.setFlds [(F.HB_TGEN_BUSY k p, 0), (F.HB_TGEN_DONE k p, 1)] else t) →
    exec (.hbTestLeave pc) s = .next (
      if t.pcBit F.HB_PC_TEST_TEST pc.toNat = true ∧
          (t.pcBit F.HB_PC_OUT_OUT pc.toNat = true ∨ t.pcBit F.HB_PC_FENCED_FENCED pc.toNat = true) then
        u.setFld (F.HB_PC_TEST_TEST k) (u.fld (F.HB_PC_TEST_TEST k) &&& (2 ^ 64 - 1 - 2 ^ p))
      else t.setFld F.HB_TEST_SEL_REFUSED 1)) ∧
  (∀ (m : BitVec 6) (s : State), exec (.mcBistStart m) s = .next (
    if s.hook 4 = false ∨ s.fld F.MC_BIST_BUSY ≠ 0 then s
    else if m.toNat < 48 ∧ (s.fld F.MC_TEST_CTL_IN_HOLD = 1 ∨
        (s.fld F.MC_STATUS_STATE = 2 ∧ (s.pos m.toNat = 2 ∨ s.pos m.toNat = 3))) then
      s.setFlds [(F.MC_BIST_MOTIF, m.toNat), (F.MC_BIST_BUSY, 1)]
    else s.setFld F.MC_BIST_MOTIF m.toNat)) ∧
  (∀ (n : BitVec 3) (s : State), s.fld F.MC_BIST_BUSY ≠ 1 → exec (.mcBistDone n) s = .next s) ∧
  (∀ (n : BitVec 3) (s t u : State) (m code : Nat), s.fld F.MC_BIST_BUSY = 1 → m = s.fld F.MC_BIST_MOTIF →
    t = s.setFlds [(F.MC_BIST_BUSY, 0), (F.MC_BIST_DONE, 1), (F.MC_BIST_PASS, flag (decide (n = 0))),
      (F.MC_BIST_FAIL_UNIT, n.toNat)] → code = t.failedState m →
    u = { t with recovery := { t.recovery with darns := (t.recovery.darns.filter fun x => x.1 ≠ m) ++ [(m, code)] } } →
    exec (.mcBistDone n) s = .next (
      if n ≠ 0 ∧ t.pos m = 2 then
        let v := u.issueAll u.namedRow (.pos m code)
        if code = 5 then v.reroute v.namedRow [m] else v
      else t)) ∧
  (∀ (b : LoopBlock) (v : BitVec 32) (s : State),
    exec (.loopbackStart b v) s = .next (s.loopStart b (setBits v.toNat 31 31 1))) ∧
  (∀ (b : LoopBlock) (n e l : BitVec 64) (s : State), exec (.loopbackStop b n e l) s = .next (
    if s.hook 2 = true ∧ s.fld (Loop.BUSY b) = 1 then
      (if s.fld (Loop.LOCK b) = 1 then s.loopCount b n.toNat e.toNat l.toNat else s).loopEnd b
    else s)) ∧
  (∀ (b : LoopBlock) (s : State), exec (.loopbackLock b) s = .next (
    if s.fld (Loop.BUSY b) = 1 ∧ s.fld (Loop.LOCK b) = 0 then
      (s.setFld (Loop.LOCK b) 1).loopNow b
    else s)) ∧
  (∀ (b : LoopBlock) (s : State),
    s.loopNow b = { s with mc := { s.mc with loops := Sparse.set 0 s.mc.loops (loopBase b) s.now } }) ∧
  (∀ (b : LoopBlock) (n : BitVec 64) (s : State), exec (.loopbackLockTimeout b n) s = .next (
    if s.fld (Loop.BUSY b) = 1 ∧ s.fld (Loop.LOCK b) = 0 ∧ Sparse.get 0 s.mc.loops (loopBase b) + 10000000 ≤ s.now then
      (s.loopCount b n.toNat n.toNat (if n.toNat = 0 then 0 else s.loopLanes b)).loopEnd b
    else s)) ∧
  (∀ (b : LoopBlock) (n e l : BitVec 64) (s : State), exec (.loopbackDurationEnd b n e l) s = .next (
    if s.fld (Loop.BUSY b) = 1 ∧ s.fld (Loop.LOCK b) = 1 ∧ s.fld (Loop.DURATION_MS b) ≠ 0 ∧
      Sparse.get 0 s.mc.loops (loopBase b) + s.fld (Loop.DURATION_MS b) * 1000000 ≤ s.now then
      (s.loopCount b n.toNat e.toNat l.toNat).loopEnd b
    else s))

/-- O40. ec and eu of a stitch are the ceilings of its estimates times its class's scales in RW_SCALEc ÷ 256: each
is at most n exactly when the product is at most 256 × n. The admission test fits() answers true only where ec
and eu are within the remaining allowances of the stitch's pool. -/
def Obligations.ScaledEstimatesAreCeilings : Prop :=
  ∀ (s : State) (m : Nat) (x : Stitch),
    (∀ n, s.ecOf m x ≤ n ↔ x.estCyc * s.fld (F.RW_SCALE_CYC_SCALE m x.cls) ≤ 256 * n) ∧
    (∀ n, s.euOf m x ≤ n ↔ x.estUj * s.fld (F.RW_SCALE_EN_SCALE m x.cls) ≤ 256 * n) ∧
    (s.fits m x = true → (s.ecOf m x : Int) ≤ Sparse.get 0 (s.sched m).remCyc (poolKey x.cls) ∧
      (s.euOf m x : Int) ≤ Sparse.get 0 (s.sched m).remUj (poolKey x.cls))

/-- O41. From 48 V good, IDCODE sends out a word that reads version 0x1 in [31:28], part 0x4816 in [27:12], the
manufacturer code (free) in [11:1] and 1 in [0], and no higher bit. -/
def Obligations.IdcodeReadsItsFields : Prop :=
  ∀ s : State, s.board.good = true → ∃ t w, exec .idcode s = .next t ∧
    t.sent = s.sent ++ [{ kind := .readData, dst := 2, args := [w], bytes := [] }] ∧ t.board.tap = .idcode ∧
    bits w 31 28 = 1 ∧ bits w 27 12 = 0x4816 ∧ bits w 11 1 = Config.jep106.toNat ∧ bits w 0 0 = 1 ∧ w < 2 ^ 32

/-- O42. While MEM_INJECT is closed, HB_INJECT_ARM changes nothing, HB_INJECT reads 0, and a word stored takes no
flip. While it is open and armed, a word stored at a home flips exactly the bits that BIT_A, BIT_B and BIT_C
name below 80, each once however many fields name it; values from 80 to 255 name none. -/
def Obligations.InjectionFlipsNamedBitsOnce : Prop :=
  (∀ (k : Stack) (v : BitVec 32) (s : State), s.hook 1 = false → exec (.hbInjectArm k v) s = .next s) ∧
  (∀ (k : Stack) (r : RegRow) (s : State), s.hook 1 = false → s.readWhole r (F.HB_INJECT_ARM k.val).addr = 0) ∧
  (∀ (s : State) (w : Nat) (bs : List (Option Byte)), bs.all Option.isNone = false → s.hook 1 = false →
    Sparse.get 0 (s.storeWord w bs).flips w = 0) ∧
  (∀ (s : State) (w : Nat) (bs : List (Option Byte)) (i : Nat), bs.all Option.isNone = false → s.hook 1 = true →
    s.fld (F.HB_INJECT_ARM (s.pcAt (w * 8) / 64)) = 1 → i < 80 →
      ((Sparse.get 0 (s.storeWord w bs).flips w).getLsbD i = true ↔
        i = s.fld (F.HB_INJECT_BIT_A (s.pcAt (w * 8) / 64)) ∨ i = s.fld (F.HB_INJECT_BIT_B (s.pcAt (w * 8) / 64)) ∨
          i = s.fld (F.HB_INJECT_BIT_C (s.pcAt (w * 8) / 64))))

/-- O43. Where closed streams hold no cells, OPEN, APPEND, READ, MARK, REWIND and RETRACT leave every stream its
cells, in order; only APPEND adds cells, behind those held. An APPEND that completes takes only the cells its
last slot needs beyond those the stream holds, so that cells a RETRACT left beyond the tail are filled first. -/
def Obligations.SkeinCellsAreFreedOnlyByReleaseAndClose : Prop :=
  (∀ (s : State) (d asid k : Nat), (∀ j, (s.stream j).st = .closed → (s.stream j).cells = []) →
    0x40 ≤ skOp d → skOp d ≤ 0x46 → skOp d ≠ 0x45 →
      ∃ new, ((s.skRun d asid).2.stream k).cells = (s.stream k).cells ++ new ∧ (skOp d ≠ 0x41 → new = [])) ∧
  (∀ (s : State) (d : Nat), (s.skAppend d).1.status = St.OK → ∃ new,
    ((s.skAppend d).2.stream (skStream d)).cells = (s.stream (skStream d)).cells ++ new ∧
      new.length = ((s.stream (skStream d)).tail + skN d - 1) / (s.stream (skStream d)).tpc + 1 - (s.stream (skStream d)).past)

/-- O44. For every state in which each stream has REL ≤ MARK ≤ RD ≤ TAIL ≤ LIMIT, every stream operation, completed
or failed, of every stream and under every ASID, leaves that true of each stream; the positions of the streams
that it does not name stay as they are. -/
def Obligations.StreamPositionsStayInOrder : Prop :=
  ∀ (s : State) (d asid : Nat), (∀ k, Ordered (s.stream k)) →
    (∀ k, Ordered ((s.skRun d asid).2.stream k)) ∧
    (∀ k, k ≠ skStream d → (s.skRun d asid).2.stream k = s.stream k)

/-- O45. Adding n to a 64-bit counter leaves the smaller of the sum and 2^64 − 1 in it; an addition of n > 0 that
reaches or passes the maximum sets the counter's OVF bit; a smaller one, or n = 0, changes no other register; no
register but the counter and its OVF register changes. -/
def Obligations.CountersSaturateAndLatch : Prop :=
  ∀ (s : State) (c : Cnt) (n : Nat), c.addr ≠ c.ovf → c.bit < 64 →
    (s.bumpQuiet c n).cnt c = min (s.cnt c + n) cntMax ∧
    (0 < n → cntMax ≤ s.cnt c + n → (((s.bumpQuiet c n).reg c.ovf).testBit c.bit = true)) ∧
    (s.cnt c + n < cntMax → (s.bumpQuiet c n).reg c.ovf = s.reg c.ovf) ∧
    (∀ a, a ≠ c.addr → a ≠ c.ovf → (s.bumpQuiet c n).reg a = s.reg a)

/-- O46. For 24-bit indices c (consumer), w (next entry to be written) and n (new consumer index), n is accepted
exactly when it is c plus some count of entries, modulo 2^24, no greater than the entries waiting from c to w.
An EV_RING_CI write that is not accepted leaves the index and sets CI_DROPPED; the fault ring's likewise. -/
def Obligations.RingIndexStaysBetween : Prop :=
  (∀ c w n : Nat, c < 2 ^ 24 → w < 2 ^ 24 → n < 2 ^ 24 →
    (ciAccepted c w n = true ↔ ∃ j, j ≤ idxSub w c ∧ n = (c + j) % 2 ^ 24)) ∧
  (∀ (v : BitVec 32) (s : State), ciAccepted (s.fld F.EV_RING_CI_CI) (s.fld F.EV_RING_PI_PI) (bits v.toNat 23 0) = false →
    exec (.evRingCiWrite v) s = .next (s.setFld F.EV_STICKY_CI_DROPPED 1)) ∧
  (∀ (v : BitVec 32) (s : State), ciAccepted (s.fld F.TU_FRING_CI_CI) (s.fld F.TU_FRING_PI_PI) (bits v.toNat 23 0) = false →
    exec (.tuFringCiWrite v) s = .next (s.setFld F.TU_STICKY_CI_DROPPED 1))

/-- O47. Under every salt, for every 256 KiB-aligned block of physical addresses and every pseudo-channel, exactly
one of the block's 1,024 granules of 256 bytes lies on that pseudo-channel; every byte of a granule lies on the
granule's. -/
def Obligations.InterleaveSpreadsEveryBlock : Prop :=
  ∀ (salt block : Nat),
    (∀ pc, pc < 1024 → ∃ i, i < 1024 ∧ pcOf (block * 2 ^ 18 + i * 256) salt = pc ∧
      ∀ j, j < 1024 → pcOf (block * 2 ^ 18 + j * 256) salt = pc → j = i) ∧
    (∀ i b, i < 1024 → b < 256 → pcOf (block * 2 ^ 18 + i * 256 + b) salt = pcOf (block * 2 ^ 18 + i * 256) salt)

/-- O48. Bytes written to a memory read back from the same address; every byte outside them reads as before; the
canonical form is kept. The same of a motif's local memory by its reads and writes, and a write to one motif's
memory leaves every other motif's. -/
def Obligations.MemoryReadsBack : Prop :=
  (∀ (m : List Host.Cell) (a : Nat) (bs : List Byte),
    memRead (memWrite m a bs) a bs.length = bs ∧
    (∀ b, b < a ∨ a + bs.length ≤ b → Sparse.get 0 (memWrite m a bs) b = Sparse.get 0 m b) ∧
    (Memory.wf m = true → Memory.wf (memWrite m a bs) = true)) ∧
  (∀ (s : State) (m a : Nat) (bs : List Byte),
    (s.localWrite m a bs).localRead m a bs.length = bs ∧
    (∀ b, b < a ∨ a + bs.length ≤ b → (s.localWrite m a bs).localRead m b 1 = s.localRead m b 1) ∧
    (∀ j, j ≠ m → (s.localWrite m a bs).localMem j = s.localMem j))

/-- O49. What a write leaves in a register, by the access codes of its fields: on a written bit lane, the RW and RWS
bits are the value's; RW1C bits are cleared by 1 and unchanged by 0; every other bit, and every bit outside the
lanes written, is as before. A read returns the bits of RO, RW, RW1C and RWS fields and 0 in every other, RSV
and WO fields among them; until cast-on completes, 0 in the fields that the Pattern gives. A register closed by
its hook reads 0. Cast-on is complete at step 7 (R518). -/
def Obligations.RegistersReadBackByAccessCode : Prop :=
  (∀ (fs : List RegField) (old v lanes i : Nat), i < 64 → old < 2 ^ 64 →
    (writeBits fs old v lanes).testBit i =
      if lanes.testBit i && (fieldMask [.rw1c] fs).testBit i && v.testBit i then false
      else if lanes.testBit i && (fieldMask [.rw, .rws] fs).testBit i then v.testBit i
      else old.testBit i) ∧
  (∀ (s : State) (r : RegRow) (a i : Nat), i < 64 → s.hidden a = false →
    (s.readWhole r a).testBit i = ((s.castDone || !(patternBits a).testBit i) && (s.shown a).testBit i &&
      (fieldMask [.ro, .rw, .rw1c, .rws] r.fields).testBit i)) ∧
  (∀ (s : State) (r : RegRow) (a : Nat), s.hidden a = true → s.readWhole r a = 0)

/-- O50. m ÷ 2^d rounded is an integer q with |2^d × q − m| at most half of 2^d, and where it is exactly half, q is
even. -/
def Obligations.RoundingIsNearestEven : Prop :=
  ∀ m d : Nat, let q := rneShift m (d + 1)
    2 ^ (d + 1) * q ≤ m + 2 ^ d ∧ m ≤ 2 ^ (d + 1) * q + 2 ^ d ∧
      ((2 ^ (d + 1) * q = m + 2 ^ d ∨ m = 2 ^ (d + 1) * q + 2 ^ d) → q % 2 = 0)

/-- O51. For each of the nine floating formats and every code of it that is no NaN, the value it stands for, rounded
into the same format under either overflow rule, gives that code again and counts nothing. A NaN gives the
canonical NaN where the format has one. -/
def Obligations.FormatsRoundTrip : Prop :=
  ∀ (c : Nat) (f : Fmt), fmtOf c = some f → ∀ (ovf : Bool) (code : Nat), code < 2 * f.signBit →
    (f.decode code ≠ .nan → f.round ovf (f.decode code) = (code, .none)) ∧
    (f.decode code = .nan → f.round ovf (f.decode code) = (f.nanCode, .none) ∧ f.decode f.nanCode = .nan)

/-- O52. After a die takes TLB_INV of a queued invalidation, no leaf and no walk step that it matches stands in the
die's translation cache, nor any such leaf in the micro-TLBs of the die's agents; a lookup of an address under
the ASID finds none for scope ASID; entries that do not match, and the other dies' caches, stand. -/
def Obligations.InvalidationLeavesNoMatch : Prop :=
  ∀ (die : Mesh) (seq : BitVec 16) (s : State) (v : Inval), s.tu.invals.find? (fun v => v.seq = seq.toNat) = some v →
    ∃ t, exec (.tlbInv die seq) s = .next t ∧
      (∀ l ∈ (t.tlb die.val).leaves, v.leaf l = false) ∧ (∀ x ∈ (t.tlb die.val).steps, v.step x = false) ∧
      (∀ x ∈ t.tu.micro, x.1 % 64 = die.val → ∀ l ∈ x.2, v.leaf l = false) ∧
      (∀ l ∈ (s.tlb die.val).leaves, v.leaf l = false → l ∈ (t.tlb die.val).leaves) ∧
      (∀ d, d ≠ die.val → t.tlb d = s.tlb d) ∧
      (v.scope = 2 → ∀ va, findLeaf (t.tlb die.val).leaves v.asid va = none)

/-- O53. Raising one event adds 1 to the sequence number, modulo 2^32, and 1 to EV_CNT.RAISED up to its maximum;
below MIN_SEV and not FATAL it is counted in BELOW_SEV and neither written nor held; no other event is numbered
by it. -/
def Obligations.EventsAreNumberedAndCounted : Prop :=
  ∀ (s : State) (e : EvKind) (d : Detail),
    (s.raiseOne e d).ev.seq = (s.ev.seq + 1) % 2 ^ 32 ∧
    (e.sev < s.fld F.EV_RING_CTL_MIN_SEV → e.sev ≠ 3 →
      (s.raiseOne e d).ev.held = s.ev.held ∧ (s.raiseOne e d).mem = s.mem ∧
      (s.raiseOne e d).reg F.EV_CNT_RAISED.addr = min (s.reg F.EV_CNT_RAISED.addr + 1) cntMax ∧
      (s.raiseOne e d).reg F.EV_CNT_BELOW_SEV.addr = min (s.reg F.EV_CNT_BELOW_SEV.addr + 1) cntMax)

/-- O54. A message due on a vector that is not routed to a node core, below MSIX_COUNT and masked or held back by
the link, sets the vector's pending bit and sends nothing; on a vector at or above MSIX_COUNT nothing happens. -/
def Obligations.MaskedVectorsWait : Prop :=
  (∀ (s : State) (v : Nat), s.fld (F.NC_VROUTE_EN v) ≠ 1 → v < s.px.msixCount → (s.msiMasked v || s.msiBlocked) = true →
    s.msiDue v = s.setFld (pbaFld v) 1 ∧ (s.msiDue v).sent = s.sent) ∧
  (∀ (s : State) (v : Nat), s.fld (F.NC_VROUTE_EN v) ≠ 1 → s.px.msixCount ≤ v → s.msiDue v = s)

/-- O55. Each command named changes at most the fields of State written after it, and every other field (the queue,
every other register file, memory, buffer and unit) stands as before; an event a command raises may write the
event ring, its messages and counters, which are then named. -/
def Obligations.EngineCommandsChangeOnly : Prop :=
  (let only : Instr → Prop := fun c => Changes c fun s t => { s with
        regs := t.regs, mem := t.mem, poison := t.poison, flips := t.flips, arrays := t.arrays, resv := t.resv,
        agents := t.agents, homes := t.homes, stackCtl := t.stackCtl, guests := t.guests, net := t.net, tu := t.tu,
        ev := t.ev, sent := t.sent, qe := t.qe, imsic := t.imsic, free := t.free };
    (∀ (m : Motif), only (.mma m)) ∧ (∀ (m : Motif), only (.chunkPromotion m)) ∧ (∀ (m : Motif), only (.zero m)) ∧ (∀ (m :
    Motif), only (.promote m)) ∧ (∀ (m : Motif), only (.restore m))) ∧
  (let only : Instr → Prop := fun c => Changes c fun s t => { s with
        regs := t.regs, mem := t.mem, poison := t.poison, flips := t.flips, locals := t.locals, arrays := t.arrays,
        resv := t.resv, agents := t.agents, homes := t.homes, stackCtl := t.stackCtl, guests := t.guests, net := t.net,
        tu := t.tu, ev := t.ev, sent := t.sent, qe := t.qe, imsic := t.imsic, free := t.free };
    (∀ (m : Motif), only (.drain m)) ∧ (∀ (m : Motif), only (.save m)) ∧ (∀ (m : Motif), only (.saveCounterAdd m)) ∧ (∀ (m
    : Motif) (u : ArrayUnit), only (.arrayDescDone m u))) ∧
  (let only : Instr → Prop := fun c => Changes c fun s t => { s with
        regs := t.regs, arrays := t.arrays, sent := t.sent };
    (∀ (m : Motif) (set : Fin 4) (v : BitVec 32), only (.mxAccstateWrite m set v))) ∧
  (let only : Instr → Prop := fun c => Changes c fun s t => { s with
        regs := t.regs, mem := t.mem, poison := t.poison, flips := t.flips, locals := t.locals, arrays := t.arrays,
        vecs := t.vecs, resv := t.resv, agents := t.agents, homes := t.homes, stackCtl := t.stackCtl,
        guests := t.guests, net := t.net, tu := t.tu, ev := t.ev, sent := t.sent, qe := t.qe, imsic := t.imsic,
        free := t.free };
    (∀ (m : Motif), only (.map m)) ∧ (∀ (m : Motif), only (.reduce m)) ∧ (∀ (m : Motif), only (.gather m)) ∧ (∀ (m :
    Motif), only (.shuffle m)) ∧ (∀ (m : Motif), only (.pack m)) ∧ (∀ (m : Motif), only (.unpack m)) ∧ (∀ (m : Motif),
    only (.psum m))) ∧
  (let only : Instr → Prop := fun c => Changes c fun s t => { s with
        regs := t.regs, mem := t.mem, poison := t.poison, flips := t.flips, vecs := t.vecs, resv := t.resv,
        agents := t.agents, homes := t.homes, stackCtl := t.stackCtl, guests := t.guests, net := t.net, tu := t.tu,
        ev := t.ev, sent := t.sent, qe := t.qe, imsic := t.imsic, free := t.free };
    (∀ (m : Motif), only (.psumCounterPoll m)) ∧ (∀ (m : Motif), only (.partialTimeout m))) ∧
  (let only : Instr → Prop := fun c => Changes c fun s t => { s with
        regs := t.regs, mem := t.mem, poison := t.poison, flips := t.flips, locals := t.locals, vecs := t.vecs,
        resv := t.resv, agents := t.agents, homes := t.homes, stackCtl := t.stackCtl, guests := t.guests, net := t.net,
        tu := t.tu, ev := t.ev, sent := t.sent, qe := t.qe, imsic := t.imsic, free := t.free };
    (∀ (m : Motif), only (.veDescDone m))) ∧
  (let only : Instr → Prop := fun c => Changes c fun s t => { s with
        regs := t.regs, mem := t.mem, poison := t.poison, flips := t.flips, needles := t.needles, resv := t.resv,
        agents := t.agents, homes := t.homes, stackCtl := t.stackCtl, guests := t.guests, net := t.net, tu := t.tu,
        ev := t.ev, sent := t.sent, qe := t.qe, imsic := t.imsic, free := t.free };
    (∀ (m : Motif), only (.launch m)) ∧ (∀ (m : Motif), only (.blockStart m)) ∧ (∀ (m : Motif) (g : GroupSlot), only (.vif
    m g)) ∧ (∀ (m : Motif) (g : GroupSlot), only (.velse m g)) ∧ (∀ (m : Motif) (g : GroupSlot), only (.vend m g)) ∧
    (∀ (m : Motif) (g : GroupSlot), only (.vany m g)) ∧ (∀ (m : Motif) (g : GroupSlot), only (.vall m g)) ∧ (∀ (m :
    Motif) (g : GroupSlot), only (.vballot m g)) ∧ (∀ (m : Motif) (g : GroupSlot), only (.vshfl m g)) ∧ (∀ (m : Motif)
    (g : GroupSlot), only (.vshfli m g)) ∧ (∀ (m : Motif) (g : GroupSlot), only (.vbar m g)) ∧ (∀ (m : Motif) (block :
    BitVec 32), only (.vbarRelease m block)) ∧ (∀ (m : Motif) (g : GroupSlot), only (.vcbar m g)) ∧ (∀ (m : Motif)
    (block : BitVec 32), only (.vcbarRelease m block)) ∧ (∀ (m : Motif) (g : GroupSlot), only (.vexit m g)) ∧ (∀ (m :
    Motif) (g : GroupSlot), only (.vwait m g)) ∧ (∀ (m : Motif) (g : GroupSlot), only (.vwaitRecheck m g)) ∧ (∀ (m :
    Motif) (g : GroupSlot), only (.vcvtn m g)) ∧ (∀ (m : Motif) (g : GroupSlot), only (.vcvtw m g)) ∧ (∀ (m : Motif)
    (g : GroupSlot), only (.zld m g)) ∧ (∀ (m : Motif) (g : GroupSlot), only (.zmma m g)) ∧ (∀ (m : Motif) (g :
    GroupSlot), only (.zzero m g)) ∧ (∀ (m : Motif) (g : GroupSlot), only (.needleLoad m g)) ∧ (∀ (m : Motif) (g :
    GroupSlot), only (.needleLr m g)) ∧ (∀ (m : Motif) (g : GroupSlot), only (.needleFence m g)) ∧ (∀ (m : Motif) (g :
    GroupSlot), only (.needleBranch m g)) ∧ (∀ (m : Motif) (g : GroupSlot), only (.needleCsrWrite m g)) ∧ (∀ (m :
    Motif) (g : GroupSlot), only (.needleEcall m g)) ∧ (∀ (m : Motif) (g : GroupSlot), only (.needleEbreak m g)) ∧ (∀
    (m : Motif) (g : GroupSlot), only (.needleOtherInstruction m g))) ∧
  (let only : Instr → Prop := fun c => Changes c fun s t => { s with
        regs := t.regs, mem := t.mem, poison := t.poison, flips := t.flips, locals := t.locals, needles := t.needles,
        resv := t.resv, agents := t.agents, homes := t.homes, stackCtl := t.stackCtl, guests := t.guests, net := t.net,
        tu := t.tu, ev := t.ev, sent := t.sent, qe := t.qe, imsic := t.imsic, free := t.free };
    (∀ (m : Motif), only (.launchDone m)) ∧ (∀ (m : Motif) (g : GroupSlot), only (.vcasW m g)) ∧ (∀ (m : Motif) (g :
    GroupSlot), only (.vcasD m g)) ∧ (∀ (m : Motif) (g : GroupSlot), only (.vafaddS m g)) ∧ (∀ (m : Motif) (g :
    GroupSlot), only (.needleAmo m g))) ∧
  (let only : Instr → Prop := fun c => Changes c fun s t => { s with
        regs := t.regs, mem := t.mem, poison := t.poison, flips := t.flips, arrays := t.arrays, needles := t.needles,
        resv := t.resv, agents := t.agents, homes := t.homes, stackCtl := t.stackCtl, guests := t.guests, net := t.net,
        tu := t.tu, ev := t.ev, sent := t.sent, qe := t.qe, imsic := t.imsic, free := t.free };
    (∀ (m : Motif) (g : GroupSlot), only (.vdispA m g))) ∧
  (let only : Instr → Prop := fun c => Changes c fun s t => { s with
        regs := t.regs, mem := t.mem, poison := t.poison, flips := t.flips, vecs := t.vecs, needles := t.needles,
        resv := t.resv, agents := t.agents, homes := t.homes, stackCtl := t.stackCtl, guests := t.guests, net := t.net,
        tu := t.tu, ev := t.ev, sent := t.sent, qe := t.qe, imsic := t.imsic, free := t.free };
    (∀ (m : Motif) (g : GroupSlot), only (.vdispV m g))) ∧
  (let only : Instr → Prop := fun c => Changes c fun s t => { s with
        regs := t.regs, mem := t.mem, poison := t.poison, flips := t.flips, locals := t.locals, arrays := t.arrays,
        needles := t.needles, resv := t.resv, agents := t.agents, homes := t.homes, stackCtl := t.stackCtl,
        guests := t.guests, net := t.net, tu := t.tu, ev := t.ev, sent := t.sent, qe := t.qe, imsic := t.imsic,
        free := t.free };
    (∀ (m : Motif) (g : GroupSlot), only (.zst m g)) ∧ (∀ (m : Motif) (g : GroupSlot), only (.needleStore m g)) ∧ (∀ (m :
    Motif) (g : GroupSlot), only (.needleSc m g)))

/-- O56. Each command named changes at most the fields of State written after it, and every other field (the queue,
every other register file, memory, buffer and unit) stands as before; an event a command raises may write the
event ring, its messages and counters, which are then named. -/
def Obligations.QueueAndSkeinCommandsChangeOnly : Prop :=
  (let only : Instr → Prop := fun c => Changes c fun s t => { s with
        regs := t.regs, mem := t.mem, poison := t.poison, flips := t.flips, resv := t.resv, agents := t.agents,
        homes := t.homes, stackCtl := t.stackCtl, guests := t.guests, net := t.net, tu := t.tu, ev := t.ev,
        sent := t.sent, qe := t.qe, imsic := t.imsic, free := t.free };
    (∀ (off : BitVec 26) (size : BitVec 13) (v : BitVec 64) (rid : BitVec 16), only (.hostDoorbell off size v rid)) ∧ (∀
    (off : BitVec 26) (v : BitVec 64), only (.nodeCoreDoorbell off v)) ∧ (∀ (qid : BitVec 20) (data : BitVec 4096)
    (poisoned : Bool), only (.commandFetch qid data poisoned)) ∧ (∀ (qid : BitVec 20) (data : BitVec 4096), only
    (.seqReread qid data)) ∧ only .createCq ∧ only .createSq ∧ only .stopSq ∧ (∀ (qid : BitVec 20), only (.stopSqDone
    qid)) ∧ only .deleteSq ∧ only .deleteCq ∧ only .bindSqDone ∧ (∀ (qid : BitVec 20), only (.nop qid)) ∧ (∀ (qid :
    BitVec 20), only (.stitch qid)) ∧ (∀ (qid : BitVec 20), only (.stitchDispatch qid)) ∧ (∀ (qid : BitVec 20) (idx :
    BitVec 24), only (.stitchCommandDone qid idx)) ∧ (∀ (qid : BitVec 20), only (.copy qid)) ∧ (∀ (qid : BitVec 20),
    only (.wait qid)) ∧ (∀ (qid : BitVec 20), only (.waitSatisfied qid)) ∧ (∀ (qid : BitVec 20) (data : List (BitVec
    8)) (ok : Bool), only (.prefetch qid data ok)) ∧ (∀ (qid : BitVec 20) (ok : Bool), only (.adviseEvict qid ok)) ∧
    (∀ (qid : BitVec 20), only (.adviseDrop qid)) ∧ (∀ (qid : BitVec 20), only (.adviseWarm qid)) ∧ (∀ (v : BitVec
    64), only (.qeCqDb v))) ∧
  (let only : Instr → Prop := fun c => Changes c fun s t => { s with
        sent := t.sent, qe := t.qe };
    (∀ (qid : BitVec 20), only (.fetchReissue qid))) ∧
  (let only : Instr → Prop := fun c => Changes c fun s t => { s with
        regs := t.regs, mem := t.mem, poison := t.poison, flips := t.flips, needles := t.needles, resv := t.resv,
        agents := t.agents, homes := t.homes, stackCtl := t.stackCtl, guests := t.guests, net := t.net, tu := t.tu,
        ev := t.ev, sent := t.sent, qe := t.qe, rowYoke := t.rowYoke, imsic := t.imsic, free := t.free };
    only .bindSq) ∧
  (let only : Instr → Prop := fun c => Changes c fun s t => { s with
        regs := t.regs, mem := t.mem, poison := t.poison, flips := t.flips, arrays := t.arrays, vecs := t.vecs,
        needles := t.needles, resv := t.resv, agents := t.agents, homes := t.homes, stackCtl := t.stackCtl,
        guests := t.guests, net := t.net, tu := t.tu, ev := t.ev, sent := t.sent, qe := t.qe, sk := t.sk,
        scheds := t.scheds, imsic := t.imsic, free := t.free };
    (∀ (m : Motif), only (.dlistItemIssue m))) ∧
  (let only : Instr → Prop := fun c => Changes c fun s t => { s with
        regs := t.regs, mem := t.mem, poison := t.poison, flips := t.flips, locals := t.locals, arrays := t.arrays,
        resv := t.resv, agents := t.agents, homes := t.homes, stackCtl := t.stackCtl, guests := t.guests, net := t.net,
        tu := t.tu, ev := t.ev, sent := t.sent, qe := t.qe, imsic := t.imsic, free := t.free };
    (∀ (qid : BitVec 20), only (.writeInline qid)) ∧ (∀ (qid : BitVec 20) (idx : BitVec 24) (data : List (BitVec 8))
    (outcome : HostReadOutcome), only (.hostReadCompletion qid idx data outcome)) ∧ (∀ (qid : BitVec 20), only
    (.signal qid))) ∧
  (let only : Instr → Prop := fun c => Changes c fun s t => { s with
        regs := t.regs, mem := t.mem, poison := t.poison, flips := t.flips, resv := t.resv, agents := t.agents,
        homes := t.homes, stackCtl := t.stackCtl, guests := t.guests, net := t.net, tu := t.tu, ev := t.ev,
        sent := t.sent, qe := t.qe, sk := t.sk, imsic := t.imsic, free := t.free };
    (∀ (qid : BitVec 20), only (.skein qid))) ∧
  (let only : Instr → Prop := fun c => Changes c fun s t => { s with
        regs := t.regs, qe := t.qe };
    (∀ (v : BitVec 64), only (.qeAdminSqWrite v)) ∧ (∀ (v : BitVec 64), only (.qeAdminCqWrite v))) ∧
  (let only : Instr → Prop := fun c => Changes c fun s t => { s with
        regs := t.regs, mem := t.mem, poison := t.poison, flips := t.flips, locals := t.locals, arrays := t.arrays,
        resv := t.resv, agents := t.agents, homes := t.homes, stackCtl := t.stackCtl, guests := t.guests, net := t.net,
        tu := t.tu, ev := t.ev, sent := t.sent, qe := t.qe, sk := t.sk, imsic := t.imsic, free := t.free };
    only .skeinOpen ∧ only .skeinAppend ∧ only .skeinRead ∧ only .skeinMark ∧ only .skeinRewind ∧ only .skeinRelease ∧
    only .skeinRetract ∧ only .skeinClose) ∧
  (let only : Instr → Prop := fun c => Changes c fun s t => { s with
        sk := t.sk };
    (∀ (which : PubKind) (stream : BitVec 17), only (.countPublication which stream))) ∧
  (let only : Instr → Prop := fun c => Changes c fun s t => { s with
        latches := t.latches };
    (∀ (stream : BitVec 17), only (.skCountsLoRead stream))) ∧
  (let only : Instr → Prop := fun c => Changes c fun s t => { s with
        regs := t.regs };
    only .rwRowLoRead)

/-- O57. Each command named changes at most the fields of State written after it, and every other field (the queue,
every other register file, memory, buffer and unit) stands as before; an event a command raises may write the
event ring, its messages and counters, which are then named. -/
def Obligations.MemoryCommandsChangeOnly : Prop :=
  (let only : Instr → Prop := fun c => Changes c fun s t => { s with
        regs := t.regs, mem := t.mem, poison := t.poison, flips := t.flips, resv := t.resv, agents := t.agents,
        homes := t.homes, stackCtl := t.stackCtl, guests := t.guests, uncached := t.uncached, net := t.net, tu := t.tu,
        ev := t.ev, sent := t.sent, qe := t.qe, imsic := t.imsic, free := t.free };
    (∀ (home : Stack) (q : Mesh) (line : BitVec 33), only (.rdS home q line)) ∧ (∀ (home : Stack) (q : Mesh) (line :
    BitVec 33), only (.rdX home q line)) ∧ (∀ (home : Stack) (q : Mesh) (line : BitVec 33), only (.upg home q line)) ∧
    (∀ (home : Stack) (q : Mesh) (line : BitVec 33) (data : LineData), only (.wb home q line data)) ∧ (∀ (home :
    Stack) (q : Mesh) (line : BitVec 33), only (.rdNc home q line)) ∧ (∀ (home : Stack) (q : Mesh) (line : BitVec 33)
    (data : LineData) (mask : BitVec 128) (hint : Option Mesh), only (.wrNc home q line data mask hint)) ∧ (∀ (home :
    Stack) (q : Mesh) (line : BitVec 33) (op : FarAtomic), only (.atomFar home q line op)) ∧ (∀ (q : Mesh) (line :
    BitVec 33) (st : Moesi) (data : LineData), only (.data q line st data)) ∧ (∀ (home : Stack) (line : BitVec 33),
    only (.reservationServe home line)) ∧ (∀ (q : Mesh) (line : BitVec 33) (cause : NackCause), only (.nack q line
    cause)) ∧ (∀ (q : Mesh) (line : BitVec 33), only (.reserved q line))) ∧
  (let only : Instr → Prop := fun c => Changes c fun s t => { s with
        regs := t.regs, mem := t.mem, poison := t.poison, flips := t.flips, resv := t.resv, agents := t.agents,
        homes := t.homes, stackCtl := t.stackCtl, guests := t.guests, net := t.net, tu := t.tu, ev := t.ev,
        sent := t.sent, qe := t.qe, imsic := t.imsic, free := t.free };
    (∀ (home : Stack) (q : Mesh) (line : BitVec 33), only (.cleanEvict home q line)) ∧ (∀ (home : Stack), only
    (.farAtomicExecute home)) ∧ (∀ (target : Mesh) (line : BitVec 33) (data : LineData), only (.push target line
    data)) ∧ (∀ (q : Mesh) (line : BitVec 33) (st : Moesi) (acks : BitVec 7) (data : Option LineData), only (.homeRsp
    q line st acks data)) ∧ (∀ (q : Mesh) (sharer : Mesh) (line : BitVec 33), only (.invAck q sharer line)) ∧ (∀ (home
    : Stack) (owner : Mesh) (line : BitVec 33) (data : LineData), only (.recallData home owner line data)) ∧ (∀ (home
    : Stack) (owner : Mesh) (line : BitVec 33), only (.nodata home owner line)) ∧ (∀ (src : Mesh) (vector : BitVec
    11), only (.intMessage src vector))) ∧
  (let only : Instr → Prop := fun c => Changes c fun s t => { s with
        agents := t.agents, net := t.net, sent := t.sent };
    (∀ (owner : Mesh) (q : Mesh) (line : BitVec 33), only (.fwdS owner q line)) ∧ (∀ (owner : Mesh) (q : Mesh) (line :
    BitVec 33), only (.fwdX owner q line)) ∧ (∀ (owner : Mesh) (line : BitVec 33), only (.recall owner line)) ∧ (∀
    (sharer : Mesh) (q : Mesh) (line : BitVec 33), only (.inv sharer q line))) ∧
  (let only : Instr → Prop := fun c => Changes c fun s t => { s with
        net := t.net, sent := t.sent };
    (∀ (owner : Mesh) (q : Mesh) (line : BitVec 33), only (.fwdNc owner q line))) ∧
  (let only : Instr → Prop := fun c => Changes c fun s t => { s with
        homes := t.homes, net := t.net };
    (∀ (home : Stack) (target : Mesh) (line : BitVec 33), only (.pushAck home target line)) ∧ (∀ (home : Stack) (target :
    Mesh) (line : BitVec 33), only (.pushDrop home target line)) ∧ (∀ (home : Stack) (q : Mesh) (line : BitVec 33),
    only (.done home q line))) ∧
  (let only : Instr → Prop := fun c => Changes c fun s t => { s with
        agents := t.agents, uncached := t.uncached, net := t.net, sent := t.sent };
    (∀ (q : Mesh) (line : BitVec 33), only (.nackRetry q line))) ∧
  (let only : Instr → Prop := fun c => Changes c fun s t => { s with
        agents := t.agents, net := t.net };
    (∀ (owner : Mesh) (line : BitVec 33), only (.wbAck owner line)) ∧ (∀ (q : Mesh) (line : BitVec 33) (olds : List
    (BitVec 64)) (contended poisoned : Bool), only (.atomRsp q line olds contended poisoned))) ∧
  (let only : Instr → Prop := fun c => Changes c fun s t => { s with
        uncached := t.uncached, net := t.net, sent := t.sent };
    (∀ (q : Mesh) (line : BitVec 33), only (.wrAck q line)) ∧ (∀ (q : Mesh) (line : BitVec 33) (data : LineData), only
    (.rdRsp q line data))) ∧
  (let only : Instr → Prop := fun c => Changes c fun s t => { s with
        regs := t.regs, mem := t.mem, poison := t.poison, flips := t.flips, locals := t.locals, arrays := t.arrays,
        resv := t.resv, agents := t.agents, homes := t.homes, stackCtl := t.stackCtl, guests := t.guests, net := t.net,
        tu := t.tu, ev := t.ev, sent := t.sent, qe := t.qe, imsic := t.imsic, free := t.free };
    (∀ (src : Mesh) (tag : BitVec 16) (r : MemReq), only (.memReq src tag r))) ∧
  (let only : Instr → Prop := fun c => Changes c fun s t => { s with
        net := t.net, tu := t.tu };
    (∀ (dst : Mesh) (tag : BitVec 16) (ok : Bool) (data : MemData), only (.memRsp dst tag ok data))) ∧
  (let only : Instr → Prop := fun c => Changes c fun s t => { s with
        agents := t.agents };
    (∀ (m : Motif), only (.l2PredClear m))) ∧
  (let only : Instr → Prop := fun c => Changes c fun s t => { s with
        regs := t.regs, mem := t.mem, poison := t.poison, flips := t.flips, resv := t.resv, agents := t.agents,
        homes := t.homes, stackCtl := t.stackCtl, guests := t.guests, net := t.net, tu := t.tu, ev := t.ev,
        sent := t.sent, qe := t.qe, imsic := t.imsic, free := t.free };
    (∀ (k : Stack) (temp : Option (BitVec 8)), only (.stackTempRead k temp)) ∧ (∀ (k : Stack) (pc : BitVec 6) (bank :
    BitVec 6) (threshold : BitVec 16), only (.rfm k pc bank threshold)) ∧ (∀ (k : Stack) (pc : BitVec 6), only
    (.patrolScrub k pc)) ∧ (∀ (k : Stack) (mean : BitVec 32), only (.hotMean k mean)) ∧ (∀ (k : Stack) (pc : BitVec 6)
    (miscompare ecc : BitVec 64) (firstBad : Option (BitVec 22)), only (.hbTgenDone k pc miscompare ecc firstBad))) ∧
  (let only : Instr → Prop := fun c => Changes c fun s t => { s with
        regs := t.regs, mem := t.mem, poison := t.poison, flips := t.flips, resv := t.resv, agents := t.agents,
        homes := t.homes, stackCtl := t.stackCtl, guests := t.guests, net := t.net, tu := t.tu, ev := t.ev,
        sent := t.sent, qe := t.qe, scheds := t.scheds, imsic := t.imsic, free := t.free };
    (∀ (k : Stack) (mw : BitVec 32), only (.stackPowerSample k mw))) ∧
  (let only : Instr → Prop := fun c => Changes c fun s t => { s with
        stackCtl := t.stackCtl };
    (∀ (k : Stack) (pc : BitVec 6) (bank : BitVec 6), only (.perBankRefresh k pc bank))) ∧
  (let only : Instr → Prop := fun c => Changes c fun s t => { s with
        regs := t.regs, mem := t.mem, poison := t.poison, flips := t.flips, resv := t.resv, agents := t.agents,
        homes := t.homes, stackCtl := t.stackCtl, memMap := t.memMap, guests := t.guests, net := t.net, tu := t.tu,
        ev := t.ev, sent := t.sent, qe := t.qe, imsic := t.imsic, free := t.free };
    (∀ (k : Stack) (pc : BitVec 6) (row : BitVec 14) (sid : BitVec 2) (bank : BitVec 4) (repairLeft : Bool), only
    (.softRepair k pc row sid bank repairLeft)) ∧ only .evacSegmentCopy) ∧
  (let only : Instr → Prop := fun c => Changes c fun s t => { s with
        regs := t.regs, mem := t.mem, poison := t.poison, flips := t.flips, redirect := t.redirect, resv := t.resv,
        agents := t.agents, homes := t.homes, stackCtl := t.stackCtl, memMap := t.memMap, guests := t.guests,
        recovery := t.recovery, net := t.net, tu := t.tu, ev := t.ev, sent := t.sent, qe := t.qe, imsic := t.imsic,
        free := t.free };
    only .evacSegmentCommit) ∧
  (let only : Instr → Prop := fun c => Changes c fun s t => { s with
        regs := t.regs };
    (∀ (k : Stack) (v : BitVec 32), only (.hbInjectArm k v)) ∧ (∀ (k : Stack) (pc : BitVec 6) (v : BitVec 32), only
    (.hbTgenStart k pc v))) ∧
  (let only : Instr → Prop := fun c => Changes c fun s t => { s with
        regs := t.regs, mem := t.mem, poison := t.poison, flips := t.flips, resv := t.resv, agents := t.agents,
        homes := t.homes, stackCtl := t.stackCtl, guests := t.guests, uncached := t.uncached, net := t.net, tu := t.tu,
        ev := t.ev, sent := t.sent, qe := t.qe, imsic := t.imsic, free := t.free };
    (∀ (k : Stack) (pc : BitVec 6) (r : BurstReq), only (.burstDone k pc r))) ∧
  (let only : Instr → Prop := fun c => Changes c fun s t => { s with
        regs := t.regs, mem := t.mem, poison := t.poison, flips := t.flips, resv := t.resv, agents := t.agents,
        homes := t.homes, stackCtl := t.stackCtl, guests := t.guests, net := t.net, tu := t.tu, ev := t.ev,
        sent := t.sent, qe := t.qe, imsic := t.imsic, free := t.free };
    (∀ (m : Mesh) (f : AgentFault), only (.faultReport m f)) ∧ (∀ (entry : BitVec 8), only (.faultWindowClose entry)) ∧ (∀
    (die : Mesh) (seq : BitVec 16), only (.invDone die seq)) ∧ (∀ (v : BitVec 32), only (.tuFringCiWrite v)) ∧ (∀ (v :
    BitVec 64), only (.tuFringBaseWrite v))) ∧
  (let only : Instr → Prop := fun c => Changes c fun s t => { s with
        regs := t.regs, mem := t.mem, poison := t.poison, flips := t.flips, arrays := t.arrays, vecs := t.vecs,
        needles := t.needles, resv := t.resv, agents := t.agents, homes := t.homes, stackCtl := t.stackCtl,
        guests := t.guests, net := t.net, tu := t.tu, ev := t.ev, sent := t.sent, qe := t.qe, sk := t.sk,
        scheds := t.scheds, imsic := t.imsic, free := t.free };
    (∀ (entry gen : BitVec 8), only (.faultResume entry gen))) ∧
  (let only : Instr → Prop := fun c => Changes c fun s t => { s with
        regs := t.regs, mem := t.mem, poison := t.poison, flips := t.flips, locals := t.locals, arrays := t.arrays,
        vecs := t.vecs, needles := t.needles, resv := t.resv, agents := t.agents, homes := t.homes,
        stackCtl := t.stackCtl, guests := t.guests, net := t.net, tu := t.tu, ev := t.ev, sent := t.sent, qe := t.qe,
        sk := t.sk, scheds := t.scheds, imsic := t.imsic, free := t.free };
    (∀ (entry gen : BitVec 8), only (.faultAbort entry gen))) ∧
  (let only : Instr → Prop := fun c => Changes c fun s t => { s with
        regs := t.regs, tu := t.tu, sent := t.sent };
    (∀ (asid : BitVec 12), only (.invPage asid)) ∧ (∀ (pages : BitVec 17) (asid : BitVec 12), only (.invRange pages asid))
    ∧ (∀ (asid : BitVec 12), only (.invAsid asid)) ∧ only .invAll) ∧
  (let only : Instr → Prop := fun c => Changes c fun s t => { s with
        tu := t.tu, sent := t.sent };
    (∀ (die : Mesh) (seq : BitVec 16), only (.tlbInv die seq))) ∧
  (let only : Instr → Prop := fun c => Changes c fun s t => { s with
        regs := t.regs, mem := t.mem, poison := t.poison, flips := t.flips, arrays := t.arrays, vecs := t.vecs,
        needles := t.needles, resv := t.resv, agents := t.agents, homes := t.homes, stackCtl := t.stackCtl,
        memMap := t.memMap, seams := t.seams, guests := t.guests, recovery := t.recovery, hall := t.hall, net := t.net,
        tu := t.tu, ev := t.ev, sent := t.sent, qe := t.qe, sk := t.sk, rowYoke := t.rowYoke, scheds := t.scheds,
        imsic := t.imsic, free := t.free };
    (∀ (kind : BitVec 3) (id : BitVec 12) (cause : BitVec 8), only (.faultRpt kind id cause))) ∧
  (let only : Instr → Prop := fun c => Changes c fun s t => { s with
        regs := t.regs, mem := t.mem, poison := t.poison, flips := t.flips, locals := t.locals, arrays := t.arrays,
        vecs := t.vecs, needles := t.needles, resv := t.resv, agents := t.agents, homes := t.homes,
        stackCtl := t.stackCtl, memMap := t.memMap, seams := t.seams, guests := t.guests, recovery := t.recovery,
        fabric := t.fabric, hall := t.hall, net := t.net, tu := t.tu, ev := t.ev, sent := t.sent, qe := t.qe,
        sk := t.sk, rowYoke := t.rowYoke, scheds := t.scheds, imsic := t.imsic, free := t.free };
    only .sequencerTakeEntry) ∧
  (let only : Instr → Prop := fun c => Changes c fun s t => { s with
        regs := t.regs, mem := t.mem, poison := t.poison, flips := t.flips, locals := t.locals, arrays := t.arrays,
        vecs := t.vecs, needles := t.needles, resv := t.resv, agents := t.agents, homes := t.homes,
        stackCtl := t.stackCtl, guests := t.guests, recovery := t.recovery, net := t.net, tu := t.tu, ev := t.ev,
        sent := t.sent, qe := t.qe, sk := t.sk, scheds := t.scheds, imsic := t.imsic, free := t.free };
    only .motifDrained) ∧
  (let only : Instr → Prop := fun c => Changes c fun s t => { s with
        regs := t.regs, mem := t.mem, poison := t.poison, flips := t.flips, arrays := t.arrays, vecs := t.vecs,
        needles := t.needles, resv := t.resv, agents := t.agents, homes := t.homes, stackCtl := t.stackCtl,
        seams := t.seams, guests := t.guests, recovery := t.recovery, hall := t.hall, net := t.net, tu := t.tu,
        ev := t.ev, sent := t.sent, qe := t.qe, sk := t.sk, rowYoke := t.rowYoke, scheds := t.scheds, imsic := t.imsic,
        free := t.free };
    (∀ (pass : Bool), only (.motifSelfTestDone pass)) ∧ (∀ (ok : Bool), only (.recoveryEnd ok))) ∧
  (let only : Instr → Prop := fun c => Changes c fun s t => { s with
        regs := t.regs, mem := t.mem, poison := t.poison, flips := t.flips, resv := t.resv, agents := t.agents,
        homes := t.homes, stackCtl := t.stackCtl, guests := t.guests, recovery := t.recovery, net := t.net, tu := t.tu,
        ev := t.ev, sent := t.sent, qe := t.qe, imsic := t.imsic, free := t.free };
    (∀ (v : BitVec 32), only (.hbGrant v)))

/-- O58. Each command named changes at most the fields of State written after it, and every other field (the queue,
every other register file, memory, buffer and unit) stands as before; an event a command raises may write the
event ring, its messages and counters, which are then named. -/
def Obligations.RowAndSeamCommandsChangeOnly : Prop :=
  (let only : Instr → Prop := fun c => Changes c fun s t => { s with
        now := t.now, regs := t.regs, mem := t.mem, poison := t.poison, flips := t.flips, salt := t.salt,
        arrays := t.arrays, vecs := t.vecs, needles := t.needles, resv := t.resv, agents := t.agents, homes := t.homes,
        stackCtl := t.stackCtl, memMap := t.memMap, seams := t.seams, guests := t.guests, recovery := t.recovery,
        fabric := t.fabric, hall := t.hall, net := t.net, tu := t.tu, ev := t.ev, sent := t.sent, qe := t.qe,
        sk := t.sk, rowYoke := t.rowYoke, scheds := t.scheds, routes := t.routes, coherent := t.coherent,
        dieTables := t.dieTables, mc := t.mc, harts := t.harts, imsic := t.imsic, free := t.free };
    only .rowTimerFire) ∧
  (let only : Instr → Prop := fun c => Changes c fun s t => { s with
        regs := t.regs, mem := t.mem, poison := t.poison, flips := t.flips, salt := t.salt, arrays := t.arrays,
        vecs := t.vecs, needles := t.needles, resv := t.resv, agents := t.agents, homes := t.homes,
        stackCtl := t.stackCtl, seams := t.seams, guests := t.guests, recovery := t.recovery, net := t.net, tu := t.tu,
        ev := t.ev, sent := t.sent, qe := t.qe, sk := t.sk, rowYoke := t.rowYoke, scheds := t.scheds,
        routes := t.routes, coherent := t.coherent, dieTables := t.dieTables, imsic := t.imsic, free := t.free };
    (∀ (m : Motif), only (.localEdge m)) ∧ (∀ (m : Motif) (row : BitVec 48) (aligned holdover : Bool) (t : BitVec 64),
    only (.rowEdge m row aligned holdover t))) ∧
  (let only : Instr → Prop := fun c => Changes c fun s t => { s with
        regs := t.regs, mem := t.mem, poison := t.poison, flips := t.flips, resv := t.resv, agents := t.agents,
        homes := t.homes, stackCtl := t.stackCtl, guests := t.guests, net := t.net, tu := t.tu, ev := t.ev,
        sent := t.sent, qe := t.qe, scheds := t.scheds, imsic := t.imsic, free := t.free };
    (∀ (m : Motif), only (.edgeMissed m)) ∧ (∀ (m : Motif) (row : BitVec 48) (cut : Bool) (eM eRes eBe : BitVec 32), only
    (.gaugeBudget m row cut eM eRes eBe)) ∧ (∀ (m : Motif), only (.floorBudget m)) ∧ (∀ (m : Motif), only (.edgePass
    m)) ∧ (∀ (m : Motif), only (.bodyStart m)) ∧ (∀ (m : Motif) (mw : BitVec 32) (tj : BitVec 8), only (.powerSample m
    mw tj)) ∧ (∀ (m : Motif) (qid : BitVec 20) (idx : BitVec 24), only (.stitchArrival m qid idx)) ∧ (∀ (m : Motif),
    only (.stitchDone m)) ∧ (∀ (m : Motif), only (.stitchOverrun m))) ∧
  (let only : Instr → Prop := fun c => Changes c fun s t => { s with
        regs := t.regs, mem := t.mem, poison := t.poison, flips := t.flips, resv := t.resv, agents := t.agents,
        homes := t.homes, stackCtl := t.stackCtl, guests := t.guests, net := t.net, tu := t.tu, ev := t.ev,
        sent := t.sent, qe := t.qe, sk := t.sk, scheds := t.scheds, imsic := t.imsic, free := t.free };
    (∀ (m : Motif) (qid : BitVec 20) (idx : BitVec 24), only (.deadlineMissed m qid idx))) ∧
  (let only : Instr → Prop := fun c => Changes c fun s t => { s with
        rowYoke := t.rowYoke };
    (∀ (r : GaugeReport), only (.gaugeReport r))) ∧
  (let only : Instr → Prop := fun c => Changes c fun s t => { s with
        regs := t.regs, mem := t.mem, poison := t.poison, flips := t.flips, resv := t.resv, agents := t.agents,
        homes := t.homes, stackCtl := t.stackCtl, guests := t.guests, net := t.net, tu := t.tu, ev := t.ev,
        sent := t.sent, qe := t.qe, rowYoke := t.rowYoke, mc := t.mc, imsic := t.imsic, free := t.free };
    (∀ (eYoke eSeams : BitVec 32), only (.governorCompute eYoke eSeams))) ∧
  (let only : Instr → Prop := fun c => Changes c fun s t => { s with
        regs := t.regs };
    (∀ (m : Motif), only (.guardStart m)) ∧ (∀ (v : BitVec 32), only (.gaLimitWrite v))) ∧
  (let only : Instr → Prop := fun c => Changes c fun s t => { s with
        regs := t.regs, mem := t.mem, poison := t.poison, flips := t.flips, arrays := t.arrays, resv := t.resv,
        agents := t.agents, homes := t.homes, stackCtl := t.stackCtl, guests := t.guests, net := t.net, tu := t.tu,
        ev := t.ev, sent := t.sent, qe := t.qe, scheds := t.scheds, imsic := t.imsic, free := t.free };
    (∀ (m : Motif), only (.stitchStart m))) ∧
  (let only : Instr → Prop := fun c => Changes c fun s t => { s with
        regs := t.regs, mem := t.mem, poison := t.poison, flips := t.flips, arrays := t.arrays, vecs := t.vecs,
        needles := t.needles, resv := t.resv, agents := t.agents, homes := t.homes, stackCtl := t.stackCtl,
        memMap := t.memMap, seams := t.seams, guests := t.guests, recovery := t.recovery, hall := t.hall, net := t.net,
        tu := t.tu, ev := t.ev, sent := t.sent, qe := t.qe, sk := t.sk, rowYoke := t.rowYoke, scheds := t.scheds,
        imsic := t.imsic, free := t.free };
    (∀ (m : Motif), only (.stitchHung m))) ∧
  (let only : Instr → Prop := fun c => Changes c fun s t => { s with
        now := t.now, regs := t.regs, mem := t.mem, poison := t.poison, flips := t.flips, resv := t.resv,
        agents := t.agents, homes := t.homes, stackCtl := t.stackCtl, guests := t.guests, hall := t.hall, net := t.net,
        tu := t.tu, ev := t.ev, sent := t.sent, qe := t.qe, rowYoke := t.rowYoke, scheds := t.scheds, imsic := t.imsic,
        free := t.free };
    (∀ (step : Int), only (.hallTimeStep step))) ∧
  (let only : Instr → Prop := fun c => Changes c fun s t => { s with
        regs := t.regs, mem := t.mem, poison := t.poison, flips := t.flips, resv := t.resv, agents := t.agents,
        homes := t.homes, stackCtl := t.stackCtl, guests := t.guests, net := t.net, tu := t.tu, ev := t.ev,
        sent := t.sent, qe := t.qe, rowYoke := t.rowYoke, imsic := t.imsic, free := t.free };
    only .rowUnaligned) ∧
  (let only : Instr → Prop := fun c => Changes c fun s t => { s with
        regs := t.regs, mem := t.mem, poison := t.poison, flips := t.flips, needles := t.needles, resv := t.resv,
        agents := t.agents, homes := t.homes, stackCtl := t.stackCtl, guests := t.guests, net := t.net, tu := t.tu,
        ev := t.ev, sent := t.sent, qe := t.qe, rowYoke := t.rowYoke, imsic := t.imsic, free := t.free };
    (∀ (src : Mesh) (row : BitVec 48), only (.late src row))) ∧
  (let only : Instr → Prop := fun c => Changes c fun s t => { s with
        sent := t.sent, rowYoke := t.rowYoke };
    (∀ (die : Mesh) (row : BitVec 48) (table : BitVec 11), only (.routeSet die row table)) ∧ (∀ (die : Mesh) (row : BitVec
    48) (salt : BitVec 64) (ranges : List (BitVec 48 × BitVec 48)), only (.mapSet die row salt ranges)) ∧ (∀ (die :
    Mesh) (row : BitVec 48) (qid : BitVec 20) (mask : BitVec 48) (cls : BitVec 4), only (.bindSet die row qid mask
    cls)) ∧ (∀ (die : Mesh) (row : BitVec 48) (m : Motif) (st : PosState), only (.posSet die row m st))) ∧
  (let only : Instr → Prop := fun c => Changes c fun s t => { s with
        diePattern := t.diePattern };
    (∀ (die : Mesh) (off : BitVec 23) (data : BitVec 224), only (.patternData die off data))) ∧
  (let only : Instr → Prop := fun c => Changes c fun s t => { s with
        regs := t.regs, mem := t.mem, poison := t.poison, flips := t.flips, arrays := t.arrays, vecs := t.vecs,
        needles := t.needles, resv := t.resv, agents := t.agents, homes := t.homes, stackCtl := t.stackCtl,
        seams := t.seams, guests := t.guests, recovery := t.recovery, hall := t.hall, net := t.net, tu := t.tu,
        ev := t.ev, sent := t.sent, qe := t.qe, sk := t.sk, rowYoke := t.rowYoke, scheds := t.scheds, imsic := t.imsic,
        free := t.free };
    (∀ (die : Mesh) (cmd : SeqCmd), only (.seqCmd die cmd))) ∧
  (let only : Instr → Prop := fun c => Changes c fun s t => { s with
        recovery := t.recovery };
    (∀ (src hop : Mesh) (seq : BitVec 8), only (.chainAck src hop seq))) ∧
  (let only : Instr → Prop := fun c => Changes c fun s t => { s with
        regs := t.regs, mem := t.mem, poison := t.poison, flips := t.flips, arrays := t.arrays, vecs := t.vecs,
        needles := t.needles, resv := t.resv, agents := t.agents, homes := t.homes, stackCtl := t.stackCtl,
        seams := t.seams, guests := t.guests, recovery := t.recovery, net := t.net, tu := t.tu, ev := t.ev,
        sent := t.sent, qe := t.qe, sk := t.sk, rowYoke := t.rowYoke, scheds := t.scheds, imsic := t.imsic,
        free := t.free };
    (∀ (src hop : Mesh) (f : LostFrame), only (.chainResend src hop f)) ∧ (∀ (seam : SeamIx) (maskA maskB : BitVec 8)
    (sbLanes : BitVec 4), only (.seamTrainingDone seam maskA maskB sbLanes)) ∧ (∀ (seam : SeamIx) (side : Bool) (mask
    : BitVec 8), only (.widthAdv seam side mask)) ∧ (∀ (seam : SeamIx) (side : Bool) (width : BitVec 4) (mask : BitVec
    8), only (.widthSet seam side width mask)) ∧ (∀ (seam : SeamIx), only (.widthSetTimeout seam)) ∧ (∀ (seam :
    SeamIx) (pass : Bool), only (.seamTestPatternDone seam pass))) ∧
  (let only : Instr → Prop := fun c => Changes c fun s t => { s with
        seams := t.seams };
    (∀ (die : Mesh) (seam : SeamIx) (mask : BitVec 8), only (.seamState die seam mask))) ∧
  (let only : Instr → Prop := fun c => Changes c fun s t => { s with
        regs := t.regs, mem := t.mem, poison := t.poison, flips := t.flips, resv := t.resv, agents := t.agents,
        homes := t.homes, stackCtl := t.stackCtl, guests := t.guests, net := t.net, tu := t.tu, ev := t.ev,
        sent := t.sent, qe := t.qe, imsic := t.imsic, free := t.free };
    (∀ (seam : SeamIx) (linkDown : Bool), only (.seamFault seam linkDown)) ∧ (∀ (g : Guest) (part : BitVec 2) (block :
    BitVec 224), only (.vspCap g part block)) ∧ (∀ (g : Guest), only (.vspTimeout g))) ∧
  (let only : Instr → Prop := fun c => Changes c fun s t => { s with
        regs := t.regs, guests := t.guests };
    (∀ (g : Guest), only (.guestLinkUp g))) ∧
  (let only : Instr → Prop := fun c => Changes c fun s t => { s with
        guests := t.guests };
    (∀ (g : Guest) (crc : BitVec 32), only (.vspGrant g crc))) ∧
  (let only : Instr → Prop := fun c => Changes c fun s t => { s with
        regs := t.regs, mem := t.mem, poison := t.poison, flips := t.flips, resv := t.resv, agents := t.agents,
        homes := t.homes, stackCtl := t.stackCtl, seams := t.seams, guests := t.guests, recovery := t.recovery,
        net := t.net, tu := t.tu, ev := t.ev, sent := t.sent, qe := t.qe, imsic := t.imsic, free := t.free };
    (∀ (g : Guest) (crc : BitVec 32), only (.vspAck g crc))) ∧
  (let only : Instr → Prop := fun c => Changes c fun s t => { s with
        regs := t.regs, mem := t.mem, poison := t.poison, flips := t.flips, locals := t.locals, arrays := t.arrays,
        resv := t.resv, agents := t.agents, homes := t.homes, stackCtl := t.stackCtl, guests := t.guests, net := t.net,
        tu := t.tu, ev := t.ev, sent := t.sent, qe := t.qe, imsic := t.imsic, free := t.free };
    (∀ (g : Guest) (r : MemReq), only (.guestRequest g r))) ∧
  (let only : Instr → Prop := fun c => Changes c fun s t => { s with
        regs := t.regs, sent := t.sent };
    (∀ (write : Bool) (addr : BitVec 26) (size : BitVec 13), only (.bar0BadAccess write addr size))) ∧
  (let only : Instr → Prop := fun c => Changes c fun s t => { s with
        regs := t.regs, mem := t.mem, poison := t.poison, flips := t.flips, locals := t.locals, arrays := t.arrays,
        resv := t.resv, agents := t.agents, homes := t.homes, stackCtl := t.stackCtl, guests := t.guests, net := t.net,
        tu := t.tu, ev := t.ev, sent := t.sent, qe := t.qe, imsic := t.imsic, free := t.free };
    (∀ (off : BitVec 40) (len : BitVec 13) (rid : BitVec 16), only (.bar4Read off len rid)) ∧ (∀ (off : BitVec 40) (data :
    List (BitVec 8)) (be : List Bool) (ep : Bool) (rid : BitVec 16), only (.bar4Write off data be ep rid)) ∧ (∀ (off :
    BitVec 40) (wide : Bool) (v : BitVec 64) (rid : BitVec 16), only (.bar4Fetchadd off wide v rid)) ∧ (∀ (off :
    BitVec 40) (wide : Bool) (v : BitVec 64) (rid : BitVec 16), only (.bar4Swap off wide v rid)) ∧ (∀ (off : BitVec
    40) (size : CasSize) (cmp v : BitVec 128) (rid : BitVec 16), only (.bar4Cas off size cmp v rid))) ∧
  (let only : Instr → Prop := fun c => Changes c fun s t => { s with
        regs := t.regs, mem := t.mem, poison := t.poison, flips := t.flips, resv := t.resv, agents := t.agents,
        homes := t.homes, stackCtl := t.stackCtl, guests := t.guests, net := t.net, tu := t.tu, ev := t.ev,
        sent := t.sent, qe := t.qe, imsic := t.imsic, free := t.free };
    (∀ (speed : BitVec 3) (width : BitVec 6), only (.hostLinkUp speed width)) ∧ (∀ (speed : BitVec 3) (width : BitVec 6),
    only (.linkRetrain speed width)) ∧ (∀ (qid : BitVec 20) (idx : BitVec 24), only (.completionTimeout qid idx)) ∧ (∀
    (qid : BitVec 20) (idx : BitVec 24) (ok : Bool), only (.flushReadDone qid idx ok)) ∧ only .pxLostPop) ∧
  (let only : Instr → Prop := fun c => Changes c fun s t => { s with
        regs := t.regs, mem := t.mem, poison := t.poison, flips := t.flips, resv := t.resv, agents := t.agents,
        homes := t.homes, stackCtl := t.stackCtl, guests := t.guests, net := t.net, tu := t.tu, ev := t.ev,
        sent := t.sent, qe := t.qe, px := t.px, imsic := t.imsic, free := t.free };
    (∀ (cause : HostResetCause), only (.hostSideReset cause)) ∧ only .busMasterEnable ∧ only .d0Return ∧ (∀ (vector :
    Option (BitVec 11)), only (.msixUnmask vector))) ∧
  (let only : Instr → Prop := fun c => Changes c fun s t => { s with
        px := t.px };
    (∀ (log2 : BitVec 6), only (.resizableBarWrite log2)) ∧ only .d3hotEntry) ∧
  (let only : Instr → Prop := fun c => Changes c fun s t => { s with
        regs := t.regs, px := t.px };
    only .memoryDecodeEnable)

/-- O59. Each command named changes at most the fields of State written after it, and every other field (the queue,
every other register file, memory, buffer and unit) stands as before; an event a command raises may write the
event ring, its messages and counters, which are then named. -/
def Obligations.FabricAndRegisterCommandsChangeOnly : Prop :=
  (let only : Instr → Prop := fun c => Changes c fun s t => { s with
        regs := t.regs, mem := t.mem, poison := t.poison, flips := t.flips, arrays := t.arrays, vecs := t.vecs,
        needles := t.needles, resv := t.resv, agents := t.agents, homes := t.homes, stackCtl := t.stackCtl,
        guests := t.guests, fabric := t.fabric, net := t.net, tu := t.tu, ev := t.ev, sent := t.sent, qe := t.qe,
        sk := t.sk, imsic := t.imsic, free := t.free };
    (∀ (r : RemoteReq), only (.remoteRequest r)) ∧ (∀ (f : Frame), only (.fabricReadRsp f)) ∧ (∀ (f : Frame), only
    (.fabricWriteRsp f)) ∧ (∀ (f : Frame), only (.fabricAtomicRsp f)) ∧ (∀ (node lot : BitVec 16), only (.flowLost
    node lot)) ∧ (∀ (k : Fin 64), only (.lotRemoved k)) ∧ (∀ (k : Fin 64), only (.bindoffForced k))) ∧
  (let only : Instr → Prop := fun c => Changes c fun s t => { s with
        regs := t.regs, mem := t.mem, poison := t.poison, flips := t.flips, resv := t.resv, agents := t.agents,
        homes := t.homes, stackCtl := t.stackCtl, guests := t.guests, fabric := t.fabric, net := t.net, tu := t.tu,
        ev := t.ev, sent := t.sent, qe := t.qe, imsic := t.imsic, free := t.free };
    (∀ (f : Frame), only (.fabricRead f)) ∧ (∀ (f : Frame), only (.fabricAck f)) ∧ (∀ (f : Frame), only (.fabricNak f)) ∧
    (∀ (node lot : BitVec 16), only (.ackTimer node lot)) ∧ (∀ (node lot : BitVec 16), only (.retransmitTimeout node
    lot)) ∧ (∀ (index : BitVec 6) (row : BitVec 48), only (.lotAdd index row))) ∧
  (let only : Instr → Prop := fun c => Changes c fun s t => { s with
        regs := t.regs, mem := t.mem, poison := t.poison, flips := t.flips, locals := t.locals, arrays := t.arrays,
        resv := t.resv, agents := t.agents, homes := t.homes, stackCtl := t.stackCtl, guests := t.guests,
        fabric := t.fabric, net := t.net, tu := t.tu, ev := t.ev, sent := t.sent, qe := t.qe, imsic := t.imsic,
        free := t.free };
    (∀ (f : Frame), only (.fabricWrite f)) ∧ (∀ (f : Frame), only (.fabricAtomic f))) ∧
  (let only : Instr → Prop := fun c => Changes c fun s t => { s with
        regs := t.regs, fabric := t.fabric };
    (∀ (node lot : BitVec 16), only (.flowIdleFree node lot)) ∧ (∀ (index : BitVec 6) (row : BitVec 48), only (.lotBindoff
    index row))) ∧
  (let only : Instr → Prop := fun c => Changes c fun s t => { s with
        regs := t.regs, mem := t.mem, poison := t.poison, flips := t.flips, resv := t.resv, agents := t.agents,
        homes := t.homes, stackCtl := t.stackCtl, guests := t.guests, recovery := t.recovery, hall := t.hall,
        net := t.net, tu := t.tu, ev := t.ev, sent := t.sent, qe := t.qe, imsic := t.imsic, free := t.free };
    (∀ (p : Fin 4), only (.fabricPortDown p))) ∧
  (let only : Instr → Prop := fun c => Changes c fun s t => { s with
        regs := t.regs, mem := t.mem, poison := t.poison, flips := t.flips, resv := t.resv, agents := t.agents,
        homes := t.homes, stackCtl := t.stackCtl, guests := t.guests, net := t.net, tu := t.tu, ev := t.ev,
        sent := t.sent, qe := t.qe, imsic := t.imsic, free := t.free };
    (∀ (p : Fin 4), only (.fabricPortUp p)) ∧ only .ppsLost) ∧
  (let only : Instr → Prop := fun c => Changes c fun s t => { s with
        now := t.now, regs := t.regs, mem := t.mem, poison := t.poison, flips := t.flips, resv := t.resv,
        agents := t.agents, homes := t.homes, stackCtl := t.stackCtl, guests := t.guests, hall := t.hall, net := t.net,
        tu := t.tu, ev := t.ev, sent := t.sent, qe := t.qe, rowYoke := t.rowYoke, scheds := t.scheds, imsic := t.imsic,
        free := t.free };
    (∀ (offset : Int), only (.ptpSync offset))) ∧
  (let only : Instr → Prop := fun c => Changes c fun s t => { s with
        regs := t.regs, mem := t.mem, poison := t.poison, flips := t.flips, resv := t.resv, agents := t.agents,
        homes := t.homes, stackCtl := t.stackCtl, guests := t.guests, hall := t.hall, net := t.net, tu := t.tu,
        ev := t.ev, sent := t.sent, qe := t.qe, imsic := t.imsic, free := t.free };
    (∀ (gm : BitVec 64), only (.ptpMessage gm)) ∧ only .ptpHoldover) ∧
  (let only : Instr → Prop := fun c => Changes c fun s t => { s with
        now := t.now, regs := t.regs, mem := t.mem, poison := t.poison, flips := t.flips, resv := t.resv,
        agents := t.agents, homes := t.homes, stackCtl := t.stackCtl, guests := t.guests, hall := t.hall, net := t.net,
        tu := t.tu, ev := t.ev, sent := t.sent, qe := t.qe, imsic := t.imsic, free := t.free };
    (∀ (offset : Int), only (.ppsEdge offset))) ∧
  (let only : Instr → Prop := fun c => Changes c fun s t => { s with
        regs := t.regs };
    only .tsTimeLoRead) ∧
  (let only : Instr → Prop := fun c => Changes c fun s t => { s with
        regs := t.regs, arrays := t.arrays, sent := t.sent, latches := t.latches };
    (∀ (addr : BitVec 26) (wide : Bool), only (.regRd addr wide))) ∧
  (let only : Instr → Prop := fun c => Changes c fun s t => { s with
        sent := t.sent };
    (∀ (addr : BitVec 26) (wide : Bool) (v : BitVec 64), only (.regRsp addr wide v))) ∧
  (let only : Instr → Prop := fun c => Changes c fun s t => { s with
        regs := t.regs, mem := t.mem, poison := t.poison, flips := t.flips, resv := t.resv, agents := t.agents,
        homes := t.homes, stackCtl := t.stackCtl, guests := t.guests, net := t.net, tu := t.tu, ev := t.ev,
        sent := t.sent, qe := t.qe, imsic := t.imsic, free := t.free };
    (∀ (addr : BitVec 26) (wide : Bool), only (.regTimeout addr wide)) ∧ (∀ (v : BitVec 64), only (.evRingBaseWrite v)) ∧
    (∀ (v : BitVec 32), only (.evRingCiWrite v))) ∧
  (let only : Instr → Prop := fun c => Changes c fun s t => { s with
        regs := t.regs, sent := t.sent, latches := t.latches };
    (∀ (path : AccessPath) (addr : BitVec 26), only (.counterLoWordRead path addr)))

/-- O60. Each command named changes at most the fields of State written after it, and every other field (the queue,
every other register file, memory, buffer and unit) stands as before; an event a command raises may write the
event ring, its messages and counters, which are then named. -/
def Obligations.ManagementCommandsChangeOnly : Prop :=
  (let only : Instr → Prop := fun c => Changes c fun s t => { s with
        regs := t.regs, mem := t.mem, poison := t.poison, flips := t.flips, flash := t.flash, resv := t.resv,
        agents := t.agents, homes := t.homes, stackCtl := t.stackCtl, guests := t.guests, net := t.net, tu := t.tu,
        ev := t.ev, sent := t.sent, qe := t.qe, mc := t.mc, imsic := t.imsic, free := t.free };
    (∀ (b : Binding) (ty : BitVec 8) (ours : Bool) (data : List (BitVec 8)), only (.mctpMessage b ty ours data)) ∧ (∀ (b :
    Binding) (off : BitVec 32) (data : List (BitVec 8)), only (.requestFirmwareData b off data))) ∧
  (let only : Instr → Prop := fun c => Changes c fun s t => { s with
        regs := t.regs, sent := t.sent };
    (∀ (b : Binding) (eid : BitVec 8), only (.setEndpointId b eid))) ∧
  (let only : Instr → Prop := fun c => Changes c fun s t => { s with
        regs := t.regs, mem := t.mem, poison := t.poison, flips := t.flips, resv := t.resv, agents := t.agents,
        homes := t.homes, stackCtl := t.stackCtl, guests := t.guests, net := t.net, tu := t.tu, ev := t.ev,
        sent := t.sent, qe := t.qe, imsic := t.imsic, free := t.free };
    (∀ (b : Binding) (cmd : BitVec 8), only (.pldmDiscovery b cmd))) ∧
  (let only : Instr → Prop := fun c => Changes c fun s t => { s with
        regs := t.regs, mem := t.mem, poison := t.poison, flips := t.flips, resv := t.resv, agents := t.agents,
        homes := t.homes, stackCtl := t.stackCtl, guests := t.guests, net := t.net, tu := t.tu, ev := t.ev,
        sent := t.sent, qe := t.qe, mc := t.mc, imsic := t.imsic, free := t.free };
    (∀ (b : Binding) (cmd : BitVec 8) (sensor : BitVec 16), only (.pldmPlatform b cmd sensor)) ∧ (∀ (id : BitVec 8) (v :
    BitVec 32), only (.sensorSample id v)) ∧ (∀ (ch : Channel), only (.getInfo ch)) ∧ (∀ (ch : Channel), only
    (.readSensor ch)) ∧ (∀ (ch : Channel), only (.readTelemetry ch))) ∧
  (let only : Instr → Prop := fun c => Changes c fun s t => { s with
        sent := t.sent };
    (∀ (b : Binding) (cmd : BitVec 8), only (.pldmFru b cmd))) ∧
  (let only : Instr → Prop := fun c => Changes c fun s t => { s with
        sent := t.sent, mc := t.mc };
    (∀ (b : Binding), only (.requestUpdate b))) ∧
  (let only : Instr → Prop := fun c => Changes c fun s t => { s with
        regs := t.regs, flash := t.flash, sent := t.sent, mc := t.mc };
    (∀ (b : Binding) (ident : BitVec 16) (size : BitVec 32), only (.updateComponent b ident size))) ∧
  (let only : Instr → Prop := fun c => Changes c fun s t => { s with
        regs := t.regs, sent := t.sent, mc := t.mc };
    (∀ (b : Binding), only (.activateFirmware b))) ∧
  (let only : Instr → Prop := fun c => Changes c fun s t => { s with
        regs := t.regs, mem := t.mem, poison := t.poison, flips := t.flips, resv := t.resv, agents := t.agents,
        homes := t.homes, stackCtl := t.stackCtl, guests := t.guests, net := t.net, tu := t.tu, ev := t.ev,
        sent := t.sent, qe := t.qe, mc := t.mc, imsic := t.imsic, free := t.free };
    (∀ (ch : Channel), only (.getSwatch ch)) ∧ (∀ (ch : Channel), only (.readSwatch ch)) ∧ (∀ (ch : Channel), only
    (.enrollOwnerKey ch)) ∧ (∀ (ch : Channel), only (.keyStage ch)) ∧ (∀ (ch : Channel), only (.getChallenge ch)) ∧ (∀
    (ch : Channel), only (.fwSetMinSvn ch)) ∧ (∀ (ch : Channel), only (.getIdentity ch)) ∧ (∀ (ch : Channel), only
    (.resetCold ch)) ∧ (∀ (ch : Channel), only (.resetWarm ch))) ∧
  (let only : Instr → Prop := fun c => Changes c fun s t => { s with
        regs := t.regs, mem := t.mem, poison := t.poison, flips := t.flips, flash := t.flash, resv := t.resv,
        agents := t.agents, homes := t.homes, stackCtl := t.stackCtl, guests := t.guests, net := t.net, tu := t.tu,
        ev := t.ev, sent := t.sent, qe := t.qe, mc := t.mc, imsic := t.imsic, free := t.free };
    (∀ (ch : Channel), only (.fwBegin ch)) ∧ (∀ (ch : Channel), only (.fwData ch)) ∧ (∀ (ch : Channel), only (.fwEnd ch))) ∧
  (let only : Instr → Prop := fun c => Changes c fun s t => { s with
        mc := t.mc };
    only .challengeExpiry) ∧
  (let only : Instr → Prop := fun c => Changes c fun s t => { s with
        regs := t.regs, mem := t.mem, poison := t.poison, flips := t.flips, resv := t.resv, agents := t.agents,
        homes := t.homes, stackCtl := t.stackCtl, guests := t.guests, net := t.net, tu := t.tu, ev := t.ev,
        sent := t.sent, qe := t.qe, mc := t.mc, harts := t.harts, imsic := t.imsic, free := t.free };
    (∀ (ch : Channel), only (.ncRelease ch))) ∧
  (let only : Instr → Prop := fun c => Changes c fun s t => { s with
        regs := t.regs, mem := t.mem, poison := t.poison, flips := t.flips, resv := t.resv, agents := t.agents,
        homes := t.homes, stackCtl := t.stackCtl, guests := t.guests, net := t.net, tu := t.tu, ev := t.ev,
        sent := t.sent, qe := t.qe, mc := t.mc, imsic := t.imsic, free := t.free };
    (∀ (ch : Channel), only (.slotInfo ch)) ∧ (∀ (ch : Channel), only (.setMinSvn ch))) ∧
  (let only : Instr → Prop := fun c => Changes c fun s t => { s with
        regs := t.regs, mem := t.mem, poison := t.poison, flips := t.flips, flash := t.flash, resv := t.resv,
        agents := t.agents, homes := t.homes, stackCtl := t.stackCtl, guests := t.guests, net := t.net, tu := t.tu,
        ev := t.ev, sent := t.sent, qe := t.qe, mc := t.mc, imsic := t.imsic, free := t.free };
    (∀ (ch : Channel), only (.slotBegin ch)) ∧ (∀ (ch : Channel), only (.slotData ch)) ∧ (∀ (ch : Channel), only (.slotEnd
    ch)) ∧ (∀ (ch : Channel), only (.slotErase ch))) ∧
  (let only : Instr → Prop := fun c => Changes c fun s t => { s with
        regs := t.regs, mc := t.mc };
    only .sessionTimeout) ∧
  (let only : Instr → Prop := fun c => Changes c fun s t => { s with
        regs := t.regs, mem := t.mem, poison := t.poison, flips := t.flips, arrays := t.arrays, vecs := t.vecs,
        needles := t.needles, resv := t.resv, agents := t.agents, homes := t.homes, stackCtl := t.stackCtl,
        memMap := t.memMap, seams := t.seams, guests := t.guests, recovery := t.recovery, hall := t.hall, net := t.net,
        tu := t.tu, ev := t.ev, sent := t.sent, qe := t.qe, sk := t.sk, rowYoke := t.rowYoke, scheds := t.scheds,
        mc := t.mc, harts := t.harts, imsic := t.imsic, free := t.free };
    only .lockTimeout) ∧
  (let only : Instr → Prop := fun c => Changes c fun s t => { s with
        mc := t.mc, board := t.board };
    only .powerGood) ∧
  (let only : Instr → Prop := fun c => Changes c fun s t => { s with
        regs := t.regs, board := t.board };
    only .tripClear) ∧
  (let only : Instr → Prop := fun c => Changes c fun s t => { s with
        regs := t.regs, mem := t.mem, poison := t.poison, flips := t.flips, resv := t.resv, agents := t.agents,
        homes := t.homes, stackCtl := t.stackCtl, guests := t.guests, net := t.net, tu := t.tu, ev := t.ev,
        sent := t.sent, qe := t.qe, rowYoke := t.rowYoke, scheds := t.scheds, board := t.board, imsic := t.imsic,
        free := t.free };
    (∀ (ma : BitVec 18), only (.currentGuardSample ma))) ∧
  (let only : Instr → Prop := fun c => Changes c fun s t => { s with
        regs := t.regs, mem := t.mem, poison := t.poison, flips := t.flips, resv := t.resv, agents := t.agents,
        homes := t.homes, stackCtl := t.stackCtl, guests := t.guests, net := t.net, tu := t.tu, ev := t.ev,
        sent := t.sent, qe := t.qe, imsic := t.imsic, free := t.free };
    only .trefLost) ∧
  (let only : Instr → Prop := fun c => Changes c fun s t => { s with
        regs := t.regs };
    only .trefInUse ∧ only .ocxoWarm) ∧
  (let only : Instr → Prop := fun c => Changes c fun s t => { s with
        board := t.board };
    only .tapReset ∧ only .bypass ∧ (∀ (cells : BitVec 1872), only (.samplePreload cells)) ∧ only .extest ∧ only .clamp ∧
    only .highz ∧ only .extestPulse ∧ only .extestTrain ∧ only .debug) ∧
  (let only : Instr → Prop := fun c => Changes c fun s t => { s with
        sent := t.sent, board := t.board };
    only .idcode) ∧
  (let only : Instr → Prop := fun c => Changes c fun s t => { s with
        regs := t.regs };
    (∀ (pc : BitVec 10), only (.hbTestEnter pc)) ∧ (∀ (pc : BitVec 10), only (.hbTestLeave pc)) ∧ (∀ (m : BitVec 6), only
    (.mcBistStart m))) ∧
  (let only : Instr → Prop := fun c => Changes c fun s t => { s with
        regs := t.regs, mem := t.mem, poison := t.poison, flips := t.flips, arrays := t.arrays, vecs := t.vecs,
        needles := t.needles, resv := t.resv, agents := t.agents, homes := t.homes, stackCtl := t.stackCtl,
        guests := t.guests, recovery := t.recovery, net := t.net, tu := t.tu, ev := t.ev, sent := t.sent, qe := t.qe,
        sk := t.sk, rowYoke := t.rowYoke, scheds := t.scheds, imsic := t.imsic, free := t.free };
    (∀ (failUnit : BitVec 3), only (.mcBistDone failUnit))) ∧
  (let only : Instr → Prop := fun c => Changes c fun s t => { s with
        regs := t.regs, mem := t.mem, poison := t.poison, flips := t.flips, resv := t.resv, agents := t.agents,
        homes := t.homes, stackCtl := t.stackCtl, guests := t.guests, hall := t.hall, net := t.net, tu := t.tu,
        ev := t.ev, sent := t.sent, qe := t.qe, px := t.px, mc := t.mc, imsic := t.imsic, free := t.free };
    (∀ (b : LoopBlock) (v : BitVec 32), only (.loopbackStart b v))) ∧
  (let only : Instr → Prop := fun c => Changes c fun s t => { s with
        regs := t.regs, mem := t.mem, poison := t.poison, flips := t.flips, resv := t.resv, agents := t.agents,
        homes := t.homes, stackCtl := t.stackCtl, guests := t.guests, net := t.net, tu := t.tu, ev := t.ev,
        sent := t.sent, qe := t.qe, px := t.px, imsic := t.imsic, free := t.free };
    (∀ (b : LoopBlock) (bits errors laneErr : BitVec 64), only (.loopbackStop b bits errors laneErr)) ∧ (∀ (b : LoopBlock)
    (bits : BitVec 64), only (.loopbackLockTimeout b bits)) ∧ (∀ (b : LoopBlock) (bits errors laneErr : BitVec 64),
    only (.loopbackDurationEnd b bits errors laneErr))) ∧
  (let only : Instr → Prop := fun c => Changes c fun s t => { s with
        regs := t.regs, mc := t.mc };
    (∀ (b : LoopBlock), only (.loopbackLock b))) ∧
  (let only : Instr → Prop := fun c => Changes c fun s t => { s with
        harts := t.harts };
    (∀ (h : Fin 32), only (.nodeCoreTimer h)))
end

