-- ==== Sys2Proof/Laws/Dispatch.lean ====
section
/-!
SUPPORT. Laws/Dispatch.lean: one law per command: exec calls that command's meaning. Rewrite with these; never unfold exec.
-/

namespace Sys2Proof.Machine

@[simp] theorem exec_rowTimerFire (s : State) : exec (.rowTimerFire) s = execRowTimerFire s := rfl
@[simp] theorem exec_localEdge (m : Motif) (s : State) : exec (.localEdge m) s = execLocalEdge m s := rfl
@[simp] theorem exec_rowEdge (m : Motif) (row : BitVec 48) (aligned holdover : Bool) (t : BitVec 64) (s : State) :
    exec (.rowEdge m row aligned holdover t) s = execRowEdge m row aligned holdover t s := rfl
@[simp] theorem exec_edgeMissed (m : Motif) (s : State) : exec (.edgeMissed m) s = execEdgeMissed m s := rfl
@[simp] theorem exec_gaugeBudget (m : Motif) (row : BitVec 48) (cut : Bool) (eM eRes eBe : BitVec 32) (s : State) :
    exec (.gaugeBudget m row cut eM eRes eBe) s = execGaugeBudget m row cut eM eRes eBe s := rfl
@[simp] theorem exec_floorBudget (m : Motif) (s : State) : exec (.floorBudget m) s = execFloorBudget m s := rfl
@[simp] theorem exec_edgePass (m : Motif) (s : State) : exec (.edgePass m) s = execEdgePass m s := rfl
@[simp] theorem exec_bodyStart (m : Motif) (s : State) : exec (.bodyStart m) s = execBodyStart m s := rfl
@[simp] theorem exec_deadlineMissed (m : Motif) (qid : BitVec 20) (idx : BitVec 24) (s : State) :
    exec (.deadlineMissed m qid idx) s = execDeadlineMissed m qid idx s := rfl
@[simp] theorem exec_gaugeReport (r : GaugeReport) (s : State) : exec (.gaugeReport r) s = execGaugeReport r s := rfl
@[simp] theorem exec_governorCompute (eYoke eSeams : BitVec 32) (s : State) :
    exec (.governorCompute eYoke eSeams) s = execGovernorCompute eYoke eSeams s := rfl
@[simp] theorem exec_guardStart (m : Motif) (s : State) : exec (.guardStart m) s = execGuardStart m s := rfl
@[simp] theorem exec_powerSample (m : Motif) (mw : BitVec 32) (tj : BitVec 8) (s : State) :
    exec (.powerSample m mw tj) s = execPowerSample m mw tj s := rfl
@[simp] theorem exec_stitchArrival (m : Motif) (qid : BitVec 20) (idx : BitVec 24) (s : State) :
    exec (.stitchArrival m qid idx) s = execStitchArrival m qid idx s := rfl
@[simp] theorem exec_stitchStart (m : Motif) (s : State) : exec (.stitchStart m) s = execStitchStart m s := rfl
@[simp] theorem exec_stitchDone (m : Motif) (s : State) : exec (.stitchDone m) s = execStitchDone m s := rfl
@[simp] theorem exec_stitchOverrun (m : Motif) (s : State) : exec (.stitchOverrun m) s = execStitchOverrun m s := rfl
@[simp] theorem exec_stitchHung (m : Motif) (s : State) : exec (.stitchHung m) s = execStitchHung m s := rfl
@[simp] theorem exec_gaLimitWrite (v : BitVec 32) (s : State) : exec (.gaLimitWrite v) s = execGaLimitWrite v s := rfl
@[simp] theorem exec_hallTimeStep (step : Int) (s : State) :
    exec (.hallTimeStep step) s = execHallTimeStep step s := rfl
@[simp] theorem exec_rowUnaligned (s : State) : exec (.rowUnaligned) s = execRowUnaligned s := rfl
@[simp] theorem exec_late (src : Mesh) (row : BitVec 48) (s : State) :
    exec (.late src row) s = execLate src row s := rfl
@[simp] theorem exec_mma (m : Motif) (s : State) : exec (.mma m) s = execMma m s := rfl
@[simp] theorem exec_chunkPromotion (m : Motif) (s : State) :
    exec (.chunkPromotion m) s = execChunkPromotion m s := rfl
@[simp] theorem exec_drain (m : Motif) (s : State) : exec (.drain m) s = execDrain m s := rfl
@[simp] theorem exec_zero (m : Motif) (s : State) : exec (.zero m) s = execZero m s := rfl
@[simp] theorem exec_promote (m : Motif) (s : State) : exec (.promote m) s = execPromote m s := rfl
@[simp] theorem exec_save (m : Motif) (s : State) : exec (.save m) s = execSave m s := rfl
@[simp] theorem exec_saveCounterAdd (m : Motif) (s : State) :
    exec (.saveCounterAdd m) s = execSaveCounterAdd m s := rfl
@[simp] theorem exec_restore (m : Motif) (s : State) : exec (.restore m) s = execRestore m s := rfl
@[simp] theorem exec_arrayDescDone (m : Motif) (u : ArrayUnit) (s : State) :
    exec (.arrayDescDone m u) s = execArrayDescDone m u s := rfl
@[simp] theorem exec_mxAccstateWrite (m : Motif) (set : Fin 4) (v : BitVec 32) (s : State) :
    exec (.mxAccstateWrite m set v) s = execMxAccstateWrite m set v s := rfl
@[simp] theorem exec_map (m : Motif) (s : State) : exec (.map m) s = execMap m s := rfl
@[simp] theorem exec_reduce (m : Motif) (s : State) : exec (.reduce m) s = execReduce m s := rfl
@[simp] theorem exec_gather (m : Motif) (s : State) : exec (.gather m) s = execGather m s := rfl
@[simp] theorem exec_shuffle (m : Motif) (s : State) : exec (.shuffle m) s = execShuffle m s := rfl
@[simp] theorem exec_pack (m : Motif) (s : State) : exec (.pack m) s = execPack m s := rfl
@[simp] theorem exec_unpack (m : Motif) (s : State) : exec (.unpack m) s = execUnpack m s := rfl
@[simp] theorem exec_psum (m : Motif) (s : State) : exec (.psum m) s = execPsum m s := rfl
@[simp] theorem exec_psumCounterPoll (m : Motif) (s : State) :
    exec (.psumCounterPoll m) s = execPsumCounterPoll m s := rfl
@[simp] theorem exec_partialTimeout (m : Motif) (s : State) :
    exec (.partialTimeout m) s = execPartialTimeout m s := rfl
@[simp] theorem exec_veDescDone (m : Motif) (s : State) : exec (.veDescDone m) s = execVeDescDone m s := rfl
@[simp] theorem exec_launch (m : Motif) (s : State) : exec (.launch m) s = execLaunch m s := rfl
@[simp] theorem exec_blockStart (m : Motif) (s : State) : exec (.blockStart m) s = execBlockStart m s := rfl
@[simp] theorem exec_launchDone (m : Motif) (s : State) : exec (.launchDone m) s = execLaunchDone m s := rfl
@[simp] theorem exec_vif (m : Motif) (g : GroupSlot) (s : State) : exec (.vif m g) s = execVif m g s := rfl
@[simp] theorem exec_velse (m : Motif) (g : GroupSlot) (s : State) : exec (.velse m g) s = execVelse m g s := rfl
@[simp] theorem exec_vend (m : Motif) (g : GroupSlot) (s : State) : exec (.vend m g) s = execVend m g s := rfl
@[simp] theorem exec_vany (m : Motif) (g : GroupSlot) (s : State) : exec (.vany m g) s = execVany m g s := rfl
@[simp] theorem exec_vall (m : Motif) (g : GroupSlot) (s : State) : exec (.vall m g) s = execVall m g s := rfl
@[simp] theorem exec_vballot (m : Motif) (g : GroupSlot) (s : State) :
    exec (.vballot m g) s = execVballot m g s := rfl
@[simp] theorem exec_vshfl (m : Motif) (g : GroupSlot) (s : State) : exec (.vshfl m g) s = execVshfl m g s := rfl
@[simp] theorem exec_vshfli (m : Motif) (g : GroupSlot) (s : State) : exec (.vshfli m g) s = execVshfli m g s := rfl
@[simp] theorem exec_vbar (m : Motif) (g : GroupSlot) (s : State) : exec (.vbar m g) s = execVbar m g s := rfl
@[simp] theorem exec_vbarRelease (m : Motif) (block : BitVec 32) (s : State) :
    exec (.vbarRelease m block) s = execVbarRelease m block s := rfl
@[simp] theorem exec_vcbar (m : Motif) (g : GroupSlot) (s : State) : exec (.vcbar m g) s = execVcbar m g s := rfl
@[simp] theorem exec_vcbarRelease (m : Motif) (block : BitVec 32) (s : State) :
    exec (.vcbarRelease m block) s = execVcbarRelease m block s := rfl
@[simp] theorem exec_vexit (m : Motif) (g : GroupSlot) (s : State) : exec (.vexit m g) s = execVexit m g s := rfl
@[simp] theorem exec_vdispA (m : Motif) (g : GroupSlot) (s : State) : exec (.vdispA m g) s = execVdispA m g s := rfl
@[simp] theorem exec_vdispV (m : Motif) (g : GroupSlot) (s : State) : exec (.vdispV m g) s = execVdispV m g s := rfl
@[simp] theorem exec_vwait (m : Motif) (g : GroupSlot) (s : State) : exec (.vwait m g) s = execVwait m g s := rfl
@[simp] theorem exec_vwaitRecheck (m : Motif) (g : GroupSlot) (s : State) :
    exec (.vwaitRecheck m g) s = execVwaitRecheck m g s := rfl
@[simp] theorem exec_vcasW (m : Motif) (g : GroupSlot) (s : State) : exec (.vcasW m g) s = execVcasW m g s := rfl
@[simp] theorem exec_vcasD (m : Motif) (g : GroupSlot) (s : State) : exec (.vcasD m g) s = execVcasD m g s := rfl
@[simp] theorem exec_vafaddS (m : Motif) (g : GroupSlot) (s : State) :
    exec (.vafaddS m g) s = execVafaddS m g s := rfl
@[simp] theorem exec_vcvtn (m : Motif) (g : GroupSlot) (s : State) : exec (.vcvtn m g) s = execVcvtn m g s := rfl
@[simp] theorem exec_vcvtw (m : Motif) (g : GroupSlot) (s : State) : exec (.vcvtw m g) s = execVcvtw m g s := rfl
@[simp] theorem exec_zld (m : Motif) (g : GroupSlot) (s : State) : exec (.zld m g) s = execZld m g s := rfl
@[simp] theorem exec_zst (m : Motif) (g : GroupSlot) (s : State) : exec (.zst m g) s = execZst m g s := rfl
@[simp] theorem exec_zmma (m : Motif) (g : GroupSlot) (s : State) : exec (.zmma m g) s = execZmma m g s := rfl
@[simp] theorem exec_zzero (m : Motif) (g : GroupSlot) (s : State) : exec (.zzero m g) s = execZzero m g s := rfl
@[simp] theorem exec_needleLoad (m : Motif) (g : GroupSlot) (s : State) :
    exec (.needleLoad m g) s = execNeedleLoad m g s := rfl
@[simp] theorem exec_needleStore (m : Motif) (g : GroupSlot) (s : State) :
    exec (.needleStore m g) s = execNeedleStore m g s := rfl
@[simp] theorem exec_needleAmo (m : Motif) (g : GroupSlot) (s : State) :
    exec (.needleAmo m g) s = execNeedleAmo m g s := rfl
@[simp] theorem exec_needleLr (m : Motif) (g : GroupSlot) (s : State) :
    exec (.needleLr m g) s = execNeedleLr m g s := rfl
@[simp] theorem exec_needleSc (m : Motif) (g : GroupSlot) (s : State) :
    exec (.needleSc m g) s = execNeedleSc m g s := rfl
@[simp] theorem exec_needleFence (m : Motif) (g : GroupSlot) (s : State) :
    exec (.needleFence m g) s = execNeedleFence m g s := rfl
@[simp] theorem exec_needleBranch (m : Motif) (g : GroupSlot) (s : State) :
    exec (.needleBranch m g) s = execNeedleBranch m g s := rfl
@[simp] theorem exec_needleCsrWrite (m : Motif) (g : GroupSlot) (s : State) :
    exec (.needleCsrWrite m g) s = execNeedleCsrWrite m g s := rfl
@[simp] theorem exec_needleEcall (m : Motif) (g : GroupSlot) (s : State) :
    exec (.needleEcall m g) s = execNeedleEcall m g s := rfl
@[simp] theorem exec_needleEbreak (m : Motif) (g : GroupSlot) (s : State) :
    exec (.needleEbreak m g) s = execNeedleEbreak m g s := rfl
@[simp] theorem exec_needleOtherInstruction (m : Motif) (g : GroupSlot) (s : State) :
    exec (.needleOtherInstruction m g) s = execNeedleOtherInstruction m g s := rfl
@[simp] theorem exec_hostDoorbell (off : BitVec 26) (size : BitVec 13) (v : BitVec 64) (rid : BitVec 16) (s : State) :
    exec (.hostDoorbell off size v rid) s = execHostDoorbell off size v rid s := rfl
@[simp] theorem exec_nodeCoreDoorbell (off : BitVec 26) (v : BitVec 64) (s : State) :
    exec (.nodeCoreDoorbell off v) s = execNodeCoreDoorbell off v s := rfl
@[simp] theorem exec_commandFetch (qid : BitVec 20) (data : BitVec 4096) (poisoned : Bool) (s : State) :
    exec (.commandFetch qid data poisoned) s = execCommandFetch qid data poisoned s := rfl
@[simp] theorem exec_seqReread (qid : BitVec 20) (data : BitVec 4096) (s : State) :
    exec (.seqReread qid data) s = execSeqReread qid data s := rfl
@[simp] theorem exec_fetchReissue (qid : BitVec 20) (s : State) :
    exec (.fetchReissue qid) s = execFetchReissue qid s := rfl
@[simp] theorem exec_createCq (s : State) : exec (.createCq) s = execCreateCq s := rfl
@[simp] theorem exec_createSq (s : State) : exec (.createSq) s = execCreateSq s := rfl
@[simp] theorem exec_stopSq (s : State) : exec (.stopSq) s = execStopSq s := rfl
@[simp] theorem exec_stopSqDone (qid : BitVec 20) (s : State) : exec (.stopSqDone qid) s = execStopSqDone qid s := rfl
@[simp] theorem exec_deleteSq (s : State) : exec (.deleteSq) s = execDeleteSq s := rfl
@[simp] theorem exec_deleteCq (s : State) : exec (.deleteCq) s = execDeleteCq s := rfl
@[simp] theorem exec_bindSq (s : State) : exec (.bindSq) s = execBindSq s := rfl
@[simp] theorem exec_bindSqDone (s : State) : exec (.bindSqDone) s = execBindSqDone s := rfl
@[simp] theorem exec_nop (qid : BitVec 20) (s : State) : exec (.nop qid) s = execNop qid s := rfl
@[simp] theorem exec_stitch (qid : BitVec 20) (s : State) : exec (.stitch qid) s = execStitch qid s := rfl
@[simp] theorem exec_stitchDispatch (qid : BitVec 20) (s : State) :
    exec (.stitchDispatch qid) s = execStitchDispatch qid s := rfl
@[simp] theorem exec_dlistItemIssue (m : Motif) (s : State) :
    exec (.dlistItemIssue m) s = execDlistItemIssue m s := rfl
@[simp] theorem exec_stitchCommandDone (qid : BitVec 20) (idx : BitVec 24) (s : State) :
    exec (.stitchCommandDone qid idx) s = execStitchCommandDone qid idx s := rfl
@[simp] theorem exec_writeInline (qid : BitVec 20) (s : State) :
    exec (.writeInline qid) s = execWriteInline qid s := rfl
@[simp] theorem exec_copy (qid : BitVec 20) (s : State) : exec (.copy qid) s = execCopy qid s := rfl
@[simp] theorem exec_hostReadCompletion (qid : BitVec 20) (idx : BitVec 24) (data : List (BitVec 8)) (outcome : HostReadOutcome) (s : State) :
    exec (.hostReadCompletion qid idx data outcome) s = execHostReadCompletion qid idx data outcome s := rfl
@[simp] theorem exec_skein (qid : BitVec 20) (s : State) : exec (.skein qid) s = execSkein qid s := rfl
@[simp] theorem exec_signal (qid : BitVec 20) (s : State) : exec (.signal qid) s = execSignal qid s := rfl
@[simp] theorem exec_wait (qid : BitVec 20) (s : State) : exec (.wait qid) s = execWait qid s := rfl
@[simp] theorem exec_waitSatisfied (qid : BitVec 20) (s : State) :
    exec (.waitSatisfied qid) s = execWaitSatisfied qid s := rfl
@[simp] theorem exec_prefetch (qid : BitVec 20) (data : List (BitVec 8)) (ok : Bool) (s : State) :
    exec (.prefetch qid data ok) s = execPrefetch qid data ok s := rfl
@[simp] theorem exec_adviseEvict (qid : BitVec 20) (ok : Bool) (s : State) :
    exec (.adviseEvict qid ok) s = execAdviseEvict qid ok s := rfl
@[simp] theorem exec_adviseDrop (qid : BitVec 20) (s : State) : exec (.adviseDrop qid) s = execAdviseDrop qid s := rfl
@[simp] theorem exec_adviseWarm (qid : BitVec 20) (s : State) : exec (.adviseWarm qid) s = execAdviseWarm qid s := rfl
@[simp] theorem exec_qeCqDb (v : BitVec 64) (s : State) : exec (.qeCqDb v) s = execQeCqDb v s := rfl
@[simp] theorem exec_qeAdminSqWrite (v : BitVec 64) (s : State) :
    exec (.qeAdminSqWrite v) s = execQeAdminSqWrite v s := rfl
@[simp] theorem exec_qeAdminCqWrite (v : BitVec 64) (s : State) :
    exec (.qeAdminCqWrite v) s = execQeAdminCqWrite v s := rfl
@[simp] theorem exec_skeinOpen (s : State) : exec (.skeinOpen) s = execSkeinOpen s := rfl
@[simp] theorem exec_skeinAppend (s : State) : exec (.skeinAppend) s = execSkeinAppend s := rfl
@[simp] theorem exec_skeinRead (s : State) : exec (.skeinRead) s = execSkeinRead s := rfl
@[simp] theorem exec_skeinMark (s : State) : exec (.skeinMark) s = execSkeinMark s := rfl
@[simp] theorem exec_skeinRewind (s : State) : exec (.skeinRewind) s = execSkeinRewind s := rfl
@[simp] theorem exec_skeinRelease (s : State) : exec (.skeinRelease) s = execSkeinRelease s := rfl
@[simp] theorem exec_skeinRetract (s : State) : exec (.skeinRetract) s = execSkeinRetract s := rfl
@[simp] theorem exec_skeinClose (s : State) : exec (.skeinClose) s = execSkeinClose s := rfl
@[simp] theorem exec_skCountsLoRead (stream : BitVec 17) (s : State) :
    exec (.skCountsLoRead stream) s = execSkCountsLoRead stream s := rfl
@[simp] theorem exec_rwRowLoRead (s : State) : exec (.rwRowLoRead) s = execRwRowLoRead s := rfl
@[simp] theorem exec_counterLoWordRead (path : AccessPath) (addr : BitVec 26) (s : State) :
    exec (.counterLoWordRead path addr) s = execCounterLoWordRead path addr s := rfl
@[simp] theorem exec_rdS (home : Stack) (q : Mesh) (line : BitVec 33) (s : State) :
    exec (.rdS home q line) s = execRdS home q line s := rfl
@[simp] theorem exec_rdX (home : Stack) (q : Mesh) (line : BitVec 33) (s : State) :
    exec (.rdX home q line) s = execRdX home q line s := rfl
@[simp] theorem exec_upg (home : Stack) (q : Mesh) (line : BitVec 33) (s : State) :
    exec (.upg home q line) s = execUpg home q line s := rfl
@[simp] theorem exec_wb (home : Stack) (q : Mesh) (line : BitVec 33) (data : LineData) (s : State) :
    exec (.wb home q line data) s = execWb home q line data s := rfl
@[simp] theorem exec_cleanEvict (home : Stack) (q : Mesh) (line : BitVec 33) (s : State) :
    exec (.cleanEvict home q line) s = execCleanEvict home q line s := rfl
@[simp] theorem exec_rdNc (home : Stack) (q : Mesh) (line : BitVec 33) (s : State) :
    exec (.rdNc home q line) s = execRdNc home q line s := rfl
@[simp] theorem exec_wrNc (home : Stack) (q : Mesh) (line : BitVec 33) (data : LineData) (mask : BitVec 128) (hint : Option Mesh) (s : State) :
    exec (.wrNc home q line data mask hint) s = execWrNc home q line data mask hint s := rfl
@[simp] theorem exec_atomFar (home : Stack) (q : Mesh) (line : BitVec 33) (op : FarAtomic) (s : State) :
    exec (.atomFar home q line op) s = execAtomFar home q line op s := rfl
@[simp] theorem exec_farAtomicExecute (home : Stack) (s : State) :
    exec (.farAtomicExecute home) s = execFarAtomicExecute home s := rfl
@[simp] theorem exec_fwdS (owner : Mesh) (q : Mesh) (line : BitVec 33) (s : State) :
    exec (.fwdS owner q line) s = execFwdS owner q line s := rfl
@[simp] theorem exec_fwdX (owner : Mesh) (q : Mesh) (line : BitVec 33) (s : State) :
    exec (.fwdX owner q line) s = execFwdX owner q line s := rfl
@[simp] theorem exec_fwdNc (owner : Mesh) (q : Mesh) (line : BitVec 33) (s : State) :
    exec (.fwdNc owner q line) s = execFwdNc owner q line s := rfl
@[simp] theorem exec_recall (owner : Mesh) (line : BitVec 33) (s : State) :
    exec (.recall owner line) s = execRecall owner line s := rfl
@[simp] theorem exec_inv (sharer : Mesh) (q : Mesh) (line : BitVec 33) (s : State) :
    exec (.inv sharer q line) s = execInv sharer q line s := rfl
@[simp] theorem exec_push (target : Mesh) (line : BitVec 33) (data : LineData) (s : State) :
    exec (.push target line data) s = execPush target line data s := rfl
@[simp] theorem exec_homeRsp (q : Mesh) (line : BitVec 33) (st : Moesi) (acks : BitVec 7) (data : Option LineData) (s : State) :
    exec (.homeRsp q line st acks data) s = execHomeRsp q line st acks data s := rfl
@[simp] theorem exec_data (q : Mesh) (line : BitVec 33) (st : Moesi) (data : LineData) (s : State) :
    exec (.data q line st data) s = execData q line st data s := rfl
@[simp] theorem exec_invAck (q : Mesh) (sharer : Mesh) (line : BitVec 33) (s : State) :
    exec (.invAck q sharer line) s = execInvAck q sharer line s := rfl
@[simp] theorem exec_recallData (home : Stack) (owner : Mesh) (line : BitVec 33) (data : LineData) (s : State) :
    exec (.recallData home owner line data) s = execRecallData home owner line data s := rfl
@[simp] theorem exec_nodata (home : Stack) (owner : Mesh) (line : BitVec 33) (s : State) :
    exec (.nodata home owner line) s = execNodata home owner line s := rfl
@[simp] theorem exec_pushAck (home : Stack) (target : Mesh) (line : BitVec 33) (s : State) :
    exec (.pushAck home target line) s = execPushAck home target line s := rfl
@[simp] theorem exec_pushDrop (home : Stack) (target : Mesh) (line : BitVec 33) (s : State) :
    exec (.pushDrop home target line) s = execPushDrop home target line s := rfl
@[simp] theorem exec_done (home : Stack) (q : Mesh) (line : BitVec 33) (s : State) :
    exec (.done home q line) s = execDone home q line s := rfl
@[simp] theorem exec_reservationServe (home : Stack) (line : BitVec 33) (s : State) :
    exec (.reservationServe home line) s = execReservationServe home line s := rfl
@[simp] theorem exec_nack (q : Mesh) (line : BitVec 33) (cause : NackCause) (s : State) :
    exec (.nack q line cause) s = execNack q line cause s := rfl
@[simp] theorem exec_nackRetry (q : Mesh) (line : BitVec 33) (s : State) :
    exec (.nackRetry q line) s = execNackRetry q line s := rfl
@[simp] theorem exec_reserved (q : Mesh) (line : BitVec 33) (s : State) :
    exec (.reserved q line) s = execReserved q line s := rfl
@[simp] theorem exec_wbAck (owner : Mesh) (line : BitVec 33) (s : State) :
    exec (.wbAck owner line) s = execWbAck owner line s := rfl
@[simp] theorem exec_wrAck (q : Mesh) (line : BitVec 33) (s : State) :
    exec (.wrAck q line) s = execWrAck q line s := rfl
@[simp] theorem exec_rdRsp (q : Mesh) (line : BitVec 33) (data : LineData) (s : State) :
    exec (.rdRsp q line data) s = execRdRsp q line data s := rfl
@[simp] theorem exec_atomRsp (q : Mesh) (line : BitVec 33) (olds : List (BitVec 64)) (contended poisoned : Bool) (s : State) :
    exec (.atomRsp q line olds contended poisoned) s = execAtomRsp q line olds contended poisoned s := rfl
@[simp] theorem exec_memReq (src : Mesh) (tag : BitVec 16) (r : MemReq) (s : State) :
    exec (.memReq src tag r) s = execMemReq src tag r s := rfl
@[simp] theorem exec_memRsp (dst : Mesh) (tag : BitVec 16) (ok : Bool) (data : MemData) (s : State) :
    exec (.memRsp dst tag ok data) s = execMemRsp dst tag ok data s := rfl
@[simp] theorem exec_intMessage (src : Mesh) (vector : BitVec 11) (s : State) :
    exec (.intMessage src vector) s = execIntMessage src vector s := rfl
@[simp] theorem exec_l2PredClear (m : Motif) (s : State) : exec (.l2PredClear m) s = execL2PredClear m s := rfl
@[simp] theorem exec_stackTempRead (k : Stack) (temp : Option (BitVec 8)) (s : State) :
    exec (.stackTempRead k temp) s = execStackTempRead k temp s := rfl
@[simp] theorem exec_stackPowerSample (k : Stack) (mw : BitVec 32) (s : State) :
    exec (.stackPowerSample k mw) s = execStackPowerSample k mw s := rfl
@[simp] theorem exec_perBankRefresh (k : Stack) (pc : BitVec 6) (bank : BitVec 6) (s : State) :
    exec (.perBankRefresh k pc bank) s = execPerBankRefresh k pc bank s := rfl
@[simp] theorem exec_rfm (k : Stack) (pc : BitVec 6) (bank : BitVec 6) (threshold : BitVec 16) (s : State) :
    exec (.rfm k pc bank threshold) s = execRfm k pc bank threshold s := rfl
@[simp] theorem exec_patrolScrub (k : Stack) (pc : BitVec 6) (s : State) :
    exec (.patrolScrub k pc) s = execPatrolScrub k pc s := rfl
@[simp] theorem exec_softRepair (k : Stack) (pc : BitVec 6) (row : BitVec 14) (sid : BitVec 2) (bank : BitVec 4) (repairLeft : Bool) (s : State) :
    exec (.softRepair k pc row sid bank repairLeft) s = execSoftRepair k pc row sid bank repairLeft s := rfl
@[simp] theorem exec_hotMean (k : Stack) (mean : BitVec 32) (s : State) :
    exec (.hotMean k mean) s = execHotMean k mean s := rfl
@[simp] theorem exec_hbGrant (v : BitVec 32) (s : State) : exec (.hbGrant v) s = execHbGrant v s := rfl
@[simp] theorem exec_evacSegmentCopy (s : State) : exec (.evacSegmentCopy) s = execEvacSegmentCopy s := rfl
@[simp] theorem exec_evacSegmentCommit (s : State) : exec (.evacSegmentCommit) s = execEvacSegmentCommit s := rfl
@[simp] theorem exec_hbInjectArm (k : Stack) (v : BitVec 32) (s : State) :
    exec (.hbInjectArm k v) s = execHbInjectArm k v s := rfl
@[simp] theorem exec_hbTgenStart (k : Stack) (pc : BitVec 6) (v : BitVec 32) (s : State) :
    exec (.hbTgenStart k pc v) s = execHbTgenStart k pc v s := rfl
@[simp] theorem exec_hbTgenDone (k : Stack) (pc : BitVec 6) (miscompare ecc : BitVec 64) (firstBad : Option (BitVec 22)) (s : State) :
    exec (.hbTgenDone k pc miscompare ecc firstBad) s = execHbTgenDone k pc miscompare ecc firstBad s := rfl
@[simp] theorem exec_faultReport (m : Mesh) (f : AgentFault) (s : State) :
    exec (.faultReport m f) s = execFaultReport m f s := rfl
@[simp] theorem exec_faultWindowClose (entry : BitVec 8) (s : State) :
    exec (.faultWindowClose entry) s = execFaultWindowClose entry s := rfl
@[simp] theorem exec_faultResume (entry gen : BitVec 8) (s : State) :
    exec (.faultResume entry gen) s = execFaultResume entry gen s := rfl
@[simp] theorem exec_faultAbort (entry gen : BitVec 8) (s : State) :
    exec (.faultAbort entry gen) s = execFaultAbort entry gen s := rfl
@[simp] theorem exec_invPage (asid : BitVec 12) (s : State) : exec (.invPage asid) s = execInvPage asid s := rfl
@[simp] theorem exec_invRange (pages : BitVec 17) (asid : BitVec 12) (s : State) :
    exec (.invRange pages asid) s = execInvRange pages asid s := rfl
@[simp] theorem exec_invAsid (asid : BitVec 12) (s : State) : exec (.invAsid asid) s = execInvAsid asid s := rfl
@[simp] theorem exec_invAll (s : State) : exec (.invAll) s = execInvAll s := rfl
@[simp] theorem exec_tlbInv (die : Mesh) (seq : BitVec 16) (s : State) :
    exec (.tlbInv die seq) s = execTlbInv die seq s := rfl
@[simp] theorem exec_invDone (die : Mesh) (seq : BitVec 16) (s : State) :
    exec (.invDone die seq) s = execInvDone die seq s := rfl
@[simp] theorem exec_tuFringCiWrite (v : BitVec 32) (s : State) :
    exec (.tuFringCiWrite v) s = execTuFringCiWrite v s := rfl
@[simp] theorem exec_tuFringBaseWrite (v : BitVec 64) (s : State) :
    exec (.tuFringBaseWrite v) s = execTuFringBaseWrite v s := rfl
@[simp] theorem exec_regRd (addr : BitVec 26) (wide : Bool) (s : State) :
    exec (.regRd addr wide) s = execRegRd addr wide s := rfl
@[simp] theorem exec_regWr (addr : BitVec 26) (wide : Bool) (v : BitVec 64) (s : State) :
    exec (.regWr addr wide v) s = execRegWr addr wide v s := rfl
@[simp] theorem exec_regRsp (addr : BitVec 26) (wide : Bool) (v : BitVec 64) (s : State) :
    exec (.regRsp addr wide v) s = execRegRsp addr wide v s := rfl
@[simp] theorem exec_regTimeout (addr : BitVec 26) (wide : Bool) (s : State) :
    exec (.regTimeout addr wide) s = execRegTimeout addr wide s := rfl
@[simp] theorem exec_routeSet (die : Mesh) (row : BitVec 48) (table : BitVec 11) (s : State) :
    exec (.routeSet die row table) s = execRouteSet die row table s := rfl
@[simp] theorem exec_mapSet (die : Mesh) (row : BitVec 48) (salt : BitVec 64) (ranges : List (BitVec 48 × BitVec 48)) (s : State) :
    exec (.mapSet die row salt ranges) s = execMapSet die row salt ranges s := rfl
@[simp] theorem exec_bindSet (die : Mesh) (row : BitVec 48) (qid : BitVec 20) (mask : BitVec 48) (cls : BitVec 4) (s : State) :
    exec (.bindSet die row qid mask cls) s = execBindSet die row qid mask cls s := rfl
@[simp] theorem exec_posSet (die : Mesh) (row : BitVec 48) (m : Motif) (st : PosState) (s : State) :
    exec (.posSet die row m st) s = execPosSet die row m st s := rfl
@[simp] theorem exec_patternData (die : Mesh) (off : BitVec 23) (data : BitVec 224) (s : State) :
    exec (.patternData die off data) s = execPatternData die off data s := rfl
@[simp] theorem exec_seqCmd (die : Mesh) (cmd : SeqCmd) (s : State) :
    exec (.seqCmd die cmd) s = execSeqCmd die cmd s := rfl
@[simp] theorem exec_faultRpt (kind : BitVec 3) (id : BitVec 12) (cause : BitVec 8) (s : State) :
    exec (.faultRpt kind id cause) s = execFaultRpt kind id cause s := rfl
@[simp] theorem exec_chainAck (src hop : Mesh) (seq : BitVec 8) (s : State) :
    exec (.chainAck src hop seq) s = execChainAck src hop seq s := rfl
@[simp] theorem exec_chainResend (src hop : Mesh) (f : LostFrame) (s : State) :
    exec (.chainResend src hop f) s = execChainResend src hop f s := rfl
@[simp] theorem exec_seamTrainingDone (seam : SeamIx) (maskA maskB : BitVec 8) (sbLanes : BitVec 4) (s : State) :
    exec (.seamTrainingDone seam maskA maskB sbLanes) s = execSeamTrainingDone seam maskA maskB sbLanes s := rfl
@[simp] theorem exec_widthAdv (seam : SeamIx) (side : Bool) (mask : BitVec 8) (s : State) :
    exec (.widthAdv seam side mask) s = execWidthAdv seam side mask s := rfl
@[simp] theorem exec_widthSet (seam : SeamIx) (side : Bool) (width : BitVec 4) (mask : BitVec 8) (s : State) :
    exec (.widthSet seam side width mask) s = execWidthSet seam side width mask s := rfl
@[simp] theorem exec_widthSetTimeout (seam : SeamIx) (s : State) :
    exec (.widthSetTimeout seam) s = execWidthSetTimeout seam s := rfl
@[simp] theorem exec_seamTestPatternDone (seam : SeamIx) (pass : Bool) (s : State) :
    exec (.seamTestPatternDone seam pass) s = execSeamTestPatternDone seam pass s := rfl
@[simp] theorem exec_seamState (die : Mesh) (seam : SeamIx) (mask : BitVec 8) (s : State) :
    exec (.seamState die seam mask) s = execSeamState die seam mask s := rfl
@[simp] theorem exec_seamFault (seam : SeamIx) (linkDown : Bool) (s : State) :
    exec (.seamFault seam linkDown) s = execSeamFault seam linkDown s := rfl
@[simp] theorem exec_guestLinkUp (g : Guest) (s : State) : exec (.guestLinkUp g) s = execGuestLinkUp g s := rfl
@[simp] theorem exec_vspCap (g : Guest) (part : BitVec 2) (block : BitVec 224) (s : State) :
    exec (.vspCap g part block) s = execVspCap g part block s := rfl
@[simp] theorem exec_vspGrant (g : Guest) (crc : BitVec 32) (s : State) :
    exec (.vspGrant g crc) s = execVspGrant g crc s := rfl
@[simp] theorem exec_vspAck (g : Guest) (crc : BitVec 32) (s : State) :
    exec (.vspAck g crc) s = execVspAck g crc s := rfl
@[simp] theorem exec_vspTimeout (g : Guest) (s : State) : exec (.vspTimeout g) s = execVspTimeout g s := rfl
@[simp] theorem exec_guestRequest (g : Guest) (r : MemReq) (s : State) :
    exec (.guestRequest g r) s = execGuestRequest g r s := rfl
@[simp] theorem exec_bar0BadAccess (write : Bool) (addr : BitVec 26) (size : BitVec 13) (s : State) :
    exec (.bar0BadAccess write addr size) s = execBar0BadAccess write addr size s := rfl
@[simp] theorem exec_bar4Read (off : BitVec 40) (len : BitVec 13) (rid : BitVec 16) (s : State) :
    exec (.bar4Read off len rid) s = execBar4Read off len rid s := rfl
@[simp] theorem exec_bar4Write (off : BitVec 40) (data : List (BitVec 8)) (be : List Bool) (ep : Bool) (rid : BitVec 16) (s : State) :
    exec (.bar4Write off data be ep rid) s = execBar4Write off data be ep rid s := rfl
@[simp] theorem exec_bar4Fetchadd (off : BitVec 40) (wide : Bool) (v : BitVec 64) (rid : BitVec 16) (s : State) :
    exec (.bar4Fetchadd off wide v rid) s = execBar4Fetchadd off wide v rid s := rfl
@[simp] theorem exec_bar4Swap (off : BitVec 40) (wide : Bool) (v : BitVec 64) (rid : BitVec 16) (s : State) :
    exec (.bar4Swap off wide v rid) s = execBar4Swap off wide v rid s := rfl
@[simp] theorem exec_bar4Cas (off : BitVec 40) (size : CasSize) (cmp v : BitVec 128) (rid : BitVec 16) (s : State) :
    exec (.bar4Cas off size cmp v rid) s = execBar4Cas off size cmp v rid s := rfl
@[simp] theorem exec_linkRetrain (speed : BitVec 3) (width : BitVec 6) (s : State) :
    exec (.linkRetrain speed width) s = execLinkRetrain speed width s := rfl
@[simp] theorem exec_hostSideReset (cause : HostResetCause) (s : State) :
    exec (.hostSideReset cause) s = execHostSideReset cause s := rfl
@[simp] theorem exec_resizableBarWrite (log2 : BitVec 6) (s : State) :
    exec (.resizableBarWrite log2) s = execResizableBarWrite log2 s := rfl
@[simp] theorem exec_memoryDecodeEnable (s : State) : exec (.memoryDecodeEnable) s = execMemoryDecodeEnable s := rfl
@[simp] theorem exec_d3hotEntry (s : State) : exec (.d3hotEntry) s = execD3hotEntry s := rfl
@[simp] theorem exec_d0Return (s : State) : exec (.d0Return) s = execD0Return s := rfl
@[simp] theorem exec_msixUnmask (vector : Option (BitVec 11)) (s : State) :
    exec (.msixUnmask vector) s = execMsixUnmask vector s := rfl
@[simp] theorem exec_completionTimeout (qid : BitVec 20) (idx : BitVec 24) (s : State) :
    exec (.completionTimeout qid idx) s = execCompletionTimeout qid idx s := rfl
@[simp] theorem exec_flushReadDone (qid : BitVec 20) (idx : BitVec 24) (ok : Bool) (s : State) :
    exec (.flushReadDone qid idx ok) s = execFlushReadDone qid idx ok s := rfl
@[simp] theorem exec_pxLostPop (s : State) : exec (.pxLostPop) s = execPxLostPop s := rfl
@[simp] theorem exec_remoteRequest (r : RemoteReq) (s : State) :
    exec (.remoteRequest r) s = execRemoteRequest r s := rfl
@[simp] theorem exec_fabricRead (f : Frame) (s : State) : exec (.fabricRead f) s = execFabricRead f s := rfl
@[simp] theorem exec_fabricReadRsp (f : Frame) (s : State) : exec (.fabricReadRsp f) s = execFabricReadRsp f s := rfl
@[simp] theorem exec_fabricWrite (f : Frame) (s : State) : exec (.fabricWrite f) s = execFabricWrite f s := rfl
@[simp] theorem exec_fabricWriteRsp (f : Frame) (s : State) :
    exec (.fabricWriteRsp f) s = execFabricWriteRsp f s := rfl
@[simp] theorem exec_fabricAtomic (f : Frame) (s : State) : exec (.fabricAtomic f) s = execFabricAtomic f s := rfl
@[simp] theorem exec_fabricAtomicRsp (f : Frame) (s : State) :
    exec (.fabricAtomicRsp f) s = execFabricAtomicRsp f s := rfl
@[simp] theorem exec_fabricAck (f : Frame) (s : State) : exec (.fabricAck f) s = execFabricAck f s := rfl
@[simp] theorem exec_fabricNak (f : Frame) (s : State) : exec (.fabricNak f) s = execFabricNak f s := rfl
@[simp] theorem exec_ackTimer (node lot : BitVec 16) (s : State) :
    exec (.ackTimer node lot) s = execAckTimer node lot s := rfl
@[simp] theorem exec_retransmitTimeout (node lot : BitVec 16) (s : State) :
    exec (.retransmitTimeout node lot) s = execRetransmitTimeout node lot s := rfl
@[simp] theorem exec_flowLost (node lot : BitVec 16) (s : State) :
    exec (.flowLost node lot) s = execFlowLost node lot s := rfl
@[simp] theorem exec_flowIdleFree (node lot : BitVec 16) (s : State) :
    exec (.flowIdleFree node lot) s = execFlowIdleFree node lot s := rfl
@[simp] theorem exec_fabricPortDown (p : Fin 4) (s : State) :
    exec (.fabricPortDown p) s = execFabricPortDown p s := rfl
@[simp] theorem exec_fabricPortUp (p : Fin 4) (s : State) : exec (.fabricPortUp p) s = execFabricPortUp p s := rfl
@[simp] theorem exec_lotAdd (index : BitVec 6) (row : BitVec 48) (s : State) :
    exec (.lotAdd index row) s = execLotAdd index row s := rfl
@[simp] theorem exec_lotBindoff (index : BitVec 6) (row : BitVec 48) (s : State) :
    exec (.lotBindoff index row) s = execLotBindoff index row s := rfl
@[simp] theorem exec_lotRemoved (k : Fin 64) (s : State) : exec (.lotRemoved k) s = execLotRemoved k s := rfl
@[simp] theorem exec_bindoffForced (k : Fin 64) (s : State) : exec (.bindoffForced k) s = execBindoffForced k s := rfl
@[simp] theorem exec_ptpSync (offset : Int) (s : State) : exec (.ptpSync offset) s = execPtpSync offset s := rfl
@[simp] theorem exec_ptpMessage (gm : BitVec 64) (s : State) : exec (.ptpMessage gm) s = execPtpMessage gm s := rfl
@[simp] theorem exec_ptpHoldover (s : State) : exec (.ptpHoldover) s = execPtpHoldover s := rfl
@[simp] theorem exec_ppsEdge (offset : Int) (s : State) : exec (.ppsEdge offset) s = execPpsEdge offset s := rfl
@[simp] theorem exec_ppsLost (s : State) : exec (.ppsLost) s = execPpsLost s := rfl
@[simp] theorem exec_tsTimeLoRead (s : State) : exec (.tsTimeLoRead) s = execTsTimeLoRead s := rfl
@[simp] theorem exec_nodeCoreInstruction (h : Fin 32) (fetch : BitVec 64) (compressed : Bool) (i0 : HartAct) (s : State) :
    exec (.nodeCoreInstruction h fetch compressed i0) s = execNodeCoreInstruction h fetch compressed i0 s := rfl
@[simp] theorem exec_nodeCoreTimer (h : Fin 32) (s : State) : exec (.nodeCoreTimer h) s = execNodeCoreTimer h s := rfl
@[simp] theorem exec_mctpMessage (b : Binding) (ty : BitVec 8) (ours : Bool) (data : List (BitVec 8)) (s : State) :
    exec (.mctpMessage b ty ours data) s = execMctpMessage b ty ours data s := rfl
@[simp] theorem exec_setEndpointId (b : Binding) (eid : BitVec 8) (s : State) :
    exec (.setEndpointId b eid) s = execSetEndpointId b eid s := rfl
@[simp] theorem exec_pldmDiscovery (b : Binding) (cmd : BitVec 8) (s : State) :
    exec (.pldmDiscovery b cmd) s = execPldmDiscovery b cmd s := rfl
@[simp] theorem exec_pldmPlatform (b : Binding) (cmd : BitVec 8) (sensor : BitVec 16) (s : State) :
    exec (.pldmPlatform b cmd sensor) s = execPldmPlatform b cmd sensor s := rfl
@[simp] theorem exec_pldmFru (b : Binding) (cmd : BitVec 8) (s : State) :
    exec (.pldmFru b cmd) s = execPldmFru b cmd s := rfl
@[simp] theorem exec_requestUpdate (b : Binding) (s : State) :
    exec (.requestUpdate b) s = execRequestUpdate b s := rfl
@[simp] theorem exec_updateComponent (b : Binding) (ident : BitVec 16) (size : BitVec 32) (s : State) :
    exec (.updateComponent b ident size) s = execUpdateComponent b ident size s := rfl
@[simp] theorem exec_requestFirmwareData (b : Binding) (off : BitVec 32) (data : List (BitVec 8)) (s : State) :
    exec (.requestFirmwareData b off data) s = execRequestFirmwareData b off data s := rfl
@[simp] theorem exec_activateFirmware (b : Binding) (s : State) :
    exec (.activateFirmware b) s = execActivateFirmware b s := rfl
@[simp] theorem exec_sensorSample (id : BitVec 8) (v : BitVec 32) (s : State) :
    exec (.sensorSample id v) s = execSensorSample id v s := rfl
@[simp] theorem exec_getInfo (ch : Channel) (s : State) : exec (.getInfo ch) s = execGetInfo ch s := rfl
@[simp] theorem exec_readSensor (ch : Channel) (s : State) : exec (.readSensor ch) s = execReadSensor ch s := rfl
@[simp] theorem exec_readTelemetry (ch : Channel) (s : State) :
    exec (.readTelemetry ch) s = execReadTelemetry ch s := rfl
@[simp] theorem exec_slotInfo (ch : Channel) (s : State) : exec (.slotInfo ch) s = execSlotInfo ch s := rfl
@[simp] theorem exec_slotBegin (ch : Channel) (s : State) : exec (.slotBegin ch) s = execSlotBegin ch s := rfl
@[simp] theorem exec_slotData (ch : Channel) (s : State) : exec (.slotData ch) s = execSlotData ch s := rfl
@[simp] theorem exec_slotEnd (ch : Channel) (s : State) : exec (.slotEnd ch) s = execSlotEnd ch s := rfl
@[simp] theorem exec_sessionTimeout (s : State) : exec (.sessionTimeout) s = execSessionTimeout s := rfl
@[simp] theorem exec_repattern (ch : Channel) (s : State) : exec (.repattern ch) s = execRepattern ch s := rfl
@[simp] theorem exec_slotErase (ch : Channel) (s : State) : exec (.slotErase ch) s = execSlotErase ch s := rfl
@[simp] theorem exec_setMinSvn (ch : Channel) (s : State) : exec (.setMinSvn ch) s = execSetMinSvn ch s := rfl
@[simp] theorem exec_getSwatch (ch : Channel) (s : State) : exec (.getSwatch ch) s = execGetSwatch ch s := rfl
@[simp] theorem exec_readSwatch (ch : Channel) (s : State) : exec (.readSwatch ch) s = execReadSwatch ch s := rfl
@[simp] theorem exec_fwBegin (ch : Channel) (s : State) : exec (.fwBegin ch) s = execFwBegin ch s := rfl
@[simp] theorem exec_fwData (ch : Channel) (s : State) : exec (.fwData ch) s = execFwData ch s := rfl
@[simp] theorem exec_fwEnd (ch : Channel) (s : State) : exec (.fwEnd ch) s = execFwEnd ch s := rfl
@[simp] theorem exec_enrollOwnerKey (ch : Channel) (s : State) :
    exec (.enrollOwnerKey ch) s = execEnrollOwnerKey ch s := rfl
@[simp] theorem exec_keyStage (ch : Channel) (s : State) : exec (.keyStage ch) s = execKeyStage ch s := rfl
@[simp] theorem exec_getChallenge (ch : Channel) (s : State) :
    exec (.getChallenge ch) s = execGetChallenge ch s := rfl
@[simp] theorem exec_challengeExpiry (s : State) : exec (.challengeExpiry) s = execChallengeExpiry s := rfl
@[simp] theorem exec_fwSetMinSvn (ch : Channel) (s : State) : exec (.fwSetMinSvn ch) s = execFwSetMinSvn ch s := rfl
@[simp] theorem exec_getIdentity (ch : Channel) (s : State) : exec (.getIdentity ch) s = execGetIdentity ch s := rfl
@[simp] theorem exec_ncRelease (ch : Channel) (s : State) : exec (.ncRelease ch) s = execNcRelease ch s := rfl
@[simp] theorem exec_resetCold (ch : Channel) (s : State) : exec (.resetCold ch) s = execResetCold ch s := rfl
@[simp] theorem exec_resetWarm (ch : Channel) (s : State) : exec (.resetWarm ch) s = execResetWarm ch s := rfl
@[simp] theorem exec_powerGood (s : State) : exec (.powerGood) s = execPowerGood s := rfl
@[simp] theorem exec_powerFail (s : State) : exec (.powerFail) s = execPowerFail s := rfl
@[simp] theorem exec_mcLeaveReset (sel : BitVec 2) (r : CastOnReport) (s : State) :
    exec (.mcLeaveReset sel r) s = execMcLeaveReset sel r s := rfl
@[simp] theorem exec_stepBudgetExpiry (r : CastOnReport) (s : State) :
    exec (.stepBudgetExpiry r) s = execStepBudgetExpiry r s := rfl
@[simp] theorem exec_lockTimeout (s : State) : exec (.lockTimeout) s = execLockTimeout s := rfl
@[simp] theorem exec_watchdog (s : State) : exec (.watchdog) s = execWatchdog s := rfl
@[simp] theorem exec_coldRstN (level : Bool) (s : State) : exec (.coldRstN level) s = execColdRstN level s := rfl
@[simp] theorem exec_warmRstN (level : Bool) (s : State) : exec (.warmRstN level) s = execWarmRstN level s := rfl
@[simp] theorem exec_thermalTrip (s : State) : exec (.thermalTrip) s = execThermalTrip s := rfl
@[simp] theorem exec_tripClear (s : State) : exec (.tripClear) s = execTripClear s := rfl
@[simp] theorem exec_currentGuardSample (ma : BitVec 18) (s : State) :
    exec (.currentGuardSample ma) s = execCurrentGuardSample ma s := rfl
@[simp] theorem exec_trefLost (s : State) : exec (.trefLost) s = execTrefLost s := rfl
@[simp] theorem exec_ocxoWarm (s : State) : exec (.ocxoWarm) s = execOcxoWarm s := rfl
@[simp] theorem exec_sequencerTakeEntry (s : State) : exec (.sequencerTakeEntry) s = execSequencerTakeEntry s := rfl
@[simp] theorem exec_motifDrained (s : State) : exec (.motifDrained) s = execMotifDrained s := rfl
@[simp] theorem exec_motifSelfTestDone (pass : Bool) (s : State) :
    exec (.motifSelfTestDone pass) s = execMotifSelfTestDone pass s := rfl
@[simp] theorem exec_mcTestRelease (s : State) : exec (.mcTestRelease) s = execMcTestRelease s := rfl
@[simp] theorem exec_hbTestEnter (pc : BitVec 10) (s : State) : exec (.hbTestEnter pc) s = execHbTestEnter pc s := rfl
@[simp] theorem exec_hbTestLeave (pc : BitVec 10) (s : State) : exec (.hbTestLeave pc) s = execHbTestLeave pc s := rfl
@[simp] theorem exec_mcBistStart (m : BitVec 6) (s : State) : exec (.mcBistStart m) s = execMcBistStart m s := rfl
@[simp] theorem exec_mcBistDone (failUnit : BitVec 3) (s : State) :
    exec (.mcBistDone failUnit) s = execMcBistDone failUnit s := rfl
@[simp] theorem exec_loopbackStart (b : LoopBlock) (v : BitVec 32) (s : State) :
    exec (.loopbackStart b v) s = execLoopbackStart b v s := rfl
@[simp] theorem exec_loopbackStop (b : LoopBlock) (bits errors laneErr : BitVec 64) (s : State) :
    exec (.loopbackStop b bits errors laneErr) s = execLoopbackStop b bits errors laneErr s := rfl
@[simp] theorem exec_loopbackLockTimeout (b : LoopBlock) (bits : BitVec 64) (s : State) :
    exec (.loopbackLockTimeout b bits) s = execLoopbackLockTimeout b bits s := rfl
@[simp] theorem exec_loopbackDurationEnd (b : LoopBlock) (bits errors laneErr : BitVec 64) (s : State) :
    exec (.loopbackDurationEnd b bits errors laneErr) s = execLoopbackDurationEnd b bits errors laneErr s := rfl
@[simp] theorem exec_tapReset (s : State) : exec (.tapReset) s = execTapReset s := rfl
@[simp] theorem exec_bypass (s : State) : exec (.bypass) s = execBypass s := rfl
@[simp] theorem exec_idcode (s : State) : exec (.idcode) s = execIdcode s := rfl
@[simp] theorem exec_samplePreload (cells : BitVec 1872) (s : State) :
    exec (.samplePreload cells) s = execSamplePreload cells s := rfl
@[simp] theorem exec_extest (s : State) : exec (.extest) s = execExtest s := rfl
@[simp] theorem exec_clamp (s : State) : exec (.clamp) s = execClamp s := rfl
@[simp] theorem exec_highz (s : State) : exec (.highz) s = execHighz s := rfl
@[simp] theorem exec_extestPulse (s : State) : exec (.extestPulse) s = execExtestPulse s := rfl
@[simp] theorem exec_extestTrain (s : State) : exec (.extestTrain) s = execExtestTrain s := rfl
@[simp] theorem exec_regAccess (write wide : Bool) (addr : BitVec 26) (v : BitVec 64) (s : State) :
    exec (.regAccess write wide addr v) s = execRegAccess write wide addr v s := rfl
@[simp] theorem exec_debug (s : State) : exec (.debug) s = execDebug s := rfl
@[simp] theorem exec_evRingBaseWrite (v : BitVec 64) (s : State) :
    exec (.evRingBaseWrite v) s = execEvRingBaseWrite v s := rfl
@[simp] theorem exec_evRingCiWrite (v : BitVec 32) (s : State) :
    exec (.evRingCiWrite v) s = execEvRingCiWrite v s := rfl
@[simp] theorem exec_registerWrite (path : AccessPath) (addr : BitVec 26) (wide : Bool) (v : BitVec 64) (s : State) :
    exec (.registerWrite path addr wide v) s = execRegisterWrite path addr wide v s := rfl
@[simp] theorem exec_hostLinkUp (speed : BitVec 3) (width : BitVec 6) (s : State) :
    exec (.hostLinkUp speed width) s = execHostLinkUp speed width s := rfl
@[simp] theorem exec_busMasterEnable (s : State) : exec (.busMasterEnable) s = execBusMasterEnable s := rfl
@[simp] theorem exec_trefInUse (s : State) : exec (.trefInUse) s = execTrefInUse s := rfl
@[simp] theorem exec_loopbackLock (b : LoopBlock) (s : State) : exec (.loopbackLock b) s = execLoopbackLock b s := rfl
@[simp] theorem exec_burstDone (k : Stack) (pc : BitVec 6) (r : BurstReq) (s : State) :
    exec (.burstDone k pc r) s = execBurstDone k pc r s := rfl
@[simp] theorem exec_countPublication (which : PubKind) (stream : BitVec 17) (s : State) :
    exec (.countPublication which stream) s = execCountPublication which stream s := rfl
@[simp] theorem exec_recoveryEnd (ok : Bool) (s : State) : exec (.recoveryEnd ok) s = execRecoveryEnd ok s := rfl

end Sys2Proof.Machine
end

