-- ==== Sys2Proof/Laws/Sparse.lean ====
section
/-!
SUPPORT. Laws/Sparse.lean: reading after writing sparse data, and its canonical form.
-/

namespace Sys2Proof

variable {α : Type}

theorem Sparse.get_drop_same (d : α) (m : Sparse α) (k : Nat) : Sparse.get d (Sparse.drop m k) k = d := by
  induction m with
  | nil => rfl
  | cons x m ih =>
    obtain ⟨j, v⟩ := x
    by_cases h : j = k <;> simp [Sparse.drop, Sparse.get, h, ih]

theorem Sparse.get_drop_ne (d : α) (m : Sparse α) {j k : Nat} (h : j ≠ k) :
    Sparse.get d (Sparse.drop m k) j = Sparse.get d m j := by
  induction m with
  | nil => rfl
  | cons x m ih =>
    obtain ⟨i, v⟩ := x
    by_cases h1 : i = k
    · have : i ≠ j := fun e => h (e ▸ h1)
      simp [Sparse.drop, Sparse.get, h1, ih]
      intro e; exact absurd e.symm h
    · by_cases h2 : i = j <;> simp [Sparse.drop, Sparse.get, h1, h2, ih]
      have h3 : ¬ j = k := fun e => h e
      simp [h3, Sparse.get]

theorem Sparse.get_put_same (d : α) (m : Sparse α) (k : Nat) (v : α) : Sparse.get d (Sparse.put m k v) k = v := by
  induction m with
  | nil => simp [Sparse.put, Sparse.get]
  | cons x m ih =>
    obtain ⟨j, w⟩ := x
    unfold Sparse.put
    split
    · simp [Sparse.get]
    · split
      · simp [Sparse.get]
      · simp [Sparse.get, *]

theorem Sparse.get_put_ne (d : α) (m : Sparse α) {j k : Nat} (v : α) (h : j ≠ k) :
    Sparse.get d (Sparse.put m k v) j = Sparse.get d m j := by
  have h' : ¬ k = j := fun e => h e.symm
  induction m with
  | nil => simp [Sparse.put, Sparse.get, h']
  | cons x m ih =>
    obtain ⟨i, w⟩ := x
    unfold Sparse.put
    split
    · rename_i e; subst e; simp [Sparse.get, h']
    · split
      · simp [Sparse.get, h']
      · by_cases h2 : i = j <;> simp [Sparse.get, h2, ih]

variable [DecidableEq α]

/-- Reading the key just written gives the value written. -/
@[simp] theorem Sparse.get_set_same (d : α) (m : Sparse α) (k : Nat) (v : α) : Sparse.get d (Sparse.set d m k v) k = v := by
  unfold Sparse.set
  split
  · rename_i h; rw [h, Sparse.get_drop_same]
  · exact Sparse.get_put_same d m k v

/-- Writing a key leaves every other key alone. -/
theorem Sparse.get_set_ne (d : α) (m : Sparse α) {j k : Nat} (v : α) (h : j ≠ k) :
    Sparse.get d (Sparse.set d m k v) j = Sparse.get d m j := by
  unfold Sparse.set
  split
  · exact Sparse.get_drop_ne d m h
  · exact Sparse.get_put_ne d m v h

theorem Sparse.above_le (d : α) {lo hi : Nat} {m : Sparse α} (h : lo ≤ hi) (hm : Sparse.above d hi m = true) :
    Sparse.above d lo m = true := by
  cases m with
  | nil => rfl
  | cons x m =>
    obtain ⟨j, v⟩ := x
    simp [Sparse.above] at hm ⊢
    exact ⟨⟨by omega, hm.1.2⟩, hm.2⟩

theorem Sparse.above_drop (d : α) (m : Sparse α) (k : Nat) :
    ∀ lo, Sparse.above d lo m = true → Sparse.above d lo (Sparse.drop m k) = true := by
  induction m with
  | nil => intro lo h; exact h
  | cons x m ih =>
    obtain ⟨j, v⟩ := x
    intro lo h
    simp [Sparse.above] at h
    unfold Sparse.drop
    split
    · exact ih lo (Sparse.above_le d (Nat.le_of_lt h.1.1) h.2)
    · simp [Sparse.above]
      exact ⟨h.1, ih j h.2⟩

theorem Sparse.above_put (d : α) (m : Sparse α) (k : Nat) (v : α) (hv : v ≠ d) :
    ∀ lo, lo < k → Sparse.above d lo m = true → Sparse.above d lo (Sparse.put m k v) = true := by
  induction m with
  | nil => intro lo hk _; simp [Sparse.put, Sparse.above, hk, hv]
  | cons x m ih =>
    obtain ⟨j, w⟩ := x
    intro lo hk h
    simp [Sparse.above] at h
    unfold Sparse.put
    split
    · rename_i e; subst e; simp [Sparse.above, hk, hv, h.2]
    · split
      · rename_i hkj; simp [Sparse.above, hk, hv, hkj, h.1.2, h.2]
      · have : j < k := by omega
        simp [Sparse.above, h.1, ih j this h.2]

theorem Sparse.wf_drop (d : α) (m : Sparse α) (k : Nat) (h : Sparse.wf d m = true) : Sparse.wf d (Sparse.drop m k) = true := by
  induction m with
  | nil => exact h
  | cons x m ih =>
    obtain ⟨j, v⟩ := x
    simp [Sparse.wf] at h
    unfold Sparse.drop
    split
    · apply ih
      cases m with
      | nil => rfl
      | cons y m => obtain ⟨i, u⟩ := y; have := h.2; simp [Sparse.above] at this; simp [Sparse.wf, this.1.2, this.2]
    · simp [Sparse.wf]
      exact ⟨h.1, Sparse.above_drop d m k j h.2⟩

theorem Sparse.wf_put (d : α) (m : Sparse α) (k : Nat) (v : α) (hv : v ≠ d) (h : Sparse.wf d m = true) :
    Sparse.wf d (Sparse.put m k v) = true := by
  cases m with
  | nil => simp [Sparse.put, Sparse.wf, hv, Sparse.above]
  | cons x m =>
    obtain ⟨j, w⟩ := x
    simp [Sparse.wf] at h
    unfold Sparse.put
    split
    · rename_i e; subst e; simp [Sparse.wf, hv, h.2]
    · split
      · rename_i hkj; simp [Sparse.wf, Sparse.above, hv, hkj, h.1, h.2]
      · have : j < k := by omega
        simp [Sparse.wf, h.1, Sparse.above_put d m k v hv j this h.2]

/-- Writing keeps the canonical form. -/
theorem Sparse.wf_set (d : α) (m : Sparse α) (k : Nat) (v : α) (h : Sparse.wf d m = true) :
    Sparse.wf d (Sparse.set d m k v) = true := by
  unfold Sparse.set
  split
  · exact Sparse.wf_drop d m k h
  · rename_i hv; exact Sparse.wf_put d m k v hv h

theorem Sparse.all_drop (q : Nat × α → Bool) (m : Sparse α) (k : Nat) (h : m.all q = true) : (Sparse.drop m k).all q = true := by
  induction m with
  | nil => rfl
  | cons x m ih =>
    obtain ⟨j, v⟩ := x
    simp only [List.all_cons, Bool.and_eq_true] at h
    unfold Sparse.drop
    split
    · exact ih h.2
    · simp only [List.all_cons, Bool.and_eq_true]; exact ⟨h.1, ih h.2⟩

theorem Sparse.all_put (q : Nat × α → Bool) (m : Sparse α) (k : Nat) (v : α) (hv : q (k, v) = true) (h : m.all q = true) :
    (Sparse.put m k v).all q = true := by
  induction m with
  | nil => simp [Sparse.put, hv]
  | cons x m ih =>
    obtain ⟨j, w⟩ := x
    simp only [List.all_cons, Bool.and_eq_true] at h
    unfold Sparse.put
    split
    · simp only [List.all_cons, Bool.and_eq_true]; exact ⟨hv, h.2⟩
    · split
      · simp only [List.all_cons, Bool.and_eq_true]; exact ⟨hv, h.1, h.2⟩
      · simp only [List.all_cons, Bool.and_eq_true]; exact ⟨h.1, ih h.2⟩

/-- Writing a value that has a property keeps it of every listed value. -/
theorem Sparse.all_set (d : α) (q : Nat × α → Bool) (m : Sparse α) (k : Nat) (v : α) (hv : q (k, v) = true)
    (h : m.all q = true) : (Sparse.set d m k v).all q = true := by
  unfold Sparse.set
  split
  · exact Sparse.all_drop q m k h
  · exact Sparse.all_put q m k v hv h

theorem Sparse.all_get (d : α) (q : α → Bool) (m : Sparse α) (k : Nat) (hd : q d = true) (h : m.all (fun x => q x.2) = true) :
    q (Sparse.get d m k) = true := by
  induction m with
  | nil => exact hd
  | cons x m ih =>
    obtain ⟨j, w⟩ := x
    simp only [List.all_cons, Bool.and_eq_true] at h
    unfold Sparse.get
    split
    · exact h.1
    · exact ih h.2

end Sys2Proof
end

