-- ==== Sys2Proof/Laws/Inv.lean ====
section
/-!
SUPPORT. Laws/Inv.lean: what an operation may change, as one predicate: the fields of State outside a set of fields
stand as before, the queue of commands among them, and canonical memories stay canonical. The other files
    Laws/Inv*.lean
show it of every operation, each with the set of fields that it may write; Laws/InvDispatch.lean shows it of every
    command.
A set of fields is a number: bit i stands for the i-th field of State, the queue being field 0.
-/

namespace Sys2Proof.Machine

/-- The set `a` of fields lies in the set `b`. -/
structure InSet (a b : Nat) : Prop where
  eq : a &&& b = a

theorem inSet_trans {a b c : Nat} (h : (a &&& b == a) = true) (h' : InSet b c) : InSet a c := by
  simp only [beq_iff_eq] at h
  exact ⟨by rw [← h, Nat.and_assoc, h'.eq]⟩

/-- `t` stands where an operation on `s` may come that writes only the fields of `m`. -/
structure Inv (m : Nat) (s t : State) : Prop where
  pending : t.pending = s.pending
  memWf : s.memWf = true → t.memWf = true
  now : InSet 2 m ∨ t.now = s.now
  regs : InSet 4 m ∨ t.regs = s.regs
  mem : InSet 8 m ∨ t.mem = s.mem
  poison : InSet 16 m ∨ t.poison = s.poison
  flips : InSet 32 m ∨ t.flips = s.flips
  salt : InSet 64 m ∨ t.salt = s.salt
  flash : InSet 128 m ∨ t.flash = s.flash
  pattern : InSet 256 m ∨ t.pattern = s.pattern
  redirect : InSet 512 m ∨ t.redirect = s.redirect
  locals : InSet 1024 m ∨ t.locals = s.locals
  arrays : InSet 2048 m ∨ t.arrays = s.arrays
  vecs : InSet 4096 m ∨ t.vecs = s.vecs
  needles : InSet 8192 m ∨ t.needles = s.needles
  resv : InSet 16384 m ∨ t.resv = s.resv
  agents : InSet 32768 m ∨ t.agents = s.agents
  homes : InSet 65536 m ∨ t.homes = s.homes
  stackCtl : InSet 131072 m ∨ t.stackCtl = s.stackCtl
  memMap : InSet 262144 m ∨ t.memMap = s.memMap
  seams : InSet 524288 m ∨ t.seams = s.seams
  guests : InSet 1048576 m ∨ t.guests = s.guests
  recovery : InSet 2097152 m ∨ t.recovery = s.recovery
  fabric : InSet 4194304 m ∨ t.fabric = s.fabric
  hall : InSet 8388608 m ∨ t.hall = s.hall
  diePattern : InSet 16777216 m ∨ t.diePattern = s.diePattern
  uncached : InSet 33554432 m ∨ t.uncached = s.uncached
  net : InSet 67108864 m ∨ t.net = s.net
  tu : InSet 134217728 m ∨ t.tu = s.tu
  ev : InSet 268435456 m ∨ t.ev = s.ev
  sent : InSet 536870912 m ∨ t.sent = s.sent
  qe : InSet 1073741824 m ∨ t.qe = s.qe
  sk : InSet 2147483648 m ∨ t.sk = s.sk
  latches : InSet 4294967296 m ∨ t.latches = s.latches
  rowYoke : InSet 8589934592 m ∨ t.rowYoke = s.rowYoke
  scheds : InSet 17179869184 m ∨ t.scheds = s.scheds
  routes : InSet 34359738368 m ∨ t.routes = s.routes
  coherent : InSet 68719476736 m ∨ t.coherent = s.coherent
  dieTables : InSet 137438953472 m ∨ t.dieTables = s.dieTables
  px : InSet 274877906944 m ∨ t.px = s.px
  mc : InSet 549755813888 m ∨ t.mc = s.mc
  board : InSet 1099511627776 m ∨ t.board = s.board
  harts : InSet 2199023255552 m ∨ t.harts = s.harts
  imsic : InSet 4398046511104 m ∨ t.imsic = s.imsic
  free : InSet 8796093022208 m ∨ t.free = s.free

theorem Inv.refl (m : Nat) (s : State) : Inv m s s := by
  constructor <;> first | exact fun h => h | exact Or.inr rfl | rfl

/-- Of the state in a pair, a triple and a quadruple, of an optional one, and of an outcome, which is a next state. -/
structure PairInv (m : Nat) (s0 : State) {α : Type} (e : α × State) : Prop where
  of : Inv m s0 e.2
structure TripleInv (m : Nat) (s0 : State) {α β : Type} (e : α × β × State) : Prop where
  of : Inv m s0 e.2.2
structure QuadInv (m : Nat) (s0 : State) {α β γ : Type} (e : α × β × γ × State) : Prop where
  of : Inv m s0 e.2.2.2
structure OptInv (m : Nat) (s0 : State) (o : Option State) : Prop where
  of : ∀ t, o = some t → Inv m s0 t
structure OptPairInv (m : Nat) (s0 : State) {α : Type} (o : Option (α × State)) : Prop where
  of : ∀ e, o = some e → Inv m s0 e.2
structure OutInv (m : Nat) (s0 : State) (o : Host.Outcome State Fault Refusal) : Prop where
  of : ∃ t, o = .next t ∧ Inv m s0 t

variable {m : Nat} {s0 : State} {α β γ : Type}

theorem Inv.ite {c : Prop} [Decidable c] {s t : State} (hs : Inv m s0 s) (ht : Inv m s0 t) : Inv m s0 (if c then s
    else t) := by
  split <;> assumption
theorem PairInv.ite {c : Prop} [Decidable c] {s t : α × State} (hs : PairInv m s0 s) (ht : PairInv m s0 t) :
    PairInv m s0 (if c then s else t) := by
  split <;> assumption
theorem TripleInv.ite {c : Prop} [Decidable c] {s t : α × β × State} (hs : TripleInv m s0 s) (ht : TripleInv m s0 t) :
    TripleInv m s0 (if c then s else t) := by
  split <;> assumption
theorem QuadInv.ite {c : Prop} [Decidable c] {s t : α × β × γ × State} (hs : QuadInv m s0 s) (ht : QuadInv m s0 t) :
    QuadInv m s0 (if c then s else t) := by
  split <;> assumption
theorem OptInv.ite {c : Prop} [Decidable c] {s t : Option State} (hs : OptInv m s0 s) (ht : OptInv m s0 t) :
    OptInv m s0 (if c then s else t) := by
  split <;> assumption
theorem OptPairInv.ite {c : Prop} [Decidable c] {s t : Option (α × State)} (hs : OptPairInv m s0 s) (ht : OptPairInv
    m s0 t) :
    OptPairInv m s0 (if c then s else t) := by
  split <;> assumption
theorem OutInv.ite {c : Prop} [Decidable c] {s t : Host.Outcome State Fault Refusal} (hs : OutInv m s0 s) (ht :
    OutInv m s0 t) :
    OutInv m s0 (if c then s else t) := by
  split <;> assumption

theorem PairInv.mk' {a : α} {s : State} : PairInv m s0 (a, s) ↔ Inv m s0 s := ⟨fun h => h.of, fun h => ⟨h⟩⟩
theorem TripleInv.mk' {a : α} {b : β} {s : State} : TripleInv m s0 (a, b, s) ↔ Inv m s0 s := ⟨fun h => h.of, fun h
    => ⟨h⟩⟩
theorem QuadInv.mk' {a : α} {b : β} {c : γ} {s : State} : QuadInv m s0 (a, b, c, s) ↔ Inv m s0 s := ⟨fun h => h.of,
    fun h => ⟨h⟩⟩
theorem PairInv.snd {e : α × State} (h : PairInv m s0 e) : Inv m s0 e.2 := h.of
theorem TripleInv.snd {e : α × β × State} (h : TripleInv m s0 e) : Inv m s0 e.2.2 := h.of
theorem QuadInv.snd {e : α × β × γ × State} (h : QuadInv m s0 e) : Inv m s0 e.2.2.2 := h.of
theorem PairInv.of_eq {e : α × State} {a : α} {s : State} (h : e = (a, s)) (he : PairInv m s0 e) : Inv m s0 s := by
  subst h; exact he.of
theorem TripleInv.of_eq {e : α × β × State} {a : α} {b : β} {s : State} (h : e = (a, b, s)) (he : TripleInv m s0 e) :
    Inv m s0 s := by
  subst h; exact he.of
theorem QuadInv.of_eq {e : α × β × γ × State} {a : α} {b : β} {c : γ} {s : State} (h : e = (a, b, c, s))
    (he : QuadInv m s0 e) : Inv m s0 s := by
  subst h; exact he.of
theorem OptInv.none : OptInv m s0 none := ⟨fun _ h => nomatch h⟩
theorem OptInv.some {s : State} (h : Inv m s0 s) : OptInv m s0 (some s) := ⟨fun _ e => by cases e; exact h⟩
theorem OptInv.of_eq {o : Option State} {s : State} (h : o = Option.some s) (ho : OptInv m s0 o) : Inv m s0 s :=
    ho.of s h
theorem OptPairInv.none : OptPairInv m s0 (α := α) none := ⟨fun _ h => nomatch h⟩
theorem OptPairInv.some {a : α} {s : State} (h : Inv m s0 s) : OptPairInv m s0 (some (a, s)) :=
  ⟨fun _ e => by cases e; exact h⟩
theorem OptPairInv.of_eq {o : Option (α × State)} {a : α} {s : State} (h : o = Option.some (a, s)) (ho : OptPairInv
    m s0 o) :
    Inv m s0 s := ho.of _ h
theorem Inv.getD {o : Option State} {s : State} (ho : OptInv m s0 o) (hs : Inv m s0 s) : Inv m s0 (o.getD s) := by
  cases o with
  | none => exact hs
  | some t => exact ho.of t rfl
theorem OutInv.next {s : State} (h : Inv m s0 s) : OutInv m s0 (.next s) := ⟨s, rfl, h⟩

/-- A fold keeps what each of its steps keeps. -/
theorem Inv.foldl {f : State → α → State} {l : List α} {s : State} (hf : ∀ s a, Inv m s0 s → Inv m s0 (f s a))
    (hs : Inv m s0 s) : Inv m s0 (l.foldl f s) := by
  induction l generalizing s with
  | nil => exact hs
  | cons a l ih => exact ih (hf s a hs)

/-- `s` with fields written. -/
def Upd (m : Nat) (s0 s : State) (x1 : Nat) (x2 : Sparse Wide) (x3 : List Host.Cell) (x4 : Sparse Bool) (x5 : Sparse
    (BitVec 80)) (x6 : Nat) (x7 : Sparse Byte) (x8 : Sparse Byte) (x9 : Sparse (Option Nat)) (x10 : Sparse (List
    Host.Cell)) (x11 : Sparse ArrayUnits) (x12 : Sparse VecEngine) (x13 : Sparse Needles) (x14 : List Resv) (x15 :
    Sparse CacheAgent) (x16 : Sparse Home) (x17 : Sparse StackCtl) (x18 : MemMap) (x19 : Sparse Seam) (x20 : Sparse
    GuestLink) (x21 : Recovery) (x22 : Fabric) (x23 : Hall) (x24 : Sparse (Sparse Byte)) (x25 : List Uncached) (x26
    : Net) (x27 : Tu) (x28 : Events) (x29 : List Msg) (x30 : QEngine) (x31 : SkEngine) (x32 : Sparse (Option (Nat ×
    Nat))) (x33 : RowYoke) (x34 : Sparse RowSched) (x35 : Sparse Nat) (x36 : List (Nat × Nat)) (x37 : Sparse
    DieTable) (x38 : Px) (x39 : Mc) (x40 : Board) (x41 : Sparse Hart) (x42 : Sparse Bool) (x43 : Nat) : Prop :=
  Inv m s0 (State.mk s.pending x1 x2 x3 x4 x5 x6 x7 x8 x9 x10 x11 x12 x13 x14 x15 x16 x17 x18 x19 x20 x21 x22 x23 x24
      x25 x26 x27 x28 x29 x30 x31 x32 x33 x34 x35 x36 x37 x38 x39 x40 x41 x42 x43)

theorem Inv.update {s : State} (x1 : Nat) (x2 : Sparse Wide) (x3 : List Host.Cell) (x4 : Sparse Bool) (x5 : Sparse
    (BitVec 80)) (x6 : Nat) (x7 : Sparse Byte) (x8 : Sparse Byte) (x9 : Sparse (Option Nat)) (x10 : Sparse (List
    Host.Cell)) (x11 : Sparse ArrayUnits) (x12 : Sparse VecEngine) (x13 : Sparse Needles) (x14 : List Resv) (x15 :
    Sparse CacheAgent) (x16 : Sparse Home) (x17 : Sparse StackCtl) (x18 : MemMap) (x19 : Sparse Seam) (x20 : Sparse
    GuestLink) (x21 : Recovery) (x22 : Fabric) (x23 : Hall) (x24 : Sparse (Sparse Byte)) (x25 : List Uncached) (x26
    : Net) (x27 : Tu) (x28 : Events) (x29 : List Msg) (x30 : QEngine) (x31 : SkEngine) (x32 : Sparse (Option (Nat ×
    Nat))) (x33 : RowYoke) (x34 : Sparse RowSched) (x35 : Sparse Nat) (x36 : List (Nat × Nat)) (x37 : Sparse
    DieTable) (x38 : Px) (x39 : Mc) (x40 : Board) (x41 : Sparse Hart) (x42 : Sparse Bool) (x43 : Nat) :
    Inv m s0 (State.mk s.pending x1 x2 x3 x4 x5 x6 x7 x8 x9 x10 x11 x12 x13 x14 x15 x16 x17 x18 x19 x20 x21 x22 x23 x24
        x25 x26 x27 x28 x29 x30 x31 x32 x33 x34 x35 x36 x37 x38 x39 x40 x41 x42 x43) ↔ Upd m s0 s x1 x2 x3 x4 x5 x6
        x7 x8 x9 x10 x11 x12 x13 x14 x15 x16 x17 x18 x19 x20 x21 x22 x23 x24 x25 x26 x27 x28 x29 x30 x31 x32 x33 x34
        x35 x36 x37 x38 x39 x40 x41 x42 x43 := Iff.rfl

theorem Inv.step {b : Prop} {α : Type} {x y z : α} (h : b ∨ y = x) (k : b ∨ z = y) : b ∨ z = x := by
  cases h with
  | inl h => exact .inl h
  | inr h =>
    cases k with
    | inl k => exact .inl k
    | inr k => exact .inr (k.trans h)

theorem Upd.of {s : State} {x1 : Nat} {x2 : Sparse Wide} {x3 : List Host.Cell} {x4 : Sparse Bool} {x5 : Sparse
    (BitVec 80)} {x6 : Nat} {x7 : Sparse Byte} {x8 : Sparse Byte} {x9 : Sparse (Option Nat)} {x10 : Sparse (List
    Host.Cell)} {x11 : Sparse ArrayUnits} {x12 : Sparse VecEngine} {x13 : Sparse Needles} {x14 : List Resv} {x15 :
    Sparse CacheAgent} {x16 : Sparse Home} {x17 : Sparse StackCtl} {x18 : MemMap} {x19 : Sparse Seam} {x20 : Sparse
    GuestLink} {x21 : Recovery} {x22 : Fabric} {x23 : Hall} {x24 : Sparse (Sparse Byte)} {x25 : List Uncached} {x26
    : Net} {x27 : Tu} {x28 : Events} {x29 : List Msg} {x30 : QEngine} {x31 : SkEngine} {x32 : Sparse (Option (Nat ×
    Nat))} {x33 : RowYoke} {x34 : Sparse RowSched} {x35 : Sparse Nat} {x36 : List (Nat × Nat)} {x37 : Sparse
    DieTable} {x38 : Px} {x39 : Mc} {x40 : Board} {x41 : Sparse Hart} {x42 : Sparse Bool} {x43 : Nat} (h : Inv m s0
    s)
    (hm : Memory.wf s.mem = true → Memory.wf x3 = true)
    (hl : s.locals.all (fun x => Memory.wf x.2) = true → x10.all (fun x => Memory.wf x.2) = true)
    (h1 : InSet 2 m ∨ x1 = s.now) (h2 : InSet 4 m ∨ x2 = s.regs) (h3 : InSet 8 m ∨ x3 = s.mem) (h4 : InSet 16 m ∨ x4 =
        s.poison) (h5 : InSet 32 m ∨ x5 = s.flips) (h6 : InSet 64 m ∨ x6 = s.salt) (h7 : InSet 128 m ∨ x7 = s.flash)
        (h8 : InSet 256 m ∨ x8 = s.pattern) (h9 : InSet 512 m ∨ x9 = s.redirect) (h10 : InSet 1024 m ∨ x10 =
        s.locals) (h11 : InSet 2048 m ∨ x11 = s.arrays) (h12 : InSet 4096 m ∨ x12 = s.vecs) (h13 : InSet 8192 m ∨
        x13 = s.needles) (h14 : InSet 16384 m ∨ x14 = s.resv) (h15 : InSet 32768 m ∨ x15 = s.agents) (h16 : InSet
        65536 m ∨ x16 = s.homes) (h17 : InSet 131072 m ∨ x17 = s.stackCtl) (h18 : InSet 262144 m ∨ x18 = s.memMap)
        (h19 : InSet 524288 m ∨ x19 = s.seams) (h20 : InSet 1048576 m ∨ x20 = s.guests) (h21 : InSet 2097152 m ∨ x21
        = s.recovery) (h22 : InSet 4194304 m ∨ x22 = s.fabric) (h23 : InSet 8388608 m ∨ x23 = s.hall) (h24 : InSet
        16777216 m ∨ x24 = s.diePattern) (h25 : InSet 33554432 m ∨ x25 = s.uncached) (h26 : InSet 67108864 m ∨ x26 =
        s.net) (h27 : InSet 134217728 m ∨ x27 = s.tu) (h28 : InSet 268435456 m ∨ x28 = s.ev) (h29 : InSet 536870912
        m ∨ x29 = s.sent) (h30 : InSet 1073741824 m ∨ x30 = s.qe) (h31 : InSet 2147483648 m ∨ x31 = s.sk) (h32 :
        InSet 4294967296 m ∨ x32 = s.latches) (h33 : InSet 8589934592 m ∨ x33 = s.rowYoke) (h34 : InSet 17179869184
        m ∨ x34 = s.scheds) (h35 : InSet 34359738368 m ∨ x35 = s.routes) (h36 : InSet 68719476736 m ∨ x36 =
        s.coherent) (h37 : InSet 137438953472 m ∨ x37 = s.dieTables) (h38 : InSet 274877906944 m ∨ x38 = s.px) (h39
        : InSet 549755813888 m ∨ x39 = s.mc) (h40 : InSet 1099511627776 m ∨ x40 = s.board) (h41 : InSet
        2199023255552 m ∨ x41 = s.harts) (h42 : InSet 4398046511104 m ∨ x42 = s.imsic) (h43 : InSet 8796093022208 m
        ∨ x43 = s.free) : Upd m s0 s x1 x2 x3 x4 x5 x6 x7 x8 x9 x10 x11 x12 x13 x14 x15 x16 x17 x18 x19 x20 x21 x22
        x23 x24 x25 x26 x27 x28 x29 x30 x31 x32 x33 x34 x35 x36 x37 x38 x39 x40 x41 x42 x43 where
  pending := h.pending
  memWf h0 := by
    have := h.memWf h0
    simp only [State.memWf, Bool.and_eq_true] at this ⊢
    exact ⟨hm this.1, hl this.2⟩
  now := Inv.step h.now h1
  regs := Inv.step h.regs h2
  mem := Inv.step h.mem h3
  poison := Inv.step h.poison h4
  flips := Inv.step h.flips h5
  salt := Inv.step h.salt h6
  flash := Inv.step h.flash h7
  pattern := Inv.step h.pattern h8
  redirect := Inv.step h.redirect h9
  locals := Inv.step h.locals h10
  arrays := Inv.step h.arrays h11
  vecs := Inv.step h.vecs h12
  needles := Inv.step h.needles h13
  resv := Inv.step h.resv h14
  agents := Inv.step h.agents h15
  homes := Inv.step h.homes h16
  stackCtl := Inv.step h.stackCtl h17
  memMap := Inv.step h.memMap h18
  seams := Inv.step h.seams h19
  guests := Inv.step h.guests h20
  recovery := Inv.step h.recovery h21
  fabric := Inv.step h.fabric h22
  hall := Inv.step h.hall h23
  diePattern := Inv.step h.diePattern h24
  uncached := Inv.step h.uncached h25
  net := Inv.step h.net h26
  tu := Inv.step h.tu h27
  ev := Inv.step h.ev h28
  sent := Inv.step h.sent h29
  qe := Inv.step h.qe h30
  sk := Inv.step h.sk h31
  latches := Inv.step h.latches h32
  rowYoke := Inv.step h.rowYoke h33
  scheds := Inv.step h.scheds h34
  routes := Inv.step h.routes h35
  coherent := Inv.step h.coherent h36
  dieTables := Inv.step h.dieTables h37
  px := Inv.step h.px h38
  mc := Inv.step h.mc h39
  board := Inv.step h.board h40
  harts := Inv.step h.harts h41
  imsic := Inv.step h.imsic h42
  free := Inv.step h.free h43

theorem memWrite_wf (m : List Host.Cell) (a : Nat) (bs : List Byte) (h : Memory.wf m = true) :
    Memory.wf (memWrite m a bs) = true := by
  induction bs generalizing m a with
  | nil => exact h
  | cons b bs ih => exact ih _ _ (Sparse.wf_set 0 m a b h)

/-- A change of one motif's local memory keeps all of them canonical. -/
theorem locals_wf {l : Sparse (List Host.Cell)} (k : Nat) (c : List Host.Cell)
    (hm : Memory.wf (Sparse.get [] l k) = true → Memory.wf c = true)
    (h : l.all (fun x => Memory.wf x.2) = true) : (Sparse.set [] l k c).all (fun x => Memory.wf x.2) = true :=
  Sparse.all_set [] (fun x => Memory.wf x.2) l k c (hm (Sparse.all_get [] Memory.wf l k rfl h)) h

theorem Inv.now_eq {m : Nat} {s t : State} (h : Inv m s t) (hb : (2 &&& m == 2) = false) : t.now = s.now := by
  rcases h.now with h | h
  · simp [h.eq] at hb
  · exact h
theorem Inv.regs_eq {m : Nat} {s t : State} (h : Inv m s t) (hb : (4 &&& m == 4) = false) : t.regs = s.regs := by
  rcases h.regs with h | h
  · simp [h.eq] at hb
  · exact h
theorem Inv.mem_eq {m : Nat} {s t : State} (h : Inv m s t) (hb : (8 &&& m == 8) = false) : t.mem = s.mem := by
  rcases h.mem with h | h
  · simp [h.eq] at hb
  · exact h
theorem Inv.poison_eq {m : Nat} {s t : State} (h : Inv m s t) (hb : (16 &&& m == 16) = false) : t.poison = s.poison
    := by
  rcases h.poison with h | h
  · simp [h.eq] at hb
  · exact h
theorem Inv.flips_eq {m : Nat} {s t : State} (h : Inv m s t) (hb : (32 &&& m == 32) = false) : t.flips = s.flips := by
  rcases h.flips with h | h
  · simp [h.eq] at hb
  · exact h
theorem Inv.salt_eq {m : Nat} {s t : State} (h : Inv m s t) (hb : (64 &&& m == 64) = false) : t.salt = s.salt := by
  rcases h.salt with h | h
  · simp [h.eq] at hb
  · exact h
theorem Inv.flash_eq {m : Nat} {s t : State} (h : Inv m s t) (hb : (128 &&& m == 128) = false) : t.flash = s.flash
    := by
  rcases h.flash with h | h
  · simp [h.eq] at hb
  · exact h
theorem Inv.pattern_eq {m : Nat} {s t : State} (h : Inv m s t) (hb : (256 &&& m == 256) = false) : t.pattern =
    s.pattern := by
  rcases h.pattern with h | h
  · simp [h.eq] at hb
  · exact h
theorem Inv.redirect_eq {m : Nat} {s t : State} (h : Inv m s t) (hb : (512 &&& m == 512) = false) : t.redirect =
    s.redirect := by
  rcases h.redirect with h | h
  · simp [h.eq] at hb
  · exact h
theorem Inv.locals_eq {m : Nat} {s t : State} (h : Inv m s t) (hb : (1024 &&& m == 1024) = false) : t.locals =
    s.locals := by
  rcases h.locals with h | h
  · simp [h.eq] at hb
  · exact h
theorem Inv.arrays_eq {m : Nat} {s t : State} (h : Inv m s t) (hb : (2048 &&& m == 2048) = false) : t.arrays =
    s.arrays := by
  rcases h.arrays with h | h
  · simp [h.eq] at hb
  · exact h
theorem Inv.vecs_eq {m : Nat} {s t : State} (h : Inv m s t) (hb : (4096 &&& m == 4096) = false) : t.vecs = s.vecs :=
    by
  rcases h.vecs with h | h
  · simp [h.eq] at hb
  · exact h
theorem Inv.needles_eq {m : Nat} {s t : State} (h : Inv m s t) (hb : (8192 &&& m == 8192) = false) : t.needles =
    s.needles := by
  rcases h.needles with h | h
  · simp [h.eq] at hb
  · exact h
theorem Inv.resv_eq {m : Nat} {s t : State} (h : Inv m s t) (hb : (16384 &&& m == 16384) = false) : t.resv = s.resv
    := by
  rcases h.resv with h | h
  · simp [h.eq] at hb
  · exact h
theorem Inv.agents_eq {m : Nat} {s t : State} (h : Inv m s t) (hb : (32768 &&& m == 32768) = false) : t.agents =
    s.agents := by
  rcases h.agents with h | h
  · simp [h.eq] at hb
  · exact h
theorem Inv.homes_eq {m : Nat} {s t : State} (h : Inv m s t) (hb : (65536 &&& m == 65536) = false) : t.homes =
    s.homes := by
  rcases h.homes with h | h
  · simp [h.eq] at hb
  · exact h
theorem Inv.stackCtl_eq {m : Nat} {s t : State} (h : Inv m s t) (hb : (131072 &&& m == 131072) = false) : t.stackCtl
    = s.stackCtl := by
  rcases h.stackCtl with h | h
  · simp [h.eq] at hb
  · exact h
theorem Inv.memMap_eq {m : Nat} {s t : State} (h : Inv m s t) (hb : (262144 &&& m == 262144) = false) : t.memMap =
    s.memMap := by
  rcases h.memMap with h | h
  · simp [h.eq] at hb
  · exact h
theorem Inv.seams_eq {m : Nat} {s t : State} (h : Inv m s t) (hb : (524288 &&& m == 524288) = false) : t.seams =
    s.seams := by
  rcases h.seams with h | h
  · simp [h.eq] at hb
  · exact h
theorem Inv.guests_eq {m : Nat} {s t : State} (h : Inv m s t) (hb : (1048576 &&& m == 1048576) = false) : t.guests =
    s.guests := by
  rcases h.guests with h | h
  · simp [h.eq] at hb
  · exact h
theorem Inv.recovery_eq {m : Nat} {s t : State} (h : Inv m s t) (hb : (2097152 &&& m == 2097152) = false) :
    t.recovery = s.recovery := by
  rcases h.recovery with h | h
  · simp [h.eq] at hb
  · exact h
theorem Inv.fabric_eq {m : Nat} {s t : State} (h : Inv m s t) (hb : (4194304 &&& m == 4194304) = false) : t.fabric =
    s.fabric := by
  rcases h.fabric with h | h
  · simp [h.eq] at hb
  · exact h
theorem Inv.hall_eq {m : Nat} {s t : State} (h : Inv m s t) (hb : (8388608 &&& m == 8388608) = false) : t.hall =
    s.hall := by
  rcases h.hall with h | h
  · simp [h.eq] at hb
  · exact h
theorem Inv.diePattern_eq {m : Nat} {s t : State} (h : Inv m s t) (hb : (16777216 &&& m == 16777216) = false) :
    t.diePattern = s.diePattern := by
  rcases h.diePattern with h | h
  · simp [h.eq] at hb
  · exact h
theorem Inv.uncached_eq {m : Nat} {s t : State} (h : Inv m s t) (hb : (33554432 &&& m == 33554432) = false) :
    t.uncached = s.uncached := by
  rcases h.uncached with h | h
  · simp [h.eq] at hb
  · exact h
theorem Inv.net_eq {m : Nat} {s t : State} (h : Inv m s t) (hb : (67108864 &&& m == 67108864) = false) : t.net =
    s.net := by
  rcases h.net with h | h
  · simp [h.eq] at hb
  · exact h
theorem Inv.tu_eq {m : Nat} {s t : State} (h : Inv m s t) (hb : (134217728 &&& m == 134217728) = false) : t.tu =
    s.tu := by
  rcases h.tu with h | h
  · simp [h.eq] at hb
  · exact h
theorem Inv.ev_eq {m : Nat} {s t : State} (h : Inv m s t) (hb : (268435456 &&& m == 268435456) = false) : t.ev =
    s.ev := by
  rcases h.ev with h | h
  · simp [h.eq] at hb
  · exact h
theorem Inv.sent_eq {m : Nat} {s t : State} (h : Inv m s t) (hb : (536870912 &&& m == 536870912) = false) : t.sent =
    s.sent := by
  rcases h.sent with h | h
  · simp [h.eq] at hb
  · exact h
theorem Inv.qe_eq {m : Nat} {s t : State} (h : Inv m s t) (hb : (1073741824 &&& m == 1073741824) = false) : t.qe =
    s.qe := by
  rcases h.qe with h | h
  · simp [h.eq] at hb
  · exact h
theorem Inv.sk_eq {m : Nat} {s t : State} (h : Inv m s t) (hb : (2147483648 &&& m == 2147483648) = false) : t.sk =
    s.sk := by
  rcases h.sk with h | h
  · simp [h.eq] at hb
  · exact h
theorem Inv.latches_eq {m : Nat} {s t : State} (h : Inv m s t) (hb : (4294967296 &&& m == 4294967296) = false) :
    t.latches = s.latches := by
  rcases h.latches with h | h
  · simp [h.eq] at hb
  · exact h
theorem Inv.rowYoke_eq {m : Nat} {s t : State} (h : Inv m s t) (hb : (8589934592 &&& m == 8589934592) = false) :
    t.rowYoke = s.rowYoke := by
  rcases h.rowYoke with h | h
  · simp [h.eq] at hb
  · exact h
theorem Inv.scheds_eq {m : Nat} {s t : State} (h : Inv m s t) (hb : (17179869184 &&& m == 17179869184) = false) :
    t.scheds = s.scheds := by
  rcases h.scheds with h | h
  · simp [h.eq] at hb
  · exact h
theorem Inv.routes_eq {m : Nat} {s t : State} (h : Inv m s t) (hb : (34359738368 &&& m == 34359738368) = false) :
    t.routes = s.routes := by
  rcases h.routes with h | h
  · simp [h.eq] at hb
  · exact h
theorem Inv.coherent_eq {m : Nat} {s t : State} (h : Inv m s t) (hb : (68719476736 &&& m == 68719476736) = false) :
    t.coherent = s.coherent := by
  rcases h.coherent with h | h
  · simp [h.eq] at hb
  · exact h
theorem Inv.dieTables_eq {m : Nat} {s t : State} (h : Inv m s t) (hb : (137438953472 &&& m == 137438953472) = false)
    : t.dieTables = s.dieTables := by
  rcases h.dieTables with h | h
  · simp [h.eq] at hb
  · exact h
theorem Inv.px_eq {m : Nat} {s t : State} (h : Inv m s t) (hb : (274877906944 &&& m == 274877906944) = false) : t.px
    = s.px := by
  rcases h.px with h | h
  · simp [h.eq] at hb
  · exact h
theorem Inv.mc_eq {m : Nat} {s t : State} (h : Inv m s t) (hb : (549755813888 &&& m == 549755813888) = false) : t.mc
    = s.mc := by
  rcases h.mc with h | h
  · simp [h.eq] at hb
  · exact h
theorem Inv.board_eq {m : Nat} {s t : State} (h : Inv m s t) (hb : (1099511627776 &&& m == 1099511627776) = false) :
    t.board = s.board := by
  rcases h.board with h | h
  · simp [h.eq] at hb
  · exact h
theorem Inv.harts_eq {m : Nat} {s t : State} (h : Inv m s t) (hb : (2199023255552 &&& m == 2199023255552) = false) :
    t.harts = s.harts := by
  rcases h.harts with h | h
  · simp [h.eq] at hb
  · exact h
theorem Inv.imsic_eq {m : Nat} {s t : State} (h : Inv m s t) (hb : (4398046511104 &&& m == 4398046511104) = false) :
    t.imsic = s.imsic := by
  rcases h.imsic with h | h
  · simp [h.eq] at hb
  · exact h
theorem Inv.free_eq {m : Nat} {s t : State} (h : Inv m s t) (hb : (8796093022208 &&& m == 8796093022208) = false) :
    t.free = s.free := by
  rcases h.free with h | h
  · simp [h.eq] at hb
  · exact h

/-- The state reached, field by field. -/
theorem Inv.eq_mk {m : Nat} {s t : State} (h : Inv m s t) : t = State.mk s.pending (if 2 &&& m == 2 then t.now else
    s.now) (if 4 &&& m == 4 then t.regs else s.regs) (if 8 &&& m == 8 then t.mem else s.mem) (if 16 &&& m == 16 then
    t.poison else s.poison) (if 32 &&& m == 32 then t.flips else s.flips) (if 64 &&& m == 64 then t.salt else
    s.salt) (if 128 &&& m == 128 then t.flash else s.flash) (if 256 &&& m == 256 then t.pattern else s.pattern) (if
    512 &&& m == 512 then t.redirect else s.redirect) (if 1024 &&& m == 1024 then t.locals else s.locals) (if 2048
    &&& m == 2048 then t.arrays else s.arrays) (if 4096 &&& m == 4096 then t.vecs else s.vecs) (if 8192 &&& m ==
    8192 then t.needles else s.needles) (if 16384 &&& m == 16384 then t.resv else s.resv) (if 32768 &&& m == 32768
    then t.agents else s.agents) (if 65536 &&& m == 65536 then t.homes else s.homes) (if 131072 &&& m == 131072 then
    t.stackCtl else s.stackCtl) (if 262144 &&& m == 262144 then t.memMap else s.memMap) (if 524288 &&& m == 524288
    then t.seams else s.seams) (if 1048576 &&& m == 1048576 then t.guests else s.guests) (if 2097152 &&& m ==
    2097152 then t.recovery else s.recovery) (if 4194304 &&& m == 4194304 then t.fabric else s.fabric) (if 8388608
    &&& m == 8388608 then t.hall else s.hall) (if 16777216 &&& m == 16777216 then t.diePattern else s.diePattern)
    (if 33554432 &&& m == 33554432 then t.uncached else s.uncached) (if 67108864 &&& m == 67108864 then t.net else
    s.net) (if 134217728 &&& m == 134217728 then t.tu else s.tu) (if 268435456 &&& m == 268435456 then t.ev else
    s.ev) (if 536870912 &&& m == 536870912 then t.sent else s.sent) (if 1073741824 &&& m == 1073741824 then t.qe
    else s.qe) (if 2147483648 &&& m == 2147483648 then t.sk else s.sk) (if 4294967296 &&& m == 4294967296 then
    t.latches else s.latches) (if 8589934592 &&& m == 8589934592 then t.rowYoke else s.rowYoke) (if 17179869184 &&&
    m == 17179869184 then t.scheds else s.scheds) (if 34359738368 &&& m == 34359738368 then t.routes else s.routes)
    (if 68719476736 &&& m == 68719476736 then t.coherent else s.coherent) (if 137438953472 &&& m == 137438953472
    then t.dieTables else s.dieTables) (if 274877906944 &&& m == 274877906944 then t.px else s.px) (if 549755813888
    &&& m == 549755813888 then t.mc else s.mc) (if 1099511627776 &&& m == 1099511627776 then t.board else s.board)
    (if 2199023255552 &&& m == 2199023255552 then t.harts else s.harts) (if 4398046511104 &&& m == 4398046511104
    then t.imsic else s.imsic) (if 8796093022208 &&& m == 8796093022208 then t.free else s.free) := by
  have e : ∀ (b : Nat) {α : Type} (x y : α), InSet b m ∨ x = y → x = if b &&& m == b then x else y := by
    intro b α x y h
    split
    · rfl
    · rename_i hb
      rcases h with h | h
      · exact absurd (by simpa using h.eq) (by simpa using hb)
      · exact h
  obtain ⟨t0, t1, t2, t3, t4, t5, t6, t7, t8, t9, t10, t11, t12, t13, t14, t15, t16, t17, t18, t19, t20, t21, t22,
      t23, t24, t25, t26, t27, t28, t29, t30, t31, t32, t33, t34, t35, t36, t37, t38, t39, t40, t41, t42, t43⟩ := t
  simp only [State.mk.injEq]
  refine ⟨h.pending, e _ _ _ h.now, e _ _ _ h.regs, e _ _ _ h.mem, e _ _ _ h.poison, e _ _ _ h.flips, e _ _ _ h.salt,
      e _ _ _ h.flash, e _ _ _ h.pattern, e _ _ _ h.redirect, e _ _ _ h.locals, e _ _ _ h.arrays, e _ _ _ h.vecs, e
      _ _ _ h.needles, e _ _ _ h.resv, e _ _ _ h.agents, e _ _ _ h.homes, e _ _ _ h.stackCtl, e _ _ _ h.memMap, e _
      _ _ h.seams, e _ _ _ h.guests, e _ _ _ h.recovery, e _ _ _ h.fabric, e _ _ _ h.hall, e _ _ _ h.diePattern, e _
      _ _ h.uncached, e _ _ _ h.net, e _ _ _ h.tu, e _ _ _ h.ev, e _ _ _ h.sent, e _ _ _ h.qe, e _ _ _ h.sk, e _ _ _
      h.latches, e _ _ _ h.rowYoke, e _ _ _ h.scheds, e _ _ _ h.routes, e _ _ _ h.coherent, e _ _ _ h.dieTables, e _
      _ _ h.px, e _ _ _ h.mc, e _ _ _ h.board, e _ _ _ h.harts, e _ _ _ h.imsic, e _ _ _ h.free⟩

end Sys2Proof.Machine
end

