-- ==== Sys2Proof/Laws/InvOps.lean ====
section
/-!
SUPPORT. Laws/InvOps.lean: the operations of Machine/Ops.lean write only the fields named, and keep memories canonical.
-/

set_option simprocs false
set_option linter.unusedSimpArgs false
set_option linter.unusedVariables false

namespace Sys2Proof.Machine

theorem State.setReg_inv {fm : Nat} {s₀ : State} (s : State) (a v : Nat) (h_s : Inv fm s₀ s) (hm : InSet 4 fm) :
    Inv fm s₀ (State.setReg s a v) := by
  delta State.setReg
  repeat' first
    | exact inSet_trans rfl hm
    | with_reducible exact Or.inr rfl
    | exact Or.inl (inSet_trans rfl hm)
    | with_reducible first
      | assumption | (intro) | apply Inv.ite | apply Upd.of | simp -iota only [Inv.update] | split | dsimp -iota only
      | dsimp only

theorem State.setFld_inv {fm : Nat} {s₀ : State} (s : State) (f : Fld) (v : Nat) (h_s : Inv fm s₀ s) (hm : InSet 4 fm) :
    Inv fm s₀ (State.setFld s f v) := by
  delta State.setFld
  repeat' first
    | exact inSet_trans rfl hm
    | with_reducible first
      | assumption | (intro) | apply State.setReg_inv | apply Inv.ite | split | dsimp -iota only | dsimp only

theorem State.setFlds_inv {fm : Nat} {s₀ : State} (s : State) (y0 : List (Fld × Nat)) (h_s : Inv fm s₀ s)
    (hm : InSet 4 fm) :
    Inv fm s₀ (State.setFlds s y0) := by
  induction y0 generalizing s with
  | nil =>
    unfold State.setFlds
    try dsimp -iota only
    repeat' first
      | exact inSet_trans rfl hm
      | with_reducible first
        | assumption | (intro) | apply State.setFld_inv | apply Inv.ite | split | dsimp -iota only | dsimp only
  | cons x xs ih =>
    unfold State.setFlds
    try dsimp -iota only
    repeat' first
      | exact inSet_trans rfl hm
      | with_reducible first
        | assumption | (intro) | apply ih | apply State.setFld_inv | apply Inv.ite | split | dsimp -iota only
        | dsimp only

theorem State.bumpPlain_inv {fm : Nat} {s₀ : State} (s : State) (addr n : Nat) (h_s : Inv fm s₀ s) (hm : InSet 4 fm) :
    Inv fm s₀ (State.bumpPlain s addr n) := by
  delta State.bumpPlain
  repeat' first
    | exact inSet_trans rfl hm
    | with_reducible first
      | assumption | (intro) | apply State.setReg_inv | apply Inv.ite | split | dsimp -iota only | dsimp only

theorem State.bumpQuiet_inv {fm : Nat} {s₀ : State} (s : State) (c : Cnt) (n : Nat) (h_s : Inv fm s₀ s)
    (hm : InSet 268435460 fm) :
    Inv fm s₀ (State.bumpQuiet s c n) := by
  delta State.bumpQuiet
  repeat' first
    | exact inSet_trans rfl hm
    | with_reducible exact Or.inr rfl
    | exact Or.inl (inSet_trans rfl hm)
    | with_reducible first
      | assumption | (intro) | apply State.setFld_inv | apply State.setReg_inv | apply Inv.ite | apply Upd.of
      | simp -iota only [Inv.update] | split | dsimp -iota only | dsimp only

theorem State.send_inv {fm : Nat} {s₀ : State} (s : State) (m : Msg) (h_s : Inv fm s₀ s) (hm : InSet 536870912 fm) :
    Inv fm s₀ (State.send s m) := by
  delta State.send
  repeat' first
    | exact inSet_trans rfl hm
    | with_reducible exact Or.inr rfl
    | exact Or.inl (inSet_trans rfl hm)
    | with_reducible first
      | assumption | (intro) | apply Inv.ite | apply Upd.of | simp -iota only [Inv.update] | split | dsimp -iota only
      | dsimp only

theorem State.sendAll_inv {fm : Nat} {s₀ : State} (s : State) (ms : List Msg) (h_s : Inv fm s₀ s)
    (hm : InSet 536870912 fm) :
    Inv fm s₀ (State.sendAll s ms) := by
  delta State.sendAll
  repeat' first
    | exact inSet_trans rfl hm
    | with_reducible exact Or.inr rfl
    | exact Or.inl (inSet_trans rfl hm)
    | with_reducible first
      | assumption | (intro) | apply Inv.ite | apply Upd.of | simp -iota only [Inv.update] | split | dsimp -iota only
      | dsimp only

theorem State.sendFrom_inv {fm : Nat} {s₀ : State} (s : State) (src dst payload : Nat) (h_s : Inv fm s₀ s)
    (hm : InSet 536870912 fm) :
    Inv fm s₀ (State.sendFrom s src dst payload) := by
  delta State.sendFrom
  repeat' first
    | exact inSet_trans rfl hm
    | with_reducible first
      | assumption | (intro) | apply State.send_inv | apply Inv.ite | split | dsimp -iota only | dsimp only

theorem State.sendChain_inv {fm : Nat} {s₀ : State} (s : State) (dst payload : Nat) (h_s : Inv fm s₀ s)
    (hm : InSet 536870912 fm) :
    Inv fm s₀ (State.sendChain s dst payload) := by
  delta State.sendChain
  repeat' first
    | exact inSet_trans rfl hm
    | with_reducible first
      | assumption | (intro) | apply State.sendFrom_inv | apply Inv.ite | split | dsimp -iota only | dsimp only

theorem State.takeFree_inv {fm : Nat} {s₀ : State} (s : State) (h_s : Inv fm s₀ s) (hm : InSet 8796093022208 fm) :
    PairInv fm s₀ (State.takeFree s) := by
  delta State.takeFree
  repeat' first
    | exact inSet_trans rfl hm
    | with_reducible exact Or.inr rfl
    | exact Or.inl (inSet_trans rfl hm)
    | with_reducible first
      | assumption | (intro) | apply Inv.ite | apply PairInv.ite | (apply PairInv.snd; apply PairInv.ite)
      | apply Upd.of | simp -iota only [Inv.update, PairInv.mk'] | split | refine PairInv.of_eq (by assumption) ?_
      | dsimp -iota only | dsimp only

theorem State.imsicWrite_inv {fm : Nat} {s₀ : State} (s : State) (h file id : Nat) (h_s : Inv fm s₀ s)
    (hm : InSet 4398046511104 fm) :
    Inv fm s₀ (State.imsicWrite s h file id) := by
  delta State.imsicWrite
  repeat' first
    | exact inSet_trans rfl hm
    | with_reducible exact Or.inr rfl
    | exact Or.inl (inSet_trans rfl hm)
    | with_reducible first
      | assumption | (intro) | apply Inv.ite | apply Upd.of | simp -iota only [Inv.update] | split | dsimp -iota only
      | dsimp only

theorem State.msiSend_inv {fm : Nat} {s₀ : State} (s : State) (v : Nat) (h_s : Inv fm s₀ s) (hm : InSet 805306372 fm) :
    Inv fm s₀ (State.msiSend s v) := by
  delta State.msiSend
  repeat' first
    | exact inSet_trans rfl hm
    | with_reducible first
      | assumption | (intro) | apply State.bumpQuiet_inv | apply State.send_inv | apply Inv.ite | split
      | dsimp -iota only | dsimp only

theorem State.msiDue_inv {fm : Nat} {s₀ : State} (s : State) (v : Nat) (h_s : Inv fm s₀ s)
    (hm : InSet 4398851817476 fm) :
    Inv fm s₀ (State.msiDue s v) := by
  delta State.msiDue
  repeat' first
    | exact inSet_trans rfl hm
    | with_reducible first
      | assumption | (intro) | apply State.bumpQuiet_inv | apply State.imsicWrite_inv | apply State.msiSend_inv
      | apply State.setFld_inv | apply Inv.ite | split | dsimp -iota only | dsimp only

theorem State.hostWrite_inv {fm : Nat} {s₀ : State} (s : State) (addr : Nat) (bs : List Byte) (ro ep : Bool)
    (h_s : Inv fm s₀ s) (hm : InSet 536870912 fm) :
    Inv fm s₀ (State.hostWrite s addr bs ro ep) := by
  delta State.hostWrite
  repeat' first
    | exact inSet_trans rfl hm
    | with_reducible first
      | assumption | (intro) | apply State.send_inv | apply Inv.ite | split | dsimp -iota only | dsimp only

theorem State.onAgent_inv {fm : Nat} {s₀ : State} (s : State) (d : Nat) (f : CacheAgent → CacheAgent)
    (h_s : Inv fm s₀ s) (hm : InSet 32768 fm) :
    Inv fm s₀ (State.onAgent s d f) := by
  delta State.onAgent
  repeat' first
    | exact inSet_trans rfl hm
    | with_reducible exact Or.inr rfl
    | exact Or.inl (inSet_trans rfl hm)
    | with_reducible first
      | assumption | (intro) | apply Inv.ite | apply Upd.of | simp -iota only [Inv.update] | split | dsimp -iota only
      | dsimp only

theorem State.onHome_inv {fm : Nat} {s₀ : State} (s : State) (k : Nat) (f : Home → Home) (h_s : Inv fm s₀ s)
    (hm : InSet 65536 fm) :
    Inv fm s₀ (State.onHome s k f) := by
  delta State.onHome
  repeat' first
    | exact inSet_trans rfl hm
    | with_reducible exact Or.inr rfl
    | exact Or.inl (inSet_trans rfl hm)
    | with_reducible first
      | assumption | (intro) | apply Inv.ite | apply Upd.of | simp -iota only [Inv.update] | split | dsimp -iota only
      | dsimp only

theorem State.dropCopy_inv {fm : Nat} {s₀ : State} (s : State) (d l : Nat) (h_s : Inv fm s₀ s) (hm : InSet 32768 fm) :
    Inv fm s₀ (State.dropCopy s d l) := by
  delta State.dropCopy
  repeat' first
    | exact inSet_trans rfl hm
    | with_reducible exact Or.inr rfl
    | exact Or.inl (inSet_trans rfl hm)
    | with_reducible first
      | assumption | (intro) | apply State.onAgent_inv | apply Inv.ite | apply Upd.of | simp -iota only [Inv.update]
      | split | dsimp -iota only | dsimp only

theorem State.killResv_inv {fm : Nat} {s₀ : State} (s : State) (localOf : Option Nat) (lo hi : Nat)
    (who : Option (Nat × Nat × Nat)) (h_s : Inv fm s₀ s) (hm : InSet 16384 fm) :
    Inv fm s₀ (State.killResv s localOf lo hi who) := by
  delta State.killResv
  repeat' first
    | exact inSet_trans rfl hm
    | with_reducible exact Or.inr rfl
    | exact Or.inl (inSet_trans rfl hm)
    | with_reducible first
      | assumption | (intro) | apply Inv.ite | apply Upd.of | simp -iota only [Inv.update] | split | dsimp -iota only
      | dsimp only

theorem State.dropEntry_inv {fm : Nat} {s₀ : State} (s : State) (l : Nat) (h_s : Inv fm s₀ s) (hm : InSet 65536 fm) :
    Inv fm s₀ (State.dropEntry s l) := by
  delta State.dropEntry
  repeat' first
    | exact inSet_trans rfl hm
    | with_reducible exact Or.inr rfl
    | exact Or.inl (inSet_trans rfl hm)
    | with_reducible first
      | assumption | (intro) | apply State.onHome_inv | apply Inv.ite | apply Upd.of | simp -iota only [Inv.update]
      | split | dsimp -iota only | dsimp only

theorem State.guestLine_inv {fm : Nat} {s₀ : State} (s : State) (g code l : Nat) (h_s : Inv fm s₀ s)
    (hm : InSet 13196221202492 fm) :
    PairInv fm s₀ (State.guestLine s g code l) := by
  delta State.guestLine
  repeat' first
    | exact inSet_trans rfl hm
    | with_reducible exact Or.inr rfl
    | exact Or.inl (inSet_trans rfl hm)
    | with_reducible first
      | assumption | (intro) | apply State.coh_inv | apply State.range_inv
      | (apply PairInv.snd; apply State.range_inv) | apply State.send_inv | apply Inv.ite | apply PairInv.ite
      | (apply PairInv.snd; apply PairInv.ite) | apply Inv.foldl | apply Upd.of
      | simp -iota only [Inv.update, PairInv.mk'] | split | refine PairInv.of_eq (by assumption) ?_
      | dsimp -iota only | dsimp only

theorem State.newest_inv {fm : Nat} {s₀ : State} (s : State) (code l : Nat) (h_s : Inv fm s₀ s)
    (hm : InSet 13196221202492 fm) :
    PairInv fm s₀ (State.newest s code l) := by
  delta State.newest
  repeat' first
    | exact inSet_trans rfl hm
    | with_reducible exact Or.inr rfl
    | exact Or.inl (inSet_trans rfl hm)
    | with_reducible first
      | assumption | (intro) | apply State.guestLine_inv | (apply PairInv.snd; apply State.guestLine_inv)
      | apply Inv.ite | apply PairInv.ite | (apply PairInv.snd; apply PairInv.ite) | apply Upd.of
      | simp -iota only [Inv.update, PairInv.mk'] | split | refine PairInv.of_eq (by assumption) ?_
      | dsimp -iota only | dsimp only

theorem State.dropCopies_inv {fm : Nat} {s₀ : State} (s : State) (l : Nat) (h_s : Inv fm s₀ s)
    (hm : InSet 605061120 fm) :
    Inv fm s₀ (State.dropCopies s l) := by
  delta State.dropCopies
  repeat' first
    | exact inSet_trans rfl hm
    | with_reducible exact Or.inr rfl
    | exact Or.inl (inSet_trans rfl hm)
    | with_reducible first
      | assumption | (intro) | apply State.coh_inv | apply State.dropCopy_inv | apply State.sendAll_inv
      | apply Inv.ite | apply Inv.foldl | apply Upd.of | simp -iota only [Inv.update] | split | dsimp -iota only
      | dsimp only

theorem State.putLine_inv {fm : Nat} {s₀ : State} (s : State) (l : Nat) (d : LineData) (h_s : Inv fm s₀ s)
    (hm : InSet 13196221202492 fm) :
    Inv fm s₀ (State.putLine s l d) := by
  delta State.putLine
  try generalize List.range 16 = l16
  try generalize List.range 32 = l32
  try generalize List.range 64 = l64
  repeat' first
    | exact inSet_trans rfl hm
    | with_reducible exact Or.inr rfl
    | exact Or.inl (inSet_trans rfl hm)
    | exact fun _ => rfl
    | with_reducible first
      | assumption | exact memWrite_wf _ _ _ | (intro) | apply State.range_inv
      | (apply PairInv.snd; apply State.range_inv) | apply Inv.ite | apply PairInv.ite
      | (apply PairInv.snd; apply PairInv.ite) | apply Inv.foldl | apply Upd.of
      | simp -iota only [Inv.update, PairInv.mk'] | split | refine PairInv.of_eq (by assumption) ?_
      | dsimp -iota only | dsimp only

theorem State.uncachedWords_inv {fm : Nat} {s₀ : State} (s : State) (addr : Nat) (bs : List Byte) (h_s : Inv fm s₀ s)
    (hm : InSet 13196221202492 fm) :
    Inv fm s₀ (State.uncachedWords s addr bs) := by
  delta State.uncachedWords
  repeat' first
    | exact inSet_trans rfl hm
    | with_reducible exact Or.inr rfl
    | exact Or.inl (inSet_trans rfl hm)
    | exact fun _ => rfl
    | with_reducible first
      | assumption | exact memWrite_wf _ _ _ | (intro) | apply State.buffered_inv
      | (apply PairInv.snd; apply State.buffered_inv) | apply State.bumpQuiet_inv | apply State.dropCopies_inv
      | apply State.dropEntry_inv | apply State.killResv_inv | apply State.newest_inv
      | (apply PairInv.snd; apply State.newest_inv) | apply State.onHome_inv | apply State.putLine_inv
      | apply State.range_inv | (apply PairInv.snd; apply State.range_inv) | apply Inv.ite | apply PairInv.ite
      | (apply PairInv.snd; apply PairInv.ite) | apply Inv.foldl | apply Upd.of
      | simp -iota only [Inv.update, PairInv.mk'] | split | refine PairInv.of_eq (by assumption) ?_
      | dsimp -iota only | dsimp only

theorem State.ringWrite_inv {fm : Nat} {s₀ : State} (s : State) (loc : Bool) (addr : Nat) (bs : List Byte)
    (h_s : Inv fm s₀ s) (hm : InSet 13196221202492 fm) :
    Inv fm s₀ (State.ringWrite s loc addr bs) := by
  delta State.ringWrite
  repeat' first
    | exact inSet_trans rfl hm
    | with_reducible first
      | assumption | (intro) | apply State.hostWrite_inv | apply State.uncachedWords_inv | apply Inv.ite | split
      | dsimp -iota only | dsimp only

theorem State.evPut_inv {fm : Nat} {s₀ : State} (s : State) (h : HeldEvent) (h_s : Inv fm s₀ s)
    (hm : InSet 13196221202492 fm) :
    Inv fm s₀ (State.evPut s h) := by
  delta State.evPut
  repeat' first
    | exact inSet_trans rfl hm
    | with_reducible exact Or.inr rfl
    | exact Or.inl (inSet_trans rfl hm)
    | with_reducible first
      | assumption | (intro) | apply State.bumpPlain_inv | apply State.msiDue_inv | apply State.ringWrite_inv
      | apply State.setFld_inv | split | apply Inv.ite | apply Upd.of | simp -iota only [Inv.update]
      | dsimp -iota only | dsimp only

theorem State.evDrop_inv {fm : Nat} {s₀ : State} (s : State) (h_s : Inv fm s₀ s) (hm : InSet 4 fm) :
    Inv fm s₀ (State.evDrop s) := by
  delta State.evDrop
  repeat' first
    | exact inSet_trans rfl hm
    | with_reducible first
      | assumption | (intro) | apply State.bumpPlain_inv | apply State.setFld_inv | apply Inv.ite | split
      | dsimp -iota only | dsimp only

theorem State.evHold_inv {fm : Nat} {s₀ : State} (s : State) (h : HeldEvent) (h_s : Inv fm s₀ s)
    (hm : InSet 268435460 fm) :
    Inv fm s₀ (State.evHold s h) := by
  delta State.evHold
  repeat' first
    | exact inSet_trans rfl hm
    | with_reducible exact Or.inr rfl
    | exact Or.inl (inSet_trans rfl hm)
    | with_reducible first
      | assumption | (intro) | apply State.evDrop_inv | apply State.setFld_inv | apply Inv.ite | apply Upd.of
      | simp -iota only [Inv.update] | split | dsimp -iota only | dsimp only

theorem State.evAccept_inv {fm : Nat} {s₀ : State} (s : State) (h : HeldEvent) (h_s : Inv fm s₀ s)
    (hm : InSet 13196221202492 fm) :
    Inv fm s₀ (State.evAccept s h) := by
  delta State.evAccept
  repeat' first
    | exact inSet_trans rfl hm
    | with_reducible first
      | assumption | (intro) | apply State.evDrop_inv | apply State.evHold_inv | apply State.evPut_inv
      | apply Inv.ite | split | dsimp -iota only | dsimp only

theorem State.evDrain_inv {fm : Nat} {s₀ : State} (y0 : Nat) (s : State) (h_s : Inv fm s₀ s)
    (hm : InSet 13196221202492 fm) :
    Inv fm s₀ (State.evDrain y0 s) := by
  induction y0 generalizing s with
  | zero =>
    unfold State.evDrain
    try dsimp -iota only
    repeat' first
      | exact inSet_trans rfl hm
      | with_reducible exact Or.inr rfl
      | exact Or.inl (inSet_trans rfl hm)
      | with_reducible first
        | assumption | (intro) | apply State.evPut_inv | apply Inv.ite | apply Upd.of | simp -iota only [Inv.update]
        | split | dsimp -iota only | dsimp only
  | succ n ih =>
    unfold State.evDrain
    try dsimp -iota only
    repeat' first
      | exact inSet_trans rfl hm
      | with_reducible exact Or.inr rfl
      | exact Or.inl (inSet_trans rfl hm)
      | with_reducible first
        | assumption | (intro) | apply ih | apply State.evPut_inv | apply Inv.ite | apply Upd.of
        | simp -iota only [Inv.update] | split | dsimp -iota only | dsimp only

theorem State.raiseOne_inv {fm : Nat} {s₀ : State} (s : State) (e : EvKind) (d : Detail) (h_s : Inv fm s₀ s)
    (hm : InSet 13196221202492 fm) :
    Inv fm s₀ (State.raiseOne s e d) := by
  delta State.raiseOne
  repeat' first
    | exact inSet_trans rfl hm
    | with_reducible exact Or.inr rfl
    | exact Or.inl (inSet_trans rfl hm)
    | with_reducible first
      | assumption | (intro) | apply State.bumpPlain_inv | apply State.evAccept_inv | apply State.sendAll_inv
      | apply Inv.ite | apply Upd.of | simp -iota only [Inv.update] | split | dsimp -iota only | dsimp only

theorem State.satDrain_inv {fm : Nat} {s₀ : State} (y0 : Nat) (s : State) (h_s : Inv fm s₀ s)
    (hm : InSet 13196221202492 fm) :
    Inv fm s₀ (State.satDrain y0 s) := by
  induction y0 generalizing s with
  | zero =>
    unfold State.satDrain
    try dsimp -iota only
    repeat' first
      | exact inSet_trans rfl hm
      | with_reducible exact Or.inr rfl
      | exact Or.inl (inSet_trans rfl hm)
      | with_reducible first
        | assumption | (intro) | apply State.raiseOne_inv | apply Inv.ite | apply Upd.of
        | simp -iota only [Inv.update] | split | dsimp -iota only | dsimp only
  | succ n ih =>
    unfold State.satDrain
    try dsimp -iota only
    repeat' first
      | exact inSet_trans rfl hm
      | with_reducible exact Or.inr rfl
      | exact Or.inl (inSet_trans rfl hm)
      | with_reducible first
        | assumption | (intro) | apply ih | apply State.raiseOne_inv | apply Inv.ite | apply Upd.of
        | simp -iota only [Inv.update] | split | dsimp -iota only | dsimp only

theorem State.raise_inv {fm : Nat} {s₀ : State} (s : State) (e : EvKind) (d : Detail) (h_s : Inv fm s₀ s)
    (hm : InSet 13196221202492 fm) :
    Inv fm s₀ (State.raise s e d) := by
  delta State.raise
  repeat' first
    | exact inSet_trans rfl hm
    | with_reducible first
      | assumption | (intro) | apply State.raiseOne_inv | apply State.satDrain_inv | apply Inv.ite | split
      | dsimp -iota only | dsimp only

theorem State.raisePerRow_inv {fm : Nat} {s₀ : State} (s : State) (e : EvKind) (d : Detail) (h_s : Inv fm s₀ s)
    (hm : InSet 13196221202492 fm) :
    Inv fm s₀ (State.raisePerRow s e d) := by
  delta State.raisePerRow
  repeat' first
    | exact inSet_trans rfl hm
    | with_reducible exact Or.inr rfl
    | exact Or.inl (inSet_trans rfl hm)
    | with_reducible first
      | assumption | (intro) | apply State.raise_inv | apply Inv.ite | apply Upd.of | simp -iota only [Inv.update]
      | split | dsimp -iota only | dsimp only

theorem State.bump_inv {fm : Nat} {s₀ : State} (s : State) (c : Cnt) (n : Nat) (h_s : Inv fm s₀ s)
    (hm : InSet 13196221202492 fm) :
    Inv fm s₀ (State.bump s c n) := by
  delta State.bump
  repeat' first
    | exact inSet_trans rfl hm
    | with_reducible first
      | assumption | (intro) | apply State.bumpQuiet_inv | apply State.satDrain_inv | apply Inv.ite | split
      | dsimp -iota only | dsimp only

theorem State.notify_inv {fm : Nat} {s₀ : State} (s : State) (v : Nat) (h_s : Inv fm s₀ s)
    (hm : InSet 13196221202492 fm) :
    Inv fm s₀ (State.notify s v) := by
  delta State.notify
  repeat' first
    | exact inSet_trans rfl hm
    | with_reducible first
      | assumption | (intro) | apply State.msiDue_inv | apply State.satDrain_inv | apply Inv.ite | split
      | dsimp -iota only | dsimp only

theorem State.setSched_inv {fm : Nat} {s₀ : State} (s : State) (m : Nat) (r : RowSched) (h_s : Inv fm s₀ s)
    (hm : InSet 17179869184 fm) :
    Inv fm s₀ (State.setSched s m r) := by
  delta State.setSched
  repeat' first
    | exact inSet_trans rfl hm
    | with_reducible exact Or.inr rfl
    | exact Or.inl (inSet_trans rfl hm)
    | with_reducible first
      | assumption | (intro) | apply Inv.ite | apply Upd.of | simp -iota only [Inv.update] | split | dsimp -iota only
      | dsimp only

theorem State.onSched_inv {fm : Nat} {s₀ : State} (s : State) (m : Nat) (f : RowSched → RowSched) (h_s : Inv fm s₀ s)
    (hm : InSet 17179869184 fm) :
    Inv fm s₀ (State.onSched s m f) := by
  delta State.onSched
  repeat' first
    | exact inSet_trans rfl hm
    | with_reducible first
      | assumption | (intro) | apply State.setSched_inv | apply Inv.ite | split | dsimp -iota only | dsimp only

theorem State.onTable_inv {fm : Nat} {s₀ : State} (s : State) (d : Nat) (f : DieTable → DieTable) (h_s : Inv fm s₀ s)
    (hm : InSet 137438953472 fm) :
    Inv fm s₀ (State.onTable s d f) := by
  delta State.onTable
  repeat' first
    | exact inSet_trans rfl hm
    | with_reducible exact Or.inr rfl
    | exact Or.inl (inSet_trans rfl hm)
    | with_reducible first
      | assumption | (intro) | apply Inv.ite | apply Upd.of | simp -iota only [Inv.update] | split | dsimp -iota only
      | dsimp only

theorem State.setPos_inv {fm : Nat} {s₀ : State} (s : State) (m code : Nat) (h_s : Inv fm s₀ s) (hm : InSet 4 fm) :
    Inv fm s₀ (State.setPos s m code) := by
  delta State.setPos
  repeat' first
    | exact inSet_trans rfl hm
    | with_reducible first
      | assumption | (intro) | apply State.setFld_inv | apply State.setFlds_inv | apply Inv.ite | split
      | dsimp -iota only | dsimp only

end Sys2Proof.Machine
end

