-- ==== Sys2Proof/Laws/InvMem.lean ====
section
/-!
SUPPORT. Laws/InvMem.lean: the operations of Machine/Mem.lean write only the fields named, and keep memories canonical.
-/

set_option simprocs false
set_option linter.unusedSimpArgs false
set_option linter.unusedVariables false

namespace Sys2Proof.Machine

theorem State.localWriteBy_inv {fm : Nat} {s₀ : State} (s : State) (who : Option (Nat × Nat × Nat)) (m a : Nat)
    (bs : List Byte) (h_s : Inv fm s₀ s) (hm : InSet 17408 fm) :
    Inv fm s₀ (State.localWriteBy s who m a bs) := by
  delta State.localWriteBy
  repeat' first
    | exact inSet_trans rfl hm
    | with_reducible exact Or.inr rfl
    | exact Or.inl (inSet_trans rfl hm)
    | with_reducible first
      | assumption | exact fun _ => rfl | exact locals_wf _ _ (memWrite_wf _ _ _)
      | exact locals_wf _ [] (fun _ => rfl) | (intro) | apply State.killResv_inv | apply Inv.ite | apply Upd.of
      | simp -iota only [Inv.update] | split | dsimp -iota only | dsimp only

theorem State.localWrite_inv {fm : Nat} {s₀ : State} (s : State) (m a : Nat) (bs : List Byte) (h_s : Inv fm s₀ s)
    (hm : InSet 17408 fm) :
    Inv fm s₀ (State.localWrite s m a bs) := by
  delta State.localWrite
  repeat' first
    | exact inSet_trans rfl hm
    | with_reducible first
      | assumption | (intro) | apply State.localWriteBy_inv | apply Inv.ite | split | dsimp -iota only | dsimp only

theorem State.countConflicts_inv {fm : Nat} {s₀ : State} (s : State) (m n : Nat) (lines : List Nat)
    (h_s : Inv fm s₀ s) (hm : InSet 13196221202492 fm) :
    Inv fm s₀ (State.countConflicts s m n lines) := by
  delta State.countConflicts
  repeat' first
    | exact inSet_trans rfl hm
    | with_reducible first
      | assumption | (intro) | apply State.bump_inv | apply Inv.ite | split | dsimp -iota only | dsimp only

theorem State.setArray_inv {fm : Nat} {s₀ : State} (s : State) (m : Nat) (a : ArrayUnits) (h_s : Inv fm s₀ s)
    (hm : InSet 2048 fm) :
    Inv fm s₀ (State.setArray s m a) := by
  delta State.setArray
  repeat' first
    | exact inSet_trans rfl hm
    | with_reducible exact Or.inr rfl
    | exact Or.inl (inSet_trans rfl hm)
    | with_reducible first
      | assumption | (intro) | apply Inv.ite | apply Upd.of | simp -iota only [Inv.update] | split | dsimp -iota only
      | dsimp only

theorem State.setAcc_inv {fm : Nat} {s₀ : State} (s : State) (m k : Nat) (c : AccSet) (h_s : Inv fm s₀ s)
    (hm : InSet 2048 fm) :
    Inv fm s₀ (State.setAcc s m k c) := by
  delta State.setAcc
  repeat' first
    | exact inSet_trans rfl hm
    | with_reducible exact Or.inr rfl
    | exact Or.inl (inSet_trans rfl hm)
    | with_reducible first
      | assumption | (intro) | apply State.setArray_inv | apply Inv.ite | apply Upd.of | simp -iota only [Inv.update]
      | split | dsimp -iota only | dsimp only

theorem State.planeWrite_inv {fm : Nat} {s₀ : State} (s : State) (m a n v : Nat) (h_s : Inv fm s₀ s)
    (hm : InSet 2048 fm) :
    Inv fm s₀ (State.planeWrite s m a n v) := by
  delta State.planeWrite
  repeat' first
    | exact inSet_trans rfl hm
    | with_reducible exact Or.inr rfl
    | exact Or.inl (inSet_trans rfl hm)
    | with_reducible first
      | assumption | (intro) | apply State.setAcc_inv | apply Inv.ite | apply Upd.of | simp -iota only [Inv.update]
      | split | dsimp -iota only | dsimp only

theorem State.planesWrite_inv {fm : Nat} {s₀ : State} (s : State) (m a : Nat) (bs : List Byte) (h_s : Inv fm s₀ s)
    (hm : InSet 13196221204540 fm) :
    Inv fm s₀ (State.planesWrite s m a bs) := by
  delta State.planesWrite
  repeat' first
    | exact inSet_trans rfl hm
    | with_reducible first
      | assumption | (intro) | apply State.planeWrite_inv | apply State.range_inv
      | (apply PairInv.snd; apply State.range_inv) | apply Inv.ite | apply PairInv.ite
      | (apply PairInv.snd; apply PairInv.ite) | apply Inv.foldl | simp -iota only [PairInv.mk'] | split
      | refine PairInv.of_eq (by assumption) ?_ | dsimp -iota only | dsimp only

theorem State.localAnyWrite_inv {fm : Nat} {s₀ : State} (s : State) (m a : Nat) (bs : List Byte) (h_s : Inv fm s₀ s)
    (hm : InSet 13196221205564 fm) :
    Inv fm s₀ (State.localAnyWrite s m a bs) := by
  delta State.localAnyWrite
  repeat' first
    | exact inSet_trans rfl hm
    | with_reducible first
      | assumption | (intro) | apply State.localWrite_inv | apply State.planesWrite_inv | apply Inv.ite | split
      | dsimp -iota only | dsimp only

theorem State.setVec_inv {fm : Nat} {s₀ : State} (s : State) (m : Nat) (v : VecEngine) (h_s : Inv fm s₀ s)
    (hm : InSet 4096 fm) :
    Inv fm s₀ (State.setVec s m v) := by
  delta State.setVec
  repeat' first
    | exact inSet_trans rfl hm
    | with_reducible exact Or.inr rfl
    | exact Or.inl (inSet_trans rfl hm)
    | with_reducible first
      | assumption | (intro) | apply Inv.ite | apply Upd.of | simp -iota only [Inv.update] | split | dsimp -iota only
      | dsimp only

theorem State.localRecord_inv {fm : Nat} {s₀ : State} (s : State) (m a : Nat) (bs : List Byte) (h_s : Inv fm s₀ s)
    (hm : InSet 17408 fm) :
    Inv fm s₀ (State.localRecord s m a bs) := by
  delta State.localRecord
  repeat' first
    | exact inSet_trans rfl hm
    | with_reducible first
      | assumption | (intro) | apply State.localWrite_inv | apply Inv.ite | split | dsimp -iota only | dsimp only

theorem State.localCount_inv {fm : Nat} {s₀ : State} (s : State) (m a : Nat) (h_s : Inv fm s₀ s) (hm : InSet 17408 fm) :
    Inv fm s₀ (State.localCount s m a) := by
  delta State.localCount
  repeat' first
    | exact inSet_trans rfl hm
    | with_reducible first
      | assumption | (intro) | apply State.localRecord_inv | apply Inv.ite | split | dsimp -iota only | dsimp only

theorem State.onCtl_inv {fm : Nat} {s₀ : State} (s : State) (k : Nat) (f : StackCtl → StackCtl) (h_s : Inv fm s₀ s)
    (hm : InSet 131072 fm) :
    Inv fm s₀ (State.onCtl s k f) := by
  delta State.onCtl
  repeat' first
    | exact inSet_trans rfl hm
    | with_reducible exact Or.inr rfl
    | exact Or.inl (inSet_trans rfl hm)
    | with_reducible first
      | assumption | (intro) | apply Inv.ite | apply Upd.of | simp -iota only [Inv.update] | split | dsimp -iota only
      | dsimp only

theorem State.hbLog_inv {fm : Nat} {s₀ : State} (s : State) (k kind pa : Nat) (h_s : Inv fm s₀ s) (hm : InSet 4 fm) :
    Inv fm s₀ (State.hbLog s k kind pa) := by
  delta State.hbLog
  repeat' first
    | exact inSet_trans rfl hm
    | with_reducible first
      | assumption | (intro) | apply State.setFlds_inv | apply Inv.ite | split | dsimp -iota only | dsimp only

theorem State.sendFaultRpt_inv {fm : Nat} {s₀ : State} (s : State) (kind id cause : Nat) (h_s : Inv fm s₀ s)
    (hm : InSet 536870912 fm) :
    Inv fm s₀ (State.sendFaultRpt s kind id cause) := by
  delta State.sendFaultRpt
  repeat' first
    | exact inSet_trans rfl hm
    | with_reducible first
      | assumption | (intro) | apply State.send_inv | apply Inv.ite | split | dsimp -iota only | dsimp only

theorem State.flipWord_inv {fm : Nat} {s₀ : State} (s : State) (w : Nat) (f : BitVec 80) (h_s : Inv fm s₀ s)
    (hm : InSet 24 fm) :
    Inv fm s₀ (State.flipWord s w f) := by
  delta State.flipWord
  repeat' first
    | exact inSet_trans rfl hm
    | with_reducible exact Or.inr rfl
    | exact Or.inl (inSet_trans rfl hm)
    | exact fun _ => rfl
    | with_reducible first
      | assumption | exact memWrite_wf _ _ _ | (intro) | apply Inv.ite | apply Upd.of | simp -iota only [Inv.update]
      | split | dsimp -iota only | dsimp only

theorem State.settleWord_inv {fm : Nat} {s₀ : State} (s : State) (w : Nat) (h_s : Inv fm s₀ s)
    (hm : InSet 13196221202492 fm) :
    Inv fm s₀ (State.settleWord s w) := by
  delta State.settleWord
  repeat' first
    | exact inSet_trans rfl hm
    | with_reducible exact Or.inr rfl
    | exact Or.inl (inSet_trans rfl hm)
    | with_reducible first
      | assumption | (intro) | apply State.bump_inv | apply State.flipWord_inv | apply State.hbLog_inv
      | apply State.onCtl_inv | apply State.raise_inv | apply State.sendFaultRpt_inv | apply Inv.ite | apply Upd.of
      | simp -iota only [Inv.update] | split | dsimp -iota only | dsimp only

theorem State.upset_inv {fm : Nat} {s₀ : State} (s : State) (b : Nat) (wrong : BitVec 320) (h_s : Inv fm s₀ s)
    (hm : InSet 13196221202492 fm) :
    Inv fm s₀ (State.upset s b wrong) := by
  delta State.upset
  repeat' first
    | exact inSet_trans rfl hm
    | with_reducible exact Or.inr rfl
    | exact Or.inl (inSet_trans rfl hm)
    | with_reducible first
      | assumption | (intro) | apply State.range_inv | (apply PairInv.snd; apply State.range_inv) | apply Inv.ite
      | apply PairInv.ite | (apply PairInv.snd; apply PairInv.ite) | apply Inv.foldl | apply Upd.of
      | simp -iota only [Inv.update, PairInv.mk'] | split | refine PairInv.of_eq (by assumption) ?_
      | dsimp -iota only | dsimp only

theorem State.decodeBurst_inv {fm : Nat} {s₀ : State} (s : State) (b : Nat) (h_s : Inv fm s₀ s)
    (hm : InSet 13196221202492 fm) :
    Inv fm s₀ (State.decodeBurst s b) := by
  delta State.decodeBurst
  repeat' first
    | exact inSet_trans rfl hm
    | with_reducible first
      | assumption | (intro) | apply State.range_inv | (apply PairInv.snd; apply State.range_inv)
      | apply State.settleWord_inv | apply Inv.ite | apply PairInv.ite | (apply PairInv.snd; apply PairInv.ite)
      | apply Inv.foldl | simp -iota only [PairInv.mk'] | split | refine PairInv.of_eq (by assumption) ?_
      | dsimp -iota only | dsimp only

theorem State.burstRead_inv {fm : Nat} {s₀ : State} (s : State) (b : Nat) (h_s : Inv fm s₀ s)
    (hm : InSet 13196221202492 fm) :
    Inv fm s₀ (State.burstRead s b) := by
  delta State.burstRead
  repeat' first
    | exact inSet_trans rfl hm
    | with_reducible first
      | assumption | (intro) | apply State.bump_inv | apply State.decodeBurst_inv | apply Inv.ite | split
      | dsimp -iota only | dsimp only

theorem State.storeWord_inv {fm : Nat} {s₀ : State} (s : State) (w : Nat) (bs : List (Option Byte))
    (h_s : Inv fm s₀ s) (hm : InSet 60 fm) :
    Inv fm s₀ (State.storeWord s w bs) := by
  delta State.storeWord
  repeat' first
    | exact inSet_trans rfl hm
    | with_reducible exact Or.inr rfl
    | exact Or.inl (inSet_trans rfl hm)
    | with_reducible first
      | assumption | exact fun _ => rfl | exact memWrite_wf _ _ _ | (intro) | apply State.setFld_inv | apply Inv.ite
      | apply Inv.getD | apply Upd.of | simp -iota only [Inv.update] | split | dsimp -iota only | dsimp only

theorem State.burstWrite_inv {fm : Nat} {s₀ : State} (s : State) (b : Nat) (bs : List (Option Byte))
    (h_s : Inv fm s₀ s) (hm : InSet 13196221202492 fm) :
    Inv fm s₀ (State.burstWrite s b bs) := by
  delta State.burstWrite
  repeat' first
    | exact inSet_trans rfl hm
    | with_reducible first
      | assumption | (intro) | apply State.bump_inv | apply State.decodeBurst_inv | apply State.storeWord_inv
      | apply Inv.ite | apply Inv.foldl | split | dsimp -iota only | dsimp only

theorem State.activateBank_inv {fm : Nat} {s₀ : State} (s : State) (pa : Nat) (h_s : Inv fm s₀ s)
    (hm : InSet 131072 fm) :
    Inv fm s₀ (State.activateBank s pa) := by
  delta State.activateBank
  repeat' first
    | exact inSet_trans rfl hm
    | with_reducible exact Or.inr rfl
    | exact Or.inl (inSet_trans rfl hm)
    | with_reducible first
      | assumption | (intro) | apply State.onCtl_inv | apply Inv.ite | apply Upd.of | simp -iota only [Inv.update]
      | split | dsimp -iota only | dsimp only

theorem State.memLine_inv {fm : Nat} {s₀ : State} (s : State) (l : Nat) (h_s : Inv fm s₀ s)
    (hm : InSet 13196221202492 fm) :
    PairInv fm s₀ (State.memLine s l) := by
  delta State.memLine
  repeat' first
    | exact inSet_trans rfl hm
    | with_reducible first
      | assumption | (intro) | apply State.activateBank_inv | apply State.burstRead_inv | apply State.range_inv
      | (apply PairInv.snd; apply State.range_inv) | apply Inv.ite | apply PairInv.ite
      | (apply PairInv.snd; apply PairInv.ite) | apply Inv.foldl | simp -iota only [PairInv.mk'] | split
      | refine PairInv.of_eq (by assumption) ?_ | dsimp -iota only | dsimp only

theorem State.memWriteLine_inv {fm : Nat} {s₀ : State} (s : State) (l : Nat) (d : LineData) (mask : Nat)
    (h_s : Inv fm s₀ s) (hm : InSet 13196221202492 fm) :
    Inv fm s₀ (State.memWriteLine s l d mask) := by
  delta State.memWriteLine
  repeat' first
    | exact inSet_trans rfl hm
    | with_reducible exact Or.inr rfl
    | exact Or.inl (inSet_trans rfl hm)
    | with_reducible first
      | assumption | (intro) | apply State.activateBank_inv | apply State.burstWrite_inv | apply State.range_inv
      | (apply PairInv.snd; apply State.range_inv) | apply Inv.ite | apply PairInv.ite
      | (apply PairInv.snd; apply PairInv.ite) | apply Inv.foldl | apply Upd.of
      | simp -iota only [Inv.update, PairInv.mk'] | split | refine PairInv.of_eq (by assumption) ?_
      | dsimp -iota only | dsimp only

theorem State.coh_inv {fm : Nat} {s₀ : State} (s : State) (src dst code line : Nat) (more : List Nat) (bs : List Byte)
    (h_s : Inv fm s₀ s) (hm : InSet 603979776 fm) :
    Inv fm s₀ (State.coh s src dst code line more bs) := by
  delta State.coh
  repeat' first
    | exact inSet_trans rfl hm
    | with_reducible exact Or.inr rfl
    | exact Or.inl (inSet_trans rfl hm)
    | with_reducible first
      | assumption | (intro) | apply State.send_inv | apply Inv.ite | apply Upd.of | simp -iota only [Inv.update]
      | split | dsimp -iota only | dsimp only

theorem State.putEntry_inv {fm : Nat} {s₀ : State} (s : State) (k l : Nat) (e : Option DirEntry) (h_s : Inv fm s₀ s)
    (hm : InSet 65536 fm) :
    Inv fm s₀ (State.putEntry s k l e) := by
  delta State.putEntry
  repeat' first
    | exact inSet_trans rfl hm
    | with_reducible exact Or.inr rfl
    | exact Or.inl (inSet_trans rfl hm)
    | with_reducible first
      | assumption | (intro) | apply State.onHome_inv | apply Inv.ite | apply Upd.of | simp -iota only [Inv.update]
      | split | dsimp -iota only | dsimp only

theorem State.tidyEntry_inv {fm : Nat} {s₀ : State} (s : State) (k l : Nat) (h_s : Inv fm s₀ s) (hm : InSet 65536 fm) :
    Inv fm s₀ (State.tidyEntry s k l) := by
  delta State.tidyEntry
  repeat' first
    | exact inSet_trans rfl hm
    | with_reducible exact Or.inr rfl
    | exact Or.inl (inSet_trans rfl hm)
    | with_reducible first
      | assumption | (intro) | apply State.putEntry_inv | apply Inv.ite | apply Upd.of | simp -iota only [Inv.update]
      | split | dsimp -iota only | dsimp only

theorem State.sendInvs_inv {fm : Nat} {s₀ : State} (s : State) (l to' : Nat) (y0 : List Nat) (h_s : Inv fm s₀ s)
    (hm : InSet 603979776 fm) :
    Inv fm s₀ (State.sendInvs s l to' y0) := by
  induction y0 generalizing s with
  | nil =>
    unfold State.sendInvs
    try dsimp -iota only
    repeat' first
      | exact inSet_trans rfl hm
      | with_reducible first
        | assumption | (intro) | apply State.coh_inv | apply Inv.ite | split | dsimp -iota only | dsimp only
  | cons x xs ih =>
    unfold State.sendInvs
    try dsimp -iota only
    repeat' first
      | exact inSet_trans rfl hm
      | with_reducible first
        | assumption | (intro) | apply ih | apply State.coh_inv | apply Inv.ite | split | dsimp -iota only
        | dsimp only

theorem State.makeRoom_inv {fm : Nat} {s₀ : State} (s : State) (k l : Nat) (h_s : Inv fm s₀ s)
    (hm : InSet 13196221202492 fm) :
    Inv fm s₀ (State.makeRoom s k l) := by
  delta State.makeRoom
  repeat' first
    | exact inSet_trans rfl hm
    | with_reducible exact Or.inr rfl
    | exact Or.inl (inSet_trans rfl hm)
    | with_reducible first
      | assumption | (intro) | apply State.bump_inv | apply State.coh_inv | apply State.onHome_inv
      | apply State.putEntry_inv | apply State.sendInvs_inv | apply Inv.ite | apply Upd.of
      | simp -iota only [Inv.update] | split | dsimp -iota only | dsimp only

theorem State.pinEntry_inv {fm : Nat} {s₀ : State} (s : State) (k l : Nat) (why : PinWhy) (h_s : Inv fm s₀ s)
    (hm : InSet 13196221202492 fm) :
    Inv fm s₀ (State.pinEntry s k l why) := by
  delta State.pinEntry
  repeat' first
    | exact inSet_trans rfl hm
    | with_reducible exact Or.inr rfl
    | exact Or.inl (inSet_trans rfl hm)
    | with_reducible first
      | assumption | (intro) | apply State.makeRoom_inv | apply State.onHome_inv | apply Inv.ite | apply Inv.getD
      | apply Upd.of | simp -iota only [Inv.update] | split | dsimp -iota only | dsimp only

theorem State.flushBuffer_inv {fm : Nat} {s₀ : State} (s : State) (l : Nat) (h_s : Inv fm s₀ s)
    (hm : InSet 13196221202492 fm) :
    Inv fm s₀ (State.flushBuffer s l) := by
  delta State.flushBuffer
  repeat' first
    | exact inSet_trans rfl hm
    | with_reducible exact Or.inr rfl
    | exact Or.inl (inSet_trans rfl hm)
    | with_reducible first
      | assumption | (intro) | apply State.dropEntry_inv | apply State.memWriteLine_inv | apply State.onHome_inv
      | apply Inv.ite | apply Upd.of | simp -iota only [Inv.update] | split | dsimp -iota only | dsimp only

theorem State.countRequest_inv {fm : Nat} {s₀ : State} (s : State) (l : Nat) (h_s : Inv fm s₀ s)
    (hm : InSet 13196221202492 fm) :
    Inv fm s₀ (State.countRequest s l) := by
  delta State.countRequest
  repeat' first
    | exact inSet_trans rfl hm
    | with_reducible first
      | assumption | (intro) | apply State.bump_inv | apply Inv.ite | split | dsimp -iota only | dsimp only

theorem State.cohLine_inv {fm : Nat} {s₀ : State} (s : State) (l : Nat) (h_s : Inv fm s₀ s)
    (hm : InSet 13196221202492 fm) :
    PairInv fm s₀ (State.cohLine s l) := by
  delta State.cohLine
  repeat' first
    | exact inSet_trans rfl hm
    | with_reducible exact Or.inr rfl
    | exact Or.inl (inSet_trans rfl hm)
    | with_reducible first
      | assumption | (intro) | apply State.countRequest_inv | apply State.flushBuffer_inv | apply State.memLine_inv
      | (apply PairInv.snd; apply State.memLine_inv) | apply State.newest_inv
      | (apply PairInv.snd; apply State.newest_inv) | apply Inv.ite | apply PairInv.ite
      | (apply PairInv.snd; apply PairInv.ite) | apply Upd.of | simp -iota only [Inv.update, PairInv.mk'] | split
      | refine PairInv.of_eq (by assumption) ?_ | dsimp -iota only | dsimp only

theorem State.cleanLine_inv {fm : Nat} {s₀ : State} (s : State) (l : Nat) (full : Bool) (h_s : Inv fm s₀ s)
    (hm : InSet 13196221202492 fm) :
    Inv fm s₀ (State.cleanLine s l full) := by
  delta State.cleanLine
  repeat' first
    | exact inSet_trans rfl hm
    | with_reducible exact Or.inr rfl
    | exact Or.inl (inSet_trans rfl hm)
    | with_reducible first
      | assumption | (intro) | apply State.coh_inv | apply State.dropCopies_inv | apply State.dropEntry_inv
      | apply State.flushBuffer_inv | apply State.memWriteLine_inv | apply State.newest_inv
      | (apply PairInv.snd; apply State.newest_inv) | apply Inv.ite | apply PairInv.ite
      | (apply PairInv.snd; apply PairInv.ite) | apply Upd.of | simp -iota only [Inv.update, PairInv.mk'] | split
      | refine PairInv.of_eq (by assumption) ?_ | dsimp -iota only | dsimp only

theorem State.cohWriteLine_inv {fm : Nat} {s₀ : State} (s : State) (l : Nat) (d : LineData) (mask : Nat)
    (h_s : Inv fm s₀ s) (hm : InSet 13196221202492 fm) :
    Inv fm s₀ (State.cohWriteLine s l d mask) := by
  delta State.cohWriteLine
  repeat' first
    | exact inSet_trans rfl hm
    | with_reducible first
      | assumption | (intro) | apply State.cleanLine_inv | apply State.countRequest_inv | apply State.killResv_inv
      | apply State.memWriteLine_inv | apply Inv.ite | split | dsimp -iota only | dsimp only

theorem State.bufferRoom_inv {fm : Nat} {s₀ : State} (s : State) (k : Nat) (h_s : Inv fm s₀ s)
    (hm : InSet 13196221202492 fm) :
    Inv fm s₀ (State.bufferRoom s k) := by
  delta State.bufferRoom
  repeat' first
    | exact inSet_trans rfl hm
    | with_reducible exact Or.inr rfl
    | exact Or.inl (inSet_trans rfl hm)
    | with_reducible first
      | assumption | (intro) | apply State.flushBuffer_inv | apply Inv.ite | apply Upd.of
      | simp -iota only [Inv.update] | split | dsimp -iota only | dsimp only

theorem State.buffered_inv {fm : Nat} {s₀ : State} (s : State) (l : Nat) (h_s : Inv fm s₀ s)
    (hm : InSet 13196221202492 fm) :
    PairInv fm s₀ (State.buffered s l) := by
  delta State.buffered
  repeat' first
    | exact inSet_trans rfl hm
    | with_reducible exact Or.inr rfl
    | exact Or.inl (inSet_trans rfl hm)
    | with_reducible first
      | assumption | (intro) | apply State.bufferRoom_inv | apply State.cleanLine_inv | apply State.memLine_inv
      | (apply PairInv.snd; apply State.memLine_inv) | apply State.onHome_inv | apply State.pinEntry_inv
      | apply Inv.ite | apply PairInv.ite | (apply PairInv.snd; apply PairInv.ite) | apply Upd.of
      | simp -iota only [Inv.update, PairInv.mk'] | split | refine PairInv.of_eq (by assumption) ?_
      | dsimp -iota only | dsimp only

theorem State.farWordOp_inv {fm : Nat} {s₀ : State} (s : State) (pa n : Nat) (f : Nat → Nat) (h_s : Inv fm s₀ s)
    (hm : InSet 13196221202492 fm) :
    TripleInv fm s₀ (State.farWordOp s pa n f) := by
  delta State.farWordOp
  repeat' first
    | exact inSet_trans rfl hm
    | with_reducible exact Or.inr rfl
    | exact Or.inl (inSet_trans rfl hm)
    | with_reducible first
      | assumption | (intro) | apply State.buffered_inv | (apply PairInv.snd; apply State.buffered_inv)
      | apply State.bump_inv | apply State.countRequest_inv | apply State.killResv_inv | apply State.onHome_inv
      | apply Inv.ite | apply PairInv.ite | (apply PairInv.snd; apply PairInv.ite) | apply TripleInv.ite
      | (apply TripleInv.snd; apply TripleInv.ite) | apply Upd.of
      | simp -iota only [Inv.update, PairInv.mk', TripleInv.mk'] | split | refine PairInv.of_eq (by assumption) ?_
      | refine TripleInv.of_eq (by assumption) ?_ | dsimp -iota only | dsimp only

theorem State.cohLines_inv {fm : Nat} {s₀ : State} (y0 : List Nat) (s : State) (h_s : Inv fm s₀ s)
    (hm : InSet 13196221202492 fm) :
    TripleInv fm s₀ (State.cohLines y0 s) := by
  induction y0 generalizing s with
  | nil =>
    unfold State.cohLines
    try dsimp -iota only
    repeat' first
      | exact inSet_trans rfl hm
      | with_reducible first
        | assumption | (intro) | apply State.cohLine_inv | (apply PairInv.snd; apply State.cohLine_inv)
        | apply State.range_inv | (apply PairInv.snd; apply State.range_inv) | apply Inv.ite | apply PairInv.ite
        | (apply PairInv.snd; apply PairInv.ite) | apply TripleInv.ite | (apply TripleInv.snd; apply TripleInv.ite)
        | simp -iota only [PairInv.mk', TripleInv.mk'] | split | refine PairInv.of_eq (by assumption) ?_
        | refine TripleInv.of_eq (by assumption) ?_ | dsimp -iota only | dsimp only
  | cons x xs ih =>
    unfold State.cohLines
    try dsimp -iota only
    repeat' first
      | exact inSet_trans rfl hm
      | with_reducible first
        | assumption | (intro) | (apply TripleInv.snd; apply ih) | apply ih | apply State.cohLine_inv
        | (apply PairInv.snd; apply State.cohLine_inv) | apply State.range_inv
        | (apply PairInv.snd; apply State.range_inv) | apply Inv.ite | apply PairInv.ite
        | (apply PairInv.snd; apply PairInv.ite) | apply TripleInv.ite | (apply TripleInv.snd; apply TripleInv.ite)
        | simp -iota only [PairInv.mk', TripleInv.mk'] | split | refine PairInv.of_eq (by assumption) ?_
        | refine TripleInv.of_eq (by assumption) ?_ | dsimp -iota only | dsimp only

theorem State.poolRead_inv {fm : Nat} {s₀ : State} (s : State) (a n : Nat) (h_s : Inv fm s₀ s)
    (hm : InSet 13196221202492 fm) :
    TripleInv fm s₀ (State.poolRead s a n) := by
  delta State.poolRead
  repeat' first
    | exact inSet_trans rfl hm
    | with_reducible first
      | assumption | (intro) | apply State.cohLines_inv | (apply TripleInv.snd; apply State.cohLines_inv)
      | apply State.range_inv | (apply PairInv.snd; apply State.range_inv) | apply Inv.ite | apply PairInv.ite
      | (apply PairInv.snd; apply PairInv.ite) | apply TripleInv.ite | (apply TripleInv.snd; apply TripleInv.ite)
      | apply Inv.getD | simp -iota only [PairInv.mk', TripleInv.mk'] | split
      | refine PairInv.of_eq (by assumption) ?_ | refine TripleInv.of_eq (by assumption) ?_ | dsimp -iota only
      | dsimp only

theorem State.poolWrite_inv {fm : Nat} {s₀ : State} (s : State) (a : Nat) (bs : List (Option Byte)) (ps : List Nat)
    (h_s : Inv fm s₀ s) (hm : InSet 13196221202492 fm) :
    Inv fm s₀ (State.poolWrite s a bs ps) := by
  delta State.poolWrite
  repeat' first
    | exact inSet_trans rfl hm
    | with_reducible first
      | assumption | (intro) | apply State.cohWriteLine_inv | apply State.range_inv
      | (apply PairInv.snd; apply State.range_inv) | apply Inv.ite | apply PairInv.ite
      | (apply PairInv.snd; apply PairInv.ite) | apply Inv.foldl | apply Inv.getD | simp -iota only [PairInv.mk']
      | split | refine PairInv.of_eq (by assumption) ?_ | dsimp -iota only | dsimp only

theorem State.consume_inv {fm : Nat} {s₀ : State} (s : State) (src : Nat) (ws : List Nat) (h_s : Inv fm s₀ s)
    (hm : InSet 13196221202492 fm) :
    Inv fm s₀ (State.consume s src ws) := by
  delta State.consume
  repeat' first
    | exact inSet_trans rfl hm
    | with_reducible exact Or.inr rfl
    | exact Or.inl (inSet_trans rfl hm)
    | with_reducible first
      | assumption | (intro) | apply State.bump_inv | apply State.hbLog_inv | apply State.raise_inv | apply Inv.ite
      | apply Inv.foldl | apply Upd.of | simp -iota only [Inv.update] | split | dsimp -iota only | dsimp only

end Sys2Proof.Machine
end

