-- ==== Sys2Proof/Laws/InvTranslate.lean ====
section
/-!
SUPPORT. Laws/InvTranslate.lean: the operations of Machine/Translate.lean write only the fields named, and keep memories canonical.
-/

set_option simprocs false
set_option linter.unusedSimpArgs false
set_option linter.unusedVariables false

namespace Sys2Proof.Machine

theorem State.setTlb_inv {fm : Nat} {s₀ : State} (s : State) (die : Nat) (t : Tlb) (h_s : Inv fm s₀ s)
    (hm : InSet 134217728 fm) :
    Inv fm s₀ (State.setTlb s die t) := by
  delta State.setTlb
  repeat' first
    | exact inSet_trans rfl hm
    | with_reducible exact Or.inr rfl
    | exact Or.inl (inSet_trans rfl hm)
    | with_reducible first
      | assumption | (intro) | apply Inv.ite | apply Upd.of | simp -iota only [Inv.update] | split | dsimp -iota only
      | dsimp only

theorem State.bumpMotif_inv {fm : Nat} {s₀ : State} (s : State) (die : Nat) (c : Nat → Cnt) (h_s : Inv fm s₀ s)
    (hm : InSet 13196221202492 fm) :
    Inv fm s₀ (State.bumpMotif s die c) := by
  delta State.bumpMotif
  repeat' first
    | exact inSet_trans rfl hm
    | with_reducible first
      | assumption | (intro) | apply State.bump_inv | apply Inv.ite | split | dsimp -iota only | dsimp only

theorem State.walkRead_inv {fm : Nat} {s₀ : State} (s : State) (die a n : Nat) (h_s : Inv fm s₀ s)
    (hm : InSet 13196221202492 fm) :
    PairInv fm s₀ (State.walkRead s die a n) := by
  delta State.walkRead
  repeat' first
    | exact inSet_trans rfl hm
    | with_reducible first
      | assumption | (intro) | apply State.bumpMotif_inv | apply State.consume_inv | apply State.poolRead_inv
      | (apply TripleInv.snd; apply State.poolRead_inv) | apply Inv.ite | apply PairInv.ite
      | (apply PairInv.snd; apply PairInv.ite) | apply TripleInv.ite | (apply TripleInv.snd; apply TripleInv.ite)
      | simp -iota only [PairInv.mk', TripleInv.mk'] | split | refine PairInv.of_eq (by assumption) ?_
      | refine TripleInv.of_eq (by assumption) ?_ | dsimp -iota only | dsimp only

theorem State.walk_inv {fm : Nat} {s₀ : State} (die asid va : Nat) (need : Need) (y0 : Nat) (y1 : Nat) (s : State)
    (h_s : Inv fm s₀ s) (hm : InSet 13196221202492 fm) :
    PairInv fm s₀ (State.walk die asid va need y0 y1 s) := by
  induction y0 generalizing y1 s with
  | zero =>
    unfold State.walk
    try dsimp -iota only
    repeat' first
      | exact inSet_trans rfl hm
      | with_reducible exact Or.inr rfl
      | exact Or.inl (inSet_trans rfl hm)
      | with_reducible first
        | assumption | (intro) | apply State.setTlb_inv | apply State.walkRead_inv
        | (apply PairInv.snd; apply State.walkRead_inv) | apply Inv.ite | apply PairInv.ite
        | (apply PairInv.snd; apply PairInv.ite) | apply Upd.of | simp -iota only [Inv.update, PairInv.mk'] | split
        | refine PairInv.of_eq (by assumption) ?_ | dsimp -iota only | dsimp only
  | succ n ih =>
    unfold State.walk
    try dsimp -iota only
    repeat' first
      | exact inSet_trans rfl hm
      | with_reducible exact Or.inr rfl
      | exact Or.inl (inSet_trans rfl hm)
      | with_reducible first
        | assumption | (intro) | (apply PairInv.snd; apply ih) | apply ih | apply State.setTlb_inv
        | apply State.walkRead_inv | (apply PairInv.snd; apply State.walkRead_inv) | apply Inv.ite
        | apply PairInv.ite | (apply PairInv.snd; apply PairInv.ite) | apply Upd.of
        | simp -iota only [Inv.update, PairInv.mk'] | split | refine PairInv.of_eq (by assumption) ?_
        | dsimp -iota only | dsimp only

theorem State.fillMicro_inv {fm : Nat} {s₀ : State} (s : State) (a asid va : Nat) (h_s : Inv fm s₀ s)
    (hm : InSet 134217728 fm) :
    Inv fm s₀ (State.fillMicro s a asid va) := by
  delta State.fillMicro
  repeat' first
    | exact inSet_trans rfl hm
    | with_reducible exact Or.inr rfl
    | exact Or.inl (inSet_trans rfl hm)
    | with_reducible first
      | assumption | (intro) | apply Inv.ite | apply Upd.of | simp -iota only [Inv.update] | split | dsimp -iota only
      | dsimp only

theorem State.dropLeaf_inv {fm : Nat} {s₀ : State} (s : State) (die asid va : Nat) (h_s : Inv fm s₀ s)
    (hm : InSet 134217728 fm) :
    Inv fm s₀ (State.dropLeaf s die asid va) := by
  delta State.dropLeaf
  repeat' first
    | exact inSet_trans rfl hm
    | with_reducible exact Or.inr rfl
    | exact Or.inl (inSet_trans rfl hm)
    | with_reducible first
      | assumption | (intro) | apply State.setTlb_inv | apply Inv.ite | apply Upd.of | simp -iota only [Inv.update]
      | split | dsimp -iota only | dsimp only

theorem State.walkFrom_inv {fm : Nat} {s₀ : State} (s : State) (die asid va : Nat) (need : Need) (h_s : Inv fm s₀ s)
    (hm : InSet 13196221202492 fm) :
    PairInv fm s₀ (State.walkFrom s die asid va need) := by
  delta State.walkFrom
  repeat' first
    | exact inSet_trans rfl hm
    | with_reducible exact Or.inr rfl
    | exact Or.inl (inSet_trans rfl hm)
    | with_reducible first
      | assumption | (intro) | apply State.setTlb_inv | apply State.walk_inv
      | (apply PairInv.snd; apply State.walk_inv) | apply State.walkRead_inv
      | (apply PairInv.snd; apply State.walkRead_inv) | apply Inv.ite | apply PairInv.ite
      | (apply PairInv.snd; apply PairInv.ite) | apply Upd.of | simp -iota only [Inv.update, PairInv.mk'] | split
      | refine PairInv.of_eq (by assumption) ?_ | dsimp -iota only | dsimp only

theorem State.translate_inv {fm : Nat} {s₀ : State} (s : State) (a asid va : Nat) (need : Need) (h_s : Inv fm s₀ s)
    (hm : InSet 13196221202492 fm) :
    PairInv fm s₀ (State.translate s a asid va need) := by
  delta State.translate
  repeat' first
    | exact inSet_trans rfl hm
    | with_reducible exact Or.inr rfl
    | exact Or.inl (inSet_trans rfl hm)
    | with_reducible first
      | assumption | (intro) | apply State.bump_inv | apply State.bumpMotif_inv | apply State.dropLeaf_inv
      | apply State.fillMicro_inv | apply State.walkFrom_inv | (apply PairInv.snd; apply State.walkFrom_inv)
      | apply Inv.ite | apply PairInv.ite | (apply PairInv.snd; apply PairInv.ite) | apply Upd.of
      | simp -iota only [Inv.update, PairInv.mk'] | split | refine PairInv.of_eq (by assumption) ?_
      | dsimp -iota only | dsimp only

theorem State.rangePages_inv {fm : Nat} {s₀ : State} (die asid : Nat) (need : Need) (sh : Shape) (y0 : Nat) (y1 : Nat)
    (y2 : Nat) (s : State) (h_s : Inv fm s₀ s) (hm : InSet 13196221202492 fm) :
    PairInv fm s₀ (State.rangePages die asid need sh y0 y1 y2 s) := by
  induction y0 generalizing y1 y2 s with
  | zero =>
    unfold State.rangePages
    try dsimp -iota only
    repeat' first
      | exact inSet_trans rfl hm
      | with_reducible exact Or.inr rfl
      | exact Or.inl (inSet_trans rfl hm)
      | with_reducible first
        | assumption | (intro) | apply State.translate_inv | (apply PairInv.snd; apply State.translate_inv)
        | apply Inv.ite | apply PairInv.ite | (apply PairInv.snd; apply PairInv.ite) | apply Upd.of
        | simp -iota only [Inv.update, PairInv.mk'] | split | refine PairInv.of_eq (by assumption) ?_
        | dsimp -iota only | dsimp only
  | succ n ih =>
    unfold State.rangePages
    try dsimp -iota only
    repeat' first
      | exact inSet_trans rfl hm
      | with_reducible exact Or.inr rfl
      | exact Or.inl (inSet_trans rfl hm)
      | with_reducible first
        | assumption | (intro) | (apply PairInv.snd; apply ih) | apply ih | apply State.translate_inv
        | (apply PairInv.snd; apply State.translate_inv) | apply Inv.ite | apply PairInv.ite
        | (apply PairInv.snd; apply PairInv.ite) | apply Upd.of | simp -iota only [Inv.update, PairInv.mk'] | split
        | refine PairInv.of_eq (by assumption) ?_ | dsimp -iota only | dsimp only

theorem State.range_inv {fm : Nat} {s₀ : State} (s : State) (die asid va n : Nat) (need : Need) (sh : Shape)
    (h_s : Inv fm s₀ s) (hm : InSet 13196221202492 fm) :
    PairInv fm s₀ (State.range s die asid va n need sh) := by
  delta State.range
  repeat' first
    | exact inSet_trans rfl hm
    | with_reducible first
      | assumption | (intro) | apply State.rangePages_inv | (apply PairInv.snd; apply State.rangePages_inv)
      | apply Inv.ite | apply PairInv.ite | (apply PairInv.snd; apply PairInv.ite) | simp -iota only [PairInv.mk']
      | split | refine PairInv.of_eq (by assumption) ?_ | dsimp -iota only | dsimp only

theorem State.physRead_inv {fm : Nat} {s₀ : State} (s : State) (pa n : Nat) (h_s : Inv fm s₀ s)
    (hm : InSet 13196221202492 fm) :
    TripleInv fm s₀ (State.physRead s pa n) := by
  delta State.physRead
  repeat' first
    | exact inSet_trans rfl hm
    | with_reducible first
      | assumption | (intro) | apply State.poolRead_inv | (apply TripleInv.snd; apply State.poolRead_inv)
      | apply Inv.ite | apply TripleInv.ite | (apply TripleInv.snd; apply TripleInv.ite)
      | simp -iota only [TripleInv.mk'] | split | refine TripleInv.of_eq (by assumption) ?_ | dsimp -iota only
      | dsimp only

theorem State.pushHint_inv {fm : Nat} {s₀ : State} (s : State) (t l : Nat) (h_s : Inv fm s₀ s)
    (hm : InSet 13196221202492 fm) :
    Inv fm s₀ (State.pushHint s t l) := by
  delta State.pushHint
  repeat' first
    | exact inSet_trans rfl hm
    | with_reducible first
      | assumption | (intro) | apply State.bump_inv | apply State.coh_inv | apply State.memLine_inv
      | (apply PairInv.snd; apply State.memLine_inv) | apply State.pinEntry_inv | apply Inv.ite | apply PairInv.ite
      | (apply PairInv.snd; apply PairInv.ite) | simp -iota only [PairInv.mk'] | split
      | refine PairInv.of_eq (by assumption) ?_ | dsimp -iota only | dsimp only

theorem State.physWrite_inv {fm : Nat} {s₀ : State} (s : State) (pa : Nat) (bs : List (Option Byte)) (ps : List Nat)
    (h_s : Inv fm s₀ s) (hm : InSet 13196221205564 fm) :
    Inv fm s₀ (State.physWrite s pa bs ps) := by
  delta State.physWrite
  repeat' first
    | exact inSet_trans rfl hm
    | with_reducible exact Or.inr rfl
    | exact Or.inl (inSet_trans rfl hm)
    | with_reducible first
      | assumption | (intro) | apply State.localAnyWrite_inv | apply State.localWrite_inv | apply State.poolWrite_inv
      | apply State.pushHint_inv | apply Inv.ite | apply Inv.foldl | apply Inv.getD | apply Upd.of
      | simp -iota only [Inv.update] | split | dsimp -iota only | dsimp only

theorem State.wordOp_inv {fm : Nat} {s₀ : State} (s : State) (pa n : Nat) (f : Nat → Nat) (h_s : Inv fm s₀ s)
    (hm : InSet 13196221205564 fm) :
    TripleInv fm s₀ (State.wordOp s pa n f) := by
  delta State.wordOp
  repeat' first
    | exact inSet_trans rfl hm
    | with_reducible first
      | assumption | (intro) | apply State.farWordOp_inv | (apply TripleInv.snd; apply State.farWordOp_inv)
      | apply State.physRead_inv | (apply TripleInv.snd; apply State.physRead_inv) | apply State.physWrite_inv
      | apply Inv.ite | apply TripleInv.ite | (apply TripleInv.snd; apply TripleInv.ite)
      | simp -iota only [TripleInv.mk'] | split | refine TripleInv.of_eq (by assumption) ?_ | dsimp -iota only
      | dsimp only

theorem State.want_inv {fm : Nat} {s₀ : State} (s : State) (ask page : Nat) (r : MemReq) (h_s : Inv fm s₀ s)
    (hm : InSet 134217728 fm) :
    Inv fm s₀ (State.want s ask page r) := by
  delta State.want
  repeat' first
    | exact inSet_trans rfl hm
    | with_reducible exact Or.inr rfl
    | exact Or.inl (inSet_trans rfl hm)
    | with_reducible first
      | assumption | (intro) | apply Inv.ite | apply Upd.of | simp -iota only [Inv.update] | split | dsimp -iota only
      | dsimp only

theorem State.takeLanded_inv {fm : Nat} {s₀ : State} (s : State) (ask : Nat) (r : MemReq) (h_s : Inv fm s₀ s)
    (hm : InSet 134217728 fm) :
    Inv fm s₀ (State.takeLanded s ask r) := by
  delta State.takeLanded
  repeat' first
    | exact inSet_trans rfl hm
    | with_reducible exact Or.inr rfl
    | exact Or.inl (inSet_trans rfl hm)
    | with_reducible first
      | assumption | (intro) | apply Inv.ite | apply Upd.of | simp -iota only [Inv.update] | split | dsimp -iota only
      | dsimp only

theorem State.dropLanded_inv {fm : Nat} {s₀ : State} (s : State) (ask : Nat) (h_s : Inv fm s₀ s)
    (hm : InSet 134217728 fm) :
    Inv fm s₀ (State.dropLanded s ask) := by
  delta State.dropLanded
  repeat' first
    | exact inSet_trans rfl hm
    | with_reducible exact Or.inr rfl
    | exact Or.inl (inSet_trans rfl hm)
    | with_reducible first
      | assumption | (intro) | apply Inv.ite | apply Upd.of | simp -iota only [Inv.update] | split | dsimp -iota only
      | dsimp only

theorem State.wantWrite_inv {fm : Nat} {s₀ : State} (s : State) (who : Option (Nat × Nat × Nat))
    (ask page node pa : Nat) (bs : List Byte) (ps : List Nat) (h_s : Inv fm s₀ s) (hm : InSet 134234112 fm) :
    Inv fm s₀ (State.wantWrite s who ask page node pa bs ps) := by
  delta State.wantWrite
  repeat' first
    | exact inSet_trans rfl hm
    | with_reducible exact Or.inr rfl
    | exact Or.inl (inSet_trans rfl hm)
    | with_reducible first
      | assumption | (intro) | apply State.killResv_inv | apply Inv.ite | apply Upd.of | simp -iota only [Inv.update]
      | split | dsimp -iota only | dsimp only

theorem State.segsReady_inv {fm : Nat} {s₀ : State} (s : State) (ask : Nat) (y0 : List (Nat × Nat × Nat))
    (h_s : Inv fm s₀ s) (hm : InSet 134217728 fm) :
    TripleInv fm s₀ (State.segsReady s ask y0) := by
  induction y0 generalizing s with
  | nil =>
    unfold State.segsReady
    try dsimp -iota only
    repeat' first
      | exact inSet_trans rfl hm
      | with_reducible exact Or.inr rfl
      | exact Or.inl (inSet_trans rfl hm)
      | with_reducible first
        | assumption | (intro) | apply State.takeLanded_inv | apply State.want_inv | apply Inv.ite
        | apply TripleInv.ite | (apply TripleInv.snd; apply TripleInv.ite) | apply Upd.of
        | simp -iota only [Inv.update, TripleInv.mk'] | split | refine TripleInv.of_eq (by assumption) ?_
        | dsimp -iota only | dsimp only
  | cons x xs ih =>
    unfold State.segsReady
    try dsimp -iota only
    repeat' first
      | exact inSet_trans rfl hm
      | with_reducible exact Or.inr rfl
      | exact Or.inl (inSet_trans rfl hm)
      | with_reducible first
        | assumption | (intro) | (apply TripleInv.snd; apply ih) | apply ih | apply State.takeLanded_inv
        | apply State.want_inv | apply Inv.ite | apply TripleInv.ite | (apply TripleInv.snd; apply TripleInv.ite)
        | apply Upd.of | simp -iota only [Inv.update, TripleInv.mk'] | split
        | refine TripleInv.of_eq (by assumption) ?_ | dsimp -iota only | dsimp only

theorem State.segsRead_inv {fm : Nat} {s₀ : State} (ask : Nat) (y0 : List (Nat × Nat × Nat)) (s : State)
    (h_s : Inv fm s₀ s) (hm : InSet 13196221202492 fm) :
    TripleInv fm s₀ (State.segsRead ask y0 s) := by
  induction y0 generalizing s with
  | nil =>
    unfold State.segsRead
    try dsimp -iota only
    repeat' first
      | exact inSet_trans rfl hm
      | with_reducible exact Or.inr rfl
      | exact Or.inl (inSet_trans rfl hm)
      | with_reducible first
        | assumption | (intro) | apply State.physRead_inv | (apply TripleInv.snd; apply State.physRead_inv)
        | apply Inv.ite | apply TripleInv.ite | (apply TripleInv.snd; apply TripleInv.ite) | apply Upd.of
        | simp -iota only [Inv.update, TripleInv.mk'] | split | refine TripleInv.of_eq (by assumption) ?_
        | dsimp -iota only | dsimp only
  | cons x xs ih =>
    unfold State.segsRead
    try dsimp -iota only
    repeat' first
      | exact inSet_trans rfl hm
      | with_reducible exact Or.inr rfl
      | exact Or.inl (inSet_trans rfl hm)
      | with_reducible first
        | assumption | (intro) | (apply TripleInv.snd; apply ih) | apply ih | apply State.physRead_inv
        | (apply TripleInv.snd; apply State.physRead_inv) | apply Inv.ite | apply TripleInv.ite
        | (apply TripleInv.snd; apply TripleInv.ite) | apply Upd.of | simp -iota only [Inv.update, TripleInv.mk']
        | split | refine TripleInv.of_eq (by assumption) ?_ | dsimp -iota only | dsimp only

theorem State.vaRead_inv {fm : Nat} {s₀ : State} (s : State) (die asid va n : Nat) (need : Need) (h_s : Inv fm s₀ s)
    (hm : InSet 13196221202492 fm) :
    PairInv fm s₀ (State.vaRead s die asid va n need) := by
  delta State.vaRead
  repeat' first
    | exact inSet_trans rfl hm
    | with_reducible exact Or.inr rfl
    | exact Or.inl (inSet_trans rfl hm)
    | with_reducible first
      | assumption | (intro) | apply State.range_inv | (apply PairInv.snd; apply State.range_inv)
      | apply State.segsRead_inv | (apply TripleInv.snd; apply State.segsRead_inv) | apply State.segsReady_inv
      | (apply TripleInv.snd; apply State.segsReady_inv) | apply State.takeLanded_inv | apply Inv.ite
      | apply PairInv.ite | (apply PairInv.snd; apply PairInv.ite) | apply TripleInv.ite
      | (apply TripleInv.snd; apply TripleInv.ite) | apply Inv.foldl | apply Upd.of
      | simp -iota only [Inv.update, PairInv.mk', TripleInv.mk'] | split | refine PairInv.of_eq (by assumption) ?_
      | refine TripleInv.of_eq (by assumption) ?_ | dsimp -iota only | dsimp only

theorem State.segsWrite_inv {fm : Nat} {s₀ : State} (ask : Nat) (y0 : Nat) (y1 : List (Nat × Nat × Nat))
    (y2 : List Byte) (s : State) (h_s : Inv fm s₀ s) (hm : InSet 13196221205564 fm) :
    Inv fm s₀ (State.segsWrite ask y0 y1 y2 s) := by
  induction y1 generalizing y0 y2 s with
  | nil =>
    unfold State.segsWrite
    try dsimp -iota only
    repeat' first
      | exact inSet_trans rfl hm
      | with_reducible first
        | assumption | (intro) | apply State.physWrite_inv | apply State.wantWrite_inv | apply Inv.ite | split
        | dsimp -iota only | dsimp only
  | cons x xs ih =>
    unfold State.segsWrite
    try dsimp -iota only
    repeat' first
      | exact inSet_trans rfl hm
      | with_reducible first
        | assumption | (intro) | apply ih | apply State.physWrite_inv | apply State.wantWrite_inv | apply Inv.ite
        | split | dsimp -iota only | dsimp only

theorem State.vaWrite_inv {fm : Nat} {s₀ : State} (s : State) (die asid who va : Nat) (bs : List Byte)
    (h_s : Inv fm s₀ s) (hm : InSet 13196221205564 fm) :
    PairInv fm s₀ (State.vaWrite s die asid who va bs) := by
  delta State.vaWrite
  repeat' first
    | exact inSet_trans rfl hm
    | with_reducible exact Or.inr rfl
    | exact Or.inl (inSet_trans rfl hm)
    | with_reducible first
      | assumption | (intro) | apply State.range_inv | (apply PairInv.snd; apply State.range_inv)
      | apply State.segsWrite_inv | apply Inv.ite | apply PairInv.ite | (apply PairInv.snd; apply PairInv.ite)
      | apply Upd.of | simp -iota only [Inv.update, PairInv.mk'] | split | refine PairInv.of_eq (by assumption) ?_
      | dsimp -iota only | dsimp only

theorem State.vaAdd_inv {fm : Nat} {s₀ : State} (s : State) (die asid who va v : Nat) (h_s : Inv fm s₀ s)
    (hm : InSet 13196221205564 fm) :
    PairInv fm s₀ (State.vaAdd s die asid who va v) := by
  delta State.vaAdd
  repeat' first
    | exact inSet_trans rfl hm
    | with_reducible exact Or.inr rfl
    | exact Or.inl (inSet_trans rfl hm)
    | with_reducible first
      | assumption | (intro) | apply State.range_inv | (apply PairInv.snd; apply State.range_inv)
      | apply State.takeLanded_inv | apply State.want_inv | apply State.wordOp_inv
      | (apply TripleInv.snd; apply State.wordOp_inv) | apply Inv.ite | apply PairInv.ite
      | (apply PairInv.snd; apply PairInv.ite) | apply TripleInv.ite | (apply TripleInv.snd; apply TripleInv.ite)
      | apply Upd.of | simp -iota only [Inv.update, PairInv.mk', TripleInv.mk'] | split
      | refine PairInv.of_eq (by assumption) ?_ | refine TripleInv.of_eq (by assumption) ?_ | dsimp -iota only
      | dsimp only

theorem State.sendFault_inv {fm : Nat} {s₀ : State} (s : State) (f : FaultInfo) (h_s : Inv fm s₀ s)
    (hm : InSet 13196221202492 fm) :
    Inv fm s₀ (State.sendFault s f) := by
  delta State.sendFault
  repeat' first
    | exact inSet_trans rfl hm
    | with_reducible exact Or.inr rfl
    | exact Or.inl (inSet_trans rfl hm)
    | with_reducible first
      | assumption | (intro) | apply State.bump_inv | apply Inv.ite | apply Upd.of | simp -iota only [Inv.update]
      | split | dsimp -iota only | dsimp only

end Sys2Proof.Machine
end

