-- ==== Sys2Proof/Laws/InvArrayOps.lean ====
section
/-!
SUPPORT. Laws/InvArrayOps.lean: the operations of Machine/ArrayOps.lean write only the fields named, and keep memories canonical.
-/

set_option simprocs false
set_option linter.unusedSimpArgs false
set_option linter.unusedVariables false

namespace Sys2Proof.Machine

theorem State.writeCompletion_inv {fm : Nat} {s₀ : State} (s : State) (m desc record : Nat) (h_s : Inv fm s₀ s)
    (hm : InSet 17408 fm) :
    Inv fm s₀ (State.writeCompletion s m desc record) := by
  delta State.writeCompletion
  repeat' first
    | exact inSet_trans rfl hm
    | with_reducible first
      | assumption | (intro) | apply State.localCount_inv | apply State.localRecord_inv | apply Inv.ite | split
      | dsimp -iota only | dsimp only

theorem State.promoteSet_inv {fm : Nat} {s₀ : State} (s : State) (m : Nat) (j : ArrayJob) (h_s : Inv fm s₀ s)
    (hm : InSet 13196221204540 fm) :
    PairInv fm s₀ (State.promoteSet s m j) := by
  delta State.promoteSet
  repeat' first
    | exact inSet_trans rfl hm
    | with_reducible exact Or.inr rfl
    | exact Or.inl (inSet_trans rfl hm)
    | with_reducible first
      | assumption | (intro) | apply State.bump_inv | apply State.setAcc_inv | apply State.setFld_inv | apply Inv.ite
      | apply PairInv.ite | (apply PairInv.snd; apply PairInv.ite) | apply Upd.of
      | simp -iota only [Inv.update, PairInv.mk'] | split | refine PairInv.of_eq (by assumption) ?_
      | dsimp -iota only | dsimp only

theorem State.showArray_inv {fm : Nat} {s₀ : State} (s : State) (m : Nat) (h_s : Inv fm s₀ s)
    (hm : InSet 13196221202492 fm) :
    Inv fm s₀ (State.showArray s m) := by
  delta State.showArray
  repeat' first
    | exact inSet_trans rfl hm
    | with_reducible first
      | assumption | (intro) | apply State.range_inv | (apply PairInv.snd; apply State.range_inv)
      | apply State.setFlds_inv | apply Inv.ite | apply PairInv.ite | (apply PairInv.snd; apply PairInv.ite)
      | simp -iota only [PairInv.mk'] | split | refine PairInv.of_eq (by assumption) ?_ | dsimp -iota only
      | dsimp only

theorem State.putAccState_inv {fm : Nat} {s₀ : State} (s : State) (m k v : Nat) (h_s : Inv fm s₀ s) (hm : InSet 4 fm) :
    Inv fm s₀ (State.putAccState s m k v) := by
  delta State.putAccState
  repeat' first
    | exact inSet_trans rfl hm
    | with_reducible first
      | assumption | (intro) | apply State.setFld_inv | apply Inv.ite | split | dsimp -iota only | dsimp only

theorem State.accAccess_inv {fm : Nat} {s₀ : State} (s : State) (m : Nat) (w : AccWait) (h_s : Inv fm s₀ s)
    (hm : InSet 536870916 fm) :
    Inv fm s₀ (State.accAccess s m w) := by
  delta State.accAccess
  repeat' first
    | exact inSet_trans rfl hm
    | with_reducible exact Or.inr rfl
    | exact Or.inl (inSet_trans rfl hm)
    | with_reducible first
      | assumption | (intro) | apply State.putAccState_inv | apply State.sendFrom_inv | apply Inv.ite | apply Upd.of
      | simp -iota only [Inv.update] | split | dsimp -iota only | dsimp only

theorem State.accTry_inv {fm : Nat} {s₀ : State} (s : State) (m addr : Nat) (wide : Bool) (value : Option (BitVec 32))
    (h_s : Inv fm s₀ s) (hm : InSet 536872964 fm) :
    Inv fm s₀ (State.accTry s m addr wide value) := by
  delta State.accTry
  repeat' first
    | exact inSet_trans rfl hm
    | with_reducible exact Or.inr rfl
    | exact Or.inl (inSet_trans rfl hm)
    | with_reducible first
      | assumption | (intro) | apply State.accAccess_inv | apply State.setArray_inv | apply Inv.ite | apply Upd.of
      | simp -iota only [Inv.update] | split | dsimp -iota only | dsimp only

theorem State.accTurn_inv {fm : Nat} {s₀ : State} (s : State) (m : Nat) (h_s : Inv fm s₀ s) (hm : InSet 536872964 fm) :
    Inv fm s₀ (State.accTurn s m) := by
  delta State.accTurn
  repeat' first
    | exact inSet_trans rfl hm
    | with_reducible exact Or.inr rfl
    | exact Or.inl (inSet_trans rfl hm)
    | with_reducible first
      | assumption | (intro) | apply State.accAccess_inv | apply State.setArray_inv | apply Inv.ite | apply Inv.foldl
      | apply Upd.of | simp -iota only [Inv.update] | split | dsimp -iota only | dsimp only

theorem State.arrayAccept_inv {fm : Nat} {s₀ : State} (s : State) (m desc asid : Nat) (fromList : Bool)
    (h_s : Inv fm s₀ s) (hm : InSet 13196221204540 fm) :
    Inv fm s₀ (State.arrayAccept s m desc asid fromList) := by
  delta State.arrayAccept
  repeat' first
    | exact inSet_trans rfl hm
    | with_reducible exact Or.inr rfl
    | exact Or.inl (inSet_trans rfl hm)
    | with_reducible first
      | assumption | (intro) | apply State.setArray_inv | apply State.showArray_inv | apply Inv.ite | apply Upd.of
      | simp -iota only [Inv.update] | split | dsimp -iota only | dsimp only

theorem State.runDrain_inv {fm : Nat} {s₀ : State} (s : State) (m : Nat) (j : ArrayJob) (h_s : Inv fm s₀ s)
    (hm : InSet 13196221205564 fm) :
    PairInv fm s₀ (State.runDrain s m j) := by
  delta State.runDrain
  repeat' first
    | exact inSet_trans rfl hm
    | with_reducible exact Or.inr rfl
    | exact Or.inl (inSet_trans rfl hm)
    | with_reducible first
      | assumption | (intro) | apply State.bump_inv | apply State.countConflicts_inv | apply State.localWrite_inv
      | apply State.range_inv | (apply PairInv.snd; apply State.range_inv) | apply State.setAcc_inv
      | apply State.setFld_inv | apply Inv.ite | apply PairInv.ite | (apply PairInv.snd; apply PairInv.ite)
      | apply Inv.foldl | apply Inv.getD | apply Upd.of | simp -iota only [Inv.update, PairInv.mk'] | split
      | refine PairInv.of_eq (by assumption) ?_ | dsimp -iota only | dsimp only

theorem State.runGroups_inv {fm : Nat} {s₀ : State} (m : Nat) (y0 : Nat) (y1 : ArrayJob) (s : State)
    (h_s : Inv fm s₀ s) (hm : InSet 13196221204540 fm) :
    PairInv fm s₀ (State.runGroups m y0 y1 s) := by
  induction y0 generalizing y1 s with
  | zero =>
    unfold State.runGroups
    try dsimp -iota only
    repeat' first
      | exact inSet_trans rfl hm
      | with_reducible exact Or.inr rfl
      | exact Or.inl (inSet_trans rfl hm)
      | with_reducible first
        | assumption | (intro) | apply State.bump_inv | apply State.setAcc_inv | apply State.setFld_inv
        | apply Inv.ite | apply PairInv.ite | (apply PairInv.snd; apply PairInv.ite) | apply Inv.foldl | apply Upd.of
        | simp -iota only [Inv.update, PairInv.mk'] | split | refine PairInv.of_eq (by assumption) ?_
        | dsimp -iota only | dsimp only
  | succ n ih =>
    unfold State.runGroups
    try dsimp -iota only
    repeat' first
      | exact inSet_trans rfl hm
      | with_reducible exact Or.inr rfl
      | exact Or.inl (inSet_trans rfl hm)
      | with_reducible first
        | assumption | (intro) | (apply PairInv.snd; apply ih) | apply ih | apply State.bump_inv
        | apply State.setAcc_inv | apply State.setFld_inv | apply Inv.ite | apply PairInv.ite
        | (apply PairInv.snd; apply PairInv.ite) | apply Inv.foldl | apply Upd.of
        | simp -iota only [Inv.update, PairInv.mk'] | split | refine PairInv.of_eq (by assumption) ?_
        | dsimp -iota only | dsimp only

theorem State.finishMma_inv {fm : Nat} {s₀ : State} (s : State) (m : Nat) (j : ArrayJob) (h_s : Inv fm s₀ s)
    (hm : InSet 13196221204540 fm) :
    PairInv fm s₀ (State.finishMma s m j) := by
  delta State.finishMma
  repeat' first
    | exact inSet_trans rfl hm
    | with_reducible exact Or.inr rfl
    | exact Or.inl (inSet_trans rfl hm)
    | with_reducible first
      | assumption | (intro) | apply State.promoteSet_inv | (apply PairInv.snd; apply State.promoteSet_inv)
      | apply Inv.ite | apply PairInv.ite | (apply PairInv.snd; apply PairInv.ite) | apply Upd.of
      | simp -iota only [Inv.update, PairInv.mk'] | split | refine PairInv.of_eq (by assumption) ?_
      | dsimp -iota only | dsimp only

theorem State.startMma_inv {fm : Nat} {s₀ : State} (s : State) (m : Nat) (j : ArrayJob) (h_s : Inv fm s₀ s)
    (hm : InSet 13196221204540 fm) :
    PairInv fm s₀ (State.startMma s m j) := by
  delta State.startMma
  repeat' first
    | exact inSet_trans rfl hm
    | with_reducible exact Or.inr rfl
    | exact Or.inl (inSet_trans rfl hm)
    | with_reducible first
      | assumption | (intro) | apply State.promoteSet_inv | (apply PairInv.snd; apply State.promoteSet_inv)
      | apply State.setAcc_inv | apply State.setFld_inv | apply State.setFlds_inv | apply Inv.ite | apply PairInv.ite
      | (apply PairInv.snd; apply PairInv.ite) | apply Inv.foldl | apply Inv.getD | apply Upd.of
      | simp -iota only [Inv.update, PairInv.mk'] | split | refine PairInv.of_eq (by assumption) ?_
      | dsimp -iota only | dsimp only

theorem State.takeJob_inv {fm : Nat} {s₀ : State} (s : State) (m : Nat) (u : ArrayUnit) (old new : ArrayJob)
    (h_s : Inv fm s₀ s) (hm : InSet 13196221204540 fm) :
    Inv fm s₀ (State.takeJob s m u old new) := by
  delta State.takeJob
  repeat' first
    | exact inSet_trans rfl hm
    | with_reducible exact Or.inr rfl
    | exact Or.inl (inSet_trans rfl hm)
    | with_reducible first
      | assumption | (intro) | apply State.setArray_inv | apply State.showArray_inv | apply Inv.ite | apply Upd.of
      | simp -iota only [Inv.update] | split | dsimp -iota only | dsimp only

theorem State.putJob_inv {fm : Nat} {s₀ : State} (s : State) (m : Nat) (u : ArrayUnit) (j : Option ArrayJob)
    (h_s : Inv fm s₀ s) (hm : InSet 13196221204540 fm) :
    Inv fm s₀ (State.putJob s m u j) := by
  delta State.putJob
  repeat' first
    | exact inSet_trans rfl hm
    | with_reducible first
      | assumption | (intro) | apply State.setArray_inv | apply State.showArray_inv | apply Inv.ite | split
      | dsimp -iota only | dsimp only

theorem State.arrayFault_inv {fm : Nat} {s₀ : State} (s : State) (m : Nat) (j : ArrayJob)
    (sub access page cause level pte pa : Nat) (h_s : Inv fm s₀ s) (hm : InSet 13196221202492 fm) :
    Inv fm s₀ (State.arrayFault s m j sub access page cause level pte pa) := by
  delta State.arrayFault
  repeat' first
    | exact inSet_trans rfl hm
    | with_reducible first
      | assumption | (intro) | apply State.sendFault_inv | apply Inv.ite | split | dsimp -iota only | dsimp only

theorem State.completeArray_inv {fm : Nat} {s₀ : State} (s : State) (m : Nat) (j : ArrayJob) (st : Nat)
    (h_s : Inv fm s₀ s) (hm : InSet 13196221203516 fm) :
    Inv fm s₀ (State.completeArray s m j st) := by
  delta State.completeArray
  repeat' first
    | exact inSet_trans rfl hm
    | with_reducible first
      | assumption | (intro) | apply State.bump_inv | apply State.setFlds_inv | apply State.writeCompletion_inv
      | apply Inv.ite | split | dsimp -iota only | dsimp only

theorem State.clearAccs_inv {fm : Nat} {s₀ : State} (s : State) (m : Nat) (h_s : Inv fm s₀ s)
    (hm : InSet 13196221204540 fm) :
    Inv fm s₀ (State.clearAccs s m) := by
  delta State.clearAccs
  repeat' first
    | exact inSet_trans rfl hm
    | with_reducible exact Or.inr rfl
    | exact Or.inl (inSet_trans rfl hm)
    | with_reducible first
      | assumption | (intro) | apply State.range_inv | (apply PairInv.snd; apply State.range_inv)
      | apply State.setArray_inv | apply State.setFlds_inv | apply Inv.ite | apply PairInv.ite
      | (apply PairInv.snd; apply PairInv.ite) | apply Upd.of | simp -iota only [Inv.update, PairInv.mk'] | split
      | refine PairInv.of_eq (by assumption) ?_ | dsimp -iota only | dsimp only

end Sys2Proof.Machine
end

