-- ==== Sys2Proof/Laws/InvVectorOps.lean ====
section
/-!
SUPPORT. Laws/InvVectorOps.lean: the operations of Machine/VectorOps.lean write only the fields named, and keep memories canonical.
-/

set_option simprocs false
set_option linter.unusedSimpArgs false
set_option linter.unusedVariables false

namespace Sys2Proof.Machine

theorem State.veXlatRuns_inv {fm : Nat} {s₀ : State} (m asid : Nat) (t : Touch) (y0 : List (Nat × Nat)) (s : State)
    (h_s : Inv fm s₀ s) (hm : InSet 13196221202492 fm) :
    PairInv fm s₀ (State.veXlatRuns m asid t y0 s) := by
  induction y0 generalizing s with
  | nil =>
    unfold State.veXlatRuns
    try dsimp -iota only
    repeat' first
      | exact inSet_trans rfl hm
      | with_reducible exact Or.inr rfl
      | exact Or.inl (inSet_trans rfl hm)
      | with_reducible first
        | assumption | (intro) | apply State.range_inv | (apply PairInv.snd; apply State.range_inv) | apply Inv.ite
        | apply PairInv.ite | (apply PairInv.snd; apply PairInv.ite) | apply Upd.of
        | simp -iota only [Inv.update, PairInv.mk'] | split | refine PairInv.of_eq (by assumption) ?_
        | dsimp -iota only | dsimp only
  | cons x xs ih =>
    unfold State.veXlatRuns
    try dsimp -iota only
    repeat' first
      | exact inSet_trans rfl hm
      | with_reducible exact Or.inr rfl
      | exact Or.inl (inSet_trans rfl hm)
      | with_reducible first
        | assumption | (intro) | (apply PairInv.snd; apply ih) | apply ih | apply State.range_inv
        | (apply PairInv.snd; apply State.range_inv) | apply Inv.ite | apply PairInv.ite
        | (apply PairInv.snd; apply PairInv.ite) | apply Upd.of | simp -iota only [Inv.update, PairInv.mk'] | split
        | refine PairInv.of_eq (by assumption) ?_ | dsimp -iota only | dsimp only

theorem State.veXlat_inv {fm : Nat} {s₀ : State} (m asid : Nat) (y0 : List Touch) (s : State) (h_s : Inv fm s₀ s)
    (hm : InSet 13196221202492 fm) :
    PairInv fm s₀ (State.veXlat m asid y0 s) := by
  induction y0 generalizing s with
  | nil =>
    unfold State.veXlat
    try dsimp -iota only
    repeat' first
      | exact inSet_trans rfl hm
      | with_reducible exact Or.inr rfl
      | exact Or.inl (inSet_trans rfl hm)
      | with_reducible first
        | assumption | (intro) | apply State.veXlatRuns_inv | (apply PairInv.snd; apply State.veXlatRuns_inv)
        | apply Inv.ite | apply PairInv.ite | (apply PairInv.snd; apply PairInv.ite) | apply Upd.of
        | simp -iota only [Inv.update, PairInv.mk'] | split | refine PairInv.of_eq (by assumption) ?_
        | dsimp -iota only | dsimp only
  | cons x xs ih =>
    unfold State.veXlat
    try dsimp -iota only
    repeat' first
      | exact inSet_trans rfl hm
      | with_reducible exact Or.inr rfl
      | exact Or.inl (inSet_trans rfl hm)
      | with_reducible first
        | assumption | (intro) | (apply PairInv.snd; apply ih) | apply ih | apply State.veXlatRuns_inv
        | (apply PairInv.snd; apply State.veXlatRuns_inv) | apply Inv.ite | apply PairInv.ite
        | (apply PairInv.snd; apply PairInv.ite) | apply Upd.of | simp -iota only [Inv.update, PairInv.mk'] | split
        | refine PairInv.of_eq (by assumption) ?_ | dsimp -iota only | dsimp only

theorem State.veFetch_inv {fm : Nat} {s₀ : State} (m asid : Nat) (k : Nat) (y0 : List Seg) (s : State)
    (h_s : Inv fm s₀ s) (hm : InSet 13196221202492 fm) :
    PairInv fm s₀ (State.veFetch m asid k y0 s) := by
  induction y0 generalizing s with
  | nil =>
    unfold State.veFetch
    try dsimp -iota only
    repeat' first
      | exact inSet_trans rfl hm
      | with_reducible exact Or.inr rfl
      | exact Or.inl (inSet_trans rfl hm)
      | with_reducible first
        | assumption | (intro) | apply State.segsRead_inv | (apply TripleInv.snd; apply State.segsRead_inv)
        | apply State.segsReady_inv | (apply TripleInv.snd; apply State.segsReady_inv) | apply Inv.ite
        | apply PairInv.ite | (apply PairInv.snd; apply PairInv.ite) | apply TripleInv.ite
        | (apply TripleInv.snd; apply TripleInv.ite) | apply Upd.of
        | simp -iota only [Inv.update, PairInv.mk', TripleInv.mk'] | split | refine PairInv.of_eq (by assumption) ?_
        | refine TripleInv.of_eq (by assumption) ?_ | dsimp -iota only | dsimp only
  | cons x xs ih =>
    unfold State.veFetch
    try dsimp -iota only
    repeat' first
      | exact inSet_trans rfl hm
      | with_reducible exact Or.inr rfl
      | exact Or.inl (inSet_trans rfl hm)
      | with_reducible first
        | assumption | (intro) | (apply PairInv.snd; apply ih) | apply ih | apply State.segsRead_inv
        | (apply TripleInv.snd; apply State.segsRead_inv) | apply State.segsReady_inv
        | (apply TripleInv.snd; apply State.segsReady_inv) | apply Inv.ite | apply PairInv.ite
        | (apply PairInv.snd; apply PairInv.ite) | apply TripleInv.ite | (apply TripleInv.snd; apply TripleInv.ite)
        | apply Upd.of | simp -iota only [Inv.update, PairInv.mk', TripleInv.mk'] | split
        | refine PairInv.of_eq (by assumption) ?_ | refine TripleInv.of_eq (by assumption) ?_ | dsimp -iota only
        | dsimp only

theorem State.veStore_inv {fm : Nat} {s₀ : State} (m asid : Nat) (segs : List Seg) (y0 : List (Nat × List Byte))
    (s : State) (h_s : Inv fm s₀ s) (hm : InSet 13196221205564 fm) :
    Inv fm s₀ (State.veStore m asid segs y0 s) := by
  induction y0 generalizing s with
  | nil =>
    unfold State.veStore
    try dsimp -iota only
    repeat' first
      | exact inSet_trans rfl hm
      | with_reducible exact Or.inr rfl
      | exact Or.inl (inSet_trans rfl hm)
      | with_reducible first
        | assumption | (intro) | apply State.segsWrite_inv | apply Inv.ite | apply Inv.foldl | apply Upd.of
        | simp -iota only [Inv.update] | split | dsimp -iota only | dsimp only
  | cons x xs ih =>
    unfold State.veStore
    try dsimp -iota only
    repeat' first
      | exact inSet_trans rfl hm
      | with_reducible exact Or.inr rfl
      | exact Or.inl (inSet_trans rfl hm)
      | with_reducible first
        | assumption | (intro) | apply ih | apply State.segsWrite_inv | apply Inv.ite | apply Inv.foldl
        | apply Upd.of | simp -iota only [Inv.update] | split | dsimp -iota only | dsimp only

theorem State.veFault_inv {fm : Nat} {s₀ : State} (s : State) (m : Nat) (j : VeJob)
    (sub page cause level pte pa access : Nat) (h_s : Inv fm s₀ s) (hm : InSet 13196221202492 fm) :
    Inv fm s₀ (State.veFault s m j sub page cause level pte pa access) := by
  delta State.veFault
  repeat' first
    | exact inSet_trans rfl hm
    | with_reducible first
      | assumption | (intro) | apply State.sendFault_inv | apply Inv.ite | split | dsimp -iota only | dsimp only

theorem State.veFetchAll_inv {fm : Nat} {s₀ : State} (m asid : Nat) (y0 : List (Nat × List Seg)) (s : State)
    (h_s : Inv fm s₀ s) (hm : InSet 13196221202492 fm) :
    PairInv fm s₀ (State.veFetchAll m asid y0 s) := by
  induction y0 generalizing s with
  | nil =>
    unfold State.veFetchAll
    try dsimp -iota only
    repeat' first
      | exact inSet_trans rfl hm
      | with_reducible exact Or.inr rfl
      | exact Or.inl (inSet_trans rfl hm)
      | with_reducible first
        | assumption | (intro) | apply State.veFetch_inv | (apply PairInv.snd; apply State.veFetch_inv)
        | apply Inv.ite | apply PairInv.ite | (apply PairInv.snd; apply PairInv.ite) | apply Upd.of
        | simp -iota only [Inv.update, PairInv.mk'] | split | refine PairInv.of_eq (by assumption) ?_
        | dsimp -iota only | dsimp only
  | cons x xs ih =>
    unfold State.veFetchAll
    try dsimp -iota only
    repeat' first
      | exact inSet_trans rfl hm
      | with_reducible exact Or.inr rfl
      | exact Or.inl (inSet_trans rfl hm)
      | with_reducible first
        | assumption | (intro) | (apply PairInv.snd; apply ih) | apply ih | apply State.veFetch_inv
        | (apply PairInv.snd; apply State.veFetch_inv) | apply Inv.ite | apply PairInv.ite
        | (apply PairInv.snd; apply PairInv.ite) | apply Upd.of | simp -iota only [Inv.update, PairInv.mk'] | split
        | refine PairInv.of_eq (by assumption) ?_ | dsimp -iota only | dsimp only

theorem State.veWriteGroup_inv {fm : Nat} {s₀ : State} (s : State) (m : Nat) (j : VeJob) (o : GroupOut)
    (segs : List (Nat × List Seg)) (h_s : Inv fm s₀ s) (hm : InSet 13196221205564 fm) :
    PairInv fm s₀ (State.veWriteGroup s m j o segs) := by
  delta State.veWriteGroup
  repeat' first
    | exact inSet_trans rfl hm
    | with_reducible exact Or.inr rfl
    | exact Or.inl (inSet_trans rfl hm)
    | with_reducible first
      | assumption | (intro) | apply State.localAnyWrite_inv | apply State.veStore_inv | apply Inv.ite
      | apply PairInv.ite | (apply PairInv.snd; apply PairInv.ite) | apply Inv.foldl | apply Inv.getD | apply Upd.of
      | simp -iota only [Inv.update, PairInv.mk'] | split | refine PairInv.of_eq (by assumption) ?_
      | dsimp -iota only | dsimp only

theorem State.psumWaited_inv {fm : Nat} {s₀ : State} (s : State) (m : Nat) (j : VeJob) (h_s : Inv fm s₀ s)
    (hm : InSet 13196221202492 fm) :
    Inv fm s₀ (State.psumWaited s m j) := by
  delta State.psumWaited
  repeat' first
    | exact inSet_trans rfl hm
    | with_reducible first
      | assumption | (intro) | apply State.bump_inv | apply Inv.ite | split | dsimp -iota only | dsimp only

theorem State.veGroup_inv {fm : Nat} {s₀ : State} (s : State) (m : Nat) (j : VeJob) (h_s : Inv fm s₀ s)
    (hm : InSet 13196221205564 fm) :
    PairInv fm s₀ (State.veGroup s m j) := by
  delta State.veGroup
  repeat' first
    | exact inSet_trans rfl hm
    | with_reducible exact Or.inr rfl
    | exact Or.inl (inSet_trans rfl hm)
    | with_reducible first
      | assumption | (intro) | apply State.bump_inv | apply State.consume_inv | apply State.countConflicts_inv
      | apply State.range_inv | (apply PairInv.snd; apply State.range_inv) | apply State.setFld_inv
      | apply State.takeFree_inv | (apply PairInv.snd; apply State.takeFree_inv) | apply State.veFault_inv
      | apply State.veFetchAll_inv | (apply PairInv.snd; apply State.veFetchAll_inv) | apply State.veWriteGroup_inv
      | (apply PairInv.snd; apply State.veWriteGroup_inv) | apply State.veXlat_inv
      | (apply PairInv.snd; apply State.veXlat_inv) | apply Inv.ite | apply PairInv.ite
      | (apply PairInv.snd; apply PairInv.ite) | apply Inv.foldl | apply Upd.of
      | simp -iota only [Inv.update, PairInv.mk'] | split | refine PairInv.of_eq (by assumption) ?_
      | dsimp -iota only | dsimp only

theorem State.feedDone_inv {fm : Nat} {s₀ : State} (s : State) (m : Nat) (j : VeJob) (h_s : Inv fm s₀ s)
    (hm : InSet 13196221202492 fm) :
    PairInv fm s₀ (State.feedDone s m j) := by
  delta State.feedDone
  repeat' first
    | exact inSet_trans rfl hm
    | with_reducible exact Or.inr rfl
    | exact Or.inl (inSet_trans rfl hm)
    | with_reducible first
      | assumption | (intro) | apply State.bump_inv | apply Inv.ite | apply PairInv.ite
      | (apply PairInv.snd; apply PairInv.ite) | apply Upd.of | simp -iota only [Inv.update, PairInv.mk'] | split
      | refine PairInv.of_eq (by assumption) ?_ | dsimp -iota only | dsimp only

theorem State.veGroups_inv {fm : Nat} {s₀ : State} (m : Nat) (y0 : Nat) (y1 : VeJob) (s : State) (h_s : Inv fm s₀ s)
    (hm : InSet 13196221205564 fm) :
    PairInv fm s₀ (State.veGroups m y0 y1 s) := by
  induction y0 generalizing y1 s with
  | zero =>
    unfold State.veGroups
    try dsimp -iota only
    repeat' first
      | exact inSet_trans rfl hm
      | with_reducible exact Or.inr rfl
      | exact Or.inl (inSet_trans rfl hm)
      | with_reducible first
        | assumption | (intro) | apply State.dropLanded_inv | apply State.feedDone_inv
        | (apply PairInv.snd; apply State.feedDone_inv) | apply State.veGroup_inv
        | (apply PairInv.snd; apply State.veGroup_inv) | apply Inv.ite | apply PairInv.ite
        | (apply PairInv.snd; apply PairInv.ite) | apply Inv.getD | apply Upd.of
        | simp -iota only [Inv.update, PairInv.mk'] | split | refine PairInv.of_eq (by assumption) ?_
        | dsimp -iota only | dsimp only
  | succ n ih =>
    unfold State.veGroups
    try dsimp -iota only
    repeat' first
      | exact inSet_trans rfl hm
      | with_reducible exact Or.inr rfl
      | exact Or.inl (inSet_trans rfl hm)
      | with_reducible first
        | assumption | (intro) | (apply PairInv.snd; apply ih) | apply ih | apply State.dropLanded_inv
        | apply State.feedDone_inv | (apply PairInv.snd; apply State.feedDone_inv) | apply State.veGroup_inv
        | (apply PairInv.snd; apply State.veGroup_inv) | apply Inv.ite | apply PairInv.ite
        | (apply PairInv.snd; apply PairInv.ite) | apply Inv.getD | apply Upd.of
        | simp -iota only [Inv.update, PairInv.mk'] | split | refine PairInv.of_eq (by assumption) ?_
        | dsimp -iota only | dsimp only

theorem State.psumRead_inv {fm : Nat} {s₀ : State} (s : State) (m : Nat) (j : VeJob) (runs : List (Nat × Nat))
    (h_s : Inv fm s₀ s) (hm : InSet 13196221202492 fm) :
    PairInv fm s₀ (State.psumRead s m j runs) := by
  delta State.psumRead
  repeat' first
    | exact inSet_trans rfl hm
    | with_reducible exact Or.inr rfl
    | exact Or.inl (inSet_trans rfl hm)
    | with_reducible first
      | assumption | (intro) | apply State.veFetch_inv | (apply PairInv.snd; apply State.veFetch_inv)
      | apply State.veXlatRuns_inv | (apply PairInv.snd; apply State.veXlatRuns_inv) | apply Inv.ite
      | apply PairInv.ite | (apply PairInv.snd; apply PairInv.ite) | apply Upd.of
      | simp -iota only [Inv.update, PairInv.mk'] | split | refine PairInv.of_eq (by assumption) ?_
      | dsimp -iota only | dsimp only

theorem State.psumHeaders_inv {fm : Nat} {s₀ : State} (s : State) (m : Nat) (j : VeJob) (h_s : Inv fm s₀ s)
    (hm : InSet 13196221202492 fm) :
    PairInv fm s₀ (State.psumHeaders s m j) := by
  delta State.psumHeaders
  repeat' first
    | exact inSet_trans rfl hm
    | with_reducible exact Or.inr rfl
    | exact Or.inl (inSet_trans rfl hm)
    | with_reducible first
      | assumption | (intro) | apply State.consume_inv | apply State.dropLanded_inv | apply State.psumRead_inv
      | (apply PairInv.snd; apply State.psumRead_inv) | apply State.range_inv
      | (apply PairInv.snd; apply State.range_inv) | apply State.veFault_inv | apply Inv.ite | apply PairInv.ite
      | (apply PairInv.snd; apply PairInv.ite) | apply Upd.of | simp -iota only [Inv.update, PairInv.mk'] | split
      | refine PairInv.of_eq (by assumption) ?_ | dsimp -iota only | dsimp only

theorem State.psumSubtract_inv {fm : Nat} {s₀ : State} (s : State) (m : Nat) (j : VeJob) (h_s : Inv fm s₀ s)
    (hm : InSet 13196221205564 fm) :
    PairInv fm s₀ (State.psumSubtract s m j) := by
  delta State.psumSubtract
  repeat' first
    | exact inSet_trans rfl hm
    | with_reducible exact Or.inr rfl
    | exact Or.inl (inSet_trans rfl hm)
    | with_reducible first
      | assumption | (intro) | apply State.consume_inv | apply State.localWrite_inv | apply State.vaAdd_inv
      | (apply PairInv.snd; apply State.vaAdd_inv) | apply State.veFault_inv | split | apply Inv.ite
      | apply PairInv.ite | (apply PairInv.snd; apply PairInv.ite) | apply Upd.of
      | simp -iota only [Inv.update, PairInv.mk'] | refine PairInv.of_eq (by assumption) ?_ | dsimp -iota only
      | dsimp only

theorem State.psumRun_inv {fm : Nat} {s₀ : State} (s : State) (m : Nat) (j : VeJob) (h_s : Inv fm s₀ s)
    (hm : InSet 13196221205564 fm) :
    PairInv fm s₀ (State.psumRun s m j) := by
  delta State.psumRun
  repeat' first
    | exact inSet_trans rfl hm
    | with_reducible first
      | assumption | (intro) | apply State.psumHeaders_inv | (apply PairInv.snd; apply State.psumHeaders_inv)
      | apply State.psumSubtract_inv | (apply PairInv.snd; apply State.psumSubtract_inv) | apply State.veGroups_inv
      | (apply PairInv.snd; apply State.veGroups_inv) | apply Inv.ite | apply PairInv.ite
      | (apply PairInv.snd; apply PairInv.ite) | simp -iota only [PairInv.mk'] | split
      | refine PairInv.of_eq (by assumption) ?_ | dsimp -iota only | dsimp only

theorem State.showVec_inv {fm : Nat} {s₀ : State} (s : State) (m : Nat) (h_s : Inv fm s₀ s) (hm : InSet 4 fm) :
    Inv fm s₀ (State.showVec s m) := by
  delta State.showVec
  repeat' first
    | exact inSet_trans rfl hm
    | with_reducible first
      | assumption | (intro) | apply State.setFlds_inv | apply Inv.ite | apply Inv.getD | split | dsimp -iota only
      | dsimp only

theorem State.veAccept_inv {fm : Nat} {s₀ : State} (s : State) (m desc asid : Nat) (fromList : Bool)
    (h_s : Inv fm s₀ s) (hm : InSet 4100 fm) :
    Inv fm s₀ (State.veAccept s m desc asid fromList) := by
  delta State.veAccept
  repeat' first
    | exact inSet_trans rfl hm
    | with_reducible exact Or.inr rfl
    | exact Or.inl (inSet_trans rfl hm)
    | with_reducible first
      | assumption | (intro) | apply State.setVec_inv | apply State.showVec_inv | apply Inv.ite | apply Upd.of
      | simp -iota only [Inv.update] | split | dsimp -iota only | dsimp only

theorem State.putVe_inv {fm : Nat} {s₀ : State} (s : State) (m : Nat) (j : Option VeJob) (h_s : Inv fm s₀ s)
    (hm : InSet 4100 fm) :
    Inv fm s₀ (State.putVe s m j) := by
  delta State.putVe
  repeat' first
    | exact inSet_trans rfl hm
    | with_reducible exact Or.inr rfl
    | exact Or.inl (inSet_trans rfl hm)
    | with_reducible first
      | assumption | (intro) | apply State.setVec_inv | apply State.showVec_inv | apply Inv.ite | apply Upd.of
      | simp -iota only [Inv.update] | split | dsimp -iota only | dsimp only

theorem State.completeVe_inv {fm : Nat} {s₀ : State} (s : State) (m : Nat) (j : VeJob) (st : Nat) (h_s : Inv fm s₀ s)
    (hm : InSet 13196221203516 fm) :
    Inv fm s₀ (State.completeVe s m j st) := by
  delta State.completeVe
  repeat' first
    | exact inSet_trans rfl hm
    | with_reducible first
      | assumption | (intro) | apply State.bump_inv | apply State.range_inv
      | (apply PairInv.snd; apply State.range_inv) | apply State.setFlds_inv | apply State.writeCompletion_inv
      | apply Inv.ite | apply PairInv.ite | (apply PairInv.snd; apply PairInv.ite) | simp -iota only [PairInv.mk']
      | split | refine PairInv.of_eq (by assumption) ?_ | dsimp -iota only | dsimp only

end Sys2Proof.Machine
end

