-- ==== Sys2Proof/Laws/InvArray.lean ====
section
/-!
SUPPORT. Laws/InvArray.lean: the operations of Machine/Array.lean write only the fields named, and keep memories canonical.
-/

set_option simprocs false
set_option linter.unusedSimpArgs false
set_option linter.unusedVariables false

namespace Sys2Proof.Machine

theorem State.startOp_inv {fm : Nat} {s₀ : State} (s : State) (m : Nat) (u : ArrayUnit) (op : Nat)
    (run : ArrayJob → State → ArrayJob × State) (h_s : Inv fm s₀ s)
    (h_run : ∀ a0 a1, Inv fm s₀ a1 → PairInv fm s₀ (run a0 a1)) (hm : InSet 13196221204540 fm) :
    Inv fm s₀ (State.startOp s m u op run) := by
  delta State.startOp
  repeat' first
    | exact inSet_trans rfl hm
    | with_reducible exact Or.inr rfl
    | exact Or.inl (inSet_trans rfl hm)
    | with_reducible first
      | assumption | (intro) | apply State.takeJob_inv | apply h_run | (apply PairInv.snd; apply h_run)
      | apply Inv.ite | apply PairInv.ite | (apply PairInv.snd; apply PairInv.ite) | apply Upd.of
      | simp -iota only [Inv.update, PairInv.mk'] | split | refine PairInv.of_eq (by assumption) ?_
      | dsimp -iota only | dsimp only

theorem execMma_inv {fm : Nat} {s₀ : State} (m : Motif) (s : State) (h_s : Inv fm s₀ s) (hm : InSet 13196221204540 fm) :
    OutInv fm s₀ (execMma m s) := by
  delta execMma
  repeat' first
    | exact inSet_trans rfl hm
    | with_reducible first
      | assumption | (intro) | apply State.finishMma_inv | (apply PairInv.snd; apply State.finishMma_inv)
      | apply State.runGroups_inv | (apply PairInv.snd; apply State.runGroups_inv) | apply State.startMma_inv
      | (apply PairInv.snd; apply State.startMma_inv) | apply State.startOp_inv | apply Inv.ite | apply PairInv.ite
      | (apply PairInv.snd; apply PairInv.ite) | apply OutInv.ite | apply OutInv.next | simp -iota only [PairInv.mk']
      | split | refine PairInv.of_eq (by assumption) ?_ | dsimp -iota only | dsimp only

theorem execChunkPromotion_inv {fm : Nat} {s₀ : State} (m : Motif) (s : State) (h_s : Inv fm s₀ s)
    (hm : InSet 13196221204540 fm) :
    OutInv fm s₀ (execChunkPromotion m s) := by
  delta execChunkPromotion
  repeat' first
    | exact inSet_trans rfl hm
    | with_reducible exact Or.inr rfl
    | exact Or.inl (inSet_trans rfl hm)
    | with_reducible first
      | assumption | (intro) | apply State.finishMma_inv | (apply PairInv.snd; apply State.finishMma_inv)
      | apply State.promoteSet_inv | (apply PairInv.snd; apply State.promoteSet_inv) | apply State.putJob_inv
      | apply State.runGroups_inv | (apply PairInv.snd; apply State.runGroups_inv) | apply Inv.ite
      | apply PairInv.ite | (apply PairInv.snd; apply PairInv.ite) | apply OutInv.ite | apply OutInv.next
      | apply Upd.of | simp -iota only [Inv.update, PairInv.mk'] | split | refine PairInv.of_eq (by assumption) ?_
      | dsimp -iota only | dsimp only

theorem execDrain_inv {fm : Nat} {s₀ : State} (m : Motif) (s : State) (h_s : Inv fm s₀ s)
    (hm : InSet 13196221205564 fm) :
    OutInv fm s₀ (execDrain m s) := by
  delta execDrain
  repeat' first
    | exact inSet_trans rfl hm
    | with_reducible first
      | assumption | (intro) | apply State.runDrain_inv | (apply PairInv.snd; apply State.runDrain_inv)
      | apply State.startOp_inv | apply Inv.ite | apply PairInv.ite | (apply PairInv.snd; apply PairInv.ite)
      | apply OutInv.ite | apply OutInv.next | simp -iota only [PairInv.mk'] | split
      | refine PairInv.of_eq (by assumption) ?_ | dsimp -iota only | dsimp only

theorem execZero_inv {fm : Nat} {s₀ : State} (m : Motif) (s : State) (h_s : Inv fm s₀ s)
    (hm : InSet 13196221204540 fm) :
    OutInv fm s₀ (execZero m s) := by
  delta execZero
  repeat' first
    | exact inSet_trans rfl hm
    | with_reducible exact Or.inr rfl
    | exact Or.inl (inSet_trans rfl hm)
    | with_reducible first
      | assumption | (intro) | apply State.setAcc_inv | apply State.setFlds_inv | apply State.startOp_inv
      | apply Inv.ite | apply PairInv.ite | (apply PairInv.snd; apply PairInv.ite) | apply OutInv.ite
      | apply OutInv.next | apply Upd.of | simp -iota only [Inv.update, PairInv.mk'] | split
      | refine PairInv.of_eq (by assumption) ?_ | dsimp -iota only | dsimp only

theorem execPromote_inv {fm : Nat} {s₀ : State} (m : Motif) (s : State) (h_s : Inv fm s₀ s)
    (hm : InSet 13196221204540 fm) :
    OutInv fm s₀ (execPromote m s) := by
  delta execPromote
  repeat' first
    | exact inSet_trans rfl hm
    | with_reducible exact Or.inr rfl
    | exact Or.inl (inSet_trans rfl hm)
    | with_reducible first
      | assumption | (intro) | apply State.promoteSet_inv | (apply PairInv.snd; apply State.promoteSet_inv)
      | apply State.startOp_inv | apply Inv.ite | apply PairInv.ite | (apply PairInv.snd; apply PairInv.ite)
      | apply OutInv.ite | apply OutInv.next | apply Upd.of | simp -iota only [Inv.update, PairInv.mk'] | split
      | refine PairInv.of_eq (by assumption) ?_ | dsimp -iota only | dsimp only

theorem State.moveSave_inv {fm : Nat} {s₀ : State} (s : State) (m : Nat) (j : ArrayJob) (h_s : Inv fm s₀ s)
    (hm : InSet 13196221205564 fm) :
    PairInv fm s₀ (State.moveSave s m j) := by
  suffices H : ∀ fn_, fn_ = @State.moveSave → PairInv fm s₀ (fn_ s m j) from H _ rfl
  intro fn_ hf; delta State.moveSave at hf; subst hf
  repeat' first
    | exact inSet_trans rfl hm
    | with_reducible exact Or.inr rfl
    | exact Or.inl (inSet_trans rfl hm)
    | with_reducible first
      | assumption | (intro) | apply State.arrayFault_inv | apply State.vaWrite_inv
      | (apply PairInv.snd; apply State.vaWrite_inv) | apply Inv.ite | apply PairInv.ite
      | (apply PairInv.snd; apply PairInv.ite) | apply Upd.of | simp -iota only [Inv.update, PairInv.mk'] | split
      | refine PairInv.of_eq (by assumption) ?_ | dsimp -iota only | dsimp only

theorem execSave_inv {fm : Nat} {s₀ : State} (m : Motif) (s : State) (h_s : Inv fm s₀ s)
    (hm : InSet 13196221205564 fm) :
    OutInv fm s₀ (execSave m s) := by
  delta execSave
  repeat' first
    | exact inSet_trans rfl hm
    | with_reducible exact Or.inr rfl
    | exact Or.inl (inSet_trans rfl hm)
    | with_reducible first
      | assumption | (intro) | apply State.moveSave_inv | (apply PairInv.snd; apply State.moveSave_inv)
      | apply State.putJob_inv | apply State.startOp_inv | split | apply Inv.ite | apply PairInv.ite
      | (apply PairInv.snd; apply PairInv.ite) | apply OutInv.ite | apply OutInv.next | apply Upd.of
      | simp -iota only [Inv.update, PairInv.mk'] | refine PairInv.of_eq (by assumption) ?_ | dsimp -iota only
      | dsimp only

theorem execSaveCounterAdd_inv {fm : Nat} {s₀ : State} (m : Motif) (s : State) (h_s : Inv fm s₀ s)
    (hm : InSet 13196221205564 fm) :
    OutInv fm s₀ (execSaveCounterAdd m s) := by
  delta execSaveCounterAdd
  repeat' first
    | exact inSet_trans rfl hm
    | with_reducible exact Or.inr rfl
    | exact Or.inl (inSet_trans rfl hm)
    | with_reducible first
      | assumption | (intro) | apply State.arrayFault_inv | apply State.consume_inv | apply State.putJob_inv
      | apply State.vaAdd_inv | (apply PairInv.snd; apply State.vaAdd_inv) | apply Inv.ite | apply PairInv.ite
      | (apply PairInv.snd; apply PairInv.ite) | apply OutInv.ite | apply OutInv.next | apply Upd.of
      | simp -iota only [Inv.update, PairInv.mk'] | split | refine PairInv.of_eq (by assumption) ?_
      | dsimp -iota only | dsimp only

theorem State.moveRestore_inv {fm : Nat} {s₀ : State} (s : State) (m : Nat) (j : ArrayJob) (h_s : Inv fm s₀ s)
    (hm : InSet 13196221204540 fm) :
    PairInv fm s₀ (State.moveRestore s m j) := by
  delta State.moveRestore
  repeat' first
    | exact inSet_trans rfl hm
    | with_reducible exact Or.inr rfl
    | exact Or.inl (inSet_trans rfl hm)
    | with_reducible first
      | assumption | (intro) | apply State.arrayFault_inv | apply State.consume_inv | apply State.setAcc_inv
      | apply State.setFlds_inv | apply State.vaRead_inv | (apply PairInv.snd; apply State.vaRead_inv)
      | apply Inv.ite | apply PairInv.ite | (apply PairInv.snd; apply PairInv.ite) | apply Upd.of
      | simp -iota only [Inv.update, PairInv.mk'] | split | refine PairInv.of_eq (by assumption) ?_
      | dsimp -iota only | dsimp only

theorem execRestore_inv {fm : Nat} {s₀ : State} (m : Motif) (s : State) (h_s : Inv fm s₀ s)
    (hm : InSet 13196221204540 fm) :
    OutInv fm s₀ (execRestore m s) := by
  delta execRestore
  repeat' first
    | exact inSet_trans rfl hm
    | with_reducible exact Or.inr rfl
    | exact Or.inl (inSet_trans rfl hm)
    | with_reducible first
      | assumption | (intro) | apply State.moveRestore_inv | (apply PairInv.snd; apply State.moveRestore_inv)
      | apply State.putJob_inv | apply State.startOp_inv | apply Inv.ite | apply PairInv.ite
      | (apply PairInv.snd; apply PairInv.ite) | apply OutInv.ite | apply OutInv.next | apply Upd.of
      | simp -iota only [Inv.update, PairInv.mk'] | split | refine PairInv.of_eq (by assumption) ?_
      | dsimp -iota only | dsimp only

theorem execArrayDescDone_inv {fm : Nat} {s₀ : State} (m : Motif) (u : ArrayUnit) (s : State) (h_s : Inv fm s₀ s)
    (hm : InSet 13196221205564 fm) :
    OutInv fm s₀ (execArrayDescDone m u s) := by
  delta execArrayDescDone
  repeat' first
    | exact inSet_trans rfl hm
    | with_reducible exact Or.inr rfl
    | exact Or.inl (inSet_trans rfl hm)
    | with_reducible first
      | assumption | (intro) | apply State.accTurn_inv | apply State.completeArray_inv | apply State.putJob_inv
      | apply State.takeJob_inv | apply Inv.ite | apply OutInv.ite | apply OutInv.next | apply Upd.of
      | simp -iota only [Inv.update] | split | dsimp -iota only | dsimp only

theorem execMxAccstateWrite_inv {fm : Nat} {s₀ : State} (m : Motif) (set : Fin 4) (v : BitVec 32) (s : State)
    (h_s : Inv fm s₀ s) (hm : InSet 536872964 fm) :
    OutInv fm s₀ (execMxAccstateWrite m set v s) := by
  delta execMxAccstateWrite
  repeat' first
    | exact inSet_trans rfl hm
    | with_reducible first
      | assumption | (intro) | apply State.accTry_inv | apply Inv.ite | apply OutInv.ite | apply OutInv.next | split
      | dsimp -iota only | dsimp only

end Sys2Proof.Machine
end

