-- ==== Sys2Proof/Laws/InvCohOps.lean ====
section
/-!
SUPPORT. Laws/InvCohOps.lean: the operations of Machine/CohOps.lean write only the fields named, and keep memories canonical.
-/

set_option simprocs false
set_option linter.unusedSimpArgs false
set_option linter.unusedVariables false

namespace Sys2Proof.Machine

theorem State.evictLine_inv {fm : Nat} {s₀ : State} (s : State) (d l : Nat) (h_s : Inv fm s₀ s)
    (hm : InSet 13196221202492 fm) :
    Inv fm s₀ (State.evictLine s d l) := by
  delta State.evictLine
  repeat' first
    | exact inSet_trans rfl hm
    | with_reducible exact Or.inr rfl
    | exact Or.inl (inSet_trans rfl hm)
    | with_reducible first
      | assumption | (intro) | apply State.bump_inv | apply State.coh_inv | apply State.dropCopy_inv
      | apply State.onAgent_inv | apply Inv.ite | apply Upd.of | simp -iota only [Inv.update] | split
      | dsimp -iota only | dsimp only

theorem State.leaveWay_inv {fm : Nat} {s₀ : State} (s : State) (d l : Nat) (h_s : Inv fm s₀ s)
    (hm : InSet 13196221202492 fm) :
    Inv fm s₀ (State.leaveWay s d l) := by
  delta State.leaveWay
  repeat' first
    | exact inSet_trans rfl hm
    | with_reducible exact Or.inr rfl
    | exact Or.inl (inSet_trans rfl hm)
    | with_reducible first
      | assumption | (intro) | apply State.evictLine_inv | apply State.onAgent_inv | apply Inv.ite | apply Upd.of
      | simp -iota only [Inv.update] | split | dsimp -iota only | dsimp only

theorem State.installLine_inv {fm : Nat} {s₀ : State} (s : State) (d l : Nat) (st : Moesi) (data : LineData)
    (h_s : Inv fm s₀ s) (hm : InSet 13196221202492 fm) :
    Inv fm s₀ (State.installLine s d l st data) := by
  delta State.installLine
  repeat' first
    | exact inSet_trans rfl hm
    | with_reducible exact Or.inr rfl
    | exact Or.inl (inSet_trans rfl hm)
    | with_reducible first
      | assumption | (intro) | apply State.leaveWay_inv | apply State.onAgent_inv | apply Inv.ite | apply Upd.of
      | simp -iota only [Inv.update] | split | dsimp -iota only | dsimp only

theorem State.setTx_inv {fm : Nat} {s₀ : State} (s : State) (d l : Nat) (t : Option Tx) (h_s : Inv fm s₀ s)
    (hm : InSet 32768 fm) :
    Inv fm s₀ (State.setTx s d l t) := by
  delta State.setTx
  repeat' first
    | exact inSet_trans rfl hm
    | with_reducible exact Or.inr rfl
    | exact Or.inl (inSet_trans rfl hm)
    | with_reducible first
      | assumption | (intro) | apply State.onAgent_inv | apply Inv.ite | apply Upd.of | simp -iota only [Inv.update]
      | split | dsimp -iota only | dsimp only

theorem State.sendReq_inv {fm : Nat} {s₀ : State} (s : State) (d l : Nat) (k : ReqKind) (h_s : Inv fm s₀ s)
    (hm : InSet 603979776 fm) :
    Inv fm s₀ (State.sendReq s d l k) := by
  delta State.sendReq
  repeat' first
    | exact inSet_trans rfl hm
    | with_reducible first
      | assumption | (intro) | apply State.coh_inv | apply Inv.ite | split | dsimp -iota only | dsimp only

theorem State.startTx_inv {fm : Nat} {s₀ : State} (s : State) (d l : Nat) (k : ReqKind) (near : Bool)
    (h_s : Inv fm s₀ s) (hm : InSet 13196221202492 fm) :
    Inv fm s₀ (State.startTx s d l k near) := by
  delta State.startTx
  repeat' first
    | exact inSet_trans rfl hm
    | with_reducible first
      | assumption | (intro) | apply State.bump_inv | apply State.sendReq_inv | apply State.setTx_inv | apply Inv.ite
      | split | dsimp -iota only | dsimp only

theorem State.finishOne_inv {fm : Nat} {s₀ : State} (s : State) (d l : Nat) (h_s : Inv fm s₀ s)
    (hm : InSet 13196221202492 fm) :
    Inv fm s₀ (State.finishOne s d l) := by
  delta State.finishOne
  repeat' first
    | exact inSet_trans rfl hm
    | with_reducible exact Or.inr rfl
    | exact Or.inl (inSet_trans rfl hm)
    | with_reducible first
      | assumption | (intro) | apply State.coh_inv | apply State.installLine_inv | apply State.setTx_inv
      | apply Inv.ite | apply Upd.of | simp -iota only [Inv.update] | split | dsimp -iota only | dsimp only

theorem State.finishTx_inv {fm : Nat} {s₀ : State} (s : State) (d l : Nat) (h_s : Inv fm s₀ s)
    (hm : InSet 13196221202492 fm) :
    Inv fm s₀ (State.finishTx s d l) := by
  delta State.finishTx
  repeat' first
    | exact inSet_trans rfl hm
    | with_reducible first
      | assumption | (intro) | apply State.finishOne_inv | apply Inv.ite | apply Inv.foldl | split | dsimp -iota only
      | dsimp only

theorem State.predict_inv {fm : Nat} {s₀ : State} (s : State) (d l : Nat) (up : Bool) (h_s : Inv fm s₀ s)
    (hm : InSet 32768 fm) :
    Inv fm s₀ (State.predict s d l up) := by
  delta State.predict
  repeat' first
    | exact inSet_trans rfl hm
    | with_reducible exact Or.inr rfl
    | exact Or.inl (inSet_trans rfl hm)
    | with_reducible first
      | assumption | (intro) | apply State.onAgent_inv | apply Inv.ite | apply Upd.of | simp -iota only [Inv.update]
      | split | dsimp -iota only | dsimp only

theorem State.lineLost_inv {fm : Nat} {s₀ : State} (s : State) (d l : Nat) (h_s : Inv fm s₀ s) (hm : InSet 32768 fm) :
    Inv fm s₀ (State.lineLost s d l) := by
  delta State.lineLost
  repeat' first
    | exact inSet_trans rfl hm
    | with_reducible exact Or.inr rfl
    | exact Or.inl (inSet_trans rfl hm)
    | with_reducible first
      | assumption | (intro) | apply State.onAgent_inv | apply State.predict_inv | apply Inv.ite | apply Upd.of
      | simp -iota only [Inv.update] | split | dsimp -iota only | dsimp only

theorem State.setLineState_inv {fm : Nat} {s₀ : State} (s : State) (d l : Nat) (st : Moesi) (h_s : Inv fm s₀ s)
    (hm : InSet 32768 fm) :
    Inv fm s₀ (State.setLineState s d l st) := by
  delta State.setLineState
  repeat' first
    | exact inSet_trans rfl hm
    | with_reducible exact Or.inr rfl
    | exact Or.inl (inSet_trans rfl hm)
    | with_reducible first
      | assumption | (intro) | apply State.onAgent_inv | apply Inv.ite | apply Upd.of | simp -iota only [Inv.update]
      | split | dsimp -iota only | dsimp only

theorem State.sendLine_inv {fm : Nat} {s₀ : State} (s : State) (src dst code l : Nat) (more : List Nat) (d : LineData)
    (h_s : Inv fm s₀ s) (hm : InSet 603979776 fm) :
    Inv fm s₀ (State.sendLine s src dst code l more d) := by
  delta State.sendLine
  repeat' first
    | exact inSet_trans rfl hm
    | with_reducible first
      | assumption | (intro) | apply State.coh_inv | apply Inv.ite | split | dsimp -iota only | dsimp only

theorem State.leavePrivate_inv {fm : Nat} {s₀ : State} (s : State) (h l : Nat) (h_s : Inv fm s₀ s)
    (hm : InSet 13196221202492 fm) :
    Inv fm s₀ (State.leavePrivate s h l) := by
  delta State.leavePrivate
  repeat' first
    | exact inSet_trans rfl hm
    | with_reducible exact Or.inr rfl
    | exact Or.inl (inSet_trans rfl hm)
    | with_reducible first
      | assumption | (intro) | apply State.evictLine_inv | apply State.onAgent_inv | apply Inv.ite | apply Upd.of
      | simp -iota only [Inv.update] | split | dsimp -iota only | dsimp only

theorem State.evictTag_inv {fm : Nat} {s₀ : State} (s : State) (l : Nat) (h_s : Inv fm s₀ s)
    (hm : InSet 13196221202492 fm) :
    Inv fm s₀ (State.evictTag s l) := by
  delta State.evictTag
  repeat' first
    | exact inSet_trans rfl hm
    | with_reducible exact Or.inr rfl
    | exact Or.inl (inSet_trans rfl hm)
    | with_reducible first
      | assumption | (intro) | apply State.bump_inv | apply State.evictLine_inv | apply State.onAgent_inv
      | apply Inv.ite | apply Upd.of | simp -iota only [Inv.update] | split | dsimp -iota only | dsimp only

theorem State.snoop_inv {fm : Nat} {s₀ : State} (s : State) (h l : Nat) (own : Bool) (h_s : Inv fm s₀ s)
    (hm : InSet 13196221202492 fm) :
    Inv fm s₀ (State.snoop s h l own) := by
  delta State.snoop
  repeat' first
    | exact inSet_trans rfl hm
    | with_reducible exact Or.inr rfl
    | exact Or.inl (inSet_trans rfl hm)
    | with_reducible first
      | assumption | (intro) | apply State.evictTag_inv | apply State.leavePrivate_inv | apply State.onAgent_inv
      | apply Inv.ite | apply Inv.getD | apply Upd.of | simp -iota only [Inv.update] | split | dsimp -iota only
      | dsimp only

theorem State.noteUncached_inv {fm : Nat} {s₀ : State} (s : State) (l q : Nat) (k : ReqKind) (h_s : Inv fm s₀ s)
    (hm : InSet 33554432 fm) :
    Inv fm s₀ (State.noteUncached s l q k) := by
  delta State.noteUncached
  repeat' first
    | exact inSet_trans rfl hm
    | with_reducible exact Or.inr rfl
    | exact Or.inl (inSet_trans rfl hm)
    | with_reducible first
      | assumption | (intro) | apply Inv.ite | apply Upd.of | simp -iota only [Inv.update] | split | dsimp -iota only
      | dsimp only

theorem State.serveUncached_inv {fm : Nat} {s₀ : State} (s : State) (l q : Nat) (k : ReqKind) (h_s : Inv fm s₀ s)
    (hm : InSet 33554432 fm) :
    Inv fm s₀ (State.serveUncached s l q k) := by
  delta State.serveUncached
  repeat' first
    | exact inSet_trans rfl hm
    | with_reducible exact Or.inr rfl
    | exact Or.inl (inSet_trans rfl hm)
    | with_reducible first
      | assumption | (intro) | apply Inv.ite | apply Upd.of | simp -iota only [Inv.update] | split | dsimp -iota only
      | dsimp only

theorem State.clearRefusals_inv {fm : Nat} {s₀ : State} (s : State) (k l q code : Nat) (h_s : Inv fm s₀ s)
    (hm : InSet 65536 fm) :
    Inv fm s₀ (State.clearRefusals s k l q code) := by
  delta State.clearRefusals
  repeat' first
    | exact inSet_trans rfl hm
    | with_reducible exact Or.inr rfl
    | exact Or.inl (inSet_trans rfl hm)
    | with_reducible first
      | assumption | (intro) | apply State.onHome_inv | apply Inv.ite | apply Upd.of | simp -iota only [Inv.update]
      | split | dsimp -iota only | dsimp only

theorem State.showDir_inv {fm : Nat} {s₀ : State} (s : State) (k : Nat) (h_s : Inv fm s₀ s) (hm : InSet 4 fm) :
    Inv fm s₀ (State.showDir s k) := by
  delta State.showDir
  repeat' first
    | exact inSet_trans rfl hm
    | with_reducible first
      | assumption | (intro) | apply State.setFlds_inv | apply Inv.ite | split | dsimp -iota only | dsimp only

theorem State.doRefuse_inv {fm : Nat} {s₀ : State} (s : State) (k l q : Nat) (kind : ReqKind) (c : NackCause)
    (h_s : Inv fm s₀ s) (hm : InSet 13196221202492 fm) :
    Inv fm s₀ (State.doRefuse s k l q kind c) := by
  delta State.doRefuse
  repeat' first
    | exact inSet_trans rfl hm
    | with_reducible exact Or.inr rfl
    | exact Or.inl (inSet_trans rfl hm)
    | with_reducible first
      | assumption | (intro) | apply State.bump_inv | apply State.clearRefusals_inv | apply State.coh_inv
      | apply State.onHome_inv | apply State.raise_inv | apply State.setFld_inv | apply State.showDir_inv
      | apply Inv.ite | apply Upd.of | simp -iota only [Inv.update] | split | dsimp -iota only | dsimp only

theorem State.homeRsp_inv {fm : Nat} {s₀ : State} (s : State) (l q : Nat) (st : Moesi) (acks : Nat) (fromMem : Bool)
    (h_s : Inv fm s₀ s) (hm : InSet 13196221202492 fm) :
    Inv fm s₀ (State.homeRsp s l q st acks fromMem) := by
  delta State.homeRsp
  repeat' first
    | exact inSet_trans rfl hm
    | with_reducible first
      | assumption | (intro) | apply State.coh_inv | apply State.memLine_inv
      | (apply PairInv.snd; apply State.memLine_inv) | apply State.sendLine_inv | apply Inv.ite | apply PairInv.ite
      | (apply PairInv.snd; apply PairInv.ite) | simp -iota only [PairInv.mk'] | split
      | refine PairInv.of_eq (by assumption) ?_ | dsimp -iota only | dsimp only

theorem State.setHolders_inv {fm : Nat} {s₀ : State} (s : State) (k l : Nat) (owner : Option Nat)
    (sharers : BitVec 64) (h_s : Inv fm s₀ s) (hm : InSet 65536 fm) :
    Inv fm s₀ (State.setHolders s k l owner sharers) := by
  delta State.setHolders
  repeat' first
    | exact inSet_trans rfl hm
    | with_reducible exact Or.inr rfl
    | exact Or.inl (inSet_trans rfl hm)
    | with_reducible first
      | assumption | (intro) | apply State.onHome_inv | apply Inv.ite | apply Upd.of | simp -iota only [Inv.update]
      | split | dsimp -iota only | dsimp only

theorem State.serveCoherent_inv {fm : Nat} {s₀ : State} (s : State) (k l q : Nat) (kind : ReqKind) (h_s : Inv fm s₀ s)
    (hm : InSet 13196221202492 fm) :
    Inv fm s₀ (State.serveCoherent s k l q kind) := by
  delta State.serveCoherent
  repeat' first
    | exact inSet_trans rfl hm
    | with_reducible exact Or.inr rfl
    | exact Or.inl (inSet_trans rfl hm)
    | with_reducible first
      | assumption | (intro) | apply State.coh_inv | apply State.homeRsp_inv | apply State.killResv_inv
      | apply State.sendInvs_inv | apply State.setHolders_inv | apply Inv.ite | apply Inv.getD | apply Upd.of
      | simp -iota only [Inv.update] | split | dsimp -iota only | dsimp only

theorem State.serveRdNc_inv {fm : Nat} {s₀ : State} (s : State) (k l q : Nat) (h_s : Inv fm s₀ s)
    (hm : InSet 13196221202492 fm) :
    Inv fm s₀ (State.serveRdNc s k l q) := by
  delta State.serveRdNc
  repeat' first
    | exact inSet_trans rfl hm
    | with_reducible exact Or.inr rfl
    | exact Or.inl (inSet_trans rfl hm)
    | with_reducible first
      | assumption | (intro) | apply State.coh_inv | apply State.memLine_inv
      | (apply PairInv.snd; apply State.memLine_inv) | apply State.sendLine_inv | apply Inv.ite | apply PairInv.ite
      | (apply PairInv.snd; apply PairInv.ite) | apply Upd.of | simp -iota only [Inv.update, PairInv.mk'] | split
      | refine PairInv.of_eq (by assumption) ?_ | dsimp -iota only | dsimp only

theorem State.removeCopies_inv {fm : Nat} {s₀ : State} (s : State) (k l : Nat) (discard : Bool) (h_s : Inv fm s₀ s)
    (hm : InSet 603979776 fm) :
    TripleInv fm s₀ (State.removeCopies s k l discard) := by
  delta State.removeCopies
  repeat' first
    | exact inSet_trans rfl hm
    | with_reducible exact Or.inr rfl
    | exact Or.inl (inSet_trans rfl hm)
    | with_reducible first
      | assumption | (intro) | apply State.coh_inv | apply State.sendInvs_inv | apply Inv.ite | apply TripleInv.ite
      | (apply TripleInv.snd; apply TripleInv.ite) | apply Inv.getD | apply Upd.of
      | simp -iota only [Inv.update, TripleInv.mk'] | split | refine TripleInv.of_eq (by assumption) ?_
      | dsimp -iota only | dsimp only

theorem State.pushLine_inv {fm : Nat} {s₀ : State} (s : State) (k l : Nat) (t : Nat) (h_s : Inv fm s₀ s)
    (hm : InSet 13196221202492 fm) :
    Inv fm s₀ (State.pushLine s k l t) := by
  delta State.pushLine
  repeat' first
    | exact inSet_trans rfl hm
    | with_reducible first
      | assumption | (intro) | apply State.bump_inv | apply State.memLine_inv
      | (apply PairInv.snd; apply State.memLine_inv) | apply State.pinEntry_inv | apply State.sendLine_inv
      | apply State.tidyEntry_inv | apply Inv.ite | apply PairInv.ite | (apply PairInv.snd; apply PairInv.ite)
      | simp -iota only [PairInv.mk'] | split | refine PairInv.of_eq (by assumption) ?_ | dsimp -iota only
      | dsimp only

theorem State.settleHome_inv {fm : Nat} {s₀ : State} (s : State) (k l : Nat) (h_s : Inv fm s₀ s)
    (hm : InSet 13196221202492 fm) :
    Inv fm s₀ (State.settleHome s k l) := by
  delta State.settleHome
  repeat' first
    | exact inSet_trans rfl hm
    | with_reducible exact Or.inr rfl
    | exact Or.inl (inSet_trans rfl hm)
    | with_reducible first
      | assumption | (intro) | apply State.bufferRoom_inv | apply State.buffered_inv
      | (apply PairInv.snd; apply State.buffered_inv) | apply State.coh_inv | apply State.killResv_inv
      | apply State.memLine_inv | (apply PairInv.snd; apply State.memLine_inv) | apply State.memWriteLine_inv
      | apply State.onHome_inv | apply State.pinEntry_inv | apply State.pushLine_inv | apply State.setHolders_inv
      | apply Inv.ite | apply PairInv.ite | (apply PairInv.snd; apply PairInv.ite) | apply Upd.of
      | simp -iota only [Inv.update, PairInv.mk'] | split | refine PairInv.of_eq (by assumption) ?_
      | dsimp -iota only | dsimp only

theorem State.enterBuffer_inv {fm : Nat} {s₀ : State} (s : State) (k l : Nat) (h_s : Inv fm s₀ s)
    (hm : InSet 13196221202492 fm) :
    Inv fm s₀ (State.enterBuffer s k l) := by
  delta State.enterBuffer
  repeat' first
    | exact inSet_trans rfl hm
    | with_reducible first
      | assumption | (intro) | apply State.bufferRoom_inv | apply State.pinEntry_inv | apply State.removeCopies_inv
      | (apply TripleInv.snd; apply State.removeCopies_inv) | apply State.settleHome_inv | apply Inv.ite
      | apply TripleInv.ite | (apply TripleInv.snd; apply TripleInv.ite) | simp -iota only [TripleInv.mk'] | split
      | refine TripleInv.of_eq (by assumption) ?_ | dsimp -iota only | dsimp only

theorem State.serve_inv {fm : Nat} {s₀ : State} (s : State) (k l q : Nat) (kind : ReqKind) (h_s : Inv fm s₀ s)
    (hm : InSet 13196254756924 fm) :
    Inv fm s₀ (State.serve s k l q kind) := by
  delta State.serve
  repeat' first
    | exact inSet_trans rfl hm
    | with_reducible exact Or.inr rfl
    | exact Or.inl (inSet_trans rfl hm)
    | with_reducible first
      | assumption | (intro) | apply State.clearRefusals_inv | apply State.enterBuffer_inv | apply State.onHome_inv
      | apply State.pinEntry_inv | apply State.removeCopies_inv | (apply TripleInv.snd; apply State.removeCopies_inv)
      | apply State.serveCoherent_inv | apply State.serveRdNc_inv | apply State.serveUncached_inv
      | apply State.settleHome_inv | apply State.showDir_inv | apply Inv.ite | apply TripleInv.ite
      | (apply TripleInv.snd; apply TripleInv.ite) | apply Upd.of | simp -iota only [Inv.update, TripleInv.mk']
      | split | refine TripleInv.of_eq (by assumption) ?_ | dsimp -iota only | dsimp only

theorem State.unbuffer_inv {fm : Nat} {s₀ : State} (s : State) (l : Nat) (kind : ReqKind) (h_s : Inv fm s₀ s)
    (hm : InSet 13196221202492 fm) :
    Inv fm s₀ (State.unbuffer s l kind) := by
  delta State.unbuffer
  repeat' first
    | exact inSet_trans rfl hm
    | with_reducible first
      | assumption | (intro) | apply State.flushBuffer_inv | apply Inv.ite | split | dsimp -iota only | dsimp only

theorem State.request_inv {fm : Nat} {s₀ : State} (s : State) (k l q : Nat) (kind : ReqKind) (h_s : Inv fm s₀ s)
    (hm : InSet 13196254756924 fm) :
    Inv fm s₀ (State.request s k l q kind) := by
  delta State.request
  repeat' first
    | exact inSet_trans rfl hm
    | with_reducible exact Or.inr rfl
    | exact Or.inl (inSet_trans rfl hm)
    | with_reducible first
      | assumption | (intro) | apply State.bump_inv | apply State.doRefuse_inv | apply State.noteUncached_inv
      | apply State.onHome_inv | apply State.serve_inv | apply State.unbuffer_inv | apply Inv.ite | apply Upd.of
      | simp -iota only [Inv.update] | split | dsimp -iota only | dsimp only

theorem State.serveReserved_inv {fm : Nat} {s₀ : State} (s : State) (k l : Nat) (h_s : Inv fm s₀ s)
    (hm : InSet 13196254756924 fm) :
    Inv fm s₀ (State.serveReserved s k l) := by
  delta State.serveReserved
  repeat' first
    | exact inSet_trans rfl hm
    | with_reducible exact Or.inr rfl
    | exact Or.inl (inSet_trans rfl hm)
    | with_reducible first
      | assumption | (intro) | apply State.onHome_inv | apply State.serve_inv | apply State.showDir_inv
      | apply State.unbuffer_inv | apply Inv.ite | apply Upd.of | simp -iota only [Inv.update] | split
      | dsimp -iota only | dsimp only

theorem State.writeBack_inv {fm : Nat} {s₀ : State} (s : State) (k l q : Nat) (d : LineData) (h_s : Inv fm s₀ s)
    (hm : InSet 13196221202492 fm) :
    Inv fm s₀ (State.writeBack s k l q d) := by
  delta State.writeBack
  repeat' first
    | exact inSet_trans rfl hm
    | with_reducible exact Or.inr rfl
    | exact Or.inl (inSet_trans rfl hm)
    | with_reducible first
      | assumption | (intro) | apply State.bump_inv | apply State.coh_inv | apply State.memWriteLine_inv
      | apply State.setHolders_inv | apply State.tidyEntry_inv | apply Inv.ite | apply Upd.of
      | simp -iota only [Inv.update] | split | dsimp -iota only | dsimp only

theorem State.takePlace_inv {fm : Nat} {s₀ : State} (s : State) (l : Nat) (bursts : List Nat) (h_s : Inv fm s₀ s)
    (hm : InSet 131072 fm) :
    Inv fm s₀ (State.takePlace s l bursts) := by
  delta State.takePlace
  repeat' first
    | exact inSet_trans rfl hm
    | with_reducible exact Or.inr rfl
    | exact Or.inl (inSet_trans rfl hm)
    | with_reducible first
      | assumption | (intro) | apply State.onCtl_inv | apply Inv.ite | apply Upd.of | simp -iota only [Inv.update]
      | split | dsimp -iota only | dsimp only

theorem State.process_inv {fm : Nat} {s₀ : State} (s : State) (k : Nat) (x : Ingress) (h_s : Inv fm s₀ s)
    (hm : InSet 13196254756924 fm) :
    Inv fm s₀ (State.process s k x) := by
  delta State.process
  repeat' first
    | exact inSet_trans rfl hm
    | with_reducible exact Or.inr rfl
    | exact Or.inl (inSet_trans rfl hm)
    | with_reducible first
      | assumption | (intro) | apply State.request_inv | apply State.takePlace_inv | apply State.writeBack_inv
      | apply Inv.ite | apply Upd.of | simp -iota only [Inv.update] | split | dsimp -iota only | dsimp only

theorem State.reach_inv {fm : Nat} {s₀ : State} (s : State) (k q : Nat) (x : Ingress) (h_s : Inv fm s₀ s)
    (hm : InSet 13196254756924 fm) :
    Inv fm s₀ (State.reach s k q x) := by
  delta State.reach
  repeat' first
    | exact inSet_trans rfl hm
    | with_reducible exact Or.inr rfl
    | exact Or.inl (inSet_trans rfl hm)
    | with_reducible first
      | assumption | (intro) | apply State.onCtl_inv | apply State.process_inv | apply Inv.ite | apply Upd.of
      | simp -iota only [Inv.update] | split | dsimp -iota only | dsimp only

theorem State.drainIngress_inv {fm : Nat} {s₀ : State} (k : Nat) (y0 : Nat) (s : State) (h_s : Inv fm s₀ s)
    (hm : InSet 13196254756924 fm) :
    Inv fm s₀ (State.drainIngress k y0 s) := by
  induction y0 generalizing s with
  | zero =>
    unfold State.drainIngress
    try dsimp -iota only
    repeat' first
      | exact inSet_trans rfl hm
      | with_reducible exact Or.inr rfl
      | exact Or.inl (inSet_trans rfl hm)
      | with_reducible first
        | assumption | (intro) | apply State.onCtl_inv | apply State.process_inv | apply Inv.ite | apply Upd.of
        | simp -iota only [Inv.update] | split | dsimp -iota only | dsimp only
  | succ n ih =>
    unfold State.drainIngress
    try dsimp -iota only
    repeat' first
      | exact inSet_trans rfl hm
      | with_reducible exact Or.inr rfl
      | exact Or.inl (inSet_trans rfl hm)
      | with_reducible first
        | assumption | (intro) | apply ih | apply State.onCtl_inv | apply State.process_inv | apply Inv.ite
        | apply Upd.of | simp -iota only [Inv.update] | split | dsimp -iota only | dsimp only

theorem State.burstMade_inv {fm : Nat} {s₀ : State} (s : State) (pc b : Nat) (h_s : Inv fm s₀ s)
    (hm : InSet 13196254756924 fm) :
    Inv fm s₀ (State.burstMade s pc b) := by
  delta State.burstMade
  repeat' first
    | exact inSet_trans rfl hm
    | with_reducible exact Or.inr rfl
    | exact Or.inl (inSet_trans rfl hm)
    | with_reducible first
      | assumption | (intro) | apply State.drainIngress_inv | apply State.onCtl_inv | apply State.range_inv
      | (apply PairInv.snd; apply State.range_inv) | apply Inv.ite | apply PairInv.ite
      | (apply PairInv.snd; apply PairInv.ite) | apply Inv.foldl | apply Upd.of
      | simp -iota only [Inv.update, PairInv.mk'] | split | refine PairInv.of_eq (by assumption) ?_
      | dsimp -iota only | dsimp only

theorem State.countFull_inv {fm : Nat} {s₀ : State} (s : State) (cycles : Nat) (h_s : Inv fm s₀ s)
    (hm : InSet 13196221202492 fm) :
    Inv fm s₀ (State.countFull s cycles) := by
  delta State.countFull
  repeat' first
    | exact inSet_trans rfl hm
    | with_reducible first
      | assumption | (intro) | apply State.bump_inv | apply Inv.ite | apply Inv.foldl | split | dsimp -iota only
      | dsimp only

theorem State.recallAnswer_inv {fm : Nat} {s₀ : State} (s : State) (k l : Nat) (d : Option LineData)
    (h_s : Inv fm s₀ s) (hm : InSet 13196221202492 fm) :
    Inv fm s₀ (State.recallAnswer s k l d) := by
  delta State.recallAnswer
  repeat' first
    | exact inSet_trans rfl hm
    | with_reducible exact Or.inr rfl
    | exact Or.inl (inSet_trans rfl hm)
    | with_reducible first
      | assumption | (intro) | apply State.memWriteLine_inv | apply State.onHome_inv | apply State.pinEntry_inv
      | apply State.setHolders_inv | apply State.settleHome_inv | apply Inv.ite | apply Upd.of
      | simp -iota only [Inv.update] | split | dsimp -iota only | dsimp only

theorem State.ackToHome_inv {fm : Nat} {s₀ : State} (s : State) (k l : Nat) (h_s : Inv fm s₀ s)
    (hm : InSet 13196221202492 fm) :
    Inv fm s₀ (State.ackToHome s k l) := by
  delta State.ackToHome
  repeat' first
    | exact inSet_trans rfl hm
    | with_reducible exact Or.inr rfl
    | exact Or.inl (inSet_trans rfl hm)
    | with_reducible first
      | assumption | (intro) | apply State.onHome_inv | apply State.pinEntry_inv | apply State.settleHome_inv
      | apply Inv.ite | apply Upd.of | simp -iota only [Inv.update] | split | dsimp -iota only | dsimp only

theorem State.farExecute_inv {fm : Nat} {s₀ : State} (s : State) (k : Nat) (h_s : Inv fm s₀ s)
    (hm : InSet 13196221202492 fm) :
    Inv fm s₀ (State.farExecute s k) := by
  delta State.farExecute
  repeat' first
    | exact inSet_trans rfl hm
    | with_reducible exact Or.inr rfl
    | exact Or.inl (inSet_trans rfl hm)
    | with_reducible first
      | assumption | (intro) | apply State.bump_inv | apply State.coh_inv | apply State.enterBuffer_inv
      | apply State.killResv_inv | apply State.onHome_inv | apply State.showDir_inv | apply Inv.ite | apply Upd.of
      | simp -iota only [Inv.update] | split | dsimp -iota only | dsimp only

end Sys2Proof.Machine
end

