-- ==== Sys2Proof/Laws/InvNeedleOps.lean ====
section
/-!
SUPPORT. Laws/InvNeedleOps.lean: the operations of Machine/NeedleOps.lean write only the fields named, and keep memories canonical.
-/

set_option simprocs false
set_option linter.unusedSimpArgs false
set_option linter.unusedVariables false

namespace Sys2Proof.Machine

theorem State.setNdl_inv {fm : Nat} {s₀ : State} (s : State) (m : Nat) (n : Needles) (h_s : Inv fm s₀ s)
    (hm : InSet 8192 fm) :
    Inv fm s₀ (State.setNdl s m n) := by
  delta State.setNdl
  repeat' first
    | exact inSet_trans rfl hm
    | with_reducible exact Or.inr rfl
    | exact Or.inl (inSet_trans rfl hm)
    | with_reducible first
      | assumption | (intro) | apply Inv.ite | apply Upd.of | simp -iota only [Inv.update] | split | dsimp -iota only
      | dsimp only

theorem State.showNdl_inv {fm : Nat} {s₀ : State} (s : State) (m : Nat) (h_s : Inv fm s₀ s)
    (hm : InSet 13196221202492 fm) :
    Inv fm s₀ (State.showNdl s m) := by
  delta State.showNdl
  repeat' first
    | exact inSet_trans rfl hm
    | with_reducible first
      | assumption | (intro) | apply State.range_inv | (apply PairInv.snd; apply State.range_inv)
      | apply State.setFlds_inv | apply Inv.ite | apply PairInv.ite | (apply PairInv.snd; apply PairInv.ite)
      | apply Inv.foldl | apply Inv.getD | simp -iota only [PairInv.mk'] | split
      | refine PairInv.of_eq (by assumption) ?_ | dsimp -iota only | dsimp only

theorem State.putGroup_inv {fm : Nat} {s₀ : State} (s : State) (m g : Nat) (x : Option Group) (h_s : Inv fm s₀ s)
    (hm : InSet 13196221210684 fm) :
    Inv fm s₀ (State.putGroup s m g x) := by
  delta State.putGroup
  repeat' first
    | exact inSet_trans rfl hm
    | with_reducible exact Or.inr rfl
    | exact Or.inl (inSet_trans rfl hm)
    | with_reducible first
      | assumption | (intro) | apply State.setNdl_inv | apply State.showNdl_inv | apply Inv.ite | apply Upd.of
      | simp -iota only [Inv.update] | split | dsimp -iota only | dsimp only

theorem State.onLaunch_inv {fm : Nat} {s₀ : State} (s : State) (m : Nat) (f : LaunchJob → LaunchJob)
    (h_s : Inv fm s₀ s) (hm : InSet 8192 fm) :
    Inv fm s₀ (State.onLaunch s m f) := by
  delta State.onLaunch
  repeat' first
    | exact inSet_trans rfl hm
    | with_reducible exact Or.inr rfl
    | exact Or.inl (inSet_trans rfl hm)
    | with_reducible first
      | assumption | (intro) | apply State.setNdl_inv | apply Inv.ite | apply Upd.of | simp -iota only [Inv.update]
      | split | dsimp -iota only | dsimp only

theorem State.countWait_inv {fm : Nat} {s₀ : State} (s : State) (m : Nat) (g : Group) (h_s : Inv fm s₀ s)
    (hm : InSet 13196221202492 fm) :
    Inv fm s₀ (State.countWait s m g) := by
  delta State.countWait
  repeat' first
    | exact inSet_trans rfl hm
    | with_reducible exact Or.inr rfl
    | exact Or.inl (inSet_trans rfl hm)
    | with_reducible first
      | assumption | (intro) | apply State.bump_inv | apply Inv.ite | apply Upd.of | simp -iota only [Inv.update]
      | split | dsimp -iota only | dsimp only

theorem State.haltBlock_inv {fm : Nat} {s₀ : State} (s : State) (m b : Nat) (h_s : Inv fm s₀ s)
    (hm : InSet 13196221210684 fm) :
    Inv fm s₀ (State.haltBlock s m b) := by
  delta State.haltBlock
  repeat' first
    | exact inSet_trans rfl hm
    | with_reducible exact Or.inr rfl
    | exact Or.inl (inSet_trans rfl hm)
    | with_reducible first
      | assumption | (intro) | apply State.countWait_inv | apply State.setNdl_inv | apply State.showNdl_inv
      | apply Inv.ite | apply Inv.foldl | apply Upd.of | simp -iota only [Inv.update] | split | dsimp -iota only
      | dsimp only

theorem State.haltRank_inv {fm : Nat} {s₀ : State} (s : State) (r b : Nat) (l : LaunchJob) (h_s : Inv fm s₀ s)
    (hm : InSet 13196221210684 fm) :
    Inv fm s₀ (State.haltRank s r b l) := by
  delta State.haltRank
  repeat' first
    | exact inSet_trans rfl hm
    | with_reducible exact Or.inr rfl
    | exact Or.inl (inSet_trans rfl hm)
    | with_reducible first
      | assumption | (intro) | apply State.haltBlock_inv | apply State.setNdl_inv | apply Inv.ite | apply Inv.getD
      | apply Upd.of | simp -iota only [Inv.update] | split | dsimp -iota only | dsimp only

theorem State.groupFault_inv {fm : Nat} {s₀ : State} (s : State) (m slot : Nat) (g : Group) (cause : Nat)
    (h_s : Inv fm s₀ s) (hm : InSet 13196221210684 fm) :
    Inv fm s₀ (State.groupFault s m slot g cause) := by
  delta State.groupFault
  repeat' first
    | exact inSet_trans rfl hm
    | with_reducible exact Or.inr rfl
    | exact Or.inl (inSet_trans rfl hm)
    | exact fun _ => rfl
    | with_reducible first
      | assumption | exact memWrite_wf _ _ _ | (intro) | apply State.bump_inv | apply State.haltBlock_inv
      | apply State.haltRank_inv | apply State.onLaunch_inv | apply State.putGroup_inv | apply State.raise_inv
      | apply State.setFld_inv | apply Inv.ite | apply Inv.foldl | apply Upd.of | simp -iota only [Inv.update]
      | split | dsimp -iota only | dsimp only

theorem State.groupStall_inv {fm : Nat} {s₀ : State} (s : State) (m slot : Nat) (g : Group) (l : LaunchJob)
    (word page cause level pte pa access : Nat) (h_s : Inv fm s₀ s) (hm : InSet 13196221210684 fm) :
    Inv fm s₀ (State.groupStall s m slot g l word page cause level pte pa access) := by
  delta State.groupStall
  repeat' first
    | exact inSet_trans rfl hm
    | with_reducible exact Or.inr rfl
    | exact Or.inl (inSet_trans rfl hm)
    | with_reducible first
      | assumption | (intro) | apply State.putGroup_inv | apply State.sendFault_inv | apply Inv.ite | apply Upd.of
      | simp -iota only [Inv.update] | split | dsimp -iota only | dsimp only

theorem State.fetch_inv {fm : Nat} {s₀ : State} (s : State) (m slot : Nat) (g : Group) (l : LaunchJob)
    (h_s : Inv fm s₀ s) (hm : InSet 13196221210684 fm) :
    PairInv fm s₀ (State.fetch s m slot g l) := by
  delta State.fetch
  repeat' first
    | exact inSet_trans rfl hm
    | with_reducible exact Or.inr rfl
    | exact Or.inl (inSet_trans rfl hm)
    | with_reducible first
      | assumption | (intro) | apply State.groupStall_inv | apply State.vaRead_inv
      | (apply PairInv.snd; apply State.vaRead_inv) | apply Inv.ite | apply PairInv.ite
      | (apply PairInv.snd; apply PairInv.ite) | apply Upd.of | simp -iota only [Inv.update, PairInv.mk'] | split
      | refine PairInv.of_eq (by assumption) ?_ | dsimp -iota only | dsimp only

theorem State.idleSlots_inv {fm : Nat} {s₀ : State} (s : State) (t : Nat) (h_s : Inv fm s₀ s)
    (hm : InSet 13196221202492 fm) :
    Inv fm s₀ (State.idleSlots s t) := by
  delta State.idleSlots
  repeat' first
    | exact inSet_trans rfl hm
    | with_reducible first
      | assumption | (intro) | apply State.bump_inv | apply State.range_inv
      | (apply PairInv.snd; apply State.range_inv) | apply Inv.ite | apply PairInv.ite
      | (apply PairInv.snd; apply PairInv.ite) | apply Inv.foldl | simp -iota only [PairInv.mk'] | split
      | refine PairInv.of_eq (by assumption) ?_ | dsimp -iota only | dsimp only

theorem State.issued_inv {fm : Nat} {s₀ : State} (s : State) (m slot : Nat) (g : Group) (h_s : Inv fm s₀ s)
    (hm : InSet 13196221210684 fm) :
    Inv fm s₀ (State.issued s m slot g) := by
  delta State.issued
  repeat' first
    | exact inSet_trans rfl hm
    | with_reducible exact Or.inr rfl
    | exact Or.inl (inSet_trans rfl hm)
    | with_reducible first
      | assumption | (intro) | apply State.bump_inv | apply State.setNdl_inv | apply Inv.ite | apply Upd.of
      | simp -iota only [Inv.update] | split | dsimp -iota only | dsimp only

theorem State.issueCore_inv {fm : Nat} {s₀ : State} (s : State) (m slot : Nat) (p : Nat → Bool) (evenIdle : Bool)
    (run : Group → LaunchJob → Nat → State → State) (h_s : Inv fm s₀ s)
    (h_run : ∀ a0 a1 a2 a3, Inv fm s₀ a3 → Inv fm s₀ (run a0 a1 a2 a3)) (hm : InSet 13196221210684 fm) :
    Inv fm s₀ (State.issueCore s m slot p evenIdle run) := by
  delta State.issueCore
  repeat' first
    | exact inSet_trans rfl hm
    | with_reducible exact Or.inr rfl
    | exact Or.inl (inSet_trans rfl hm)
    | with_reducible first
      | assumption | (intro) | apply State.bump_inv | apply State.fetch_inv
      | (apply PairInv.snd; apply State.fetch_inv) | apply State.groupFault_inv | apply State.issued_inv
      | apply State.putGroup_inv | apply h_run | apply Inv.ite | apply PairInv.ite
      | (apply PairInv.snd; apply PairInv.ite) | apply Upd.of | simp -iota only [Inv.update, PairInv.mk'] | split
      | refine PairInv.of_eq (by assumption) ?_ | dsimp -iota only | dsimp only

theorem State.issue_inv {fm : Nat} {s₀ : State} (s : State) (m slot : Nat) (p : Nat → Bool) (evenIdle : Bool)
    (run : Group → LaunchJob → Nat → State → State) (h_s : Inv fm s₀ s)
    (h_run : ∀ a0 a1 a2 a3, Inv fm s₀ a3 → Inv fm s₀ (run a0 a1 a2 a3)) (hm : InSet 13196221210684 fm) :
    Inv fm s₀ (State.issue s m slot p evenIdle run) := by
  delta State.issue
  repeat' first
    | exact inSet_trans rfl hm
    | with_reducible first
      | assumption | (intro) | apply State.bump_inv | apply State.issueCore_inv | apply h_run | apply Inv.ite | split
      | dsimp -iota only | dsimp only

theorem State.issueReg_inv {fm : Nat} {s₀ : State} (s : State) (m slot : Nat) (p : Nat → Bool)
    (f : Nat → Group → Group) (h_s : Inv fm s₀ s) (hm : InSet 13196221210684 fm) :
    Inv fm s₀ (State.issueReg s m slot p f) := by
  delta State.issueReg
  repeat' first
    | exact inSet_trans rfl hm
    | with_reducible first
      | assumption | (intro) | apply State.issue_inv | apply State.putGroup_inv | apply Inv.ite | split
      | dsimp -iota only | dsimp only

theorem State.collective_inv {fm : Nat} {s₀ : State} (m slot : Nat) (run : Group → LaunchJob → Nat → State → State)
    (g : Group) (l : LaunchJob) (w : Nat) (s : State) (h_s : Inv fm s₀ s)
    (h_run : ∀ a0 a1 a2 a3, Inv fm s₀ a3 → Inv fm s₀ (run a0 a1 a2 a3)) (hm : InSet 13196221210684 fm) :
    Inv fm s₀ (State.collective m slot run g l w s) := by
  delta State.collective
  repeat' first
    | exact inSet_trans rfl hm
    | with_reducible first
      | assumption | (intro) | apply State.groupFault_inv | apply h_run | apply Inv.ite | split | dsimp -iota only
      | dsimp only

theorem State.issueCollective_inv {fm : Nat} {s₀ : State} (s : State) (m slot : Nat) (p : Nat → Bool)
    (run : Group → LaunchJob → Nat → State → State) (h_s : Inv fm s₀ s)
    (h_run : ∀ a0 a1 a2 a3, Inv fm s₀ a3 → Inv fm s₀ (run a0 a1 a2 a3)) (hm : InSet 13196221210684 fm) :
    Inv fm s₀ (State.issueCollective s m slot p run) := by
  delta State.issueCollective
  repeat' first
    | exact inSet_trans rfl hm
    | with_reducible first
      | assumption | (intro) | apply State.collective_inv | apply State.issue_inv | apply h_run | apply Inv.ite
      | split | dsimp -iota only | dsimp only

theorem State.countGroup_inv {fm : Nat} {s₀ : State} (s : State) (m : Nat) (g : Group) (n : NumStat)
    (h_s : Inv fm s₀ s) (hm : InSet 4 fm) :
    PairInv fm s₀ (State.countGroup s m g n) := by
  delta State.countGroup
  repeat' first
    | exact inSet_trans rfl hm
    | with_reducible exact Or.inr rfl
    | exact Or.inl (inSet_trans rfl hm)
    | with_reducible first
      | assumption | (intro) | apply State.setFlds_inv | apply Inv.ite | apply PairInv.ite
      | (apply PairInv.snd; apply PairInv.ite) | apply Upd.of | simp -iota only [Inv.update, PairInv.mk'] | split
      | refine PairInv.of_eq (by assumption) ?_ | dsimp -iota only | dsimp only

theorem State.countRange_inv {fm : Nat} {s₀ : State} (s : State) (m : Nat) (g : Group) (n : Nat) (h_s : Inv fm s₀ s)
    (hm : InSet 13196221210684 fm) :
    PairInv fm s₀ (State.countRange s m g n) := by
  delta State.countRange
  repeat' first
    | exact inSet_trans rfl hm
    | with_reducible exact Or.inr rfl
    | exact Or.inl (inSet_trans rfl hm)
    | with_reducible first
      | assumption | (intro) | apply State.bump_inv | apply State.onLaunch_inv | apply State.setFld_inv
      | apply Inv.ite | apply PairInv.ite | (apply PairInv.snd; apply PairInv.ite) | apply Upd.of
      | simp -iota only [Inv.update, PairInv.mk'] | split | refine PairInv.of_eq (by assumption) ?_
      | dsimp -iota only | dsimp only

theorem State.shuffle_inv {fm : Nat} {s₀ : State} (s : State) (m slot : Nat) (g : Group) (rd rs1 : Nat)
    (src : Nat → Option Nat) (h_s : Inv fm s₀ s) (hm : InSet 13196221210684 fm) :
    Inv fm s₀ (State.shuffle s m slot g rd rs1 src) := by
  delta State.shuffle
  repeat' first
    | exact inSet_trans rfl hm
    | with_reducible exact Or.inr rfl
    | exact Or.inl (inSet_trans rfl hm)
    | with_reducible first
      | assumption | (intro) | apply State.countRange_inv | (apply PairInv.snd; apply State.countRange_inv)
      | apply State.putGroup_inv | apply Inv.ite | apply PairInv.ite | (apply PairInv.snd; apply PairInv.ite)
      | apply Inv.foldl | apply Upd.of | simp -iota only [Inv.update, PairInv.mk'] | split
      | refine PairInv.of_eq (by assumption) ?_ | dsimp -iota only | dsimp only

theorem State.spotOf_inv {fm : Nat} {s₀ : State} (s : State) (m slot : Nat) (l : LaunchJob) (ea n : Nat) (k : AccKind)
    (need : Need) (h_s : Inv fm s₀ s) (hm : InSet 13196221202492 fm) :
    PairInv fm s₀ (State.spotOf s m slot l ea n k need) := by
  delta State.spotOf
  repeat' first
    | exact inSet_trans rfl hm
    | with_reducible exact Or.inr rfl
    | exact Or.inl (inSet_trans rfl hm)
    | with_reducible first
      | assumption | (intro) | apply State.translate_inv | (apply PairInv.snd; apply State.translate_inv)
      | apply Inv.ite | apply PairInv.ite | (apply PairInv.snd; apply PairInv.ite) | apply Upd.of
      | simp -iota only [Inv.update, PairInv.mk'] | split | refine PairInv.of_eq (by assumption) ?_
      | dsimp -iota only | dsimp only

theorem State.spots_inv {fm : Nat} {s₀ : State} (m slot : Nat) (l : LaunchJob) (n : Nat) (k : AccKind) (need : Need)
    (y0 : List (Nat × Nat)) (s : State) (h_s : Inv fm s₀ s) (hm : InSet 13196221202492 fm) :
    TripleInv fm s₀ (State.spots m slot l n k need y0 s) := by
  induction y0 generalizing s with
  | nil =>
    unfold State.spots
    try dsimp -iota only
    repeat' first
      | exact inSet_trans rfl hm
      | with_reducible exact Or.inr rfl
      | exact Or.inl (inSet_trans rfl hm)
      | with_reducible first
        | assumption | (intro) | apply State.spotOf_inv | (apply PairInv.snd; apply State.spotOf_inv) | apply Inv.ite
        | apply PairInv.ite | (apply PairInv.snd; apply PairInv.ite) | apply TripleInv.ite
        | (apply TripleInv.snd; apply TripleInv.ite) | apply Upd.of
        | simp -iota only [Inv.update, PairInv.mk', TripleInv.mk'] | split | refine PairInv.of_eq (by assumption) ?_
        | refine TripleInv.of_eq (by assumption) ?_ | dsimp -iota only | dsimp only
  | cons x xs ih =>
    unfold State.spots
    try dsimp -iota only
    repeat' first
      | exact inSet_trans rfl hm
      | with_reducible exact Or.inr rfl
      | exact Or.inl (inSet_trans rfl hm)
      | with_reducible first
        | assumption | (intro) | (apply TripleInv.snd; apply ih) | apply ih | apply State.spotOf_inv
        | (apply PairInv.snd; apply State.spotOf_inv) | apply Inv.ite | apply PairInv.ite
        | (apply PairInv.snd; apply PairInv.ite) | apply TripleInv.ite | (apply TripleInv.snd; apply TripleInv.ite)
        | apply Upd.of | simp -iota only [Inv.update, PairInv.mk', TripleInv.mk'] | split
        | refine PairInv.of_eq (by assumption) ?_ | refine TripleInv.of_eq (by assumption) ?_ | dsimp -iota only
        | dsimp only

theorem State.lineLoad_inv {fm : Nat} {s₀ : State} (s : State) (m slot : Nat) (op : MemOp) (a : Acc) (n : Nat)
    (h_s : Inv fm s₀ s) (hm : InSet 13196221202492 fm) :
    TripleInv fm s₀ (State.lineLoad s m slot op a n) := by
  delta State.lineLoad
  repeat' first
    | exact inSet_trans rfl hm
    | with_reducible exact Or.inr rfl
    | exact Or.inl (inSet_trans rfl hm)
    | with_reducible first
      | assumption | (intro) | apply State.bump_inv | apply State.physRead_inv
      | (apply TripleInv.snd; apply State.physRead_inv) | apply State.range_inv
      | (apply PairInv.snd; apply State.range_inv) | apply State.startTx_inv | apply Inv.ite | apply PairInv.ite
      | (apply PairInv.snd; apply PairInv.ite) | apply TripleInv.ite | (apply TripleInv.snd; apply TripleInv.ite)
      | apply Upd.of | simp -iota only [Inv.update, PairInv.mk', TripleInv.mk'] | split
      | refine PairInv.of_eq (by assumption) ?_ | refine TripleInv.of_eq (by assumption) ?_ | dsimp -iota only
      | dsimp only

theorem State.farLoad_inv {fm : Nat} {s₀ : State} (s : State) (m slot : Nat) (accs : List Acc) (n : Nat)
    (h_s : Inv fm s₀ s) (hm : InSet 134217728 fm) :
    PairInv fm s₀ (State.farLoad s m slot accs n) := by
  delta State.farLoad
  repeat' first
    | exact inSet_trans rfl hm
    | with_reducible exact Or.inr rfl
    | exact Or.inl (inSet_trans rfl hm)
    | with_reducible first
      | assumption | (intro) | apply State.takeLanded_inv | apply State.want_inv | apply Inv.ite | apply PairInv.ite
      | (apply PairInv.snd; apply PairInv.ite) | apply Inv.getD | apply Upd.of
      | simp -iota only [Inv.update, PairInv.mk'] | split | refine PairInv.of_eq (by assumption) ?_
      | dsimp -iota only | dsimp only

theorem State.ownLine_inv {fm : Nat} {s₀ : State} (s : State) (m l : Nat) (near : Bool) (h_s : Inv fm s₀ s)
    (hm : InSet 13196221202492 fm) :
    PairInv fm s₀ (State.ownLine s m l near) := by
  delta State.ownLine
  repeat' first
    | exact inSet_trans rfl hm
    | with_reducible exact Or.inr rfl
    | exact Or.inl (inSet_trans rfl hm)
    | with_reducible first
      | assumption | (intro) | apply State.startTx_inv | apply Inv.ite | apply PairInv.ite
      | (apply PairInv.snd; apply PairInv.ite) | apply Upd.of | simp -iota only [Inv.update, PairInv.mk'] | split
      | refine PairInv.of_eq (by assumption) ?_ | dsimp -iota only | dsimp only

theorem State.storeLine_inv {fm : Nat} {s₀ : State} (s : State) (m l off : Nat) (bs : List Byte)
    (who : Option (Nat × Nat × Nat)) (h_s : Inv fm s₀ s) (hm : InSet 13196221202492 fm) :
    Inv fm s₀ (State.storeLine s m l off bs who) := by
  delta State.storeLine
  repeat' first
    | exact inSet_trans rfl hm
    | with_reducible exact Or.inr rfl
    | exact Or.inl (inSet_trans rfl hm)
    | with_reducible first
      | assumption | (intro) | apply State.killResv_inv | apply State.onAgent_inv | apply State.range_inv
      | (apply PairInv.snd; apply State.range_inv) | apply Inv.ite | apply PairInv.ite
      | (apply PairInv.snd; apply PairInv.ite) | apply Inv.foldl | apply Upd.of
      | simp -iota only [Inv.update, PairInv.mk'] | split | refine PairInv.of_eq (by assumption) ?_
      | dsimp -iota only | dsimp only

theorem State.accStore_inv {fm : Nat} {s₀ : State} (s : State) (m slot : Nat) (op : MemOp) (a : Acc) (bs : List Byte)
    (h_s : Inv fm s₀ s) (hm : InSet 13196221205564 fm) :
    TripleInv fm s₀ (State.accStore s m slot op a bs) := by
  delta State.accStore
  repeat' first
    | exact inSet_trans rfl hm
    | with_reducible exact Or.inr rfl
    | exact Or.inl (inSet_trans rfl hm)
    | with_reducible first
      | assumption | (intro) | apply State.bump_inv | apply State.localAnyWrite_inv | apply State.localWriteBy_inv
      | apply State.ownLine_inv | (apply PairInv.snd; apply State.ownLine_inv) | apply State.physWrite_inv
      | apply State.storeLine_inv | apply State.wantWrite_inv | apply Inv.ite | apply PairInv.ite
      | (apply PairInv.snd; apply PairInv.ite) | apply TripleInv.ite | (apply TripleInv.snd; apply TripleInv.ite)
      | apply Upd.of | simp -iota only [Inv.update, PairInv.mk', TripleInv.mk'] | split
      | refine PairInv.of_eq (by assumption) ?_ | refine TripleInv.of_eq (by assumption) ?_ | dsimp -iota only
      | dsimp only

theorem State.farStore_inv {fm : Nat} {s₀ : State} (s : State) (m slot : Nat) (accs : List Acc)
    (val : Nat → List Byte) (h_s : Inv fm s₀ s) (hm : InSet 13196221202492 fm) :
    Inv fm s₀ (State.farStore s m slot accs val) := by
  delta State.farStore
  repeat' first
    | exact inSet_trans rfl hm
    | with_reducible exact Or.inr rfl
    | exact Or.inl (inSet_trans rfl hm)
    | with_reducible first
      | assumption | (intro) | apply State.range_inv | (apply PairInv.snd; apply State.range_inv)
      | apply State.wantWrite_inv | apply Inv.ite | apply PairInv.ite | (apply PairInv.snd; apply PairInv.ite)
      | apply Inv.foldl | apply Inv.getD | apply Upd.of | simp -iota only [Inv.update, PairInv.mk'] | split
      | refine PairInv.of_eq (by assumption) ?_ | dsimp -iota only | dsimp only

theorem State.doLoads_inv {fm : Nat} {s₀ : State} (m slot n : Nat) (y0 : Nat) (y1 : List Acc) (y2 : Group)
    (y3 : MemOp) (y4 : List Acc) (s : State) (h_s : Inv fm s₀ s) (hm : InSet 13196221202492 fm) :
    QuadInv fm s₀ (State.doLoads m slot n y0 y1 y2 y3 y4 s) := by
  induction y0 generalizing y1 y2 y3 y4 s with
  | zero =>
    rw [State.doLoads]
    repeat' first
      | exact inSet_trans rfl hm
      | with_reducible first
        | assumption | (intro) | apply State.lineLoad_inv | (apply TripleInv.snd; apply State.lineLoad_inv)
        | apply State.farLoad_inv | (apply PairInv.snd; apply State.farLoad_inv) | split | apply Inv.ite
        | simp -iota only [PairInv.mk', QuadInv.mk', TripleInv.mk'] | refine PairInv.of_eq (by assumption) ?_
        | refine QuadInv.of_eq (by assumption) ?_ | refine TripleInv.of_eq (by assumption) ?_ | dsimp -iota only
        | dsimp only
  | succ k ih =>
    cases y1 with
    | nil =>
      rw [State.doLoads]
      repeat' first
        | exact inSet_trans rfl hm
        | with_reducible first
          | assumption | (intro) | apply State.lineLoad_inv | (apply TripleInv.snd; apply State.lineLoad_inv)
          | apply State.farLoad_inv | (apply PairInv.snd; apply State.farLoad_inv) | split | apply Inv.ite
          | simp -iota only [PairInv.mk', QuadInv.mk', TripleInv.mk'] | refine PairInv.of_eq (by assumption) ?_
          | refine QuadInv.of_eq (by assumption) ?_ | refine TripleInv.of_eq (by assumption) ?_ | dsimp -iota only
          | dsimp only
    | cons a as =>
      rw [State.doLoads]
      repeat' first
        | exact inSet_trans rfl hm
        | with_reducible first
          | assumption | (intro) | (apply QuadInv.snd; apply ih) | apply ih | apply State.lineLoad_inv
          | (apply TripleInv.snd; apply State.lineLoad_inv) | apply State.farLoad_inv
          | (apply PairInv.snd; apply State.farLoad_inv) | split | apply Inv.ite
          | simp -iota only [PairInv.mk', QuadInv.mk', TripleInv.mk'] | refine PairInv.of_eq (by assumption) ?_
          | refine QuadInv.of_eq (by assumption) ?_ | refine TripleInv.of_eq (by assumption) ?_ | dsimp -iota only
          | dsimp only

theorem State.doStores_inv {fm : Nat} {s₀ : State} (m slot : Nat) (val : Nat → List Byte) (y0 : Nat) (y1 : List Acc)
    (y2 : MemOp) (y3 : List Acc) (s : State) (h_s : Inv fm s₀ s) (hm : InSet 13196221205564 fm) :
    TripleInv fm s₀ (State.doStores m slot val y0 y1 y2 y3 s) := by
  induction y0 generalizing y1 y2 y3 s with
  | zero =>
    rw [State.doStores]
    repeat' first
      | exact inSet_trans rfl hm
      | with_reducible first
        | assumption | (intro) | apply State.accStore_inv | (apply TripleInv.snd; apply State.accStore_inv)
        | apply State.farStore_inv | split | apply Inv.ite | simp -iota only [TripleInv.mk']
        | refine TripleInv.of_eq (by assumption) ?_ | dsimp -iota only | dsimp only
  | succ k ih =>
    cases y1 with
    | nil =>
      rw [State.doStores]
      repeat' first
        | exact inSet_trans rfl hm
        | with_reducible first
          | assumption | (intro) | apply State.accStore_inv | (apply TripleInv.snd; apply State.accStore_inv)
          | apply State.farStore_inv | split | apply Inv.ite | simp -iota only [TripleInv.mk']
          | refine TripleInv.of_eq (by assumption) ?_ | dsimp -iota only | dsimp only
    | cons a as =>
      rw [State.doStores]
      repeat' first
        | exact inSet_trans rfl hm
        | with_reducible first
          | assumption | (intro) | (apply TripleInv.snd; apply ih) | apply ih | apply State.accStore_inv
          | (apply TripleInv.snd; apply State.accStore_inv) | apply State.farStore_inv | split | apply Inv.ite
          | simp -iota only [TripleInv.mk'] | refine TripleInv.of_eq (by assumption) ?_ | dsimp -iota only
          | dsimp only

theorem State.countLines_inv {fm : Nat} {s₀ : State} (s : State) (m : Nat) (atomic : Bool) (accs : List Acc)
    (h_s : Inv fm s₀ s) (hm : InSet 13196221202492 fm) :
    Inv fm s₀ (State.countLines s m atomic accs) := by
  delta State.countLines
  repeat' first
    | exact inSet_trans rfl hm
    | with_reducible first
      | assumption | (intro) | apply State.bump_inv | apply Inv.ite | split | dsimp -iota only | dsimp only

theorem State.beginMem_inv {fm : Nat} {s₀ : State} (s : State) (m slot : Nat) (g : Group) (l : LaunchJob) (w : Nat)
    (n : Nat) (k : AccKind) (need : Need) (eas : List (Nat × Nat)) (h_s : Inv fm s₀ s) (hm : InSet 13196221210684 fm)
    :
    PairInv fm s₀ (State.beginMem s m slot g l w n k need eas) := by
  delta State.beginMem
  repeat' first
    | exact inSet_trans rfl hm
    | with_reducible exact Or.inr rfl
    | exact Or.inl (inSet_trans rfl hm)
    | with_reducible first
      | assumption | (intro) | apply State.bump_inv | apply State.countLines_inv | apply State.groupFault_inv
      | apply State.groupStall_inv | apply State.spots_inv | (apply TripleInv.snd; apply State.spots_inv)
      | apply Inv.ite | apply PairInv.ite | (apply PairInv.snd; apply PairInv.ite) | apply TripleInv.ite
      | (apply TripleInv.snd; apply TripleInv.ite) | apply Upd.of
      | simp -iota only [Inv.update, PairInv.mk', TripleInv.mk'] | split | refine PairInv.of_eq (by assumption) ?_
      | refine TripleInv.of_eq (by assumption) ?_ | dsimp -iota only | dsimp only

theorem State.endMem_inv {fm : Nat} {s₀ : State} (s : State) (m slot : Nat) (l : LaunchJob) (e : MemEnd) (g : Group)
    (op : MemOp) (h_s : Inv fm s₀ s) (hm : InSet 13196221210684 fm) :
    Inv fm s₀ (State.endMem s m slot l e g op) := by
  delta State.endMem
  repeat' first
    | exact inSet_trans rfl hm
    | with_reducible exact Or.inr rfl
    | exact Or.inl (inSet_trans rfl hm)
    | exact fun _ => rfl
    | with_reducible first
      | assumption | exact memWrite_wf _ _ _ | (intro) | apply State.consume_inv | apply State.groupFault_inv
      | apply State.groupStall_inv | apply State.putGroup_inv | apply Inv.ite | apply Upd.of
      | simp -iota only [Inv.update] | split | dsimp -iota only | dsimp only

theorem State.memInstr_inv {fm : Nat} {s₀ : State} (s : State) (m slot : Nat) (p : Nat → Bool) (collective : Bool)
    (begin' : Group → LaunchJob → Nat → State → Option MemOp × State)
    (pursue : Group → LaunchJob → MemOp → State → State) (h_s : Inv fm s₀ s)
    (h_begin' : ∀ a0 a1 a2 a3, Inv fm s₀ a3 → PairInv fm s₀ (begin' a0 a1 a2 a3))
    (h_pursue : ∀ a0 a1 a2 a3, Inv fm s₀ a3 → Inv fm s₀ (pursue a0 a1 a2 a3)) (hm : InSet 13196221210684 fm) :
    Inv fm s₀ (State.memInstr s m slot p collective begin' pursue) := by
  delta State.memInstr
  repeat' first
    | exact inSet_trans rfl hm
    | with_reducible exact Or.inr rfl
    | exact Or.inl (inSet_trans rfl hm)
    | exact fun _ => rfl
    | with_reducible first
      | assumption | exact memWrite_wf _ _ _ | (intro) | apply State.bump_inv | apply State.groupFault_inv
      | apply State.issueCore_inv | apply h_begin' | (apply PairInv.snd; apply h_begin') | apply h_pursue
      | apply Inv.ite | apply PairInv.ite | (apply PairInv.snd; apply PairInv.ite) | apply Upd.of
      | simp -iota only [Inv.update, PairInv.mk'] | split | refine PairInv.of_eq (by assumption) ?_
      | dsimp -iota only | dsimp only

theorem State.beginLoad_inv {fm : Nat} {s₀ : State} (s : State) (m slot : Nat) (g : Group) (l : LaunchJob) (w : Nat)
    (h_s : Inv fm s₀ s) (hm : InSet 13196221210684 fm) :
    PairInv fm s₀ (State.beginLoad s m slot g l w) := by
  delta State.beginLoad
  repeat' first
    | exact inSet_trans rfl hm
    | with_reducible first
      | assumption | (intro) | apply State.beginMem_inv | (apply PairInv.snd; apply State.beginMem_inv)
      | apply Inv.ite | apply PairInv.ite | (apply PairInv.snd; apply PairInv.ite) | simp -iota only [PairInv.mk']
      | split | refine PairInv.of_eq (by assumption) ?_ | dsimp -iota only | dsimp only

theorem State.beginStore_inv {fm : Nat} {s₀ : State} (s : State) (m slot : Nat) (g : Group) (l : LaunchJob) (w : Nat)
    (h_s : Inv fm s₀ s) (hm : InSet 13196221210684 fm) :
    PairInv fm s₀ (State.beginStore s m slot g l w) := by
  delta State.beginStore
  repeat' first
    | exact inSet_trans rfl hm
    | with_reducible first
      | assumption | (intro) | apply State.beginMem_inv | (apply PairInv.snd; apply State.beginMem_inv)
      | apply Inv.ite | apply PairInv.ite | (apply PairInv.snd; apply PairInv.ite) | simp -iota only [PairInv.mk']
      | split | refine PairInv.of_eq (by assumption) ?_ | dsimp -iota only | dsimp only

theorem State.atomKill_inv {fm : Nat} {s₀ : State} (s : State) (o : Option Nat) (line m slot : Nat)
    (writers : List Nat) (h_s : Inv fm s₀ s) (hm : InSet 16384 fm) :
    Inv fm s₀ (State.atomKill s o line m slot writers) := by
  delta State.atomKill
  repeat' first
    | exact inSet_trans rfl hm
    | with_reducible exact Or.inr rfl
    | exact Or.inl (inSet_trans rfl hm)
    | with_reducible first
      | assumption | (intro) | apply State.killResv_inv | apply Inv.ite | apply Upd.of | simp -iota only [Inv.update]
      | split | dsimp -iota only | dsimp only

theorem State.bankAtomic_inv {fm : Nat} {s₀ : State} (s : State) (m slot m' p n : Nat) (far : FarAtomic)
    (ga : List (AtomAddr × List Nat)) (h_s : Inv fm s₀ s) (hm : InSet 8796093039616 fm) :
    PairInv fm s₀ (State.bankAtomic s m slot m' p n far ga) := by
  delta State.bankAtomic
  repeat' first
    | exact inSet_trans rfl hm
    | with_reducible exact Or.inr rfl
    | exact Or.inl (inSet_trans rfl hm)
    | exact fun _ => rfl
    | with_reducible first
      | assumption | exact locals_wf _ _ (memWrite_wf _ _ _) | exact locals_wf _ [] (fun _ => rfl) | (intro)
      | apply State.atomKill_inv | apply Inv.ite | apply PairInv.ite | (apply PairInv.snd; apply PairInv.ite)
      | apply Upd.of | simp -iota only [Inv.update, PairInv.mk'] | split | refine PairInv.of_eq (by assumption) ?_
      | dsimp -iota only | dsimp only

theorem State.lineAtomic_inv {fm : Nat} {s₀ : State} (s : State) (m slot : Nat) (g : Group) (op : MemOp)
    (accs : List Acc) (h_s : Inv fm s₀ s) (hm : InSet 13196221203516 fm) :
    TripleInv fm s₀ (State.lineAtomic s m slot g op accs) := by
  delta State.lineAtomic
  repeat' first
    | exact inSet_trans rfl hm
    | with_reducible exact Or.inr rfl
    | exact Or.inl (inSet_trans rfl hm)
    | with_reducible first
      | assumption | (intro) | apply State.atomKill_inv | apply State.bankAtomic_inv
      | (apply PairInv.snd; apply State.bankAtomic_inv) | apply State.bump_inv | apply State.onAgent_inv
      | apply State.ownLine_inv | (apply PairInv.snd; apply State.ownLine_inv) | apply State.predict_inv
      | apply State.setTx_inv | apply State.startTx_inv | apply State.takeLanded_inv | apply State.want_inv
      | apply Inv.ite | apply PairInv.ite | (apply PairInv.snd; apply PairInv.ite) | apply TripleInv.ite
      | (apply TripleInv.snd; apply TripleInv.ite) | apply Upd.of
      | simp -iota only [Inv.update, PairInv.mk', TripleInv.mk'] | split | refine PairInv.of_eq (by assumption) ?_
      | refine TripleInv.of_eq (by assumption) ?_ | dsimp -iota only | dsimp only

theorem State.doAtomics_inv {fm : Nat} {s₀ : State} (m slot : Nat) (y0 : List Nat) (y1 : Group) (y2 : MemOp)
    (s : State) (h_s : Inv fm s₀ s) (hm : InSet 13196221203516 fm) :
    QuadInv fm s₀ (State.doAtomics m slot y0 y1 y2 s) := by
  induction y0 generalizing y1 y2 s with
  | nil =>
    unfold State.doAtomics
    try dsimp -iota only
    repeat' first
      | exact inSet_trans rfl hm
      | with_reducible exact Or.inr rfl
      | exact Or.inl (inSet_trans rfl hm)
      | with_reducible first
        | assumption | (intro) | apply State.lineAtomic_inv | (apply TripleInv.snd; apply State.lineAtomic_inv)
        | apply Inv.ite | apply TripleInv.ite | (apply TripleInv.snd; apply TripleInv.ite) | apply QuadInv.ite
        | (apply QuadInv.snd; apply QuadInv.ite) | apply Upd.of
        | simp -iota only [Inv.update, TripleInv.mk', QuadInv.mk'] | split
        | refine TripleInv.of_eq (by assumption) ?_ | refine QuadInv.of_eq (by assumption) ?_ | dsimp -iota only
        | dsimp only
  | cons x xs ih =>
    unfold State.doAtomics
    try dsimp -iota only
    repeat' first
      | exact inSet_trans rfl hm
      | with_reducible exact Or.inr rfl
      | exact Or.inl (inSet_trans rfl hm)
      | with_reducible first
        | assumption | (intro) | (apply QuadInv.snd; apply ih) | apply ih | apply State.lineAtomic_inv
        | (apply TripleInv.snd; apply State.lineAtomic_inv) | apply Inv.ite | apply TripleInv.ite
        | (apply TripleInv.snd; apply TripleInv.ite) | apply QuadInv.ite | (apply QuadInv.snd; apply QuadInv.ite)
        | apply Upd.of | simp -iota only [Inv.update, TripleInv.mk', QuadInv.mk'] | split
        | refine TripleInv.of_eq (by assumption) ?_ | refine QuadInv.of_eq (by assumption) ?_ | dsimp -iota only
        | dsimp only

theorem State.atomicInstr_inv {fm : Nat} {s₀ : State} (s : State) (m slot : Nat) (p : Nat → Bool) (h_s : Inv fm s₀ s)
    (hm : InSet 13196221211708 fm) :
    Inv fm s₀ (State.atomicInstr s m slot p) := by
  delta State.atomicInstr
  repeat' first
    | exact inSet_trans rfl hm
    | with_reducible first
      | assumption | (intro) | apply State.beginMem_inv | (apply PairInv.snd; apply State.beginMem_inv)
      | apply State.doAtomics_inv | (apply QuadInv.snd; apply State.doAtomics_inv) | apply State.endMem_inv
      | apply State.memInstr_inv | apply Inv.ite | apply PairInv.ite | (apply PairInv.snd; apply PairInv.ite)
      | apply QuadInv.ite | (apply QuadInv.snd; apply QuadInv.ite) | simp -iota only [PairInv.mk', QuadInv.mk']
      | split | refine PairInv.of_eq (by assumption) ?_ | refine QuadInv.of_eq (by assumption) ?_ | dsimp -iota only
      | dsimp only

theorem State.dropResv_inv {fm : Nat} {s₀ : State} (s : State) (m slot t : Nat) (h_s : Inv fm s₀ s)
    (hm : InSet 16384 fm) :
    Inv fm s₀ (State.dropResv s m slot t) := by
  delta State.dropResv
  repeat' first
    | exact inSet_trans rfl hm
    | with_reducible exact Or.inr rfl
    | exact Or.inl (inSet_trans rfl hm)
    | with_reducible first
      | assumption | (intro) | apply Inv.ite | apply Upd.of | simp -iota only [Inv.update] | split | dsimp -iota only
      | dsimp only

theorem State.takeResv_inv {fm : Nat} {s₀ : State} (s : State) (m slot t : Nat) (sp : Spot) (h_s : Inv fm s₀ s)
    (hm : InSet 16384 fm) :
    Inv fm s₀ (State.takeResv s m slot t sp) := by
  delta State.takeResv
  repeat' first
    | exact inSet_trans rfl hm
    | with_reducible exact Or.inr rfl
    | exact Or.inl (inSet_trans rfl hm)
    | with_reducible first
      | assumption | (intro) | apply State.dropResv_inv | apply Inv.ite | apply Upd.of | simp -iota only [Inv.update]
      | split | dsimp -iota only | dsimp only

theorem State.doLr_inv {fm : Nat} {s₀ : State} (m slot n : Nat) (y0 : Nat) (y1 : List Acc) (y2 : Group) (y3 : MemOp)
    (y4 : List Acc) (s : State) (h_s : Inv fm s₀ s) (hm : InSet 13196221202492 fm) :
    QuadInv fm s₀ (State.doLr m slot n y0 y1 y2 y3 y4 s) := by
  have hl : ∀ (a : Acc) (bs : List Byte) (w : Nat) (r : Group × State), Inv fm s₀ r.2 →
      Inv fm s₀ (State.lrDone m slot n a bs w r).2 :=
    fun _ _ _ _ h => State.takeResv_inv _ _ _ _ _ h (inSet_trans rfl hm)
  have hf : ∀ (l : List (Acc × List Byte)) (w : Nat) (r : Group × State), Inv fm s₀ r.2 →
      Inv fm s₀ (l.foldl (fun (r : Group × State) x => State.lrDone m slot n x.1 x.2 w r) r).2 := by
    intro l w
    induction l with
    | nil => exact fun _ h => h
    | cons x l ih => exact fun r h => ih _ (hl _ _ _ _ h)
  induction y0 generalizing y1 y2 y3 y4 s with
  | zero =>
    rw [State.doLr]
    repeat' first
      | exact inSet_trans rfl hm
      | with_reducible first
        | assumption | (intro) | apply State.lineLoad_inv | (apply TripleInv.snd; apply State.lineLoad_inv)
        | apply State.farLoad_inv | (apply PairInv.snd; apply State.farLoad_inv) | apply State.lrDone_inv
        | (apply PairInv.snd; apply State.lrDone_inv) | apply hf | apply hl | split | apply Inv.ite
        | simp -iota only [PairInv.mk', QuadInv.mk', TripleInv.mk'] | refine PairInv.of_eq (by assumption) ?_
        | refine QuadInv.of_eq (by assumption) ?_ | refine TripleInv.of_eq (by assumption) ?_ | dsimp -iota only
        | dsimp only
  | succ k ih =>
    cases y1 with
    | nil =>
      rw [State.doLr]
      repeat' first
        | exact inSet_trans rfl hm
        | with_reducible first
          | assumption | (intro) | apply State.lineLoad_inv | (apply TripleInv.snd; apply State.lineLoad_inv)
          | apply State.farLoad_inv | (apply PairInv.snd; apply State.farLoad_inv) | apply State.lrDone_inv
          | (apply PairInv.snd; apply State.lrDone_inv) | apply hf | apply hl | split | apply Inv.ite
          | simp -iota only [PairInv.mk', QuadInv.mk', TripleInv.mk'] | refine PairInv.of_eq (by assumption) ?_
          | refine QuadInv.of_eq (by assumption) ?_ | refine TripleInv.of_eq (by assumption) ?_ | dsimp -iota only
          | dsimp only
    | cons a as =>
      rw [State.doLr]
      repeat' first
        | exact inSet_trans rfl hm
        | with_reducible first
          | assumption | (intro) | (apply QuadInv.snd; apply ih) | apply ih | apply State.lineLoad_inv
          | (apply TripleInv.snd; apply State.lineLoad_inv) | apply State.farLoad_inv
          | (apply PairInv.snd; apply State.farLoad_inv) | apply State.lrDone_inv
          | (apply PairInv.snd; apply State.lrDone_inv) | apply hf | apply hl | split | apply Inv.ite
          | simp -iota only [PairInv.mk', QuadInv.mk', TripleInv.mk'] | refine PairInv.of_eq (by assumption) ?_
          | refine QuadInv.of_eq (by assumption) ?_ | refine TripleInv.of_eq (by assumption) ?_ | dsimp -iota only
          | dsimp only

theorem State.doSc_inv {fm : Nat} {s₀ : State} (m slot n : Nat) (y0 : List Acc) (y1 : Group) (y2 : MemOp)
    (y3 : List Acc) (s : State) (h_s : Inv fm s₀ s) (hm : InSet 13196221205564 fm) :
    QuadInv fm s₀ (State.doSc m slot n y0 y1 y2 y3 s) := by
  induction y0 generalizing y1 y2 y3 s with
  | nil =>
    unfold State.doSc
    try dsimp -iota only
    repeat' first
      | exact inSet_trans rfl hm
      | with_reducible exact Or.inr rfl
      | exact Or.inl (inSet_trans rfl hm)
      | with_reducible first
        | assumption | (intro) | apply State.accStore_inv | (apply TripleInv.snd; apply State.accStore_inv)
        | apply State.dropResv_inv | apply Inv.ite | apply TripleInv.ite | (apply TripleInv.snd; apply TripleInv.ite)
        | apply QuadInv.ite | (apply QuadInv.snd; apply QuadInv.ite) | apply Upd.of
        | simp -iota only [Inv.update, TripleInv.mk', QuadInv.mk'] | split
        | refine TripleInv.of_eq (by assumption) ?_ | refine QuadInv.of_eq (by assumption) ?_ | dsimp -iota only
        | dsimp only
  | cons x xs ih =>
    unfold State.doSc
    try dsimp -iota only
    repeat' first
      | exact inSet_trans rfl hm
      | with_reducible exact Or.inr rfl
      | exact Or.inl (inSet_trans rfl hm)
      | with_reducible first
        | assumption | (intro) | (apply QuadInv.snd; apply ih) | apply ih | apply State.accStore_inv
        | (apply TripleInv.snd; apply State.accStore_inv) | apply State.dropResv_inv | apply Inv.ite
        | apply TripleInv.ite | (apply TripleInv.snd; apply TripleInv.ite) | apply QuadInv.ite
        | (apply QuadInv.snd; apply QuadInv.ite) | apply Upd.of
        | simp -iota only [Inv.update, TripleInv.mk', QuadInv.mk'] | split
        | refine TripleInv.of_eq (by assumption) ?_ | refine QuadInv.of_eq (by assumption) ?_ | dsimp -iota only
        | dsimp only

theorem State.startBlock_inv {fm : Nat} {s₀ : State} (s : State) (m : Nat) (l : LaunchJob) (h_s : Inv fm s₀ s)
    (hm : InSet 13196221210684 fm) :
    Inv fm s₀ (State.startBlock s m l) := by
  delta State.startBlock
  repeat' first
    | exact inSet_trans rfl hm
    | with_reducible exact Or.inr rfl
    | exact Or.inl (inSet_trans rfl hm)
    | with_reducible first
      | assumption | (intro) | apply State.range_inv | (apply PairInv.snd; apply State.range_inv)
      | apply State.setNdl_inv | apply State.showNdl_inv | apply Inv.ite | apply PairInv.ite
      | (apply PairInv.snd; apply PairInv.ite) | apply Inv.foldl | apply Upd.of
      | simp -iota only [Inv.update, PairInv.mk'] | split | refine PairInv.of_eq (by assumption) ?_
      | dsimp -iota only | dsimp only

theorem State.completeLaunch_inv {fm : Nat} {s₀ : State} (s : State) (m : Nat) (l : LaunchJob) (h_s : Inv fm s₀ s)
    (hm : InSet 13196221211708 fm) :
    Inv fm s₀ (State.completeLaunch s m l) := by
  delta State.completeLaunch
  repeat' first
    | exact inSet_trans rfl hm
    | with_reducible exact Or.inr rfl
    | exact Or.inl (inSet_trans rfl hm)
    | with_reducible first
      | assumption | (intro) | apply State.setNdl_inv | apply State.showNdl_inv | apply State.writeCompletion_inv
      | apply Inv.ite | apply Inv.foldl | apply Inv.getD | apply Upd.of | simp -iota only [Inv.update] | split
      | dsimp -iota only | dsimp only

theorem State.launchAccept_inv {fm : Nat} {s₀ : State} (s : State) (m desc asid : Nat) (fromList : Bool)
    (h_s : Inv fm s₀ s) (hm : InSet 8192 fm) :
    Inv fm s₀ (State.launchAccept s m desc asid fromList) := by
  delta State.launchAccept
  repeat' first
    | exact inSet_trans rfl hm
    | with_reducible exact Or.inr rfl
    | exact Or.inl (inSet_trans rfl hm)
    | with_reducible first
      | assumption | (intro) | apply State.setNdl_inv | apply Inv.ite | apply Upd.of | simp -iota only [Inv.update]
      | split | dsimp -iota only | dsimp only

theorem State.release_inv {fm : Nat} {s₀ : State} (s : State) (m b : Nat) (w : GroupWait) (h_s : Inv fm s₀ s)
    (hm : InSet 13196221210684 fm) :
    Inv fm s₀ (State.release s m b w) := by
  delta State.release
  repeat' first
    | exact inSet_trans rfl hm
    | with_reducible exact Or.inr rfl
    | exact Or.inl (inSet_trans rfl hm)
    | with_reducible first
      | assumption | (intro) | apply State.bump_inv | apply State.setNdl_inv | apply State.showNdl_inv
      | apply Inv.ite | apply Inv.foldl | apply Upd.of | simp -iota only [Inv.update] | split | dsimp -iota only
      | dsimp only

theorem State.exitGroup_inv {fm : Nat} {s₀ : State} (s : State) (m slot : Nat) (g : Group) (h_s : Inv fm s₀ s)
    (hm : InSet 13196221210684 fm) :
    Inv fm s₀ (State.exitGroup s m slot g) := by
  delta State.exitGroup
  repeat' first
    | exact inSet_trans rfl hm
    | with_reducible exact Or.inr rfl
    | exact Or.inl (inSet_trans rfl hm)
    | with_reducible first
      | assumption | (intro) | apply State.bump_inv | apply State.onLaunch_inv | apply State.putGroup_inv
      | apply Inv.ite | apply Upd.of | simp -iota only [Inv.update] | split | dsimp -iota only | dsimp only

end Sys2Proof.Machine
end

