-- ==== Sys2Proof/Laws/InvQueueOps.lean ====
section
/-!
SUPPORT. Laws/InvQueueOps.lean: the operations of Machine/QueueOps.lean write only the fields named, and keep memories canonical.
-/

set_option simprocs false
set_option linter.unusedSimpArgs false
set_option linter.unusedVariables false

namespace Sys2Proof.Machine

theorem State.setQueue_inv {fm : Nat} {s₀ : State} (s : State) (q : Nat) (x : Queue) (h_s : Inv fm s₀ s)
    (hm : InSet 1073741824 fm) :
    Inv fm s₀ (State.setQueue s q x) := by
  delta State.setQueue
  repeat' first
    | exact inSet_trans rfl hm
    | with_reducible exact Or.inr rfl
    | exact Or.inl (inSet_trans rfl hm)
    | with_reducible first
      | assumption | (intro) | apply Inv.ite | apply Upd.of | simp -iota only [Inv.update] | split | dsimp -iota only
      | dsimp only

theorem State.onQueue_inv {fm : Nat} {s₀ : State} (s : State) (q : Nat) (f : Queue → Queue) (h_s : Inv fm s₀ s)
    (hm : InSet 1073741824 fm) :
    Inv fm s₀ (State.onQueue s q f) := by
  delta State.onQueue
  repeat' first
    | exact inSet_trans rfl hm
    | with_reducible first
      | assumption | (intro) | apply State.setQueue_inv | apply Inv.ite | split | dsimp -iota only | dsimp only

theorem State.setCring_inv {fm : Nat} {s₀ : State} (s : State) (r : Nat) (x : CRing) (h_s : Inv fm s₀ s)
    (hm : InSet 1073741824 fm) :
    Inv fm s₀ (State.setCring s r x) := by
  delta State.setCring
  repeat' first
    | exact inSet_trans rfl hm
    | with_reducible exact Or.inr rfl
    | exact Or.inl (inSet_trans rfl hm)
    | with_reducible first
      | assumption | (intro) | apply Inv.ite | apply Upd.of | simp -iota only [Inv.update] | split | dsimp -iota only
      | dsimp only

theorem State.putEntry'_inv {fm : Nat} {s₀ : State} (s : State) (rid entry : Nat) (h_s : Inv fm s₀ s)
    (hm : InSet 13196221202492 fm) :
    Inv fm s₀ (State.putEntry' s rid entry) := by
  delta State.putEntry'
  repeat' first
    | exact inSet_trans rfl hm
    | with_reducible exact Or.inr rfl
    | exact Or.inl (inSet_trans rfl hm)
    | with_reducible first
      | assumption | (intro) | apply State.notify_inv | apply State.raise_inv | apply State.ringWrite_inv
      | apply State.setCring_inv | apply Inv.ite | apply Upd.of | simp -iota only [Inv.update] | split
      | dsimp -iota only | dsimp only

theorem State.postEntry_inv {fm : Nat} {s₀ : State} (s : State) (rid entry : Nat) (h_s : Inv fm s₀ s)
    (hm : InSet 13196221202492 fm) :
    Inv fm s₀ (State.postEntry s rid entry) := by
  delta State.postEntry
  repeat' first
    | exact inSet_trans rfl hm
    | with_reducible exact Or.inr rfl
    | exact Or.inl (inSet_trans rfl hm)
    | with_reducible first
      | assumption | (intro) | apply State.bump_inv | apply State.putEntry'_inv | apply State.setCring_inv
      | apply State.setFld_inv | apply Inv.ite | apply Upd.of | simp -iota only [Inv.update] | split
      | dsimp -iota only | dsimp only

theorem State.drainHeld_inv {fm : Nat} {s₀ : State} (rid : Nat) (y0 : Nat) (s : State) (h_s : Inv fm s₀ s)
    (hm : InSet 13196221202492 fm) :
    Inv fm s₀ (State.drainHeld rid y0 s) := by
  induction y0 generalizing s with
  | zero =>
    unfold State.drainHeld
    try dsimp -iota only
    repeat' first
      | exact inSet_trans rfl hm
      | with_reducible exact Or.inr rfl
      | exact Or.inl (inSet_trans rfl hm)
      | with_reducible first
        | assumption | (intro) | apply State.putEntry'_inv | apply State.setCring_inv | apply Inv.ite | apply Upd.of
        | simp -iota only [Inv.update] | split | dsimp -iota only | dsimp only
  | succ n ih =>
    unfold State.drainHeld
    try dsimp -iota only
    repeat' first
      | exact inSet_trans rfl hm
      | with_reducible exact Or.inr rfl
      | exact Or.inl (inSet_trans rfl hm)
      | with_reducible first
        | assumption | (intro) | apply ih | apply State.putEntry'_inv | apply State.setCring_inv | apply Inv.ite
        | apply Upd.of | simp -iota only [Inv.update] | split | dsimp -iota only | dsimp only

theorem State.showLost_inv {fm : Nat} {s₀ : State} (s : State) (h_s : Inv fm s₀ s) (hm : InSet 13196221202492 fm) :
    Inv fm s₀ (State.showLost s) := by
  delta State.showLost
  repeat' first
    | exact inSet_trans rfl hm
    | with_reducible first
      | assumption | (intro) | apply State.range_inv | (apply PairInv.snd; apply State.range_inv)
      | apply State.setFlds_inv | apply Inv.ite | apply PairInv.ite | (apply PairInv.snd; apply PairInv.ite)
      | simp -iota only [PairInv.mk'] | split | refine PairInv.of_eq (by assumption) ?_ | dsimp -iota only
      | dsimp only

theorem State.lostEntry_inv {fm : Nat} {s₀ : State} (s : State) (entry : Nat) (h_s : Inv fm s₀ s)
    (hm : InSet 13196221202492 fm) :
    Inv fm s₀ (State.lostEntry s entry) := by
  delta State.lostEntry
  repeat' first
    | exact inSet_trans rfl hm
    | with_reducible exact Or.inr rfl
    | exact Or.inl (inSet_trans rfl hm)
    | with_reducible first
      | assumption | (intro) | apply State.bump_inv | apply State.setFld_inv | apply State.showLost_inv
      | apply Inv.ite | apply Upd.of | simp -iota only [Inv.update] | split | dsimp -iota only | dsimp only

theorem State.complete_inv {fm : Nat} {s₀ : State} (s : State) (qid : Nat) (c : QCmd) (status row rank : Nat)
    (h_s : Inv fm s₀ s) (hm : InSet 13196221202492 fm) :
    Inv fm s₀ (State.complete s qid c status row rank) := by
  delta State.complete
  repeat' first
    | exact inSet_trans rfl hm
    | with_reducible exact Or.inr rfl
    | exact Or.inl (inSet_trans rfl hm)
    | with_reducible first
      | assumption | (intro) | apply State.bump_inv | apply State.lostEntry_inv | apply State.mover_inv
      | apply State.onQueue_inv | apply State.postEntry_inv | apply Inv.ite | apply Upd.of
      | simp -iota only [Inv.update] | split | dsimp -iota only | dsimp only

theorem State.onCmd_inv {fm : Nat} {s₀ : State} (s : State) (qid idx : Nat) (f : QCmd → QCmd) (h_s : Inv fm s₀ s)
    (hm : InSet 1073741824 fm) :
    Inv fm s₀ (State.onCmd s qid idx f) := by
  delta State.onCmd
  repeat' first
    | exact inSet_trans rfl hm
    | with_reducible exact Or.inr rfl
    | exact Or.inl (inSet_trans rfl hm)
    | with_reducible first
      | assumption | (intro) | apply State.onQueue_inv | apply Inv.ite | apply Upd.of | simp -iota only [Inv.update]
      | split | dsimp -iota only | dsimp only

theorem State.setRun_inv {fm : Nat} {s₀ : State} (s : State) (qid idx : Nat) (r : CmdRun) (h_s : Inv fm s₀ s)
    (hm : InSet 1073741824 fm) :
    Inv fm s₀ (State.setRun s qid idx r) := by
  delta State.setRun
  repeat' first
    | exact inSet_trans rfl hm
    | with_reducible exact Or.inr rfl
    | exact Or.inl (inSet_trans rfl hm)
    | with_reducible first
      | assumption | (intro) | apply State.onCmd_inv | apply Inv.ite | apply Upd.of | simp -iota only [Inv.update]
      | split | dsimp -iota only | dsimp only

theorem State.askFetch_inv {fm : Nat} {s₀ : State} (s : State) (qid : Nat) (h_s : Inv fm s₀ s)
    (hm : InSet 536870912 fm) :
    Inv fm s₀ (State.askFetch s qid) := by
  delta State.askFetch
  repeat' first
    | exact inSet_trans rfl hm
    | with_reducible first
      | assumption | (intro) | apply State.send_inv | apply Inv.ite | split | dsimp -iota only | dsimp only

theorem State.fetchAgain_inv {fm : Nat} {s₀ : State} (s : State) (h_s : Inv fm s₀ s) (hm : InSet 1610612736 fm) :
    Inv fm s₀ (State.fetchAgain s) := by
  delta State.fetchAgain
  repeat' first
    | exact inSet_trans rfl hm
    | with_reducible exact Or.inr rfl
    | exact Or.inl (inSet_trans rfl hm)
    | with_reducible first
      | assumption | (intro) | apply State.askFetch_inv | apply Inv.ite | apply Inv.foldl | apply Upd.of
      | simp -iota only [Inv.update] | split | dsimp -iota only | dsimp only

theorem State.doorbell_inv {fm : Nat} {s₀ : State} (s : State) (qid v : Nat) (h_s : Inv fm s₀ s)
    (hm : InSet 13196221202492 fm) :
    Inv fm s₀ (State.doorbell s qid v) := by
  delta State.doorbell
  repeat' first
    | exact inSet_trans rfl hm
    | with_reducible exact Or.inr rfl
    | exact Or.inl (inSet_trans rfl hm)
    | with_reducible first
      | assumption | (intro) | apply State.askFetch_inv | apply State.bump_inv | apply State.raise_inv
      | apply State.setFld_inv | apply State.setQueue_inv | apply Inv.ite | apply Upd.of
      | simp -iota only [Inv.update] | split | dsimp -iota only | dsimp only

theorem State.acceptCmd_inv {fm : Nat} {s₀ : State} (s : State) (qid bytes : Nat) (poisoned : Bool)
    (h_s : Inv fm s₀ s) (hm : InSet 13196221202492 fm) :
    Inv fm s₀ (State.acceptCmd s qid bytes poisoned) := by
  delta State.acceptCmd
  repeat' first
    | exact inSet_trans rfl hm
    | with_reducible exact Or.inr rfl
    | exact Or.inl (inSet_trans rfl hm)
    | with_reducible first
      | assumption | (intro) | apply State.askFetch_inv | apply State.complete_inv | apply State.setQueue_inv
      | apply Inv.ite | apply Upd.of | simp -iota only [Inv.update] | split | dsimp -iota only | dsimp only

theorem State.headBytes_inv {fm : Nat} {s₀ : State} (s : State) (qid : Nat) (data : Nat) (h_s : Inv fm s₀ s)
    (hm : InSet 13196221202492 fm) :
    PairInv fm s₀ (State.headBytes s qid data) := by
  delta State.headBytes
  repeat' first
    | exact inSet_trans rfl hm
    | with_reducible first
      | assumption | (intro) | apply State.poolRead_inv | (apply TripleInv.snd; apply State.poolRead_inv)
      | apply Inv.ite | apply PairInv.ite | (apply PairInv.snd; apply PairInv.ite) | apply TripleInv.ite
      | (apply TripleInv.snd; apply TripleInv.ite) | simp -iota only [PairInv.mk', TripleInv.mk'] | split
      | refine PairInv.of_eq (by assumption) ?_ | refine TripleInv.of_eq (by assumption) ?_ | dsimp -iota only
      | dsimp only

theorem State.cmdFault_inv {fm : Nat} {s₀ : State} (s : State) (qid : Nat) (c : QCmd)
    (page cause level pte pa access : Nat) (h_s : Inv fm s₀ s) (hm : InSet 13196221202492 fm) :
    Inv fm s₀ (State.cmdFault s qid c page cause level pte pa access) := by
  delta State.cmdFault
  repeat' first
    | exact inSet_trans rfl hm
    | with_reducible exact Or.inr rfl
    | exact Or.inl (inSet_trans rfl hm)
    | with_reducible first
      | assumption | (intro) | apply State.onCmd_inv | apply State.sendFault_inv | apply Inv.ite | apply Upd.of
      | simp -iota only [Inv.update] | split | dsimp -iota only | dsimp only

theorem State.takeTransit_inv {fm : Nat} {s₀ : State} (s : State) (m qid idx : Nat) (h_s : Inv fm s₀ s)
    (hm : InSet 1073741824 fm) :
    OptPairInv fm s₀ (State.takeTransit s m qid idx) := by
  delta State.takeTransit
  repeat' first
    | exact inSet_trans rfl hm
    | with_reducible exact Or.inr rfl
    | exact Or.inl (inSet_trans rfl hm)
    | with_reducible first
      | assumption | (intro) | apply Inv.ite | apply OptPairInv.ite | apply OptPairInv.none | apply OptPairInv.some
      | apply Upd.of | simp -iota only [Inv.update] | split | refine OptPairInv.of_eq (by assumption) ?_
      | dsimp -iota only | dsimp only

theorem State.stitchResult_inv {fm : Nat} {s₀ : State} (s : State) (x : Stitch) (st : Nat) (h_s : Inv fm s₀ s)
    (hm : InSet 1073741824 fm) :
    Inv fm s₀ (State.stitchResult s x st) := by
  delta State.stitchResult
  repeat' first
    | exact inSet_trans rfl hm
    | with_reducible exact Or.inr rfl
    | exact Or.inl (inSet_trans rfl hm)
    | with_reducible first
      | assumption | (intro) | apply State.onCmd_inv | apply Inv.ite | apply Upd.of | simp -iota only [Inv.update]
      | split | dsimp -iota only | dsimp only

theorem State.setRunning_inv {fm : Nat} {s₀ : State} (s : State) (m : Nat) (f : Admitted → Admitted)
    (h_s : Inv fm s₀ s) (hm : InSet 17179869184 fm) :
    Inv fm s₀ (State.setRunning s m f) := by
  delta State.setRunning
  repeat' first
    | exact inSet_trans rfl hm
    | with_reducible exact Or.inr rfl
    | exact Or.inl (inSet_trans rfl hm)
    | with_reducible first
      | assumption | (intro) | apply State.onSched_inv | apply Inv.ite | apply Upd.of | simp -iota only [Inv.update]
      | split | dsimp -iota only | dsimp only

theorem State.stopQueue_inv {fm : Nat} {s₀ : State} (s : State) (qid : Nat) (h_s : Inv fm s₀ s)
    (hm : InSet 13196221202492 fm) :
    Inv fm s₀ (State.stopQueue s qid) := by
  delta State.stopQueue
  repeat' first
    | exact inSet_trans rfl hm
    | with_reducible exact Or.inr rfl
    | exact Or.inl (inSet_trans rfl hm)
    | with_reducible first
      | assumption | (intro) | apply State.complete_inv | apply State.setQueue_inv | apply Inv.ite | apply Inv.foldl
      | apply Upd.of | simp -iota only [Inv.update] | split | dsimp -iota only | dsimp only

theorem State.hostData_inv {fm : Nat} {s₀ : State} (s : State) (addr : Nat) (bs : List Byte) (ep : Bool)
    (h_s : Inv fm s₀ s) (hm : InSet 13196221202492 fm) :
    Inv fm s₀ (State.hostData s addr bs ep) := by
  delta State.hostData
  repeat' first
    | exact inSet_trans rfl hm
    | with_reducible first
      | assumption | (intro) | apply State.bump_inv | apply State.hostWrite_inv | apply State.setFld_inv
      | apply Inv.ite | split | dsimp -iota only | dsimp only

theorem State.sendFlush_inv {fm : Nat} {s₀ : State} (s : State) (qid idx last status : Nat) (h_s : Inv fm s₀ s)
    (hm : InSet 13196221202492 fm) :
    Inv fm s₀ (State.sendFlush s qid idx last status) := by
  delta State.sendFlush
  repeat' first
    | exact inSet_trans rfl hm
    | with_reducible first
      | assumption | (intro) | apply State.bump_inv | apply State.send_inv | apply State.setRun_inv | apply Inv.ite
      | split | dsimp -iota only | dsimp only

theorem State.segsWriteWith_inv {fm : Nat} {s₀ : State} (ask : Nat) (ep : Bool) (hint : Option Nat) (y0 : Nat)
    (y1 : List (Nat × Nat × Nat)) (y2 : List Byte) (s : State) (h_s : Inv fm s₀ s) (hm : InSet 13196221205564 fm) :
    Inv fm s₀ (State.segsWriteWith ask ep hint y0 y1 y2 s) := by
  induction y1 generalizing y0 y2 s with
  | nil =>
    unfold State.segsWriteWith
    try dsimp -iota only
    repeat' first
      | exact inSet_trans rfl hm
      | with_reducible exact Or.inr rfl
      | exact Or.inl (inSet_trans rfl hm)
      | with_reducible first
        | assumption | (intro) | apply State.physWrite_inv | apply State.range_inv
        | (apply PairInv.snd; apply State.range_inv) | apply State.wantWrite_inv | apply Inv.ite | apply PairInv.ite
        | (apply PairInv.snd; apply PairInv.ite) | apply Upd.of | simp -iota only [Inv.update, PairInv.mk'] | split
        | refine PairInv.of_eq (by assumption) ?_ | dsimp -iota only | dsimp only
  | cons x xs ih =>
    unfold State.segsWriteWith
    try dsimp -iota only
    repeat' first
      | exact inSet_trans rfl hm
      | with_reducible exact Or.inr rfl
      | exact Or.inl (inSet_trans rfl hm)
      | with_reducible first
        | assumption | (intro) | apply ih | apply State.physWrite_inv | apply State.range_inv
        | (apply PairInv.snd; apply State.range_inv) | apply State.wantWrite_inv | apply Inv.ite | apply PairInv.ite
        | (apply PairInv.snd; apply PairInv.ite) | apply Upd.of | simp -iota only [Inv.update, PairInv.mk'] | split
        | refine PairInv.of_eq (by assumption) ?_ | dsimp -iota only | dsimp only

theorem State.copyStep_inv {fm : Nat} {s₀ : State} (s : State) (qid : Nat) (c : QCmd) (done : Nat)
    (page last : Option Nat) (h_s : Inv fm s₀ s) (hm : InSet 13196221202492 fm) :
    Inv fm s₀ (State.copyStep s qid c done page last) := by
  delta State.copyStep
  repeat' first
    | exact inSet_trans rfl hm
    | with_reducible exact Or.inr rfl
    | exact Or.inl (inSet_trans rfl hm)
    | with_reducible first
      | assumption | (intro) | apply State.cmdFault_inv | apply State.complete_inv | apply State.hostData_inv
      | apply State.range_inv | (apply PairInv.snd; apply State.range_inv) | apply State.send_inv
      | apply State.sendFlush_inv | apply State.setRun_inv | apply State.vaRead_inv
      | (apply PairInv.snd; apply State.vaRead_inv) | apply Inv.ite | apply PairInv.ite
      | (apply PairInv.snd; apply PairInv.ite) | apply Upd.of | simp -iota only [Inv.update, PairInv.mk'] | split
      | refine PairInv.of_eq (by assumption) ?_ | dsimp -iota only | dsimp only

theorem State.copyData_inv {fm : Nat} {s₀ : State} (s : State) (qid : Nat) (c : QCmd) (done : Nat)
    (page last : Option Nat) (w : HostWant) (bs : List Byte) (ep : Bool) (h_s : Inv fm s₀ s)
    (hm : InSet 13196221205564 fm) :
    Inv fm s₀ (State.copyData s qid c done page last w bs ep) := by
  delta State.copyData
  repeat' first
    | exact inSet_trans rfl hm
    | with_reducible exact Or.inr rfl
    | exact Or.inl (inSet_trans rfl hm)
    | with_reducible first
      | assumption | (intro) | apply State.bump_inv | apply State.cmdFault_inv | apply State.range_inv
      | (apply PairInv.snd; apply State.range_inv) | apply State.segsWriteWith_inv | apply State.setFld_inv
      | apply State.setRun_inv | apply Inv.ite | apply PairInv.ite | (apply PairInv.snd; apply PairInv.ite)
      | apply Upd.of | simp -iota only [Inv.update, PairInv.mk'] | split | refine PairInv.of_eq (by assumption) ?_
      | dsimp -iota only | dsimp only

theorem State.dropLeaves_inv {fm : Nat} {s₀ : State} (s : State) (leaf : TlbLeaf → Bool) (step : WalkStep → Bool)
    (h_s : Inv fm s₀ s) (hm : InSet 134217728 fm) :
    Inv fm s₀ (State.dropLeaves s leaf step) := by
  delta State.dropLeaves
  repeat' first
    | exact inSet_trans rfl hm
    | with_reducible exact Or.inr rfl
    | exact Or.inl (inSet_trans rfl hm)
    | with_reducible first
      | assumption | (intro) | apply Inv.ite | apply Upd.of | simp -iota only [Inv.update] | split | dsimp -iota only
      | dsimp only

theorem State.findEntry_inv {fm : Nat} {s₀ : State} (va : Nat) (y0 : Nat) (y1 : Nat) (s : State) (h_s : Inv fm s₀ s)
    (hm : InSet 13196221202492 fm) :
    PairInv fm s₀ (State.findEntry va y0 y1 s) := by
  induction y0 generalizing y1 s with
  | zero =>
    unfold State.findEntry
    try dsimp -iota only
    repeat' first
      | exact inSet_trans rfl hm
      | with_reducible exact Or.inr rfl
      | exact Or.inl (inSet_trans rfl hm)
      | with_reducible first
        | assumption | (intro) | apply State.walkRead_inv | (apply PairInv.snd; apply State.walkRead_inv)
        | apply Inv.ite | apply PairInv.ite | (apply PairInv.snd; apply PairInv.ite) | apply Upd.of
        | simp -iota only [Inv.update, PairInv.mk'] | split | refine PairInv.of_eq (by assumption) ?_
        | dsimp -iota only | dsimp only
  | succ n ih =>
    unfold State.findEntry
    try dsimp -iota only
    repeat' first
      | exact inSet_trans rfl hm
      | with_reducible exact Or.inr rfl
      | exact Or.inl (inSet_trans rfl hm)
      | with_reducible first
        | assumption | (intro) | (apply PairInv.snd; apply ih) | apply ih | apply State.walkRead_inv
        | (apply PairInv.snd; apply State.walkRead_inv) | apply Inv.ite | apply PairInv.ite
        | (apply PairInv.snd; apply PairInv.ite) | apply Upd.of | simp -iota only [Inv.update, PairInv.mk'] | split
        | refine PairInv.of_eq (by assumption) ?_ | dsimp -iota only | dsimp only

theorem State.pageEntry_inv {fm : Nat} {s₀ : State} (s : State) (asid va : Nat) (h_s : Inv fm s₀ s)
    (hm : InSet 13196221202492 fm) :
    PairInv fm s₀ (State.pageEntry s asid va) := by
  delta State.pageEntry
  repeat' first
    | exact inSet_trans rfl hm
    | with_reducible exact Or.inr rfl
    | exact Or.inl (inSet_trans rfl hm)
    | with_reducible first
      | assumption | (intro) | apply State.findEntry_inv | (apply PairInv.snd; apply State.findEntry_inv)
      | apply State.walkRead_inv | (apply PairInv.snd; apply State.walkRead_inv) | apply Inv.ite | apply PairInv.ite
      | (apply PairInv.snd; apply PairInv.ite) | apply Upd.of | simp -iota only [Inv.update, PairInv.mk'] | split
      | refine PairInv.of_eq (by assumption) ?_ | dsimp -iota only | dsimp only

theorem State.listEntry_inv {fm : Nat} {s₀ : State} (s : State) (a : Nat) (h_s : Inv fm s₀ s)
    (hm : InSet 13196221202492 fm) :
    PairInv fm s₀ (State.listEntry s a) := by
  delta State.listEntry
  repeat' first
    | exact inSet_trans rfl hm
    | with_reducible first
      | assumption | (intro) | apply State.poolRead_inv | (apply TripleInv.snd; apply State.poolRead_inv)
      | apply Inv.ite | apply PairInv.ite | (apply PairInv.snd; apply PairInv.ite) | apply TripleInv.ite
      | (apply TripleInv.snd; apply TripleInv.ite) | simp -iota only [PairInv.mk', TripleInv.mk'] | split
      | refine PairInv.of_eq (by assumption) ?_ | refine TripleInv.of_eq (by assumption) ?_ | dsimp -iota only
      | dsimp only

theorem State.putEntries_inv {fm : Nat} {s₀ : State} (s : State) (addr : Nat) (es : List Nat) (h_s : Inv fm s₀ s)
    (hm : InSet 13196221202492 fm) :
    Inv fm s₀ (State.putEntries s addr es) := by
  delta State.putEntries
  repeat' first
    | exact inSet_trans rfl hm
    | with_reducible first
      | assumption | (intro) | apply State.poolWrite_inv | apply Inv.ite | split | dsimp -iota only | dsimp only

theorem State.moverEnd_inv {fm : Nat} {s₀ : State} (s : State) (qid : Nat) (c : QCmd) (x : Moved) (status : Nat)
    (h_s : Inv fm s₀ s) (hm : InSet 13196221202492 fm) :
    Inv fm s₀ (State.moverEnd s qid c x status) := by
  delta State.moverEnd
  repeat' first
    | exact inSet_trans rfl hm
    | with_reducible exact Or.inr rfl
    | exact Or.inl (inSet_trans rfl hm)
    | with_reducible first
      | assumption | (intro) | apply State.complete_inv | apply State.poolWrite_inv | apply State.sendFlush_inv
      | apply Inv.ite | apply Upd.of | simp -iota only [Inv.update] | split | dsimp -iota only | dsimp only

theorem State.moverStart_inv {fm : Nat} {s₀ : State} (s : State) (qid : Nat) (c : QCmd) (h_s : Inv fm s₀ s)
    (hm : InSet 13196221202492 fm) :
    Inv fm s₀ (State.moverStart s qid c) := by
  delta State.moverStart
  repeat' first
    | exact inSet_trans rfl hm
    | with_reducible exact Or.inr rfl
    | exact Or.inl (inSet_trans rfl hm)
    | with_reducible first
      | assumption | (intro) | apply State.complete_inv | apply State.mover_inv | apply State.setRun_inv
      | apply Inv.ite | apply Upd.of | simp -iota only [Inv.update] | split | dsimp -iota only | dsimp only

theorem State.prefetchLeaf_inv {fm : Nat} {s₀ : State} (s : State) (qid : Nat) (c : QCmd) (x : Moved) (want : Bool)
    (data : List Byte) (h_s : Inv fm s₀ s) (hm : InSet 13196221202492 fm) :
    Inv fm s₀ (State.prefetchLeaf s qid c x want data) := by
  delta State.prefetchLeaf
  repeat' first
    | exact inSet_trans rfl hm
    | with_reducible exact Or.inr rfl
    | exact Or.inl (inSet_trans rfl hm)
    | with_reducible first
      | assumption | (intro) | apply State.bump_inv | apply State.listEntry_inv
      | (apply PairInv.snd; apply State.listEntry_inv) | apply State.moverEnd_inv | apply State.pageEntry_inv
      | (apply PairInv.snd; apply State.pageEntry_inv) | apply State.poolRead_inv
      | (apply TripleInv.snd; apply State.poolRead_inv) | apply State.poolWrite_inv | apply State.putEntries_inv
      | apply State.range_inv | (apply PairInv.snd; apply State.range_inv) | apply State.sendAll_inv
      | apply State.setRun_inv | apply Inv.ite | apply PairInv.ite | (apply PairInv.snd; apply PairInv.ite)
      | apply TripleInv.ite | (apply TripleInv.snd; apply TripleInv.ite) | apply Inv.getD | apply Upd.of
      | simp -iota only [Inv.update, PairInv.mk', TripleInv.mk'] | split | refine PairInv.of_eq (by assumption) ?_
      | refine TripleInv.of_eq (by assumption) ?_ | dsimp -iota only | dsimp only

theorem State.evictLeaf_inv {fm : Nat} {s₀ : State} (s : State) (qid : Nat) (c : QCmd) (x : Moved) (copy ok : Bool)
    (h_s : Inv fm s₀ s) (hm : InSet 13196221202492 fm) :
    Inv fm s₀ (State.evictLeaf s qid c x copy ok) := by
  delta State.evictLeaf
  repeat' first
    | exact inSet_trans rfl hm
    | with_reducible exact Or.inr rfl
    | exact Or.inl (inSet_trans rfl hm)
    | with_reducible first
      | assumption | (intro) | apply State.bump_inv | apply State.dropLeaves_inv | apply State.hostData_inv
      | apply State.moverEnd_inv | apply State.pageEntry_inv | (apply PairInv.snd; apply State.pageEntry_inv)
      | apply State.poolRead_inv | (apply TripleInv.snd; apply State.poolRead_inv) | apply State.putEntries_inv
      | apply State.range_inv | (apply PairInv.snd; apply State.range_inv) | apply State.setRun_inv | apply Inv.ite
      | apply PairInv.ite | (apply PairInv.snd; apply PairInv.ite) | apply TripleInv.ite
      | (apply TripleInv.snd; apply TripleInv.ite) | apply Inv.foldl | apply Inv.getD | apply Upd.of
      | simp -iota only [Inv.update, PairInv.mk', TripleInv.mk'] | split | refine PairInv.of_eq (by assumption) ?_
      | refine TripleInv.of_eq (by assumption) ?_ | dsimp -iota only | dsimp only

theorem State.warmLeaf_inv {fm : Nat} {s₀ : State} (s : State) (qid : Nat) (c : QCmd) (x : Moved) (h_s : Inv fm s₀ s)
    (hm : InSet 13196221202492 fm) :
    Inv fm s₀ (State.warmLeaf s qid c x) := by
  delta State.warmLeaf
  repeat' first
    | exact inSet_trans rfl hm
    | with_reducible exact Or.inr rfl
    | exact Or.inl (inSet_trans rfl hm)
    | with_reducible first
      | assumption | (intro) | apply State.moverEnd_inv | apply State.pageEntry_inv
      | (apply PairInv.snd; apply State.pageEntry_inv) | apply State.setRun_inv | apply State.setTlb_inv
      | apply Inv.ite | apply PairInv.ite | (apply PairInv.snd; apply PairInv.ite) | apply Inv.foldl | apply Inv.getD
      | apply Upd.of | simp -iota only [Inv.update, PairInv.mk'] | split | refine PairInv.of_eq (by assumption) ?_
      | dsimp -iota only | dsimp only

theorem State.refuseHost_inv {fm : Nat} {s₀ : State} (s : State) (bar2 write : Bool) (off : Nat) (h_s : Inv fm s₀ s)
    (hm : InSet 13196221202492 fm) :
    Inv fm s₀ (State.refuseHost s bar2 write off) := by
  delta State.refuseHost
  repeat' first
    | exact inSet_trans rfl hm
    | with_reducible first
      | assumption | (intro) | apply State.bump_inv | apply State.raisePerRow_inv | apply State.setFld_inv
      | apply State.setFlds_inv | apply Inv.ite | split | dsimp -iota only | dsimp only

end Sys2Proof.Machine
end

