-- ==== Sys2Proof/Laws/InvSkeinOps.lean ====
section
/-!
SUPPORT. Laws/InvSkeinOps.lean: the operations of Machine/SkeinOps.lean write only the fields named, and keep memories canonical.
-/

set_option simprocs false
set_option linter.unusedSimpArgs false
set_option linter.unusedVariables false

namespace Sys2Proof.Machine

theorem State.setStream_inv {fm : Nat} {s₀ : State} (s : State) (k : Nat) (x : Stream) (h_s : Inv fm s₀ s)
    (hm : InSet 2147483648 fm) :
    Inv fm s₀ (State.setStream s k x) := by
  delta State.setStream
  repeat' first
    | exact inSet_trans rfl hm
    | with_reducible exact Or.inr rfl
    | exact Or.inl (inSet_trans rfl hm)
    | with_reducible first
      | assumption | (intro) | apply Inv.ite | apply Upd.of | simp -iota only [Inv.update] | split | dsimp -iota only
      | dsimp only

theorem State.takeCells_inv {fm : Nat} {s₀ : State} (s : State) (y0 : Nat) (h_s : Inv fm s₀ s)
    (hm : InSet 8796093022208 fm) :
    PairInv fm s₀ (State.takeCells s y0) := by
  induction y0 generalizing s with
  | zero =>
    unfold State.takeCells
    try dsimp -iota only
    repeat' first
      | exact inSet_trans rfl hm
      | with_reducible first
        | assumption | (intro) | apply State.takeFree_inv | (apply PairInv.snd; apply State.takeFree_inv)
        | apply Inv.ite | apply PairInv.ite | (apply PairInv.snd; apply PairInv.ite) | simp -iota only [PairInv.mk']
        | split | refine PairInv.of_eq (by assumption) ?_ | dsimp -iota only | dsimp only
  | succ n ih =>
    unfold State.takeCells
    try dsimp -iota only
    repeat' first
      | exact inSet_trans rfl hm
      | with_reducible first
        | assumption | (intro) | (apply PairInv.snd; apply ih) | apply ih | apply State.takeFree_inv
        | (apply PairInv.snd; apply State.takeFree_inv) | apply Inv.ite | apply PairInv.ite
        | (apply PairInv.snd; apply PairInv.ite) | simp -iota only [PairInv.mk'] | split
        | refine PairInv.of_eq (by assumption) ?_ | dsimp -iota only | dsimp only

theorem State.putFooter_inv {fm : Nat} {s₀ : State} (s : State) (c next stream j gen : Nat) (h_s : Inv fm s₀ s)
    (hm : InSet 13196221202492 fm) :
    Inv fm s₀ (State.putFooter s c next stream j gen) := by
  delta State.putFooter
  repeat' first
    | exact inSet_trans rfl hm
    | with_reducible first
      | assumption | (intro) | apply State.poolWrite_inv | apply Inv.ite | split | dsimp -iota only | dsimp only

theorem State.followLink_inv {fm : Nat} {s₀ : State} (s : State) (stream gen c j : Nat) (h_s : Inv fm s₀ s)
    (hm : InSet 13196221202492 fm) :
    PairInv fm s₀ (State.followLink s stream gen c j) := by
  delta State.followLink
  repeat' first
    | exact inSet_trans rfl hm
    | with_reducible first
      | assumption | (intro) | apply State.bump_inv | apply State.consume_inv | apply State.poolRead_inv
      | (apply TripleInv.snd; apply State.poolRead_inv) | apply Inv.ite | apply PairInv.ite
      | (apply PairInv.snd; apply PairInv.ite) | apply TripleInv.ite | (apply TripleInv.snd; apply TripleInv.ite)
      | simp -iota only [PairInv.mk', TripleInv.mk'] | split | refine PairInv.of_eq (by assumption) ?_
      | refine TripleInv.of_eq (by assumption) ?_ | dsimp -iota only | dsimp only

theorem State.followLinks_inv {fm : Nat} {s₀ : State} (stream gen : Nat) (y0 : Nat) (y1 : Nat) (y2 : Nat) (s : State)
    (h_s : Inv fm s₀ s) (hm : InSet 13196221202492 fm) :
    PairInv fm s₀ (State.followLinks stream gen y0 y1 y2 s) := by
  induction y0 generalizing y1 y2 s with
  | zero =>
    unfold State.followLinks
    try dsimp -iota only
    repeat' first
      | exact inSet_trans rfl hm
      | with_reducible exact Or.inr rfl
      | exact Or.inl (inSet_trans rfl hm)
      | with_reducible first
        | assumption | (intro) | apply State.followLink_inv | (apply PairInv.snd; apply State.followLink_inv)
        | apply Inv.ite | apply PairInv.ite | (apply PairInv.snd; apply PairInv.ite) | apply Upd.of
        | simp -iota only [Inv.update, PairInv.mk'] | split | refine PairInv.of_eq (by assumption) ?_
        | dsimp -iota only | dsimp only
  | succ n ih =>
    unfold State.followLinks
    try dsimp -iota only
    repeat' first
      | exact inSet_trans rfl hm
      | with_reducible exact Or.inr rfl
      | exact Or.inl (inSet_trans rfl hm)
      | with_reducible first
        | assumption | (intro) | (apply PairInv.snd; apply ih) | apply ih | apply State.followLink_inv
        | (apply PairInv.snd; apply State.followLink_inv) | apply Inv.ite | apply PairInv.ite
        | (apply PairInv.snd; apply PairInv.ite) | apply Upd.of | simp -iota only [Inv.update, PairInv.mk'] | split
        | refine PairInv.of_eq (by assumption) ?_ | dsimp -iota only | dsimp only

theorem State.cellsBetween_inv {fm : Nat} {s₀ : State} (s : State) (k : Nat) (x : Stream) (lo hi : Nat)
    (h_s : Inv fm s₀ s) (hm : InSet 13196221202492 fm) :
    PairInv fm s₀ (State.cellsBetween s k x lo hi) := by
  delta State.cellsBetween
  repeat' first
    | exact inSet_trans rfl hm
    | with_reducible exact Or.inr rfl
    | exact Or.inl (inSet_trans rfl hm)
    | with_reducible first
      | assumption | (intro) | apply State.followLinks_inv | (apply PairInv.snd; apply State.followLinks_inv)
      | apply Inv.ite | apply PairInv.ite | (apply PairInv.snd; apply PairInv.ite) | apply Upd.of
      | simp -iota only [Inv.update, PairInv.mk'] | split | refine PairInv.of_eq (by assumption) ?_
      | dsimp -iota only | dsimp only

theorem State.publishLow_inv {fm : Nat} {s₀ : State} (s : State) (k : Nat) (h_s : Inv fm s₀ s)
    (hm : InSet 2147483648 fm) :
    Inv fm s₀ (State.publishLow s k) := by
  delta State.publishLow
  repeat' first
    | exact inSet_trans rfl hm
    | with_reducible exact Or.inr rfl
    | exact Or.inl (inSet_trans rfl hm)
    | with_reducible first
      | assumption | (intro) | apply State.setStream_inv | apply Inv.ite | apply Upd.of
      | simp -iota only [Inv.update] | split | dsimp -iota only | dsimp only

theorem State.breakStream_inv {fm : Nat} {s₀ : State} (s : State) (k : Nat) (h_s : Inv fm s₀ s)
    (hm : InSet 13198368686140 fm) :
    Inv fm s₀ (State.breakStream s k) := by
  delta State.breakStream
  repeat' first
    | exact inSet_trans rfl hm
    | with_reducible exact Or.inr rfl
    | exact Or.inl (inSet_trans rfl hm)
    | with_reducible first
      | assumption | (intro) | apply State.raise_inv | apply State.setFld_inv | apply State.setStream_inv
      | apply Inv.ite | apply Upd.of | simp -iota only [Inv.update] | split | dsimp -iota only | dsimp only

theorem State.dropCells_inv {fm : Nat} {s₀ : State} (s : State) (k n : Nat) (h_s : Inv fm s₀ s)
    (hm : InSet 13198368686140 fm) :
    Inv fm s₀ (State.dropCells s k n) := by
  delta State.dropCells
  repeat' first
    | exact inSet_trans rfl hm
    | with_reducible exact Or.inr rfl
    | exact Or.inl (inSet_trans rfl hm)
    | with_reducible first
      | assumption | (intro) | apply State.bump_inv | apply State.setStream_inv | apply Inv.ite | apply Upd.of
      | simp -iota only [Inv.update] | split | dsimp -iota only | dsimp only

theorem State.skOpen_inv {fm : Nat} {s₀ : State} (s : State) (d asid : Nat) (h_s : Inv fm s₀ s)
    (hm : InSet 2147500032 fm) :
    PairInv fm s₀ (State.skOpen s d asid) := by
  delta State.skOpen
  repeat' first
    | exact inSet_trans rfl hm
    | with_reducible exact Or.inr rfl
    | exact Or.inl (inSet_trans rfl hm)
    | with_reducible first
      | assumption | (intro) | apply State.setStream_inv | apply Inv.ite | apply PairInv.ite
      | (apply PairInv.snd; apply PairInv.ite) | apply Upd.of | simp -iota only [Inv.update, PairInv.mk'] | split
      | refine PairInv.of_eq (by assumption) ?_ | dsimp -iota only | dsimp only

theorem State.skAppend_inv {fm : Nat} {s₀ : State} (s : State) (d : Nat) (h_s : Inv fm s₀ s)
    (hm : InSet 13198368686140 fm) :
    PairInv fm s₀ (State.skAppend s d) := by
  delta State.skAppend
  repeat' first
    | exact inSet_trans rfl hm
    | with_reducible exact Or.inr rfl
    | exact Or.inl (inSet_trans rfl hm)
    | with_reducible first
      | assumption | (intro) | apply State.breakStream_inv | apply State.bump_inv | apply State.cellsBetween_inv
      | (apply PairInv.snd; apply State.cellsBetween_inv) | apply State.putFooter_inv | apply State.range_inv
      | (apply PairInv.snd; apply State.range_inv) | apply State.setFld_inv | apply State.setStream_inv
      | apply State.takeCells_inv | (apply PairInv.snd; apply State.takeCells_inv) | apply Inv.ite
      | apply PairInv.ite | (apply PairInv.snd; apply PairInv.ite) | apply Inv.foldl | apply Inv.getD | apply Upd.of
      | simp -iota only [Inv.update, PairInv.mk'] | split | refine PairInv.of_eq (by assumption) ?_
      | dsimp -iota only | dsimp only

theorem State.skRead_inv {fm : Nat} {s₀ : State} (s : State) (d : Nat) (h_s : Inv fm s₀ s)
    (hm : InSet 13198368686140 fm) :
    PairInv fm s₀ (State.skRead s d) := by
  delta State.skRead
  repeat' first
    | exact inSet_trans rfl hm
    | with_reducible exact Or.inr rfl
    | exact Or.inl (inSet_trans rfl hm)
    | with_reducible first
      | assumption | (intro) | apply State.breakStream_inv | apply State.cellsBetween_inv
      | (apply PairInv.snd; apply State.cellsBetween_inv) | apply State.setStream_inv | apply Inv.ite
      | apply PairInv.ite | (apply PairInv.snd; apply PairInv.ite) | apply Upd.of
      | simp -iota only [Inv.update, PairInv.mk'] | split | refine PairInv.of_eq (by assumption) ?_
      | dsimp -iota only | dsimp only

theorem State.skMark_inv {fm : Nat} {s₀ : State} (s : State) (d : Nat) (h_s : Inv fm s₀ s) (hm : InSet 2147483648 fm) :
    PairInv fm s₀ (State.skMark s d) := by
  delta State.skMark
  repeat' first
    | exact inSet_trans rfl hm
    | with_reducible exact Or.inr rfl
    | exact Or.inl (inSet_trans rfl hm)
    | with_reducible first
      | assumption | (intro) | apply State.setStream_inv | apply Inv.ite | apply PairInv.ite
      | (apply PairInv.snd; apply PairInv.ite) | apply Upd.of | simp -iota only [Inv.update, PairInv.mk'] | split
      | refine PairInv.of_eq (by assumption) ?_ | dsimp -iota only | dsimp only

theorem State.skRewind_inv {fm : Nat} {s₀ : State} (s : State) (d : Nat) (h_s : Inv fm s₀ s)
    (hm : InSet 2147483648 fm) :
    PairInv fm s₀ (State.skRewind s d) := by
  delta State.skRewind
  repeat' first
    | exact inSet_trans rfl hm
    | with_reducible exact Or.inr rfl
    | exact Or.inl (inSet_trans rfl hm)
    | with_reducible first
      | assumption | (intro) | apply State.setStream_inv | apply Inv.ite | apply PairInv.ite
      | (apply PairInv.snd; apply PairInv.ite) | apply Upd.of | simp -iota only [Inv.update, PairInv.mk'] | split
      | refine PairInv.of_eq (by assumption) ?_ | dsimp -iota only | dsimp only

theorem State.skRelease_inv {fm : Nat} {s₀ : State} (s : State) (d : Nat) (h_s : Inv fm s₀ s)
    (hm : InSet 13198368686140 fm) :
    PairInv fm s₀ (State.skRelease s d) := by
  delta State.skRelease
  repeat' first
    | exact inSet_trans rfl hm
    | with_reducible exact Or.inr rfl
    | exact Or.inl (inSet_trans rfl hm)
    | with_reducible first
      | assumption | (intro) | apply State.breakStream_inv | apply State.dropCells_inv | apply State.followLinks_inv
      | (apply PairInv.snd; apply State.followLinks_inv) | apply State.setStream_inv | apply Inv.ite
      | apply PairInv.ite | (apply PairInv.snd; apply PairInv.ite) | apply Upd.of
      | simp -iota only [Inv.update, PairInv.mk'] | split | refine PairInv.of_eq (by assumption) ?_
      | dsimp -iota only | dsimp only

theorem State.skRetract_inv {fm : Nat} {s₀ : State} (s : State) (d : Nat) (h_s : Inv fm s₀ s)
    (hm : InSet 2147483648 fm) :
    PairInv fm s₀ (State.skRetract s d) := by
  delta State.skRetract
  repeat' first
    | exact inSet_trans rfl hm
    | with_reducible exact Or.inr rfl
    | exact Or.inl (inSet_trans rfl hm)
    | with_reducible first
      | assumption | (intro) | apply State.setStream_inv | apply Inv.ite | apply PairInv.ite
      | (apply PairInv.snd; apply PairInv.ite) | apply Upd.of | simp -iota only [Inv.update, PairInv.mk'] | split
      | refine PairInv.of_eq (by assumption) ?_ | dsimp -iota only | dsimp only

theorem State.skClose_inv {fm : Nat} {s₀ : State} (s : State) (d : Nat) (h_s : Inv fm s₀ s)
    (hm : InSet 13198368686140 fm) :
    PairInv fm s₀ (State.skClose s d) := by
  delta State.skClose
  repeat' first
    | exact inSet_trans rfl hm
    | with_reducible exact Or.inr rfl
    | exact Or.inl (inSet_trans rfl hm)
    | with_reducible first
      | assumption | (intro) | apply State.dropCells_inv | apply State.setStream_inv | apply Inv.ite
      | apply PairInv.ite | (apply PairInv.snd; apply PairInv.ite) | apply Upd.of
      | simp -iota only [Inv.update, PairInv.mk'] | split | refine PairInv.of_eq (by assumption) ?_
      | dsimp -iota only | dsimp only

theorem State.skRun_inv {fm : Nat} {s₀ : State} (s : State) (d asid : Nat) (h_s : Inv fm s₀ s)
    (hm : InSet 13198368686140 fm) :
    PairInv fm s₀ (State.skRun s d asid) := by
  delta State.skRun
  repeat' first
    | exact inSet_trans rfl hm
    | with_reducible exact Or.inr rfl
    | exact Or.inl (inSet_trans rfl hm)
    | with_reducible first
      | assumption | (intro) | apply State.skAppend_inv | (apply PairInv.snd; apply State.skAppend_inv)
      | apply State.skClose_inv | (apply PairInv.snd; apply State.skClose_inv) | apply State.skMark_inv
      | (apply PairInv.snd; apply State.skMark_inv) | apply State.skOpen_inv
      | (apply PairInv.snd; apply State.skOpen_inv) | apply State.skRead_inv
      | (apply PairInv.snd; apply State.skRead_inv) | apply State.skRelease_inv
      | (apply PairInv.snd; apply State.skRelease_inv) | apply State.skRetract_inv
      | (apply PairInv.snd; apply State.skRetract_inv) | apply State.skRewind_inv
      | (apply PairInv.snd; apply State.skRewind_inv) | apply Inv.ite | apply PairInv.ite
      | (apply PairInv.snd; apply PairInv.ite) | apply Upd.of | simp -iota only [Inv.update, PairInv.mk'] | split
      | refine PairInv.of_eq (by assumption) ?_ | dsimp -iota only | dsimp only

theorem State.skWrite_inv {fm : Nat} {s₀ : State} (s : State) (o : SkOp) (a : Nat) (bs : List Byte)
    (h_s : Inv fm s₀ s) (hm : InSet 13196221205564 fm) :
    Inv fm s₀ (State.skWrite s o a bs) := by
  delta State.skWrite
  repeat' first
    | exact inSet_trans rfl hm
    | with_reducible exact Or.inr rfl
    | exact Or.inl (inSet_trans rfl hm)
    | with_reducible first
      | assumption | (intro) | apply State.localWrite_inv | apply State.vaWrite_inv
      | (apply PairInv.snd; apply State.vaWrite_inv) | apply Inv.ite | apply PairInv.ite
      | (apply PairInv.snd; apply PairInv.ite) | apply Upd.of | simp -iota only [Inv.update, PairInv.mk'] | split
      | refine PairInv.of_eq (by assumption) ?_ | dsimp -iota only | dsimp only

theorem State.skDone_inv {fm : Nat} {s₀ : State} (s : State) (o : SkOp) (st : Nat) (h_s : Inv fm s₀ s)
    (hm : InSet 13198368687164 fm) :
    Inv fm s₀ (State.skDone s o st) := by
  delta State.skDone
  repeat' first
    | exact inSet_trans rfl hm
    | with_reducible exact Or.inr rfl
    | exact Or.inl (inSet_trans rfl hm)
    | with_reducible first
      | assumption | (intro) | apply State.bump_inv | apply State.complete_inv | apply State.writeCompletion_inv
      | apply Inv.ite | apply Upd.of | simp -iota only [Inv.update] | split | dsimp -iota only | dsimp only

theorem State.skReach_inv {fm : Nat} {s₀ : State} (s : State) (o : SkOp) (h_s : Inv fm s₀ s)
    (hm : InSet 13196221202492 fm) :
    PairInv fm s₀ (State.skReach s o) := by
  delta State.skReach
  repeat' first
    | exact inSet_trans rfl hm
    | with_reducible exact Or.inr rfl
    | exact Or.inl (inSet_trans rfl hm)
    | with_reducible first
      | assumption | (intro) | apply State.range_inv | (apply PairInv.snd; apply State.range_inv) | apply Inv.ite
      | apply PairInv.ite | (apply PairInv.snd; apply PairInv.ite) | apply Upd.of
      | simp -iota only [Inv.update, PairInv.mk'] | split | refine PairInv.of_eq (by assumption) ?_
      | dsimp -iota only | dsimp only

theorem State.skExec_inv {fm : Nat} {s₀ : State} (s : State) (o : SkOp) (h_s : Inv fm s₀ s)
    (hm : InSet 13198368689212 fm) :
    Inv fm s₀ (State.skExec s o) := by
  delta State.skExec
  repeat' first
    | exact inSet_trans rfl hm
    | with_reducible exact Or.inr rfl
    | exact Or.inl (inSet_trans rfl hm)
    | with_reducible first
      | assumption | (intro) | apply State.bump_inv | apply State.publishLow_inv | apply State.sendFault_inv
      | apply State.skDone_inv | apply State.skReach_inv | (apply PairInv.snd; apply State.skReach_inv)
      | apply State.skRun_inv | (apply PairInv.snd; apply State.skRun_inv) | apply State.skWrite_inv | apply Inv.ite
      | apply PairInv.ite | (apply PairInv.snd; apply PairInv.ite) | apply Upd.of
      | simp -iota only [Inv.update, PairInv.mk'] | split | refine PairInv.of_eq (by assumption) ?_
      | dsimp -iota only | dsimp only

theorem State.skArrive_inv {fm : Nat} {s₀ : State} (s : State) (desc asid : Nat) (from' : SkFrom) (h_s : Inv fm s₀ s)
    (hm : InSet 2147483648 fm) :
    Inv fm s₀ (State.skArrive s desc asid from') := by
  delta State.skArrive
  repeat' first
    | exact inSet_trans rfl hm
    | with_reducible exact Or.inr rfl
    | exact Or.inl (inSet_trans rfl hm)
    | with_reducible first
      | assumption | (intro) | apply Inv.ite | apply Upd.of | simp -iota only [Inv.update] | split | dsimp -iota only
      | dsimp only

theorem State.streamLate_inv {fm : Nat} {s₀ : State} (s : State) (k : Nat) (h_s : Inv fm s₀ s)
    (hm : InSet 2147483652 fm) :
    Inv fm s₀ (State.streamLate s k) := by
  delta State.streamLate
  repeat' first
    | exact inSet_trans rfl hm
    | with_reducible exact Or.inr rfl
    | exact Or.inl (inSet_trans rfl hm)
    | with_reducible first
      | assumption | (intro) | apply State.setFld_inv | apply State.setStream_inv | apply Inv.ite | apply Upd.of
      | simp -iota only [Inv.update] | split | dsimp -iota only | dsimp only

end Sys2Proof.Machine
end

