-- ==== Sys2Proof/Laws/InvRowOps.lean ====
section
/-!
SUPPORT. Laws/InvRowOps.lean: the operations of Machine/RowOps.lean write only the fields named, and keep memories canonical.
-/

set_option simprocs false
set_option linter.unusedSimpArgs false
set_option linter.unusedVariables false

namespace Sys2Proof.Machine

theorem State.showRem_inv {fm : Nat} {s₀ : State} (s : State) (m k : Nat) (h_s : Inv fm s₀ s) (hm : InSet 4 fm) :
    Inv fm s₀ (State.showRem s m k) := by
  delta State.showRem
  repeat' first
    | exact inSet_trans rfl hm
    | with_reducible first
      | assumption | (intro) | apply State.setFlds_inv | apply Inv.ite | split | dsimp -iota only | dsimp only

theorem State.addRem_inv {fm : Nat} {s₀ : State} (s : State) (m k : Nat) (cyc uj : Int) (h_s : Inv fm s₀ s)
    (hm : InSet 17179869188 fm) :
    Inv fm s₀ (State.addRem s m k cyc uj) := by
  delta State.addRem
  repeat' first
    | exact inSet_trans rfl hm
    | with_reducible exact Or.inr rfl
    | exact Or.inl (inSet_trans rfl hm)
    | with_reducible first
      | assumption | (intro) | apply State.onSched_inv | apply State.showRem_inv | apply Inv.ite | apply Upd.of
      | simp -iota only [Inv.update] | split | dsimp -iota only | dsimp only

theorem State.settleDebt_inv {fm : Nat} {s₀ : State} (s : State) (m : Nat) (h_s : Inv fm s₀ s)
    (hm : InSet 13213401071676 fm) :
    Inv fm s₀ (State.settleDebt s m) := by
  delta State.settleDebt
  repeat' first
    | exact inSet_trans rfl hm
    | with_reducible exact Or.inr rfl
    | exact Or.inl (inSet_trans rfl hm)
    | with_reducible first
      | assumption | (intro) | apply State.addRem_inv | apply State.bump_inv | apply State.onSched_inv
      | apply State.setSched_inv | apply Inv.ite | apply Upd.of | simp -iota only [Inv.update] | split
      | dsimp -iota only | dsimp only

theorem State.accrue_inv {fm : Nat} {s₀ : State} (s : State) (m : Nat) (h_s : Inv fm s₀ s)
    (hm : InSet 13213401071676 fm) :
    Inv fm s₀ (State.accrue s m) := by
  delta State.accrue
  repeat' first
    | exact inSet_trans rfl hm
    | with_reducible exact Or.inr rfl
    | exact Or.inl (inSet_trans rfl hm)
    | with_reducible first
      | assumption | (intro) | apply State.setSched_inv | apply State.settleDebt_inv | apply Inv.ite | apply Inv.getD
      | apply Upd.of | simp -iota only [Inv.update] | split | dsimp -iota only | dsimp only

theorem State.snapshotRow_inv {fm : Nat} {s₀ : State} (s : State) (m : Nat) (h_s : Inv fm s₀ s)
    (hm : InSet 13196221202492 fm) :
    Inv fm s₀ (State.snapshotRow s m) := by
  delta State.snapshotRow
  repeat' first
    | exact inSet_trans rfl hm
    | with_reducible first
      | assumption | (intro) | apply State.range_inv | (apply PairInv.snd; apply State.range_inv)
      | apply State.setReg_inv | apply Inv.ite | apply PairInv.ite | (apply PairInv.snd; apply PairInv.ite)
      | apply Inv.foldl | simp -iota only [PairInv.mk'] | split | refine PairInv.of_eq (by assumption) ?_
      | dsimp -iota only | dsimp only

theorem State.install_inv {fm : Nat} {s₀ : State} (s : State) (m : Nat) (cut floor : Bool) (eM eRes eBe : Nat)
    (h_s : Inv fm s₀ s) (hm : InSet 13213401071676 fm) :
    Inv fm s₀ (State.install s m cut floor eM eRes eBe) := by
  delta State.install
  repeat' first
    | exact inSet_trans rfl hm
    | with_reducible exact Or.inr rfl
    | exact Or.inl (inSet_trans rfl hm)
    | with_reducible first
      | assumption | (intro) | apply State.accrue_inv | apply State.onSched_inv | apply State.range_inv
      | (apply PairInv.snd; apply State.range_inv) | apply State.setFlds_inv | apply State.settleDebt_inv
      | apply State.showRem_inv | apply Inv.ite | apply PairInv.ite | (apply PairInv.snd; apply PairInv.ite)
      | apply Inv.foldl | apply Upd.of | simp -iota only [Inv.update, PairInv.mk'] | split
      | refine PairInv.of_eq (by assumption) ?_ | dsimp -iota only | dsimp only

theorem State.floorRow_inv {fm : Nat} {s₀ : State} (s : State) (m : Nat) (h_s : Inv fm s₀ s)
    (hm : InSet 13213401071676 fm) :
    Inv fm s₀ (State.floorRow s m) := by
  delta State.floorRow
  repeat' first
    | exact inSet_trans rfl hm
    | with_reducible exact Or.inr rfl
    | exact Or.inl (inSet_trans rfl hm)
    | with_reducible first
      | assumption | (intro) | apply State.bump_inv | apply State.install_inv | apply State.onSched_inv
      | apply Inv.ite | apply Upd.of | simp -iota only [Inv.update] | split | dsimp -iota only | dsimp only

theorem State.headTest_inv {fm : Nat} {s₀ : State} (m : Nat) (y0 : Nat) (s : State) (h_s : Inv fm s₀ s)
    (hm : InSet 18253611008 fm) :
    Inv fm s₀ (State.headTest m y0 s) := by
  induction y0 generalizing s with
  | zero =>
    unfold State.headTest
    try dsimp -iota only
    repeat' first
      | exact inSet_trans rfl hm
      | with_reducible exact Or.inr rfl
      | exact Or.inl (inSet_trans rfl hm)
      | with_reducible first
        | assumption | (intro) | apply State.setSched_inv | apply State.stitchResult_inv | apply Inv.ite
        | apply Upd.of | simp -iota only [Inv.update] | split | dsimp -iota only | dsimp only
  | succ n ih =>
    unfold State.headTest
    try dsimp -iota only
    repeat' first
      | exact inSet_trans rfl hm
      | with_reducible exact Or.inr rfl
      | exact Or.inl (inSet_trans rfl hm)
      | with_reducible first
        | assumption | (intro) | apply ih | apply State.setSched_inv | apply State.stitchResult_inv | apply Inv.ite
        | apply Upd.of | simp -iota only [Inv.update] | split | dsimp -iota only | dsimp only

theorem State.testHeads_inv {fm : Nat} {s₀ : State} (s : State) (m : Nat) (h_s : Inv fm s₀ s)
    (hm : InSet 18253611008 fm) :
    Inv fm s₀ (State.testHeads s m) := by
  delta State.testHeads
  repeat' first
    | exact inSet_trans rfl hm
    | with_reducible first
      | assumption | (intro) | apply State.headTest_inv | apply Inv.ite | split | dsimp -iota only | dsimp only

theorem State.admitOne_inv {fm : Nat} {s₀ : State} (s : State) (m : Nat) (pass : Bool) (x : Stitch)
    (h_s : Inv fm s₀ s) (hm : InSet 13213401071676 fm) :
    Inv fm s₀ (State.admitOne s m pass x) := by
  delta State.admitOne
  repeat' first
    | exact inSet_trans rfl hm
    | with_reducible exact Or.inr rfl
    | exact Or.inl (inSet_trans rfl hm)
    | with_reducible first
      | assumption | (intro) | apply State.addRem_inv | apply State.bump_inv | apply State.onSched_inv
      | apply Inv.ite | apply Upd.of | simp -iota only [Inv.update] | split | dsimp -iota only | dsimp only

theorem State.admitLoop_inv {fm : Nat} {s₀ : State} (m : Nat) (pass : Bool) (y0 : Nat) (y1 : List Nat) (s : State)
    (h_s : Inv fm s₀ s) (hm : InSet 13213401071676 fm) :
    Inv fm s₀ (State.admitLoop m pass y0 y1 s) := by
  induction y0 generalizing y1 s with
  | zero =>
    unfold State.admitLoop
    try dsimp -iota only
    repeat' first
      | exact inSet_trans rfl hm
      | with_reducible exact Or.inr rfl
      | exact Or.inl (inSet_trans rfl hm)
      | with_reducible first
        | assumption | (intro) | apply State.admitOne_inv | apply State.setSched_inv | apply State.testHeads_inv
        | apply Inv.ite | apply Upd.of | simp -iota only [Inv.update] | split | dsimp -iota only | dsimp only
  | succ n ih =>
    unfold State.admitLoop
    try dsimp -iota only
    repeat' first
      | exact inSet_trans rfl hm
      | with_reducible exact Or.inr rfl
      | exact Or.inl (inSet_trans rfl hm)
      | with_reducible first
        | assumption | (intro) | apply ih | apply State.admitOne_inv | apply State.setSched_inv
        | apply State.testHeads_inv | apply Inv.ite | apply Upd.of | simp -iota only [Inv.update] | split
        | dsimp -iota only | dsimp only

theorem State.admission_inv {fm : Nat} {s₀ : State} (s : State) (m : Nat) (pass : Bool) (h_s : Inv fm s₀ s)
    (hm : InSet 13213401071676 fm) :
    Inv fm s₀ (State.admission s m pass) := by
  delta State.admission
  repeat' first
    | exact inSet_trans rfl hm
    | with_reducible first
      | assumption | (intro) | apply State.accrue_inv | apply State.admitLoop_inv | apply State.testHeads_inv
      | apply Inv.ite | split | dsimp -iota only | dsimp only

theorem State.refund_inv {fm : Nat} {s₀ : State} (s : State) (m : Nat) (a : Admitted) (h_s : Inv fm s₀ s)
    (hm : InSet 17179869188 fm) :
    Inv fm s₀ (State.refund s m a) := by
  delta State.refund
  repeat' first
    | exact inSet_trans rfl hm
    | with_reducible first
      | assumption | (intro) | apply State.addRem_inv | apply Inv.ite | split | dsimp -iota only | dsimp only

theorem State.rescale_inv {fm : Nat} {s₀ : State} (s : State) (m : Nat) (a : Admitted) (h_s : Inv fm s₀ s)
    (hm : InSet 13196221202492 fm) :
    Inv fm s₀ (State.rescale s m a) := by
  delta State.rescale
  repeat' first
    | exact inSet_trans rfl hm
    | with_reducible first
      | assumption | (intro) | apply State.raise_inv | apply State.setFlds_inv | apply Inv.ite | split
      | dsimp -iota only | dsimp only

theorem State.governor_inv {fm : Nat} {s₀ : State} (s : State) (eYoke eSeams : Nat) (h_s : Inv fm s₀ s)
    (hm : InSet 13754566950972 fm) :
    Inv fm s₀ (State.governor s eYoke eSeams) := by
  delta State.governor
  repeat' first
    | exact inSet_trans rfl hm
    | with_reducible exact Or.inr rfl
    | exact Or.inl (inSet_trans rfl hm)
    | with_reducible first
      | assumption | (intro) | apply State.raise_inv | apply State.range_inv
      | (apply PairInv.snd; apply State.range_inv) | apply State.setFld_inv | apply Inv.ite | apply PairInv.ite
      | (apply PairInv.snd; apply PairInv.ite) | apply Inv.foldl | apply Inv.getD | apply Upd.of
      | simp -iota only [Inv.update, PairInv.mk'] | split | refine PairInv.of_eq (by assumption) ?_
      | dsimp -iota only | dsimp only

theorem State.chargeSample_inv {fm : Nat} {s₀ : State} (s : State) (m mw tj : Nat) (h_s : Inv fm s₀ s)
    (hm : InSet 13213401071676 fm) :
    Inv fm s₀ (State.chargeSample s m mw tj) := by
  delta State.chargeSample
  repeat' first
    | exact inSet_trans rfl hm
    | with_reducible exact Or.inr rfl
    | exact Or.inl (inSet_trans rfl hm)
    | with_reducible first
      | assumption | (intro) | apply State.accrue_inv | apply State.bump_inv | apply State.setFlds_inv
      | apply State.setSched_inv | apply Inv.ite | apply Upd.of | simp -iota only [Inv.update] | split
      | dsimp -iota only | dsimp only

theorem State.thermal_inv {fm : Nat} {s₀ : State} (s : State) (m tj : Nat) (h_s : Inv fm s₀ s)
    (hm : InSet 13213401071676 fm) :
    Inv fm s₀ (State.thermal s m tj) := by
  delta State.thermal
  repeat' first
    | exact inSet_trans rfl hm
    | with_reducible exact Or.inr rfl
    | exact Or.inl (inSet_trans rfl hm)
    | with_reducible first
      | assumption | (intro) | apply State.raise_inv | apply State.setFld_inv | apply State.setSched_inv
      | apply Inv.ite | apply Upd.of | simp -iota only [Inv.update] | split | dsimp -iota only | dsimp only

theorem State.backstop_inv {fm : Nat} {s₀ : State} (s : State) (m mw : Nat) (h_s : Inv fm s₀ s)
    (hm : InSet 17179869188 fm) :
    Inv fm s₀ (State.backstop s m mw) := by
  delta State.backstop
  repeat' first
    | exact inSet_trans rfl hm
    | with_reducible exact Or.inr rfl
    | exact Or.inl (inSet_trans rfl hm)
    | with_reducible first
      | assumption | (intro) | apply State.setFld_inv | apply State.setSched_inv | apply Inv.ite | apply Upd.of
      | simp -iota only [Inv.update] | split | dsimp -iota only | dsimp only

theorem State.noteBackstop_inv {fm : Nat} {s₀ : State} (s : State) (m : Nat) (h_s : Inv fm s₀ s)
    (hm : InSet 13213401071676 fm) :
    Inv fm s₀ (State.noteBackstop s m) := by
  delta State.noteBackstop
  repeat' first
    | exact inSet_trans rfl hm
    | with_reducible exact Or.inr rfl
    | exact Or.inl (inSet_trans rfl hm)
    | with_reducible first
      | assumption | (intro) | apply State.backstop_inv | apply State.raise_inv | apply State.setSched_inv
      | apply Inv.ite | apply Upd.of | simp -iota only [Inv.update] | split | dsimp -iota only | dsimp only

theorem State.stepTime_inv {fm : Nat} {s₀ : State} (s : State) (step : Int) (h_s : Inv fm s₀ s)
    (hm : InSet 13221999394878 fm) :
    Inv fm s₀ (State.stepTime s step) := by
  delta State.stepTime
  repeat' first
    | exact inSet_trans rfl hm
    | with_reducible exact Or.inr rfl
    | exact Or.inl (inSet_trans rfl hm)
    | with_reducible first
      | assumption | (intro) | apply State.bump_inv | apply State.raise_inv | apply State.setFld_inv | apply Inv.ite
      | apply Upd.of | simp -iota only [Inv.update] | split | dsimp -iota only | dsimp only

end Sys2Proof.Machine
end

