-- ==== Sys2Proof/Laws/InvFaultOps.lean ====
section
/-!
SUPPORT. Laws/InvFaultOps.lean: the operations of Machine/FaultOps.lean write only the fields named, and keep memories canonical.
-/

set_option simprocs false
set_option linter.unusedSimpArgs false
set_option linter.unusedVariables false

namespace Sys2Proof.Machine

theorem State.setEntry_inv {fm : Nat} {s₀ : State} (s : State) (i : Nat) (e : Option CollEntry) (h_s : Inv fm s₀ s)
    (hm : InSet 134217728 fm) :
    Inv fm s₀ (State.setEntry s i e) := by
  delta State.setEntry
  repeat' first
    | exact inSet_trans rfl hm
    | with_reducible exact Or.inr rfl
    | exact Or.inl (inSet_trans rfl hm)
    | with_reducible first
      | assumption | (intro) | apply Inv.ite | apply Upd.of | simp -iota only [Inv.update] | split | dsimp -iota only
      | dsimp only

theorem State.putFault_inv {fm : Nat} {s₀ : State} (s : State) (i : Nat) (h_s : Inv fm s₀ s)
    (hm : InSet 13196221202492 fm) :
    Inv fm s₀ (State.putFault s i) := by
  delta State.putFault
  repeat' first
    | exact inSet_trans rfl hm
    | with_reducible exact Or.inr rfl
    | exact Or.inl (inSet_trans rfl hm)
    | with_reducible first
      | assumption | (intro) | apply State.bump_inv | apply State.notify_inv | apply State.ringWrite_inv
      | apply State.setEntry_inv | apply State.setFld_inv | apply Inv.ite | apply Upd.of
      | simp -iota only [Inv.update] | split | dsimp -iota only | dsimp only

theorem State.drainFaults_inv {fm : Nat} {s₀ : State} (y0 : Nat) (s : State) (h_s : Inv fm s₀ s)
    (hm : InSet 13196221202492 fm) :
    Inv fm s₀ (State.drainFaults y0 s) := by
  induction y0 generalizing s with
  | zero =>
    unfold State.drainFaults
    try dsimp -iota only
    repeat' first
      | exact inSet_trans rfl hm
      | with_reducible exact Or.inr rfl
      | exact Or.inl (inSet_trans rfl hm)
      | with_reducible first
        | assumption | (intro) | apply State.putFault_inv | apply Inv.ite | apply Upd.of
        | simp -iota only [Inv.update] | split | dsimp -iota only | dsimp only
  | succ n ih =>
    unfold State.drainFaults
    try dsimp -iota only
    repeat' first
      | exact inSet_trans rfl hm
      | with_reducible exact Or.inr rfl
      | exact Or.inl (inSet_trans rfl hm)
      | with_reducible first
        | assumption | (intro) | apply ih | apply State.putFault_inv | apply Inv.ite | apply Upd.of
        | simp -iota only [Inv.update] | split | dsimp -iota only | dsimp only

theorem State.faultRingFull_inv {fm : Nat} {s₀ : State} (s : State) (h_s : Inv fm s₀ s) (hm : InSet 13196221202492 fm) :
    Inv fm s₀ (State.faultRingFull s) := by
  delta State.faultRingFull
  repeat' first
    | exact inSet_trans rfl hm
    | with_reducible exact Or.inr rfl
    | exact Or.inl (inSet_trans rfl hm)
    | with_reducible first
      | assumption | (intro) | apply State.raise_inv | apply State.setFld_inv | apply Inv.ite | apply Upd.of
      | simp -iota only [Inv.update] | split | dsimp -iota only | dsimp only

theorem State.fringGo_inv {fm : Nat} {s₀ : State} (s : State) (h_s : Inv fm s₀ s) (hm : InSet 13196221202492 fm) :
    Inv fm s₀ (State.fringGo s) := by
  delta State.fringGo
  repeat' first
    | exact inSet_trans rfl hm
    | with_reducible first
      | assumption | (intro) | apply State.drainFaults_inv | apply State.faultRingFull_inv | apply Inv.ite | split
      | dsimp -iota only | dsimp only

theorem State.showTu_inv {fm : Nat} {s₀ : State} (s : State) (h_s : Inv fm s₀ s) (hm : InSet 4 fm) :
    Inv fm s₀ (State.showTu s) := by
  delta State.showTu
  repeat' first
    | exact inSet_trans rfl hm
    | with_reducible first
      | assumption | (intro) | apply State.setFlds_inv | apply Inv.ite | split | dsimp -iota only | dsimp only

theorem State.collect_inv {fm : Nat} {s₀ : State} (s : State) (f : FaultInfo) (h_s : Inv fm s₀ s)
    (hm : InSet 13196221202492 fm) :
    Inv fm s₀ (State.collect s f) := by
  delta State.collect
  repeat' first
    | exact inSet_trans rfl hm
    | with_reducible exact Or.inr rfl
    | exact Or.inl (inSet_trans rfl hm)
    | with_reducible first
      | assumption | (intro) | apply State.bump_inv | apply State.range_inv
      | (apply PairInv.snd; apply State.range_inv) | apply State.setEntry_inv | apply State.setFld_inv
      | apply State.takeFree_inv | (apply PairInv.snd; apply State.takeFree_inv) | apply Inv.ite | apply PairInv.ite
      | (apply PairInv.snd; apply PairInv.ite) | apply Inv.getD | apply Upd.of
      | simp -iota only [Inv.update, PairInv.mk'] | split | refine PairInv.of_eq (by assumption) ?_
      | dsimp -iota only | dsimp only

theorem State.takeHeld_inv {fm : Nat} {s₀ : State} (s : State) (h_s : Inv fm s₀ s) (hm : InSet 13196221202492 fm) :
    Inv fm s₀ (State.takeHeld s) := by
  delta State.takeHeld
  repeat' first
    | exact inSet_trans rfl hm
    | with_reducible exact Or.inr rfl
    | exact Or.inl (inSet_trans rfl hm)
    | with_reducible first
      | assumption | (intro) | apply State.collect_inv | apply Inv.ite | apply Inv.foldl | apply Upd.of
      | simp -iota only [Inv.update] | split | dsimp -iota only | dsimp only

theorem State.freeEntry_inv {fm : Nat} {s₀ : State} (s : State) (i : Nat) (h_s : Inv fm s₀ s)
    (hm : InSet 13196221202492 fm) :
    Inv fm s₀ (State.freeEntry s i) := by
  delta State.freeEntry
  repeat' first
    | exact inSet_trans rfl hm
    | with_reducible exact Or.inr rfl
    | exact Or.inl (inSet_trans rfl hm)
    | with_reducible first
      | assumption | (intro) | apply State.showTu_inv | apply State.takeHeld_inv | apply Inv.ite | apply Upd.of
      | simp -iota only [Inv.update] | split | dsimp -iota only | dsimp only

theorem State.dropAgents_inv {fm : Nat} {s₀ : State} (s : State) (gone : Agent → Bool) (h_s : Inv fm s₀ s)
    (hm : InSet 13196221202492 fm) :
    Inv fm s₀ (State.dropAgents s gone) := by
  delta State.dropAgents
  repeat' first
    | exact inSet_trans rfl hm
    | with_reducible exact Or.inr rfl
    | exact Or.inl (inSet_trans rfl hm)
    | with_reducible first
      | assumption | (intro) | apply State.freeEntry_inv | apply State.range_inv
      | (apply PairInv.snd; apply State.range_inv) | apply State.setEntry_inv | apply State.showTu_inv
      | apply Inv.ite | apply PairInv.ite | (apply PairInv.snd; apply PairInv.ite) | apply Inv.foldl | apply Upd.of
      | simp -iota only [Inv.update, PairInv.mk'] | split | refine PairInv.of_eq (by assumption) ?_
      | dsimp -iota only | dsimp only

theorem State.resumeAgent_inv {fm : Nat} {s₀ : State} (s : State) (a : Agent) (h_s : Inv fm s₀ s)
    (hm : InSet 13215548569660 fm) :
    Inv fm s₀ (State.resumeAgent s a) := by
  delta State.resumeAgent
  repeat' first
    | exact inSet_trans rfl hm
    | with_reducible exact Or.inr rfl
    | exact Or.inl (inSet_trans rfl hm)
    | with_reducible first
      | assumption | (intro) | apply State.onCmd_inv | apply State.putGroup_inv | apply State.putVe_inv
      | apply State.setArray_inv | apply State.setRunning_inv | apply State.showArray_inv | apply Inv.ite
      | apply Upd.of | simp -iota only [Inv.update] | split | dsimp -iota only | dsimp only

theorem State.abortAgent_inv {fm : Nat} {s₀ : State} (s : State) (status : Nat) (a : Agent) (h_s : Inv fm s₀ s)
    (hm : InSet 13215548570684 fm) :
    Inv fm s₀ (State.abortAgent s status a) := by
  delta State.abortAgent
  repeat' first
    | exact inSet_trans rfl hm
    | with_reducible exact Or.inr rfl
    | exact Or.inl (inSet_trans rfl hm)
    | with_reducible first
      | assumption | (intro) | apply State.complete_inv | apply State.groupFault_inv | apply State.psumWaited_inv
      | apply State.putVe_inv | apply State.setArray_inv | apply State.setRunning_inv | apply State.showArray_inv
      | apply State.skDone_inv | apply Inv.ite | apply Upd.of | simp -iota only [Inv.update] | split
      | dsimp -iota only | dsimp only

theorem State.applyInval_inv {fm : Nat} {s₀ : State} (s : State) (die : Nat) (v : Inval) (h_s : Inv fm s₀ s)
    (hm : InSet 134217728 fm) :
    Inv fm s₀ (State.applyInval s die v) := by
  delta State.applyInval
  repeat' first
    | exact inSet_trans rfl hm
    | with_reducible exact Or.inr rfl
    | exact Or.inl (inSet_trans rfl hm)
    | with_reducible first
      | assumption | (intro) | apply State.setTlb_inv | apply Inv.ite | apply Upd.of | simp -iota only [Inv.update]
      | split | dsimp -iota only | dsimp only

theorem State.queueInval_inv {fm : Nat} {s₀ : State} (s : State) (scope pages asid : Nat) (h_s : Inv fm s₀ s)
    (hm : InSet 671088644 fm) :
    Inv fm s₀ (State.queueInval s scope pages asid) := by
  delta State.queueInval
  repeat' first
    | exact inSet_trans rfl hm
    | with_reducible exact Or.inr rfl
    | exact Or.inl (inSet_trans rfl hm)
    | with_reducible first
      | assumption | (intro) | apply State.sendChain_inv | apply State.setFld_inv | apply State.setFlds_inv
      | apply Inv.ite | apply Inv.foldl | apply Upd.of | simp -iota only [Inv.update] | split | dsimp -iota only
      | dsimp only

theorem State.invalsDone_inv {fm : Nat} {s₀ : State} (y0 : Nat) (s : State) (h_s : Inv fm s₀ s)
    (hm : InSet 13196221202492 fm) :
    Inv fm s₀ (State.invalsDone y0 s) := by
  induction y0 generalizing s with
  | zero =>
    unfold State.invalsDone
    try dsimp -iota only
    repeat' first
      | exact inSet_trans rfl hm
      | with_reducible exact Or.inr rfl
      | exact Or.inl (inSet_trans rfl hm)
      | with_reducible first
        | assumption | (intro) | apply State.bump_inv | apply State.setFld_inv | apply Inv.ite | apply Upd.of
        | simp -iota only [Inv.update] | split | dsimp -iota only | dsimp only
  | succ n ih =>
    unfold State.invalsDone
    try dsimp -iota only
    repeat' first
      | exact inSet_trans rfl hm
      | with_reducible exact Or.inr rfl
      | exact Or.inl (inSet_trans rfl hm)
      | with_reducible first
        | assumption | (intro) | apply ih | apply State.bump_inv | apply State.setFld_inv | apply Inv.ite
        | apply Upd.of | simp -iota only [Inv.update] | split | dsimp -iota only | dsimp only

end Sys2Proof.Machine
end

