-- ==== Sys2Proof/Laws/InvStackOps.lean ====
section
/-!
SUPPORT. Laws/InvStackOps.lean: the operations of Machine/StackOps.lean write only the fields named, and keep memories canonical.
-/

set_option simprocs false
set_option linter.unusedSimpArgs false
set_option linter.unusedVariables false

namespace Sys2Proof.Machine

theorem State.markStack_inv {fm : Nat} {s₀ : State} (s : State) (k : Nat) (h_s : Inv fm s₀ s)
    (hm : InSet 13196221202494 fm) :
    Inv fm s₀ (State.markStack s k) := by
  delta State.markStack
  repeat' first
    | exact inSet_trans rfl hm
    | with_reducible exact Or.inr rfl
    | exact Or.inl (inSet_trans rfl hm)
    | with_reducible first
      | assumption | (intro) | apply State.onCtl_inv | apply State.range_inv
      | (apply PairInv.snd; apply State.range_inv) | apply Inv.ite | apply PairInv.ite
      | (apply PairInv.snd; apply PairInv.ite) | apply Upd.of | simp -iota only [Inv.update, PairInv.mk'] | split
      | refine PairInv.of_eq (by assumption) ?_ | dsimp -iota only | dsimp only

theorem State.sendHotMeans_inv {fm : Nat} {s₀ : State} (s : State) (h_s : Inv fm s₀ s) (hm : InSet 13196221202492 fm) :
    Inv fm s₀ (State.sendHotMeans s) := by
  delta State.sendHotMeans
  repeat' first
    | exact inSet_trans rfl hm
    | with_reducible first
      | assumption | (intro) | apply State.range_inv | (apply PairInv.snd; apply State.range_inv)
      | apply State.sendChain_inv | apply Inv.ite | apply PairInv.ite | (apply PairInv.snd; apply PairInv.ite)
      | apply Inv.foldl | simp -iota only [PairInv.mk'] | split | refine PairInv.of_eq (by assumption) ?_
      | dsimp -iota only | dsimp only

theorem State.granuleRead_inv {fm : Nat} {s₀ : State} (s : State) (g : Nat) (h_s : Inv fm s₀ s)
    (hm : InSet 13196221202492 fm) :
    Inv fm s₀ (State.granuleRead s g) := by
  delta State.granuleRead
  repeat' first
    | exact inSet_trans rfl hm
    | with_reducible first
      | assumption | (intro) | apply State.activateBank_inv | apply State.burstRead_inv | apply State.range_inv
      | (apply PairInv.snd; apply State.range_inv) | apply Inv.ite | apply PairInv.ite
      | (apply PairInv.snd; apply PairInv.ite) | apply Inv.foldl | simp -iota only [PairInv.mk'] | split
      | refine PairInv.of_eq (by assumption) ?_ | dsimp -iota only | dsimp only

theorem State.showOut_inv {fm : Nat} {s₀ : State} (s : State) (k : Nat) (h_s : Inv fm s₀ s) (hm : InSet 4 fm) :
    Inv fm s₀ (State.showOut s k) := by
  delta State.showOut
  repeat' first
    | exact inSet_trans rfl hm
    | with_reducible first
      | assumption | (intro) | apply State.setFld_inv | apply Inv.ite | split | dsimp -iota only | dsimp only

theorem State.fencePc_inv {fm : Nat} {s₀ : State} (s : State) (pc : Nat) (h_s : Inv fm s₀ s)
    (hm : InSet 13196221202492 fm) :
    Inv fm s₀ (State.fencePc s pc) := by
  delta State.fencePc
  repeat' first
    | exact inSet_trans rfl hm
    | with_reducible first
      | assumption | (intro) | apply State.raise_inv | apply State.setFld_inv | apply State.showOut_inv
      | apply Inv.ite | split | dsimp -iota only | dsimp only

theorem State.fenceStack_inv {fm : Nat} {s₀ : State} (s : State) (k : Nat) (h_s : Inv fm s₀ s)
    (hm : InSet 13196221202492 fm) :
    Inv fm s₀ (State.fenceStack s k) := by
  delta State.fenceStack
  repeat' first
    | exact inSet_trans rfl hm
    | with_reducible first
      | assumption | (intro) | apply State.raise_inv | apply State.setFlds_inv | apply State.showOut_inv
      | apply Inv.ite | split | dsimp -iota only | dsimp only

theorem State.fenceUnit_inv {fm : Nat} {s₀ : State} (s : State) (k : Nat) (y0 : Option Nat) (h_s : Inv fm s₀ s)
    (hm : InSet 13196221202492 fm) :
    Inv fm s₀ (State.fenceUnit s k y0) := by
  delta State.fenceUnit
  repeat' first
    | exact inSet_trans rfl hm
    | with_reducible first
      | assumption | (intro) | apply State.fencePc_inv | apply State.fenceStack_inv | apply Inv.ite | split
      | dsimp -iota only | dsimp only

theorem State.showEvac_inv {fm : Nat} {s₀ : State} (s : State) (u : MapOut) (st : Nat) (h_s : Inv fm s₀ s)
    (hm : InSet 4 fm) :
    Inv fm s₀ (State.showEvac s u st) := by
  delta State.showEvac
  repeat' first
    | exact inSet_trans rfl hm
    | with_reducible first
      | assumption | (intro) | apply State.setFlds_inv | apply Inv.ite | apply Inv.getD | split | dsimp -iota only
      | dsimp only

theorem State.startEvac_inv {fm : Nat} {s₀ : State} (s : State) (u : MapOut) (h_s : Inv fm s₀ s)
    (hm : InSet 262148 fm) :
    Inv fm s₀ (State.startEvac s u) := by
  delta State.startEvac
  repeat' first
    | exact inSet_trans rfl hm
    | with_reducible exact Or.inr rfl
    | exact Or.inl (inSet_trans rfl hm)
    | with_reducible first
      | assumption | (intro) | apply State.setFld_inv | apply State.showEvac_inv | apply Inv.ite | apply Upd.of
      | simp -iota only [Inv.update] | split | dsimp -iota only | dsimp only

theorem State.awaitGrant_inv {fm : Nat} {s₀ : State} (s : State) (u : MapOut) (h_s : Inv fm s₀ s)
    (hm : InSet 13196221464636 fm) :
    Inv fm s₀ (State.awaitGrant s u) := by
  delta State.awaitGrant
  repeat' first
    | exact inSet_trans rfl hm
    | with_reducible exact Or.inr rfl
    | exact Or.inl (inSet_trans rfl hm)
    | with_reducible first
      | assumption | (intro) | apply State.raise_inv | apply State.setFlds_inv | apply State.showEvac_inv
      | apply Inv.ite | apply Upd.of | simp -iota only [Inv.update] | split | dsimp -iota only | dsimp only

theorem State.cleanRegion_inv {fm : Nat} {s₀ : State} (s : State) (base blocks : Nat) (h_s : Inv fm s₀ s)
    (hm : InSet 13196221202492 fm) :
    Inv fm s₀ (State.cleanRegion s base blocks) := by
  delta State.cleanRegion
  repeat' first
    | exact inSet_trans rfl hm
    | with_reducible first
      | assumption | (intro) | apply State.cleanLine_inv | apply State.range_inv
      | (apply PairInv.snd; apply State.range_inv) | apply Inv.ite | apply PairInv.ite
      | (apply PairInv.snd; apply PairInv.ite) | apply Inv.foldl | simp -iota only [PairInv.mk'] | split
      | refine PairInv.of_eq (by assumption) ?_ | dsimp -iota only | dsimp only

theorem State.redirectPlace_inv {fm : Nat} {s₀ : State} (s : State) (m : MapOut) (pc u : Nat) (h_s : Inv fm s₀ s)
    (hm : InSet 512 fm) :
    Inv fm s₀ (State.redirectPlace s m pc u) := by
  delta State.redirectPlace
  repeat' first
    | exact inSet_trans rfl hm
    | with_reducible exact Or.inr rfl
    | exact Or.inl (inSet_trans rfl hm)
    | with_reducible first
      | assumption | (intro) | apply Inv.ite | apply Upd.of | simp -iota only [Inv.update] | split | dsimp -iota only
      | dsimp only

theorem State.redirectSegment_inv {fm : Nat} {s₀ : State} (s : State) (m : MapOut) (q : Nat) (h_s : Inv fm s₀ s)
    (hm : InSet 13196221203004 fm) :
    Inv fm s₀ (State.redirectSegment s m q) := by
  delta State.redirectSegment
  repeat' first
    | exact inSet_trans rfl hm
    | with_reducible first
      | assumption | (intro) | apply State.range_inv | (apply PairInv.snd; apply State.range_inv)
      | apply State.redirectPlace_inv | apply Inv.ite | apply PairInv.ite | (apply PairInv.snd; apply PairInv.ite)
      | apply Inv.foldl | simp -iota only [PairInv.mk'] | split | refine PairInv.of_eq (by assumption) ?_
      | dsimp -iota only | dsimp only

theorem State.poisonGranule_inv {fm : Nat} {s₀ : State} (s : State) (g : Nat) (h_s : Inv fm s₀ s)
    (hm : InSet 13196221202492 fm) :
    Inv fm s₀ (State.poisonGranule s g) := by
  delta State.poisonGranule
  try generalize List.range 16 = l16
  try generalize List.range 32 = l32
  try generalize List.range 64 = l64
  repeat' first
    | exact inSet_trans rfl hm
    | with_reducible exact Or.inr rfl
    | exact Or.inl (inSet_trans rfl hm)
    | with_reducible first
      | assumption | (intro) | apply State.range_inv | (apply PairInv.snd; apply State.range_inv) | apply Inv.ite
      | apply PairInv.ite | (apply PairInv.snd; apply PairInv.ite) | apply Inv.foldl | apply Upd.of
      | simp -iota only [Inv.update, PairInv.mk'] | split | refine PairInv.of_eq (by assumption) ?_
      | dsimp -iota only | dsimp only

theorem State.copySegment_inv {fm : Nat} {s₀ : State} (s : State) (m : MapOut) (q : Nat) (h_s : Inv fm s₀ s)
    (hm : InSet 13196221202492 fm) :
    Inv fm s₀ (State.copySegment s m q) := by
  delta State.copySegment
  repeat' first
    | exact inSet_trans rfl hm
    | with_reducible exact Or.inr rfl
    | exact Or.inl (inSet_trans rfl hm)
    | with_reducible first
      | assumption | (intro) | apply State.bump_inv | apply State.granuleRead_inv | apply State.poisonGranule_inv
      | apply State.range_inv | (apply PairInv.snd; apply State.range_inv) | apply Inv.ite | apply PairInv.ite
      | (apply PairInv.snd; apply PairInv.ite) | apply Inv.foldl | apply Upd.of
      | simp -iota only [Inv.update, PairInv.mk'] | split | refine PairInv.of_eq (by assumption) ?_
      | dsimp -iota only | dsimp only

theorem State.showMapOut_inv {fm : Nat} {s₀ : State} (s : State) (m : MapOut) (h_s : Inv fm s₀ s) (hm : InSet 4 fm) :
    Inv fm s₀ (State.showMapOut s m) := by
  delta State.showMapOut
  repeat' first
    | exact inSet_trans rfl hm
    | with_reducible exact Or.inr rfl
    | exact Or.inl (inSet_trans rfl hm)
    | with_reducible first
      | assumption | (intro) | apply State.setFld_inv | apply State.setFlds_inv | apply State.showOut_inv
      | apply Inv.ite | apply Inv.foldl | apply Upd.of | simp -iota only [Inv.update] | split | dsimp -iota only
      | dsimp only

theorem State.endEvac_inv {fm : Nat} {s₀ : State} (s : State) (m : MapOut) (h_s : Inv fm s₀ s)
    (hm : InSet 13196221464636 fm) :
    Inv fm s₀ (State.endEvac s m) := by
  delta State.endEvac
  repeat' first
    | exact inSet_trans rfl hm
    | with_reducible exact Or.inr rfl
    | exact Or.inl (inSet_trans rfl hm)
    | with_reducible first
      | assumption | (intro) | apply State.raise_inv | apply State.setFld_inv | apply State.showMapOut_inv
      | apply Inv.ite | apply Inv.getD | apply Upd.of | simp -iota only [Inv.update] | split | dsimp -iota only
      | dsimp only

theorem State.setSwTop_inv {fm : Nat} {s₀ : State} (s : State) (h_s : Inv fm s₀ s) (hm : InSet 4 fm) :
    Inv fm s₀ (State.setSwTop s) := by
  delta State.setSwTop
  repeat' first
    | exact inSet_trans rfl hm
    | with_reducible first
      | assumption | (intro) | apply State.setFld_inv | apply Inv.ite | split | dsimp -iota only | dsimp only

end Sys2Proof.Machine
end

