-- ==== Sys2Proof/Laws/InvStructOps.lean ====
section
/-!
SUPPORT. Laws/InvStructOps.lean: the operations of Machine/StructOps.lean write only the fields named, and keep memories canonical.
-/

set_option simprocs false
set_option linter.unusedSimpArgs false
set_option linter.unusedVariables false

namespace Sys2Proof.Machine

theorem State.issue'_inv {fm : Nat} {s₀ : State} (s : State) (d row : Nat) (c : Change) (h_s : Inv fm s₀ s)
    (hm : InSet 13204811145276 fm) :
    Inv fm s₀ (State.issue' s d row c) := by
  delta State.issue'
  repeat' first
    | exact inSet_trans rfl hm
    | with_reducible exact Or.inr rfl
    | exact Or.inl (inSet_trans rfl hm)
    | with_reducible first
      | assumption | (intro) | apply State.issued_inv | apply State.sendChain_inv | apply Inv.ite | apply Upd.of
      | simp -iota only [Inv.update] | split | dsimp -iota only | dsimp only

theorem State.issueAll_inv {fm : Nat} {s₀ : State} (s : State) (row : Nat) (c : Change) (h_s : Inv fm s₀ s)
    (hm : InSet 13204811145276 fm) :
    Inv fm s₀ (State.issueAll s row c) := by
  delta State.issueAll
  repeat' first
    | exact inSet_trans rfl hm
    | with_reducible first
      | assumption | (intro) | apply State.issue'_inv | apply Inv.ite | apply Inv.foldl | split | dsimp -iota only
      | dsimp only

theorem State.takeChange_inv {fm : Nat} {s₀ : State} (s : State) (d row : Nat) (c : Change) (h_s : Inv fm s₀ s)
    (hm : InSet 9126805504 fm) :
    Inv fm s₀ (State.takeChange s d row c) := by
  delta State.takeChange
  repeat' first
    | exact inSet_trans rfl hm
    | with_reducible exact Or.inr rfl
    | exact Or.inl (inSet_trans rfl hm)
    | with_reducible first
      | assumption | (intro) | apply State.sendFrom_inv | apply Inv.ite | apply Upd.of | simp -iota only [Inv.update]
      | split | dsimp -iota only | dsimp only

theorem State.leaveLine_inv {fm : Nat} {s₀ : State} (s : State) (d l : Nat) (h_s : Inv fm s₀ s) (hm : InSet 65536 fm) :
    Inv fm s₀ (State.leaveLine s d l) := by
  delta State.leaveLine
  repeat' first
    | exact inSet_trans rfl hm
    | with_reducible exact Or.inr rfl
    | exact Or.inl (inSet_trans rfl hm)
    | with_reducible first
      | assumption | (intro) | apply State.onHome_inv | apply Inv.ite | apply Upd.of | simp -iota only [Inv.update]
      | split | dsimp -iota only | dsimp only

theorem State.drainCache_inv {fm : Nat} {s₀ : State} (s : State) (d : Nat) (h_s : Inv fm s₀ s)
    (hm : InSet 13196221202492 fm) :
    Inv fm s₀ (State.drainCache s d) := by
  delta State.drainCache
  repeat' first
    | exact inSet_trans rfl hm
    | with_reducible exact Or.inr rfl
    | exact Or.inl (inSet_trans rfl hm)
    | with_reducible first
      | assumption | (intro) | apply State.bump_inv | apply State.leaveLine_inv | apply State.memWriteLine_inv
      | apply State.onAgent_inv | apply Inv.ite | apply Inv.foldl | apply Upd.of | simp -iota only [Inv.update]
      | split | dsimp -iota only | dsimp only

theorem State.loseCache_inv {fm : Nat} {s₀ : State} (s : State) (d : Nat) (h_s : Inv fm s₀ s)
    (hm : InSet 13196221202492 fm) :
    Inv fm s₀ (State.loseCache s d) := by
  delta State.loseCache
  try generalize List.range 16 = l16
  try generalize List.range 32 = l32
  try generalize List.range 64 = l64
  repeat' first
    | exact inSet_trans rfl hm
    | with_reducible exact Or.inr rfl
    | exact Or.inl (inSet_trans rfl hm)
    | with_reducible first
      | assumption | (intro) | apply State.leaveLine_inv | apply State.onAgent_inv | apply State.range_inv
      | (apply PairInv.snd; apply State.range_inv) | apply State.setFld_inv | apply Inv.ite | apply PairInv.ite
      | (apply PairInv.snd; apply PairInv.ite) | apply Inv.foldl | apply Upd.of
      | simp -iota only [Inv.update, PairInv.mk'] | split | refine PairInv.of_eq (by assumption) ?_
      | dsimp -iota only | dsimp only

theorem State.stopEngines_inv {fm : Nat} {s₀ : State} (s : State) (m : Nat) (h_s : Inv fm s₀ s)
    (hm : InSet 13198368700476 fm) :
    Inv fm s₀ (State.stopEngines s m) := by
  delta State.stopEngines
  repeat' first
    | exact inSet_trans rfl hm
    | with_reducible exact Or.inr rfl
    | exact Or.inl (inSet_trans rfl hm)
    | with_reducible first
      | assumption | (intro) | apply State.accTurn_inv | apply State.dropAgents_inv | apply State.psumWaited_inv
      | apply State.setArray_inv | apply State.setNdl_inv | apply State.setVec_inv | apply State.showArray_inv
      | apply State.showNdl_inv | apply State.showVec_inv | split | apply Inv.ite | apply Upd.of
      | simp -iota only [Inv.update] | dsimp -iota only | dsimp only

theorem State.cancelStitch_inv {fm : Nat} {s₀ : State} (s : State) (m qid idx st : Nat) (h_s : Inv fm s₀ s)
    (hm : InSet 13215548569660 fm) :
    Inv fm s₀ (State.cancelStitch s m qid idx st) := by
  delta State.cancelStitch
  repeat' first
    | exact inSet_trans rfl hm
    | with_reducible exact Or.inr rfl
    | exact Or.inl (inSet_trans rfl hm)
    | with_reducible first
      | assumption | (intro) | apply State.accrue_inv | apply State.refund_inv | apply State.setSched_inv
      | apply State.stitchResult_inv | apply State.stopEngines_inv | apply State.testHeads_inv | apply Inv.ite
      | apply Inv.foldl | apply Upd.of | simp -iota only [Inv.update] | split | dsimp -iota only | dsimp only

theorem State.loseMotif_inv {fm : Nat} {s₀ : State} (s : State) (m : Nat) (h_s : Inv fm s₀ s)
    (hm : InSet 13215548569660 fm) :
    Inv fm s₀ (State.loseMotif s m) := by
  delta State.loseMotif
  repeat' first
    | exact inSet_trans rfl hm
    | with_reducible exact Or.inr rfl
    | exact Or.inl (inSet_trans rfl hm)
    | with_reducible first
      | assumption | (intro) | apply State.cancelStitch_inv | apply State.onSched_inv | apply State.stitchResult_inv
      | apply State.stopEngines_inv | apply Inv.ite | apply Inv.foldl | apply Upd.of | simp -iota only [Inv.update]
      | split | dsimp -iota only | dsimp only

end Sys2Proof.Machine
end

