-- ==== Sys2Proof/Laws/InvPanelOps.lean ====
section
/-!
SUPPORT. Laws/InvPanelOps.lean: the operations of Machine/PanelOps.lean write only the fields named, and keep memories canonical.
-/

set_option simprocs false
set_option linter.unusedSimpArgs false
set_option linter.unusedVariables false

namespace Sys2Proof.Machine

theorem State.showSeq_inv {fm : Nat} {s₀ : State} (s : State) (h_s : Inv fm s₀ s) (hm : InSet 13196221202492 fm) :
    Inv fm s₀ (State.showSeq s) := by
  delta State.showSeq
  repeat' first
    | exact inSet_trans rfl hm
    | with_reducible first
      | assumption | (intro) | apply State.range_inv | (apply PairInv.snd; apply State.range_inv)
      | apply State.setFlds_inv | apply Inv.ite | apply PairInv.ite | (apply PairInv.snd; apply PairInv.ite)
      | apply Inv.getD | simp -iota only [PairInv.mk'] | split | refine PairInv.of_eq (by assumption) ?_
      | dsimp -iota only | dsimp only

theorem State.setRecovery_inv {fm : Nat} {s₀ : State} (s : State) (r : Recovery) (h_s : Inv fm s₀ s)
    (hm : InSet 13196223299644 fm) :
    Inv fm s₀ (State.setRecovery s r) := by
  delta State.setRecovery
  repeat' first
    | exact inSet_trans rfl hm
    | with_reducible exact Or.inr rfl
    | exact Or.inl (inSet_trans rfl hm)
    | with_reducible first
      | assumption | (intro) | apply State.showSeq_inv | apply Inv.ite | apply Upd.of | simp -iota only [Inv.update]
      | split | dsimp -iota only | dsimp only

theorem State.nodeFatal_inv {fm : Nat} {s₀ : State} (s : State) (cause kind id : Nat) (h_s : Inv fm s₀ s)
    (hm : InSet 13215548569660 fm) :
    Inv fm s₀ (State.nodeFatal s cause kind id) := by
  delta State.nodeFatal
  repeat' first
    | exact inSet_trans rfl hm
    | with_reducible exact Or.inr rfl
    | exact Or.inl (inSet_trans rfl hm)
    | with_reducible first
      | assumption | (intro) | apply State.onSched_inv | apply State.raise_inv | apply State.setFlds_inv
      | apply State.stopEngines_inv | apply Inv.ite | apply Inv.foldl | apply Upd.of | simp -iota only [Inv.update]
      | split | dsimp -iota only | dsimp only

theorem State.endRecovery_inv {fm : Nat} {s₀ : State} (s : State) (h_s : Inv fm s₀ s) (hm : InSet 13196223299644 fm) :
    Inv fm s₀ (State.endRecovery s) := by
  delta State.endRecovery
  repeat' first
    | exact inSet_trans rfl hm
    | with_reducible exact Or.inr rfl
    | exact Or.inl (inSet_trans rfl hm)
    | with_reducible first
      | assumption | (intro) | apply State.raise_inv | apply State.setRecovery_inv | apply Inv.ite | apply Upd.of
      | simp -iota only [Inv.update] | split | dsimp -iota only | dsimp only

theorem State.setSeamFld_inv {fm : Nat} {s₀ : State} (s : State) (i hi lo v : Nat) (h_s : Inv fm s₀ s)
    (hm : InSet 4 fm) :
    Inv fm s₀ (State.setSeamFld s i hi lo v) := by
  delta State.setSeamFld
  repeat' first
    | exact inSet_trans rfl hm
    | with_reducible first
      | assumption | (intro) | apply State.setFld_inv | apply Inv.ite | apply Inv.foldl | split | dsimp -iota only
      | dsimp only

theorem State.setSeamState_inv {fm : Nat} {s₀ : State} (s : State) (i v : Nat) (h_s : Inv fm s₀ s) (hm : InSet 4 fm) :
    Inv fm s₀ (State.setSeamState s i v) := by
  delta State.setSeamState
  repeat' first
    | exact inSet_trans rfl hm
    | with_reducible first
      | assumption | (intro) | apply State.setSeamFld_inv | apply Inv.ite | split | dsimp -iota only | dsimp only

theorem State.setSeam_inv {fm : Nat} {s₀ : State} (s : State) (i : Nat) (x : Seam) (h_s : Inv fm s₀ s)
    (hm : InSet 524288 fm) :
    Inv fm s₀ (State.setSeam s i x) := by
  delta State.setSeam
  repeat' first
    | exact inSet_trans rfl hm
    | with_reducible exact Or.inr rfl
    | exact Or.inl (inSet_trans rfl hm)
    | with_reducible first
      | assumption | (intro) | apply Inv.ite | apply Upd.of | simp -iota only [Inv.update] | split | dsimp -iota only
      | dsimp only

theorem State.countSeam_inv {fm : Nat} {s₀ : State} (s : State) (i : Nat) (c : Nat → Nat → Cnt) (n : Nat)
    (h_s : Inv fm s₀ s) (hm : InSet 13196221202492 fm) :
    Inv fm s₀ (State.countSeam s i c n) := by
  delta State.countSeam
  repeat' first
    | exact inSet_trans rfl hm
    | with_reducible exact Or.inr rfl
    | exact Or.inl (inSet_trans rfl hm)
    | with_reducible first
      | assumption | (intro) | apply State.bump_inv | apply Inv.ite | apply Inv.foldl | apply Upd.of
      | simp -iota only [Inv.update] | split | dsimp -iota only | dsimp only

theorem State.reroute_inv {fm : Nat} {s₀ : State} (s : State) (row : Nat) (dropping : List Nat) (h_s : Inv fm s₀ s)
    (hm : InSet 13224138504252 fm) :
    Inv fm s₀ (State.reroute s row dropping) := by
  delta State.reroute
  repeat' first
    | exact inSet_trans rfl hm
    | with_reducible exact Or.inr rfl
    | exact Or.inl (inSet_trans rfl hm)
    | with_reducible first
      | assumption | (intro) | apply State.issueAll_inv | apply State.nodeFatal_inv | apply State.raise_inv
      | apply State.setFld_inv | apply Inv.ite | apply Upd.of | simp -iota only [Inv.update] | split
      | dsimp -iota only | dsimp only

theorem State.darn_inv {fm : Nat} {s₀ : State} (s : State) (m : Nat) (h_s : Inv fm s₀ s)
    (hm : InSet 13224140601404 fm) :
    Inv fm s₀ (State.darn s m) := by
  delta State.darn
  repeat' first
    | exact inSet_trans rfl hm
    | with_reducible exact Or.inr rfl
    | exact Or.inl (inSet_trans rfl hm)
    | with_reducible first
      | assumption | (intro) | apply State.issueAll_inv | apply State.reroute_inv | apply Inv.ite | apply Inv.foldl
      | apply Inv.getD | apply Upd.of | simp -iota only [Inv.update] | split | dsimp -iota only | dsimp only

theorem State.loseGuest_inv {fm : Nat} {s₀ : State} (s : State) (g : Nat) (h_s : Inv fm s₀ s)
    (hm : InSet 13196221202492 fm) :
    Inv fm s₀ (State.loseGuest s g) := by
  delta State.loseGuest
  repeat' first
    | exact inSet_trans rfl hm
    | with_reducible first
      | assumption | (intro) | apply State.loseCache_inv | apply State.setFld_inv | apply Inv.ite | split
      | dsimp -iota only | dsimp only

theorem State.isolateSeam_inv {fm : Nat} {s₀ : State} (s : State) (i : Nat) (h_s : Inv fm s₀ s)
    (hm : InSet 13224141125692 fm) :
    Inv fm s₀ (State.isolateSeam s i) := by
  delta State.isolateSeam
  repeat' first
    | exact inSet_trans rfl hm
    | with_reducible exact Or.inr rfl
    | exact Or.inl (inSet_trans rfl hm)
    | with_reducible first
      | assumption | (intro) | apply State.darn_inv | apply State.endRecovery_inv | apply State.loseGuest_inv
      | apply State.raise_inv | apply State.reroute_inv | apply State.setFld_inv | apply State.setSeam_inv
      | apply State.setSeamFld_inv | apply State.setSeamState_inv | apply Inv.ite | apply Upd.of
      | simp -iota only [Inv.update] | split | dsimp -iota only | dsimp only

theorem State.openSeam_inv {fm : Nat} {s₀ : State} (s : State) (i w mask : Nat) (h_s : Inv fm s₀ s)
    (hm : InSet 13196223823932 fm) :
    Inv fm s₀ (State.openSeam s i w mask) := by
  delta State.openSeam
  repeat' first
    | exact inSet_trans rfl hm
    | with_reducible exact Or.inr rfl
    | exact Or.inl (inSet_trans rfl hm)
    | with_reducible first
      | assumption | (intro) | apply State.endRecovery_inv | apply State.raise_inv | apply State.setFld_inv
      | apply State.setSeam_inv | apply State.setSeamFld_inv | apply State.setSeamState_inv | apply Inv.ite
      | apply Upd.of | simp -iota only [Inv.update] | split | dsimp -iota only | dsimp only

theorem State.trySingle_inv {fm : Nat} {s₀ : State} (s : State) (i k : Nat) (h_s : Inv fm s₀ s)
    (hm : InSet 13224141125692 fm) :
    Inv fm s₀ (State.trySingle s i k) := by
  delta State.trySingle
  repeat' first
    | exact inSet_trans rfl hm
    | with_reducible exact Or.inr rfl
    | exact Or.inl (inSet_trans rfl hm)
    | with_reducible first
      | assumption | (intro) | apply State.isolateSeam_inv | apply State.range_inv
      | (apply PairInv.snd; apply State.range_inv) | apply State.setSeam_inv | apply State.setSeamState_inv
      | apply Inv.ite | apply PairInv.ite | (apply PairInv.snd; apply PairInv.ite) | apply Upd.of
      | simp -iota only [Inv.update, PairInv.mk'] | split | refine PairInv.of_eq (by assumption) ?_
      | dsimp -iota only | dsimp only

theorem State.mismatch_inv {fm : Nat} {s₀ : State} (s : State) (i : Nat) (h_s : Inv fm s₀ s)
    (hm : InSet 13224141125692 fm) :
    Inv fm s₀ (State.mismatch s i) := by
  delta State.mismatch
  repeat' first
    | exact inSet_trans rfl hm
    | with_reducible exact Or.inr rfl
    | exact Or.inl (inSet_trans rfl hm)
    | with_reducible first
      | assumption | (intro) | apply State.countSeam_inv | apply State.raise_inv | apply State.setSeam_inv
      | apply State.setSeamFld_inv | apply State.setSeamState_inv | apply State.trySingle_inv | apply Inv.ite
      | apply Upd.of | simp -iota only [Inv.update] | split | dsimp -iota only | dsimp only

theorem State.retrain_inv {fm : Nat} {s₀ : State} (s : State) (i : Nat) (h_s : Inv fm s₀ s)
    (hm : InSet 13196221726780 fm) :
    Inv fm s₀ (State.retrain s i) := by
  delta State.retrain
  repeat' first
    | exact inSet_trans rfl hm
    | with_reducible exact Or.inr rfl
    | exact Or.inl (inSet_trans rfl hm)
    | with_reducible first
      | assumption | (intro) | apply State.countSeam_inv | apply State.raise_inv | apply State.setSeam_inv
      | apply State.setSeamFld_inv | apply State.setSeamState_inv | apply Inv.ite | apply Upd.of
      | simp -iota only [Inv.update] | split | dsimp -iota only | dsimp only

theorem State.chainReroute_inv {fm : Nat} {s₀ : State} (s : State) (i : Nat) (h_s : Inv fm s₀ s)
    (hm : InSet 13224141125692 fm) :
    Inv fm s₀ (State.chainReroute s i) := by
  delta State.chainReroute
  repeat' first
    | exact inSet_trans rfl hm
    | with_reducible first
      | assumption | (intro) | apply State.isolateSeam_inv | apply State.raise_inv | apply State.range_inv
      | (apply PairInv.snd; apply State.range_inv) | apply Inv.ite | apply PairInv.ite
      | (apply PairInv.snd; apply PairInv.ite) | apply Inv.foldl | simp -iota only [PairInv.mk'] | split
      | refine PairInv.of_eq (by assumption) ?_ | dsimp -iota only | dsimp only

end Sys2Proof.Machine
end

