-- ==== Sys2Proof/Laws/InvEdgeOps.lean ====
section
/-!
SUPPORT. Laws/InvEdgeOps.lean: the operations of Machine/EdgeOps.lean write only the fields named, and keep memories canonical.
-/

set_option simprocs false
set_option linter.unusedSimpArgs false
set_option linter.unusedVariables false

namespace Sys2Proof.Machine

theorem State.darken_inv {fm : Nat} {s₀ : State} (s : State) (m : Nat) (h_s : Inv fm s₀ s)
    (hm : InSet 13224141125692 fm) :
    Inv fm s₀ (State.darken s m) := by
  delta State.darken
  repeat' first
    | exact inSet_trans rfl hm
    | with_reducible exact Or.inr rfl
    | exact Or.inl (inSet_trans rfl hm)
    | with_reducible first
      | assumption | (intro) | apply State.chainReroute_inv | apply State.range_inv
      | (apply PairInv.snd; apply State.range_inv) | apply State.setSeamFld_inv | apply State.setSeamState_inv
      | apply Inv.ite | apply PairInv.ite | (apply PairInv.snd; apply PairInv.ite) | apply Inv.foldl | apply Upd.of
      | simp -iota only [Inv.update, PairInv.mk'] | split | refine PairInv.of_eq (by assumption) ?_
      | dsimp -iota only | dsimp only

theorem State.movePos_inv {fm : Nat} {s₀ : State} (s : State) (m k : Nat) (h_s : Inv fm s₀ s)
    (hm : InSet 13224141125692 fm) :
    Inv fm s₀ (State.movePos s m k) := by
  delta State.movePos
  repeat' first
    | exact inSet_trans rfl hm
    | with_reducible exact Or.inr rfl
    | exact Or.inl (inSet_trans rfl hm)
    | with_reducible first
      | assumption | (intro) | apply State.darken_inv | apply State.drainCache_inv | apply State.fenceStack_inv
      | apply State.invalsDone_inv | apply State.loseMotif_inv | apply State.setPos_inv | apply Inv.ite
      | apply Upd.of | simp -iota only [Inv.update] | split | dsimp -iota only | dsimp only

theorem State.applyChange_inv {fm : Nat} {s₀ : State} (s : State) (d : Nat) (c : Change) (h_s : Inv fm s₀ s)
    (hm : InSet 13464659294332 fm) :
    Inv fm s₀ (State.applyChange s d c) := by
  delta State.applyChange
  repeat' first
    | exact inSet_trans rfl hm
    | with_reducible exact Or.inr rfl
    | exact Or.inl (inSet_trans rfl hm)
    | with_reducible first
      | assumption | (intro) | apply State.movePos_inv | apply State.onQueue_inv | apply State.onTable_inv
      | apply Inv.ite | apply Upd.of | simp -iota only [Inv.update] | split | dsimp -iota only | dsimp only

theorem State.applyChanges_inv {fm : Nat} {s₀ : State} (s : State) (d row : Nat) (h_s : Inv fm s₀ s)
    (hm : InSet 13464659294332 fm) :
    Inv fm s₀ (State.applyChanges s d row) := by
  delta State.applyChanges
  repeat' first
    | exact inSet_trans rfl hm
    | with_reducible exact Or.inr rfl
    | exact Or.inl (inSet_trans rfl hm)
    | with_reducible first
      | assumption | (intro) | apply State.applyChange_inv | apply State.issued_inv | apply Inv.ite | apply Inv.foldl
      | apply Upd.of | simp -iota only [Inv.update] | split | dsimp -iota only | dsimp only

theorem State.reissue_inv {fm : Nat} {s₀ : State} (s : State) (d row : Nat) (h_s : Inv fm s₀ s)
    (hm : InSet 13204811145276 fm) :
    Inv fm s₀ (State.reissue s d row) := by
  delta State.reissue
  repeat' first
    | exact inSet_trans rfl hm
    | with_reducible exact Or.inr rfl
    | exact Or.inl (inSet_trans rfl hm)
    | with_reducible first
      | assumption | (intro) | apply State.issue'_inv | apply State.issued_inv | apply State.onQueue_inv
      | apply Inv.ite | apply Inv.foldl | apply Upd.of | simp -iota only [Inv.update] | split | dsimp -iota only
      | dsimp only

end Sys2Proof.Machine
end

