-- ==== Sys2Proof/Laws/InvFabricOps.lean ====
section
/-!
SUPPORT. Laws/InvFabricOps.lean: the operations of Machine/FabricOps.lean write only the fields named, and keep memories canonical.
-/

set_option simprocs false
set_option linter.unusedSimpArgs false
set_option linter.unusedVariables false

namespace Sys2Proof.Machine

theorem State.showFlows_inv {fm : Nat} {s₀ : State} (s : State) (h_s : Inv fm s₀ s) (hm : InSet 4 fm) :
    Inv fm s₀ (State.showFlows s) := by
  delta State.showFlows
  repeat' first
    | exact inSet_trans rfl hm
    | with_reducible first
      | assumption | (intro) | apply State.setFld_inv | apply Inv.ite | split | dsimp -iota only | dsimp only

theorem State.setTxFlow_inv {fm : Nat} {s₀ : State} (s : State) (k : Nat) (f : Option TxFlow) (h_s : Inv fm s₀ s)
    (hm : InSet 4194308 fm) :
    Inv fm s₀ (State.setTxFlow s k f) := by
  delta State.setTxFlow
  repeat' first
    | exact inSet_trans rfl hm
    | with_reducible exact Or.inr rfl
    | exact Or.inl (inSet_trans rfl hm)
    | with_reducible first
      | assumption | (intro) | apply State.showFlows_inv | apply Inv.ite | apply Upd.of
      | simp -iota only [Inv.update] | split | dsimp -iota only | dsimp only

theorem State.setRxFlow_inv {fm : Nat} {s₀ : State} (s : State) (k : Nat) (f : Option RxFlow) (h_s : Inv fm s₀ s)
    (hm : InSet 4194308 fm) :
    Inv fm s₀ (State.setRxFlow s k f) := by
  delta State.setRxFlow
  repeat' first
    | exact inSet_trans rfl hm
    | with_reducible exact Or.inr rfl
    | exact Or.inl (inSet_trans rfl hm)
    | with_reducible first
      | assumption | (intro) | apply State.showFlows_inv | apply Inv.ite | apply Upd.of
      | simp -iota only [Inv.update] | split | dsimp -iota only | dsimp only

theorem State.ackSeq_inv {fm : Nat} {s₀ : State} (s : State) (key : Nat) (h_s : Inv fm s₀ s)
    (hm : InSet 8796093022208 fm) :
    PairInv fm s₀ (State.ackSeq s key) := by
  delta State.ackSeq
  repeat' first
    | exact inSet_trans rfl hm
    | with_reducible exact Or.inr rfl
    | exact Or.inl (inSet_trans rfl hm)
    | with_reducible first
      | assumption | (intro) | apply State.takeFree_inv | (apply PairInv.snd; apply State.takeFree_inv)
      | apply Inv.ite | apply PairInv.ite | (apply PairInv.snd; apply PairInv.ite) | apply Upd.of
      | simp -iota only [Inv.update, PairInv.mk'] | split | refine PairInv.of_eq (by assumption) ?_
      | dsimp -iota only | dsimp only

theorem State.emit_inv {fm : Nat} {s₀ : State} (s : State) (node lot rail : Nat) (retx : Bool) (k : Kept)
    (h_s : Inv fm s₀ s) (hm : InSet 13196225396796 fm) :
    Inv fm s₀ (State.emit s node lot rail retx k) := by
  delta State.emit
  repeat' first
    | exact inSet_trans rfl hm
    | with_reducible exact Or.inr rfl
    | exact Or.inl (inSet_trans rfl hm)
    | with_reducible first
      | assumption | (intro) | apply State.ackSeq_inv | (apply PairInv.snd; apply State.ackSeq_inv)
      | apply State.bump_inv | apply State.send_inv | apply State.setRxFlow_inv | apply Inv.ite | apply PairInv.ite
      | (apply PairInv.snd; apply PairInv.ite) | apply Inv.getD | apply Upd.of
      | simp -iota only [Inv.update, PairInv.mk'] | split | refine PairInv.of_eq (by assumption) ?_
      | dsimp -iota only | dsimp only

theorem State.sendAck_inv {fm : Nat} {s₀ : State} (s : State) (node lot type : Nat) (h_s : Inv fm s₀ s)
    (hm : InSet 13196225396796 fm) :
    Inv fm s₀ (State.sendAck s node lot type) := by
  delta State.sendAck
  repeat' first
    | exact inSet_trans rfl hm
    | with_reducible first
      | assumption | (intro) | apply State.emit_inv | apply Inv.ite | split | dsimp -iota only | dsimp only

theorem State.sendFrame_inv {fm : Nat} {s₀ : State} (s : State) (node lot : Nat) (k : Kept) (h_s : Inv fm s₀ s)
    (hm : InSet 13196225396796 fm) :
    Inv fm s₀ (State.sendFrame s node lot k) := by
  delta State.sendFrame
  repeat' first
    | exact inSet_trans rfl hm
    | with_reducible exact Or.inr rfl
    | exact Or.inl (inSet_trans rfl hm)
    | with_reducible first
      | assumption | (intro) | apply State.emit_inv | apply State.setTxFlow_inv | apply State.takeFree_inv
      | (apply PairInv.snd; apply State.takeFree_inv) | apply Inv.ite | apply PairInv.ite
      | (apply PairInv.snd; apply PairInv.ite) | apply Upd.of | simp -iota only [Inv.update, PairInv.mk'] | split
      | refine PairInv.of_eq (by assumption) ?_ | dsimp -iota only | dsimp only

theorem State.resend_inv {fm : Nat} {s₀ : State} (s : State) (node lot : Nat) (f : TxFlow) (drop : Nat)
    (counted : Bool) (h_s : Inv fm s₀ s) (hm : InSet 13196225396796 fm) :
    Inv fm s₀ (State.resend s node lot f drop counted) := by
  delta State.resend
  repeat' first
    | exact inSet_trans rfl hm
    | with_reducible exact Or.inr rfl
    | exact Or.inl (inSet_trans rfl hm)
    | with_reducible first
      | assumption | (intro) | apply State.bump_inv | apply State.emit_inv | apply State.setTxFlow_inv
      | apply Inv.ite | apply Inv.foldl | apply Upd.of | simp -iota only [Inv.update] | split | dsimp -iota only
      | dsimp only

theorem State.refusedAgain_inv {fm : Nat} {s₀ : State} (s : State) (e : CollEntry) (again : Bool) (h_s : Inv fm s₀ s)
    (hm : InSet 134217728 fm) :
    Inv fm s₀ (State.refusedAgain s e again) := by
  delta State.refusedAgain
  repeat' first
    | exact inSet_trans rfl hm
    | with_reducible exact Or.inr rfl
    | exact Or.inl (inSet_trans rfl hm)
    | with_reducible first
      | assumption | (intro) | apply Inv.ite | apply Upd.of | simp -iota only [Inv.update] | split | dsimp -iota only
      | dsimp only

theorem State.stallAgent_inv {fm : Nat} {s₀ : State} (s : State) (a : Agent) (h_s : Inv fm s₀ s)
    (hm : InSet 13198368700476 fm) :
    Inv fm s₀ (State.stallAgent s a) := by
  delta State.stallAgent
  repeat' first
    | exact inSet_trans rfl hm
    | with_reducible exact Or.inr rfl
    | exact Or.inl (inSet_trans rfl hm)
    | with_reducible first
      | assumption | (intro) | apply State.onCmd_inv | apply State.putGroup_inv | apply State.putVe_inv
      | apply State.setArray_inv | apply State.showArray_inv | apply Inv.ite | apply Upd.of
      | simp -iota only [Inv.update] | split | dsimp -iota only | dsimp only

theorem State.remoteRefused_inv {fm : Nat} {s₀ : State} (s : State) (ask page : Nat) (r : MemReq) (h_s : Inv fm s₀ s)
    (hm : InSet 13198368700476 fm) :
    Inv fm s₀ (State.remoteRefused s ask page r) := by
  delta State.remoteRefused
  repeat' first
    | exact inSet_trans rfl hm
    | with_reducible exact Or.inr rfl
    | exact Or.inl (inSet_trans rfl hm)
    | with_reducible first
      | assumption | (intro) | apply State.sendFault_inv | apply State.stallAgent_inv | apply Inv.ite | apply Upd.of
      | simp -iota only [Inv.update] | split | dsimp -iota only | dsimp only

theorem State.remoteDone_inv {fm : Nat} {s₀ : State} (s : State) (ask page : Nat) (r : MemReq) (bs : List Byte)
    (ps : List Nat) (h_s : Inv fm s₀ s) (hm : InSet 134217728 fm) :
    Inv fm s₀ (State.remoteDone s ask page r bs ps) := by
  delta State.remoteDone
  repeat' first
    | exact inSet_trans rfl hm
    | with_reducible exact Or.inr rfl
    | exact Or.inl (inSet_trans rfl hm)
    | with_reducible first
      | assumption | (intro) | apply Inv.ite | apply Upd.of | simp -iota only [Inv.update] | split | dsimp -iota only
      | dsimp only

theorem State.launchFrames_inv {fm : Nat} {s₀ : State} (ask page : Nat) (r : MemReq) (node lot uid : Nat)
    (y0 : List Kept) (s : State) (h_s : Inv fm s₀ s) (hm : InSet 13196225396796 fm) :
    Inv fm s₀ (State.launchFrames ask page r node lot uid y0 s) := by
  induction y0 generalizing s with
  | nil =>
    unfold State.launchFrames
    try dsimp -iota only
    repeat' first
      | exact inSet_trans rfl hm
      | with_reducible exact Or.inr rfl
      | exact Or.inl (inSet_trans rfl hm)
      | with_reducible first
        | assumption | (intro) | apply State.bump_inv | apply State.range_inv
        | (apply PairInv.snd; apply State.range_inv) | apply State.sendFrame_inv | apply Inv.ite | apply PairInv.ite
        | (apply PairInv.snd; apply PairInv.ite) | apply Inv.getD | apply Upd.of
        | simp -iota only [Inv.update, PairInv.mk'] | split | refine PairInv.of_eq (by assumption) ?_
        | dsimp -iota only | dsimp only
  | cons x xs ih =>
    unfold State.launchFrames
    try dsimp -iota only
    repeat' first
      | exact inSet_trans rfl hm
      | with_reducible exact Or.inr rfl
      | exact Or.inl (inSet_trans rfl hm)
      | with_reducible first
        | assumption | (intro) | apply ih | apply State.bump_inv | apply State.range_inv
        | (apply PairInv.snd; apply State.range_inv) | apply State.sendFrame_inv | apply Inv.ite | apply PairInv.ite
        | (apply PairInv.snd; apply PairInv.ite) | apply Inv.getD | apply Upd.of
        | simp -iota only [Inv.update, PairInv.mk'] | split | refine PairInv.of_eq (by assumption) ?_
        | dsimp -iota only | dsimp only

theorem State.remoteAnswer_inv {fm : Nat} {s₀ : State} (s : State) (tag : Nat) (o : Remote) (refused : Bool)
    (bs : List Byte) (ps : List Nat) (h_s : Inv fm s₀ s) (hm : InSet 13198372894780 fm) :
    Inv fm s₀ (State.remoteAnswer s tag o refused bs ps) := by
  delta State.remoteAnswer
  repeat' first
    | exact inSet_trans rfl hm
    | with_reducible exact Or.inr rfl
    | exact Or.inl (inSet_trans rfl hm)
    | with_reducible first
      | assumption | (intro) | apply State.remoteDone_inv | apply State.remoteRefused_inv | apply Inv.ite
      | apply Upd.of | simp -iota only [Inv.update] | split | dsimp -iota only | dsimp only

theorem State.freeFlow_inv {fm : Nat} {s₀ : State} (s : State) (node lot : Nat) (fail : Bool) (h_s : Inv fm s₀ s)
    (hm : InSet 13198372894780 fm) :
    Inv fm s₀ (State.freeFlow s node lot fail) := by
  delta State.freeFlow
  repeat' first
    | exact inSet_trans rfl hm
    | with_reducible exact Or.inr rfl
    | exact Or.inl (inSet_trans rfl hm)
    | with_reducible first
      | assumption | (intro) | apply State.remoteAnswer_inv | apply State.setRxFlow_inv | apply State.setTxFlow_inv
      | apply Inv.ite | apply Inv.foldl | apply Upd.of | simp -iota only [Inv.update] | split | dsimp -iota only
      | dsimp only

theorem State.freeLot_inv {fm : Nat} {s₀ : State} (s : State) (lot : Nat) (fail : Bool) (h_s : Inv fm s₀ s)
    (hm : InSet 13198372894780 fm) :
    Inv fm s₀ (State.freeLot s lot fail) := by
  delta State.freeLot
  repeat' first
    | exact inSet_trans rfl hm
    | with_reducible first
      | assumption | (intro) | apply State.freeFlow_inv | apply Inv.ite | apply Inv.foldl | split | dsimp -iota only
      | dsimp only

theorem State.respond_inv {fm : Nat} {s₀ : State} (s : State) (src lot type tag : Nat) (ok : Bool) (bs : List Byte)
    (ps : Option Nat) (h_s : Inv fm s₀ s) (hm : InSet 13196225396796 fm) :
    Inv fm s₀ (State.respond s src lot type tag ok bs ps) := by
  delta State.respond
  repeat' first
    | exact inSet_trans rfl hm
    | with_reducible exact Or.inr rfl
    | exact Or.inl (inSet_trans rfl hm)
    | with_reducible first
      | assumption | (intro) | apply State.bump_inv | apply State.sendFrame_inv | apply Inv.ite | apply Upd.of
      | simp -iota only [Inv.update] | split | dsimp -iota only | dsimp only

theorem State.acked_inv {fm : Nat} {s₀ : State} (s : State) (src lot ack : Nat) (h_s : Inv fm s₀ s)
    (hm : InSet 4194308 fm) :
    Inv fm s₀ (State.acked s src lot ack) := by
  delta State.acked
  repeat' first
    | exact inSet_trans rfl hm
    | with_reducible exact Or.inr rfl
    | exact Or.inl (inSet_trans rfl hm)
    | with_reducible first
      | assumption | (intro) | apply State.setTxFlow_inv | apply Inv.ite | apply Upd.of
      | simp -iota only [Inv.update] | split | dsimp -iota only | dsimp only

theorem State.delivered'_inv {fm : Nat} {s₀ : State} (s : State) (src lot seq : Nat) (h_s : Inv fm s₀ s)
    (hm : InSet 4194308 fm) :
    Inv fm s₀ (State.delivered' s src lot seq) := by
  delta State.delivered'
  repeat' first
    | exact inSet_trans rfl hm
    | with_reducible exact Or.inr rfl
    | exact Or.inl (inSet_trans rfl hm)
    | with_reducible first
      | assumption | (intro) | apply State.setRxFlow_inv | apply Inv.ite | apply Inv.getD | apply Upd.of
      | simp -iota only [Inv.update] | split | dsimp -iota only | dsimp only

theorem State.receive_inv {fm : Nat} {s₀ : State} (s : State) (type : Nat) (f : Frame) (serve : State → Option State)
    (h_s : Inv fm s₀ s) (h_serve : ∀ a0, Inv fm s₀ a0 → OptInv fm s₀ (serve a0)) (hm : InSet 13196225396796 fm) :
    Inv fm s₀ (State.receive s type f serve) := by
  delta State.receive
  repeat' first
    | exact inSet_trans rfl hm
    | with_reducible exact Or.inr rfl
    | exact Or.inl (inSet_trans rfl hm)
    | with_reducible first
      | assumption | (intro) | apply State.acked_inv | apply State.bump_inv | apply State.delivered'_inv
      | apply State.sendAck_inv | apply State.setFld_inv | apply State.setRxFlow_inv | apply h_serve | apply Inv.ite
      | apply OptInv.ite | apply OptInv.none | apply OptInv.some | apply Inv.getD | apply Upd.of
      | simp -iota only [Inv.update] | split | refine OptInv.of_eq (by assumption) ?_ | dsimp -iota only | dsimp only

theorem State.takeResponse_inv {fm : Nat} {s₀ : State} (s : State) (f : Frame) (h_s : Inv fm s₀ s)
    (hm : InSet 13198372894780 fm) :
    OptInv fm s₀ (State.takeResponse s f) := by
  delta State.takeResponse
  repeat' first
    | exact inSet_trans rfl hm
    | with_reducible exact Or.inr rfl
    | exact Or.inl (inSet_trans rfl hm)
    | with_reducible first
      | assumption | (intro) | apply State.bump_inv | apply State.range_inv
      | (apply PairInv.snd; apply State.range_inv) | apply State.remoteAnswer_inv | apply Inv.ite | apply PairInv.ite
      | (apply PairInv.snd; apply PairInv.ite) | apply OptInv.ite | apply OptInv.none | apply OptInv.some
      | apply Upd.of | simp -iota only [Inv.update, PairInv.mk'] | split | refine PairInv.of_eq (by assumption) ?_
      | refine OptInv.of_eq (by assumption) ?_ | dsimp -iota only | dsimp only

theorem State.setLotCmd_inv {fm : Nat} {s₀ : State} (s : State) (c : Option (Bool × Nat × Nat)) (h_s : Inv fm s₀ s)
    (hm : InSet 4194308 fm) :
    Inv fm s₀ (State.setLotCmd s c) := by
  delta State.setLotCmd
  repeat' first
    | exact inSet_trans rfl hm
    | with_reducible exact Or.inr rfl
    | exact Or.inl (inSet_trans rfl hm)
    | with_reducible first
      | assumption | (intro) | apply State.setFld_inv | apply Inv.ite | apply Upd.of | simp -iota only [Inv.update]
      | split | dsimp -iota only | dsimp only

theorem State.lotAdvance_inv {fm : Nat} {s₀ : State} (s : State) (k : Nat) (h_s : Inv fm s₀ s) (hm : InSet 4194308 fm) :
    Inv fm s₀ (State.lotAdvance s k) := by
  delta State.lotAdvance
  repeat' first
    | exact inSet_trans rfl hm
    | with_reducible exact Or.inr rfl
    | exact Or.inl (inSet_trans rfl hm)
    | with_reducible first
      | assumption | (intro) | apply State.setFld_inv | apply State.setFlds_inv | apply Inv.ite | apply Upd.of
      | simp -iota only [Inv.update] | split | dsimp -iota only | dsimp only

set_option maxRecDepth 4000 in
theorem State.lotEdge_inv {fm : Nat} {s₀ : State} (s : State) (h_s : Inv fm s₀ s) (hm : InSet 13196225396796 fm) :
    Inv fm s₀ (State.lotEdge s) := by
  delta State.lotEdge
  try generalize List.range 16 = l16
  try generalize List.range 32 = l32
  try generalize List.range 64 = l64
  repeat' first
    | exact inSet_trans rfl hm
    | with_reducible exact Or.inr rfl
    | exact Or.inl (inSet_trans rfl hm)
    | with_reducible first
      | assumption | (intro) | apply State.lotAdvance_inv | apply State.range_inv
      | (apply PairInv.snd; apply State.range_inv) | apply State.setFld_inv | apply State.setFlds_inv
      | apply State.setLotCmd_inv | apply Inv.ite | apply PairInv.ite | (apply PairInv.snd; apply PairInv.ite)
      | apply Inv.foldl | apply Upd.of | simp -iota only [Inv.update, PairInv.mk'] | split
      | refine PairInv.of_eq (by assumption) ?_ | dsimp -iota only | dsimp only

theorem State.lotFree_inv {fm : Nat} {s₀ : State} (s : State) (k : Nat) (fail : Bool) (h_s : Inv fm s₀ s)
    (hm : InSet 13198372894780 fm) :
    Inv fm s₀ (State.lotFree s k fail) := by
  delta State.lotFree
  repeat' first
    | exact inSet_trans rfl hm
    | with_reducible exact Or.inr rfl
    | exact Or.inl (inSet_trans rfl hm)
    | with_reducible first
      | assumption | (intro) | apply State.freeLot_inv | apply State.raise_inv | apply State.setFlds_inv
      | apply Inv.ite | apply Upd.of | simp -iota only [Inv.update] | split | dsimp -iota only | dsimp only

theorem State.showClock_inv {fm : Nat} {s₀ : State} (s : State) (h_s : Inv fm s₀ s) (hm : InSet 13196221202492 fm) :
    Inv fm s₀ (State.showClock s) := by
  delta State.showClock
  repeat' first
    | exact inSet_trans rfl hm
    | with_reducible first
      | assumption | (intro) | apply State.range_inv | (apply PairInv.snd; apply State.range_inv)
      | apply State.setFlds_inv | apply Inv.ite | apply PairInv.ite | (apply PairInv.snd; apply PairInv.ite)
      | simp -iota only [PairInv.mk'] | split | refine PairInv.of_eq (by assumption) ?_ | dsimp -iota only
      | dsimp only

theorem State.holdover_inv {fm : Nat} {s₀ : State} (s : State) (h_s : Inv fm s₀ s) (hm : InSet 13196229591100 fm) :
    Inv fm s₀ (State.holdover s) := by
  delta State.holdover
  repeat' first
    | exact inSet_trans rfl hm
    | with_reducible exact Or.inr rfl
    | exact Or.inl (inSet_trans rfl hm)
    | with_reducible first
      | assumption | (intro) | apply State.bump_inv | apply State.raise_inv | apply State.setFlds_inv | apply Inv.ite
      | apply Upd.of | simp -iota only [Inv.update] | split | dsimp -iota only | dsimp only

theorem State.lock_inv {fm : Nat} {s₀ : State} (s : State) (h_s : Inv fm s₀ s) (hm : InSet 8388612 fm) :
    Inv fm s₀ (State.lock s) := by
  delta State.lock
  repeat' first
    | exact inSet_trans rfl hm
    | with_reducible exact Or.inr rfl
    | exact Or.inl (inSet_trans rfl hm)
    | with_reducible first
      | assumption | (intro) | apply State.setFlds_inv | apply Inv.ite | apply Upd.of | simp -iota only [Inv.update]
      | split | dsimp -iota only | dsimp only

end Sys2Proof.Machine
end

