-- ==== Sys2Proof/Laws/InvRecoveryOps.lean ====
section
/-!
SUPPORT. Laws/InvRecoveryOps.lean: the operations of Machine/RecoveryOps.lean write only the fields named, and keep memories canonical.
-/

set_option simprocs false
set_option linter.unusedSimpArgs false
set_option linter.unusedVariables false

namespace Sys2Proof.Machine

theorem State.pend_inv {fm : Nat} {s₀ : State} (s : State) (kind id cause : Nat) (h_s : Inv fm s₀ s)
    (hm : InSet 13215550666812 fm) :
    Inv fm s₀ (State.pend s kind id cause) := by
  delta State.pend
  repeat' first
    | exact inSet_trans rfl hm
    | with_reducible exact Or.inr rfl
    | exact Or.inl (inSet_trans rfl hm)
    | with_reducible first
      | assumption | (intro) | apply State.nodeFatal_inv | apply State.setRecovery_inv | apply Inv.ite | apply Upd.of
      | simp -iota only [Inv.update] | split | dsimp -iota only | dsimp only

theorem State.isolatePort_inv {fm : Nat} {s₀ : State} (s : State) (p : Nat) (h_s : Inv fm s₀ s)
    (hm : InSet 13196231688252 fm) :
    Inv fm s₀ (State.isolatePort s p) := by
  delta State.isolatePort
  repeat' first
    | exact inSet_trans rfl hm
    | with_reducible exact Or.inr rfl
    | exact Or.inl (inSet_trans rfl hm)
    | with_reducible first
      | assumption | (intro) | apply State.holdover_inv | apply State.raise_inv | apply State.setFld_inv
      | apply State.showClock_inv | apply Inv.ite | apply Upd.of | simp -iota only [Inv.update] | split
      | dsimp -iota only | dsimp only

theorem State.isolate_inv {fm : Nat} {s₀ : State} (s : State) (d : Domain) (h_s : Inv fm s₀ s)
    (hm : InSet 13224149514300 fm) :
    Inv fm s₀ (State.isolate s d) := by
  delta State.isolate
  repeat' first
    | exact inSet_trans rfl hm
    | with_reducible exact Or.inr rfl
    | exact Or.inl (inSet_trans rfl hm)
    | with_reducible first
      | assumption | (intro) | apply State.darn_inv | apply State.endRecovery_inv | apply State.fenceUnit_inv
      | apply State.isolatePort_inv | apply State.nodeFatal_inv | apply State.setRecovery_inv
      | apply State.trySingle_inv | apply Inv.ite | apply Upd.of | simp -iota only [Inv.update] | split
      | dsimp -iota only | dsimp only

theorem State.joinPending_inv {fm : Nat} {s₀ : State} (s : State) (kind id cause : Nat) (h_s : Inv fm s₀ s)
    (hm : InSet 13215550666812 fm) :
    Inv fm s₀ (State.joinPending s kind id cause) := by
  delta State.joinPending
  repeat' first
    | exact inSet_trans rfl hm
    | with_reducible exact Or.inr rfl
    | exact Or.inl (inSet_trans rfl hm)
    | with_reducible first
      | assumption | (intro) | apply State.pend_inv | apply State.setRecovery_inv | apply Inv.ite | apply Upd.of
      | simp -iota only [Inv.update] | split | dsimp -iota only | dsimp only

theorem State.evacFault_inv {fm : Nat} {s₀ : State} (s : State) (u : MapOut) (kind id cause : Nat) (h_s : Inv fm s₀ s)
    (hm : InSet 13215550928956 fm) :
    Inv fm s₀ (State.evacFault s u kind id cause) := by
  delta State.evacFault
  repeat' first
    | exact inSet_trans rfl hm
    | with_reducible exact Or.inr rfl
    | exact Or.inl (inSet_trans rfl hm)
    | with_reducible first
      | assumption | (intro) | apply State.fenceUnit_inv | apply State.joinPending_inv | apply Inv.ite | apply Upd.of
      | simp -iota only [Inv.update] | split | dsimp -iota only | dsimp only

theorem State.motifDown_inv {fm : Nat} {s₀ : State} (s : State) (m cause : Nat) (h_s : Inv fm s₀ s)
    (hm : InSet 13196221202492 fm) :
    Inv fm s₀ (State.motifDown s m cause) := by
  delta State.motifDown
  repeat' first
    | exact inSet_trans rfl hm
    | with_reducible first
      | assumption | (intro) | apply State.raise_inv | apply State.setPos_inv | apply Inv.ite | split
      | dsimp -iota only | dsimp only

theorem State.faultPlain_inv {fm : Nat} {s₀ : State} (s : State) (kind id cause : Nat) (h_s : Inv fm s₀ s)
    (hm : InSet 13224149776444 fm) :
    Inv fm s₀ (State.faultPlain s kind id cause) := by
  delta State.faultPlain
  repeat' first
    | exact inSet_trans rfl hm
    | with_reducible exact Or.inr rfl
    | exact Or.inl (inSet_trans rfl hm)
    | with_reducible first
      | assumption | (intro) | apply State.evacFault_inv | apply State.fenceUnit_inv | apply State.isolate_inv
      | apply State.joinPending_inv | apply State.nodeFatal_inv | apply State.raise_inv | apply State.setRecovery_inv
      | apply Inv.ite | apply Upd.of | simp -iota only [Inv.update] | split | dsimp -iota only | dsimp only

theorem State.faultArrive_inv {fm : Nat} {s₀ : State} (s : State) (kind id cause : Nat) (h_s : Inv fm s₀ s)
    (hm : InSet 13224149776444 fm) :
    Inv fm s₀ (State.faultArrive s kind id cause) := by
  delta State.faultArrive
  repeat' first
    | exact inSet_trans rfl hm
    | with_reducible exact Or.inr rfl
    | exact Or.inl (inSet_trans rfl hm)
    | with_reducible first
      | assumption | (intro) | apply State.faultPlain_inv | apply State.motifDown_inv | apply Inv.ite | apply Upd.of
      | simp -iota only [Inv.update] | split | dsimp -iota only | dsimp only

theorem State.motifFault_inv {fm : Nat} {s₀ : State} (s : State) (m cause : Nat) (h_s : Inv fm s₀ s)
    (hm : InSet 13224149776444 fm) :
    Inv fm s₀ (State.motifFault s m cause) := by
  delta State.motifFault
  repeat' first
    | exact inSet_trans rfl hm
    | with_reducible first
      | assumption | (intro) | apply State.faultArrive_inv | apply Inv.ite | split | dsimp -iota only | dsimp only

theorem State.startStack_inv {fm : Nat} {s₀ : State} (s : State) (d : Domain) (h_s : Inv fm s₀ s)
    (hm : InSet 13196223561788 fm) :
    Inv fm s₀ (State.startStack s d) := by
  delta State.startStack
  repeat' first
    | exact inSet_trans rfl hm
    | with_reducible exact Or.inr rfl
    | exact Or.inl (inSet_trans rfl hm)
    | with_reducible first
      | assumption | (intro) | apply State.awaitGrant_inv | apply State.endRecovery_inv | apply State.fenceUnit_inv
      | apply State.setRecovery_inv | apply State.startEvac_inv | apply Inv.ite | apply Upd.of
      | simp -iota only [Inv.update] | split | dsimp -iota only | dsimp only

theorem State.loseFlows_inv {fm : Nat} {s₀ : State} (s : State) (h_s : Inv fm s₀ s) (hm : InSet 13198372894780 fm) :
    Inv fm s₀ (State.loseFlows s) := by
  delta State.loseFlows
  repeat' first
    | exact inSet_trans rfl hm
    | with_reducible first
      | assumption | (intro) | apply State.bump_inv | apply State.freeFlow_inv | apply State.raise_inv
      | apply State.setFld_inv | apply Inv.ite | apply Inv.foldl | split | dsimp -iota only | dsimp only

theorem State.checkStreams_inv {fm : Nat} {s₀ : State} (s : State) (h_s : Inv fm s₀ s) (hm : InSet 13198368686140 fm) :
    Inv fm s₀ (State.checkStreams s) := by
  delta State.checkStreams
  repeat' first
    | exact inSet_trans rfl hm
    | with_reducible exact Or.inr rfl
    | exact Or.inl (inSet_trans rfl hm)
    | with_reducible first
      | assumption | (intro) | apply State.breakStream_inv | apply State.followLink_inv
      | (apply PairInv.snd; apply State.followLink_inv) | apply Inv.ite | apply PairInv.ite
      | (apply PairInv.snd; apply PairInv.ite) | apply Inv.foldl | apply Inv.getD | apply Upd.of
      | simp -iota only [Inv.update, PairInv.mk'] | split | refine PairInv.of_eq (by assumption) ?_
      | dsimp -iota only | dsimp only

theorem State.failCopies_inv {fm : Nat} {s₀ : State} (s : State) (h_s : Inv fm s₀ s) (hm : InSet 13196221202492 fm) :
    Inv fm s₀ (State.failCopies s) := by
  delta State.failCopies
  repeat' first
    | exact inSet_trans rfl hm
    | with_reducible exact Or.inr rfl
    | exact Or.inl (inSet_trans rfl hm)
    | with_reducible first
      | assumption | (intro) | apply State.complete_inv | apply Inv.ite | apply Inv.foldl | apply Upd.of
      | simp -iota only [Inv.update] | split | dsimp -iota only | dsimp only

theorem State.abortAll_inv {fm : Nat} {s₀ : State} (s : State) (h_s : Inv fm s₀ s) (hm : InSet 13215548570684 fm) :
    Inv fm s₀ (State.abortAll s) := by
  delta State.abortAll
  repeat' first
    | exact inSet_trans rfl hm
    | with_reducible exact Or.inr rfl
    | exact Or.inl (inSet_trans rfl hm)
    | with_reducible first
      | assumption | (intro) | apply State.abortAgent_inv | apply State.freeEntry_inv | apply State.range_inv
      | (apply PairInv.snd; apply State.range_inv) | apply State.refusedAgain_inv | apply Inv.ite | apply PairInv.ite
      | (apply PairInv.snd; apply PairInv.ite) | apply Inv.foldl | apply Upd.of
      | simp -iota only [Inv.update, PairInv.mk'] | split | refine PairInv.of_eq (by assumption) ?_
      | dsimp -iota only | dsimp only

theorem State.stopHart_inv {fm : Nat} {s₀ : State} (s : State) (h : Nat) (h_s : Inv fm s₀ s)
    (hm : InSet 13196221202492 fm) :
    Inv fm s₀ (State.stopHart s h) := by
  delta State.stopHart
  repeat' first
    | exact inSet_trans rfl hm
    | with_reducible first
      | assumption | (intro) | apply State.leavePrivate_inv | apply State.setFld_inv | apply Inv.ite
      | apply Inv.foldl | split | dsimp -iota only | dsimp only

theorem State.startYoke_inv {fm : Nat} {s₀ : State} (s : State) (id : Nat) (h_s : Inv fm s₀ s)
    (hm : InSet 13215552764988 fm) :
    Inv fm s₀ (State.startYoke s id) := by
  delta State.startYoke
  repeat' first
    | exact inSet_trans rfl hm
    | with_reducible exact Or.inr rfl
    | exact Or.inl (inSet_trans rfl hm)
    | with_reducible first
      | assumption | (intro) | apply State.abortAll_inv | apply State.checkStreams_inv | apply State.failCopies_inv
      | apply State.loseFlows_inv | apply State.stopHart_inv | apply Inv.ite | apply Upd.of
      | simp -iota only [Inv.update] | split | dsimp -iota only | dsimp only

theorem State.takeDomain_inv {fm : Nat} {s₀ : State} (s : State) (d : Domain) (h_s : Inv fm s₀ s)
    (hm : InSet 13224153971772 fm) :
    Inv fm s₀ (State.takeDomain s d) := by
  delta State.takeDomain
  repeat' first
    | exact inSet_trans rfl hm
    | with_reducible exact Or.inr rfl
    | exact Or.inl (inSet_trans rfl hm)
    | with_reducible first
      | assumption | (intro) | apply State.isolate_inv | apply State.raise_inv | apply State.retrain_inv
      | apply State.sendChain_inv | apply State.setFld_inv | apply State.setRecovery_inv | apply State.showClock_inv
      | apply State.startStack_inv | apply State.startYoke_inv | apply Inv.ite | apply Upd.of
      | simp -iota only [Inv.update] | split | dsimp -iota only | dsimp only

theorem State.endStack_inv {fm : Nat} {s₀ : State} (s : State) (h_s : Inv fm s₀ s) (hm : InSet 13196223299644 fm) :
    Inv fm s₀ (State.endStack s) := by
  delta State.endStack
  repeat' first
    | exact inSet_trans rfl hm
    | with_reducible exact Or.inr rfl
    | exact Or.inl (inSet_trans rfl hm)
    | with_reducible first
      | assumption | (intro) | apply State.endRecovery_inv | apply Inv.ite | apply Upd.of
      | simp -iota only [Inv.update] | split | dsimp -iota only | dsimp only

theorem State.settleRecovery_inv {fm : Nat} {s₀ : State} (s : State) (h_s : Inv fm s₀ s)
    (hm : InSet 13196223299644 fm) :
    Inv fm s₀ (State.settleRecovery s) := by
  delta State.settleRecovery
  repeat' first
    | exact inSet_trans rfl hm
    | with_reducible exact Or.inr rfl
    | exact Or.inl (inSet_trans rfl hm)
    | with_reducible first
      | assumption | (intro) | apply State.endRecovery_inv | apply Inv.ite | apply Upd.of
      | simp -iota only [Inv.update] | split | dsimp -iota only | dsimp only

end Sys2Proof.Machine
end

