-- ==== Sys2Proof/Laws/InvPatternOps.lean ====
section
/-!
SUPPORT. Laws/InvPatternOps.lean: the operations of Machine/PatternOps.lean write only the fields named, and keep memories canonical.
-/

set_option simprocs false
set_option linter.unusedSimpArgs false
set_option linter.unusedVariables false

namespace Sys2Proof.Machine

theorem State.reject_inv {fm : Nat} {s₀ : State} (s : State) (slot stage type : Nat) (h_s : Inv fm s₀ s)
    (hm : InSet 4 fm) :
    Inv fm s₀ (State.reject s slot stage type) := by
  delta State.reject
  repeat' first
    | exact inSet_trans rfl hm
    | with_reducible first
      | assumption | (intro) | apply State.setFlds_inv | apply Inv.ite | split | dsimp -iota only | dsimp only

theorem State.showSlot_inv {fm : Nat} {s₀ : State} (s : State) (k : Nat) (h_s : Inv fm s₀ s)
    (hm : InSet 13196221202492 fm) :
    Inv fm s₀ (State.showSlot s k) := by
  delta State.showSlot
  repeat' first
    | exact inSet_trans rfl hm
    | with_reducible first
      | assumption | (intro) | apply State.range_inv | (apply PairInv.snd; apply State.range_inv)
      | apply State.setFlds_inv | apply State.setReg_inv | apply Inv.ite | apply PairInv.ite
      | (apply PairInv.snd; apply PairInv.ite) | apply Inv.foldl | simp -iota only [PairInv.mk'] | split
      | refine PairInv.of_eq (by assumption) ?_ | dsimp -iota only | dsimp only

end Sys2Proof.Machine
end

