-- ==== Sys2Proof/Laws/InvQueues.lean ====
section
/-!
SUPPORT. Laws/InvQueues.lean: the operations of Machine/Queues.lean write only the fields named, and keep memories canonical.
-/

set_option simprocs false
set_option linter.unusedSimpArgs false
set_option linter.unusedVariables false

namespace Sys2Proof.Machine

theorem execHostDoorbell_inv {fm : Nat} {s₀ : State} (off : BitVec 26) (size : BitVec 13) (v : BitVec 64)
    (rid : BitVec 16) (s : State) (h_s : Inv fm s₀ s) (hm : InSet 13196221202492 fm) :
    OutInv fm s₀ (execHostDoorbell off size v rid s) := by
  delta execHostDoorbell
  repeat' first
    | exact inSet_trans rfl hm
    | with_reducible first
      | assumption | (intro) | apply State.bump_inv | apply State.doorbell_inv | apply State.refuseHost_inv
      | apply State.setFld_inv | apply Inv.ite | apply OutInv.ite | apply OutInv.next | split | dsimp -iota only
      | dsimp only

theorem execNodeCoreDoorbell_inv {fm : Nat} {s₀ : State} (off : BitVec 26) (v : BitVec 64) (s : State)
    (h_s : Inv fm s₀ s) (hm : InSet 13196221202492 fm) :
    OutInv fm s₀ (execNodeCoreDoorbell off v s) := by
  delta execNodeCoreDoorbell
  repeat' first
    | exact inSet_trans rfl hm
    | with_reducible first
      | assumption | (intro) | apply State.bump_inv | apply State.doorbell_inv | apply Inv.ite | apply OutInv.ite
      | apply OutInv.next | split | dsimp -iota only | dsimp only

theorem execCommandFetch_inv {fm : Nat} {s₀ : State} (qid : BitVec 20) (data : BitVec 4096) (poisoned : Bool)
    (s : State) (h_s : Inv fm s₀ s) (hm : InSet 13196221202492 fm) :
    OutInv fm s₀ (execCommandFetch qid data poisoned s) := by
  delta execCommandFetch
  repeat' first
    | exact inSet_trans rfl hm
    | with_reducible exact Or.inr rfl
    | exact Or.inl (inSet_trans rfl hm)
    | with_reducible first
      | assumption | (intro) | apply State.acceptCmd_inv | apply State.askFetch_inv | apply State.consume_inv
      | apply State.headBytes_inv | (apply PairInv.snd; apply State.headBytes_inv) | apply State.setQueue_inv
      | apply Inv.ite | apply PairInv.ite | (apply PairInv.snd; apply PairInv.ite) | apply OutInv.ite
      | apply OutInv.next | apply Upd.of | simp -iota only [Inv.update, PairInv.mk'] | split
      | refine PairInv.of_eq (by assumption) ?_ | dsimp -iota only | dsimp only

theorem execSeqReread_inv {fm : Nat} {s₀ : State} (qid : BitVec 20) (data : BitVec 4096) (s : State)
    (h_s : Inv fm s₀ s) (hm : InSet 13196221202492 fm) :
    OutInv fm s₀ (execSeqReread qid data s) := by
  delta execSeqReread
  repeat' first
    | exact inSet_trans rfl hm
    | with_reducible exact Or.inr rfl
    | exact Or.inl (inSet_trans rfl hm)
    | with_reducible first
      | assumption | (intro) | apply State.acceptCmd_inv | apply State.askFetch_inv | apply State.bump_inv
      | apply State.consume_inv | apply State.headBytes_inv | (apply PairInv.snd; apply State.headBytes_inv)
      | apply State.raise_inv | apply State.setFld_inv | apply State.setQueue_inv | apply Inv.ite | apply PairInv.ite
      | (apply PairInv.snd; apply PairInv.ite) | apply OutInv.ite | apply OutInv.next | apply Upd.of
      | simp -iota only [Inv.update, PairInv.mk'] | split | refine PairInv.of_eq (by assumption) ?_
      | dsimp -iota only | dsimp only

theorem execFetchReissue_inv {fm : Nat} {s₀ : State} (qid : BitVec 20) (s : State) (h_s : Inv fm s₀ s)
    (hm : InSet 1610612736 fm) :
    OutInv fm s₀ (execFetchReissue qid s) := by
  delta execFetchReissue
  repeat' first
    | exact inSet_trans rfl hm
    | with_reducible exact Or.inr rfl
    | exact Or.inl (inSet_trans rfl hm)
    | with_reducible first
      | assumption | (intro) | apply State.askFetch_inv | apply State.setQueue_inv | apply Inv.ite | apply OutInv.ite
      | apply OutInv.next | apply Upd.of | simp -iota only [Inv.update] | split | dsimp -iota only | dsimp only

theorem State.admin_inv {fm : Nat} {s₀ : State} (s : State) (opc : Nat) (fields : List (Nat × Nat))
    (run : QCmd → State → Option State) (h_s : Inv fm s₀ s) (h_run : ∀ a0 a1, Inv fm s₀ a1 → OptInv fm s₀ (run a0 a1))
    (hm : InSet 13196221202492 fm) :
    Inv fm s₀ (State.admin s opc fields run) := by
  delta State.admin
  repeat' first
    | exact inSet_trans rfl hm
    | with_reducible exact Or.inr rfl
    | exact Or.inl (inSet_trans rfl hm)
    | with_reducible first
      | assumption | (intro) | apply State.complete_inv | apply h_run | apply Inv.ite | apply OptInv.ite
      | apply OptInv.none | apply OptInv.some | apply Upd.of | simp -iota only [Inv.update] | split
      | refine OptInv.of_eq (by assumption) ?_ | dsimp -iota only | dsimp only

theorem execCreateCq_inv {fm : Nat} {s₀ : State} (s : State) (h_s : Inv fm s₀ s) (hm : InSet 13196221202492 fm) :
    OutInv fm s₀ (execCreateCq s) := by
  delta execCreateCq
  repeat' first
    | exact inSet_trans rfl hm
    | with_reducible exact Or.inr rfl
    | exact Or.inl (inSet_trans rfl hm)
    | with_reducible first
      | assumption | (intro) | apply State.admin_inv | apply State.complete_inv | apply State.setCring_inv
      | apply Inv.ite | apply OptInv.ite | apply OutInv.ite | apply OptInv.none | apply OptInv.some
      | apply OutInv.next | apply Upd.of | simp -iota only [Inv.update] | split
      | refine OptInv.of_eq (by assumption) ?_ | dsimp -iota only | dsimp only

theorem execCreateSq_inv {fm : Nat} {s₀ : State} (s : State) (h_s : Inv fm s₀ s) (hm : InSet 13196221202492 fm) :
    OutInv fm s₀ (execCreateSq s) := by
  delta execCreateSq
  repeat' first
    | exact inSet_trans rfl hm
    | with_reducible exact Or.inr rfl
    | exact Or.inl (inSet_trans rfl hm)
    | with_reducible first
      | assumption | (intro) | apply State.admin_inv | apply State.complete_inv | apply State.setQueue_inv
      | apply Inv.ite | apply OptInv.ite | apply OutInv.ite | apply OptInv.none | apply OptInv.some
      | apply OutInv.next | apply Upd.of | simp -iota only [Inv.update] | split
      | refine OptInv.of_eq (by assumption) ?_ | dsimp -iota only | dsimp only

theorem execStopSq_inv {fm : Nat} {s₀ : State} (s : State) (h_s : Inv fm s₀ s) (hm : InSet 13196221202492 fm) :
    OutInv fm s₀ (execStopSq s) := by
  delta execStopSq
  repeat' first
    | exact inSet_trans rfl hm
    | with_reducible first
      | assumption | (intro) | apply State.admin_inv | apply State.setRun_inv | apply State.stopQueue_inv
      | apply Inv.ite | apply OptInv.ite | apply OutInv.ite | apply OptInv.none | apply OptInv.some
      | apply OutInv.next | split | refine OptInv.of_eq (by assumption) ?_ | dsimp -iota only | dsimp only

theorem execStopSqDone_inv {fm : Nat} {s₀ : State} (qid : BitVec 20) (s : State) (h_s : Inv fm s₀ s)
    (hm : InSet 13196221202492 fm) :
    OutInv fm s₀ (execStopSqDone qid s) := by
  delta execStopSqDone
  repeat' first
    | exact inSet_trans rfl hm
    | with_reducible exact Or.inr rfl
    | exact Or.inl (inSet_trans rfl hm)
    | with_reducible first
      | assumption | (intro) | apply State.complete_inv | apply State.setQueue_inv | apply Inv.ite | apply OutInv.ite
      | apply OutInv.next | apply Upd.of | simp -iota only [Inv.update] | split | dsimp -iota only | dsimp only

theorem execDeleteSq_inv {fm : Nat} {s₀ : State} (s : State) (h_s : Inv fm s₀ s) (hm : InSet 13196221202492 fm) :
    OutInv fm s₀ (execDeleteSq s) := by
  delta execDeleteSq
  repeat' first
    | exact inSet_trans rfl hm
    | with_reducible first
      | assumption | (intro) | apply State.admin_inv | apply State.complete_inv | apply State.setQueue_inv
      | apply Inv.ite | apply OptInv.ite | apply OutInv.ite | apply OptInv.none | apply OptInv.some
      | apply OutInv.next | split | refine OptInv.of_eq (by assumption) ?_ | dsimp -iota only | dsimp only

theorem execDeleteCq_inv {fm : Nat} {s₀ : State} (s : State) (h_s : Inv fm s₀ s) (hm : InSet 13196221202492 fm) :
    OutInv fm s₀ (execDeleteCq s) := by
  delta execDeleteCq
  repeat' first
    | exact inSet_trans rfl hm
    | with_reducible first
      | assumption | (intro) | apply State.admin_inv | apply State.complete_inv | apply State.setCring_inv
      | apply Inv.ite | apply OptInv.ite | apply OutInv.ite | apply OptInv.none | apply OptInv.some
      | apply OutInv.next | split | refine OptInv.of_eq (by assumption) ?_ | dsimp -iota only | dsimp only

theorem execBindSq_inv {fm : Nat} {s₀ : State} (s : State) (h_s : Inv fm s₀ s) (hm : InSet 13204811145276 fm) :
    OutInv fm s₀ (execBindSq s) := by
  delta execBindSq
  repeat' first
    | exact inSet_trans rfl hm
    | with_reducible first
      | assumption | (intro) | apply State.admin_inv | apply State.issueAll_inv | apply State.setRun_inv
      | apply Inv.ite | apply OptInv.ite | apply OutInv.ite | apply OptInv.none | apply OptInv.some
      | apply OutInv.next | split | refine OptInv.of_eq (by assumption) ?_ | dsimp -iota only | dsimp only

theorem execBindSqDone_inv {fm : Nat} {s₀ : State} (s : State) (h_s : Inv fm s₀ s) (hm : InSet 13196221202492 fm) :
    OutInv fm s₀ (execBindSqDone s) := by
  delta execBindSqDone
  repeat' first
    | exact inSet_trans rfl hm
    | with_reducible exact Or.inr rfl
    | exact Or.inl (inSet_trans rfl hm)
    | with_reducible first
      | assumption | (intro) | apply State.complete_inv | apply Inv.ite | apply OutInv.ite | apply OutInv.next
      | apply Upd.of | simp -iota only [Inv.update] | split | dsimp -iota only | dsimp only

theorem execNop_inv {fm : Nat} {s₀ : State} (qid : BitVec 20) (s : State) (h_s : Inv fm s₀ s)
    (hm : InSet 13196221202492 fm) :
    OutInv fm s₀ (execNop qid s) := by
  delta execNop
  repeat' first
    | exact inSet_trans rfl hm
    | with_reducible exact Or.inr rfl
    | exact Or.inl (inSet_trans rfl hm)
    | with_reducible first
      | assumption | (intro) | apply State.complete_inv | apply Inv.ite | apply OutInv.ite | apply OutInv.next
      | apply Upd.of | simp -iota only [Inv.update] | split | dsimp -iota only | dsimp only

theorem execStitch_inv {fm : Nat} {s₀ : State} (qid : BitVec 20) (s : State) (h_s : Inv fm s₀ s)
    (hm : InSet 13196221202492 fm) :
    OutInv fm s₀ (execStitch qid s) := by
  delta execStitch
  repeat' first
    | exact inSet_trans rfl hm
    | with_reducible exact Or.inr rfl
    | exact Or.inl (inSet_trans rfl hm)
    | with_reducible first
      | assumption | (intro) | apply State.complete_inv | apply State.setRun_inv | apply Inv.ite | apply OutInv.ite
      | apply OutInv.next | apply Upd.of | simp -iota only [Inv.update] | split | dsimp -iota only | dsimp only

theorem execStitchDispatch_inv {fm : Nat} {s₀ : State} (qid : BitVec 20) (s : State) (h_s : Inv fm s₀ s)
    (hm : InSet 13196221202492 fm) :
    OutInv fm s₀ (execStitchDispatch qid s) := by
  delta execStitchDispatch
  repeat' first
    | exact inSet_trans rfl hm
    | with_reducible exact Or.inr rfl
    | exact Or.inl (inSet_trans rfl hm)
    | with_reducible first
      | assumption | (intro) | apply State.bump_inv | apply State.complete_inv | apply State.setRun_inv
      | apply Inv.ite | apply OutInv.ite | apply OutInv.next | apply Upd.of | simp -iota only [Inv.update] | split
      | dsimp -iota only | dsimp only

theorem State.listRead_inv {fm : Nat} {s₀ : State} (s : State) (m : Nat) (a : Admitted) (n : Nat) (h_s : Inv fm s₀ s)
    (hm : InSet 13213401071676 fm) :
    PairInv fm s₀ (State.listRead s m a n) := by
  delta State.listRead
  repeat' first
    | exact inSet_trans rfl hm
    | with_reducible exact Or.inr rfl
    | exact Or.inl (inSet_trans rfl hm)
    | with_reducible first
      | assumption | (intro) | apply State.consume_inv | apply State.sendFault_inv | apply State.setRunning_inv
      | apply State.vaRead_inv | (apply PairInv.snd; apply State.vaRead_inv) | apply Inv.ite | apply PairInv.ite
      | (apply PairInv.snd; apply PairInv.ite) | apply Inv.getD | apply Upd.of
      | simp -iota only [Inv.update, PairInv.mk'] | split | refine PairInv.of_eq (by assumption) ?_
      | dsimp -iota only | dsimp only

theorem execDlistItemIssue_inv {fm : Nat} {s₀ : State} (m : Motif) (s : State) (h_s : Inv fm s₀ s)
    (hm : InSet 13215548569660 fm) :
    OutInv fm s₀ (execDlistItemIssue m s) := by
  delta execDlistItemIssue
  repeat' first
    | exact inSet_trans rfl hm
    | with_reducible exact Or.inr rfl
    | exact Or.inl (inSet_trans rfl hm)
    | with_reducible first
      | assumption | (intro) | apply State.arrayAccept_inv | apply State.launchAccept_inv | apply State.listRead_inv
      | (apply PairInv.snd; apply State.listRead_inv) | apply State.setRunning_inv | apply State.skArrive_inv
      | apply State.veAccept_inv | apply Inv.ite | apply PairInv.ite | (apply PairInv.snd; apply PairInv.ite)
      | apply OutInv.ite | apply OutInv.next | apply Upd.of | simp -iota only [Inv.update, PairInv.mk'] | split
      | refine PairInv.of_eq (by assumption) ?_ | dsimp -iota only | dsimp only

theorem execStitchCommandDone_inv {fm : Nat} {s₀ : State} (qid : BitVec 20) (idx : BitVec 24) (s : State)
    (h_s : Inv fm s₀ s) (hm : InSet 13196221202492 fm) :
    OutInv fm s₀ (execStitchCommandDone qid idx s) := by
  delta execStitchCommandDone
  repeat' first
    | exact inSet_trans rfl hm
    | with_reducible exact Or.inr rfl
    | exact Or.inl (inSet_trans rfl hm)
    | with_reducible first
      | assumption | (intro) | apply State.complete_inv | apply Inv.ite | apply OutInv.ite | apply OutInv.next
      | apply Upd.of | simp -iota only [Inv.update] | split | dsimp -iota only | dsimp only

theorem State.ioCmd_inv {fm : Nat} {s₀ : State} (s : State) (qid opc : Nat) (run : QCmd → State → State)
    (h_s : Inv fm s₀ s) (h_run : ∀ a0 a1, Inv fm s₀ a1 → Inv fm s₀ (run a0 a1)) (hm : InSet 13196221202492 fm) :
    Inv fm s₀ (State.ioCmd s qid opc run) := by
  delta State.ioCmd
  repeat' first
    | exact inSet_trans rfl hm
    | with_reducible exact Or.inr rfl
    | exact Or.inl (inSet_trans rfl hm)
    | with_reducible first
      | assumption | (intro) | apply State.complete_inv | apply h_run | apply Inv.ite | apply Upd.of
      | simp -iota only [Inv.update] | split | dsimp -iota only | dsimp only

theorem execWriteInline_inv {fm : Nat} {s₀ : State} (qid : BitVec 20) (s : State) (h_s : Inv fm s₀ s)
    (hm : InSet 13196221205564 fm) :
    OutInv fm s₀ (execWriteInline qid s) := by
  delta execWriteInline
  repeat' first
    | exact inSet_trans rfl hm
    | with_reducible exact Or.inr rfl
    | exact Or.inl (inSet_trans rfl hm)
    | with_reducible first
      | assumption | (intro) | apply State.cmdFault_inv | apply State.complete_inv | apply State.ioCmd_inv
      | apply State.setRun_inv | apply State.vaWrite_inv | (apply PairInv.snd; apply State.vaWrite_inv)
      | apply Inv.ite | apply PairInv.ite | (apply PairInv.snd; apply PairInv.ite) | apply OutInv.ite
      | apply OutInv.next | apply Upd.of | simp -iota only [Inv.update, PairInv.mk'] | split
      | refine PairInv.of_eq (by assumption) ?_ | dsimp -iota only | dsimp only

theorem execCopy_inv {fm : Nat} {s₀ : State} (qid : BitVec 20) (s : State) (h_s : Inv fm s₀ s)
    (hm : InSet 13196221202492 fm) :
    OutInv fm s₀ (execCopy qid s) := by
  delta execCopy
  repeat' first
    | exact inSet_trans rfl hm
    | with_reducible exact Or.inr rfl
    | exact Or.inl (inSet_trans rfl hm)
    | with_reducible first
      | assumption | (intro) | apply State.copyStep_inv | apply State.ioCmd_inv | apply State.setRun_inv
      | apply Inv.ite | apply OutInv.ite | apply OutInv.next | apply Upd.of | simp -iota only [Inv.update] | split
      | dsimp -iota only | dsimp only

theorem execHostReadCompletion_inv {fm : Nat} {s₀ : State} (qid : BitVec 20) (idx : BitVec 24)
    (data : List (BitVec 8)) (outcome : HostReadOutcome) (s : State) (h_s : Inv fm s₀ s)
    (hm : InSet 13196221205564 fm) :
    OutInv fm s₀ (execHostReadCompletion qid idx data outcome s) := by
  delta execHostReadCompletion
  repeat' first
    | exact inSet_trans rfl hm
    | with_reducible exact Or.inr rfl
    | exact Or.inl (inSet_trans rfl hm)
    | with_reducible first
      | assumption | (intro) | apply State.complete_inv | apply State.copyData_inv | apply State.setFld_inv
      | apply Inv.ite | apply OutInv.ite | apply OutInv.next | apply Upd.of | simp -iota only [Inv.update] | split
      | dsimp -iota only | dsimp only

theorem execSkein_inv {fm : Nat} {s₀ : State} (qid : BitVec 20) (s : State) (h_s : Inv fm s₀ s)
    (hm : InSet 13198368686140 fm) :
    OutInv fm s₀ (execSkein qid s) := by
  delta execSkein
  repeat' first
    | exact inSet_trans rfl hm
    | with_reducible exact Or.inr rfl
    | exact Or.inl (inSet_trans rfl hm)
    | with_reducible first
      | assumption | (intro) | apply State.bump_inv | apply State.complete_inv | apply State.setRun_inv
      | apply State.skArrive_inv | apply Inv.ite | apply OutInv.ite | apply OutInv.next | apply Upd.of
      | simp -iota only [Inv.update] | split | dsimp -iota only | dsimp only

theorem execSignal_inv {fm : Nat} {s₀ : State} (qid : BitVec 20) (s : State) (h_s : Inv fm s₀ s)
    (hm : InSet 13196221205564 fm) :
    OutInv fm s₀ (execSignal qid s) := by
  delta execSignal
  repeat' first
    | exact inSet_trans rfl hm
    | with_reducible exact Or.inr rfl
    | exact Or.inl (inSet_trans rfl hm)
    | with_reducible first
      | assumption | (intro) | apply State.cmdFault_inv | apply State.complete_inv | apply State.consume_inv
      | apply State.ioCmd_inv | apply State.setRun_inv | apply State.vaAdd_inv
      | (apply PairInv.snd; apply State.vaAdd_inv) | apply Inv.ite | apply PairInv.ite
      | (apply PairInv.snd; apply PairInv.ite) | apply OutInv.ite | apply OutInv.next | apply Upd.of
      | simp -iota only [Inv.update, PairInv.mk'] | split | refine PairInv.of_eq (by assumption) ?_
      | dsimp -iota only | dsimp only

theorem State.waitRead_inv {fm : Nat} {s₀ : State} (s : State) (k : Nat) (c : QCmd) (h_s : Inv fm s₀ s)
    (hm : InSet 13196221202492 fm) :
    Inv fm s₀ (State.waitRead s k c) := by
  delta State.waitRead
  repeat' first
    | exact inSet_trans rfl hm
    | with_reducible exact Or.inr rfl
    | exact Or.inl (inSet_trans rfl hm)
    | with_reducible first
      | assumption | (intro) | apply State.cmdFault_inv | apply State.complete_inv | apply State.consume_inv
      | apply State.setRun_inv | apply State.vaRead_inv | (apply PairInv.snd; apply State.vaRead_inv) | apply Inv.ite
      | apply PairInv.ite | (apply PairInv.snd; apply PairInv.ite) | apply Upd.of
      | simp -iota only [Inv.update, PairInv.mk'] | split | refine PairInv.of_eq (by assumption) ?_
      | dsimp -iota only | dsimp only

theorem execWait_inv {fm : Nat} {s₀ : State} (qid : BitVec 20) (s : State) (h_s : Inv fm s₀ s)
    (hm : InSet 13196221202492 fm) :
    OutInv fm s₀ (execWait qid s) := by
  delta execWait
  repeat' first
    | exact inSet_trans rfl hm
    | with_reducible first
      | assumption | (intro) | apply State.ioCmd_inv | apply State.waitRead_inv | apply Inv.ite | apply OutInv.ite
      | apply OutInv.next | split | dsimp -iota only | dsimp only

theorem execWaitSatisfied_inv {fm : Nat} {s₀ : State} (qid : BitVec 20) (s : State) (h_s : Inv fm s₀ s)
    (hm : InSet 13196221202492 fm) :
    OutInv fm s₀ (execWaitSatisfied qid s) := by
  delta execWaitSatisfied
  repeat' first
    | exact inSet_trans rfl hm
    | with_reducible exact Or.inr rfl
    | exact Or.inl (inSet_trans rfl hm)
    | with_reducible first
      | assumption | (intro) | apply State.waitRead_inv | apply Inv.ite | apply OutInv.ite | apply OutInv.next
      | apply Upd.of | simp -iota only [Inv.update] | split | dsimp -iota only | dsimp only

theorem State.mover_inv {fm : Nat} {s₀ : State} (s : State) (k opc : Nat) (adv : Nat → Bool)
    (step : QCmd → Moved → Bool → State → State) (h_s : Inv fm s₀ s)
    (h_step : ∀ a0 a1 a2 a3, Inv fm s₀ a3 → Inv fm s₀ (step a0 a1 a2 a3)) (hm : InSet 13196221202492 fm) :
    Inv fm s₀ (State.mover s k opc adv step) := by
  delta State.mover
  repeat' first
    | exact inSet_trans rfl hm
    | with_reducible exact Or.inr rfl
    | exact Or.inl (inSet_trans rfl hm)
    | with_reducible first
      | assumption | (intro) | apply State.moverStart_inv | apply h_step | apply Inv.ite | apply Upd.of
      | simp -iota only [Inv.update] | split | dsimp -iota only | dsimp only

theorem execPrefetch_inv {fm : Nat} {s₀ : State} (qid : BitVec 20) (data : List (BitVec 8)) (ok : Bool) (s : State)
    (h_s : Inv fm s₀ s) (hm : InSet 13196221202492 fm) :
    OutInv fm s₀ (execPrefetch qid data ok s) := by
  delta execPrefetch
  repeat' first
    | exact inSet_trans rfl hm
    | with_reducible first
      | assumption | (intro) | apply State.mover_inv | apply State.moverEnd_inv | apply State.prefetchLeaf_inv
      | apply State.setFld_inv | apply Inv.ite | apply OutInv.ite | apply OutInv.next | split | dsimp -iota only
      | dsimp only

theorem execAdviseEvict_inv {fm : Nat} {s₀ : State} (qid : BitVec 20) (ok : Bool) (s : State) (h_s : Inv fm s₀ s)
    (hm : InSet 13196221202492 fm) :
    OutInv fm s₀ (execAdviseEvict qid ok s) := by
  delta execAdviseEvict
  repeat' first
    | exact inSet_trans rfl hm
    | with_reducible first
      | assumption | (intro) | apply State.evictLeaf_inv | apply State.mover_inv | apply Inv.ite | apply OutInv.ite
      | apply OutInv.next | split | dsimp -iota only | dsimp only

theorem execAdviseDrop_inv {fm : Nat} {s₀ : State} (qid : BitVec 20) (s : State) (h_s : Inv fm s₀ s)
    (hm : InSet 13196221202492 fm) :
    OutInv fm s₀ (execAdviseDrop qid s) := by
  delta execAdviseDrop
  repeat' first
    | exact inSet_trans rfl hm
    | with_reducible first
      | assumption | (intro) | apply State.evictLeaf_inv | apply State.mover_inv | apply Inv.ite | apply OutInv.ite
      | apply OutInv.next | split | dsimp -iota only | dsimp only

theorem execAdviseWarm_inv {fm : Nat} {s₀ : State} (qid : BitVec 20) (s : State) (h_s : Inv fm s₀ s)
    (hm : InSet 13196221202492 fm) :
    OutInv fm s₀ (execAdviseWarm qid s) := by
  delta execAdviseWarm
  repeat' first
    | exact inSet_trans rfl hm
    | with_reducible first
      | assumption | (intro) | apply State.mover_inv | apply State.warmLeaf_inv | apply Inv.ite | apply OutInv.ite
      | apply OutInv.next | split | dsimp -iota only | dsimp only

theorem execQeCqDb_inv {fm : Nat} {s₀ : State} (v : BitVec 64) (s : State) (h_s : Inv fm s₀ s)
    (hm : InSet 13196221202492 fm) :
    OutInv fm s₀ (execQeCqDb v s) := by
  delta execQeCqDb
  repeat' first
    | exact inSet_trans rfl hm
    | with_reducible exact Or.inr rfl
    | exact Or.inl (inSet_trans rfl hm)
    | with_reducible first
      | assumption | (intro) | apply State.bump_inv | apply State.drainHeld_inv | apply State.setCring_inv
      | apply Inv.ite | apply OutInv.ite | apply OutInv.next | apply Upd.of | simp -iota only [Inv.update] | split
      | dsimp -iota only | dsimp only

theorem State.adminUp_inv {fm : Nat} {s₀ : State} (s : State) (h_s : Inv fm s₀ s) (hm : InSet 4 fm) :
    Inv fm s₀ (State.adminUp s) := by
  delta State.adminUp
  repeat' first
    | exact inSet_trans rfl hm
    | with_reducible first
      | assumption | (intro) | apply State.setFld_inv | apply Inv.ite | split | dsimp -iota only | dsimp only

theorem execQeAdminSqWrite_inv {fm : Nat} {s₀ : State} (v : BitVec 64) (s : State) (h_s : Inv fm s₀ s)
    (hm : InSet 1073741828 fm) :
    OutInv fm s₀ (execQeAdminSqWrite v s) := by
  delta execQeAdminSqWrite
  repeat' first
    | exact inSet_trans rfl hm
    | with_reducible exact Or.inr rfl
    | exact Or.inl (inSet_trans rfl hm)
    | with_reducible first
      | assumption | (intro) | apply State.adminUp_inv | apply State.onQueue_inv | apply State.setFld_inv
      | apply State.setQueue_inv | apply State.setReg_inv | apply Inv.ite | apply OutInv.ite | apply OutInv.next
      | apply Upd.of | simp -iota only [Inv.update] | split | dsimp -iota only | dsimp only

theorem execQeAdminCqWrite_inv {fm : Nat} {s₀ : State} (v : BitVec 64) (s : State) (h_s : Inv fm s₀ s)
    (hm : InSet 1073741828 fm) :
    OutInv fm s₀ (execQeAdminCqWrite v s) := by
  delta execQeAdminCqWrite
  repeat' first
    | exact inSet_trans rfl hm
    | with_reducible exact Or.inr rfl
    | exact Or.inl (inSet_trans rfl hm)
    | with_reducible first
      | assumption | (intro) | apply State.adminUp_inv | apply State.setCring_inv | apply State.setFld_inv
      | apply State.setReg_inv | apply Inv.ite | apply OutInv.ite | apply OutInv.next | apply Upd.of
      | simp -iota only [Inv.update] | split | dsimp -iota only | dsimp only

end Sys2Proof.Machine
end

