-- ==== Sys2Proof/Laws/InvCoherence.lean ====
section
/-!
SUPPORT. Laws/InvCoherence.lean: the operations of Machine/Coherence.lean write only the fields named, and keep memories canonical.
-/

set_option simprocs false
set_option linter.unusedSimpArgs false
set_option linter.unusedVariables false

namespace Sys2Proof.Machine

theorem State.arrive_inv {fm : Nat} {s₀ : State} (s : State) (dst code line : Nat) (f : State → State)
    (h_s : Inv fm s₀ s) (h_f : ∀ a0, Inv fm s₀ a0 → Inv fm s₀ (f a0)) (hm : InSet 67108864 fm) :
    Inv fm s₀ (State.arrive s dst code line f) := by
  delta State.arrive
  repeat' first
    | exact inSet_trans rfl hm
    | with_reducible exact Or.inr rfl
    | exact Or.inl (inSet_trans rfl hm)
    | with_reducible first
      | assumption | (intro) | apply h_f | apply Inv.ite | apply Upd.of | simp -iota only [Inv.update] | split
      | dsimp -iota only | dsimp only

theorem State.atHome_inv {fm : Nat} {s₀ : State} (s : State) (k code line : Nat) (f : State → State)
    (h_s : Inv fm s₀ s) (h_f : ∀ a0, Inv fm s₀ a0 → Inv fm s₀ (f a0)) (hm : InSet 67108864 fm) :
    Inv fm s₀ (State.atHome s k code line f) := by
  delta State.atHome
  repeat' first
    | exact inSet_trans rfl hm
    | with_reducible first
      | assumption | (intro) | apply State.arrive_inv | apply h_f | apply Inv.ite | split | dsimp -iota only
      | dsimp only

theorem State.atHomeReq_inv {fm : Nat} {s₀ : State} (s : State) (k line q : Nat) (kind : ReqKind) (h_s : Inv fm s₀ s)
    (hm : InSet 13196254756924 fm) :
    Inv fm s₀ (State.atHomeReq s k line q kind) := by
  delta State.atHomeReq
  repeat' first
    | exact inSet_trans rfl hm
    | with_reducible first
      | assumption | (intro) | apply State.atHome_inv | apply State.reach_inv | apply Inv.ite | split
      | dsimp -iota only | dsimp only

theorem execRdS_inv {fm : Nat} {s₀ : State} (home : Stack) (q : Mesh) (line : BitVec 33) (s : State)
    (h_s : Inv fm s₀ s) (hm : InSet 13196254756924 fm) :
    OutInv fm s₀ (execRdS home q line s) := by
  delta execRdS
  repeat' first
    | exact inSet_trans rfl hm
    | with_reducible first
      | assumption | (intro) | apply State.atHomeReq_inv | apply Inv.ite | apply OutInv.ite | apply OutInv.next
      | split | dsimp -iota only | dsimp only

theorem execRdX_inv {fm : Nat} {s₀ : State} (home : Stack) (q : Mesh) (line : BitVec 33) (s : State)
    (h_s : Inv fm s₀ s) (hm : InSet 13196254756924 fm) :
    OutInv fm s₀ (execRdX home q line s) := by
  delta execRdX
  repeat' first
    | exact inSet_trans rfl hm
    | with_reducible first
      | assumption | (intro) | apply State.atHomeReq_inv | apply Inv.ite | apply OutInv.ite | apply OutInv.next
      | split | dsimp -iota only | dsimp only

theorem execUpg_inv {fm : Nat} {s₀ : State} (home : Stack) (q : Mesh) (line : BitVec 33) (s : State)
    (h_s : Inv fm s₀ s) (hm : InSet 13196254756924 fm) :
    OutInv fm s₀ (execUpg home q line s) := by
  delta execUpg
  repeat' first
    | exact inSet_trans rfl hm
    | with_reducible first
      | assumption | (intro) | apply State.atHomeReq_inv | apply Inv.ite | apply OutInv.ite | apply OutInv.next
      | split | dsimp -iota only | dsimp only

theorem execWb_inv {fm : Nat} {s₀ : State} (home : Stack) (q : Mesh) (line : BitVec 33) (data : LineData) (s : State)
    (h_s : Inv fm s₀ s) (hm : InSet 13196254756924 fm) :
    OutInv fm s₀ (execWb home q line data s) := by
  delta execWb
  repeat' first
    | exact inSet_trans rfl hm
    | with_reducible first
      | assumption | (intro) | apply State.atHome_inv | apply State.reach_inv | apply Inv.ite | apply OutInv.ite
      | apply OutInv.next | split | dsimp -iota only | dsimp only

theorem State.cleanEvicted_inv {fm : Nat} {s₀ : State} (s : State) (k l q : Nat) (h_s : Inv fm s₀ s)
    (hm : InSet 13196221202492 fm) :
    Inv fm s₀ (State.cleanEvicted s k l q) := by
  delta State.cleanEvicted
  repeat' first
    | exact inSet_trans rfl hm
    | with_reducible exact Or.inr rfl
    | exact Or.inl (inSet_trans rfl hm)
    | with_reducible first
      | assumption | (intro) | apply State.bump_inv | apply State.setHolders_inv | apply State.tidyEntry_inv
      | apply Inv.ite | apply Upd.of | simp -iota only [Inv.update] | split | dsimp -iota only | dsimp only

theorem execCleanEvict_inv {fm : Nat} {s₀ : State} (home : Stack) (q : Mesh) (line : BitVec 33) (s : State)
    (h_s : Inv fm s₀ s) (hm : InSet 13196221202492 fm) :
    OutInv fm s₀ (execCleanEvict home q line s) := by
  delta execCleanEvict
  repeat' first
    | exact inSet_trans rfl hm
    | with_reducible first
      | assumption | (intro) | apply State.atHome_inv | apply State.cleanEvicted_inv | apply Inv.ite
      | apply OutInv.ite | apply OutInv.next | split | dsimp -iota only | dsimp only

theorem execRdNc_inv {fm : Nat} {s₀ : State} (home : Stack) (q : Mesh) (line : BitVec 33) (s : State)
    (h_s : Inv fm s₀ s) (hm : InSet 13196254756924 fm) :
    OutInv fm s₀ (execRdNc home q line s) := by
  delta execRdNc
  repeat' first
    | exact inSet_trans rfl hm
    | with_reducible first
      | assumption | (intro) | apply State.atHomeReq_inv | apply Inv.ite | apply OutInv.ite | apply OutInv.next
      | split | dsimp -iota only | dsimp only

theorem execWrNc_inv {fm : Nat} {s₀ : State} (home : Stack) (q : Mesh) (line : BitVec 33) (data : LineData)
    (mask : BitVec 128) (hint : Option Mesh) (s : State) (h_s : Inv fm s₀ s) (hm : InSet 13196254756924 fm) :
    OutInv fm s₀ (execWrNc home q line data mask hint s) := by
  delta execWrNc
  repeat' first
    | exact inSet_trans rfl hm
    | with_reducible first
      | assumption | (intro) | apply State.atHomeReq_inv | apply Inv.ite | apply OutInv.ite | apply OutInv.next
      | split | dsimp -iota only | dsimp only

theorem execAtomFar_inv {fm : Nat} {s₀ : State} (home : Stack) (q : Mesh) (line : BitVec 33) (op : FarAtomic)
    (s : State) (h_s : Inv fm s₀ s) (hm : InSet 13196254756924 fm) :
    OutInv fm s₀ (execAtomFar home q line op s) := by
  delta execAtomFar
  repeat' first
    | exact inSet_trans rfl hm
    | with_reducible first
      | assumption | (intro) | apply State.atHomeReq_inv | apply Inv.ite | apply OutInv.ite | apply OutInv.next
      | split | dsimp -iota only | dsimp only

theorem execFarAtomicExecute_inv {fm : Nat} {s₀ : State} (home : Stack) (s : State) (h_s : Inv fm s₀ s)
    (hm : InSet 13196221202492 fm) :
    OutInv fm s₀ (execFarAtomicExecute home s) := by
  delta execFarAtomicExecute
  repeat' first
    | exact inSet_trans rfl hm
    | with_reducible first
      | assumption | (intro) | apply State.farExecute_inv | apply Inv.ite | apply OutInv.ite | apply OutInv.next
      | split | dsimp -iota only | dsimp only

theorem State.atCache_inv {fm : Nat} {s₀ : State} (s : State) (d code line : Nat) (f : State → State)
    (h_s : Inv fm s₀ s) (h_f : ∀ a0, Inv fm s₀ a0 → Inv fm s₀ (f a0)) (hm : InSet 67108864 fm) :
    Inv fm s₀ (State.atCache s d code line f) := by
  delta State.atCache
  repeat' first
    | exact inSet_trans rfl hm
    | with_reducible first
      | assumption | (intro) | apply State.arrive_inv | apply h_f | apply Inv.ite | split | dsimp -iota only
      | dsimp only

theorem State.noData_inv {fm : Nat} {s₀ : State} (s : State) (owner l : Nat) (h_s : Inv fm s₀ s)
    (hm : InSet 603979776 fm) :
    Inv fm s₀ (State.noData s owner l) := by
  delta State.noData
  repeat' first
    | exact inSet_trans rfl hm
    | with_reducible first
      | assumption | (intro) | apply State.coh_inv | apply Inv.ite | split | dsimp -iota only | dsimp only

theorem State.answer_inv {fm : Nat} {s₀ : State} (s : State) (d l : Nat) (f : LineData → State → State)
    (h_s : Inv fm s₀ s) (h_f : ∀ a0 a1, Inv fm s₀ a1 → Inv fm s₀ (f a0 a1)) (hm : InSet 603979776 fm) :
    Inv fm s₀ (State.answer s d l f) := by
  delta State.answer
  repeat' first
    | exact inSet_trans rfl hm
    | with_reducible exact Or.inr rfl
    | exact Or.inl (inSet_trans rfl hm)
    | with_reducible first
      | assumption | (intro) | apply State.noData_inv | apply h_f | apply Inv.ite | apply Upd.of
      | simp -iota only [Inv.update] | split | dsimp -iota only | dsimp only

theorem execFwdS_inv {fm : Nat} {s₀ : State} (owner : Mesh) (q : Mesh) (line : BitVec 33) (s : State)
    (h_s : Inv fm s₀ s) (hm : InSet 604012544 fm) :
    OutInv fm s₀ (execFwdS owner q line s) := by
  delta execFwdS
  repeat' first
    | exact inSet_trans rfl hm
    | with_reducible first
      | assumption | (intro) | apply State.answer_inv | apply State.atCache_inv | apply State.lineLost_inv
      | apply State.sendLine_inv | apply State.setLineState_inv | apply Inv.ite | apply OutInv.ite
      | apply OutInv.next | split | dsimp -iota only | dsimp only

theorem execFwdX_inv {fm : Nat} {s₀ : State} (owner : Mesh) (q : Mesh) (line : BitVec 33) (s : State)
    (h_s : Inv fm s₀ s) (hm : InSet 604012544 fm) :
    OutInv fm s₀ (execFwdX owner q line s) := by
  delta execFwdX
  repeat' first
    | exact inSet_trans rfl hm
    | with_reducible first
      | assumption | (intro) | apply State.answer_inv | apply State.atCache_inv | apply State.dropCopy_inv
      | apply State.lineLost_inv | apply State.sendLine_inv | apply Inv.ite | apply OutInv.ite | apply OutInv.next
      | split | dsimp -iota only | dsimp only

theorem execFwdNc_inv {fm : Nat} {s₀ : State} (owner : Mesh) (q : Mesh) (line : BitVec 33) (s : State)
    (h_s : Inv fm s₀ s) (hm : InSet 603979776 fm) :
    OutInv fm s₀ (execFwdNc owner q line s) := by
  delta execFwdNc
  repeat' first
    | exact inSet_trans rfl hm
    | with_reducible first
      | assumption | (intro) | apply State.answer_inv | apply State.atCache_inv | apply State.sendLine_inv
      | apply Inv.ite | apply OutInv.ite | apply OutInv.next | split | dsimp -iota only | dsimp only

theorem execRecall_inv {fm : Nat} {s₀ : State} (owner : Mesh) (line : BitVec 33) (s : State) (h_s : Inv fm s₀ s)
    (hm : InSet 604012544 fm) :
    OutInv fm s₀ (execRecall owner line s) := by
  delta execRecall
  repeat' first
    | exact inSet_trans rfl hm
    | with_reducible first
      | assumption | (intro) | apply State.answer_inv | apply State.atCache_inv | apply State.dropCopy_inv
      | apply State.sendLine_inv | apply Inv.ite | apply OutInv.ite | apply OutInv.next | split | dsimp -iota only
      | dsimp only

theorem execInv_inv {fm : Nat} {s₀ : State} (sharer : Mesh) (q : Mesh) (line : BitVec 33) (s : State)
    (h_s : Inv fm s₀ s) (hm : InSet 604012544 fm) :
    OutInv fm s₀ (execInv sharer q line s) := by
  delta execInv
  repeat' first
    | exact inSet_trans rfl hm
    | with_reducible first
      | assumption | (intro) | apply State.atCache_inv | apply State.coh_inv | apply State.dropCopy_inv
      | apply State.lineLost_inv | apply Inv.ite | apply OutInv.ite | apply OutInv.next | split | dsimp -iota only
      | dsimp only

theorem execPush_inv {fm : Nat} {s₀ : State} (target : Mesh) (line : BitVec 33) (data : LineData) (s : State)
    (h_s : Inv fm s₀ s) (hm : InSet 13196221202492 fm) :
    OutInv fm s₀ (execPush target line data s) := by
  delta execPush
  repeat' first
    | exact inSet_trans rfl hm
    | with_reducible first
      | assumption | (intro) | apply State.atCache_inv | apply State.bump_inv | apply State.coh_inv
      | apply State.installLine_inv | apply Inv.ite | apply OutInv.ite | apply OutInv.next | split | dsimp -iota only
      | dsimp only

theorem State.onTx_inv {fm : Nat} {s₀ : State} (s : State) (q l : Nat) (f : Tx → Tx) (h_s : Inv fm s₀ s)
    (hm : InSet 13196221202492 fm) :
    Inv fm s₀ (State.onTx s q l f) := by
  delta State.onTx
  repeat' first
    | exact inSet_trans rfl hm
    | with_reducible exact Or.inr rfl
    | exact Or.inl (inSet_trans rfl hm)
    | with_reducible first
      | assumption | (intro) | apply State.finishTx_inv | apply State.setTx_inv | apply Inv.ite | apply Upd.of
      | simp -iota only [Inv.update] | split | dsimp -iota only | dsimp only

theorem execHomeRsp_inv {fm : Nat} {s₀ : State} (q : Mesh) (line : BitVec 33) (st : Moesi) (acks : BitVec 7)
    (data : Option LineData) (s : State) (h_s : Inv fm s₀ s) (hm : InSet 13196221202492 fm) :
    OutInv fm s₀ (execHomeRsp q line st acks data s) := by
  delta execHomeRsp
  repeat' first
    | exact inSet_trans rfl hm
    | with_reducible exact Or.inr rfl
    | exact Or.inl (inSet_trans rfl hm)
    | with_reducible first
      | assumption | (intro) | apply State.arrive_inv | apply State.onTx_inv | apply Inv.ite | apply OutInv.ite
      | apply OutInv.next | apply Upd.of | simp -iota only [Inv.update] | split | dsimp -iota only | dsimp only

theorem State.performed_inv {fm : Nat} {s₀ : State} (s : State) (q l : Nat) (write : Bool) (h_s : Inv fm s₀ s)
    (hm : InSet 637534208 fm) :
    Inv fm s₀ (State.performed s q l write) := by
  delta State.performed
  repeat' first
    | exact inSet_trans rfl hm
    | with_reducible exact Or.inr rfl
    | exact Or.inl (inSet_trans rfl hm)
    | with_reducible first
      | assumption | (intro) | apply State.coh_inv | apply Inv.ite | apply Upd.of | simp -iota only [Inv.update]
      | split | dsimp -iota only | dsimp only

theorem execData_inv {fm : Nat} {s₀ : State} (q : Mesh) (line : BitVec 33) (x20 : Moesi) (data : LineData) (s : State)
    (h_s : Inv fm s₀ s) (hm : InSet 13196254756924 fm) :
    OutInv fm s₀ (execData q line x20 data s) := by
  delta execData
  repeat' first
    | exact inSet_trans rfl hm
    | with_reducible exact Or.inr rfl
    | exact Or.inl (inSet_trans rfl hm)
    | with_reducible first
      | assumption | (intro) | apply State.arrive_inv | apply State.onTx_inv | apply State.performed_inv | split
      | apply Inv.ite | apply OutInv.ite | apply OutInv.next | apply Upd.of | simp -iota only [Inv.update]
      | dsimp -iota only | dsimp only

theorem execInvAck_inv {fm : Nat} {s₀ : State} (q : Mesh) (x10 : Mesh) (line : BitVec 33) (s : State)
    (h_s : Inv fm s₀ s) (hm : InSet 13196221202492 fm) :
    OutInv fm s₀ (execInvAck q x10 line s) := by
  delta execInvAck
  repeat' first
    | exact inSet_trans rfl hm
    | with_reducible exact Or.inr rfl
    | exact Or.inl (inSet_trans rfl hm)
    | with_reducible first
      | assumption | (intro) | apply State.ackToHome_inv | apply State.arrive_inv | apply State.onTx_inv
      | apply Inv.ite | apply OutInv.ite | apply OutInv.next | apply Upd.of | simp -iota only [Inv.update] | split
      | dsimp -iota only | dsimp only

theorem execRecallData_inv {fm : Nat} {s₀ : State} (home : Stack) (x10 : Mesh) (line : BitVec 33) (data : LineData)
    (s : State) (h_s : Inv fm s₀ s) (hm : InSet 13196221202492 fm) :
    OutInv fm s₀ (execRecallData home x10 line data s) := by
  delta execRecallData
  repeat' first
    | exact inSet_trans rfl hm
    | with_reducible first
      | assumption | (intro) | apply State.atHome_inv | apply State.recallAnswer_inv | apply Inv.ite
      | apply OutInv.ite | apply OutInv.next | split | dsimp -iota only | dsimp only

theorem State.suppliedByMemory_inv {fm : Nat} {s₀ : State} (s : State) (k l owner : Nat) (h_s : Inv fm s₀ s)
    (hm : InSet 13196221202492 fm) :
    Inv fm s₀ (State.suppliedByMemory s k l owner) := by
  delta State.suppliedByMemory
  repeat' first
    | exact inSet_trans rfl hm
    | with_reducible exact Or.inr rfl
    | exact Or.inl (inSet_trans rfl hm)
    | with_reducible first
      | assumption | (intro) | apply State.memLine_inv | (apply PairInv.snd; apply State.memLine_inv)
      | apply State.recallAnswer_inv | apply State.sendLine_inv | apply State.setHolders_inv | apply Inv.ite
      | apply PairInv.ite | (apply PairInv.snd; apply PairInv.ite) | apply Upd.of
      | simp -iota only [Inv.update, PairInv.mk'] | split | refine PairInv.of_eq (by assumption) ?_
      | dsimp -iota only | dsimp only

theorem execNodata_inv {fm : Nat} {s₀ : State} (home : Stack) (owner : Mesh) (line : BitVec 33) (s : State)
    (h_s : Inv fm s₀ s) (hm : InSet 13196221202492 fm) :
    OutInv fm s₀ (execNodata home owner line s) := by
  delta execNodata
  repeat' first
    | exact inSet_trans rfl hm
    | with_reducible first
      | assumption | (intro) | apply State.atHome_inv | apply State.suppliedByMemory_inv | apply Inv.ite
      | apply OutInv.ite | apply OutInv.next | split | dsimp -iota only | dsimp only

theorem State.pushAnswer_inv {fm : Nat} {s₀ : State} (s : State) (k l t : Nat) (owner : Option Nat)
    (h_s : Inv fm s₀ s) (hm : InSet 65536 fm) :
    Inv fm s₀ (State.pushAnswer s k l t owner) := by
  delta State.pushAnswer
  repeat' first
    | exact inSet_trans rfl hm
    | with_reducible exact Or.inr rfl
    | exact Or.inl (inSet_trans rfl hm)
    | with_reducible first
      | assumption | (intro) | apply State.putEntry_inv | apply State.tidyEntry_inv | apply Inv.ite | apply Upd.of
      | simp -iota only [Inv.update] | split | dsimp -iota only | dsimp only

theorem execPushAck_inv {fm : Nat} {s₀ : State} (home : Stack) (target : Mesh) (line : BitVec 33) (s : State)
    (h_s : Inv fm s₀ s) (hm : InSet 67174400 fm) :
    OutInv fm s₀ (execPushAck home target line s) := by
  delta execPushAck
  repeat' first
    | exact inSet_trans rfl hm
    | with_reducible first
      | assumption | (intro) | apply State.atHome_inv | apply State.pushAnswer_inv | apply Inv.ite | apply OutInv.ite
      | apply OutInv.next | split | dsimp -iota only | dsimp only

theorem execPushDrop_inv {fm : Nat} {s₀ : State} (home : Stack) (target : Mesh) (line : BitVec 33) (s : State)
    (h_s : Inv fm s₀ s) (hm : InSet 67174400 fm) :
    OutInv fm s₀ (execPushDrop home target line s) := by
  delta execPushDrop
  repeat' first
    | exact inSet_trans rfl hm
    | with_reducible first
      | assumption | (intro) | apply State.atHome_inv | apply State.pushAnswer_inv | split | apply Inv.ite
      | apply OutInv.ite | apply OutInv.next | dsimp -iota only | dsimp only

theorem State.unpinBy_inv {fm : Nat} {s₀ : State} (s : State) (k l q : Nat) (h_s : Inv fm s₀ s) (hm : InSet 65536 fm) :
    Inv fm s₀ (State.unpinBy s k l q) := by
  delta State.unpinBy
  repeat' first
    | exact inSet_trans rfl hm
    | with_reducible exact Or.inr rfl
    | exact Or.inl (inSet_trans rfl hm)
    | with_reducible first
      | assumption | (intro) | apply State.putEntry_inv | apply State.tidyEntry_inv | apply Inv.ite | apply Upd.of
      | simp -iota only [Inv.update] | split | dsimp -iota only | dsimp only

theorem execDone_inv {fm : Nat} {s₀ : State} (home : Stack) (q : Mesh) (line : BitVec 33) (s : State)
    (h_s : Inv fm s₀ s) (hm : InSet 67174400 fm) :
    OutInv fm s₀ (execDone home q line s) := by
  delta execDone
  repeat' first
    | exact inSet_trans rfl hm
    | with_reducible first
      | assumption | (intro) | apply State.atHome_inv | apply State.unpinBy_inv | apply Inv.ite | apply OutInv.ite
      | apply OutInv.next | split | dsimp -iota only | dsimp only

theorem execReservationServe_inv {fm : Nat} {s₀ : State} (home : Stack) (line : BitVec 33) (s : State)
    (h_s : Inv fm s₀ s) (hm : InSet 13196254756924 fm) :
    OutInv fm s₀ (execReservationServe home line s) := by
  delta execReservationServe
  repeat' first
    | exact inSet_trans rfl hm
    | with_reducible first
      | assumption | (intro) | apply State.serveReserved_inv | apply Inv.ite | apply OutInv.ite | apply OutInv.next
      | split | dsimp -iota only | dsimp only

theorem State.starved_inv {fm : Nat} {s₀ : State} (s : State) (d l n : Nat) (h_s : Inv fm s₀ s)
    (hm : InSet 13196221202492 fm) :
    Inv fm s₀ (State.starved s d l n) := by
  delta State.starved
  repeat' first
    | exact inSet_trans rfl hm
    | with_reducible first
      | assumption | (intro) | apply State.raise_inv | apply State.setFld_inv | apply Inv.ite | split
      | dsimp -iota only | dsimp only

theorem State.nackTx_inv {fm : Nat} {s₀ : State} (s : State) (d l : Nat) (t : Tx) (h_s : Inv fm s₀ s)
    (hm : InSet 13196221202492 fm) :
    Inv fm s₀ (State.nackTx s d l t) := by
  delta State.nackTx
  repeat' first
    | exact inSet_trans rfl hm
    | with_reducible exact Or.inr rfl
    | exact Or.inl (inSet_trans rfl hm)
    | with_reducible first
      | assumption | (intro) | apply State.bump_inv | apply State.predict_inv | apply State.setTx_inv
      | apply State.starved_inv | split | apply Inv.ite | apply Upd.of | simp -iota only [Inv.update]
      | dsimp -iota only | dsimp only

theorem State.nackUncached_inv {fm : Nat} {s₀ : State} (s : State) (d l : Nat) (u : Uncached) (h_s : Inv fm s₀ s)
    (hm : InSet 13196254756924 fm) :
    Inv fm s₀ (State.nackUncached s d l u) := by
  delta State.nackUncached
  repeat' first
    | exact inSet_trans rfl hm
    | with_reducible exact Or.inr rfl
    | exact Or.inl (inSet_trans rfl hm)
    | with_reducible first
      | assumption | (intro) | apply State.starved_inv | split | apply Inv.ite | apply Upd.of
      | simp -iota only [Inv.update] | dsimp -iota only | dsimp only

theorem execNack_inv {fm : Nat} {s₀ : State} (q : Mesh) (line : BitVec 33) (x20 : NackCause) (s : State)
    (h_s : Inv fm s₀ s) (hm : InSet 13196254756924 fm) :
    OutInv fm s₀ (execNack q line x20 s) := by
  delta execNack
  repeat' first
    | exact inSet_trans rfl hm
    | with_reducible exact Or.inr rfl
    | exact Or.inl (inSet_trans rfl hm)
    | with_reducible first
      | assumption | (intro) | apply State.arrive_inv | apply State.nackTx_inv | apply State.nackUncached_inv
      | apply Inv.ite | apply OutInv.ite | apply OutInv.next | apply Upd.of | simp -iota only [Inv.update] | split
      | dsimp -iota only | dsimp only

theorem execNackRetry_inv {fm : Nat} {s₀ : State} (q : Mesh) (line : BitVec 33) (s : State) (h_s : Inv fm s₀ s)
    (hm : InSet 637566976 fm) :
    OutInv fm s₀ (execNackRetry q line s) := by
  delta execNackRetry
  repeat' first
    | exact inSet_trans rfl hm
    | with_reducible exact Or.inr rfl
    | exact Or.inl (inSet_trans rfl hm)
    | with_reducible first
      | assumption | (intro) | apply State.sendReq_inv | apply State.setTx_inv | apply Inv.ite | apply OutInv.ite
      | apply OutInv.next | apply Upd.of | simp -iota only [Inv.update] | split | dsimp -iota only | dsimp only

theorem execReserved_inv {fm : Nat} {s₀ : State} (q : Mesh) (line : BitVec 33) (s : State) (h_s : Inv fm s₀ s)
    (hm : InSet 13196254756924 fm) :
    OutInv fm s₀ (execReserved q line s) := by
  delta execReserved
  repeat' first
    | exact inSet_trans rfl hm
    | with_reducible exact Or.inr rfl
    | exact Or.inl (inSet_trans rfl hm)
    | with_reducible first
      | assumption | (intro) | apply State.arrive_inv | apply State.bump_inv | apply State.setTx_inv | apply Inv.ite
      | apply OutInv.ite | apply OutInv.next | apply Upd.of | simp -iota only [Inv.update] | split | dsimp -iota only
      | dsimp only

theorem execWbAck_inv {fm : Nat} {s₀ : State} (owner : Mesh) (line : BitVec 33) (s : State) (h_s : Inv fm s₀ s)
    (hm : InSet 67141632 fm) :
    OutInv fm s₀ (execWbAck owner line s) := by
  delta execWbAck
  repeat' first
    | exact inSet_trans rfl hm
    | with_reducible exact Or.inr rfl
    | exact Or.inl (inSet_trans rfl hm)
    | with_reducible first
      | assumption | (intro) | apply State.arrive_inv | apply State.onAgent_inv | apply Inv.ite | apply OutInv.ite
      | apply OutInv.next | apply Upd.of | simp -iota only [Inv.update] | split | dsimp -iota only | dsimp only

theorem execWrAck_inv {fm : Nat} {s₀ : State} (q : Mesh) (line : BitVec 33) (s : State) (h_s : Inv fm s₀ s)
    (hm : InSet 637534208 fm) :
    OutInv fm s₀ (execWrAck q line s) := by
  delta execWrAck
  repeat' first
    | exact inSet_trans rfl hm
    | with_reducible first
      | assumption | (intro) | apply State.arrive_inv | apply State.performed_inv | apply Inv.ite | apply OutInv.ite
      | apply OutInv.next | split | dsimp -iota only | dsimp only

theorem execRdRsp_inv {fm : Nat} {s₀ : State} (q : Mesh) (line : BitVec 33) (x20 : LineData) (s : State)
    (h_s : Inv fm s₀ s) (hm : InSet 637534208 fm) :
    OutInv fm s₀ (execRdRsp q line x20 s) := by
  delta execRdRsp
  repeat' first
    | exact inSet_trans rfl hm
    | with_reducible first
      | assumption | (intro) | apply State.arrive_inv | apply State.performed_inv | apply Inv.ite | apply OutInv.ite
      | apply OutInv.next | split | dsimp -iota only | dsimp only

theorem execAtomRsp_inv {fm : Nat} {s₀ : State} (q : Mesh) (line : BitVec 33) (olds : List (BitVec 64))
    (contended poisoned : Bool) (s : State) (h_s : Inv fm s₀ s) (hm : InSet 67141632 fm) :
    OutInv fm s₀ (execAtomRsp q line olds contended poisoned s) := by
  delta execAtomRsp
  repeat' first
    | exact inSet_trans rfl hm
    | with_reducible exact Or.inr rfl
    | exact Or.inl (inSet_trans rfl hm)
    | with_reducible first
      | assumption | (intro) | apply State.arrive_inv | apply State.predict_inv | apply State.setTx_inv
      | apply Inv.ite | apply OutInv.ite | apply OutInv.next | apply Upd.of | simp -iota only [Inv.update] | split
      | dsimp -iota only | dsimp only

theorem State.memAnswer_inv {fm : Nat} {s₀ : State} (s : State) (src tag : Nat) (r : MemReq) (ok : Bool)
    (bs : List Byte) (ps : List Nat) (h_s : Inv fm s₀ s) (hm : InSet 738197504 fm) :
    Inv fm s₀ (State.memAnswer s src tag r ok bs ps) := by
  delta State.memAnswer
  repeat' first
    | exact inSet_trans rfl hm
    | with_reducible exact Or.inr rfl
    | exact Or.inl (inSet_trans rfl hm)
    | with_reducible first
      | assumption | (intro) | apply State.send_inv | apply Inv.ite | apply Upd.of | simp -iota only [Inv.update]
      | split | dsimp -iota only | dsimp only

theorem State.atomicAt_inv {fm : Nat} {s₀ : State} (s : State) (pa : Nat) (fn : AtomFn) (wide : Bool)
    (ops : List (BitVec 64 × BitVec 64)) (h_s : Inv fm s₀ s) (hm : InSet 13196221205564 fm) :
    TripleInv fm s₀ (State.atomicAt s pa fn wide ops) := by
  delta State.atomicAt
  repeat' first
    | exact inSet_trans rfl hm
    | with_reducible exact Or.inr rfl
    | exact Or.inl (inSet_trans rfl hm)
    | with_reducible first
      | assumption | (intro) | apply State.wordOp_inv | (apply TripleInv.snd; apply State.wordOp_inv) | apply Inv.ite
      | apply TripleInv.ite | (apply TripleInv.snd; apply TripleInv.ite) | apply Upd.of
      | simp -iota only [Inv.update, TripleInv.mk'] | split | refine TripleInv.of_eq (by assumption) ?_
      | dsimp -iota only | dsimp only

theorem State.completion_inv {fm : Nat} {s₀ : State} (s : State) (rid status : Nat) (ep : Bool) (bs : List Byte)
    (h_s : Inv fm s₀ s) (hm : InSet 536870912 fm) :
    Inv fm s₀ (State.completion s rid status ep bs) := by
  delta State.completion
  repeat' first
    | exact inSet_trans rfl hm
    | with_reducible first
      | assumption | (intro) | apply State.send_inv | split | apply Inv.ite | dsimp -iota only | dsimp only

theorem State.epSent_inv {fm : Nat} {s₀ : State} (s : State) (words : Nat) (h_s : Inv fm s₀ s)
    (hm : InSet 13196221202492 fm) :
    Inv fm s₀ (State.epSent s words) := by
  delta State.epSent
  repeat' first
    | exact inSet_trans rfl hm
    | with_reducible first
      | assumption | (intro) | apply State.bump_inv | apply State.setFld_inv | apply State.takeFree_inv
      | (apply PairInv.snd; apply State.takeFree_inv) | apply Inv.ite | apply PairInv.ite
      | (apply PairInv.snd; apply PairInv.ite) | simp -iota only [PairInv.mk'] | split
      | refine PairInv.of_eq (by assumption) ?_ | dsimp -iota only | dsimp only

theorem State.reqConsume_inv {fm : Nat} {s₀ : State} (s : State) (q : ReqFrom) (atomic : Bool) (ps : List Nat)
    (h_s : Inv fm s₀ s) (hm : InSet 13196221202492 fm) :
    Inv fm s₀ (State.reqConsume s q atomic ps) := by
  delta State.reqConsume
  repeat' first
    | exact inSet_trans rfl hm
    | with_reducible exact Or.inr rfl
    | exact Or.inl (inSet_trans rfl hm)
    | with_reducible first
      | assumption | (intro) | apply State.consume_inv | apply Inv.ite | apply Upd.of | simp -iota only [Inv.update]
      | split | dsimp -iota only | dsimp only

theorem State.reqAnswer_inv {fm : Nat} {s₀ : State} (s : State) (q : ReqFrom) (posted : Bool) (bs : List Byte)
    (ps : List Nat) (h_s : Inv fm s₀ s) (hm : InSet 13196221202492 fm) :
    Inv fm s₀ (State.reqAnswer s q posted bs ps) := by
  delta State.reqAnswer
  repeat' first
    | exact inSet_trans rfl hm
    | with_reducible exact Or.inr rfl
    | exact Or.inl (inSet_trans rfl hm)
    | with_reducible first
      | assumption | (intro) | apply State.completion_inv | apply State.epSent_inv | apply State.memAnswer_inv
      | apply State.send_inv | apply Inv.ite | apply Upd.of | simp -iota only [Inv.update] | split | dsimp -iota only
      | dsimp only

theorem State.performReq_inv {fm : Nat} {s₀ : State} (s : State) (q : HeldReq) (h_s : Inv fm s₀ s)
    (hm : InSet 13196221205564 fm) :
    Inv fm s₀ (State.performReq s q) := by
  delta State.performReq
  repeat' first
    | exact inSet_trans rfl hm
    | with_reducible exact Or.inr rfl
    | exact Or.inl (inSet_trans rfl hm)
    | with_reducible first
      | assumption | (intro) | apply State.atomicAt_inv | (apply TripleInv.snd; apply State.atomicAt_inv)
      | apply State.physRead_inv | (apply TripleInv.snd; apply State.physRead_inv) | apply State.physWrite_inv
      | apply State.reqAnswer_inv | apply State.reqConsume_inv | apply Inv.ite | apply TripleInv.ite
      | (apply TripleInv.snd; apply TripleInv.ite) | apply Upd.of | simp -iota only [Inv.update, TripleInv.mk']
      | split | refine TripleInv.of_eq (by assumption) ?_ | dsimp -iota only | dsimp only

theorem State.takeReq_inv {fm : Nat} {s₀ : State} (s : State) (q : HeldReq) (h_s : Inv fm s₀ s)
    (hm : InSet 13196221205564 fm) :
    Inv fm s₀ (State.takeReq s q) := by
  delta State.takeReq
  repeat' first
    | exact inSet_trans rfl hm
    | with_reducible exact Or.inr rfl
    | exact Or.inl (inSet_trans rfl hm)
    | with_reducible first
      | assumption | (intro) | apply State.performReq_inv | apply Inv.ite | apply Upd.of
      | simp -iota only [Inv.update] | split | dsimp -iota only | dsimp only

theorem State.retryReqs_inv {fm : Nat} {s₀ : State} (s : State) (h_s : Inv fm s₀ s) (hm : InSet 13196221205564 fm) :
    Inv fm s₀ (State.retryReqs s) := by
  delta State.retryReqs
  repeat' first
    | exact inSet_trans rfl hm
    | with_reducible exact Or.inr rfl
    | exact Or.inl (inSet_trans rfl hm)
    | with_reducible first
      | assumption | (intro) | apply State.takeReq_inv | apply Inv.ite | apply Inv.foldl | apply Upd.of
      | simp -iota only [Inv.update] | split | dsimp -iota only | dsimp only

theorem State.disownReqs_inv {fm : Nat} {s₀ : State} (s : State) (h_s : Inv fm s₀ s) (hm : InSet 134217728 fm) :
    Inv fm s₀ (State.disownReqs s) := by
  delta State.disownReqs
  repeat' first
    | exact inSet_trans rfl hm
    | with_reducible exact Or.inr rfl
    | exact Or.inl (inSet_trans rfl hm)
    | with_reducible first
      | assumption | (intro) | apply Inv.ite | apply Upd.of | simp -iota only [Inv.update] | split | dsimp -iota only
      | dsimp only

theorem execMemReq_inv {fm : Nat} {s₀ : State} (src : Mesh) (tag : BitVec 16) (r : MemReq) (s : State)
    (h_s : Inv fm s₀ s) (hm : InSet 13196221205564 fm) :
    OutInv fm s₀ (execMemReq src tag r s) := by
  delta execMemReq
  repeat' first
    | exact inSet_trans rfl hm
    | with_reducible first
      | assumption | (intro) | apply State.memAnswer_inv | apply State.takeReq_inv | apply Inv.ite | apply OutInv.ite
      | apply OutInv.next | split | dsimp -iota only | dsimp only

theorem execMemRsp_inv {fm : Nat} {s₀ : State} (dst : Mesh) (tag : BitVec 16) (ok : Bool) (data : MemData) (s : State)
    (h_s : Inv fm s₀ s) (hm : InSet 201326592 fm) :
    OutInv fm s₀ (execMemRsp dst tag ok data s) := by
  delta execMemRsp
  repeat' first
    | exact inSet_trans rfl hm
    | with_reducible exact Or.inr rfl
    | exact Or.inl (inSet_trans rfl hm)
    | with_reducible first
      | assumption | (intro) | apply State.arrive_inv | apply Inv.ite | apply OutInv.ite | apply OutInv.next
      | apply Upd.of | simp -iota only [Inv.update] | split | dsimp -iota only | dsimp only

theorem execIntMessage_inv {fm : Nat} {s₀ : State} (src : Mesh) (vector : BitVec 11) (s : State) (h_s : Inv fm s₀ s)
    (hm : InSet 13196221202492 fm) :
    OutInv fm s₀ (execIntMessage src vector s) := by
  delta execIntMessage
  repeat' first
    | exact inSet_trans rfl hm
    | with_reducible first
      | assumption | (intro) | apply State.notify_inv | apply Inv.ite | apply OutInv.ite | apply OutInv.next | split
      | dsimp -iota only | dsimp only

theorem execL2PredClear_inv {fm : Nat} {s₀ : State} (m : Motif) (s : State) (h_s : Inv fm s₀ s) (hm : InSet 32768 fm) :
    OutInv fm s₀ (execL2PredClear m s) := by
  delta execL2PredClear
  repeat' first
    | exact inSet_trans rfl hm
    | with_reducible exact Or.inr rfl
    | exact Or.inl (inSet_trans rfl hm)
    | with_reducible first
      | assumption | (intro) | apply State.onAgent_inv | apply Inv.ite | apply OutInv.ite | apply OutInv.next
      | apply Upd.of | simp -iota only [Inv.update] | split | dsimp -iota only | dsimp only

end Sys2Proof.Machine
end

