-- ==== Sys2Proof/Laws/InvHostLink.lean ====
section
/-!
SUPPORT. Laws/InvHostLink.lean: the operations of Machine/HostLink.lean write only the fields named, and keep memories canonical.
-/

set_option simprocs false
set_option linter.unusedSimpArgs false
set_option linter.unusedVariables false

namespace Sys2Proof.Machine

theorem execBar0BadAccess_inv {fm : Nat} {s₀ : State} (write : Bool) (addr : BitVec 26) (size : BitVec 13) (s : State)
    (h_s : Inv fm s₀ s) (hm : InSet 536870916 fm) :
    OutInv fm s₀ (execBar0BadAccess write addr size s) := by
  delta execBar0BadAccess
  repeat' first
    | exact inSet_trans rfl hm
    | with_reducible first
      | assumption | (intro) | apply State.completion_inv | apply State.setFld_inv | apply Inv.ite | apply OutInv.ite
      | apply OutInv.next | split | dsimp -iota only | dsimp only

theorem State.ridRefused_inv {fm : Nat} {s₀ : State} (s : State) (write : Bool) (off : Nat) (h_s : Inv fm s₀ s)
    (hm : InSet 13196221202492 fm) :
    Inv fm s₀ (State.ridRefused s write off) := by
  delta State.ridRefused
  repeat' first
    | exact inSet_trans rfl hm
    | with_reducible first
      | assumption | (intro) | apply State.refuseHost_inv | apply State.setFld_inv | apply Inv.ite | split
      | dsimp -iota only | dsimp only

theorem execBar4Read_inv {fm : Nat} {s₀ : State} (off : BitVec 40) (len : BitVec 13) (rid : BitVec 16) (s : State)
    (h_s : Inv fm s₀ s) (hm : InSet 13196221205564 fm) :
    OutInv fm s₀ (execBar4Read off len rid s) := by
  delta execBar4Read
  repeat' first
    | exact inSet_trans rfl hm
    | with_reducible exact Or.inr rfl
    | exact Or.inl (inSet_trans rfl hm)
    | with_reducible first
      | assumption | (intro) | apply State.completion_inv | apply State.refuseHost_inv | apply State.ridRefused_inv
      | apply State.takeReq_inv | apply Inv.ite | apply OutInv.ite | apply OutInv.next | apply Upd.of
      | simp -iota only [Inv.update] | split | dsimp -iota only | dsimp only

theorem execBar4Write_inv {fm : Nat} {s₀ : State} (off : BitVec 40) (data : List (BitVec 8)) (be : List Bool)
    (ep : Bool) (rid : BitVec 16) (s : State) (h_s : Inv fm s₀ s) (hm : InSet 13196221205564 fm) :
    OutInv fm s₀ (execBar4Write off data be ep rid s) := by
  delta execBar4Write
  repeat' first
    | exact inSet_trans rfl hm
    | with_reducible exact Or.inr rfl
    | exact Or.inl (inSet_trans rfl hm)
    | with_reducible first
      | assumption | (intro) | apply State.bump_inv | apply State.range_inv
      | (apply PairInv.snd; apply State.range_inv) | apply State.refuseHost_inv | apply State.ridRefused_inv
      | apply State.setFld_inv | apply State.takeReq_inv | apply Inv.ite | apply PairInv.ite
      | (apply PairInv.snd; apply PairInv.ite) | apply OutInv.ite | apply OutInv.next | apply Upd.of
      | simp -iota only [Inv.update, PairInv.mk'] | split | refine PairInv.of_eq (by assumption) ?_
      | dsimp -iota only | dsimp only

theorem State.hostAtomic_inv {fm : Nat} {s₀ : State} (s : State) (off rid : Nat) (fn : AtomFn) (wide : Bool)
    (v cmp : BitVec 64) (h_s : Inv fm s₀ s) (hm : InSet 13196221205564 fm) :
    Inv fm s₀ (State.hostAtomic s off rid fn wide v cmp) := by
  delta State.hostAtomic
  repeat' first
    | exact inSet_trans rfl hm
    | with_reducible exact Or.inr rfl
    | exact Or.inl (inSet_trans rfl hm)
    | with_reducible first
      | assumption | (intro) | apply State.completion_inv | apply State.refuseHost_inv | apply State.ridRefused_inv
      | apply State.takeReq_inv | apply Inv.ite | apply Upd.of | simp -iota only [Inv.update] | split
      | dsimp -iota only | dsimp only

theorem execBar4Fetchadd_inv {fm : Nat} {s₀ : State} (off : BitVec 40) (wide : Bool) (v : BitVec 64) (rid : BitVec 16)
    (s : State) (h_s : Inv fm s₀ s) (hm : InSet 13196221205564 fm) :
    OutInv fm s₀ (execBar4Fetchadd off wide v rid s) := by
  delta execBar4Fetchadd
  repeat' first
    | exact inSet_trans rfl hm
    | with_reducible first
      | assumption | (intro) | apply State.hostAtomic_inv | apply Inv.ite | apply OutInv.ite | apply OutInv.next
      | split | dsimp -iota only | dsimp only

theorem execBar4Swap_inv {fm : Nat} {s₀ : State} (off : BitVec 40) (wide : Bool) (v : BitVec 64) (rid : BitVec 16)
    (s : State) (h_s : Inv fm s₀ s) (hm : InSet 13196221205564 fm) :
    OutInv fm s₀ (execBar4Swap off wide v rid s) := by
  delta execBar4Swap
  repeat' first
    | exact inSet_trans rfl hm
    | with_reducible first
      | assumption | (intro) | apply State.hostAtomic_inv | apply Inv.ite | apply OutInv.ite | apply OutInv.next
      | split | dsimp -iota only | dsimp only

theorem execBar4Cas_inv {fm : Nat} {s₀ : State} (off : BitVec 40) (size : CasSize) (cmp v : BitVec 128)
    (rid : BitVec 16) (s : State) (h_s : Inv fm s₀ s) (hm : InSet 13196221205564 fm) :
    OutInv fm s₀ (execBar4Cas off size cmp v rid s) := by
  delta execBar4Cas
  repeat' first
    | exact inSet_trans rfl hm
    | with_reducible exact Or.inr rfl
    | exact Or.inl (inSet_trans rfl hm)
    | with_reducible first
      | assumption | (intro) | apply State.completion_inv | apply State.hostAtomic_inv | apply Inv.ite
      | apply OutInv.ite | apply OutInv.next | apply Upd.of | simp -iota only [Inv.update] | split | dsimp -iota only
      | dsimp only

theorem State.showLink_inv {fm : Nat} {s₀ : State} (s : State) (speed width : Nat) (h_s : Inv fm s₀ s)
    (hm : InSet 13196221202492 fm) :
    Inv fm s₀ (State.showLink s speed width) := by
  delta State.showLink
  repeat' first
    | exact inSet_trans rfl hm
    | with_reducible first
      | assumption | (intro) | apply State.raise_inv | apply State.setFld_inv | apply State.setFlds_inv
      | apply Inv.ite | split | dsimp -iota only | dsimp only

theorem execHostLinkUp_inv {fm : Nat} {s₀ : State} (speed : BitVec 3) (width : BitVec 6) (s : State)
    (h_s : Inv fm s₀ s) (hm : InSet 13196221202492 fm) :
    OutInv fm s₀ (execHostLinkUp speed width s) := by
  delta execHostLinkUp
  repeat' first
    | exact inSet_trans rfl hm
    | with_reducible first
      | assumption | (intro) | apply State.showLink_inv | apply Inv.ite | apply OutInv.ite | apply OutInv.next
      | split | dsimp -iota only | dsimp only

theorem execLinkRetrain_inv {fm : Nat} {s₀ : State} (speed : BitVec 3) (width : BitVec 6) (s : State)
    (h_s : Inv fm s₀ s) (hm : InSet 13196221202492 fm) :
    OutInv fm s₀ (execLinkRetrain speed width s) := by
  delta execLinkRetrain
  repeat' first
    | exact inSet_trans rfl hm
    | with_reducible first
      | assumption | (intro) | apply State.bump_inv | apply State.showLink_inv | apply Inv.ite | apply OutInv.ite
      | apply OutInv.next | split | dsimp -iota only | dsimp only

theorem State.resetMsix_inv {fm : Nat} {s₀ : State} (s : State) (h_s : Inv fm s₀ s) (hm : InSet 4 fm) :
    Inv fm s₀ (State.resetMsix s) := by
  delta State.resetMsix
  repeat' first
    | exact inSet_trans rfl hm
    | with_reducible exact Or.inr rfl
    | exact Or.inl (inSet_trans rfl hm)
    | with_reducible first
      | assumption | (intro) | apply Inv.ite | apply Upd.of | simp -iota only [Inv.update] | split | dsimp -iota only
      | dsimp only

theorem State.resetRegs_inv {fm : Nat} {s₀ : State} (s : State) (a b : Nat) (h_s : Inv fm s₀ s) (hm : InSet 4 fm) :
    Inv fm s₀ (State.resetRegs s a b) := by
  delta State.resetRegs
  repeat' first
    | exact inSet_trans rfl hm
    | with_reducible exact Or.inr rfl
    | exact Or.inl (inSet_trans rfl hm)
    | with_reducible first
      | assumption | (intro) | apply Inv.ite | apply Upd.of | simp -iota only [Inv.update] | split | dsimp -iota only
      | dsimp only

theorem State.loseRings_inv {fm : Nat} {s₀ : State} (s : State) (h_s : Inv fm s₀ s) (hm : InSet 13196221202492 fm) :
    Inv fm s₀ (State.loseRings s) := by
  delta State.loseRings
  repeat' first
    | exact inSet_trans rfl hm
    | with_reducible exact Or.inr rfl
    | exact Or.inl (inSet_trans rfl hm)
    | with_reducible first
      | assumption | (intro) | apply State.lostEntry_inv | apply State.setCring_inv | apply Inv.ite | apply Inv.foldl
      | apply Upd.of | simp -iota only [Inv.update] | split | dsimp -iota only | dsimp only

theorem State.hostWaitQueues_inv {fm : Nat} {s₀ : State} (s : State) (h_s : Inv fm s₀ s) (hm : InSet 1073741824 fm) :
    Inv fm s₀ (State.hostWaitQueues s) := by
  delta State.hostWaitQueues
  repeat' first
    | exact inSet_trans rfl hm
    | with_reducible exact Or.inr rfl
    | exact Or.inl (inSet_trans rfl hm)
    | with_reducible first
      | assumption | (intro) | apply State.setQueue_inv | apply Inv.ite | apply Inv.foldl | apply Upd.of
      | simp -iota only [Inv.update] | split | dsimp -iota only | dsimp only

theorem State.loseCopies_inv {fm : Nat} {s₀ : State} (s : State) (h_s : Inv fm s₀ s) (hm : InSet 13196221202492 fm) :
    Inv fm s₀ (State.loseCopies s) := by
  delta State.loseCopies
  repeat' first
    | exact inSet_trans rfl hm
    | with_reducible exact Or.inr rfl
    | exact Or.inl (inSet_trans rfl hm)
    | with_reducible first
      | assumption | (intro) | apply State.complete_inv | apply State.mover_inv | apply Inv.ite | apply Inv.foldl
      | apply Upd.of | simp -iota only [Inv.update] | split | dsimp -iota only | dsimp only

theorem State.hostPattern_inv {fm : Nat} {s₀ : State} (s : State) (h_s : Inv fm s₀ s) (hm : InSet 13471099109436 fm) :
    Inv fm s₀ (State.hostPattern s) := by
  delta State.hostPattern
  repeat' first
    | exact inSet_trans rfl hm
    | with_reducible exact Or.inr rfl
    | exact Or.inl (inSet_trans rfl hm)
    | with_reducible first
      | assumption | (intro) | apply State.range_inv | (apply PairInv.snd; apply State.range_inv)
      | apply State.setFld_inv | apply State.setReg_inv | apply Inv.ite | apply PairInv.ite
      | (apply PairInv.snd; apply PairInv.ite) | apply Inv.foldl | apply Upd.of
      | simp -iota only [Inv.update, PairInv.mk'] | split | refine PairInv.of_eq (by assumption) ?_
      | dsimp -iota only | dsimp only

theorem State.hostReset_inv {fm : Nat} {s₀ : State} (s : State) (down : Bool) (h_s : Inv fm s₀ s)
    (hm : InSet 13471099109436 fm) :
    Inv fm s₀ (State.hostReset s down) := by
  delta State.hostReset
  repeat' first
    | exact inSet_trans rfl hm
    | with_reducible exact Or.inr rfl
    | exact Or.inl (inSet_trans rfl hm)
    | with_reducible first
      | assumption | (intro) | apply State.bump_inv | apply State.disownReqs_inv | apply State.hostPattern_inv
      | apply State.hostWaitQueues_inv | apply State.loseCopies_inv | apply State.loseRings_inv
      | apply State.raise_inv | apply State.resetMsix_inv | apply State.resetRegs_inv | apply State.setFld_inv
      | apply State.setFlds_inv | apply State.setReg_inv | apply Inv.ite | apply Upd.of
      | simp -iota only [Inv.update] | split | dsimp -iota only | dsimp only

theorem execHostSideReset_inv {fm : Nat} {s₀ : State} (cause : HostResetCause) (s : State) (h_s : Inv fm s₀ s)
    (hm : InSet 13471099109436 fm) :
    OutInv fm s₀ (execHostSideReset cause s) := by
  delta execHostSideReset
  repeat' first
    | exact inSet_trans rfl hm
    | with_reducible first
      | assumption | (intro) | apply State.hostReset_inv | apply Inv.ite | apply OutInv.ite | apply OutInv.next
      | split | dsimp -iota only | dsimp only

theorem execResizableBarWrite_inv {fm : Nat} {s₀ : State} (log2 : BitVec 6) (s : State) (h_s : Inv fm s₀ s)
    (hm : InSet 274877906944 fm) :
    OutInv fm s₀ (execResizableBarWrite log2 s) := by
  delta execResizableBarWrite
  repeat' first
    | exact inSet_trans rfl hm
    | with_reducible exact Or.inr rfl
    | exact Or.inl (inSet_trans rfl hm)
    | with_reducible first
      | assumption | (intro) | apply Inv.ite | apply OutInv.ite | apply OutInv.next | apply Upd.of
      | simp -iota only [Inv.update] | split | dsimp -iota only | dsimp only

theorem execMemoryDecodeEnable_inv {fm : Nat} {s₀ : State} (s : State) (h_s : Inv fm s₀ s)
    (hm : InSet 274877906948 fm) :
    OutInv fm s₀ (execMemoryDecodeEnable s) := by
  delta execMemoryDecodeEnable
  repeat' first
    | exact inSet_trans rfl hm
    | with_reducible exact Or.inr rfl
    | exact Or.inl (inSet_trans rfl hm)
    | with_reducible first
      | assumption | (intro) | apply State.setFld_inv | apply Inv.ite | apply OutInv.ite | apply OutInv.next
      | apply Upd.of | simp -iota only [Inv.update] | split | dsimp -iota only | dsimp only

theorem State.sendPending_inv {fm : Nat} {s₀ : State} (s : State) (h_s : Inv fm s₀ s) (hm : InSet 13196221202492 fm) :
    Inv fm s₀ (State.sendPending s) := by
  delta State.sendPending
  repeat' first
    | exact inSet_trans rfl hm
    | with_reducible first
      | assumption | (intro) | apply State.msiSend_inv | apply State.range_inv
      | (apply PairInv.snd; apply State.range_inv) | apply State.setFld_inv | apply Inv.ite | apply PairInv.ite
      | (apply PairInv.snd; apply PairInv.ite) | apply Inv.foldl | simp -iota only [PairInv.mk'] | split
      | refine PairInv.of_eq (by assumption) ?_ | dsimp -iota only | dsimp only

theorem State.hostGo_inv {fm : Nat} {s₀ : State} (s : State) (h_s : Inv fm s₀ s) (hm : InSet 13196221202492 fm) :
    Inv fm s₀ (State.hostGo s) := by
  delta State.hostGo
  repeat' first
    | exact inSet_trans rfl hm
    | with_reducible first
      | assumption | (intro) | apply State.evDrain_inv | apply State.fringGo_inv | apply State.satDrain_inv
      | apply State.sendPending_inv | apply Inv.ite | split | dsimp -iota only | dsimp only

theorem execBusMasterEnable_inv {fm : Nat} {s₀ : State} (s : State) (h_s : Inv fm s₀ s) (hm : InSet 13471099109436 fm) :
    OutInv fm s₀ (execBusMasterEnable s) := by
  delta execBusMasterEnable
  repeat' first
    | exact inSet_trans rfl hm
    | with_reducible exact Or.inr rfl
    | exact Or.inl (inSet_trans rfl hm)
    | with_reducible first
      | assumption | (intro) | apply State.hostGo_inv | apply Inv.ite | apply OutInv.ite | apply OutInv.next
      | apply Upd.of | simp -iota only [Inv.update] | split | dsimp -iota only | dsimp only

theorem execD3hotEntry_inv {fm : Nat} {s₀ : State} (s : State) (h_s : Inv fm s₀ s) (hm : InSet 274877906944 fm) :
    OutInv fm s₀ (execD3hotEntry s) := by
  delta execD3hotEntry
  repeat' first
    | exact inSet_trans rfl hm
    | with_reducible exact Or.inr rfl
    | exact Or.inl (inSet_trans rfl hm)
    | with_reducible first
      | assumption | (intro) | apply Inv.ite | apply OutInv.ite | apply OutInv.next | apply Upd.of
      | simp -iota only [Inv.update] | split | dsimp -iota only | dsimp only

theorem execD0Return_inv {fm : Nat} {s₀ : State} (s : State) (h_s : Inv fm s₀ s) (hm : InSet 13471099109436 fm) :
    OutInv fm s₀ (execD0Return s) := by
  delta execD0Return
  repeat' first
    | exact inSet_trans rfl hm
    | with_reducible exact Or.inr rfl
    | exact Or.inl (inSet_trans rfl hm)
    | with_reducible first
      | assumption | (intro) | apply State.hostGo_inv | apply Inv.ite | apply OutInv.ite | apply OutInv.next
      | apply Upd.of | simp -iota only [Inv.update] | split | dsimp -iota only | dsimp only

theorem execMsixUnmask_inv {fm : Nat} {s₀ : State} (vector : Option (BitVec 11)) (s : State) (h_s : Inv fm s₀ s)
    (hm : InSet 13471099109436 fm) :
    OutInv fm s₀ (execMsixUnmask vector s) := by
  delta execMsixUnmask
  repeat' first
    | exact inSet_trans rfl hm
    | with_reducible exact Or.inr rfl
    | exact Or.inl (inSet_trans rfl hm)
    | with_reducible first
      | assumption | (intro) | apply State.satDrain_inv | apply State.sendPending_inv | apply State.setFld_inv
      | apply Inv.ite | apply OutInv.ite | apply OutInv.next | apply Upd.of | simp -iota only [Inv.update] | split
      | dsimp -iota only | dsimp only

theorem execCompletionTimeout_inv {fm : Nat} {s₀ : State} (qid : BitVec 20) (idx : BitVec 24) (s : State)
    (h_s : Inv fm s₀ s) (hm : InSet 13196221202492 fm) :
    OutInv fm s₀ (execCompletionTimeout qid idx s) := by
  delta execCompletionTimeout
  repeat' first
    | exact inSet_trans rfl hm
    | with_reducible exact Or.inr rfl
    | exact Or.inl (inSet_trans rfl hm)
    | with_reducible first
      | assumption | (intro) | apply State.complete_inv | apply State.moverEnd_inv | apply State.setFld_inv
      | apply State.setQueue_inv | apply Inv.ite | apply OutInv.ite | apply OutInv.next | apply Upd.of
      | simp -iota only [Inv.update] | split | dsimp -iota only | dsimp only

theorem execFlushReadDone_inv {fm : Nat} {s₀ : State} (qid : BitVec 20) (idx : BitVec 24) (ok : Bool) (s : State)
    (h_s : Inv fm s₀ s) (hm : InSet 13196221202492 fm) :
    OutInv fm s₀ (execFlushReadDone qid idx ok s) := by
  delta execFlushReadDone
  repeat' first
    | exact inSet_trans rfl hm
    | with_reducible exact Or.inr rfl
    | exact Or.inl (inSet_trans rfl hm)
    | with_reducible first
      | assumption | (intro) | apply State.complete_inv | apply State.setFld_inv | apply Inv.ite | apply OutInv.ite
      | apply OutInv.next | apply Upd.of | simp -iota only [Inv.update] | split | dsimp -iota only | dsimp only

theorem execPxLostPop_inv {fm : Nat} {s₀ : State} (s : State) (h_s : Inv fm s₀ s) (hm : InSet 13196221202492 fm) :
    OutInv fm s₀ (execPxLostPop s) := by
  delta execPxLostPop
  repeat' first
    | exact inSet_trans rfl hm
    | with_reducible exact Or.inr rfl
    | exact Or.inl (inSet_trans rfl hm)
    | with_reducible first
      | assumption | (intro) | apply State.showLost_inv | apply Inv.ite | apply OutInv.ite | apply OutInv.next
      | apply Upd.of | simp -iota only [Inv.update] | split | dsimp -iota only | dsimp only

end Sys2Proof.Machine
end

