-- ==== Sys2Proof/Laws/InvSeams.lean ====
section
/-!
SUPPORT. Laws/InvSeams.lean: the operations of Machine/Seams.lean write only the fields named, and keep memories canonical.
-/

set_option simprocs false
set_option linter.unusedSimpArgs false
set_option linter.unusedVariables false

namespace Sys2Proof.Machine

theorem execRouteSet_inv {fm : Nat} {s₀ : State} (die : Mesh) (row : BitVec 48) (table : BitVec 11) (s : State)
    (h_s : Inv fm s₀ s) (hm : InSet 9126805504 fm) :
    OutInv fm s₀ (execRouteSet die row table s) := by
  delta execRouteSet
  repeat' first
    | exact inSet_trans rfl hm
    | with_reducible first
      | assumption | (intro) | apply State.takeChange_inv | apply Inv.ite | apply OutInv.ite | apply OutInv.next
      | split | dsimp -iota only | dsimp only

theorem execMapSet_inv {fm : Nat} {s₀ : State} (die : Mesh) (row : BitVec 48) (salt : BitVec 64)
    (ranges : List (BitVec 48 × BitVec 48)) (s : State) (h_s : Inv fm s₀ s) (hm : InSet 9126805504 fm) :
    OutInv fm s₀ (execMapSet die row salt ranges s) := by
  delta execMapSet
  repeat' first
    | exact inSet_trans rfl hm
    | with_reducible first
      | assumption | (intro) | apply State.takeChange_inv | apply Inv.ite | apply OutInv.ite | apply OutInv.next
      | split | dsimp -iota only | dsimp only

theorem execBindSet_inv {fm : Nat} {s₀ : State} (die : Mesh) (row : BitVec 48) (qid : BitVec 20) (mask : BitVec 48)
    (cls : BitVec 4) (s : State) (h_s : Inv fm s₀ s) (hm : InSet 9126805504 fm) :
    OutInv fm s₀ (execBindSet die row qid mask cls s) := by
  delta execBindSet
  repeat' first
    | exact inSet_trans rfl hm
    | with_reducible first
      | assumption | (intro) | apply State.takeChange_inv | apply Inv.ite | apply OutInv.ite | apply OutInv.next
      | split | dsimp -iota only | dsimp only

theorem execPosSet_inv {fm : Nat} {s₀ : State} (die : Mesh) (row : BitVec 48) (m : Motif) (st : PosState) (s : State)
    (h_s : Inv fm s₀ s) (hm : InSet 9126805504 fm) :
    OutInv fm s₀ (execPosSet die row m st s) := by
  delta execPosSet
  repeat' first
    | exact inSet_trans rfl hm
    | with_reducible first
      | assumption | (intro) | apply State.takeChange_inv | apply Inv.ite | apply OutInv.ite | apply OutInv.next
      | split | dsimp -iota only | dsimp only

theorem execPatternData_inv {fm : Nat} {s₀ : State} (die : Mesh) (off : BitVec 23) (data : BitVec 224) (s : State)
    (h_s : Inv fm s₀ s) (hm : InSet 16777216 fm) :
    OutInv fm s₀ (execPatternData die off data s) := by
  delta execPatternData
  repeat' first
    | exact inSet_trans rfl hm
    | with_reducible exact Or.inr rfl
    | exact Or.inl (inSet_trans rfl hm)
    | with_reducible first
      | assumption | (intro) | apply Inv.ite | apply OutInv.ite | apply OutInv.next | apply Upd.of
      | simp -iota only [Inv.update] | split | dsimp -iota only | dsimp only

theorem State.clearPrior_inv {fm : Nat} {s₀ : State} (s : State) (m i : Nat) (h_s : Inv fm s₀ s)
    (hm : InSet 524288 fm) :
    Inv fm s₀ (State.clearPrior s m i) := by
  delta State.clearPrior
  repeat' first
    | exact inSet_trans rfl hm
    | with_reducible exact Or.inr rfl
    | exact Or.inl (inSet_trans rfl hm)
    | with_reducible first
      | assumption | (intro) | apply State.setSeam_inv | apply Inv.ite | apply Upd.of | simp -iota only [Inv.update]
      | split | dsimp -iota only | dsimp only

theorem execSeqCmd_inv {fm : Nat} {s₀ : State} (die : Mesh) (cmd : SeqCmd) (s : State) (h_s : Inv fm s₀ s)
    (hm : InSet 13224149514300 fm) :
    OutInv fm s₀ (execSeqCmd die cmd s) := by
  delta execSeqCmd
  repeat' first
    | exact inSet_trans rfl hm
    | with_reducible exact Or.inr rfl
    | exact Or.inl (inSet_trans rfl hm)
    | with_reducible first
      | assumption | (intro) | apply State.clearPrior_inv | apply State.isolate_inv | apply State.isolateSeam_inv
      | apply State.range_inv | (apply PairInv.snd; apply State.range_inv) | apply State.retrain_inv
      | apply State.stopEngines_inv | apply Inv.ite | apply PairInv.ite | (apply PairInv.snd; apply PairInv.ite)
      | apply OutInv.ite | apply OutInv.next | apply Inv.foldl | apply Upd.of
      | simp -iota only [Inv.update, PairInv.mk'] | split | refine PairInv.of_eq (by assumption) ?_
      | dsimp -iota only | dsimp only

theorem State.forgetFrame_inv {fm : Nat} {s₀ : State} (s : State) (src hop seq : Nat) (h_s : Inv fm s₀ s)
    (hm : InSet 2097152 fm) :
    Inv fm s₀ (State.forgetFrame s src hop seq) := by
  delta State.forgetFrame
  repeat' first
    | exact inSet_trans rfl hm
    | with_reducible exact Or.inr rfl
    | exact Or.inl (inSet_trans rfl hm)
    | with_reducible first
      | assumption | (intro) | apply Inv.ite | apply Upd.of | simp -iota only [Inv.update] | split | dsimp -iota only
      | dsimp only

theorem execChainAck_inv {fm : Nat} {s₀ : State} (src hop : Mesh) (seq : BitVec 8) (s : State) (h_s : Inv fm s₀ s)
    (hm : InSet 2097152 fm) :
    OutInv fm s₀ (execChainAck src hop seq s) := by
  delta execChainAck
  repeat' first
    | exact inSet_trans rfl hm
    | with_reducible first
      | assumption | (intro) | apply State.forgetFrame_inv | apply Inv.ite | apply OutInv.ite | apply OutInv.next
      | split | dsimp -iota only | dsimp only

theorem State.countSide_inv {fm : Nat} {s₀ : State} (s : State) (i die : Nat) (c : Nat → Nat → Cnt)
    (h_s : Inv fm s₀ s) (hm : InSet 13196221202492 fm) :
    Inv fm s₀ (State.countSide s i die c) := by
  delta State.countSide
  repeat' first
    | exact inSet_trans rfl hm
    | with_reducible exact Or.inr rfl
    | exact Or.inl (inSet_trans rfl hm)
    | with_reducible first
      | assumption | (intro) | apply State.bump_inv | apply Inv.ite | apply Upd.of | simp -iota only [Inv.update]
      | split | dsimp -iota only | dsimp only

theorem execChainResend_inv {fm : Nat} {s₀ : State} (src hop : Mesh) (f : LostFrame) (s : State) (h_s : Inv fm s₀ s)
    (hm : InSet 13224141125692 fm) :
    OutInv fm s₀ (execChainResend src hop f s) := by
  delta execChainResend
  repeat' first
    | exact inSet_trans rfl hm
    | with_reducible exact Or.inr rfl
    | exact Or.inl (inSet_trans rfl hm)
    | with_reducible first
      | assumption | (intro) | apply State.chainReroute_inv | apply State.countSide_inv | apply State.forgetFrame_inv
      | apply State.setSeamFld_inv | apply Inv.ite | apply OutInv.ite | apply OutInv.next | apply Upd.of
      | simp -iota only [Inv.update] | split | dsimp -iota only | dsimp only

theorem State.sendAcross_inv {fm : Nat} {s₀ : State} (s : State) (i : Nat) (fromB : Bool) (type width mask : Nat)
    (h_s : Inv fm s₀ s) (hm : InSet 536870912 fm) :
    Inv fm s₀ (State.sendAcross s i fromB type width mask) := by
  delta State.sendAcross
  repeat' first
    | exact inSet_trans rfl hm
    | with_reducible first
      | assumption | (intro) | apply State.sendFrom_inv | apply Inv.ite | split | dsimp -iota only | dsimp only

theorem execSeamTrainingDone_inv {fm : Nat} {s₀ : State} (seam : SeamIx) (maskA maskB : BitVec 8) (sbLanes : BitVec 4)
    (s : State) (h_s : Inv fm s₀ s) (hm : InSet 13224141125692 fm) :
    OutInv fm s₀ (execSeamTrainingDone seam maskA maskB sbLanes s) := by
  delta execSeamTrainingDone
  repeat' first
    | exact inSet_trans rfl hm
    | with_reducible exact Or.inr rfl
    | exact Or.inl (inSet_trans rfl hm)
    | with_reducible first
      | assumption | (intro) | apply State.chainReroute_inv | apply State.sendAcross_inv | apply State.setSeam_inv
      | apply State.setSeamFld_inv | apply State.setSeamState_inv | apply Inv.ite | apply OutInv.ite
      | apply OutInv.next | apply Inv.getD | apply Upd.of | simp -iota only [Inv.update] | split | dsimp -iota only
      | dsimp only

theorem execWidthAdv_inv {fm : Nat} {s₀ : State} (seam : SeamIx) (side : Bool) (mask : BitVec 8) (s : State)
    (h_s : Inv fm s₀ s) (hm : InSet 13224141125692 fm) :
    OutInv fm s₀ (execWidthAdv seam side mask s) := by
  delta execWidthAdv
  repeat' first
    | exact inSet_trans rfl hm
    | with_reducible exact Or.inr rfl
    | exact Or.inl (inSet_trans rfl hm)
    | with_reducible first
      | assumption | (intro) | apply State.isolateSeam_inv | apply State.sendAcross_inv | apply State.setSeam_inv
      | apply Inv.ite | apply OutInv.ite | apply OutInv.next | apply Upd.of | simp -iota only [Inv.update] | split
      | dsimp -iota only | dsimp only

theorem execWidthSet_inv {fm : Nat} {s₀ : State} (seam : SeamIx) (side : Bool) (width : BitVec 4) (mask : BitVec 8)
    (s : State) (h_s : Inv fm s₀ s) (hm : InSet 13224141125692 fm) :
    OutInv fm s₀ (execWidthSet seam side width mask s) := by
  delta execWidthSet
  repeat' first
    | exact inSet_trans rfl hm
    | with_reducible exact Or.inr rfl
    | exact Or.inl (inSet_trans rfl hm)
    | with_reducible first
      | assumption | (intro) | apply State.mismatch_inv | apply State.setSeam_inv | apply Inv.ite | apply OutInv.ite
      | apply OutInv.next | apply Upd.of | simp -iota only [Inv.update] | split | dsimp -iota only | dsimp only

theorem execWidthSetTimeout_inv {fm : Nat} {s₀ : State} (seam : SeamIx) (s : State) (h_s : Inv fm s₀ s)
    (hm : InSet 13224141125692 fm) :
    OutInv fm s₀ (execWidthSetTimeout seam s) := by
  delta execWidthSetTimeout
  repeat' first
    | exact inSet_trans rfl hm
    | with_reducible first
      | assumption | (intro) | apply State.mismatch_inv | apply Inv.ite | apply OutInv.ite | apply OutInv.next
      | split | dsimp -iota only | dsimp only

theorem execSeamTestPatternDone_inv {fm : Nat} {s₀ : State} (seam : SeamIx) (pass : Bool) (s : State)
    (h_s : Inv fm s₀ s) (hm : InSet 13224141125692 fm) :
    OutInv fm s₀ (execSeamTestPatternDone seam pass s) := by
  delta execSeamTestPatternDone
  repeat' first
    | exact inSet_trans rfl hm
    | with_reducible exact Or.inr rfl
    | exact Or.inl (inSet_trans rfl hm)
    | with_reducible first
      | assumption | (intro) | apply State.mismatch_inv | apply State.openSeam_inv | apply Inv.ite | apply OutInv.ite
      | apply OutInv.next | apply Upd.of | simp -iota only [Inv.update] | split | dsimp -iota only | dsimp only

theorem execSeamState_inv {fm : Nat} {s₀ : State} (die : Mesh) (seam : SeamIx) (mask : BitVec 8) (s : State)
    (h_s : Inv fm s₀ s) (hm : InSet 524288 fm) :
    OutInv fm s₀ (execSeamState die seam mask s) := by
  delta execSeamState
  repeat' first
    | exact inSet_trans rfl hm
    | with_reducible exact Or.inr rfl
    | exact Or.inl (inSet_trans rfl hm)
    | with_reducible first
      | assumption | (intro) | apply State.setSeam_inv | apply Inv.ite | apply OutInv.ite | apply OutInv.next
      | apply Upd.of | simp -iota only [Inv.update] | split | dsimp -iota only | dsimp only

theorem execSeamFault_inv {fm : Nat} {s₀ : State} (seam : SeamIx) (linkDown : Bool) (s : State) (h_s : Inv fm s₀ s)
    (hm : InSet 13196221202492 fm) :
    OutInv fm s₀ (execSeamFault seam linkDown s) := by
  delta execSeamFault
  repeat' first
    | exact inSet_trans rfl hm
    | with_reducible first
      | assumption | (intro) | apply State.countSeam_inv | apply State.sendFaultRpt_inv
      | apply State.setSeamState_inv | apply State.takeFree_inv | (apply PairInv.snd; apply State.takeFree_inv)
      | apply Inv.ite | apply PairInv.ite | (apply PairInv.snd; apply PairInv.ite) | apply OutInv.ite
      | apply OutInv.next | simp -iota only [PairInv.mk'] | split | refine PairInv.of_eq (by assumption) ?_
      | dsimp -iota only | dsimp only

theorem State.setGuest_inv {fm : Nat} {s₀ : State} (s : State) (g : Nat) (x : GuestLink) (h_s : Inv fm s₀ s)
    (hm : InSet 1048576 fm) :
    Inv fm s₀ (State.setGuest s g x) := by
  delta State.setGuest
  repeat' first
    | exact inSet_trans rfl hm
    | with_reducible exact Or.inr rfl
    | exact Or.inl (inSet_trans rfl hm)
    | with_reducible first
      | assumption | (intro) | apply Inv.ite | apply Upd.of | simp -iota only [Inv.update] | split | dsimp -iota only
      | dsimp only

theorem State.refuseGuest_inv {fm : Nat} {s₀ : State} (s : State) (g cause : Nat) (h_s : Inv fm s₀ s)
    (hm : InSet 13196221202492 fm) :
    Inv fm s₀ (State.refuseGuest s g cause) := by
  delta State.refuseGuest
  repeat' first
    | exact inSet_trans rfl hm
    | with_reducible first
      | assumption | (intro) | apply State.raise_inv | apply State.setFlds_inv | apply Inv.ite | split
      | dsimp -iota only | dsimp only

theorem execGuestLinkUp_inv {fm : Nat} {s₀ : State} (g : Guest) (s : State) (h_s : Inv fm s₀ s)
    (hm : InSet 1048580 fm) :
    OutInv fm s₀ (execGuestLinkUp g s) := by
  delta execGuestLinkUp
  repeat' first
    | exact inSet_trans rfl hm
    | with_reducible first
      | assumption | (intro) | apply State.setFlds_inv | apply State.setGuest_inv | apply State.setSeamState_inv
      | apply Inv.ite | apply OutInv.ite | apply OutInv.next | split | dsimp -iota only | dsimp only

theorem State.judgeGuest_inv {fm : Nat} {s₀ : State} (s : State) (g : Nat) (h_s : Inv fm s₀ s)
    (hm : InSet 13196221202492 fm) :
    Inv fm s₀ (State.judgeGuest s g) := by
  delta State.judgeGuest
  repeat' first
    | exact inSet_trans rfl hm
    | with_reducible exact Or.inr rfl
    | exact Or.inl (inSet_trans rfl hm)
    | with_reducible first
      | assumption | (intro) | apply State.refuseGuest_inv | apply State.sendChain_inv | apply State.setFld_inv
      | apply State.setGuest_inv | apply State.takeFree_inv | (apply PairInv.snd; apply State.takeFree_inv) | split
      | apply Inv.ite | apply PairInv.ite | (apply PairInv.snd; apply PairInv.ite) | apply Upd.of
      | simp -iota only [Inv.update, PairInv.mk'] | refine PairInv.of_eq (by assumption) ?_ | dsimp -iota only
      | dsimp only

theorem execVspCap_inv {fm : Nat} {s₀ : State} (g : Guest) (part : BitVec 2) (block : BitVec 224) (s : State)
    (h_s : Inv fm s₀ s) (hm : InSet 13196221202492 fm) :
    OutInv fm s₀ (execVspCap g part block s) := by
  delta execVspCap
  repeat' first
    | exact inSet_trans rfl hm
    | with_reducible exact Or.inr rfl
    | exact Or.inl (inSet_trans rfl hm)
    | with_reducible first
      | assumption | (intro) | apply State.judgeGuest_inv | apply State.range_inv
      | (apply PairInv.snd; apply State.range_inv) | apply State.setFld_inv | apply State.setGuest_inv
      | apply State.setReg_inv | apply Inv.ite | apply PairInv.ite | (apply PairInv.snd; apply PairInv.ite)
      | apply OutInv.ite | apply OutInv.next | apply Inv.foldl | apply Upd.of
      | simp -iota only [Inv.update, PairInv.mk'] | split | refine PairInv.of_eq (by assumption) ?_
      | dsimp -iota only | dsimp only

theorem execVspGrant_inv {fm : Nat} {s₀ : State} (g : Guest) (crc : BitVec 32) (s : State) (h_s : Inv fm s₀ s)
    (hm : InSet 1048576 fm) :
    OutInv fm s₀ (execVspGrant g crc s) := by
  delta execVspGrant
  repeat' first
    | exact inSet_trans rfl hm
    | with_reducible exact Or.inr rfl
    | exact Or.inl (inSet_trans rfl hm)
    | with_reducible first
      | assumption | (intro) | apply State.setGuest_inv | apply Inv.ite | apply OutInv.ite | apply OutInv.next
      | apply Upd.of | simp -iota only [Inv.update] | split | dsimp -iota only | dsimp only

theorem execVspAck_inv {fm : Nat} {s₀ : State} (g : Guest) (crc : BitVec 32) (s : State) (h_s : Inv fm s₀ s)
    (hm : InSet 13196223823932 fm) :
    OutInv fm s₀ (execVspAck g crc s) := by
  delta execVspAck
  repeat' first
    | exact inSet_trans rfl hm
    | with_reducible first
      | assumption | (intro) | apply State.openSeam_inv | apply State.raise_inv | apply State.setFld_inv
      | apply State.setSeamFld_inv | apply Inv.ite | apply OutInv.ite | apply OutInv.next | split | dsimp -iota only
      | dsimp only

theorem execVspTimeout_inv {fm : Nat} {s₀ : State} (g : Guest) (s : State) (h_s : Inv fm s₀ s)
    (hm : InSet 13196221202492 fm) :
    OutInv fm s₀ (execVspTimeout g s) := by
  delta execVspTimeout
  repeat' first
    | exact inSet_trans rfl hm
    | with_reducible first
      | assumption | (intro) | apply State.refuseGuest_inv | apply Inv.ite | apply OutInv.ite | apply OutInv.next
      | split | dsimp -iota only | dsimp only

theorem State.refuseRequest_inv {fm : Nat} {s₀ : State} (s : State) (g : Nat) (h_s : Inv fm s₀ s)
    (hm : InSet 13196221202492 fm) :
    Inv fm s₀ (State.refuseRequest s g) := by
  delta State.refuseRequest
  repeat' first
    | exact inSet_trans rfl hm
    | with_reducible first
      | assumption | (intro) | apply State.bump_inv | apply State.send_inv | apply Inv.ite | split | dsimp -iota only
      | dsimp only

theorem execGuestRequest_inv {fm : Nat} {s₀ : State} (g : Guest) (r : MemReq) (s : State) (h_s : Inv fm s₀ s)
    (hm : InSet 13196221205564 fm) :
    OutInv fm s₀ (execGuestRequest g r s) := by
  delta execGuestRequest
  repeat' first
    | exact inSet_trans rfl hm
    | with_reducible exact Or.inr rfl
    | exact Or.inl (inSet_trans rfl hm)
    | with_reducible first
      | assumption | (intro) | apply State.refuseRequest_inv | apply State.takeReq_inv | apply Inv.ite
      | apply OutInv.ite | apply OutInv.next | apply Upd.of | simp -iota only [Inv.update] | split | dsimp -iota only
      | dsimp only

end Sys2Proof.Machine
end

