-- ==== Sys2Proof/Laws/InvMgmtOps.lean ====
section
/-!
SUPPORT. Laws/InvMgmtOps.lean: the operations of Machine/MgmtOps.lean write only the fields named, and keep memories canonical.
-/

set_option simprocs false
set_option linter.unusedSimpArgs false
set_option linter.unusedVariables false

namespace Sys2Proof.Machine

theorem State.onMc_inv {fm : Nat} {s₀ : State} (s : State) (f : Mc → Mc) (h_s : Inv fm s₀ s)
    (hm : InSet 549755813888 fm) :
    Inv fm s₀ (State.onMc s f) := by
  delta State.onMc
  repeat' first
    | exact inSet_trans rfl hm
    | with_reducible exact Or.inr rfl
    | exact Or.inl (inSet_trans rfl hm)
    | with_reducible first
      | assumption | (intro) | apply Inv.ite | apply Upd.of | simp -iota only [Inv.update] | split | dsimp -iota only
      | dsimp only

theorem State.setWords_inv {fm : Nat} {s₀ : State} (s : State) (y0 : Nat) (y1 : List Byte) (h_s : Inv fm s₀ s)
    (hm : InSet 4 fm) :
    Inv fm s₀ (State.setWords s y0 y1) := by
  fun_induction State.setWords s y0 y1 with
  | case1 s a b0 b1 b2 b3 bs ih => exact ih (State.setReg_inv _ _ _ h_s (inSet_trans rfl hm))
  | case2 => exact h_s
  | case3 => exact State.setReg_inv _ _ _ h_s (inSet_trans rfl hm)

theorem State.mctp_inv {fm : Nat} {s₀ : State} (s : State) (b : Nat) (args : List Nat) (bs : List Byte)
    (h_s : Inv fm s₀ s) (hm : InSet 536870912 fm) :
    Inv fm s₀ (State.mctp s b args bs) := by
  delta State.mctp
  repeat' first
    | exact inSet_trans rfl hm
    | with_reducible first
      | assumption | (intro) | apply State.send_inv | apply Inv.ite | split | dsimp -iota only | dsimp only

theorem State.mboxDone_inv {fm : Nat} {s₀ : State} (s : State) (ch : Channel) (status : Nat) (rsp : List Byte)
    (h_s : Inv fm s₀ s) (hm : InSet 13745977016380 fm) :
    Inv fm s₀ (State.mboxDone s ch status rsp) := by
  delta State.mboxDone
  repeat' first
    | exact inSet_trans rfl hm
    | with_reducible exact Or.inr rfl
    | exact Or.inl (inSet_trans rfl hm)
    | with_reducible first
      | assumption | (intro) | apply State.mctp_inv | apply State.notify_inv | apply State.onMc_inv
      | apply State.setFlds_inv | apply State.setWords_inv | apply Inv.ite | apply Upd.of
      | simp -iota only [Inv.update] | split | dsimp -iota only | dsimp only

theorem State.mboxFlush_inv {fm : Nat} {s₀ : State} (y0 : Nat) (s : State) (h_s : Inv fm s₀ s)
    (hm : InSet 13745977016380 fm) :
    Inv fm s₀ (State.mboxFlush y0 s) := by
  induction y0 generalizing s with
  | zero =>
    unfold State.mboxFlush
    try dsimp -iota only
    repeat' first
      | exact inSet_trans rfl hm
      | with_reducible exact Or.inr rfl
      | exact Or.inl (inSet_trans rfl hm)
      | with_reducible first
        | assumption | (intro) | apply State.mboxDone_inv | apply Inv.ite | apply Upd.of
        | simp -iota only [Inv.update] | split | dsimp -iota only | dsimp only
  | succ n ih =>
    unfold State.mboxFlush
    try dsimp -iota only
    repeat' first
      | exact inSet_trans rfl hm
      | with_reducible exact Or.inr rfl
      | exact Or.inl (inSet_trans rfl hm)
      | with_reducible first
        | assumption | (intro) | apply ih | apply State.mboxDone_inv | apply Inv.ite | apply Upd.of
        | simp -iota only [Inv.update] | split | dsimp -iota only | dsimp only

theorem State.submit_inv {fm : Nat} {s₀ : State} (s : State) (ch : Channel) (opc : Nat) (req : List Byte)
    (h_s : Inv fm s₀ s) (hm : InSet 13745977016380 fm) :
    Inv fm s₀ (State.submit s ch opc req) := by
  delta State.submit
  repeat' first
    | exact inSet_trans rfl hm
    | with_reducible exact Or.inr rfl
    | exact Or.inl (inSet_trans rfl hm)
    | with_reducible first
      | assumption | (intro) | apply State.mboxFlush_inv | apply State.onMc_inv | apply Inv.ite | apply Upd.of
      | simp -iota only [Inv.update] | split | dsimp -iota only | dsimp only

theorem State.mboxGo_inv {fm : Nat} {s₀ : State} (s : State) (h_s : Inv fm s₀ s) (hm : InSet 13745977016380 fm) :
    Inv fm s₀ (State.mboxGo s) := by
  delta State.mboxGo
  repeat' first
    | exact inSet_trans rfl hm
    | with_reducible first
      | assumption | (intro) | apply State.range_inv | (apply PairInv.snd; apply State.range_inv)
      | apply State.setFld_inv | apply State.submit_inv | apply Inv.ite | apply PairInv.ite
      | (apply PairInv.snd; apply PairInv.ite) | simp -iota only [PairInv.mk'] | split
      | refine PairInv.of_eq (by assumption) ?_ | dsimp -iota only | dsimp only

theorem State.runJob_inv {fm : Nat} {s₀ : State} (s : State) (ch : Channel) (opc : Nat) (f : Job → State → State)
    (h_s : Inv fm s₀ s) (h_f : ∀ a0 a1, Inv fm s₀ a1 → Inv fm s₀ (f a0 a1)) (hm : InSet 13745977016380 fm) :
    Inv fm s₀ (State.runJob s ch opc f) := by
  delta State.runJob
  repeat' first
    | exact inSet_trans rfl hm
    | with_reducible exact Or.inr rfl
    | exact Or.inl (inSet_trans rfl hm)
    | with_reducible first
      | assumption | (intro) | apply State.mboxDone_inv | apply State.mboxFlush_inv | apply h_f | apply Inv.ite
      | apply Upd.of | simp -iota only [Inv.update] | split | dsimp -iota only | dsimp only

theorem State.freeBytes_inv {fm : Nat} {s₀ : State} (s : State) (n : Nat) (h_s : Inv fm s₀ s)
    (hm : InSet 13196221202492 fm) :
    PairInv fm s₀ (State.freeBytes s n) := by
  delta State.freeBytes
  repeat' first
    | exact inSet_trans rfl hm
    | with_reducible exact Or.inr rfl
    | exact Or.inl (inSet_trans rfl hm)
    | with_reducible first
      | assumption | (intro) | apply State.range_inv | (apply PairInv.snd; apply State.range_inv) | apply Inv.ite
      | apply PairInv.ite | (apply PairInv.snd; apply PairInv.ite) | apply Upd.of
      | simp -iota only [Inv.update, PairInv.mk'] | split | refine PairInv.of_eq (by assumption) ?_
      | dsimp -iota only | dsimp only

theorem State.info_inv {fm : Nat} {s₀ : State} (s : State) (ch : Channel) (h_s : Inv fm s₀ s)
    (hm : InSet 13745977016380 fm) :
    Inv fm s₀ (State.info s ch) := by
  delta State.info
  repeat' first
    | exact inSet_trans rfl hm
    | with_reducible first
      | assumption | (intro) | apply State.mboxDone_inv | apply Inv.ite | split | dsimp -iota only | dsimp only

theorem State.sensorBytes_inv {fm : Nat} {s₀ : State} (s : State) (id : Nat) (h_s : Inv fm s₀ s)
    (hm : InSet 13196221202492 fm) :
    PairInv fm s₀ (State.sensorBytes s id) := by
  delta State.sensorBytes
  repeat' first
    | exact inSet_trans rfl hm
    | with_reducible exact Or.inr rfl
    | exact Or.inl (inSet_trans rfl hm)
    | with_reducible first
      | assumption | (intro) | apply State.freeBytes_inv | (apply PairInv.snd; apply State.freeBytes_inv)
      | apply Inv.ite | apply PairInv.ite | (apply PairInv.snd; apply PairInv.ite) | apply Upd.of
      | simp -iota only [Inv.update, PairInv.mk'] | split | refine PairInv.of_eq (by assumption) ?_
      | dsimp -iota only | dsimp only

theorem State.readSensor_inv {fm : Nat} {s₀ : State} (s : State) (ch : Channel) (id : Nat) (h_s : Inv fm s₀ s)
    (hm : InSet 13745977016380 fm) :
    Inv fm s₀ (State.readSensor s ch id) := by
  delta State.readSensor
  repeat' first
    | exact inSet_trans rfl hm
    | with_reducible first
      | assumption | (intro) | apply State.mboxDone_inv | apply State.sensorBytes_inv
      | (apply PairInv.snd; apply State.sensorBytes_inv) | apply Inv.ite | apply PairInv.ite
      | (apply PairInv.snd; apply PairInv.ite) | simp -iota only [PairInv.mk'] | split
      | refine PairInv.of_eq (by assumption) ?_ | dsimp -iota only | dsimp only

theorem State.telemetry_inv {fm : Nat} {s₀ : State} (s : State) (ch : Channel) (h_s : Inv fm s₀ s)
    (hm : InSet 13745977016380 fm) :
    Inv fm s₀ (State.telemetry s ch) := by
  delta State.telemetry
  repeat' first
    | exact inSet_trans rfl hm
    | with_reducible exact Or.inr rfl
    | exact Or.inl (inSet_trans rfl hm)
    | with_reducible first
      | assumption | (intro) | apply State.mboxDone_inv | apply Inv.ite | apply Upd.of | simp -iota only [Inv.update]
      | split | dsimp -iota only | dsimp only

theorem State.sensorEvent_inv {fm : Nat} {s₀ : State} (s : State) (id which up : Nat) (h_s : Inv fm s₀ s)
    (hm : InSet 536870912 fm) :
    Inv fm s₀ (State.sensorEvent s id which up) := by
  delta State.sensorEvent
  repeat' first
    | exact inSet_trans rfl hm
    | with_reducible first
      | assumption | (intro) | apply State.sendAll_inv | apply Inv.ite | split | dsimp -iota only | dsimp only

theorem State.showTherm_inv {fm : Nat} {s₀ : State} (s : State) (h_s : Inv fm s₀ s) (hm : InSet 13196221202492 fm) :
    Inv fm s₀ (State.showTherm s) := by
  delta State.showTherm
  repeat' first
    | exact inSet_trans rfl hm
    | with_reducible exact Or.inr rfl
    | exact Or.inl (inSet_trans rfl hm)
    | with_reducible first
      | assumption | (intro) | apply State.range_inv | (apply PairInv.snd; apply State.range_inv)
      | apply State.setFld_inv | apply Inv.ite | apply PairInv.ite | (apply PairInv.snd; apply PairInv.ite)
      | apply Upd.of | simp -iota only [Inv.update, PairInv.mk'] | split | refine PairInv.of_eq (by assumption) ?_
      | dsimp -iota only | dsimp only

theorem State.sampleSensor_inv {fm : Nat} {s₀ : State} (s : State) (id : Nat) (v : Int) (h_s : Inv fm s₀ s)
    (hm : InSet 13745977016380 fm) :
    Inv fm s₀ (State.sampleSensor s id v) := by
  delta State.sampleSensor
  repeat' first
    | exact inSet_trans rfl hm
    | with_reducible exact Or.inr rfl
    | exact Or.inl (inSet_trans rfl hm)
    | with_reducible first
      | assumption | (intro) | apply State.onMc_inv | apply State.sensorEvent_inv | apply State.showTherm_inv
      | apply Inv.ite | apply Inv.foldl | apply Inv.getD | apply Upd.of | simp -iota only [Inv.update] | split
      | dsimp -iota only | dsimp only

theorem State.showSession_inv {fm : Nat} {s₀ : State} (s : State) (h_s : Inv fm s₀ s) (hm : InSet 4 fm) :
    Inv fm s₀ (State.showSession s) := by
  delta State.showSession
  repeat' first
    | exact inSet_trans rfl hm
    | with_reducible exact Or.inr rfl
    | exact Or.inl (inSet_trans rfl hm)
    | with_reducible first
      | assumption | (intro) | apply State.setFld_inv | apply Inv.ite | apply Upd.of | simp -iota only [Inv.update]
      | split | dsimp -iota only | dsimp only

theorem State.setSession_inv {fm : Nat} {s₀ : State} (s : State) (x : Option Session) (h_s : Inv fm s₀ s)
    (hm : InSet 549755813892 fm) :
    Inv fm s₀ (State.setSession s x) := by
  delta State.setSession
  repeat' first
    | exact inSet_trans rfl hm
    | with_reducible exact Or.inr rfl
    | exact Or.inl (inSet_trans rfl hm)
    | with_reducible first
      | assumption | (intro) | apply State.onMc_inv | apply State.showSession_inv | apply Inv.ite | apply Upd.of
      | simp -iota only [Inv.update] | split | dsimp -iota only | dsimp only

theorem State.openSession_inv {fm : Nat} {s₀ : State} (s : State) (by' : Updater) (target len : Nat)
    (h_s : Inv fm s₀ s) (hm : InSet 549755814020 fm) :
    Inv fm s₀ (State.openSession s by' target len) := by
  delta State.openSession
  repeat' first
    | exact inSet_trans rfl hm
    | with_reducible exact Or.inr rfl
    | exact Or.inl (inSet_trans rfl hm)
    | with_reducible first
      | assumption | (intro) | apply State.setSession_inv | apply Inv.ite | apply Upd.of
      | simp -iota only [Inv.update] | split | dsimp -iota only | dsimp only

theorem State.sessionData_inv {fm : Nat} {s₀ : State} (s : State) (x : Session) (bs : List Byte) (h_s : Inv fm s₀ s)
    (hm : InSet 549755814020 fm) :
    Inv fm s₀ (State.sessionData s x bs) := by
  delta State.sessionData
  repeat' first
    | exact inSet_trans rfl hm
    | with_reducible exact Or.inr rfl
    | exact Or.inl (inSet_trans rfl hm)
    | with_reducible first
      | assumption | (intro) | apply State.setSession_inv | apply Inv.ite | apply Upd.of
      | simp -iota only [Inv.update] | split | dsimp -iota only | dsimp only

theorem State.closeSession_inv {fm : Nat} {s₀ : State} (s : State) (x : Session) (h_s : Inv fm s₀ s)
    (hm : InSet 13745977016508 fm) :
    PairInv fm s₀ (State.closeSession s x) := by
  suffices H : ∀ fn_, fn_ = @State.closeSession → PairInv fm s₀ (fn_ s x) from H _ rfl
  intro fn_ hf; delta State.closeSession at hf; subst hf
  repeat' first
    | exact inSet_trans rfl hm
    | with_reducible exact Or.inr rfl
    | exact Or.inl (inSet_trans rfl hm)
    | with_reducible first
      | assumption | (intro) | apply State.reject_inv | apply State.setSession_inv | apply State.showSlot_inv
      | apply Inv.ite | apply PairInv.ite | (apply PairInv.snd; apply PairInv.ite) | apply Upd.of
      | simp -iota only [Inv.update, PairInv.mk'] | split | refine PairInv.of_eq (by assumption) ?_
      | dsimp -iota only | dsimp only

theorem State.beginCmd_inv {fm : Nat} {s₀ : State} (s : State) (ch : Channel) (target len : Nat) (h_s : Inv fm s₀ s)
    (hm : InSet 13745977016508 fm) :
    Inv fm s₀ (State.beginCmd s ch target len) := by
  delta State.beginCmd
  repeat' first
    | exact inSet_trans rfl hm
    | with_reducible first
      | assumption | (intro) | apply State.mboxDone_inv | apply State.openSession_inv | apply Inv.ite | split
      | dsimp -iota only | dsimp only

theorem State.dataCmd_inv {fm : Nat} {s₀ : State} (s : State) (ch : Channel) (fw : Bool) (off n : Nat)
    (bs : List Byte) (h_s : Inv fm s₀ s) (hm : InSet 13745977016508 fm) :
    Inv fm s₀ (State.dataCmd s ch fw off n bs) := by
  delta State.dataCmd
  repeat' first
    | exact inSet_trans rfl hm
    | with_reducible exact Or.inr rfl
    | exact Or.inl (inSet_trans rfl hm)
    | with_reducible first
      | assumption | (intro) | apply State.mboxDone_inv | apply State.sessionData_inv | apply State.setSession_inv
      | apply Inv.ite | apply Upd.of | simp -iota only [Inv.update] | split | dsimp -iota only | dsimp only

theorem State.showTarget_inv {fm : Nat} {s₀ : State} (s : State) (t : Nat) (h_s : Inv fm s₀ s)
    (hm : InSet 13196221202492 fm) :
    Inv fm s₀ (State.showTarget s t) := by
  delta State.showTarget
  repeat' first
    | exact inSet_trans rfl hm
    | with_reducible first
      | assumption | (intro) | apply State.showSlot_inv | apply Inv.ite | split | dsimp -iota only | dsimp only

theorem State.endCmd_inv {fm : Nat} {s₀ : State} (s : State) (ch : Channel) (target : Nat) (h_s : Inv fm s₀ s)
    (hm : InSet 13745977016508 fm) :
    Inv fm s₀ (State.endCmd s ch target) := by
  delta State.endCmd
  repeat' first
    | exact inSet_trans rfl hm
    | with_reducible exact Or.inr rfl
    | exact Or.inl (inSet_trans rfl hm)
    | with_reducible first
      | assumption | (intro) | apply State.closeSession_inv | (apply PairInv.snd; apply State.closeSession_inv)
      | apply State.mboxDone_inv | apply State.setSession_inv | apply State.showTarget_inv | apply Inv.ite
      | apply PairInv.ite | (apply PairInv.snd; apply PairInv.ite) | apply Upd.of
      | simp -iota only [Inv.update, PairInv.mk'] | split | refine PairInv.of_eq (by assumption) ?_
      | dsimp -iota only | dsimp only

theorem State.setNextKey_inv {fm : Nat} {s₀ : State} (s : State) (q : Nat) (h_s : Inv fm s₀ s) (hm : InSet 4 fm) :
    Inv fm s₀ (State.setNextKey s q) := by
  delta State.setNextKey
  repeat' first
    | exact inSet_trans rfl hm
    | with_reducible first
      | assumption | (intro) | apply State.setFld_inv | apply Inv.ite | split | dsimp -iota only | dsimp only

theorem State.reserveKeys_inv {fm : Nat} {s₀ : State} (s : State) (q : Nat) (h_s : Inv fm s₀ s)
    (hm : InSet 549755813892 fm) :
    Inv fm s₀ (State.reserveKeys s q) := by
  delta State.reserveKeys
  repeat' first
    | exact inSet_trans rfl hm
    | with_reducible exact Or.inr rfl
    | exact Or.inl (inSet_trans rfl hm)
    | with_reducible first
      | assumption | (intro) | apply State.onMc_inv | apply State.setFld_inv | apply Inv.ite | apply Upd.of
      | simp -iota only [Inv.update] | split | dsimp -iota only | dsimp only

theorem State.swatch_inv {fm : Nat} {s₀ : State} (s : State) (ch : Channel) (nonce : List Byte) (h_s : Inv fm s₀ s)
    (hm : InSet 13745977016380 fm) :
    Inv fm s₀ (State.swatch s ch nonce) := by
  delta State.swatch
  repeat' first
    | exact inSet_trans rfl hm
    | with_reducible exact Or.inr rfl
    | exact Or.inl (inSet_trans rfl hm)
    | with_reducible first
      | assumption | (intro) | apply State.mboxDone_inv | apply State.onMc_inv | apply State.raise_inv
      | apply State.range_inv | (apply PairInv.snd; apply State.range_inv) | apply State.reserveKeys_inv
      | apply State.setNextKey_inv | apply Inv.ite | apply PairInv.ite | (apply PairInv.snd; apply PairInv.ite)
      | apply Upd.of | simp -iota only [Inv.update, PairInv.mk'] | split | refine PairInv.of_eq (by assumption) ?_
      | dsimp -iota only | dsimp only

theorem State.readBytes_inv {fm : Nat} {s₀ : State} (s : State) (ch : Channel) (bs : List Byte) (off n : Nat)
    (h_s : Inv fm s₀ s) (hm : InSet 13745977016380 fm) :
    Inv fm s₀ (State.readBytes s ch bs off n) := by
  delta State.readBytes
  repeat' first
    | exact inSet_trans rfl hm
    | with_reducible first
      | assumption | (intro) | apply State.mboxDone_inv | apply Inv.ite | split | dsimp -iota only | dsimp only

theorem State.stageKey_inv {fm : Nat} {s₀ : State} (s : State) (ch : Channel) (off n : Nat) (bs : List Byte)
    (h_s : Inv fm s₀ s) (hm : InSet 13745977016380 fm) :
    Inv fm s₀ (State.stageKey s ch off n bs) := by
  delta State.stageKey
  repeat' first
    | exact inSet_trans rfl hm
    | with_reducible exact Or.inr rfl
    | exact Or.inl (inSet_trans rfl hm)
    | with_reducible first
      | assumption | (intro) | apply State.mboxDone_inv | apply State.onMc_inv | apply Inv.ite | apply Upd.of
      | simp -iota only [Inv.update] | split | dsimp -iota only | dsimp only

theorem State.newChallenge_inv {fm : Nat} {s₀ : State} (s : State) (ch : Channel) (h_s : Inv fm s₀ s)
    (hm : InSet 13745977016380 fm) :
    Inv fm s₀ (State.newChallenge s ch) := by
  delta State.newChallenge
  repeat' first
    | exact inSet_trans rfl hm
    | with_reducible exact Or.inr rfl
    | exact Or.inl (inSet_trans rfl hm)
    | with_reducible first
      | assumption | (intro) | apply State.freeBytes_inv | (apply PairInv.snd; apply State.freeBytes_inv)
      | apply State.mboxDone_inv | apply State.onMc_inv | apply Inv.ite | apply PairInv.ite
      | (apply PairInv.snd; apply PairInv.ite) | apply Upd.of | simp -iota only [Inv.update, PairInv.mk'] | split
      | refine PairInv.of_eq (by assumption) ?_ | dsimp -iota only | dsimp only

theorem State.expireChallenge_inv {fm : Nat} {s₀ : State} (s : State) (h_s : Inv fm s₀ s) (hm : InSet 549755813888 fm) :
    Inv fm s₀ (State.expireChallenge s) := by
  delta State.expireChallenge
  repeat' first
    | exact inSet_trans rfl hm
    | with_reducible exact Or.inr rfl
    | exact Or.inl (inSet_trans rfl hm)
    | with_reducible first
      | assumption | (intro) | apply State.onMc_inv | apply Inv.ite | apply Upd.of | simp -iota only [Inv.update]
      | split | dsimp -iota only | dsimp only

theorem State.enroll_inv {fm : Nat} {s₀ : State} (s : State) (ch : Channel) (new : List Byte) (n : Nat)
    (h_s : Inv fm s₀ s) (hm : InSet 13745977016380 fm) :
    Inv fm s₀ (State.enroll s ch new n) := by
  delta State.enroll
  repeat' first
    | exact inSet_trans rfl hm
    | with_reducible exact Or.inr rfl
    | exact Or.inl (inSet_trans rfl hm)
    | with_reducible first
      | assumption | (intro) | apply State.expireChallenge_inv | apply State.mboxDone_inv | apply State.onMc_inv
      | apply Inv.ite | apply Upd.of | simp -iota only [Inv.update] | split | dsimp -iota only | dsimp only

theorem State.setHart_inv {fm : Nat} {s₀ : State} (s : State) (h : Nat) (x : Hart) (h_s : Inv fm s₀ s)
    (hm : InSet 2199023255552 fm) :
    Inv fm s₀ (State.setHart s h x) := by
  delta State.setHart
  repeat' first
    | exact inSet_trans rfl hm
    | with_reducible exact Or.inr rfl
    | exact Or.inl (inSet_trans rfl hm)
    | with_reducible first
      | assumption | (intro) | apply Inv.ite | apply Upd.of | simp -iota only [Inv.update] | split | dsimp -iota only
      | dsimp only

theorem State.startHarts_inv {fm : Nat} {s₀ : State} (s : State) (mask entry arg : Nat) (h_s : Inv fm s₀ s)
    (hm : InSet 2199023271940 fm) :
    Inv fm s₀ (State.startHarts s mask entry arg) := by
  delta State.startHarts
  repeat' first
    | exact inSet_trans rfl hm
    | with_reducible exact Or.inr rfl
    | exact Or.inl (inSet_trans rfl hm)
    | with_reducible first
      | assumption | (intro) | apply State.setFld_inv | apply State.setHart_inv | apply Inv.ite | apply Inv.foldl
      | apply Upd.of | simp -iota only [Inv.update] | split | dsimp -iota only | dsimp only

theorem State.bootHarts_inv {fm : Nat} {s₀ : State} (s : State) (h_s : Inv fm s₀ s) (hm : InSet 2199023271940 fm) :
    Inv fm s₀ (State.bootHarts s) := by
  delta State.bootHarts
  repeat' first
    | exact inSet_trans rfl hm
    | with_reducible first
      | assumption | (intro) | apply State.startHarts_inv | apply Inv.ite | split | dsimp -iota only | dsimp only

theorem State.ncRelease_inv {fm : Nat} {s₀ : State} (s : State) (ch : Channel) (mask entry arg : Nat)
    (h_s : Inv fm s₀ s) (hm : InSet 15945000271932 fm) :
    Inv fm s₀ (State.ncRelease s ch mask entry arg) := by
  delta State.ncRelease
  repeat' first
    | exact inSet_trans rfl hm
    | with_reducible exact Or.inr rfl
    | exact Or.inl (inSet_trans rfl hm)
    | with_reducible first
      | assumption | (intro) | apply State.mboxDone_inv | apply State.onMc_inv | apply State.startHarts_inv
      | apply Inv.ite | apply Upd.of | simp -iota only [Inv.update] | split | dsimp -iota only | dsimp only

theorem State.setEid_inv {fm : Nat} {s₀ : State} (s : State) (b eid : Nat) (h_s : Inv fm s₀ s)
    (hm : InSet 536870916 fm) :
    Inv fm s₀ (State.setEid s b eid) := by
  delta State.setEid
  repeat' first
    | exact inSet_trans rfl hm
    | with_reducible first
      | assumption | (intro) | apply State.mctp_inv | apply State.setFld_inv | apply Inv.ite | split
      | dsimp -iota only | dsimp only

theorem State.pldm_inv {fm : Nat} {s₀ : State} (s : State) (b type cmd code : Nat) (bs : List Byte)
    (h_s : Inv fm s₀ s) (hm : InSet 536870912 fm) :
    Inv fm s₀ (State.pldm s b type cmd code bs) := by
  delta State.pldm
  repeat' first
    | exact inSet_trans rfl hm
    | with_reducible first
      | assumption | (intro) | apply State.mctp_inv | apply Inv.ite | split | dsimp -iota only | dsimp only

theorem State.pldmAnswer_inv {fm : Nat} {s₀ : State} (s : State) (b type cmd : Nat) (h_s : Inv fm s₀ s)
    (hm : InSet 13196221202492 fm) :
    Inv fm s₀ (State.pldmAnswer s b type cmd) := by
  delta State.pldmAnswer
  repeat' first
    | exact inSet_trans rfl hm
    | with_reducible first
      | assumption | (intro) | apply State.freeBytes_inv | (apply PairInv.snd; apply State.freeBytes_inv)
      | apply State.pldm_inv | apply State.takeFree_inv | (apply PairInv.snd; apply State.takeFree_inv)
      | apply Inv.ite | apply PairInv.ite | (apply PairInv.snd; apply PairInv.ite) | simp -iota only [PairInv.mk']
      | split | refine PairInv.of_eq (by assumption) ?_ | dsimp -iota only | dsimp only

theorem State.pldmSensor_inv {fm : Nat} {s₀ : State} (s : State) (b cmd sensor : Nat) (h_s : Inv fm s₀ s)
    (hm : InSet 13745977016380 fm) :
    Inv fm s₀ (State.pldmSensor s b cmd sensor) := by
  delta State.pldmSensor
  repeat' first
    | exact inSet_trans rfl hm
    | with_reducible exact Or.inr rfl
    | exact Or.inl (inSet_trans rfl hm)
    | with_reducible first
      | assumption | (intro) | apply State.onMc_inv | apply State.pldm_inv | apply State.pldmAnswer_inv
      | apply State.sensorBytes_inv | (apply PairInv.snd; apply State.sensorBytes_inv) | apply Inv.ite
      | apply PairInv.ite | (apply PairInv.snd; apply PairInv.ite) | apply Upd.of
      | simp -iota only [Inv.update, PairInv.mk'] | split | refine PairInv.of_eq (by assumption) ?_
      | dsimp -iota only | dsimp only

theorem State.pldmRequest_inv {fm : Nat} {s₀ : State} (s : State) (b : Binding) (h_s : Inv fm s₀ s)
    (hm : InSet 550292684800 fm) :
    Inv fm s₀ (State.pldmRequest s b) := by
  delta State.pldmRequest
  repeat' first
    | exact inSet_trans rfl hm
    | with_reducible exact Or.inr rfl
    | exact Or.inl (inSet_trans rfl hm)
    | with_reducible first
      | assumption | (intro) | apply State.onMc_inv | apply State.pldm_inv | apply Inv.ite | apply Upd.of
      | simp -iota only [Inv.update] | split | dsimp -iota only | dsimp only

theorem State.pldmComponent_inv {fm : Nat} {s₀ : State} (s : State) (b : Binding) (ident size : Nat)
    (h_s : Inv fm s₀ s) (hm : InSet 550292684932 fm) :
    Inv fm s₀ (State.pldmComponent s b ident size) := by
  delta State.pldmComponent
  repeat' first
    | exact inSet_trans rfl hm
    | with_reducible exact Or.inr rfl
    | exact Or.inl (inSet_trans rfl hm)
    | with_reducible first
      | assumption | (intro) | apply State.openSession_inv | apply State.pldm_inv | apply Inv.ite | apply Upd.of
      | simp -iota only [Inv.update] | split | dsimp -iota only | dsimp only

theorem State.pldmData_inv {fm : Nat} {s₀ : State} (s : State) (b : Binding) (off : Nat) (bs : List Byte)
    (h_s : Inv fm s₀ s) (hm : InSet 13745977016508 fm) :
    Inv fm s₀ (State.pldmData s b off bs) := by
  delta State.pldmData
  repeat' first
    | exact inSet_trans rfl hm
    | with_reducible exact Or.inr rfl
    | exact Or.inl (inSet_trans rfl hm)
    | with_reducible first
      | assumption | (intro) | apply State.closeSession_inv | (apply PairInv.snd; apply State.closeSession_inv)
      | apply State.pldm_inv | apply State.sessionData_inv | apply Inv.ite | apply PairInv.ite
      | (apply PairInv.snd; apply PairInv.ite) | apply Upd.of | simp -iota only [Inv.update, PairInv.mk'] | split
      | refine PairInv.of_eq (by assumption) ?_ | dsimp -iota only | dsimp only

theorem State.pldmActivate_inv {fm : Nat} {s₀ : State} (s : State) (b : Binding) (h_s : Inv fm s₀ s)
    (hm : InSet 550292684804 fm) :
    Inv fm s₀ (State.pldmActivate s b) := by
  delta State.pldmActivate
  repeat' first
    | exact inSet_trans rfl hm
    | with_reducible exact Or.inr rfl
    | exact Or.inl (inSet_trans rfl hm)
    | with_reducible first
      | assumption | (intro) | apply State.onMc_inv | apply State.pldm_inv | apply State.setSession_inv
      | apply Inv.ite | apply Upd.of | simp -iota only [Inv.update] | split | dsimp -iota only | dsimp only

theorem State.pldmFru_inv {fm : Nat} {s₀ : State} (s : State) (k cmd : Nat) (h_s : Inv fm s₀ s)
    (hm : InSet 536870912 fm) :
    Inv fm s₀ (State.pldmFru s k cmd) := by
  delta State.pldmFru
  repeat' first
    | exact inSet_trans rfl hm
    | with_reducible first
      | assumption | (intro) | apply State.pldm_inv | apply Inv.ite | split | dsimp -iota only | dsimp only

theorem State.pldmMessage_inv {fm : Nat} {s₀ : State} (s : State) (b : Binding) (type cmd : Nat) (bs : List Byte)
    (h_s : Inv fm s₀ s) (hm : InSet 13745977016508 fm) :
    Inv fm s₀ (State.pldmMessage s b type cmd bs) := by
  delta State.pldmMessage
  repeat' first
    | exact inSet_trans rfl hm
    | with_reducible exact Or.inr rfl
    | exact Or.inl (inSet_trans rfl hm)
    | with_reducible first
      | assumption | (intro) | apply State.pldmActivate_inv | apply State.pldmAnswer_inv
      | apply State.pldmComponent_inv | apply State.pldmData_inv | apply State.pldmFru_inv
      | apply State.pldmRequest_inv | apply State.pldmSensor_inv | apply Inv.ite | apply Upd.of
      | simp -iota only [Inv.update] | split | dsimp -iota only | dsimp only

theorem State.mctpJob_inv {fm : Nat} {s₀ : State} (s : State) (b : Binding) (bs : List Byte) (h_s : Inv fm s₀ s)
    (hm : InSet 13745977016380 fm) :
    Inv fm s₀ (State.mctpJob s b bs) := by
  delta State.mctpJob
  repeat' first
    | exact inSet_trans rfl hm
    | with_reducible exact Or.inr rfl
    | exact Or.inl (inSet_trans rfl hm)
    | with_reducible first
      | assumption | (intro) | apply State.submit_inv | apply Inv.ite | apply Inv.getD | apply Upd.of
      | simp -iota only [Inv.update] | split | dsimp -iota only | dsimp only

end Sys2Proof.Machine
end

