-- ==== Sys2Proof/Laws/InvTestOps.lean ====
section
/-!
SUPPORT. Laws/InvTestOps.lean: the operations of Machine/TestOps.lean write only the fields named, and keep memories canonical.
-/

set_option simprocs false
set_option linter.unusedSimpArgs false
set_option linter.unusedVariables false

namespace Sys2Proof.Machine

theorem State.loopEnter_inv {fm : Nat} {s₀ : State} (s : State) (b : LoopBlock) (h_s : Inv fm s₀ s)
    (hm : InSet 13471107498044 fm) :
    Inv fm s₀ (State.loopEnter s b) := by
  delta State.loopEnter
  repeat' first
    | exact inSet_trans rfl hm
    | with_reducible exact Or.inr rfl
    | exact Or.inl (inSet_trans rfl hm)
    | with_reducible first
      | assumption | (intro) | apply State.holdover_inv | apply State.hostReset_inv | apply State.setFld_inv
      | apply State.showClock_inv | apply Inv.ite | apply Upd.of | simp -iota only [Inv.update] | split
      | dsimp -iota only | dsimp only

theorem State.loopLeave_inv {fm : Nat} {s₀ : State} (s : State) (b : LoopBlock) (h_s : Inv fm s₀ s)
    (hm : InSet 13471099109436 fm) :
    Inv fm s₀ (State.loopLeave s b) := by
  delta State.loopLeave
  repeat' first
    | exact inSet_trans rfl hm
    | with_reducible exact Or.inr rfl
    | exact Or.inl (inSet_trans rfl hm)
    | with_reducible first
      | assumption | (intro) | apply State.hostReset_inv | apply State.setFld_inv | apply Inv.ite | apply Upd.of
      | simp -iota only [Inv.update] | split | dsimp -iota only | dsimp only

theorem State.loopEnd_inv {fm : Nat} {s₀ : State} (s : State) (b : LoopBlock) (h_s : Inv fm s₀ s)
    (hm : InSet 13471099109436 fm) :
    Inv fm s₀ (State.loopEnd s b) := by
  delta State.loopEnd
  repeat' first
    | exact inSet_trans rfl hm
    | with_reducible first
      | assumption | (intro) | apply State.loopLeave_inv | apply State.setFlds_inv | apply Inv.ite | split
      | dsimp -iota only | dsimp only

theorem State.stopRuns_inv {fm : Nat} {s₀ : State} (s : State) (h_s : Inv fm s₀ s) (hm : InSet 13471099109436 fm) :
    Inv fm s₀ (State.stopRuns s) := by
  delta State.stopRuns
  repeat' first
    | exact inSet_trans rfl hm
    | with_reducible first
      | assumption | (intro) | apply State.loopEnd_inv | apply State.range_inv
      | (apply PairInv.snd; apply State.range_inv) | apply State.setFlds_inv | apply Inv.ite | apply PairInv.ite
      | (apply PairInv.snd; apply PairInv.ite) | apply Inv.foldl | simp -iota only [PairInv.mk'] | split
      | refine PairInv.of_eq (by assumption) ?_ | dsimp -iota only | dsimp only

end Sys2Proof.Machine
end

