-- ==== Sys2Proof/Laws/InvCastOnOps.lean ====
section
/-!
SUPPORT. Laws/InvCastOnOps.lean: the operations of Machine/CastOnOps.lean write only the fields named, and keep memories canonical.
-/

set_option simprocs false
set_option linter.unusedSimpArgs false
set_option linter.unusedVariables false

namespace Sys2Proof.Machine

theorem State.recordsOnly_inv {fm : Nat} {s₀ : State} (s : State) (warm : Bool) (h_s : Inv fm s₀ s)
    (hm : InSet 17592186044414 fm) :
    Inv fm s₀ (State.recordsOnly s warm) := by
  delta State.recordsOnly
  repeat' first
    | exact inSet_trans rfl hm
    | with_reducible exact Or.inr rfl
    | exact Or.inl (inSet_trans rfl hm)
    | exact fun _ => rfl
    | with_reducible first
      | assumption | (intro) | apply Inv.ite | apply Upd.of | simp -iota only [Inv.update] | split | dsimp -iota only
      | dsimp only

theorem State.keepBoard_inv {fm : Nat} {s₀ : State} (s old : State) (h_s : Inv fm s₀ s) (h_old : Inv fm s₀ old)
    (hm : InSet 4 fm) :
    Inv fm s₀ (State.keepBoard s old) := by
  delta State.keepBoard
  repeat' first
    | exact inSet_trans rfl hm
    | with_reducible first
      | assumption | (intro) | apply State.setFlds_inv | apply State.setReg_inv | apply Inv.ite | split
      | dsimp -iota only | dsimp only

theorem State.noteReset_inv {fm : Nat} {s₀ : State} (s : State) (warm : Bool) (cause : Nat) (h_s : Inv fm s₀ s)
    (hm : InSet 4 fm) :
    Inv fm s₀ (State.noteReset s warm cause) := by
  delta State.noteReset
  repeat' first
    | exact inSet_trans rfl hm
    | with_reducible first
      | assumption | (intro) | apply State.setFlds_inv | apply Inv.ite | split | dsimp -iota only | dsimp only

theorem State.coldReset_inv {fm : Nat} {s₀ : State} (s : State) (cause : Nat) (h_s : Inv fm s₀ s)
    (hm : InSet 17592186044414 fm) :
    Inv fm s₀ (State.coldReset s cause) := by
  delta State.coldReset
  repeat' first
    | exact inSet_trans rfl hm
    | with_reducible first
      | assumption | (intro) | apply State.keepBoard_inv | apply State.noteReset_inv | apply State.recordsOnly_inv
      | apply Inv.ite | split | dsimp -iota only | dsimp only

theorem State.warmReset_inv {fm : Nat} {s₀ : State} (s : State) (cause : Nat) (h_s : Inv fm s₀ s)
    (hm : InSet 17592186044414 fm) :
    Inv fm s₀ (State.warmReset s cause) := by
  suffices H : ∀ fn_, fn_ = @State.warmReset → Inv fm s₀ (fn_ s cause) from H _ rfl
  intro fn_ hf; delta State.warmReset at hf; subst hf
  try dsimp -iota only
  refine State.hostReset_inv _ _ (Inv.foldl (fun t k ht => State.setFld_inv _ _ _ ht (inSet_trans rfl hm)) ?_) (inSet_trans rfl hm)
  refine State.showLost_inv _ (State.noteReset_inv _ _ _ (State.keepBoard_inv _ _ ?_ h_s (inSet_trans rfl hm))
    (inSet_trans rfl hm)) (inSet_trans rfl hm)
  refine State.setFld_inv _ _ _ (Upd.of (s := s) h_s ?_ ?_ ?_ ?_ ?_ ?_ ?_ ?_ ?_ ?_ ?_ ?_ ?_ ?_ ?_ ?_ ?_ ?_ ?_ ?_ ?_ ?_ ?_ ?_ ?_ ?_ ?_ ?_ ?_ ?_ ?_ ?_ ?_ ?_ ?_ ?_ ?_ ?_ ?_ ?_ ?_ ?_ ?_ ?_ ?_) (inSet_trans rfl hm)
  · exact fun h => h
  · exact fun _ => rfl
  all_goals exact Or.inl (inSet_trans (by decide) hm)

theorem State.doReset_inv {fm : Nat} {s₀ : State} (s : State) (warm : Bool) (cause : Nat) (h_s : Inv fm s₀ s)
    (hm : InSet 17592186044414 fm) :
    Inv fm s₀ (State.doReset s warm cause) := by
  delta State.doReset
  repeat' first
    | exact inSet_trans rfl hm
    | with_reducible first
      | assumption | (intro) | apply State.coldReset_inv | apply State.warmReset_inv | apply Inv.ite | split
      | dsimp -iota only | dsimp only

theorem State.resolveAll_inv {fm : Nat} {s₀ : State} (s : State) (m : Sparse Byte) (h_s : Inv fm s₀ s)
    (hm : InSet 4 fm) :
    Inv fm s₀ (State.resolveAll s m) := by
  suffices H : ∀ fn_, fn_ = @State.resolveAll → Inv fm s₀ (fn_ s m) from H _ rfl
  intro fn_ hf; delta State.resolveAll at hf; subst hf
  repeat' first
    | exact inSet_trans rfl hm
    | with_reducible first
      | assumption | (intro) | apply State.setPos_inv | split | apply Inv.ite | apply Inv.foldl | dsimp -iota only
      | dsimp only

theorem State.takeSlot_inv {fm : Nat} {s₀ : State} (s : State) (k source : Nat) (h_s : Inv fm s₀ s)
    (hm : InSet 14020854923324 fm) :
    Inv fm s₀ (State.takeSlot s k source) := by
  delta State.takeSlot
  repeat' first
    | exact inSet_trans rfl hm
    | with_reducible exact Or.inr rfl
    | exact Or.inl (inSet_trans rfl hm)
    | with_reducible first
      | assumption | (intro) | apply State.hostPattern_inv | apply State.onMc_inv | apply State.resolveAll_inv
      | apply Inv.ite | apply Upd.of | simp -iota only [Inv.update] | split | dsimp -iota only | dsimp only

theorem State.selectSlot_inv {fm : Nat} {s₀ : State} (s : State) (h_s : Inv fm s₀ s) (hm : InSet 14020854923324 fm) :
    Inv fm s₀ (State.selectSlot s) := by
  delta State.selectSlot
  repeat' first
    | exact inSet_trans rfl hm
    | with_reducible exact Or.inr rfl
    | exact Or.inl (inSet_trans rfl hm)
    | with_reducible first
      | assumption | (intro) | apply State.raise_inv | apply State.reject_inv | apply State.setFld_inv
      | apply State.takeSlot_inv | apply Inv.ite | apply Upd.of | simp -iota only [Inv.update] | split
      | dsimp -iota only | dsimp only

theorem State.flashFields_inv {fm : Nat} {s₀ : State} (s : State) (h_s : Inv fm s₀ s) (hm : InSet 13745977016380 fm) :
    Inv fm s₀ (State.flashFields s) := by
  delta State.flashFields
  repeat' first
    | exact inSet_trans rfl hm
    | with_reducible exact Or.inr rfl
    | exact Or.inl (inSet_trans rfl hm)
    | with_reducible first
      | assumption | (intro) | apply State.onMc_inv | apply State.range_inv
      | (apply PairInv.snd; apply State.range_inv) | apply State.setFlds_inv | apply State.showSlot_inv
      | apply Inv.ite | apply PairInv.ite | (apply PairInv.snd; apply PairInv.ite) | apply Inv.foldl | apply Upd.of
      | simp -iota only [Inv.update, PairInv.mk'] | split | refine PairInv.of_eq (by assumption) ?_
      | dsimp -iota only | dsimp only

theorem State.hold_inv {fm : Nat} {s₀ : State} (s : State) (cause : Nat) (h_s : Inv fm s₀ s)
    (hm : InSet 13745977016380 fm) :
    Inv fm s₀ (State.hold s cause) := by
  delta State.hold
  repeat' first
    | exact inSet_trans rfl hm
    | with_reducible first
      | assumption | (intro) | apply State.mboxFlush_inv | apply State.setFlds_inv | apply Inv.ite | split
      | dsimp -iota only | dsimp only

theorem State.castBoot_inv {fm : Nat} {s₀ : State} (s : State) (r : CastOnReport) (h_s : Inv fm s₀ s)
    (hm : InSet 17592186044414 fm) :
    Inv fm s₀ (State.castBoot s r) := by
  delta State.castBoot
  repeat' first
    | exact inSet_trans rfl hm
    | with_reducible exact Or.inr rfl
    | exact Or.inl (inSet_trans rfl hm)
    | with_reducible first
      | assumption | (intro) | apply State.coldReset_inv | apply State.flashFields_inv | apply State.hold_inv
      | apply State.nodeFatal_inv | apply State.onMc_inv | apply State.raise_inv | apply State.selectSlot_inv
      | apply State.setFlds_inv | apply Inv.ite | apply Upd.of | simp -iota only [Inv.update] | split
      | dsimp -iota only | dsimp only

theorem State.putOut_inv {fm : Nat} {s₀ : State} (s : State) (u : MapOut) (h_s : Inv fm s₀ s)
    (hm : InSet 13196221465148 fm) :
    Inv fm s₀ (State.putOut s u) := by
  delta State.putOut
  repeat' first
    | exact inSet_trans rfl hm
    | with_reducible exact Or.inr rfl
    | exact Or.inl (inSet_trans rfl hm)
    | with_reducible first
      | assumption | (intro) | apply State.range_inv | (apply PairInv.snd; apply State.range_inv)
      | apply State.redirectSegment_inv | apply State.showMapOut_inv | apply Inv.ite | apply PairInv.ite
      | (apply PairInv.snd; apply PairInv.ite) | apply Inv.foldl | apply Upd.of
      | simp -iota only [Inv.update, PairInv.mk'] | split | refine PairInv.of_eq (by assumption) ?_
      | dsimp -iota only | dsimp only

theorem State.abandonEvac_inv {fm : Nat} {s₀ : State} (s : State) (h_s : Inv fm s₀ s) (hm : InSet 13196221465148 fm) :
    Inv fm s₀ (State.abandonEvac s) := by
  delta State.abandonEvac
  repeat' first
    | exact inSet_trans rfl hm
    | with_reducible exact Or.inr rfl
    | exact Or.inl (inSet_trans rfl hm)
    | with_reducible first
      | assumption | (intro) | apply State.putOut_inv | apply State.raise_inv | apply State.setFld_inv
      | apply State.setSwTop_inv | apply Inv.ite | apply Inv.getD | apply Upd.of | simp -iota only [Inv.update]
      | split | dsimp -iota only | dsimp only

theorem State.coldOut_inv {fm : Nat} {s₀ : State} (s : State) (k : Nat) (pc : Option Nat) (h_s : Inv fm s₀ s)
    (hm : InSet 13196221464636 fm) :
    Inv fm s₀ (State.coldOut s k pc) := by
  delta State.coldOut
  repeat' first
    | exact inSet_trans rfl hm
    | with_reducible exact Or.inr rfl
    | exact Or.inl (inSet_trans rfl hm)
    | with_reducible first
      | assumption | (intro) | apply State.fenceUnit_inv | apply State.raise_inv | apply State.showMapOut_inv
      | apply Inv.ite | apply Inv.getD | apply Upd.of | simp -iota only [Inv.update] | split | dsimp -iota only
      | dsimp only

theorem State.warmOut_inv {fm : Nat} {s₀ : State} (s : State) (k : Nat) (pc : Option Nat) (h_s : Inv fm s₀ s)
    (hm : InSet 13745977016380 fm) :
    Inv fm s₀ (State.warmOut s k pc) := by
  delta State.warmOut
  repeat' first
    | exact inSet_trans rfl hm
    | with_reducible exact Or.inr rfl
    | exact Or.inl (inSet_trans rfl hm)
    | with_reducible first
      | assumption | (intro) | apply State.after_inv | apply State.fenceUnit_inv | apply State.onMc_inv
      | apply Inv.ite | apply Upd.of | simp -iota only [Inv.update] | split | dsimp -iota only | dsimp only

theorem State.unitFails_inv {fm : Nat} {s₀ : State} (s : State) (k : Nat) (pc : Option Nat) (h_s : Inv fm s₀ s)
    (hm : InSet 13745977278524 fm) :
    Inv fm s₀ (State.unitFails s k pc) := by
  delta State.unitFails
  repeat' first
    | exact inSet_trans rfl hm
    | with_reducible first
      | assumption | (intro) | apply State.coldOut_inv | apply State.warmOut_inv | apply Inv.ite | split
      | dsimp -iota only | dsimp only

theorem State.stacksFail_inv {fm : Nat} {s₀ : State} (s : State) (r : CastOnReport) (gone : List Nat)
    (h_s : Inv fm s₀ s) (hm : InSet 13745977278524 fm) :
    Inv fm s₀ (State.stacksFail s r gone) := by
  delta State.stacksFail
  repeat' first
    | exact inSet_trans rfl hm
    | with_reducible first
      | assumption | (intro) | apply State.fenceStack_inv | apply State.range_inv
      | (apply PairInv.snd; apply State.range_inv) | apply State.unitFails_inv | apply Inv.ite | apply PairInv.ite
      | (apply PairInv.snd; apply PairInv.ite) | apply Inv.foldl | simp -iota only [PairInv.mk'] | split
      | refine PairInv.of_eq (by assumption) ?_ | dsimp -iota only | dsimp only

theorem State.measureChain_inv {fm : Nat} {s₀ : State} (s : State) (h_s : Inv fm s₀ s) (hm : InSet 17179869184 fm) :
    Inv fm s₀ (State.measureChain s) := by
  delta State.measureChain
  repeat' first
    | exact inSet_trans rfl hm
    | with_reducible exact Or.inr rfl
    | exact Or.inl (inSet_trans rfl hm)
    | with_reducible first
      | assumption | (intro) | apply State.onSched_inv | apply Inv.ite | apply Inv.foldl | apply Upd.of
      | simp -iota only [Inv.update] | split | dsimp -iota only | dsimp only

theorem State.repairRows_inv {fm : Nat} {s₀ : State} (s : State) (h_s : Inv fm s₀ s) (hm : InSet 13196221464636 fm) :
    Inv fm s₀ (State.repairRows s) := by
  delta State.repairRows
  repeat' first
    | exact inSet_trans rfl hm
    | with_reducible exact Or.inr rfl
    | exact Or.inl (inSet_trans rfl hm)
    | with_reducible first
      | assumption | (intro) | apply State.bump_inv | apply Inv.ite | apply Inv.foldl | apply Upd.of
      | simp -iota only [Inv.update] | split | dsimp -iota only | dsimp only

theorem State.stacksTrained_inv {fm : Nat} {s₀ : State} (s : State) (h_s : Inv fm s₀ s) (hm : InSet 13196221464636 fm) :
    Inv fm s₀ (State.stacksTrained s) := by
  delta State.stacksTrained
  repeat' first
    | exact inSet_trans rfl hm
    | with_reducible first
      | assumption | (intro) | apply State.range_inv | (apply PairInv.snd; apply State.range_inv)
      | apply State.repairRows_inv | apply State.setFld_inv | apply Inv.ite | apply PairInv.ite
      | (apply PairInv.snd; apply PairInv.ite) | apply Inv.foldl | simp -iota only [PairInv.mk'] | split
      | refine PairInv.of_eq (by assumption) ?_ | dsimp -iota only | dsimp only

theorem State.castChain_inv {fm : Nat} {s₀ : State} (s : State) (r : CastOnReport) (h_s : Inv fm s₀ s)
    (hm : InSet 13763157148220 fm) :
    Inv fm s₀ (State.castChain s r) := by
  delta State.castChain
  repeat' first
    | exact inSet_trans rfl hm
    | with_reducible first
      | assumption | (intro) | apply State.abandonEvac_inv | apply State.measureChain_inv | apply State.range_inv
      | (apply PairInv.snd; apply State.range_inv) | apply State.setSeamFld_inv | apply State.showMapOut_inv
      | apply State.stacksFail_inv | apply State.stacksTrained_inv | apply Inv.ite | apply PairInv.ite
      | (apply PairInv.snd; apply PairInv.ite) | apply Inv.foldl | simp -iota only [PairInv.mk'] | split
      | refine PairInv.of_eq (by assumption) ?_ | dsimp -iota only | dsimp only

theorem State.castDarn_inv {fm : Nat} {s₀ : State} (s : State) (m cause : Nat) (lost : Bool) (h_s : Inv fm s₀ s)
    (hm : InSet 13196223299644 fm) :
    Inv fm s₀ (State.castDarn s m cause lost) := by
  delta State.castDarn
  repeat' first
    | exact inSet_trans rfl hm
    | with_reducible exact Or.inr rfl
    | exact Or.inl (inSet_trans rfl hm)
    | with_reducible first
      | assumption | (intro) | apply State.raise_inv | apply State.setPos_inv | apply Inv.ite | apply Upd.of
      | simp -iota only [Inv.update] | split | dsimp -iota only | dsimp only

theorem State.castDarns_inv {fm : Nat} {s₀ : State} (s : State) (fs : List (Nat × Nat)) (h_s : Inv fm s₀ s)
    (hm : InSet 13196223299644 fm) :
    Inv fm s₀ (State.castDarns s fs) := by
  delta State.castDarns
  repeat' first
    | exact inSet_trans rfl hm
    | with_reducible first
      | assumption | (intro) | apply State.castDarn_inv | apply Inv.ite | apply Inv.foldl | split | dsimp -iota only
      | dsimp only

theorem State.motifsFail_inv {fm : Nat} {s₀ : State} (s : State) (fs : List (Nat × Nat)) (h_s : Inv fm s₀ s)
    (hm : InSet 13745979113532 fm) :
    Inv fm s₀ (State.motifsFail s fs) := by
  delta State.motifsFail
  repeat' first
    | exact inSet_trans rfl hm
    | with_reducible exact Or.inr rfl
    | exact Or.inl (inSet_trans rfl hm)
    | with_reducible first
      | assumption | (intro) | apply State.castDarns_inv | apply State.onMc_inv | apply Inv.ite | apply Upd.of
      | simp -iota only [Inv.update] | split | dsimp -iota only | dsimp only

theorem State.castIsolate_inv {fm : Nat} {s₀ : State} (s : State) (i : Nat) (h_s : Inv fm s₀ s)
    (hm : InSet 13745979113532 fm) :
    Inv fm s₀ (State.castIsolate s i) := by
  delta State.castIsolate
  repeat' first
    | exact inSet_trans rfl hm
    | with_reducible exact Or.inr rfl
    | exact Or.inl (inSet_trans rfl hm)
    | with_reducible first
      | assumption | (intro) | apply State.loseGuest_inv | apply State.motifsFail_inv | apply State.raise_inv
      | apply State.setFld_inv | apply State.setSeamFld_inv | apply State.setSeamState_inv | apply Inv.ite
      | apply Upd.of | simp -iota only [Inv.update] | split | dsimp -iota only | dsimp only

theorem State.castSeam_inv {fm : Nat} {s₀ : State} (s : State) (r : CastOnReport) (i : Nat) (h_s : Inv fm s₀ s)
    (hm : InSet 13745979637820 fm) :
    Inv fm s₀ (State.castSeam s r i) := by
  delta State.castSeam
  repeat' first
    | exact inSet_trans rfl hm
    | with_reducible exact Or.inr rfl
    | exact Or.inl (inSet_trans rfl hm)
    | with_reducible first
      | assumption | (intro) | apply State.castIsolate_inv | apply State.openSeam_inv | apply Inv.ite
      | apply Inv.getD | apply Upd.of | simp -iota only [Inv.update] | split | dsimp -iota only | dsimp only

theorem State.castTest_inv {fm : Nat} {s₀ : State} (s : State) (r : CastOnReport) (h_s : Inv fm s₀ s)
    (hm : InSet 13765307004988 fm) :
    Inv fm s₀ (State.castTest s r) := by
  delta State.castTest
  repeat' first
    | exact inSet_trans rfl hm
    | with_reducible first
      | assumption | (intro) | apply State.castSeam_inv | apply State.hold_inv | apply State.motifsFail_inv
      | apply State.nodeFatal_inv | apply State.raise_inv | apply State.range_inv
      | (apply PairInv.snd; apply State.range_inv) | apply Inv.ite | apply PairInv.ite
      | (apply PairInv.snd; apply PairInv.ite) | apply Inv.foldl | simp -iota only [PairInv.mk'] | split
      | refine PairInv.of_eq (by assumption) ?_ | dsimp -iota only | dsimp only

theorem State.loadPort_inv {fm : Nat} {s₀ : State} (s : State) (p : Nat) (h_s : Inv fm s₀ s) (hm : InSet 4 fm) :
    Inv fm s₀ (State.loadPort s p) := by
  suffices H : ∀ fn_, fn_ = @State.loadPort → Inv fm s₀ (fn_ s p) from H _ rfl
  intro fn_ hf; delta State.loadPort at hf; subst hf
  repeat' first
    | exact inSet_trans rfl hm
    | with_reducible first
      | assumption | (intro) | apply State.setFlds_inv | apply Inv.ite | split | dsimp -iota only | dsimp only

theorem State.loadLot_inv {fm : Nat} {s₀ : State} (s : State) (k : Nat) (h_s : Inv fm s₀ s) (hm : InSet 4 fm) :
    Inv fm s₀ (State.loadLot s k) := by
  suffices H : ∀ fn_, fn_ = @State.loadLot → Inv fm s₀ (fn_ s k) from H _ rfl
  intro fn_ hf; delta State.loadLot at hf; subst hf
  repeat' first
    | exact inSet_trans rfl hm
    | with_reducible first
      | assumption | (intro) | apply State.setFlds_inv | apply Inv.ite | split | dsimp -iota only | dsimp only

theorem State.loadFields_inv {fm : Nat} {s₀ : State} (s : State) (h_s : Inv fm s₀ s) (hm : InSet 13196221202492 fm) :
    Inv fm s₀ (State.loadFields s) := by
  delta State.loadFields
  repeat' first
    | exact inSet_trans rfl hm
    | with_reducible first
      | assumption | (intro) | apply State.loadLot_inv | apply State.loadPort_inv | apply State.range_inv
      | (apply PairInv.snd; apply State.range_inv) | apply State.setFlds_inv | apply State.setReg_inv | apply Inv.ite
      | apply PairInv.ite | (apply PairInv.snd; apply PairInv.ite) | apply Inv.foldl | simp -iota only [PairInv.mk']
      | split | refine PairInv.of_eq (by assumption) ?_ | dsimp -iota only | dsimp only

theorem State.applyOuts_inv {fm : Nat} {s₀ : State} (s : State) (h_s : Inv fm s₀ s) (hm : InSet 13196221465148 fm) :
    Inv fm s₀ (State.applyOuts s) := by
  delta State.applyOuts
  repeat' first
    | exact inSet_trans rfl hm
    | with_reducible exact Or.inr rfl
    | exact Or.inl (inSet_trans rfl hm)
    | with_reducible first
      | assumption | (intro) | apply State.putOut_inv | apply State.range_inv
      | (apply PairInv.snd; apply State.range_inv) | apply State.redirectSegment_inv | apply State.setFld_inv
      | apply State.setFlds_inv | apply State.setSwTop_inv | apply State.showEvac_inv | apply Inv.ite
      | apply PairInv.ite | (apply PairInv.snd; apply PairInv.ite) | apply Inv.foldl | apply Inv.getD | apply Upd.of
      | simp -iota only [Inv.update, PairInv.mk'] | split | refine PairInv.of_eq (by assumption) ?_
      | dsimp -iota only | dsimp only

theorem State.sendPattern_inv {fm : Nat} {s₀ : State} (s : State) (table : Nat) (h_s : Inv fm s₀ s)
    (hm : InSet 241071816768 fm) :
    Inv fm s₀ (State.sendPattern s table) := by
  delta State.sendPattern
  repeat' first
    | exact inSet_trans rfl hm
    | with_reducible exact Or.inr rfl
    | exact Or.inl (inSet_trans rfl hm)
    | with_reducible first
      | assumption | (intro) | apply State.sendAll_inv | apply Inv.ite | apply Inv.foldl | apply Upd.of
      | simp -iota only [Inv.update] | split | dsimp -iota only | dsimp only

set_option maxRecDepth 4000 in
theorem State.loadPattern_inv {fm : Nat} {s₀ : State} (s : State) (slot : Nat) (h_s : Inv fm s₀ s)
    (hm : InSet 13456083778428 fm) :
    Inv fm s₀ (State.loadPattern s slot) := by
  delta State.loadPattern
  try generalize List.range 16 = l16
  try generalize List.range 32 = l32
  try generalize List.range 64 = l64
  repeat' first
    | exact inSet_trans rfl hm
    | with_reducible exact Or.inr rfl
    | exact Or.inl (inSet_trans rfl hm)
    | with_reducible first
      | assumption | (intro) | apply State.applyOuts_inv | apply State.loadFields_inv | apply State.nodeFatal_inv
      | apply State.sendPattern_inv | apply State.setFlds_inv | apply Inv.ite | apply Upd.of
      | simp -iota only [Inv.update] | split | dsimp -iota only | dsimp only

theorem State.enterHold_inv {fm : Nat} {s₀ : State} (s : State) (h_s : Inv fm s₀ s) (hm : InSet 13745977016380 fm) :
    Inv fm s₀ (State.enterHold s) := by
  delta State.enterHold
  repeat' first
    | exact inSet_trans rfl hm
    | with_reducible exact Or.inr rfl
    | exact Or.inl (inSet_trans rfl hm)
    | with_reducible first
      | assumption | (intro) | apply State.onMc_inv | apply State.range_inv
      | (apply PairInv.snd; apply State.range_inv) | apply State.setFld_inv | apply State.setFlds_inv | apply Inv.ite
      | apply PairInv.ite | (apply PairInv.snd; apply PairInv.ite) | apply Inv.foldl | apply Upd.of
      | simp -iota only [Inv.update, PairInv.mk'] | split | refine PairInv.of_eq (by assumption) ?_
      | dsimp -iota only | dsimp only

theorem State.castLoad_inv {fm : Nat} {s₀ : State} (s : State) (h_s : Inv fm s₀ s) (hm : InSet 14280719596412 fm) :
    Inv fm s₀ (State.castLoad s) := by
  delta State.castLoad
  repeat' first
    | exact inSet_trans rfl hm
    | with_reducible exact Or.inr rfl
    | exact Or.inl (inSet_trans rfl hm)
    | with_reducible first
      | assumption | (intro) | apply State.castDarns_inv | apply State.enterHold_inv | apply State.hostPattern_inv
      | apply State.loadPattern_inv | apply State.onMc_inv | apply State.setFld_inv | apply State.setFlds_inv
      | apply Inv.ite | apply Upd.of | simp -iota only [Inv.update] | split | dsimp -iota only | dsimp only

theorem State.scrub_inv {fm : Nat} {s₀ : State} (s : State) (h_s : Inv fm s₀ s) (hm : InSet 549755813944 fm) :
    Inv fm s₀ (State.scrub s) := by
  delta State.scrub
  repeat' first
    | exact inSet_trans rfl hm
    | with_reducible exact Or.inr rfl
    | exact Or.inl (inSet_trans rfl hm)
    | exact fun _ => rfl
    | with_reducible first
      | assumption | exact memWrite_wf _ _ _ | (intro) | apply State.onMc_inv | apply Inv.ite | apply Upd.of
      | simp -iota only [Inv.update] | split | dsimp -iota only | dsimp only

theorem State.discarded_inv {fm : Nat} {s₀ : State} (s : State) (h_s : Inv fm s₀ s) (hm : InSet 13196221202492 fm) :
    Inv fm s₀ (State.discarded s) := by
  delta State.discarded
  repeat' first
    | exact inSet_trans rfl hm
    | with_reducible first
      | assumption | (intro) | apply State.raise_inv | apply State.setFld_inv | apply Inv.ite | split
      | dsimp -iota only | dsimp only

theorem State.stacksServe_inv {fm : Nat} {s₀ : State} (s : State) (h_s : Inv fm s₀ s) (hm : InSet 13196221202492 fm) :
    Inv fm s₀ (State.stacksServe s) := by
  delta State.stacksServe
  repeat' first
    | exact inSet_trans rfl hm
    | with_reducible first
      | assumption | (intro) | apply State.range_inv | (apply PairInv.snd; apply State.range_inv)
      | apply State.setFld_inv | apply State.setFlds_inv | apply Inv.ite | apply PairInv.ite
      | (apply PairInv.snd; apply PairInv.ite) | apply Inv.foldl | simp -iota only [PairInv.mk'] | split
      | refine PairInv.of_eq (by assumption) ?_ | dsimp -iota only | dsimp only

theorem State.castScrub_inv {fm : Nat} {s₀ : State} (s : State) (r : CastOnReport) (h_s : Inv fm s₀ s)
    (hm : InSet 13745977279036 fm) :
    Inv fm s₀ (State.castScrub s r) := by
  delta State.castScrub
  repeat' first
    | exact inSet_trans rfl hm
    | with_reducible first
      | assumption | (intro) | apply State.abandonEvac_inv | apply State.discarded_inv | apply State.scrub_inv
      | apply State.setFld_inv | apply State.stacksFail_inv | apply State.stacksServe_inv | apply Inv.ite | split
      | dsimp -iota only | dsimp only

theorem State.resumeEvac_inv {fm : Nat} {s₀ : State} (s : State) (h_s : Inv fm s₀ s) (hm : InSet 13196223299644 fm) :
    Inv fm s₀ (State.resumeEvac s) := by
  delta State.resumeEvac
  repeat' first
    | exact inSet_trans rfl hm
    | with_reducible exact Or.inr rfl
    | exact Or.inl (inSet_trans rfl hm)
    | with_reducible first
      | assumption | (intro) | apply State.raise_inv | apply State.setRecovery_inv | apply Inv.ite | apply Inv.getD
      | apply Upd.of | simp -iota only [Inv.update] | split | dsimp -iota only | dsimp only

theorem State.castReady_inv {fm : Nat} {s₀ : State} (s : State) (h_s : Inv fm s₀ s) (hm : InSet 15972928845884 fm) :
    Inv fm s₀ (State.castReady s) := by
  delta State.castReady
  repeat' first
    | exact inSet_trans rfl hm
    | with_reducible exact Or.inr rfl
    | exact Or.inl (inSet_trans rfl hm)
    | with_reducible first
      | assumption | (intro) | apply State.after_inv | apply State.bootHarts_inv | apply State.faultArrive_inv
      | apply State.mboxFlush_inv | apply State.onMc_inv | apply State.raise_inv | apply State.resumeEvac_inv
      | apply State.setFlds_inv | apply Inv.ite | apply Inv.foldl | apply Upd.of | simp -iota only [Inv.update]
      | split | dsimp -iota only | dsimp only

theorem State.unaligned_inv {fm : Nat} {s₀ : State} (s : State) (h_s : Inv fm s₀ s) (hm : InSet 13204811137084 fm) :
    Inv fm s₀ (State.unaligned s) := by
  delta State.unaligned
  repeat' first
    | exact inSet_trans rfl hm
    | with_reducible exact Or.inr rfl
    | exact Or.inl (inSet_trans rfl hm)
    | with_reducible first
      | assumption | (intro) | apply State.raise_inv | apply State.setFlds_inv | apply Inv.ite | apply Upd.of
      | simp -iota only [Inv.update] | split | dsimp -iota only | dsimp only

theorem State.castAlign_inv {fm : Nat} {s₀ : State} (s : State) (h_s : Inv fm s₀ s) (hm : InSet 15972928845884 fm) :
    Inv fm s₀ (State.castAlign s) := by
  delta State.castAlign
  repeat' first
    | exact inSet_trans rfl hm
    | with_reducible first
      | assumption | (intro) | apply State.castReady_inv | apply State.unaligned_inv | apply Inv.ite | split
      | dsimp -iota only | dsimp only

theorem State.castStep_inv {fm : Nat} {s₀ : State} (s : State) (r : CastOnReport) (k : Nat) (h_s : Inv fm s₀ s)
    (hm : InSet 17592186044414 fm) :
    Inv fm s₀ (State.castStep s r k) := by
  delta State.castStep
  repeat' first
    | exact inSet_trans rfl hm
    | with_reducible exact Or.inr rfl
    | exact Or.inl (inSet_trans rfl hm)
    | with_reducible first
      | assumption | (intro) | apply State.castAlign_inv | apply State.castBoot_inv | apply State.castChain_inv
      | apply State.castLoad_inv | apply State.castScrub_inv | apply State.castTest_inv | apply Inv.ite
      | apply Upd.of | simp -iota only [Inv.update] | split | dsimp -iota only | dsimp only

theorem State.showStep_inv {fm : Nat} {s₀ : State} (s : State) (k : Nat) (h_s : Inv fm s₀ s)
    (hm : InSet 549755813892 fm) :
    Inv fm s₀ (State.showStep s k) := by
  delta State.showStep
  repeat' first
    | exact inSet_trans rfl hm
    | with_reducible exact Or.inr rfl
    | exact Or.inl (inSet_trans rfl hm)
    | with_reducible first
      | assumption | (intro) | apply State.onMc_inv | apply State.setFlds_inv | apply Inv.ite | apply Upd.of
      | simp -iota only [Inv.update] | split | dsimp -iota only | dsimp only

theorem State.castSteps_inv {fm : Nat} {s₀ : State} (r : CastOnReport) (y0 : List Nat) (s : State) (h_s : Inv fm s₀ s)
    (hm : InSet 17592186044414 fm) :
    Inv fm s₀ (State.castSteps r y0 s) := by
  induction y0 generalizing s with
  | nil =>
    unfold State.castSteps
    try dsimp -iota only
    repeat' first
      | exact inSet_trans rfl hm
      | with_reducible first
        | assumption | (intro) | apply State.castStep_inv | apply State.showStep_inv | apply Inv.ite | split
        | dsimp -iota only | dsimp only
  | cons x xs ih =>
    unfold State.castSteps
    try dsimp -iota only
    repeat' first
      | exact inSet_trans rfl hm
      | with_reducible first
        | assumption | (intro) | apply ih | apply State.castStep_inv | apply State.showStep_inv | apply Inv.ite
        | split | dsimp -iota only | dsimp only

theorem State.stopAll_inv {fm : Nat} {s₀ : State} (s : State) (h_s : Inv fm s₀ s) (hm : InSet 15672269862972 fm) :
    Inv fm s₀ (State.stopAll s) := by
  delta State.stopAll
  repeat' first
    | exact inSet_trans rfl hm
    | with_reducible exact Or.inr rfl
    | exact Or.inl (inSet_trans rfl hm)
    | with_reducible first
      | assumption | (intro) | apply State.drainCache_inv | apply State.flushBuffer_inv | apply State.range_inv
      | (apply PairInv.snd; apply State.range_inv) | apply State.setFld_inv | apply State.stopEngines_inv
      | apply State.stopRuns_inv | apply Inv.ite | apply PairInv.ite | (apply PairInv.snd; apply PairInv.ite)
      | apply Inv.foldl | apply Upd.of | simp -iota only [Inv.update, PairInv.mk'] | split
      | refine PairInv.of_eq (by assumption) ?_ | dsimp -iota only | dsimp only

theorem State.dropStructure_inv {fm : Nat} {s₀ : State} (s : State) (h_s : Inv fm s₀ s) (hm : InSet 166686096384 fm) :
    Inv fm s₀ (State.dropStructure s) := by
  delta State.dropStructure
  repeat' first
    | exact inSet_trans rfl hm
    | with_reducible exact Or.inr rfl
    | exact Or.inl (inSet_trans rfl hm)
    | exact fun _ => rfl
    | with_reducible first
      | assumption | exact locals_wf _ _ (memWrite_wf _ _ _) | exact locals_wf _ [] (fun _ => rfl) | (intro)
      | apply Inv.ite | apply Upd.of | simp -iota only [Inv.update] | split | dsimp -iota only | dsimp only

theorem State.relock_inv {fm : Nat} {s₀ : State} (s : State) (old : Nat) (h_s : Inv fm s₀ s)
    (hm : InSet 13196229591100 fm) :
    Inv fm s₀ (State.relock s old) := by
  delta State.relock
  repeat' first
    | exact inSet_trans rfl hm
    | with_reducible first
      | assumption | (intro) | apply State.holdover_inv | apply Inv.ite | split | dsimp -iota only | dsimp only

theorem State.repatternEnd_inv {fm : Nat} {s₀ : State} (s : State) (h_s : Inv fm s₀ s) (hm : InSet 15945000271932 fm) :
    Inv fm s₀ (State.repatternEnd s) := by
  delta State.repatternEnd
  repeat' first
    | exact inSet_trans rfl hm
    | with_reducible exact Or.inr rfl
    | exact Or.inl (inSet_trans rfl hm)
    | with_reducible first
      | assumption | (intro) | apply State.bootHarts_inv | apply State.fetchAgain_inv | apply State.mboxDone_inv
      | apply State.mboxFlush_inv | apply State.raise_inv | apply State.setFlds_inv | apply Inv.ite | apply Upd.of
      | simp -iota only [Inv.update] | split | dsimp -iota only | dsimp only

theorem State.repatternRun_inv {fm : Nat} {s₀ : State} (s : State) (slot : Nat) (h_s : Inv fm s₀ s)
    (hm : InSet 16488376827772 fm) :
    Inv fm s₀ (State.repatternRun s slot) := by
  delta State.repatternRun
  repeat' first
    | exact inSet_trans rfl hm
    | with_reducible exact Or.inr rfl
    | exact Or.inl (inSet_trans rfl hm)
    | with_reducible first
      | assumption | (intro) | apply State.dropStructure_inv | apply State.loadPattern_inv | apply State.onMc_inv
      | apply State.relock_inv | apply State.repatternEnd_inv | apply State.resolveAll_inv | apply State.scrub_inv
      | apply State.setFld_inv | apply State.stopAll_inv | apply State.unaligned_inv | apply Inv.ite | apply Upd.of
      | simp -iota only [Inv.update] | split | dsimp -iota only | dsimp only

theorem State.repattern_inv {fm : Nat} {s₀ : State} (s : State) (ch : Channel) (slot : Nat) (h_s : Inv fm s₀ s)
    (hm : InSet 17592186044414 fm) :
    Inv fm s₀ (State.repattern s ch slot) := by
  delta State.repattern
  repeat' first
    | exact inSet_trans rfl hm
    | with_reducible exact Or.inr rfl
    | exact Or.inl (inSet_trans rfl hm)
    | with_reducible first
      | assumption | (intro) | apply State.castSteps_inv | apply State.mboxDone_inv | apply State.reject_inv
      | apply State.repatternRun_inv | apply State.setFld_inv | apply State.setFlds_inv | apply State.takeSlot_inv
      | apply Inv.ite | apply Upd.of | simp -iota only [Inv.update] | split | dsimp -iota only | dsimp only

theorem State.aligned_inv {fm : Nat} {s₀ : State} (s : State) (h_s : Inv fm s₀ s) (hm : InSet 15972928845884 fm) :
    Inv fm s₀ (State.aligned s) := by
  delta State.aligned
  repeat' first
    | exact inSet_trans rfl hm
    | with_reducible first
      | assumption | (intro) | apply State.castReady_inv | apply State.repatternEnd_inv | apply Inv.ite | split
      | dsimp -iota only | dsimp only

end Sys2Proof.Machine
end

