-- ==== Sys2Proof/Laws/InvCastOn.lean ====
section
/-!
SUPPORT. Laws/InvCastOn.lean: the operations of Machine/CastOn.lean write only the fields named, and keep memories canonical.
-/

set_option simprocs false
set_option linter.unusedSimpArgs false
set_option linter.unusedVariables false

namespace Sys2Proof.Machine

theorem State.onCast_inv {fm : Nat} {s₀ : State} (s : State) (f : CastOn → CastOn) (h_s : Inv fm s₀ s)
    (hm : InSet 549755813888 fm) :
    Inv fm s₀ (State.onCast s f) := by
  delta State.onCast
  repeat' first
    | exact inSet_trans rfl hm
    | with_reducible exact Or.inr rfl
    | exact Or.inl (inSet_trans rfl hm)
    | with_reducible first
      | assumption | (intro) | apply State.onMc_inv | apply Inv.ite | apply Upd.of | simp -iota only [Inv.update]
      | split | dsimp -iota only | dsimp only

theorem State.onBoard_inv {fm : Nat} {s₀ : State} (s : State) (f : Board → Board) (h_s : Inv fm s₀ s)
    (hm : InSet 1099511627776 fm) :
    Inv fm s₀ (State.onBoard s f) := by
  delta State.onBoard
  repeat' first
    | exact inSet_trans rfl hm
    | with_reducible exact Or.inr rfl
    | exact Or.inl (inSet_trans rfl hm)
    | with_reducible first
      | assumption | (intro) | apply Inv.ite | apply Upd.of | simp -iota only [Inv.update] | split | dsimp -iota only
      | dsimp only

theorem execMcLeaveReset_inv {fm : Nat} {s₀ : State} (sel : BitVec 2) (r : CastOnReport) (s : State)
    (h_s : Inv fm s₀ s) (hm : InSet 17592186044414 fm) :
    OutInv fm s₀ (execMcLeaveReset sel r s) := by
  delta execMcLeaveReset
  repeat' first
    | exact inSet_trans rfl hm
    | with_reducible exact Or.inr rfl
    | exact Or.inl (inSet_trans rfl hm)
    | with_reducible first
      | assumption | (intro) | apply State.castSteps_inv | apply State.onCast_inv | apply State.setFlds_inv
      | apply Inv.ite | apply OutInv.ite | apply OutInv.next | apply Upd.of | simp -iota only [Inv.update] | split
      | dsimp -iota only | dsimp only

theorem execStepBudgetExpiry_inv {fm : Nat} {s₀ : State} (r : CastOnReport) (s : State) (h_s : Inv fm s₀ s)
    (hm : InSet 17592186044414 fm) :
    OutInv fm s₀ (execStepBudgetExpiry r s) := by
  delta execStepBudgetExpiry
  repeat' first
    | exact inSet_trans rfl hm
    | with_reducible exact Or.inr rfl
    | exact Or.inl (inSet_trans rfl hm)
    | with_reducible first
      | assumption | (intro) | apply State.castSteps_inv | apply Inv.ite | apply OutInv.ite | apply OutInv.next
      | apply Upd.of | simp -iota only [Inv.update] | split | dsimp -iota only | dsimp only

theorem execLockTimeout_inv {fm : Nat} {s₀ : State} (s : State) (h_s : Inv fm s₀ s) (hm : InSet 15972928845884 fm) :
    OutInv fm s₀ (execLockTimeout s) := by
  delta execLockTimeout
  repeat' first
    | exact inSet_trans rfl hm
    | with_reducible first
      | assumption | (intro) | apply State.castReady_inv | apply State.repatternEnd_inv | apply State.unaligned_inv
      | apply Inv.ite | apply OutInv.ite | apply OutInv.next | split | dsimp -iota only | dsimp only

theorem execWatchdog_inv {fm : Nat} {s₀ : State} (s : State) (h_s : Inv fm s₀ s) (hm : InSet 17592186044414 fm) :
    OutInv fm s₀ (execWatchdog s) := by
  delta execWatchdog
  repeat' first
    | exact inSet_trans rfl hm
    | with_reducible first
      | assumption | (intro) | apply State.warmReset_inv | apply Inv.ite | apply OutInv.ite | apply OutInv.next
      | split | dsimp -iota only | dsimp only

theorem execColdRstN_inv {fm : Nat} {s₀ : State} (level : Bool) (s : State) (h_s : Inv fm s₀ s)
    (hm : InSet 17592186044414 fm) :
    OutInv fm s₀ (execColdRstN level s) := by
  delta execColdRstN
  repeat' first
    | exact inSet_trans rfl hm
    | with_reducible exact Or.inr rfl
    | exact Or.inl (inSet_trans rfl hm)
    | with_reducible first
      | assumption | (intro) | apply State.coldReset_inv | apply State.onBoard_inv | apply State.onCast_inv
      | apply Inv.ite | apply OutInv.ite | apply OutInv.next | apply Upd.of | simp -iota only [Inv.update] | split
      | dsimp -iota only | dsimp only

theorem execWarmRstN_inv {fm : Nat} {s₀ : State} (level : Bool) (s : State) (h_s : Inv fm s₀ s)
    (hm : InSet 17592186044414 fm) :
    OutInv fm s₀ (execWarmRstN level s) := by
  delta execWarmRstN
  repeat' first
    | exact inSet_trans rfl hm
    | with_reducible exact Or.inr rfl
    | exact Or.inl (inSet_trans rfl hm)
    | with_reducible first
      | assumption | (intro) | apply State.onBoard_inv | apply State.onCast_inv | apply State.warmReset_inv
      | apply Inv.ite | apply OutInv.ite | apply OutInv.next | apply Upd.of | simp -iota only [Inv.update] | split
      | dsimp -iota only | dsimp only

theorem execPowerGood_inv {fm : Nat} {s₀ : State} (s : State) (h_s : Inv fm s₀ s) (hm : InSet 1649267441664 fm) :
    OutInv fm s₀ (execPowerGood s) := by
  delta execPowerGood
  repeat' first
    | exact inSet_trans rfl hm
    | with_reducible exact Or.inr rfl
    | exact Or.inl (inSet_trans rfl hm)
    | with_reducible first
      | assumption | (intro) | apply State.onBoard_inv | apply State.onCast_inv | apply Inv.ite | apply OutInv.ite
      | apply OutInv.next | apply Upd.of | simp -iota only [Inv.update] | split | dsimp -iota only | dsimp only

theorem State.railsOff_inv {fm : Nat} {s₀ : State} (s : State) (h_s : Inv fm s₀ s) (hm : InSet 1099511627780 fm) :
    Inv fm s₀ (State.railsOff s) := by
  delta State.railsOff
  repeat' first
    | exact inSet_trans rfl hm
    | with_reducible exact Or.inr rfl
    | exact Or.inl (inSet_trans rfl hm)
    | with_reducible first
      | assumption | (intro) | apply State.onBoard_inv | apply State.setFlds_inv | apply Inv.ite | apply Upd.of
      | simp -iota only [Inv.update] | split | dsimp -iota only | dsimp only

theorem execPowerFail_inv {fm : Nat} {s₀ : State} (s : State) (h_s : Inv fm s₀ s) (hm : InSet 17592186044414 fm) :
    OutInv fm s₀ (execPowerFail s) := by
  delta execPowerFail
  repeat' first
    | exact inSet_trans rfl hm
    | with_reducible first
      | assumption | (intro) | apply State.coldReset_inv | apply State.railsOff_inv | apply Inv.ite
      | apply OutInv.ite | apply OutInv.next | split | dsimp -iota only | dsimp only

theorem execThermalTrip_inv {fm : Nat} {s₀ : State} (s : State) (h_s : Inv fm s₀ s) (hm : InSet 17592186044414 fm) :
    OutInv fm s₀ (execThermalTrip s) := by
  delta execThermalTrip
  repeat' first
    | exact inSet_trans rfl hm
    | with_reducible exact Or.inr rfl
    | exact Or.inl (inSet_trans rfl hm)
    | with_reducible first
      | assumption | (intro) | apply State.coldReset_inv | apply State.onBoard_inv | apply State.railsOff_inv
      | apply Inv.ite | apply OutInv.ite | apply OutInv.next | apply Upd.of | simp -iota only [Inv.update] | split
      | dsimp -iota only | dsimp only

theorem execTripClear_inv {fm : Nat} {s₀ : State} (s : State) (h_s : Inv fm s₀ s) (hm : InSet 1099511627780 fm) :
    OutInv fm s₀ (execTripClear s) := by
  suffices H : ∀ fn_, fn_ = @execTripClear → OutInv fm s₀ (fn_ s) from H _ rfl
  intro fn_ hf; delta execTripClear at hf; subst hf
  repeat' first
    | exact inSet_trans rfl hm
    | with_reducible exact Or.inr rfl
    | exact Or.inl (inSet_trans rfl hm)
    | with_reducible first
      | assumption | (intro) | apply State.onBoard_inv | apply State.setFlds_inv | apply Inv.ite | apply OutInv.ite
      | apply OutInv.next | apply Upd.of | simp -iota only [Inv.update] | split | dsimp -iota only | dsimp only

theorem State.dueReset_inv {fm : Nat} {s₀ : State} (s : State) (h_s : Inv fm s₀ s) (hm : InSet 17592186044414 fm) :
    Inv fm s₀ (State.dueReset s) := by
  delta State.dueReset
  repeat' first
    | exact inSet_trans rfl hm
    | with_reducible exact Or.inr rfl
    | exact Or.inl (inSet_trans rfl hm)
    | with_reducible first
      | assumption | (intro) | apply State.doReset_inv | apply Inv.ite | apply Upd.of | simp -iota only [Inv.update]
      | split | dsimp -iota only | dsimp only

end Sys2Proof.Machine
end

