-- ==== Sys2Proof/Laws/InvBoard.lean ====
section
/-!
SUPPORT. Laws/InvBoard.lean: the operations of Machine/Board.lean write only the fields named, and keep memories canonical.
-/

set_option simprocs false
set_option linter.unusedSimpArgs false
set_option linter.unusedVariables false

namespace Sys2Proof.Machine

theorem State.holdClocks_inv {fm : Nat} {s₀ : State} (s : State) (h_s : Inv fm s₀ s) (hm : InSet 14312912699452 fm) :
    Inv fm s₀ (State.holdClocks s) := by
  suffices H : ∀ fn_, fn_ = @State.holdClocks → Inv fm s₀ (fn_ s) from H _ rfl
  intro fn_ hf; delta State.holdClocks at hf; subst hf
  repeat' first
    | exact inSet_trans rfl hm
    | with_reducible exact Or.inr rfl
    | exact Or.inl (inSet_trans rfl hm)
    | with_reducible first
      | assumption | (intro) | apply State.noteBackstop_inv | apply State.onBoard_inv | apply State.raise_inv
      | apply State.setFld_inv | split | apply Inv.ite | apply Inv.foldl | apply Upd.of
      | simp -iota only [Inv.update] | dsimp -iota only | dsimp only

theorem execCurrentGuardSample_inv {fm : Nat} {s₀ : State} (ma : BitVec 18) (s : State) (h_s : Inv fm s₀ s)
    (hm : InSet 14321502634044 fm) :
    OutInv fm s₀ (execCurrentGuardSample ma s) := by
  delta execCurrentGuardSample
  repeat' first
    | exact inSet_trans rfl hm
    | with_reducible exact Or.inr rfl
    | exact Or.inl (inSet_trans rfl hm)
    | with_reducible first
      | assumption | (intro) | apply State.holdClocks_inv | apply State.onBoard_inv | apply State.setFld_inv
      | apply Inv.ite | apply OutInv.ite | apply OutInv.next | apply Inv.getD | apply Upd.of
      | simp -iota only [Inv.update] | split | dsimp -iota only | dsimp only

theorem execTrefLost_inv {fm : Nat} {s₀ : State} (s : State) (h_s : Inv fm s₀ s) (hm : InSet 13196221202492 fm) :
    OutInv fm s₀ (execTrefLost s) := by
  delta execTrefLost
  repeat' first
    | exact inSet_trans rfl hm
    | with_reducible first
      | assumption | (intro) | apply State.raise_inv | apply State.setFld_inv | apply Inv.ite | apply OutInv.ite
      | apply OutInv.next | split | dsimp -iota only | dsimp only

theorem execTrefInUse_inv {fm : Nat} {s₀ : State} (s : State) (h_s : Inv fm s₀ s) (hm : InSet 4 fm) :
    OutInv fm s₀ (execTrefInUse s) := by
  delta execTrefInUse
  repeat' first
    | exact inSet_trans rfl hm
    | with_reducible first
      | assumption | (intro) | apply State.setFld_inv | apply Inv.ite | apply OutInv.ite | apply OutInv.next | split
      | dsimp -iota only | dsimp only

theorem execOcxoWarm_inv {fm : Nat} {s₀ : State} (s : State) (h_s : Inv fm s₀ s) (hm : InSet 4 fm) :
    OutInv fm s₀ (execOcxoWarm s) := by
  delta execOcxoWarm
  repeat' first
    | exact inSet_trans rfl hm
    | with_reducible first
      | assumption | (intro) | apply State.setFld_inv | apply Inv.ite | apply OutInv.ite | apply OutInv.next | split
      | dsimp -iota only | dsimp only

theorem State.tapLoad_inv {fm : Nat} {s₀ : State} (s : State) (i : TapInstr) (driven floating : Bool)
    (h_s : Inv fm s₀ s) (hm : InSet 1099511627776 fm) :
    Inv fm s₀ (State.tapLoad s i driven floating) := by
  delta State.tapLoad
  repeat' first
    | exact inSet_trans rfl hm
    | with_reducible exact Or.inr rfl
    | exact Or.inl (inSet_trans rfl hm)
    | with_reducible first
      | assumption | (intro) | apply State.onBoard_inv | apply Inv.ite | apply Upd.of | simp -iota only [Inv.update]
      | split | dsimp -iota only | dsimp only

theorem State.tapScan_inv {fm : Nat} {s₀ : State} (s : State) (i : TapInstr) (driven floating : Bool)
    (h_s : Inv fm s₀ s) (hm : InSet 1099511627776 fm) :
    Inv fm s₀ (State.tapScan s i driven floating) := by
  delta State.tapScan
  repeat' first
    | exact inSet_trans rfl hm
    | with_reducible first
      | assumption | (intro) | apply State.tapLoad_inv | apply Inv.ite | split | dsimp -iota only | dsimp only

theorem execTapReset_inv {fm : Nat} {s₀ : State} (s : State) (h_s : Inv fm s₀ s) (hm : InSet 1099511627776 fm) :
    OutInv fm s₀ (execTapReset s) := by
  delta execTapReset
  repeat' first
    | exact inSet_trans rfl hm
    | with_reducible first
      | assumption | (intro) | apply State.tapLoad_inv | apply Inv.ite | apply OutInv.ite | apply OutInv.next | split
      | dsimp -iota only | dsimp only

theorem execBypass_inv {fm : Nat} {s₀ : State} (s : State) (h_s : Inv fm s₀ s) (hm : InSet 1099511627776 fm) :
    OutInv fm s₀ (execBypass s) := by
  delta execBypass
  repeat' first
    | exact inSet_trans rfl hm
    | with_reducible first
      | assumption | (intro) | apply State.tapLoad_inv | apply Inv.ite | apply OutInv.ite | apply OutInv.next | split
      | dsimp -iota only | dsimp only

theorem execIdcode_inv {fm : Nat} {s₀ : State} (s : State) (h_s : Inv fm s₀ s) (hm : InSet 1100048498688 fm) :
    OutInv fm s₀ (execIdcode s) := by
  delta execIdcode
  repeat' first
    | exact inSet_trans rfl hm
    | with_reducible first
      | assumption | (intro) | apply State.send_inv | apply State.tapLoad_inv | apply Inv.ite | apply OutInv.ite
      | apply OutInv.next | split | dsimp -iota only | dsimp only

theorem execSamplePreload_inv {fm : Nat} {s₀ : State} (cells : BitVec 1872) (s : State) (h_s : Inv fm s₀ s)
    (hm : InSet 1099511627776 fm) :
    OutInv fm s₀ (execSamplePreload cells s) := by
  delta execSamplePreload
  repeat' first
    | exact inSet_trans rfl hm
    | with_reducible exact Or.inr rfl
    | exact Or.inl (inSet_trans rfl hm)
    | with_reducible first
      | assumption | (intro) | apply State.onBoard_inv | apply State.tapLoad_inv | apply Inv.ite | apply OutInv.ite
      | apply OutInv.next | apply Upd.of | simp -iota only [Inv.update] | split | dsimp -iota only | dsimp only

theorem execExtest_inv {fm : Nat} {s₀ : State} (s : State) (h_s : Inv fm s₀ s) (hm : InSet 1099511627776 fm) :
    OutInv fm s₀ (execExtest s) := by
  delta execExtest
  repeat' first
    | exact inSet_trans rfl hm
    | with_reducible first
      | assumption | (intro) | apply State.tapScan_inv | apply Inv.ite | apply OutInv.ite | apply OutInv.next | split
      | dsimp -iota only | dsimp only

theorem execClamp_inv {fm : Nat} {s₀ : State} (s : State) (h_s : Inv fm s₀ s) (hm : InSet 1099511627776 fm) :
    OutInv fm s₀ (execClamp s) := by
  delta execClamp
  repeat' first
    | exact inSet_trans rfl hm
    | with_reducible first
      | assumption | (intro) | apply State.tapScan_inv | apply Inv.ite | apply OutInv.ite | apply OutInv.next | split
      | dsimp -iota only | dsimp only

theorem execHighz_inv {fm : Nat} {s₀ : State} (s : State) (h_s : Inv fm s₀ s) (hm : InSet 1099511627776 fm) :
    OutInv fm s₀ (execHighz s) := by
  delta execHighz
  repeat' first
    | exact inSet_trans rfl hm
    | with_reducible first
      | assumption | (intro) | apply State.tapScan_inv | apply Inv.ite | apply OutInv.ite | apply OutInv.next | split
      | dsimp -iota only | dsimp only

theorem execExtestPulse_inv {fm : Nat} {s₀ : State} (s : State) (h_s : Inv fm s₀ s) (hm : InSet 1099511627776 fm) :
    OutInv fm s₀ (execExtestPulse s) := by
  delta execExtestPulse
  repeat' first
    | exact inSet_trans rfl hm
    | with_reducible first
      | assumption | (intro) | apply State.tapScan_inv | apply Inv.ite | apply OutInv.ite | apply OutInv.next | split
      | dsimp -iota only | dsimp only

theorem execExtestTrain_inv {fm : Nat} {s₀ : State} (s : State) (h_s : Inv fm s₀ s) (hm : InSet 1099511627776 fm) :
    OutInv fm s₀ (execExtestTrain s) := by
  delta execExtestTrain
  repeat' first
    | exact inSet_trans rfl hm
    | with_reducible first
      | assumption | (intro) | apply State.tapScan_inv | apply Inv.ite | apply OutInv.ite | apply OutInv.next | split
      | dsimp -iota only | dsimp only

theorem execDebug_inv {fm : Nat} {s₀ : State} (s : State) (h_s : Inv fm s₀ s) (hm : InSet 1099511627776 fm) :
    OutInv fm s₀ (execDebug s) := by
  delta execDebug
  repeat' first
    | exact inSet_trans rfl hm
    | with_reducible first
      | assumption | (intro) | apply State.tapLoad_inv | apply Inv.ite | apply OutInv.ite | apply OutInv.next | split
      | dsimp -iota only | dsimp only

end Sys2Proof.Machine
end

