-- ==== Sys2Proof/Laws/InvRow.lean ====
section
/-!
SUPPORT. Laws/InvRow.lean: the operations of Machine/Row.lean write only the fields named, and keep memories canonical.
-/

set_option simprocs false
set_option linter.unusedSimpArgs false
set_option linter.unusedVariables false

namespace Sys2Proof.Machine

theorem State.sendBudgets_inv {fm : Nat} {s₀ : State} (s : State) (row : Nat) (y0 : List (Nat × Option Budget))
    (h_s : Inv fm s₀ s) (hm : InSet 536870912 fm) :
    Inv fm s₀ (State.sendBudgets s row y0) := by
  induction y0 generalizing s with
  | nil => exact h_s
  | cons x xs ih =>
    obtain ⟨d, _ | b⟩ := x
    · exact ih _ h_s
    · unfold State.sendBudgets
      split
      · exact ih _ (State.sendChain_inv _ _ _ h_s (inSet_trans rfl hm))
      · exact ih _ h_s

theorem execRowTimerFire_inv {fm : Nat} {s₀ : State} (s : State) (h_s : Inv fm s₀ s) (hm : InSet 16213451208830 fm) :
    OutInv fm s₀ (execRowTimerFire s) := by
  delta execRowTimerFire
  repeat' first
    | exact inSet_trans rfl hm
    | with_reducible exact Or.inr rfl
    | exact Or.inl (inSet_trans rfl hm)
    | with_reducible first
      | assumption | (intro) | apply State.aligned_inv | apply State.applyChanges_inv | apply State.lotEdge_inv
      | apply State.markStack_inv | apply State.range_inv | (apply PairInv.snd; apply State.range_inv)
      | apply State.sendAll_inv | apply State.sendBudgets_inv | apply State.sendHotMeans_inv
      | apply State.settleRecovery_inv | apply Inv.ite | apply PairInv.ite | (apply PairInv.snd; apply PairInv.ite)
      | apply OutInv.ite | apply OutInv.next | apply Inv.foldl | apply Upd.of
      | simp -iota only [Inv.update, PairInv.mk'] | split | refine PairInv.of_eq (by assumption) ?_
      | dsimp -iota only | dsimp only

theorem State.closeRow_inv {fm : Nat} {s₀ : State} (s : State) (m : Nat) (h_s : Inv fm s₀ s)
    (hm : InSet 13213401071676 fm) :
    Inv fm s₀ (State.closeRow s m) := by
  delta State.closeRow
  repeat' first
    | exact inSet_trans rfl hm
    | with_reducible exact Or.inr rfl
    | exact Or.inl (inSet_trans rfl hm)
    | with_reducible first
      | assumption | (intro) | apply State.accrue_inv | apply State.bump_inv | apply State.range_inv
      | (apply PairInv.snd; apply State.range_inv) | apply State.setFlds_inv | apply State.setSched_inv
      | apply State.settleDebt_inv | apply State.showRem_inv | apply State.snapshotRow_inv | apply Inv.ite
      | apply PairInv.ite | (apply PairInv.snd; apply PairInv.ite) | apply Inv.foldl | apply Upd.of
      | simp -iota only [Inv.update, PairInv.mk'] | split | refine PairInv.of_eq (by assumption) ?_
      | dsimp -iota only | dsimp only

theorem State.beginRow_inv {fm : Nat} {s₀ : State} (s : State) (m row edge : Nat) (h_s : Inv fm s₀ s)
    (hm : InSet 13464659294332 fm) :
    Inv fm s₀ (State.beginRow s m row edge) := by
  delta State.beginRow
  repeat' first
    | exact inSet_trans rfl hm
    | with_reducible exact Or.inr rfl
    | exact Or.inl (inSet_trans rfl hm)
    | with_reducible first
      | assumption | (intro) | apply State.applyChanges_inv | apply State.closeRow_inv | apply State.onSched_inv
      | apply Inv.ite | apply Upd.of | simp -iota only [Inv.update] | split | dsimp -iota only | dsimp only

theorem execLocalEdge_inv {fm : Nat} {s₀ : State} (m : Motif) (s : State) (h_s : Inv fm s₀ s)
    (hm : InSet 13464659294332 fm) :
    OutInv fm s₀ (execLocalEdge m s) := by
  delta execLocalEdge
  repeat' first
    | exact inSet_trans rfl hm
    | with_reducible first
      | assumption | (intro) | apply State.beginRow_inv | apply Inv.ite | apply OutInv.ite | apply OutInv.next
      | split | dsimp -iota only | dsimp only

theorem execRowEdge_inv {fm : Nat} {s₀ : State} (m : Motif) (row : BitVec 48) (aligned holdover : Bool)
    (t : BitVec 64) (s : State) (h_s : Inv fm s₀ s) (hm : InSet 13464659294332 fm) :
    OutInv fm s₀ (execRowEdge m row aligned holdover t s) := by
  delta execRowEdge
  repeat' first
    | exact inSet_trans rfl hm
    | with_reducible exact Or.inr rfl
    | exact Or.inl (inSet_trans rfl hm)
    | with_reducible first
      | assumption | (intro) | apply State.admission_inv | apply State.beginRow_inv | apply State.onSched_inv
      | apply State.setFld_inv | apply Inv.ite | apply OutInv.ite | apply OutInv.next | apply Upd.of
      | simp -iota only [Inv.update] | split | dsimp -iota only | dsimp only

theorem execEdgeMissed_inv {fm : Nat} {s₀ : State} (m : Motif) (s : State) (h_s : Inv fm s₀ s)
    (hm : InSet 13213401071676 fm) :
    OutInv fm s₀ (execEdgeMissed m s) := by
  delta execEdgeMissed
  repeat' first
    | exact inSet_trans rfl hm
    | with_reducible exact Or.inr rfl
    | exact Or.inl (inSet_trans rfl hm)
    | with_reducible first
      | assumption | (intro) | apply State.floorRow_inv | apply State.raise_inv | apply State.setFld_inv
      | apply State.setSched_inv | apply Inv.ite | apply OutInv.ite | apply OutInv.next | apply Upd.of
      | simp -iota only [Inv.update] | split | dsimp -iota only | dsimp only

theorem execGaugeBudget_inv {fm : Nat} {s₀ : State} (m : Motif) (row : BitVec 48) (cut : Bool)
    (eM eRes eBe : BitVec 32) (s : State) (h_s : Inv fm s₀ s) (hm : InSet 13213401071676 fm) :
    OutInv fm s₀ (execGaugeBudget m row cut eM eRes eBe s) := by
  delta execGaugeBudget
  repeat' first
    | exact inSet_trans rfl hm
    | with_reducible first
      | assumption | (intro) | apply State.install_inv | apply State.raise_inv | apply Inv.ite | apply OutInv.ite
      | apply OutInv.next | split | dsimp -iota only | dsimp only

theorem execFloorBudget_inv {fm : Nat} {s₀ : State} (m : Motif) (s : State) (h_s : Inv fm s₀ s)
    (hm : InSet 13213401071676 fm) :
    OutInv fm s₀ (execFloorBudget m s) := by
  delta execFloorBudget
  repeat' first
    | exact inSet_trans rfl hm
    | with_reducible first
      | assumption | (intro) | apply State.floorRow_inv | apply Inv.ite | apply OutInv.ite | apply OutInv.next
      | split | dsimp -iota only | dsimp only

theorem execEdgePass_inv {fm : Nat} {s₀ : State} (m : Motif) (s : State) (h_s : Inv fm s₀ s)
    (hm : InSet 13213401071676 fm) :
    OutInv fm s₀ (execEdgePass m s) := by
  delta execEdgePass
  repeat' first
    | exact inSet_trans rfl hm
    | with_reducible exact Or.inr rfl
    | exact Or.inl (inSet_trans rfl hm)
    | with_reducible first
      | assumption | (intro) | apply State.admission_inv | apply State.setSched_inv | apply Inv.ite
      | apply OutInv.ite | apply OutInv.next | apply Upd.of | simp -iota only [Inv.update] | split | dsimp -iota only
      | dsimp only

theorem execBodyStart_inv {fm : Nat} {s₀ : State} (m : Motif) (s : State) (h_s : Inv fm s₀ s)
    (hm : InSet 13213401071676 fm) :
    OutInv fm s₀ (execBodyStart m s) := by
  delta execBodyStart
  repeat' first
    | exact inSet_trans rfl hm
    | with_reducible exact Or.inr rfl
    | exact Or.inl (inSet_trans rfl hm)
    | with_reducible first
      | assumption | (intro) | apply State.admission_inv | apply State.onSched_inv | apply State.sendFrom_inv
      | apply State.setFld_inv | apply Inv.ite | apply OutInv.ite | apply OutInv.next | apply Upd.of
      | simp -iota only [Inv.update] | split | dsimp -iota only | dsimp only

theorem execDeadlineMissed_inv {fm : Nat} {s₀ : State} (m : Motif) (qid : BitVec 20) (idx : BitVec 24) (s : State)
    (h_s : Inv fm s₀ s) (hm : InSet 13215548555324 fm) :
    OutInv fm s₀ (execDeadlineMissed m qid idx s) := by
  delta execDeadlineMissed
  repeat' first
    | exact inSet_trans rfl hm
    | with_reducible exact Or.inr rfl
    | exact Or.inl (inSet_trans rfl hm)
    | with_reducible first
      | assumption | (intro) | apply State.bump_inv | apply State.raise_inv | apply State.setFld_inv
      | apply State.setSched_inv | apply State.streamLate_inv | apply Inv.ite | apply OutInv.ite | apply OutInv.next
      | apply Inv.getD | apply Upd.of | simp -iota only [Inv.update] | split | dsimp -iota only | dsimp only

theorem execGaugeReport_inv {fm : Nat} {s₀ : State} (r : GaugeReport) (s : State) (h_s : Inv fm s₀ s)
    (hm : InSet 8589934592 fm) :
    OutInv fm s₀ (execGaugeReport r s) := by
  delta execGaugeReport
  repeat' first
    | exact inSet_trans rfl hm
    | with_reducible exact Or.inr rfl
    | exact Or.inl (inSet_trans rfl hm)
    | with_reducible first
      | assumption | (intro) | apply Inv.ite | apply OutInv.ite | apply OutInv.next | apply Upd.of
      | simp -iota only [Inv.update] | split | dsimp -iota only | dsimp only

theorem execGovernorCompute_inv {fm : Nat} {s₀ : State} (eYoke eSeams : BitVec 32) (s : State) (h_s : Inv fm s₀ s)
    (hm : InSet 13754566950972 fm) :
    OutInv fm s₀ (execGovernorCompute eYoke eSeams s) := by
  delta execGovernorCompute
  repeat' first
    | exact inSet_trans rfl hm
    | with_reducible first
      | assumption | (intro) | apply State.governor_inv | apply Inv.ite | apply OutInv.ite | apply OutInv.next
      | split | dsimp -iota only | dsimp only

theorem execGuardStart_inv {fm : Nat} {s₀ : State} (m : Motif) (s : State) (h_s : Inv fm s₀ s) (hm : InSet 4 fm) :
    OutInv fm s₀ (execGuardStart m s) := by
  delta execGuardStart
  repeat' first
    | exact inSet_trans rfl hm
    | with_reducible first
      | assumption | (intro) | apply State.setFld_inv | apply Inv.ite | apply OutInv.ite | apply OutInv.next | split
      | dsimp -iota only | dsimp only

theorem execPowerSample_inv {fm : Nat} {s₀ : State} (m : Motif) (mw : BitVec 32) (tj : BitVec 8) (s : State)
    (h_s : Inv fm s₀ s) (hm : InSet 13213401071676 fm) :
    OutInv fm s₀ (execPowerSample m mw tj s) := by
  delta execPowerSample
  repeat' first
    | exact inSet_trans rfl hm
    | with_reducible first
      | assumption | (intro) | apply State.backstop_inv | apply State.chargeSample_inv | apply State.noteBackstop_inv
      | apply State.thermal_inv | apply Inv.ite | apply OutInv.ite | apply OutInv.next | split | dsimp -iota only
      | dsimp only

theorem execStitchArrival_inv {fm : Nat} {s₀ : State} (m : Motif) (qid : BitVec 20) (idx : BitVec 24) (s : State)
    (h_s : Inv fm s₀ s) (hm : InSet 13213401071676 fm) :
    OutInv fm s₀ (execStitchArrival m qid idx s) := by
  delta execStitchArrival
  repeat' first
    | exact inSet_trans rfl hm
    | with_reducible exact Or.inr rfl
    | exact Or.inl (inSet_trans rfl hm)
    | with_reducible first
      | assumption | (intro) | apply State.admission_inv | apply State.onSched_inv | apply State.takeTransit_inv
      | apply State.testHeads_inv | apply Inv.ite | apply OptPairInv.ite | apply OutInv.ite | apply OptPairInv.none
      | apply OptPairInv.some | apply OutInv.next | apply Upd.of | simp -iota only [Inv.update] | split
      | refine OptPairInv.of_eq (by assumption) ?_ | dsimp -iota only | dsimp only

theorem execStitchStart_inv {fm : Nat} {s₀ : State} (m : Motif) (s : State) (h_s : Inv fm s₀ s)
    (hm : InSet 13213401073724 fm) :
    OutInv fm s₀ (execStitchStart m s) := by
  delta execStitchStart
  repeat' first
    | exact inSet_trans rfl hm
    | with_reducible exact Or.inr rfl
    | exact Or.inl (inSet_trans rfl hm)
    | with_reducible first
      | assumption | (intro) | apply State.clearAccs_inv | apply State.setSched_inv | apply Inv.ite
      | apply OutInv.ite | apply OutInv.next | apply Upd.of | simp -iota only [Inv.update] | split | dsimp -iota only
      | dsimp only

theorem execStitchDone_inv {fm : Nat} {s₀ : State} (m : Motif) (s : State) (h_s : Inv fm s₀ s)
    (hm : InSet 13213401071676 fm) :
    OutInv fm s₀ (execStitchDone m s) := by
  delta execStitchDone
  repeat' first
    | exact inSet_trans rfl hm
    | with_reducible exact Or.inr rfl
    | exact Or.inl (inSet_trans rfl hm)
    | with_reducible first
      | assumption | (intro) | apply State.accrue_inv | apply State.admission_inv | apply State.onSched_inv
      | apply State.refund_inv | apply State.rescale_inv | apply State.stitchResult_inv | apply Inv.ite
      | apply OutInv.ite | apply OutInv.next | apply Inv.getD | apply Upd.of | simp -iota only [Inv.update] | split
      | dsimp -iota only | dsimp only

theorem execStitchOverrun_inv {fm : Nat} {s₀ : State} (m : Motif) (s : State) (h_s : Inv fm s₀ s)
    (hm : InSet 13213401071676 fm) :
    OutInv fm s₀ (execStitchOverrun m s) := by
  delta execStitchOverrun
  repeat' first
    | exact inSet_trans rfl hm
    | with_reducible exact Or.inr rfl
    | exact Or.inl (inSet_trans rfl hm)
    | with_reducible first
      | assumption | (intro) | apply State.bump_inv | apply State.raise_inv | apply State.setSched_inv
      | apply Inv.ite | apply OutInv.ite | apply OutInv.next | apply Upd.of | simp -iota only [Inv.update] | split
      | dsimp -iota only | dsimp only

theorem execStitchHung_inv {fm : Nat} {s₀ : State} (m : Motif) (s : State) (h_s : Inv fm s₀ s)
    (hm : InSet 13224149776444 fm) :
    OutInv fm s₀ (execStitchHung m s) := by
  delta execStitchHung
  repeat' first
    | exact inSet_trans rfl hm
    | with_reducible exact Or.inr rfl
    | exact Or.inl (inSet_trans rfl hm)
    | with_reducible first
      | assumption | (intro) | apply State.accrue_inv | apply State.motifFault_inv | apply State.onSched_inv
      | apply State.stitchResult_inv | apply Inv.ite | apply OutInv.ite | apply OutInv.next | apply Upd.of
      | simp -iota only [Inv.update] | split | dsimp -iota only | dsimp only

theorem execGaLimitWrite_inv {fm : Nat} {s₀ : State} (v : BitVec 32) (s : State) (h_s : Inv fm s₀ s) (hm : InSet 4 fm) :
    OutInv fm s₀ (execGaLimitWrite v s) := by
  delta execGaLimitWrite
  repeat' first
    | exact inSet_trans rfl hm
    | with_reducible first
      | assumption | (intro) | apply State.setFld_inv | apply Inv.ite | apply OutInv.ite | apply OutInv.next | split
      | dsimp -iota only | dsimp only

theorem execHallTimeStep_inv {fm : Nat} {s₀ : State} (step : Int) (s : State) (h_s : Inv fm s₀ s)
    (hm : InSet 13221999394878 fm) :
    OutInv fm s₀ (execHallTimeStep step s) := by
  delta execHallTimeStep
  repeat' first
    | exact inSet_trans rfl hm
    | with_reducible first
      | assumption | (intro) | apply State.stepTime_inv | apply Inv.ite | apply OutInv.ite | apply OutInv.next
      | split | dsimp -iota only | dsimp only

theorem execRowUnaligned_inv {fm : Nat} {s₀ : State} (s : State) (h_s : Inv fm s₀ s) (hm : InSet 13204811137084 fm) :
    OutInv fm s₀ (execRowUnaligned s) := by
  delta execRowUnaligned
  repeat' first
    | exact inSet_trans rfl hm
    | with_reducible first
      | assumption | (intro) | apply State.unaligned_inv | apply Inv.ite | apply OutInv.ite | apply OutInv.next
      | split | dsimp -iota only | dsimp only

theorem execLate_inv {fm : Nat} {s₀ : State} (src : Mesh) (row : BitVec 48) (s : State) (h_s : Inv fm s₀ s)
    (hm : InSet 13204811145276 fm) :
    OutInv fm s₀ (execLate src row s) := by
  delta execLate
  repeat' first
    | exact inSet_trans rfl hm
    | with_reducible first
      | assumption | (intro) | apply State.reissue_inv | apply Inv.ite | apply OutInv.ite | apply OutInv.next | split
      | dsimp -iota only | dsimp only

end Sys2Proof.Machine
end

