-- ==== Sys2Proof/Laws/InvVector.lean ====
section
/-!
SUPPORT. Laws/InvVector.lean: the operations of Machine/Vector.lean write only the fields named, and keep memories canonical.
-/

set_option simprocs false
set_option linter.unusedSimpArgs false
set_option linter.unusedVariables false

namespace Sys2Proof.Machine

theorem State.veStart_inv {fm : Nat} {s₀ : State} (s : State) (m op : Nat) (h_s : Inv fm s₀ s) (hm : InSet 4096 fm) :
    OptPairInv fm s₀ (State.veStart s m op) := by
  delta State.veStart
  repeat' first
    | exact inSet_trans rfl hm
    | with_reducible exact Or.inr rfl
    | exact Or.inl (inSet_trans rfl hm)
    | with_reducible first
      | assumption | (intro) | apply State.setVec_inv | apply Inv.ite | apply OptPairInv.ite | apply OptPairInv.none
      | apply OptPairInv.some | apply Upd.of | simp -iota only [Inv.update] | split
      | refine OptPairInv.of_eq (by assumption) ?_ | dsimp -iota only | dsimp only

theorem State.veOperate_inv {fm : Nat} {s₀ : State} (s : State) (m op : Nat) (h_s : Inv fm s₀ s)
    (hm : InSet 13196221209660 fm) :
    Inv fm s₀ (State.veOperate s m op) := by
  delta State.veOperate
  repeat' first
    | exact inSet_trans rfl hm
    | with_reducible exact Or.inr rfl
    | exact Or.inl (inSet_trans rfl hm)
    | with_reducible first
      | assumption | (intro) | apply State.putVe_inv | apply State.veGroups_inv
      | (apply PairInv.snd; apply State.veGroups_inv) | apply State.veStart_inv | apply Inv.ite | apply PairInv.ite
      | (apply PairInv.snd; apply PairInv.ite) | apply OptPairInv.ite | apply OptPairInv.none | apply OptPairInv.some
      | apply Upd.of | simp -iota only [Inv.update, PairInv.mk'] | split | refine PairInv.of_eq (by assumption) ?_
      | refine OptPairInv.of_eq (by assumption) ?_ | dsimp -iota only | dsimp only

theorem execMap_inv {fm : Nat} {s₀ : State} (m : Motif) (s : State) (h_s : Inv fm s₀ s) (hm : InSet 13196221209660 fm) :
    OutInv fm s₀ (execMap m s) := by
  delta execMap
  repeat' first
    | exact inSet_trans rfl hm
    | with_reducible first
      | assumption | (intro) | apply State.veOperate_inv | apply Inv.ite | apply OutInv.ite | apply OutInv.next
      | split | dsimp -iota only | dsimp only

theorem execReduce_inv {fm : Nat} {s₀ : State} (m : Motif) (s : State) (h_s : Inv fm s₀ s)
    (hm : InSet 13196221209660 fm) :
    OutInv fm s₀ (execReduce m s) := by
  delta execReduce
  repeat' first
    | exact inSet_trans rfl hm
    | with_reducible first
      | assumption | (intro) | apply State.veOperate_inv | apply Inv.ite | apply OutInv.ite | apply OutInv.next
      | split | dsimp -iota only | dsimp only

theorem execGather_inv {fm : Nat} {s₀ : State} (m : Motif) (s : State) (h_s : Inv fm s₀ s)
    (hm : InSet 13196221209660 fm) :
    OutInv fm s₀ (execGather m s) := by
  delta execGather
  repeat' first
    | exact inSet_trans rfl hm
    | with_reducible first
      | assumption | (intro) | apply State.veOperate_inv | apply Inv.ite | apply OutInv.ite | apply OutInv.next
      | split | dsimp -iota only | dsimp only

theorem execShuffle_inv {fm : Nat} {s₀ : State} (m : Motif) (s : State) (h_s : Inv fm s₀ s)
    (hm : InSet 13196221209660 fm) :
    OutInv fm s₀ (execShuffle m s) := by
  delta execShuffle
  repeat' first
    | exact inSet_trans rfl hm
    | with_reducible first
      | assumption | (intro) | apply State.veOperate_inv | apply Inv.ite | apply OutInv.ite | apply OutInv.next
      | split | dsimp -iota only | dsimp only

theorem execPack_inv {fm : Nat} {s₀ : State} (m : Motif) (s : State) (h_s : Inv fm s₀ s)
    (hm : InSet 13196221209660 fm) :
    OutInv fm s₀ (execPack m s) := by
  delta execPack
  repeat' first
    | exact inSet_trans rfl hm
    | with_reducible first
      | assumption | (intro) | apply State.veOperate_inv | apply Inv.ite | apply OutInv.ite | apply OutInv.next
      | split | dsimp -iota only | dsimp only

theorem execUnpack_inv {fm : Nat} {s₀ : State} (m : Motif) (s : State) (h_s : Inv fm s₀ s)
    (hm : InSet 13196221209660 fm) :
    OutInv fm s₀ (execUnpack m s) := by
  delta execUnpack
  repeat' first
    | exact inSet_trans rfl hm
    | with_reducible first
      | assumption | (intro) | apply State.veOperate_inv | apply Inv.ite | apply OutInv.ite | apply OutInv.next
      | split | dsimp -iota only | dsimp only

theorem execPsum_inv {fm : Nat} {s₀ : State} (m : Motif) (s : State) (h_s : Inv fm s₀ s)
    (hm : InSet 13196221209660 fm) :
    OutInv fm s₀ (execPsum m s) := by
  delta execPsum
  repeat' first
    | exact inSet_trans rfl hm
    | with_reducible exact Or.inr rfl
    | exact Or.inl (inSet_trans rfl hm)
    | with_reducible first
      | assumption | (intro) | apply State.psumRun_inv | (apply PairInv.snd; apply State.psumRun_inv)
      | apply State.putVe_inv | apply State.veStart_inv | apply Inv.ite | apply PairInv.ite
      | (apply PairInv.snd; apply PairInv.ite) | apply OptPairInv.ite | apply OutInv.ite | apply OptPairInv.none
      | apply OptPairInv.some | apply OutInv.next | apply Upd.of | simp -iota only [Inv.update, PairInv.mk'] | split
      | refine PairInv.of_eq (by assumption) ?_ | refine OptPairInv.of_eq (by assumption) ?_ | dsimp -iota only
      | dsimp only

theorem State.psumPoll_inv {fm : Nat} {s₀ : State} (s : State) (m : Nat) (j : VeJob) (h_s : Inv fm s₀ s)
    (hm : InSet 13196221202492 fm) :
    PairInv fm s₀ (State.psumPoll s m j) := by
  delta State.psumPoll
  repeat' first
    | exact inSet_trans rfl hm
    | with_reducible exact Or.inr rfl
    | exact Or.inl (inSet_trans rfl hm)
    | with_reducible first
      | assumption | (intro) | apply State.consume_inv | apply State.psumWaited_inv | apply State.vaRead_inv
      | (apply PairInv.snd; apply State.vaRead_inv) | apply State.veFault_inv | split | apply Inv.ite
      | apply PairInv.ite | (apply PairInv.snd; apply PairInv.ite) | apply Upd.of
      | simp -iota only [Inv.update, PairInv.mk'] | refine PairInv.of_eq (by assumption) ?_ | dsimp -iota only
      | dsimp only

theorem execPsumCounterPoll_inv {fm : Nat} {s₀ : State} (m : Motif) (s : State) (h_s : Inv fm s₀ s)
    (hm : InSet 13196221206588 fm) :
    OutInv fm s₀ (execPsumCounterPoll m s) := by
  delta execPsumCounterPoll
  repeat' first
    | exact inSet_trans rfl hm
    | with_reducible exact Or.inr rfl
    | exact Or.inl (inSet_trans rfl hm)
    | with_reducible first
      | assumption | (intro) | apply State.psumPoll_inv | (apply PairInv.snd; apply State.psumPoll_inv)
      | apply State.putVe_inv | apply Inv.ite | apply PairInv.ite | (apply PairInv.snd; apply PairInv.ite)
      | apply OutInv.ite | apply OutInv.next | apply Upd.of | simp -iota only [Inv.update, PairInv.mk'] | split
      | refine PairInv.of_eq (by assumption) ?_ | dsimp -iota only | dsimp only

theorem execPartialTimeout_inv {fm : Nat} {s₀ : State} (m : Motif) (s : State) (h_s : Inv fm s₀ s)
    (hm : InSet 13196221206588 fm) :
    OutInv fm s₀ (execPartialTimeout m s) := by
  delta execPartialTimeout
  repeat' first
    | exact inSet_trans rfl hm
    | with_reducible exact Or.inr rfl
    | exact Or.inl (inSet_trans rfl hm)
    | with_reducible first
      | assumption | (intro) | apply State.psumPoll_inv | (apply PairInv.snd; apply State.psumPoll_inv)
      | apply State.putVe_inv | apply Inv.ite | apply PairInv.ite | (apply PairInv.snd; apply PairInv.ite)
      | apply OutInv.ite | apply OutInv.next | apply Upd.of | simp -iota only [Inv.update, PairInv.mk'] | split
      | refine PairInv.of_eq (by assumption) ?_ | dsimp -iota only | dsimp only

theorem execVeDescDone_inv {fm : Nat} {s₀ : State} (m : Motif) (s : State) (h_s : Inv fm s₀ s)
    (hm : InSet 13196221207612 fm) :
    OutInv fm s₀ (execVeDescDone m s) := by
  delta execVeDescDone
  repeat' first
    | exact inSet_trans rfl hm
    | with_reducible exact Or.inr rfl
    | exact Or.inl (inSet_trans rfl hm)
    | with_reducible first
      | assumption | (intro) | apply State.completeVe_inv | apply State.putVe_inv | apply State.setVec_inv
      | apply State.showVec_inv | apply Inv.ite | apply OutInv.ite | apply OutInv.next | apply Upd.of
      | simp -iota only [Inv.update] | split | dsimp -iota only | dsimp only

end Sys2Proof.Machine
end

