-- ==== Sys2Proof/Laws/InvNeedles.lean ====
section
/-!
SUPPORT. Laws/InvNeedles.lean: the operations of Machine/Needles.lean write only the fields named, and keep memories canonical.
-/

set_option simprocs false
set_option linter.unusedSimpArgs false
set_option linter.unusedVariables false

namespace Sys2Proof.Machine

theorem execLaunch_inv {fm : Nat} {s₀ : State} (m : Motif) (s : State) (h_s : Inv fm s₀ s)
    (hm : InSet 13196221210684 fm) :
    OutInv fm s₀ (execLaunch m s) := by
  delta execLaunch
  repeat' first
    | exact inSet_trans rfl hm
    | with_reducible exact Or.inr rfl
    | exact Or.inl (inSet_trans rfl hm)
    | with_reducible first
      | assumption | (intro) | apply State.setNdl_inv | apply State.showNdl_inv | apply Inv.ite | apply OutInv.ite
      | apply OutInv.next | apply Upd.of | simp -iota only [Inv.update] | split | dsimp -iota only | dsimp only

theorem execBlockStart_inv {fm : Nat} {s₀ : State} (m : Motif) (s : State) (h_s : Inv fm s₀ s)
    (hm : InSet 13196221210684 fm) :
    OutInv fm s₀ (execBlockStart m s) := by
  delta execBlockStart
  repeat' first
    | exact inSet_trans rfl hm
    | with_reducible exact Or.inr rfl
    | exact Or.inl (inSet_trans rfl hm)
    | with_reducible first
      | assumption | (intro) | apply State.startBlock_inv | apply Inv.ite | apply OutInv.ite | apply OutInv.next
      | apply Upd.of | simp -iota only [Inv.update] | split | dsimp -iota only | dsimp only

theorem execLaunchDone_inv {fm : Nat} {s₀ : State} (m : Motif) (s : State) (h_s : Inv fm s₀ s)
    (hm : InSet 13196221211708 fm) :
    OutInv fm s₀ (execLaunchDone m s) := by
  delta execLaunchDone
  repeat' first
    | exact inSet_trans rfl hm
    | with_reducible exact Or.inr rfl
    | exact Or.inl (inSet_trans rfl hm)
    | with_reducible first
      | assumption | (intro) | apply State.completeLaunch_inv | apply Inv.ite | apply OutInv.ite | apply OutInv.next
      | apply Upd.of | simp -iota only [Inv.update] | split | dsimp -iota only | dsimp only

theorem execVif_inv {fm : Nat} {s₀ : State} (m : Motif) (g : GroupSlot) (s : State) (h_s : Inv fm s₀ s)
    (hm : InSet 13196221210684 fm) :
    OutInv fm s₀ (execVif m g s) := by
  suffices H : ∀ fn_, fn_ = @execVif → OutInv fm s₀ (fn_ m g s) from H _ rfl
  intro fn_ hf; delta execVif at hf; subst hf
  repeat' first
    | exact inSet_trans rfl hm
    | with_reducible exact Or.inr rfl
    | exact Or.inl (inSet_trans rfl hm)
    | with_reducible first
      | assumption | (intro) | apply State.groupFault_inv | apply State.issue_inv | apply State.putGroup_inv | split
      | apply Inv.ite | apply OutInv.ite | apply OutInv.next | apply Inv.foldl | apply Upd.of
      | simp -iota only [Inv.update]

theorem execVelse_inv {fm : Nat} {s₀ : State} (m : Motif) (g : GroupSlot) (s : State) (h_s : Inv fm s₀ s)
    (hm : InSet 13196221210684 fm) :
    OutInv fm s₀ (execVelse m g s) := by
  suffices H : ∀ fn_, fn_ = @execVelse → OutInv fm s₀ (fn_ m g s) from H _ rfl
  intro fn_ hf; delta execVelse at hf; subst hf
  repeat' first
    | exact inSet_trans rfl hm
    | with_reducible exact Or.inr rfl
    | exact Or.inl (inSet_trans rfl hm)
    | with_reducible first
      | assumption | (intro) | apply State.groupFault_inv | apply State.issue_inv | apply State.putGroup_inv | split
      | apply Inv.ite | apply OutInv.ite | apply OutInv.next | apply Upd.of | simp -iota only [Inv.update]

theorem execVend_inv {fm : Nat} {s₀ : State} (m : Motif) (g : GroupSlot) (s : State) (h_s : Inv fm s₀ s)
    (hm : InSet 13196221210684 fm) :
    OutInv fm s₀ (execVend m g s) := by
  suffices H : ∀ fn_, fn_ = @execVend → OutInv fm s₀ (fn_ m g s) from H _ rfl
  intro fn_ hf; delta execVend at hf; subst hf
  repeat' first
    | exact inSet_trans rfl hm
    | with_reducible exact Or.inr rfl
    | exact Or.inl (inSet_trans rfl hm)
    | with_reducible first
      | assumption | (intro) | apply State.groupFault_inv | apply State.issue_inv | apply State.putGroup_inv | split
      | apply Inv.ite | apply OutInv.ite | apply OutInv.next | apply Upd.of | simp -iota only [Inv.update]

theorem execVany_inv {fm : Nat} {s₀ : State} (m : Motif) (g : GroupSlot) (s : State) (h_s : Inv fm s₀ s)
    (hm : InSet 13196221210684 fm) :
    OutInv fm s₀ (execVany m g s) := by
  delta execVany
  repeat' first
    | exact inSet_trans rfl hm
    | with_reducible first
      | assumption | (intro) | apply State.issueReg_inv | apply Inv.ite | apply OutInv.ite | apply OutInv.next
      | split | dsimp -iota only | dsimp only

theorem execVall_inv {fm : Nat} {s₀ : State} (m : Motif) (g : GroupSlot) (s : State) (h_s : Inv fm s₀ s)
    (hm : InSet 13196221210684 fm) :
    OutInv fm s₀ (execVall m g s) := by
  delta execVall
  repeat' first
    | exact inSet_trans rfl hm
    | with_reducible first
      | assumption | (intro) | apply State.issueReg_inv | apply Inv.ite | apply OutInv.ite | apply OutInv.next
      | split | dsimp -iota only | dsimp only

theorem execVballot_inv {fm : Nat} {s₀ : State} (m : Motif) (g : GroupSlot) (s : State) (h_s : Inv fm s₀ s)
    (hm : InSet 13196221210684 fm) :
    OutInv fm s₀ (execVballot m g s) := by
  delta execVballot
  repeat' first
    | exact inSet_trans rfl hm
    | with_reducible first
      | assumption | (intro) | apply State.issueReg_inv | apply Inv.ite | apply OutInv.ite | apply OutInv.next
      | apply Inv.foldl | split | dsimp -iota only | dsimp only

theorem execVshfl_inv {fm : Nat} {s₀ : State} (m : Motif) (g : GroupSlot) (s : State) (h_s : Inv fm s₀ s)
    (hm : InSet 13196221210684 fm) :
    OutInv fm s₀ (execVshfl m g s) := by
  delta execVshfl
  repeat' first
    | exact inSet_trans rfl hm
    | with_reducible first
      | assumption | (intro) | apply State.issue_inv | apply State.shuffle_inv | apply Inv.ite | apply OutInv.ite
      | apply OutInv.next | split | dsimp -iota only | dsimp only

theorem execVshfli_inv {fm : Nat} {s₀ : State} (m : Motif) (g : GroupSlot) (s : State) (h_s : Inv fm s₀ s)
    (hm : InSet 13196221210684 fm) :
    OutInv fm s₀ (execVshfli m g s) := by
  delta execVshfli
  repeat' first
    | exact inSet_trans rfl hm
    | with_reducible exact Or.inr rfl
    | exact Or.inl (inSet_trans rfl hm)
    | with_reducible first
      | assumption | (intro) | apply State.groupFault_inv | apply State.issue_inv | apply State.shuffle_inv
      | apply Inv.ite | apply OutInv.ite | apply OutInv.next | apply Upd.of | simp -iota only [Inv.update] | split
      | dsimp -iota only | dsimp only

theorem execVbar_inv {fm : Nat} {s₀ : State} (m : Motif) (g : GroupSlot) (s : State) (h_s : Inv fm s₀ s)
    (hm : InSet 13196221210684 fm) :
    OutInv fm s₀ (execVbar m g s) := by
  delta execVbar
  repeat' first
    | exact inSet_trans rfl hm
    | with_reducible exact Or.inr rfl
    | exact Or.inl (inSet_trans rfl hm)
    | with_reducible first
      | assumption | (intro) | apply State.issueCollective_inv | apply State.putGroup_inv | apply Inv.ite
      | apply OutInv.ite | apply OutInv.next | apply Upd.of | simp -iota only [Inv.update] | split | dsimp -iota only
      | dsimp only

theorem execVbarRelease_inv {fm : Nat} {s₀ : State} (m : Motif) (block : BitVec 32) (s : State) (h_s : Inv fm s₀ s)
    (hm : InSet 13196221210684 fm) :
    OutInv fm s₀ (execVbarRelease m block s) := by
  delta execVbarRelease
  repeat' first
    | exact inSet_trans rfl hm
    | with_reducible first
      | assumption | (intro) | apply State.release_inv | apply Inv.ite | apply OutInv.ite | apply OutInv.next | split
      | dsimp -iota only | dsimp only

theorem execVcbar_inv {fm : Nat} {s₀ : State} (m : Motif) (g : GroupSlot) (s : State) (h_s : Inv fm s₀ s)
    (hm : InSet 13196221210684 fm) :
    OutInv fm s₀ (execVcbar m g s) := by
  delta execVcbar
  repeat' first
    | exact inSet_trans rfl hm
    | with_reducible exact Or.inr rfl
    | exact Or.inl (inSet_trans rfl hm)
    | with_reducible first
      | assumption | (intro) | apply State.issueCollective_inv | apply State.putGroup_inv | apply Inv.ite
      | apply OutInv.ite | apply OutInv.next | apply Upd.of | simp -iota only [Inv.update] | split | dsimp -iota only
      | dsimp only

theorem execVcbarRelease_inv {fm : Nat} {s₀ : State} (m : Motif) (block : BitVec 32) (s : State) (h_s : Inv fm s₀ s)
    (hm : InSet 13196221210684 fm) :
    OutInv fm s₀ (execVcbarRelease m block s) := by
  delta execVcbarRelease
  repeat' first
    | exact inSet_trans rfl hm
    | with_reducible exact Or.inr rfl
    | exact Or.inl (inSet_trans rfl hm)
    | with_reducible first
      | assumption | (intro) | apply State.release_inv | apply Inv.ite | apply OutInv.ite | apply OutInv.next
      | apply Inv.foldl | apply Upd.of | simp -iota only [Inv.update] | split | dsimp -iota only | dsimp only

theorem execVexit_inv {fm : Nat} {s₀ : State} (m : Motif) (g : GroupSlot) (s : State) (h_s : Inv fm s₀ s)
    (hm : InSet 13196221210684 fm) :
    OutInv fm s₀ (execVexit m g s) := by
  delta execVexit
  repeat' first
    | exact inSet_trans rfl hm
    | with_reducible first
      | assumption | (intro) | apply State.exitGroup_inv | apply State.issueCollective_inv | apply Inv.ite
      | apply OutInv.ite | apply OutInv.next | split | dsimp -iota only | dsimp only

theorem execVdispA_inv {fm : Nat} {s₀ : State} (m : Motif) (g : GroupSlot) (s : State) (h_s : Inv fm s₀ s)
    (hm : InSet 13196221212732 fm) :
    OutInv fm s₀ (execVdispA m g s) := by
  delta execVdispA
  repeat' first
    | exact inSet_trans rfl hm
    | with_reducible exact Or.inr rfl
    | exact Or.inl (inSet_trans rfl hm)
    | with_reducible first
      | assumption | (intro) | apply State.arrayAccept_inv | apply State.groupFault_inv | apply State.issue_inv
      | apply State.putGroup_inv | apply Inv.ite | apply OutInv.ite | apply OutInv.next | apply Upd.of
      | simp -iota only [Inv.update] | split | dsimp -iota only | dsimp only

theorem execVdispV_inv {fm : Nat} {s₀ : State} (m : Motif) (g : GroupSlot) (s : State) (h_s : Inv fm s₀ s)
    (hm : InSet 13196221214780 fm) :
    OutInv fm s₀ (execVdispV m g s) := by
  delta execVdispV
  repeat' first
    | exact inSet_trans rfl hm
    | with_reducible exact Or.inr rfl
    | exact Or.inl (inSet_trans rfl hm)
    | with_reducible first
      | assumption | (intro) | apply State.groupFault_inv | apply State.issue_inv | apply State.putGroup_inv
      | apply State.veAccept_inv | apply Inv.ite | apply OutInv.ite | apply OutInv.next | apply Upd.of
      | simp -iota only [Inv.update] | split | dsimp -iota only | dsimp only

theorem execVwait_inv {fm : Nat} {s₀ : State} (m : Motif) (g : GroupSlot) (s : State) (h_s : Inv fm s₀ s)
    (hm : InSet 13196221210684 fm) :
    OutInv fm s₀ (execVwait m g s) := by
  delta execVwait
  repeat' first
    | exact inSet_trans rfl hm
    | with_reducible exact Or.inr rfl
    | exact Or.inl (inSet_trans rfl hm)
    | with_reducible first
      | assumption | (intro) | apply State.groupFault_inv | apply State.issue_inv | apply State.putGroup_inv
      | apply Inv.ite | apply OutInv.ite | apply OutInv.next | apply Upd.of | simp -iota only [Inv.update] | split
      | dsimp -iota only | dsimp only

theorem execVwaitRecheck_inv {fm : Nat} {s₀ : State} (m : Motif) (g : GroupSlot) (s : State) (h_s : Inv fm s₀ s)
    (hm : InSet 13196221210684 fm) :
    OutInv fm s₀ (execVwaitRecheck m g s) := by
  delta execVwaitRecheck
  repeat' first
    | exact inSet_trans rfl hm
    | with_reducible exact Or.inr rfl
    | exact Or.inl (inSet_trans rfl hm)
    | with_reducible first
      | assumption | (intro) | apply State.bump_inv | apply State.putGroup_inv | apply Inv.ite | apply OutInv.ite
      | apply OutInv.next | apply Upd.of | simp -iota only [Inv.update] | split | dsimp -iota only | dsimp only

theorem execVcasW_inv {fm : Nat} {s₀ : State} (m : Motif) (g : GroupSlot) (s : State) (h_s : Inv fm s₀ s)
    (hm : InSet 13196221211708 fm) :
    OutInv fm s₀ (execVcasW m g s) := by
  delta execVcasW
  repeat' first
    | exact inSet_trans rfl hm
    | with_reducible first
      | assumption | (intro) | apply State.atomicInstr_inv | apply Inv.ite | apply OutInv.ite | apply OutInv.next
      | split | dsimp -iota only | dsimp only

theorem execVcasD_inv {fm : Nat} {s₀ : State} (m : Motif) (g : GroupSlot) (s : State) (h_s : Inv fm s₀ s)
    (hm : InSet 13196221211708 fm) :
    OutInv fm s₀ (execVcasD m g s) := by
  delta execVcasD
  repeat' first
    | exact inSet_trans rfl hm
    | with_reducible first
      | assumption | (intro) | apply State.atomicInstr_inv | apply Inv.ite | apply OutInv.ite | apply OutInv.next
      | split | dsimp -iota only | dsimp only

theorem execVafaddS_inv {fm : Nat} {s₀ : State} (m : Motif) (g : GroupSlot) (s : State) (h_s : Inv fm s₀ s)
    (hm : InSet 13196221211708 fm) :
    OutInv fm s₀ (execVafaddS m g s) := by
  delta execVafaddS
  repeat' first
    | exact inSet_trans rfl hm
    | with_reducible first
      | assumption | (intro) | apply State.atomicInstr_inv | split | apply Inv.ite | apply OutInv.ite
      | apply OutInv.next | dsimp -iota only | dsimp only

theorem execVcvtn_inv {fm : Nat} {s₀ : State} (m : Motif) (g : GroupSlot) (s : State) (h_s : Inv fm s₀ s)
    (hm : InSet 13196221210684 fm) :
    OutInv fm s₀ (execVcvtn m g s) := by
  delta execVcvtn
  repeat' first
    | exact inSet_trans rfl hm
    | with_reducible first
      | assumption | (intro) | apply State.countGroup_inv | (apply PairInv.snd; apply State.countGroup_inv)
      | apply State.groupFault_inv | apply State.issue_inv | apply State.putGroup_inv | apply Inv.ite
      | apply PairInv.ite | (apply PairInv.snd; apply PairInv.ite) | apply OutInv.ite | apply OutInv.next
      | apply Inv.foldl | simp -iota only [PairInv.mk'] | split | refine PairInv.of_eq (by assumption) ?_
      | dsimp -iota only | dsimp only

theorem execVcvtw_inv {fm : Nat} {s₀ : State} (m : Motif) (g : GroupSlot) (s : State) (h_s : Inv fm s₀ s)
    (hm : InSet 13196221210684 fm) :
    OutInv fm s₀ (execVcvtw m g s) := by
  delta execVcvtw
  repeat' first
    | exact inSet_trans rfl hm
    | with_reducible exact Or.inr rfl
    | exact Or.inl (inSet_trans rfl hm)
    | with_reducible first
      | assumption | (intro) | apply State.groupFault_inv | apply State.issue_inv | apply State.putGroup_inv
      | apply Inv.ite | apply OutInv.ite | apply OutInv.next | apply Inv.foldl | apply Inv.getD | apply Upd.of
      | simp -iota only [Inv.update] | split | dsimp -iota only | dsimp only

theorem execZld_inv {fm : Nat} {s₀ : State} (m : Motif) (g : GroupSlot) (s : State) (h_s : Inv fm s₀ s)
    (hm : InSet 13196221210684 fm) :
    OutInv fm s₀ (execZld m g s) := by
  delta execZld
  repeat' first
    | exact inSet_trans rfl hm
    | with_reducible first
      | assumption | (intro) | apply State.beginMem_inv | (apply PairInv.snd; apply State.beginMem_inv)
      | apply State.bump_inv | apply State.doLoads_inv | (apply QuadInv.snd; apply State.doLoads_inv)
      | apply State.endMem_inv | apply State.groupFault_inv | apply State.memInstr_inv | split | apply Inv.ite
      | apply PairInv.ite | (apply PairInv.snd; apply PairInv.ite) | apply QuadInv.ite
      | (apply QuadInv.snd; apply QuadInv.ite) | apply OutInv.ite | apply OutInv.next
      | simp -iota only [PairInv.mk', QuadInv.mk'] | refine PairInv.of_eq (by assumption) ?_
      | refine QuadInv.of_eq (by assumption) ?_ | dsimp -iota only | dsimp only

theorem execZst_inv {fm : Nat} {s₀ : State} (m : Motif) (g : GroupSlot) (s : State) (h_s : Inv fm s₀ s)
    (hm : InSet 13196221213756 fm) :
    OutInv fm s₀ (execZst m g s) := by
  delta execZst
  repeat' first
    | exact inSet_trans rfl hm
    | with_reducible exact Or.inr rfl
    | exact Or.inl (inSet_trans rfl hm)
    | with_reducible first
      | assumption | (intro) | apply State.beginMem_inv | (apply PairInv.snd; apply State.beginMem_inv)
      | apply State.bump_inv | apply State.countGroup_inv | (apply PairInv.snd; apply State.countGroup_inv)
      | apply State.doStores_inv | (apply TripleInv.snd; apply State.doStores_inv) | apply State.endMem_inv
      | apply State.groupFault_inv | apply State.memInstr_inv | apply State.range_inv
      | (apply PairInv.snd; apply State.range_inv) | apply Inv.ite | apply PairInv.ite
      | (apply PairInv.snd; apply PairInv.ite) | apply TripleInv.ite | (apply TripleInv.snd; apply TripleInv.ite)
      | apply OutInv.ite | apply OutInv.next | apply Inv.foldl | apply Upd.of
      | simp -iota only [Inv.update, PairInv.mk', TripleInv.mk'] | split | refine PairInv.of_eq (by assumption) ?_
      | refine TripleInv.of_eq (by assumption) ?_ | dsimp -iota only | dsimp only

theorem execZmma_inv {fm : Nat} {s₀ : State} (m : Motif) (g : GroupSlot) (s : State) (h_s : Inv fm s₀ s)
    (hm : InSet 13196221210684 fm) :
    OutInv fm s₀ (execZmma m g s) := by
  delta execZmma
  repeat' first
    | exact inSet_trans rfl hm
    | with_reducible first
      | assumption | (intro) | apply State.countGroup_inv | (apply PairInv.snd; apply State.countGroup_inv)
      | apply State.groupFault_inv | apply State.issueCollective_inv | apply State.putGroup_inv | apply Inv.ite
      | apply PairInv.ite | (apply PairInv.snd; apply PairInv.ite) | apply OutInv.ite | apply OutInv.next
      | simp -iota only [PairInv.mk'] | split | refine PairInv.of_eq (by assumption) ?_ | dsimp -iota only
      | dsimp only

theorem execZzero_inv {fm : Nat} {s₀ : State} (m : Motif) (g : GroupSlot) (s : State) (h_s : Inv fm s₀ s)
    (hm : InSet 13196221210684 fm) :
    OutInv fm s₀ (execZzero m g s) := by
  delta execZzero
  repeat' first
    | exact inSet_trans rfl hm
    | with_reducible first
      | assumption | (intro) | apply State.issueCollective_inv | apply State.putGroup_inv | apply Inv.ite
      | apply OutInv.ite | apply OutInv.next | split | dsimp -iota only | dsimp only

theorem execNeedleLoad_inv {fm : Nat} {s₀ : State} (m : Motif) (g : GroupSlot) (s : State) (h_s : Inv fm s₀ s)
    (hm : InSet 13196221210684 fm) :
    OutInv fm s₀ (execNeedleLoad m g s) := by
  delta execNeedleLoad
  repeat' first
    | exact inSet_trans rfl hm
    | with_reducible first
      | assumption | (intro) | apply State.beginLoad_inv | (apply PairInv.snd; apply State.beginLoad_inv)
      | apply State.doLoads_inv | (apply QuadInv.snd; apply State.doLoads_inv) | apply State.endMem_inv
      | apply State.memInstr_inv | apply Inv.ite | apply PairInv.ite | (apply PairInv.snd; apply PairInv.ite)
      | apply QuadInv.ite | (apply QuadInv.snd; apply QuadInv.ite) | apply OutInv.ite | apply OutInv.next
      | simp -iota only [PairInv.mk', QuadInv.mk'] | split | refine PairInv.of_eq (by assumption) ?_
      | refine QuadInv.of_eq (by assumption) ?_ | dsimp -iota only | dsimp only

theorem execNeedleStore_inv {fm : Nat} {s₀ : State} (m : Motif) (g : GroupSlot) (s : State) (h_s : Inv fm s₀ s)
    (hm : InSet 13196221213756 fm) :
    OutInv fm s₀ (execNeedleStore m g s) := by
  delta execNeedleStore
  repeat' first
    | exact inSet_trans rfl hm
    | with_reducible first
      | assumption | (intro) | apply State.beginStore_inv | (apply PairInv.snd; apply State.beginStore_inv)
      | apply State.doStores_inv | (apply TripleInv.snd; apply State.doStores_inv) | apply State.endMem_inv
      | apply State.memInstr_inv | apply Inv.ite | apply PairInv.ite | (apply PairInv.snd; apply PairInv.ite)
      | apply TripleInv.ite | (apply TripleInv.snd; apply TripleInv.ite) | apply OutInv.ite | apply OutInv.next
      | simp -iota only [PairInv.mk', TripleInv.mk'] | split | refine PairInv.of_eq (by assumption) ?_
      | refine TripleInv.of_eq (by assumption) ?_ | dsimp -iota only | dsimp only

theorem execNeedleAmo_inv {fm : Nat} {s₀ : State} (m : Motif) (g : GroupSlot) (s : State) (h_s : Inv fm s₀ s)
    (hm : InSet 13196221211708 fm) :
    OutInv fm s₀ (execNeedleAmo m g s) := by
  delta execNeedleAmo
  repeat' first
    | exact inSet_trans rfl hm
    | with_reducible first
      | assumption | (intro) | apply State.atomicInstr_inv | apply Inv.ite | apply OutInv.ite | apply OutInv.next
      | split | dsimp -iota only | dsimp only

theorem execNeedleLr_inv {fm : Nat} {s₀ : State} (m : Motif) (g : GroupSlot) (s : State) (h_s : Inv fm s₀ s)
    (hm : InSet 13196221210684 fm) :
    OutInv fm s₀ (execNeedleLr m g s) := by
  delta execNeedleLr
  repeat' first
    | exact inSet_trans rfl hm
    | with_reducible first
      | assumption | (intro) | apply State.beginMem_inv | (apply PairInv.snd; apply State.beginMem_inv)
      | apply State.doLr_inv | (apply QuadInv.snd; apply State.doLr_inv) | apply State.endMem_inv
      | apply State.memInstr_inv | apply Inv.ite | apply PairInv.ite | (apply PairInv.snd; apply PairInv.ite)
      | apply QuadInv.ite | (apply QuadInv.snd; apply QuadInv.ite) | apply OutInv.ite | apply OutInv.next
      | simp -iota only [PairInv.mk', QuadInv.mk'] | split | refine PairInv.of_eq (by assumption) ?_
      | refine QuadInv.of_eq (by assumption) ?_ | dsimp -iota only | dsimp only

theorem execNeedleSc_inv {fm : Nat} {s₀ : State} (m : Motif) (g : GroupSlot) (s : State) (h_s : Inv fm s₀ s)
    (hm : InSet 13196221213756 fm) :
    OutInv fm s₀ (execNeedleSc m g s) := by
  delta execNeedleSc
  repeat' first
    | exact inSet_trans rfl hm
    | with_reducible first
      | assumption | (intro) | apply State.beginMem_inv | (apply PairInv.snd; apply State.beginMem_inv)
      | apply State.doSc_inv | (apply QuadInv.snd; apply State.doSc_inv) | apply State.endMem_inv
      | apply State.memInstr_inv | apply Inv.ite | apply PairInv.ite | (apply PairInv.snd; apply PairInv.ite)
      | apply QuadInv.ite | (apply QuadInv.snd; apply QuadInv.ite) | apply OutInv.ite | apply OutInv.next
      | simp -iota only [PairInv.mk', QuadInv.mk'] | split | refine PairInv.of_eq (by assumption) ?_
      | refine QuadInv.of_eq (by assumption) ?_ | dsimp -iota only | dsimp only

theorem execNeedleFence_inv {fm : Nat} {s₀ : State} (m : Motif) (g : GroupSlot) (s : State) (h_s : Inv fm s₀ s)
    (hm : InSet 13196221210684 fm) :
    OutInv fm s₀ (execNeedleFence m g s) := by
  delta execNeedleFence
  repeat' first
    | exact inSet_trans rfl hm
    | with_reducible first
      | assumption | (intro) | apply State.issueReg_inv | apply Inv.ite | apply OutInv.ite | apply OutInv.next
      | split | dsimp -iota only | dsimp only

theorem execNeedleBranch_inv {fm : Nat} {s₀ : State} (m : Motif) (g : GroupSlot) (s : State) (h_s : Inv fm s₀ s)
    (hm : InSet 13196221210684 fm) :
    OutInv fm s₀ (execNeedleBranch m g s) := by
  delta execNeedleBranch
  repeat' first
    | exact inSet_trans rfl hm
    | with_reducible exact Or.inr rfl
    | exact Or.inl (inSet_trans rfl hm)
    | with_reducible first
      | assumption | (intro) | apply State.groupFault_inv | apply State.issue_inv | apply State.putGroup_inv
      | apply Inv.ite | apply OutInv.ite | apply OutInv.next | apply Upd.of | simp -iota only [Inv.update] | split
      | dsimp -iota only | dsimp only

theorem State.csrInstr_inv {fm : Nat} {s₀ : State} (s : State) (m g : Nat) (p : Nat → Bool) (h_s : Inv fm s₀ s)
    (hm : InSet 13196221210684 fm) :
    Inv fm s₀ (State.csrInstr s m g p) := by
  delta State.csrInstr
  repeat' first
    | exact inSet_trans rfl hm
    | with_reducible exact Or.inr rfl
    | exact Or.inl (inSet_trans rfl hm)
    | with_reducible first
      | assumption | (intro) | apply State.groupFault_inv | apply State.issue_inv | apply State.putGroup_inv
      | apply Inv.ite | apply Upd.of | simp -iota only [Inv.update] | split | dsimp -iota only | dsimp only

theorem execNeedleCsrWrite_inv {fm : Nat} {s₀ : State} (m : Motif) (g : GroupSlot) (s : State) (h_s : Inv fm s₀ s)
    (hm : InSet 13196221210684 fm) :
    OutInv fm s₀ (execNeedleCsrWrite m g s) := by
  delta execNeedleCsrWrite
  repeat' first
    | exact inSet_trans rfl hm
    | with_reducible first
      | assumption | (intro) | apply State.csrInstr_inv | apply Inv.ite | apply OutInv.ite | apply OutInv.next
      | split | dsimp -iota only | dsimp only

theorem execNeedleEcall_inv {fm : Nat} {s₀ : State} (m : Motif) (g : GroupSlot) (s : State) (h_s : Inv fm s₀ s)
    (hm : InSet 13196221210684 fm) :
    OutInv fm s₀ (execNeedleEcall m g s) := by
  delta execNeedleEcall
  repeat' first
    | exact inSet_trans rfl hm
    | with_reducible first
      | assumption | (intro) | apply State.groupFault_inv | apply State.issue_inv | apply Inv.ite | apply OutInv.ite
      | apply OutInv.next | split | dsimp -iota only | dsimp only

theorem execNeedleEbreak_inv {fm : Nat} {s₀ : State} (m : Motif) (g : GroupSlot) (s : State) (h_s : Inv fm s₀ s)
    (hm : InSet 13196221210684 fm) :
    OutInv fm s₀ (execNeedleEbreak m g s) := by
  suffices H : ∀ fn_, fn_ = @execNeedleEbreak → OutInv fm s₀ (fn_ m g s) from H _ rfl
  intro fn_ hf; delta execNeedleEbreak at hf; subst hf
  repeat' first
    | exact inSet_trans rfl hm
    | with_reducible first
      | assumption | (intro) | apply State.groupFault_inv | apply State.issue_inv | apply Inv.ite | apply OutInv.ite
      | apply OutInv.next | split | dsimp -iota only | dsimp only

theorem execNeedleOtherInstruction_inv {fm : Nat} {s₀ : State} (m : Motif) (g : GroupSlot) (s : State)
    (h_s : Inv fm s₀ s) (hm : InSet 13196221210684 fm) :
    OutInv fm s₀ (execNeedleOtherInstruction m g s) := by
  delta execNeedleOtherInstruction
  repeat' first
    | exact inSet_trans rfl hm
    | with_reducible exact Or.inr rfl
    | exact Or.inl (inSet_trans rfl hm)
    | with_reducible first
      | assumption | (intro) | apply State.groupFault_inv | apply State.issue_inv | apply State.putGroup_inv | split
      | apply Inv.ite | apply OutInv.ite | apply OutInv.next | apply Upd.of | simp -iota only [Inv.update]
      | dsimp -iota only | dsimp only

end Sys2Proof.Machine
end

