-- ==== Sys2Proof/Laws/InvSkeins.lean ====
section
/-!
SUPPORT. Laws/InvSkeins.lean: the operations of Machine/Skeins.lean write only the fields named, and keep memories canonical.
-/

set_option simprocs false
set_option linter.unusedSimpArgs false
set_option linter.unusedVariables false

namespace Sys2Proof.Machine

theorem State.skStep_inv {fm : Nat} {s₀ : State} (s : State) (op : Nat) (h_s : Inv fm s₀ s)
    (hm : InSet 13198368689212 fm) :
    Inv fm s₀ (State.skStep s op) := by
  delta State.skStep
  repeat' first
    | exact inSet_trans rfl hm
    | with_reducible exact Or.inr rfl
    | exact Or.inl (inSet_trans rfl hm)
    | with_reducible first
      | assumption | (intro) | apply State.skExec_inv | split | apply Inv.ite | apply Upd.of
      | simp -iota only [Inv.update] | dsimp -iota only | dsimp only

theorem execSkeinOpen_inv {fm : Nat} {s₀ : State} (s : State) (h_s : Inv fm s₀ s) (hm : InSet 13198368689212 fm) :
    OutInv fm s₀ (execSkeinOpen s) := by
  delta execSkeinOpen
  repeat' first
    | exact inSet_trans rfl hm
    | with_reducible first
      | assumption | (intro) | apply State.skStep_inv | split | apply Inv.ite | apply OutInv.ite | apply OutInv.next
      | dsimp -iota only | dsimp only

theorem execSkeinAppend_inv {fm : Nat} {s₀ : State} (s : State) (h_s : Inv fm s₀ s) (hm : InSet 13198368689212 fm) :
    OutInv fm s₀ (execSkeinAppend s) := by
  delta execSkeinAppend
  repeat' first
    | exact inSet_trans rfl hm
    | with_reducible first
      | assumption | (intro) | apply State.skStep_inv | apply Inv.ite | apply OutInv.ite | apply OutInv.next | split
      | dsimp -iota only | dsimp only

theorem execSkeinRead_inv {fm : Nat} {s₀ : State} (s : State) (h_s : Inv fm s₀ s) (hm : InSet 13198368689212 fm) :
    OutInv fm s₀ (execSkeinRead s) := by
  delta execSkeinRead
  repeat' first
    | exact inSet_trans rfl hm
    | with_reducible first
      | assumption | (intro) | apply State.skStep_inv | apply Inv.ite | apply OutInv.ite | apply OutInv.next | split
      | dsimp -iota only | dsimp only

theorem execSkeinMark_inv {fm : Nat} {s₀ : State} (s : State) (h_s : Inv fm s₀ s) (hm : InSet 13198368689212 fm) :
    OutInv fm s₀ (execSkeinMark s) := by
  delta execSkeinMark
  repeat' first
    | exact inSet_trans rfl hm
    | with_reducible first
      | assumption | (intro) | apply State.skStep_inv | apply Inv.ite | apply OutInv.ite | apply OutInv.next | split
      | dsimp -iota only | dsimp only

theorem execSkeinRewind_inv {fm : Nat} {s₀ : State} (s : State) (h_s : Inv fm s₀ s) (hm : InSet 13198368689212 fm) :
    OutInv fm s₀ (execSkeinRewind s) := by
  delta execSkeinRewind
  repeat' first
    | exact inSet_trans rfl hm
    | with_reducible first
      | assumption | (intro) | apply State.skStep_inv | apply Inv.ite | apply OutInv.ite | apply OutInv.next | split
      | dsimp -iota only | dsimp only

theorem execSkeinRelease_inv {fm : Nat} {s₀ : State} (s : State) (h_s : Inv fm s₀ s) (hm : InSet 13198368689212 fm) :
    OutInv fm s₀ (execSkeinRelease s) := by
  delta execSkeinRelease
  repeat' first
    | exact inSet_trans rfl hm
    | with_reducible first
      | assumption | (intro) | apply State.skStep_inv | apply Inv.ite | apply OutInv.ite | apply OutInv.next | split
      | dsimp -iota only | dsimp only

theorem execSkeinRetract_inv {fm : Nat} {s₀ : State} (s : State) (h_s : Inv fm s₀ s) (hm : InSet 13198368689212 fm) :
    OutInv fm s₀ (execSkeinRetract s) := by
  delta execSkeinRetract
  repeat' first
    | exact inSet_trans rfl hm
    | with_reducible first
      | assumption | (intro) | apply State.skStep_inv | apply Inv.ite | apply OutInv.ite | apply OutInv.next | split
      | dsimp -iota only | dsimp only

theorem execSkeinClose_inv {fm : Nat} {s₀ : State} (s : State) (h_s : Inv fm s₀ s) (hm : InSet 13198368689212 fm) :
    OutInv fm s₀ (execSkeinClose s) := by
  delta execSkeinClose
  repeat' first
    | exact inSet_trans rfl hm
    | with_reducible first
      | assumption | (intro) | apply State.skStep_inv | apply Inv.ite | apply OutInv.ite | apply OutInv.next | split
      | dsimp -iota only | dsimp only

theorem execCountPublication_inv {fm : Nat} {s₀ : State} (which : PubKind) (stream : BitVec 17) (s : State)
    (h_s : Inv fm s₀ s) (hm : InSet 2147483648 fm) :
    OutInv fm s₀ (execCountPublication which stream s) := by
  delta execCountPublication
  repeat' first
    | exact inSet_trans rfl hm
    | with_reducible exact Or.inr rfl
    | exact Or.inl (inSet_trans rfl hm)
    | with_reducible first
      | assumption | (intro) | apply State.setStream_inv | apply Inv.ite | apply OutInv.ite | apply OutInv.next
      | apply Upd.of | simp -iota only [Inv.update] | split | dsimp -iota only | dsimp only

theorem State.latchLow_inv {fm : Nat} {s₀ : State} (s : State) (path : AccessPath) (addr v : Nat) (h_s : Inv fm s₀ s)
    (hm : InSet 4294967296 fm) :
    Inv fm s₀ (State.latchLow s path addr v) := by
  delta State.latchLow
  repeat' first
    | exact inSet_trans rfl hm
    | with_reducible exact Or.inr rfl
    | exact Or.inl (inSet_trans rfl hm)
    | with_reducible first
      | assumption | (intro) | apply Inv.ite | apply Upd.of | simp -iota only [Inv.update] | split | dsimp -iota only
      | dsimp only

theorem execSkCountsLoRead_inv {fm : Nat} {s₀ : State} (stream : BitVec 17) (s : State) (h_s : Inv fm s₀ s)
    (hm : InSet 4294967296 fm) :
    OutInv fm s₀ (execSkCountsLoRead stream s) := by
  delta execSkCountsLoRead
  repeat' first
    | exact inSet_trans rfl hm
    | with_reducible first
      | assumption | (intro) | apply State.latchLow_inv | apply Inv.ite | apply OutInv.ite | apply OutInv.next
      | split | dsimp -iota only | dsimp only

theorem execRwRowLoRead_inv {fm : Nat} {s₀ : State} (s : State) (h_s : Inv fm s₀ s) (hm : InSet 4 fm) :
    OutInv fm s₀ (execRwRowLoRead s) := by
  delta execRwRowLoRead
  repeat' first
    | exact inSet_trans rfl hm
    | with_reducible first
      | assumption | (intro) | apply State.setFlds_inv | apply Inv.ite | apply OutInv.ite | apply OutInv.next | split
      | dsimp -iota only | dsimp only

end Sys2Proof.Machine
end

