-- ==== Sys2Proof/Laws/InvTestFacilities.lean ====
section
/-!
SUPPORT. Laws/InvTestFacilities.lean: the operations of Machine/TestFacilities.lean write only the fields named, and keep memories canonical.
-/

set_option simprocs false
set_option linter.unusedSimpArgs false
set_option linter.unusedVariables false

namespace Sys2Proof.Machine

theorem State.testRelease_inv {fm : Nat} {s₀ : State} (s : State) (h_s : Inv fm s₀ s) (hm : InSet 17592186044414 fm) :
    Inv fm s₀ (State.testRelease s) := by
  delta State.testRelease
  repeat' first
    | exact inSet_trans rfl hm
    | with_reducible exact Or.inr rfl
    | exact Or.inl (inSet_trans rfl hm)
    | with_reducible first
      | assumption | (intro) | apply State.castSteps_inv | apply State.onCast_inv | apply State.retrain_inv
      | apply State.setFld_inv | apply State.stopRuns_inv | apply Inv.ite | apply Inv.foldl | apply Inv.getD
      | apply Upd.of | simp -iota only [Inv.update] | split | dsimp -iota only | dsimp only

theorem execMcTestRelease_inv {fm : Nat} {s₀ : State} (s : State) (h_s : Inv fm s₀ s) (hm : InSet 17592186044414 fm) :
    OutInv fm s₀ (execMcTestRelease s) := by
  delta execMcTestRelease
  repeat' first
    | exact inSet_trans rfl hm
    | with_reducible first
      | assumption | (intro) | apply State.testRelease_inv | apply Inv.ite | apply OutInv.ite | apply OutInv.next
      | split | dsimp -iota only | dsimp only

theorem State.testRefused_inv {fm : Nat} {s₀ : State} (s : State) (h_s : Inv fm s₀ s) (hm : InSet 4 fm) :
    Inv fm s₀ (State.testRefused s) := by
  delta State.testRefused
  repeat' first
    | exact inSet_trans rfl hm
    | with_reducible first
      | assumption | (intro) | apply State.setFld_inv | apply Inv.ite | split | dsimp -iota only | dsimp only

theorem State.testEnter_inv {fm : Nat} {s₀ : State} (s : State) (pc : Nat) (h_s : Inv fm s₀ s) (hm : InSet 4 fm) :
    Inv fm s₀ (State.testEnter s pc) := by
  delta State.testEnter
  repeat' first
    | exact inSet_trans rfl hm
    | with_reducible exact Or.inr rfl
    | exact Or.inl (inSet_trans rfl hm)
    | with_reducible first
      | assumption | (intro) | apply State.setFld_inv | apply State.testRefused_inv | apply Inv.ite | apply Upd.of
      | simp -iota only [Inv.update] | split | dsimp -iota only | dsimp only

theorem execHbTestEnter_inv {fm : Nat} {s₀ : State} (pc : BitVec 10) (s : State) (h_s : Inv fm s₀ s) (hm : InSet 4 fm) :
    OutInv fm s₀ (execHbTestEnter pc s) := by
  delta execHbTestEnter
  repeat' first
    | exact inSet_trans rfl hm
    | with_reducible first
      | assumption | (intro) | apply State.testEnter_inv | apply Inv.ite | apply OutInv.ite | apply OutInv.next
      | split | dsimp -iota only | dsimp only

theorem State.testLeave_inv {fm : Nat} {s₀ : State} (s : State) (pc : Nat) (h_s : Inv fm s₀ s) (hm : InSet 4 fm) :
    Inv fm s₀ (State.testLeave s pc) := by
  delta State.testLeave
  repeat' first
    | exact inSet_trans rfl hm
    | with_reducible first
      | assumption | (intro) | apply State.setFld_inv | apply State.setFlds_inv | apply State.testRefused_inv
      | apply Inv.ite | split | dsimp -iota only | dsimp only

theorem execHbTestLeave_inv {fm : Nat} {s₀ : State} (pc : BitVec 10) (s : State) (h_s : Inv fm s₀ s) (hm : InSet 4 fm) :
    OutInv fm s₀ (execHbTestLeave pc s) := by
  delta execHbTestLeave
  repeat' first
    | exact inSet_trans rfl hm
    | with_reducible first
      | assumption | (intro) | apply State.testLeave_inv | split | apply Inv.ite | apply OutInv.ite
      | apply OutInv.next | dsimp -iota only | dsimp only

theorem State.bistStart_inv {fm : Nat} {s₀ : State} (s : State) (m : Nat) (h_s : Inv fm s₀ s) (hm : InSet 4 fm) :
    Inv fm s₀ (State.bistStart s m) := by
  delta State.bistStart
  repeat' first
    | exact inSet_trans rfl hm
    | with_reducible first
      | assumption | (intro) | apply State.setFld_inv | apply State.setFlds_inv | split | apply Inv.ite
      | dsimp -iota only | dsimp only

theorem execMcBistStart_inv {fm : Nat} {s₀ : State} (m : BitVec 6) (s : State) (h_s : Inv fm s₀ s) (hm : InSet 4 fm) :
    OutInv fm s₀ (execMcBistStart m s) := by
  delta execMcBistStart
  repeat' first
    | exact inSet_trans rfl hm
    | with_reducible first
      | assumption | (intro) | apply State.bistStart_inv | apply Inv.ite | apply OutInv.ite | apply OutInv.next
      | split | dsimp -iota only | dsimp only

theorem State.spareFails_inv {fm : Nat} {s₀ : State} (s : State) (m : Nat) (h_s : Inv fm s₀ s)
    (hm : InSet 13224140601404 fm) :
    Inv fm s₀ (State.spareFails s m) := by
  suffices H : ∀ fn_, fn_ = @State.spareFails → Inv fm s₀ (fn_ s m) from H _ rfl
  intro fn_ hf; delta State.spareFails at hf; subst hf
  repeat' first
    | exact inSet_trans rfl hm
    | with_reducible exact Or.inr rfl
    | exact Or.inl (inSet_trans rfl hm)
    | with_reducible first
      | assumption | (intro) | apply State.issueAll_inv | apply State.reroute_inv | apply Inv.ite | apply Upd.of
      | simp -iota only [Inv.update] | split | dsimp -iota only | dsimp only

theorem execMcBistDone_inv {fm : Nat} {s₀ : State} (failUnit : BitVec 3) (s : State) (h_s : Inv fm s₀ s)
    (hm : InSet 13224140601404 fm) :
    OutInv fm s₀ (execMcBistDone failUnit s) := by
  delta execMcBistDone
  repeat' first
    | exact inSet_trans rfl hm
    | with_reducible first
      | assumption | (intro) | apply State.setFlds_inv | apply State.spareFails_inv | apply Inv.ite
      | apply OutInv.ite | apply OutInv.next | split | dsimp -iota only | dsimp only

theorem State.loopNow_inv {fm : Nat} {s₀ : State} (s : State) (b : LoopBlock) (h_s : Inv fm s₀ s)
    (hm : InSet 549755813888 fm) :
    Inv fm s₀ (State.loopNow s b) := by
  delta State.loopNow
  repeat' first
    | exact inSet_trans rfl hm
    | with_reducible exact Or.inr rfl
    | exact Or.inl (inSet_trans rfl hm)
    | with_reducible first
      | assumption | (intro) | apply State.onMc_inv | apply Inv.ite | apply Upd.of | simp -iota only [Inv.update]
      | split | dsimp -iota only | dsimp only

theorem State.loopStart_inv {fm : Nat} {s₀ : State} (s : State) (b : LoopBlock) (v : Nat) (h_s : Inv fm s₀ s)
    (hm : InSet 14020863311932 fm) :
    Inv fm s₀ (State.loopStart s b v) := by
  delta State.loopStart
  repeat' first
    | exact inSet_trans rfl hm
    | with_reducible exact Or.inr rfl
    | exact Or.inl (inSet_trans rfl hm)
    | with_reducible first
      | assumption | (intro) | apply State.loopEnter_inv | apply State.loopNow_inv | apply State.onCast_inv
      | apply State.setFld_inv | apply State.setFlds_inv | apply Inv.ite | apply Upd.of
      | simp -iota only [Inv.update] | split | dsimp -iota only | dsimp only

theorem execLoopbackStart_inv {fm : Nat} {s₀ : State} (b : LoopBlock) (v : BitVec 32) (s : State) (h_s : Inv fm s₀ s)
    (hm : InSet 14020863311932 fm) :
    OutInv fm s₀ (execLoopbackStart b v s) := by
  delta execLoopbackStart
  repeat' first
    | exact inSet_trans rfl hm
    | with_reducible first
      | assumption | (intro) | apply State.loopStart_inv | apply Inv.ite | apply OutInv.ite | apply OutInv.next
      | split | dsimp -iota only | dsimp only

theorem State.loopCount_inv {fm : Nat} {s₀ : State} (s : State) (b : LoopBlock) (bits' errors laneErr : Nat)
    (h_s : Inv fm s₀ s) (hm : InSet 4 fm) :
    Inv fm s₀ (State.loopCount s b bits' errors laneErr) := by
  suffices H : ∀ fn_, fn_ = @State.loopCount → Inv fm s₀ (fn_ s b bits' errors laneErr) from H _ rfl
  intro fn_ hf; delta State.loopCount at hf; subst hf
  repeat' first
    | exact inSet_trans rfl hm
    | with_reducible first
      | assumption | (intro) | apply State.bumpPlain_inv | apply State.setFld_inv | split | apply Inv.ite

theorem execLoopbackStop_inv {fm : Nat} {s₀ : State} (b : LoopBlock) (bits' errors laneErr : BitVec 64) (s : State)
    (h_s : Inv fm s₀ s) (hm : InSet 13471099109436 fm) :
    OutInv fm s₀ (execLoopbackStop b bits' errors laneErr s) := by
  delta execLoopbackStop
  repeat' first
    | exact inSet_trans rfl hm
    | with_reducible first
      | assumption | (intro) | apply State.loopCount_inv | apply State.loopEnd_inv | apply Inv.ite | apply OutInv.ite
      | apply OutInv.next | split | dsimp -iota only | dsimp only

theorem execLoopbackLock_inv {fm : Nat} {s₀ : State} (b : LoopBlock) (s : State) (h_s : Inv fm s₀ s)
    (hm : InSet 549755813892 fm) :
    OutInv fm s₀ (execLoopbackLock b s) := by
  delta execLoopbackLock
  repeat' first
    | exact inSet_trans rfl hm
    | with_reducible first
      | assumption | (intro) | apply State.loopNow_inv | apply State.setFld_inv | apply Inv.ite | apply OutInv.ite
      | apply OutInv.next | split | dsimp -iota only | dsimp only

theorem execLoopbackLockTimeout_inv {fm : Nat} {s₀ : State} (b : LoopBlock) (bits' : BitVec 64) (s : State)
    (h_s : Inv fm s₀ s) (hm : InSet 13471099109436 fm) :
    OutInv fm s₀ (execLoopbackLockTimeout b bits' s) := by
  delta execLoopbackLockTimeout
  repeat' first
    | exact inSet_trans rfl hm
    | with_reducible first
      | assumption | (intro) | apply State.loopCount_inv | apply State.loopEnd_inv | apply Inv.ite | apply OutInv.ite
      | apply OutInv.next | split | dsimp -iota only | dsimp only

theorem execLoopbackDurationEnd_inv {fm : Nat} {s₀ : State} (b : LoopBlock) (bits' errors laneErr : BitVec 64)
    (s : State) (h_s : Inv fm s₀ s) (hm : InSet 13471099109436 fm) :
    OutInv fm s₀ (execLoopbackDurationEnd b bits' errors laneErr s) := by
  delta execLoopbackDurationEnd
  repeat' first
    | exact inSet_trans rfl hm
    | with_reducible first
      | assumption | (intro) | apply State.loopCount_inv | apply State.loopEnd_inv | apply Inv.ite | apply OutInv.ite
      | apply OutInv.next | split | dsimp -iota only | dsimp only

end Sys2Proof.Machine
end

