-- ==== Sys2Proof/Laws/InvPatterns.lean ====
section
/-!
SUPPORT. Laws/InvPatterns.lean: the operations of Machine/Patterns.lean write only the fields named, and keep memories canonical.
-/

set_option simprocs false
set_option linter.unusedSimpArgs false
set_option linter.unusedVariables false

namespace Sys2Proof.Machine

theorem execSlotInfo_inv {fm : Nat} {s₀ : State} (ch : Channel) (s : State) (h_s : Inv fm s₀ s)
    (hm : InSet 13745977016380 fm) :
    OutInv fm s₀ (execSlotInfo ch s) := by
  delta execSlotInfo
  repeat' first
    | exact inSet_trans rfl hm
    | with_reducible first
      | assumption | (intro) | apply State.mboxDone_inv | apply State.range_inv
      | (apply PairInv.snd; apply State.range_inv) | apply State.runJob_inv | split | apply Inv.ite
      | apply PairInv.ite | (apply PairInv.snd; apply PairInv.ite) | apply OutInv.ite | apply OutInv.next
      | simp -iota only [PairInv.mk'] | refine PairInv.of_eq (by assumption) ?_ | dsimp -iota only | dsimp only

theorem execSlotBegin_inv {fm : Nat} {s₀ : State} (ch : Channel) (s : State) (h_s : Inv fm s₀ s)
    (hm : InSet 13745977016508 fm) :
    OutInv fm s₀ (execSlotBegin ch s) := by
  delta execSlotBegin
  repeat' first
    | exact inSet_trans rfl hm
    | with_reducible first
      | assumption | (intro) | apply State.beginCmd_inv | apply State.mboxDone_inv | apply State.runJob_inv
      | apply Inv.ite | apply OutInv.ite | apply OutInv.next | split | dsimp -iota only | dsimp only

theorem execSlotData_inv {fm : Nat} {s₀ : State} (ch : Channel) (s : State) (h_s : Inv fm s₀ s)
    (hm : InSet 13745977016508 fm) :
    OutInv fm s₀ (execSlotData ch s) := by
  delta execSlotData
  repeat' first
    | exact inSet_trans rfl hm
    | with_reducible first
      | assumption | (intro) | apply State.dataCmd_inv | apply State.runJob_inv | apply Inv.ite | apply OutInv.ite
      | apply OutInv.next | split | dsimp -iota only | dsimp only

theorem execSlotEnd_inv {fm : Nat} {s₀ : State} (ch : Channel) (s : State) (h_s : Inv fm s₀ s)
    (hm : InSet 13745977016508 fm) :
    OutInv fm s₀ (execSlotEnd ch s) := by
  delta execSlotEnd
  repeat' first
    | exact inSet_trans rfl hm
    | with_reducible first
      | assumption | (intro) | apply State.endCmd_inv | apply State.mboxDone_inv | apply State.runJob_inv
      | apply Inv.ite | apply OutInv.ite | apply OutInv.next | split | dsimp -iota only | dsimp only

theorem execSessionTimeout_inv {fm : Nat} {s₀ : State} (s : State) (h_s : Inv fm s₀ s) (hm : InSet 549755813892 fm) :
    OutInv fm s₀ (execSessionTimeout s) := by
  delta execSessionTimeout
  repeat' first
    | exact inSet_trans rfl hm
    | with_reducible exact Or.inr rfl
    | exact Or.inl (inSet_trans rfl hm)
    | with_reducible first
      | assumption | (intro) | apply State.onMc_inv | apply State.setSession_inv | apply Inv.ite | apply OutInv.ite
      | apply OutInv.next | apply Upd.of | simp -iota only [Inv.update] | split | dsimp -iota only | dsimp only

theorem execRepattern_inv {fm : Nat} {s₀ : State} (ch : Channel) (s : State) (h_s : Inv fm s₀ s)
    (hm : InSet 17592186044414 fm) :
    OutInv fm s₀ (execRepattern ch s) := by
  delta execRepattern
  repeat' first
    | exact inSet_trans rfl hm
    | with_reducible first
      | assumption | (intro) | apply State.repattern_inv | apply State.runJob_inv | apply Inv.ite | apply OutInv.ite
      | apply OutInv.next | split | dsimp -iota only | dsimp only

theorem execSlotErase_inv {fm : Nat} {s₀ : State} (ch : Channel) (s : State) (h_s : Inv fm s₀ s)
    (hm : InSet 13745977016508 fm) :
    OutInv fm s₀ (execSlotErase ch s) := by
  delta execSlotErase
  repeat' first
    | exact inSet_trans rfl hm
    | with_reducible exact Or.inr rfl
    | exact Or.inl (inSet_trans rfl hm)
    | with_reducible first
      | assumption | (intro) | apply State.mboxDone_inv | apply State.runJob_inv | apply State.showSlot_inv | split
      | apply Inv.ite | apply OutInv.ite | apply OutInv.next | apply Upd.of | simp -iota only [Inv.update]
      | dsimp -iota only | dsimp only

theorem execSetMinSvn_inv {fm : Nat} {s₀ : State} (ch : Channel) (s : State) (h_s : Inv fm s₀ s)
    (hm : InSet 13745977016380 fm) :
    OutInv fm s₀ (execSetMinSvn ch s) := by
  suffices H : ∀ fn_, fn_ = @execSetMinSvn → OutInv fm s₀ (fn_ ch s) from H _ rfl
  intro fn_ hf; delta execSetMinSvn at hf; subst hf
  repeat' first
    | exact inSet_trans rfl hm
    | with_reducible exact Or.inr rfl
    | exact Or.inl (inSet_trans rfl hm)
    | with_reducible first
      | assumption | (intro) | apply State.mboxDone_inv | apply State.onMc_inv | apply State.runJob_inv
      | apply Inv.ite | apply OutInv.ite | apply OutInv.next | apply Upd.of | simp -iota only [Inv.update] | split
      | dsimp -iota only | dsimp only

end Sys2Proof.Machine
end

