-- ==== Sys2Proof/Laws/InvFabric.lean ====
section
/-!
SUPPORT. Laws/InvFabric.lean: the operations of Machine/Fabric.lean write only the fields named, and keep memories canonical.
-/

set_option simprocs false
set_option linter.unusedSimpArgs false
set_option linter.unusedVariables false

namespace Sys2Proof.Machine

theorem execRemoteRequest_inv {fm : Nat} {s₀ : State} (r : RemoteReq) (s : State) (h_s : Inv fm s₀ s)
    (hm : InSet 13198372894780 fm) :
    OutInv fm s₀ (execRemoteRequest r s) := by
  delta execRemoteRequest
  repeat' first
    | exact inSet_trans rfl hm
    | with_reducible exact Or.inr rfl
    | exact Or.inl (inSet_trans rfl hm)
    | with_reducible first
      | assumption | (intro) | apply State.launchFrames_inv | apply State.remoteRefused_inv
      | apply State.takeFree_inv | (apply PairInv.snd; apply State.takeFree_inv) | apply Inv.ite | apply PairInv.ite
      | (apply PairInv.snd; apply PairInv.ite) | apply OutInv.ite | apply OutInv.next | apply Upd.of
      | simp -iota only [Inv.update, PairInv.mk'] | split | refine PairInv.of_eq (by assumption) ?_
      | dsimp -iota only | dsimp only

theorem State.serveRead_inv {fm : Nat} {s₀ : State} (f : Frame) (s : State) (h_s : Inv fm s₀ s)
    (hm : InSet 13196225396796 fm) :
    OptInv fm s₀ (State.serveRead f s) := by
  delta State.serveRead
  repeat' first
    | exact inSet_trans rfl hm
    | with_reducible exact Or.inr rfl
    | exact Or.inl (inSet_trans rfl hm)
    | with_reducible first
      | assumption | (intro) | apply State.consume_inv | apply State.physRead_inv
      | (apply TripleInv.snd; apply State.physRead_inv) | apply State.respond_inv | split | apply Inv.ite
      | apply TripleInv.ite | (apply TripleInv.snd; apply TripleInv.ite) | apply OptInv.ite | apply OptInv.none
      | apply OptInv.some | apply Upd.of | simp -iota only [Inv.update, TripleInv.mk']
      | refine TripleInv.of_eq (by assumption) ?_ | refine OptInv.of_eq (by assumption) ?_ | dsimp -iota only
      | dsimp only

theorem execFabricRead_inv {fm : Nat} {s₀ : State} (f : Frame) (s : State) (h_s : Inv fm s₀ s)
    (hm : InSet 13196225396796 fm) :
    OutInv fm s₀ (execFabricRead f s) := by
  delta execFabricRead
  repeat' first
    | exact inSet_trans rfl hm
    | with_reducible first
      | assumption | (intro) | apply State.receive_inv | apply State.serveRead_inv | apply Inv.ite | apply OptInv.ite
      | apply OutInv.ite | apply OptInv.none | apply OptInv.some | apply OutInv.next | split
      | refine OptInv.of_eq (by assumption) ?_ | dsimp -iota only | dsimp only

theorem execFabricReadRsp_inv {fm : Nat} {s₀ : State} (f : Frame) (s : State) (h_s : Inv fm s₀ s)
    (hm : InSet 13198372894780 fm) :
    OutInv fm s₀ (execFabricReadRsp f s) := by
  delta execFabricReadRsp
  repeat' first
    | exact inSet_trans rfl hm
    | with_reducible first
      | assumption | (intro) | apply State.receive_inv | apply State.takeResponse_inv | apply Inv.ite
      | apply OptInv.ite | apply OutInv.ite | apply OptInv.none | apply OptInv.some | apply OutInv.next | split
      | refine OptInv.of_eq (by assumption) ?_ | dsimp -iota only | dsimp only

theorem State.serveWrite_inv {fm : Nat} {s₀ : State} (f : Frame) (s : State) (h_s : Inv fm s₀ s)
    (hm : InSet 13196225399868 fm) :
    OptInv fm s₀ (State.serveWrite f s) := by
  delta State.serveWrite
  repeat' first
    | exact inSet_trans rfl hm
    | with_reducible exact Or.inr rfl
    | exact Or.inl (inSet_trans rfl hm)
    | with_reducible first
      | assumption | (intro) | apply State.physWrite_inv | apply State.range_inv
      | (apply PairInv.snd; apply State.range_inv) | apply State.respond_inv | apply Inv.ite | apply PairInv.ite
      | (apply PairInv.snd; apply PairInv.ite) | apply OptInv.ite | apply OptInv.none | apply OptInv.some
      | apply Upd.of | simp -iota only [Inv.update, PairInv.mk'] | split | refine PairInv.of_eq (by assumption) ?_
      | refine OptInv.of_eq (by assumption) ?_ | dsimp -iota only | dsimp only

theorem execFabricWrite_inv {fm : Nat} {s₀ : State} (f : Frame) (s : State) (h_s : Inv fm s₀ s)
    (hm : InSet 13196225399868 fm) :
    OutInv fm s₀ (execFabricWrite f s) := by
  delta execFabricWrite
  repeat' first
    | exact inSet_trans rfl hm
    | with_reducible first
      | assumption | (intro) | apply State.receive_inv | apply State.serveWrite_inv | apply Inv.ite
      | apply OptInv.ite | apply OutInv.ite | apply OptInv.none | apply OptInv.some | apply OutInv.next | split
      | refine OptInv.of_eq (by assumption) ?_ | dsimp -iota only | dsimp only

theorem execFabricWriteRsp_inv {fm : Nat} {s₀ : State} (f : Frame) (s : State) (h_s : Inv fm s₀ s)
    (hm : InSet 13198372894780 fm) :
    OutInv fm s₀ (execFabricWriteRsp f s) := by
  delta execFabricWriteRsp
  repeat' first
    | exact inSet_trans rfl hm
    | with_reducible first
      | assumption | (intro) | apply State.receive_inv | apply State.takeResponse_inv | split | apply Inv.ite
      | apply OptInv.ite | apply OutInv.ite | apply OptInv.none | apply OptInv.some | apply OutInv.next
      | refine OptInv.of_eq (by assumption) ?_ | dsimp -iota only | dsimp only

theorem State.serveAtomic_inv {fm : Nat} {s₀ : State} (f : Frame) (s : State) (h_s : Inv fm s₀ s)
    (hm : InSet 13196225399868 fm) :
    OptInv fm s₀ (State.serveAtomic f s) := by
  delta State.serveAtomic
  repeat' first
    | exact inSet_trans rfl hm
    | with_reducible exact Or.inr rfl
    | exact Or.inl (inSet_trans rfl hm)
    | with_reducible first
      | assumption | (intro) | apply State.atomicAt_inv | (apply TripleInv.snd; apply State.atomicAt_inv)
      | apply State.consume_inv | apply State.respond_inv | apply Inv.ite | apply TripleInv.ite
      | (apply TripleInv.snd; apply TripleInv.ite) | apply OptInv.ite | apply OptInv.none | apply OptInv.some
      | apply Upd.of | simp -iota only [Inv.update, TripleInv.mk'] | split
      | refine TripleInv.of_eq (by assumption) ?_ | refine OptInv.of_eq (by assumption) ?_ | dsimp -iota only
      | dsimp only

theorem execFabricAtomic_inv {fm : Nat} {s₀ : State} (f : Frame) (s : State) (h_s : Inv fm s₀ s)
    (hm : InSet 13196225399868 fm) :
    OutInv fm s₀ (execFabricAtomic f s) := by
  delta execFabricAtomic
  repeat' first
    | exact inSet_trans rfl hm
    | with_reducible first
      | assumption | (intro) | apply State.receive_inv | apply State.serveAtomic_inv | split | apply Inv.ite
      | apply OptInv.ite | apply OutInv.ite | apply OptInv.none | apply OptInv.some | apply OutInv.next
      | refine OptInv.of_eq (by assumption) ?_ | dsimp -iota only | dsimp only

theorem execFabricAtomicRsp_inv {fm : Nat} {s₀ : State} (f : Frame) (s : State) (h_s : Inv fm s₀ s)
    (hm : InSet 13198372894780 fm) :
    OutInv fm s₀ (execFabricAtomicRsp f s) := by
  delta execFabricAtomicRsp
  repeat' first
    | exact inSet_trans rfl hm
    | with_reducible first
      | assumption | (intro) | apply State.receive_inv | apply State.takeResponse_inv | split | apply Inv.ite
      | apply OptInv.ite | apply OutInv.ite | apply OptInv.none | apply OptInv.some | apply OutInv.next
      | refine OptInv.of_eq (by assumption) ?_ | dsimp -iota only | dsimp only

theorem State.receiveAck_inv {fm : Nat} {s₀ : State} (s : State) (type : Nat) (f : Frame) (act : State → State)
    (h_s : Inv fm s₀ s) (h_act : ∀ a0, Inv fm s₀ a0 → Inv fm s₀ (act a0)) (hm : InSet 13196225396796 fm) :
    Inv fm s₀ (State.receiveAck s type f act) := by
  delta State.receiveAck
  repeat' first
    | exact inSet_trans rfl hm
    | with_reducible first
      | assumption | (intro) | apply State.acked_inv | apply State.bump_inv | apply State.setFld_inv | apply h_act
      | apply Inv.ite | split | dsimp -iota only | dsimp only

theorem execFabricAck_inv {fm : Nat} {s₀ : State} (f : Frame) (s : State) (h_s : Inv fm s₀ s)
    (hm : InSet 13196225396796 fm) :
    OutInv fm s₀ (execFabricAck f s) := by
  exact OutInv.next (State.receiveAck_inv _ _ _ _ h_s (fun _ h => h) (inSet_trans rfl hm))

theorem execFabricNak_inv {fm : Nat} {s₀ : State} (f : Frame) (s : State) (h_s : Inv fm s₀ s)
    (hm : InSet 13196225396796 fm) :
    OutInv fm s₀ (execFabricNak f s) := by
  delta execFabricNak
  repeat' first
    | exact inSet_trans rfl hm
    | with_reducible exact Or.inr rfl
    | exact Or.inl (inSet_trans rfl hm)
    | with_reducible first
      | assumption | (intro) | apply State.receiveAck_inv | apply State.resend_inv | apply Inv.ite | apply OutInv.ite
      | apply OutInv.next | apply Upd.of | simp -iota only [Inv.update] | split | dsimp -iota only | dsimp only

theorem execAckTimer_inv {fm : Nat} {s₀ : State} (node lot : BitVec 16) (s : State) (h_s : Inv fm s₀ s)
    (hm : InSet 13196225396796 fm) :
    OutInv fm s₀ (execAckTimer node lot s) := by
  delta execAckTimer
  repeat' first
    | exact inSet_trans rfl hm
    | with_reducible exact Or.inr rfl
    | exact Or.inl (inSet_trans rfl hm)
    | with_reducible first
      | assumption | (intro) | apply State.sendAck_inv | split | apply Inv.ite | apply OutInv.ite | apply OutInv.next
      | apply Upd.of | simp -iota only [Inv.update] | dsimp -iota only | dsimp only

theorem execRetransmitTimeout_inv {fm : Nat} {s₀ : State} (node lot : BitVec 16) (s : State) (h_s : Inv fm s₀ s)
    (hm : InSet 13196225396796 fm) :
    OutInv fm s₀ (execRetransmitTimeout node lot s) := by
  suffices H : ∀ fn_, fn_ = @execRetransmitTimeout → OutInv fm s₀ (fn_ node lot s) from H _ rfl
  intro fn_ hf; delta execRetransmitTimeout at hf; subst hf
  repeat' first
    | exact inSet_trans rfl hm
    | with_reducible exact Or.inr rfl
    | exact Or.inl (inSet_trans rfl hm)
    | with_reducible first
      | assumption | (intro) | apply State.resend_inv | apply Inv.ite | apply OutInv.ite | apply OutInv.next
      | apply Inv.getD | apply Upd.of | simp -iota only [Inv.update] | split | dsimp -iota only | dsimp only

theorem execFlowLost_inv {fm : Nat} {s₀ : State} (node lot : BitVec 16) (s : State) (h_s : Inv fm s₀ s)
    (hm : InSet 13198372894780 fm) :
    OutInv fm s₀ (execFlowLost node lot s) := by
  suffices H : ∀ fn_, fn_ = @execFlowLost → OutInv fm s₀ (fn_ node lot s) from H _ rfl
  intro fn_ hf; delta execFlowLost at hf; subst hf
  repeat' first
    | exact inSet_trans rfl hm
    | with_reducible exact Or.inr rfl
    | exact Or.inl (inSet_trans rfl hm)
    | with_reducible first
      | assumption | (intro) | apply State.bump_inv | apply State.freeFlow_inv | apply State.raise_inv
      | apply State.setFld_inv | apply Inv.ite | apply OutInv.ite | apply OutInv.next | apply Upd.of
      | simp -iota only [Inv.update] | split | dsimp -iota only | dsimp only

theorem execFlowIdleFree_inv {fm : Nat} {s₀ : State} (node lot : BitVec 16) (s : State) (h_s : Inv fm s₀ s)
    (hm : InSet 4194308 fm) :
    OutInv fm s₀ (execFlowIdleFree node lot s) := by
  delta execFlowIdleFree
  repeat' first
    | exact inSet_trans rfl hm
    | with_reducible exact Or.inr rfl
    | exact Or.inl (inSet_trans rfl hm)
    | with_reducible first
      | assumption | (intro) | apply State.setRxFlow_inv | apply State.setTxFlow_inv | apply Inv.ite
      | apply OutInv.ite | apply OutInv.next | apply Upd.of | simp -iota only [Inv.update] | split | dsimp -iota only
      | dsimp only

theorem execFabricPortDown_inv {fm : Nat} {s₀ : State} (p : Fin 4) (s : State) (h_s : Inv fm s₀ s)
    (hm : InSet 13196231688252 fm) :
    OutInv fm s₀ (execFabricPortDown p s) := by
  delta execFabricPortDown
  repeat' first
    | exact inSet_trans rfl hm
    | with_reducible exact Or.inr rfl
    | exact Or.inl (inSet_trans rfl hm)
    | with_reducible first
      | assumption | (intro) | apply State.bump_inv | apply State.holdover_inv | apply State.raise_inv
      | apply State.sendFaultRpt_inv | apply State.setFld_inv | apply State.showClock_inv | split | apply Inv.ite
      | apply OutInv.ite | apply OutInv.next | apply Upd.of | simp -iota only [Inv.update] | dsimp -iota only
      | dsimp only

theorem execFabricPortUp_inv {fm : Nat} {s₀ : State} (p : Fin 4) (s : State) (h_s : Inv fm s₀ s)
    (hm : InSet 13196221202492 fm) :
    OutInv fm s₀ (execFabricPortUp p s) := by
  delta execFabricPortUp
  repeat' first
    | exact inSet_trans rfl hm
    | with_reducible first
      | assumption | (intro) | apply State.setFld_inv | apply State.showClock_inv | apply Inv.ite | apply OutInv.ite
      | apply OutInv.next | split | dsimp -iota only | dsimp only

theorem execLotAdd_inv {fm : Nat} {s₀ : State} (index : BitVec 6) (row : BitVec 48) (s : State) (h_s : Inv fm s₀ s)
    (hm : InSet 13196225396796 fm) :
    OutInv fm s₀ (execLotAdd index row s) := by
  delta execLotAdd
  repeat' first
    | exact inSet_trans rfl hm
    | with_reducible first
      | assumption | (intro) | apply State.range_inv | (apply PairInv.snd; apply State.range_inv)
      | apply State.setFld_inv | apply State.setFlds_inv | apply State.setLotCmd_inv | apply Inv.ite
      | apply PairInv.ite | (apply PairInv.snd; apply PairInv.ite) | apply OutInv.ite | apply OutInv.next
      | simp -iota only [PairInv.mk'] | split | refine PairInv.of_eq (by assumption) ?_ | dsimp -iota only
      | dsimp only

theorem execLotBindoff_inv {fm : Nat} {s₀ : State} (index : BitVec 6) (row : BitVec 48) (s : State)
    (h_s : Inv fm s₀ s) (hm : InSet 4194308 fm) :
    OutInv fm s₀ (execLotBindoff index row s) := by
  delta execLotBindoff
  repeat' first
    | exact inSet_trans rfl hm
    | with_reducible first
      | assumption | (intro) | apply State.setFld_inv | apply State.setLotCmd_inv | apply Inv.ite | apply OutInv.ite
      | apply OutInv.next | split | dsimp -iota only | dsimp only

theorem execLotRemoved_inv {fm : Nat} {s₀ : State} (k : Fin 64) (s : State) (h_s : Inv fm s₀ s)
    (hm : InSet 13198372894780 fm) :
    OutInv fm s₀ (execLotRemoved k s) := by
  delta execLotRemoved
  repeat' first
    | exact inSet_trans rfl hm
    | with_reducible first
      | assumption | (intro) | apply State.lotFree_inv | apply Inv.ite | apply OutInv.ite | apply OutInv.next | split
      | dsimp -iota only | dsimp only

theorem execBindoffForced_inv {fm : Nat} {s₀ : State} (k : Fin 64) (s : State) (h_s : Inv fm s₀ s)
    (hm : InSet 13198372894780 fm) :
    OutInv fm s₀ (execBindoffForced k s) := by
  delta execBindoffForced
  repeat' first
    | exact inSet_trans rfl hm
    | with_reducible first
      | assumption | (intro) | apply State.lotFree_inv | apply State.raise_inv | apply State.setFld_inv
      | apply Inv.ite | apply OutInv.ite | apply OutInv.next | split | dsimp -iota only | dsimp only

theorem execPtpSync_inv {fm : Nat} {s₀ : State} (offset : Int) (s : State) (h_s : Inv fm s₀ s)
    (hm : InSet 13221999394878 fm) :
    OutInv fm s₀ (execPtpSync offset s) := by
  delta execPtpSync
  repeat' first
    | exact inSet_trans rfl hm
    | with_reducible exact Or.inr rfl
    | exact Or.inl (inSet_trans rfl hm)
    | with_reducible first
      | assumption | (intro) | apply State.bump_inv | apply State.lock_inv | apply State.setFld_inv
      | apply State.stepTime_inv | apply Inv.ite | apply OutInv.ite | apply OutInv.next | apply Upd.of
      | simp -iota only [Inv.update] | split | dsimp -iota only | dsimp only

theorem execPtpMessage_inv {fm : Nat} {s₀ : State} (gm : BitVec 64) (s : State) (h_s : Inv fm s₀ s)
    (hm : InSet 13196229591100 fm) :
    OutInv fm s₀ (execPtpMessage gm s) := by
  delta execPtpMessage
  repeat' first
    | exact inSet_trans rfl hm
    | with_reducible first
      | assumption | (intro) | apply State.bump_inv | apply State.holdover_inv | apply State.setFld_inv
      | apply Inv.ite | apply OutInv.ite | apply OutInv.next | split | dsimp -iota only | dsimp only

theorem execPtpHoldover_inv {fm : Nat} {s₀ : State} (s : State) (h_s : Inv fm s₀ s) (hm : InSet 13196229591100 fm) :
    OutInv fm s₀ (execPtpHoldover s) := by
  delta execPtpHoldover
  repeat' first
    | exact inSet_trans rfl hm
    | with_reducible first
      | assumption | (intro) | apply State.holdover_inv | apply Inv.ite | apply OutInv.ite | apply OutInv.next
      | split | dsimp -iota only | dsimp only

theorem execPpsEdge_inv {fm : Nat} {s₀ : State} (offset : Int) (s : State) (h_s : Inv fm s₀ s)
    (hm : InSet 13196229591102 fm) :
    OutInv fm s₀ (execPpsEdge offset s) := by
  unfold execPpsEdge
  generalize clampInt (-offset) (-20) 20 = d
  generalize (10000 : Int) = k
  repeat' first
    | exact inSet_trans rfl hm
    | with_reducible exact Or.inr rfl
    | exact Or.inl (inSet_trans rfl hm)
    | with_reducible first
      | assumption | (intro) | apply State.bump_inv | apply State.setFld_inv | apply OutInv.ite | apply OutInv.next
      | apply Upd.of | simp -iota only [Inv.update]

theorem execPpsLost_inv {fm : Nat} {s₀ : State} (s : State) (h_s : Inv fm s₀ s) (hm : InSet 13196221202492 fm) :
    OutInv fm s₀ (execPpsLost s) := by
  delta execPpsLost
  repeat' first
    | exact inSet_trans rfl hm
    | with_reducible first
      | assumption | (intro) | apply State.raise_inv | apply State.setFld_inv | apply Inv.ite | apply OutInv.ite
      | apply OutInv.next | split | dsimp -iota only | dsimp only

theorem execTsTimeLoRead_inv {fm : Nat} {s₀ : State} (s : State) (h_s : Inv fm s₀ s) (hm : InSet 4 fm) :
    OutInv fm s₀ (execTsTimeLoRead s) := by
  suffices H : ∀ fn_, fn_ = @execTsTimeLoRead → OutInv fm s₀ (fn_ s) from H _ rfl
  intro fn_ hf; delta execTsTimeLoRead at hf; subst hf
  repeat' first
    | exact inSet_trans rfl hm
    | with_reducible first
      | assumption | (intro) | apply State.setFld_inv | split | apply Inv.ite | apply OutInv.ite | apply OutInv.next
      | dsimp -iota only | dsimp only

end Sys2Proof.Machine
end

