-- ==== Sys2Proof/Laws/InvStacks.lean ====
section
/-!
SUPPORT. Laws/InvStacks.lean: the operations of Machine/Stacks.lean write only the fields named, and keep memories canonical.
-/

set_option simprocs false
set_option linter.unusedSimpArgs false
set_option linter.unusedVariables false

namespace Sys2Proof.Machine

theorem State.stackTemp_inv {fm : Nat} {s₀ : State} (s : State) (k t : Nat) (h_s : Inv fm s₀ s)
    (hm : InSet 13196221202492 fm) :
    Inv fm s₀ (State.stackTemp s k t) := by
  suffices H : ∀ fn_, fn_ = @State.stackTemp → Inv fm s₀ (fn_ s k t) from H _ rfl
  intro fn_ hf; delta State.stackTemp at hf; subst hf
  repeat' first
    | exact inSet_trans rfl hm
    | with_reducible exact Or.inr rfl
    | exact Or.inl (inSet_trans rfl hm)
    | with_reducible first
      | assumption | (intro) | apply State.onCtl_inv | apply State.raise_inv | apply State.setFld_inv
      | apply State.setFlds_inv | split | apply Inv.ite | apply Upd.of | simp -iota only [Inv.update]

theorem execStackTempRead_inv {fm : Nat} {s₀ : State} (s' : Stack) (temp : Option (BitVec 8)) (s : State)
    (h_s : Inv fm s₀ s) (hm : InSet 13196221202492 fm) :
    OutInv fm s₀ (execStackTempRead s' temp s) := by
  suffices H : ∀ fn_, fn_ = @execStackTempRead → OutInv fm s₀ (fn_ s' temp s) from H _ rfl
  intro fn_ hf; delta execStackTempRead at hf; subst hf
  repeat' first
    | exact inSet_trans rfl hm
    | with_reducible exact Or.inr rfl
    | exact Or.inl (inSet_trans rfl hm)
    | with_reducible first
      | assumption | (intro) | apply State.onCtl_inv | apply State.sendFaultRpt_inv | apply State.stackTemp_inv
      | apply Inv.ite | apply OutInv.ite | apply OutInv.next | apply Upd.of | simp -iota only [Inv.update] | split
      | dsimp -iota only | dsimp only

theorem execStackPowerSample_inv {fm : Nat} {s₀ : State} (s' : Stack) (mw : BitVec 32) (s : State) (h_s : Inv fm s₀ s)
    (hm : InSet 13213401071676 fm) :
    OutInv fm s₀ (execStackPowerSample s' mw s) := by
  delta execStackPowerSample
  repeat' first
    | exact inSet_trans rfl hm
    | with_reducible exact Or.inr rfl
    | exact Or.inl (inSet_trans rfl hm)
    | with_reducible first
      | assumption | (intro) | apply State.bump_inv | apply State.onCtl_inv | apply State.onSched_inv
      | apply State.setFld_inv | apply Inv.ite | apply OutInv.ite | apply OutInv.next | apply Upd.of
      | simp -iota only [Inv.update] | split | dsimp -iota only | dsimp only

theorem execPerBankRefresh_inv {fm : Nat} {s₀ : State} (s' : Stack) (pc : BitVec 6) (bank : BitVec 6) (s : State)
    (h_s : Inv fm s₀ s) (hm : InSet 131072 fm) :
    OutInv fm s₀ (execPerBankRefresh s' pc bank s) := by
  delta execPerBankRefresh
  repeat' first
    | exact inSet_trans rfl hm
    | with_reducible exact Or.inr rfl
    | exact Or.inl (inSet_trans rfl hm)
    | with_reducible first
      | assumption | (intro) | apply State.onCtl_inv | apply Inv.ite | apply OutInv.ite | apply OutInv.next
      | apply Upd.of | simp -iota only [Inv.update] | split | dsimp -iota only | dsimp only

theorem execRfm_inv {fm : Nat} {s₀ : State} (s' : Stack) (pc : BitVec 6) (bank : BitVec 6) (threshold : BitVec 16)
    (s : State) (h_s : Inv fm s₀ s) (hm : InSet 13196221202492 fm) :
    OutInv fm s₀ (execRfm s' pc bank threshold s) := by
  delta execRfm
  repeat' first
    | exact inSet_trans rfl hm
    | with_reducible exact Or.inr rfl
    | exact Or.inl (inSet_trans rfl hm)
    | with_reducible first
      | assumption | (intro) | apply State.bump_inv | apply State.onCtl_inv | apply Inv.ite | apply OutInv.ite
      | apply OutInv.next | apply Upd.of | simp -iota only [Inv.update] | split | dsimp -iota only | dsimp only

theorem execPatrolScrub_inv {fm : Nat} {s₀ : State} (s' : Stack) (pc : BitVec 6) (s : State) (h_s : Inv fm s₀ s)
    (hm : InSet 13196221202492 fm) :
    OutInv fm s₀ (execPatrolScrub s' pc s) := by
  delta execPatrolScrub
  repeat' first
    | exact inSet_trans rfl hm
    | with_reducible exact Or.inr rfl
    | exact Or.inl (inSet_trans rfl hm)
    | with_reducible first
      | assumption | (intro) | apply State.bump_inv | apply State.granuleRead_inv | apply State.onCtl_inv
      | apply Inv.ite | apply OutInv.ite | apply OutInv.next | apply Upd.of | simp -iota only [Inv.update] | split
      | dsimp -iota only | dsimp only

theorem execSoftRepair_inv {fm : Nat} {s₀ : State} (s' : Stack) (pc : BitVec 6) (row : BitVec 14) (sid : BitVec 2)
    (bank : BitVec 4) (repairLeft : Bool) (s : State) (h_s : Inv fm s₀ s) (hm : InSet 13196221464636 fm) :
    OutInv fm s₀ (execSoftRepair s' pc row sid bank repairLeft s) := by
  delta execSoftRepair
  repeat' first
    | exact inSet_trans rfl hm
    | with_reducible exact Or.inr rfl
    | exact Or.inl (inSet_trans rfl hm)
    | with_reducible first
      | assumption | (intro) | apply State.bump_inv | apply State.granuleRead_inv | apply State.onCtl_inv
      | apply State.range_inv | (apply PairInv.snd; apply State.range_inv) | apply State.sendFaultRpt_inv
      | apply Inv.ite | apply PairInv.ite | (apply PairInv.snd; apply PairInv.ite) | apply OutInv.ite
      | apply OutInv.next | apply Inv.foldl | apply Upd.of | simp -iota only [Inv.update, PairInv.mk'] | split
      | refine PairInv.of_eq (by assumption) ?_ | dsimp -iota only | dsimp only

theorem State.streak_inv {fm : Nat} {s₀ : State} (s : State) (k mean p : Nat) (h_s : Inv fm s₀ s)
    (hm : InSet 13196221202492 fm) :
    Inv fm s₀ (State.streak s k mean p) := by
  delta State.streak
  repeat' first
    | exact inSet_trans rfl hm
    | with_reducible first
      | assumption | (intro) | apply State.raise_inv | apply State.setFld_inv | apply Inv.ite | split
      | dsimp -iota only | dsimp only

theorem execHotMean_inv {fm : Nat} {s₀ : State} (s' : Stack) (mean : BitVec 32) (s : State) (h_s : Inv fm s₀ s)
    (hm : InSet 13196221202492 fm) :
    OutInv fm s₀ (execHotMean s' mean s) := by
  delta execHotMean
  repeat' first
    | exact inSet_trans rfl hm
    | with_reducible first
      | assumption | (intro) | apply State.range_inv | (apply PairInv.snd; apply State.range_inv)
      | apply State.streak_inv | apply Inv.ite | apply PairInv.ite | (apply PairInv.snd; apply PairInv.ite)
      | apply OutInv.ite | apply OutInv.next | apply Inv.foldl | simp -iota only [PairInv.mk'] | split
      | refine PairInv.of_eq (by assumption) ?_ | dsimp -iota only | dsimp only

theorem execEvacSegmentCopy_inv {fm : Nat} {s₀ : State} (s : State) (h_s : Inv fm s₀ s) (hm : InSet 13196221464636 fm) :
    OutInv fm s₀ (execEvacSegmentCopy s) := by
  delta execEvacSegmentCopy
  repeat' first
    | exact inSet_trans rfl hm
    | with_reducible exact Or.inr rfl
    | exact Or.inl (inSet_trans rfl hm)
    | with_reducible first
      | assumption | (intro) | apply State.copySegment_inv | apply Inv.ite | apply OutInv.ite | apply OutInv.next
      | apply Upd.of | simp -iota only [Inv.update] | split | dsimp -iota only | dsimp only

theorem execEvacSegmentCommit_inv {fm : Nat} {s₀ : State} (s : State) (h_s : Inv fm s₀ s)
    (hm : InSet 13196223562300 fm) :
    OutInv fm s₀ (execEvacSegmentCommit s) := by
  delta execEvacSegmentCommit
  repeat' first
    | exact inSet_trans rfl hm
    | with_reducible exact Or.inr rfl
    | exact Or.inl (inSet_trans rfl hm)
    | with_reducible first
      | assumption | (intro) | apply State.endEvac_inv | apply State.endStack_inv | apply State.redirectSegment_inv
      | apply State.setFld_inv | apply Inv.ite | apply OutInv.ite | apply OutInv.next | apply Upd.of
      | simp -iota only [Inv.update] | split | dsimp -iota only | dsimp only

theorem execHbInjectArm_inv {fm : Nat} {s₀ : State} (s' : Stack) (v : BitVec 32) (s : State) (h_s : Inv fm s₀ s)
    (hm : InSet 4 fm) :
    OutInv fm s₀ (execHbInjectArm s' v s) := by
  delta execHbInjectArm
  repeat' first
    | exact inSet_trans rfl hm
    | with_reducible first
      | assumption | (intro) | apply State.setReg_inv | apply Inv.ite | apply OutInv.ite | apply OutInv.next | split
      | dsimp -iota only | dsimp only

theorem execHbTgenStart_inv {fm : Nat} {s₀ : State} (s' : Stack) (pc : BitVec 6) (v : BitVec 32) (s : State)
    (h_s : Inv fm s₀ s) (hm : InSet 4 fm) :
    OutInv fm s₀ (execHbTgenStart s' pc v s) := by
  delta execHbTgenStart
  repeat' first
    | exact inSet_trans rfl hm
    | with_reducible first
      | assumption | (intro) | apply State.setFld_inv | apply State.setFlds_inv | apply Inv.ite | apply OutInv.ite
      | apply OutInv.next | split | dsimp -iota only | dsimp only

theorem execHbTgenDone_inv {fm : Nat} {s₀ : State} (s' : Stack) (pc : BitVec 6) (miscompare ecc : BitVec 64)
    (firstBad : Option (BitVec 22)) (s : State) (h_s : Inv fm s₀ s) (hm : InSet 13196221202492 fm) :
    OutInv fm s₀ (execHbTgenDone s' pc miscompare ecc firstBad s) := by
  delta execHbTgenDone
  repeat' first
    | exact inSet_trans rfl hm
    | with_reducible exact Or.inr rfl
    | exact Or.inl (inSet_trans rfl hm)
    | with_reducible first
      | assumption | (intro) | apply State.bump_inv | apply State.bumpPlain_inv | apply State.setFlds_inv
      | apply Inv.ite | apply OutInv.ite | apply OutInv.next | apply Upd.of | simp -iota only [Inv.update] | split
      | dsimp -iota only | dsimp only

theorem execBurstDone_inv {fm : Nat} {s₀ : State} (s' : Stack) (pc : BitVec 6) (r : BurstReq) (s : State)
    (h_s : Inv fm s₀ s) (hm : InSet 13196254756924 fm) :
    OutInv fm s₀ (execBurstDone s' pc r s) := by
  delta execBurstDone
  repeat' first
    | exact inSet_trans rfl hm
    | with_reducible exact Or.inr rfl
    | exact Or.inl (inSet_trans rfl hm)
    | with_reducible first
      | assumption | (intro) | apply State.activateBank_inv | apply State.burstMade_inv | apply State.burstRead_inv
      | apply State.burstWrite_inv | apply State.upset_inv | apply Inv.ite | apply OutInv.ite | apply OutInv.next
      | apply Upd.of | simp -iota only [Inv.update] | split | dsimp -iota only | dsimp only

end Sys2Proof.Machine
end

