-- ==== Sys2Proof/Laws/InvRecovery.lean ====
section
/-!
SUPPORT. Laws/InvRecovery.lean: the operations of Machine/Recovery.lean write only the fields named, and keep memories canonical.
-/

set_option simprocs false
set_option linter.unusedSimpArgs false
set_option linter.unusedVariables false

namespace Sys2Proof.Machine

theorem execFaultRpt_inv {fm : Nat} {s₀ : State} (kind : BitVec 3) (id : BitVec 12) (cause : BitVec 8) (s : State)
    (h_s : Inv fm s₀ s) (hm : InSet 13224149776444 fm) :
    OutInv fm s₀ (execFaultRpt kind id cause s) := by
  delta execFaultRpt
  repeat' first
    | exact inSet_trans rfl hm
    | with_reducible first
      | assumption | (intro) | apply State.faultArrive_inv | apply Inv.ite | apply OutInv.ite | apply OutInv.next
      | split | dsimp -iota only | dsimp only

theorem execSequencerTakeEntry_inv {fm : Nat} {s₀ : State} (s : State) (h_s : Inv fm s₀ s)
    (hm : InSet 13224153971772 fm) :
    OutInv fm s₀ (execSequencerTakeEntry s) := by
  delta execSequencerTakeEntry
  repeat' first
    | exact inSet_trans rfl hm
    | with_reducible exact Or.inr rfl
    | exact Or.inl (inSet_trans rfl hm)
    | with_reducible first
      | assumption | (intro) | apply State.takeDomain_inv | apply Inv.ite | apply OutInv.ite | apply OutInv.next
      | apply Upd.of | simp -iota only [Inv.update] | split | dsimp -iota only | dsimp only

theorem execMotifDrained_inv {fm : Nat} {s₀ : State} (s : State) (h_s : Inv fm s₀ s) (hm : InSet 13215550667836 fm) :
    OutInv fm s₀ (execMotifDrained s) := by
  delta execMotifDrained
  repeat' first
    | exact inSet_trans rfl hm
    | with_reducible exact Or.inr rfl
    | exact Or.inl (inSet_trans rfl hm)
    | exact fun _ => rfl
    | with_reducible first
      | assumption | exact locals_wf _ _ (memWrite_wf _ _ _) | exact locals_wf _ [] (fun _ => rfl) | (intro)
      | apply State.drainCache_inv | apply State.loseCache_inv | apply State.loseMotif_inv
      | apply State.sendChain_inv | apply State.setArray_inv | apply State.setRecovery_inv | apply State.takeFree_inv
      | (apply PairInv.snd; apply State.takeFree_inv) | apply Inv.ite | apply PairInv.ite
      | (apply PairInv.snd; apply PairInv.ite) | apply OutInv.ite | apply OutInv.next | apply Upd.of
      | simp -iota only [Inv.update, PairInv.mk'] | split | refine PairInv.of_eq (by assumption) ?_
      | dsimp -iota only | dsimp only

theorem execMotifSelfTestDone_inv {fm : Nat} {s₀ : State} (pass : Bool) (s : State) (h_s : Inv fm s₀ s)
    (hm : InSet 13224149514300 fm) :
    OutInv fm s₀ (execMotifSelfTestDone pass s) := by
  delta execMotifSelfTestDone
  repeat' first
    | exact inSet_trans rfl hm
    | with_reducible exact Or.inr rfl
    | exact Or.inl (inSet_trans rfl hm)
    | with_reducible first
      | assumption | (intro) | apply State.endRecovery_inv | apply State.isolate_inv | apply State.issueAll_inv
      | apply State.raise_inv | apply State.setRecovery_inv | apply Inv.ite | apply OutInv.ite | apply OutInv.next
      | apply Upd.of | simp -iota only [Inv.update] | split | dsimp -iota only | dsimp only

theorem execRecoveryEnd_inv {fm : Nat} {s₀ : State} (ok : Bool) (s : State) (h_s : Inv fm s₀ s)
    (hm : InSet 13224149514300 fm) :
    OutInv fm s₀ (execRecoveryEnd ok s) := by
  delta execRecoveryEnd
  repeat' first
    | exact inSet_trans rfl hm
    | with_reducible exact Or.inr rfl
    | exact Or.inl (inSet_trans rfl hm)
    | with_reducible first
      | assumption | (intro) | apply State.endRecovery_inv | apply State.fetchAgain_inv | apply State.isolate_inv
      | apply State.nodeFatal_inv | apply Inv.ite | apply OutInv.ite | apply OutInv.next | apply Upd.of
      | simp -iota only [Inv.update] | split | dsimp -iota only | dsimp only

theorem execHbGrant_inv {fm : Nat} {s₀ : State} (v : BitVec 32) (s : State) (h_s : Inv fm s₀ s)
    (hm : InSet 13196223299644 fm) :
    OutInv fm s₀ (execHbGrant v s) := by
  delta execHbGrant
  repeat' first
    | exact inSet_trans rfl hm
    | with_reducible exact Or.inr rfl
    | exact Or.inl (inSet_trans rfl hm)
    | with_reducible first
      | assumption | (intro) | apply State.cleanRegion_inv | apply State.setFlds_inv | apply State.setRecovery_inv
      | apply Inv.ite | apply OutInv.ite | apply OutInv.next | apply Upd.of | simp -iota only [Inv.update] | split
      | dsimp -iota only | dsimp only

end Sys2Proof.Machine
end

