-- ==== Sys2Proof/Laws/InvFaults.lean ====
section
/-!
SUPPORT. Laws/InvFaults.lean: the operations of Machine/Faults.lean write only the fields named, and keep memories canonical.
-/

set_option simprocs false
set_option linter.unusedSimpArgs false
set_option linter.unusedVariables false

namespace Sys2Proof.Machine

theorem execFaultReport_inv {fm : Nat} {s₀ : State} (m : Mesh) (f : AgentFault) (s : State) (h_s : Inv fm s₀ s)
    (hm : InSet 13196221202492 fm) :
    OutInv fm s₀ (execFaultReport m f s) := by
  delta execFaultReport
  repeat' first
    | exact inSet_trans rfl hm
    | with_reducible exact Or.inr rfl
    | exact Or.inl (inSet_trans rfl hm)
    | with_reducible first
      | assumption | (intro) | apply State.collect_inv | apply State.showTu_inv | apply Inv.ite | apply OutInv.ite
      | apply OutInv.next | apply Upd.of | simp -iota only [Inv.update] | split | dsimp -iota only | dsimp only

theorem execFaultWindowClose_inv {fm : Nat} {s₀ : State} (entry : BitVec 8) (s : State) (h_s : Inv fm s₀ s)
    (hm : InSet 13196221202492 fm) :
    OutInv fm s₀ (execFaultWindowClose entry s) := by
  delta execFaultWindowClose
  repeat' first
    | exact inSet_trans rfl hm
    | with_reducible exact Or.inr rfl
    | exact Or.inl (inSet_trans rfl hm)
    | with_reducible first
      | assumption | (intro) | apply State.fringGo_inv | apply Inv.ite | apply OutInv.ite | apply OutInv.next
      | apply Upd.of | simp -iota only [Inv.update] | split | dsimp -iota only | dsimp only

theorem execFaultResume_inv {fm : Nat} {s₀ : State} (entry gen : BitVec 8) (s : State) (h_s : Inv fm s₀ s)
    (hm : InSet 13215548569660 fm) :
    OutInv fm s₀ (execFaultResume entry gen s) := by
  delta execFaultResume
  repeat' first
    | exact inSet_trans rfl hm
    | with_reducible exact Or.inr rfl
    | exact Or.inl (inSet_trans rfl hm)
    | with_reducible first
      | assumption | (intro) | apply State.freeEntry_inv | apply State.fringGo_inv | apply State.refusedAgain_inv
      | apply State.resumeAgent_inv | apply State.setFld_inv | apply Inv.ite | apply OutInv.ite | apply OutInv.next
      | apply Inv.foldl | apply Upd.of | simp -iota only [Inv.update] | split | dsimp -iota only | dsimp only

theorem execFaultAbort_inv {fm : Nat} {s₀ : State} (entry gen : BitVec 8) (s : State) (h_s : Inv fm s₀ s)
    (hm : InSet 13215548570684 fm) :
    OutInv fm s₀ (execFaultAbort entry gen s) := by
  delta execFaultAbort
  repeat' first
    | exact inSet_trans rfl hm
    | with_reducible exact Or.inr rfl
    | exact Or.inl (inSet_trans rfl hm)
    | with_reducible first
      | assumption | (intro) | apply State.abortAgent_inv | apply State.freeEntry_inv | apply State.fringGo_inv
      | apply State.refusedAgain_inv | apply State.setFld_inv | apply Inv.ite | apply OutInv.ite | apply OutInv.next
      | apply Inv.foldl | apply Upd.of | simp -iota only [Inv.update] | split | dsimp -iota only | dsimp only

theorem execInvPage_inv {fm : Nat} {s₀ : State} (asid : BitVec 12) (s : State) (h_s : Inv fm s₀ s)
    (hm : InSet 671088644 fm) :
    OutInv fm s₀ (execInvPage asid s) := by
  delta execInvPage
  repeat' first
    | exact inSet_trans rfl hm
    | with_reducible first
      | assumption | (intro) | apply State.queueInval_inv | apply Inv.ite | apply OutInv.ite | apply OutInv.next
      | split | dsimp -iota only | dsimp only

theorem execInvRange_inv {fm : Nat} {s₀ : State} (pages : BitVec 17) (asid : BitVec 12) (s : State)
    (h_s : Inv fm s₀ s) (hm : InSet 671088644 fm) :
    OutInv fm s₀ (execInvRange pages asid s) := by
  delta execInvRange
  repeat' first
    | exact inSet_trans rfl hm
    | with_reducible first
      | assumption | (intro) | apply State.queueInval_inv | apply Inv.ite | apply OutInv.ite | apply OutInv.next
      | split | dsimp -iota only | dsimp only

theorem execInvAsid_inv {fm : Nat} {s₀ : State} (asid : BitVec 12) (s : State) (h_s : Inv fm s₀ s)
    (hm : InSet 671088644 fm) :
    OutInv fm s₀ (execInvAsid asid s) := by
  delta execInvAsid
  repeat' first
    | exact inSet_trans rfl hm
    | with_reducible first
      | assumption | (intro) | apply State.queueInval_inv | apply Inv.ite | apply OutInv.ite | apply OutInv.next
      | split | dsimp -iota only | dsimp only

theorem execInvAll_inv {fm : Nat} {s₀ : State} (s : State) (h_s : Inv fm s₀ s) (hm : InSet 671088644 fm) :
    OutInv fm s₀ (execInvAll s) := by
  delta execInvAll
  repeat' first
    | exact inSet_trans rfl hm
    | with_reducible first
      | assumption | (intro) | apply State.queueInval_inv | apply Inv.ite | apply OutInv.ite | apply OutInv.next
      | split | dsimp -iota only | dsimp only

theorem execTlbInv_inv {fm : Nat} {s₀ : State} (die : Mesh) (seq : BitVec 16) (s : State) (h_s : Inv fm s₀ s)
    (hm : InSet 671088640 fm) :
    OutInv fm s₀ (execTlbInv die seq s) := by
  delta execTlbInv
  repeat' first
    | exact inSet_trans rfl hm
    | with_reducible exact Or.inr rfl
    | exact Or.inl (inSet_trans rfl hm)
    | with_reducible first
      | assumption | (intro) | apply State.applyInval_inv | apply State.sendFrom_inv | apply Inv.ite
      | apply OutInv.ite | apply OutInv.next | apply Upd.of | simp -iota only [Inv.update] | split | dsimp -iota only
      | dsimp only

theorem execInvDone_inv {fm : Nat} {s₀ : State} (die : Mesh) (seq : BitVec 16) (s : State) (h_s : Inv fm s₀ s)
    (hm : InSet 13196221202492 fm) :
    OutInv fm s₀ (execInvDone die seq s) := by
  delta execInvDone
  repeat' first
    | exact inSet_trans rfl hm
    | with_reducible exact Or.inr rfl
    | exact Or.inl (inSet_trans rfl hm)
    | with_reducible first
      | assumption | (intro) | apply State.invalsDone_inv | apply Inv.ite | apply OutInv.ite | apply OutInv.next
      | apply Upd.of | simp -iota only [Inv.update] | split | dsimp -iota only | dsimp only

theorem execTuFringCiWrite_inv {fm : Nat} {s₀ : State} (v : BitVec 32) (s : State) (h_s : Inv fm s₀ s)
    (hm : InSet 13196221202492 fm) :
    OutInv fm s₀ (execTuFringCiWrite v s) := by
  delta execTuFringCiWrite
  repeat' first
    | exact inSet_trans rfl hm
    | with_reducible first
      | assumption | (intro) | apply State.fringGo_inv | apply State.setFld_inv | apply Inv.ite | apply OutInv.ite
      | apply OutInv.next | split | dsimp -iota only | dsimp only

theorem execTuFringBaseWrite_inv {fm : Nat} {s₀ : State} (v : BitVec 64) (s : State) (h_s : Inv fm s₀ s)
    (hm : InSet 13196221202492 fm) :
    OutInv fm s₀ (execTuFringBaseWrite v s) := by
  delta execTuFringBaseWrite
  repeat' first
    | exact inSet_trans rfl hm
    | with_reducible exact Or.inr rfl
    | exact Or.inl (inSet_trans rfl hm)
    | with_reducible first
      | assumption | (intro) | apply State.fringGo_inv | apply State.setFld_inv | apply State.setFlds_inv
      | apply State.setReg_inv | apply Inv.ite | apply OutInv.ite | apply OutInv.next | apply Upd.of
      | simp -iota only [Inv.update] | split | dsimp -iota only | dsimp only

end Sys2Proof.Machine
end

