-- ==== Sys2Proof/Laws/InvRegOps.lean ====
section
/-!
SUPPORT. Laws/InvRegOps.lean: the operations of Machine/RegOps.lean write only the fields named, and keep memories canonical.
-/

set_option simprocs false
set_option linter.unusedSimpArgs false
set_option linter.unusedVariables false

namespace Sys2Proof.Machine

theorem State.pairLatch_inv {fm : Nat} {s₀ : State} (s : State) (a : Nat) (h_s : Inv fm s₀ s) (hm : InSet 4 fm) :
    Inv fm s₀ (State.pairLatch s a) := by
  delta State.pairLatch
  repeat' first
    | exact inSet_trans rfl hm
    | with_reducible first
      | assumption | (intro) | apply State.setFld_inv | apply State.setFlds_inv | apply Inv.ite | split
      | dsimp -iota only | dsimp only

theorem State.read4_inv {fm : Nat} {s₀ : State} (s : State) (path : AccessPath) (a : Nat) (h_s : Inv fm s₀ s)
    (hm : InSet 4294967300 fm) :
    PairInv fm s₀ (State.read4 s path a) := by
  delta State.read4
  repeat' first
    | exact inSet_trans rfl hm
    | with_reducible exact Or.inr rfl
    | exact Or.inl (inSet_trans rfl hm)
    | with_reducible first
      | assumption | (intro) | apply State.latchLow_inv | apply State.pairLatch_inv | apply Inv.ite
      | apply PairInv.ite | (apply PairInv.snd; apply PairInv.ite) | apply Upd.of
      | simp -iota only [Inv.update, PairInv.mk'] | split | refine PairInv.of_eq (by assumption) ?_
      | dsimp -iota only | dsimp only

theorem State.read8_inv {fm : Nat} {s₀ : State} (s : State) (path : AccessPath) (a : Nat) (h_s : Inv fm s₀ s)
    (hm : InSet 4294967300 fm) :
    PairInv fm s₀ (State.read8 s path a) := by
  delta State.read8
  repeat' first
    | exact inSet_trans rfl hm
    | with_reducible exact Or.inr rfl
    | exact Or.inl (inSet_trans rfl hm)
    | with_reducible first
      | assumption | (intro) | apply State.read4_inv | (apply PairInv.snd; apply State.read4_inv) | apply Inv.ite
      | apply PairInv.ite | (apply PairInv.snd; apply PairInv.ite) | apply Upd.of
      | simp -iota only [Inv.update, PairInv.mk'] | split | refine PairInv.of_eq (by assumption) ?_
      | dsimp -iota only | dsimp only

theorem State.readReg_inv {fm : Nat} {s₀ : State} (s : State) (path : AccessPath) (wide : Bool) (a : Nat)
    (h_s : Inv fm s₀ s) (hm : InSet 4294967300 fm) :
    PairInv fm s₀ (State.readReg s path wide a) := by
  delta State.readReg
  repeat' first
    | exact inSet_trans rfl hm
    | with_reducible first
      | assumption | (intro) | apply State.read4_inv | (apply PairInv.snd; apply State.read4_inv)
      | apply State.read8_inv | (apply PairInv.snd; apply State.read8_inv) | apply Inv.ite | apply PairInv.ite
      | (apply PairInv.snd; apply PairInv.ite) | simp -iota only [PairInv.mk'] | split
      | refine PairInv.of_eq (by assumption) ?_ | dsimp -iota only | dsimp only

theorem State.after_inv {fm : Nat} {s₀ : State} (s : State) (o : Host.Outcome State Fault Refusal) (h_s : Inv fm s₀ s)
    (h_o : OutInv fm s₀ o) (hm : InSet 0 fm) : Inv fm s₀ (State.after s o) := by
  unfold State.after
  split
  · obtain ⟨t, h, ht⟩ := h_o.of
    cases h
    exact ht
  · exact h_s

theorem State.evBase_inv {fm : Nat} {s₀ : State} (s : State) (w : Nat) (h_s : Inv fm s₀ s)
    (hm : InSet 13196221202492 fm) :
    Inv fm s₀ (State.evBase s w) := by
  delta State.evBase
  repeat' first
    | exact inSet_trans rfl hm
    | with_reducible exact Or.inr rfl
    | exact Or.inl (inSet_trans rfl hm)
    | with_reducible first
      | assumption | (intro) | apply State.evDrain_inv | apply State.satDrain_inv | apply State.setFld_inv
      | apply State.setFlds_inv | apply State.setReg_inv | apply Inv.ite | apply Upd.of
      | simp -iota only [Inv.update] | split | dsimp -iota only | dsimp only

theorem State.evCi_inv {fm : Nat} {s₀ : State} (s : State) (w : Nat) (h_s : Inv fm s₀ s)
    (hm : InSet 13196221202492 fm) :
    Inv fm s₀ (State.evCi s w) := by
  delta State.evCi
  repeat' first
    | exact inSet_trans rfl hm
    | with_reducible first
      | assumption | (intro) | apply State.evDrain_inv | apply State.satDrain_inv | apply State.setFld_inv
      | apply Inv.ite | split | dsimp -iota only | dsimp only

theorem State.loopWrite_inv {fm : Nat} {s₀ : State} (s : State) (b : LoopBlock) (v : Nat) (h_s : Inv fm s₀ s)
    (hm : InSet 14020863311932 fm) :
    Inv fm s₀ (State.loopWrite s b v) := by
  delta State.loopWrite
  repeat' first
    | exact inSet_trans rfl hm
    | with_reducible first
      | assumption | (intro) | apply State.loopEnd_inv | apply State.loopStart_inv | apply State.setFld_inv
      | apply Inv.ite | split | dsimp -iota only | dsimp only

theorem State.writeActs_inv {fm : Nat} {s₀ : State} (s : State) (a w kept : Nat) (h_s : Inv fm s₀ s)
    (hm : InSet 17592186044414 fm) :
    OptInv fm s₀ (State.writeActs s a w kept) := by
  delta State.writeActs
  repeat' first
    | exact inSet_trans rfl hm
    | with_reducible exact Or.inr rfl
    | exact Or.inl (inSet_trans rfl hm)
    | with_reducible first
      | assumption | (intro) | apply State.after_inv | apply State.bistStart_inv | apply State.evBase_inv
      | apply State.evCi_inv | apply State.loopWrite_inv | apply State.mboxGo_inv | apply State.satDrain_inv
      | apply State.sendPending_inv | apply State.setReg_inv | apply State.testEnter_inv | apply State.testLeave_inv
      | apply State.testRelease_inv | apply execFaultAbort_inv | apply execFaultResume_inv
      | apply execGaLimitWrite_inv | apply execHbGrant_inv | apply execHbInjectArm_inv | apply execHbTgenStart_inv
      | apply execInvAll_inv | apply execInvAsid_inv | apply execInvPage_inv | apply execInvRange_inv
      | apply execL2PredClear_inv | apply execLotAdd_inv | apply execLotBindoff_inv | apply execMxAccstateWrite_inv
      | apply execPxLostPop_inv | apply execQeAdminCqWrite_inv | apply execQeAdminSqWrite_inv | apply execQeCqDb_inv
      | apply execTuFringBaseWrite_inv | apply execTuFringCiWrite_inv | apply Inv.ite | apply OptInv.ite
      | apply OutInv.ite | apply OptInv.none | apply OptInv.some | apply OutInv.next | apply Upd.of
      | simp -iota only [Inv.update] | split | refine OptInv.of_eq (by assumption) ?_ | dsimp -iota only | dsimp only

theorem State.writeLanes_inv {fm : Nat} {s₀ : State} (s : State) (r : RegRow) (a v lanes : Nat) (h_s : Inv fm s₀ s)
    (hm : InSet 17592186044414 fm) :
    Inv fm s₀ (State.writeLanes s r a v lanes) := by
  delta State.writeLanes
  repeat' first
    | exact inSet_trans rfl hm
    | with_reducible exact Or.inr rfl
    | exact Or.inl (inSet_trans rfl hm)
    | with_reducible first
      | assumption | (intro) | apply State.setReg_inv | apply State.writeActs_inv | apply Inv.ite | apply OptInv.ite
      | apply OptInv.none | apply OptInv.some | apply Upd.of | simp -iota only [Inv.update] | split
      | refine OptInv.of_eq (by assumption) ?_ | dsimp -iota only | dsimp only

theorem State.write4_inv {fm : Nat} {s₀ : State} (s : State) (a v : Nat) (h_s : Inv fm s₀ s)
    (hm : InSet 17592186044414 fm) :
    Inv fm s₀ (State.write4 s a v) := by
  delta State.write4
  repeat' first
    | exact inSet_trans rfl hm
    | with_reducible exact Or.inr rfl
    | exact Or.inl (inSet_trans rfl hm)
    | with_reducible first
      | assumption | (intro) | apply State.writeLanes_inv | apply Inv.ite | apply Upd.of
      | simp -iota only [Inv.update] | split | dsimp -iota only | dsimp only

theorem State.write8_inv {fm : Nat} {s₀ : State} (s : State) (a v : Nat) (h_s : Inv fm s₀ s)
    (hm : InSet 17592186044414 fm) :
    Inv fm s₀ (State.write8 s a v) := by
  delta State.write8
  repeat' first
    | exact inSet_trans rfl hm
    | with_reducible exact Or.inr rfl
    | exact Or.inl (inSet_trans rfl hm)
    | with_reducible first
      | assumption | (intro) | apply State.write4_inv | apply State.writeLanes_inv | apply Inv.ite | apply Upd.of
      | simp -iota only [Inv.update] | split | dsimp -iota only | dsimp only

theorem State.writeReg_inv {fm : Nat} {s₀ : State} (s : State) (wide : Bool) (a v : Nat) (h_s : Inv fm s₀ s)
    (hm : InSet 17592186044414 fm) :
    Inv fm s₀ (State.writeReg s wide a v) := by
  delta State.writeReg
  repeat' first
    | exact inSet_trans rfl hm
    | with_reducible first
      | assumption | (intro) | apply State.write4_inv | apply State.write8_inv | apply Inv.ite | split
      | dsimp -iota only | dsimp only

end Sys2Proof.Machine
end

