-- ==== Sys2Proof/Laws/InvRegisters.lean ====
section
/-!
SUPPORT. Laws/InvRegisters.lean: the operations of Machine/Registers.lean write only the fields named, and keep memories canonical.
-/

set_option simprocs false
set_option linter.unusedSimpArgs false
set_option linter.unusedVariables false

namespace Sys2Proof.Machine

theorem State.answerRead_inv {fm : Nat} {s₀ : State} (s : State) (path : AccessPath) (a v : Nat) (h_s : Inv fm s₀ s)
    (hm : InSet 536870912 fm) :
    Inv fm s₀ (State.answerRead s path a v) := by
  delta State.answerRead
  repeat' first
    | exact inSet_trans rfl hm
    | with_reducible first
      | assumption | (intro) | apply State.send_inv | apply Inv.ite | split | dsimp -iota only | dsimp only

theorem execRegRd_inv {fm : Nat} {s₀ : State} (addr : BitVec 26) (wide : Bool) (s : State) (h_s : Inv fm s₀ s)
    (hm : InSet 4831840260 fm) :
    OutInv fm s₀ (execRegRd addr wide s) := by
  delta execRegRd
  repeat' first
    | exact inSet_trans rfl hm
    | with_reducible first
      | assumption | (intro) | apply State.accTry_inv | apply State.readReg_inv
      | (apply PairInv.snd; apply State.readReg_inv) | apply State.sendFrom_inv | apply Inv.ite | apply PairInv.ite
      | (apply PairInv.snd; apply PairInv.ite) | apply OutInv.ite | apply OutInv.next | simp -iota only [PairInv.mk']
      | split | refine PairInv.of_eq (by assumption) ?_ | dsimp -iota only | dsimp only

theorem execRegWr_inv {fm : Nat} {s₀ : State} (addr : BitVec 26) (wide : Bool) (v : BitVec 64) (s : State)
    (h_s : Inv fm s₀ s) (hm : InSet 17592186044414 fm) :
    OutInv fm s₀ (execRegWr addr wide v s) := by
  delta execRegWr
  repeat' first
    | exact inSet_trans rfl hm
    | with_reducible first
      | assumption | (intro) | apply State.writeReg_inv | apply Inv.ite | apply OutInv.ite | apply OutInv.next
      | split | dsimp -iota only | dsimp only

theorem execRegRsp_inv {fm : Nat} {s₀ : State} (addr : BitVec 26) (x10 : Bool) (v : BitVec 64) (s : State)
    (h_s : Inv fm s₀ s) (hm : InSet 536870912 fm) :
    OutInv fm s₀ (execRegRsp addr x10 v s) := by
  delta execRegRsp
  repeat' first
    | exact inSet_trans rfl hm
    | with_reducible first
      | assumption | (intro) | apply State.answerRead_inv | apply Inv.ite | apply OutInv.ite | apply OutInv.next
      | split | dsimp -iota only | dsimp only

theorem execRegTimeout_inv {fm : Nat} {s₀ : State} (addr : BitVec 26) (wide : Bool) (s : State) (h_s : Inv fm s₀ s)
    (hm : InSet 13196221202492 fm) :
    OutInv fm s₀ (execRegTimeout addr wide s) := by
  delta execRegTimeout
  repeat' first
    | exact inSet_trans rfl hm
    | with_reducible first
      | assumption | (intro) | apply State.answerRead_inv | apply State.raise_inv | apply State.setFld_inv
      | apply Inv.ite | apply OutInv.ite | apply OutInv.next | split | dsimp -iota only | dsimp only

theorem execCounterLoWordRead_inv {fm : Nat} {s₀ : State} (path : AccessPath) (addr : BitVec 26) (s : State)
    (h_s : Inv fm s₀ s) (hm : InSet 4831838212 fm) :
    OutInv fm s₀ (execCounterLoWordRead path addr s) := by
  delta execCounterLoWordRead
  repeat' first
    | exact inSet_trans rfl hm
    | with_reducible exact Or.inr rfl
    | exact Or.inl (inSet_trans rfl hm)
    | with_reducible first
      | assumption | (intro) | apply State.answerRead_inv | apply State.read4_inv
      | (apply PairInv.snd; apply State.read4_inv) | apply Inv.ite | apply PairInv.ite
      | (apply PairInv.snd; apply PairInv.ite) | apply OutInv.ite | apply OutInv.next | apply Upd.of
      | simp -iota only [Inv.update, PairInv.mk'] | split | refine PairInv.of_eq (by assumption) ?_
      | dsimp -iota only | dsimp only

theorem execEvRingBaseWrite_inv {fm : Nat} {s₀ : State} (v : BitVec 64) (s : State) (h_s : Inv fm s₀ s)
    (hm : InSet 13196221202492 fm) :
    OutInv fm s₀ (execEvRingBaseWrite v s) := by
  delta execEvRingBaseWrite
  repeat' first
    | exact inSet_trans rfl hm
    | with_reducible first
      | assumption | (intro) | apply State.evBase_inv | apply Inv.ite | apply OutInv.ite | apply OutInv.next | split
      | dsimp -iota only | dsimp only

theorem execEvRingCiWrite_inv {fm : Nat} {s₀ : State} (v : BitVec 32) (s : State) (h_s : Inv fm s₀ s)
    (hm : InSet 13196221202492 fm) :
    OutInv fm s₀ (execEvRingCiWrite v s) := by
  delta execEvRingCiWrite
  repeat' first
    | exact inSet_trans rfl hm
    | with_reducible first
      | assumption | (intro) | apply State.evCi_inv | apply Inv.ite | apply OutInv.ite | apply OutInv.next | split
      | dsimp -iota only | dsimp only

theorem execRegisterWrite_inv {fm : Nat} {s₀ : State} (path : AccessPath) (addr : BitVec 26) (wide : Bool)
    (v : BitVec 64) (s : State) (h_s : Inv fm s₀ s) (hm : InSet 17592186044414 fm) :
    OutInv fm s₀ (execRegisterWrite path addr wide v s) := by
  delta execRegisterWrite
  repeat' first
    | exact inSet_trans rfl hm
    | with_reducible first
      | assumption | (intro) | apply State.sendChain_inv | apply State.writeReg_inv | apply Inv.ite
      | apply OutInv.ite | apply OutInv.next | split | dsimp -iota only | dsimp only

theorem execRegAccess_inv {fm : Nat} {s₀ : State} (write wide : Bool) (addr : BitVec 26) (v : BitVec 64) (s : State)
    (h_s : Inv fm s₀ s) (hm : InSet 17592186044414 fm) :
    OutInv fm s₀ (execRegAccess write wide addr v s) := by
  delta execRegAccess
  repeat' first
    | exact inSet_trans rfl hm
    | with_reducible first
      | assumption | (intro) | apply State.answerRead_inv | apply State.readReg_inv
      | (apply PairInv.snd; apply State.readReg_inv) | apply State.tapLoad_inv | apply State.writeReg_inv
      | apply Inv.ite | apply PairInv.ite | (apply PairInv.snd; apply PairInv.ite) | apply OutInv.ite
      | apply OutInv.next | simp -iota only [PairInv.mk'] | split | refine PairInv.of_eq (by assumption) ?_
      | dsimp -iota only | dsimp only

end Sys2Proof.Machine
end

