-- ==== Sys2Proof/Laws/InvHartOps.lean ====
section
/-!
SUPPORT. Laws/InvHartOps.lean: the operations of Machine/HartOps.lean write only the fields named, and keep memories canonical.
-/

set_option simprocs false
set_option linter.unusedSimpArgs false
set_option linter.unusedVariables false

namespace Sys2Proof.Machine

theorem State.hartLine_inv {fm : Nat} {s₀ : State} (s : State) (l : Nat) (own : Bool) (h_s : Inv fm s₀ s)
    (hm : InSet 13196221202492 fm) :
    PairInv fm s₀ (State.hartLine s l own) := by
  delta State.hartLine
  repeat' first
    | exact inSet_trans rfl hm
    | with_reducible exact Or.inr rfl
    | exact Or.inl (inSet_trans rfl hm)
    | with_reducible first
      | assumption | (intro) | apply State.ownLine_inv | (apply PairInv.snd; apply State.ownLine_inv)
      | apply State.startTx_inv | apply Inv.ite | apply PairInv.ite | (apply PairInv.snd; apply PairInv.ite)
      | apply Upd.of | simp -iota only [Inv.update, PairInv.mk'] | split | refine PairInv.of_eq (by assumption) ?_
      | dsimp -iota only | dsimp only

theorem State.hartLines_inv {fm : Nat} {s₀ : State} (own : Bool) (y0 : List Nat) (s : State) (h_s : Inv fm s₀ s)
    (hm : InSet 13196221202492 fm) :
    PairInv fm s₀ (State.hartLines own y0 s) := by
  induction y0 generalizing s with
  | nil =>
    unfold State.hartLines
    try dsimp -iota only
    repeat' first
      | exact inSet_trans rfl hm
      | with_reducible first
        | assumption | (intro) | apply State.hartLine_inv | (apply PairInv.snd; apply State.hartLine_inv)
        | apply Inv.ite | apply PairInv.ite | (apply PairInv.snd; apply PairInv.ite) | simp -iota only [PairInv.mk']
        | split | refine PairInv.of_eq (by assumption) ?_ | dsimp -iota only | dsimp only
  | cons x xs ih =>
    unfold State.hartLines
    try dsimp -iota only
    repeat' first
      | exact inSet_trans rfl hm
      | with_reducible first
        | assumption | (intro) | (apply PairInv.snd; apply ih) | apply ih | apply State.hartLine_inv
        | (apply PairInv.snd; apply State.hartLine_inv) | apply Inv.ite | apply PairInv.ite
        | (apply PairInv.snd; apply PairInv.ite) | simp -iota only [PairInv.mk'] | split
        | refine PairInv.of_eq (by assumption) ?_ | dsimp -iota only | dsimp only

theorem State.snoopLines_inv {fm : Nat} {s₀ : State} (h : Nat) (own : Bool) (y0 : List Nat) (s : State)
    (h_s : Inv fm s₀ s) (hm : InSet 13196221202492 fm) :
    Inv fm s₀ (State.snoopLines h own y0 s) := by
  induction y0 generalizing s with
  | nil =>
    unfold State.snoopLines
    try dsimp -iota only
    repeat' first
      | exact inSet_trans rfl hm
      | with_reducible first
        | assumption | (intro) | apply State.snoop_inv | apply Inv.ite | split | dsimp -iota only | dsimp only
  | cons x xs ih =>
    unfold State.snoopLines
    try dsimp -iota only
    repeat' first
      | exact inSet_trans rfl hm
      | with_reducible first
        | assumption | (intro) | apply ih | apply State.snoop_inv | apply Inv.ite | split | dsimp -iota only
        | dsimp only

theorem State.hartStore_inv {fm : Nat} {s₀ : State} (s : State) (h a : Nat) (bs : List Byte) (h_s : Inv fm s₀ s)
    (hm : InSet 13196221202492 fm) :
    Inv fm s₀ (State.hartStore s h a bs) := by
  delta State.hartStore
  repeat' first
    | exact inSet_trans rfl hm
    | with_reducible first
      | assumption | (intro) | apply State.storeLine_inv | apply Inv.ite | apply Inv.foldl | split | dsimp -iota only
      | dsimp only

theorem State.hartReady_inv {fm : Nat} {s₀ : State} (s : State) (h : Nat) (x : Hart) (pa : Nat) (m : HartMem)
    (h_s : Inv fm s₀ s) (hm : InSet 13196221202492 fm) :
    PairInv fm s₀ (State.hartReady s h x pa m) := by
  delta State.hartReady
  repeat' first
    | exact inSet_trans rfl hm
    | with_reducible exact Or.inr rfl
    | exact Or.inl (inSet_trans rfl hm)
    | with_reducible first
      | assumption | (intro) | apply State.hartLines_inv | (apply PairInv.snd; apply State.hartLines_inv)
      | apply State.takeLanded_inv | apply State.want_inv | apply Inv.ite | apply PairInv.ite
      | (apply PairInv.snd; apply PairInv.ite) | apply Upd.of | simp -iota only [Inv.update, PairInv.mk'] | split
      | refine PairInv.of_eq (by assumption) ?_ | dsimp -iota only | dsimp only

theorem State.controlRead_inv {fm : Nat} {s₀ : State} (s : State) (off : Nat) (wide : Bool) (h_s : Inv fm s₀ s)
    (hm : InSet 8800387989508 fm) :
    PairInv fm s₀ (State.controlRead s off wide) := by
  delta State.controlRead
  repeat' first
    | exact inSet_trans rfl hm
    | with_reducible first
      | assumption | (intro) | apply State.readReg_inv | (apply PairInv.snd; apply State.readReg_inv)
      | apply State.takeFree_inv | (apply PairInv.snd; apply State.takeFree_inv) | apply Inv.ite | apply PairInv.ite
      | (apply PairInv.snd; apply PairInv.ite) | simp -iota only [PairInv.mk'] | split
      | refine PairInv.of_eq (by assumption) ?_ | dsimp -iota only | dsimp only

theorem State.controlWrite_inv {fm : Nat} {s₀ : State} (s : State) (off : Nat) (wide : Bool) (v : Nat)
    (h_s : Inv fm s₀ s) (hm : InSet 17592186044414 fm) :
    Inv fm s₀ (State.controlWrite s off wide v) := by
  delta State.controlWrite
  repeat' first
    | exact inSet_trans rfl hm
    | with_reducible first
      | assumption | (intro) | apply State.sendChain_inv | apply State.writeReg_inv | apply Inv.ite | split
      | dsimp -iota only | dsimp only

theorem State.fileStore_inv {fm : Nat} {s₀ : State} (s : State) (off v : Nat) (h_s : Inv fm s₀ s)
    (hm : InSet 4398046511104 fm) :
    Inv fm s₀ (State.fileStore s off v) := by
  delta State.fileStore
  repeat' first
    | exact inSet_trans rfl hm
    | with_reducible first
      | assumption | (intro) | apply State.imsicWrite_inv | apply Inv.ite | split | dsimp -iota only | dsimp only

theorem State.hartHits_inv {fm : Nat} {s₀ : State} (s : State) (x : Hart) (a n : Nat) (h_s : Inv fm s₀ s)
    (hm : InSet 13196221202492 fm) :
    Inv fm s₀ (State.hartHits s x a n) := by
  delta State.hartHits
  repeat' first
    | exact inSet_trans rfl hm
    | with_reducible first
      | assumption | (intro) | apply State.bump_inv | apply Inv.ite | split | dsimp -iota only | dsimp only

theorem State.hartAmo_inv {fm : Nat} {s₀ : State} (s : State) (h a : Nat) (fn : AtomFn) (wide : Bool)
    (v c : BitVec 64) (h_s : Inv fm s₀ s) (hm : InSet 13196221202492 fm) :
    PairInv fm s₀ (State.hartAmo s h a fn wide v c) := by
  delta State.hartAmo
  repeat' first
    | exact inSet_trans rfl hm
    | with_reducible exact Or.inr rfl
    | exact Or.inl (inSet_trans rfl hm)
    | with_reducible first
      | assumption | (intro) | apply State.hartStore_inv | apply Inv.ite | apply PairInv.ite
      | (apply PairInv.snd; apply PairInv.ite) | apply Upd.of | simp -iota only [Inv.update, PairInv.mk'] | split
      | refine PairInv.of_eq (by assumption) ?_ | dsimp -iota only | dsimp only

theorem State.hartResv_inv {fm : Nat} {s₀ : State} (s : State) (h : Nat) (line : Option Nat) (h_s : Inv fm s₀ s)
    (hm : InSet 16384 fm) :
    Inv fm s₀ (State.hartResv s h line) := by
  delta State.hartResv
  repeat' first
    | exact inSet_trans rfl hm
    | with_reducible exact Or.inr rfl
    | exact Or.inl (inSet_trans rfl hm)
    | with_reducible first
      | assumption | (intro) | apply Inv.ite | apply Upd.of | simp -iota only [Inv.update] | split | dsimp -iota only
      | dsimp only

theorem State.hartPerform_inv {fm : Nat} {s₀ : State} (s : State) (h : Nat) (x : Hart) (pa : Nat) (m : HartMem)
    (h_s : Inv fm s₀ s) (hm : InSet 17592186044414 fm) :
    PairInv fm s₀ (State.hartPerform s h x pa m) := by
  delta State.hartPerform
  repeat' first
    | exact inSet_trans rfl hm
    | with_reducible exact Or.inr rfl
    | exact Or.inl (inSet_trans rfl hm)
    | with_reducible first
      | assumption | (intro) | apply State.after_inv | apply State.atomicAt_inv
      | (apply TripleInv.snd; apply State.atomicAt_inv) | apply State.controlRead_inv
      | (apply PairInv.snd; apply State.controlRead_inv) | apply State.controlWrite_inv | apply State.doorbell_inv
      | apply State.evictLine_inv | apply State.fileStore_inv | apply State.hartAmo_inv
      | (apply PairInv.snd; apply State.hartAmo_inv) | apply State.hartHits_inv | apply State.hartResv_inv
      | apply State.hartStore_inv | apply State.physRead_inv | (apply TripleInv.snd; apply State.physRead_inv)
      | apply State.physWrite_inv | apply State.snoopLines_inv | apply State.takeLanded_inv
      | apply execNodeCoreDoorbell_inv | apply Inv.ite | apply PairInv.ite | (apply PairInv.snd; apply PairInv.ite)
      | apply TripleInv.ite | (apply TripleInv.snd; apply TripleInv.ite) | apply OutInv.ite | apply OutInv.next
      | apply Upd.of | simp -iota only [Inv.update, PairInv.mk', TripleInv.mk'] | split
      | refine PairInv.of_eq (by assumption) ?_ | refine TripleInv.of_eq (by assumption) ?_ | dsimp -iota only
      | dsimp only

theorem State.hartAll_inv {fm : Nat} {s₀ : State} (h : Nat) (x : Hart) (y0 : List (BitVec 64 × BitVec 64 × HartMem))
    (s : State) (h_s : Inv fm s₀ s) (hm : InSet 13196221202492 fm) :
    TripleInv fm s₀ (State.hartAll h x y0 s) := by
  induction y0 generalizing s with
  | nil =>
    unfold State.hartAll
    try dsimp -iota only
    repeat' first
      | exact inSet_trans rfl hm
      | with_reducible exact Or.inr rfl
      | exact Or.inl (inSet_trans rfl hm)
      | with_reducible first
        | assumption | (intro) | apply State.hartReady_inv | (apply PairInv.snd; apply State.hartReady_inv)
        | apply Inv.ite | apply PairInv.ite | (apply PairInv.snd; apply PairInv.ite) | apply TripleInv.ite
        | (apply TripleInv.snd; apply TripleInv.ite) | apply Upd.of
        | simp -iota only [Inv.update, PairInv.mk', TripleInv.mk'] | split | refine PairInv.of_eq (by assumption) ?_
        | refine TripleInv.of_eq (by assumption) ?_ | dsimp -iota only | dsimp only
  | cons x xs ih =>
    unfold State.hartAll
    try dsimp -iota only
    repeat' first
      | exact inSet_trans rfl hm
      | with_reducible exact Or.inr rfl
      | exact Or.inl (inSet_trans rfl hm)
      | with_reducible first
        | assumption | (intro) | (apply TripleInv.snd; apply ih) | apply ih | apply State.hartReady_inv
        | (apply PairInv.snd; apply State.hartReady_inv) | apply Inv.ite | apply PairInv.ite
        | (apply PairInv.snd; apply PairInv.ite) | apply TripleInv.ite | (apply TripleInv.snd; apply TripleInv.ite)
        | apply Upd.of | simp -iota only [Inv.update, PairInv.mk', TripleInv.mk'] | split
        | refine PairInv.of_eq (by assumption) ?_ | refine TripleInv.of_eq (by assumption) ?_ | dsimp -iota only
        | dsimp only

theorem State.hartEvery_inv {fm : Nat} {s₀ : State} (h : Nat) (y0 : List (BitVec 64 × BitVec 64 × HartMem))
    (y1 : Hart) (s : State) (h_s : Inv fm s₀ s) (hm : InSet 17592186044414 fm) :
    PairInv fm s₀ (State.hartEvery h y0 y1 s) := by
  induction y0 generalizing y1 s with
  | nil =>
    unfold State.hartEvery
    try dsimp -iota only
    repeat' first
      | exact inSet_trans rfl hm
      | with_reducible first
        | assumption | (intro) | apply State.hartPerform_inv | (apply PairInv.snd; apply State.hartPerform_inv)
        | apply Inv.ite | apply PairInv.ite | (apply PairInv.snd; apply PairInv.ite) | simp -iota only [PairInv.mk']
        | split | refine PairInv.of_eq (by assumption) ?_ | dsimp -iota only | dsimp only
  | cons x xs ih =>
    unfold State.hartEvery
    try dsimp -iota only
    repeat' first
      | exact inSet_trans rfl hm
      | with_reducible first
        | assumption | (intro) | (apply PairInv.snd; apply ih) | apply ih | apply State.hartPerform_inv
        | (apply PairInv.snd; apply State.hartPerform_inv) | apply Inv.ite | apply PairInv.ite
        | (apply PairInv.snd; apply PairInv.ite) | simp -iota only [PairInv.mk'] | split
        | refine PairInv.of_eq (by assumption) ?_ | dsimp -iota only | dsimp only

theorem State.hartFault_inv {fm : Nat} {s₀ : State} (s : State) (h : Nat) (x : Hart) (cause tval : Nat)
    (h_s : Inv fm s₀ s) (hm : InSet 15395244458044 fm) :
    Inv fm s₀ (State.hartFault s h x cause tval) := by
  delta State.hartFault
  repeat' first
    | exact inSet_trans rfl hm
    | with_reducible exact Or.inr rfl
    | exact Or.inl (inSet_trans rfl hm)
    | with_reducible first
      | assumption | (intro) | apply State.bump_inv | apply State.setHart_inv | apply Inv.ite | apply Upd.of
      | simp -iota only [Inv.update] | split | dsimp -iota only | dsimp only

theorem State.hartError_inv {fm : Nat} {s₀ : State} (s : State) (h : Nat) (x : Hart) (ws : List Nat) (tval : Nat)
    (h_s : Inv fm s₀ s) (hm : InSet 15395244458044 fm) :
    Inv fm s₀ (State.hartError s h x ws tval) := by
  delta State.hartError
  repeat' first
    | exact inSet_trans rfl hm
    | with_reducible exact Or.inr rfl
    | exact Or.inl (inSet_trans rfl hm)
    | with_reducible first
      | assumption | (intro) | apply State.bump_inv | apply State.consume_inv | apply State.setHart_inv
      | apply Inv.ite | apply Upd.of | simp -iota only [Inv.update] | split | dsimp -iota only | dsimp only

theorem State.hartFetch_inv {fm : Nat} {s₀ : State} (s : State) (h : Nat) (x : Hart) (pa n : Nat) (h_s : Inv fm s₀ s)
    (hm : InSet 13196221210684 fm) :
    PairInv fm s₀ (State.hartFetch s h x pa n) := by
  delta State.hartFetch
  repeat' first
    | exact inSet_trans rfl hm
    | with_reducible exact Or.inr rfl
    | exact Or.inl (inSet_trans rfl hm)
    | with_reducible first
      | assumption | (intro) | apply State.fetch_inv | (apply PairInv.snd; apply State.fetch_inv)
      | apply State.hartLines_inv | (apply PairInv.snd; apply State.hartLines_inv) | apply State.snoopLines_inv
      | apply State.takeLanded_inv | apply State.want_inv | apply Inv.ite | apply PairInv.ite
      | (apply PairInv.snd; apply PairInv.ite) | apply Upd.of | simp -iota only [Inv.update, PairInv.mk'] | split
      | refine PairInv.of_eq (by assumption) ?_ | dsimp -iota only | dsimp only

theorem State.hartDo_inv {fm : Nat} {s₀ : State} (s : State) (h : Nat) (x : Hart) (len : Nat) (i : HartAct)
    (h_s : Inv fm s₀ s) (hm : InSet 17592186044414 fm) :
    Inv fm s₀ (State.hartDo s h x len i) := by
  delta State.hartDo
  repeat' first
    | exact inSet_trans rfl hm
    | with_reducible exact Or.inr rfl
    | exact Or.inl (inSet_trans rfl hm)
    | with_reducible first
      | assumption | (intro) | apply State.hartAll_inv | (apply TripleInv.snd; apply State.hartAll_inv)
      | apply State.hartError_inv | apply State.hartEvery_inv | (apply PairInv.snd; apply State.hartEvery_inv)
      | apply State.hartFault_inv | apply State.raise_inv | apply State.setHart_inv | apply Inv.ite
      | apply PairInv.ite | (apply PairInv.snd; apply PairInv.ite) | apply TripleInv.ite
      | (apply TripleInv.snd; apply TripleInv.ite) | apply Inv.foldl | apply Inv.getD | apply Upd.of
      | simp -iota only [Inv.update, PairInv.mk', TripleInv.mk'] | split | refine PairInv.of_eq (by assumption) ?_
      | refine TripleInv.of_eq (by assumption) ?_ | dsimp -iota only | dsimp only

end Sys2Proof.Machine
end

