-- ==== Sys2Proof/Laws/InvNodeCores.lean ====
section
/-!
SUPPORT. Laws/InvNodeCores.lean: the operations of Machine/NodeCores.lean write only the fields named, and keep memories canonical.
-/

set_option simprocs false
set_option linter.unusedSimpArgs false
set_option linter.unusedVariables false

namespace Sys2Proof.Machine

theorem execNodeCoreInstruction_inv {fm : Nat} {s₀ : State} (h : Fin 32) (fetch : BitVec 64) (compressed : Bool)
    (i : HartAct) (s : State) (h_s : Inv fm s₀ s) (hm : InSet 17592186044414 fm) :
    OutInv fm s₀ (execNodeCoreInstruction h fetch compressed i s) := by
  delta execNodeCoreInstruction
  repeat' first
    | exact inSet_trans rfl hm
    | with_reducible exact Or.inr rfl
    | exact Or.inl (inSet_trans rfl hm)
    | with_reducible first
      | assumption | (intro) | apply State.hartDo_inv | apply State.hartError_inv | apply State.hartFault_inv
      | apply State.hartFetch_inv | (apply PairInv.snd; apply State.hartFetch_inv) | apply State.setHart_inv
      | apply Inv.ite | apply PairInv.ite | (apply PairInv.snd; apply PairInv.ite) | apply OutInv.ite
      | apply OutInv.next | apply Upd.of | simp -iota only [Inv.update, PairInv.mk'] | split
      | refine PairInv.of_eq (by assumption) ?_ | dsimp -iota only | dsimp only

theorem execNodeCoreTimer_inv {fm : Nat} {s₀ : State} (h : Fin 32) (s : State) (h_s : Inv fm s₀ s)
    (hm : InSet 2199023255552 fm) :
    OutInv fm s₀ (execNodeCoreTimer h s) := by
  delta execNodeCoreTimer
  repeat' first
    | exact inSet_trans rfl hm
    | with_reducible first
      | assumption | (intro) | apply State.setHart_inv | apply Inv.ite | apply OutInv.ite | apply OutInv.next | split
      | dsimp -iota only | dsimp only

end Sys2Proof.Machine
end

