-- ==== Sys2Proof/Laws/InvMgmt.lean ====
section
/-!
SUPPORT. Laws/InvMgmt.lean: the operations of Machine/Mgmt.lean write only the fields named, and keep memories canonical.
-/

set_option simprocs false
set_option linter.unusedSimpArgs false
set_option linter.unusedVariables false

namespace Sys2Proof.Machine

theorem execMctpMessage_inv {fm : Nat} {s₀ : State} (b : Binding) (ty : BitVec 8) (ours : Bool)
    (data : List (BitVec 8)) (s : State) (h_s : Inv fm s₀ s) (hm : InSet 13745977016508 fm) :
    OutInv fm s₀ (execMctpMessage b ty ours data s) := by
  delta execMctpMessage
  repeat' first
    | exact inSet_trans rfl hm
    | with_reducible first
      | assumption | (intro) | apply State.freeBytes_inv | (apply PairInv.snd; apply State.freeBytes_inv)
      | apply State.mctp_inv | apply State.mctpJob_inv | apply State.pldmMessage_inv | apply State.setEid_inv
      | apply Inv.ite | apply PairInv.ite | (apply PairInv.snd; apply PairInv.ite) | apply OutInv.ite
      | apply OutInv.next | apply Inv.getD | simp -iota only [PairInv.mk'] | split
      | refine PairInv.of_eq (by assumption) ?_ | dsimp -iota only | dsimp only

theorem execSetEndpointId_inv {fm : Nat} {s₀ : State} (b : Binding) (eid : BitVec 8) (s : State) (h_s : Inv fm s₀ s)
    (hm : InSet 536870916 fm) :
    OutInv fm s₀ (execSetEndpointId b eid s) := by
  delta execSetEndpointId
  repeat' first
    | exact inSet_trans rfl hm
    | with_reducible first
      | assumption | (intro) | apply State.setEid_inv | apply Inv.ite | apply OutInv.ite | apply OutInv.next | split
      | dsimp -iota only | dsimp only

theorem execPldmDiscovery_inv {fm : Nat} {s₀ : State} (b : Binding) (cmd : BitVec 8) (s : State) (h_s : Inv fm s₀ s)
    (hm : InSet 13196221202492 fm) :
    OutInv fm s₀ (execPldmDiscovery b cmd s) := by
  delta execPldmDiscovery
  repeat' first
    | exact inSet_trans rfl hm
    | with_reducible first
      | assumption | (intro) | apply State.pldmAnswer_inv | apply Inv.ite | apply OutInv.ite | apply OutInv.next
      | split | dsimp -iota only | dsimp only

theorem execPldmPlatform_inv {fm : Nat} {s₀ : State} (b : Binding) (cmd : BitVec 8) (sensor : BitVec 16) (s : State)
    (h_s : Inv fm s₀ s) (hm : InSet 13745977016380 fm) :
    OutInv fm s₀ (execPldmPlatform b cmd sensor s) := by
  delta execPldmPlatform
  repeat' first
    | exact inSet_trans rfl hm
    | with_reducible first
      | assumption | (intro) | apply State.pldmSensor_inv | apply Inv.ite | apply OutInv.ite | apply OutInv.next
      | split | dsimp -iota only | dsimp only

theorem execPldmFru_inv {fm : Nat} {s₀ : State} (b : Binding) (cmd : BitVec 8) (s : State) (h_s : Inv fm s₀ s)
    (hm : InSet 536870912 fm) :
    OutInv fm s₀ (execPldmFru b cmd s) := by
  delta execPldmFru
  repeat' first
    | exact inSet_trans rfl hm
    | with_reducible first
      | assumption | (intro) | apply State.pldmFru_inv | apply Inv.ite | apply OutInv.ite | apply OutInv.next | split
      | dsimp -iota only | dsimp only

theorem execRequestUpdate_inv {fm : Nat} {s₀ : State} (b : Binding) (s : State) (h_s : Inv fm s₀ s)
    (hm : InSet 550292684800 fm) :
    OutInv fm s₀ (execRequestUpdate b s) := by
  delta execRequestUpdate
  repeat' first
    | exact inSet_trans rfl hm
    | with_reducible first
      | assumption | (intro) | apply State.pldmRequest_inv | apply Inv.ite | apply OutInv.ite | apply OutInv.next
      | split | dsimp -iota only | dsimp only

theorem execUpdateComponent_inv {fm : Nat} {s₀ : State} (b : Binding) (ident : BitVec 16) (size : BitVec 32)
    (s : State) (h_s : Inv fm s₀ s) (hm : InSet 550292684932 fm) :
    OutInv fm s₀ (execUpdateComponent b ident size s) := by
  delta execUpdateComponent
  repeat' first
    | exact inSet_trans rfl hm
    | with_reducible first
      | assumption | (intro) | apply State.pldmComponent_inv | apply Inv.ite | apply OutInv.ite | apply OutInv.next
      | split | dsimp -iota only | dsimp only

theorem execRequestFirmwareData_inv {fm : Nat} {s₀ : State} (b : Binding) (off : BitVec 32) (data : List (BitVec 8))
    (s : State) (h_s : Inv fm s₀ s) (hm : InSet 13745977016508 fm) :
    OutInv fm s₀ (execRequestFirmwareData b off data s) := by
  delta execRequestFirmwareData
  repeat' first
    | exact inSet_trans rfl hm
    | with_reducible first
      | assumption | (intro) | apply State.pldmData_inv | apply Inv.ite | apply OutInv.ite | apply OutInv.next
      | split | dsimp -iota only | dsimp only

theorem execActivateFirmware_inv {fm : Nat} {s₀ : State} (b : Binding) (s : State) (h_s : Inv fm s₀ s)
    (hm : InSet 550292684804 fm) :
    OutInv fm s₀ (execActivateFirmware b s) := by
  delta execActivateFirmware
  repeat' first
    | exact inSet_trans rfl hm
    | with_reducible first
      | assumption | (intro) | apply State.pldmActivate_inv | apply Inv.ite | apply OutInv.ite | apply OutInv.next
      | split | dsimp -iota only | dsimp only

theorem execSensorSample_inv {fm : Nat} {s₀ : State} (id : BitVec 8) (v : BitVec 32) (s : State) (h_s : Inv fm s₀ s)
    (hm : InSet 13745977016380 fm) :
    OutInv fm s₀ (execSensorSample id v s) := by
  delta execSensorSample
  repeat' first
    | exact inSet_trans rfl hm
    | with_reducible first
      | assumption | (intro) | apply State.sampleSensor_inv | apply Inv.ite | apply OutInv.ite | apply OutInv.next
      | split | dsimp -iota only | dsimp only

theorem execGetInfo_inv {fm : Nat} {s₀ : State} (ch : Channel) (s : State) (h_s : Inv fm s₀ s)
    (hm : InSet 13745977016380 fm) :
    OutInv fm s₀ (execGetInfo ch s) := by
  delta execGetInfo
  repeat' first
    | exact inSet_trans rfl hm
    | with_reducible first
      | assumption | (intro) | apply State.info_inv | apply State.runJob_inv | apply Inv.ite | apply OutInv.ite
      | apply OutInv.next | split | dsimp -iota only | dsimp only

theorem execReadSensor_inv {fm : Nat} {s₀ : State} (ch : Channel) (s : State) (h_s : Inv fm s₀ s)
    (hm : InSet 13745977016380 fm) :
    OutInv fm s₀ (execReadSensor ch s) := by
  delta execReadSensor
  repeat' first
    | exact inSet_trans rfl hm
    | with_reducible first
      | assumption | (intro) | apply State.readSensor_inv | apply State.runJob_inv | apply Inv.ite | apply OutInv.ite
      | apply OutInv.next | split | dsimp -iota only | dsimp only

theorem execReadTelemetry_inv {fm : Nat} {s₀ : State} (ch : Channel) (s : State) (h_s : Inv fm s₀ s)
    (hm : InSet 13745977016380 fm) :
    OutInv fm s₀ (execReadTelemetry ch s) := by
  delta execReadTelemetry
  repeat' first
    | exact inSet_trans rfl hm
    | with_reducible first
      | assumption | (intro) | apply State.runJob_inv | apply State.telemetry_inv | apply Inv.ite | apply OutInv.ite
      | apply OutInv.next | split | dsimp -iota only | dsimp only

end Sys2Proof.Machine
end

