-- ==== Sys2Proof/Laws/InvSecurity.lean ====
section
/-!
SUPPORT. Laws/InvSecurity.lean: the operations of Machine/Security.lean write only the fields named, and keep memories canonical.
-/

set_option simprocs false
set_option linter.unusedSimpArgs false
set_option linter.unusedVariables false

namespace Sys2Proof.Machine

theorem execGetSwatch_inv {fm : Nat} {s₀ : State} (ch : Channel) (s : State) (h_s : Inv fm s₀ s)
    (hm : InSet 13745977016380 fm) :
    OutInv fm s₀ (execGetSwatch ch s) := by
  delta execGetSwatch
  repeat' first
    | exact inSet_trans rfl hm
    | with_reducible first
      | assumption | (intro) | apply State.runJob_inv | apply State.swatch_inv | apply Inv.ite | apply OutInv.ite
      | apply OutInv.next | split | dsimp -iota only | dsimp only

theorem execReadSwatch_inv {fm : Nat} {s₀ : State} (ch : Channel) (s : State) (h_s : Inv fm s₀ s)
    (hm : InSet 13745977016380 fm) :
    OutInv fm s₀ (execReadSwatch ch s) := by
  delta execReadSwatch
  repeat' first
    | exact inSet_trans rfl hm
    | with_reducible first
      | assumption | (intro) | apply State.readBytes_inv | apply State.runJob_inv | apply Inv.ite | apply OutInv.ite
      | apply OutInv.next | split | dsimp -iota only | dsimp only

theorem execFwBegin_inv {fm : Nat} {s₀ : State} (ch : Channel) (s : State) (h_s : Inv fm s₀ s)
    (hm : InSet 13745977016508 fm) :
    OutInv fm s₀ (execFwBegin ch s) := by
  delta execFwBegin
  repeat' first
    | exact inSet_trans rfl hm
    | with_reducible first
      | assumption | (intro) | apply State.beginCmd_inv | apply State.runJob_inv | apply Inv.ite | apply OutInv.ite
      | apply OutInv.next | split | dsimp -iota only | dsimp only

theorem execFwData_inv {fm : Nat} {s₀ : State} (ch : Channel) (s : State) (h_s : Inv fm s₀ s)
    (hm : InSet 13745977016508 fm) :
    OutInv fm s₀ (execFwData ch s) := by
  delta execFwData
  repeat' first
    | exact inSet_trans rfl hm
    | with_reducible first
      | assumption | (intro) | apply State.dataCmd_inv | apply State.runJob_inv | apply Inv.ite | apply OutInv.ite
      | apply OutInv.next | split | dsimp -iota only | dsimp only

theorem execFwEnd_inv {fm : Nat} {s₀ : State} (ch : Channel) (s : State) (h_s : Inv fm s₀ s)
    (hm : InSet 13745977016508 fm) :
    OutInv fm s₀ (execFwEnd ch s) := by
  delta execFwEnd
  repeat' first
    | exact inSet_trans rfl hm
    | with_reducible first
      | assumption | (intro) | apply State.endCmd_inv | apply State.runJob_inv | apply Inv.ite | apply OutInv.ite
      | apply OutInv.next | split | dsimp -iota only | dsimp only

theorem execEnrollOwnerKey_inv {fm : Nat} {s₀ : State} (ch : Channel) (s : State) (h_s : Inv fm s₀ s)
    (hm : InSet 13745977016380 fm) :
    OutInv fm s₀ (execEnrollOwnerKey ch s) := by
  delta execEnrollOwnerKey
  repeat' first
    | exact inSet_trans rfl hm
    | with_reducible first
      | assumption | (intro) | apply State.enroll_inv | apply State.runJob_inv | apply Inv.ite | apply OutInv.ite
      | apply OutInv.next | split | dsimp -iota only | dsimp only

theorem execKeyStage_inv {fm : Nat} {s₀ : State} (ch : Channel) (s : State) (h_s : Inv fm s₀ s)
    (hm : InSet 13745977016380 fm) :
    OutInv fm s₀ (execKeyStage ch s) := by
  delta execKeyStage
  repeat' first
    | exact inSet_trans rfl hm
    | with_reducible first
      | assumption | (intro) | apply State.runJob_inv | apply State.stageKey_inv | apply Inv.ite | apply OutInv.ite
      | apply OutInv.next | split | dsimp -iota only | dsimp only

theorem execGetChallenge_inv {fm : Nat} {s₀ : State} (ch : Channel) (s : State) (h_s : Inv fm s₀ s)
    (hm : InSet 13745977016380 fm) :
    OutInv fm s₀ (execGetChallenge ch s) := by
  delta execGetChallenge
  repeat' first
    | exact inSet_trans rfl hm
    | with_reducible first
      | assumption | (intro) | apply State.newChallenge_inv | apply State.runJob_inv | apply Inv.ite
      | apply OutInv.ite | apply OutInv.next | split | dsimp -iota only | dsimp only

theorem execChallengeExpiry_inv {fm : Nat} {s₀ : State} (s : State) (h_s : Inv fm s₀ s) (hm : InSet 549755813888 fm) :
    OutInv fm s₀ (execChallengeExpiry s) := by
  suffices H : ∀ fn_, fn_ = @execChallengeExpiry → OutInv fm s₀ (fn_ s) from H _ rfl
  intro fn_ hf; delta execChallengeExpiry at hf; subst hf
  repeat' first
    | exact inSet_trans rfl hm
    | with_reducible first
      | assumption | (intro) | apply State.expireChallenge_inv | apply Inv.ite | apply OutInv.ite | apply OutInv.next
      | split | dsimp -iota only | dsimp only

theorem execFwSetMinSvn_inv {fm : Nat} {s₀ : State} (ch : Channel) (s : State) (h_s : Inv fm s₀ s)
    (hm : InSet 13745977016380 fm) :
    OutInv fm s₀ (execFwSetMinSvn ch s) := by
  delta execFwSetMinSvn
  repeat' first
    | exact inSet_trans rfl hm
    | with_reducible exact Or.inr rfl
    | exact Or.inl (inSet_trans rfl hm)
    | with_reducible first
      | assumption | (intro) | apply State.mboxDone_inv | apply State.onMc_inv | apply State.runJob_inv
      | apply Inv.ite | apply OutInv.ite | apply OutInv.next | apply Upd.of | simp -iota only [Inv.update] | split
      | dsimp -iota only | dsimp only

theorem execGetIdentity_inv {fm : Nat} {s₀ : State} (ch : Channel) (s : State) (h_s : Inv fm s₀ s)
    (hm : InSet 13745977016380 fm) :
    OutInv fm s₀ (execGetIdentity ch s) := by
  delta execGetIdentity
  repeat' first
    | exact inSet_trans rfl hm
    | with_reducible first
      | assumption | (intro) | apply State.readBytes_inv | apply State.runJob_inv | apply Inv.ite | apply OutInv.ite
      | apply OutInv.next | split | dsimp -iota only | dsimp only

theorem execNcRelease_inv {fm : Nat} {s₀ : State} (ch : Channel) (s : State) (h_s : Inv fm s₀ s)
    (hm : InSet 15945000271932 fm) :
    OutInv fm s₀ (execNcRelease ch s) := by
  delta execNcRelease
  repeat' first
    | exact inSet_trans rfl hm
    | with_reducible first
      | assumption | (intro) | apply State.ncRelease_inv | apply State.runJob_inv | split | apply Inv.ite
      | apply OutInv.ite | apply OutInv.next | dsimp -iota only | dsimp only

theorem State.resetCmd_inv {fm : Nat} {s₀ : State} (s : State) (ch : Channel) (warm : Bool) (h_s : Inv fm s₀ s)
    (hm : InSet 13745977016380 fm) :
    Inv fm s₀ (State.resetCmd s ch warm) := by
  delta State.resetCmd
  repeat' first
    | exact inSet_trans rfl hm
    | with_reducible exact Or.inr rfl
    | exact Or.inl (inSet_trans rfl hm)
    | with_reducible first
      | assumption | (intro) | apply State.mboxDone_inv | apply State.onMc_inv | apply State.runJob_inv
      | apply Inv.ite | apply Upd.of | simp -iota only [Inv.update] | split | dsimp -iota only | dsimp only

theorem execResetCold_inv {fm : Nat} {s₀ : State} (ch : Channel) (s : State) (h_s : Inv fm s₀ s)
    (hm : InSet 13745977016380 fm) :
    OutInv fm s₀ (execResetCold ch s) := by
  delta execResetCold
  repeat' first
    | exact inSet_trans rfl hm
    | with_reducible first
      | assumption | (intro) | apply State.resetCmd_inv | apply Inv.ite | apply OutInv.ite | apply OutInv.next
      | split | dsimp -iota only | dsimp only

theorem execResetWarm_inv {fm : Nat} {s₀ : State} (ch : Channel) (s : State) (h_s : Inv fm s₀ s)
    (hm : InSet 13745977016380 fm) :
    OutInv fm s₀ (execResetWarm ch s) := by
  delta execResetWarm
  repeat' first
    | exact inSet_trans rfl hm
    | with_reducible first
      | assumption | (intro) | apply State.resetCmd_inv | apply Inv.ite | apply OutInv.ite | apply OutInv.next
      | split | dsimp -iota only | dsimp only

end Sys2Proof.Machine
end

