-- ==== Sys2Proof/Laws/InvDispatch.lean ====
section
/-!
SUPPORT. Laws/InvDispatch.lean: the operations of Machine/Dispatch.lean write only the fields named, and keep memories canonical.
-/

set_option simprocs false
set_option linter.unusedSimpArgs false
set_option linter.unusedVariables false

namespace Sys2Proof.Machine

theorem exec_keeps {fm : Nat} {s₀ : State} (i : Instr) (s : State) (h_s : Inv fm s₀ s) (hm : InSet 17592186044414 fm) :
    OutInv fm s₀ (exec i s) :=
  match i with
  | .rowTimerFire => execRowTimerFire_inv s h_s (inSet_trans rfl hm)
  | .localEdge m => execLocalEdge_inv m s h_s (inSet_trans rfl hm)
  | .rowEdge m row aligned holdover t => execRowEdge_inv m row aligned holdover t s h_s (inSet_trans rfl hm)
  | .edgeMissed m => execEdgeMissed_inv m s h_s (inSet_trans rfl hm)
  | .gaugeBudget m row cut eM eRes eBe => execGaugeBudget_inv m row cut eM eRes eBe s h_s (inSet_trans rfl hm)
  | .floorBudget m => execFloorBudget_inv m s h_s (inSet_trans rfl hm)
  | .edgePass m => execEdgePass_inv m s h_s (inSet_trans rfl hm)
  | .bodyStart m => execBodyStart_inv m s h_s (inSet_trans rfl hm)
  | .deadlineMissed m qid idx => execDeadlineMissed_inv m qid idx s h_s (inSet_trans rfl hm)
  | .gaugeReport r => execGaugeReport_inv r s h_s (inSet_trans rfl hm)
  | .governorCompute eYoke eSeams => execGovernorCompute_inv eYoke eSeams s h_s (inSet_trans rfl hm)
  | .guardStart m => execGuardStart_inv m s h_s (inSet_trans rfl hm)
  | .powerSample m mw tj => execPowerSample_inv m mw tj s h_s (inSet_trans rfl hm)
  | .stitchArrival m qid idx => execStitchArrival_inv m qid idx s h_s (inSet_trans rfl hm)
  | .stitchStart m => execStitchStart_inv m s h_s (inSet_trans rfl hm)
  | .stitchDone m => execStitchDone_inv m s h_s (inSet_trans rfl hm)
  | .stitchOverrun m => execStitchOverrun_inv m s h_s (inSet_trans rfl hm)
  | .stitchHung m => execStitchHung_inv m s h_s (inSet_trans rfl hm)
  | .gaLimitWrite v => execGaLimitWrite_inv v s h_s (inSet_trans rfl hm)
  | .hallTimeStep step => execHallTimeStep_inv step s h_s (inSet_trans rfl hm)
  | .rowUnaligned => execRowUnaligned_inv s h_s (inSet_trans rfl hm)
  | .late src row => execLate_inv src row s h_s (inSet_trans rfl hm)
  | .mma m => execMma_inv m s h_s (inSet_trans rfl hm)
  | .chunkPromotion m => execChunkPromotion_inv m s h_s (inSet_trans rfl hm)
  | .drain m => execDrain_inv m s h_s (inSet_trans rfl hm)
  | .zero m => execZero_inv m s h_s (inSet_trans rfl hm)
  | .promote m => execPromote_inv m s h_s (inSet_trans rfl hm)
  | .save m => execSave_inv m s h_s (inSet_trans rfl hm)
  | .saveCounterAdd m => execSaveCounterAdd_inv m s h_s (inSet_trans rfl hm)
  | .restore m => execRestore_inv m s h_s (inSet_trans rfl hm)
  | .arrayDescDone m u => execArrayDescDone_inv m u s h_s (inSet_trans rfl hm)
  | .mxAccstateWrite m set v => execMxAccstateWrite_inv m set v s h_s (inSet_trans rfl hm)
  | .map m => execMap_inv m s h_s (inSet_trans rfl hm)
  | .reduce m => execReduce_inv m s h_s (inSet_trans rfl hm)
  | .gather m => execGather_inv m s h_s (inSet_trans rfl hm)
  | .shuffle m => execShuffle_inv m s h_s (inSet_trans rfl hm)
  | .pack m => execPack_inv m s h_s (inSet_trans rfl hm)
  | .unpack m => execUnpack_inv m s h_s (inSet_trans rfl hm)
  | .psum m => execPsum_inv m s h_s (inSet_trans rfl hm)
  | .psumCounterPoll m => execPsumCounterPoll_inv m s h_s (inSet_trans rfl hm)
  | .partialTimeout m => execPartialTimeout_inv m s h_s (inSet_trans rfl hm)
  | .veDescDone m => execVeDescDone_inv m s h_s (inSet_trans rfl hm)
  | .launch m => execLaunch_inv m s h_s (inSet_trans rfl hm)
  | .blockStart m => execBlockStart_inv m s h_s (inSet_trans rfl hm)
  | .launchDone m => execLaunchDone_inv m s h_s (inSet_trans rfl hm)
  | .vif m g => execVif_inv m g s h_s (inSet_trans rfl hm)
  | .velse m g => execVelse_inv m g s h_s (inSet_trans rfl hm)
  | .vend m g => execVend_inv m g s h_s (inSet_trans rfl hm)
  | .vany m g => execVany_inv m g s h_s (inSet_trans rfl hm)
  | .vall m g => execVall_inv m g s h_s (inSet_trans rfl hm)
  | .vballot m g => execVballot_inv m g s h_s (inSet_trans rfl hm)
  | .vshfl m g => execVshfl_inv m g s h_s (inSet_trans rfl hm)
  | .vshfli m g => execVshfli_inv m g s h_s (inSet_trans rfl hm)
  | .vbar m g => execVbar_inv m g s h_s (inSet_trans rfl hm)
  | .vbarRelease m block => execVbarRelease_inv m block s h_s (inSet_trans rfl hm)
  | .vcbar m g => execVcbar_inv m g s h_s (inSet_trans rfl hm)
  | .vcbarRelease m block => execVcbarRelease_inv m block s h_s (inSet_trans rfl hm)
  | .vexit m g => execVexit_inv m g s h_s (inSet_trans rfl hm)
  | .vdispA m g => execVdispA_inv m g s h_s (inSet_trans rfl hm)
  | .vdispV m g => execVdispV_inv m g s h_s (inSet_trans rfl hm)
  | .vwait m g => execVwait_inv m g s h_s (inSet_trans rfl hm)
  | .vwaitRecheck m g => execVwaitRecheck_inv m g s h_s (inSet_trans rfl hm)
  | .vcasW m g => execVcasW_inv m g s h_s (inSet_trans rfl hm)
  | .vcasD m g => execVcasD_inv m g s h_s (inSet_trans rfl hm)
  | .vafaddS m g => execVafaddS_inv m g s h_s (inSet_trans rfl hm)
  | .vcvtn m g => execVcvtn_inv m g s h_s (inSet_trans rfl hm)
  | .vcvtw m g => execVcvtw_inv m g s h_s (inSet_trans rfl hm)
  | .zld m g => execZld_inv m g s h_s (inSet_trans rfl hm)
  | .zst m g => execZst_inv m g s h_s (inSet_trans rfl hm)
  | .zmma m g => execZmma_inv m g s h_s (inSet_trans rfl hm)
  | .zzero m g => execZzero_inv m g s h_s (inSet_trans rfl hm)
  | .needleLoad m g => execNeedleLoad_inv m g s h_s (inSet_trans rfl hm)
  | .needleStore m g => execNeedleStore_inv m g s h_s (inSet_trans rfl hm)
  | .needleAmo m g => execNeedleAmo_inv m g s h_s (inSet_trans rfl hm)
  | .needleLr m g => execNeedleLr_inv m g s h_s (inSet_trans rfl hm)
  | .needleSc m g => execNeedleSc_inv m g s h_s (inSet_trans rfl hm)
  | .needleFence m g => execNeedleFence_inv m g s h_s (inSet_trans rfl hm)
  | .needleBranch m g => execNeedleBranch_inv m g s h_s (inSet_trans rfl hm)
  | .needleCsrWrite m g => execNeedleCsrWrite_inv m g s h_s (inSet_trans rfl hm)
  | .needleEcall m g => execNeedleEcall_inv m g s h_s (inSet_trans rfl hm)
  | .needleEbreak m g => execNeedleEbreak_inv m g s h_s (inSet_trans rfl hm)
  | .needleOtherInstruction m g => execNeedleOtherInstruction_inv m g s h_s (inSet_trans rfl hm)
  | .hostDoorbell off size v rid => execHostDoorbell_inv off size v rid s h_s (inSet_trans rfl hm)
  | .nodeCoreDoorbell off v => execNodeCoreDoorbell_inv off v s h_s (inSet_trans rfl hm)
  | .commandFetch qid data poisoned => execCommandFetch_inv qid data poisoned s h_s (inSet_trans rfl hm)
  | .seqReread qid data => execSeqReread_inv qid data s h_s (inSet_trans rfl hm)
  | .fetchReissue qid => execFetchReissue_inv qid s h_s (inSet_trans rfl hm)
  | .createCq => execCreateCq_inv s h_s (inSet_trans rfl hm)
  | .createSq => execCreateSq_inv s h_s (inSet_trans rfl hm)
  | .stopSq => execStopSq_inv s h_s (inSet_trans rfl hm)
  | .stopSqDone qid => execStopSqDone_inv qid s h_s (inSet_trans rfl hm)
  | .deleteSq => execDeleteSq_inv s h_s (inSet_trans rfl hm)
  | .deleteCq => execDeleteCq_inv s h_s (inSet_trans rfl hm)
  | .bindSq => execBindSq_inv s h_s (inSet_trans rfl hm)
  | .bindSqDone => execBindSqDone_inv s h_s (inSet_trans rfl hm)
  | .nop qid => execNop_inv qid s h_s (inSet_trans rfl hm)
  | .stitch qid => execStitch_inv qid s h_s (inSet_trans rfl hm)
  | .stitchDispatch qid => execStitchDispatch_inv qid s h_s (inSet_trans rfl hm)
  | .dlistItemIssue m => execDlistItemIssue_inv m s h_s (inSet_trans rfl hm)
  | .stitchCommandDone qid idx => execStitchCommandDone_inv qid idx s h_s (inSet_trans rfl hm)
  | .writeInline qid => execWriteInline_inv qid s h_s (inSet_trans rfl hm)
  | .copy qid => execCopy_inv qid s h_s (inSet_trans rfl hm)
  | .hostReadCompletion qid idx data outcome => execHostReadCompletion_inv qid idx data outcome s h_s (inSet_trans rfl hm)
  | .skein qid => execSkein_inv qid s h_s (inSet_trans rfl hm)
  | .signal qid => execSignal_inv qid s h_s (inSet_trans rfl hm)
  | .wait qid => execWait_inv qid s h_s (inSet_trans rfl hm)
  | .waitSatisfied qid => execWaitSatisfied_inv qid s h_s (inSet_trans rfl hm)
  | .prefetch qid data ok => execPrefetch_inv qid data ok s h_s (inSet_trans rfl hm)
  | .adviseEvict qid ok => execAdviseEvict_inv qid ok s h_s (inSet_trans rfl hm)
  | .adviseDrop qid => execAdviseDrop_inv qid s h_s (inSet_trans rfl hm)
  | .adviseWarm qid => execAdviseWarm_inv qid s h_s (inSet_trans rfl hm)
  | .qeCqDb v => execQeCqDb_inv v s h_s (inSet_trans rfl hm)
  | .qeAdminSqWrite v => execQeAdminSqWrite_inv v s h_s (inSet_trans rfl hm)
  | .qeAdminCqWrite v => execQeAdminCqWrite_inv v s h_s (inSet_trans rfl hm)
  | .skeinOpen => execSkeinOpen_inv s h_s (inSet_trans rfl hm)
  | .skeinAppend => execSkeinAppend_inv s h_s (inSet_trans rfl hm)
  | .skeinRead => execSkeinRead_inv s h_s (inSet_trans rfl hm)
  | .skeinMark => execSkeinMark_inv s h_s (inSet_trans rfl hm)
  | .skeinRewind => execSkeinRewind_inv s h_s (inSet_trans rfl hm)
  | .skeinRelease => execSkeinRelease_inv s h_s (inSet_trans rfl hm)
  | .skeinRetract => execSkeinRetract_inv s h_s (inSet_trans rfl hm)
  | .skeinClose => execSkeinClose_inv s h_s (inSet_trans rfl hm)
  | .skCountsLoRead stream => execSkCountsLoRead_inv stream s h_s (inSet_trans rfl hm)
  | .rwRowLoRead => execRwRowLoRead_inv s h_s (inSet_trans rfl hm)
  | .counterLoWordRead path addr => execCounterLoWordRead_inv path addr s h_s (inSet_trans rfl hm)
  | .rdS home q line => execRdS_inv home q line s h_s (inSet_trans rfl hm)
  | .rdX home q line => execRdX_inv home q line s h_s (inSet_trans rfl hm)
  | .upg home q line => execUpg_inv home q line s h_s (inSet_trans rfl hm)
  | .wb home q line data => execWb_inv home q line data s h_s (inSet_trans rfl hm)
  | .cleanEvict home q line => execCleanEvict_inv home q line s h_s (inSet_trans rfl hm)
  | .rdNc home q line => execRdNc_inv home q line s h_s (inSet_trans rfl hm)
  | .wrNc home q line data mask hint => execWrNc_inv home q line data mask hint s h_s (inSet_trans rfl hm)
  | .atomFar home q line op => execAtomFar_inv home q line op s h_s (inSet_trans rfl hm)
  | .farAtomicExecute home => execFarAtomicExecute_inv home s h_s (inSet_trans rfl hm)
  | .fwdS owner q line => execFwdS_inv owner q line s h_s (inSet_trans rfl hm)
  | .fwdX owner q line => execFwdX_inv owner q line s h_s (inSet_trans rfl hm)
  | .fwdNc owner q line => execFwdNc_inv owner q line s h_s (inSet_trans rfl hm)
  | .recall owner line => execRecall_inv owner line s h_s (inSet_trans rfl hm)
  | .inv sharer q line => execInv_inv sharer q line s h_s (inSet_trans rfl hm)
  | .push target line data => execPush_inv target line data s h_s (inSet_trans rfl hm)
  | .homeRsp q line st acks data => execHomeRsp_inv q line st acks data s h_s (inSet_trans rfl hm)
  | .data q line st data => execData_inv q line st data s h_s (inSet_trans rfl hm)
  | .invAck q sharer line => execInvAck_inv q sharer line s h_s (inSet_trans rfl hm)
  | .recallData home owner line data => execRecallData_inv home owner line data s h_s (inSet_trans rfl hm)
  | .nodata home owner line => execNodata_inv home owner line s h_s (inSet_trans rfl hm)
  | .pushAck home target line => execPushAck_inv home target line s h_s (inSet_trans rfl hm)
  | .pushDrop home target line => execPushDrop_inv home target line s h_s (inSet_trans rfl hm)
  | .done home q line => execDone_inv home q line s h_s (inSet_trans rfl hm)
  | .reservationServe home line => execReservationServe_inv home line s h_s (inSet_trans rfl hm)
  | .nack q line cause => execNack_inv q line cause s h_s (inSet_trans rfl hm)
  | .nackRetry q line => execNackRetry_inv q line s h_s (inSet_trans rfl hm)
  | .reserved q line => execReserved_inv q line s h_s (inSet_trans rfl hm)
  | .wbAck owner line => execWbAck_inv owner line s h_s (inSet_trans rfl hm)
  | .wrAck q line => execWrAck_inv q line s h_s (inSet_trans rfl hm)
  | .rdRsp q line data => execRdRsp_inv q line data s h_s (inSet_trans rfl hm)
  | .atomRsp q line olds contended poisoned => execAtomRsp_inv q line olds contended poisoned s h_s (inSet_trans rfl hm)
  | .memReq src tag r => execMemReq_inv src tag r s h_s (inSet_trans rfl hm)
  | .memRsp dst tag ok data => execMemRsp_inv dst tag ok data s h_s (inSet_trans rfl hm)
  | .intMessage src vector => execIntMessage_inv src vector s h_s (inSet_trans rfl hm)
  | .l2PredClear m => execL2PredClear_inv m s h_s (inSet_trans rfl hm)
  | .stackTempRead k temp => execStackTempRead_inv k temp s h_s (inSet_trans rfl hm)
  | .stackPowerSample k mw => execStackPowerSample_inv k mw s h_s (inSet_trans rfl hm)
  | .perBankRefresh k pc bank => execPerBankRefresh_inv k pc bank s h_s (inSet_trans rfl hm)
  | .rfm k pc bank threshold => execRfm_inv k pc bank threshold s h_s (inSet_trans rfl hm)
  | .patrolScrub k pc => execPatrolScrub_inv k pc s h_s (inSet_trans rfl hm)
  | .softRepair k pc row sid bank repairLeft => execSoftRepair_inv k pc row sid bank repairLeft s h_s (inSet_trans rfl hm)
  | .hotMean k mean => execHotMean_inv k mean s h_s (inSet_trans rfl hm)
  | .hbGrant v => execHbGrant_inv v s h_s (inSet_trans rfl hm)
  | .evacSegmentCopy => execEvacSegmentCopy_inv s h_s (inSet_trans rfl hm)
  | .evacSegmentCommit => execEvacSegmentCommit_inv s h_s (inSet_trans rfl hm)
  | .hbInjectArm k v => execHbInjectArm_inv k v s h_s (inSet_trans rfl hm)
  | .hbTgenStart k pc v => execHbTgenStart_inv k pc v s h_s (inSet_trans rfl hm)
  | .hbTgenDone k pc miscompare ecc firstBad => execHbTgenDone_inv k pc miscompare ecc firstBad s h_s (inSet_trans rfl hm)
  | .faultReport m f => execFaultReport_inv m f s h_s (inSet_trans rfl hm)
  | .faultWindowClose entry => execFaultWindowClose_inv entry s h_s (inSet_trans rfl hm)
  | .faultResume entry gen => execFaultResume_inv entry gen s h_s (inSet_trans rfl hm)
  | .faultAbort entry gen => execFaultAbort_inv entry gen s h_s (inSet_trans rfl hm)
  | .invPage asid => execInvPage_inv asid s h_s (inSet_trans rfl hm)
  | .invRange pages asid => execInvRange_inv pages asid s h_s (inSet_trans rfl hm)
  | .invAsid asid => execInvAsid_inv asid s h_s (inSet_trans rfl hm)
  | .invAll => execInvAll_inv s h_s (inSet_trans rfl hm)
  | .tlbInv die seq => execTlbInv_inv die seq s h_s (inSet_trans rfl hm)
  | .invDone die seq => execInvDone_inv die seq s h_s (inSet_trans rfl hm)
  | .tuFringCiWrite v => execTuFringCiWrite_inv v s h_s (inSet_trans rfl hm)
  | .tuFringBaseWrite v => execTuFringBaseWrite_inv v s h_s (inSet_trans rfl hm)
  | .regRd addr wide => execRegRd_inv addr wide s h_s (inSet_trans rfl hm)
  | .regWr addr wide v => execRegWr_inv addr wide v s h_s (inSet_trans rfl hm)
  | .regRsp addr wide v => execRegRsp_inv addr wide v s h_s (inSet_trans rfl hm)
  | .regTimeout addr wide => execRegTimeout_inv addr wide s h_s (inSet_trans rfl hm)
  | .routeSet die row table => execRouteSet_inv die row table s h_s (inSet_trans rfl hm)
  | .mapSet die row salt ranges => execMapSet_inv die row salt ranges s h_s (inSet_trans rfl hm)
  | .bindSet die row qid mask cls => execBindSet_inv die row qid mask cls s h_s (inSet_trans rfl hm)
  | .posSet die row m st => execPosSet_inv die row m st s h_s (inSet_trans rfl hm)
  | .patternData die off data => execPatternData_inv die off data s h_s (inSet_trans rfl hm)
  | .seqCmd die cmd => execSeqCmd_inv die cmd s h_s (inSet_trans rfl hm)
  | .faultRpt kind id cause => execFaultRpt_inv kind id cause s h_s (inSet_trans rfl hm)
  | .chainAck src hop seq => execChainAck_inv src hop seq s h_s (inSet_trans rfl hm)
  | .chainResend src hop f => execChainResend_inv src hop f s h_s (inSet_trans rfl hm)
  | .seamTrainingDone seam maskA maskB sbLanes => execSeamTrainingDone_inv seam maskA maskB sbLanes s h_s (inSet_trans rfl hm)
  | .widthAdv seam side mask => execWidthAdv_inv seam side mask s h_s (inSet_trans rfl hm)
  | .widthSet seam side width mask => execWidthSet_inv seam side width mask s h_s (inSet_trans rfl hm)
  | .widthSetTimeout seam => execWidthSetTimeout_inv seam s h_s (inSet_trans rfl hm)
  | .seamTestPatternDone seam pass => execSeamTestPatternDone_inv seam pass s h_s (inSet_trans rfl hm)
  | .seamState die seam mask => execSeamState_inv die seam mask s h_s (inSet_trans rfl hm)
  | .seamFault seam linkDown => execSeamFault_inv seam linkDown s h_s (inSet_trans rfl hm)
  | .guestLinkUp g => execGuestLinkUp_inv g s h_s (inSet_trans rfl hm)
  | .vspCap g part block => execVspCap_inv g part block s h_s (inSet_trans rfl hm)
  | .vspGrant g crc => execVspGrant_inv g crc s h_s (inSet_trans rfl hm)
  | .vspAck g crc => execVspAck_inv g crc s h_s (inSet_trans rfl hm)
  | .vspTimeout g => execVspTimeout_inv g s h_s (inSet_trans rfl hm)
  | .guestRequest g r => execGuestRequest_inv g r s h_s (inSet_trans rfl hm)
  | .bar0BadAccess write addr size => execBar0BadAccess_inv write addr size s h_s (inSet_trans rfl hm)
  | .bar4Read off len rid => execBar4Read_inv off len rid s h_s (inSet_trans rfl hm)
  | .bar4Write off data be ep rid => execBar4Write_inv off data be ep rid s h_s (inSet_trans rfl hm)
  | .bar4Fetchadd off wide v rid => execBar4Fetchadd_inv off wide v rid s h_s (inSet_trans rfl hm)
  | .bar4Swap off wide v rid => execBar4Swap_inv off wide v rid s h_s (inSet_trans rfl hm)
  | .bar4Cas off size cmp v rid => execBar4Cas_inv off size cmp v rid s h_s (inSet_trans rfl hm)
  | .linkRetrain speed width => execLinkRetrain_inv speed width s h_s (inSet_trans rfl hm)
  | .hostSideReset cause => execHostSideReset_inv cause s h_s (inSet_trans rfl hm)
  | .resizableBarWrite log2 => execResizableBarWrite_inv log2 s h_s (inSet_trans rfl hm)
  | .memoryDecodeEnable => execMemoryDecodeEnable_inv s h_s (inSet_trans rfl hm)
  | .d3hotEntry => execD3hotEntry_inv s h_s (inSet_trans rfl hm)
  | .d0Return => execD0Return_inv s h_s (inSet_trans rfl hm)
  | .msixUnmask vector => execMsixUnmask_inv vector s h_s (inSet_trans rfl hm)
  | .completionTimeout qid idx => execCompletionTimeout_inv qid idx s h_s (inSet_trans rfl hm)
  | .flushReadDone qid idx ok => execFlushReadDone_inv qid idx ok s h_s (inSet_trans rfl hm)
  | .pxLostPop => execPxLostPop_inv s h_s (inSet_trans rfl hm)
  | .remoteRequest r => execRemoteRequest_inv r s h_s (inSet_trans rfl hm)
  | .fabricRead f => execFabricRead_inv f s h_s (inSet_trans rfl hm)
  | .fabricReadRsp f => execFabricReadRsp_inv f s h_s (inSet_trans rfl hm)
  | .fabricWrite f => execFabricWrite_inv f s h_s (inSet_trans rfl hm)
  | .fabricWriteRsp f => execFabricWriteRsp_inv f s h_s (inSet_trans rfl hm)
  | .fabricAtomic f => execFabricAtomic_inv f s h_s (inSet_trans rfl hm)
  | .fabricAtomicRsp f => execFabricAtomicRsp_inv f s h_s (inSet_trans rfl hm)
  | .fabricAck f => execFabricAck_inv f s h_s (inSet_trans rfl hm)
  | .fabricNak f => execFabricNak_inv f s h_s (inSet_trans rfl hm)
  | .ackTimer node lot => execAckTimer_inv node lot s h_s (inSet_trans rfl hm)
  | .retransmitTimeout node lot => execRetransmitTimeout_inv node lot s h_s (inSet_trans rfl hm)
  | .flowLost node lot => execFlowLost_inv node lot s h_s (inSet_trans rfl hm)
  | .flowIdleFree node lot => execFlowIdleFree_inv node lot s h_s (inSet_trans rfl hm)
  | .fabricPortDown p => execFabricPortDown_inv p s h_s (inSet_trans rfl hm)
  | .fabricPortUp p => execFabricPortUp_inv p s h_s (inSet_trans rfl hm)
  | .lotAdd index row => execLotAdd_inv index row s h_s (inSet_trans rfl hm)
  | .lotBindoff index row => execLotBindoff_inv index row s h_s (inSet_trans rfl hm)
  | .lotRemoved k => execLotRemoved_inv k s h_s (inSet_trans rfl hm)
  | .bindoffForced k => execBindoffForced_inv k s h_s (inSet_trans rfl hm)
  | .ptpSync offset => execPtpSync_inv offset s h_s (inSet_trans rfl hm)
  | .ptpMessage gm => execPtpMessage_inv gm s h_s (inSet_trans rfl hm)
  | .ptpHoldover => execPtpHoldover_inv s h_s (inSet_trans rfl hm)
  | .ppsEdge offset => execPpsEdge_inv offset s h_s (inSet_trans rfl hm)
  | .ppsLost => execPpsLost_inv s h_s (inSet_trans rfl hm)
  | .tsTimeLoRead => execTsTimeLoRead_inv s h_s (inSet_trans rfl hm)
  | .nodeCoreInstruction h fetch compressed i0 => execNodeCoreInstruction_inv h fetch compressed i0 s h_s (inSet_trans rfl hm)
  | .nodeCoreTimer h => execNodeCoreTimer_inv h s h_s (inSet_trans rfl hm)
  | .mctpMessage b ty ours data => execMctpMessage_inv b ty ours data s h_s (inSet_trans rfl hm)
  | .setEndpointId b eid => execSetEndpointId_inv b eid s h_s (inSet_trans rfl hm)
  | .pldmDiscovery b cmd => execPldmDiscovery_inv b cmd s h_s (inSet_trans rfl hm)
  | .pldmPlatform b cmd sensor => execPldmPlatform_inv b cmd sensor s h_s (inSet_trans rfl hm)
  | .pldmFru b cmd => execPldmFru_inv b cmd s h_s (inSet_trans rfl hm)
  | .requestUpdate b => execRequestUpdate_inv b s h_s (inSet_trans rfl hm)
  | .updateComponent b ident size => execUpdateComponent_inv b ident size s h_s (inSet_trans rfl hm)
  | .requestFirmwareData b off data => execRequestFirmwareData_inv b off data s h_s (inSet_trans rfl hm)
  | .activateFirmware b => execActivateFirmware_inv b s h_s (inSet_trans rfl hm)
  | .sensorSample id v => execSensorSample_inv id v s h_s (inSet_trans rfl hm)
  | .getInfo ch => execGetInfo_inv ch s h_s (inSet_trans rfl hm)
  | .readSensor ch => execReadSensor_inv ch s h_s (inSet_trans rfl hm)
  | .readTelemetry ch => execReadTelemetry_inv ch s h_s (inSet_trans rfl hm)
  | .slotInfo ch => execSlotInfo_inv ch s h_s (inSet_trans rfl hm)
  | .slotBegin ch => execSlotBegin_inv ch s h_s (inSet_trans rfl hm)
  | .slotData ch => execSlotData_inv ch s h_s (inSet_trans rfl hm)
  | .slotEnd ch => execSlotEnd_inv ch s h_s (inSet_trans rfl hm)
  | .sessionTimeout => execSessionTimeout_inv s h_s (inSet_trans rfl hm)
  | .repattern ch => execRepattern_inv ch s h_s (inSet_trans rfl hm)
  | .slotErase ch => execSlotErase_inv ch s h_s (inSet_trans rfl hm)
  | .setMinSvn ch => execSetMinSvn_inv ch s h_s (inSet_trans rfl hm)
  | .getSwatch ch => execGetSwatch_inv ch s h_s (inSet_trans rfl hm)
  | .readSwatch ch => execReadSwatch_inv ch s h_s (inSet_trans rfl hm)
  | .fwBegin ch => execFwBegin_inv ch s h_s (inSet_trans rfl hm)
  | .fwData ch => execFwData_inv ch s h_s (inSet_trans rfl hm)
  | .fwEnd ch => execFwEnd_inv ch s h_s (inSet_trans rfl hm)
  | .enrollOwnerKey ch => execEnrollOwnerKey_inv ch s h_s (inSet_trans rfl hm)
  | .keyStage ch => execKeyStage_inv ch s h_s (inSet_trans rfl hm)
  | .getChallenge ch => execGetChallenge_inv ch s h_s (inSet_trans rfl hm)
  | .challengeExpiry => execChallengeExpiry_inv s h_s (inSet_trans rfl hm)
  | .fwSetMinSvn ch => execFwSetMinSvn_inv ch s h_s (inSet_trans rfl hm)
  | .getIdentity ch => execGetIdentity_inv ch s h_s (inSet_trans rfl hm)
  | .ncRelease ch => execNcRelease_inv ch s h_s (inSet_trans rfl hm)
  | .resetCold ch => execResetCold_inv ch s h_s (inSet_trans rfl hm)
  | .resetWarm ch => execResetWarm_inv ch s h_s (inSet_trans rfl hm)
  | .powerGood => execPowerGood_inv s h_s (inSet_trans rfl hm)
  | .powerFail => execPowerFail_inv s h_s (inSet_trans rfl hm)
  | .mcLeaveReset sel r => execMcLeaveReset_inv sel r s h_s (inSet_trans rfl hm)
  | .stepBudgetExpiry r => execStepBudgetExpiry_inv r s h_s (inSet_trans rfl hm)
  | .lockTimeout => execLockTimeout_inv s h_s (inSet_trans rfl hm)
  | .watchdog => execWatchdog_inv s h_s (inSet_trans rfl hm)
  | .coldRstN level => execColdRstN_inv level s h_s (inSet_trans rfl hm)
  | .warmRstN level => execWarmRstN_inv level s h_s (inSet_trans rfl hm)
  | .thermalTrip => execThermalTrip_inv s h_s (inSet_trans rfl hm)
  | .tripClear => execTripClear_inv s h_s (inSet_trans rfl hm)
  | .currentGuardSample ma => execCurrentGuardSample_inv ma s h_s (inSet_trans rfl hm)
  | .trefLost => execTrefLost_inv s h_s (inSet_trans rfl hm)
  | .ocxoWarm => execOcxoWarm_inv s h_s (inSet_trans rfl hm)
  | .sequencerTakeEntry => execSequencerTakeEntry_inv s h_s (inSet_trans rfl hm)
  | .motifDrained => execMotifDrained_inv s h_s (inSet_trans rfl hm)
  | .motifSelfTestDone pass => execMotifSelfTestDone_inv pass s h_s (inSet_trans rfl hm)
  | .mcTestRelease => execMcTestRelease_inv s h_s (inSet_trans rfl hm)
  | .hbTestEnter pc => execHbTestEnter_inv pc s h_s (inSet_trans rfl hm)
  | .hbTestLeave pc => execHbTestLeave_inv pc s h_s (inSet_trans rfl hm)
  | .mcBistStart m => execMcBistStart_inv m s h_s (inSet_trans rfl hm)
  | .mcBistDone failUnit => execMcBistDone_inv failUnit s h_s (inSet_trans rfl hm)
  | .loopbackStart b v => execLoopbackStart_inv b v s h_s (inSet_trans rfl hm)
  | .loopbackStop b bits errors laneErr => execLoopbackStop_inv b bits errors laneErr s h_s (inSet_trans rfl hm)
  | .loopbackLockTimeout b bits => execLoopbackLockTimeout_inv b bits s h_s (inSet_trans rfl hm)
  | .loopbackDurationEnd b bits errors laneErr => execLoopbackDurationEnd_inv b bits errors laneErr s h_s (inSet_trans rfl hm)
  | .tapReset => execTapReset_inv s h_s (inSet_trans rfl hm)
  | .bypass => execBypass_inv s h_s (inSet_trans rfl hm)
  | .idcode => execIdcode_inv s h_s (inSet_trans rfl hm)
  | .samplePreload cells => execSamplePreload_inv cells s h_s (inSet_trans rfl hm)
  | .extest => execExtest_inv s h_s (inSet_trans rfl hm)
  | .clamp => execClamp_inv s h_s (inSet_trans rfl hm)
  | .highz => execHighz_inv s h_s (inSet_trans rfl hm)
  | .extestPulse => execExtestPulse_inv s h_s (inSet_trans rfl hm)
  | .extestTrain => execExtestTrain_inv s h_s (inSet_trans rfl hm)
  | .regAccess write wide addr v => execRegAccess_inv write wide addr v s h_s (inSet_trans rfl hm)
  | .debug => execDebug_inv s h_s (inSet_trans rfl hm)
  | .evRingBaseWrite v => execEvRingBaseWrite_inv v s h_s (inSet_trans rfl hm)
  | .evRingCiWrite v => execEvRingCiWrite_inv v s h_s (inSet_trans rfl hm)
  | .registerWrite path addr wide v => execRegisterWrite_inv path addr wide v s h_s (inSet_trans rfl hm)
  | .hostLinkUp speed width => execHostLinkUp_inv speed width s h_s (inSet_trans rfl hm)
  | .busMasterEnable => execBusMasterEnable_inv s h_s (inSet_trans rfl hm)
  | .trefInUse => execTrefInUse_inv s h_s (inSet_trans rfl hm)
  | .loopbackLock b => execLoopbackLock_inv b s h_s (inSet_trans rfl hm)
  | .burstDone k pc r => execBurstDone_inv k pc r s h_s (inSet_trans rfl hm)
  | .countPublication which stream => execCountPublication_inv which stream s h_s (inSet_trans rfl hm)
  | .recoveryEnd ok => execRecoveryEnd_inv ok s h_s (inSet_trans rfl hm)

end Sys2Proof.Machine
end

