-- ==== Sys2Proof/Laws/InvTick.lean ====
section
/-!
SUPPORT. Laws/InvTick.lean: the operations of Machine/Tick.lean write only the fields named, and keep memories canonical.
-/

set_option simprocs false
set_option linter.unusedSimpArgs false
set_option linter.unusedVariables false

namespace Sys2Proof.Machine

theorem State.tick_inv {fm : Nat} {s₀ : State} (s : State) (h_s : Inv fm s₀ s) (hm : InSet 17592186044414 fm) :
    Inv fm s₀ (State.tick s) := by
  delta State.tick
  repeat' first
    | exact inSet_trans rfl hm
    | with_reducible exact Or.inr rfl
    | exact Or.inl (inSet_trans rfl hm)
    | with_reducible first
      | assumption | (intro) | apply State.countFull_inv | apply State.dueReset_inv | apply State.idleSlots_inv
      | apply State.netStep_inv | apply State.retryReqs_inv | apply Inv.ite | apply Upd.of
      | simp -iota only [Inv.update] | split | dsimp -iota only | dsimp only

end Sys2Proof.Machine
end

