-- ==== Sys2Proof/Laws/Issue.lean ====
section
/-!
SUPPORT. Laws/Issue.lean: what the issue of a group's instruction does where its needle picks the group: one law for a slot, one for
a register instruction, one for a collective and one for a memory instruction. Cite these in place of unfolding issueCore.
-/

namespace Sys2Proof.Machine

/-- A picked group's slot: its instruction runs, or with no active thread the group only goes on. -/
theorem issueCore_picked {s t : State} {m : Motif} {g : GroupSlot} {x : Group} {l : LaunchJob} {w : Nat}
    (h : Picked s t m g x l w) {p : Nat → Bool} (hp : p w = true) (even : Bool) (run : Group → LaunchJob → Nat → State → State) :
    s.issueCore m g p even run =
      if x.am = 0 ∧ even = false then (t.bump (C.TG_CNT_GROUP_INSTR m) 1).putGroup m g (some x.step4) else run x l w t := by
  obtain ⟨hl, hpos, hn, y, u, hg, hi, rfl, hf, hh, rfl⟩ := h
  simp only [State.issueCore, hg, hl, hi, hpos, hf, hp, hh, hn]
  cases even <;> simp

/-- An instruction done with in its slot, of a group with active threads. -/
theorem issue_issues {s t : State} {m : Motif} {g : GroupSlot} {x : Group} {l : LaunchJob} {w : Nat} (h : Issues s t m g x l w)
    {p : Nat → Bool} (hp : p w = true) (even : Bool) (run : Group → LaunchJob → Nat → State → State) :
    s.issue m g p even run = run x l w t := by
  obtain ⟨u, h, ha, rfl⟩ := h
  rw [State.issue, issueCore_picked h hp, if_neg fun k => ha k.1]

/-- A memory instruction of a picked group that has none in progress. -/
theorem memInstr_picked {s t : State} {m : Motif} {g : GroupSlot} {x : Group} {l : LaunchJob} {w : Nat} (h : Picked s t m g x l w)
    (hm : x.mem = none) {p : Nat → Bool} (hp : p w = true) (c : Bool) (b : Group → LaunchJob → Nat → State → Option MemOp × State)
    (pu : Group → LaunchJob → MemOp → State → State) :
    s.memInstr m g p c b pu =
      if x.am = 0 ∧ c = false then (t.bump (C.TG_CNT_GROUP_INSTR m) 1).putGroup m g (some x.step4)
      else if c = true ∧ x.am ≠ x.pm then (t.bump (C.TG_CNT_GROUP_INSTR m) 1).groupFault m g x GF.DIVERGENT_COLLECTIVE
      else
        match b x l w t with
        | (none, u) => u
        | (some op, u) => pu x.step4 l op u := by
  have hc := issueCore_picked h hp c
  obtain ⟨hl, hpos, hn, y, u, hg, hi, rfl, hf, hh, rfl⟩ := h
  simp only at hm
  simp only [State.memInstr, hg, hl, hm, hc]
  cases c <;> simp <;> rfl

/-- A command whose meaning is `State.memInstr` runs its memory instructions as `Pursues` says. -/
theorem pursues_of_memInstr {p : Nat → Bool} {together : Bool} {c : Motif → GroupSlot → Instr}
    {b : Motif → GroupSlot → Group → LaunchJob → Nat → State → Option MemOp × State}
    {pu : Motif → GroupSlot → Group → LaunchJob → MemOp → State → State}
    (h : ∀ m g s, exec (c m g) s = .next (s.memInstr m g p together (b m g) (pu m g))) : Pursues p (together = true) c b pu := by
  refine ⟨fun m g s t x l w hp hm hw ha ht => ?_, fun m g s x l op hg hl hm hp hs hpos => ?_⟩
  · rw [h, memInstr_picked hp hm hw, if_neg fun k => ha k.1, if_neg fun k => k.2 (ht k.1)]
    all_goals rfl
  · rw [h]
    simp [State.memInstr, hg, hl, hm, hp, hs, hpos]

end Sys2Proof.Machine
end

