-- ==== Sys2Proof/Laws/Served.lean ====
section
/-!
SUPPORT. Served.lean: what a mailbox command and a frame on the fabric do, said once for the commands that share it.
-/

namespace Sys2Proof.Laws

open Sys2Proof.Machine

/-- A command that runs `f` as a job of opcode `opc` runs as the mailbox runs its commands. -/
theorem mailboxRuns_of_runJob {opc : Nat} {c : Channel → Instr} {f : Channel → Job → State → State}
    (h : ∀ ch s, exec (c ch) s = .next (s.runJob ch opc (f ch))) : MailboxRuns opc c f := by
  intro ch s
  rw [h]
  refine ⟨fun j js hj hs hc ho => ⟨fun hv => ?_, fun hv => ?_⟩, fun hn => ?_⟩
  · simp only [State.runJob, hj]
    rw [if_pos (by simp [hs, hc, ho]), if_pos hv]
  · simp only [State.runJob, hj]
    rw [if_pos (by simp [hs, hc, ho]), hv]
    rfl
  · unfold State.runJob
    split
    · rfl
    · rename_i j js hj
      rw [if_neg]
      intro hp
      simp only [Bool.and_eq_true, decide_eq_true_eq] at hp
      rcases hn j js hj with h' | h' | h'
      · exact hp.1.1 h'
      · exact h' hp.1.2
      · exact h' hp.2

/-- A frame outside its flow's order is put through R439's checks. -/
theorem checksFrames_of_receiveAck {type : Nat} {c : Frame → Instr} {act : Frame → State → State → State}
    (h : ∀ f s, exec (c f) s = .next (s.receiveAck type f (act f s))) : ChecksFrames type c act := by
  intro f s t k hk ht
  subst hk ht
  rw [h]
  refine ⟨fun h1 => ?_, fun h1 h2 => ?_, fun h1 h2 h3 => ?_, fun h1 h2 h3 h4 => ?_, fun k u h1 h2 h3 h4 hu => ?_⟩ <;>
    simp_all [State.receiveAck]

/-- A frame of a flow is put through R439's checks and delivered in its flow's order. -/
theorem takesFrames_of_receive {type : Nat} {c : Frame → Instr} {serve : Frame → State → Option State}
    (h : ∀ f s, exec (c f) s = .next (s.receive type f (serve f))) : TakesFrames type c serve := by
  intro f s t k hk ht
  subst hk ht
  rw [h]
  refine ⟨fun h1 => ?_, fun h1 h2 => ?_, fun h1 h2 h3 => ?_, fun h1 h2 h3 h4 => ?_, fun k u h1 h2 h3 h4 hu => ?_⟩
  · simp [State.receive, h1]
  · simp [State.receive, h1, h2]
  · simp [State.receive, h1, h2, h3]
  · simp [State.receive, h1, h2, h3, h4]
  · subst hu
    simp only [State.receive, h1, h2, h3, h4]
    simp only [Bool.not_true, Bool.false_eq_true, if_false, ne_eq, not_true_eq_false, Option.isNone_some]
    generalize State.acked _ _ _ _ = u
    cases u.rxFlow _ with
    | none =>
      by_cases h5 : hf f.header.toNat 8 8 = 0
      · simp [h5]
      · by_cases h6 : 16384 ≤ u.fabric.tx.length + u.fabric.rx.length <;> simp [h5, h6]
    | some r =>
      simp only []
      generalize orderOf (some r) _ _ = o
      cases o <;> cases hn : r.nakAt <;> simp

end Sys2Proof.Laws
end

