-- ==== Sys2Proof/Laws/State.lean ====
section
/-!
SUPPORT. Laws/State.lean: each field after each plain update of the state.
-/

namespace Sys2Proof.Machine

/-! ### State.setReg -/

@[simp] theorem State.setReg_pending (s : State) (a v : Nat) : (s.setReg a v).pending = s.pending := rfl
@[simp] theorem State.setReg_now (s : State) (a v : Nat) : (s.setReg a v).now = s.now := rfl
@[simp] theorem State.setReg_mem (s : State) (a v : Nat) : (s.setReg a v).mem = s.mem := rfl
@[simp] theorem State.setReg_poison (s : State) (a v : Nat) : (s.setReg a v).poison = s.poison := rfl
@[simp] theorem State.setReg_flips (s : State) (a v : Nat) : (s.setReg a v).flips = s.flips := rfl
@[simp] theorem State.setReg_salt (s : State) (a v : Nat) : (s.setReg a v).salt = s.salt := rfl
@[simp] theorem State.setReg_flash (s : State) (a v : Nat) : (s.setReg a v).flash = s.flash := rfl
@[simp] theorem State.setReg_pattern (s : State) (a v : Nat) : (s.setReg a v).pattern = s.pattern := rfl
@[simp] theorem State.setReg_redirect (s : State) (a v : Nat) : (s.setReg a v).redirect = s.redirect := rfl
@[simp] theorem State.setReg_locals (s : State) (a v : Nat) : (s.setReg a v).locals = s.locals := rfl
@[simp] theorem State.setReg_arrays (s : State) (a v : Nat) : (s.setReg a v).arrays = s.arrays := rfl
@[simp] theorem State.setReg_vecs (s : State) (a v : Nat) : (s.setReg a v).vecs = s.vecs := rfl
@[simp] theorem State.setReg_needles (s : State) (a v : Nat) : (s.setReg a v).needles = s.needles := rfl
@[simp] theorem State.setReg_resv (s : State) (a v : Nat) : (s.setReg a v).resv = s.resv := rfl
@[simp] theorem State.setReg_agents (s : State) (a v : Nat) : (s.setReg a v).agents = s.agents := rfl
@[simp] theorem State.setReg_homes (s : State) (a v : Nat) : (s.setReg a v).homes = s.homes := rfl
@[simp] theorem State.setReg_stackCtl (s : State) (a v : Nat) : (s.setReg a v).stackCtl = s.stackCtl := rfl
@[simp] theorem State.setReg_memMap (s : State) (a v : Nat) : (s.setReg a v).memMap = s.memMap := rfl
@[simp] theorem State.setReg_seams (s : State) (a v : Nat) : (s.setReg a v).seams = s.seams := rfl
@[simp] theorem State.setReg_guests (s : State) (a v : Nat) : (s.setReg a v).guests = s.guests := rfl
@[simp] theorem State.setReg_recovery (s : State) (a v : Nat) : (s.setReg a v).recovery = s.recovery := rfl
@[simp] theorem State.setReg_fabric (s : State) (a v : Nat) : (s.setReg a v).fabric = s.fabric := rfl
@[simp] theorem State.setReg_hall (s : State) (a v : Nat) : (s.setReg a v).hall = s.hall := rfl
@[simp] theorem State.setReg_diePattern (s : State) (a v : Nat) : (s.setReg a v).diePattern = s.diePattern := rfl
@[simp] theorem State.setReg_uncached (s : State) (a v : Nat) : (s.setReg a v).uncached = s.uncached := rfl
@[simp] theorem State.setReg_net (s : State) (a v : Nat) : (s.setReg a v).net = s.net := rfl
@[simp] theorem State.setReg_tu (s : State) (a v : Nat) : (s.setReg a v).tu = s.tu := rfl
@[simp] theorem State.setReg_ev (s : State) (a v : Nat) : (s.setReg a v).ev = s.ev := rfl
@[simp] theorem State.setReg_sent (s : State) (a v : Nat) : (s.setReg a v).sent = s.sent := rfl
@[simp] theorem State.setReg_qe (s : State) (a v : Nat) : (s.setReg a v).qe = s.qe := rfl
@[simp] theorem State.setReg_sk (s : State) (a v : Nat) : (s.setReg a v).sk = s.sk := rfl
@[simp] theorem State.setReg_latches (s : State) (a v : Nat) : (s.setReg a v).latches = s.latches := rfl
@[simp] theorem State.setReg_rowYoke (s : State) (a v : Nat) : (s.setReg a v).rowYoke = s.rowYoke := rfl
@[simp] theorem State.setReg_scheds (s : State) (a v : Nat) : (s.setReg a v).scheds = s.scheds := rfl
@[simp] theorem State.setReg_routes (s : State) (a v : Nat) : (s.setReg a v).routes = s.routes := rfl
@[simp] theorem State.setReg_coherent (s : State) (a v : Nat) : (s.setReg a v).coherent = s.coherent := rfl
@[simp] theorem State.setReg_dieTables (s : State) (a v : Nat) : (s.setReg a v).dieTables = s.dieTables := rfl
@[simp] theorem State.setReg_px (s : State) (a v : Nat) : (s.setReg a v).px = s.px := rfl
@[simp] theorem State.setReg_mc (s : State) (a v : Nat) : (s.setReg a v).mc = s.mc := rfl
@[simp] theorem State.setReg_board (s : State) (a v : Nat) : (s.setReg a v).board = s.board := rfl
@[simp] theorem State.setReg_harts (s : State) (a v : Nat) : (s.setReg a v).harts = s.harts := rfl
@[simp] theorem State.setReg_imsic (s : State) (a v : Nat) : (s.setReg a v).imsic = s.imsic := rfl
@[simp] theorem State.setReg_free (s : State) (a v : Nat) : (s.setReg a v).free = s.free := rfl

/-! ### State.setFld -/

@[simp] theorem State.setFld_pending (s : State) (x : Fld) (v : Nat) : (s.setFld x v).pending = s.pending := rfl
@[simp] theorem State.setFld_now (s : State) (x : Fld) (v : Nat) : (s.setFld x v).now = s.now := rfl
@[simp] theorem State.setFld_mem (s : State) (x : Fld) (v : Nat) : (s.setFld x v).mem = s.mem := rfl
@[simp] theorem State.setFld_poison (s : State) (x : Fld) (v : Nat) : (s.setFld x v).poison = s.poison := rfl
@[simp] theorem State.setFld_flips (s : State) (x : Fld) (v : Nat) : (s.setFld x v).flips = s.flips := rfl
@[simp] theorem State.setFld_salt (s : State) (x : Fld) (v : Nat) : (s.setFld x v).salt = s.salt := rfl
@[simp] theorem State.setFld_flash (s : State) (x : Fld) (v : Nat) : (s.setFld x v).flash = s.flash := rfl
@[simp] theorem State.setFld_pattern (s : State) (x : Fld) (v : Nat) : (s.setFld x v).pattern = s.pattern := rfl
@[simp] theorem State.setFld_redirect (s : State) (x : Fld) (v : Nat) : (s.setFld x v).redirect = s.redirect := rfl
@[simp] theorem State.setFld_locals (s : State) (x : Fld) (v : Nat) : (s.setFld x v).locals = s.locals := rfl
@[simp] theorem State.setFld_arrays (s : State) (x : Fld) (v : Nat) : (s.setFld x v).arrays = s.arrays := rfl
@[simp] theorem State.setFld_vecs (s : State) (x : Fld) (v : Nat) : (s.setFld x v).vecs = s.vecs := rfl
@[simp] theorem State.setFld_needles (s : State) (x : Fld) (v : Nat) : (s.setFld x v).needles = s.needles := rfl
@[simp] theorem State.setFld_resv (s : State) (x : Fld) (v : Nat) : (s.setFld x v).resv = s.resv := rfl
@[simp] theorem State.setFld_agents (s : State) (x : Fld) (v : Nat) : (s.setFld x v).agents = s.agents := rfl
@[simp] theorem State.setFld_homes (s : State) (x : Fld) (v : Nat) : (s.setFld x v).homes = s.homes := rfl
@[simp] theorem State.setFld_stackCtl (s : State) (x : Fld) (v : Nat) : (s.setFld x v).stackCtl = s.stackCtl := rfl
@[simp] theorem State.setFld_memMap (s : State) (x : Fld) (v : Nat) : (s.setFld x v).memMap = s.memMap := rfl
@[simp] theorem State.setFld_seams (s : State) (x : Fld) (v : Nat) : (s.setFld x v).seams = s.seams := rfl
@[simp] theorem State.setFld_guests (s : State) (x : Fld) (v : Nat) : (s.setFld x v).guests = s.guests := rfl
@[simp] theorem State.setFld_recovery (s : State) (x : Fld) (v : Nat) : (s.setFld x v).recovery = s.recovery := rfl
@[simp] theorem State.setFld_fabric (s : State) (x : Fld) (v : Nat) : (s.setFld x v).fabric = s.fabric := rfl
@[simp] theorem State.setFld_hall (s : State) (x : Fld) (v : Nat) : (s.setFld x v).hall = s.hall := rfl
@[simp] theorem State.setFld_diePattern (s : State) (x : Fld) (v : Nat) : (s.setFld x v).diePattern = s.diePattern := rfl
@[simp] theorem State.setFld_uncached (s : State) (x : Fld) (v : Nat) : (s.setFld x v).uncached = s.uncached := rfl
@[simp] theorem State.setFld_net (s : State) (x : Fld) (v : Nat) : (s.setFld x v).net = s.net := rfl
@[simp] theorem State.setFld_tu (s : State) (x : Fld) (v : Nat) : (s.setFld x v).tu = s.tu := rfl
@[simp] theorem State.setFld_ev (s : State) (x : Fld) (v : Nat) : (s.setFld x v).ev = s.ev := rfl
@[simp] theorem State.setFld_sent (s : State) (x : Fld) (v : Nat) : (s.setFld x v).sent = s.sent := rfl
@[simp] theorem State.setFld_qe (s : State) (x : Fld) (v : Nat) : (s.setFld x v).qe = s.qe := rfl
@[simp] theorem State.setFld_sk (s : State) (x : Fld) (v : Nat) : (s.setFld x v).sk = s.sk := rfl
@[simp] theorem State.setFld_latches (s : State) (x : Fld) (v : Nat) : (s.setFld x v).latches = s.latches := rfl
@[simp] theorem State.setFld_rowYoke (s : State) (x : Fld) (v : Nat) : (s.setFld x v).rowYoke = s.rowYoke := rfl
@[simp] theorem State.setFld_scheds (s : State) (x : Fld) (v : Nat) : (s.setFld x v).scheds = s.scheds := rfl
@[simp] theorem State.setFld_routes (s : State) (x : Fld) (v : Nat) : (s.setFld x v).routes = s.routes := rfl
@[simp] theorem State.setFld_coherent (s : State) (x : Fld) (v : Nat) : (s.setFld x v).coherent = s.coherent := rfl
@[simp] theorem State.setFld_dieTables (s : State) (x : Fld) (v : Nat) : (s.setFld x v).dieTables = s.dieTables := rfl
@[simp] theorem State.setFld_px (s : State) (x : Fld) (v : Nat) : (s.setFld x v).px = s.px := rfl
@[simp] theorem State.setFld_mc (s : State) (x : Fld) (v : Nat) : (s.setFld x v).mc = s.mc := rfl
@[simp] theorem State.setFld_board (s : State) (x : Fld) (v : Nat) : (s.setFld x v).board = s.board := rfl
@[simp] theorem State.setFld_harts (s : State) (x : Fld) (v : Nat) : (s.setFld x v).harts = s.harts := rfl
@[simp] theorem State.setFld_imsic (s : State) (x : Fld) (v : Nat) : (s.setFld x v).imsic = s.imsic := rfl
@[simp] theorem State.setFld_free (s : State) (x : Fld) (v : Nat) : (s.setFld x v).free = s.free := rfl

/-! ### State.send -/

@[simp] theorem State.send_pending (s : State) (m : Msg) : (s.send m).pending = s.pending := rfl
@[simp] theorem State.send_now (s : State) (m : Msg) : (s.send m).now = s.now := rfl
@[simp] theorem State.send_regs (s : State) (m : Msg) : (s.send m).regs = s.regs := rfl
@[simp] theorem State.send_mem (s : State) (m : Msg) : (s.send m).mem = s.mem := rfl
@[simp] theorem State.send_poison (s : State) (m : Msg) : (s.send m).poison = s.poison := rfl
@[simp] theorem State.send_flips (s : State) (m : Msg) : (s.send m).flips = s.flips := rfl
@[simp] theorem State.send_salt (s : State) (m : Msg) : (s.send m).salt = s.salt := rfl
@[simp] theorem State.send_flash (s : State) (m : Msg) : (s.send m).flash = s.flash := rfl
@[simp] theorem State.send_pattern (s : State) (m : Msg) : (s.send m).pattern = s.pattern := rfl
@[simp] theorem State.send_redirect (s : State) (m : Msg) : (s.send m).redirect = s.redirect := rfl
@[simp] theorem State.send_locals (s : State) (m : Msg) : (s.send m).locals = s.locals := rfl
@[simp] theorem State.send_arrays (s : State) (m : Msg) : (s.send m).arrays = s.arrays := rfl
@[simp] theorem State.send_vecs (s : State) (m : Msg) : (s.send m).vecs = s.vecs := rfl
@[simp] theorem State.send_needles (s : State) (m : Msg) : (s.send m).needles = s.needles := rfl
@[simp] theorem State.send_resv (s : State) (m : Msg) : (s.send m).resv = s.resv := rfl
@[simp] theorem State.send_agents (s : State) (m : Msg) : (s.send m).agents = s.agents := rfl
@[simp] theorem State.send_homes (s : State) (m : Msg) : (s.send m).homes = s.homes := rfl
@[simp] theorem State.send_stackCtl (s : State) (m : Msg) : (s.send m).stackCtl = s.stackCtl := rfl
@[simp] theorem State.send_memMap (s : State) (m : Msg) : (s.send m).memMap = s.memMap := rfl
@[simp] theorem State.send_seams (s : State) (m : Msg) : (s.send m).seams = s.seams := rfl
@[simp] theorem State.send_guests (s : State) (m : Msg) : (s.send m).guests = s.guests := rfl
@[simp] theorem State.send_recovery (s : State) (m : Msg) : (s.send m).recovery = s.recovery := rfl
@[simp] theorem State.send_fabric (s : State) (m : Msg) : (s.send m).fabric = s.fabric := rfl
@[simp] theorem State.send_hall (s : State) (m : Msg) : (s.send m).hall = s.hall := rfl
@[simp] theorem State.send_diePattern (s : State) (m : Msg) : (s.send m).diePattern = s.diePattern := rfl
@[simp] theorem State.send_uncached (s : State) (m : Msg) : (s.send m).uncached = s.uncached := rfl
@[simp] theorem State.send_net (s : State) (m : Msg) : (s.send m).net = s.net := rfl
@[simp] theorem State.send_tu (s : State) (m : Msg) : (s.send m).tu = s.tu := rfl
@[simp] theorem State.send_ev (s : State) (m : Msg) : (s.send m).ev = s.ev := rfl
@[simp] theorem State.send_qe (s : State) (m : Msg) : (s.send m).qe = s.qe := rfl
@[simp] theorem State.send_sk (s : State) (m : Msg) : (s.send m).sk = s.sk := rfl
@[simp] theorem State.send_latches (s : State) (m : Msg) : (s.send m).latches = s.latches := rfl
@[simp] theorem State.send_rowYoke (s : State) (m : Msg) : (s.send m).rowYoke = s.rowYoke := rfl
@[simp] theorem State.send_scheds (s : State) (m : Msg) : (s.send m).scheds = s.scheds := rfl
@[simp] theorem State.send_routes (s : State) (m : Msg) : (s.send m).routes = s.routes := rfl
@[simp] theorem State.send_coherent (s : State) (m : Msg) : (s.send m).coherent = s.coherent := rfl
@[simp] theorem State.send_dieTables (s : State) (m : Msg) : (s.send m).dieTables = s.dieTables := rfl
@[simp] theorem State.send_px (s : State) (m : Msg) : (s.send m).px = s.px := rfl
@[simp] theorem State.send_mc (s : State) (m : Msg) : (s.send m).mc = s.mc := rfl
@[simp] theorem State.send_board (s : State) (m : Msg) : (s.send m).board = s.board := rfl
@[simp] theorem State.send_harts (s : State) (m : Msg) : (s.send m).harts = s.harts := rfl
@[simp] theorem State.send_imsic (s : State) (m : Msg) : (s.send m).imsic = s.imsic := rfl
@[simp] theorem State.send_free (s : State) (m : Msg) : (s.send m).free = s.free := rfl

/-! ### State.sendAll -/

@[simp] theorem State.sendAll_pending (s : State) (ms : List Msg) : (s.sendAll ms).pending = s.pending := rfl
@[simp] theorem State.sendAll_now (s : State) (ms : List Msg) : (s.sendAll ms).now = s.now := rfl
@[simp] theorem State.sendAll_regs (s : State) (ms : List Msg) : (s.sendAll ms).regs = s.regs := rfl
@[simp] theorem State.sendAll_mem (s : State) (ms : List Msg) : (s.sendAll ms).mem = s.mem := rfl
@[simp] theorem State.sendAll_poison (s : State) (ms : List Msg) : (s.sendAll ms).poison = s.poison := rfl
@[simp] theorem State.sendAll_flips (s : State) (ms : List Msg) : (s.sendAll ms).flips = s.flips := rfl
@[simp] theorem State.sendAll_salt (s : State) (ms : List Msg) : (s.sendAll ms).salt = s.salt := rfl
@[simp] theorem State.sendAll_flash (s : State) (ms : List Msg) : (s.sendAll ms).flash = s.flash := rfl
@[simp] theorem State.sendAll_pattern (s : State) (ms : List Msg) : (s.sendAll ms).pattern = s.pattern := rfl
@[simp] theorem State.sendAll_redirect (s : State) (ms : List Msg) : (s.sendAll ms).redirect = s.redirect := rfl
@[simp] theorem State.sendAll_locals (s : State) (ms : List Msg) : (s.sendAll ms).locals = s.locals := rfl
@[simp] theorem State.sendAll_arrays (s : State) (ms : List Msg) : (s.sendAll ms).arrays = s.arrays := rfl
@[simp] theorem State.sendAll_vecs (s : State) (ms : List Msg) : (s.sendAll ms).vecs = s.vecs := rfl
@[simp] theorem State.sendAll_needles (s : State) (ms : List Msg) : (s.sendAll ms).needles = s.needles := rfl
@[simp] theorem State.sendAll_resv (s : State) (ms : List Msg) : (s.sendAll ms).resv = s.resv := rfl
@[simp] theorem State.sendAll_agents (s : State) (ms : List Msg) : (s.sendAll ms).agents = s.agents := rfl
@[simp] theorem State.sendAll_homes (s : State) (ms : List Msg) : (s.sendAll ms).homes = s.homes := rfl
@[simp] theorem State.sendAll_stackCtl (s : State) (ms : List Msg) : (s.sendAll ms).stackCtl = s.stackCtl := rfl
@[simp] theorem State.sendAll_memMap (s : State) (ms : List Msg) : (s.sendAll ms).memMap = s.memMap := rfl
@[simp] theorem State.sendAll_seams (s : State) (ms : List Msg) : (s.sendAll ms).seams = s.seams := rfl
@[simp] theorem State.sendAll_guests (s : State) (ms : List Msg) : (s.sendAll ms).guests = s.guests := rfl
@[simp] theorem State.sendAll_recovery (s : State) (ms : List Msg) : (s.sendAll ms).recovery = s.recovery := rfl
@[simp] theorem State.sendAll_fabric (s : State) (ms : List Msg) : (s.sendAll ms).fabric = s.fabric := rfl
@[simp] theorem State.sendAll_hall (s : State) (ms : List Msg) : (s.sendAll ms).hall = s.hall := rfl
@[simp] theorem State.sendAll_diePattern (s : State) (ms : List Msg) : (s.sendAll ms).diePattern = s.diePattern := rfl
@[simp] theorem State.sendAll_uncached (s : State) (ms : List Msg) : (s.sendAll ms).uncached = s.uncached := rfl
@[simp] theorem State.sendAll_net (s : State) (ms : List Msg) : (s.sendAll ms).net = s.net := rfl
@[simp] theorem State.sendAll_tu (s : State) (ms : List Msg) : (s.sendAll ms).tu = s.tu := rfl
@[simp] theorem State.sendAll_ev (s : State) (ms : List Msg) : (s.sendAll ms).ev = s.ev := rfl
@[simp] theorem State.sendAll_qe (s : State) (ms : List Msg) : (s.sendAll ms).qe = s.qe := rfl
@[simp] theorem State.sendAll_sk (s : State) (ms : List Msg) : (s.sendAll ms).sk = s.sk := rfl
@[simp] theorem State.sendAll_latches (s : State) (ms : List Msg) : (s.sendAll ms).latches = s.latches := rfl
@[simp] theorem State.sendAll_rowYoke (s : State) (ms : List Msg) : (s.sendAll ms).rowYoke = s.rowYoke := rfl
@[simp] theorem State.sendAll_scheds (s : State) (ms : List Msg) : (s.sendAll ms).scheds = s.scheds := rfl
@[simp] theorem State.sendAll_routes (s : State) (ms : List Msg) : (s.sendAll ms).routes = s.routes := rfl
@[simp] theorem State.sendAll_coherent (s : State) (ms : List Msg) : (s.sendAll ms).coherent = s.coherent := rfl
@[simp] theorem State.sendAll_dieTables (s : State) (ms : List Msg) : (s.sendAll ms).dieTables = s.dieTables := rfl
@[simp] theorem State.sendAll_px (s : State) (ms : List Msg) : (s.sendAll ms).px = s.px := rfl
@[simp] theorem State.sendAll_mc (s : State) (ms : List Msg) : (s.sendAll ms).mc = s.mc := rfl
@[simp] theorem State.sendAll_board (s : State) (ms : List Msg) : (s.sendAll ms).board = s.board := rfl
@[simp] theorem State.sendAll_harts (s : State) (ms : List Msg) : (s.sendAll ms).harts = s.harts := rfl
@[simp] theorem State.sendAll_imsic (s : State) (ms : List Msg) : (s.sendAll ms).imsic = s.imsic := rfl
@[simp] theorem State.sendAll_free (s : State) (ms : List Msg) : (s.sendAll ms).free = s.free := rfl

/-! ### State.sendChain -/

@[simp] theorem State.sendChain_pending (s : State) (d p : Nat) : (s.sendChain d p).pending = s.pending := rfl
@[simp] theorem State.sendChain_now (s : State) (d p : Nat) : (s.sendChain d p).now = s.now := rfl
@[simp] theorem State.sendChain_regs (s : State) (d p : Nat) : (s.sendChain d p).regs = s.regs := rfl
@[simp] theorem State.sendChain_mem (s : State) (d p : Nat) : (s.sendChain d p).mem = s.mem := rfl
@[simp] theorem State.sendChain_poison (s : State) (d p : Nat) : (s.sendChain d p).poison = s.poison := rfl
@[simp] theorem State.sendChain_flips (s : State) (d p : Nat) : (s.sendChain d p).flips = s.flips := rfl
@[simp] theorem State.sendChain_salt (s : State) (d p : Nat) : (s.sendChain d p).salt = s.salt := rfl
@[simp] theorem State.sendChain_flash (s : State) (d p : Nat) : (s.sendChain d p).flash = s.flash := rfl
@[simp] theorem State.sendChain_pattern (s : State) (d p : Nat) : (s.sendChain d p).pattern = s.pattern := rfl
@[simp] theorem State.sendChain_redirect (s : State) (d p : Nat) : (s.sendChain d p).redirect = s.redirect := rfl
@[simp] theorem State.sendChain_locals (s : State) (d p : Nat) : (s.sendChain d p).locals = s.locals := rfl
@[simp] theorem State.sendChain_arrays (s : State) (d p : Nat) : (s.sendChain d p).arrays = s.arrays := rfl
@[simp] theorem State.sendChain_vecs (s : State) (d p : Nat) : (s.sendChain d p).vecs = s.vecs := rfl
@[simp] theorem State.sendChain_needles (s : State) (d p : Nat) : (s.sendChain d p).needles = s.needles := rfl
@[simp] theorem State.sendChain_resv (s : State) (d p : Nat) : (s.sendChain d p).resv = s.resv := rfl
@[simp] theorem State.sendChain_agents (s : State) (d p : Nat) : (s.sendChain d p).agents = s.agents := rfl
@[simp] theorem State.sendChain_homes (s : State) (d p : Nat) : (s.sendChain d p).homes = s.homes := rfl
@[simp] theorem State.sendChain_stackCtl (s : State) (d p : Nat) : (s.sendChain d p).stackCtl = s.stackCtl := rfl
@[simp] theorem State.sendChain_memMap (s : State) (d p : Nat) : (s.sendChain d p).memMap = s.memMap := rfl
@[simp] theorem State.sendChain_seams (s : State) (d p : Nat) : (s.sendChain d p).seams = s.seams := rfl
@[simp] theorem State.sendChain_guests (s : State) (d p : Nat) : (s.sendChain d p).guests = s.guests := rfl
@[simp] theorem State.sendChain_recovery (s : State) (d p : Nat) : (s.sendChain d p).recovery = s.recovery := rfl
@[simp] theorem State.sendChain_fabric (s : State) (d p : Nat) : (s.sendChain d p).fabric = s.fabric := rfl
@[simp] theorem State.sendChain_hall (s : State) (d p : Nat) : (s.sendChain d p).hall = s.hall := rfl
@[simp] theorem State.sendChain_diePattern (s : State) (d p : Nat) : (s.sendChain d p).diePattern = s.diePattern := rfl
@[simp] theorem State.sendChain_uncached (s : State) (d p : Nat) : (s.sendChain d p).uncached = s.uncached := rfl
@[simp] theorem State.sendChain_net (s : State) (d p : Nat) : (s.sendChain d p).net = s.net := rfl
@[simp] theorem State.sendChain_tu (s : State) (d p : Nat) : (s.sendChain d p).tu = s.tu := rfl
@[simp] theorem State.sendChain_ev (s : State) (d p : Nat) : (s.sendChain d p).ev = s.ev := rfl
@[simp] theorem State.sendChain_qe (s : State) (d p : Nat) : (s.sendChain d p).qe = s.qe := rfl
@[simp] theorem State.sendChain_sk (s : State) (d p : Nat) : (s.sendChain d p).sk = s.sk := rfl
@[simp] theorem State.sendChain_latches (s : State) (d p : Nat) : (s.sendChain d p).latches = s.latches := rfl
@[simp] theorem State.sendChain_rowYoke (s : State) (d p : Nat) : (s.sendChain d p).rowYoke = s.rowYoke := rfl
@[simp] theorem State.sendChain_scheds (s : State) (d p : Nat) : (s.sendChain d p).scheds = s.scheds := rfl
@[simp] theorem State.sendChain_routes (s : State) (d p : Nat) : (s.sendChain d p).routes = s.routes := rfl
@[simp] theorem State.sendChain_coherent (s : State) (d p : Nat) : (s.sendChain d p).coherent = s.coherent := rfl
@[simp] theorem State.sendChain_dieTables (s : State) (d p : Nat) : (s.sendChain d p).dieTables = s.dieTables := rfl
@[simp] theorem State.sendChain_px (s : State) (d p : Nat) : (s.sendChain d p).px = s.px := rfl
@[simp] theorem State.sendChain_mc (s : State) (d p : Nat) : (s.sendChain d p).mc = s.mc := rfl
@[simp] theorem State.sendChain_board (s : State) (d p : Nat) : (s.sendChain d p).board = s.board := rfl
@[simp] theorem State.sendChain_harts (s : State) (d p : Nat) : (s.sendChain d p).harts = s.harts := rfl
@[simp] theorem State.sendChain_imsic (s : State) (d p : Nat) : (s.sendChain d p).imsic = s.imsic := rfl
@[simp] theorem State.sendChain_free (s : State) (d p : Nat) : (s.sendChain d p).free = s.free := rfl

/-! ### State.hostWrite -/

@[simp] theorem State.hostWrite_pending (s : State) (a : Nat) (bs : List Byte) (ro ep : Bool) : (s.hostWrite a bs ro ep).pending = s.pending := rfl
@[simp] theorem State.hostWrite_now (s : State) (a : Nat) (bs : List Byte) (ro ep : Bool) : (s.hostWrite a bs ro ep).now = s.now := rfl
@[simp] theorem State.hostWrite_regs (s : State) (a : Nat) (bs : List Byte) (ro ep : Bool) : (s.hostWrite a bs ro ep).regs = s.regs := rfl
@[simp] theorem State.hostWrite_mem (s : State) (a : Nat) (bs : List Byte) (ro ep : Bool) : (s.hostWrite a bs ro ep).mem = s.mem := rfl
@[simp] theorem State.hostWrite_poison (s : State) (a : Nat) (bs : List Byte) (ro ep : Bool) : (s.hostWrite a bs ro ep).poison = s.poison := rfl
@[simp] theorem State.hostWrite_flips (s : State) (a : Nat) (bs : List Byte) (ro ep : Bool) : (s.hostWrite a bs ro ep).flips = s.flips := rfl
@[simp] theorem State.hostWrite_salt (s : State) (a : Nat) (bs : List Byte) (ro ep : Bool) : (s.hostWrite a bs ro ep).salt = s.salt := rfl
@[simp] theorem State.hostWrite_flash (s : State) (a : Nat) (bs : List Byte) (ro ep : Bool) : (s.hostWrite a bs ro ep).flash = s.flash := rfl
@[simp] theorem State.hostWrite_pattern (s : State) (a : Nat) (bs : List Byte) (ro ep : Bool) : (s.hostWrite a bs ro ep).pattern = s.pattern := rfl
@[simp] theorem State.hostWrite_redirect (s : State) (a : Nat) (bs : List Byte) (ro ep : Bool) : (s.hostWrite a bs ro ep).redirect = s.redirect := rfl
@[simp] theorem State.hostWrite_locals (s : State) (a : Nat) (bs : List Byte) (ro ep : Bool) : (s.hostWrite a bs ro ep).locals = s.locals := rfl
@[simp] theorem State.hostWrite_arrays (s : State) (a : Nat) (bs : List Byte) (ro ep : Bool) : (s.hostWrite a bs ro ep).arrays = s.arrays := rfl
@[simp] theorem State.hostWrite_vecs (s : State) (a : Nat) (bs : List Byte) (ro ep : Bool) : (s.hostWrite a bs ro ep).vecs = s.vecs := rfl
@[simp] theorem State.hostWrite_needles (s : State) (a : Nat) (bs : List Byte) (ro ep : Bool) : (s.hostWrite a bs ro ep).needles = s.needles := rfl
@[simp] theorem State.hostWrite_resv (s : State) (a : Nat) (bs : List Byte) (ro ep : Bool) : (s.hostWrite a bs ro ep).resv = s.resv := rfl
@[simp] theorem State.hostWrite_agents (s : State) (a : Nat) (bs : List Byte) (ro ep : Bool) : (s.hostWrite a bs ro ep).agents = s.agents := rfl
@[simp] theorem State.hostWrite_homes (s : State) (a : Nat) (bs : List Byte) (ro ep : Bool) : (s.hostWrite a bs ro ep).homes = s.homes := rfl
@[simp] theorem State.hostWrite_stackCtl (s : State) (a : Nat) (bs : List Byte) (ro ep : Bool) : (s.hostWrite a bs ro ep).stackCtl = s.stackCtl := rfl
@[simp] theorem State.hostWrite_memMap (s : State) (a : Nat) (bs : List Byte) (ro ep : Bool) : (s.hostWrite a bs ro ep).memMap = s.memMap := rfl
@[simp] theorem State.hostWrite_seams (s : State) (a : Nat) (bs : List Byte) (ro ep : Bool) : (s.hostWrite a bs ro ep).seams = s.seams := rfl
@[simp] theorem State.hostWrite_guests (s : State) (a : Nat) (bs : List Byte) (ro ep : Bool) : (s.hostWrite a bs ro ep).guests = s.guests := rfl
@[simp] theorem State.hostWrite_recovery (s : State) (a : Nat) (bs : List Byte) (ro ep : Bool) : (s.hostWrite a bs ro ep).recovery = s.recovery := rfl
@[simp] theorem State.hostWrite_fabric (s : State) (a : Nat) (bs : List Byte) (ro ep : Bool) : (s.hostWrite a bs ro ep).fabric = s.fabric := rfl
@[simp] theorem State.hostWrite_hall (s : State) (a : Nat) (bs : List Byte) (ro ep : Bool) : (s.hostWrite a bs ro ep).hall = s.hall := rfl
@[simp] theorem State.hostWrite_diePattern (s : State) (a : Nat) (bs : List Byte) (ro ep : Bool) : (s.hostWrite a bs ro ep).diePattern = s.diePattern := rfl
@[simp] theorem State.hostWrite_uncached (s : State) (a : Nat) (bs : List Byte) (ro ep : Bool) : (s.hostWrite a bs ro ep).uncached = s.uncached := rfl
@[simp] theorem State.hostWrite_net (s : State) (a : Nat) (bs : List Byte) (ro ep : Bool) : (s.hostWrite a bs ro ep).net = s.net := rfl
@[simp] theorem State.hostWrite_tu (s : State) (a : Nat) (bs : List Byte) (ro ep : Bool) : (s.hostWrite a bs ro ep).tu = s.tu := rfl
@[simp] theorem State.hostWrite_ev (s : State) (a : Nat) (bs : List Byte) (ro ep : Bool) : (s.hostWrite a bs ro ep).ev = s.ev := rfl
@[simp] theorem State.hostWrite_qe (s : State) (a : Nat) (bs : List Byte) (ro ep : Bool) : (s.hostWrite a bs ro ep).qe = s.qe := rfl
@[simp] theorem State.hostWrite_sk (s : State) (a : Nat) (bs : List Byte) (ro ep : Bool) : (s.hostWrite a bs ro ep).sk = s.sk := rfl
@[simp] theorem State.hostWrite_latches (s : State) (a : Nat) (bs : List Byte) (ro ep : Bool) : (s.hostWrite a bs ro ep).latches = s.latches := rfl
@[simp] theorem State.hostWrite_rowYoke (s : State) (a : Nat) (bs : List Byte) (ro ep : Bool) : (s.hostWrite a bs ro ep).rowYoke = s.rowYoke := rfl
@[simp] theorem State.hostWrite_scheds (s : State) (a : Nat) (bs : List Byte) (ro ep : Bool) : (s.hostWrite a bs ro ep).scheds = s.scheds := rfl
@[simp] theorem State.hostWrite_routes (s : State) (a : Nat) (bs : List Byte) (ro ep : Bool) : (s.hostWrite a bs ro ep).routes = s.routes := rfl
@[simp] theorem State.hostWrite_coherent (s : State) (a : Nat) (bs : List Byte) (ro ep : Bool) : (s.hostWrite a bs ro ep).coherent = s.coherent := rfl
@[simp] theorem State.hostWrite_dieTables (s : State) (a : Nat) (bs : List Byte) (ro ep : Bool) : (s.hostWrite a bs ro ep).dieTables = s.dieTables := rfl
@[simp] theorem State.hostWrite_px (s : State) (a : Nat) (bs : List Byte) (ro ep : Bool) : (s.hostWrite a bs ro ep).px = s.px := rfl
@[simp] theorem State.hostWrite_mc (s : State) (a : Nat) (bs : List Byte) (ro ep : Bool) : (s.hostWrite a bs ro ep).mc = s.mc := rfl
@[simp] theorem State.hostWrite_board (s : State) (a : Nat) (bs : List Byte) (ro ep : Bool) : (s.hostWrite a bs ro ep).board = s.board := rfl
@[simp] theorem State.hostWrite_harts (s : State) (a : Nat) (bs : List Byte) (ro ep : Bool) : (s.hostWrite a bs ro ep).harts = s.harts := rfl
@[simp] theorem State.hostWrite_imsic (s : State) (a : Nat) (bs : List Byte) (ro ep : Bool) : (s.hostWrite a bs ro ep).imsic = s.imsic := rfl
@[simp] theorem State.hostWrite_free (s : State) (a : Nat) (bs : List Byte) (ro ep : Bool) : (s.hostWrite a bs ro ep).free = s.free := rfl

/-! ### State.setSched -/

@[simp] theorem State.setSched_pending (s : State) (m : Nat) (r : RowSched) : (s.setSched m r).pending = s.pending := rfl
@[simp] theorem State.setSched_now (s : State) (m : Nat) (r : RowSched) : (s.setSched m r).now = s.now := rfl
@[simp] theorem State.setSched_regs (s : State) (m : Nat) (r : RowSched) : (s.setSched m r).regs = s.regs := rfl
@[simp] theorem State.setSched_mem (s : State) (m : Nat) (r : RowSched) : (s.setSched m r).mem = s.mem := rfl
@[simp] theorem State.setSched_poison (s : State) (m : Nat) (r : RowSched) : (s.setSched m r).poison = s.poison := rfl
@[simp] theorem State.setSched_flips (s : State) (m : Nat) (r : RowSched) : (s.setSched m r).flips = s.flips := rfl
@[simp] theorem State.setSched_salt (s : State) (m : Nat) (r : RowSched) : (s.setSched m r).salt = s.salt := rfl
@[simp] theorem State.setSched_flash (s : State) (m : Nat) (r : RowSched) : (s.setSched m r).flash = s.flash := rfl
@[simp] theorem State.setSched_pattern (s : State) (m : Nat) (r : RowSched) : (s.setSched m r).pattern = s.pattern := rfl
@[simp] theorem State.setSched_redirect (s : State) (m : Nat) (r : RowSched) : (s.setSched m r).redirect = s.redirect := rfl
@[simp] theorem State.setSched_locals (s : State) (m : Nat) (r : RowSched) : (s.setSched m r).locals = s.locals := rfl
@[simp] theorem State.setSched_arrays (s : State) (m : Nat) (r : RowSched) : (s.setSched m r).arrays = s.arrays := rfl
@[simp] theorem State.setSched_vecs (s : State) (m : Nat) (r : RowSched) : (s.setSched m r).vecs = s.vecs := rfl
@[simp] theorem State.setSched_needles (s : State) (m : Nat) (r : RowSched) : (s.setSched m r).needles = s.needles := rfl
@[simp] theorem State.setSched_resv (s : State) (m : Nat) (r : RowSched) : (s.setSched m r).resv = s.resv := rfl
@[simp] theorem State.setSched_agents (s : State) (m : Nat) (r : RowSched) : (s.setSched m r).agents = s.agents := rfl
@[simp] theorem State.setSched_homes (s : State) (m : Nat) (r : RowSched) : (s.setSched m r).homes = s.homes := rfl
@[simp] theorem State.setSched_stackCtl (s : State) (m : Nat) (r : RowSched) : (s.setSched m r).stackCtl = s.stackCtl := rfl
@[simp] theorem State.setSched_memMap (s : State) (m : Nat) (r : RowSched) : (s.setSched m r).memMap = s.memMap := rfl
@[simp] theorem State.setSched_seams (s : State) (m : Nat) (r : RowSched) : (s.setSched m r).seams = s.seams := rfl
@[simp] theorem State.setSched_guests (s : State) (m : Nat) (r : RowSched) : (s.setSched m r).guests = s.guests := rfl
@[simp] theorem State.setSched_recovery (s : State) (m : Nat) (r : RowSched) : (s.setSched m r).recovery = s.recovery := rfl
@[simp] theorem State.setSched_fabric (s : State) (m : Nat) (r : RowSched) : (s.setSched m r).fabric = s.fabric := rfl
@[simp] theorem State.setSched_hall (s : State) (m : Nat) (r : RowSched) : (s.setSched m r).hall = s.hall := rfl
@[simp] theorem State.setSched_diePattern (s : State) (m : Nat) (r : RowSched) : (s.setSched m r).diePattern = s.diePattern := rfl
@[simp] theorem State.setSched_uncached (s : State) (m : Nat) (r : RowSched) : (s.setSched m r).uncached = s.uncached := rfl
@[simp] theorem State.setSched_net (s : State) (m : Nat) (r : RowSched) : (s.setSched m r).net = s.net := rfl
@[simp] theorem State.setSched_tu (s : State) (m : Nat) (r : RowSched) : (s.setSched m r).tu = s.tu := rfl
@[simp] theorem State.setSched_ev (s : State) (m : Nat) (r : RowSched) : (s.setSched m r).ev = s.ev := rfl
@[simp] theorem State.setSched_sent (s : State) (m : Nat) (r : RowSched) : (s.setSched m r).sent = s.sent := rfl
@[simp] theorem State.setSched_qe (s : State) (m : Nat) (r : RowSched) : (s.setSched m r).qe = s.qe := rfl
@[simp] theorem State.setSched_sk (s : State) (m : Nat) (r : RowSched) : (s.setSched m r).sk = s.sk := rfl
@[simp] theorem State.setSched_latches (s : State) (m : Nat) (r : RowSched) : (s.setSched m r).latches = s.latches := rfl
@[simp] theorem State.setSched_rowYoke (s : State) (m : Nat) (r : RowSched) : (s.setSched m r).rowYoke = s.rowYoke := rfl
@[simp] theorem State.setSched_routes (s : State) (m : Nat) (r : RowSched) : (s.setSched m r).routes = s.routes := rfl
@[simp] theorem State.setSched_coherent (s : State) (m : Nat) (r : RowSched) : (s.setSched m r).coherent = s.coherent := rfl
@[simp] theorem State.setSched_dieTables (s : State) (m : Nat) (r : RowSched) : (s.setSched m r).dieTables = s.dieTables := rfl
@[simp] theorem State.setSched_px (s : State) (m : Nat) (r : RowSched) : (s.setSched m r).px = s.px := rfl
@[simp] theorem State.setSched_mc (s : State) (m : Nat) (r : RowSched) : (s.setSched m r).mc = s.mc := rfl
@[simp] theorem State.setSched_board (s : State) (m : Nat) (r : RowSched) : (s.setSched m r).board = s.board := rfl
@[simp] theorem State.setSched_harts (s : State) (m : Nat) (r : RowSched) : (s.setSched m r).harts = s.harts := rfl
@[simp] theorem State.setSched_imsic (s : State) (m : Nat) (r : RowSched) : (s.setSched m r).imsic = s.imsic := rfl
@[simp] theorem State.setSched_free (s : State) (m : Nat) (r : RowSched) : (s.setSched m r).free = s.free := rfl

/-! ### State.onSched -/

@[simp] theorem State.onSched_pending (s : State) (m : Nat) (f : RowSched → RowSched) : (s.onSched m f).pending = s.pending := rfl
@[simp] theorem State.onSched_now (s : State) (m : Nat) (f : RowSched → RowSched) : (s.onSched m f).now = s.now := rfl
@[simp] theorem State.onSched_regs (s : State) (m : Nat) (f : RowSched → RowSched) : (s.onSched m f).regs = s.regs := rfl
@[simp] theorem State.onSched_mem (s : State) (m : Nat) (f : RowSched → RowSched) : (s.onSched m f).mem = s.mem := rfl
@[simp] theorem State.onSched_poison (s : State) (m : Nat) (f : RowSched → RowSched) : (s.onSched m f).poison = s.poison := rfl
@[simp] theorem State.onSched_flips (s : State) (m : Nat) (f : RowSched → RowSched) : (s.onSched m f).flips = s.flips := rfl
@[simp] theorem State.onSched_salt (s : State) (m : Nat) (f : RowSched → RowSched) : (s.onSched m f).salt = s.salt := rfl
@[simp] theorem State.onSched_flash (s : State) (m : Nat) (f : RowSched → RowSched) : (s.onSched m f).flash = s.flash := rfl
@[simp] theorem State.onSched_pattern (s : State) (m : Nat) (f : RowSched → RowSched) : (s.onSched m f).pattern = s.pattern := rfl
@[simp] theorem State.onSched_redirect (s : State) (m : Nat) (f : RowSched → RowSched) : (s.onSched m f).redirect = s.redirect := rfl
@[simp] theorem State.onSched_locals (s : State) (m : Nat) (f : RowSched → RowSched) : (s.onSched m f).locals = s.locals := rfl
@[simp] theorem State.onSched_arrays (s : State) (m : Nat) (f : RowSched → RowSched) : (s.onSched m f).arrays = s.arrays := rfl
@[simp] theorem State.onSched_vecs (s : State) (m : Nat) (f : RowSched → RowSched) : (s.onSched m f).vecs = s.vecs := rfl
@[simp] theorem State.onSched_needles (s : State) (m : Nat) (f : RowSched → RowSched) : (s.onSched m f).needles = s.needles := rfl
@[simp] theorem State.onSched_resv (s : State) (m : Nat) (f : RowSched → RowSched) : (s.onSched m f).resv = s.resv := rfl
@[simp] theorem State.onSched_agents (s : State) (m : Nat) (f : RowSched → RowSched) : (s.onSched m f).agents = s.agents := rfl
@[simp] theorem State.onSched_homes (s : State) (m : Nat) (f : RowSched → RowSched) : (s.onSched m f).homes = s.homes := rfl
@[simp] theorem State.onSched_stackCtl (s : State) (m : Nat) (f : RowSched → RowSched) : (s.onSched m f).stackCtl = s.stackCtl := rfl
@[simp] theorem State.onSched_memMap (s : State) (m : Nat) (f : RowSched → RowSched) : (s.onSched m f).memMap = s.memMap := rfl
@[simp] theorem State.onSched_seams (s : State) (m : Nat) (f : RowSched → RowSched) : (s.onSched m f).seams = s.seams := rfl
@[simp] theorem State.onSched_guests (s : State) (m : Nat) (f : RowSched → RowSched) : (s.onSched m f).guests = s.guests := rfl
@[simp] theorem State.onSched_recovery (s : State) (m : Nat) (f : RowSched → RowSched) : (s.onSched m f).recovery = s.recovery := rfl
@[simp] theorem State.onSched_fabric (s : State) (m : Nat) (f : RowSched → RowSched) : (s.onSched m f).fabric = s.fabric := rfl
@[simp] theorem State.onSched_hall (s : State) (m : Nat) (f : RowSched → RowSched) : (s.onSched m f).hall = s.hall := rfl
@[simp] theorem State.onSched_diePattern (s : State) (m : Nat) (f : RowSched → RowSched) : (s.onSched m f).diePattern = s.diePattern := rfl
@[simp] theorem State.onSched_uncached (s : State) (m : Nat) (f : RowSched → RowSched) : (s.onSched m f).uncached = s.uncached := rfl
@[simp] theorem State.onSched_net (s : State) (m : Nat) (f : RowSched → RowSched) : (s.onSched m f).net = s.net := rfl
@[simp] theorem State.onSched_tu (s : State) (m : Nat) (f : RowSched → RowSched) : (s.onSched m f).tu = s.tu := rfl
@[simp] theorem State.onSched_ev (s : State) (m : Nat) (f : RowSched → RowSched) : (s.onSched m f).ev = s.ev := rfl
@[simp] theorem State.onSched_sent (s : State) (m : Nat) (f : RowSched → RowSched) : (s.onSched m f).sent = s.sent := rfl
@[simp] theorem State.onSched_qe (s : State) (m : Nat) (f : RowSched → RowSched) : (s.onSched m f).qe = s.qe := rfl
@[simp] theorem State.onSched_sk (s : State) (m : Nat) (f : RowSched → RowSched) : (s.onSched m f).sk = s.sk := rfl
@[simp] theorem State.onSched_latches (s : State) (m : Nat) (f : RowSched → RowSched) : (s.onSched m f).latches = s.latches := rfl
@[simp] theorem State.onSched_rowYoke (s : State) (m : Nat) (f : RowSched → RowSched) : (s.onSched m f).rowYoke = s.rowYoke := rfl
@[simp] theorem State.onSched_routes (s : State) (m : Nat) (f : RowSched → RowSched) : (s.onSched m f).routes = s.routes := rfl
@[simp] theorem State.onSched_coherent (s : State) (m : Nat) (f : RowSched → RowSched) : (s.onSched m f).coherent = s.coherent := rfl
@[simp] theorem State.onSched_dieTables (s : State) (m : Nat) (f : RowSched → RowSched) : (s.onSched m f).dieTables = s.dieTables := rfl
@[simp] theorem State.onSched_px (s : State) (m : Nat) (f : RowSched → RowSched) : (s.onSched m f).px = s.px := rfl
@[simp] theorem State.onSched_mc (s : State) (m : Nat) (f : RowSched → RowSched) : (s.onSched m f).mc = s.mc := rfl
@[simp] theorem State.onSched_board (s : State) (m : Nat) (f : RowSched → RowSched) : (s.onSched m f).board = s.board := rfl
@[simp] theorem State.onSched_harts (s : State) (m : Nat) (f : RowSched → RowSched) : (s.onSched m f).harts = s.harts := rfl
@[simp] theorem State.onSched_imsic (s : State) (m : Nat) (f : RowSched → RowSched) : (s.onSched m f).imsic = s.imsic := rfl
@[simp] theorem State.onSched_free (s : State) (m : Nat) (f : RowSched → RowSched) : (s.onSched m f).free = s.free := rfl

/-! ### State.onHome -/

@[simp] theorem State.onHome_pending (s : State) (k : Nat) (f : Home → Home) : (s.onHome k f).pending = s.pending := rfl
@[simp] theorem State.onHome_now (s : State) (k : Nat) (f : Home → Home) : (s.onHome k f).now = s.now := rfl
@[simp] theorem State.onHome_regs (s : State) (k : Nat) (f : Home → Home) : (s.onHome k f).regs = s.regs := rfl
@[simp] theorem State.onHome_mem (s : State) (k : Nat) (f : Home → Home) : (s.onHome k f).mem = s.mem := rfl
@[simp] theorem State.onHome_poison (s : State) (k : Nat) (f : Home → Home) : (s.onHome k f).poison = s.poison := rfl
@[simp] theorem State.onHome_flips (s : State) (k : Nat) (f : Home → Home) : (s.onHome k f).flips = s.flips := rfl
@[simp] theorem State.onHome_salt (s : State) (k : Nat) (f : Home → Home) : (s.onHome k f).salt = s.salt := rfl
@[simp] theorem State.onHome_flash (s : State) (k : Nat) (f : Home → Home) : (s.onHome k f).flash = s.flash := rfl
@[simp] theorem State.onHome_pattern (s : State) (k : Nat) (f : Home → Home) : (s.onHome k f).pattern = s.pattern := rfl
@[simp] theorem State.onHome_redirect (s : State) (k : Nat) (f : Home → Home) : (s.onHome k f).redirect = s.redirect := rfl
@[simp] theorem State.onHome_locals (s : State) (k : Nat) (f : Home → Home) : (s.onHome k f).locals = s.locals := rfl
@[simp] theorem State.onHome_arrays (s : State) (k : Nat) (f : Home → Home) : (s.onHome k f).arrays = s.arrays := rfl
@[simp] theorem State.onHome_vecs (s : State) (k : Nat) (f : Home → Home) : (s.onHome k f).vecs = s.vecs := rfl
@[simp] theorem State.onHome_needles (s : State) (k : Nat) (f : Home → Home) : (s.onHome k f).needles = s.needles := rfl
@[simp] theorem State.onHome_resv (s : State) (k : Nat) (f : Home → Home) : (s.onHome k f).resv = s.resv := rfl
@[simp] theorem State.onHome_agents (s : State) (k : Nat) (f : Home → Home) : (s.onHome k f).agents = s.agents := rfl
@[simp] theorem State.onHome_stackCtl (s : State) (k : Nat) (f : Home → Home) : (s.onHome k f).stackCtl = s.stackCtl := rfl
@[simp] theorem State.onHome_memMap (s : State) (k : Nat) (f : Home → Home) : (s.onHome k f).memMap = s.memMap := rfl
@[simp] theorem State.onHome_seams (s : State) (k : Nat) (f : Home → Home) : (s.onHome k f).seams = s.seams := rfl
@[simp] theorem State.onHome_guests (s : State) (k : Nat) (f : Home → Home) : (s.onHome k f).guests = s.guests := rfl
@[simp] theorem State.onHome_recovery (s : State) (k : Nat) (f : Home → Home) : (s.onHome k f).recovery = s.recovery := rfl
@[simp] theorem State.onHome_fabric (s : State) (k : Nat) (f : Home → Home) : (s.onHome k f).fabric = s.fabric := rfl
@[simp] theorem State.onHome_hall (s : State) (k : Nat) (f : Home → Home) : (s.onHome k f).hall = s.hall := rfl
@[simp] theorem State.onHome_diePattern (s : State) (k : Nat) (f : Home → Home) : (s.onHome k f).diePattern = s.diePattern := rfl
@[simp] theorem State.onHome_uncached (s : State) (k : Nat) (f : Home → Home) : (s.onHome k f).uncached = s.uncached := rfl
@[simp] theorem State.onHome_net (s : State) (k : Nat) (f : Home → Home) : (s.onHome k f).net = s.net := rfl
@[simp] theorem State.onHome_tu (s : State) (k : Nat) (f : Home → Home) : (s.onHome k f).tu = s.tu := rfl
@[simp] theorem State.onHome_ev (s : State) (k : Nat) (f : Home → Home) : (s.onHome k f).ev = s.ev := rfl
@[simp] theorem State.onHome_sent (s : State) (k : Nat) (f : Home → Home) : (s.onHome k f).sent = s.sent := rfl
@[simp] theorem State.onHome_qe (s : State) (k : Nat) (f : Home → Home) : (s.onHome k f).qe = s.qe := rfl
@[simp] theorem State.onHome_sk (s : State) (k : Nat) (f : Home → Home) : (s.onHome k f).sk = s.sk := rfl
@[simp] theorem State.onHome_latches (s : State) (k : Nat) (f : Home → Home) : (s.onHome k f).latches = s.latches := rfl
@[simp] theorem State.onHome_rowYoke (s : State) (k : Nat) (f : Home → Home) : (s.onHome k f).rowYoke = s.rowYoke := rfl
@[simp] theorem State.onHome_scheds (s : State) (k : Nat) (f : Home → Home) : (s.onHome k f).scheds = s.scheds := rfl
@[simp] theorem State.onHome_routes (s : State) (k : Nat) (f : Home → Home) : (s.onHome k f).routes = s.routes := rfl
@[simp] theorem State.onHome_coherent (s : State) (k : Nat) (f : Home → Home) : (s.onHome k f).coherent = s.coherent := rfl
@[simp] theorem State.onHome_dieTables (s : State) (k : Nat) (f : Home → Home) : (s.onHome k f).dieTables = s.dieTables := rfl
@[simp] theorem State.onHome_px (s : State) (k : Nat) (f : Home → Home) : (s.onHome k f).px = s.px := rfl
@[simp] theorem State.onHome_mc (s : State) (k : Nat) (f : Home → Home) : (s.onHome k f).mc = s.mc := rfl
@[simp] theorem State.onHome_board (s : State) (k : Nat) (f : Home → Home) : (s.onHome k f).board = s.board := rfl
@[simp] theorem State.onHome_harts (s : State) (k : Nat) (f : Home → Home) : (s.onHome k f).harts = s.harts := rfl
@[simp] theorem State.onHome_imsic (s : State) (k : Nat) (f : Home → Home) : (s.onHome k f).imsic = s.imsic := rfl
@[simp] theorem State.onHome_free (s : State) (k : Nat) (f : Home → Home) : (s.onHome k f).free = s.free := rfl

/-! ### State.onAgent -/

@[simp] theorem State.onAgent_pending (s : State) (d : Nat) (f : CacheAgent → CacheAgent) : (s.onAgent d f).pending = s.pending := rfl
@[simp] theorem State.onAgent_now (s : State) (d : Nat) (f : CacheAgent → CacheAgent) : (s.onAgent d f).now = s.now := rfl
@[simp] theorem State.onAgent_regs (s : State) (d : Nat) (f : CacheAgent → CacheAgent) : (s.onAgent d f).regs = s.regs := rfl
@[simp] theorem State.onAgent_mem (s : State) (d : Nat) (f : CacheAgent → CacheAgent) : (s.onAgent d f).mem = s.mem := rfl
@[simp] theorem State.onAgent_poison (s : State) (d : Nat) (f : CacheAgent → CacheAgent) : (s.onAgent d f).poison = s.poison := rfl
@[simp] theorem State.onAgent_flips (s : State) (d : Nat) (f : CacheAgent → CacheAgent) : (s.onAgent d f).flips = s.flips := rfl
@[simp] theorem State.onAgent_salt (s : State) (d : Nat) (f : CacheAgent → CacheAgent) : (s.onAgent d f).salt = s.salt := rfl
@[simp] theorem State.onAgent_flash (s : State) (d : Nat) (f : CacheAgent → CacheAgent) : (s.onAgent d f).flash = s.flash := rfl
@[simp] theorem State.onAgent_pattern (s : State) (d : Nat) (f : CacheAgent → CacheAgent) : (s.onAgent d f).pattern = s.pattern := rfl
@[simp] theorem State.onAgent_redirect (s : State) (d : Nat) (f : CacheAgent → CacheAgent) : (s.onAgent d f).redirect = s.redirect := rfl
@[simp] theorem State.onAgent_locals (s : State) (d : Nat) (f : CacheAgent → CacheAgent) : (s.onAgent d f).locals = s.locals := rfl
@[simp] theorem State.onAgent_arrays (s : State) (d : Nat) (f : CacheAgent → CacheAgent) : (s.onAgent d f).arrays = s.arrays := rfl
@[simp] theorem State.onAgent_vecs (s : State) (d : Nat) (f : CacheAgent → CacheAgent) : (s.onAgent d f).vecs = s.vecs := rfl
@[simp] theorem State.onAgent_needles (s : State) (d : Nat) (f : CacheAgent → CacheAgent) : (s.onAgent d f).needles = s.needles := rfl
@[simp] theorem State.onAgent_resv (s : State) (d : Nat) (f : CacheAgent → CacheAgent) : (s.onAgent d f).resv = s.resv := rfl
@[simp] theorem State.onAgent_homes (s : State) (d : Nat) (f : CacheAgent → CacheAgent) : (s.onAgent d f).homes = s.homes := rfl
@[simp] theorem State.onAgent_stackCtl (s : State) (d : Nat) (f : CacheAgent → CacheAgent) : (s.onAgent d f).stackCtl = s.stackCtl := rfl
@[simp] theorem State.onAgent_memMap (s : State) (d : Nat) (f : CacheAgent → CacheAgent) : (s.onAgent d f).memMap = s.memMap := rfl
@[simp] theorem State.onAgent_seams (s : State) (d : Nat) (f : CacheAgent → CacheAgent) : (s.onAgent d f).seams = s.seams := rfl
@[simp] theorem State.onAgent_guests (s : State) (d : Nat) (f : CacheAgent → CacheAgent) : (s.onAgent d f).guests = s.guests := rfl
@[simp] theorem State.onAgent_recovery (s : State) (d : Nat) (f : CacheAgent → CacheAgent) : (s.onAgent d f).recovery = s.recovery := rfl
@[simp] theorem State.onAgent_fabric (s : State) (d : Nat) (f : CacheAgent → CacheAgent) : (s.onAgent d f).fabric = s.fabric := rfl
@[simp] theorem State.onAgent_hall (s : State) (d : Nat) (f : CacheAgent → CacheAgent) : (s.onAgent d f).hall = s.hall := rfl
@[simp] theorem State.onAgent_diePattern (s : State) (d : Nat) (f : CacheAgent → CacheAgent) : (s.onAgent d f).diePattern = s.diePattern := rfl
@[simp] theorem State.onAgent_uncached (s : State) (d : Nat) (f : CacheAgent → CacheAgent) : (s.onAgent d f).uncached = s.uncached := rfl
@[simp] theorem State.onAgent_net (s : State) (d : Nat) (f : CacheAgent → CacheAgent) : (s.onAgent d f).net = s.net := rfl
@[simp] theorem State.onAgent_tu (s : State) (d : Nat) (f : CacheAgent → CacheAgent) : (s.onAgent d f).tu = s.tu := rfl
@[simp] theorem State.onAgent_ev (s : State) (d : Nat) (f : CacheAgent → CacheAgent) : (s.onAgent d f).ev = s.ev := rfl
@[simp] theorem State.onAgent_sent (s : State) (d : Nat) (f : CacheAgent → CacheAgent) : (s.onAgent d f).sent = s.sent := rfl
@[simp] theorem State.onAgent_qe (s : State) (d : Nat) (f : CacheAgent → CacheAgent) : (s.onAgent d f).qe = s.qe := rfl
@[simp] theorem State.onAgent_sk (s : State) (d : Nat) (f : CacheAgent → CacheAgent) : (s.onAgent d f).sk = s.sk := rfl
@[simp] theorem State.onAgent_latches (s : State) (d : Nat) (f : CacheAgent → CacheAgent) : (s.onAgent d f).latches = s.latches := rfl
@[simp] theorem State.onAgent_rowYoke (s : State) (d : Nat) (f : CacheAgent → CacheAgent) : (s.onAgent d f).rowYoke = s.rowYoke := rfl
@[simp] theorem State.onAgent_scheds (s : State) (d : Nat) (f : CacheAgent → CacheAgent) : (s.onAgent d f).scheds = s.scheds := rfl
@[simp] theorem State.onAgent_routes (s : State) (d : Nat) (f : CacheAgent → CacheAgent) : (s.onAgent d f).routes = s.routes := rfl
@[simp] theorem State.onAgent_coherent (s : State) (d : Nat) (f : CacheAgent → CacheAgent) : (s.onAgent d f).coherent = s.coherent := rfl
@[simp] theorem State.onAgent_dieTables (s : State) (d : Nat) (f : CacheAgent → CacheAgent) : (s.onAgent d f).dieTables = s.dieTables := rfl
@[simp] theorem State.onAgent_px (s : State) (d : Nat) (f : CacheAgent → CacheAgent) : (s.onAgent d f).px = s.px := rfl
@[simp] theorem State.onAgent_mc (s : State) (d : Nat) (f : CacheAgent → CacheAgent) : (s.onAgent d f).mc = s.mc := rfl
@[simp] theorem State.onAgent_board (s : State) (d : Nat) (f : CacheAgent → CacheAgent) : (s.onAgent d f).board = s.board := rfl
@[simp] theorem State.onAgent_harts (s : State) (d : Nat) (f : CacheAgent → CacheAgent) : (s.onAgent d f).harts = s.harts := rfl
@[simp] theorem State.onAgent_imsic (s : State) (d : Nat) (f : CacheAgent → CacheAgent) : (s.onAgent d f).imsic = s.imsic := rfl
@[simp] theorem State.onAgent_free (s : State) (d : Nat) (f : CacheAgent → CacheAgent) : (s.onAgent d f).free = s.free := rfl

/-! ### State.onCtl -/

@[simp] theorem State.onCtl_pending (s : State) (k : Nat) (f : StackCtl → StackCtl) : (s.onCtl k f).pending = s.pending := rfl
@[simp] theorem State.onCtl_now (s : State) (k : Nat) (f : StackCtl → StackCtl) : (s.onCtl k f).now = s.now := rfl
@[simp] theorem State.onCtl_regs (s : State) (k : Nat) (f : StackCtl → StackCtl) : (s.onCtl k f).regs = s.regs := rfl
@[simp] theorem State.onCtl_mem (s : State) (k : Nat) (f : StackCtl → StackCtl) : (s.onCtl k f).mem = s.mem := rfl
@[simp] theorem State.onCtl_poison (s : State) (k : Nat) (f : StackCtl → StackCtl) : (s.onCtl k f).poison = s.poison := rfl
@[simp] theorem State.onCtl_flips (s : State) (k : Nat) (f : StackCtl → StackCtl) : (s.onCtl k f).flips = s.flips := rfl
@[simp] theorem State.onCtl_salt (s : State) (k : Nat) (f : StackCtl → StackCtl) : (s.onCtl k f).salt = s.salt := rfl
@[simp] theorem State.onCtl_flash (s : State) (k : Nat) (f : StackCtl → StackCtl) : (s.onCtl k f).flash = s.flash := rfl
@[simp] theorem State.onCtl_pattern (s : State) (k : Nat) (f : StackCtl → StackCtl) : (s.onCtl k f).pattern = s.pattern := rfl
@[simp] theorem State.onCtl_redirect (s : State) (k : Nat) (f : StackCtl → StackCtl) : (s.onCtl k f).redirect = s.redirect := rfl
@[simp] theorem State.onCtl_locals (s : State) (k : Nat) (f : StackCtl → StackCtl) : (s.onCtl k f).locals = s.locals := rfl
@[simp] theorem State.onCtl_arrays (s : State) (k : Nat) (f : StackCtl → StackCtl) : (s.onCtl k f).arrays = s.arrays := rfl
@[simp] theorem State.onCtl_vecs (s : State) (k : Nat) (f : StackCtl → StackCtl) : (s.onCtl k f).vecs = s.vecs := rfl
@[simp] theorem State.onCtl_needles (s : State) (k : Nat) (f : StackCtl → StackCtl) : (s.onCtl k f).needles = s.needles := rfl
@[simp] theorem State.onCtl_resv (s : State) (k : Nat) (f : StackCtl → StackCtl) : (s.onCtl k f).resv = s.resv := rfl
@[simp] theorem State.onCtl_agents (s : State) (k : Nat) (f : StackCtl → StackCtl) : (s.onCtl k f).agents = s.agents := rfl
@[simp] theorem State.onCtl_homes (s : State) (k : Nat) (f : StackCtl → StackCtl) : (s.onCtl k f).homes = s.homes := rfl
@[simp] theorem State.onCtl_memMap (s : State) (k : Nat) (f : StackCtl → StackCtl) : (s.onCtl k f).memMap = s.memMap := rfl
@[simp] theorem State.onCtl_seams (s : State) (k : Nat) (f : StackCtl → StackCtl) : (s.onCtl k f).seams = s.seams := rfl
@[simp] theorem State.onCtl_guests (s : State) (k : Nat) (f : StackCtl → StackCtl) : (s.onCtl k f).guests = s.guests := rfl
@[simp] theorem State.onCtl_recovery (s : State) (k : Nat) (f : StackCtl → StackCtl) : (s.onCtl k f).recovery = s.recovery := rfl
@[simp] theorem State.onCtl_fabric (s : State) (k : Nat) (f : StackCtl → StackCtl) : (s.onCtl k f).fabric = s.fabric := rfl
@[simp] theorem State.onCtl_hall (s : State) (k : Nat) (f : StackCtl → StackCtl) : (s.onCtl k f).hall = s.hall := rfl
@[simp] theorem State.onCtl_diePattern (s : State) (k : Nat) (f : StackCtl → StackCtl) : (s.onCtl k f).diePattern = s.diePattern := rfl
@[simp] theorem State.onCtl_uncached (s : State) (k : Nat) (f : StackCtl → StackCtl) : (s.onCtl k f).uncached = s.uncached := rfl
@[simp] theorem State.onCtl_net (s : State) (k : Nat) (f : StackCtl → StackCtl) : (s.onCtl k f).net = s.net := rfl
@[simp] theorem State.onCtl_tu (s : State) (k : Nat) (f : StackCtl → StackCtl) : (s.onCtl k f).tu = s.tu := rfl
@[simp] theorem State.onCtl_ev (s : State) (k : Nat) (f : StackCtl → StackCtl) : (s.onCtl k f).ev = s.ev := rfl
@[simp] theorem State.onCtl_sent (s : State) (k : Nat) (f : StackCtl → StackCtl) : (s.onCtl k f).sent = s.sent := rfl
@[simp] theorem State.onCtl_qe (s : State) (k : Nat) (f : StackCtl → StackCtl) : (s.onCtl k f).qe = s.qe := rfl
@[simp] theorem State.onCtl_sk (s : State) (k : Nat) (f : StackCtl → StackCtl) : (s.onCtl k f).sk = s.sk := rfl
@[simp] theorem State.onCtl_latches (s : State) (k : Nat) (f : StackCtl → StackCtl) : (s.onCtl k f).latches = s.latches := rfl
@[simp] theorem State.onCtl_rowYoke (s : State) (k : Nat) (f : StackCtl → StackCtl) : (s.onCtl k f).rowYoke = s.rowYoke := rfl
@[simp] theorem State.onCtl_scheds (s : State) (k : Nat) (f : StackCtl → StackCtl) : (s.onCtl k f).scheds = s.scheds := rfl
@[simp] theorem State.onCtl_routes (s : State) (k : Nat) (f : StackCtl → StackCtl) : (s.onCtl k f).routes = s.routes := rfl
@[simp] theorem State.onCtl_coherent (s : State) (k : Nat) (f : StackCtl → StackCtl) : (s.onCtl k f).coherent = s.coherent := rfl
@[simp] theorem State.onCtl_dieTables (s : State) (k : Nat) (f : StackCtl → StackCtl) : (s.onCtl k f).dieTables = s.dieTables := rfl
@[simp] theorem State.onCtl_px (s : State) (k : Nat) (f : StackCtl → StackCtl) : (s.onCtl k f).px = s.px := rfl
@[simp] theorem State.onCtl_mc (s : State) (k : Nat) (f : StackCtl → StackCtl) : (s.onCtl k f).mc = s.mc := rfl
@[simp] theorem State.onCtl_board (s : State) (k : Nat) (f : StackCtl → StackCtl) : (s.onCtl k f).board = s.board := rfl
@[simp] theorem State.onCtl_harts (s : State) (k : Nat) (f : StackCtl → StackCtl) : (s.onCtl k f).harts = s.harts := rfl
@[simp] theorem State.onCtl_imsic (s : State) (k : Nat) (f : StackCtl → StackCtl) : (s.onCtl k f).imsic = s.imsic := rfl
@[simp] theorem State.onCtl_free (s : State) (k : Nat) (f : StackCtl → StackCtl) : (s.onCtl k f).free = s.free := rfl

/-! ### State.setArray -/

@[simp] theorem State.setArray_pending (s : State) (m : Nat) (x : ArrayUnits) : (s.setArray m x).pending = s.pending := rfl
@[simp] theorem State.setArray_now (s : State) (m : Nat) (x : ArrayUnits) : (s.setArray m x).now = s.now := rfl
@[simp] theorem State.setArray_regs (s : State) (m : Nat) (x : ArrayUnits) : (s.setArray m x).regs = s.regs := rfl
@[simp] theorem State.setArray_mem (s : State) (m : Nat) (x : ArrayUnits) : (s.setArray m x).mem = s.mem := rfl
@[simp] theorem State.setArray_poison (s : State) (m : Nat) (x : ArrayUnits) : (s.setArray m x).poison = s.poison := rfl
@[simp] theorem State.setArray_flips (s : State) (m : Nat) (x : ArrayUnits) : (s.setArray m x).flips = s.flips := rfl
@[simp] theorem State.setArray_salt (s : State) (m : Nat) (x : ArrayUnits) : (s.setArray m x).salt = s.salt := rfl
@[simp] theorem State.setArray_flash (s : State) (m : Nat) (x : ArrayUnits) : (s.setArray m x).flash = s.flash := rfl
@[simp] theorem State.setArray_pattern (s : State) (m : Nat) (x : ArrayUnits) : (s.setArray m x).pattern = s.pattern := rfl
@[simp] theorem State.setArray_redirect (s : State) (m : Nat) (x : ArrayUnits) : (s.setArray m x).redirect = s.redirect := rfl
@[simp] theorem State.setArray_locals (s : State) (m : Nat) (x : ArrayUnits) : (s.setArray m x).locals = s.locals := rfl
@[simp] theorem State.setArray_vecs (s : State) (m : Nat) (x : ArrayUnits) : (s.setArray m x).vecs = s.vecs := rfl
@[simp] theorem State.setArray_needles (s : State) (m : Nat) (x : ArrayUnits) : (s.setArray m x).needles = s.needles := rfl
@[simp] theorem State.setArray_resv (s : State) (m : Nat) (x : ArrayUnits) : (s.setArray m x).resv = s.resv := rfl
@[simp] theorem State.setArray_agents (s : State) (m : Nat) (x : ArrayUnits) : (s.setArray m x).agents = s.agents := rfl
@[simp] theorem State.setArray_homes (s : State) (m : Nat) (x : ArrayUnits) : (s.setArray m x).homes = s.homes := rfl
@[simp] theorem State.setArray_stackCtl (s : State) (m : Nat) (x : ArrayUnits) : (s.setArray m x).stackCtl = s.stackCtl := rfl
@[simp] theorem State.setArray_memMap (s : State) (m : Nat) (x : ArrayUnits) : (s.setArray m x).memMap = s.memMap := rfl
@[simp] theorem State.setArray_seams (s : State) (m : Nat) (x : ArrayUnits) : (s.setArray m x).seams = s.seams := rfl
@[simp] theorem State.setArray_guests (s : State) (m : Nat) (x : ArrayUnits) : (s.setArray m x).guests = s.guests := rfl
@[simp] theorem State.setArray_recovery (s : State) (m : Nat) (x : ArrayUnits) : (s.setArray m x).recovery = s.recovery := rfl
@[simp] theorem State.setArray_fabric (s : State) (m : Nat) (x : ArrayUnits) : (s.setArray m x).fabric = s.fabric := rfl
@[simp] theorem State.setArray_hall (s : State) (m : Nat) (x : ArrayUnits) : (s.setArray m x).hall = s.hall := rfl
@[simp] theorem State.setArray_diePattern (s : State) (m : Nat) (x : ArrayUnits) : (s.setArray m x).diePattern = s.diePattern := rfl
@[simp] theorem State.setArray_uncached (s : State) (m : Nat) (x : ArrayUnits) : (s.setArray m x).uncached = s.uncached := rfl
@[simp] theorem State.setArray_net (s : State) (m : Nat) (x : ArrayUnits) : (s.setArray m x).net = s.net := rfl
@[simp] theorem State.setArray_tu (s : State) (m : Nat) (x : ArrayUnits) : (s.setArray m x).tu = s.tu := rfl
@[simp] theorem State.setArray_ev (s : State) (m : Nat) (x : ArrayUnits) : (s.setArray m x).ev = s.ev := rfl
@[simp] theorem State.setArray_sent (s : State) (m : Nat) (x : ArrayUnits) : (s.setArray m x).sent = s.sent := rfl
@[simp] theorem State.setArray_qe (s : State) (m : Nat) (x : ArrayUnits) : (s.setArray m x).qe = s.qe := rfl
@[simp] theorem State.setArray_sk (s : State) (m : Nat) (x : ArrayUnits) : (s.setArray m x).sk = s.sk := rfl
@[simp] theorem State.setArray_latches (s : State) (m : Nat) (x : ArrayUnits) : (s.setArray m x).latches = s.latches := rfl
@[simp] theorem State.setArray_rowYoke (s : State) (m : Nat) (x : ArrayUnits) : (s.setArray m x).rowYoke = s.rowYoke := rfl
@[simp] theorem State.setArray_scheds (s : State) (m : Nat) (x : ArrayUnits) : (s.setArray m x).scheds = s.scheds := rfl
@[simp] theorem State.setArray_routes (s : State) (m : Nat) (x : ArrayUnits) : (s.setArray m x).routes = s.routes := rfl
@[simp] theorem State.setArray_coherent (s : State) (m : Nat) (x : ArrayUnits) : (s.setArray m x).coherent = s.coherent := rfl
@[simp] theorem State.setArray_dieTables (s : State) (m : Nat) (x : ArrayUnits) : (s.setArray m x).dieTables = s.dieTables := rfl
@[simp] theorem State.setArray_px (s : State) (m : Nat) (x : ArrayUnits) : (s.setArray m x).px = s.px := rfl
@[simp] theorem State.setArray_mc (s : State) (m : Nat) (x : ArrayUnits) : (s.setArray m x).mc = s.mc := rfl
@[simp] theorem State.setArray_board (s : State) (m : Nat) (x : ArrayUnits) : (s.setArray m x).board = s.board := rfl
@[simp] theorem State.setArray_harts (s : State) (m : Nat) (x : ArrayUnits) : (s.setArray m x).harts = s.harts := rfl
@[simp] theorem State.setArray_imsic (s : State) (m : Nat) (x : ArrayUnits) : (s.setArray m x).imsic = s.imsic := rfl
@[simp] theorem State.setArray_free (s : State) (m : Nat) (x : ArrayUnits) : (s.setArray m x).free = s.free := rfl

/-! ### State.setVec -/

@[simp] theorem State.setVec_pending (s : State) (m : Nat) (x : VecEngine) : (s.setVec m x).pending = s.pending := rfl
@[simp] theorem State.setVec_now (s : State) (m : Nat) (x : VecEngine) : (s.setVec m x).now = s.now := rfl
@[simp] theorem State.setVec_regs (s : State) (m : Nat) (x : VecEngine) : (s.setVec m x).regs = s.regs := rfl
@[simp] theorem State.setVec_mem (s : State) (m : Nat) (x : VecEngine) : (s.setVec m x).mem = s.mem := rfl
@[simp] theorem State.setVec_poison (s : State) (m : Nat) (x : VecEngine) : (s.setVec m x).poison = s.poison := rfl
@[simp] theorem State.setVec_flips (s : State) (m : Nat) (x : VecEngine) : (s.setVec m x).flips = s.flips := rfl
@[simp] theorem State.setVec_salt (s : State) (m : Nat) (x : VecEngine) : (s.setVec m x).salt = s.salt := rfl
@[simp] theorem State.setVec_flash (s : State) (m : Nat) (x : VecEngine) : (s.setVec m x).flash = s.flash := rfl
@[simp] theorem State.setVec_pattern (s : State) (m : Nat) (x : VecEngine) : (s.setVec m x).pattern = s.pattern := rfl
@[simp] theorem State.setVec_redirect (s : State) (m : Nat) (x : VecEngine) : (s.setVec m x).redirect = s.redirect := rfl
@[simp] theorem State.setVec_locals (s : State) (m : Nat) (x : VecEngine) : (s.setVec m x).locals = s.locals := rfl
@[simp] theorem State.setVec_arrays (s : State) (m : Nat) (x : VecEngine) : (s.setVec m x).arrays = s.arrays := rfl
@[simp] theorem State.setVec_needles (s : State) (m : Nat) (x : VecEngine) : (s.setVec m x).needles = s.needles := rfl
@[simp] theorem State.setVec_resv (s : State) (m : Nat) (x : VecEngine) : (s.setVec m x).resv = s.resv := rfl
@[simp] theorem State.setVec_agents (s : State) (m : Nat) (x : VecEngine) : (s.setVec m x).agents = s.agents := rfl
@[simp] theorem State.setVec_homes (s : State) (m : Nat) (x : VecEngine) : (s.setVec m x).homes = s.homes := rfl
@[simp] theorem State.setVec_stackCtl (s : State) (m : Nat) (x : VecEngine) : (s.setVec m x).stackCtl = s.stackCtl := rfl
@[simp] theorem State.setVec_memMap (s : State) (m : Nat) (x : VecEngine) : (s.setVec m x).memMap = s.memMap := rfl
@[simp] theorem State.setVec_seams (s : State) (m : Nat) (x : VecEngine) : (s.setVec m x).seams = s.seams := rfl
@[simp] theorem State.setVec_guests (s : State) (m : Nat) (x : VecEngine) : (s.setVec m x).guests = s.guests := rfl
@[simp] theorem State.setVec_recovery (s : State) (m : Nat) (x : VecEngine) : (s.setVec m x).recovery = s.recovery := rfl
@[simp] theorem State.setVec_fabric (s : State) (m : Nat) (x : VecEngine) : (s.setVec m x).fabric = s.fabric := rfl
@[simp] theorem State.setVec_hall (s : State) (m : Nat) (x : VecEngine) : (s.setVec m x).hall = s.hall := rfl
@[simp] theorem State.setVec_diePattern (s : State) (m : Nat) (x : VecEngine) : (s.setVec m x).diePattern = s.diePattern := rfl
@[simp] theorem State.setVec_uncached (s : State) (m : Nat) (x : VecEngine) : (s.setVec m x).uncached = s.uncached := rfl
@[simp] theorem State.setVec_net (s : State) (m : Nat) (x : VecEngine) : (s.setVec m x).net = s.net := rfl
@[simp] theorem State.setVec_tu (s : State) (m : Nat) (x : VecEngine) : (s.setVec m x).tu = s.tu := rfl
@[simp] theorem State.setVec_ev (s : State) (m : Nat) (x : VecEngine) : (s.setVec m x).ev = s.ev := rfl
@[simp] theorem State.setVec_sent (s : State) (m : Nat) (x : VecEngine) : (s.setVec m x).sent = s.sent := rfl
@[simp] theorem State.setVec_qe (s : State) (m : Nat) (x : VecEngine) : (s.setVec m x).qe = s.qe := rfl
@[simp] theorem State.setVec_sk (s : State) (m : Nat) (x : VecEngine) : (s.setVec m x).sk = s.sk := rfl
@[simp] theorem State.setVec_latches (s : State) (m : Nat) (x : VecEngine) : (s.setVec m x).latches = s.latches := rfl
@[simp] theorem State.setVec_rowYoke (s : State) (m : Nat) (x : VecEngine) : (s.setVec m x).rowYoke = s.rowYoke := rfl
@[simp] theorem State.setVec_scheds (s : State) (m : Nat) (x : VecEngine) : (s.setVec m x).scheds = s.scheds := rfl
@[simp] theorem State.setVec_routes (s : State) (m : Nat) (x : VecEngine) : (s.setVec m x).routes = s.routes := rfl
@[simp] theorem State.setVec_coherent (s : State) (m : Nat) (x : VecEngine) : (s.setVec m x).coherent = s.coherent := rfl
@[simp] theorem State.setVec_dieTables (s : State) (m : Nat) (x : VecEngine) : (s.setVec m x).dieTables = s.dieTables := rfl
@[simp] theorem State.setVec_px (s : State) (m : Nat) (x : VecEngine) : (s.setVec m x).px = s.px := rfl
@[simp] theorem State.setVec_mc (s : State) (m : Nat) (x : VecEngine) : (s.setVec m x).mc = s.mc := rfl
@[simp] theorem State.setVec_board (s : State) (m : Nat) (x : VecEngine) : (s.setVec m x).board = s.board := rfl
@[simp] theorem State.setVec_harts (s : State) (m : Nat) (x : VecEngine) : (s.setVec m x).harts = s.harts := rfl
@[simp] theorem State.setVec_imsic (s : State) (m : Nat) (x : VecEngine) : (s.setVec m x).imsic = s.imsic := rfl
@[simp] theorem State.setVec_free (s : State) (m : Nat) (x : VecEngine) : (s.setVec m x).free = s.free := rfl

/-! ### State.setNdl -/

@[simp] theorem State.setNdl_pending (s : State) (m : Nat) (x : Needles) : (s.setNdl m x).pending = s.pending := rfl
@[simp] theorem State.setNdl_now (s : State) (m : Nat) (x : Needles) : (s.setNdl m x).now = s.now := rfl
@[simp] theorem State.setNdl_regs (s : State) (m : Nat) (x : Needles) : (s.setNdl m x).regs = s.regs := rfl
@[simp] theorem State.setNdl_mem (s : State) (m : Nat) (x : Needles) : (s.setNdl m x).mem = s.mem := rfl
@[simp] theorem State.setNdl_poison (s : State) (m : Nat) (x : Needles) : (s.setNdl m x).poison = s.poison := rfl
@[simp] theorem State.setNdl_flips (s : State) (m : Nat) (x : Needles) : (s.setNdl m x).flips = s.flips := rfl
@[simp] theorem State.setNdl_salt (s : State) (m : Nat) (x : Needles) : (s.setNdl m x).salt = s.salt := rfl
@[simp] theorem State.setNdl_flash (s : State) (m : Nat) (x : Needles) : (s.setNdl m x).flash = s.flash := rfl
@[simp] theorem State.setNdl_pattern (s : State) (m : Nat) (x : Needles) : (s.setNdl m x).pattern = s.pattern := rfl
@[simp] theorem State.setNdl_redirect (s : State) (m : Nat) (x : Needles) : (s.setNdl m x).redirect = s.redirect := rfl
@[simp] theorem State.setNdl_locals (s : State) (m : Nat) (x : Needles) : (s.setNdl m x).locals = s.locals := rfl
@[simp] theorem State.setNdl_arrays (s : State) (m : Nat) (x : Needles) : (s.setNdl m x).arrays = s.arrays := rfl
@[simp] theorem State.setNdl_vecs (s : State) (m : Nat) (x : Needles) : (s.setNdl m x).vecs = s.vecs := rfl
@[simp] theorem State.setNdl_resv (s : State) (m : Nat) (x : Needles) : (s.setNdl m x).resv = s.resv := rfl
@[simp] theorem State.setNdl_agents (s : State) (m : Nat) (x : Needles) : (s.setNdl m x).agents = s.agents := rfl
@[simp] theorem State.setNdl_homes (s : State) (m : Nat) (x : Needles) : (s.setNdl m x).homes = s.homes := rfl
@[simp] theorem State.setNdl_stackCtl (s : State) (m : Nat) (x : Needles) : (s.setNdl m x).stackCtl = s.stackCtl := rfl
@[simp] theorem State.setNdl_memMap (s : State) (m : Nat) (x : Needles) : (s.setNdl m x).memMap = s.memMap := rfl
@[simp] theorem State.setNdl_seams (s : State) (m : Nat) (x : Needles) : (s.setNdl m x).seams = s.seams := rfl
@[simp] theorem State.setNdl_guests (s : State) (m : Nat) (x : Needles) : (s.setNdl m x).guests = s.guests := rfl
@[simp] theorem State.setNdl_recovery (s : State) (m : Nat) (x : Needles) : (s.setNdl m x).recovery = s.recovery := rfl
@[simp] theorem State.setNdl_fabric (s : State) (m : Nat) (x : Needles) : (s.setNdl m x).fabric = s.fabric := rfl
@[simp] theorem State.setNdl_hall (s : State) (m : Nat) (x : Needles) : (s.setNdl m x).hall = s.hall := rfl
@[simp] theorem State.setNdl_diePattern (s : State) (m : Nat) (x : Needles) : (s.setNdl m x).diePattern = s.diePattern := rfl
@[simp] theorem State.setNdl_uncached (s : State) (m : Nat) (x : Needles) : (s.setNdl m x).uncached = s.uncached := rfl
@[simp] theorem State.setNdl_net (s : State) (m : Nat) (x : Needles) : (s.setNdl m x).net = s.net := rfl
@[simp] theorem State.setNdl_tu (s : State) (m : Nat) (x : Needles) : (s.setNdl m x).tu = s.tu := rfl
@[simp] theorem State.setNdl_ev (s : State) (m : Nat) (x : Needles) : (s.setNdl m x).ev = s.ev := rfl
@[simp] theorem State.setNdl_sent (s : State) (m : Nat) (x : Needles) : (s.setNdl m x).sent = s.sent := rfl
@[simp] theorem State.setNdl_qe (s : State) (m : Nat) (x : Needles) : (s.setNdl m x).qe = s.qe := rfl
@[simp] theorem State.setNdl_sk (s : State) (m : Nat) (x : Needles) : (s.setNdl m x).sk = s.sk := rfl
@[simp] theorem State.setNdl_latches (s : State) (m : Nat) (x : Needles) : (s.setNdl m x).latches = s.latches := rfl
@[simp] theorem State.setNdl_rowYoke (s : State) (m : Nat) (x : Needles) : (s.setNdl m x).rowYoke = s.rowYoke := rfl
@[simp] theorem State.setNdl_scheds (s : State) (m : Nat) (x : Needles) : (s.setNdl m x).scheds = s.scheds := rfl
@[simp] theorem State.setNdl_routes (s : State) (m : Nat) (x : Needles) : (s.setNdl m x).routes = s.routes := rfl
@[simp] theorem State.setNdl_coherent (s : State) (m : Nat) (x : Needles) : (s.setNdl m x).coherent = s.coherent := rfl
@[simp] theorem State.setNdl_dieTables (s : State) (m : Nat) (x : Needles) : (s.setNdl m x).dieTables = s.dieTables := rfl
@[simp] theorem State.setNdl_px (s : State) (m : Nat) (x : Needles) : (s.setNdl m x).px = s.px := rfl
@[simp] theorem State.setNdl_mc (s : State) (m : Nat) (x : Needles) : (s.setNdl m x).mc = s.mc := rfl
@[simp] theorem State.setNdl_board (s : State) (m : Nat) (x : Needles) : (s.setNdl m x).board = s.board := rfl
@[simp] theorem State.setNdl_harts (s : State) (m : Nat) (x : Needles) : (s.setNdl m x).harts = s.harts := rfl
@[simp] theorem State.setNdl_imsic (s : State) (m : Nat) (x : Needles) : (s.setNdl m x).imsic = s.imsic := rfl
@[simp] theorem State.setNdl_free (s : State) (m : Nat) (x : Needles) : (s.setNdl m x).free = s.free := rfl

/-! ### State.setQueue -/

@[simp] theorem State.setQueue_pending (s : State) (q : Nat) (x : Queue) : (s.setQueue q x).pending = s.pending := rfl
@[simp] theorem State.setQueue_now (s : State) (q : Nat) (x : Queue) : (s.setQueue q x).now = s.now := rfl
@[simp] theorem State.setQueue_regs (s : State) (q : Nat) (x : Queue) : (s.setQueue q x).regs = s.regs := rfl
@[simp] theorem State.setQueue_mem (s : State) (q : Nat) (x : Queue) : (s.setQueue q x).mem = s.mem := rfl
@[simp] theorem State.setQueue_poison (s : State) (q : Nat) (x : Queue) : (s.setQueue q x).poison = s.poison := rfl
@[simp] theorem State.setQueue_flips (s : State) (q : Nat) (x : Queue) : (s.setQueue q x).flips = s.flips := rfl
@[simp] theorem State.setQueue_salt (s : State) (q : Nat) (x : Queue) : (s.setQueue q x).salt = s.salt := rfl
@[simp] theorem State.setQueue_flash (s : State) (q : Nat) (x : Queue) : (s.setQueue q x).flash = s.flash := rfl
@[simp] theorem State.setQueue_pattern (s : State) (q : Nat) (x : Queue) : (s.setQueue q x).pattern = s.pattern := rfl
@[simp] theorem State.setQueue_redirect (s : State) (q : Nat) (x : Queue) : (s.setQueue q x).redirect = s.redirect := rfl
@[simp] theorem State.setQueue_locals (s : State) (q : Nat) (x : Queue) : (s.setQueue q x).locals = s.locals := rfl
@[simp] theorem State.setQueue_arrays (s : State) (q : Nat) (x : Queue) : (s.setQueue q x).arrays = s.arrays := rfl
@[simp] theorem State.setQueue_vecs (s : State) (q : Nat) (x : Queue) : (s.setQueue q x).vecs = s.vecs := rfl
@[simp] theorem State.setQueue_needles (s : State) (q : Nat) (x : Queue) : (s.setQueue q x).needles = s.needles := rfl
@[simp] theorem State.setQueue_resv (s : State) (q : Nat) (x : Queue) : (s.setQueue q x).resv = s.resv := rfl
@[simp] theorem State.setQueue_agents (s : State) (q : Nat) (x : Queue) : (s.setQueue q x).agents = s.agents := rfl
@[simp] theorem State.setQueue_homes (s : State) (q : Nat) (x : Queue) : (s.setQueue q x).homes = s.homes := rfl
@[simp] theorem State.setQueue_stackCtl (s : State) (q : Nat) (x : Queue) : (s.setQueue q x).stackCtl = s.stackCtl := rfl
@[simp] theorem State.setQueue_memMap (s : State) (q : Nat) (x : Queue) : (s.setQueue q x).memMap = s.memMap := rfl
@[simp] theorem State.setQueue_seams (s : State) (q : Nat) (x : Queue) : (s.setQueue q x).seams = s.seams := rfl
@[simp] theorem State.setQueue_guests (s : State) (q : Nat) (x : Queue) : (s.setQueue q x).guests = s.guests := rfl
@[simp] theorem State.setQueue_recovery (s : State) (q : Nat) (x : Queue) : (s.setQueue q x).recovery = s.recovery := rfl
@[simp] theorem State.setQueue_fabric (s : State) (q : Nat) (x : Queue) : (s.setQueue q x).fabric = s.fabric := rfl
@[simp] theorem State.setQueue_hall (s : State) (q : Nat) (x : Queue) : (s.setQueue q x).hall = s.hall := rfl
@[simp] theorem State.setQueue_diePattern (s : State) (q : Nat) (x : Queue) : (s.setQueue q x).diePattern = s.diePattern := rfl
@[simp] theorem State.setQueue_uncached (s : State) (q : Nat) (x : Queue) : (s.setQueue q x).uncached = s.uncached := rfl
@[simp] theorem State.setQueue_net (s : State) (q : Nat) (x : Queue) : (s.setQueue q x).net = s.net := rfl
@[simp] theorem State.setQueue_tu (s : State) (q : Nat) (x : Queue) : (s.setQueue q x).tu = s.tu := rfl
@[simp] theorem State.setQueue_ev (s : State) (q : Nat) (x : Queue) : (s.setQueue q x).ev = s.ev := rfl
@[simp] theorem State.setQueue_sent (s : State) (q : Nat) (x : Queue) : (s.setQueue q x).sent = s.sent := rfl
@[simp] theorem State.setQueue_sk (s : State) (q : Nat) (x : Queue) : (s.setQueue q x).sk = s.sk := rfl
@[simp] theorem State.setQueue_latches (s : State) (q : Nat) (x : Queue) : (s.setQueue q x).latches = s.latches := rfl
@[simp] theorem State.setQueue_rowYoke (s : State) (q : Nat) (x : Queue) : (s.setQueue q x).rowYoke = s.rowYoke := rfl
@[simp] theorem State.setQueue_scheds (s : State) (q : Nat) (x : Queue) : (s.setQueue q x).scheds = s.scheds := rfl
@[simp] theorem State.setQueue_routes (s : State) (q : Nat) (x : Queue) : (s.setQueue q x).routes = s.routes := rfl
@[simp] theorem State.setQueue_coherent (s : State) (q : Nat) (x : Queue) : (s.setQueue q x).coherent = s.coherent := rfl
@[simp] theorem State.setQueue_dieTables (s : State) (q : Nat) (x : Queue) : (s.setQueue q x).dieTables = s.dieTables := rfl
@[simp] theorem State.setQueue_px (s : State) (q : Nat) (x : Queue) : (s.setQueue q x).px = s.px := rfl
@[simp] theorem State.setQueue_mc (s : State) (q : Nat) (x : Queue) : (s.setQueue q x).mc = s.mc := rfl
@[simp] theorem State.setQueue_board (s : State) (q : Nat) (x : Queue) : (s.setQueue q x).board = s.board := rfl
@[simp] theorem State.setQueue_harts (s : State) (q : Nat) (x : Queue) : (s.setQueue q x).harts = s.harts := rfl
@[simp] theorem State.setQueue_imsic (s : State) (q : Nat) (x : Queue) : (s.setQueue q x).imsic = s.imsic := rfl
@[simp] theorem State.setQueue_free (s : State) (q : Nat) (x : Queue) : (s.setQueue q x).free = s.free := rfl

/-! ### State.onQueue -/

@[simp] theorem State.onQueue_pending (s : State) (q : Nat) (f : Queue → Queue) : (s.onQueue q f).pending = s.pending := rfl
@[simp] theorem State.onQueue_now (s : State) (q : Nat) (f : Queue → Queue) : (s.onQueue q f).now = s.now := rfl
@[simp] theorem State.onQueue_regs (s : State) (q : Nat) (f : Queue → Queue) : (s.onQueue q f).regs = s.regs := rfl
@[simp] theorem State.onQueue_mem (s : State) (q : Nat) (f : Queue → Queue) : (s.onQueue q f).mem = s.mem := rfl
@[simp] theorem State.onQueue_poison (s : State) (q : Nat) (f : Queue → Queue) : (s.onQueue q f).poison = s.poison := rfl
@[simp] theorem State.onQueue_flips (s : State) (q : Nat) (f : Queue → Queue) : (s.onQueue q f).flips = s.flips := rfl
@[simp] theorem State.onQueue_salt (s : State) (q : Nat) (f : Queue → Queue) : (s.onQueue q f).salt = s.salt := rfl
@[simp] theorem State.onQueue_flash (s : State) (q : Nat) (f : Queue → Queue) : (s.onQueue q f).flash = s.flash := rfl
@[simp] theorem State.onQueue_pattern (s : State) (q : Nat) (f : Queue → Queue) : (s.onQueue q f).pattern = s.pattern := rfl
@[simp] theorem State.onQueue_redirect (s : State) (q : Nat) (f : Queue → Queue) : (s.onQueue q f).redirect = s.redirect := rfl
@[simp] theorem State.onQueue_locals (s : State) (q : Nat) (f : Queue → Queue) : (s.onQueue q f).locals = s.locals := rfl
@[simp] theorem State.onQueue_arrays (s : State) (q : Nat) (f : Queue → Queue) : (s.onQueue q f).arrays = s.arrays := rfl
@[simp] theorem State.onQueue_vecs (s : State) (q : Nat) (f : Queue → Queue) : (s.onQueue q f).vecs = s.vecs := rfl
@[simp] theorem State.onQueue_needles (s : State) (q : Nat) (f : Queue → Queue) : (s.onQueue q f).needles = s.needles := rfl
@[simp] theorem State.onQueue_resv (s : State) (q : Nat) (f : Queue → Queue) : (s.onQueue q f).resv = s.resv := rfl
@[simp] theorem State.onQueue_agents (s : State) (q : Nat) (f : Queue → Queue) : (s.onQueue q f).agents = s.agents := rfl
@[simp] theorem State.onQueue_homes (s : State) (q : Nat) (f : Queue → Queue) : (s.onQueue q f).homes = s.homes := rfl
@[simp] theorem State.onQueue_stackCtl (s : State) (q : Nat) (f : Queue → Queue) : (s.onQueue q f).stackCtl = s.stackCtl := rfl
@[simp] theorem State.onQueue_memMap (s : State) (q : Nat) (f : Queue → Queue) : (s.onQueue q f).memMap = s.memMap := rfl
@[simp] theorem State.onQueue_seams (s : State) (q : Nat) (f : Queue → Queue) : (s.onQueue q f).seams = s.seams := rfl
@[simp] theorem State.onQueue_guests (s : State) (q : Nat) (f : Queue → Queue) : (s.onQueue q f).guests = s.guests := rfl
@[simp] theorem State.onQueue_recovery (s : State) (q : Nat) (f : Queue → Queue) : (s.onQueue q f).recovery = s.recovery := rfl
@[simp] theorem State.onQueue_fabric (s : State) (q : Nat) (f : Queue → Queue) : (s.onQueue q f).fabric = s.fabric := rfl
@[simp] theorem State.onQueue_hall (s : State) (q : Nat) (f : Queue → Queue) : (s.onQueue q f).hall = s.hall := rfl
@[simp] theorem State.onQueue_diePattern (s : State) (q : Nat) (f : Queue → Queue) : (s.onQueue q f).diePattern = s.diePattern := rfl
@[simp] theorem State.onQueue_uncached (s : State) (q : Nat) (f : Queue → Queue) : (s.onQueue q f).uncached = s.uncached := rfl
@[simp] theorem State.onQueue_net (s : State) (q : Nat) (f : Queue → Queue) : (s.onQueue q f).net = s.net := rfl
@[simp] theorem State.onQueue_tu (s : State) (q : Nat) (f : Queue → Queue) : (s.onQueue q f).tu = s.tu := rfl
@[simp] theorem State.onQueue_ev (s : State) (q : Nat) (f : Queue → Queue) : (s.onQueue q f).ev = s.ev := rfl
@[simp] theorem State.onQueue_sent (s : State) (q : Nat) (f : Queue → Queue) : (s.onQueue q f).sent = s.sent := rfl
@[simp] theorem State.onQueue_sk (s : State) (q : Nat) (f : Queue → Queue) : (s.onQueue q f).sk = s.sk := rfl
@[simp] theorem State.onQueue_latches (s : State) (q : Nat) (f : Queue → Queue) : (s.onQueue q f).latches = s.latches := rfl
@[simp] theorem State.onQueue_rowYoke (s : State) (q : Nat) (f : Queue → Queue) : (s.onQueue q f).rowYoke = s.rowYoke := rfl
@[simp] theorem State.onQueue_scheds (s : State) (q : Nat) (f : Queue → Queue) : (s.onQueue q f).scheds = s.scheds := rfl
@[simp] theorem State.onQueue_routes (s : State) (q : Nat) (f : Queue → Queue) : (s.onQueue q f).routes = s.routes := rfl
@[simp] theorem State.onQueue_coherent (s : State) (q : Nat) (f : Queue → Queue) : (s.onQueue q f).coherent = s.coherent := rfl
@[simp] theorem State.onQueue_dieTables (s : State) (q : Nat) (f : Queue → Queue) : (s.onQueue q f).dieTables = s.dieTables := rfl
@[simp] theorem State.onQueue_px (s : State) (q : Nat) (f : Queue → Queue) : (s.onQueue q f).px = s.px := rfl
@[simp] theorem State.onQueue_mc (s : State) (q : Nat) (f : Queue → Queue) : (s.onQueue q f).mc = s.mc := rfl
@[simp] theorem State.onQueue_board (s : State) (q : Nat) (f : Queue → Queue) : (s.onQueue q f).board = s.board := rfl
@[simp] theorem State.onQueue_harts (s : State) (q : Nat) (f : Queue → Queue) : (s.onQueue q f).harts = s.harts := rfl
@[simp] theorem State.onQueue_imsic (s : State) (q : Nat) (f : Queue → Queue) : (s.onQueue q f).imsic = s.imsic := rfl
@[simp] theorem State.onQueue_free (s : State) (q : Nat) (f : Queue → Queue) : (s.onQueue q f).free = s.free := rfl

/-! ### State.setCring -/

@[simp] theorem State.setCring_pending (s : State) (r : Nat) (x : CRing) : (s.setCring r x).pending = s.pending := rfl
@[simp] theorem State.setCring_now (s : State) (r : Nat) (x : CRing) : (s.setCring r x).now = s.now := rfl
@[simp] theorem State.setCring_regs (s : State) (r : Nat) (x : CRing) : (s.setCring r x).regs = s.regs := rfl
@[simp] theorem State.setCring_mem (s : State) (r : Nat) (x : CRing) : (s.setCring r x).mem = s.mem := rfl
@[simp] theorem State.setCring_poison (s : State) (r : Nat) (x : CRing) : (s.setCring r x).poison = s.poison := rfl
@[simp] theorem State.setCring_flips (s : State) (r : Nat) (x : CRing) : (s.setCring r x).flips = s.flips := rfl
@[simp] theorem State.setCring_salt (s : State) (r : Nat) (x : CRing) : (s.setCring r x).salt = s.salt := rfl
@[simp] theorem State.setCring_flash (s : State) (r : Nat) (x : CRing) : (s.setCring r x).flash = s.flash := rfl
@[simp] theorem State.setCring_pattern (s : State) (r : Nat) (x : CRing) : (s.setCring r x).pattern = s.pattern := rfl
@[simp] theorem State.setCring_redirect (s : State) (r : Nat) (x : CRing) : (s.setCring r x).redirect = s.redirect := rfl
@[simp] theorem State.setCring_locals (s : State) (r : Nat) (x : CRing) : (s.setCring r x).locals = s.locals := rfl
@[simp] theorem State.setCring_arrays (s : State) (r : Nat) (x : CRing) : (s.setCring r x).arrays = s.arrays := rfl
@[simp] theorem State.setCring_vecs (s : State) (r : Nat) (x : CRing) : (s.setCring r x).vecs = s.vecs := rfl
@[simp] theorem State.setCring_needles (s : State) (r : Nat) (x : CRing) : (s.setCring r x).needles = s.needles := rfl
@[simp] theorem State.setCring_resv (s : State) (r : Nat) (x : CRing) : (s.setCring r x).resv = s.resv := rfl
@[simp] theorem State.setCring_agents (s : State) (r : Nat) (x : CRing) : (s.setCring r x).agents = s.agents := rfl
@[simp] theorem State.setCring_homes (s : State) (r : Nat) (x : CRing) : (s.setCring r x).homes = s.homes := rfl
@[simp] theorem State.setCring_stackCtl (s : State) (r : Nat) (x : CRing) : (s.setCring r x).stackCtl = s.stackCtl := rfl
@[simp] theorem State.setCring_memMap (s : State) (r : Nat) (x : CRing) : (s.setCring r x).memMap = s.memMap := rfl
@[simp] theorem State.setCring_seams (s : State) (r : Nat) (x : CRing) : (s.setCring r x).seams = s.seams := rfl
@[simp] theorem State.setCring_guests (s : State) (r : Nat) (x : CRing) : (s.setCring r x).guests = s.guests := rfl
@[simp] theorem State.setCring_recovery (s : State) (r : Nat) (x : CRing) : (s.setCring r x).recovery = s.recovery := rfl
@[simp] theorem State.setCring_fabric (s : State) (r : Nat) (x : CRing) : (s.setCring r x).fabric = s.fabric := rfl
@[simp] theorem State.setCring_hall (s : State) (r : Nat) (x : CRing) : (s.setCring r x).hall = s.hall := rfl
@[simp] theorem State.setCring_diePattern (s : State) (r : Nat) (x : CRing) : (s.setCring r x).diePattern = s.diePattern := rfl
@[simp] theorem State.setCring_uncached (s : State) (r : Nat) (x : CRing) : (s.setCring r x).uncached = s.uncached := rfl
@[simp] theorem State.setCring_net (s : State) (r : Nat) (x : CRing) : (s.setCring r x).net = s.net := rfl
@[simp] theorem State.setCring_tu (s : State) (r : Nat) (x : CRing) : (s.setCring r x).tu = s.tu := rfl
@[simp] theorem State.setCring_ev (s : State) (r : Nat) (x : CRing) : (s.setCring r x).ev = s.ev := rfl
@[simp] theorem State.setCring_sent (s : State) (r : Nat) (x : CRing) : (s.setCring r x).sent = s.sent := rfl
@[simp] theorem State.setCring_sk (s : State) (r : Nat) (x : CRing) : (s.setCring r x).sk = s.sk := rfl
@[simp] theorem State.setCring_latches (s : State) (r : Nat) (x : CRing) : (s.setCring r x).latches = s.latches := rfl
@[simp] theorem State.setCring_rowYoke (s : State) (r : Nat) (x : CRing) : (s.setCring r x).rowYoke = s.rowYoke := rfl
@[simp] theorem State.setCring_scheds (s : State) (r : Nat) (x : CRing) : (s.setCring r x).scheds = s.scheds := rfl
@[simp] theorem State.setCring_routes (s : State) (r : Nat) (x : CRing) : (s.setCring r x).routes = s.routes := rfl
@[simp] theorem State.setCring_coherent (s : State) (r : Nat) (x : CRing) : (s.setCring r x).coherent = s.coherent := rfl
@[simp] theorem State.setCring_dieTables (s : State) (r : Nat) (x : CRing) : (s.setCring r x).dieTables = s.dieTables := rfl
@[simp] theorem State.setCring_px (s : State) (r : Nat) (x : CRing) : (s.setCring r x).px = s.px := rfl
@[simp] theorem State.setCring_mc (s : State) (r : Nat) (x : CRing) : (s.setCring r x).mc = s.mc := rfl
@[simp] theorem State.setCring_board (s : State) (r : Nat) (x : CRing) : (s.setCring r x).board = s.board := rfl
@[simp] theorem State.setCring_harts (s : State) (r : Nat) (x : CRing) : (s.setCring r x).harts = s.harts := rfl
@[simp] theorem State.setCring_imsic (s : State) (r : Nat) (x : CRing) : (s.setCring r x).imsic = s.imsic := rfl
@[simp] theorem State.setCring_free (s : State) (r : Nat) (x : CRing) : (s.setCring r x).free = s.free := rfl

/-! ### State.setStream -/

@[simp] theorem State.setStream_pending (s : State) (k : Nat) (x : Stream) : (s.setStream k x).pending = s.pending := rfl
@[simp] theorem State.setStream_now (s : State) (k : Nat) (x : Stream) : (s.setStream k x).now = s.now := rfl
@[simp] theorem State.setStream_regs (s : State) (k : Nat) (x : Stream) : (s.setStream k x).regs = s.regs := rfl
@[simp] theorem State.setStream_mem (s : State) (k : Nat) (x : Stream) : (s.setStream k x).mem = s.mem := rfl
@[simp] theorem State.setStream_poison (s : State) (k : Nat) (x : Stream) : (s.setStream k x).poison = s.poison := rfl
@[simp] theorem State.setStream_flips (s : State) (k : Nat) (x : Stream) : (s.setStream k x).flips = s.flips := rfl
@[simp] theorem State.setStream_salt (s : State) (k : Nat) (x : Stream) : (s.setStream k x).salt = s.salt := rfl
@[simp] theorem State.setStream_flash (s : State) (k : Nat) (x : Stream) : (s.setStream k x).flash = s.flash := rfl
@[simp] theorem State.setStream_pattern (s : State) (k : Nat) (x : Stream) : (s.setStream k x).pattern = s.pattern := rfl
@[simp] theorem State.setStream_redirect (s : State) (k : Nat) (x : Stream) : (s.setStream k x).redirect = s.redirect := rfl
@[simp] theorem State.setStream_locals (s : State) (k : Nat) (x : Stream) : (s.setStream k x).locals = s.locals := rfl
@[simp] theorem State.setStream_arrays (s : State) (k : Nat) (x : Stream) : (s.setStream k x).arrays = s.arrays := rfl
@[simp] theorem State.setStream_vecs (s : State) (k : Nat) (x : Stream) : (s.setStream k x).vecs = s.vecs := rfl
@[simp] theorem State.setStream_needles (s : State) (k : Nat) (x : Stream) : (s.setStream k x).needles = s.needles := rfl
@[simp] theorem State.setStream_resv (s : State) (k : Nat) (x : Stream) : (s.setStream k x).resv = s.resv := rfl
@[simp] theorem State.setStream_agents (s : State) (k : Nat) (x : Stream) : (s.setStream k x).agents = s.agents := rfl
@[simp] theorem State.setStream_homes (s : State) (k : Nat) (x : Stream) : (s.setStream k x).homes = s.homes := rfl
@[simp] theorem State.setStream_stackCtl (s : State) (k : Nat) (x : Stream) : (s.setStream k x).stackCtl = s.stackCtl := rfl
@[simp] theorem State.setStream_memMap (s : State) (k : Nat) (x : Stream) : (s.setStream k x).memMap = s.memMap := rfl
@[simp] theorem State.setStream_seams (s : State) (k : Nat) (x : Stream) : (s.setStream k x).seams = s.seams := rfl
@[simp] theorem State.setStream_guests (s : State) (k : Nat) (x : Stream) : (s.setStream k x).guests = s.guests := rfl
@[simp] theorem State.setStream_recovery (s : State) (k : Nat) (x : Stream) : (s.setStream k x).recovery = s.recovery := rfl
@[simp] theorem State.setStream_fabric (s : State) (k : Nat) (x : Stream) : (s.setStream k x).fabric = s.fabric := rfl
@[simp] theorem State.setStream_hall (s : State) (k : Nat) (x : Stream) : (s.setStream k x).hall = s.hall := rfl
@[simp] theorem State.setStream_diePattern (s : State) (k : Nat) (x : Stream) : (s.setStream k x).diePattern = s.diePattern := rfl
@[simp] theorem State.setStream_uncached (s : State) (k : Nat) (x : Stream) : (s.setStream k x).uncached = s.uncached := rfl
@[simp] theorem State.setStream_net (s : State) (k : Nat) (x : Stream) : (s.setStream k x).net = s.net := rfl
@[simp] theorem State.setStream_tu (s : State) (k : Nat) (x : Stream) : (s.setStream k x).tu = s.tu := rfl
@[simp] theorem State.setStream_ev (s : State) (k : Nat) (x : Stream) : (s.setStream k x).ev = s.ev := rfl
@[simp] theorem State.setStream_sent (s : State) (k : Nat) (x : Stream) : (s.setStream k x).sent = s.sent := rfl
@[simp] theorem State.setStream_qe (s : State) (k : Nat) (x : Stream) : (s.setStream k x).qe = s.qe := rfl
@[simp] theorem State.setStream_latches (s : State) (k : Nat) (x : Stream) : (s.setStream k x).latches = s.latches := rfl
@[simp] theorem State.setStream_rowYoke (s : State) (k : Nat) (x : Stream) : (s.setStream k x).rowYoke = s.rowYoke := rfl
@[simp] theorem State.setStream_scheds (s : State) (k : Nat) (x : Stream) : (s.setStream k x).scheds = s.scheds := rfl
@[simp] theorem State.setStream_routes (s : State) (k : Nat) (x : Stream) : (s.setStream k x).routes = s.routes := rfl
@[simp] theorem State.setStream_coherent (s : State) (k : Nat) (x : Stream) : (s.setStream k x).coherent = s.coherent := rfl
@[simp] theorem State.setStream_dieTables (s : State) (k : Nat) (x : Stream) : (s.setStream k x).dieTables = s.dieTables := rfl
@[simp] theorem State.setStream_px (s : State) (k : Nat) (x : Stream) : (s.setStream k x).px = s.px := rfl
@[simp] theorem State.setStream_mc (s : State) (k : Nat) (x : Stream) : (s.setStream k x).mc = s.mc := rfl
@[simp] theorem State.setStream_board (s : State) (k : Nat) (x : Stream) : (s.setStream k x).board = s.board := rfl
@[simp] theorem State.setStream_harts (s : State) (k : Nat) (x : Stream) : (s.setStream k x).harts = s.harts := rfl
@[simp] theorem State.setStream_imsic (s : State) (k : Nat) (x : Stream) : (s.setStream k x).imsic = s.imsic := rfl
@[simp] theorem State.setStream_free (s : State) (k : Nat) (x : Stream) : (s.setStream k x).free = s.free := rfl

/-! ### State.setTlb -/

@[simp] theorem State.setTlb_pending (s : State) (d : Nat) (x : Tlb) : (s.setTlb d x).pending = s.pending := rfl
@[simp] theorem State.setTlb_now (s : State) (d : Nat) (x : Tlb) : (s.setTlb d x).now = s.now := rfl
@[simp] theorem State.setTlb_regs (s : State) (d : Nat) (x : Tlb) : (s.setTlb d x).regs = s.regs := rfl
@[simp] theorem State.setTlb_mem (s : State) (d : Nat) (x : Tlb) : (s.setTlb d x).mem = s.mem := rfl
@[simp] theorem State.setTlb_poison (s : State) (d : Nat) (x : Tlb) : (s.setTlb d x).poison = s.poison := rfl
@[simp] theorem State.setTlb_flips (s : State) (d : Nat) (x : Tlb) : (s.setTlb d x).flips = s.flips := rfl
@[simp] theorem State.setTlb_salt (s : State) (d : Nat) (x : Tlb) : (s.setTlb d x).salt = s.salt := rfl
@[simp] theorem State.setTlb_flash (s : State) (d : Nat) (x : Tlb) : (s.setTlb d x).flash = s.flash := rfl
@[simp] theorem State.setTlb_pattern (s : State) (d : Nat) (x : Tlb) : (s.setTlb d x).pattern = s.pattern := rfl
@[simp] theorem State.setTlb_redirect (s : State) (d : Nat) (x : Tlb) : (s.setTlb d x).redirect = s.redirect := rfl
@[simp] theorem State.setTlb_locals (s : State) (d : Nat) (x : Tlb) : (s.setTlb d x).locals = s.locals := rfl
@[simp] theorem State.setTlb_arrays (s : State) (d : Nat) (x : Tlb) : (s.setTlb d x).arrays = s.arrays := rfl
@[simp] theorem State.setTlb_vecs (s : State) (d : Nat) (x : Tlb) : (s.setTlb d x).vecs = s.vecs := rfl
@[simp] theorem State.setTlb_needles (s : State) (d : Nat) (x : Tlb) : (s.setTlb d x).needles = s.needles := rfl
@[simp] theorem State.setTlb_resv (s : State) (d : Nat) (x : Tlb) : (s.setTlb d x).resv = s.resv := rfl
@[simp] theorem State.setTlb_agents (s : State) (d : Nat) (x : Tlb) : (s.setTlb d x).agents = s.agents := rfl
@[simp] theorem State.setTlb_homes (s : State) (d : Nat) (x : Tlb) : (s.setTlb d x).homes = s.homes := rfl
@[simp] theorem State.setTlb_stackCtl (s : State) (d : Nat) (x : Tlb) : (s.setTlb d x).stackCtl = s.stackCtl := rfl
@[simp] theorem State.setTlb_memMap (s : State) (d : Nat) (x : Tlb) : (s.setTlb d x).memMap = s.memMap := rfl
@[simp] theorem State.setTlb_seams (s : State) (d : Nat) (x : Tlb) : (s.setTlb d x).seams = s.seams := rfl
@[simp] theorem State.setTlb_guests (s : State) (d : Nat) (x : Tlb) : (s.setTlb d x).guests = s.guests := rfl
@[simp] theorem State.setTlb_recovery (s : State) (d : Nat) (x : Tlb) : (s.setTlb d x).recovery = s.recovery := rfl
@[simp] theorem State.setTlb_fabric (s : State) (d : Nat) (x : Tlb) : (s.setTlb d x).fabric = s.fabric := rfl
@[simp] theorem State.setTlb_hall (s : State) (d : Nat) (x : Tlb) : (s.setTlb d x).hall = s.hall := rfl
@[simp] theorem State.setTlb_diePattern (s : State) (d : Nat) (x : Tlb) : (s.setTlb d x).diePattern = s.diePattern := rfl
@[simp] theorem State.setTlb_uncached (s : State) (d : Nat) (x : Tlb) : (s.setTlb d x).uncached = s.uncached := rfl
@[simp] theorem State.setTlb_net (s : State) (d : Nat) (x : Tlb) : (s.setTlb d x).net = s.net := rfl
@[simp] theorem State.setTlb_ev (s : State) (d : Nat) (x : Tlb) : (s.setTlb d x).ev = s.ev := rfl
@[simp] theorem State.setTlb_sent (s : State) (d : Nat) (x : Tlb) : (s.setTlb d x).sent = s.sent := rfl
@[simp] theorem State.setTlb_qe (s : State) (d : Nat) (x : Tlb) : (s.setTlb d x).qe = s.qe := rfl
@[simp] theorem State.setTlb_sk (s : State) (d : Nat) (x : Tlb) : (s.setTlb d x).sk = s.sk := rfl
@[simp] theorem State.setTlb_latches (s : State) (d : Nat) (x : Tlb) : (s.setTlb d x).latches = s.latches := rfl
@[simp] theorem State.setTlb_rowYoke (s : State) (d : Nat) (x : Tlb) : (s.setTlb d x).rowYoke = s.rowYoke := rfl
@[simp] theorem State.setTlb_scheds (s : State) (d : Nat) (x : Tlb) : (s.setTlb d x).scheds = s.scheds := rfl
@[simp] theorem State.setTlb_routes (s : State) (d : Nat) (x : Tlb) : (s.setTlb d x).routes = s.routes := rfl
@[simp] theorem State.setTlb_coherent (s : State) (d : Nat) (x : Tlb) : (s.setTlb d x).coherent = s.coherent := rfl
@[simp] theorem State.setTlb_dieTables (s : State) (d : Nat) (x : Tlb) : (s.setTlb d x).dieTables = s.dieTables := rfl
@[simp] theorem State.setTlb_px (s : State) (d : Nat) (x : Tlb) : (s.setTlb d x).px = s.px := rfl
@[simp] theorem State.setTlb_mc (s : State) (d : Nat) (x : Tlb) : (s.setTlb d x).mc = s.mc := rfl
@[simp] theorem State.setTlb_board (s : State) (d : Nat) (x : Tlb) : (s.setTlb d x).board = s.board := rfl
@[simp] theorem State.setTlb_harts (s : State) (d : Nat) (x : Tlb) : (s.setTlb d x).harts = s.harts := rfl
@[simp] theorem State.setTlb_imsic (s : State) (d : Nat) (x : Tlb) : (s.setTlb d x).imsic = s.imsic := rfl
@[simp] theorem State.setTlb_free (s : State) (d : Nat) (x : Tlb) : (s.setTlb d x).free = s.free := rfl

/-! ### State.setEntry -/

@[simp] theorem State.setEntry_pending (s : State) (i : Nat) (e : Option CollEntry) : (s.setEntry i e).pending = s.pending := rfl
@[simp] theorem State.setEntry_now (s : State) (i : Nat) (e : Option CollEntry) : (s.setEntry i e).now = s.now := rfl
@[simp] theorem State.setEntry_regs (s : State) (i : Nat) (e : Option CollEntry) : (s.setEntry i e).regs = s.regs := rfl
@[simp] theorem State.setEntry_mem (s : State) (i : Nat) (e : Option CollEntry) : (s.setEntry i e).mem = s.mem := rfl
@[simp] theorem State.setEntry_poison (s : State) (i : Nat) (e : Option CollEntry) : (s.setEntry i e).poison = s.poison := rfl
@[simp] theorem State.setEntry_flips (s : State) (i : Nat) (e : Option CollEntry) : (s.setEntry i e).flips = s.flips := rfl
@[simp] theorem State.setEntry_salt (s : State) (i : Nat) (e : Option CollEntry) : (s.setEntry i e).salt = s.salt := rfl
@[simp] theorem State.setEntry_flash (s : State) (i : Nat) (e : Option CollEntry) : (s.setEntry i e).flash = s.flash := rfl
@[simp] theorem State.setEntry_pattern (s : State) (i : Nat) (e : Option CollEntry) : (s.setEntry i e).pattern = s.pattern := rfl
@[simp] theorem State.setEntry_redirect (s : State) (i : Nat) (e : Option CollEntry) : (s.setEntry i e).redirect = s.redirect := rfl
@[simp] theorem State.setEntry_locals (s : State) (i : Nat) (e : Option CollEntry) : (s.setEntry i e).locals = s.locals := rfl
@[simp] theorem State.setEntry_arrays (s : State) (i : Nat) (e : Option CollEntry) : (s.setEntry i e).arrays = s.arrays := rfl
@[simp] theorem State.setEntry_vecs (s : State) (i : Nat) (e : Option CollEntry) : (s.setEntry i e).vecs = s.vecs := rfl
@[simp] theorem State.setEntry_needles (s : State) (i : Nat) (e : Option CollEntry) : (s.setEntry i e).needles = s.needles := rfl
@[simp] theorem State.setEntry_resv (s : State) (i : Nat) (e : Option CollEntry) : (s.setEntry i e).resv = s.resv := rfl
@[simp] theorem State.setEntry_agents (s : State) (i : Nat) (e : Option CollEntry) : (s.setEntry i e).agents = s.agents := rfl
@[simp] theorem State.setEntry_homes (s : State) (i : Nat) (e : Option CollEntry) : (s.setEntry i e).homes = s.homes := rfl
@[simp] theorem State.setEntry_stackCtl (s : State) (i : Nat) (e : Option CollEntry) : (s.setEntry i e).stackCtl = s.stackCtl := rfl
@[simp] theorem State.setEntry_memMap (s : State) (i : Nat) (e : Option CollEntry) : (s.setEntry i e).memMap = s.memMap := rfl
@[simp] theorem State.setEntry_seams (s : State) (i : Nat) (e : Option CollEntry) : (s.setEntry i e).seams = s.seams := rfl
@[simp] theorem State.setEntry_guests (s : State) (i : Nat) (e : Option CollEntry) : (s.setEntry i e).guests = s.guests := rfl
@[simp] theorem State.setEntry_recovery (s : State) (i : Nat) (e : Option CollEntry) : (s.setEntry i e).recovery = s.recovery := rfl
@[simp] theorem State.setEntry_fabric (s : State) (i : Nat) (e : Option CollEntry) : (s.setEntry i e).fabric = s.fabric := rfl
@[simp] theorem State.setEntry_hall (s : State) (i : Nat) (e : Option CollEntry) : (s.setEntry i e).hall = s.hall := rfl
@[simp] theorem State.setEntry_diePattern (s : State) (i : Nat) (e : Option CollEntry) : (s.setEntry i e).diePattern = s.diePattern := rfl
@[simp] theorem State.setEntry_uncached (s : State) (i : Nat) (e : Option CollEntry) : (s.setEntry i e).uncached = s.uncached := rfl
@[simp] theorem State.setEntry_net (s : State) (i : Nat) (e : Option CollEntry) : (s.setEntry i e).net = s.net := rfl
@[simp] theorem State.setEntry_ev (s : State) (i : Nat) (e : Option CollEntry) : (s.setEntry i e).ev = s.ev := rfl
@[simp] theorem State.setEntry_sent (s : State) (i : Nat) (e : Option CollEntry) : (s.setEntry i e).sent = s.sent := rfl
@[simp] theorem State.setEntry_qe (s : State) (i : Nat) (e : Option CollEntry) : (s.setEntry i e).qe = s.qe := rfl
@[simp] theorem State.setEntry_sk (s : State) (i : Nat) (e : Option CollEntry) : (s.setEntry i e).sk = s.sk := rfl
@[simp] theorem State.setEntry_latches (s : State) (i : Nat) (e : Option CollEntry) : (s.setEntry i e).latches = s.latches := rfl
@[simp] theorem State.setEntry_rowYoke (s : State) (i : Nat) (e : Option CollEntry) : (s.setEntry i e).rowYoke = s.rowYoke := rfl
@[simp] theorem State.setEntry_scheds (s : State) (i : Nat) (e : Option CollEntry) : (s.setEntry i e).scheds = s.scheds := rfl
@[simp] theorem State.setEntry_routes (s : State) (i : Nat) (e : Option CollEntry) : (s.setEntry i e).routes = s.routes := rfl
@[simp] theorem State.setEntry_coherent (s : State) (i : Nat) (e : Option CollEntry) : (s.setEntry i e).coherent = s.coherent := rfl
@[simp] theorem State.setEntry_dieTables (s : State) (i : Nat) (e : Option CollEntry) : (s.setEntry i e).dieTables = s.dieTables := rfl
@[simp] theorem State.setEntry_px (s : State) (i : Nat) (e : Option CollEntry) : (s.setEntry i e).px = s.px := rfl
@[simp] theorem State.setEntry_mc (s : State) (i : Nat) (e : Option CollEntry) : (s.setEntry i e).mc = s.mc := rfl
@[simp] theorem State.setEntry_board (s : State) (i : Nat) (e : Option CollEntry) : (s.setEntry i e).board = s.board := rfl
@[simp] theorem State.setEntry_harts (s : State) (i : Nat) (e : Option CollEntry) : (s.setEntry i e).harts = s.harts := rfl
@[simp] theorem State.setEntry_imsic (s : State) (i : Nat) (e : Option CollEntry) : (s.setEntry i e).imsic = s.imsic := rfl
@[simp] theorem State.setEntry_free (s : State) (i : Nat) (e : Option CollEntry) : (s.setEntry i e).free = s.free := rfl

/-! ### State.setSeam -/

@[simp] theorem State.setSeam_pending (s : State) (i : Nat) (x : Seam) : (s.setSeam i x).pending = s.pending := rfl
@[simp] theorem State.setSeam_now (s : State) (i : Nat) (x : Seam) : (s.setSeam i x).now = s.now := rfl
@[simp] theorem State.setSeam_regs (s : State) (i : Nat) (x : Seam) : (s.setSeam i x).regs = s.regs := rfl
@[simp] theorem State.setSeam_mem (s : State) (i : Nat) (x : Seam) : (s.setSeam i x).mem = s.mem := rfl
@[simp] theorem State.setSeam_poison (s : State) (i : Nat) (x : Seam) : (s.setSeam i x).poison = s.poison := rfl
@[simp] theorem State.setSeam_flips (s : State) (i : Nat) (x : Seam) : (s.setSeam i x).flips = s.flips := rfl
@[simp] theorem State.setSeam_salt (s : State) (i : Nat) (x : Seam) : (s.setSeam i x).salt = s.salt := rfl
@[simp] theorem State.setSeam_flash (s : State) (i : Nat) (x : Seam) : (s.setSeam i x).flash = s.flash := rfl
@[simp] theorem State.setSeam_pattern (s : State) (i : Nat) (x : Seam) : (s.setSeam i x).pattern = s.pattern := rfl
@[simp] theorem State.setSeam_redirect (s : State) (i : Nat) (x : Seam) : (s.setSeam i x).redirect = s.redirect := rfl
@[simp] theorem State.setSeam_locals (s : State) (i : Nat) (x : Seam) : (s.setSeam i x).locals = s.locals := rfl
@[simp] theorem State.setSeam_arrays (s : State) (i : Nat) (x : Seam) : (s.setSeam i x).arrays = s.arrays := rfl
@[simp] theorem State.setSeam_vecs (s : State) (i : Nat) (x : Seam) : (s.setSeam i x).vecs = s.vecs := rfl
@[simp] theorem State.setSeam_needles (s : State) (i : Nat) (x : Seam) : (s.setSeam i x).needles = s.needles := rfl
@[simp] theorem State.setSeam_resv (s : State) (i : Nat) (x : Seam) : (s.setSeam i x).resv = s.resv := rfl
@[simp] theorem State.setSeam_agents (s : State) (i : Nat) (x : Seam) : (s.setSeam i x).agents = s.agents := rfl
@[simp] theorem State.setSeam_homes (s : State) (i : Nat) (x : Seam) : (s.setSeam i x).homes = s.homes := rfl
@[simp] theorem State.setSeam_stackCtl (s : State) (i : Nat) (x : Seam) : (s.setSeam i x).stackCtl = s.stackCtl := rfl
@[simp] theorem State.setSeam_memMap (s : State) (i : Nat) (x : Seam) : (s.setSeam i x).memMap = s.memMap := rfl
@[simp] theorem State.setSeam_guests (s : State) (i : Nat) (x : Seam) : (s.setSeam i x).guests = s.guests := rfl
@[simp] theorem State.setSeam_recovery (s : State) (i : Nat) (x : Seam) : (s.setSeam i x).recovery = s.recovery := rfl
@[simp] theorem State.setSeam_fabric (s : State) (i : Nat) (x : Seam) : (s.setSeam i x).fabric = s.fabric := rfl
@[simp] theorem State.setSeam_hall (s : State) (i : Nat) (x : Seam) : (s.setSeam i x).hall = s.hall := rfl
@[simp] theorem State.setSeam_diePattern (s : State) (i : Nat) (x : Seam) : (s.setSeam i x).diePattern = s.diePattern := rfl
@[simp] theorem State.setSeam_uncached (s : State) (i : Nat) (x : Seam) : (s.setSeam i x).uncached = s.uncached := rfl
@[simp] theorem State.setSeam_net (s : State) (i : Nat) (x : Seam) : (s.setSeam i x).net = s.net := rfl
@[simp] theorem State.setSeam_tu (s : State) (i : Nat) (x : Seam) : (s.setSeam i x).tu = s.tu := rfl
@[simp] theorem State.setSeam_ev (s : State) (i : Nat) (x : Seam) : (s.setSeam i x).ev = s.ev := rfl
@[simp] theorem State.setSeam_sent (s : State) (i : Nat) (x : Seam) : (s.setSeam i x).sent = s.sent := rfl
@[simp] theorem State.setSeam_qe (s : State) (i : Nat) (x : Seam) : (s.setSeam i x).qe = s.qe := rfl
@[simp] theorem State.setSeam_sk (s : State) (i : Nat) (x : Seam) : (s.setSeam i x).sk = s.sk := rfl
@[simp] theorem State.setSeam_latches (s : State) (i : Nat) (x : Seam) : (s.setSeam i x).latches = s.latches := rfl
@[simp] theorem State.setSeam_rowYoke (s : State) (i : Nat) (x : Seam) : (s.setSeam i x).rowYoke = s.rowYoke := rfl
@[simp] theorem State.setSeam_scheds (s : State) (i : Nat) (x : Seam) : (s.setSeam i x).scheds = s.scheds := rfl
@[simp] theorem State.setSeam_routes (s : State) (i : Nat) (x : Seam) : (s.setSeam i x).routes = s.routes := rfl
@[simp] theorem State.setSeam_coherent (s : State) (i : Nat) (x : Seam) : (s.setSeam i x).coherent = s.coherent := rfl
@[simp] theorem State.setSeam_dieTables (s : State) (i : Nat) (x : Seam) : (s.setSeam i x).dieTables = s.dieTables := rfl
@[simp] theorem State.setSeam_px (s : State) (i : Nat) (x : Seam) : (s.setSeam i x).px = s.px := rfl
@[simp] theorem State.setSeam_mc (s : State) (i : Nat) (x : Seam) : (s.setSeam i x).mc = s.mc := rfl
@[simp] theorem State.setSeam_board (s : State) (i : Nat) (x : Seam) : (s.setSeam i x).board = s.board := rfl
@[simp] theorem State.setSeam_harts (s : State) (i : Nat) (x : Seam) : (s.setSeam i x).harts = s.harts := rfl
@[simp] theorem State.setSeam_imsic (s : State) (i : Nat) (x : Seam) : (s.setSeam i x).imsic = s.imsic := rfl
@[simp] theorem State.setSeam_free (s : State) (i : Nat) (x : Seam) : (s.setSeam i x).free = s.free := rfl

/-! ### State.setGuest -/

@[simp] theorem State.setGuest_pending (s : State) (g : Nat) (x : GuestLink) : (s.setGuest g x).pending = s.pending := rfl
@[simp] theorem State.setGuest_now (s : State) (g : Nat) (x : GuestLink) : (s.setGuest g x).now = s.now := rfl
@[simp] theorem State.setGuest_regs (s : State) (g : Nat) (x : GuestLink) : (s.setGuest g x).regs = s.regs := rfl
@[simp] theorem State.setGuest_mem (s : State) (g : Nat) (x : GuestLink) : (s.setGuest g x).mem = s.mem := rfl
@[simp] theorem State.setGuest_poison (s : State) (g : Nat) (x : GuestLink) : (s.setGuest g x).poison = s.poison := rfl
@[simp] theorem State.setGuest_flips (s : State) (g : Nat) (x : GuestLink) : (s.setGuest g x).flips = s.flips := rfl
@[simp] theorem State.setGuest_salt (s : State) (g : Nat) (x : GuestLink) : (s.setGuest g x).salt = s.salt := rfl
@[simp] theorem State.setGuest_flash (s : State) (g : Nat) (x : GuestLink) : (s.setGuest g x).flash = s.flash := rfl
@[simp] theorem State.setGuest_pattern (s : State) (g : Nat) (x : GuestLink) : (s.setGuest g x).pattern = s.pattern := rfl
@[simp] theorem State.setGuest_redirect (s : State) (g : Nat) (x : GuestLink) : (s.setGuest g x).redirect = s.redirect := rfl
@[simp] theorem State.setGuest_locals (s : State) (g : Nat) (x : GuestLink) : (s.setGuest g x).locals = s.locals := rfl
@[simp] theorem State.setGuest_arrays (s : State) (g : Nat) (x : GuestLink) : (s.setGuest g x).arrays = s.arrays := rfl
@[simp] theorem State.setGuest_vecs (s : State) (g : Nat) (x : GuestLink) : (s.setGuest g x).vecs = s.vecs := rfl
@[simp] theorem State.setGuest_needles (s : State) (g : Nat) (x : GuestLink) : (s.setGuest g x).needles = s.needles := rfl
@[simp] theorem State.setGuest_resv (s : State) (g : Nat) (x : GuestLink) : (s.setGuest g x).resv = s.resv := rfl
@[simp] theorem State.setGuest_agents (s : State) (g : Nat) (x : GuestLink) : (s.setGuest g x).agents = s.agents := rfl
@[simp] theorem State.setGuest_homes (s : State) (g : Nat) (x : GuestLink) : (s.setGuest g x).homes = s.homes := rfl
@[simp] theorem State.setGuest_stackCtl (s : State) (g : Nat) (x : GuestLink) : (s.setGuest g x).stackCtl = s.stackCtl := rfl
@[simp] theorem State.setGuest_memMap (s : State) (g : Nat) (x : GuestLink) : (s.setGuest g x).memMap = s.memMap := rfl
@[simp] theorem State.setGuest_seams (s : State) (g : Nat) (x : GuestLink) : (s.setGuest g x).seams = s.seams := rfl
@[simp] theorem State.setGuest_recovery (s : State) (g : Nat) (x : GuestLink) : (s.setGuest g x).recovery = s.recovery := rfl
@[simp] theorem State.setGuest_fabric (s : State) (g : Nat) (x : GuestLink) : (s.setGuest g x).fabric = s.fabric := rfl
@[simp] theorem State.setGuest_hall (s : State) (g : Nat) (x : GuestLink) : (s.setGuest g x).hall = s.hall := rfl
@[simp] theorem State.setGuest_diePattern (s : State) (g : Nat) (x : GuestLink) : (s.setGuest g x).diePattern = s.diePattern := rfl
@[simp] theorem State.setGuest_uncached (s : State) (g : Nat) (x : GuestLink) : (s.setGuest g x).uncached = s.uncached := rfl
@[simp] theorem State.setGuest_net (s : State) (g : Nat) (x : GuestLink) : (s.setGuest g x).net = s.net := rfl
@[simp] theorem State.setGuest_tu (s : State) (g : Nat) (x : GuestLink) : (s.setGuest g x).tu = s.tu := rfl
@[simp] theorem State.setGuest_ev (s : State) (g : Nat) (x : GuestLink) : (s.setGuest g x).ev = s.ev := rfl
@[simp] theorem State.setGuest_sent (s : State) (g : Nat) (x : GuestLink) : (s.setGuest g x).sent = s.sent := rfl
@[simp] theorem State.setGuest_qe (s : State) (g : Nat) (x : GuestLink) : (s.setGuest g x).qe = s.qe := rfl
@[simp] theorem State.setGuest_sk (s : State) (g : Nat) (x : GuestLink) : (s.setGuest g x).sk = s.sk := rfl
@[simp] theorem State.setGuest_latches (s : State) (g : Nat) (x : GuestLink) : (s.setGuest g x).latches = s.latches := rfl
@[simp] theorem State.setGuest_rowYoke (s : State) (g : Nat) (x : GuestLink) : (s.setGuest g x).rowYoke = s.rowYoke := rfl
@[simp] theorem State.setGuest_scheds (s : State) (g : Nat) (x : GuestLink) : (s.setGuest g x).scheds = s.scheds := rfl
@[simp] theorem State.setGuest_routes (s : State) (g : Nat) (x : GuestLink) : (s.setGuest g x).routes = s.routes := rfl
@[simp] theorem State.setGuest_coherent (s : State) (g : Nat) (x : GuestLink) : (s.setGuest g x).coherent = s.coherent := rfl
@[simp] theorem State.setGuest_dieTables (s : State) (g : Nat) (x : GuestLink) : (s.setGuest g x).dieTables = s.dieTables := rfl
@[simp] theorem State.setGuest_px (s : State) (g : Nat) (x : GuestLink) : (s.setGuest g x).px = s.px := rfl
@[simp] theorem State.setGuest_mc (s : State) (g : Nat) (x : GuestLink) : (s.setGuest g x).mc = s.mc := rfl
@[simp] theorem State.setGuest_board (s : State) (g : Nat) (x : GuestLink) : (s.setGuest g x).board = s.board := rfl
@[simp] theorem State.setGuest_harts (s : State) (g : Nat) (x : GuestLink) : (s.setGuest g x).harts = s.harts := rfl
@[simp] theorem State.setGuest_imsic (s : State) (g : Nat) (x : GuestLink) : (s.setGuest g x).imsic = s.imsic := rfl
@[simp] theorem State.setGuest_free (s : State) (g : Nat) (x : GuestLink) : (s.setGuest g x).free = s.free := rfl

/-! ### State.setHart -/

@[simp] theorem State.setHart_pending (s : State) (h : Nat) (x : Hart) : (s.setHart h x).pending = s.pending := rfl
@[simp] theorem State.setHart_now (s : State) (h : Nat) (x : Hart) : (s.setHart h x).now = s.now := rfl
@[simp] theorem State.setHart_regs (s : State) (h : Nat) (x : Hart) : (s.setHart h x).regs = s.regs := rfl
@[simp] theorem State.setHart_mem (s : State) (h : Nat) (x : Hart) : (s.setHart h x).mem = s.mem := rfl
@[simp] theorem State.setHart_poison (s : State) (h : Nat) (x : Hart) : (s.setHart h x).poison = s.poison := rfl
@[simp] theorem State.setHart_flips (s : State) (h : Nat) (x : Hart) : (s.setHart h x).flips = s.flips := rfl
@[simp] theorem State.setHart_salt (s : State) (h : Nat) (x : Hart) : (s.setHart h x).salt = s.salt := rfl
@[simp] theorem State.setHart_flash (s : State) (h : Nat) (x : Hart) : (s.setHart h x).flash = s.flash := rfl
@[simp] theorem State.setHart_pattern (s : State) (h : Nat) (x : Hart) : (s.setHart h x).pattern = s.pattern := rfl
@[simp] theorem State.setHart_redirect (s : State) (h : Nat) (x : Hart) : (s.setHart h x).redirect = s.redirect := rfl
@[simp] theorem State.setHart_locals (s : State) (h : Nat) (x : Hart) : (s.setHart h x).locals = s.locals := rfl
@[simp] theorem State.setHart_arrays (s : State) (h : Nat) (x : Hart) : (s.setHart h x).arrays = s.arrays := rfl
@[simp] theorem State.setHart_vecs (s : State) (h : Nat) (x : Hart) : (s.setHart h x).vecs = s.vecs := rfl
@[simp] theorem State.setHart_needles (s : State) (h : Nat) (x : Hart) : (s.setHart h x).needles = s.needles := rfl
@[simp] theorem State.setHart_resv (s : State) (h : Nat) (x : Hart) : (s.setHart h x).resv = s.resv := rfl
@[simp] theorem State.setHart_agents (s : State) (h : Nat) (x : Hart) : (s.setHart h x).agents = s.agents := rfl
@[simp] theorem State.setHart_homes (s : State) (h : Nat) (x : Hart) : (s.setHart h x).homes = s.homes := rfl
@[simp] theorem State.setHart_stackCtl (s : State) (h : Nat) (x : Hart) : (s.setHart h x).stackCtl = s.stackCtl := rfl
@[simp] theorem State.setHart_memMap (s : State) (h : Nat) (x : Hart) : (s.setHart h x).memMap = s.memMap := rfl
@[simp] theorem State.setHart_seams (s : State) (h : Nat) (x : Hart) : (s.setHart h x).seams = s.seams := rfl
@[simp] theorem State.setHart_guests (s : State) (h : Nat) (x : Hart) : (s.setHart h x).guests = s.guests := rfl
@[simp] theorem State.setHart_recovery (s : State) (h : Nat) (x : Hart) : (s.setHart h x).recovery = s.recovery := rfl
@[simp] theorem State.setHart_fabric (s : State) (h : Nat) (x : Hart) : (s.setHart h x).fabric = s.fabric := rfl
@[simp] theorem State.setHart_hall (s : State) (h : Nat) (x : Hart) : (s.setHart h x).hall = s.hall := rfl
@[simp] theorem State.setHart_diePattern (s : State) (h : Nat) (x : Hart) : (s.setHart h x).diePattern = s.diePattern := rfl
@[simp] theorem State.setHart_uncached (s : State) (h : Nat) (x : Hart) : (s.setHart h x).uncached = s.uncached := rfl
@[simp] theorem State.setHart_net (s : State) (h : Nat) (x : Hart) : (s.setHart h x).net = s.net := rfl
@[simp] theorem State.setHart_tu (s : State) (h : Nat) (x : Hart) : (s.setHart h x).tu = s.tu := rfl
@[simp] theorem State.setHart_ev (s : State) (h : Nat) (x : Hart) : (s.setHart h x).ev = s.ev := rfl
@[simp] theorem State.setHart_sent (s : State) (h : Nat) (x : Hart) : (s.setHart h x).sent = s.sent := rfl
@[simp] theorem State.setHart_qe (s : State) (h : Nat) (x : Hart) : (s.setHart h x).qe = s.qe := rfl
@[simp] theorem State.setHart_sk (s : State) (h : Nat) (x : Hart) : (s.setHart h x).sk = s.sk := rfl
@[simp] theorem State.setHart_latches (s : State) (h : Nat) (x : Hart) : (s.setHart h x).latches = s.latches := rfl
@[simp] theorem State.setHart_rowYoke (s : State) (h : Nat) (x : Hart) : (s.setHart h x).rowYoke = s.rowYoke := rfl
@[simp] theorem State.setHart_scheds (s : State) (h : Nat) (x : Hart) : (s.setHart h x).scheds = s.scheds := rfl
@[simp] theorem State.setHart_routes (s : State) (h : Nat) (x : Hart) : (s.setHart h x).routes = s.routes := rfl
@[simp] theorem State.setHart_coherent (s : State) (h : Nat) (x : Hart) : (s.setHart h x).coherent = s.coherent := rfl
@[simp] theorem State.setHart_dieTables (s : State) (h : Nat) (x : Hart) : (s.setHart h x).dieTables = s.dieTables := rfl
@[simp] theorem State.setHart_px (s : State) (h : Nat) (x : Hart) : (s.setHart h x).px = s.px := rfl
@[simp] theorem State.setHart_mc (s : State) (h : Nat) (x : Hart) : (s.setHart h x).mc = s.mc := rfl
@[simp] theorem State.setHart_board (s : State) (h : Nat) (x : Hart) : (s.setHart h x).board = s.board := rfl
@[simp] theorem State.setHart_imsic (s : State) (h : Nat) (x : Hart) : (s.setHart h x).imsic = s.imsic := rfl
@[simp] theorem State.setHart_free (s : State) (h : Nat) (x : Hart) : (s.setHart h x).free = s.free := rfl

/-! ### State.onMc -/

@[simp] theorem State.onMc_pending (s : State) (f : Mc → Mc) : (s.onMc f).pending = s.pending := rfl
@[simp] theorem State.onMc_now (s : State) (f : Mc → Mc) : (s.onMc f).now = s.now := rfl
@[simp] theorem State.onMc_regs (s : State) (f : Mc → Mc) : (s.onMc f).regs = s.regs := rfl
@[simp] theorem State.onMc_mem (s : State) (f : Mc → Mc) : (s.onMc f).mem = s.mem := rfl
@[simp] theorem State.onMc_poison (s : State) (f : Mc → Mc) : (s.onMc f).poison = s.poison := rfl
@[simp] theorem State.onMc_flips (s : State) (f : Mc → Mc) : (s.onMc f).flips = s.flips := rfl
@[simp] theorem State.onMc_salt (s : State) (f : Mc → Mc) : (s.onMc f).salt = s.salt := rfl
@[simp] theorem State.onMc_flash (s : State) (f : Mc → Mc) : (s.onMc f).flash = s.flash := rfl
@[simp] theorem State.onMc_pattern (s : State) (f : Mc → Mc) : (s.onMc f).pattern = s.pattern := rfl
@[simp] theorem State.onMc_redirect (s : State) (f : Mc → Mc) : (s.onMc f).redirect = s.redirect := rfl
@[simp] theorem State.onMc_locals (s : State) (f : Mc → Mc) : (s.onMc f).locals = s.locals := rfl
@[simp] theorem State.onMc_arrays (s : State) (f : Mc → Mc) : (s.onMc f).arrays = s.arrays := rfl
@[simp] theorem State.onMc_vecs (s : State) (f : Mc → Mc) : (s.onMc f).vecs = s.vecs := rfl
@[simp] theorem State.onMc_needles (s : State) (f : Mc → Mc) : (s.onMc f).needles = s.needles := rfl
@[simp] theorem State.onMc_resv (s : State) (f : Mc → Mc) : (s.onMc f).resv = s.resv := rfl
@[simp] theorem State.onMc_agents (s : State) (f : Mc → Mc) : (s.onMc f).agents = s.agents := rfl
@[simp] theorem State.onMc_homes (s : State) (f : Mc → Mc) : (s.onMc f).homes = s.homes := rfl
@[simp] theorem State.onMc_stackCtl (s : State) (f : Mc → Mc) : (s.onMc f).stackCtl = s.stackCtl := rfl
@[simp] theorem State.onMc_memMap (s : State) (f : Mc → Mc) : (s.onMc f).memMap = s.memMap := rfl
@[simp] theorem State.onMc_seams (s : State) (f : Mc → Mc) : (s.onMc f).seams = s.seams := rfl
@[simp] theorem State.onMc_guests (s : State) (f : Mc → Mc) : (s.onMc f).guests = s.guests := rfl
@[simp] theorem State.onMc_recovery (s : State) (f : Mc → Mc) : (s.onMc f).recovery = s.recovery := rfl
@[simp] theorem State.onMc_fabric (s : State) (f : Mc → Mc) : (s.onMc f).fabric = s.fabric := rfl
@[simp] theorem State.onMc_hall (s : State) (f : Mc → Mc) : (s.onMc f).hall = s.hall := rfl
@[simp] theorem State.onMc_diePattern (s : State) (f : Mc → Mc) : (s.onMc f).diePattern = s.diePattern := rfl
@[simp] theorem State.onMc_uncached (s : State) (f : Mc → Mc) : (s.onMc f).uncached = s.uncached := rfl
@[simp] theorem State.onMc_net (s : State) (f : Mc → Mc) : (s.onMc f).net = s.net := rfl
@[simp] theorem State.onMc_tu (s : State) (f : Mc → Mc) : (s.onMc f).tu = s.tu := rfl
@[simp] theorem State.onMc_ev (s : State) (f : Mc → Mc) : (s.onMc f).ev = s.ev := rfl
@[simp] theorem State.onMc_sent (s : State) (f : Mc → Mc) : (s.onMc f).sent = s.sent := rfl
@[simp] theorem State.onMc_qe (s : State) (f : Mc → Mc) : (s.onMc f).qe = s.qe := rfl
@[simp] theorem State.onMc_sk (s : State) (f : Mc → Mc) : (s.onMc f).sk = s.sk := rfl
@[simp] theorem State.onMc_latches (s : State) (f : Mc → Mc) : (s.onMc f).latches = s.latches := rfl
@[simp] theorem State.onMc_rowYoke (s : State) (f : Mc → Mc) : (s.onMc f).rowYoke = s.rowYoke := rfl
@[simp] theorem State.onMc_scheds (s : State) (f : Mc → Mc) : (s.onMc f).scheds = s.scheds := rfl
@[simp] theorem State.onMc_routes (s : State) (f : Mc → Mc) : (s.onMc f).routes = s.routes := rfl
@[simp] theorem State.onMc_coherent (s : State) (f : Mc → Mc) : (s.onMc f).coherent = s.coherent := rfl
@[simp] theorem State.onMc_dieTables (s : State) (f : Mc → Mc) : (s.onMc f).dieTables = s.dieTables := rfl
@[simp] theorem State.onMc_px (s : State) (f : Mc → Mc) : (s.onMc f).px = s.px := rfl
@[simp] theorem State.onMc_board (s : State) (f : Mc → Mc) : (s.onMc f).board = s.board := rfl
@[simp] theorem State.onMc_harts (s : State) (f : Mc → Mc) : (s.onMc f).harts = s.harts := rfl
@[simp] theorem State.onMc_imsic (s : State) (f : Mc → Mc) : (s.onMc f).imsic = s.imsic := rfl
@[simp] theorem State.onMc_free (s : State) (f : Mc → Mc) : (s.onMc f).free = s.free := rfl

/-! ### State.onBoard -/

@[simp] theorem State.onBoard_pending (s : State) (f : Board → Board) : (s.onBoard f).pending = s.pending := rfl
@[simp] theorem State.onBoard_now (s : State) (f : Board → Board) : (s.onBoard f).now = s.now := rfl
@[simp] theorem State.onBoard_regs (s : State) (f : Board → Board) : (s.onBoard f).regs = s.regs := rfl
@[simp] theorem State.onBoard_mem (s : State) (f : Board → Board) : (s.onBoard f).mem = s.mem := rfl
@[simp] theorem State.onBoard_poison (s : State) (f : Board → Board) : (s.onBoard f).poison = s.poison := rfl
@[simp] theorem State.onBoard_flips (s : State) (f : Board → Board) : (s.onBoard f).flips = s.flips := rfl
@[simp] theorem State.onBoard_salt (s : State) (f : Board → Board) : (s.onBoard f).salt = s.salt := rfl
@[simp] theorem State.onBoard_flash (s : State) (f : Board → Board) : (s.onBoard f).flash = s.flash := rfl
@[simp] theorem State.onBoard_pattern (s : State) (f : Board → Board) : (s.onBoard f).pattern = s.pattern := rfl
@[simp] theorem State.onBoard_redirect (s : State) (f : Board → Board) : (s.onBoard f).redirect = s.redirect := rfl
@[simp] theorem State.onBoard_locals (s : State) (f : Board → Board) : (s.onBoard f).locals = s.locals := rfl
@[simp] theorem State.onBoard_arrays (s : State) (f : Board → Board) : (s.onBoard f).arrays = s.arrays := rfl
@[simp] theorem State.onBoard_vecs (s : State) (f : Board → Board) : (s.onBoard f).vecs = s.vecs := rfl
@[simp] theorem State.onBoard_needles (s : State) (f : Board → Board) : (s.onBoard f).needles = s.needles := rfl
@[simp] theorem State.onBoard_resv (s : State) (f : Board → Board) : (s.onBoard f).resv = s.resv := rfl
@[simp] theorem State.onBoard_agents (s : State) (f : Board → Board) : (s.onBoard f).agents = s.agents := rfl
@[simp] theorem State.onBoard_homes (s : State) (f : Board → Board) : (s.onBoard f).homes = s.homes := rfl
@[simp] theorem State.onBoard_stackCtl (s : State) (f : Board → Board) : (s.onBoard f).stackCtl = s.stackCtl := rfl
@[simp] theorem State.onBoard_memMap (s : State) (f : Board → Board) : (s.onBoard f).memMap = s.memMap := rfl
@[simp] theorem State.onBoard_seams (s : State) (f : Board → Board) : (s.onBoard f).seams = s.seams := rfl
@[simp] theorem State.onBoard_guests (s : State) (f : Board → Board) : (s.onBoard f).guests = s.guests := rfl
@[simp] theorem State.onBoard_recovery (s : State) (f : Board → Board) : (s.onBoard f).recovery = s.recovery := rfl
@[simp] theorem State.onBoard_fabric (s : State) (f : Board → Board) : (s.onBoard f).fabric = s.fabric := rfl
@[simp] theorem State.onBoard_hall (s : State) (f : Board → Board) : (s.onBoard f).hall = s.hall := rfl
@[simp] theorem State.onBoard_diePattern (s : State) (f : Board → Board) : (s.onBoard f).diePattern = s.diePattern := rfl
@[simp] theorem State.onBoard_uncached (s : State) (f : Board → Board) : (s.onBoard f).uncached = s.uncached := rfl
@[simp] theorem State.onBoard_net (s : State) (f : Board → Board) : (s.onBoard f).net = s.net := rfl
@[simp] theorem State.onBoard_tu (s : State) (f : Board → Board) : (s.onBoard f).tu = s.tu := rfl
@[simp] theorem State.onBoard_ev (s : State) (f : Board → Board) : (s.onBoard f).ev = s.ev := rfl
@[simp] theorem State.onBoard_sent (s : State) (f : Board → Board) : (s.onBoard f).sent = s.sent := rfl
@[simp] theorem State.onBoard_qe (s : State) (f : Board → Board) : (s.onBoard f).qe = s.qe := rfl
@[simp] theorem State.onBoard_sk (s : State) (f : Board → Board) : (s.onBoard f).sk = s.sk := rfl
@[simp] theorem State.onBoard_latches (s : State) (f : Board → Board) : (s.onBoard f).latches = s.latches := rfl
@[simp] theorem State.onBoard_rowYoke (s : State) (f : Board → Board) : (s.onBoard f).rowYoke = s.rowYoke := rfl
@[simp] theorem State.onBoard_scheds (s : State) (f : Board → Board) : (s.onBoard f).scheds = s.scheds := rfl
@[simp] theorem State.onBoard_routes (s : State) (f : Board → Board) : (s.onBoard f).routes = s.routes := rfl
@[simp] theorem State.onBoard_coherent (s : State) (f : Board → Board) : (s.onBoard f).coherent = s.coherent := rfl
@[simp] theorem State.onBoard_dieTables (s : State) (f : Board → Board) : (s.onBoard f).dieTables = s.dieTables := rfl
@[simp] theorem State.onBoard_px (s : State) (f : Board → Board) : (s.onBoard f).px = s.px := rfl
@[simp] theorem State.onBoard_mc (s : State) (f : Board → Board) : (s.onBoard f).mc = s.mc := rfl
@[simp] theorem State.onBoard_harts (s : State) (f : Board → Board) : (s.onBoard f).harts = s.harts := rfl
@[simp] theorem State.onBoard_imsic (s : State) (f : Board → Board) : (s.onBoard f).imsic = s.imsic := rfl
@[simp] theorem State.onBoard_free (s : State) (f : Board → Board) : (s.onBoard f).free = s.free := rfl

/-! ### State.setFlds -/

@[simp] theorem State.setFlds_pending (s : State) (l : List (Fld × Nat)) : (s.setFlds l).pending = s.pending := by
  induction l generalizing s with
  | nil => rfl
  | cons x l ih => exact ih (s.setFld x.1 x.2)
@[simp] theorem State.setFlds_now (s : State) (l : List (Fld × Nat)) : (s.setFlds l).now = s.now := by
  induction l generalizing s with
  | nil => rfl
  | cons x l ih => exact ih (s.setFld x.1 x.2)
@[simp] theorem State.setFlds_mem (s : State) (l : List (Fld × Nat)) : (s.setFlds l).mem = s.mem := by
  induction l generalizing s with
  | nil => rfl
  | cons x l ih => exact ih (s.setFld x.1 x.2)
@[simp] theorem State.setFlds_poison (s : State) (l : List (Fld × Nat)) : (s.setFlds l).poison = s.poison := by
  induction l generalizing s with
  | nil => rfl
  | cons x l ih => exact ih (s.setFld x.1 x.2)
@[simp] theorem State.setFlds_flips (s : State) (l : List (Fld × Nat)) : (s.setFlds l).flips = s.flips := by
  induction l generalizing s with
  | nil => rfl
  | cons x l ih => exact ih (s.setFld x.1 x.2)
@[simp] theorem State.setFlds_salt (s : State) (l : List (Fld × Nat)) : (s.setFlds l).salt = s.salt := by
  induction l generalizing s with
  | nil => rfl
  | cons x l ih => exact ih (s.setFld x.1 x.2)
@[simp] theorem State.setFlds_flash (s : State) (l : List (Fld × Nat)) : (s.setFlds l).flash = s.flash := by
  induction l generalizing s with
  | nil => rfl
  | cons x l ih => exact ih (s.setFld x.1 x.2)
@[simp] theorem State.setFlds_pattern (s : State) (l : List (Fld × Nat)) : (s.setFlds l).pattern = s.pattern := by
  induction l generalizing s with
  | nil => rfl
  | cons x l ih => exact ih (s.setFld x.1 x.2)
@[simp] theorem State.setFlds_redirect (s : State) (l : List (Fld × Nat)) : (s.setFlds l).redirect = s.redirect := by
  induction l generalizing s with
  | nil => rfl
  | cons x l ih => exact ih (s.setFld x.1 x.2)
@[simp] theorem State.setFlds_locals (s : State) (l : List (Fld × Nat)) : (s.setFlds l).locals = s.locals := by
  induction l generalizing s with
  | nil => rfl
  | cons x l ih => exact ih (s.setFld x.1 x.2)
@[simp] theorem State.setFlds_arrays (s : State) (l : List (Fld × Nat)) : (s.setFlds l).arrays = s.arrays := by
  induction l generalizing s with
  | nil => rfl
  | cons x l ih => exact ih (s.setFld x.1 x.2)
@[simp] theorem State.setFlds_vecs (s : State) (l : List (Fld × Nat)) : (s.setFlds l).vecs = s.vecs := by
  induction l generalizing s with
  | nil => rfl
  | cons x l ih => exact ih (s.setFld x.1 x.2)
@[simp] theorem State.setFlds_needles (s : State) (l : List (Fld × Nat)) : (s.setFlds l).needles = s.needles := by
  induction l generalizing s with
  | nil => rfl
  | cons x l ih => exact ih (s.setFld x.1 x.2)
@[simp] theorem State.setFlds_resv (s : State) (l : List (Fld × Nat)) : (s.setFlds l).resv = s.resv := by
  induction l generalizing s with
  | nil => rfl
  | cons x l ih => exact ih (s.setFld x.1 x.2)
@[simp] theorem State.setFlds_agents (s : State) (l : List (Fld × Nat)) : (s.setFlds l).agents = s.agents := by
  induction l generalizing s with
  | nil => rfl
  | cons x l ih => exact ih (s.setFld x.1 x.2)
@[simp] theorem State.setFlds_homes (s : State) (l : List (Fld × Nat)) : (s.setFlds l).homes = s.homes := by
  induction l generalizing s with
  | nil => rfl
  | cons x l ih => exact ih (s.setFld x.1 x.2)
@[simp] theorem State.setFlds_stackCtl (s : State) (l : List (Fld × Nat)) : (s.setFlds l).stackCtl = s.stackCtl := by
  induction l generalizing s with
  | nil => rfl
  | cons x l ih => exact ih (s.setFld x.1 x.2)
@[simp] theorem State.setFlds_memMap (s : State) (l : List (Fld × Nat)) : (s.setFlds l).memMap = s.memMap := by
  induction l generalizing s with
  | nil => rfl
  | cons x l ih => exact ih (s.setFld x.1 x.2)
@[simp] theorem State.setFlds_seams (s : State) (l : List (Fld × Nat)) : (s.setFlds l).seams = s.seams := by
  induction l generalizing s with
  | nil => rfl
  | cons x l ih => exact ih (s.setFld x.1 x.2)
@[simp] theorem State.setFlds_guests (s : State) (l : List (Fld × Nat)) : (s.setFlds l).guests = s.guests := by
  induction l generalizing s with
  | nil => rfl
  | cons x l ih => exact ih (s.setFld x.1 x.2)
@[simp] theorem State.setFlds_recovery (s : State) (l : List (Fld × Nat)) : (s.setFlds l).recovery = s.recovery := by
  induction l generalizing s with
  | nil => rfl
  | cons x l ih => exact ih (s.setFld x.1 x.2)
@[simp] theorem State.setFlds_fabric (s : State) (l : List (Fld × Nat)) : (s.setFlds l).fabric = s.fabric := by
  induction l generalizing s with
  | nil => rfl
  | cons x l ih => exact ih (s.setFld x.1 x.2)
@[simp] theorem State.setFlds_hall (s : State) (l : List (Fld × Nat)) : (s.setFlds l).hall = s.hall := by
  induction l generalizing s with
  | nil => rfl
  | cons x l ih => exact ih (s.setFld x.1 x.2)
@[simp] theorem State.setFlds_diePattern (s : State) (l : List (Fld × Nat)) : (s.setFlds l).diePattern = s.diePattern := by
  induction l generalizing s with
  | nil => rfl
  | cons x l ih => exact ih (s.setFld x.1 x.2)
@[simp] theorem State.setFlds_uncached (s : State) (l : List (Fld × Nat)) : (s.setFlds l).uncached = s.uncached := by
  induction l generalizing s with
  | nil => rfl
  | cons x l ih => exact ih (s.setFld x.1 x.2)
@[simp] theorem State.setFlds_net (s : State) (l : List (Fld × Nat)) : (s.setFlds l).net = s.net := by
  induction l generalizing s with
  | nil => rfl
  | cons x l ih => exact ih (s.setFld x.1 x.2)
@[simp] theorem State.setFlds_tu (s : State) (l : List (Fld × Nat)) : (s.setFlds l).tu = s.tu := by
  induction l generalizing s with
  | nil => rfl
  | cons x l ih => exact ih (s.setFld x.1 x.2)
@[simp] theorem State.setFlds_ev (s : State) (l : List (Fld × Nat)) : (s.setFlds l).ev = s.ev := by
  induction l generalizing s with
  | nil => rfl
  | cons x l ih => exact ih (s.setFld x.1 x.2)
@[simp] theorem State.setFlds_sent (s : State) (l : List (Fld × Nat)) : (s.setFlds l).sent = s.sent := by
  induction l generalizing s with
  | nil => rfl
  | cons x l ih => exact ih (s.setFld x.1 x.2)
@[simp] theorem State.setFlds_qe (s : State) (l : List (Fld × Nat)) : (s.setFlds l).qe = s.qe := by
  induction l generalizing s with
  | nil => rfl
  | cons x l ih => exact ih (s.setFld x.1 x.2)
@[simp] theorem State.setFlds_sk (s : State) (l : List (Fld × Nat)) : (s.setFlds l).sk = s.sk := by
  induction l generalizing s with
  | nil => rfl
  | cons x l ih => exact ih (s.setFld x.1 x.2)
@[simp] theorem State.setFlds_latches (s : State) (l : List (Fld × Nat)) : (s.setFlds l).latches = s.latches := by
  induction l generalizing s with
  | nil => rfl
  | cons x l ih => exact ih (s.setFld x.1 x.2)
@[simp] theorem State.setFlds_rowYoke (s : State) (l : List (Fld × Nat)) : (s.setFlds l).rowYoke = s.rowYoke := by
  induction l generalizing s with
  | nil => rfl
  | cons x l ih => exact ih (s.setFld x.1 x.2)
@[simp] theorem State.setFlds_scheds (s : State) (l : List (Fld × Nat)) : (s.setFlds l).scheds = s.scheds := by
  induction l generalizing s with
  | nil => rfl
  | cons x l ih => exact ih (s.setFld x.1 x.2)
@[simp] theorem State.setFlds_routes (s : State) (l : List (Fld × Nat)) : (s.setFlds l).routes = s.routes := by
  induction l generalizing s with
  | nil => rfl
  | cons x l ih => exact ih (s.setFld x.1 x.2)
@[simp] theorem State.setFlds_coherent (s : State) (l : List (Fld × Nat)) : (s.setFlds l).coherent = s.coherent := by
  induction l generalizing s with
  | nil => rfl
  | cons x l ih => exact ih (s.setFld x.1 x.2)
@[simp] theorem State.setFlds_dieTables (s : State) (l : List (Fld × Nat)) : (s.setFlds l).dieTables = s.dieTables := by
  induction l generalizing s with
  | nil => rfl
  | cons x l ih => exact ih (s.setFld x.1 x.2)
@[simp] theorem State.setFlds_px (s : State) (l : List (Fld × Nat)) : (s.setFlds l).px = s.px := by
  induction l generalizing s with
  | nil => rfl
  | cons x l ih => exact ih (s.setFld x.1 x.2)
@[simp] theorem State.setFlds_mc (s : State) (l : List (Fld × Nat)) : (s.setFlds l).mc = s.mc := by
  induction l generalizing s with
  | nil => rfl
  | cons x l ih => exact ih (s.setFld x.1 x.2)
@[simp] theorem State.setFlds_board (s : State) (l : List (Fld × Nat)) : (s.setFlds l).board = s.board := by
  induction l generalizing s with
  | nil => rfl
  | cons x l ih => exact ih (s.setFld x.1 x.2)
@[simp] theorem State.setFlds_harts (s : State) (l : List (Fld × Nat)) : (s.setFlds l).harts = s.harts := by
  induction l generalizing s with
  | nil => rfl
  | cons x l ih => exact ih (s.setFld x.1 x.2)
@[simp] theorem State.setFlds_imsic (s : State) (l : List (Fld × Nat)) : (s.setFlds l).imsic = s.imsic := by
  induction l generalizing s with
  | nil => rfl
  | cons x l ih => exact ih (s.setFld x.1 x.2)
@[simp] theorem State.setFlds_free (s : State) (l : List (Fld × Nat)) : (s.setFlds l).free = s.free := by
  induction l generalizing s with
  | nil => rfl
  | cons x l ih => exact ih (s.setFld x.1 x.2)

/-! ### Reading what an update wrote -/

theorem State.sched_setSched (s : State) (k : Nat) (x : RowSched) : (s.setSched k x).sched k = x := Sparse.get_set_same ..
theorem State.sched_setSched_ne (s : State) {j k : Nat} (h : j ≠ k) (x : RowSched) : (s.setSched k x).sched j = s.sched j := Sparse.get_set_ne _ _ _ h
theorem State.array_setArray (s : State) (k : Nat) (x : ArrayUnits) : (s.setArray k x).array k = x := Sparse.get_set_same ..
theorem State.array_setArray_ne (s : State) {j k : Nat} (h : j ≠ k) (x : ArrayUnits) : (s.setArray k x).array j = s.array j := Sparse.get_set_ne _ _ _ h
theorem State.vec_setVec (s : State) (k : Nat) (x : VecEngine) : (s.setVec k x).vec k = x := Sparse.get_set_same ..
theorem State.vec_setVec_ne (s : State) {j k : Nat} (h : j ≠ k) (x : VecEngine) : (s.setVec k x).vec j = s.vec j := Sparse.get_set_ne _ _ _ h
theorem State.ndl_setNdl (s : State) (k : Nat) (x : Needles) : (s.setNdl k x).ndl k = x := Sparse.get_set_same ..
theorem State.ndl_setNdl_ne (s : State) {j k : Nat} (h : j ≠ k) (x : Needles) : (s.setNdl k x).ndl j = s.ndl j := Sparse.get_set_ne _ _ _ h
theorem State.queue_setQueue (s : State) (k : Nat) (x : Queue) : (s.setQueue k x).queue k = x := Sparse.get_set_same ..
theorem State.queue_setQueue_ne (s : State) {j k : Nat} (h : j ≠ k) (x : Queue) : (s.setQueue k x).queue j = s.queue j := Sparse.get_set_ne _ _ _ h
theorem State.cring_setCring (s : State) (k : Nat) (x : CRing) : (s.setCring k x).cring k = x := Sparse.get_set_same ..
theorem State.cring_setCring_ne (s : State) {j k : Nat} (h : j ≠ k) (x : CRing) : (s.setCring k x).cring j = s.cring j := Sparse.get_set_ne _ _ _ h
theorem State.stream_setStream (s : State) (k : Nat) (x : Stream) : (s.setStream k x).stream k = x := Sparse.get_set_same ..
theorem State.stream_setStream_ne (s : State) {j k : Nat} (h : j ≠ k) (x : Stream) : (s.setStream k x).stream j = s.stream j := Sparse.get_set_ne _ _ _ h
theorem State.tlb_setTlb (s : State) (k : Nat) (x : Tlb) : (s.setTlb k x).tlb k = x := Sparse.get_set_same ..
theorem State.tlb_setTlb_ne (s : State) {j k : Nat} (h : j ≠ k) (x : Tlb) : (s.setTlb k x).tlb j = s.tlb j := Sparse.get_set_ne _ _ _ h
theorem State.seam_setSeam (s : State) (k : Nat) (x : Seam) : (s.setSeam k x).seam k = x := Sparse.get_set_same ..
theorem State.seam_setSeam_ne (s : State) {j k : Nat} (h : j ≠ k) (x : Seam) : (s.setSeam k x).seam j = s.seam j := Sparse.get_set_ne _ _ _ h
theorem State.guest_setGuest (s : State) (k : Nat) (x : GuestLink) : (s.setGuest k x).guest k = x := Sparse.get_set_same ..
theorem State.guest_setGuest_ne (s : State) {j k : Nat} (h : j ≠ k) (x : GuestLink) : (s.setGuest k x).guest j = s.guest j := Sparse.get_set_ne _ _ _ h
theorem State.hart_setHart (s : State) (k : Nat) (x : Hart) : (s.setHart k x).hart k = x := Sparse.get_set_same ..
theorem State.hart_setHart_ne (s : State) {j k : Nat} (h : j ≠ k) (x : Hart) : (s.setHart k x).hart j = s.hart j := Sparse.get_set_ne _ _ _ h
theorem State.reg_setReg (s : State) (a v : Nat) : (s.setReg a v).reg a = v % 2 ^ 64 := by
  simp [State.reg, State.setReg]
theorem State.reg_setReg_ne (s : State) {a b : Nat} (v : Nat) (h : b ≠ a) : (s.setReg a v).reg b = s.reg b := by
  unfold State.reg State.setReg Sparse.set
  dsimp only
  split
  · rw [Sparse.get_drop_ne _ _ h]
  · rw [Sparse.get_put_ne _ _ _ h]

end Sys2Proof.Machine
end

