-- ==== Sys2Proof/WellFormed.lean ====
section
/-!
DEFINITION. WellFormed.lean: the operands that a command can carry, where their types leave more.
-/

namespace Sys2Proof

/-- A mesh ID in use (R21): the motifs, the yoke and the guests. (DESIGN CHOICE: log entry 1) -/
def meshInUse (d : Mesh) : Bool := d.val < 49 || d.val = 56 || d.val = 57

/-- The length of a transfer: 1 byte to 4 KiB. -/
def lengthOk (n : Nat) : Bool := 1 ≤ n && n ≤ 4096

/-- A request between dies: its length, and poison on words that it covers (R375). -/
def memReqOk : MemReq → Bool
  | .read _ len => lengthOk len.toNat
  | .write pa data poison => lengthOk data.length && poison.all fun w => w ≤ (pa.toNat % 8 + data.length - 1) / 8
  | .atomic pa fn wide ops => pa.toNat % (if wide then 8 else 4) = 0 && ops ≠ [] && (ops.length = 1 || fn = .swap || fn = .cas) &&
      !(wide && fn = .fadd)

/-- Offsets of a far atomic: inside the line, aligned, ascending, each named by a thread (R211, R215). -/
def farOk (op : FarAtomic) : Bool :=
  let n := if op.wide then 8 else 4
  op.addrs ≠ [] && (op.addrs.all fun a => a.off.toNat % n = 0 && a.args ≠ []) &&
    ((op.addrs.zip (op.addrs.drop 1)).all fun x => x.1.off.toNat < x.2.off.toNat)

/-- A fabric frame carries at most 4 KiB, and a mask of one bit for each word at most (R438). (DEDUCED: log entry 84) -/
def frameOk (f : Frame) : Bool := f.payload.length ≤ 4096 && f.mask.length ≤ 64

/-- A late step is one of cast-on's (R518). -/
def reportOk (r : CastOnReport) : Bool :=
  match r.late with
  | some k => 1 ≤ k.toNat && k.toNat ≤ 6
  | none => true

/-- A vector load stays inside its register. -/
def hartMemOk : HartMem → Bool
  | .load (.v _) off size _ => off.toNat + 2 ^ size.toNat ≤ 32
  | _ => true

/-- An element lies in its vector register. -/
def FpSrc.ok (n : Nat) : FpSrc → Bool
  | .v _ o => decide (o.toNat + n ≤ 32)
  | _ => true

def FpDst.ok (n : Nat) : FpDst → Bool
  | .v _ o => decide (o.toNat + n ≤ 32)
  | _ => true

def FpElem.ok (e : FpElem) : Bool :=
  e.a.ok e.src.bytes && e.b.ok e.src.bytes && e.c.ok e.res.bytes && e.dst.ok (match e.op with
    | .toInt _ k _ => 2 ^ k.toNat
    | _ => e.res.bytes)

/-- An integer result does not go to an f register. -/
def hartRegOk : HartReg → Bool
  | .f _ => false
  | _ => true

/-- A node core's instruction. -/
def hartActOk : HartAct → Bool
  | .access xs => xs.all fun x => hartMemOk x.2.2
  | .compute ws _ => ws.all fun w => hartRegOk w.1
  | .float _ es => es.all FpElem.ok
  | _ => true

/-- A command is well-formed. Every command not named has operands that its types make so.
(DESIGN CHOICE: log entry 1) -/
def wellFormed : Instr → Bool
  | .gaugeReport r => meshInUse r.src
  | .late src _ => meshInUse src
  | .rdS _ q _ => meshInUse q
  | .rdX _ q _ => meshInUse q
  | .upg _ q _ => meshInUse q
  | .wb _ q _ _ => meshInUse q
  | .cleanEvict _ q _ => meshInUse q
  | .rdNc _ q _ => meshInUse q
  | .wrNc _ q _ _ _ _ => meshInUse q
  | .atomFar _ q _ op => meshInUse q && farOk op
  | .memReq src _ r => meshInUse src && memReqOk r
  | .memRsp dst _ _ data => meshInUse dst && data.bytes.length ≤ 4096 && data.poison.all (· < 512)
  | .intMessage src _ => meshInUse src
  | .tlbInv die _ => meshInUse die
  | .invDone die _ => meshInUse die
  | .routeSet die _ _ => meshInUse die
  | .mapSet die _ _ _ => meshInUse die
  | .bindSet die _ _ _ _ => meshInUse die
  | .posSet die _ _ _ => meshInUse die
  | .patternData die _ _ => meshInUse die
  | .seqCmd die _ => meshInUse die
  | .chainAck src hop _ => meshInUse src && meshInUse hop
  | .chainResend src hop _ => meshInUse src && meshInUse hop
  | .seamState die _ _ => meshInUse die
  | .guestRequest _ r => memReqOk r
  | .remoteRequest r => memReqOk r.req
  | .hostReadCompletion _ _ data _ => data.length ≤ 4096
  | .prefetch _ data _ => data.length ≤ 4096
  | .bar4Read _ len _ => lengthOk len.toNat
  | .bar4Write _ data be _ _ => lengthOk data.length && be.length = data.length
  | .fabricRead f => frameOk f
  | .fabricReadRsp f => frameOk f
  | .fabricWrite f => frameOk f
  | .fabricWriteRsp f => frameOk f
  | .fabricAtomic f => frameOk f
  | .fabricAtomicRsp f => frameOk f
  | .fabricAck f => frameOk f
  | .fabricNak f => frameOk f
  | .nodeCoreInstruction _ _ _ i => hartActOk i
  | .mcLeaveReset _ r => reportOk r
  | .stepBudgetExpiry r => reportOk r
  | _ => true

end Sys2Proof
end

