-- ==== Sys2Proof/Tests/Slice0.lean ====
section
/-!
SUPPORT. Slice0.lean: ill-formed commands that WellFormed refuses, states that meet the statements' hypotheses, and a few
checks of values worked out by hand from the rules.
-/

open Sys2Proof Sys2Proof.Machine

namespace Sys2Proof.Tests

set_option Elab.async false

/-! ### Small states -/

def R : State := State.reset
/-- The reset state with some fields set. -/
def fl (l : List (Fld × Nat)) : State := R.setFlds l
/-- The reset state at a later instant. -/
def at' (n : Nat) (s : State := R) : State := { s with now := n }
def sched0 (r : RowSched) (s : State := R) : State := s.setSched 0 r

def st0 : Stitch :=
  { qid := 0, idx := 0, rank := 0, cls := 0, asid := 0, estCyc := 0, estUj := 0, dlist := 0, dbytes := 0, due := none,
    stream := none, flagged := false, late := false, headed := false }
def ad0 : Admitted :=
  { st := st0, ec := 0, eu := 0, pass := false, edges := 0, overrun := false, carried := false, start := none, cycBefore := 0,
    cyc := 0, njBefore := 0, nj := 0, next := 0, bad := none, stalled := false }
def aj (d : Nat) : ArrayJob :=
  { seq := 0, desc := d, fromList := false, asid := 0, group := 0, due := false, stat := NumStat.zero, cells := [], status := none,
    ran := false, ctrDue := false, stalled := false }
/-- Motif 0 is ENABLED with one descriptor waiting for its array. -/
def arr (d : Nat) : State := (R.setPos 0 1).setArray 0 { ArrayUnits.init with queue := [aj d] }
def vj (d : Nat) : VeJob :=
  { desc := d, fromList := false, asid := 0, start := 0, group := 0, accs := [], bcast := [], stat := NumStat.zero,
    range := false, status := none, ran := false, stalled := false, part := 0, sets := [], before := 0, feed := none }
/-- Motif 0's vector engine runs one descriptor. -/
def vec (j : VeJob) : State := R.setVec 0 { queue := [], run := some j }
/-- A PSUM of one partial and one position. -/
def psumD : Nat :=
  0x16 + 2 ^ 8 + 2 ^ 10 + 2 ^ 13 + 2 ^ 32 + 65537 * 2 ^ 64 + 65537 * 2 ^ 96 + 2 ^ (28 * 8) + 2 ^ (0x44 * 8 + 16) +
    0x2000000 * 2 ^ (0xA0 * 8) + 2 ^ (0xA4 * 8 + 16)
def lj (d : Nat) : LaunchJob :=
  { desc := d, fromList := false, asid := 0, nth := 0, next := 1, blocks := [(0, some ⟨1, false⟩)], stat := NumStat.zero,
    indexRange := false, stopped := false, seq := 0, status := none }
/-- A group with one thread, whose x1 holds a local address. -/
def grp : Group :=
  { block := 0, index := 0, pc := 0xFFFFFFFF00000000, am := 1, pm := 1, stack := [], vfill := 0, indexRange := false, sat := 0,
    flush := 0, inv := 0, x := [(1, 0xFFFFFFFF00000100)], f := [], fflags := [], tiles := [], wait := .none, since := 0,
    stalled := false, halt := false, mem := none, room := none }
/-- Motif 0 is ENABLED and runs one group, at whose pc the word stands. -/
def ndl (w : Nat) (x : Group := grp) (l : LaunchJob := lj 0) : State :=
  ((R.setPos 0 1).setNdl 0 { groups := [(0, some x)], queue := [], active := some l, past := [], taken := [], last := [] }).localWrite 0 0 (toBytes 4 w)
/-- The state after the needle has picked the group of `ndl`, and after it has issued. -/
def pick (s : State) (x : Group := grp) (l : LaunchJob := lj 0) : State := (s.fetch 0 0 x l).2.issued 0 0 x
def got (s : State) (x : Group := grp) (l : LaunchJob := lj 0) : State := (pick s x l).bump (C.TG_CNT_GROUP_INSTR 0) 1

/-- What `Picked` asks, as it is computed. -/
def picks (s : State) (m g : Nat) (x : Group) (l : LaunchJob) (w : Nat) : Bool :=
  s.launch m = some l && s.pos m = 1 && s.nextSlot m (g / 16) = some g && s.group m g = some x && x.idle && x.room = none &&
    (s.fetch m g x l).1 = .word w && !s.held m g x w

theorem picked_of {s : State} {m g : Nat} {x : Group} {l : LaunchJob} {w : Nat} (h : picks s m g x l w = true) :
    Picked s ((s.fetch m g x l).2.issued m g x) m g x l w := by
  simp only [picks, Bool.and_eq_true, decide_eq_true_eq, Bool.not_eq_true'] at h
  obtain ⟨⟨⟨⟨⟨⟨⟨h1, h2⟩, h3⟩, h4⟩, h5⟩, h6⟩, h7⟩, h8⟩ := h
  refine ⟨h1, h2, h3, x, (s.fetch m g x l).2, h4, h5, ?_, Prod.ext h7 rfl, h8, rfl⟩
  cases x
  simp_all

theorem issues_of {s : State} {m g : Nat} {x : Group} {l : LaunchJob} {w : Nat}
    (h : (picks s m g x l w && decide (x.am ≠ 0)) = true) :
    Issues s (((s.fetch m g x l).2.issued m g x).bump (C.TG_CNT_GROUP_INSTR m) 1) m g x l w := by
  simp only [Bool.and_eq_true, decide_eq_true_eq] at h
  exact ⟨_, picked_of h.1, h.2, rfl⟩

theorem together_of {s : State} {m g : Nat} {x : Group} {l : LaunchJob} {w : Nat}
    (h : ((picks s m g x l w && decide (x.am ≠ 0)) && decide (x.am = x.pm)) = true) :
    IssuesTogether s (((s.fetch m g x l).2.issued m g x).bump (C.TG_CNT_GROUP_INSTR m) 1) m g x l w := by
  rw [Bool.and_eq_true, decide_eq_true_eq] at h
  exact ⟨issues_of h.1, h.2⟩

/-- The words of `qs`, each with what accepts it, are picked for a group. -/
theorem picked_all {x : Group} {qs : List (Nat × (Nat → Bool))}
    (h : (qs.all fun q => picks (ndl q.1 x) 0 0 x (lj 0) q.1 && q.2 q.1) = true) :
    ∀ q ∈ qs, ∃ s t, Picked s t 0 0 x (lj 0) q.1 ∧ q.2 q.1 = true := by
  intro q hq
  have := List.all_eq_true.mp h q hq
  simp only [Bool.and_eq_true] at this
  exact ⟨_, _, picked_of this.1, this.2⟩

theorem none_of {α : Type} {o : Option α} {p : α → Prop} (h : o = none) : ∀ r, o = some r → p r := by
  intro r hr
  rw [h] at hr
  cases hr

/-- The ASID 0 maps the lowest GiB onto itself with every permission, for the die `d`. -/
def mapped (d : Nat) (s : State := R) : State :=
  (s.setTlb d { leaves := [⟨0, 0, 2 ^ 18, 0xDF, 2⟩], steps := [] }).setFld F.HB_SW_TOP_SW_TOP (2 ^ 30)

/-! ### Witnesses -/

/-- A SAVE of motif 0 whose counter is due. -/
def saving : State := mapped 0 (R.setArray 0 { ArrayUnits.init with drain := some { aj 5 with ctrDue := true } })
theorem pair_ext {α β : Type} {e : α × β} {a : α} (h : e.1 = a) : e = (a, e.2) := Prod.ext h rfl
/-- The host reaches the module, which is at READY. -/
def hst : State :=
  { fl [(F.PX_REQID_V 0, 1), (F.MC_STATUS_STATE, 2), (F.PT_QUEUE_LOG2_CQ, 4), (F.PT_QUEUE_LOG2_SQ, 4)] with
    px := { Px.init with memOn := true, msixCount := 2048 } }
def qc (b : Nat) (r : CmdRun := .waiting) : QCmd := { idx := 0, bytes := b, row := 0, head := 0, run := r, stalled := false }
/-- Queue 1 is active with one entry to fetch, or with commands. -/
def que (cs : List QCmd) (s : State := R) : State := s.setQueue 1 { Queue.init with state := .active, pi := 1, cmds := cs }
/-- The admin queue holds a command. -/
def adq (c : QCmd) (s : State := hst) : State := s.setQueue 0 { Queue.init with state := .active, cmds := [c] }
/-- Motif 0 is ENABLED and runs a stitch whose list's first item has the OP byte `op`. -/
def lst (op : Byte) : State :=
  { mapped 48 (sched0 { RowSched.init with running := some { ad0 with st := { st0 with dbytes := 64 } } } (R.setPos 0 1)) with
    mem := [(0, op)] }
def adl : Admitted := { ad0 with st := { st0 with dbytes := 64 } }
def mv0 : Moved := { at' := 0, moved := 0, skipped := 0, first := 0, last := none }
def sop (d : Nat) : SkOp := { desc := d, asid := 0, from' := .motif 0, stalled := false, ended := none }
def sks (op : Nat) : State := { R with sk := { SkEngine.init with ops := [sop op] } }
/-- Stream 0 is open and holds one written plane. -/
def str0 : State := R.setStream 0 { Stream.init with st := .opened, tail := 1, limit := 1 }
def ent (e : DirEntry) : State := R.onHome 0 fun h => { h with dir := [(0, some e)] }
def de0 : DirEntry := { owner := none, sharers := 0, pin := none, used := 0 }
def apd : State := R.setStream 0 { Stream.init with st := .opened, limit := 1, cells := [0] }
def ld0 : LineData := ⟨0, 0⟩
/-- Agent `d` holds line 0, dirty. -/
def own (d : Nat) : State := R.onAgent d fun a => { a with lines := [(0, some ⟨.m, ld0⟩)] }
def tx0 : Tx :=
  { kind := .rdS, near := false, refusals := 0, retryAt := none, reserved := false, granted := none, acks := 0, data := none,
    olds := none, bad := false }
def txs (d : Nat) (t : Tx) : State := R.onAgent d fun a => { a with txs := [(0, some t)] }
def dm (kind id cause : Nat) : Domain := { kind := kind, id := id, faults := 1, cause := cause, granted := false }
def rec' (d : Domain) (phase : Nat := 0) (s : State := R) : State :=
  { s with recovery := { Recovery.init with running := some d, phase := phase } }
def mo0 : MapOut := { stack := 0, pc := some 0, base := 0, blocks := 1, members := [0], bad := [], moved := [], poisoned := false }
def evc (l : List (Fld × Nat)) (copied : Nat := 0) : State :=
  { fl l with memMap := { MemMap.init with evac := some mo0, copied := copied } }
def fi0 (cause : Nat := 1) : FaultInfo :=
  { agent := ⟨0, 0, 0⟩, asid := 0, page := 0, cause := cause, level := 0, access := 1, sub := 0, tag := 0, pte := 0, pa := 0,
    time := 0, context := 0 }
def ce0 (cause : Nat := 1) : CollEntry :=
  { first := fi0 cause, agents := [⟨0, 0, 0⟩], access := 1, joins := 0, opened := 0, closed := true, written := true }
def col (e : CollEntry) : State := R.setEntry 0 (some e)
def iv0 : Inval := { seq := 0, scope := 3, asid := 0, page := 0, pages := 0, waiting := [0] }
def inv0 : State := { R with tu := { Tu.init with invals := [iv0] } }
/-- Seam 0 exchanges widths. -/
def seam (x : Seam) (state : Nat := 2) : State := (R.setSeam 0 x).setSeamState 0 state
def side0 : SeamSide := { SeamSide.init with adv := some 0xFF, set := some (8, 0xFF) }
/-- Guest 0 of a part with guests has joined. -/
def gst : State :=
  { fl [(F.SM_GUEST_STATE 0, 3)] with mc := { Mc.init with fuses := { Fuses.init with guests := true } } }
/-- BAR4 shows memory. -/
def bar4 : State := hst.setFlds [(F.PX_STATUS_BAR4_LOG2, 34), (F.HB_SW_TOP_SW_TOP, 2 ^ 30)]
/-- Lot 5 of ASID 0 is ACTIVE. -/
def lot5 : State := fl [(F.FB_LOT_STATE 1, 2), (F.FB_LOT_LOT 1, 5)]
/-- A first frame of lot 5 from node 1 to node 0. -/
def frm (type more : Nat) (p : List Byte) : Frame :=
  let h := 1 + 16 * type + 256 + 5 * 2 ^ 16 + 2 ^ 48 + more
  { port := 0, fcsOk := true, header := BitVec.ofNat 256 (h + crc32c (toBytes 32 h ++ p) * 2 ^ 224), payload := p, mask := [] }
def fRead : Frame := frm Fr.READ (2 ^ 144) []
def fWrite : Frame := frm Fr.WRITE (2 ^ 144) [0]
def fAtomic : Frame := frm Fr.ATOMIC (16 * 2 ^ 144 + aopOf .add * 2 ^ 216) (List.replicate 16 0)
def fReadRsp : Frame := frm Fr.READ_RSP (2 ^ 144) [0]
def fWriteRsp : Frame := frm Fr.WRITE_RSP 0 []
def fAtomicRsp : Frame := frm Fr.ATOMIC_RSP (8 * 2 ^ 144) (List.replicate 8 0)
def kp0 : Kept :=
  { type := Fr.READ, syn := true, seq := 0, tag := 0, len := 1, addr := 0, status := 0, aop := 0, payload := [], mask := none,
    resends := 0, at' := 0 }
def tf0 : TxFlow := { next := 1, kept := [kp0], used := 0, rail := 0 }
def rf0 : RxFlow := { expect := 1, delivered := 1, nakAt := none, owed := some 0, used := 0 }
def txf (f : TxFlow) (s : State := lot5) : State := s.setTxFlow (flowKey 1 5) (some f)
def rr0 : RemoteReq := { ask := 0, req := .read 0 1 }
def wants (s : State) : State := { s with tu := { Tu.init with wants := [(0, 0, .read 0 1)] } }
def hrt (cs : Sparse Nat) : State :=
  { fl [(F.NC_HART_RUN_RUN, 1), (F.HB_SW_TOP_SW_TOP, 2 ^ 30)] with harts := [(0, { Hart.init with csrs := cs })] }
def rp0 : CastOnReport :=
  { island := true, alwaysOn := true, yoke := true, motifs := 0, stackFails := 0, channels := [], seams := [], late := none }
def brd (f : Board → Board) : State := { R with board := f R.board }
def ses0 : Session := { by' := .mailbox .bar0, target := 1, length := 512, next := 0, head := [], last := 0 }
/-- Hart 0 runs, and the system cache holds line 0. -/
def hrt0 : State := (hrt []).onAgent 48 fun a => { a with lines := [(0, some ⟨.s, ld0⟩)] }
/-- A vector descriptor of one position over the streams of a mask: FP32, but stream 1 of a GATHER. -/
def veD (op en w28 : Nat) : Nat :=
  (List.range 5).foldl (fun d k =>
    if en.testBit k then
      d + 4096 * k * 2 ^ (8 * (0x40 + 0x20 * k)) + (if op = 0x12 ∧ k = 1 then 0 else 1) * 2 ^ (8 * (0x44 + 0x20 * k) + 16)
    else d) (op + en * 2 ^ 10 + 2 ^ 32 + 65537 * 2 ^ 64 + 65537 * 2 ^ 96 + w28 * 2 ^ 224)
def vst (d : Nat) : State := (R.setPos 0 1).setVec 0 { queue := [vj d], run := none }
/-- A group with no thread active, one with half of its threads, and one with a memory instruction in progress. -/
def idl : Group := { grp with am := 0 }
def hlf : Group := { grp with pm := 3 }
def op0 (w : Nat) : MemOp :=
  { word := w, pc := 0xFFFFFFFF00000000, x := [], f := [], tiles := [], accs := [], sent := [], far := [], rows := [], planes := [],
    counted := false }
/-- The words of the memory instructions, and those of the other instructions of needles. -/
def memWords : List (Nat × (Nat → Bool)) :=
  [(0xA103, isLoad), (0x20A023, isStore), (0x20A1AF, isAmo), (0x2000200B, isVcasW), (0x2200200B, isVcasD), (0x2400200B, isVafadd),
    (0x1000A1AF, isLr), (0x1820A1AF, isSc)]
def tileWords : List (Nat × (Nat → Bool)) := [(0x200802B, isZld), (0x200902B, isZst)]
def soloWords : List (Nat × (Nat → Bool)) :=
  [(0x63, isBranch), (0x80001073, isCsrWrite), (0x73, isEcall), (0x100073, isEbreak), (0x13, fun w => !hasOwnCommand w)]
def frames8 : List (Nat × Frame) :=
  [(Fr.READ, fRead), (Fr.WRITE, fWrite), (Fr.ATOMIC, fAtomic), (Fr.READ_RSP, fReadRsp), (Fr.WRITE_RSP, fWriteRsp),
    (Fr.ATOMIC_RSP, fAtomicRsp), (Fr.ACK, frm Fr.ACK 0 []), (Fr.NAK, frm Fr.NAK 0 [])]
/-- Why the array's check of a descriptor fails. -/
def bad (d : Nat) (h : ((arr d).arrayCheck 0 d).isSome = true) : Nat := ((arr d).arrayCheck 0 d).get h
def unc0 : Uncached := { q := 1, line := 0, kind := .rdNc, served := false, refusals := 1, retryAt := some 0, reserved := false }
/-- LOT_ADD's arguments name lot 5 for entry 63. -/
def lotArg : State := fl [(F.FB_LOT_ARG_LOT, 5)]
theorem lotArg_ok : (63 : BitVec 6) ≠ 0 ∧ lotArg.fld (F.FB_LOT_STATE (63 : BitVec 6).toNat) = 0 ∧ lotArg.fld F.FB_LOT_ARG_LOT ≠ 0 ∧
    (∀ j < 64, j ≠ 0 → j ≠ (63 : BitVec 6).toNat → lotArg.fld (F.FB_LOT_STATE j) ≠ 0 →
      lotArg.fld (F.FB_LOT_LOT j) ≠ lotArg.fld F.FB_LOT_ARG_LOT ∧ lotArg.fld (F.FB_LOT_ASID j) ≠ lotArg.fld F.FB_LOT_ARG_ASID) ∧
    lotArg.rowYoke.row + 2 ≤ (2 : BitVec 48).toNat :=
  ⟨by decide, by decide +kernel, by decide +kernel,
    fun j hj _ _ h => absurd ((by decide +kernel : ∀ j < 64, lotArg.fld (F.FB_LOT_STATE j) = 0) j hj) h, by decide +kernel⟩
/-- Hart 0 runs, and the system cache holds line 0 with word 0 poisoned. -/
def hrtP : State := (hrt []).onAgent 48 fun a => { a with lines := [(0, some ⟨.s, ⟨0, 1⟩⟩)] }
def rxd (f : Frame) (s : State) : State := s.bump (C.FB_PCNT_RX_FRAMES f.port) 1
def veOps : List (Nat × Nat) :=
  [(0x10, veD 0x10 9 0), (0x11, veD 0x11 9 0), (0x12, veD 0x12 11 1), (0x13, veD 0x13 9 1), (0x14, veD 0x14 11 2),
    (0x15, veD 0x15 25 0)]
def voteWords : List (Nat × (Nat → Bool)) :=
  [(0x0B, isVif), (0x200200B, isVany), (0x400200B, isVall), (0x600200B, isVballot), (0x800200B, isVshfl), (0x300B, isVshfli),
    (0xF, isFence)]
def meetWords : List (Nat × (Nat → Bool)) :=
  [(0x1000200B, isVbar), (0x1200200B, isVcbar), (0x1400200B, isVexit), (0x302B, isZzero), (0x202B, isZmma)]
def sendWords : List (Nat × (Nat → Bool)) :=
  [(0x1800200B, isVdispA), (0x1A00200B, isVdispV), (0x1C00200B, isVwait), (0x10400B, isVcvtn), (0x10500B, isVcvtw)]
/-- The mailbox holds one command in a state of the module, with a cause of its hold. -/
def jobIn (opc st cause : Nat) : State :=
  { fl [(F.MC_STATUS_STATE, st), (F.MC_CASTON_HOLD_CAUSE, cause)] with mc := { Mc.init with jobs := [⟨.bar0, opc, []⟩] } }
def mcOps : List Nat :=
  [0x10, 0x11, 0x12, 0x13, 0x14, 0x15, 0x16, 0x20, 0x21, 0x22, 0x23, 0x24, 0x25, 0x26, 0x27, 0x28, 0x29, 0x2A, 0x2B]
/-- A command of the opcode stands at the head of its channel, and the module's state serves it, or does not. -/
def Headed (opc : Nat) (served : Bool) : Prop :=
  ∃ (ch : Channel) (s : State) (j : Job) (js : List Job), s.mc.jobs = j :: js ∧ s.fld F.MC_STATUS_STATE ≠ 0 ∧ j.ch = ch ∧
    j.opc = opc ∧ s.opcServed opc = served
theorem headed_of {opc st cause : Nat} {v : Bool} (h : (jobIn 0 st cause).fld F.MC_STATUS_STATE ≠ 0)
    (h' : (jobIn opc st cause).opcServed opc = v) : Headed opc v :=
  ⟨.bar0, jobIn opc st cause, ⟨.bar0, opc, []⟩, [], rfl, h, rfl, rfl, h'⟩

theorem witness_StepRunsTheFrontCommand :
    ∃ (c : Instr) (cs : List Instr) (s : State),
      s.pending = c :: cs :=
  ⟨.rowTimerFire, [], { R with pending := [.rowTimerFire] }, by decide +kernel⟩

theorem witness_EmptyQueueLetsTimePass :
    (∃ (s : State) (t : State) (u : State) (d : Int) (n : Nat),
      s.pending = [] ∧ (d = (if (s.now + 1) % 10000 = 0 ∧ s.hall.slewAt ≠ some s.now then s.hall.slew.sign else 0)) ∧ n = ((s.now : Int) + 1 + d).toNat ∧ t = ((s.countFull (refCycles n - refCycles s.now)).idleSlots n).netStep.retryReqs ∧ u = { t with now := n, hall := { t.hall with slew := t.hall.slew - d, slewAt := if d = 0 then t.hall.slewAt else some n } } ∧ u.mc.resetAt = none) ∧
    (∃ (s : State) (t : State) (u : State) (d : Int) (n : Nat) (r : Nat) (warm : Bool),
      s.pending = [] ∧ (d = (if (s.now + 1) % 10000 = 0 ∧ s.hall.slewAt ≠ some s.now then s.hall.slew.sign else 0)) ∧ n = ((s.now : Int) + 1 + d).toNat ∧ t = ((s.countFull (refCycles n - refCycles s.now)).idleSlots n).netStep.retryReqs ∧ u = { t with now := n, hall := { t.hall with slew := t.hall.slew - d, slewAt := if d = 0 then t.hall.slewAt else some n } } ∧ u.mc.resetAt = some (r, warm)) :=
  ⟨⟨R, _, _, _, _, by decide +kernel, rfl, rfl, rfl, rfl, by decide +kernel⟩,
   ⟨{ R with mc := { Mc.init with resetAt := some (1, true) } }, _, _, _, _, 1, true, by decide +kernel, rfl, rfl, rfl, rfl, by decide +kernel⟩⟩

theorem witness_EveryStepKeepsQueueAndMemories :
    ∃ (s : State),
      s.memWf = true :=
  ⟨R, by decide +kernel⟩

theorem witness_ResetLeavesTheResetColumn :
    (∃ (v : _),
      v < 2048) ∧
    (∃ m c : Nat, m < 48 ∧ c < 16) ∧
    (∃ (k : _),
      k < 16) ∧
    (∃ (m : _),
      m < 48) :=
  ⟨⟨2047, by decide +kernel⟩,
   ⟨47, 15, by decide, by decide⟩,
   ⟨15, by decide +kernel⟩,
   ⟨47, by decide +kernel⟩⟩

theorem witness_RowFramesRunTheRow :
    (∃ (m : Motif) (s : State),
      s.fld (F.RW_MSTATUS_PHASE m) = 0 ∧ 4000 ≤ s.relNow m) ∧
    (∃ (m : Motif) (s : State),
      ((s.fld (F.RW_MSTATUS_PHASE m) ≠ 0 ∨ s.relNow m < 4000))) :=
  ⟨⟨0, at' 4000, by decide +kernel, by decide +kernel⟩,
   ⟨0, R, .inr (by decide +kernel)⟩⟩

theorem witness_RowEdgesAreTaken :
    (∃ (s : State),
      edgeDue s.now s.rpNs s.rowYoke.began s.rowYoke.stepped = true) ∧
    (∃ (s : State),
      edgeDue s.now s.rpNs s.rowYoke.began s.rowYoke.stepped = false) ∧
    (∃ (m : Motif) (s : State),
      ((s.sched m).edgeSeen = false) ∧ ((s.sched m).missed = false) ∧ 1500 ≤ s.relNow m) ∧
    (∃ (m : Motif) (s : State),
      (((s.sched m).edgeSeen = true ∨ (s.sched m).missed = true ∨ s.relNow m < 1500))) ∧
    (∃ (m : Motif) (s : State),
      ((s.sched m).passDone = false) ∧ ((s.sched m).budgetSet = true) ∧ 2000 ≤ s.relNow m) ∧
    (∃ (m : Motif) (s : State),
      (((s.sched m).passDone = true ∨ (s.sched m).budgetSet = false ∨ s.relNow m < 2000))) :=
  ⟨⟨at' 100000 (fl [(F.RW_PERIOD_RP_US, 100)]), by decide +kernel⟩,
   ⟨fl [(F.RW_PERIOD_RP_US, 100)], by decide +kernel⟩,
   ⟨0, at' 1500, by decide +kernel, by decide +kernel, by decide +kernel⟩,
   ⟨0, R, .inr (.inr (by decide +kernel))⟩,
   ⟨0, sched0 { RowSched.init with budgetSet := true } (at' 2000), by decide +kernel, by decide +kernel, by decide +kernel⟩,
   ⟨0, R, .inr (.inl (by decide +kernel))⟩⟩

theorem witness_StitchesRunAndFinish :
    (∃ (m : Motif) (qid : BitVec 20) (idx : BitVec 24) (s : State) (u : State) (x : Stitch),
      s.takeTransit m qid.toNat idx.toNat = some (x, u)) ∧
    (∃ (m : Motif) (s : State) (a : Admitted),
      ((s.sched m).running = none) ∧ nextToRun (s.sched m).admitted = some a ∧ s.pos m = 1 ∧ ((a.pass = false ∨ s.fld (F.RW_MSTATUS_PHASE m) ≠ 0))) ∧
    (∃ (m : Motif) (s : State) (a : Admitted) (b : Admitted),
      ((s.sched m).running = some a) ∧ s.stitchFinished m a = true ∧ (((s.accrue m).sched m).running = some b)) ∧
    (∃ (m : Motif) (s : State) (a : Admitted),
      ((s.sched m).running = some a) ∧ s.stitchFinished m a = false) ∧
    (∃ (m : Motif) (s : State) (a : Admitted),
      ((s.sched m).running = some a)) ∧
    (∃ (m : Motif) (s : State),
      ((s.sched m).running = none)) ∧
    (∃ (as : List Admitted) (a : Admitted),
      nextToRun as = some a) ∧
    (∃ (as : List Admitted) (a : Admitted) (b : _),
      b ∈ as ∧ nextToRun as = some a) :=
  ⟨⟨0, 0, 0, { R with qe := { QEngine.init with transit := [(0, st0)] } }, R, st0, rfl⟩,
   ⟨0, sched0 { RowSched.init with admitted := [ad0] } (R.setPos 0 1), ad0, by decide +kernel, by decide +kernel, by decide +kernel, .inl rfl⟩,
   ⟨0, sched0 { RowSched.init with running := some ad0 }, ad0, (((sched0 { RowSched.init with running := some ad0 }).accrue 0).sched 0).running.get (by decide +kernel), by decide +kernel, by decide +kernel, (Option.some_get _).symm⟩,
   ⟨0, sched0 { RowSched.init with running := some adl }, adl, by decide +kernel, by decide +kernel⟩,
   ⟨0, sched0 { RowSched.init with running := some ad0 }, ad0, by decide +kernel⟩,
   ⟨0, R, by decide +kernel⟩,
   ⟨[ad0], ad0, by decide +kernel⟩,
   ⟨[ad0], ad0, ad0, by decide +kernel, by decide +kernel⟩⟩

theorem witness_GaugeAndClockAnswer :
    (∃ (m : Motif) (qid : BitVec 20) (idx : BitVec 24) (s : State) (x : Stitch),
      ((s.sched m).stitches.find? (fun x => x.qid = qid.toNat && x.idx = idx.toNat && overdue (s.sched m).row x && 4000 ≤ s.relNow m) = some x)) ∧
    (∃ (m : Motif) (qid : BitVec 20) (idx : BitVec 24) (s : State),
      ((∀ x ∈ (s.sched m).stitches, x.qid = qid.toNat → x.idx = idx.toNat → overdue (s.sched m).row x = true → s.relNow m < 4000))) :=
  ⟨⟨0, 0, 0, at' 4000 (sched0 { RowSched.init with row := 5, waiting := [{ st0 with due := some 5 }] }), { st0 with due := some 5 }, by decide +kernel⟩,
   ⟨0, 0, 0, R, by decide +kernel⟩⟩

theorem witness_ArrayDescriptorsRun :
    (∃ (m : Motif) (s : State) (j : ArrayJob),
      ArrayReady s m .product 1 j) ∧
    (∃ (m : Motif) (s : State) (j : ArrayJob),
      ArrayReady s m .drain 2 j) ∧
    (∃ (m : Motif) (s : State) (j : ArrayJob),
      ArrayReady s m .product 3 j) ∧
    (∃ (m : Motif) (s : State) (j : ArrayJob),
      ArrayReady s m .product 4 j) ∧
    (∃ (m : Motif) (s : State) (j : ArrayJob),
      ArrayReady s m .drain 5 j) ∧
    (∃ (m : Motif) (s : State) (j : ArrayJob),
      ArrayReady s m .drain 6 j) ∧
    (∃ (m : Motif) (s : State) (j : ArrayJob) (st : Nat),
      s.arrayCheck m j.desc = some st ∧ ArrayTakes s m .product 1 j) ∧
    (∃ (m : Motif) (s : State) (j : ArrayJob) (st : Nat),
      s.arrayCheck m j.desc = some st ∧ ArrayTakes s m .drain 2 j) ∧
    (∃ (m : Motif) (s : State) (j : ArrayJob) (st : Nat),
      s.arrayCheck m j.desc = some st ∧ ArrayTakes s m .product 3 j) ∧
    (∃ (m : Motif) (s : State) (j : ArrayJob) (st : Nat),
      s.arrayCheck m j.desc = some st ∧ ArrayTakes s m .product 4 j) ∧
    (∃ (m : Motif) (s : State) (j : ArrayJob) (st : Nat),
      s.arrayCheck m j.desc = some st ∧ ArrayTakes s m .drain 5 j) ∧
    (∃ (m : Motif) (s : State) (j : ArrayJob) (st : Nat),
      s.arrayCheck m j.desc = some st ∧ ArrayTakes s m .drain 6 j) ∧
    (∃ (m : Motif) (s : State) (j : ArrayJob),
      ((s.array m).prod = some j) ∧ j.due = true) ∧
    (∃ (m : Motif) (s : State) (j : ArrayJob),
      ((s.array m).drain = some j) ∧ j.stalled = false ∧ j.status = none ∧ dw j.desc 0 7 0 = 5 ∧ j.ctrDue = false) ∧
    (∃ (m : Motif) (s : State) (j : ArrayJob),
      ((s.array m).drain = some j) ∧ j.stalled = false ∧ j.status = none ∧ dw j.desc 0 7 0 = 6) ∧
    (∃ (m : Motif) (s : State) (j : ArrayJob),
      ((s.array m).drain = some j) ∧ j.ctrDue = true ∧ j.stalled = false ∧ s.owes m 0 = false) ∧
    (∃ (m : Motif) (s : State) (j : ArrayJob) (st : Nat),
      ((s.array m).prod = some j) ∧ j.status = some st) ∧
    (∃ (m : Motif) (s : State) (j : ArrayJob) (st : Nat),
      ((s.array m).drain = some j) ∧ j.status = some st ∧ s.owes m 0 = false) ∧
    (∃ (m : Motif) (u : ArrayUnit) (s : State) (j : ArrayJob) (st : Nat),
      ((s.array m).unit u = none) ∧ s.startable m u = some j ∧ s.arrayCheck m j.desc = some st) ∧
    (∃ (m : Motif) (set : Fin 4) (s : State),
      ((s.array m).earlier set (s.array m).accepted = false)) ∧
    (∃ (m : Motif) (set : Fin 4) (s : State),
      ((s.array m).earlier set (s.array m).accepted = true)) :=
  ⟨⟨0, arr (1 + 7 * 2 ^ 24 + 257 * 2 ^ 32 + 4 * 2 ^ 96), aj (1 + 7 * 2 ^ 24 + 257 * 2 ^ 32 + 4 * 2 ^ 96), by unfold ArrayReady ArrayTakes; decide +kernel⟩,
   ⟨0, arr (2 + 2 ^ 48), aj (2 + 2 ^ 48), by unfold ArrayReady ArrayTakes; decide +kernel⟩,
   ⟨0, arr 3, aj 3, by unfold ArrayReady ArrayTakes; decide +kernel⟩,
   ⟨0, arr 4, aj 4, by unfold ArrayReady ArrayTakes; decide +kernel⟩,
   ⟨0, arr 5, aj 5, by unfold ArrayReady ArrayTakes; decide +kernel⟩,
   ⟨0, arr 6, aj 6, by unfold ArrayReady ArrayTakes; decide +kernel⟩,
   ⟨0, arr 1, aj 1, bad 1 (by decide +kernel), (Option.some_get _).symm, by unfold ArrayTakes; decide +kernel⟩,
   ⟨0, arr 0x40002, aj 0x40002, bad 0x40002 (by decide +kernel), (Option.some_get _).symm, by unfold ArrayTakes; decide +kernel⟩,
   ⟨0, arr 0x40003, aj 0x40003, bad 0x40003 (by decide +kernel), (Option.some_get _).symm, by unfold ArrayTakes; decide +kernel⟩,
   ⟨0, arr 0x40004, aj 0x40004, bad 0x40004 (by decide +kernel), (Option.some_get _).symm, by unfold ArrayTakes; decide +kernel⟩,
   ⟨0, arr 0x40005, aj 0x40005, bad 0x40005 (by decide +kernel), (Option.some_get _).symm, by unfold ArrayTakes; decide +kernel⟩,
   ⟨0, arr 0x40006, aj 0x40006, bad 0x40006 (by decide +kernel), (Option.some_get _).symm, by unfold ArrayTakes; decide +kernel⟩,
   ⟨0, R.setArray 0 { ArrayUnits.init with prod := some { aj 1 with due := true } }, { aj 1 with due := true }, by decide +kernel, by decide +kernel⟩,
   ⟨0, R.setArray 0 { ArrayUnits.init with drain := some (aj 5) }, aj 5, by decide +kernel, by decide +kernel, by decide +kernel, by decide +kernel, by decide +kernel⟩,
   ⟨0, R.setArray 0 { ArrayUnits.init with drain := some (aj 6) }, aj 6, by decide +kernel, by decide +kernel, by decide +kernel, by decide +kernel⟩,
   ⟨0, R.setArray 0 { ArrayUnits.init with drain := some { aj 5 with ctrDue := true } }, { aj 5 with ctrDue := true }, by decide +kernel, by decide +kernel, by decide +kernel, by decide +kernel⟩,
   ⟨0, R.setArray 0 { ArrayUnits.init with prod := some { aj 3 with status := some 0 } }, { aj 3 with status := some 0 }, 0, by decide +kernel, by decide +kernel⟩,
   ⟨0, R.setArray 0 { ArrayUnits.init with drain := some { aj 5 with status := some 0 } }, { aj 5 with status := some 0 }, 0, by decide +kernel, by decide +kernel, by decide +kernel⟩,
   ⟨0, .product, arr 1, aj 1, bad 1 (by decide +kernel), by decide +kernel, by decide +kernel, (Option.some_get _).symm⟩,
   ⟨0, 3, R, by decide +kernel⟩,
   ⟨0, 0, R.setArray 0 { ArrayUnits.init with queue := [aj 1], accepted := 1 }, by decide +kernel⟩⟩

theorem witness_VectorDescriptorsRun :
    (∃ (m : Motif) (s : State) (j : VeJob) (js : List VeJob),
      VectorTakes s m 0x16 j js) ∧
    (∃ (m : Motif) (s : State) (j : VeJob),
      ((s.vec m).run = some j) ∧ veOp j.desc = 0x16 ∧ j.status = none ∧ j.stalled = false ∧ 1 ≤ j.part) ∧
    (∃ (m : Motif) (s : State) (j : VeJob),
      ((s.vec m).run = some j) ∧ veOp j.desc = 0x16 ∧ j.status = none ∧ j.stalled = false ∧ j.part = 0) ∧
    (∃ (m : Motif) (s : State) (j : VeJob) (st : Nat),
      ((s.vec m).run = some j) ∧ j.status = some st) ∧
    (∃ (m : Motif) (s : State) (j : VeJob) (js : List VeJob),
      ((s.vec m).run = none) ∧ ((s.vec m).queue = j :: js) ∧ ((veOp j.desc < 0x10 ∨ 0x16 < veOp j.desc))) ∧
    (∀ q ∈ veOps, ∃ (s : State) (j : VeJob), VectorTakes s 0 q.1 j [] ∧ s.veCheck 0 j.desc = none ∧ j.status = none ∧ j.stalled = false) ∧
    (∀ q ∈ veOps, ∃ (s : State) (j : VeJob) (st : Nat), VectorTakes s 0 q.1 j [] ∧ s.veCheck 0 j.desc = some st) ∧
    (∀ q ∈ veOps, ∃ (s : State) (k : VeJob), (s.vec 0).run = some k ∧ veOp k.desc = q.1 ∧ k.status = none ∧ k.stalled = false) :=
  ⟨⟨0, vst psumD, vj psumD, [], by unfold VectorTakes; decide +kernel⟩,
   ⟨0, vec { vj psumD with part := 1 }, { vj psumD with part := 1 }, by decide +kernel, by decide +kernel, by decide +kernel, by decide +kernel, by decide +kernel⟩,
   ⟨0, vec (vj psumD), vj psumD, by decide +kernel, by decide +kernel, by decide +kernel, by decide +kernel, by decide +kernel⟩,
   ⟨0, vec { vj psumD with status := some 0 }, { vj psumD with status := some 0 }, 0, by decide +kernel, by decide +kernel⟩,
   ⟨0, R.setVec 0 { queue := [vj 0x17], run := none }, vj 0x17, [], by decide +kernel, by decide +kernel, .inr (by decide +kernel)⟩,
   fun q h => ⟨vst q.2, vj q.2, ⟨rfl, rfl, ((by decide +kernel : ∀ q ∈ veOps, veOp q.2 = q.1 ∧ (vst q.2).pos 0 = 1) q h).1,
      ((by decide +kernel : ∀ q ∈ veOps, veOp q.2 = q.1 ∧ (vst q.2).pos 0 = 1) q h).2⟩,
     (by decide +kernel : ∀ q ∈ veOps, (vst q.2).veCheck 0 q.2 = none) q h, rfl, rfl⟩,
   fun q h => ⟨vst q.1, vj q.1, ((vst q.1).veCheck 0 q.1).getD 0, ⟨rfl, rfl,
      ((by decide +kernel : ∀ q ∈ veOps, veOp q.1 = q.1 ∧ (vst q.1).pos 0 = 1) q h).1,
      ((by decide +kernel : ∀ q ∈ veOps, veOp q.1 = q.1 ∧ (vst q.1).pos 0 = 1) q h).2⟩,
     (by decide +kernel : ∀ q ∈ veOps, (vst q.1).veCheck 0 q.1 = some (((vst q.1).veCheck 0 q.1).getD 0)) q h⟩,
   fun q h => ⟨vec (vj q.2), vj q.2, rfl, (by decide +kernel : ∀ q ∈ veOps, veOp q.2 = q.1) q h, rfl, rfl⟩⟩

theorem witness_LaunchesStartAndComplete :
    (∃ (m : Motif) (s : State) (j : LaunchJob) (js : List LaunchJob),
      ((s.ndl m).active = none) ∧ ((s.ndl m).queue = j :: js)) ∧
    (∃ (m : Motif) (s : State),
      (((s.ndl m).active ≠ none ∨ (s.ndl m).queue = []))) ∧
    (∃ (m : Motif) (s : State) (l : LaunchJob),
      s.launch m = some l) ∧
    (∃ (m : Motif) (s : State),
      s.launch m = none) :=
  ⟨⟨0, (R.setPos 0 1).setNdl 0 { Needles.init with queue := [lj 0] }, lj 0, [], by decide +kernel, by decide +kernel⟩,
   ⟨0, R, .inr (by decide +kernel)⟩,
   ⟨0, ndl 0, lj 0, by decide +kernel⟩,
   ⟨0, R, by decide +kernel⟩⟩

theorem witness_DivergenceAndVotes :
    (∃ (m : Motif) (g : GroupSlot) (s : State) (t : State) (x : Group) (l : LaunchJob) (w : Nat),
      Issues s t m g x l w ∧ isVif w = true) ∧
    (∃ (m : Motif) (g : GroupSlot) (s : State) (u : State) (x : Group) (l : LaunchJob) (w : Nat),
      Picked s u m g x l w ∧ isVelse w = true) ∧
    (∃ (m : Motif) (g : GroupSlot) (s : State) (u : State) (x : Group) (l : LaunchJob) (w : Nat),
      Picked s u m g x l w ∧ isVend w = true) ∧
    (∃ (m : Motif) (g : GroupSlot) (s : State) (t : State) (x : Group) (l : LaunchJob) (w : Nat),
      Issues s t m g x l w ∧ isVany w = true) ∧
    (∃ (m : Motif) (g : GroupSlot) (s : State) (t : State) (x : Group) (l : LaunchJob) (w : Nat),
      Issues s t m g x l w ∧ isVall w = true) ∧
    (∃ (m : Motif) (g : GroupSlot) (s : State) (t : State) (x : Group) (l : LaunchJob) (w : Nat),
      Issues s t m g x l w ∧ isVballot w = true) ∧
    (∃ (m : Motif) (g : GroupSlot) (s : State) (t : State) (x : Group) (l : LaunchJob) (w : Nat),
      Issues s t m g x l w ∧ isVshfl w = true) ∧
    (∃ (m : Motif) (g : GroupSlot) (s : State) (t : State) (x : Group) (l : LaunchJob) (w : Nat),
      Issues s t m g x l w ∧ isVshfli w = true) ∧
    (∃ (m : Motif) (g : GroupSlot) (s : State) (t : State) (x : Group) (l : LaunchJob) (w : Nat),
      Issues s t m g x l w ∧ isFence w = true) ∧
    (∀ q ∈ voteWords, ∃ s t, Picked s t 0 0 idl (lj 0) q.1 ∧ q.2 q.1 = true) :=
  ⟨⟨0, 0, ndl 0x0B, got (ndl 0x0B), grp, lj 0, 0x0B, issues_of (by decide +kernel), by decide +kernel⟩,
   ⟨0, 0, ndl 0x100B, pick (ndl 0x100B), grp, lj 0, 0x100B, picked_of (by decide +kernel), by decide +kernel⟩,
   ⟨0, 0, ndl 0x200B, pick (ndl 0x200B), grp, lj 0, 0x200B, picked_of (by decide +kernel), by decide +kernel⟩,
   ⟨0, 0, ndl 0x200200B, got (ndl 0x200200B), grp, lj 0, 0x200200B, issues_of (by decide +kernel), by decide +kernel⟩,
   ⟨0, 0, ndl 0x400200B, got (ndl 0x400200B), grp, lj 0, 0x400200B, issues_of (by decide +kernel), by decide +kernel⟩,
   ⟨0, 0, ndl 0x600200B, got (ndl 0x600200B), grp, lj 0, 0x600200B, issues_of (by decide +kernel), by decide +kernel⟩,
   ⟨0, 0, ndl 0x800200B, got (ndl 0x800200B), grp, lj 0, 0x800200B, issues_of (by decide +kernel), by decide +kernel⟩,
   ⟨0, 0, ndl 0x300B, got (ndl 0x300B), grp, lj 0, 0x300B, issues_of (by decide +kernel), by decide +kernel⟩,
   ⟨0, 0, ndl 0xF, got (ndl 0xF), grp, lj 0, 0xF, issues_of (by decide +kernel), by decide +kernel⟩,
   picked_all (by decide +kernel)⟩

theorem witness_BarriersExitsAndEngines :
    (∃ (m : Motif) (g : GroupSlot) (s : State) (t : State) (x : Group) (l : LaunchJob) (w : Nat),
      IssuesTogether s t m g x l w ∧ isVbar w = true) ∧
    (∃ (m : Motif) (g : GroupSlot) (s : State) (t : State) (x : Group) (l : LaunchJob) (w : Nat),
      IssuesTogether s t m g x l w ∧ isVcbar w = true) ∧
    (∃ (m : Motif) (g : GroupSlot) (s : State) (t : State) (x : Group) (l : LaunchJob) (w : Nat),
      IssuesTogether s t m g x l w ∧ isVexit w = true) ∧
    (∃ (m : Motif) (g : GroupSlot) (s : State) (t : State) (x : Group) (l : LaunchJob) (w : Nat),
      IssuesTogether s t m g x l w ∧ isZzero w = true) ∧
    (∃ (m : Motif) (g : GroupSlot) (s : State) (t : State) (x : Group) (l : LaunchJob) (w : Nat),
      IssuesTogether s t m g x l w ∧ isZmma w = true) ∧
    (∃ (m : Motif) (s : State) (l : LaunchJob),
      s.launch m = some l) ∧
    (∃ (m : Motif) (g : GroupSlot) (s : State) (t : State) (x : Group) (l : LaunchJob) (w : Nat),
      Issues s t m g x l w ∧ isVdispA w = true) ∧
    (∃ (m : Motif) (g : GroupSlot) (s : State) (t : State) (x : Group) (l : LaunchJob) (w : Nat),
      Issues s t m g x l w ∧ isVdispV w = true) ∧
    (∃ (m : Motif) (g : GroupSlot) (s : State) (t : State) (x : Group) (l : LaunchJob) (w : Nat),
      Issues s t m g x l w ∧ isVwait w = true) ∧
    (∃ (m : Motif) (g : GroupSlot) (s : State) (x : Group) (a : Nat) (v : Nat),
      s.group m g = some x ∧ x.wait = .vwait a v) ∧
    (∃ (m : Motif) (g : GroupSlot) (s : State) (t : State) (x : Group) (l : LaunchJob) (w : Nat),
      Issues s t m g x l w ∧ isVcvtn w = true) ∧
    (∃ (m : Motif) (g : GroupSlot) (s : State) (t : State) (x : Group) (l : LaunchJob) (w : Nat),
      Issues s t m g x l w ∧ isVcvtw w = true) ∧
    (∀ q ∈ meetWords, ∃ s t, Picked s t 0 0 hlf (lj 0) q.1 ∧ q.2 q.1 = true) ∧
    (∀ q ∈ sendWords, ∃ s t, Picked s t 0 0 idl (lj 0) q.1 ∧ q.2 q.1 = true) :=
  ⟨⟨0, 0, ndl 0x1000200B, got (ndl 0x1000200B), grp, lj 0, 0x1000200B, together_of (by decide +kernel), by decide +kernel⟩,
   ⟨0, 0, ndl 0x1200200B, got (ndl 0x1200200B), grp, lj 0, 0x1200200B, together_of (by decide +kernel), by decide +kernel⟩,
   ⟨0, 0, ndl 0x1400200B, got (ndl 0x1400200B), grp, lj 0, 0x1400200B, together_of (by decide +kernel), by decide +kernel⟩,
   ⟨0, 0, ndl 0x302B, got (ndl 0x302B), grp, lj 0, 0x302B, together_of (by decide +kernel), by decide +kernel⟩,
   ⟨0, 0, ndl 0x202B, got (ndl 0x202B), grp, lj 0, 0x202B, together_of (by decide +kernel), by decide +kernel⟩,
   ⟨0, ndl 0, lj 0, by decide +kernel⟩,
   ⟨0, 0, ndl 0x1800200B, got (ndl 0x1800200B), grp, lj 0, 0x1800200B, issues_of (by decide +kernel), by decide +kernel⟩,
   ⟨0, 0, ndl 0x1A00200B, got (ndl 0x1A00200B), grp, lj 0, 0x1A00200B, issues_of (by decide +kernel), by decide +kernel⟩,
   ⟨0, 0, ndl 0x1C00200B, got (ndl 0x1C00200B), grp, lj 0, 0x1C00200B, issues_of (by decide +kernel), by decide +kernel⟩,
   ⟨0, 0, ndl 0 { grp with wait := .vwait 256 0 }, { grp with wait := .vwait 256 0 }, 256, 0, by decide +kernel, by decide +kernel⟩,
   ⟨0, 0, ndl 0x10400B, got (ndl 0x10400B), grp, lj 0, 0x10400B, issues_of (by decide +kernel), by decide +kernel⟩,
   ⟨0, 0, ndl 0x10500B, got (ndl 0x10500B), grp, lj 0, 0x10500B, issues_of (by decide +kernel), by decide +kernel⟩,
   picked_all (by decide +kernel),
   picked_all (by decide +kernel)⟩

theorem witness_NeedleMemoryAndControl :
    (∃ (m : Motif) (g : GroupSlot) (s : State) (t : State) (x : Group) (l : LaunchJob) (w : Nat),
      Issues s t m g x l w ∧ isBranch w = true) ∧
    (∃ (m : Motif) (g : GroupSlot) (s : State) (t : State) (x : Group) (l : LaunchJob) (w : Nat),
      Issues s t m g x l w ∧ isCsrWrite w = true) ∧
    (∃ (m : Motif) (g : GroupSlot) (s : State) (t : State) (x : Group) (l : LaunchJob) (w : Nat),
      Issues s t m g x l w ∧ isEcall w = true) ∧
    (∃ (m : Motif) (g : GroupSlot) (s : State) (t : State) (x : Group) (l : LaunchJob) (w : Nat),
      Issues s t m g x l w ∧ isEbreak w = true) ∧
    (∃ (m : Motif) (g : GroupSlot) (s : State) (t : State) (x : Group) (l : LaunchJob) (w : Nat),
      Issues s t m g x l w ∧ hasOwnCommand w = false) ∧
    (∀ q ∈ memWords ++ tileWords, ∃ s t, Picked s t 0 0 grp (lj 0) q.1 ∧ q.2 q.1 = true) ∧
    (∀ q ∈ memWords ++ tileWords, ∃ (s : State) (x : Group) (op : MemOp), s.group 0 0 = some x ∧ s.launch 0 = some (lj 0) ∧
      x.mem = some op ∧ q.2 op.word = true ∧ x.stalled = false ∧ s.pos 0 = 1) ∧
    (∀ q ∈ memWords ++ soloWords, ∃ s t, Picked s t 0 0 idl (lj 0) q.1 ∧ q.2 q.1 = true) ∧
    (∀ q ∈ tileWords, ∃ s t, Picked s t 0 0 hlf (lj 0) q.1 ∧ q.2 q.1 = true) :=
  ⟨⟨0, 0, ndl 0x63, got (ndl 0x63), grp, lj 0, 0x63, issues_of (by decide +kernel), by decide +kernel⟩,
   ⟨0, 0, ndl 0x80001073, got (ndl 0x80001073), grp, lj 0, 0x80001073, issues_of (by decide +kernel), by decide +kernel⟩,
   ⟨0, 0, ndl 0x73, got (ndl 0x73), grp, lj 0, 0x73, issues_of (by decide +kernel), by decide +kernel⟩,
   ⟨0, 0, ndl 0x100073, got (ndl 0x100073), grp, lj 0, 0x100073, issues_of (by decide +kernel), by decide +kernel⟩,
   ⟨0, 0, ndl 0x13, got (ndl 0x13), grp, lj 0, 0x13, issues_of (by decide +kernel), by decide +kernel⟩,
   picked_all (by decide +kernel),
   fun q h => ⟨ndl 0 { grp with mem := some (op0 q.1) }, _, op0 q.1, rfl, rfl, rfl,
      (by decide +kernel : ∀ q ∈ memWords ++ tileWords, q.2 q.1 = true) q h, rfl, (by decide +kernel : (ndl 0).pos 0 = 1)⟩,
   picked_all (by decide +kernel),
   picked_all (by decide +kernel)⟩

theorem witness_DoorbellsAndFetches :
    (∃ (qid : BitVec 20) (data : BitVec 4096) (s : State) (t : State) (b : Nat) (ps : List Nat),
      s.fetching qid.toNat = true ∧ ((s.queue qid.toNat).missed = none) ∧ s.headBytes qid.toNat data.toNat = (some (b, ps), t)) ∧
    (∃ (qid : BitVec 20) (data : BitVec 4096) (s : State) (t : State) (at' : Nat) (b : Nat) (ps : List Nat),
      ((s.queue qid.toNat).missed = some at') ∧ s.fetching qid.toNat = true ∧ (at' + 1000 ≤ s.now) ∧ s.headBytes qid.toNat data.toNat = (some (b, ps), t)) ∧
    (∃ (qid : BitVec 20) (s : State) (at' : Nat),
      ((s.queue qid.toNat).late = some at')) :=
  ⟨⟨1, 0, que [], _, 0, [], by decide +kernel, by decide +kernel, pair_ext (by decide +kernel)⟩,
   ⟨1, 0, at' 1000 (R.setQueue 1 { Queue.init with state := .active, pi := 1, missed := some 0 }), _, 0, 0, [], by decide +kernel, by decide +kernel, by decide +kernel, pair_ext (by decide +kernel)⟩,
   ⟨1, R.setQueue 1 { Queue.init with late := some 0 }, 0, by decide +kernel⟩⟩

theorem witness_AdminCommandsRun :
    (∃ (s : State) (c : QCmd),
      s.nextCmd 0 = some c ∧ c.opc = 0x80) ∧
    (∃ (s : State) (c : QCmd),
      s.nextCmd 0 = some c ∧ c.opc = 0x81) ∧
    (∃ (s : State) (c : QCmd),
      s.nextCmd 0 = some c ∧ c.opc = 0x82) ∧
    (∃ (s : State) (c : QCmd),
      s.nextCmd 0 = some c ∧ c.opc = 0x83) ∧
    (∃ (s : State) (c : QCmd),
      s.nextCmd 0 = some c ∧ c.opc = 0x84) ∧
    (∃ (s : State) (c : QCmd),
      s.nextCmd 0 = some c ∧ c.opc = 0x85) ∧
    (∃ (s : State) (c : QCmd) (cs : List QCmd) (row : Nat),
      ((s.queue 0).cmds = c :: cs) ∧ c.run = .binding row) :=
  ⟨⟨adq (qc 0x80), qc 0x80, by decide +kernel, by decide +kernel⟩,
   ⟨adq (qc 0x81), qc 0x81, by decide +kernel, by decide +kernel⟩,
   ⟨adq (qc 0x82), qc 0x82, by decide +kernel, by decide +kernel⟩,
   ⟨adq (qc 0x83), qc 0x83, by decide +kernel, by decide +kernel⟩,
   ⟨adq (qc 0x84), qc 0x84, by decide +kernel, by decide +kernel⟩,
   ⟨adq (qc 0x85), qc 0x85, by decide +kernel, by decide +kernel⟩,
   ⟨adq (qc 0x85 (.binding 0)), qc 0x85 (.binding 0), [], 0, by decide +kernel, by decide +kernel⟩⟩

theorem witness_QueueCommandsRun :
    (∃ (qid : BitVec 20) (s : State) (c : QCmd),
      qid ≠ 0 ∧ s.nextCmd qid.toNat = some c ∧ c.opc = 0x00) ∧
    (∃ (qid : BitVec 20) (s : State) (c : QCmd),
      qid ≠ 0 ∧ s.nextCmd qid.toNat = some c ∧ c.opc = 0x01) ∧
    (∃ (qid : BitVec 20) (s : State) (c : QCmd),
      ((s.queue qid.toNat).cmds.find? (fun c => c.run = .split) = some c) ∧ s.qe.dead = false ∧ (((s.queue qid.toNat).state = .active ∨ (s.queue qid.toNat).state = .paused)) ∧ s.ringRoom (s.queue qid.toNat).ring = true) ∧
    (∃ (qid : BitVec 20) (idx : BitVec 24) (s : State) (c : QCmd) (n : Nat) (got : List (Nat × Nat)),
      ((s.queue qid.toNat).cmds.find? (fun c => c.idx = idx.toNat) = some c) ∧ c.run = .stitched n got ∧ s.qe.dead = false) ∧
    (∃ (qid : BitVec 20) (s : State) (c : QCmd),
      qid ≠ 0 ∧ s.nextCmd qid.toNat = some c ∧ c.opc = 0x04) ∧
    (∃ (qid : BitVec 20) (s : State) (c : QCmd),
      qid ≠ 0 ∧ s.pick qid.toNat 0x02 = some c ∧ ((s.queue qid.toNat).cmds.find? (fun c => c.opc = 0x02 && c.run = .flushing St.OK && !c.stalled) = none)) ∧
    (∃ (qid : BitVec 20) (s : State) (c : QCmd),
      ((s.queue qid.toNat).cmds.find? (fun c => c.opc = 0x02 && c.run = .flushing St.OK && !c.stalled) = some c)) ∧
    (∃ (qid : BitVec 20) (s : State) (c : QCmd),
      qid ≠ 0 ∧ s.pick qid.toNat 0x05 = some c) ∧
    (∃ (qid : BitVec 20) (s : State) (c : QCmd),
      qid ≠ 0 ∧ s.pick qid.toNat 0x06 = some c) ∧
    (∃ (qid : BitVec 20) (s : State) (c : QCmd),
      ((s.queue qid.toNat).cmds.find? (fun c => c.run = .holding && !c.stalled) = some c) ∧ s.qe.dead = false) ∧
    (∃ (qid : BitVec 20) (s : State) (c : QCmd),
      qid ≠ 0 ∧ s.pick qid.toNat 0x03 = some c ∧ ((s.queue qid.toNat).cmds.find? QCmd.copiesNow = none)) ∧
    (∃ (qid : BitVec 20) (s : State) (c : QCmd) (done : Nat) (page : Option Nat) (last : Option Nat) (w : Option HostWant),
      ((s.queue qid.toNat).cmds.find? QCmd.copiesNow = some c) ∧ c.run = .copying done page w last ∧ s.qe.dead = false) ∧
    (∃ (qid : BitVec 20) (idx : BitVec 24) (s : State) (c : QCmd) (done : Nat) (page : Option Nat) (last : Option Nat) (w : HostWant),
      ((s.queue qid.toNat).cmds.find? (fun c => c.idx = idx.toNat) = some c) ∧ c.run = .copying done page (some w) last) :=
  ⟨⟨1, que [qc 0], qc 0, by decide +kernel, by decide +kernel, by decide +kernel⟩,
   ⟨1, que [qc 1], qc 1, by decide +kernel, by decide +kernel, by decide +kernel⟩,
   ⟨1, que [qc 1 .split], qc 1 .split, by decide +kernel, by decide +kernel, .inl (by decide +kernel), by decide +kernel⟩,
   ⟨1, 0, que [qc 1 (.stitched 1 [(0, 0)])], qc 1 (.stitched 1 [(0, 0)]), 1, [(0, 0)], by decide +kernel, by decide +kernel, by decide +kernel⟩,
   ⟨1, que [qc 4], qc 4, by decide +kernel, by decide +kernel, by decide +kernel⟩,
   ⟨1, que [qc 2], qc 2, by decide +kernel, by decide +kernel, by decide +kernel⟩,
   ⟨1, que [qc 2 (.flushing St.OK)], qc 2 (.flushing St.OK), by decide +kernel⟩,
   ⟨1, que [qc 5], qc 5, by decide +kernel, by decide +kernel⟩,
   ⟨1, que [qc 6], qc 6, by decide +kernel, by decide +kernel⟩,
   ⟨1, que [qc 6 .holding], qc 6 .holding, by decide +kernel, by decide +kernel⟩,
   ⟨1, que [qc 3], qc 3, by decide +kernel, by decide +kernel, by decide +kernel⟩,
   ⟨1, que [qc 3 (.copying 0 none none none)], qc 3 (.copying 0 none none none), 0, none, none, none, by decide +kernel, by decide +kernel, by decide +kernel⟩,
   ⟨1, 0, que [qc 3 (.copying 0 none (some (.bytes 1)) none)], qc 3 (.copying 0 none (some (.bytes 1)) none), 0, none, none, .bytes 1, by decide +kernel, by decide +kernel⟩⟩

theorem witness_ListsAndMoversRun :
    (∃ (m : Motif) (s : State) (t : State) (a : Admitted) (d : Nat),
      ((s.sched m).running = some a) ∧ a.bad = none ∧ a.stalled = false ∧ a.next < a.st.dbytes ∧ s.pos m = 1 ∧ s.listRead m a 64 = (some d, t)) ∧
    (∃ (qid : BitVec 20) (s : State) (c : QCmd) (x : Moved) (want : Bool),
      Moves s qid.toNat 0x07 c x want) ∧
    (∃ (qid : BitVec 20) (s : State) (c : QCmd) (x : Moved) (want : Bool),
      Moves s qid.toNat 0x08 c x want ∧ c.f 28 1 0 = 0) ∧
    (∃ (qid : BitVec 20) (s : State) (c : QCmd) (x : Moved) (want : Bool),
      Moves s qid.toNat 0x08 c x want ∧ c.f 28 1 0 = 1) ∧
    (∃ (qid : BitVec 20) (s : State) (c : QCmd) (x : Moved) (want : Bool),
      Moves s qid.toNat 0x08 c x want ∧ 2 ≤ c.f 28 1 0) ∧
    (∃ (qid : BitVec 20) (s : State) (c : QCmd),
      qid ≠ 0 ∧ ((s.queue qid.toNat).cmds.find? QCmd.movesPages = none) ∧ s.nextCmd qid.toNat = some c ∧ c.opc = 0x07) ∧
    (∃ (qid : BitVec 20) (s : State) (c : QCmd),
      qid ≠ 0 ∧ ((s.queue qid.toNat).cmds.find? QCmd.movesPages = none) ∧ s.nextCmd qid.toNat = some c ∧ c.opc = 0x08 ∧ c.f 28 1 0 = 0) ∧
    (∃ (qid : BitVec 20) (s : State) (c : QCmd),
      qid ≠ 0 ∧ ((s.queue qid.toNat).cmds.find? QCmd.movesPages = none) ∧ s.nextCmd qid.toNat = some c ∧ c.opc = 0x08 ∧ c.f 28 1 0 = 1) ∧
    (∃ (qid : BitVec 20) (s : State) (c : QCmd),
      qid ≠ 0 ∧ ((s.queue qid.toNat).cmds.find? QCmd.movesPages = none) ∧ s.nextCmd qid.toNat = some c ∧ c.opc = 0x08 ∧ 2 ≤ c.f 28 1 0) :=
  ⟨⟨0, lst 1, _, adl, 1, by decide +kernel, by decide +kernel, by decide +kernel, by decide +kernel, by decide +kernel, pair_ext (by decide +kernel)⟩,
   ⟨1, que [qc 7 (mv0.run false)], qc 7 (mv0.run false), mv0, false, by unfold Moves; decide +kernel⟩,
   ⟨1, que [qc 8 (mv0.run false)], qc 8 (mv0.run false), mv0, false, by unfold Moves; decide +kernel, by decide +kernel⟩,
   ⟨1, que [qc (8 + 2 ^ 224) (mv0.run false)], qc (8 + 2 ^ 224) (mv0.run false), mv0, false, by unfold Moves; decide +kernel, by decide +kernel⟩,
   ⟨1, que [qc (8 + 2 ^ 225) (mv0.run false)], qc (8 + 2 ^ 225) (mv0.run false), mv0, false, by unfold Moves; decide +kernel, by decide +kernel⟩,
   ⟨1, que [qc 7], qc 7, by decide +kernel, by decide +kernel, by decide +kernel, by decide +kernel⟩,
   ⟨1, que [qc 8], qc 8, by decide +kernel, by decide +kernel, by decide +kernel, by decide +kernel, by decide +kernel⟩,
   ⟨1, que [qc (8 + 2 ^ 224)], qc (8 + 2 ^ 224), by decide +kernel, by decide +kernel, by decide +kernel, by decide +kernel, by decide +kernel⟩,
   ⟨1, que [qc (8 + 2 ^ 225)], qc (8 + 2 ^ 225), by decide +kernel, by decide +kernel, by decide +kernel, by decide +kernel, by decide +kernel⟩⟩

theorem witness_SkeinOperationsRun :
    (∃ (s : State) (op : Nat) (o : SkOp),
      s.skNext op = some o) ∧
    (∃ s : State, ∀ op, s.skNext op = none) ∧
    (∃ (s : State) (d : Nat) (asid : Nat),
      ((s.stream (skStream d)).st = .opened) ∧ ((s.stream (skStream d)).owner = asid) ∧ skOp d = 0x43) ∧
    (∃ (s : State) (d : Nat) (asid : Nat),
      ((s.stream (skStream d)).st = .opened) ∧ ((s.stream (skStream d)).owner = asid) ∧ skOp d = 0x44) ∧
    (∃ (s : State) (d : Nat) (asid : Nat),
      ((s.stream (skStream d)).st = .opened) ∧ ((s.stream (skStream d)).owner = asid) ∧ skOp d = 0x46 ∧ 0 < skN d ∧ skN d ≤ (s.stream (skStream d)).tail - (s.stream (skStream d)).rel) ∧
    (∃ (s : State) (d : Nat) (asid : Nat),
      ((s.stream (skStream d)).st = .opened) ∧ ((s.stream (skStream d)).owner = asid) ∧ skOp d = 0x47) ∧
    (∃ (w : PubKind) (k : BitVec 17) (s : State),
      w ≠ .fu ∧ ((s.stream k.toNat).st ≠ .closed)) :=
  ⟨⟨sks 0x40, 0x40, sop 0x40, by decide +kernel⟩,
   ⟨R, fun _ => rfl⟩,
   ⟨str0, 0x43, 0, by decide +kernel, by decide +kernel, by decide +kernel⟩,
   ⟨str0, 0x44, 0, by decide +kernel, by decide +kernel, by decide +kernel⟩,
   ⟨str0, 0x46 + 2 ^ 64, 0, by decide +kernel, by decide +kernel, by decide +kernel, by decide +kernel, by decide +kernel⟩,
   ⟨str0, 0x47, 0, by decide +kernel, by decide +kernel, by decide +kernel⟩,
   ⟨.tc, 0, str0, by decide +kernel, by decide +kernel⟩⟩

theorem witness_RegisterCommandsAnswer :
    ∃ (a : BitVec 26) (r : RegRow) (b : Nat),
      regAt a.toNat = some (r, b) :=
  ⟨0x21008, ((regAt 0x21008).get (by decide +kernel)).1, 0x21008, by decide +kernel⟩

theorem witness_HomesServeTheirLines :
    (∃ (k : Nat) (l : Nat) (t : State) (e : DirEntry),
      ((t.home k).entry l = some e)) ∧
    (∃ (k : Nat) (l : Nat) (q : Nat) (t : State) (e : DirEntry) (kind : _),
      ((t.home k).entry l = some e) ∧ e.pin = some (.done q kind)) ∧
    (∃ (k : Nat) (l : Nat) (q : Nat) (t : State) (e : DirEntry),
      ((t.home k).entry l = some e) ∧ ((∀ kind, e.pin ≠ some (.done q kind)))) :=
  ⟨⟨0, 0, ent de0, de0, by decide +kernel⟩,
   ⟨0, 0, 1, ent { de0 with pin := some (.done 1 .rdS) }, { de0 with pin := some (.done 1 .rdS) }, .rdS, by decide +kernel, by decide +kernel⟩,
   ⟨0, 0, 1, ent de0, de0, by decide +kernel, fun _ => nofun⟩⟩

theorem witness_OwnersAndSharersAnswer :
    (∃ (d : Nat),
      ownAgent d = true) ∧
    (∃ (d : Nat) (l : Nat) (t : State) (c : CacheLine),
      t.copyOf d l = some c) ∧
    (∃ (o : Mesh) (l : BitVec 33) (s : State) (n : Net),
      s.net.land o Coh.WB_ACK l.toNat = some n) :=
  ⟨⟨0, by decide +kernel⟩,
   ⟨0, 0, own 0, ⟨.m, ld0⟩, by decide +kernel⟩,
   ⟨0, 0, R, R.net, by decide +kernel⟩⟩

theorem witness_RequestersTakeTheirAnswers :
    (∃ (q : Nat) (l : Nat) (t : State) (x : _),
      t.txOf q l = some x) ∧
    (∃ (q : Nat) (l : Nat) (t : State),
      t.txOf q l = none) ∧
    (∃ (q : Mesh) (l : BitVec 33) (s : State) (x : Tx) (at' : Nat),
      s.txOf q l.toNat = some x ∧ x.retryAt = some at') ∧
    (∃ (q : Mesh) (l : BitVec 33) (s : State) (u : Uncached),
      s.txOf q l.toNat = none ∧ (s.uncached.find? (·.due q l.toNat s.now) = some u)) ∧
    (∃ (src : Mesh) (s : State),
      s.onMesh src = false) ∧
    (∃ (src : Mesh) (s : State),
      s.onMesh src = true) ∧
    (∃ (src : Mesh) (s : State),
      s.onMesh src = true) ∧
    (∃ (src : Mesh) (s : State),
      s.onMesh src = true) ∧
    (∃ (dst : Mesh) (tag : BitVec 16) (s : State) (n : Net) (x : Nat × Nat × MemReq),
      s.net.land dst Coh.MEM_RSP tag.toNat = some n ∧ (s.tu.memOut.find? (fun x => x.1 = dst.val && x.2.1 = tag.toNat) = some x)) :=
  ⟨⟨1, 0, txs 1 tx0, tx0, by decide +kernel⟩,
   ⟨1, 0, R, by decide +kernel⟩,
   ⟨1, 0, txs 1 { tx0 with retryAt := some 0 }, { tx0 with retryAt := some 0 }, 0, by decide +kernel, by decide +kernel⟩,
   ⟨1, 0, { R with uncached := [unc0] }, unc0, by decide +kernel, by decide +kernel⟩,
   ⟨56, R, by decide +kernel⟩,
   ⟨47, R, by decide +kernel⟩,
   ⟨47, R, by decide +kernel⟩,
   ⟨47, R, by decide +kernel⟩,
   ⟨48, 0, { R with tu := { Tu.init with memOut := [(48, 0, .read 0 1)] } }, R.net, (48, 0, .read 0 1), by decide +kernel, by decide +kernel⟩⟩

theorem witness_RecoveriesRun :
    (∃ (s : State) (d : Domain) (ds : List Domain),
      s.recovery.running = none ∧ s.recovery.pending = d :: ds) ∧
    (∃ (s : State),
      ((s.recovery.running ≠ none ∨ s.recovery.pending = []))) ∧
    (∃ (s : State) (d : Domain),
      s.recovery.running = some d ∧ d.kind = 1 ∧ s.recovery.phase = 0) ∧
    (∃ (s : State) (d : Domain),
      s.recovery.running = some d ∧ d.kind = 1 ∧ s.recovery.phase = 1) ∧
    (∃ (s : State) (d : Domain),
      s.recovery.running = some d ∧ d.kind ≠ 1) ∧
    (∃ (s : State) (d : Domain),
      s.recovery.running = some d ∧ d.kind ≠ 1) ∧
    (∃ (s : State) (d : Domain),
      s.recovery.running = some d ∧ d.kind = 4) ∧
    (∃ (s : State) (d : Domain),
      s.recovery.running = some d ∧ d.kind = 5) ∧
    (∃ (s : State) (d : Domain),
      s.recovery.running = some d ∧ d.kind ≠ 4 ∧ d.kind ≠ 5) ∧
    (∃ (s : State) (u : MapOut) (d : Domain),
      s.memMap.evac = some u ∧ s.recovery.parked = some d) ∧
    (∃ (s : State) (u : MapOut),
      s.memMap.evac = some u) ∧
    (∃ (s : State),
      s.memMap.evac = none) ∧
    (∃ (s : State),
      s.memMap.evac = none) :=
  ⟨⟨{ R with recovery := { Recovery.init with pending := [dm 1 0 4] } }, dm 1 0 4, [], by decide +kernel, by decide +kernel⟩,
   ⟨R, .inr (by decide +kernel)⟩,
   ⟨rec' (dm 1 0 4), dm 1 0 4, by decide +kernel, by decide +kernel, by decide +kernel⟩,
   ⟨rec' (dm 1 0 4) 1, dm 1 0 4, by decide +kernel, by decide +kernel, by decide +kernel⟩,
   ⟨rec' (dm 2 0 1), dm 2 0 1, by decide +kernel, by decide +kernel⟩,
   ⟨rec' (dm 2 0 1), dm 2 0 1, by decide +kernel, by decide +kernel⟩,
   ⟨rec' (dm 4 0 1), dm 4 0 1, by decide +kernel, by decide +kernel⟩,
   ⟨rec' (dm 5 0 1), dm 5 0 1, by decide +kernel, by decide +kernel⟩,
   ⟨rec' (dm 1 0 4), dm 1 0 4, by decide +kernel, by decide +kernel, by decide +kernel⟩,
   ⟨{ evc [] with recovery := { Recovery.init with parked := some (dm 2 0 1) } }, mo0, dm 2 0 1, by decide +kernel, by decide +kernel⟩,
   ⟨evc [], mo0, by decide +kernel⟩,
   ⟨R, by decide +kernel⟩,
   ⟨R, by decide +kernel⟩⟩

theorem witness_TranslationFaultsResolve :
    (∃ (m : Mesh) (f : AgentFault) (s : State) (x : FaultInfo),
      (s.tu.inFlight.find? (fun x => x.agent = ⟨m.val, f.engine.toNat, f.id.toNat⟩ && x.asid = f.asid.toNat && x.page = f.page.toNat) = some x)) ∧
    (∃ (m : Mesh) (f : AgentFault) (s : State),
      (s.tu.inFlight.find? (fun x => x.agent = ⟨m.val, f.engine.toNat, f.id.toNat⟩ && x.asid = f.asid.toNat && x.page = f.page.toNat) = none)) ∧
    (∃ (i : BitVec 8) (s : State) (e : CollEntry),
      Sparse.get none s.tu.entries i.toNat = some e) ∧
    (∃ (i : BitVec 8) (s : State),
      Sparse.get none s.tu.entries i.toNat = none) ∧
    (∃ (i : BitVec 8) (g : BitVec 8) (s : State) (e : CollEntry),
      s.resolvable i.toNat g.toNat = some e) ∧
    (∃ (i : BitVec 8) (g : BitVec 8) (s : State),
      s.resolvable i.toNat g.toNat = none) ∧
    (∃ (n : BitVec 16) (s : State) (v : Inval),
      (s.tu.invals.find? (fun v => v.seq = n.toNat) = some v)) :=
  ⟨⟨0, ⟨0, 0, 0, 0⟩, { R with tu := { Tu.init with inFlight := [fi0] } }, fi0, by decide +kernel⟩,
   ⟨0, ⟨0, 0, 0, 0⟩, R, by decide +kernel⟩,
   ⟨0, col ce0, ce0, by decide +kernel⟩,
   ⟨0, R, by decide +kernel⟩,
   ⟨0, 0, col ce0, ce0, by decide +kernel⟩,
   ⟨0, 0, R, by decide +kernel⟩,
   ⟨0, inv0, iv0, by decide +kernel⟩⟩

theorem witness_ChainCommandsReachTheDie :
    (∃ (d : Mesh) (k : BitVec 3) (i : Nat),
      dieSeam d.val k.toNat = some i) ∧
    (∃ (d : Mesh) (k : BitVec 3),
      dieSeam d.val k.toNat = none) ∧
    (∃ (src : Mesh) (hop : Mesh) (bad : Bool) (i : Nat) (s : State) (u : State),
      seamBetween src hop = some i ∧ u = (if bad then s.countSide i hop C.SM_CNT_CHAIN_BAD else s)) ∧
    (∃ (src : Mesh) (hop : Mesh),
      seamBetween src hop = none) :=
  ⟨⟨48, 5, 87, by decide +kernel⟩,
   ⟨48, 6, by decide +kernel⟩,
   ⟨0, 1, false, 0, R, _, by decide +kernel, rfl⟩,
   ⟨0, 47, by decide +kernel⟩⟩

theorem witness_SeamsTrainAndGuestsJoin :
    (∃ (i : SeamIx) (side : Bool) (own : Nat) (s : State),
      (((s.seam i).side side).adv = some own)) ∧
    (∃ (i : SeamIx) (side : Bool) (w' : Nat) (m' : Nat) (s : State),
      (((s.seam i).side side).set = some (w', m'))) ∧
    (∃ (i : SeamIx) (s : State),
      ((s.seamState i ≠ 2 ∨ s.now < (s.seam i).since + 16000))) ∧
    (∃ (i : SeamIx) (s : State),
      s.seamState i = 2 ∧ ((s.seam i).since + 16000 ≤ s.now)) :=
  ⟨⟨0, false, 0xFF, seam { Seam.init with a := side0, b := side0 }, by decide +kernel⟩,
   ⟨0, false, 8, 0xFF, seam { Seam.init with a := side0, b := side0 }, by decide +kernel⟩,
   ⟨0, seam Seam.init, by decide +kernel⟩,
   ⟨0, { seam Seam.init with now := 16000 }, by decide +kernel, by decide +kernel⟩⟩

theorem witness_GuestAndHostRequestsAnswer :
    (∃ (g : Guest) (s : State),
      s.guestIn (56 + g) = false) ∧
    (∃ (g : Guest) (s : State),
      s.guestIn (56 + g) = true) :=
  ⟨⟨0, R, by decide +kernel⟩,
   ⟨0, gst, by decide +kernel⟩⟩

theorem witness_HostLinkEventsTakeEffect :
    (∃ (qid : BitVec 20) (idx : BitVec 24) (s : State) (c : QCmd),
      ((s.queue qid.toNat).cmds.find? (fun c => c.idx = idx.toNat) = some c)) ∧
    (∃ (qid : BitVec 20) (idx : BitVec 24) (s : State),
      ((s.queue qid.toNat).cmds.find? (fun c => c.idx = idx.toNat) = none)) ∧
    (∃ (qid : BitVec 20) (idx : BitVec 24) (s : State) (c : QCmd) (st : Nat),
      ((s.queue qid.toNat).cmds.find? (fun c => c.idx = idx.toNat) = some c) ∧ c.run = .flushing st) ∧
    (∃ (s : State) (e : Nat) (es : List Nat),
      s.qe.lost = e :: es) ∧
    (∃ (s : State),
      s.qe.lost = []) :=
  ⟨⟨1, 0, que [qc 3], qc 3, by decide +kernel⟩,
   ⟨1, 0, R, by decide +kernel⟩,
   ⟨1, 0, que [qc 3 (.flushing 0)], qc 3 (.flushing 0), 0, by decide +kernel, by decide +kernel⟩,
   ⟨{ R with qe := { QEngine.init with lost := [0] } }, 0, [], by decide +kernel⟩,
   ⟨R, by decide +kernel⟩⟩

theorem witness_FabricFramesTakeEffect :
    (∃ (r : RemoteReq) (s : State) (here : List (Nat × Nat × MemReq)) (x : Nat × Nat × MemReq),
      here = s.tu.wants.filter (fun x => x.1 = r.ask && x.2.2 = r.req) ∧ (here.find? (fun x => (s.flights x.1 x.2.1 x.2.2).length < (here.filter (· = x)).length) = some x) ∧ s.lotOf (r.ask / 65536 % 4096) = none) ∧
    (∃ (r : RemoteReq) (s : State) (here : List (Nat × Nat × MemReq)) (x : Nat × Nat × MemReq) (lot : Nat),
      here = s.tu.wants.filter (fun x => x.1 = r.ask && x.2.2 = r.req) ∧ (here.find? (fun x => (s.flights x.1 x.2.1 x.2.2).length < (here.filter (· = x)).length) = some x) ∧ s.lotOf (r.ask / 65536 % 4096) = some lot) ∧
    (∃ (r : RemoteReq) (s : State) (here : List (Nat × Nat × MemReq)),
      here = s.tu.wants.filter (fun x => x.1 = r.ask && x.2.2 = r.req) ∧ (here.find? (fun x => (s.flights x.1 x.2.1 x.2.2).length < (here.filter (· = x)).length) = none)) ∧
    (∃ (node : BitVec 16) (lot : BitVec 16) (s : State) (r : RxFlow) (t : Nat),
      s.rxFlow (flowKey node.toNat lot.toNat) = some r ∧ r.owed = some t) ∧
    (∃ (node : BitVec 16) (lot : BitVec 16) (s : State),
      ((∀ r : RxFlow, s.rxFlow (flowKey node.toNat lot.toNat) = some r → r.owed = none))) ∧
    (∃ (node : BitVec 16) (lot : BitVec 16) (s : State) (f : TxFlow) (k : Kept) (ks : List Kept),
      s.txFlow (flowKey node.toNat lot.toNat) = some f ∧ f.kept = k :: ks) ∧
    (∃ (node : BitVec 16) (lot : BitVec 16) (s : State),
      ((∀ f : TxFlow, s.txFlow (flowKey node.toNat lot.toNat) = some f → f.kept = []))) ∧
    (∃ (node : BitVec 16) (lot : BitVec 16) (s : State) (t : State) (key : Nat) (r : RxFlow),
      key = flowKey node.toNat lot.toNat ∧ (t = (if ∃ f, s.txFlow key = some f ∧ f.kept = [] ∧ f.used + 1000000 ≤ s.now then s.setTxFlow key none else s)) ∧ t.rxFlow key = some r) ∧
    (∃ (node : BitVec 16) (lot : BitVec 16) (s : State) (t : State) (key : Nat),
      key = flowKey node.toNat lot.toNat ∧ (t = (if ∃ f, s.txFlow key = some f ∧ f.kept = [] ∧ f.used + 1000000 ≤ s.now then s.setTxFlow key none else s)) ∧ t.rxFlow key = none) ∧
    (∀ q ∈ frames8, ∃ f : Frame,
      (f.fcsOk = true ∧ hf f.header.toNat 47 32 = (rxd f lot5).fld F.FB_NODE_NODE ∧ Machine.frameOk q.1 f = true ∧
        ((rxd f lot5).lotEntry (hf f.header.toNat 31 16)).isSome = true) ∧
      (rxd f R).lotEntry (hf f.header.toNat 31 16) = none ∧
      hf f.header.toNat 47 32 ≠ (rxd f (fl [(F.FB_NODE_NODE, 1)])).fld F.FB_NODE_NODE ∧
      ({ f with fcsOk := false } : Frame).fcsOk = false ∧
      Machine.frameOk q.1 { f with payload := f.payload ++ [0] } = false) :=
  ⟨⟨rr0, wants R, _, (0, 0, .read 0 1), rfl, by decide +kernel, by decide +kernel⟩,
   ⟨rr0, wants lot5, _, (0, 0, .read 0 1), 5, rfl, by decide +kernel, by decide +kernel⟩,
   ⟨rr0, R, _, rfl, by decide +kernel⟩,
   ⟨1, 5, lot5.setRxFlow (flowKey 1 5) (some rf0), rf0, 0, by decide +kernel, by decide +kernel⟩,
   ⟨1, 5, R, none_of (by decide +kernel)⟩,
   ⟨1, 5, txf tf0, tf0, kp0, [], by decide +kernel, by decide +kernel⟩,
   ⟨1, 5, R, none_of (by decide +kernel)⟩,
   ⟨1, 5, lot5.setRxFlow (flowKey 1 5) (some rf0), _, _, rf0, rfl, rfl, by decide +kernel⟩,
   ⟨1, 5, R, _, _, rfl, rfl, by decide +kernel⟩,
   fun q h => ⟨q.2, (by decide +kernel : ∀ q ∈ frames8, (q.2.fcsOk = true ∧
        hf q.2.header.toNat 47 32 = (rxd q.2 lot5).fld F.FB_NODE_NODE ∧ Machine.frameOk q.1 q.2 = true ∧
        ((rxd q.2 lot5).lotEntry (hf q.2.header.toNat 31 16)).isSome = true) ∧
      (rxd q.2 R).lotEntry (hf q.2.header.toNat 31 16) = none ∧
      hf q.2.header.toNat 47 32 ≠ (rxd q.2 (fl [(F.FB_NODE_NODE, 1)])).fld F.FB_NODE_NODE ∧
      ({ q.2 with fcsOk := false } : Frame).fcsOk = false ∧
      Machine.frameOk q.1 { q.2 with payload := q.2.payload ++ [0] } = false) q h⟩⟩

theorem witness_PortsLotsAndHallTime :
    (∃ (p : Fin 4) (s : State),
      s.portUp p = false) ∧
    (∃ (p : Fin 4) (s : State) (t : State) (u : State) (flaps : List (Nat × Nat)),
      s.portUp p = true ∧ t = ((s.setFld (F.FB_PORT_STATE p) 1).showClock.bump (C.FB_PCNT_LINK_DOWNS p) 1).raise Ev.FABRIC_PORT_DOWN { d1 := p } ∧ flaps = (t.recovery.flaps.filter fun x => t.now < x.2 + 60000000000) ++ [(p.val, t.now)] ∧ u = { t with recovery := { t.recovery with flaps := flaps } }) ∧
    (∃ (s : State),
      s.fabric.lotCmd ≠ none) ∧
    (∃ (k : BitVec 6) (row : BitVec 48) (s : State) (ok : Prop),
      s.fabric.lotCmd = none ∧ ((ok ↔ k ≠ 0 ∧ s.fld (F.FB_LOT_STATE k.toNat) = 0 ∧ s.fld F.FB_LOT_ARG_LOT ≠ 0 ∧ (∀ j < 64, j ≠ 0 → j ≠ k.toNat → s.fld (F.FB_LOT_STATE j) ≠ 0 → s.fld (F.FB_LOT_LOT j) ≠ s.fld F.FB_LOT_ARG_LOT ∧ s.fld (F.FB_LOT_ASID j) ≠ s.fld F.FB_LOT_ARG_ASID) ∧ s.rowYoke.row + 2 ≤ row.toNat)) ∧ (ok)) ∧
    (∃ (k : BitVec 6) (row : BitVec 48) (s : State) (ok : Prop),
      s.fabric.lotCmd = none ∧ ((ok ↔ k ≠ 0 ∧ s.fld (F.FB_LOT_STATE k.toNat) = 0 ∧ s.fld F.FB_LOT_ARG_LOT ≠ 0 ∧ (∀ j < 64, j ≠ 0 → j ≠ k.toNat → s.fld (F.FB_LOT_STATE j) ≠ 0 → s.fld (F.FB_LOT_LOT j) ≠ s.fld F.FB_LOT_ARG_LOT ∧ s.fld (F.FB_LOT_ASID j) ≠ s.fld F.FB_LOT_ARG_ASID) ∧ s.rowYoke.row + 2 ≤ row.toNat)) ∧ (¬ ok)) ∧
    (∃ (k : BitVec 6) (row : BitVec 48) (s : State) (ok : Prop),
      s.fabric.lotCmd = none ∧ ((ok ↔ k ≠ 0 ∧ s.fld (F.FB_LOT_STATE k.toNat) = 0 ∧ s.fld F.FB_LOT_ARG_LOT ≠ 0 ∧ (∀ j < 64, j ≠ 0 → j ≠ k.toNat → s.fld (F.FB_LOT_STATE j) ≠ 0 → s.fld (F.FB_LOT_LOT j) ≠ s.fld F.FB_LOT_ARG_LOT ∧ s.fld (F.FB_LOT_ASID j) ≠ s.fld F.FB_LOT_ARG_ASID) ∧ s.rowYoke.row + 2 ≤ row.toNat))) ∧
    (∃ (o : Int) (s : State) (t : State) (u : State) (good : Nat),
      t = (s.bump C.TS_CNT_SYNC_RX 1).setFld F.TS_OFFSET_OFFSET (offset32 o) ∧ (good = (if -100 ≤ o ∧ o ≤ 100 then min 16 (t.hall.good + 1) else 0)) ∧ (u = (if -1000 ≤ o ∧ o ≤ 1000 then { t with hall := { t.hall with good := good, slew := -o } } else ({ t with hall := { t.hall with good := good, slew := 0 } } : State).stepTime (-o)))) ∧
    (∃ (s : State),
      s.fld F.FB_XPORT_PPS_EN ≠ 1) ∧
    (∃ (s : State) (t : State),
      s.fld F.FB_XPORT_PPS_EN = 1 ∧ t = ({ s with hall := { s.hall with pps := some s.now } } : State).setFld F.TS_STATUS_PPS_PRESENT 1) :=
  ⟨⟨3, R, by decide +kernel⟩,
   ⟨3, fl [(F.FB_PORT_STATE 3, 2)], _, _, _, by decide +kernel, rfl, rfl, rfl⟩,
   ⟨{ R with fabric := { Fabric.init with lotCmd := some (true, 1, 0) } }, by decide +kernel⟩,
   ⟨63, 2, lotArg, True, by decide +kernel, ⟨fun _ => lotArg_ok, fun _ => trivial⟩, trivial⟩,
   ⟨1, 1, R, False, by decide +kernel, ⟨False.elim, fun h => absurd h.2.2.2.2 (by decide +kernel)⟩, id⟩,
   ⟨63, 2, lotArg, True, by decide +kernel, ⟨fun _ => lotArg_ok, fun _ => trivial⟩⟩,
   ⟨1000, R, _, _, _, rfl, rfl, rfl⟩,
   ⟨R, by decide +kernel⟩,
   ⟨fl [(F.FB_XPORT_PPS_EN, 1)], _, by decide +kernel, rfl⟩⟩

theorem witness_NodeCoresAndManagementAnswer :
    (∃ (h : Fin 32) (s : State),
      s.hartRuns h.val = false) ∧
    (∃ (h : Fin 32) (a : BitVec 64) (c : Bool) (s : State) (t : State) (x : Hart) (len : Nat),
      s.hartRuns h.val = true ∧ x = s.hart h.val ∧ len = (if c then 2 else 4) ∧ s.hartFetch h.val x a.toNat len = (.ok, t)) ∧
    (∃ (h : Fin 32) (a : BitVec 64) (c : Bool) (s : State) (t : State) (x : Hart) (len : Nat) (ls : List Nat),
      s.hartRuns h.val = true ∧ x = s.hart h.val ∧ len = (if c then 2 else 4) ∧ s.hartFetch h.val x a.toNat len = (.wait ls, t)) ∧
    (∃ (h : Fin 32) (a : BitVec 64) (c : Bool) (s : State) (t : State) (x : Hart) (len : Nat) (n : Nat),
      s.hartRuns h.val = true ∧ x = s.hart h.val ∧ len = (if c then 2 else 4) ∧ s.hartFetch h.val x a.toNat len = (.fault n, t)) ∧
    (∃ (h : Fin 32) (a : BitVec 64) (c : Bool) (s : State) (t : State) (x : Hart) (len : Nat) (ws : List Nat),
      s.hartRuns h.val = true ∧ x = s.hart h.val ∧ len = (if c then 2 else 4) ∧ s.hartFetch h.val x a.toNat len = (.poison ws, t)) ∧
    (∃ (h : Fin 32) (s : State) (x : Hart) (mip : Nat),
      s.hartRuns h.val = true ∧ x = s.hart h.val ∧ mip = (if x.csr 0x14D ≤ s.hartTime then setBits (x.csr 0x344) 5 5 1 else x.csr 0x344)) ∧
    (∃ (s : State),
      s.fld F.MC_STATUS_STATE = 0) ∧
    (∃ (data : List (BitVec 8)) (s : State),
      s.fld F.MC_STATUS_STATE ≠ 0 ∧ ((data.getD 1 0).toNat = 1)) ∧
    (∃ (data : List (BitVec 8)) (s : State),
      s.fld F.MC_STATUS_STATE ≠ 0 ∧ ((data.getD 1 0).toNat ≠ 1)) ∧
    (∃ (b : Binding) (ty : BitVec 8) (s : State),
      s.fld F.MC_STATUS_STATE ≠ 0 ∧ s.fld (eidFld (bindingNat b)) = 0 ∧ ty ≠ 0x00) ∧
    (∃ (b : Binding) (s : State),
      s.fld F.MC_STATUS_STATE ≠ 0 ∧ s.fld (eidFld (bindingNat b)) ≠ 0) ∧
    (∃ (b : Binding) (ty : BitVec 8) (s : State),
      s.fld F.MC_STATUS_STATE ≠ 0 ∧ s.fld (eidFld (bindingNat b)) ≠ 0 ∧ ty ≠ 0x00 ∧ ty ≠ 0x01 ∧ ty ≠ 0x7E) ∧
    (∀ opc ∈ ([1, 2, 3] : List Nat), Headed opc true ∧ Headed opc false) :=
  ⟨⟨0, R, by decide +kernel⟩,
   ⟨0, 0, false, hrt0, _, _, _, by decide +kernel, rfl, rfl, pair_ext (by decide +kernel)⟩,
   ⟨0, 0, false, hrt [], _, _, _, [0], by decide +kernel, rfl, rfl, pair_ext (by decide +kernel)⟩,
   ⟨0, 0x10000000000, false, hrt [], _, _, _, 1, by decide +kernel, rfl, rfl, pair_ext (by decide +kernel)⟩,
   ⟨0, 0, false, hrtP, _, _, _, [0], by decide +kernel, rfl, rfl, pair_ext (by decide +kernel)⟩,
   ⟨0, hrt [(0x14D, 5), (0x24D, 5)], _, _, by decide +kernel, rfl, rfl⟩,
   ⟨R, by decide +kernel⟩,
   ⟨[0, 1], fl [(F.MC_STATUS_STATE, 2)], by decide +kernel, by decide +kernel⟩,
   ⟨[], fl [(F.MC_STATUS_STATE, 2)], by decide +kernel, by decide +kernel⟩,
   ⟨.mgmt, 1, fl [(F.MC_STATUS_STATE, 2)], by decide +kernel, by decide +kernel, by decide +kernel⟩,
   ⟨.pcie, fl [(F.MC_STATUS_STATE, 2), (F.MC_STATUS_EID_PCIE, 9)], by decide +kernel, by decide +kernel⟩,
   ⟨.pcie, 2, fl [(F.MC_STATUS_STATE, 2), (F.MC_STATUS_EID_PCIE, 9)], by decide +kernel, by decide +kernel, by decide +kernel, by decide +kernel, by decide +kernel⟩,
   fun opc h => ⟨headed_of (st := 2) (cause := 0) (by decide +kernel)
       ((by decide +kernel : ∀ opc ∈ ([1, 2, 3] : List Nat), (jobIn opc 2 0).opcServed opc = true) opc h),
     headed_of (st := 3) (cause := 0) (by decide +kernel)
       ((by decide +kernel : ∀ opc ∈ ([1, 2, 3] : List Nat), (jobIn opc 3 0).opcServed opc = false) opc h)⟩⟩

theorem witness_PatternAndSecurityCommandsRun :
    (∃ (s : State) (x : Session),
      s.mc.session = some x) ∧
    (∃ (s : State),
      s.mc.session = none) ∧
    (∀ opc ∈ mcOps, Headed opc true ∧ (opc ≠ 0x2B → Headed opc false)) :=
  ⟨⟨{ R with mc := { Mc.init with session := some ses0 } }, ses0, by decide +kernel⟩,
   ⟨R, by decide +kernel⟩,
   fun opc h => ⟨headed_of (st := 2) (cause := 0) (by decide +kernel)
       ((by decide +kernel : ∀ opc ∈ mcOps, (jobIn opc 2 0).opcServed opc = true) opc h),
     fun hn => ((by decide +kernel : ∀ opc ∈ mcOps, opc ≠ 0x2B → (jobIn opc 4 0).opcServed opc = false ∨
       (jobIn opc 3 1).opcServed opc = false) opc h hn).elim
       (headed_of (by decide +kernel)) (headed_of (by decide +kernel))⟩⟩

theorem witness_CastOnAndResetsRun :
    (∃ (s : State) (k : Nat),
      k = s.fld F.MC_CASTON_STEP ∧ (s.mc.cast.begun = true ∧ s.casting = true ∧ 1 ≤ k ∧ k ≤ 5 ∧ s.mc.cast.since + stepBudget k ≤ s.now)) ∧
    (∃ (s : State) (k : Nat),
      k = s.fld F.MC_CASTON_STEP ∧ (¬ (s.mc.cast.begun = true ∧ s.casting = true ∧ 1 ≤ k ∧ k ≤ 5 ∧ s.mc.cast.since + stepBudget k ≤ s.now))) ∧
    (∃ (level : Bool) (s : State) (t : State),
      t = (s.onBoard fun b => { b with cold := level })) ∧
    (∃ (level : Bool) (s : State) (t : State),
      t = (s.onBoard fun b => { b with warm := level })) :=
  ⟨⟨{ at' 1000000000000 (fl [(F.MC_STATUS_STATE, 1), (F.MC_CASTON_STEP, 5)]) with mc := { Mc.init with cast := { CastOn.init with begun := true } } }, _, rfl, by decide +kernel⟩,
   ⟨R, _, rfl, by decide +kernel⟩,
   ⟨true, R, _, rfl⟩,
   ⟨true, R, _, rfl⟩⟩

theorem witness_BoardAndTapTakeEffect :
    (∃ (s : State),
      s.board.good = false) ∧
    (∃ (ma : BitVec 18) (s : State) (t : State) (xs : List Nat) (below : Option Nat) (clamp : Bool),
      s.board.good = true ∧ xs = (ma.toNat :: s.board.samples).take 10 ∧ (below = (if xs.length = 10 ∧ xs.sum < 980000 then some (s.board.below.getD s.now) else none)) ∧ ((clamp = true ↔ (xs.length = 10 ∧ 1040000 < xs.sum) ∨ (s.rowYoke.clamp = true ∧ ¬ ∃ a, below = some a ∧ a + 10000 ≤ s.now))) ∧ t = s.onBoard (fun b => { b with samples := xs, below := below })) ∧
    (∃ (s : State),
      s.board.good = true) ∧
    (∃ (cells : BitVec 1872) (s : State) (i : _),
      i ∈ ([.tapReset, .idcode, .bypass, .samplePreload cells, .extest, .clamp, .highz, .extestPulse, .extestTrain, .debug] : List Instr) ∧ s.board.good = false) ∧
    (∃ (s : State),
      s.board.good = true) ∧
    (∃ (s : State),
      s.board.good = true ∧ s.board.warm = true) ∧
    (∃ (s : State) (i : _),
      i ∈ ([.extest, .clamp, .highz, .extestPulse, .extestTrain] : List Instr) ∧ s.board.good = true ∧ s.board.warm = false) ∧
    (∃ (s : State),
      s.board.good = true ∧ s.hook 3 = true) ∧
    (∃ (s : State),
      s.board.good = true ∧ s.hook 3 = false) ∧
    (∃ (b : Board) (c : Contact),
      (b.warm = false ∨ c.group.coverage = .none ∨ c.group.coverage = .observe ∨ c.group.drives = false)) ∧
    (∃ (b : Board) (c : Contact),
      b.warm = true ∧ (c.group.coverage = .ac ∨ c.group.coverage = .dc) ∧ c.group.drives = true ∧ b.floating = true) ∧
    (∃ (b : Board) (c : Contact),
      b.warm = true ∧ (c.group.coverage = .ac ∨ c.group.coverage = .dc) ∧ c.group.drives = true ∧ b.floating = false ∧ b.driven = false) ∧
    (∃ (b : Board) (c : Contact),
      b.warm = true ∧ (c.group.coverage = .ac ∨ c.group.coverage = .dc) ∧ c.group.drives = true ∧ b.floating = false ∧ b.driven = true) :=
  ⟨⟨brd fun b => { b with good := false }, by decide +kernel⟩,
   ⟨104001, brd (fun b => { b with samples := List.replicate 9 104000 }), _, _, _, true, by decide +kernel, rfl, rfl, ⟨fun _ => .inl (by decide +kernel), fun _ => rfl⟩, rfl⟩,
   ⟨R, by decide +kernel⟩,
   ⟨0, brd (fun b => { b with good := false }), .clamp, by decide +kernel, by decide +kernel⟩,
   ⟨R, by decide +kernel⟩,
   ⟨brd fun b => { b with warm := true }, by decide +kernel, by decide +kernel⟩,
   ⟨R, .clamp, by decide +kernel, by decide +kernel, by decide +kernel⟩,
   ⟨fl [(F.PT_HOOKS_HOOKS, 8)], by decide +kernel, by decide +kernel⟩,
   ⟨R, by decide +kernel, by decide +kernel⟩,
   ⟨{ R.board with warm := true }, ⟨.jtag, 0⟩, .inr (.inl (by decide))⟩,
   ⟨{ R.board with warm := true, floating := true }, ⟨.pcieTx, 0⟩, by decide +kernel, .inl (by decide), by decide +kernel, by decide +kernel⟩,
   ⟨{ R.board with warm := true }, ⟨.management, 0⟩, by decide +kernel, .inr (by decide), by decide +kernel, by decide +kernel, by decide +kernel⟩,
   ⟨{ R.board with warm := true, driven := true }, ⟨.fabricTx, 0⟩, by decide +kernel, .inl (by decide), by decide +kernel, by decide +kernel, by decide +kernel⟩⟩

theorem witness_TestFacilitiesTakeEffect :
    (∃ (s : State) (t : State),
      t = s.stopRuns.mc.cast.looped.foldl State.retrain s.stopRuns) ∧
    (∃ (s : State),
      s.hook 0 = false) ∧
    (∃ (pc : BitVec 10) (s : State) (t : State),
      s.hook 0 = true ∧ t = s.setFld F.HB_TEST_SEL_PC pc.toNat) ∧
    (∃ (pc : BitVec 10) (s : State) (t : State) (u : State) (k : Nat) (p : Nat),
      s.hook 0 = true ∧ t = s.setFld F.HB_TEST_SEL_PC pc.toNat ∧ k = pc.toNat / 64 ∧ p = pc.toNat % 64 ∧ u = (if t.fld (F.HB_TGEN_BUSY k p) = 1 then t.setFlds [(F.HB_TGEN_BUSY k p, 0), (F.HB_TGEN_DONE k p, 1)] else t)) ∧
    (∃ (s : State),
      s.fld F.MC_BIST_BUSY ≠ 1) ∧
    (∃ (n : BitVec 3) (s : State) (t : State) (u : State) (m : Nat) (code : Nat),
      s.fld F.MC_BIST_BUSY = 1 ∧ m = s.fld F.MC_BIST_MOTIF ∧ t = s.setFlds [(F.MC_BIST_BUSY, 0), (F.MC_BIST_DONE, 1), (F.MC_BIST_PASS, flag (decide (n = 0))), (F.MC_BIST_FAIL_UNIT, n.toNat)] ∧ code = t.failedState m ∧ u = { t with recovery := { t.recovery with darns := (t.recovery.darns.filter fun x => x.1 ≠ m) ++ [(m, code)] } }) :=
  ⟨⟨R, _, rfl⟩,
   ⟨R, by decide +kernel⟩,
   ⟨1023, fl [(F.PT_HOOKS_HOOKS, 1)], _, by decide +kernel, rfl⟩,
   ⟨1023, fl [(F.PT_HOOKS_HOOKS, 1)], _, _, _, _, by decide +kernel, rfl, rfl, rfl, rfl⟩,
   ⟨R, by decide +kernel⟩,
   ⟨0, fl [(F.MC_BIST_BUSY, 1)], _, _, _, _, by decide +kernel, rfl, rfl, rfl, rfl⟩⟩

theorem witness_ScaledEstimatesAreCeilings :
    ∃ (s : State) (m : Nat) (x : Stitch),
      s.fits m x = true :=
  ⟨R, 0, st0, by decide +kernel⟩

theorem witness_IdcodeReadsItsFields :
    ∃ (s : State),
      s.board.good = true :=
  ⟨R, by decide +kernel⟩

theorem witness_InjectionFlipsNamedBitsOnce :
    (∃ (s : State),
      s.hook 1 = false) ∧
    (∃ (s : State),
      s.hook 1 = false) ∧
    (∃ (s : State) (bs : List (Option Byte)),
      bs.all Option.isNone = false ∧ s.hook 1 = false) ∧
    (∃ (s : State) (w : Nat) (bs : List (Option Byte)) (i : Nat),
      bs.all Option.isNone = false ∧ s.hook 1 = true ∧ s.fld (F.HB_INJECT_ARM (s.pcAt (w * 8) / 64)) = 1 ∧ i < 80) :=
  ⟨⟨R, by decide +kernel⟩,
   ⟨R, by decide +kernel⟩,
   ⟨R, [some 0], by decide +kernel, by decide +kernel⟩,
   ⟨fl [(F.PT_HOOKS_HOOKS, 2), (F.HB_INJECT_ARM 0, 1)], 0, [some 0], 79, by decide +kernel, by decide +kernel, by decide +kernel, by decide +kernel⟩⟩

theorem witness_SkeinCellsAreFreedOnlyByReleaseAndClose :
    (∃ (s : State) (d : Nat),
      ((∀ j, (s.stream j).st = .closed → (s.stream j).cells = [])) ∧ 0x40 ≤ skOp d ∧ skOp d ≤ 0x46 ∧ skOp d ≠ 0x45) ∧
    (∃ (s : State) (d : Nat),
      ((s.skAppend d).1.status = St.OK)) :=
  ⟨⟨R, 0x40, fun _ _ => rfl, by decide +kernel, by decide +kernel, by decide +kernel⟩,
   ⟨apd, 0x41 + 2 ^ 64, by decide +kernel⟩⟩

theorem witness_StreamPositionsStayInOrder :
    (∃ s : State, ∀ k, Ordered (s.stream k)) ∧
    (∃ (s : State) (d : Nat) (k : _),
      ((∀ k, Ordered (s.stream k))) ∧ k ≠ skStream d) :=
  ⟨⟨R, fun _ => ⟨Nat.le_refl _, Nat.le_refl _, Nat.le_refl _, Nat.le_refl _⟩⟩,
   ⟨R, 0, 1, fun _ => ⟨Nat.le_refl _, Nat.le_refl _, Nat.le_refl _, Nat.le_refl _⟩, by decide +kernel⟩⟩

theorem witness_CountersSaturateAndLatch :
    (∃ (c : Cnt),
      c.addr ≠ c.ovf ∧ c.bit < 64) ∧
    (∃ (s : State) (c : Cnt) (n : Nat),
      c.addr ≠ c.ovf ∧ c.bit < 64 ∧ 0 < n ∧ cntMax ≤ s.cnt c + n) ∧
    (∃ (s : State) (c : Cnt) (n : Nat),
      c.addr ≠ c.ovf ∧ c.bit < 64 ∧ s.cnt c + n < cntMax) ∧
    (∃ (c : Cnt) (a : _),
      c.addr ≠ c.ovf ∧ c.bit < 64 ∧ a ≠ c.addr ∧ a ≠ c.ovf) :=
  ⟨⟨C.SK_CNT_OPS, by decide +kernel, by decide +kernel⟩,
   ⟨R, C.SK_CNT_OPS, cntMax, by decide +kernel, by decide +kernel, by decide +kernel, by decide +kernel⟩,
   ⟨R, C.SK_CNT_OPS, cntMax - 1, by decide +kernel, by decide +kernel, by decide +kernel⟩,
   ⟨C.SK_CNT_OPS, 0, by decide +kernel, by decide +kernel, by decide +kernel, by decide +kernel⟩⟩

theorem witness_RingIndexStaysBetween :
    (∃ (c : Nat) (w : Nat) (n : Nat),
      c < 2 ^ 24 ∧ w < 2 ^ 24 ∧ n < 2 ^ 24) ∧
    (∃ (v : BitVec 32) (s : State),
      ciAccepted (s.fld F.EV_RING_CI_CI) (s.fld F.EV_RING_PI_PI) (bits v.toNat 23 0) = false) ∧
    (∃ (v : BitVec 32) (s : State),
      ciAccepted (s.fld F.TU_FRING_CI_CI) (s.fld F.TU_FRING_PI_PI) (bits v.toNat 23 0) = false) :=
  ⟨⟨0xFFFFFF, 0xFFFFFF, 0xFFFFFF, by decide +kernel, by decide +kernel, by decide +kernel⟩,
   ⟨1, R, by decide +kernel⟩,
   ⟨1, R, by decide +kernel⟩⟩

theorem witness_InterleaveSpreadsEveryBlock :
    (∃ salt block pc i j : Nat, pc < 1024 ∧ i < 1024 ∧ pcOf (block * 2 ^ 18 + i * 256) salt = pc ∧ j < 1024 ∧
      pcOf (block * 2 ^ 18 + j * 256) salt = pc) ∧
    (∃ (i : _) (b : _),
      i < 1024 ∧ b < 256) :=
  ⟨⟨0, 0, 1023, 1023, 1023, by decide +kernel, by decide, by decide +kernel, by decide, by decide +kernel⟩,
   ⟨1023, 255, by decide +kernel, by decide +kernel⟩⟩

theorem witness_MemoryReadsBack :
    (∃ (a : Nat) (bs : List Byte) (b : _),
      (b < a ∨ a + bs.length ≤ b)) ∧
    (∃ (m : List Host.Cell),
      Memory.wf m = true) ∧
    (∃ (a : Nat) (bs : List Byte) (b : _),
      (b < a ∨ a + bs.length ≤ b)) ∧
    (∃ (m : Nat) (j : _),
      j ≠ m) :=
  ⟨⟨1, [0], 0, .inl (by decide)⟩,
   ⟨[(0, 1)], by decide +kernel⟩,
   ⟨0, [0], 1, .inr (by decide)⟩,
   ⟨0, 1, by decide +kernel⟩⟩

theorem witness_RegistersReadBackByAccessCode :
    (∃ (old : Nat) (i : Nat),
      i < 64 ∧ old < 2 ^ 64) ∧
    (∃ (s : State) (a : Nat) (i : Nat),
      i < 64 ∧ s.hidden a = false) ∧
    (∃ (s : State) (a : Nat),
      s.hidden a = true) :=
  ⟨⟨0, 63, by decide +kernel, by decide +kernel⟩,
   ⟨R, 0, 63, by decide +kernel, by decide +kernel⟩,
   ⟨R, (F.HB_INJECT_ARM 0).addr, by decide +kernel⟩⟩

theorem witness_FormatsRoundTrip :
    (∃ (c : Nat) (f : Fmt) (code : Nat), fmtOf c = some f ∧ code < 2 * f.signBit ∧ f.decode code ≠ .nan) ∧
    (∃ (c : Nat) (f : Fmt) (code : Nat), fmtOf c = some f ∧ code < 2 * f.signBit ∧ f.decode code = .nan) :=
  ⟨⟨1, fmtFp32, 0xFF800000, rfl, by decide +kernel, by decide +kernel⟩,
   ⟨1, fmtFp32, 0xFFFFFFFF, rfl, by decide +kernel, by decide +kernel⟩⟩

theorem witness_InvalidationLeavesNoMatch :
    ∃ (seq : BitVec 16) (s : State) (v : Inval),
      (s.tu.invals.find? (fun v => v.seq = seq.toNat) = some v) :=
  ⟨0, inv0, iv0, by decide +kernel⟩

theorem witness_EventsAreNumberedAndCounted :
    ∃ (s : State) (e : EvKind),
      e.sev < s.fld F.EV_RING_CTL_MIN_SEV ∧ e.sev ≠ 3 :=
  ⟨fl [(F.EV_RING_CTL_MIN_SEV, 3)], Ev.FABRIC_PORT_DOWN, by decide +kernel, by decide +kernel⟩

theorem witness_MaskedVectorsWait :
    (∃ (s : State) (v : Nat),
      s.fld (F.NC_VROUTE_EN v) ≠ 1 ∧ v < s.px.msixCount ∧ ((s.msiMasked v || s.msiBlocked) = true)) ∧
    (∃ (s : State) (v : Nat),
      s.fld (F.NC_VROUTE_EN v) ≠ 1 ∧ s.px.msixCount ≤ v) :=
  ⟨⟨hst, 2047, by decide +kernel, by decide +kernel, by decide +kernel⟩,
   ⟨R, 0, by decide +kernel, by decide +kernel⟩⟩

theorem completes_of {c : Instr} {s : State} (h : (match exec c s with | .next _ => true | _ => false) = true) :
    ∃ t, exec c s = .next t := by
  cases hx : exec c s with
  | next t => exact ⟨t, rfl⟩
  | fault f => rw [hx] at h; exact absurd h Bool.false_ne_true
  | refused r => rw [hx] at h; exact absurd h Bool.false_ne_true

theorem witness_EngineCommandsChangeOnly : ∃ (s t : State), exec (.zero 0) s = .next t :=
  ⟨arr 3, completes_of (by decide +kernel)⟩

theorem witness_QueueAndSkeinCommandsChangeOnly : ∃ (s t : State), exec (.nop 1) s = .next t :=
  ⟨que [qc 0], completes_of (by decide +kernel)⟩

theorem witness_MemoryCommandsChangeOnly : ∃ (s t : State), exec (.rdS 0 1 0) s = .next t :=
  ⟨R, completes_of (by decide +kernel)⟩

theorem witness_RowAndSeamCommandsChangeOnly : ∃ (s t : State), exec .rowTimerFire s = .next t :=
  ⟨at' 100000 (fl [(F.RW_PERIOD_RP_US, 100)]), completes_of (by decide +kernel)⟩

theorem witness_FabricAndRegisterCommandsChangeOnly : ∃ (s t : State), exec (.fabricPortUp 3) s = .next t :=
  ⟨fl [(F.FB_PORT_STATE 3, 1)], completes_of (by decide +kernel)⟩

theorem witness_ManagementCommandsChangeOnly : ∃ (s t : State), exec (.getInfo .bar0) s = .next t :=
  ⟨jobIn 1 2 0, completes_of (by decide +kernel)⟩

/-! ### Ill-formed commands, one for each check of WellFormed -/

/-- Mesh ID 49 is in no use (R21). -/
theorem test_ill_mesh :
    ∀ c ∈ ([.late 49 0, .gaugeReport ⟨49, 0, false, false, false, 0, 0, 0, 0, 0, 0, 0⟩, .rdS 0 49 0, .rdX 0 49 0, .upg 0 49 0,
      .wb 0 49 0 ⟨0, 0⟩, .cleanEvict 0 49 0, .rdNc 0 49 0, .wrNc 0 49 0 ⟨0, 0⟩ 0 none, .memRsp 49 0 true ⟨[], []⟩, .intMessage 49 0,
      .tlbInv 49 0, .invDone 49 0, .routeSet 49 0 0, .mapSet 49 0 0 [], .bindSet 49 0 0 0 0, .posSet 49 0 0 .enabled,
      .patternData 49 0 0, .chainAck 0 49 0, .chainResend 49 0 ⟨0, false⟩, .seamState 49 0 0] : List Instr), wellFormed c = false := by
  decide
/-- A transfer of 0 bytes, of 4,097 bytes, and with fewer enables than bytes. -/
theorem test_ill_length :
    ∀ c ∈ ([.bar4Read 0 0 0, .bar4Read 0 4097 0, .bar4Write 0 [] [] false 0, .bar4Write 0 [0] [] false 0,
      .memReq 0 0 (.read 0 0), .guestRequest 0 (.read 0 4097)] : List Instr), wellFormed c = false := by decide
/-- Poison on a word that the write does not reach; an atomic that is misaligned, has no operand, or has two to combine; an FP32
add of 8 bytes. -/
theorem test_ill_request :
    ∀ c ∈ ([.memReq 0 0 (.write 0 [0] [1]), .memReq 0 0 (.atomic 4 .add true [(0, 0)]), .memReq 0 0 (.atomic 0 .add true []),
      .memReq 0 0 (.atomic 0 .add true [(0, 0), (1, 1)]), .memReq 0 0 (.atomic 0 .fadd true [(0, 0)])] : List Instr),
      wellFormed c = false := by
  decide
/-- A far atomic without addresses, misaligned, without threads, and with an address twice. -/
theorem test_ill_far :
    ∀ c ∈ ([.atomFar 0 0 0 ⟨.add, false, []⟩, .atomFar 0 0 0 ⟨.add, true, [⟨4, [(0, 0)]⟩]⟩, .atomFar 0 0 0 ⟨.add, false, [⟨0, []⟩]⟩,
      .atomFar 0 0 0 ⟨.add, false, [⟨4, [(0, 0)]⟩, ⟨4, [(0, 0)]⟩]⟩] : List Instr), wellFormed c = false := by decide
/-- A mask of more words than a frame carries. -/
theorem test_ill_frame : wellFormed (.fabricRead ⟨0, true, 0, [], List.replicate 65 0⟩) = false := by decide +kernel
/-- Step 7 is none of cast-on's; a vector load runs past its register. -/
theorem test_ill_report : wellFormed (.mcLeaveReset 0 { rp0 with late := some 7 }) = false := by decide
/-- An element of a vector register that the register does not hold, and an integer result to an f register. -/
theorem test_ill_hart_result :
    ∀ i ∈ ([.float none [⟨.add, .d, .d, .v 0 25, .f 0, .f 0, .f 0⟩], .float none [⟨.add, .d, .d, .f 0, .f 0, .f 0, .v 0 25⟩],
      .compute [(.f 0, 0)] none] : List HartAct), wellFormed (.nodeCoreInstruction 0 0 false i) = false := by
  decide
theorem test_ill_vector_load :
    wellFormed (.nodeCoreInstruction 0 0 false (.access [(0, 0, .load (.v 0) 31 1 false)])) = false := by decide

/-! ### Values of the manual's worked examples -/

/-- 09, placing one address: pseudo-channel 792, whose home is M(4,5). -/
theorem test_place : pcOf 0x3C0A5F00 0x155555 = 792 ∧ homeMotif (792 / 64) = 44 := by decide +kernel
/-- 03, a drain into FP8. -/
theorem test_drain_e4m3 :
    (([0x43E00000, 0x43E38000, 0x43E80000, 0x43EB0000, 0xC47A0000, 0x7F800000, 0x7FC00000, 0x40533333, 0x3A800000, 0x3A807358]
      : List Nat).map fun c => elemEncode 4 false (elemDecode 1 c)) =
      [(0x7E, .none), (0x7E, .none), (0x7E, .none), (0x7E, .sat), (0xFE, .sat), (0x7E, .sat), (0x7F, .none), (0x45, .none),
       (0x00, .flush), (0x01, .none)] := by decide +kernel
theorem test_drain_e5m2 :
    elemEncode 5 false (elemDecode 1 0x476A6000) = (0x7B, .none) ∧ elemEncode 5 false (elemDecode 1 0x47700000) = (0x7B, .sat) ∧
      elemEncode 5 true (elemDecode 1 0x47700000) = (0x7C, .sat) := by decide +kernel
/-- 03, one block of E2M1 weights. -/
theorem test_block_e2m1 :
    let r := blockCodes 8 false ((([0x41700000, 0x41500000, 0xC15E6666, 0x40200000, 0x3FC00000, 0x3F000000, 0xBE99999A] : List Nat) ++
      List.replicate 25 0x41000000).map (elemDecode 1))
    r.1 = 0x80 ∧ r.2.take 7 = [(7, .sat), (7, .none), (15, .none), (2, .none), (2, .none), (0, .flush), (8, .flush)] := by
  decide +kernel
/-- 04, a product below the window: the group's sum rounds to 65,536. -/
theorem test_group_window :
    (elemEncode 1 true (groupSum 23 [(elemDecode 4 0x78).mul (elemDecode 4 0x78), (elemDecode 4 0x18).mul (elemDecode 4 0x04),
      (elemDecode 4 0x18).mul (elemDecode 4 0x18), (elemDecode 4 0).mul (elemDecode 4 0x38)])).1 = 0x47800000 := by decide +kernel
/-- 02, debt on solver B: the Row's cycles and class 1's allowances. -/
theorem test_allowances :
    let s := fl [(F.RW_PERIOD_RP_US, 1000), (F.GA_MOTIF_PWR_P_REF_MW, 62000), (F.RW_SHARE_CYC_SHARE 1, 976),
      (F.RW_SHARE_EN_SHARE 1, 976)]
    s.cRow = 2241000 ∧ s.aCyc 1 = 2135953 ∧ s.eRef = 62000 ∧ s.uEn 1 = 59093 := by decide +kernel
/-- 12, a completion counter of motif 35 at BAR4 offset 0xFF_1BF0_0000. -/
theorem test_bar4 :
    (fl [(F.PX_STATUS_BAR4_LOG2, 40)]).bar4At 0xFF1BF00000 = some (apertureBase + 35 * 0x10000000 + 0x3F00000) := by decide +kernel
/-- 19, the high word is the one latched by the read of the low word. -/
theorem test_latch :
    let a := 0x1008108
    let r := (R.setReg a 0x1FFFFFFF0).read4 .nodeCore a
    r.1 = 0xFFFFFFF0 ∧ ((r.2.setReg a 0x200000004).read4 .nodeCore (a + 4)).1 = 1 := by decide +kernel

/-! ### One step each -/

def okNext (o : Host.Outcome State Fault Refusal) (p : State → Bool) : Bool :=
  match o with
  | .next t => p t
  | _ => false

/-- With nothing pending, 1 ns passes. -/
theorem test_idle : okNext (step R) (fun t => t.now = 1) = true := by decide +kernel
/-- A ROW_EDGE is due at 100 µs, and the Row number goes to 1 (R43). -/
theorem test_row_edge :
    okNext (exec .rowTimerFire (at' 100000 (fl [(F.RW_PERIOD_RP_US, 100)]))) (fun t => t.rowYoke.row = 1) = true := by decide +kernel
/-- A GAUGE_BUDGET 2,001 ns after the edge is too late (R77). -/
theorem test_late_budget :
    okNext (exec (.gaugeBudget 0 0 false 5 5 5) (at' 2001)) (fun t => !(t.sched 0).budgetSet || (t.sched 0).eBe = 0) = true := by
  decide +kernel
/-- ZERO leaves RUN_FMT FP32 and GCNT 0 (R150). -/
theorem test_zero :
    okNext (exec (.zero 0) ((arr 3).setFlds [(F.MX_ACCSTATE_GCNT 0 0, 5), (F.MX_ACCSTATE_RUN_FMT 0 0, 2)]))
      (fun t => t.fld (F.MX_ACCSTATE_GCNT 0 0) = 0 && t.fld (F.MX_ACCSTATE_RUN_FMT 0 0) = 0) = true := by decide +kernel
/-- VBALLOT over the one active thread, whose x1 is not 0, writes 1 (R220): rd x2, rs1 x1. -/
theorem test_vballot :
    okNext (exec (.vballot 0 0) (ndl (0x0600200B + 2 * 2 ^ 7 + 2 ^ 15)))
      (fun t => ((t.group 0 0).map fun x => (x.xr 0 2, x.pc)) = some (1, 0xFFFFFFFF00000004)) = true := by decide +kernel

end Sys2Proof.Tests
end

section
/-!
The registers' access codes and commands, the frames of the fabric's and the registers' commands, the seams' training with the guests'
exchange, and the requests of guests and host (O49, O59, O21, O30, O31).
-/

namespace Sys2Proof.Machine

/-! ### Frames: what a command may change -/

/-- A set of fields lies in itself. -/
theorem inSet_refl (a : Nat) : InSet a a := ⟨Nat.and_self a⟩

/-- A command that writes only the fields of `m` changes a state only as `f` says, where `f` takes the fields of `m` from the state
reached and every other from the state before: `Inv.eq_mk` says so of each set written out. -/
theorem changes_of_inv {m : Nat} {c : Instr} {f : State → State → State}
    (h : ∀ s, Inv m s s → InSet m m → OutInv m s (exec c s))
    (hf : ∀ s t, Inv m s t → t = f s t := by exact fun _ _ h => h.eq_mk) : Changes c f := by
  intro s t ht
  obtain ⟨u, hu, hi⟩ := (h s (.refl m s) (inSet_refl m)).of
  obtain rfl : u = t := Host.Outcome.next.inj (hu.symm.trans ht)
  exact hf s u hi

/-- Settles O59: each command's law of Laws/Inv*.lean names exactly the fields that the statement names. -/
theorem fabricAndRegisterCommandsChangeOnly : Obligations.FabricAndRegisterCommandsChangeOnly := by
  unfold Obligations.FabricAndRegisterCommandsChangeOnly
  refine ⟨⟨?_, ?_, ?_, ?_, ?_, ?_, ?_⟩, ⟨?_, ?_, ?_, ?_, ?_, ?_⟩, ⟨?_, ?_⟩, ⟨?_, ?_⟩, ?_, ⟨?_, ?_⟩, ?_, ⟨?_, ?_⟩,
    ?_, ?_, ?_, ?_, ⟨?_, ?_, ?_⟩, ?_⟩
  · exact fun r => changes_of_inv fun s => execRemoteRequest_inv r s
  · exact fun f => changes_of_inv fun s => execFabricReadRsp_inv f s
  · exact fun f => changes_of_inv fun s => execFabricWriteRsp_inv f s
  · exact fun f => changes_of_inv fun s => execFabricAtomicRsp_inv f s
  · exact fun node lot => changes_of_inv fun s => execFlowLost_inv node lot s
  · exact fun k => changes_of_inv fun s => execLotRemoved_inv k s
  · exact fun k => changes_of_inv fun s => execBindoffForced_inv k s
  · exact fun f => changes_of_inv fun s => execFabricRead_inv f s
  · exact fun f => changes_of_inv fun s => execFabricAck_inv f s
  · exact fun f => changes_of_inv fun s => execFabricNak_inv f s
  · exact fun node lot => changes_of_inv fun s => execAckTimer_inv node lot s
  · exact fun node lot => changes_of_inv fun s => execRetransmitTimeout_inv node lot s
  · exact fun index row => changes_of_inv fun s => execLotAdd_inv index row s
  · exact fun f => changes_of_inv fun s => execFabricWrite_inv f s
  · exact fun f => changes_of_inv fun s => execFabricAtomic_inv f s
  · exact fun node lot => changes_of_inv fun s => execFlowIdleFree_inv node lot s
  · exact fun index row => changes_of_inv fun s => execLotBindoff_inv index row s
  · exact fun p => changes_of_inv fun s => execFabricPortDown_inv p s
  · exact fun p => changes_of_inv fun s => execFabricPortUp_inv p s
  · exact changes_of_inv fun s => execPpsLost_inv s
  · exact fun offset => changes_of_inv fun s => execPtpSync_inv offset s
  · exact fun gm => changes_of_inv fun s => execPtpMessage_inv gm s
  · exact changes_of_inv fun s => execPtpHoldover_inv s
  · exact fun offset => changes_of_inv fun s => execPpsEdge_inv offset s
  · exact changes_of_inv fun s => execTsTimeLoRead_inv s
  · exact fun a wide => changes_of_inv fun s => execRegRd_inv a wide s
  · exact fun a wide v => changes_of_inv fun s => execRegRsp_inv a wide v s
  · exact fun a wide => changes_of_inv fun s => execRegTimeout_inv a wide s
  · exact fun v => changes_of_inv fun s => execEvRingBaseWrite_inv v s
  · exact fun v => changes_of_inv fun s => execEvRingCiWrite_inv v s
  · exact fun path a => changes_of_inv fun s => execCounterLoWordRead_inv path a s

/-! ### Access codes (R14, R18) -/

/-- A complement in 64 bits, bit by bit. -/
theorem testBit_complement (x : Nat) {i : Nat} (hi : i < 64) : ((2 ^ 64 - 1) ^^^ x).testBit i = !x.testBit i := by
  rw [Nat.testBit_xor, Nat.testBit_two_pow_sub_one, decide_eq_true hi, Bool.true_xor]

/-- One bit of a write: of a bit `old` by the value's bit `v`, where the lane, the RW or RWS mask and the RW1C mask are as told. -/
theorem written_bit : ∀ old v lane rw rw1c : Bool,
    ((old && !(rw && lane) || v && (rw && lane)) && !(rw1c && lane && v)) =
      if lane && rw1c && v then false else if lane && rw then v else old := by
  decide

/-- Bit `i` of a register after a write: a lane's RW1C bit that the value clears, a lane's RW or RWS bit, or a bit left alone. -/
theorem testBit_writeBits (fs : List RegField) (old v lanes : Nat) {i : Nat} (hi : i < 64) :
    (writeBits fs old v lanes).testBit i =
      if lanes.testBit i && (fieldMask [.rw1c] fs).testBit i && v.testBit i then false
      else if lanes.testBit i && (fieldMask [.rw, .rws] fs).testBit i then v.testBit i
      else old.testBit i := by
  simp only [writeBits, Nat.testBit_and, Nat.testBit_or, testBit_complement _ hi]
  exact written_bit ..

/-- Bit `i` of a register that no hook closes, as it reads. -/
theorem State.testBit_readWhole (s : State) (r : RegRow) {a i : Nat} (hi : i < 64) (visible : s.hidden a = false) :
    (s.readWhole r a).testBit i = ((s.castDone || !(patternBits a).testBit i) && (s.shown a).testBit i &&
      (fieldMask [.ro, .rw, .rw1c, .rws] r.fields).testBit i) := by
  simp only [State.readWhole, visible, Bool.false_eq_true, if_false, Nat.testBit_and]
  cases s.castDone with
  | true => rfl
  | false =>
    rw [if_neg Bool.false_ne_true, Nat.testBit_and, testBit_complement _ hi, Bool.false_or, Bool.and_comm ((s.shown a).testBit i)]

theorem State.readWhole_hidden {s : State} {a : Nat} (h : s.hidden a = true) (r : RegRow) : s.readWhole r a = 0 := by
  rw [State.readWhole, if_pos h]

/-- Settles O49, bit by bit. -/
theorem registersReadBackByAccessCode : Obligations.RegistersReadBackByAccessCode :=
  ⟨fun fs old v lanes _ hi _ => testBit_writeBits fs old v lanes hi, fun s r _ _ hi h => s.testBit_readWhole r hi h,
    fun _ r _ h => State.readWhole_hidden h r⟩

/-! ### Commands that choose between next states -/

/-- A choice between two next states is the next state chosen. -/
theorem ite_next (c : Prop) [Decidable c] (s t : State) :
    (if c then .next s else .next t : Host.Outcome State Fault Refusal) = .next (if c then s else t) :=
  (apply_ite Host.Outcome.next c s t).symm

/-- A choice told by what refuses. -/
theorem ite_eq_false (b : Bool) (s t : State) : (if b then s else t) = if b = false then t else s := by
  cases b <;> rfl

/-- Settles O21: each command's meaning, with its Boolean conditions read as propositions. -/
theorem registerCommandsAnswer : Obligations.RegisterCommandsAnswer := by
  unfold Obligations.RegisterCommandsAnswer
  refine ⟨?_, ?_, ?_, ?_, ?_, ?_, fun _ => rfl, fun _ _ => rfl, fun _ _ => rfl, ?_⟩
  · intro path a wide v s
    simp only [exec_registerWrite, execRegisterWrite, ite_next, Bool.and_eq_true, Bool.or_eq_true, decide_eq_true_eq,
      Bool.not_eq_eq_eq_not, Bool.not_true, and_assoc]
  · intro a wide s
    simp only [exec_regRd, execRegRd, ite_next, Bool.and_eq_true, decide_eq_true_eq, and_assoc]
  · intro a wide v s
    simp only [exec_regWr, execRegWr, ite_next, Bool.and_eq_true, decide_eq_true_eq, and_assoc]
  · intro a wide v s
    simp only [exec_regRsp, execRegRsp, ite_next]
  · intro a wide s
    rw [exec_regTimeout, execRegTimeout]
    cases s.overChain a.toNat with
    | false => rfl
    | true => cases s.guestEmpty a.toNat <;> rfl
  · intro path a s r b row
    simp only [exec_counterLoWordRead, execCounterLoWordRead, row, ite_next, Bool.and_eq_true, decide_eq_true_eq, and_assoc]
  · intro write wide a v s
    simp only [exec_regAccess, execRegAccess, ite_next, Bool.or_eq_true, Bool.not_eq_eq_eq_not, Bool.not_true]

/-! ### A guest's acknowledgement (R397) -/

/-- Guest 0 of a part with guests has its grant, of CRC 0 and all eight modules, and its exchange runs. -/
def guestGranted : State :=
  { State.reset.setFld (F.SM_GUEST_STATE 0) 2 with
    mc := { Mc.init with fuses := { Fuses.init with guests := true } }
    guests := Sparse.set GuestLink.init [] 0 { GuestLink.init with crc := some 0, got := true, width := 8 } }

/-- The mask that side A of seam `i` ran at, after an outcome. -/
def priorAfter (o : Host.Outcome State Fault Refusal) (i : Nat) : Option Nat :=
  match o with
  | .next t => (t.seam i).a.prior
  | _ => none

/-- The acknowledgement of guest 0 opens seam 0, between two motifs, and not guest 0's own seam 88: `88 + g` of `execVspAck` is a sum
in `Guest`, which is `Fin 2`. -/
theorem vspAck_opens_seam_of_motifs :
    priorAfter (exec (.vspAck 0 0) guestGranted) 0 = some 255 ∧ priorAfter (exec (.vspAck 0 0) guestGranted) 88 = none := by
  decide +kernel

/-- Refutes O30: VSP_ACK of a guest that has its grant does not open the guest's seam; in `guestGranted` the statement has seam 88
open at all eight modules, and the model leaves it as it was. -/
theorem not_seamsTrainAndGuestsJoin : ¬ Obligations.SeamsTrainAndGuestsJoin := by
  unfold Obligations.SeamsTrainAndGuestsJoin
  rintro ⟨_, _, _, _, _, _, _, _, _, _, _, vspAck, _⟩
  have opened := congrArg (priorAfter · 88) (vspAck 0 0 guestGranted)
  simp only [vspAck_opens_seam_of_motifs.2] at opened
  exact absurd opened (by decide +kernel)

/-! ### Requests of guests and the host -/

/-- The answer to a request of the host that is no posted write: a completion, unless a host-side reset discarded it. -/
theorem State.reqAnswer_host (s : State) (rid : Nat) (wanted : Bool) (bs : List Byte) (ps : List Nat) :
    s.reqAnswer (.host rid wanted) false bs ps =
      if wanted then (s.epSent ps.length).completion rid Cpl.SC (!ps.isEmpty) bs else s := by
  cases wanted <;> rfl

/-- Settles O31: each command's meaning and each shared operation, a guest's request by its kind and an access of BAR4 by whether its
offset is reached. -/
theorem guestAndHostRequestsAnswer : Obligations.GuestAndHostRequestsAnswer := by
  unfold Obligations.GuestAndHostRequestsAnswer
  refine ⟨?_, ?_, ?_, fun _ => rfl, fun _ _ _ _ _ _ _ _ => ⟨rfl, rfl, rfl⟩, fun _ _ _ _ => rfl, fun _ _ _ _ _ => rfl,
    fun _ _ _ _ _ _ => rfl, ?_, fun _ _ _ _ _ _ => rfl, ?_, ?_, ?_, fun _ _ _ _ _ => ⟨rfl, rfl⟩,
    fun _ _ _ _ _ => ⟨rfl, rfl, rfl⟩, ?_, ?_⟩
  · intro g r s out
    simp only [exec_guestRequest, execGuestRequest, out, Bool.not_false, if_true]
  · intro g r s joined
    simp only [exec_guestRequest, execGuestRequest, joined, Bool.not_true, Bool.false_eq_true, if_false]
    cases r with
    | read pa n => exact congrArg Host.Outcome.next (ite_eq_false ..)
    | write pa d ps => exact congrArg Host.Outcome.next (ite_eq_false ..)
    | atomic pa fn wide ops => exact congrArg Host.Outcome.next (ite_eq_false ..)
  · intro q s
    simp only [State.takeReq, Bool.or_eq_true, List.any_eq_true, decide_eq_true_eq]
  · intro rid pa n wanted s
    simp only [State.performReq, State.reqConsume, State.reqAnswer_host, List.length_map, List.isEmpty_map]
  · intro rid pa wanted fn wide ops s
    simp only [State.performReq, State.reqConsume, State.reqAnswer_host, List.length_map, List.isEmpty_map]
  · intro off n rid s
    rw [exec_bar4Read, execBar4Read]
    cases s.barOn with
    | false => rfl
    | true =>
      cases s.ridOk rid.toNat with
      | false => rfl
      | true => cases s.bar4Reach off.toNat (.plain n.toNat) false <;> rfl
  · intro off d be ep rid s
    rw [exec_bar4Write, execBar4Write]
    cases s.barOn with
    | false => rfl
    | true =>
      cases s.ridOk rid.toNat with
      | false => rfl
      | true =>
        cases s.bar4Reach off.toNat (.plain d.length) true with
        | none => rfl
        | some pa => exact ite_next (d.length = 0) _ _
  · intro off rid fn wide v cmp s
    rw [State.hostAtomic]
    cases s.barOn with
    | false => rfl
    | true =>
      cases s.ridOk rid with
      | false => rfl
      | true => cases s.bar4Reach off .atomic true <;> rfl
  · intro write a n s
    simp only [exec_bar0BadAccess, execBar0BadAccess, ite_next, Bool.or_eq_true, Bool.and_eq_true, decide_eq_true_eq,
      Bool.not_eq_eq_eq_not, Bool.not_true]

end Sys2Proof.Machine
end

section
/-!
The chain's commands at dies and guests, and the frames of the chain (O29).
-/

namespace Sys2Proof.Machine

/-- The dies of the module are the motifs and the yoke. -/
theorem ownDie_iff (d : Mesh) : ownDie d = true ↔ d.val ≤ 48 := decide_eq_true_iff

/-! ### SEQ_CMD at a seam of the die (R385, R390, R392) -/

theorem execSeqCmd_retrain_of_seam {d : Mesh} {k : BitVec 3} {i : Nat} (seam : dieSeam d.val k.toNat = some i) (s : State) :
    execSeqCmd d (.retrain k) s = .next (if s.recovering 3 i = true ∧ s.seamState i = 5 then s.retrain i else s) := by
  simp only [execSeqCmd, seam, Bool.and_eq_true, decide_eq_true_eq]

theorem execSeqCmd_isolate_of_seam {d : Mesh} {k : BitVec 3} {i : Nat} (seam : dieSeam d.val k.toNat = some i) (s : State) :
    execSeqCmd d (.isolate k) s = .next (if s.seamState i = 6 ∨ s.seamState i = 0 then s else s.isolateSeam i) := by
  simp only [execSeqCmd, seam, Bool.or_eq_true, decide_eq_true_eq]

theorem execSeqCmd_of_no_seam {d : Mesh} {k : BitVec 3} (noSeam : dieSeam d.val k.toNat = none) (s : State) :
    execSeqCmd d (.retrain k) s = .next s ∧ execSeqCmd d (.isolate k) s = .next s := by
  simp only [execSeqCmd, noSeam, and_self]

/-! ### Resent frames (R384) -/

theorem execChainResend_of_no_seam {src hop : Mesh} (noSeam : seamBetween src hop = none) (f : LostFrame) (s : State) :
    execChainResend src hop f s = .next s := by
  simp only [execChainResend, noSeam]

/-- Settles O29: a change at a die by whether the die is of the module, SEQ_CMD by what it asks and the die's seam, a frame's resend by
the seam that joins the two dies. -/
theorem chainCommandsReachTheDie : Obligations.ChainCommandsReachTheDie := by
  unfold Obligations.ChainCommandsReachTheDie
  refine ⟨fun d row s => ⟨?_, ?_, ?_, ?_, ?_⟩, fun d s => ⟨?_, ?_⟩,
    fun d k i s seam => ⟨execSeqCmd_retrain_of_seam seam s, execSeqCmd_isolate_of_seam seam s⟩,
    fun d k s noSeam => execSeqCmd_of_no_seam noSeam s, fun _ _ _ _ => rfl, ?_,
    fun src hop n bad s noSeam => execChainResend_of_no_seam noSeam ⟨n, bad⟩ s⟩
  · intro t
    simp only [exec_routeSet, execRouteSet, ownDie_iff]
  · intro salt rs
    simp only [exec_mapSet, execMapSet, ownDie_iff]
  · intro q mask c
    simp only [exec_bindSet, execBindSet, ownDie_iff]
  · intro m st
    simp only [exec_posSet, execPosSet, ownDie_iff]
    cases st <;> rfl
  · intro off b
    simp only [exec_patternData, execPatternData, ownDie_iff, ite_next]
  · simp only [exec_seqCmd, execSeqCmd, Bool.and_eq_true, decide_eq_true_eq]
  · simp only [exec_seqCmd, execSeqCmd, Bool.and_eq_true, decide_eq_true_eq]
  · rintro src hop n bad i s u seam rfl
    simp only [exec_chainResend, execChainResend, seam, ite_next]

end Sys2Proof.Machine
end

section
/-!
The Row and the gauge: frames, edges, stitches, samples and clocks, the time that passes on an empty queue, and the fields that the
commands of the Row, the seams, the guests and the host link may change (O2, O6 to O9, O40, O58).
-/

namespace Sys2Proof.Machine

/-! ### Scaled estimates (R58) -/

/-- A quotient rounded up is at most `n` where the dividend is at most `n` divisors. -/
theorem ceilDiv_le_iff {a b n : Nat} (hb : 0 < b) : ceilDiv a b ≤ n ↔ a ≤ b * n := by
  rw [ceilDiv, Nat.div_le_iff_le_mul_add_pred hb]
  omega

/-- A stitch that the admission test passes is within what remains of its pool's allowances. -/
theorem State.allowance_of_fits {s : State} {m : Nat} {x : Stitch} (passes : s.fits m x = true) :
    (s.ecOf m x : Int) ≤ Sparse.get 0 (s.sched m).remCyc (poolKey x.cls) ∧
      (s.euOf m x : Int) ≤ Sparse.get 0 (s.sched m).remUj (poolKey x.cls) := by
  simp only [State.fits] at passes
  split at passes
  · cases passes
  · rename_i within
    simpa only [Bool.or_eq_true, decide_eq_true_eq, not_or, Int.not_lt] using within

/-- Settles O40: both estimates are quotients by 256 rounded up, and the admission test begins with the allowances. -/
theorem scaledEstimatesAreCeilings : Obligations.ScaledEstimatesAreCeilings := by
  unfold Obligations.ScaledEstimatesAreCeilings
  exact fun s m x => ⟨fun n => ceilDiv_le_iff (by decide), fun n => ceilDiv_le_iff (by decide), State.allowance_of_fits⟩

/-! ### The next stitch to start (R65) -/

theorem nextToRun_eq_none_iff {as : List Admitted} : nextToRun as = none ↔ as = [] := by
  cases as with
  | nil => exact iff_of_true rfl rfl
  | cons a as =>
    rw [nextToRun]
    cases nextToRun as with
    | none => simp
    | some b => by_cases h : a.st.cls ≤ b.st.cls <;> simp [h]

/-- The next stitch to start is admitted, and no admitted one is of a lower class. -/
theorem nextToRun_lowest {as : List Admitted} {a : Admitted} (next : nextToRun as = some a) :
    a ∈ as ∧ ∀ b ∈ as, a.st.cls ≤ b.st.cls := by
  induction as generalizing a with
  | nil => cases next
  | cons c as ih =>
    rw [nextToRun] at next
    cases rest : nextToRun as with
    | none =>
      obtain rfl : as = [] := nextToRun_eq_none_iff.mp rest
      obtain rfl : c = a := Option.some.inj next
      simp
    | some d =>
      obtain ⟨mem, low⟩ := ih rest
      simp only [rest] at next
      split at next
      · rename_i le
        obtain rfl : c = a := Option.some.inj next
        exact ⟨List.mem_cons_self, List.forall_mem_cons.mpr ⟨Nat.le_refl _, fun b hb => Nat.le_trans le (low b hb)⟩⟩
      · rename_i lt
        obtain rfl : d = a := Option.some.inj next
        exact ⟨List.mem_cons_of_mem c mem, List.forall_mem_cons.mpr ⟨Nat.le_of_not_le lt, low⟩⟩

/-- Settles O8: each command by the stitch that the motif runs, the last clause by induction on the admitted stitches. -/
theorem stitchesRunAndFinish : Obligations.StitchesRunAndFinish := by
  unfold Obligations.StitchesRunAndFinish
  refine ⟨?_, ?_, ?_, ?_, ?_, ?_, ?_, fun as a => nextToRun_lowest⟩
  · intro m qid idx s u x taken
    simp only [exec_stitchArrival, execStitchArrival, taken, ite_next, decide_eq_true_eq, Bool.decide_and]
  · intro m s a idle next enabled started
    have starts : (decide (s.pos m ≠ 1) || (a.pass && decide (s.fld (F.RW_MSTATUS_PHASE m) = 0))) = false := by
      rw [enabled]
      rcases started with ofArrival | windowOver
      · rw [ofArrival]
        rfl
      · rw [decide_eq_false windowOver, Bool.and_false]
        rfl
    simp only [exec_stitchStart, execStitchStart, idle, next, starts, Bool.false_eq_true, if_false, ite_next, Bool.or_eq_true,
      decide_eq_true_eq]
  · intro m s a b running finished still
    simp only [exec_stitchDone, execStitchDone, running, finished, still, if_true, ite_next]
  · intro m s a running unfinished
    simp only [exec_stitchDone, execStitchDone, running, unfinished, Bool.false_eq_true, if_false]
  · intro m s a running
    simp only [exec_stitchOverrun, execStitchOverrun, running, ite_next, Bool.and_eq_true, Bool.not_eq_true', decide_eq_true_eq,
      and_assoc]
  · intro m s a running
    simp only [exec_stitchHung, execStitchHung, running, ite_next, Bool.and_eq_true, decide_eq_true_eq, and_comm]
  · intro m s idle
    simp only [exec_stitchDone, execStitchDone, exec_stitchOverrun, execStitchOverrun, exec_stitchHung, execStitchHung, idle,
      and_self]

/-! ### Frames and edges of the Row -/

/-- Settles O6: each command's meaning by whether its instant has come. -/
theorem rowFramesRunTheRow : Obligations.RowFramesRunTheRow := by
  unfold Obligations.RowFramesRunTheRow
  refine ⟨?_, ?_, ?_, ?_, ?_, ?_⟩
  · intro m row al ho t s
    simp only [exec_rowEdge, execRowEdge, ite_next, Bool.and_eq_true, Bool.not_eq_true', decide_eq_true_eq, and_assoc]
  · intro m row cut eM eRes eBe s
    rw [exec_gaugeBudget, execGaugeBudget]
    by_cases other : row.toNat ≠ (s.sched m).row
    · simp only [if_pos other]
    · by_cases late : 2000 < s.relNow m
      · simp only [if_neg other, if_pos late, decide_eq_false (Nat.not_le.mpr late), Bool.false_and, Bool.false_eq_true, if_false]
      · simp only [if_neg other, if_neg late, decide_eq_true (Nat.not_lt.mp late), Bool.true_and, ite_next, Bool.not_eq_true',
          ← ite_eq_false]
  · intro m s
    rw [exec_floorBudget, execFloorBudget]
    cases (s.sched m).budgetSet with
    | true => rfl
    | false => simp only [Bool.false_or, decide_eq_true_eq, true_and, ite_next, ← Nat.not_le, ite_not]
  · intro m s edgeWindow due
    simp only [exec_bodyStart, execBodyStart, edgeWindow, due, decide_true, Bool.and_self, if_true]
  · intro m s early
    rw [exec_bodyStart, execBodyStart, if_neg]
    simp only [Bool.and_eq_true, decide_eq_true_eq]
    omega
  · intro m s
    simp only [exec_guardStart, execGuardStart, ite_next, Bool.and_eq_true, decide_eq_true_eq]

/-- Settles O7: each command's meaning by whether its edge has come. -/
theorem rowEdgesAreTaken : Obligations.RowEdgesAreTaken := by
  unfold Obligations.RowEdgesAreTaken
  refine ⟨?_, ?_, ?_, ?_, ?_, ?_, ?_⟩
  · intro s due
    simp only [exec_rowTimerFire, execRowTimerFire, due, if_true]
  · intro s early
    simp only [exec_rowTimerFire, execRowTimerFire, early, Bool.false_eq_true, if_false]
  · intro m s
    simp only [exec_localEdge, execLocalEdge, ite_next, State.beginRow]
  · intro m s unseen unmissed due
    simp only [exec_edgeMissed, execEdgeMissed, unseen, unmissed, Nat.not_lt.mpr due, decide_false, Bool.or_self,
      Bool.false_eq_true, if_false, ite_next, Bool.and_eq_true, Bool.not_eq_true', decide_eq_true_eq]
  · intro m s settled
    rw [exec_edgeMissed, execEdgeMissed, if_pos]
    simpa only [Bool.or_eq_true, decide_eq_true_eq, or_assoc] using settled
  · intro m s undone installed due
    simp only [exec_edgePass, execEdgePass, undone, installed, Nat.not_lt.mpr due, decide_false, Bool.not_true, Bool.or_self,
      Bool.false_eq_true, if_false]
  · intro m s settled
    rw [exec_edgePass, execEdgePass, if_pos]
    simpa only [Bool.or_eq_true, Bool.not_eq_true', decide_eq_true_eq, or_assoc] using settled

/-! ### The gauge and the clocks -/

/-- Settles O9: each command's meaning, a deadline's check by whether a stitch is found. -/
theorem gaugeAndClockAnswer : Obligations.GaugeAndClockAnswer := by
  unfold Obligations.GaugeAndClockAnswer
  refine ⟨fun _ _ _ _ => rfl, ?_, ?_, ?_, ?_, ?_, fun _ _ => rfl, ?_, fun _ _ _ => rfl⟩
  · intro r s
    simp only [exec_gaugeReport, execGaugeReport, State.reportTimely, ite_next, Bool.and_eq_true, decide_eq_true_eq, and_assoc]
  · intro y z s
    simp only [exec_governorCompute, execGovernorCompute, ite_next]
  · intro v s
    simp only [exec_gaLimitWrite, execGaLimitWrite, ite_next]
  · intro m qid idx s x found
    simp only [exec_deadlineMissed, execDeadlineMissed, found] <;> rfl
  · intro m qid idx s early
    have none_found : (s.sched m).stitches.find? (fun x => x.qid = qid.toNat && x.idx = idx.toNat && overdue (s.sched m).row x &&
        4000 ≤ s.relNow m) = none := by
      simp only [List.find?_eq_none, Bool.and_eq_true, decide_eq_true_eq]
      rintro x hx ⟨⟨⟨hq, hi⟩, ho⟩, due⟩
      exact Nat.not_le.mpr (early x hx hq hi ho) due
    simp only [exec_deadlineMissed, execDeadlineMissed, none_found]
  · intro s
    simp only [exec_rowUnaligned, execRowUnaligned, State.holdoverOver, Bool.and_eq_true, decide_eq_true_eq, and_assoc]

/-! ### Time passes (R42, R457) -/

/-- The step of a slew is the slew's sign. -/
theorem State.slewStep_eq (s : State) :
    s.slewStep = if (s.now + 1) % 10000 = 0 ∧ s.hall.slewAt ≠ some s.now then s.hall.slew.sign else 0 := by
  have sign : (if 0 < s.hall.slew then (1 : Int) else if s.hall.slew < 0 then -1 else 0) = s.hall.slew.sign := by
    split
    · rename_i pos
      exact (Int.sign_eq_one_of_pos pos).symm
    · split
      · rename_i neg
        exact (Int.sign_eq_neg_one_of_neg neg).symm
      · rw [show s.hall.slew = 0 by omega, Int.sign_zero]
  simp only [State.slewStep, sign, Bool.and_eq_true, decide_eq_true_eq]

/-- Settles O2: a tick, and the reset that is due by whether one was commanded. -/
theorem emptyQueueLetsTimePass : Obligations.EmptyQueueLetsTimePass := by
  unfold Obligations.EmptyQueueLetsTimePass
  rintro s t u d n empty hd rfl rfl hu
  rw [← s.slewStep_eq] at hd
  have ticks : step s = .next u.dueReset := by
    subst hd hu
    rw [step, empty]
    rfl
  have now : u.now = ((s.now : Int) + 1 + d).toNat := by rw [hu]
  rw [ticks, State.dueReset, ← now]
  refine ⟨fun no_reset => ?_, fun r warm reset => ?_⟩
  · rw [no_reset]
  · rw [reset]

/-! ### Frames: what a command of the Row, the seams, the guests or the host link may change -/

/-- Settles O58: each command's law of Laws/Inv*.lean names exactly the fields that the statement names. -/
theorem rowAndSeamCommandsChangeOnly : Obligations.RowAndSeamCommandsChangeOnly := by
  unfold Obligations.RowAndSeamCommandsChangeOnly
  refine ⟨?_, ⟨?_, ?_⟩, ⟨?_, ?_, ?_, ?_, ?_, ?_, ?_, ?_, ?_⟩, ?_, ?_, ?_, ⟨?_, ?_⟩, ?_, ?_, ?_, ?_, ?_, ⟨?_, ?_, ?_, ?_⟩, ?_,
    ?_, ?_, ⟨?_, ?_, ?_, ?_, ?_, ?_⟩, ?_, ⟨?_, ?_, ?_⟩, ?_, ?_, ?_, ?_, ?_, ⟨?_, ?_, ?_, ?_, ?_⟩, ⟨?_, ?_, ?_, ?_, ?_⟩, ⟨?_,
    ?_, ?_, ?_⟩, ⟨?_, ?_⟩, ?_⟩
  · exact changes_of_inv fun s => execRowTimerFire_inv s
  · exact fun m => changes_of_inv fun s => execLocalEdge_inv m s
  · exact fun m row aligned holdover t => changes_of_inv fun s => execRowEdge_inv m row aligned holdover t s
  · exact fun m => changes_of_inv fun s => execEdgeMissed_inv m s
  · exact fun m row cut eM eRes eBe => changes_of_inv fun s => execGaugeBudget_inv m row cut eM eRes eBe s
  · exact fun m => changes_of_inv fun s => execFloorBudget_inv m s
  · exact fun m => changes_of_inv fun s => execEdgePass_inv m s
  · exact fun m => changes_of_inv fun s => execBodyStart_inv m s
  · exact fun m mw tj => changes_of_inv fun s => execPowerSample_inv m mw tj s
  · exact fun m qid idx => changes_of_inv fun s => execStitchArrival_inv m qid idx s
  · exact fun m => changes_of_inv fun s => execStitchDone_inv m s
  · exact fun m => changes_of_inv fun s => execStitchOverrun_inv m s
  · exact fun m qid idx => changes_of_inv fun s => execDeadlineMissed_inv m qid idx s
  · exact fun r => changes_of_inv fun s => execGaugeReport_inv r s
  · exact fun eYoke eSeams => changes_of_inv fun s => execGovernorCompute_inv eYoke eSeams s
  · exact fun m => changes_of_inv fun s => execGuardStart_inv m s
  · exact fun v => changes_of_inv fun s => execGaLimitWrite_inv v s
  · exact fun m => changes_of_inv fun s => execStitchStart_inv m s
  · exact fun m => changes_of_inv fun s => execStitchHung_inv m s
  · exact fun step => changes_of_inv fun s => execHallTimeStep_inv step s
  · exact changes_of_inv fun s => execRowUnaligned_inv s
  · exact fun src row => changes_of_inv fun s => execLate_inv src row s
  · exact fun die row table => changes_of_inv fun s => execRouteSet_inv die row table s
  · exact fun die row salt ranges => changes_of_inv fun s => execMapSet_inv die row salt ranges s
  · exact fun die row qid mask cls => changes_of_inv fun s => execBindSet_inv die row qid mask cls s
  · exact fun die row m st => changes_of_inv fun s => execPosSet_inv die row m st s
  · exact fun die off data => changes_of_inv fun s => execPatternData_inv die off data s
  · exact fun die cmd => changes_of_inv fun s => execSeqCmd_inv die cmd s
  · exact fun src hop seq => changes_of_inv fun s => execChainAck_inv src hop seq s
  · exact fun src hop f => changes_of_inv fun s => execChainResend_inv src hop f s
  · exact fun seam maskA maskB sbLanes => changes_of_inv fun s => execSeamTrainingDone_inv seam maskA maskB sbLanes s
  · exact fun seam side mask => changes_of_inv fun s => execWidthAdv_inv seam side mask s
  · exact fun seam side width mask => changes_of_inv fun s => execWidthSet_inv seam side width mask s
  · exact fun seam => changes_of_inv fun s => execWidthSetTimeout_inv seam s
  · exact fun seam pass => changes_of_inv fun s => execSeamTestPatternDone_inv seam pass s
  · exact fun die seam mask => changes_of_inv fun s => execSeamState_inv die seam mask s
  · exact fun seam linkDown => changes_of_inv fun s => execSeamFault_inv seam linkDown s
  · exact fun g part block => changes_of_inv fun s => execVspCap_inv g part block s
  · exact fun g => changes_of_inv fun s => execVspTimeout_inv g s
  · exact fun g => changes_of_inv fun s => execGuestLinkUp_inv g s
  · exact fun g crc => changes_of_inv fun s => execVspGrant_inv g crc s
  · exact fun g crc => changes_of_inv fun s => execVspAck_inv g crc s
  · exact fun g r => changes_of_inv fun s => execGuestRequest_inv g r s
  · exact fun write addr size => changes_of_inv fun s => execBar0BadAccess_inv write addr size s
  · exact fun off len rid => changes_of_inv fun s => execBar4Read_inv off len rid s
  · exact fun off data be ep rid => changes_of_inv fun s => execBar4Write_inv off data be ep rid s
  · exact fun off wide v rid => changes_of_inv fun s => execBar4Fetchadd_inv off wide v rid s
  · exact fun off wide v rid => changes_of_inv fun s => execBar4Swap_inv off wide v rid s
  · exact fun off size cmp v rid => changes_of_inv fun s => execBar4Cas_inv off size cmp v rid s
  · exact fun speed width => changes_of_inv fun s => execHostLinkUp_inv speed width s
  · exact fun speed width => changes_of_inv fun s => execLinkRetrain_inv speed width s
  · exact fun qid idx => changes_of_inv fun s => execCompletionTimeout_inv qid idx s
  · exact fun qid idx ok => changes_of_inv fun s => execFlushReadDone_inv qid idx ok s
  · exact changes_of_inv fun s => execPxLostPop_inv s
  · exact fun cause => changes_of_inv fun s => execHostSideReset_inv cause s
  · exact changes_of_inv fun s => execBusMasterEnable_inv s
  · exact changes_of_inv fun s => execD0Return_inv s
  · exact fun vector => changes_of_inv fun s => execMsixUnmask_inv vector s
  · exact fun log2 => changes_of_inv fun s => execResizableBarWrite_inv log2 s
  · exact changes_of_inv fun s => execD3hotEntry_inv s
  · exact changes_of_inv fun s => execMemoryDecodeEnable_inv s

end Sys2Proof.Machine
end

section
/-!
The number formats: the one rounding, the round trip of every floating format, and the fields that the commands of the compute units
may change (O50, O51, O55).
-/

namespace Sys2Proof.Machine

/-! ### The one rounding (R98) -/

/-- What the rounding does with the discarded part: below half of `2 ^ (d + 1)` it falls, above half it rises, and at half it goes to
the even neighbour. -/
theorem rneShift_cases (m d : Nat) :
    (m % 2 ^ (d + 1) < 2 ^ d ∧ rneShift m (d + 1) = m / 2 ^ (d + 1)) ∨
    (2 ^ d < m % 2 ^ (d + 1) ∧ rneShift m (d + 1) = m / 2 ^ (d + 1) + 1) ∨
    (m % 2 ^ (d + 1) = 2 ^ d ∧ rneShift m (d + 1) = m / 2 ^ (d + 1) + m / 2 ^ (d + 1) % 2) := by
  simp only [rneShift, Nat.add_one_ne_zero, if_false, Nat.add_sub_cancel]
  rcases Nat.lt_trichotomy (m % 2 ^ (d + 1)) (2 ^ d) with below | half | above
  · exact .inl ⟨below, if_pos below⟩
  · exact .inr (.inr ⟨half, by simp only [half, Nat.lt_irrefl, if_false]⟩)
  · exact .inr (.inl ⟨above, by rw [if_neg (Nat.lt_asymm above), if_pos above]⟩)

/-- Settles O50, by the discarded part; at exactly half, by the parity of the quotient. -/
theorem roundingIsNearestEven : Obligations.RoundingIsNearestEven := by
  unfold Obligations.RoundingIsNearestEven
  intro m d
  dsimp only
  have parts := Nat.div_add_mod m (2 ^ (d + 1))
  have rest := Nat.mod_lt m (Nat.two_pow_pos (d + 1))
  have goes := rneShift_cases m d
  have twice : 2 ^ (d + 1) = 2 * 2 ^ d := Nat.pow_succ'
  generalize 2 ^ (d + 1) = unit, 2 ^ d = half at *
  generalize m / unit = k, m % unit = r, rneShift m (d + 1) = q at *
  rcases goes with ⟨below, rfl⟩ | ⟨above, rfl⟩ | ⟨rfl, rfl⟩
  · omega
  · rw [Nat.mul_succ]
    omega
  · rcases Nat.mod_two_eq_zero_or_one k with even | odd
    · rw [even, Nat.add_zero]
      omega
    · rw [odd, Nat.mul_succ]
      omega

/-! ### Codes of a floating format (R88 to R91) -/

/-- A format with infinities and NaNs at the exponent of all ones rounds to infinity and has a mantissa bit for its canonical NaN. -/
def Fmt.Shaped (f : Fmt) : Prop := f.nanKind = 1 → f.hasInf = true ∧ 0 < f.mbits

theorem fmtOf_shaped {c : Nat} {f : Fmt} (h : fmtOf c = some f) : f.Shaped := by
  unfold fmtOf at h
  unfold Fmt.Shaped
  split at h <;> cases h <;> decide

theorem Fmt.signBit_eq (f : Fmt) : f.signBit = 2 ^ f.ebits * 2 ^ f.mbits := by
  rw [Fmt.signBit, Nat.pow_add, Nat.mul_comm]

theorem Fmt.signBit_pos (f : Fmt) : 0 < f.signBit := Nat.two_pow_pos _

theorem Fmt.expOnes_succ (f : Fmt) : f.expOnes + 1 = 2 ^ f.ebits := Nat.sub_add_cancel (Nat.two_pow_pos f.ebits)

/-- The magnitudes at the exponent of all ones begin one mantissa's range below the sign bit. -/
theorem Fmt.infCode_add (f : Fmt) : f.infCode + 2 ^ f.mbits = f.signBit := by
  rw [Fmt.infCode, f.signBit_eq, ← f.expOnes_succ, Nat.succ_mul]

/-- A code is its sign put on its magnitude. -/
theorem Fmt.withSign_sign_magnitude {f : Fmt} {code : Nat} (h : code < 2 * f.signBit) :
    f.withSign (decide (code / f.signBit % 2 = 1)) (code % f.signBit) = code := by
  have parts := Nat.mod_add_div code f.signBit
  have sign : code / f.signBit < 2 := Nat.div_lt_of_lt_mul (by rwa [Nat.mul_comm])
  rcases Nat.lt_succ_iff_lt_or_eq.mp sign with positive | negative
  · simpa [Fmt.withSign, Nat.lt_one_iff.mp positive] using parts
  · simpa [Fmt.withSign, negative] using parts

/-- The values that a sign and a magnitude code stand for: an infinity, a NaN, a subnormal number or zero, or a normal number. -/
inductive Fmt.Stands (f : Fmt) (neg : Bool) (mag : Nat) : Num → Prop
  | inf (kind : f.nanKind = 1) (code : mag = f.infCode) : f.Stands neg mag (.inf neg)
  | nan (kind : f.nanKind = 1 ∨ f.nanKind = 2) : f.Stands neg mag .nan
  | subnormal (range : mag < 2 ^ f.mbits) (finite : mag ≤ f.maxCode) : f.Stands neg mag (.fin neg mag (f.emin - f.mbits))
  | normal (ex m : Nat) (field : 0 < ex) (range : m < 2 ^ f.mbits) (code : mag = ex * 2 ^ f.mbits + m) (finite : mag ≤ f.maxCode) :
    f.Stands neg mag (.fin neg (2 ^ f.mbits + m) ((ex : Int) - f.bias - f.mbits))

/-- A magnitude that is no infinity and no NaN is at most the largest finite one (R89). -/
theorem Fmt.le_maxCode {f : Fmt} {mag : Nat} (lt : mag < f.signBit) (notOnes : ¬(f.nanKind = 1 ∧ mag / 2 ^ f.mbits = f.expOnes))
    (notLast : ¬(f.nanKind = 2 ∧ mag = f.signBit - 1)) : mag ≤ f.maxCode := by
  unfold Fmt.maxCode
  split
  · rename_i kind
    have field : mag / 2 ^ f.mbits < f.expOnes + 1 := by
      rw [f.expOnes_succ]
      exact Nat.div_lt_of_lt_mul (by rwa [Nat.mul_comm, ← f.signBit_eq])
    have below : mag / 2 ^ f.mbits < f.expOnes := Nat.lt_of_le_of_ne (Nat.le_of_lt_succ field) fun h => notOnes ⟨kind, h⟩
    exact Nat.le_sub_one_of_lt ((Nat.div_lt_iff_lt_mul (Nat.two_pow_pos _)).mp below)
  · split <;> omega

/-- What a code stands for, said once: every branch of `Fmt.decode`. -/
theorem Fmt.decode_stands (f : Fmt) (code : Nat) :
    f.Stands (decide (code / f.signBit % 2 = 1)) (code % f.signBit) (f.decode code) := by
  have lt := Nat.mod_lt code f.signBit_pos
  have fields := Nat.div_add_mod' (code % f.signBit) (2 ^ f.mbits)
  have range := Nat.mod_lt (code % f.signBit) (Nat.two_pow_pos f.mbits)
  simp only [Fmt.decode, Bool.and_eq_true, decide_eq_true_eq]
  generalize code % f.signBit = mag at *
  split
  · rename_i ones
    split
    · rename_i zero
      exact .inf ones.1 (by rw [Fmt.infCode, ← ones.2, ← Nat.add_zero (_ * _), ← zero, fields])
    · exact .nan (.inl ones.1)
  · rename_i notOnes
    split
    · rename_i last
      exact .nan (.inr last.1)
    · rename_i notLast
      have finite := Fmt.le_maxCode lt notOnes notLast
      split
      · rename_i zero
        have mantissa : mag % 2 ^ f.mbits = mag := by simpa [zero] using fields
        rw [mantissa] at range ⊢
        exact .subnormal range finite
      · rename_i field
        exact .normal _ _ (Nat.pos_of_ne_zero field) range fields.symm finite

/-- The canonical NaN is a NaN (R90). -/
theorem Fmt.decode_nanCode {f : Fmt} (shaped : f.Shaped) (kind : f.nanKind = 1 ∨ f.nanKind = 2) : f.decode f.nanCode = .nan := by
  rcases kind with ieee | last
  · have half : 2 ^ (f.mbits - 1) < 2 ^ f.mbits := Nat.pow_lt_pow_right (by decide) (Nat.sub_lt (shaped ieee).2 Nat.one_pos)
    have code : f.nanCode = f.expOnes * 2 ^ f.mbits + 2 ^ (f.mbits - 1) := by simp [Fmt.nanCode, ieee]
    have mag : f.nanCode % f.signBit = f.nanCode := Nat.mod_eq_of_lt (by rw [code, ← f.infCode_add, Fmt.infCode]; omega)
    have field : f.nanCode / 2 ^ f.mbits = f.expOnes := by
      rw [code, Nat.mul_comm, Nat.mul_add_div (Nat.two_pow_pos _), Nat.div_eq_of_lt half, Nat.add_zero]
    have mantissa : f.nanCode % 2 ^ f.mbits = 2 ^ (f.mbits - 1) := by rw [code, Nat.mul_add_mod', Nat.mod_eq_of_lt half]
    simp [Fmt.decode, ieee, mag, field, mantissa]
  · have code : f.nanCode = f.signBit - 1 := by simp [Fmt.nanCode, last]
    have mag : f.nanCode % f.signBit = f.signBit - 1 := by
      rw [code, Nat.mod_eq_of_lt (Nat.sub_lt f.signBit_pos Nat.one_pos)]
    simp [Fmt.decode, last, mag]

/-! ### The grid of a floating format (R100) -/

/-- A value that lies on the grid is not changed by the rounding. -/
theorem rneAt_self (m : Nat) (e : Int) : rneAt m e e = m := by
  simp [rneAt]

theorem Fmt.gridCode_subnormal {f : Fmt} {m : Nat} (pos : m ≠ 0) (range : m < 2 ^ f.mbits) :
    f.gridCode m (f.emin - f.mbits) = m := by
  have top : max ((Nat.log2 m : Int) + (f.emin - f.mbits)) f.emin = f.emin := by
    have := (Nat.log2_lt pos).mpr range
    omega
  simp [Fmt.gridCode, top, rneAt_self]

theorem Fmt.gridCode_normal {f : Fmt} {ex m : Nat} (field : 0 < ex) (range : m < 2 ^ f.mbits) :
    f.gridCode (2 ^ f.mbits + m) ((ex : Int) - f.bias - f.mbits) = ex * 2 ^ f.mbits + m := by
  have log : Nat.log2 (2 ^ f.mbits + m) = f.mbits :=
    (Nat.log2_eq_iff (by have := Nat.two_pow_pos f.mbits; omega)).mpr ⟨Nat.le_add_right _ _, by rw [Nat.pow_succ]; omega⟩
  have top : max ((f.mbits : Int) + ((ex : Int) - f.bias - f.mbits)) f.emin = (ex : Int) - f.bias := by
    unfold Fmt.emin
    omega
  have steps : ((ex : Int) - f.bias - f.emin).toNat = ex - 1 := by
    unfold Fmt.emin
    omega
  obtain ⟨n, rfl⟩ := Nat.exists_eq_add_of_lt field
  rw [Fmt.gridCode, log, top, rneAt_self, steps, Nat.zero_add, Nat.add_sub_cancel, Nat.succ_mul]
  omega

/-- A non-zero value whose grid code is a finite magnitude of the format rounds to it without a count. -/
theorem Fmt.round_fin_of_gridCode {f : Fmt} {m mag : Nat} {e : Int} (ovf neg : Bool) (nonzero : m ≠ 0) (grid : f.gridCode m e = mag)
    (pos : mag ≠ 0) (finite : mag ≤ f.maxCode) : f.round ovf (.fin neg m e) = (f.withSign neg mag, .none) := by
  simp only [Fmt.round, nonzero, grid, Nat.not_lt.mpr finite, pos, if_false]

/-- What a magnitude stands for rounds to that magnitude again, whatever the overflow rule, unless it is a NaN. -/
theorem Fmt.round_of_stands {f : Fmt} {neg : Bool} {mag : Nat} {x : Num} (shaped : f.Shaped) (ovf : Bool)
    (stands : f.Stands neg mag x) (number : x ≠ .nan) : f.round ovf x = (f.withSign neg mag, .none) := by
  cases stands with
  | inf kind code => simp only [Fmt.round, (shaped kind).1, if_true, code]
  | nan kind => exact absurd rfl number
  | subnormal range finite =>
    by_cases zero : mag = 0
    · simp only [Fmt.round, zero, if_true]
    · exact Fmt.round_fin_of_gridCode ovf neg zero (Fmt.gridCode_subnormal zero range) zero finite
  | normal ex m field range code finite =>
    have unit := Nat.two_pow_pos f.mbits
    have pos : mag ≠ 0 := by
      rw [code]
      exact Nat.ne_of_gt (Nat.add_pos_left (Nat.mul_pos field unit) m)
    exact Fmt.round_fin_of_gridCode ovf neg (Nat.ne_of_gt (Nat.add_pos_left unit m))
      ((Fmt.gridCode_normal field range).trans code.symm) pos finite

/-- A format in which some code stands for a NaN has NaN codes. -/
theorem Fmt.nanKind_of_decode {f : Fmt} {code : Nat} (h : f.decode code = .nan) : f.nanKind = 1 ∨ f.nanKind = 2 := by
  have stands := f.decode_stands code
  rw [h] at stands
  cases stands with
  | nan kind => exact kind

/-- Settles O51: a code is its sign and magnitude, and what these stand for rounds to them again. -/
theorem formatsRoundTrip : Obligations.FormatsRoundTrip := by
  unfold Obligations.FormatsRoundTrip
  intro c f hf ovf code hcode
  have shaped := fmtOf_shaped hf
  refine ⟨fun number => ?_, fun isNan => ?_⟩
  · rw [Fmt.round_of_stands shaped ovf (f.decode_stands code) number, Fmt.withSign_sign_magnitude hcode]
  · have kind := Fmt.nanKind_of_decode isNan
    have hasNan : f.nanKind ≠ 0 := by omega
    exact ⟨by rw [isNan, Fmt.round, if_neg hasNan], Fmt.decode_nanCode shaped kind⟩

/-! ### Frames: what a command of the compute units may change -/

/-- Settles O55: each command's law of Laws/Inv*.lean names exactly the fields that the statement names. -/
theorem engineCommandsChangeOnly : Obligations.EngineCommandsChangeOnly := by
  unfold Obligations.EngineCommandsChangeOnly
  refine ⟨⟨?_, ?_, ?_, ?_, ?_⟩, ⟨?_, ?_, ?_, ?_⟩, ?_, ⟨?_, ?_, ?_, ?_, ?_, ?_, ?_⟩, ⟨?_, ?_⟩, ?_, ⟨?_, ?_, ?_, ?_, ?_, ?_,
    ?_, ?_, ?_, ?_, ?_, ?_, ?_, ?_, ?_, ?_, ?_, ?_, ?_, ?_, ?_, ?_, ?_, ?_, ?_, ?_, ?_, ?_, ?_, ?_⟩, ⟨?_, ?_, ?_, ?_, ?_⟩,
    ?_, ?_, ⟨?_, ?_, ?_⟩⟩
  · exact fun m => changes_of_inv fun s => execMma_inv m s
  · exact fun m => changes_of_inv fun s => execChunkPromotion_inv m s
  · exact fun m => changes_of_inv fun s => execZero_inv m s
  · exact fun m => changes_of_inv fun s => execPromote_inv m s
  · exact fun m => changes_of_inv fun s => execRestore_inv m s
  · exact fun m => changes_of_inv fun s => execDrain_inv m s
  · exact fun m => changes_of_inv fun s => execSave_inv m s
  · exact fun m => changes_of_inv fun s => execSaveCounterAdd_inv m s
  · exact fun m u => changes_of_inv fun s => execArrayDescDone_inv m u s
  · exact fun m set v => changes_of_inv fun s => execMxAccstateWrite_inv m set v s
  · exact fun m => changes_of_inv fun s => execMap_inv m s
  · exact fun m => changes_of_inv fun s => execReduce_inv m s
  · exact fun m => changes_of_inv fun s => execGather_inv m s
  · exact fun m => changes_of_inv fun s => execShuffle_inv m s
  · exact fun m => changes_of_inv fun s => execPack_inv m s
  · exact fun m => changes_of_inv fun s => execUnpack_inv m s
  · exact fun m => changes_of_inv fun s => execPsum_inv m s
  · exact fun m => changes_of_inv fun s => execPsumCounterPoll_inv m s
  · exact fun m => changes_of_inv fun s => execPartialTimeout_inv m s
  · exact fun m => changes_of_inv fun s => execVeDescDone_inv m s
  · exact fun m => changes_of_inv fun s => execLaunch_inv m s
  · exact fun m => changes_of_inv fun s => execBlockStart_inv m s
  · exact fun m g => changes_of_inv fun s => execVif_inv m g s
  · exact fun m g => changes_of_inv fun s => execVelse_inv m g s
  · exact fun m g => changes_of_inv fun s => execVend_inv m g s
  · exact fun m g => changes_of_inv fun s => execVany_inv m g s
  · exact fun m g => changes_of_inv fun s => execVall_inv m g s
  · exact fun m g => changes_of_inv fun s => execVballot_inv m g s
  · exact fun m g => changes_of_inv fun s => execVshfl_inv m g s
  · exact fun m g => changes_of_inv fun s => execVshfli_inv m g s
  · exact fun m g => changes_of_inv fun s => execVbar_inv m g s
  · exact fun m block => changes_of_inv fun s => execVbarRelease_inv m block s
  · exact fun m g => changes_of_inv fun s => execVcbar_inv m g s
  · exact fun m block => changes_of_inv fun s => execVcbarRelease_inv m block s
  · exact fun m g => changes_of_inv fun s => execVexit_inv m g s
  · exact fun m g => changes_of_inv fun s => execVwait_inv m g s
  · exact fun m g => changes_of_inv fun s => execVwaitRecheck_inv m g s
  · exact fun m g => changes_of_inv fun s => execVcvtn_inv m g s
  · exact fun m g => changes_of_inv fun s => execVcvtw_inv m g s
  · exact fun m g => changes_of_inv fun s => execZld_inv m g s
  · exact fun m g => changes_of_inv fun s => execZmma_inv m g s
  · exact fun m g => changes_of_inv fun s => execZzero_inv m g s
  · exact fun m g => changes_of_inv fun s => execNeedleLoad_inv m g s
  · exact fun m g => changes_of_inv fun s => execNeedleLr_inv m g s
  · exact fun m g => changes_of_inv fun s => execNeedleFence_inv m g s
  · exact fun m g => changes_of_inv fun s => execNeedleBranch_inv m g s
  · exact fun m g => changes_of_inv fun s => execNeedleCsrWrite_inv m g s
  · exact fun m g => changes_of_inv fun s => execNeedleEcall_inv m g s
  · exact fun m g => changes_of_inv fun s => execNeedleEbreak_inv m g s
  · exact fun m g => changes_of_inv fun s => execNeedleOtherInstruction_inv m g s
  · exact fun m => changes_of_inv fun s => execLaunchDone_inv m s
  · exact fun m g => changes_of_inv fun s => execVcasW_inv m g s
  · exact fun m g => changes_of_inv fun s => execVcasD_inv m g s
  · exact fun m g => changes_of_inv fun s => execVafaddS_inv m g s
  · exact fun m g => changes_of_inv fun s => execNeedleAmo_inv m g s
  · exact fun m g => changes_of_inv fun s => execVdispA_inv m g s
  · exact fun m g => changes_of_inv fun s => execVdispV_inv m g s
  · exact fun m g => changes_of_inv fun s => execZst_inv m g s
  · exact fun m g => changes_of_inv fun s => execNeedleStore_inv m g s
  · exact fun m g => changes_of_inv fun s => execNeedleSc_inv m g s

end Sys2Proof.Machine
end

section
/-!
The array: how a unit takes its next descriptor, and what the array's commands do (O10).
-/

namespace Sys2Proof.Machine

/-! ### What a unit takes (R136) -/

@[simp] theorem ArrayUnits.unit_product (a : ArrayUnits) : a.unit .product = a.prod := rfl
@[simp] theorem ArrayUnits.unit_drain (a : ArrayUnits) : a.unit .drain = a.drain := rfl

/-- A descriptor that passes its checks runs. Its outcome is named `ran`, so that no proof evaluates what it does. -/
theorem State.startOp_of_ready {s : State} {m : Nat} {u : ArrayUnit} {op : Nat} {j : ArrayJob} (ready : ArrayReady s m u op j)
    {run : ArrayJob → State → ArrayJob × State} {ran : ArrayJob × State} (runs : run j s = ran) :
    s.startOp m u op run = ran.2.takeJob m u j ran.1 := by
  obtain ⟨⟨idle, next, isOp, enabled⟩, passes⟩ := ready
  simp only [State.startOp, idle, next, isOp, enabled, passes, runs, ne_eq, not_true_eq_false, decide_false, Bool.or_self,
    Bool.false_eq_true, if_false]

/-- A descriptor that fails a check takes its status and does not run. -/
theorem State.startOp_of_fails {s : State} {m : Nat} {u : ArrayUnit} {op st : Nat} {j : ArrayJob} (takes : ArrayTakes s m u op j)
    (fails : s.arrayCheck m j.desc = some st) (run : ArrayJob → State → ArrayJob × State) :
    s.startOp m u op run = s.takeJob m u j { j with status := some st } := by
  obtain ⟨idle, next, isOp, enabled⟩ := takes
  simp only [State.startOp, idle, next, isOp, enabled, fails, ne_eq, not_true_eq_false, decide_false, Bool.or_self,
    Bool.false_eq_true, if_false]

/-! ### SAVE and RESTORE by what the drain unit holds (R146, R147) -/

theorem execSave_of_idle {m : Motif} {s : State} (idle : (s.array m).unit .drain = none) :
    execSave m s = .next (s.startOp m .drain 5 fun j s => s.moveSave m j) := by
  rw [ArrayUnits.unit_drain] at idle
  simp only [execSave, idle]

theorem execRestore_of_idle {m : Motif} {s : State} (idle : (s.array m).unit .drain = none) :
    execRestore m s = .next (s.startOp m .drain 6 fun j s => s.moveRestore m j) := by
  rw [ArrayUnits.unit_drain] at idle
  simp only [execRestore, idle]

/-- A SAVE under way, not stalled, whose record is still to be moved, is tried again. -/
theorem execSave_of_underWay {m : Motif} {s : State} {j : ArrayJob} (holds : (s.array m).drain = some j)
    (unstalled : j.stalled = false) (unfinished : j.status = none) (isSave : dw j.desc 0 7 0 = 5) (moves : j.ctrDue = false) :
    execSave m s = .next ((s.moveSave m j).2.putJob m .drain (some (s.moveSave m j).1)) := by
  have tried : (decide (dw j.desc 0 7 0 = 5) && !j.stalled && j.status.isNone && !j.ctrDue) = true := by
    rw [isSave, unstalled, unfinished, moves]
    rfl
  rw [execSave, holds]
  refine (if_pos tried).trans ?_
  cases s.moveSave m j
  rfl

/-- A RESTORE under way, not stalled and not finished, is tried again. -/
theorem execRestore_of_underWay {m : Motif} {s : State} {j : ArrayJob} (holds : (s.array m).drain = some j)
    (unstalled : j.stalled = false) (unfinished : j.status = none) (isRestore : dw j.desc 0 7 0 = 6) :
    execRestore m s = .next ((s.moveRestore m j).2.putJob m .drain (some (s.moveRestore m j).1)) := by
  have tried : (decide (dw j.desc 0 7 0 = 6) && !j.stalled && j.status.isNone) = true := by
    rw [isRestore, unstalled, unfinished]
    rfl
  rw [execRestore, holds]
  refine (if_pos tried).trans ?_
  cases s.moveRestore m j
  rfl

/-! ### Accesses of MX_ACCSTATEs (R134, R152) -/

/-- An access to the word of set `set` has that set first. -/
theorem AccWait.first_of_word (m set : Nat) (inRange : set < 4) (wide : Bool) (v : Option (BitVec 32)) (before : Nat) :
    AccWait.first ⟨mAddr m (0x8010 + 4 * set), wide, v, before⟩ = set := by
  simp only [AccWait.first, mAddr]
  omega

/-- A write to the word of set `set` waits behind an accepted descriptor that names the set, and else is performed. -/
theorem execMxAccstateWrite_eq (m : Motif) (set : Fin 4) (v : BitVec 32) (s : State) :
    execMxAccstateWrite m set v s = .next (
      if (s.array m).earlier set (s.array m).accepted then s.setArray m { s.array m with
        waits := (s.array m).waits ++ [⟨mAddr m (0x8010 + 4 * set), false, some v, (s.array m).accepted⟩] }
      else s.putAccState m set v.toNat) := by
  simp only [execMxAccstateWrite, State.accTry, State.accAccess, AccWait.sets, AccWait.first_of_word m set set.isLt,
    Bool.false_eq_true, if_false, List.any_cons, List.any_nil, Bool.or_false]

/-- Settles O10: the commands that start a descriptor through what a unit takes, the others by what their unit holds. -/
theorem arrayDescriptorsRun : Obligations.ArrayDescriptorsRun := by
  unfold Obligations.ArrayDescriptorsRun
  refine ⟨?_, ?_, ?_, ?_, ?_, ?_, ?_, ?_, ?_, ?_, ?_, ?_, ?_, ?_, ?_⟩
  · intro m s j ready
    simp only [exec_mma, execMma, State.startOp_of_ready ready rfl]
  · intro m s j ready
    simp only [exec_drain, execDrain, State.startOp_of_ready ready rfl]
  · intro m s j ready
    simp only [exec_zero, execZero, State.startOp_of_ready ready rfl]
  · intro m s j ready
    simp only [exec_promote, execPromote, State.startOp_of_ready ready rfl]
  · intro m s j ready
    rw [exec_save, execSave_of_idle ready.1.1, State.startOp_of_ready ready rfl]
  · intro m s j ready
    rw [exec_restore, execRestore_of_idle ready.1.1, State.startOp_of_ready ready rfl]
  · intro m s j st fails
    refine ⟨fun takes => ?_, fun takes => ?_, fun takes => ?_, fun takes => ?_, fun takes => ?_, fun takes => ?_⟩
    · rw [exec_mma, execMma, State.startOp_of_fails takes fails]
    · rw [exec_drain, execDrain, State.startOp_of_fails takes fails]
    · rw [exec_zero, execZero, State.startOp_of_fails takes fails]
    · rw [exec_promote, execPromote, State.startOp_of_fails takes fails]
    · rw [exec_save, execSave_of_idle takes.1, State.startOp_of_fails takes fails]
    · rw [exec_restore, execRestore_of_idle takes.1, State.startOp_of_fails takes fails]
  · intro m s j holds due
    simp only [exec_chunkPromotion, execChunkPromotion, holds, due, if_true]
  · intro m s j holds unstalled unfinished
    exact ⟨fun isSave moves => execSave_of_underWay holds unstalled unfinished isSave moves,
      fun isRestore => execRestore_of_underWay holds unstalled unfinished isRestore⟩
  · intro m s j holds due unstalled answered
    simp only [exec_saveCounterAdd, execSaveCounterAdd, holds, due, unstalled, answered, Bool.not_false, Bool.and_self, if_true]
    rcases s.vaAdd m j.asid 0 (dw j.desc 28 31 0 + dw j.desc 32 15 0 * 2 ^ 32) 1 with ⟨answer, t⟩
    cases answer with
    | ok v ps => rfl
    | fault p c l e pa => rfl
    | wait => rfl
  · intro m s j st holds finished
    simp only [exec_arrayDescDone, execArrayDescDone, ArrayUnits.unit_product, holds, finished, reduceCtorEq, decide_false,
      Bool.false_and, Bool.false_eq_true, if_false]
  · intro m s j st holds finished answered
    simp only [exec_arrayDescDone, execArrayDescDone, ArrayUnits.unit_drain, holds, finished, answered, Bool.and_false,
      Bool.false_eq_true, if_false]
  · intro m u s j st idle next fails
    simp only [exec_arrayDescDone, execArrayDescDone, idle, next, fails]
  · intro m set v s free
    simp only [exec_mxAccstateWrite, execMxAccstateWrite_eq, free, Bool.false_eq_true, if_false, State.putAccState]
  · intro m set v s named
    simp only [exec_mxAccstateWrite, execMxAccstateWrite_eq, named, if_true]

end Sys2Proof.Machine
end

section
/-!
The vector engine: how it takes its next descriptor, and what its commands do (O11).
-/

namespace Sys2Proof.Machine

/-! ### What the engine takes (R161, R187) -/

/-- A head descriptor that fails a check starts with the check's status. -/
theorem State.veStart_of_fails {s : State} {m op st : Nat} {j : VeJob} {js : List VeJob} (takes : VectorTakes s m op j js)
    (fails : s.veCheck m j.desc = some st) :
    s.veStart m op = some ({ j with start := s.now, status := some st }, s.setVec m { s.vec m with queue := js }) := by
  obtain ⟨idle, head, isOp, enabled⟩ := takes
  simp only [State.veStart, idle, head, isOp, enabled, fails, ne_eq, not_true_eq_false, decide_false, Bool.or_self,
    Bool.false_eq_true, if_false]

/-- A head descriptor that passes its checks starts at this instant. -/
theorem State.veStart_of_passes {s : State} {m op : Nat} {j : VeJob} {js : List VeJob} (takes : VectorTakes s m op j js)
    (passes : s.veCheck m j.desc = none) :
    s.veStart m op = some (s.veStarted m j, s.setVec m { s.vec m with queue := js }) := by
  obtain ⟨idle, head, isOp, enabled⟩ := takes
  simp only [State.veStart, State.veStarted, idle, head, isOp, enabled, passes, ne_eq, not_true_eq_false, decide_false,
    Bool.or_self, Bool.false_eq_true, if_false]

/-! ### Lane groups (R158, R161) -/

/-- The lane groups of `j` run where the sets that it reaches are free; where they are not it waits. -/
def State.veRunOrWait (s : State) (m : Nat) (j : VeJob) : State :=
  let r := if s.veTurn m j then State.veGroups m (groupsPerRow j.desc * veRows j.desc + 1) j s else (j, s)
  r.2.putVe m (some r.1)

theorem State.veOperate_of_startsFinished {s t : State} {m op st : Nat} {j : VeJob} (idle : (s.vec m).run = none)
    (starts : s.veStart m op = some (j, t)) (finished : j.status = some st) :
    s.veOperate m op = t.putVe m (some j) := by
  simp only [State.veOperate, idle, starts, finished, Option.isNone_some, Bool.false_and, Bool.false_eq_true, if_false]

theorem State.veOperate_of_starts {s t : State} {m op : Nat} {j : VeJob} (idle : (s.vec m).run = none)
    (starts : s.veStart m op = some (j, t)) (unfinished : j.status = none) (unstalled : j.stalled = false) :
    s.veOperate m op = t.veRunOrWait m j := by
  simp only [State.veOperate, State.veRunOrWait, idle, starts, unfinished, unstalled, Option.isNone_none, Bool.not_false,
    Bool.true_and]

theorem State.veOperate_of_underWay {s : State} {m op : Nat} {j : VeJob} (holds : (s.vec m).run = some j)
    (isOp : veOp j.desc = op) (unfinished : j.status = none) (unstalled : j.stalled = false) :
    s.veOperate m op = s.veRunOrWait m j := by
  simp only [State.veOperate, State.veRunOrWait, holds, isOp, unfinished, unstalled, Option.isNone_none, Bool.not_false,
    decide_true, Bool.and_self, Bool.true_and, if_true]

/-- A command that operates the engine on `op` starts, runs and goes on with that operation's descriptors. -/
theorem runsVector_of_veOperate {op : Nat} {c : Motif → Instr}
    (operates : ∀ (m : Motif) (s : State), exec (c m) s = .next (s.veOperate m op)) : RunsVector op c := by
  refine ⟨?_, ?_, ?_⟩
  · intro m s j js st takes fails
    rw [operates, State.veOperate_of_startsFinished takes.1 (State.veStart_of_fails takes fails) rfl]
  · intro m s j js takes passes unfinished unstalled
    rw [operates, State.veOperate_of_starts takes.1 (State.veStart_of_passes takes passes) unfinished unstalled]
    rfl
  · intro m s k holds isOp unfinished unstalled
    rw [operates, State.veOperate_of_underWay holds isOp unfinished unstalled]
    rfl

/-! ### PSUM (R181 to R186) -/

/-- The PSUM that an idle engine starts is put in the engine: no lane group runs before its counter is reached. -/
theorem execPsum_of_starts {m : Motif} {s t : State} {j : VeJob} (idle : (s.vec m).run = none)
    (starts : s.veStart m 0x16 = some (j, t)) : execPsum m s = .next (t.putVe m (some j)) := by
  simp only [execPsum, idle, starts]

/-- A PSUM whose counter has been reached sums where the sets that it reaches are free. -/
theorem execPsum_of_reached {m : Motif} {s : State} {j : VeJob} (holds : (s.vec m).run = some j) (isPsum : veOp j.desc = 0x16)
    (unfinished : j.status = none) (unstalled : j.stalled = false) (reached : 1 ≤ j.part) :
    execPsum m s = .next (if s.veTurn m j then (s.psumRun m j).2.putVe m (some (s.psumRun m j).1) else s) := by
  simp only [execPsum, holds, isPsum, unfinished, unstalled, reached, Option.isNone_none, Bool.not_false, decide_true,
    Bool.and_self, Bool.true_and]
  split <;> rfl

theorem execPsumCounterPoll_of_waiting {m : Motif} {s : State} {j : VeJob} (holds : (s.vec m).run = some j)
    (isPsum : veOp j.desc = 0x16) (unfinished : j.status = none) (unstalled : j.stalled = false) (waiting : j.part = 0) :
    execPsumCounterPoll m s = .next ((s.psumPoll m j).2.putVe m (some (s.psumPoll m j).1)) := by
  simp only [execPsumCounterPoll, holds, isPsum, unfinished, unstalled, waiting, Option.isNone_none, Bool.not_false, decide_true,
    Bool.and_self, if_true]

/-- PARTIAL_TIMEOUT reads the counter of a waiting PSUM from WAIT_US after its start on, and does nothing before. -/
theorem execPartialTimeout_of_waiting {m : Motif} {s : State} {j : VeJob} (holds : (s.vec m).run = some j)
    (isPsum : veOp j.desc = 0x16) (unfinished : j.status = none) (unstalled : j.stalled = false) (waiting : j.part = 0) :
    execPartialTimeout m s = .next (
      if psumWaitUs j.desc * 1000 ≤ s.now - j.start then (s.psumPoll m j).2.putVe m (some (s.psumPoll m j).1) else s) := by
  simp only [execPartialTimeout, holds, isPsum, unfinished, unstalled, waiting, Option.isNone_none, Bool.not_false, decide_true,
    Bool.and_self, Bool.true_and, State.psumLate, decide_eq_true_eq]
  split <;> rfl

/-! ### Completion (R188) -/

/-- A finished descriptor completes once its writes to other nodes are answered. -/
theorem execVeDescDone_of_finished {m : Motif} {s : State} {j : VeJob} {st : Nat} (holds : (s.vec m).run = some j)
    (finished : j.status = some st) :
    execVeDescDone m s = .next (if s.owes (unitAgent m 1) 0 then s else (s.completeVe m j st).putVe m none) := by
  simp only [execVeDescDone, holds, finished]
  cases s.owes (unitAgent m 1) 0 with
  | true => rfl
  | false => rfl

/-- The head of an idle engine whose OP names no operation completes with BAD_DESCRIPTOR. -/
theorem execVeDescDone_of_noOperation {m : Motif} {s : State} {j : VeJob} {js : List VeJob} (idle : (s.vec m).run = none)
    (head : (s.vec m).queue = j :: js) (noOp : veOp j.desc < 0x10 ∨ 0x16 < veOp j.desc) :
    execVeDescDone m s = .next
      (((s.setVec m { s.vec m with queue := js }).completeVe m j St.BAD_DESCRIPTOR).showVec m) := by
  simp only [execVeDescDone, idle, head, noOp, if_true]

/-- Settles O11: MAP to UNPACK through how they operate the engine, the others by what the engine holds. -/
theorem vectorDescriptorsRun : Obligations.VectorDescriptorsRun := by
  unfold Obligations.VectorDescriptorsRun
  refine ⟨runsVector_of_veOperate exec_map, runsVector_of_veOperate exec_reduce, runsVector_of_veOperate exec_gather,
    runsVector_of_veOperate exec_shuffle, runsVector_of_veOperate exec_pack, runsVector_of_veOperate exec_unpack,
    ?_, ?_, ?_, ?_, ?_⟩
  · intro m s j js takes
    cases checked : s.veCheck m j.desc with
    | some st => exact execPsum_of_starts takes.1 (State.veStart_of_fails takes checked)
    | none => exact execPsum_of_starts takes.1 (State.veStart_of_passes takes checked)
  · intro m s j holds isPsum unfinished unstalled reached
    exact execPsum_of_reached holds isPsum unfinished unstalled reached
  · intro m s j holds isPsum unfinished unstalled waiting
    exact ⟨execPsumCounterPoll_of_waiting holds isPsum unfinished unstalled waiting,
      execPartialTimeout_of_waiting holds isPsum unfinished unstalled waiting⟩
  · intro m s j st holds finished
    exact execVeDescDone_of_finished holds finished
  · intro m s j js idle head noOp
    exact execVeDescDone_of_noOperation idle head noOp

end Sys2Proof.Machine
end

section
/-!
Every step completes and keeps the queue's rest and the memories' canonical form (O3); a memory reads back what was written to it (O48).
-/

namespace Sys2Proof.Machine

/-! ### Steps -/

/-- A command completes, leaves the queue alone, and keeps canonical memories canonical. -/
theorem exec_completes (c : Instr) (s : State) :
    ∃ t, exec c s = .next t ∧ t.pending = s.pending ∧ (s.memWf = true → t.memWf = true) := by
  obtain ⟨t, ht, kept⟩ := (exec_keeps c s (.refl _ s) (inSet_refl _)).of
  exact ⟨t, ht, kept.pending, kept.memWf⟩

/-- Settles O3, by the queue: an empty one lets time pass, else its front command runs on the queue's rest. -/
theorem everyStepKeepsQueueAndMemories : Obligations.EveryStepKeepsQueueAndMemories := by
  unfold Obligations.EveryStepKeepsQueueAndMemories
  intro s canonical
  cases queue : s.pending with
  | nil =>
    have kept : Inv 17592186044414 s s.tick := State.tick_inv s (.refl _ s) (inSet_refl _)
    exact ⟨s.tick, by rw [step, queue], kept.pending.trans queue, kept.memWf canonical⟩
  | cons c cs =>
    obtain ⟨t, ht, rest, keeps⟩ := exec_completes c { s with pending := cs }
    exact ⟨t, by rw [step, queue]; exact ht, rest, keeps canonical⟩

/-! ### Bytes of a memory (R205) -/

/-- A byte outside those written reads as before. -/
theorem get_memWrite_outside (m : List Host.Cell) {a b : Nat} (bs : List Byte) (outside : b < a ∨ a + bs.length ≤ b) :
    Sparse.get 0 (memWrite m a bs) b = Sparse.get 0 m b := by
  induction bs generalizing m a with
  | nil => rfl
  | cons v bs ih =>
    rw [List.length_cons] at outside
    rw [memWrite, ih _ (by omega), Sparse.get_set_ne 0 m v (by omega)]

/-- Bytes written read back from the same address. -/
theorem memRead_memWrite (m : List Host.Cell) (a : Nat) (bs : List Byte) : memRead (memWrite m a bs) a bs.length = bs := by
  induction bs generalizing m a with
  | nil => rfl
  | cons v bs ih =>
    rw [memWrite, List.length_cons, memRead, ih, get_memWrite_outside _ bs (.inl a.lt_succ_self), Sparse.get_set_same]

/-! ### Local memory (R279) -/

/-- A write to a motif's local memory writes that memory's cells. -/
@[simp] theorem State.localMem_localWrite_same (s : State) (m a : Nat) (bs : List Byte) :
    (s.localWrite m a bs).localMem m = memWrite (s.localMem m) a bs :=
  Sparse.get_set_same [] s.locals m _

/-- It leaves every other motif's. -/
theorem State.localMem_localWrite_ne (s : State) {j m : Nat} (a : Nat) (bs : List Byte) (other : j ≠ m) :
    (s.localWrite m a bs).localMem j = s.localMem j :=
  Sparse.get_set_ne [] s.locals _ other

/-- Settles O48: the bytes of a memory by induction on those written, and a motif's local memory is one. -/
theorem memoryReadsBack : Obligations.MemoryReadsBack := by
  unfold Obligations.MemoryReadsBack
  refine ⟨fun m a bs => ⟨memRead_memWrite m a bs, fun b => get_memWrite_outside m bs, memWrite_wf m a bs⟩,
    fun s m a bs => ⟨?_, fun b outside => ?_, fun j => s.localMem_localWrite_ne a bs⟩⟩
  · rw [State.localRead, State.localMem_localWrite_same, memRead_memWrite]
  · simp only [State.localRead, State.localMem_localWrite_same, memRead, get_memWrite_outside _ bs outside]

end Sys2Proof.Machine
end

section
/-!
The needles: what a command does for the group that its needle picks, said once for all the commands that issue instructions, and what
the launcher's and the needles' commands do (O12 to O15).
-/

namespace Sys2Proof.Machine

/-! ### The launcher (R197 to R201) -/

/-- Settles O12: LAUNCH by what its launcher holds, the others by whether a launch is active. -/
theorem launchesStartAndComplete : Obligations.LaunchesStartAndComplete := by
  unfold Obligations.LaunchesStartAndComplete
  refine ⟨?_, ?_, ?_, ?_, ?_⟩
  · intro m s j js idle head
    simp only [exec_launch, execLaunch, idle, head, ite_next, ite_not]
  · intro m s nothing
    rw [exec_launch, execLaunch]
    split
    · rename_i idle head
      simp only [idle, head, ne_eq, not_true_eq_false, reduceCtorEq, or_self] at nothing
    · rfl
  · intro m s l active
    simp only [exec_blockStart, execBlockStart, active, ite_next]
  · intro m s l active
    simp only [exec_launchDone, execLaunchDone, active, ite_next]
  · intro m s idle
    simp only [exec_blockStart, execBlockStart, exec_launchDone, execLaunchDone, idle, and_self]

/-! ### Commands that issue a group's instruction (R193, R203, R204, R225)

The laws below find the effect `run` in the command's meaning, so where an obligation's clause cites one, `( … :)` elaborates it before
it meets the clause. -/

section
variable {p : Nat → Bool} {c : Motif → GroupSlot → Instr} {m : Motif} {g : GroupSlot} {s t : State} {x : Group} {l : LaunchJob}
  {w : Nat}

/-- A command of a slot's instruction does that instruction's effect for a picked group with active threads. -/
theorem exec_issues {i : Instr} {even : Bool} {run : Group → LaunchJob → Nat → State → State}
    (h : exec i s = .next (s.issue m g p even run)) (issues : Issues s t m g x l w) (hw : p w = true) :
    exec i s = .next (run x l w t) := by
  rw [h, issue_issues issues hw]

/-- VELSE, VEND and the collectives do theirs with no active thread too. -/
theorem exec_evenIdle {i : Instr} {run : Group → LaunchJob → Nat → State → State}
    (h : exec i s = .next (s.issue m g p true run)) (picked : Picked s t m g x l w) (hw : p w = true) :
    exec i s = .next (run x l w (t.bump (C.TG_CNT_GROUP_INSTR m) 1)) := by
  rw [h, State.issue, issueCore_picked picked hw, if_neg fun idle => Bool.noConfusion idle.2]

/-- A collective does its effect where every thread present is active. -/
theorem exec_issuesTogether {i : Instr} {run : Group → LaunchJob → Nat → State → State}
    (h : exec i s = .next (s.issueCollective m g p run)) (issues : IssuesTogether s t m g x l w) (hw : p w = true) :
    exec i s = .next (run x l w t) := by
  rw [exec_issues h issues.1 hw, State.collective, if_neg (not_not_intro issues.2)]

/-- With no active thread a group only goes on. -/
theorem passesIdle_of_issue {run : Motif → GroupSlot → Group → LaunchJob → Nat → State → State}
    (h : ∀ m g s, exec (c m g) s = .next (s.issue m g p false (run m g))) : PassesIdle p c := by
  intro m g s t x l w picked _ hw idle
  rw [h, State.issue, issueCore_picked picked hw, if_pos ⟨idle, rfl⟩]

/-- A collective faults where AM differs from PM. -/
theorem meetsOnly_of_issueCollective {run : Motif → GroupSlot → Group → LaunchJob → Nat → State → State}
    (h : ∀ m g s, exec (c m g) s = .next (s.issueCollective m g p (run m g))) : MeetsOnly p c := by
  intro m g s t x l w picked _ hw apart
  rw [exec_evenIdle (h m g s) picked hw, State.collective, if_pos apart]

variable {begins : Motif → GroupSlot → Group → LaunchJob → Nat → State → Option MemOp × State}
  {pursue : Motif → GroupSlot → Group → LaunchJob → MemOp → State → State}

/-- A memory instruction with no active thread only goes on. -/
theorem passesIdle_of_memInstr
    (h : ∀ m g s, exec (c m g) s = .next (s.memInstr m g p false (begins m g) (pursue m g))) : PassesIdle p c := by
  intro m g s t x l w picked free hw idle
  rw [h, memInstr_picked picked free hw, if_pos ⟨idle, rfl⟩]

/-- A collective memory instruction faults where AM differs from PM. -/
theorem meetsOnly_of_memInstr
    (h : ∀ m g s, exec (c m g) s = .next (s.memInstr m g p true (begins m g) (pursue m g))) : MeetsOnly p c := by
  intro m g s t x l w picked free hw apart
  rw [h, memInstr_picked picked free hw, if_neg fun idle => Bool.noConfusion idle.2, if_pos ⟨rfl, apart⟩]

end

/-! ### Divergence, votes and shuffles -/

/-- Settles O13: each command by the effect that its slot runs, VELSE and VEND by the mask stack. -/
theorem divergenceAndVotes : Obligations.DivergenceAndVotes := by
  unfold Obligations.DivergenceAndVotes
  refine ⟨?_, fun m g s u x l w picked => ⟨?_, ?_⟩, ?_, ?_, ?_, ?_, ?_, ?_,
    passesIdle_of_issue exec_vif, passesIdle_of_issue exec_vany, passesIdle_of_issue exec_vall, passesIdle_of_issue exec_vballot,
    passesIdle_of_issue exec_vshfl, passesIdle_of_issue exec_vshfli, passesIdle_of_issue exec_needleFence⟩
  · exact fun m g s t x l w issues hw => (exec_issues (exec_vif m g s) issues hw :)
  · exact fun hw => (exec_evenIdle (exec_velse m g s) picked hw :)
  · exact fun hw => (exec_evenIdle (exec_vend m g s) picked hw :)
  · exact fun m g s t x l w issues hw => (exec_issues (exec_vany m g s) issues hw :)
  · exact fun m g s t x l w issues hw => (exec_issues (exec_vall m g s) issues hw :)
  · exact fun m g s t x l w issues hw => (exec_issues (exec_vballot m g s) issues hw :)
  · exact fun m g s t x l w issues hw => (exec_issues (exec_vshfl m g s) issues hw :)
  · exact fun m g s t x l w issues hw => (exec_issues (exec_vshfli m g s) issues hw :)
  · exact fun m g s t x l w issues hw => (exec_issues (exec_needleFence m g s) issues hw :)

/-! ### Barriers, exits and the engines -/

/-- Settles O14: each command of a slot by the effect that its slot runs, the releases by what has arrived. -/
theorem barriersExitsAndEngines : Obligations.BarriersExitsAndEngines := by
  unfold Obligations.BarriersExitsAndEngines
  refine ⟨fun m g s t x l w issues => ⟨?_, ?_, ?_, ?_, ?_⟩, meetsOnly_of_issueCollective exec_vbar,
    meetsOnly_of_issueCollective exec_vcbar, meetsOnly_of_issueCollective exec_vexit, meetsOnly_of_issueCollective exec_zzero,
    meetsOnly_of_issueCollective exec_zmma, ?_, ?_, ?_, ?_, ?_, ?_, ?_, ?_, passesIdle_of_issue exec_vdispA,
    passesIdle_of_issue exec_vdispV, passesIdle_of_issue exec_vwait, passesIdle_of_issue exec_vcvtn,
    passesIdle_of_issue exec_vcvtw⟩
  · exact fun hw => (exec_issuesTogether (exec_vbar m g s) issues hw :)
  · exact fun hw => (exec_issuesTogether (exec_vcbar m g s) issues hw :)
  · exact fun hw => (exec_issuesTogether (exec_vexit m g s) issues hw :)
  · exact fun hw => (exec_issuesTogether (exec_zzero m g s) issues hw :)
  · intro hw
    rw [exec_issuesTogether (exec_zmma m g s) issues hw]
  · intro m b s
    simp only [exec_vbarRelease, execVbarRelease, ite_next, Bool.and_eq_true, Bool.not_eq_true', List.isEmpty_eq_false_iff,
      decide_eq_true_eq, and_assoc]
  · intro m b s l active
    simp only [exec_vcbarRelease, execVcbarRelease, active, ite_next, Bool.and_eq_true, Bool.not_eq_true',
      List.isEmpty_eq_false_iff, List.all_eq_true, decide_eq_true_eq, and_assoc]
  · intro m g s t x l w issues hw
    rw [exec_issues (exec_vdispA m g s) issues hw]
    cases dispAddr x w 64 <;> rfl
  · intro m g s t x l w issues hw
    rw [exec_issues (exec_vdispV m g s) issues hw]
    cases dispAddr x w 256 <;> rfl
  · intro m g s t x l w issues hw
    rw [exec_issues (exec_vwait m g s) issues hw]
    simp only [Bool.or_eq_true, decide_eq_true_eq]
  · intro m g s x a v held waits
    simp only [exec_vwaitRecheck, execVwaitRecheck, held, waits, ite_next, Bool.and_eq_true, Bool.not_eq_true', decide_eq_true_eq]
  · intro m g s t x l w issues hw
    rw [exec_issues (exec_vcvtn m g s) issues hw]
    simp only [Bool.or_eq_true, Bool.not_eq_true']
  · intro m g s t x l w issues hw
    rw [exec_issues (exec_vcvtw m g s) issues hw]
    simp only [Bool.or_eq_true, Bool.not_eq_true']

/-! ### Loads in progress (R208) -/

/-- A turn at the accumulator planes keeps the instruction's word. -/
theorem State.planeTurn_word (s : State) (m p : Nat) (op : MemOp) : (s.planeTurn m p op).2.word = op.word := by
  simp only [State.planeTurn]
  split
  · rfl
  · split <;> rfl

/-- So does a load's request of one line. -/
theorem State.lineLoad_word {s t : State} {m slot n : Nat} {op op' : MemOp} {a : Acc} {e : LineGot (List Byte)}
    (got : s.lineLoad m slot op a n = (e, op', t)) : op'.word = op.word := by
  suffices word : (s.lineLoad m slot op a n).2.1.word = op.word by rwa [got] at word
  simp only [State.lineLoad]
  cases a.spot with
  | loc m' p =>
    have word := s.planeTurn_word m' p op
    dsimp only
    split
    · split <;> rename_i turn <;> rwa [turn] at word
    · rfl
  | aperture pa => dsimp only; split <;> rfl
  | stacked pa =>
    dsimp only
    split
    · split <;> rfl
    · rfl
  | remote node pa => rfl

/-- What an access loaded changes the rows alone of the instruction in progress. -/
@[simp] theorem putLoaded_word (x : Group) (op : MemOp) (key : Nat) (bs : List Byte) :
    (putLoaded x op key bs).2.word = op.word := by
  unfold putLoaded
  split <;> rfl

/-- So does what a line's accesses loaded. -/
theorem foldl_putLoaded_word (got : List (Acc × List Byte)) (r : Group × MemOp) :
    (got.foldl (fun r y => putLoaded r.1 r.2 y.1.key y.2) r).2.word = r.2.word := by
  induction got generalizing r with
  | nil => rfl
  | cons y got ih => rw [List.foldl_cons, ih, putLoaded_word]

/-- Loads that are pursued keep the instruction's word. -/
theorem State.doLoads_word (m slot n k : Nat) (accs : List Acc) (x : Group) (op : MemOp) (left : List Acc) (s : State) :
    (State.doLoads m slot n k accs x op left s).2.2.1.word = op.word := by
  fun_induction State.doLoads m slot n k accs x op left s with
  | case1 | case2 | case5 | case6 => rfl
  | case3 _ _ _ _ _ _ _ _ _ _ _ _ _ _ ih => exact ih.trans (foldl_putLoaded_word ..)
  | case4 _ _ _ _ _ _ _ _ _ _ _ _ ih => exact ih
  | case7 _ _ _ _ _ _ _ _ _ _ _ got _ ih => exact ih.trans ((putLoaded_word ..).trans (lineLoad_word got))
  | case8 _ _ _ _ _ _ _ _ _ _ got ih => exact ih.trans (lineLoad_word got)
  | case9 _ _ _ _ _ _ _ _ _ _ _ got => exact lineLoad_word got
  | case10 _ _ _ _ _ _ _ _ _ _ _ got => exact lineLoad_word got

/-! ### Memory, control and the rest -/

/-- A command whose meaning is `State.memInstr` runs its memory instructions as `Pursues` says, where `all` says whether it is a
collective. -/
theorem pursues_of_memInstr_of_eq {p : Nat → Bool} {together : Bool} {all : Prop} (ofAll : (together = true) = all)
    {c : Motif → GroupSlot → Instr} {begins : Motif → GroupSlot → Group → LaunchJob → Nat → State → Option MemOp × State}
    {pursue : Motif → GroupSlot → Group → LaunchJob → MemOp → State → State}
    (h : ∀ m g s, exec (c m g) s = .next (s.memInstr m g p together (begins m g) (pursue m g))) : Pursues p all c begins pursue :=
  ofAll ▸ pursues_of_memInstr h

/-- A command whose meaning is `State.atomicInstr` runs the atomics it accepts. -/
theorem runsAtomics_of_atomicInstr {p : Nat → Bool} {c : Motif → GroupSlot → Instr}
    (h : ∀ m g s, exec (c m g) s = .next (s.atomicInstr m g p)) : RunsAtomics p c :=
  pursues_of_memInstr_of_eq Bool.false_eq_true h

/-- Settles O15: the memory instructions through how they are begun and pursued, the others by the effect that their slot runs. -/
theorem needleMemoryAndControl : Obligations.NeedleMemoryAndControl := by
  unfold Obligations.NeedleMemoryAndControl
  refine ⟨?_, ?_, runsAtomics_of_atomicInstr exec_needleAmo, runsAtomics_of_atomicInstr exec_vcasW,
    runsAtomics_of_atomicInstr exec_vcasD, runsAtomics_of_atomicInstr exec_vafaddS, ?_, ?_, ?_, ?_,
    meetsOnly_of_memInstr exec_zld, meetsOnly_of_memInstr exec_zst, passesIdle_of_memInstr exec_needleLoad,
    passesIdle_of_memInstr exec_needleStore, passesIdle_of_memInstr exec_needleAmo, passesIdle_of_memInstr exec_vcasW,
    passesIdle_of_memInstr exec_vcasD, passesIdle_of_memInstr exec_vafaddS, passesIdle_of_memInstr exec_needleLr,
    passesIdle_of_memInstr exec_needleSc, ?_, ?_, ?_, ?_, ?_, passesIdle_of_issue exec_needleBranch,
    passesIdle_of_issue exec_needleCsrWrite, passesIdle_of_issue exec_needleEcall, passesIdle_of_issue exec_needleEbreak,
    passesIdle_of_issue exec_needleOtherInstruction⟩
  · exact pursues_of_memInstr_of_eq Bool.false_eq_true exec_needleLoad
  · exact pursues_of_memInstr_of_eq Bool.false_eq_true exec_needleStore
  · exact pursues_of_memInstr_of_eq Bool.false_eq_true exec_needleLr
  · exact pursues_of_memInstr_of_eq Bool.false_eq_true exec_needleSc
  · refine pursues_of_memInstr_of_eq (eq_self true) fun m g s => ?_
    simp only [exec_zld, execZld, State.doLoads_word]
  · refine pursues_of_memInstr_of_eq (eq_self true) fun m g s => ?_
    simp only [exec_zst, execZst, ite_eq_false, Bool.not_eq_false']
  · exact fun m g s t x l w issues hw => (exec_issues (exec_needleBranch m g s) issues hw :)
  · exact fun m g s t x l w issues hw => (exec_issues (exec_needleCsrWrite m g s) issues hw :)
  · exact fun m g s t x l w issues hw => (exec_issues (exec_needleEcall m g s) issues hw :)
  · exact fun m g s t x l w issues hw => (exec_issues (exec_needleEbreak m g s) issues hw :)
  · intro m g s t x l w issues unowned
    have accepted : (!hasOwnCommand w) = true := by rw [unowned, Bool.not_false]
    exact (exec_issues (exec_needleOtherInstruction m g s) issues accepted :)

end Sys2Proof.Machine
end

section
/-!
Streams and the skein engine: what each operation may make of the stream that it names, and what the engine's commands do
(O20, O43, O44).
-/

namespace Sys2Proof.Machine

/-! ### Streams (R258 to R263) -/

/-- What writes only the fields that an event, a count or a memory access may write leaves every stream: the skein engine is none of
them. -/
theorem Inv.stream_eq {s t : State} (h : Inv 13196221202492 s t) : t.stream = s.stream := by
  funext k
  rw [State.stream, State.stream, h.sk_eq rfl]

/-- The streams after a write depend on the streams before it alone. -/
theorem State.stream_setStream_of_eq {s t : State} (same : t.stream = s.stream) (k : Nat) (x : Stream) :
    (t.setStream k x).stream = (s.setStream k x).stream := by
  funext j
  by_cases named : j = k
  · rw [named, State.stream_setStream, State.stream_setStream]
  · rw [t.stream_setStream_ne named, s.stream_setStream_ne named, same]

/-- Of two writes of a stream the second stands. -/
theorem State.stream_setStream_setStream (s : State) (k : Nat) (x y : Stream) :
    ((s.setStream k x).setStream k y).stream = (s.setStream k y).stream := by
  funext j
  by_cases named : j = k
  · rw [named, State.stream_setStream, State.stream_setStream]
  · rw [State.stream_setStream_ne _ named, State.stream_setStream_ne _ named, State.stream_setStream_ne _ named]

/-- A stream written as it stands changes nothing. -/
theorem State.stream_setStream_self (s : State) (k : Nat) : (s.setStream k (s.stream k)).stream = s.stream := by
  funext j
  by_cases named : j = k
  · rw [named, State.stream_setStream]
  · rw [s.stream_setStream_ne named]

@[simp] theorem State.stream_bump (s : State) (c : Cnt) (n : Nat) : (s.bump c n).stream = s.stream :=
  (State.bump_inv s c n (.refl _ s) (inSet_refl _)).stream_eq

@[simp] theorem State.stream_setFld (s : State) (f : Fld) (v : Nat) : (s.setFld f v).stream = s.stream := rfl

@[simp] theorem State.stream_raise (s : State) (e : EvKind) (d : Detail) : (s.raise e d).stream = s.stream :=
  (State.raise_inv s e d (.refl _ s) (inSet_refl _)).stream_eq

@[simp] theorem State.stream_putFooter (s : State) (c next k j gen : Nat) : (s.putFooter c next k j gen).stream = s.stream :=
  (State.putFooter_inv s c next k j gen (.refl _ s) (inSet_refl _)).stream_eq

/-- A fold of what leaves the streams leaves them. -/
theorem stream_foldl {α : Type} {f : State → α → State} (leaves : ∀ s a, (f s a).stream = s.stream) (l : List α) (s : State) :
    (l.foldl f s).stream = s.stream := by
  induction l generalizing s with
  | nil => rfl
  | cons a l ih => rw [List.foldl_cons, ih, leaves]

theorem State.stream_takeCells (s : State) (n : Nat) : (s.takeCells n).2.stream = s.stream :=
  (State.takeCells_inv s n (.refl _ s) (inSet_trans rfl (inSet_refl _))).of.stream_eq

theorem State.stream_followLinks (s : State) (k gen n c j : Nat) : (State.followLinks k gen n c j s).2.stream = s.stream :=
  (State.followLinks_inv k gen n c j s (.refl _ s) (inSet_refl _)).of.stream_eq

theorem State.stream_cellsBetween (s : State) (k : Nat) (x : Stream) (lo hi : Nat) :
    (s.cellsBetween k x lo hi).2.stream = s.stream :=
  (State.cellsBetween_inv s k x lo hi (.refl _ s) (inSet_refl _)).of.stream_eq

theorem State.stream_of_followLinks_ite {s t : State} {c : Prop} [Decidable c] {k gen n a j : Nat} {cs : Option (List Nat)}
    (found : (if c then (some [], s) else State.followLinks k gen n a j s) = (cs, t)) : t.stream = s.stream := by
  split at found
  · rw [(Prod.mk.inj found).2]
  · rw [← s.stream_followLinks k gen n a j, found]

theorem State.stream_of_cellsBetween_ite {s t : State} {c : Prop} [Decidable c] {k lo hi : Nat} {x : Stream}
    {cs : Option (List Nat)} (found : (if c then s.cellsBetween k x lo hi else (some [], s)) = (cs, t)) : t.stream = s.stream := by
  split at found
  · rw [← s.stream_cellsBetween k x lo hi, found]
  · rw [(Prod.mk.inj found).2]

theorem State.stream_breakStream (s : State) (k : Nat) :
    (s.breakStream k).stream = (s.setStream k { s.stream k with st := .broken }).stream := by
  simp only [State.breakStream, State.stream_raise, State.stream_setFld]

theorem State.stream_dropCells (s : State) (k n : Nat) :
    (s.dropCells k n).stream = (s.setStream k { s.stream k with cells := (s.stream k).cells.drop n }).stream := by
  simp only [State.dropCells, State.stream_bump]

/-- What is then written of the stream stands. -/
theorem State.stream_setStream_dropCells (s : State) (k n : Nat) (y : Stream) :
    ((s.dropCells k n).setStream k y).stream = (s.setStream k y).stream :=
  (State.stream_setStream_of_eq (s.stream_dropCells k n) k y).trans (s.stream_setStream_setStream k _ y)

theorem State.stream_dropCells_same (s : State) (k n : Nat) :
    (s.dropCells k n).stream k = { s.stream k with cells := (s.stream k).cells.drop n } := by
  rw [State.stream_dropCells, State.stream_setStream]

/-- As many cells are taken as are asked for. -/
theorem State.length_takeCells (s : State) (n : Nat) : (s.takeCells n).1.length = n := by
  induction n with
  | zero => rfl
  | succ n ih => simp [State.takeCells, ih]

/-- What an operation `op` may make of the stream `x` that it names (R262, R263): one that is refused or meets a broken link changes at
most its state and its OVERRUN. -/
inductive StreamStep (x : Stream) : Nat → Stream → Prop
  | fails {op : Nat} (st : StreamState) (overrun : Bool) : StreamStep x op { x with st, overrun }
  | opens (owner gen nplanes planeBytes limit resv tpc : Nat) (closed : x.st = .closed) :
    StreamStep x 0x40 { Stream.init with st := .opened, owner, gen, nplanes, planeBytes, limit, resv, tpc }
  | appends (n : Nat) (new : List Nat) (room : x.tail + n ≤ x.limit)
    (taken : new.length = (x.tail + n - 1) / x.tpc + 1 - x.past) :
    StreamStep x 0x41 { x with cells := x.cells ++ new, tail := x.tail + n }
  | reads (n : Nat) (written : n ≤ x.tail - x.rd) : StreamStep x 0x42 { x with rd := x.rd + n }
  | marks : StreamStep x 0x43 { x with mark := x.rd }
  | rewinds : StreamStep x 0x44 { x with rd := x.mark }
  | releases (p n : Nat) (held : x.rel ≤ p) (read : p ≤ x.rd) :
    StreamStep x 0x45 { x with cells := x.cells.drop n, rel := p, mark := max x.mark p }
  | retracts (n : Nat) (held : n ≤ x.tail - x.rel) :
    StreamStep x 0x46 { x with tail := x.tail - n, rd := min x.rd (x.tail - n), mark := min x.mark (x.tail - n) }
  | closes {op : Nat} (shown : Published) (isClose : op < 0x40 ∨ 0x46 < op) :
    StreamStep x op { x with cells := [], st := .closed, resv := 0, shown }

/-- From `s` to `t` the streams change as operation `op` of stream `k` may change them. -/
def StepsStream (op k : Nat) (s t : State) : Prop :=
  ∃ y, StreamStep (s.stream k) op y ∧ t.stream = (s.setStream k y).stream

/-- An operation that changes no stream is a step of every one. -/
theorem stepsStream_of_eq {op k : Nat} {s t : State} (h : t.stream = s.stream) : StepsStream op k s t :=
  ⟨s.stream k, .fails (s.stream k).st (s.stream k).overrun, by rw [h, State.stream_setStream_self]⟩

theorem stepsStream_breakStream {op k : Nat} {s t : State} (h : t.stream = s.stream) : StepsStream op k s (t.breakStream k) :=
  ⟨_, .fails .broken (s.stream k).overrun, by rw [State.stream_breakStream, h, State.stream_setStream_of_eq h]⟩

theorem State.skOpen_steps (s : State) (d asid : Nat) : StepsStream 0x40 (skStream d) s (s.skOpen d asid).2 := by
  simp only [State.skOpen]
  split
  · exact stepsStream_of_eq rfl
  · rename_i closed
    split
    · exact stepsStream_of_eq rfl
    · exact ⟨_, .opens _ _ _ _ _ _ _ (Decidable.not_not.mp closed), rfl⟩

/-- An APPEND that completes lengthens its stream by the cells that its last slot needs; one that does not leaves the stream its
tokens and cells. -/
theorem State.skAppend_stream {s : State} {d k n : Nat} {x : Stream} (named : skStream d = k) (count : skN d = n)
    (held : s.stream k = x) :
    ((s.skAppend d).1.status = St.OK ∧ ∃ new, new.length = (x.tail + n - 1) / x.tpc + 1 - x.past ∧ x.tail + n ≤ x.limit ∧
      (s.skAppend d).2.stream = (s.setStream k { x with cells := x.cells ++ new, tail := x.tail + n }).stream) ∨
    ((s.skAppend d).1.status ≠ St.OK ∧ ∃ st overrun,
      (s.skAppend d).2.stream = (s.setStream k { x with st, overrun }).stream) := by
  subst held
  simp only [State.skAppend, named, count]
  generalize skMaxExt d = me
  split
  · refine .inr ⟨(by decide : St.SKEIN_RANGE ≠ St.OK), (s.stream k).st, (s.stream k).overrun, (s.stream_setStream_self k).symm⟩
  · rename_i inRange
    split
    · refine .inr ⟨(by decide : St.SKEIN_FULL ≠ St.OK), (s.stream k).st, true, ?_⟩
      rw [State.stream_bump, State.stream_setFld]
    · split
      · rename_i t broken
        refine .inr ⟨(by decide : St.SKEIN_CORRUPT ≠ St.OK), .broken, (s.stream k).overrun, ?_⟩
        have kept := State.stream_of_cellsBetween_ite broken
        rw [State.stream_breakStream, kept, State.stream_setStream_of_eq kept]
      · rename_i old t found
        simp only [Bool.or_eq_true, decide_eq_true_eq, not_or, Nat.not_lt] at inRange
        refine .inl ⟨rfl, _, State.length_takeCells t _, inRange.1.2, ?_⟩
        rw [State.stream_bump]
        refine State.stream_setStream_of_eq ?_ ..
        rw [stream_foldl fun _ _ => State.stream_putFooter ..]
        split <;> simp only [State.stream_putFooter, State.stream_takeCells, State.stream_of_cellsBetween_ite found]

theorem State.skAppend_steps (s : State) (d : Nat) : StepsStream 0x41 (skStream d) s (s.skAppend d).2 := by
  rcases State.skAppend_stream (s := s) (d := d) rfl rfl rfl with ⟨_, new, taken, room, streams⟩ | ⟨_, st, overrun, streams⟩
  · exact ⟨_, .appends _ new room taken, streams⟩
  · exact ⟨_, .fails st overrun, streams⟩

theorem State.skRead_steps (s : State) (d : Nat) : StepsStream 0x42 (skStream d) s (s.skRead d).2 := by
  simp only [State.skRead]
  generalize skStream d = k, skN d = n
  generalize (if skMaxExt d = 0 then 0
    else (s.stream k).tpc - (s.stream k).rd % (s.stream k).tpc + (skMaxExt d - 1) * (s.stream k).tpc) = cap
  split
  · exact stepsStream_of_eq rfl
  · split
    · exact stepsStream_of_eq rfl
    · split
      · rename_i t broken
        exact stepsStream_breakStream (by rw [← s.stream_cellsBetween k (s.stream k), broken])
      · rename_i cs t found
        refine ⟨_, .reads (min (min n _) cap) (Nat.le_trans (Nat.min_le_left ..) (Nat.min_le_right ..)),
          State.stream_setStream_of_eq ?_ ..⟩
        rw [← s.stream_cellsBetween k (s.stream k), found]

theorem State.skMark_steps (s : State) (d : Nat) : StepsStream 0x43 (skStream d) s (s.skMark d).2 :=
  ⟨_, .marks, rfl⟩

theorem State.skRewind_steps (s : State) (d : Nat) : StepsStream 0x44 (skStream d) s (s.skRewind d).2 :=
  ⟨_, .rewinds, rfl⟩

theorem State.skRelease_steps (s : State) (d : Nat) : StepsStream 0x45 (skStream d) s (s.skRelease d).2 := by
  simp only [State.skRelease]
  generalize skStream d = k, skN d = p
  split
  · exact stepsStream_of_eq rfl
  · rename_i inRange
    split
    · rename_i t broken
      exact stepsStream_breakStream (State.stream_of_followLinks_ite broken)
    · rename_i cs t found
      simp only [Bool.or_eq_true, decide_eq_true_eq, not_or, Nat.not_lt] at inRange
      refine ⟨_, .releases p (p / (s.stream k).tpc - (s.stream k).first) inRange.1 inRange.2, ?_⟩
      have kept := State.stream_of_followLinks_ite found
      rw [State.stream_setStream_dropCells, State.stream_setStream_of_eq kept, State.stream_dropCells_same, kept]

theorem State.skRetract_steps (s : State) (d : Nat) : StepsStream 0x46 (skStream d) s (s.skRetract d).2 := by
  simp only [State.skRetract]
  split
  · exact stepsStream_of_eq rfl
  · rename_i inRange
    simp only [Bool.or_eq_true, decide_eq_true_eq, not_or, Nat.not_lt] at inRange
    exact ⟨_, .retracts _ inRange.2, rfl⟩

theorem State.skClose_steps (s : State) (d : Nat) {op : Nat} (isClose : op < 0x40 ∨ 0x46 < op) :
    StepsStream op (skStream d) s (s.skClose d).2 := by
  refine ⟨_, .closes ⟨0, 0, 0, 0, 0⟩ isClose, ?_⟩
  rw [State.skClose, State.stream_setStream_dropCells, State.stream_dropCells_same, List.drop_length]

/-- Every operation changes at most the stream that it names, and that one as its kind may. -/
theorem State.skRun_steps (s : State) (d asid : Nat) : StepsStream (skOp d) (skStream d) s (s.skRun d asid).2 := by
  simp only [State.skRun]
  generalize op : skOp d = o
  split
  · rename_i isOpen
    exact isOpen ▸ s.skOpen_steps d asid
  · rename_i notOpen
    split
    · exact stepsStream_of_eq rfl
    · split
      · exact stepsStream_of_eq rfl
      · split
        · exact s.skAppend_steps d
        · exact s.skRead_steps d
        · exact s.skMark_steps d
        · exact s.skRewind_steps d
        · exact s.skRelease_steps d
        · exact s.skRetract_steps d
        · rename_i append read mark rewind release retract
          simp only [imp_false] at append read mark rewind release retract
          exact s.skClose_steps d (by omega)

/-- A stream's positions keep their order. -/
theorem StreamStep.ordered {x y : Stream} {op : Nat} (step : StreamStep x op y) (h : Ordered x) : Ordered y := by
  obtain ⟨hmark, hrd, htail, hlimit⟩ := h
  cases step <;> simp only [Ordered, Stream.init] <;> omega

/-- Settles O44: the stream named keeps its order by each operation, and the others stand. -/
theorem streamPositionsStayInOrder : Obligations.StreamPositionsStayInOrder := by
  unfold Obligations.StreamPositionsStayInOrder
  intro s d asid ordered
  obtain ⟨y, step, streams⟩ := s.skRun_steps d asid
  refine ⟨fun k => ?_, fun k other => by rw [streams, s.stream_setStream_ne other]⟩
  rw [streams]
  by_cases named : k = skStream d
  · rw [named, State.stream_setStream]
    exact step.ordered (ordered _)
  · rw [s.stream_setStream_ne named]
    exact ordered k

/-- Outside RELEASE and CLOSE a stream keeps its cells, in order, and only APPEND puts new ones behind them. -/
theorem StreamStep.cells_eq_append {x y : Stream} {op : Nat} (step : StreamStep x op y) (empty : x.st = .closed → x.cells = [])
    (lo : 0x40 ≤ op) (hi : op ≤ 0x46) (notRelease : op ≠ 0x45) :
    ∃ new, y.cells = x.cells ++ new ∧ (op ≠ 0x41 → new = []) := by
  cases step with
  | opens _ _ _ _ _ _ _ closed => exact ⟨[], by rw [empty closed]; rfl, fun _ => rfl⟩
  | appends _ new => exact ⟨new, rfl, fun other => absurd rfl other⟩
  | releases => exact absurd rfl notRelease
  | closes _ isClose => omega
  | _ => exact ⟨[], (List.append_nil _).symm, fun _ => rfl⟩

/-- Settles O43: an operation by what it may make of the stream that it names, APPEND's completion by the cells it takes. -/
theorem skeinCellsAreFreedOnlyByReleaseAndClose : Obligations.SkeinCellsAreFreedOnlyByReleaseAndClose := by
  unfold Obligations.SkeinCellsAreFreedOnlyByReleaseAndClose
  refine ⟨fun s d asid k empty lo hi notRelease => ?_, fun s d ok => ?_⟩
  · obtain ⟨y, step, streams⟩ := s.skRun_steps d asid
    rw [streams]
    by_cases named : k = skStream d
    · rw [named, State.stream_setStream]
      exact step.cells_eq_append (empty _) lo hi notRelease
    · exact ⟨[], by rw [s.stream_setStream_ne named, List.append_nil], fun _ => rfl⟩
  · rcases State.skAppend_stream (s := s) (d := d) rfl rfl rfl with ⟨_, new, taken, _, streams⟩ | ⟨failed, _⟩
    · exact ⟨new, by rw [streams, State.stream_setStream], taken⟩
    · exact absurd ok failed

/-! ### The skein engine's commands (R262, R263, R269) -/

theorem State.skStep_of_skNext {s : State} {op : Nat} {o : SkOp} (next : s.skNext op = some o) : s.skStep op = s.skExec o := by
  simp only [State.skStep, next]

theorem State.skStep_of_no_skNext {s : State} {op : Nat} (none_next : s.skNext op = none) : s.skStep op = s := by
  simp only [State.skStep, none_next]

/-- One Gray-code step reaches the true value or goes one toward it. -/
theorem grayStep_near (shown truth : Nat) :
    grayStep shown truth = truth ∨ grayStep shown truth = shown + 1 ∨ grayStep shown truth + 1 = shown := by
  unfold grayStep
  split
  · exact .inr (.inl rfl)
  · split <;> omega

/-- Settles O20: the engine's commands by the next operation of their code, an operation on an open stream of the caller's by its
code. -/
theorem skeinOperationsRun : Obligations.SkeinOperationsRun := by
  unfold Obligations.SkeinOperationsRun
  refine ⟨fun s => ⟨rfl, rfl, rfl, rfl, rfl, rfl, rfl, rfl, fun op o => ⟨State.skStep_of_skNext, State.skStep_of_no_skNext⟩⟩,
    fun s d asid opened owned => ?_, fun _ _ => rfl, fun w k s notFu opened => ?_, grayStep_near, fun _ _ => rfl⟩
  · refine ⟨fun op => ?_, fun op => ?_, fun op pos within => ?_, fun op => ?_⟩
    · simp [State.skRun, opened, owned, op, State.skMark]
    · simp [State.skRun, opened, owned, op, State.skRewind]
    · simp [State.skRun, opened, owned, op, State.skRetract, Nat.ne_of_gt pos, Nat.not_lt.mpr within]
    · simp [State.skRun, opened, owned, op, State.skClose]
  · cases w with
    | fu => exact absurd rfl notFu
    | _ => simp only [exec_countPublication, execCountPublication, opened, reduceCtorEq, if_false]

end Sys2Proof.Machine
end

section
/-!
The queue engine: doorbells, fetches, admin commands, a queue's commands, lists and movers, and the fields that these and the skein
engine's commands may change (O16 to O19, O46, O56).
-/

namespace Sys2Proof.Machine

/-! ### Consumer indices (R255) -/

/-- The entries from `c` up to the entry that lies `j` behind it, round a ring of indices, are `j`. -/
theorem idxSub_add_mod {c j : Nat} (hc : c < idxMod) (hj : j < idxMod) : idxSub ((c + j) % idxMod) c = j := by
  simp only [idxSub, idxMod] at *
  omega

/-- An index is any other and the entries between them, round the ring. -/
theorem add_idxSub_mod {c n : Nat} (hc : c < idxMod) (hn : n < idxMod) : (c + idxSub n c) % idxMod = n := by
  simp only [idxSub, idxMod] at *
  omega

theorem idxSub_lt (a b : Nat) : idxSub a b < idxMod := Nat.mod_lt _ (by decide)

/-- Settles O46: the entries between two indices are what the second lies behind the first. -/
theorem ringIndexStaysBetween : Obligations.RingIndexStaysBetween := by
  unfold Obligations.RingIndexStaysBetween
  refine ⟨fun c w n hc _ hn => ?_, fun v s dropped => ?_, fun v s dropped => ?_⟩
  · rw [ciAccepted, decide_eq_true_eq]
    constructor
    · exact fun within => ⟨idxSub n c, within, (add_idxSub_mod hc hn).symm⟩
    · rintro ⟨j, within, rfl⟩
      exact Nat.le_trans (Nat.le_of_eq (idxSub_add_mod hc (Nat.lt_of_le_of_lt within (idxSub_lt w c)))) within
  · simp only [exec_evRingCiWrite, execEvRingCiWrite, State.evCi, dropped, Bool.false_eq_true, if_false]
  · simp only [exec_tuFringCiWrite, execTuFringCiWrite, dropped, Bool.false_eq_true, if_false]

/-! ### Doorbells and fetches (R239, R247 to R249, R255, R471) -/

/-- A choice told by what passes instead of by what fails. -/
theorem ite_eq_of_iff_not {α : Type} {fails passes : Prop} [Decidable fails] [Decidable passes] (h : passes ↔ ¬fails) (x y : α) :
    (if fails then x else y) = if passes then y else x := by
  simp only [h, ite_not]

/-- Settles O16: a doorbell by its checks, a fetch by what the head holds, a ring's register by what it accepts. -/
theorem doorbellsAndFetches : Obligations.DoorbellsAndFetches := by
  unfold Obligations.DoorbellsAndFetches
  refine ⟨?_, ?_, ?_, ?_, ?_, ?_, ?_, ?_⟩
  · intro off size v rid s
    rw [exec_hostDoorbell, execHostDoorbell]
    cases s.barOn with
    | false => rfl
    | true =>
      cases s.ridOk rid.toNat with
      | false => rfl
      | true =>
        refine (ite_next ..).trans (congrArg Host.Outcome.next (ite_eq_of_iff_not ?_ ..))
        simp only [Bool.or_eq_true, decide_eq_true_eq, not_or, Decidable.not_not, and_assoc]
  · intro off v s
    simp only [exec_nodeCoreDoorbell, execNodeCoreDoorbell, ite_next, Bool.and_eq_true, decide_eq_true_eq, and_assoc]
    refine congrArg Host.Outcome.next (ite_congr rfl (fun _ => ite_eq_of_iff_not ?_ ..) fun _ => rfl)
    simp only [Bool.or_eq_true, decide_eq_true_eq, not_or, Decidable.not_not, and_assoc]
  · intro qid data poisoned s t b ps fetching fresh head
    simp only [exec_commandFetch, execCommandFetch, fetching, fresh, head, ite_next, Bool.not_true, Option.isSome_none, Bool.or_self,
      Bool.false_eq_true, if_false]
  · intro qid data s t at' b ps missed fetching due head
    simp only [exec_seqReread, execSeqReread, missed, fetching, head, Nat.not_lt.mpr due, ite_next, Bool.not_true, decide_false,
      Bool.or_self, Bool.false_eq_true, if_false, Nat.succ_le_succ_iff]
  · intro qid s at' late
    simp only [exec_fetchReissue, execFetchReissue, late, ite_next, Bool.and_eq_true, decide_eq_true_eq, and_assoc]
  · intro v s
    simp only [exec_qeCqDb, execQeCqDb, ite_next, Bool.and_eq_true]
  · intro v s
    simp only [exec_qeAdminSqWrite, execQeAdminSqWrite, ite_next, Bool.and_eq_true, Bool.not_eq_true', decide_eq_true_eq,
      decide_eq_false_iff_not]
  · intro v s
    simp only [exec_qeAdminCqWrite, execQeAdminCqWrite, ite_next, Bool.and_eq_true, Bool.not_eq_true', decide_eq_true_eq,
      decide_eq_false_iff_not]

/-! ### Admin commands (R240 to R242) -/

/-- An admin command whose opcode stands next has its effect `t` where nothing outside its fields is set and its rules are kept, and
completes with BAD_COMMAND else. -/
theorem State.admin_eq_ite {s t : State} {c : QCmd} {opc : Nat} {fields : List (Nat × Nat)} {run : QCmd → State → Option State}
    {breaks ok : Prop} [Decidable breaks] [Decidable ok] (next : s.nextCmd 0 = some c) (isOp : c.opc = opc)
    (runs : run c s = if breaks then none else some t)
    (rules : ok ↔ onlyFields c.bytes (headFields ++ fields) = true ∧ ¬breaks) :
    s.admin opc fields run = if ok then t else s.complete 0 c St.BAD_COMMAND 0 0 := by
  simp only [State.admin, next, isOp, ne_eq, not_true_eq_false, if_false, rules]
  cases onlyFields c.bytes (headFields ++ fields) with
  | false => rfl
  | true =>
    rw [runs]
    by_cases broken : breaks
    · simp only [broken, not_true_eq_false, and_false, Bool.not_true, Bool.false_eq_true, if_true, if_false]
    · simp only [broken, not_false_eq_true, and_true, Bool.not_true, Bool.false_eq_true, if_true, if_false]

/-- Settles O17: each command's rules are those of its fields and those that its meaning checks. -/
theorem adminCommandsRun : Obligations.AdminCommandsRun := by
  unfold Obligations.AdminCommandsRun
  refine ⟨?_, ?_, ?_, ?_, ?_, ?_, ?_, ?_⟩
  · intro s c next isOp
    refine congrArg Host.Outcome.next (State.admin_eq_ite next isOp rfl ?_)
    simp only [Bool.or_eq_true, Bool.not_eq_true', decide_eq_true_eq, not_or, Nat.not_lt, Nat.not_le, Bool.not_eq_true,
      Bool.not_eq_false, and_assoc, ne_eq]
  · intro s c next isOp
    refine congrArg Host.Outcome.next (State.admin_eq_ite next isOp rfl ?_)
    simp only [Bool.or_eq_true, Bool.not_eq_true', decide_eq_true_eq, not_or, Nat.not_lt, Nat.not_le, Bool.not_eq_false,
      and_assoc, ne_eq, Decidable.not_not]
  · intro s c next isOp
    refine congrArg Host.Outcome.next (State.admin_eq_ite next isOp rfl ?_)
    simp only [Bool.or_eq_true, Bool.not_eq_true', decide_eq_true_eq, or_assoc, Bool.not_eq_false]
  · intro qid s
    simp only [exec_stopSqDone, execStopSqDone, ← ite_next, Bool.and_eq_true, decide_eq_true_eq, List.all_eq_true]
    refine ite_congr rfl (fun _ => ?_) fun _ => rfl
    generalize List.find? _ _ = waiting
    cases waiting <;> rfl
  · intro s c next isOp
    refine congrArg Host.Outcome.next (State.admin_eq_ite next isOp rfl ?_)
    simp only [ne_eq, Decidable.not_not]
  · intro s c next isOp
    refine congrArg Host.Outcome.next (State.admin_eq_ite next isOp rfl ?_)
    simp only [Bool.or_eq_true, Bool.not_eq_true', decide_eq_true_eq, not_or, Bool.not_eq_false, and_assoc, List.any_eq_true,
      ne_eq, Bool.and_eq_true, not_exists, not_and, Decidable.not_not]
  · intro s c next isOp
    refine congrArg Host.Outcome.next (State.admin_eq_ite next isOp rfl ?_)
    simp only [Bool.or_eq_true, decide_eq_true_eq, not_or, ne_eq]
  · intro s c cs row queue binding
    simp only [exec_bindSqDone, execBindSqDone, queue, List.findSome?_cons, binding, ite_next]

/-! ### Queue commands (R245, R250 to R252, R266, R420 to R422) -/

theorem toNat_ne_zero {n : Nat} {q : BitVec n} (named : q ≠ 0) : q.toNat ≠ 0 := fun zero => named (BitVec.eq_of_toNat_eq zero)

/-- A command that is picked runs where its parameters keep their rules. -/
theorem State.ioCmd_of_pick {s : State} {qid : BitVec 20} {opc : Nat} {c : QCmd} (named : qid ≠ 0)
    (picks : s.pick qid.toNat opc = some c) (run : QCmd → State → State) :
    s.ioCmd qid.toNat opc run = if cmdOk c = false then s.complete qid.toNat c St.BAD_COMMAND 0 0 else run c s := by
  simp only [State.ioCmd, picks, toNat_ne_zero named, if_false, ite_eq_false]

/-- Settles O18: each command by the command of its queue that it starts or goes on with. -/
theorem queueCommandsRun : Obligations.QueueCommandsRun := by
  unfold Obligations.QueueCommandsRun
  refine ⟨?_, ?_, ?_, ?_, ?_, ?_, ?_, ?_, ?_, ?_, ?_, ?_, ?_⟩
  · intro qid s c named next isOp
    simp only [exec_nop, execNop, next, isOp, named, ne_eq, not_false_eq_true, decide_true, Bool.and_self, if_true]
  · intro qid s c named next isOp
    simp only [exec_stitch, execStitch, next, isOp, named, ite_next, ne_eq, not_true_eq_false, decide_false, Bool.or_self,
      Bool.false_eq_true, if_false, Bool.not_eq_true', ← ite_eq_false]
  · intro qid s c splits alive running room
    have live : (decide ((s.queue qid.toNat).state = .active) || decide ((s.queue qid.toNat).state = .paused)) = true := by
      simpa only [Bool.or_eq_true, decide_eq_true_eq] using running
    simp only [exec_stitchDispatch, execStitchDispatch, splits, alive, room, live, ite_next, Bool.not_true,
      Bool.or_self, Bool.false_eq_true, if_false, Bool.not_eq_true']
    refine congrArg Host.Outcome.next (ite_congr rfl (fun _ => rfl) fun _ => ite_eq_of_iff_not ?_ ..)
    simp only [Bool.or_eq_true, Bool.not_eq_true', List.isEmpty_iff, not_or, ne_eq, Bool.not_eq_false, List.all_eq_true]
  · intro qid idx s c n got found stitched alive
    simp only [exec_stitchCommandDone, execStitchCommandDone, found, stitched, alive, ite_next, Bool.false_or, decide_eq_true_eq,
      ← Nat.not_le, ite_not]
  · intro qid s c named next isOp
    simp only [exec_skein, execSkein, next, isOp, named, ite_next, ne_eq, not_true_eq_false, decide_false, Bool.or_self,
      Bool.false_eq_true, if_false, Bool.not_eq_true']
  · intro qid s c named picks unflushed
    simp only [exec_writeInline, execWriteInline, unflushed]
    exact congrArg Host.Outcome.next (State.ioCmd_of_pick named picks _)
  · intro qid s c flushing
    simp only [exec_writeInline, execWriteInline, flushing, ite_next]
  · exact fun qid s c named picks => congrArg Host.Outcome.next (State.ioCmd_of_pick named picks _)
  · exact fun qid s c named picks => congrArg Host.Outcome.next (State.ioCmd_of_pick named picks _)
  · intro qid s c holding alive
    simp only [exec_waitSatisfied, execWaitSatisfied, holding, alive, Bool.false_eq_true, if_false]
    rfl
  · intro qid s c named picks none_copies
    simp only [exec_copy, execCopy, none_copies, State.ioCmd_of_pick named picks]
  · intro qid s c done page last w copies run alive
    simp only [exec_copy, execCopy, copies, run, alive, Bool.false_eq_true, if_false]
  · intro qid idx data o s c done page last w found run
    simp only [exec_hostReadCompletion, execHostReadCompletion, found, run]
    cases o <;> rfl

/-! ### Movers of pages (R361 to R363) -/

/-- The command that moves pages goes on with its next leaf, by the command that drives its opcode and ADV code. -/
theorem State.mover_of_moves {s : State} {k opc : Nat} {c : QCmd} {x : Moved} {want : Bool} (moves : Moves s k opc c x want)
    {adv : Nat → Bool} (drives : adv (c.f 28 1 0) = true) (step : QCmd → Moved → Bool → State → State) :
    s.mover k opc adv step = step c x want s := by
  obtain ⟨found, run, isOp, alive⟩ := moves
  simp only [State.mover, found, run, Moved.run, isOp, drives, alive, decide_true, Bool.not_false, Bool.and_self, if_true]

/-- Where none moves pages, the queue's next command of the opcode and ADV code starts. -/
theorem State.mover_of_next {s : State} {qid : BitVec 20} {opc : Nat} {c : QCmd} (named : qid ≠ 0)
    (idle : (s.queue qid.toNat).cmds.find? QCmd.movesPages = none) (next : s.nextCmd qid.toNat = some c) (isOp : c.opc = opc)
    {adv : Nat → Bool} (drives : adv (c.f 28 1 0) = true) (step : QCmd → Moved → Bool → State → State) :
    s.mover qid.toNat opc adv step = s.moverStart qid.toNat c := by
  simp only [State.mover, idle, next, isOp, drives, toNat_ne_zero named, ne_eq, not_false_eq_true, decide_true, Bool.and_self,
    if_true]

/-- Settles O19: an item by its kind, a mover by whether a command moves pages. -/
theorem listsAndMoversRun : Obligations.ListsAndMoversRun := by
  unfold Obligations.ListsAndMoversRun
  refine ⟨?_, ?_, ?_, ?_, ?_, ?_⟩
  · intro m s t a d running good going within enabled read
    simp only [exec_dlistItemIssue, execDlistItemIssue, running, good, going, read, enabled, Nat.not_le.mpr within, ite_next,
      Option.isSome_none, decide_false, ne_eq, not_true_eq_false, Bool.or_self, Bool.false_eq_true, if_false]
    cases itemKind (d % 256) with
    | array => simp only [← Nat.not_le, ite_not]
    | vector =>
      rcases t.listRead m a 256 with ⟨got, u⟩
      cases got with
      | none => simp only [ite_next]
      | some d => simp only [ite_next]
    | _ => rfl
  · intro qid data ok s c x want moves
    rw [exec_prefetch, execPrefetch, State.mover_of_moves (adv := fun _ => true) moves rfl]
    simp only [Bool.and_eq_true, Bool.not_eq_true']
  · exact fun qid ok s c x want moves adv => congrArg Host.Outcome.next (State.mover_of_moves moves (decide_eq_true adv) _)
  · exact fun qid s c x want moves adv => congrArg Host.Outcome.next (State.mover_of_moves moves (decide_eq_true adv) _)
  · exact fun qid s c x want moves adv => congrArg Host.Outcome.next (State.mover_of_moves moves (decide_eq_true adv) _)
  · intro qid s c named idle next
    refine ⟨fun isOp data ok => ?_, fun isOp adv ok => ?_, fun isOp adv => ?_, fun isOp adv => ?_⟩
    · exact congrArg Host.Outcome.next (State.mover_of_next named idle next isOp rfl _)
    · exact congrArg Host.Outcome.next (State.mover_of_next named idle next isOp (decide_eq_true adv) _)
    · exact congrArg Host.Outcome.next (State.mover_of_next named idle next isOp (decide_eq_true adv) _)
    · exact congrArg Host.Outcome.next (State.mover_of_next named idle next isOp (decide_eq_true adv) _)

/-! ### Frames: what a command of the queues, lists, movers and skeins may change -/

/-- Settles O56: each command's law of Laws/Inv*.lean names exactly the fields that the statement names. -/
theorem queueAndSkeinCommandsChangeOnly : Obligations.QueueAndSkeinCommandsChangeOnly := by
  unfold Obligations.QueueAndSkeinCommandsChangeOnly
  refine ⟨⟨?_, ?_, ?_, ?_, ?_, ?_, ?_, ?_, ?_, ?_, ?_, ?_, ?_, ?_, ?_, ?_, ?_, ?_, ?_, ?_, ?_, ?_, ?_⟩, ?_, ?_, ?_, ⟨?_, ?_,
    ?_⟩, ?_, ⟨?_, ?_⟩, ⟨?_, ?_, ?_, ?_, ?_, ?_, ?_, ?_⟩, ?_, ?_, ?_⟩
  · exact fun off size v rid => changes_of_inv fun s => execHostDoorbell_inv off size v rid s
  · exact fun off v => changes_of_inv fun s => execNodeCoreDoorbell_inv off v s
  · exact fun qid data poisoned => changes_of_inv fun s => execCommandFetch_inv qid data poisoned s
  · exact fun qid data => changes_of_inv fun s => execSeqReread_inv qid data s
  · exact changes_of_inv fun s => execCreateCq_inv s
  · exact changes_of_inv fun s => execCreateSq_inv s
  · exact changes_of_inv fun s => execStopSq_inv s
  · exact fun qid => changes_of_inv fun s => execStopSqDone_inv qid s
  · exact changes_of_inv fun s => execDeleteSq_inv s
  · exact changes_of_inv fun s => execDeleteCq_inv s
  · exact changes_of_inv fun s => execBindSqDone_inv s
  · exact fun qid => changes_of_inv fun s => execNop_inv qid s
  · exact fun qid => changes_of_inv fun s => execStitch_inv qid s
  · exact fun qid => changes_of_inv fun s => execStitchDispatch_inv qid s
  · exact fun qid idx => changes_of_inv fun s => execStitchCommandDone_inv qid idx s
  · exact fun qid => changes_of_inv fun s => execCopy_inv qid s
  · exact fun qid => changes_of_inv fun s => execWait_inv qid s
  · exact fun qid => changes_of_inv fun s => execWaitSatisfied_inv qid s
  · exact fun qid data ok => changes_of_inv fun s => execPrefetch_inv qid data ok s
  · exact fun qid ok => changes_of_inv fun s => execAdviseEvict_inv qid ok s
  · exact fun qid => changes_of_inv fun s => execAdviseDrop_inv qid s
  · exact fun qid => changes_of_inv fun s => execAdviseWarm_inv qid s
  · exact fun v => changes_of_inv fun s => execQeCqDb_inv v s
  · exact fun qid => changes_of_inv fun s => execFetchReissue_inv qid s
  · exact changes_of_inv fun s => execBindSq_inv s
  · exact fun m => changes_of_inv fun s => execDlistItemIssue_inv m s
  · exact fun qid => changes_of_inv fun s => execWriteInline_inv qid s
  · exact fun qid idx data outcome => changes_of_inv fun s => execHostReadCompletion_inv qid idx data outcome s
  · exact fun qid => changes_of_inv fun s => execSignal_inv qid s
  · exact fun qid => changes_of_inv fun s => execSkein_inv qid s
  · exact fun v => changes_of_inv fun s => execQeAdminSqWrite_inv v s
  · exact fun v => changes_of_inv fun s => execQeAdminCqWrite_inv v s
  · exact changes_of_inv fun s => execSkeinOpen_inv s
  · exact changes_of_inv fun s => execSkeinAppend_inv s
  · exact changes_of_inv fun s => execSkeinRead_inv s
  · exact changes_of_inv fun s => execSkeinMark_inv s
  · exact changes_of_inv fun s => execSkeinRewind_inv s
  · exact changes_of_inv fun s => execSkeinRelease_inv s
  · exact changes_of_inv fun s => execSkeinRetract_inv s
  · exact changes_of_inv fun s => execSkeinClose_inv s
  · exact fun which stream => changes_of_inv fun s => execCountPublication_inv which stream s
  · exact fun stream => changes_of_inv fun s => execSkCountsLoRead_inv stream s
  · exact changes_of_inv fun s => execRwRowLoRead_inv s

end Sys2Proof.Machine
end

section
/-!
The fault collector and the invalidation queue (O28).
-/

namespace Sys2Proof.Machine

/-! ### Faults and invalidations (R358, R365, R366, R368) -/

/-- Settles O28: a report by the fault that it names, a window and a resolution by the entry, the ring's registers by what they
accept. -/
theorem translationFaultsResolve : Obligations.TranslationFaultsResolve := by
  unfold Obligations.TranslationFaultsResolve
  refine ⟨?_, ?_, ?_, ?_, ?_, ?_, fun _ _ _ => ⟨rfl, rfl, rfl, rfl⟩, ?_, fun _ _ _ => rfl, ?_, ?_⟩
  · intro m f s x named
    simp only [exec_faultReport, execFaultReport, named]
  · intro m f s unnamed
    simp only [exec_faultReport, execFaultReport, unnamed]
  · intro i s e entry
    simp only [exec_faultWindowClose, execFaultWindowClose, entry, ite_next, Bool.or_eq_true, decide_eq_true_eq]
  · intro i s empty
    simp only [exec_faultWindowClose, execFaultWindowClose, empty]
  · intro i g s e resolvable
    simp only [exec_faultResume, execFaultResume, exec_faultAbort, execFaultAbort, resolvable, Bool.and_eq_true,
      decide_eq_true_eq, true_and]
  · intro i g s unresolvable
    simp only [exec_faultResume, execFaultResume, exec_faultAbort, execFaultAbort, unresolvable, and_self]
  · intro d n s v queued
    simp only [exec_tlbInv, execTlbInv, queued, ite_next]
  · intro v s
    simp only [exec_tuFringCiWrite, execTuFringCiWrite, ite_next]
  · intro v s
    simp only [exec_tuFringBaseWrite, execTuFringBaseWrite, ite_next, Bool.and_eq_true, Bool.not_eq_true', decide_eq_true_eq,
      decide_eq_false_iff_not]

end Sys2Proof.Machine
end

section
/-!
The coherence messages at homes, caches and requesters, and the fields that the commands of memory, faults and recovery may change
(O22 to O24, O57).
-/

namespace Sys2Proof.Machine

/-! ### Messages at a line's home (R285 to R289, R298, R301) -/

/-- The answer to a PUSH unpins a line pinned for that push. -/
theorem State.pushAnswer_of_entry {t : State} {k l : Nat} {e : DirEntry} (entry : (t.home k).entry l = some e) (q : Nat)
    (o : Option Nat) :
    t.pushAnswer k l q o =
      if e.pin = some (.push q) then (t.putEntry k l (some { e with pin := none, owner := o })).tidyEntry k l else t := by
  simp only [State.pushAnswer, entry]

/-- DONE of the requester that the entry is pinned for unpins it. -/
theorem State.unpinBy_of_pinned {t : State} {k l q : Nat} {e : DirEntry} {kind : ReqKind} (entry : (t.home k).entry l = some e)
    (pinned : e.pin = some (.done q kind)) :
    t.unpinBy k l q = (t.putEntry k l (some { e with pin := none })).tidyEntry k l := by
  simp only [State.unpinBy, entry, pinned, if_true]

/-- DONE of any other changes nothing. -/
theorem State.unpinBy_of_not_pinned {t : State} {k l q : Nat} {e : DirEntry} (entry : (t.home k).entry l = some e)
    (other : ∀ kind, e.pin ≠ some (.done q kind)) : t.unpinBy k l q = t := by
  simp only [State.unpinBy, entry]
  split
  case h_1 p kind pinned =>
    have p_ne : p ≠ q := fun same => other kind (same ▸ pinned)
    exact if_neg p_ne
  case h_2 => rfl

/-- Settles O22: each message by its arrival at the home, the answers to a PUSH and DONE by the entry's pin. -/
theorem homesServeTheirLines : Obligations.HomesServeTheirLines := by
  unfold Obligations.HomesServeTheirLines
  refine ⟨fun _ _ _ _ _ => rfl,
    fun _ _ _ _ => ⟨rfl, rfl, rfl, rfl, fun _ _ _ => rfl, fun _ => rfl, fun _ => rfl, fun _ => rfl, rfl⟩, fun _ _ _ _ => rfl, fun _ _ _ _ => ⟨rfl, rfl, rfl⟩, fun k l q o t e entry => ?_, fun _ _ => rfl, fun _ _ _ => rfl⟩
  exact ⟨State.pushAnswer_of_entry entry q o, fun _ => State.unpinBy_of_pinned entry, State.unpinBy_of_not_pinned entry⟩

/-! ### Messages at a cache (R287 to R290, R297, R301) -/

/-- At a cache of this module a message acts as it arrives. -/
theorem State.atCache_of_own {d : Nat} (own : ownAgent d = true) (s : State) (code l : Nat) (f : State → State) :
    s.atCache d code l f = s.arrive d code l f := if_pos own

/-- A message that can arrive acts once it is no longer under way. -/
theorem State.arrive_of_land {s : State} {d code l : Nat} {n : Net} (lands : s.net.land d code l = some n) (f : State → State) :
    s.arrive d code l f = f { s with net := n } := by
  simp only [State.arrive, lands]

/-- On FWD_S a dirty copy becomes O, and a clean one S. -/
theorem State.sharedAs_of_copyOf {t : State} {d l : Nat} {c : CacheLine} (held : t.copyOf d l = some c) :
    t.sharedAs d l = if c.st = .m ∨ c.st = .o then .o else .s := by
  simp only [State.sharedAs, held, Option.map_some]
  cases c.st <;> rfl

/-- Settles O23: each message by its arrival at the cache. -/
theorem ownersAndSharersAnswer : Obligations.OwnersAndSharersAnswer := by
  unfold Obligations.OwnersAndSharersAnswer
  refine ⟨fun _ code l f s own => State.atCache_of_own own s code l f, fun _ _ _ _ => ⟨rfl, rfl, rfl, rfl⟩,
    fun _ _ _ _ => State.sharedAs_of_copyOf, fun _ _ _ _ => rfl, fun _ _ _ _ => rfl, fun _ _ _ _ lands => ?_⟩
  exact congrArg Host.Outcome.next (State.arrive_of_land lands _)

/-! ### Messages at a requester (R286, R289, R293, R294, R297, R298, R302, R375) -/

/-- A message noted on a transaction finishes it where all has come. -/
theorem State.onTx_of_some {t : State} {q l : Nat} {x : Tx} (running : t.txOf q l = some x) (f : Tx → Tx) :
    t.onTx q l f = (t.setTx q l (some (f x))).finishTx q l := by
  simp only [State.onTx, running]

theorem State.onTx_of_none {t : State} {q l : Nat} (idle : t.txOf q l = none) (f : Tx → Tx) : t.onTx q l f = t := by
  simp only [State.onTx, idle]

/-- The memory request of an agent on the mesh by what the address rules say of it. -/
theorem exec_memReq_of_onMesh {s : State} {src : Mesh} (on : s.onMesh src = true) (tag : BitVec 16) (r : MemReq) :
    exec (.memReq src tag r) s = .next (
      if s.spanFault (memSpan r).1 (memSpan r).2.2 ≠ none then s.memAnswer src tag.toNat r false [] []
      else s.takeReq ⟨.mesh src tag.toNat r, memAct r⟩) := by
  simp only [exec_memReq, execMemReq, on, Bool.not_true, Bool.false_eq_true, if_false, Option.isSome_iff_ne_none]

theorem exec_memReq_of_not_onMesh {s : State} {src : Mesh} (off : s.onMesh src = false) (tag : BitVec 16) (r : MemReq) :
    exec (.memReq src tag r) s = .next s := by
  simp only [exec_memReq, execMemReq, off, Bool.not_false, if_true]

/-- Settles O24: an answer by its arrival, a retry by whose request it is, a memory request by its shape. -/
theorem requestersTakeTheirAnswers : Obligations.RequestersTakeTheirAnswers := by
  unfold Obligations.RequestersTakeTheirAnswers
  refine ⟨fun _ _ _ _ _ => rfl, fun _ _ _ _ _ _ => rfl, fun _ _ _ _ _ => rfl,
    fun _ _ f _ => ⟨fun _ running => State.onTx_of_some running f, fun idle => State.onTx_of_none idle f⟩, fun _ _ _ _ => rfl,
    fun _ _ _ => rfl, ?_, fun _ _ _ _ => rfl, ?_, ?_, fun _ _ _ => rfl, fun _ _ _ _ _ _ => rfl,
    fun _ tag r _ off => exec_memReq_of_not_onMesh off tag r, fun _ tag pa n _ on => exec_memReq_of_onMesh on tag (.read pa n),
    fun _ tag pa d ps _ on => exec_memReq_of_onMesh on tag (.write pa d ps),
    fun _ tag pa fn wide ops _ on => exec_memReq_of_onMesh on tag (.atomic pa fn wide ops), fun _ _ _ _ _ _ => rfl,
    fun _ _ _ _ _ _ _ => rfl, fun _ _ _ _ _ _ _ _ => rfl, ?_, fun _ _ _ => rfl, fun _ _ => rfl⟩
  · intro q h l s
    simp only [exec_invAck, execInvAck, Bool.and_eq_true, decide_eq_true_eq]
  · intro q l s x at' running refused
    simp only [exec_nackRetry, execNackRetry, running, refused, ite_next, Bool.and_eq_true, decide_eq_true_eq, and_assoc]
  · intro q l s u idle due
    simp only [exec_nackRetry, execNackRetry, idle, due]
  · intro dst tag ok d s n x lands asked
    rw [exec_memRsp, execMemRsp, State.arrive_of_land lands]
    simp only [asked]

/-! ### Frames: what a command of coherence, stacks, faults or recovery may change -/

/-- Settles O57: each command's law of Laws/Inv*.lean names exactly the fields that the statement names. -/
theorem memoryCommandsChangeOnly : Obligations.MemoryCommandsChangeOnly := by
  unfold Obligations.MemoryCommandsChangeOnly
  refine ⟨⟨?_, ?_, ?_, ?_, ?_, ?_, ?_, ?_, ?_, ?_, ?_⟩, ⟨?_, ?_, ?_, ?_, ?_, ?_, ?_, ?_⟩, ⟨?_, ?_, ?_, ?_⟩, ?_, ⟨?_, ?_, ?_⟩,
    ?_, ⟨?_, ?_⟩, ⟨?_, ?_⟩, ?_, ?_, ?_, ⟨?_, ?_, ?_, ?_, ?_⟩, ?_, ?_, ⟨?_, ?_⟩, ?_, ⟨?_, ?_⟩, ?_, ⟨?_, ?_, ?_, ?_, ?_⟩, ?_,
    ?_, ⟨?_, ?_, ?_, ?_⟩, ?_, ?_, ?_, ?_, ⟨?_, ?_⟩, ?_⟩
  · exact fun home q line => changes_of_inv fun s => execRdS_inv home q line s
  · exact fun home q line => changes_of_inv fun s => execRdX_inv home q line s
  · exact fun home q line => changes_of_inv fun s => execUpg_inv home q line s
  · exact fun home q line data => changes_of_inv fun s => execWb_inv home q line data s
  · exact fun home q line => changes_of_inv fun s => execRdNc_inv home q line s
  · exact fun home q line data mask hint => changes_of_inv fun s => execWrNc_inv home q line data mask hint s
  · exact fun home q line op => changes_of_inv fun s => execAtomFar_inv home q line op s
  · exact fun q line st data => changes_of_inv fun s => execData_inv q line st data s
  · exact fun home line => changes_of_inv fun s => execReservationServe_inv home line s
  · exact fun q line cause => changes_of_inv fun s => execNack_inv q line cause s
  · exact fun q line => changes_of_inv fun s => execReserved_inv q line s
  · exact fun home q line => changes_of_inv fun s => execCleanEvict_inv home q line s
  · exact fun home => changes_of_inv fun s => execFarAtomicExecute_inv home s
  · exact fun target line data => changes_of_inv fun s => execPush_inv target line data s
  · exact fun q line st acks data => changes_of_inv fun s => execHomeRsp_inv q line st acks data s
  · exact fun q sharer line => changes_of_inv fun s => execInvAck_inv q sharer line s
  · exact fun home owner line data => changes_of_inv fun s => execRecallData_inv home owner line data s
  · exact fun home owner line => changes_of_inv fun s => execNodata_inv home owner line s
  · exact fun src vector => changes_of_inv fun s => execIntMessage_inv src vector s
  · exact fun owner q line => changes_of_inv fun s => execFwdS_inv owner q line s
  · exact fun owner q line => changes_of_inv fun s => execFwdX_inv owner q line s
  · exact fun owner line => changes_of_inv fun s => execRecall_inv owner line s
  · exact fun sharer q line => changes_of_inv fun s => execInv_inv sharer q line s
  · exact fun owner q line => changes_of_inv fun s => execFwdNc_inv owner q line s
  · exact fun home target line => changes_of_inv fun s => execPushAck_inv home target line s
  · exact fun home target line => changes_of_inv fun s => execPushDrop_inv home target line s
  · exact fun home q line => changes_of_inv fun s => execDone_inv home q line s
  · exact fun q line => changes_of_inv fun s => execNackRetry_inv q line s
  · exact fun owner line => changes_of_inv fun s => execWbAck_inv owner line s
  · exact fun q line olds contended poisoned => changes_of_inv fun s => execAtomRsp_inv q line olds contended poisoned s
  · exact fun q line => changes_of_inv fun s => execWrAck_inv q line s
  · exact fun q line data => changes_of_inv fun s => execRdRsp_inv q line data s
  · exact fun src tag r => changes_of_inv fun s => execMemReq_inv src tag r s
  · exact fun dst tag ok data => changes_of_inv fun s => execMemRsp_inv dst tag ok data s
  · exact fun m => changes_of_inv fun s => execL2PredClear_inv m s
  · exact fun k temp => changes_of_inv fun s => execStackTempRead_inv k temp s
  · exact fun k pc bank threshold => changes_of_inv fun s => execRfm_inv k pc bank threshold s
  · exact fun k pc => changes_of_inv fun s => execPatrolScrub_inv k pc s
  · exact fun k mean => changes_of_inv fun s => execHotMean_inv k mean s
  · exact fun k pc miscompare ecc firstBad => changes_of_inv fun s => execHbTgenDone_inv k pc miscompare ecc firstBad s
  · exact fun k mw => changes_of_inv fun s => execStackPowerSample_inv k mw s
  · exact fun k pc bank => changes_of_inv fun s => execPerBankRefresh_inv k pc bank s
  · exact fun k pc row sid bank repairLeft => changes_of_inv fun s => execSoftRepair_inv k pc row sid bank repairLeft s
  · exact changes_of_inv fun s => execEvacSegmentCopy_inv s
  · exact changes_of_inv fun s => execEvacSegmentCommit_inv s
  · exact fun k v => changes_of_inv fun s => execHbInjectArm_inv k v s
  · exact fun k pc v => changes_of_inv fun s => execHbTgenStart_inv k pc v s
  · exact fun k pc r => changes_of_inv fun s => execBurstDone_inv k pc r s
  · exact fun m f => changes_of_inv fun s => execFaultReport_inv m f s
  · exact fun entry => changes_of_inv fun s => execFaultWindowClose_inv entry s
  · exact fun die seq => changes_of_inv fun s => execInvDone_inv die seq s
  · exact fun v => changes_of_inv fun s => execTuFringCiWrite_inv v s
  · exact fun v => changes_of_inv fun s => execTuFringBaseWrite_inv v s
  · exact fun entry gen => changes_of_inv fun s => execFaultResume_inv entry gen s
  · exact fun entry gen => changes_of_inv fun s => execFaultAbort_inv entry gen s
  · exact fun asid => changes_of_inv fun s => execInvPage_inv asid s
  · exact fun pages asid => changes_of_inv fun s => execInvRange_inv pages asid s
  · exact fun asid => changes_of_inv fun s => execInvAsid_inv asid s
  · exact changes_of_inv fun s => execInvAll_inv s
  · exact fun die seq => changes_of_inv fun s => execTlbInv_inv die seq s
  · exact fun kind id cause => changes_of_inv fun s => execFaultRpt_inv kind id cause s
  · exact changes_of_inv fun s => execSequencerTakeEntry_inv s
  · exact changes_of_inv fun s => execMotifDrained_inv s
  · exact fun pass => changes_of_inv fun s => execMotifSelfTestDone_inv pass s
  · exact fun ok => changes_of_inv fun s => execRecoveryEnd_inv ok s
  · exact fun v => changes_of_inv fun s => execHbGrant_inv v s

end Sys2Proof.Machine
end

section
/-!
The interleave of the stacks, and the injection of errors into their words (O47, O42).
-/

namespace Sys2Proof.Machine

/-! ### The interleave (R311) -/

theorem parity_lt_two (n x : Nat) : parity n x < 2 := by
  cases n with
  | zero => exact Nat.two_pos
  | succ n => exact Nat.mod_lt _ Nat.two_pos

/-- `n` bits, each put in its place. -/
theorem foldl_or_bits_lt {b : Nat → Nat} (bit : ∀ i, b i < 2) (n : Nat) :
    (List.range n).foldl (fun f i => f ||| (b i * 2 ^ i)) 0 < 2 ^ n := by
  induction n with
  | zero => exact Nat.one_pos
  | succ n ih =>
    rw [List.range_succ, List.foldl_append, List.foldl_cons, List.foldl_nil]
    have below : 2 ^ n < 2 ^ (n + 1) := Nat.pow_lt_pow_right Nat.one_lt_two n.lt_succ_self
    have placed : b n * 2 ^ n < 2 ^ (n + 1) := Nat.pow_succ' ▸ Nat.mul_lt_mul_of_pos_right (bit n) (Nat.two_pow_pos n)
    exact Nat.or_lt_two_pow (Nat.lt_trans ih below) placed

/-- There are 1,024 pseudo-channels. -/
theorem pcOf_lt (pa salt : Nat) : pcOf pa salt < 2 ^ 10 := by
  rw [pcOf]
  refine Nat.xor_lt_two_pow (Nat.mod_lt _ (Nat.two_pow_pos 10)) (foldl_or_bits_lt (fun i => ?_) 10)
  exact parity_lt_two ..

/-- The bytes of a granule lie together. -/
theorem pcOf_eq_of_same_granule {pa pb : Nat} (same : pa / 256 = pb / 256) (salt : Nat) : pcOf pa salt = pcOf pb salt := by
  rw [pcOf, pcOf, same]

/-- The salt acts on a whole block alike: its granule `i` lies where the number `i`, by an exclusive or, differs from where its first
granule lies. -/
theorem pcOf_granule (salt block : Nat) {i : Nat} (hi : i < 1024) :
    pcOf (block * 2 ^ 18 + i * 256) salt = i ^^^ pcOf (block * 2 ^ 18) salt := by
  have inBlock : (block * 2 ^ 18 + i * 256) / 256 % 2 ^ 32 % 1024 = i := by omega
  have sameBlock : (block * 2 ^ 18 + i * 256) / 256 % 2 ^ 32 / 1024 = block * 2 ^ 18 / 256 % 2 ^ 32 / 1024 := by omega
  have first : block * 2 ^ 18 / 256 % 2 ^ 32 % 1024 = 0 := by
    rw [Nat.mod_mod_of_dvd _ (by decide : 1024 ∣ 2 ^ 32)]
    omega
  rw [pcOf, pcOf, inBlock, sameBlock, first, Nat.zero_xor]

/-- Settles O47: the granule on pseudo-channel `pc` is the one numbered `pc` by an exclusive or with where the first granule lies. -/
theorem interleaveSpreadsEveryBlock : Obligations.InterleaveSpreadsEveryBlock := by
  unfold Obligations.InterleaveSpreadsEveryBlock
  refine fun salt block => ⟨fun pc hpc => ?_, fun i b _ hb => pcOf_eq_of_same_granule (by omega) salt⟩
  have range : pc ^^^ pcOf (block * 2 ^ 18) salt < 1024 := Nat.xor_lt_two_pow (n := 10) hpc (pcOf_lt ..)
  refine ⟨_, range, ?_, fun j hj lies => ?_⟩
  · rw [pcOf_granule salt block range, Nat.xor_assoc, Nat.xor_self, Nat.xor_zero]
  · rw [← lies, pcOf_granule salt block hj, Nat.xor_assoc, Nat.xor_self, Nat.xor_zero]

/-! ### Injection (R342) -/

/-- MEM_INJECT, hook 1, closes each stack's HB_INJECT. -/
theorem hidden_hbInject (k : Stack) {s : State} (closed : s.hook 1 = false) :
    s.hidden (F.HB_INJECT_ARM k.val).addr = true := by
  have hooked : hookOf (F.HB_INJECT_ARM k.val).addr = some 1 := by decide +revert
  simp only [State.hidden, hooked, closed, Bool.not_false]

/-- The bit that a bit number names in a word of 80 bits. -/
theorem testBit_namedBit {i : Nat} (hi : i < 80) (v : Nat) : (if v < 80 then 2 ^ v else 0).testBit i = decide (i = v) := by
  by_cases named : v < 80
  · rw [if_pos named, Nat.testBit_two_pow, decide_eq_decide, eq_comm]
  · rw [if_neg named, Nat.zero_testBit, eq_comm, decide_eq_false_iff_not]
    omega

/-- While the hook is closed a word is stored without a wrong bit. -/
theorem State.flips_storeWord_of_closed {s : State} (closed : s.hook 1 = false) (w : Nat) {bs : List (Option Byte)}
    (written : bs.all Option.isNone = false) : Sparse.get 0 (s.storeWord w bs).flips w = 0 := by
  rw [State.hook] at closed
  simp only [State.storeWord, written, closed, Bool.and_false, Bool.false_eq_true, if_false, Sparse.get_set_same]

/-- An armed injection makes wrong the bits that the three fields name. -/
theorem State.flips_storeWord_of_armed {s : State} {w : Nat} (opened : s.hook 1 = true)
    (armed : s.fld (F.HB_INJECT_ARM (s.pcAt (w * 8) / 64)) = 1) {bs : List (Option Byte)}
    (written : bs.all Option.isNone = false) {i : Nat} (hi : i < 80) :
    (Sparse.get 0 (s.storeWord w bs).flips w).getLsbD i = true ↔
      i = s.fld (F.HB_INJECT_BIT_A (s.pcAt (w * 8) / 64)) ∨ i = s.fld (F.HB_INJECT_BIT_B (s.pcAt (w * 8) / 64)) ∨
        i = s.fld (F.HB_INJECT_BIT_C (s.pcAt (w * 8) / 64)) := by
  rw [State.hook] at opened
  simp only [State.storeWord, written, armed, opened, decide_true, Bool.and_self, Bool.false_eq_true, if_false, if_true,
    State.setFld_flips, Sparse.get_set_same, BitVec.getLsbD_ofNat, Nat.testBit_or, testBit_namedBit hi, hi, Bool.true_and,
    Bool.or_eq_true, decide_eq_true_eq, or_assoc]

/-- Settles O42: a command and a read by what the hook closes, a stored word by what is armed at its home. -/
theorem injectionFlipsNamedBitsOnce : Obligations.InjectionFlipsNamedBitsOnce := by
  unfold Obligations.InjectionFlipsNamedBitsOnce
  refine ⟨fun k v s closed => ?_, fun k r s closed => State.readWhole_hidden (hidden_hbInject k closed) r,
    fun s w bs written closed => s.flips_storeWord_of_closed closed w written,
    fun s w bs i written opened armed hi => State.flips_storeWord_of_armed opened armed written hi⟩
  rw [exec_hbInjectArm, execHbInjectArm, closed]
  rfl

end Sys2Proof.Machine
end

section
/-!
The commands of the stacks' controllers and of their testers (O25, O26).
-/

namespace Sys2Proof.Machine

/-! ### The stacks' controllers (R310, R323 to R331) -/

/-- A choice told by two conditions tells one after the other. -/
theorem ite_and_eq {α : Type} (p q : Prop) [Decidable p] [Decidable q] (x y : α) :
    (if p ∧ q then x else y) = if p then if q then x else y else y := by
  by_cases holds : p
  · simp only [holds, true_and, if_true]
  · simp only [holds, false_and, if_false]

/-- Settles O25: a power sample by the grant and the last step of THROTTLE, patrol and a repair by what lets them go on, the others by
their condition. -/
theorem stackCommandsTakeEffect : Obligations.StackCommandsTakeEffect := by
  unfold Obligations.StackCommandsTakeEffect
  refine ⟨fun _ _ _ => rfl, ?_, ?_, fun _ _ _ _ => rfl, ?_, ?_, ?_, fun _ _ _ => rfl⟩
  · intro k s
    simp only [exec_stackTempRead, execStackTempRead, ite_next]
  · intro k mw s
    rw [exec_stackPowerSample]
    unfold execStackPowerSample
    extract_lets +onlyGivenNames k' m
    subst m k'
    extract_lets u th t c can
    have cannot : (!can) = c.stepAt.any (t.now < · + 4000) := by
      simp only [can]
      cases c.stepAt with
      | none => rfl
      | some at' => simp only [Option.any_some, ← decide_not, Nat.not_le]
    cases Sparse.get none t.rowYoke.stackGrant k with
    | none => rfl
    | some grant => simp only [cannot, ite_next, Bool.or_eq_true, ite_and_eq, c]
  · intro k pc bank n s
    simp only [exec_rfm, execRfm, ite_next]
  · intro k pc s
    simp only [exec_patrolScrub, execPatrolScrub, ite_next]
    refine congrArg Host.Outcome.next (ite_eq_of_iff_not ?_ ..)
    simp only [Bool.or_eq_true, not_or, Bool.not_eq_true', Bool.not_eq_false]
  · intro k pc row sid bank left s
    simp only [exec_softRepair, execSoftRepair, ite_next]
    refine congrArg Host.Outcome.next ((ite_eq_of_iff_not ?_ ..).trans (ite_congr rfl (fun _ => ?_) fun _ => rfl))
    · simp only [Bool.or_eq_true, Bool.and_eq_true, not_or, Bool.not_eq_true', Bool.not_eq_false, decide_eq_true_eq]
    · cases left with
      | false => rfl
      | true => rfl

/-! ### Testers and bursts (R314, R338 to R342) -/

/-- The burst of another agent's request is made on its own pseudo-channel, unless an evacuation holds its line. -/
theorem State.burst_taken_iff (s : State) (c pa : Nat) :
    s.pcAt pa = c ∧ s.evacHeld (pa / 128) = false ↔ ¬(!decide (s.pcAt pa = c) || s.evacHeld (pa / 128)) = true := by
  simp only [Bool.or_eq_true, not_or, Bool.not_eq_true', Bool.not_eq_true, decide_eq_false_iff_not, Decidable.not_not]

/-- Settles O26: each command by its conditions, the end of a generator by whether a bad granule was found. -/
theorem stackTestersAndBursts : Obligations.StackTestersAndBursts := by
  unfold Obligations.StackTestersAndBursts
  refine ⟨?_, ?_, ?_, ?_, ?_⟩
  · intro k v s
    simp only [exec_hbInjectArm, execHbInjectArm, ite_next]
  · intro k pc v s
    simp only [exec_hbTgenStart, execHbTgenStart, ite_next, Bool.and_eq_true, decide_eq_true_eq, and_assoc]
  · intro k pc n e bad s
    cases bad with
    | none => simp only [exec_hbTgenDone, execHbTgenDone, ite_next]
    | some u => simp only [exec_hbTgenDone, execHbTgenDone, ite_next]
  · intro k pc pa wrong s
    simp only [exec_burstDone, execBurstDone, ite_next]
    exact congrArg Host.Outcome.next (ite_congr rfl (fun _ => rfl) fun _ => ite_eq_of_iff_not (s.burst_taken_iff ..) ..)
  · intro k pc pa d mask s
    simp only [exec_burstDone, execBurstDone, ite_next]
    exact congrArg Host.Outcome.next (ite_congr rfl (fun _ => rfl) fun _ => ite_eq_of_iff_not (s.burst_taken_iff ..) ..)

end Sys2Proof.Machine
end

section
/-!
The commands of the recovery sequencer (O27).
-/

namespace Sys2Proof.Machine

/-! ### The recovery sequencer (R334, R337, R338, R543 to R549) -/

/-- Settles O27: each command by the entry that runs, its kind and its phase, an evacuation's by whether one runs. -/
theorem recoveriesRun : Obligations.RecoveriesRun := by
  unfold Obligations.RecoveriesRun
  refine ⟨fun _ _ _ _ => rfl, ?_, ?_, ?_, ?_, ?_, ?_, ?_, ?_, ?_, ?_, ?_⟩
  · intro s d ds idle next
    simp only [exec_sequencerTakeEntry, execSequencerTakeEntry, idle, next, ite_next]
  · rintro s (busy | empty)
    · obtain ⟨d, running⟩ := Option.ne_none_iff_exists'.mp busy
      simp only [exec_sequencerTakeEntry, execSequencerTakeEntry, running]
    · rw [exec_sequencerTakeEntry, execSequencerTakeEntry, empty]
      cases s.recovery.running with
      | none => rfl
      | some d => rfl
  · intro s d running isMotif phase
    simp only [exec_motifDrained, execMotifDrained, running, isMotif, phase, decide_true, Bool.and_self, if_true,
      Bool.or_eq_true, Bool.and_eq_true, decide_eq_true_eq]
  · intro s d running isMotif phase
    simp only [exec_motifSelfTestDone, execMotifSelfTestDone, running, isMotif, phase, decide_true, Bool.and_self, if_true,
      Bool.false_eq_true, if_false, ite_next, and_self]
  · intro s d running other
    simp only [exec_motifDrained, execMotifDrained, exec_motifSelfTestDone, execMotifSelfTestDone, running, other, decide_false,
      Bool.false_and, Bool.false_eq_true, if_false, implies_true, and_self]
  · intro s d running isUnit
    simp only [exec_recoveryEnd, execRecoveryEnd, running, isUnit, if_true, Bool.false_eq_true, if_false, and_self]
  · intro s d running isPort
    simp only [exec_recoveryEnd, execRecoveryEnd, running, isPort]
    exact ⟨rfl, rfl⟩
  · intro s d ok running notUnit notPort
    simp only [exec_recoveryEnd, execRecoveryEnd, running, notUnit, notPort, if_false]
  · intro v s u d evacuating parked
    simp only [exec_hbGrant, execHbGrant, evacuating, parked, ite_next, Bool.and_eq_true, decide_eq_true_eq]
  · intro s u evacuating
    simp only [exec_evacSegmentCopy, execEvacSegmentCopy, exec_evacSegmentCommit, execEvacSegmentCommit, evacuating, ite_next,
      Bool.and_eq_true, decide_eq_true_eq, and_assoc, and_self]
  · intro s idle
    simp only [exec_evacSegmentCopy, execEvacSegmentCopy, exec_evacSegmentCommit, execEvacSegmentCommit, exec_hbGrant, execHbGrant,
      idle, implies_true, and_self]

end Sys2Proof.Machine
end

section
/-!
The messages that wait for the host, and the events of the host link (O54, O32).
-/

namespace Sys2Proof.Machine

/-! ### Messages on vectors (R423, R475, R501) -/

/-- What a message due on a vector of the host does. -/
theorem State.msiDue_of_unrouted {s : State} {v : Nat} (unrouted : s.fld (F.NC_VROUTE_EN v) ≠ 1) :
    s.msiDue v =
      if s.px.msixCount ≤ v then s else if s.msiMasked v || s.msiBlocked then s.setFld (pbaFld v) 1 else s.msiSend v := by
  rw [State.msiDue, if_neg unrouted]

/-- Settles O54: a vector of the host by whether it is below MSIX_COUNT. -/
theorem maskedVectorsWait : Obligations.MaskedVectorsWait := by
  unfold Obligations.MaskedVectorsWait
  refine ⟨fun s v unrouted below waits => ?_, fun s v unrouted beyond => ?_⟩
  · have pends : s.msiDue v = s.setFld (pbaFld v) 1 := by
      rw [State.msiDue_of_unrouted unrouted, if_neg (Nat.not_le.mpr below), if_pos waits]
    exact ⟨pends, pends ▸ s.setFld_sent (pbaFld v) 1⟩
  · rw [State.msiDue_of_unrouted unrouted, if_pos beyond]

/-! ### The host link's events (R403, R409, R418, R422 to R430) -/

/-- Settles O32: a host read that times out by what its command waits for, the lost completions by whether one is held, the others by
their conditions. -/
theorem hostLinkEventsTakeEffect : Obligations.HostLinkEventsTakeEffect := by
  unfold Obligations.HostLinkEventsTakeEffect
  refine ⟨?_, ?_, fun _ _ => rfl, ?_, fun _ => rfl, fun _ => rfl, fun _ => rfl, fun _ => rfl, fun _ => rfl, fun _ _ => rfl, ?_, ?_,
    ?_, ?_, ?_⟩
  · intro speed width s
    simp only [exec_hostLinkUp, execHostLinkUp, ite_next, Bool.and_eq_true, decide_eq_true_eq, and_assoc]
  · intro speed width s
    simp only [exec_linkRetrain, execLinkRetrain, ite_next]
  · intro n s
    simp only [exec_resizableBarWrite, execResizableBarWrite, ite_next, Bool.and_eq_true, Bool.not_eq_true', decide_eq_true_eq,
      and_assoc]
  · intro qid idx s c found
    simp only [exec_completionTimeout, execCompletionTimeout, found]
    cases c.run with
    | copying done page want last => cases want <;> rfl
    | moving at' moved skipped first last want => cases want <;> rfl
    | _ => rfl
  · intro qid idx s none_found
    simp only [exec_completionTimeout, execCompletionTimeout, none_found, Bool.and_eq_true, Bool.not_eq_true', decide_eq_true_eq,
      and_assoc]
  · intro qid idx ok s c st found flushing
    simp only [exec_flushReadDone, execFlushReadDone, found, flushing, ite_next, Bool.not_eq_true']
  · intro s e es lost
    simp only [exec_pxLostPop, execPxLostPop, lost]
  · intro s none_lost
    simp only [exec_pxLostPop, execPxLostPop, none_lost]

end Sys2Proof.Machine
end

section
/-!
Every step runs the front command, and every command completes (O1, O4).
-/

namespace Sys2Proof.Machine

/-- Settles O1: `step` by its queue, which is not empty. -/
theorem stepRunsTheFrontCommand : Obligations.StepRunsTheFrontCommand := by
  unfold Obligations.StepRunsTheFrontCommand
  intro c cs s queue
  rw [step, queue]

/-- Settles O4: the part of `exec_completes` that is about the queue. -/
theorem everyCommandCompletes : Obligations.EveryCommandCompletes := by
  unfold Obligations.EveryCommandCompletes
  intro c s
  obtain ⟨t, ht, queue, _⟩ := exec_completes c s
  exact ⟨t, ht, queue⟩

end Sys2Proof.Machine
end

section
/-!
The fabric's frames and flows, its ports and lots, and hall time (O33, O34).
-/

namespace Sys2Proof.Machine

/-! ### Frames and flows (R439 to R450) -/

/-- The sending state of a flow after FLOW_IDLE_FREE. -/
def State.freeIdleSender (s : State) (key : Nat) : State :=
  match s.txFlow key with
  | some f => if f.kept = [] ∧ f.used + 1000000 ≤ s.now then s.setTxFlow key none else s
  | none => s

/-- The receiving state of a flow after FLOW_IDLE_FREE. -/
def State.freeIdleReceiver (s : State) (key : Nat) : State :=
  match s.rxFlow key with
  | some r => if r.used + 1000000 ≤ s.now then s.setRxFlow key none else s
  | none => s

theorem execFlowIdleFree_eq (node lot : BitVec 16) (s : State) :
    execFlowIdleFree node lot s =
      .next ((s.freeIdleSender (flowKey node.toNat lot.toNat)).freeIdleReceiver (flowKey node.toNat lot.toNat)) := by
  cases flow : s.txFlow (flowKey node.toNat lot.toNat) with
  | none =>
    simp only [execFlowIdleFree, State.freeIdleSender, State.freeIdleReceiver, flow]
    cases s.rxFlow (flowKey node.toNat lot.toNat) with
    | none => rfl
    | some r => exact ite_next ..
  | some f =>
    simp only [execFlowIdleFree, State.freeIdleSender, State.freeIdleReceiver, flow, Bool.and_eq_true, List.isEmpty_iff,
      decide_eq_true_eq]
    generalize (if f.kept = [] ∧ f.used + 1000000 ≤ s.now then s.setTxFlow (flowKey node.toNat lot.toNat) none else s) = t
    cases t.rxFlow (flowKey node.toNat lot.toNat) with
    | none => rfl
    | some r => exact ite_next ..

/-- Settles O33: the frames by what their commands share, an access by its asker and its lot, the timers by the flow's state. -/
theorem fabricFramesTakeEffect : Obligations.FabricFramesTakeEffect := by
  unfold Obligations.FabricFramesTakeEffect
  refine ⟨?_, Laws.takesFrames_of_receive fun _ _ => rfl, Laws.takesFrames_of_receive fun _ _ => rfl,
    Laws.takesFrames_of_receive fun _ _ => rfl, Laws.takesFrames_of_receive fun _ _ => rfl,
    Laws.takesFrames_of_receive fun _ _ => rfl, Laws.takesFrames_of_receive fun _ _ => rfl,
    Laws.checksFrames_of_receiveAck fun _ _ => rfl, Laws.checksFrames_of_receiveAck fun f s => ?_, ?_, ?_, ?_⟩
  · rintro r s here rfl
    refine ⟨fun x asker => ⟨fun no_lot => ?_, fun lot active => ?_⟩, fun no_asker => ?_⟩
    · simp only [exec_remoteRequest, execRemoteRequest, asker, no_lot]
    · simp only [exec_remoteRequest, execRemoteRequest, asker, active, ite_next, Bool.and_eq_true, decide_eq_true_eq]
    · simp only [exec_remoteRequest, execRemoteRequest, no_asker]
  · rw [exec_fabricNak, execFabricNak]
    refine congrArg (fun act => Host.Outcome.next (s.receiveAck Fr.NAK f act)) (funext fun u => ?_)
    dsimp only
    cases u.txFlow (flowKey (hf f.header.toNat 63 48) (hf f.header.toNat 31 16)) with
    | none => rfl
    | some x =>
      rcases x with ⟨next, kept, used, rail⟩
      cases kept <;> rfl
  · intro node lot s
    refine ⟨fun r t flow owed => ?_, fun unowed => ?_⟩
    · simp only [exec_ackTimer, execAckTimer, flow, owed, ite_next]
    · rw [exec_ackTimer, execAckTimer]
      cases flow : s.rxFlow (flowKey node.toNat lot.toNat) with
      | none => rfl
      | some r => simp only [unowed r flow]
  · intro node lot s
    refine ⟨fun f k ks flow kept => ⟨?_, ?_⟩, fun unkept => ?_⟩
    · simp only [exec_retransmitTimeout, execRetransmitTimeout, flow, kept, ite_next, Bool.and_eq_true, decide_eq_true_eq,
        Nat.succ_le_succ_iff, Nat.lt_succ_iff]
    · simp only [exec_flowLost, execFlowLost, flow, kept, ite_next, Bool.and_eq_true, decide_eq_true_eq]
    · rw [exec_retransmitTimeout, execRetransmitTimeout, exec_flowLost, execFlowLost]
      cases flow : s.txFlow (flowKey node.toNat lot.toNat) with
      | none => exact ⟨rfl, rfl⟩
      | some f => simp only [unkept f flow, and_self]
  · rintro node lot s t key rfl ht
    have freed : s.freeIdleSender (flowKey node.toNat lot.toNat) = t := by
      rw [ht, State.freeIdleSender]
      cases s.txFlow (flowKey node.toNat lot.toNat) with
      | none => simp only [reduceCtorEq, false_and, exists_false, if_false]
      | some f => simp only [Option.some.injEq, exists_eq_left']
    rw [exec_flowIdleFree, execFlowIdleFree_eq, freed, State.freeIdleReceiver]
    refine ⟨fun r flow => ?_, fun flow => ?_⟩ <;> rw [flow]

/-! ### Lots (R454) -/

theorem toNat_eq_zero_iff {n : Nat} (x : BitVec n) : x.toNat = 0 ↔ x = 0 :=
  ⟨fun zero => BitVec.eq_of_toNat_eq zero, fun zero => by rw [zero]; rfl⟩

/-- LOT_ADD may take the entry `k` at the Row `row` (R454). -/
def State.LotAddable (s : State) (k : BitVec 6) (row : BitVec 48) : Prop :=
  k ≠ 0 ∧ s.fld (F.FB_LOT_STATE k.toNat) = 0 ∧ s.fld F.FB_LOT_ARG_LOT ≠ 0 ∧
    (∀ j < 64, j ≠ 0 → j ≠ k.toNat → s.fld (F.FB_LOT_STATE j) ≠ 0 →
      s.fld (F.FB_LOT_LOT j) ≠ s.fld F.FB_LOT_ARG_LOT ∧ s.fld (F.FB_LOT_ASID j) ≠ s.fld F.FB_LOT_ARG_ASID) ∧
    s.rowYoke.row + 2 ≤ row.toNat

/-- An entry other than 0 and `k` is in use and has `p`. -/
theorem State.any_heldLot_iff (s : State) (k : Nat) (p : Nat → Bool) :
    (((List.range 64).filter fun j => j ≠ 0 && j ≠ k && s.fld (F.FB_LOT_STATE j) ≠ 0).any p) = true ↔
      ∃ j < 64, j ≠ 0 ∧ j ≠ k ∧ s.fld (F.FB_LOT_STATE j) ≠ 0 ∧ p j = true := by
  simp only [List.any_eq_true, List.mem_filter, List.mem_range, Bool.and_eq_true, decide_eq_true_eq, and_assoc]

theorem execLotAdd_of_none_waiting {s : State} (idle : s.fabric.lotCmd = none) (k : BitVec 6) (row : BitVec 48)
    [Decidable (s.LotAddable k row)] :
    execLotAdd k row s = .next (
      if s.LotAddable k row then
        (s.setFlds [(F.FB_LOT_LOT k.toNat, s.fld F.FB_LOT_ARG_LOT), (F.FB_LOT_ASID k.toNat, s.fld F.FB_LOT_ARG_ASID),
          (F.FB_LOT_STATE k.toNat, 1), (F.FB_LOT_SINCE k.toNat, 0), (F.FB_LOT_QUIET k.toNat, 0)]).setLotCmd
          (some (true, k.toNat, row.toNat))
      else s.setFld F.FB_LOT_STATUS_REJECT 1) := by
  simp only [execLotAdd, idle, Option.isSome_none, Bool.false_eq_true, if_false, ite_next]
  refine congrArg Host.Outcome.next (ite_eq_of_iff_not ?_ ..)
  simp only [State.LotAddable, Bool.or_eq_true, State.any_heldLot_iff, decide_eq_true_eq, toNat_eq_zero_iff, not_or, not_exists,
    not_and, Nat.not_lt, ne_eq, Decidable.not_not, and_assoc, imp_and, forall_and]

/-- Settles O34: each command's meaning by whether its conditions hold. -/
theorem portsLotsAndHallTime : Obligations.PortsLotsAndHallTime := by
  unfold Obligations.PortsLotsAndHallTime
  refine ⟨?_, ?_, ?_, ?_, ?_, ?_, ?_, ?_, ?_, fun _ => rfl, ?_, ?_, fun _ => rfl⟩
  · intro p s down
    simp only [exec_fabricPortDown, execFabricPortDown, down, Bool.false_eq_true, if_false]
  · rintro p s t u flaps up rfl rfl rfl
    simp only [exec_fabricPortDown, execFabricPortDown, up, if_true, Option.isNone_iff_eq_none]
  · intro p s
    simp only [exec_fabricPortUp, execFabricPortUp, ite_next, Bool.and_eq_true, Bool.not_eq_true', decide_eq_true_eq]
  · intro k row s waits
    simp only [exec_lotAdd, execLotAdd, exec_lotBindoff, execLotBindoff, Option.isSome_iff_ne_none.mpr waits, if_true, and_self]
  · intro k row s ok idle (ok_iff : ok ↔ s.LotAddable k row)
    classical
    rw [exec_lotAdd, execLotAdd_of_none_waiting idle, exec_lotBindoff, execLotBindoff]
    refine ⟨fun accepted => ?_, fun refused => ?_, ?_⟩
    · rw [if_pos (ok_iff.mp accepted)]
    · rw [if_neg fun accepted => refused (ok_iff.mpr accepted)]
    · simp only [idle, Option.isSome_none, Bool.false_eq_true, if_false, ite_next, Bool.and_eq_true, Bool.or_eq_true,
        decide_eq_true_eq, toNat_eq_zero_iff, ne_eq, and_assoc]
  · intro k s
    simp only [exec_lotRemoved, execLotRemoved, ite_next, Bool.and_eq_true, decide_eq_true_eq]
  · intro k s
    simp only [exec_bindoffForced, execBindoffForced, ite_next, Bool.and_eq_true, Bool.or_eq_true, decide_eq_true_eq]
  · rintro o s t u good rfl rfl rfl
    simp only [exec_ptpSync, execPtpSync, Bool.and_eq_true, decide_eq_true_eq]
  · intro gm s
    simp only [exec_ptpMessage, execPtpMessage, ite_next]
  · intro o s disabled
    simp only [exec_ppsEdge, execPpsEdge, exec_ppsLost, execPpsLost, disabled, decide_false, Bool.false_and, Bool.false_eq_true,
      if_false, and_self]
  · rintro o s t enabled rfl
    simp only [exec_ppsEdge, execPpsEdge, exec_ppsLost, execPpsLost, enabled, decide_true, Bool.true_and, if_true, ite_next,
      and_self]

end Sys2Proof.Machine
end

section
/-!
The node cores, the management controller and the mailbox's commands (O35, O36).
-/

namespace Sys2Proof.Machine

/-! ### Node cores and the management controller (R462, R465, R479 to R486) -/

/-- A control message past reset (R479). -/
theorem execMctpMessage_control {s : State} (out : s.fld F.MC_STATUS_STATE ≠ 0) (b : Binding) (ours : Bool)
    (data : List (BitVec 8)) :
    execMctpMessage b 0x00 ours data s = .next (
      if (data.getD 1 0).toNat = 1 then s.setEid (bindingNat b) (data.getD 3 0).toNat
      else (s.freeBytes 1).2.mctp (bindingNat b) [0, (data.getD 1 0).toNat] (s.freeBytes 1).1) := by
  rw [execMctpMessage, if_neg out, if_pos rfl]

/-- A message that is no control message, past reset and with an endpoint ID (R480). -/
theorem execMctpMessage_of_eid {b : Binding} {s : State} {ty : BitVec 8} (out : s.fld F.MC_STATUS_STATE ≠ 0)
    (eid : s.fld (eidFld (bindingNat b)) ≠ 0) (notControl : ty ≠ 0x00) (ours : Bool) (data : List (BitVec 8)) :
    execMctpMessage b ty ours data s = .next (
      if ty = 0x01 then s.pldmMessage b ((data.getD 1 0).toNat % 64) (data.getD 2 0).toNat (data.drop 3)
      else if ty = 0x7E ∧ ours = true then s.mctpJob b data
      else s) := by
  rw [execMctpMessage, if_neg out, if_neg notControl, if_neg eid]
  simp only [Bool.and_eq_true, decide_eq_true_eq]

/-- Settles O35: an instruction by what its fetch meets, a message by its type, the mailbox's commands by what they share. -/
theorem nodeCoresAndManagementAnswer : Obligations.NodeCoresAndManagementAnswer := by
  unfold Obligations.NodeCoresAndManagementAnswer
  refine ⟨?_, ?_, ?_, ?_, fun _ _ _ => rfl, fun _ _ _ _ => ⟨rfl, rfl, rfl, rfl, rfl⟩, fun _ _ _ _ _ => ⟨rfl, rfl⟩,
    fun _ _ _ => rfl, Laws.mailboxRuns_of_runJob fun _ _ => rfl, Laws.mailboxRuns_of_runJob fun _ _ => rfl,
    Laws.mailboxRuns_of_runJob fun _ _ => rfl⟩
  · intro h a c i s stopped
    simp only [exec_nodeCoreInstruction, execNodeCoreInstruction, exec_nodeCoreTimer, execNodeCoreTimer, stopped, Bool.not_false,
      if_true, and_self]
  · rintro h a c i s t x len runs rfl rfl
    refine ⟨fun fetched => ?_, fun ls fetched => ?_, fun n fetched => ?_, fun ws fetched => ?_⟩ <;>
      simp only [exec_nodeCoreInstruction, execNodeCoreInstruction, runs, fetched, Bool.not_true, Bool.false_eq_true, if_false]
  · rintro h s x mip runs rfl rfl
    simp only [exec_nodeCoreTimer, execNodeCoreTimer, runs, Bool.not_true, Bool.false_eq_true, if_false]
  · intro b ty ours data s
    refine ⟨fun inReset => ?_, fun out sets => ?_, fun out answers => ?_, fun out noEid control => ?_,
      fun out eid => ⟨?_, ?_, ?_, fun notControl notPldm notVendor => ?_⟩⟩
    · rw [exec_mctpMessage, execMctpMessage, if_pos inReset]
    · rw [exec_mctpMessage, execMctpMessage_control out, if_pos sets]
    · rw [exec_mctpMessage, execMctpMessage_control out, if_neg answers]
    · rw [exec_mctpMessage, execMctpMessage, if_neg out, if_neg control, if_pos noEid]
    · rw [exec_mctpMessage, execMctpMessage_of_eid out eid (by decide), if_pos rfl]
    · rw [exec_mctpMessage, execMctpMessage_of_eid out eid (by decide), if_neg (by decide), if_pos ⟨rfl, rfl⟩]
    · rw [exec_mctpMessage, execMctpMessage_of_eid out eid (by decide), if_neg (by decide), if_neg (by decide)]
    · rw [exec_mctpMessage, execMctpMessage_of_eid out eid notControl, if_neg notPldm, if_neg fun vendor => notVendor vendor.1]

/-! ### The mailbox's Pattern and security commands (R508 to R517, R535 to R542) -/

/-- The slots that the slot commands may write are 1 to 3. -/
theorem ownerSlot_iff (k : Nat) : ownerSlot k = true ↔ 1 ≤ k ∧ k ≤ 3 := by
  simp only [ownerSlot, Bool.and_eq_true, decide_eq_true_eq]

/-- Settles O36: the mailbox's commands by what they share, the session's time-out by whether one is held. -/
theorem patternAndSecurityCommandsRun : Obligations.PatternAndSecurityCommandsRun := by
  unfold Obligations.PatternAndSecurityCommandsRun
  refine ⟨Laws.mailboxRuns_of_runJob fun _ _ => rfl, Laws.mailboxRuns_of_runJob fun _ _ => ?_,
    Laws.mailboxRuns_of_runJob fun _ _ => rfl, Laws.mailboxRuns_of_runJob fun _ _ => ?_,
    Laws.mailboxRuns_of_runJob fun _ _ => rfl, Laws.mailboxRuns_of_runJob fun _ _ => ?_,
    Laws.mailboxRuns_of_runJob fun _ _ => ?_, fun _ => ⟨fun _ held => ?_, fun closed => ?_⟩,
    Laws.mailboxRuns_of_runJob fun _ _ => rfl, Laws.mailboxRuns_of_runJob fun _ _ => rfl,
    Laws.mailboxRuns_of_runJob fun _ _ => rfl, Laws.mailboxRuns_of_runJob fun _ _ => rfl,
    Laws.mailboxRuns_of_runJob fun _ _ => rfl, Laws.mailboxRuns_of_runJob fun _ _ => rfl,
    Laws.mailboxRuns_of_runJob fun _ _ => rfl, Laws.mailboxRuns_of_runJob fun _ _ => rfl, fun _ => rfl,
    Laws.mailboxRuns_of_runJob fun _ _ => rfl, Laws.mailboxRuns_of_runJob fun _ _ => rfl,
    Laws.mailboxRuns_of_runJob fun _ _ => rfl, Laws.mailboxRuns_of_runJob fun _ _ => rfl,
    Laws.mailboxRuns_of_runJob fun _ _ => rfl⟩
  · simp only [exec_slotBegin, execSlotBegin, ownerSlot_iff]
  · simp only [exec_slotEnd, execSlotEnd, ownerSlot_iff]
  · simp only [exec_slotErase, execSlotErase, ← ownerSlot_iff, Bool.not_eq_true', Bool.not_eq_true]
  · simp only [exec_setMinSvn, execSetMinSvn]
  · simp only [exec_sessionTimeout, execSessionTimeout, held, ite_next]
    rfl
  · simp only [exec_sessionTimeout, execSessionTimeout, closed]

end Sys2Proof.Machine
end

section
/-!
Cast-on and the resets, the board and the TAP, the test facilities, and the fields that the management, board and test commands may
change (O37 to O39, O41, O60).
-/

namespace Sys2Proof.Machine

/-! ### Cast-on, reset contacts and power (R504, R518 to R530, R577 to R584) -/

/-- Settles O37: each command's meaning by whether its conditions hold. -/
theorem castOnAndResetsRun : Obligations.CastOnAndResetsRun := by
  unfold Obligations.CastOnAndResetsRun
  refine ⟨?_, ?_, ?_, ?_, ?_, ?_, ?_, ?_, ?_, ?_⟩
  · intro sel r s
    simp only [exec_mcLeaveReset, execMcLeaveReset, ite_next, Bool.and_eq_true, Bool.not_eq_true', decide_eq_true_eq, and_assoc]
  · rintro r s k rfl
    simp only [exec_stepBudgetExpiry, execStepBudgetExpiry, Bool.and_eq_true, decide_eq_true_eq, and_assoc]
    exact ⟨fun due => if_pos due, fun early => if_neg early⟩
  · intro s
    simp only [exec_lockTimeout, execLockTimeout, ite_next, Bool.and_eq_true, decide_eq_true_eq]
    rfl
  · intro s
    simp only [exec_watchdog, execWatchdog, ite_next, Bool.and_eq_true]
  · rintro level s t rfl
    simp only [exec_coldRstN, execColdRstN, ite_next, Bool.or_eq_true, Bool.not_eq_true', decide_eq_true_eq, or_assoc]
  · rintro level s t rfl
    simp only [exec_warmRstN, execWarmRstN, ite_next, Bool.or_eq_true, Bool.not_eq_true', decide_eq_true_eq, or_assoc]
  · intro s
    simp only [exec_powerGood, execPowerGood, ite_next, Bool.or_eq_true, State.onBoard_now]
  · intro s
    simp only [exec_powerFail, execPowerFail, ite_next]
  · intro s
    simp only [exec_thermalTrip, execThermalTrip, ite_next, Bool.and_eq_true, Bool.not_eq_true']
  · intro s
    simp only [exec_tripClear, execTripClear, ite_next]

/-! ### The TAP's instructions (R563 to R565) -/

theorem State.tapLoad_of_good {s : State} (good : s.board.good = true) (i : TapInstr) (driven floating : Bool) :
    s.tapLoad i driven floating = s.onBoard fun b => { b with tap := i, driven := driven, floating := floating } := if_pos good

theorem State.tapLoad_of_no_supply {s : State} (off : s.board.good = false) (i : TapInstr) (driven floating : Bool) :
    s.tapLoad i driven floating = s := by
  rw [State.tapLoad, off, if_neg Bool.false_ne_true]

theorem State.tapScan_of_warm {s : State} (warm : s.board.warm = true) (i : TapInstr) (driven floating : Bool) :
    s.tapScan i driven floating = s.tapLoad i driven floating := if_pos warm

theorem State.tapScan_of_not_warm {s : State} (released : s.board.warm = false) (i : TapInstr) (driven floating : Bool) :
    s.tapScan i driven floating = s.tapLoad .bypass false false := by
  rw [State.tapScan, released, if_neg Bool.false_ne_true]

theorem State.tapScan_of_no_supply {s : State} (off : s.board.good = false) (i : TapInstr) (driven floating : Bool) :
    s.tapScan i driven floating = s := by
  simp only [State.tapScan, State.tapLoad_of_no_supply off, ite_self]

/-- Without the supply the TAP takes no instruction. -/
theorem exec_tap_of_no_supply {s : State} (off : s.board.good = false) (cells : BitVec 1872) :
    ∀ i ∈ ([.tapReset, .idcode, .bypass, .samplePreload cells, .extest, .clamp, .highz, .extestPulse, .extestTrain,
      .debug] : List Instr), exec i s = .next s := by
  simp only [List.forall_mem_cons, List.not_mem_nil, false_implies, implies_true, and_true, exec_tapReset, execTapReset,
    exec_idcode, execIdcode, exec_bypass, execBypass, exec_samplePreload, execSamplePreload, exec_extest, execExtest, exec_clamp, execClamp,
    exec_highz, execHighz, exec_extestPulse, execExtestPulse, exec_extestTrain, execExtestTrain, exec_debug, execDebug, off,
    State.tapLoad_of_no_supply off, State.tapScan_of_no_supply off, ite_self, Bool.false_eq_true, if_false]

/-- With WARM_RST_N released the boundary-scan instructions act as BYPASS. -/
theorem exec_scan_of_not_warm {s : State} (good : s.board.good = true) (released : s.board.warm = false) :
    ∀ i ∈ ([.extest, .clamp, .highz, .extestPulse, .extestTrain] : List Instr),
      exec i s = .next (s.onBoard fun b => { b with tap := .bypass, driven := false, floating := false }) := by
  simp only [List.forall_mem_cons, List.not_mem_nil, false_implies, implies_true, and_true, exec_extest, execExtest, exec_clamp,
    execClamp, exec_highz, execHighz, exec_extestPulse, execExtestPulse, exec_extestTrain, execExtestTrain,
    State.tapScan_of_not_warm released, State.tapLoad_of_good good]

theorem exec_idcode_of_good {s : State} (good : s.board.good = true) :
    exec .idcode s = .next ((s.onBoard fun b => { b with tap := .idcode, driven := false, floating := false }).send
      { kind := .readData, dst := 2, args := [idcodeWord], bytes := [] }) := by
  rw [exec_idcode, execIdcode, if_pos good, State.tapLoad_of_good good]

/-! ### IDCODE's word (R564) -/

theorem packBits_nil : packBits [] = 0 := rfl

theorem packBits_cons (lo w v : Nat) (fs : List (Nat × Nat × Nat)) :
    packBits ((lo, w, v) :: fs) = (v % 2 ^ w) * 2 ^ lo + packBits fs := rfl

/-- The word of a manufacturer code: version 1, part 0x4816 and the bit 0 stand round it. -/
theorem packBits_idcode {code : Nat} (fits : code < 2 ^ 11) :
    packBits [(0, 1, 1), (1, 11, code), (12, 16, 0x4816), (28, 4, 1)] = 0x14816001 + 2 * code := by
  rw [packBits_cons, packBits_cons, packBits_cons, packBits_cons, packBits_nil]
  omega

theorem idcode_fields {w code : Nat} (word : w = 0x14816001 + 2 * code) (fits : code < 2 ^ 11) :
    bits w 31 28 = 1 ∧ bits w 27 12 = 0x4816 ∧ bits w 11 1 = code ∧ bits w 0 0 = 1 ∧ w < 2 ^ 32 := by
  simp only [bits, Nat.shiftRight_eq_div_pow]
  omega

/-- Settles O41: the word sent is packed from its fields. -/
theorem idcodeReadsItsFields : Obligations.IdcodeReadsItsFields := by
  unfold Obligations.IdcodeReadsItsFields
  intro s good
  have fits : Config.jep106.toNat < 2 ^ 11 := Config.jep106.isLt
  exact ⟨_, idcodeWord, exec_idcode_of_good good, rfl, rfl, idcode_fields (packBits_idcode fits) fits⟩

/-! ### Contacts (R563, R565, R566) -/

theorem Board.pad_own {b : Board} {c : Contact} (own : b.warm = false ∨ c.group.coverage = .none ∨
    c.group.coverage = .observe ∨ c.group.drives = false) : b.pad c = .own := by
  rw [Board.pad, if_pos]
  simpa only [Bool.or_eq_true, Bool.not_eq_true', decide_eq_true_eq, or_assoc] using own

/-- A contact that has a cell and that the module drives, while WARM_RST_N is asserted. -/
theorem Board.pad_of_cell {b : Board} {c : Contact} (warm : b.warm = true)
    (cell : c.group.coverage = .ac ∨ c.group.coverage = .dc) (drives : c.group.drives = true) :
    b.pad c = if b.floating = true then .floats else if b.driven = false then .own
      else if c.group.coverage = .ac ∧ (b.tap = .extestPulse ∨ b.tap = .extestTrain) then .pulse (b.cellAt c)
      else .cell (b.cellAt c) := by
  have obeys : (!b.warm || decide (c.group.coverage = .none) || decide (c.group.coverage = .observe) ||
      !c.group.drives) = false := by
    rw [warm, drives]
    rcases cell with ac | dc
    · rw [ac]; rfl
    · rw [dc]; rfl
  simp only [Board.pad, obeys, Bool.false_eq_true, if_false, Bool.not_eq_true', Bool.and_eq_true, Bool.or_eq_true,
    decide_eq_true_eq]

/-! ### The current guard, the clocks' sources and the contacts (R578, R586) -/

/-- Settles O38: a sample by what it makes of the clamp, the TAP's instructions by the supply, WARM_RST_N and the hook, a contact
by its cell. -/
theorem boardAndTapTakeEffect : Obligations.BoardAndTapTakeEffect := by
  unfold Obligations.BoardAndTapTakeEffect
  refine ⟨?_, ?_, ?_, ?_, fun cells s off => exec_tap_of_no_supply off cells, ?_,
    fun b c => ⟨Board.pad_own, fun warm cell drives => ?_⟩⟩
  · intro ma s off
    simp only [exec_currentGuardSample, execCurrentGuardSample, exec_trefInUse, execTrefInUse, exec_ocxoWarm, execOcxoWarm, off,
      Bool.not_false, if_true, Bool.false_and, Bool.false_eq_true, if_false, and_self]
  · rintro ma s t xs below clamp good samples hbelow hclamp rfl
    have holds : clamp = (decide (xs.length = 10) && decide (1040000 < xs.sum) ||
        s.rowYoke.clamp && !below.any fun a => decide (a + 10000 ≤ s.now)) := by
      rw [Bool.eq_iff_iff, hclamp]
      simp only [Bool.or_eq_true, Bool.and_eq_true, Bool.not_eq_true', ← Bool.not_eq_true, Option.any_eq_true,
        decide_eq_true_eq]
    rw [exec_currentGuardSample, execCurrentGuardSample]
    simp only [good, Bool.not_true, Bool.false_eq_true, if_false, Bool.and_eq_true, decide_eq_true_eq, ← samples, ← hbelow,
      holds]
    cases below <;> rfl
  · intro s
    simp only [exec_trefLost, execTrefLost, ite_next]
  · intro s good
    simp only [exec_trefInUse, execTrefInUse, exec_ocxoWarm, execOcxoWarm, good, if_true, Bool.true_and, decide_eq_true_eq,
      ite_next, true_and]
    rfl
  · intro s good
    refine ⟨?_, exec_idcode_of_good good, ?_, fun cells => ?_, fun warm => ⟨?_, ?_, ?_, ?_, ?_⟩, exec_scan_of_not_warm good,
      fun opened => ?_, fun closed => ?_⟩
    · rw [exec_tapReset, execTapReset, State.tapLoad_of_good good]
    · rw [exec_bypass, execBypass, State.tapLoad_of_good good]
    · rw [exec_samplePreload, execSamplePreload, if_pos good, State.tapLoad_of_good good]
      rfl
    · rw [exec_extest, execExtest, State.tapScan_of_warm warm, State.tapLoad_of_good good]
    · rw [exec_clamp, execClamp, State.tapScan_of_warm warm, State.tapLoad_of_good good]
    · rw [exec_highz, execHighz, State.tapScan_of_warm warm, State.tapLoad_of_good good]
    · rw [exec_extestPulse, execExtestPulse, State.tapScan_of_warm warm, State.tapLoad_of_good good]
    · rw [exec_extestTrain, execExtestTrain, State.tapScan_of_warm warm, State.tapLoad_of_good good]
    · rw [exec_debug, execDebug, if_pos opened, State.tapLoad_of_good good]
    · rw [exec_debug, execDebug, closed, if_neg Bool.false_ne_true, State.tapLoad_of_good good]
  · rw [Board.pad_of_cell warm cell drives]
    refine ⟨fun floats => ?_, fun holds undriven => ?_, fun holds driven => ?_⟩
    · rw [if_pos floats]
    · rw [holds, undriven, if_neg Bool.false_ne_true, if_pos rfl]
    · simp only [holds, driven, Bool.false_eq_true, if_false, Bool.true_eq_false]

/-! ### The test facilities (R554 to R568) -/

/-- Settles O39: each command's meaning by whether its conditions hold. -/
theorem testFacilitiesTakeEffect : Obligations.TestFacilitiesTakeEffect := by
  unfold Obligations.TestFacilitiesTakeEffect
  refine ⟨?_, ?_, ?_, ?_, ?_, ?_, ?_, fun _ _ _ => rfl, ?_, ?_, fun _ _ => rfl, ?_, ?_⟩
  · rintro s t rfl
    simp only [exec_mcTestRelease, execMcTestRelease, State.testRelease, Bool.and_eq_true, decide_eq_true_eq]
  · intro pc s closed
    simp only [exec_hbTestEnter, execHbTestEnter, State.testEnter, exec_hbTestLeave, execHbTestLeave, State.testLeave, closed,
      Bool.not_false, if_true, and_self]
  · rintro pc s t opened rfl
    rw [exec_hbTestEnter, execHbTestEnter, State.testEnter]
    simp only [opened, Bool.not_true, Bool.false_eq_true, if_false]
    generalize s.setFld F.HB_TEST_SEL_PC pc.toNat = t
    cases t.memMap.evac with
    | none =>
      simp only [State.testRefused, Bool.and_eq_true, Bool.or_eq_true, decide_eq_true_eq, Bool.not_false, and_true,
        Option.map_none, Option.getD_none]
    | some u =>
      simp only [State.testRefused, Bool.and_eq_true, Bool.or_eq_true, decide_eq_true_eq, and_assoc, Option.map_some,
        Option.getD_some, Bool.not_eq_true']
  · rintro pc s t u k p opened rfl rfl rfl rfl
    simp only [exec_hbTestLeave, execHbTestLeave, State.testLeave, State.testRefused, opened, Bool.not_true,
      Bool.false_eq_true, if_false, Bool.and_eq_true, Bool.or_eq_true]
  · intro m s
    rw [exec_mcBistStart, execMcBistStart, State.bistStart]
    cases s.hook 4 with
    | false => simp only [Bool.not_false, if_true, true_or]
    | true =>
      by_cases idle : s.fld F.MC_BIST_BUSY = 0
      · simp only [idle, Bool.not_true, Bool.false_eq_true, if_false, Bool.and_eq_true, Bool.or_eq_true, decide_eq_true_eq,
          Bool.true_eq_false, ne_eq, not_true_eq_false, or_self, true_and, if_true]
      · simp only [idle, Bool.not_true, Bool.false_eq_true, if_false, decide_false, Bool.false_and, ne_eq,
          not_false_eq_true, or_true, if_true]
  · intro n s idle
    simp only [exec_mcBistDone, execMcBistDone, idle, if_false]
  · rintro n s t u m code runs rfl rfl rfl rfl
    simp only [exec_mcBistDone, execMcBistDone, runs, if_true, Bool.and_eq_true, decide_eq_true_eq, State.spareFails]
  · intro b n e l s
    simp only [exec_loopbackStop, execLoopbackStop, ite_next, Bool.and_eq_true, decide_eq_true_eq]
  · intro b s
    simp only [exec_loopbackLock, execLoopbackLock, ite_next, Bool.and_eq_true, decide_eq_true_eq]
  · intro b n s
    simp only [exec_loopbackLockTimeout, execLoopbackLockTimeout, ite_next, Bool.and_eq_true, decide_eq_true_eq, and_assoc]
    rfl
  · intro b n e l s
    simp only [exec_loopbackDurationEnd, execLoopbackDurationEnd, ite_next, Bool.and_eq_true, decide_eq_true_eq, and_assoc]
    rfl

/-! ### Frames: what a management, Pattern, security, board or test command may change -/

/-- Settles O60: each command's law of Laws/Inv*.lean names exactly the fields that the statement names. -/
theorem managementCommandsChangeOnly : Obligations.ManagementCommandsChangeOnly := by
  unfold Obligations.ManagementCommandsChangeOnly
  refine ⟨⟨?_, ?_⟩, ?_, ?_, ⟨?_, ?_, ?_, ?_, ?_⟩, ?_, ?_, ?_, ?_, ⟨?_, ?_, ?_, ?_, ?_, ?_, ?_, ?_, ?_⟩, ⟨?_, ?_, ?_⟩, ?_, ?_,
    ⟨?_, ?_⟩, ⟨?_, ?_, ?_, ?_⟩, ?_, ?_, ?_, ?_, ?_, ?_, ⟨?_, ?_⟩, ⟨?_, ?_, ?_, ?_, ?_, ?_, ?_, ?_, ?_⟩, ?_, ⟨?_, ?_, ?_⟩, ?_,
    ?_, ⟨?_, ?_, ?_⟩, ?_, ?_⟩
  · exact fun b ty ours data => changes_of_inv fun s => execMctpMessage_inv b ty ours data s
  · exact fun b off data => changes_of_inv fun s => execRequestFirmwareData_inv b off data s
  · exact fun b eid => changes_of_inv fun s => execSetEndpointId_inv b eid s
  · exact fun b cmd => changes_of_inv fun s => execPldmDiscovery_inv b cmd s
  · exact fun b cmd sensor => changes_of_inv fun s => execPldmPlatform_inv b cmd sensor s
  · exact fun id v => changes_of_inv fun s => execSensorSample_inv id v s
  · exact fun ch => changes_of_inv fun s => execGetInfo_inv ch s
  · exact fun ch => changes_of_inv fun s => execReadSensor_inv ch s
  · exact fun ch => changes_of_inv fun s => execReadTelemetry_inv ch s
  · exact fun b cmd => changes_of_inv fun s => execPldmFru_inv b cmd s
  · exact fun b => changes_of_inv fun s => execRequestUpdate_inv b s
  · exact fun b ident size => changes_of_inv fun s => execUpdateComponent_inv b ident size s
  · exact fun b => changes_of_inv fun s => execActivateFirmware_inv b s
  · exact fun ch => changes_of_inv fun s => execGetSwatch_inv ch s
  · exact fun ch => changes_of_inv fun s => execReadSwatch_inv ch s
  · exact fun ch => changes_of_inv fun s => execEnrollOwnerKey_inv ch s
  · exact fun ch => changes_of_inv fun s => execKeyStage_inv ch s
  · exact fun ch => changes_of_inv fun s => execGetChallenge_inv ch s
  · exact fun ch => changes_of_inv fun s => execFwSetMinSvn_inv ch s
  · exact fun ch => changes_of_inv fun s => execGetIdentity_inv ch s
  · exact fun ch => changes_of_inv fun s => execResetCold_inv ch s
  · exact fun ch => changes_of_inv fun s => execResetWarm_inv ch s
  · exact fun ch => changes_of_inv fun s => execFwBegin_inv ch s
  · exact fun ch => changes_of_inv fun s => execFwData_inv ch s
  · exact fun ch => changes_of_inv fun s => execFwEnd_inv ch s
  · exact changes_of_inv fun s => execChallengeExpiry_inv s
  · exact fun ch => changes_of_inv fun s => execNcRelease_inv ch s
  · exact fun ch => changes_of_inv fun s => execSlotInfo_inv ch s
  · exact fun ch => changes_of_inv fun s => execSetMinSvn_inv ch s
  · exact fun ch => changes_of_inv fun s => execSlotBegin_inv ch s
  · exact fun ch => changes_of_inv fun s => execSlotData_inv ch s
  · exact fun ch => changes_of_inv fun s => execSlotEnd_inv ch s
  · exact fun ch => changes_of_inv fun s => execSlotErase_inv ch s
  · exact changes_of_inv fun s => execSessionTimeout_inv s
  · exact changes_of_inv fun s => execLockTimeout_inv s
  · exact changes_of_inv fun s => execPowerGood_inv s
  · exact changes_of_inv fun s => execTripClear_inv s
  · exact fun ma => changes_of_inv fun s => execCurrentGuardSample_inv ma s
  · exact changes_of_inv fun s => execTrefLost_inv s
  · exact changes_of_inv fun s => execTrefInUse_inv s
  · exact changes_of_inv fun s => execOcxoWarm_inv s
  · exact changes_of_inv fun s => execTapReset_inv s
  · exact changes_of_inv fun s => execBypass_inv s
  · exact fun cells => changes_of_inv fun s => execSamplePreload_inv cells s
  · exact changes_of_inv fun s => execExtest_inv s
  · exact changes_of_inv fun s => execClamp_inv s
  · exact changes_of_inv fun s => execHighz_inv s
  · exact changes_of_inv fun s => execExtestPulse_inv s
  · exact changes_of_inv fun s => execExtestTrain_inv s
  · exact changes_of_inv fun s => execDebug_inv s
  · exact changes_of_inv fun s => execIdcode_inv s
  · exact fun pc => changes_of_inv fun s => execHbTestEnter_inv pc s
  · exact fun pc => changes_of_inv fun s => execHbTestLeave_inv pc s
  · exact fun m => changes_of_inv fun s => execMcBistStart_inv m s
  · exact fun failUnit => changes_of_inv fun s => execMcBistDone_inv failUnit s
  · exact fun b v => changes_of_inv fun s => execLoopbackStart_inv b v s
  · exact fun b n e l => changes_of_inv fun s => execLoopbackStop_inv b n e l s
  · exact fun b n => changes_of_inv fun s => execLoopbackLockTimeout_inv b n s
  · exact fun b n e l => changes_of_inv fun s => execLoopbackDurationEnd_inv b n e l s
  · exact fun b => changes_of_inv fun s => execLoopbackLock_inv b s
  · exact fun h => changes_of_inv fun s => execNodeCoreTimer_inv h s

end Sys2Proof.Machine
end
